-- ==== Sys2Proof/Word.lean ====
section
/-! DEFINITION. The words the Keard block's registers, records and rows are made of, and their plainest arithmetic:
bit ranges as the manual writes them (R15), little-endian bytes (R16), and records packed from the most significant
field down, in the order of the manual's field maps. -/

namespace Sys2Proof

/-- A binary32 pattern (R108). -/
abbrev F32 := BitVec 32

/-- A BF16 pattern: the upper half of a binary32 (R99). -/
abbrev BF16 := BitVec 16

/-- A binary16 pattern, the form of a group scale (R125). -/
abbrev F16 := BitVec 16

/-- The bit range [hi:lo] of a word, both ends included (R15). -/
def bits (hi lo w : Nat) : Nat := (w >>> lo) % 2 ^ (hi + 1 - lo)

/-- Bit i of a word. -/
def bit (i w : Nat) : Bool := w.testBit i

/-- A word packed from fields given most significant first, each with its width: the order of the manual's field maps. -/
def packMsb (fields : List (Nat × Nat)) : Nat :=
  fields.foldl (fun acc f => acc * 2 ^ f.1 + f.2 % 2 ^ f.1) 0

/-- n bytes of a word, least significant first (R16). -/
def bytesLe : Nat → Nat → List Nat
  | 0, _ => []
  | n + 1, w => (w % 256) :: bytesLe n (w / 256)

/-- The word that little-endian bytes spell (R16). -/
def ofBytesLe : List Nat → Nat
  | [] => 0
  | b :: rest => b % 256 + 256 * ofBytesLe rest

/-- The value of the low w bits of n read as two's complement. -/
def signed (w n : Nat) : Int :=
  if n % 2 ^ w < 2 ^ (w - 1) then (n % 2 ^ w : Nat) else ((n % 2 ^ w : Nat) : Int) - (2 : Int) ^ w

/-- The low w bits of an integer in two's complement. -/
def unsigned (w : Nat) (i : Int) : Nat := (i % (2 : Int) ^ w).toNat

/-- A value held between two bounds. -/
def clampNat (lo hi n : Nat) : Nat := if n < lo then lo else if hi < n then hi else n

/-- An integer held between two bounds. -/
def clampInt (lo hi n : Int) : Int := if n < lo then lo else if hi < n then hi else n

/-- A count that saturates at the top of w bits. -/
def satAdd (w n k : Nat) : Nat := if n + k < 2 ^ w then n + k else 2 ^ w - 1

/-- The quotient rounded up. -/
def ceilDiv (a b : Nat) : Nat := (a + b - 1) / b

/-- 1 for true and 0 for false: a flag as the bit that holds it. -/
def flag (b : Bool) : Nat := if b then 1 else 0

end Sys2Proof
end

