-- ==== Sys2Proof/Syntax.lean ====
section
/-! DEFINITION. The commands of the block: one constructor of Instr for each row of spec/opcode_table.json, with the
operands the row's rule gives it. An operand holds what reaches the block from outside (a register write, a frame, a
reading), or what the spec leaves open and the surroundings or a neighbour unit decide (log entry 19). A command the
manual stamps carries cyc, the control cycle in which it arrives within the present beat (R48). -/

namespace Sys2Proof

/-- Class of a loop and of its steps (R45). -/
inductive Cls where
  | lc | be
  deriving DecidableEq, Repr, Inhabited

/-- A stamp: beat number and control cycle, 0 to 4,999 (R47, R48). -/
structure Stamp where
  beat : Nat := 0
  cyc : Nat := 0
  deriving DecidableEq, Repr, Inhabited

/-- Terminal statuses (R18, R19). -/
inductive Status where
  | ok | stop | length | screenStop | screenBlock | cancelled | budget | noPages
  | stepLost | badHandle | expired | sealFail | alreadyDone | fenced | clamped
  deriving DecidableEq, Repr, Inhabited

/-- Principals of object access (R308). -/
inductive Principal where
  | driver | bmc | officer
  deriving DecidableEq, Repr, Inhabited

/-- Management paths (R309): the object window, the management ring pair, MCTP over PCIe, and MCTP over I3C through the
target of a segment. -/
inductive Endpoint where
  | window | ringPair | pcie
  | i3c (seg : Nat)
  deriving DecidableEq, Repr, Inhabited

/-- A message path: the endpoint, and the secured SPDM session that carries the message, if any (R309, R338). -/
structure Path where
  ep : Endpoint := .window
  session : Option Nat := none
  deriving DecidableEq, Repr, Inhabited

/-- Sides of a segment on the mesh and its die-to-die modules (R20, R23). -/
inductive Dir where
  | north | east | south | west
  deriving DecidableEq, Repr, Inhabited

/-- The two arrays of a segment (R20). -/
inductive Arr where
  | ma0 | ma1
  deriving DecidableEq, Repr, Inhabited

/-- Why a Beat Unit treats its reference as lost (R41). -/
inductive RefLoss where
  | edgesMissing | ppsMissing | ppsOff | todDisagrees
  deriving DecidableEq, Repr, Inhabited

/-- A supply source (R380). -/
inductive Source where
  | rail (seg : Nat)
  | feed
  deriving DecidableEq, Repr, Inhabited

/-- A KLF chunk as it travels: header fields of R130, payload of R131, the routing of the frame (R24), and the slot of the transfer
descriptor it belongs to, which R129 writes it by and the header does not carry (log entry 43). -/
structure Frame where
  src : Nat := 0
  dest : Nat := 0
  slot : Nat := 0
  stream : Nat := 0
  chunk : Nat := 0
  exp : Int := 0
  esc : Bool := false
  under : Bool := false
  sat : Nat := 0
  redop : Nat := 0
  passTag : Nat := 0
  codes : List Int := []
  raw : List BF16 := []
  down : Bool := false
  deriving DecidableEq, Repr, Inhabited

/-- A row list template of a step program: its 64-bit head and its entries, fixed entries, decode slots and prefill slots in order (R60). -/
structure RowTmpl where
  head : Nat := 0
  entries : List Nat := []
  deriving DecidableEq, Repr, Inhabited

/-- An outlier list of a step program: its 64-bit head and its entries (R113). -/
structure OutList where
  head : Nat := 0
  entries : List Nat := []
  deriving DecidableEq, Repr, Inhabited

/-- A step program as delivered: the words of R52 to R60 and R113. -/
structure ProgramImage where
  header : Nat := 0
  slots : List Nat := []
  rowLists : List RowTmpl := []
  outliers : List OutList := []
  deriving DecidableEq, Repr, Inhabited

/-- A rescale table as R118 lays it out: header word, entries of all column tiles, side rows of all column tiles. The number
that a sweep's TABLE names it by, and the segment whose shard it serves, come with the image (log entry 22). -/
structure RTable where
  num : Nat := 0
  seg : Option Nat := none
  header : Nat := 0
  entries : List Nat := []
  side : List (List BF16) := []
  deriving DecidableEq, Repr, Inhabited

/-- What a sender set an HPKE context up with (R333): the suite, the mode, the 97-byte encapsulated key, the key pair sealed to, the sender's
public key in mode auth, and the info. -/
structure HpkeSeal where
  suite : List Nat := []
  mode : Nat := 0
  enc : Nat := 0
  key : Nat := 0
  sender : Nat := 0
  info : List Nat := []
  deriving DecidableEq, Repr, Inhabited

/-- A chunk of a sealed image (R342): the label its key was exported under, the nonce and additional data it was sealed with, its plaintext
bytes, and whether ciphertext and tag are as sealed. -/
structure SealedChunk where
  label : Nat := 0
  nonce : List Nat := []
  aad : List Nat := []
  bytes : Nat := 0
  intact : Bool := false
  deriving DecidableEq, Repr, Inhabited

/-- A sealed image as delivered (R342): header, length, the owner's public key (its coordinates), what it is sealed with, its chunks, and its
plaintext digest material. -/
structure SealedImage where
  header : Nat := 0
  bytes : Nat := 0
  ownerKey : Nat := 0
  hpke : HpkeSeal := {}
  chunks : List SealedChunk := []
  content : List Nat := []
  deriving DecidableEq, Repr, Inhabited

/-- The plaintext of a model image: descriptor (R203), rescale tables, and the bytes it places in the stack of each
segment. -/
structure ModelPlain where
  desc : Nat := 0
  tables : List RTable := []
  weights : List (Nat × Nat × List Nat) := []
  deriving DecidableEq, Repr, Inhabited

/-- The plaintext of an index image (R231, R232): descriptor, the largest COUNT of a sublist, vectors on each segment by its
place in the partition, bytes of the index on one segment, and the bytes it places in the stack of each segment. -/
structure IndexPlain where
  desc : Nat := 0
  maxCount : Nat := 0
  segVectors : List Nat := []
  segBytes : Nat := 0
  content : List (Nat × Nat × List Nat) := []
  deriving DecidableEq, Repr, Inhabited

/-- A pattern of a rule set (R266). -/
structure Pattern where
  action : Nat := 0
  tag : Nat := 0
  span : Nat := 1
  deriving DecidableEq, Repr, Inhabited

/-- A category entry of a verdict map (R271). -/
structure Category where
  threshold : F32 := 0
  action : Nat := 0
  tag : Nat := 0
  enabled : Bool := false
  deriving DecidableEq, Repr, Inhabited

/-- The plaintext of a rule set image: header (R265), the parts of R266 and those of R271. -/
structure RulePlain where
  header : Nat := 0
  classMap : List Nat := []
  trans : List Nat := []
  patterns : List Nat := []
  matchList : List Nat := []
  mapHead : Nat := 0
  replacement : List Nat := []
  categories : List Nat := []
  deriving DecidableEq, Repr, Inhabited

/-- The plaintext of a detokeniser table (R269): header word, entry words and byte pool. -/
structure DetokPlain where
  header : Nat := 0
  entries : List Nat := []
  pool : List Nat := []
  deriving DecidableEq, Repr, Inhabited

/-- A kernel image (R159): the fields the block reads, and whether its signature verifies. -/
structure KernelImage where
  id : Nat := 0
  abi : Nat := 0
  bytes : Nat := 0
  sigOk : Bool := false
  content : List Nat := []
  deriving DecidableEq, Repr, Inhabited

/-- A SUB record of 64 bytes (R300), as one word. -/
abbrev SubRecord := Nat

/-- A stop entry of a request body (R206). -/
structure StopEntry where
  len : Nat := 0
  tokens : List Nat := []
  deriving DecidableEq, Repr, Inhabited

/-- A retrieval block (R234): header word, query tokens or query vector. -/
structure RetrBlock where
  header : Nat := 0
  tokens : List Nat := []
  vector : List BF16 := []
  deriving DecidableEq, Repr, Inhabited

/-- A request envelope as the manager reads it (R339): whether the DMA read failed, the clear header, what it is sealed with, its additional
data, whether ciphertext and tag are as sealed, and the plaintext body (R206) with its length in bytes. -/
structure Envelope where
  readError : Bool := false
  header : Nat := 0
  hpke : HpkeSeal := {}
  aad : List Nat := []
  intact : Bool := false
  bodyBytes : Nat := 0
  bodyHeader : Nat := 0
  stops : List StopEntry := []
  prompt : List Nat := []
  retrieval : Option RetrBlock := none
  deriving DecidableEq, Repr, Inhabited

/-- The logits of one row of one sequence, shard by shard in partition order, each shard from its lowest token ID (R205,
R212), already widened to binary32. -/
structure LogitRow where
  seq : Nat := 0
  node : Nat := 0
  shards : List (List F32) := []
  deriving DecidableEq, Repr, Inhabited

/-- What a segment reports of retrieval stages with its commit descriptor (R238): for stage E a query's coarse list with the
embedding it came from, for stage R a candidate's score. -/
inductive StageReport where
  | coarse (seq : Nat) (lists : List (Nat × F32)) (vector : List BF16) (poison : Bool)
  | score (seq : Nat) (place : Nat) (value : F32)
  | chunk (seq window : Nat) (scores : List F32)
  | group (seq : Nat) (gid : Nat) (scores : List F32)
  deriving DecidableEq, Repr, Inhabited

/-- Keys and values one kernel thread group writes for one position of one block record entry (R176). -/
structure KvEntry where
  seg : Nat := 0
  model : Nat := 0
  slot : Nat := 0
  pos : Nat := 0
  key : List Int := []
  kScale : F16 := 0
  val : List Int := []
  vScale : F16 := 0
  deriving DecidableEq, Repr, Inhabited

/-- What a kernel does by the time it completes (R161), in its order. The code of a signed kernel is not in the spec: what it writes
is a function of all that it reads (R166), and a piece says where. `bytes` and `stack` are one access to its staging SRAM allocation
and to its partition's stack region (R157); `host` is a write to host memory that a transfer of its step names; `row` writes an
activation row of `count` elements with its statistics record, and `stats` the record of a row already written (R104); `kv`
quantises head vectors into the KV entry of a row's position (R125, R176, R179). `attention` is the standard attention kernel
(R171) on all the query heads of one row, whose output the model computes: the output row and the query row in staging SRAM, the
number of query heads, the byte address of the softmax factor in the argument block (R171), the row of a row list (R60), and the layer of
the target or the draft model. -/
inductive KernelWork where
  | bytes (addr count : Nat)
  | stack (addr count : Nat)
  | host (addr count : Nat)
  | attention (out query heads factor list row : Nat) (draft : Bool) (layer : Nat)
  | row (unit count : Nat)
  | stats (unit count : Nat)
  | kv (list row : Nat) (draft : Bool) (slot : Nat)
  deriving DecidableEq, Repr, Inhabited

/-- What a kernel has done when it completes: its pieces of work, in order, and the bytes of host memory that it read (R161, R166). -/
structure KernelDone where
  pieces : List KernelWork := []
  host : List Nat := []
  deriving DecidableEq, Repr, Inhabited

/-- What a scan group reports at its end: cycles its lanes were held, codes read for queries that went inactive, and the bytes of codes that
it read in the window of 2,000 arithmetic cycles that it ends in (R244, R257). -/
structure ScanStalls where
  windowBytes : Nat := 0
  heldCycles : Nat := 0
  idleCodes : Nat := 0
  deriving DecidableEq, Repr, Inhabited

/-- A cycle of the beat, and a segment. -/
structure SegAt where
  cyc : Nat := 0
  seg : Nat := 0
  deriving DecidableEq, Repr, Inhabited

/-- A request on a segment's own target channel: its cycle of the beat, and its tag (R401). -/
structure ReqAt where
  cyc : Nat := 0
  seg : Nat := 0
  tag : Nat := 0
  deriving DecidableEq, Repr, Inhabited

/-- The port of a request of the host, and its tag (R401). -/
structure PortTag where
  port : Nat := 0
  tag : Nat := 0
  deriving DecidableEq, Repr, Inhabited

/-- A cycle of the beat, and a word. -/
structure WordAt where
  cyc : Nat := 0
  word : Nat := 0
  deriving DecidableEq, Repr, Inhabited

/-- A cycle of the beat, and the path a message came by. -/
structure PathAt where
  cyc : Nat := 0
  path : Path
  deriving DecidableEq, Repr

/-- What one end of a link shows at training (R347): whether its certificate chains to the provisioning root, the SERIAL and the segment that
the certificate names, and whether the signature of its ephemeral key verifies. -/
structure LinkCert where
  chains : Bool := false
  serial : Nat := 0
  segment : Nat := 0
  signed : Bool := false
  deriving DecidableEq, Repr, Inhabited

/-- What the two ends of a link show each other at training: the segment named by the command, and the segment at the other end. -/
structure LinkAuth where
  near : LinkCert := {}
  far : LinkCert := {}
  deriving DecidableEq, Repr, Inhabited

/-- How the retraining of a link ends (R145): good, or failed with so many frames of the segment's own output module, and of its
neighbour's, in the link (log entry 43). -/
inductive Retraining where
  | good (auth : LinkAuth)
  | failed (inLink inBack : Nat)
  deriving DecidableEq, Repr, Inhabited

/-- Why a kernel faults (R164). -/
inductive KernelCause where
  | outOfRegion | unaligned | notPermitted | header
  deriving DecidableEq, Repr, Inhabited

/-- Where an uncorrectable data-path error lies (R353, R354): the step of the pass whose row tag the value carried, the word of
staging SRAM, a step named otherwise, a scan lane, or nothing that names a step. -/
inductive DataSource where
  | array (part : Nat) (cls : Cls)
  | staging (unit : Nat)
  | step (part : Nat) (cls : Cls)
  | scanLane
  | nameless
  deriving DecidableEq, Repr, Inhabited

/-- A cache that moves between tiers (R196): a directory entry or a live sequence. -/
inductive CacheRef where
  | entry (slot : Nat)
  | seq (idx : Nat)
  deriving DecidableEq, Repr, Inhabited

/-- The headers of a dim record as a fetch has read them back, their tags verified: the record header, and the frame headers in the
record's order (R193, R195). -/
structure DimRead where
  cache : CacheRef := .seq 0
  header : Nat := 0
  frames : List Nat := []
  deriving DecidableEq, Repr, Inhabited

/-- Region of a stack that holds a failed unit (R173, R356): a page of the page pool, a table page of the table pool, or an interleaved
unit of another region. -/
inductive StackRegion where
  | pagePool (page : Nat)
  | tablePool (page : Nat)
  | modelArea | retrievalArea | screenRegion | blockReserve
  deriving DecidableEq, Repr, Inhabited

/-- What reading a passage record found (R250, R251): its clear header and the tokens that its tag verifies, or a failure. -/
inductive FetchResult where
  | opened (header : Nat) (tokens : List Nat)
  | dmaError | tagFail
  deriving DecidableEq, Repr, Inhabited

/-- Whose passage a fetch serves (R251): a candidate of the plan of a live sequence, or what a span manager has asked of this
worker. -/
inductive FetchFor where
  | cand (seq : Nat)
  | ask (id : Nat)
  deriving DecidableEq, Repr, Inhabited

/-- What a frame that fails its tag on a link carried (R25, R145): a KLF frame, or control messages or page moves of the steps
listed. -/
inductive LinkTraffic where
  | klf (frame : Frame)
  | other (steps : List (Nat × Cls))
  deriving DecidableEq, Repr, Inhabited

/-- A frame that fails its tag: what it carried, and how many frames of either direction are in the link should the module be marked
failed (R145, log entry 43). -/
structure TagFailure where
  traffic : LinkTraffic
  inLink : Nat := 0
  inBack : Nat := 0
  deriving DecidableEq, Repr

/-- The 24-byte span header as the receiver reads it (R150), with its datagram's source address. TYPE is the command's own. -/
structure SpanHeader where
  major : Nat := 3
  minor : Nat := 2
  block : Nat := 0
  session : Nat := 0
  seq : Nat := 0
  ack : Nat := 0
  length : Nat := 0
  records : Nat := 0
  /-- the IPv6 source address of its datagram (R411) -/
  source : Nat := 0
  deriving DecidableEq, Repr, Inhabited

/-- A KLF record of a span datagram: the chunk with its KLF header, and the fields of the span prefix (R153). -/
structure KlfRecord where
  frame : Frame := {}
  scale : F32 := 0
  destSeg : Nat := 0
  window : Nat := 0
  offset : Nat := 0
  deriving DecidableEq, Repr, Inhabited

/-- A QUERY record (R246). -/
structure QueryRec where
  deadline : Nat := 0
  tag : Nat := 0
  indexId : Nat := 0
  nprobe : Nat := 0
  scanK : Nat := 0
  dim : Nat := 0
  vector : List BF16 := []
  deriving DecidableEq, Repr, Inhabited

/-- A HEAP_RESULT record: QUERY_TAG, FIRST, its entries and LAST (R247). -/
structure HeapRec where
  tag : Nat := 0
  first : Nat := 0
  entries : List (Nat × F32) := []
  last : Bool := false
  deriving DecidableEq, Repr, Inhabited

/-- A datagram of records: its span header, and the records that stand in it after the first, which is the command's own (R150). -/
structure Datagram (α : Type) where
  head : SpanHeader := {}
  more : List α := []
  deriving DecidableEq, Repr, Inhabited

/-- A frame that the span port receives (R411): SP_RX_ERR, destination MAC, EtherType, the IPv6 header's next header, extension header,
source and destination, and the UDP ports, checksum and bytes after the UDP header. -/
structure RxFrame where
  rxErr : Bool := false
  mac : Nat := 0
  etherType : Nat := 0
  next : Nat := 0
  extension : Bool := false
  source : Nat := 0
  dest : Nat := 0
  srcPort : Nat := 0
  port : Nat := 0
  checksum : Nat := 0
  data : List Nat := []
  deriving DecidableEq, Repr, Inhabited

/-- The payload of SESSION_OPEN and SESSION_ACCEPT that a receiver checks, public keys by their coordinates, and whether the signature
verifies under the identity key it carries (R348). -/
structure SpanHello where
  nonce : Nat := 0
  ephemeral : Nat := 0
  identity : Nat := 0
  fwDigest : Nat := 0
  sigOk : Bool := false
  deriving DecidableEq, Repr, Inhabited

/-- A CANDIDATE_REF record (R251): a request for a passage, or pieces of one. -/
inductive CandRef where
  | ask (ref tag : Nat)
  | piece (ref tag offset : Nat) (tokens : List Nat) (last failed : Bool)
  deriving DecidableEq, Repr, Inhabited

/-- A reset input of a segment (R400). -/
inductive ResetInput where
  | aoPor | cold | warm
  deriving DecidableEq, Repr, Inhabited

/-- What the test port writes in BLANK or PROVISIONED (R92, R95, R145). A module marked failed loses the frames in its link, so many of
each direction. -/
inductive TestWrite where
  | colRemap0 (arr : Arr) (word : Nat)
  | colRemap1 (arr : Arr) (word : Nat)
  | colFault (arr : Arr) (k word : Nat)
  | moduleFailed (dir : Dir) (inLink inBack : Nat)
  deriving DecidableEq, Repr, Inhabited

/-- What provisioning blows and writes (R329, R419). -/
structure ProvData where
  enable : Bool := true
  licensee : Nat := 0
  dieRev : Nat := 0
  jedec : Nat := 0
  mipi : Nat := 0
  serial : Nat := 0
  staticAddr : Nat := 0
  pufHelper : Nat := 0
  seed : Nat := 0
  cert : List Nat := []
  chain : List Nat := []
  imageKey : Nat := 0
  officerRoots : List Nat := []
  deriving DecidableEq, Repr, Inhabited

/-- A time-of-day word presented before a PPS edge, with TOD_VALID high: how many ns before the edge it began to stand, and how many
ns before the edge it ended, 0 where it still stands (R414). -/
structure TodWord where
  sec : Nat := 0
  sinceNs : Nat := 0
  untilNs : Nat := 0
  deriving DecidableEq, Repr, Inhabited

/-- How the commands name an object access message's header: transfer, index, subindex, flags and sizes (R313). -/
structure OamHead where
  transfer : Nat := 0
  index : Nat := 0
  sub : Nat := 0
  count : Nat := 0
  size : Nat := 0
  toggle : Bool := false
  last : Bool := false
  staged : Bool := false
  indirect : Bool := false
  deriving DecidableEq, Repr, Inhabited

/-- The commands of the block, one constructor for each row of the table, in the table's order. -/
inductive Instr where
  | beatEdge (slewPs : Int) (temps : List Int)
  | ppsEdge (seg : Nat) (tod : List TodWord) (inTime : Bool) (offsetNs : Int)
  | refLost (seg : Nat) (cause : RefLoss)
  | refRestored (offsetNs : Int)
  | refConverged
  | beatSourceChange (seg : Nat) (skewNs : Int)
  | tokenRefill
  | heartbeat
  | heartbeatReceive (seg stampBeat : Nat)
  | heartbeatAckTimeout (cyc seg : Nat)
  | mirrorDeltaApply (seqNo : Nat)
  | mirrorCopyComplete
  | launch (cyc part : Nat) (cls : Cls) (program repeats : Nat)
  | stop (cyc part : Nat) (cls : Cls)
  | stepDoorbellReservedOp (cyc part op : Nat) (cls : Cls) (program : Nat)
  | freeze (part : Nat) (cls : Cls)
  | stepLaunch (part : Nat) (cls : Cls)
  | descriptorIssue (seg part : Nat) (cls : Cls) (slot : Nat)
  | passArm (seg : Nat) (arr : Arr) (stall : Nat)
  | tileLoadComplete (seg : Nat) (arr : Arr) (part : Nat) (cls : Cls) (slot : Nat)
  | statisticsPass (seg part : Nat) (cls : Cls) (slot : Nat)
  | sweepComplete (seg part : Nat) (cls : Cls) (slot : Nat)
  | stagingAllocate (seg part : Nat) (cls : Cls) (units base : Nat)
  | abandonReport (cyc part : Nat)
  | abandonComplete (part : Nat)
  | kernelStart (seg part : Nat) (cls : Cls) (slot : Nat)
  | kernelComplete (seg part : Nat) (cls : Cls) (slot issueCycles : Nat) (work : KernelDone)
  | kernelFault (cyc seg part : Nat) (cls : Cls) (slot : Nat) (cause : KernelCause)
  | kernelBoundExceeded (seg part : Nat) (cls : Cls) (slot : Nat)
  | klfFrameReceive (seg : Nat) (frame : Frame)
  | transferComplete (seg part : Nat) (cls : Cls) (slot : Nat) (hostData : List Nat)
  | hubClearReport (seg part : Nat) (cls : Cls)
  | commitDescriptorReached (seg part : Nat) (cls : Cls) (reports : List StageReport)
  | draftLevel (part : Nat) (cls : Cls) (level : Nat) (rows : List LogitRow)
  | managerDraw (part : Nat) (cls : Cls) (rows : List LogitRow)
  | compactionComplete (seg part : Nat) (cls : Cls)
  | commitPoint (cyc part : Nat) (cls : Cls)
  | stepHang (part : Nat) (cls : Cls)
  | groupClose (seq : Nat)
  | subRequest (cyc ring : Nat) (rec : SubRecord) (env : Envelope)
  | cancel (cyc ring : Nat) (rec : SubRecord)
  | subReservedKind (cyc ring : Nat) (rec : SubRecord)
  | admission (part : Nat) (cls : Cls)
  | joinWaitExpiry (part : Nat)
  | resumption (part : Nat)
  | completionRecordWrite (seq : Nat)
  | dimWriteComplete (cache : CacheRef)
  | dimFetchComplete (read : DimRead)
  | dimReadBackFail (cyc : Nat) (cache : CacheRef)
  | probeListReceive (seg seq : Nat)
  | scanGroupStart (seg : Nat)
  | scanGroupEnd (seg : Nat) (stalls : ScanStalls)
  | scanHeapMerge (seq : Nat)
  | spanMerge (seq : Nat)
  | passageFetchComplete (owner : FetchFor) (place : Nat) (result : FetchResult)
  | handOver (seq : Nat)
  | rulesetLoad (cyc : Nat) (path : Path) (transfer : Nat) (image : SealedImage) (plain : RulePlain)
  | rulesetInstall (slot : Nat)
  | detokLoad (cyc : Nat) (path : Path) (transfer : Nat) (image : SealedImage) (plain : DetokPlain)
  | snareStreamStart (seg : Nat)
  | snareMatchReport (seq : Nat)
  | snareLaneError (seg lane : Nat)
  | release (cyc : Nat)
  | lateRelease (cyc : Nat)
  | qdataRead (at_ : ReqAt)
  | holdReadTimeout (seg : Nat)
  | qcontrolWrite (at_ : ReqAt) (word : Nat)
  | queueFlush (at_ : ReqAt)
  | qstatusClear (at_ : ReqAt) (word : Nat)
  | noticeDrain (at_ : SegAt)
  | produce (cyc ring index : Nat)
  | consume (cyc ring index : Nat)
  | ringFlush (cyc ring : Nat)
  | doorbellReservedOp (cyc ring op index : Nat)
  | ringEnable (ring word : Nat)
  | ringDisable (ring word : Nat)
  | ringContextWrite (ring wordNo word : Nat)
  | indexWriteback (ring : Nat)
  | modIntervalEnd (ring : Nat)
  | eventVectorTransfer
  | ringBacklogWrite (ring : Nat)
  | ringPause (seq : Nat)
  | ringWriteRetry (seg tag : Nat)
  | registerWrite (cyc : Nat) (by_ : PortTag) (addr word : Nat)
  | forwardedAccess (cyc : Nat) (by_ : PortTag) (addr : Nat) (isWrite : Bool) (word : Nat)
  | owPush (put : WordAt)
  | owPushLast (put : WordAt)
  | read (cyc : Nat) (path : Path) (head : OamHead) (buffer room : Nat)
  | writeExpedited (cyc : Nat) (path : Path) (head : OamHead) (data : Nat)
  | writeInitiate (cyc : Nat) (path : Path) (head : OamHead) (total source : Nat)
  | segment (cyc : Nat) (path : Path) (head : OamHead) (offset : Nat) (data : List Nat)
  | segmentRequest (cyc : Nat) (path : Path) (head : OamHead)
  | abort (cyc : Nat) (path : Path) (head : OamHead) (code : Nat)
  | oamReservedCmd (by_ : PathAt) (head : OamHead)
  | oamDiscard (by_ : PathAt) (head : OamHead) (headIntact : Bool)
  | transferTimeout (ep : Endpoint) (transfer : Nat)
  | indirectTransferComplete (cyc : Nat) (ep : Endpoint) (transfer : Nat) (error : Bool) (data : List Nat)
  | commit (cyc : Nat) (path : Path) (transfer : Nat)
  | discard (cyc : Nat) (path : Path) (transfer : Nat)
  | programLoad (cyc : Nat) (path : Path) (transfer part : Nat) (image : ProgramImage)
  | streamTable (cyc : Nat) (path : Path) (transfer part : Nat) (entries : List Nat)
  | kernelLoad (cyc : Nat) (path : Path) (transfer part : Nat) (image : KernelImage)
  | indexLoad (cyc : Nat) (path : Path) (transfer part : Nat) (image : SealedImage) (plain : IndexPlain)
  | modelLoad (cyc : Nat) (path : Path) (transfer part : Nat) (image : SealedImage) (plain : ModelPlain)
  | lifecycleAdvance (cyc : Nat) (path : Path) (transfer value : Nat)
  | envelopeKeyRotate (cyc : Nat) (path : Path) (transfer mask : Nat)
  | dimKeyRotate (cyc : Nat) (path : Path) (transfer mask : Nat)
  | dimEpochExhausted (part : Nat)
  | archiveKeys (cyc : Nat) (path : Path) (transfer : Nat) (entries : List (List Nat))
  | archiveKeyInstall (slot : Nat)
  | splitMode (cyc : Nat) (path : Path) (transfer : Nat)
  | rejoinPrepare (cyc : Nat) (path : Path) (transfer : Nat)
  | rejoin (cyc : Nat) (path : Path) (transfer : Nat)
  | rejoinTrainTimeout
  | hushEnter (cyc : Nat) (path : Path) (transfer : Nat)
  | hushEntry
  | wake (cyc : Nat) (path : Path) (transfer : Nat)
  | wakeComplete
  | resetWarm (cyc : Nat) (path : Path)
  | resetCold (cyc : Nat) (path : Path)
  | powerOnReset (seg : Nat)
  | coldReset (seg : Nat)
  | warmReset (seg : Nat)
  | setEndpointId (ep : Endpoint) (eid : Nat)
  | getEndpointId (ep : Endpoint)
  | getMctpVersionSupport (ep : Endpoint) (msgType : Nat)
  | getMessageTypeSupport (ep : Endpoint)
  | getVendorDefinedMessageSupport (ep : Endpoint) (selector : Nat)
  | entdaa (seg addr : Nat)
  | setdasa (seg static addr : Nat)
  | getVersion (ep : Endpoint)
  | getCapabilities (ep : Endpoint)
  | negotiateAlgorithms (ep : Endpoint) (offered : Bool)
  | getDigests (ep : Endpoint)
  | getCertificate (ep : Endpoint) (slot : Nat)
  | challenge (ep : Endpoint) (slot nonce : Nat)
  | getMeasurements (ep : Endpoint) (block : Nat) (sign : Bool) (nonce : Nat)
  | keyExchange (ep : Endpoint) (session : Nat) (mutualRoot : Option Nat)
  | finish (ep : Endpoint) (session : Nat) (ok : Bool)
  | spdmHeartbeat (ep : Endpoint) (session : Nat)
  | keyUpdate (ep : Endpoint) (session : Nat)
  | endSession (ep : Endpoint) (session : Nat)
  | provisioning (seg : Nat) (data : ProvData)
  | correctableError (seg : Nat) (channel : Option Nat)
  | uncorrectableDataError (cyc seg : Nat) (source : DataSource)
  | uncorrectableControlError (cyc seg : Nat)
  | stackReadError (cyc seg channel addr : Nat) (step : Option (Nat × Cls)) (region : StackRegion)
  | screenRegionRestored (seg : Nat)
  | channelRetire (seg channel : Nat)
  | channelRetireComplete (seg channel relocated : Nat)
  | channelFail (cyc seg channel relocated : Nat) (regions : List StackRegion)
  | residueMismatch (cyc seg : Nat) (arr : Arr) (column part : Nat) (cls : Cls)
  | columnRemap (cyc seg : Nat) (arr : Arr)
  | linkDown (seg : Nat) (dir : Dir)
  | linkRetrainingEnd (cyc seg : Nat) (dir : Dir) (outcome : Retraining)
  | linkTagFailure (cyc seg : Nat) (dir : Dir) (failure : TagFailure)
  | detourInstall (cyc : Nat)
  | linkRekey (seg : Nat) (dir : Dir)
  | linkTrained (seg : Nat) (dir : Dir) (fullRate : Bool) (auth : LinkAuth)
  | sessionOpen (hd : SpanHeader) (hello : SpanHello)
  | sessionAccept (hd : SpanHeader) (hello : SpanHello)
  | sessionRefuse (hd : SpanHeader) (reason : Nat)
  | query (gram : Datagram QueryRec) (deadline tag indexId nprobe scanK dim : Nat) (vector : List BF16)
  | heapResult (gram : Datagram HeapRec) (tag first : Nat) (entries : List (Nat × F32)) (last : Bool)
  | candidateRef (hd : SpanHeader) (rec : CandRef) (more : List CandRef)
  | klfData (gram : Datagram KlfRecord) (frame : Frame) (scale : F32) (destSeg window offset : Nat)
  | spanAck (hd : SpanHeader)
  | close (hd : SpanHeader)
  | spanDatagramDrop (frame : RxFrame)
  | spanRetransmit (session seq : Nat)
  | spanSessionRekey (session : Nat) (tx : Bool)
  | spanSessionRenew (session : Nat)
  | spanSessionRetry (peer : Nat)
  | spanLinkDown (stream : Nat)
  | spanWindowRemove (window : Nat)
  | fence (seg : Nat)
  | managerSelfFence
  | confirm (seg : Nat)
  | confirmAnswer (seg : Nat) (silent : Bool)
  | takeover (cyc : Nat) (stale : List Nat)
  | recoveryEnd
  | standbyNaming
  | marginMeasurement (seg : Nat) (marginPs : Int)
  | clockStep (seg : Nat)
  | vreqAck (seg : Nat)
  | feedReading (cyc reading : Nat)
  | railDroopEdge (cyc seg droop : Nat)
  | supplyClear (source : Source)
  | feedStale (cyc seg : Nat)
  | gongResetRelease
  | reducedServiceOpen
  | segmentJoin (seg : Nat)
  | joinDeadline (seg : Nat)
  | fullService
  | dmaWriteResponse (at_ : SegAt) (tag : Nat) (error : Bool)
  | dmaReadComplete (cyc seg tag : Nat) (error : Bool) (data : List Nat)
  | initiatorCreditReturn (seg : Nat) (writeData : Bool)
  | spanLinkUp (stream : Nat)
  | resetRelease (input : ResetInput) (seg : Nat)
  | selfTestComplete (cyc seg : Nat) (ok : Bool) (columns : List (Arr × Nat))
  | stackTrainingComplete (cyc seg : Nat) (ok : Bool)
  | partialBlockCopyComplete (seq : Nat)
  | snareStreamEnd (seg lane : Nat)
  | testPortHold (seg : Nat)
  | testPortRelease (seg : Nat)
  | testPortWrite (seg : Nat) (write : TestWrite)
  | phyUpdateRequest (seg : Nat) (master : Bool)
  deriving DecidableEq, Repr, Inhabited

end Sys2Proof
end

