-- ==== Sys2Proof/Decode.lean ====
section
/-! DEFINITION. The block decodes no words: its commands reach it as events on its ports and in its units, and no row of the table
gives bits (log entry 17). -/

namespace Sys2Proof

/-- The command that a word spells by the table's bits: none, since no row gives bits. -/
def decodeTableWord (_nbits _w : Nat) : Option Instr := none

end Sys2Proof
end

