-- ==== Sys2Proof/Config.lean ====
section
/-! DEFINITION. What the spec leaves open and the block itself computes: free values. None of these has a body, so
no proof can see what they are, and a statement that holds, holds whatever they are. Each is named in the assumption
log. What the spec leaves to the surroundings reaches the machine as an operand of a command instead. -/

namespace Sys2Proof.Config

/-- exp on binary32: the machine holds it to a relative error of at most 2^-20 (R171). Log entry 6, safe. -/
opaque exp : F32 → F32

/-- SiLU on binary32: the machine holds it to the bound of R121. Log entry 6, safe. -/
opaque silu : F32 → F32

/-- GELU in tanh form on binary32: the machine holds it to the bound of R121. Log entry 6, safe. -/
opaque gelu : F32 → F32

/-- The random key the Trust Unit makes at the n-th time of asking (R332). Log entry 16, safe. -/
opaque freshKey : Nat → Nat

/-- Frames that the input buffer of one lane of a link holds beyond the first (R142, R146): the spec gives no depth. Log entry 43,
safe. -/
opaque linkBuffer : Nat

/-- The response of the PUF of a segment's die (R331). Log entry 16, safe. -/
opaque pufResponse : Nat → Nat

/-- The key that a derivation of R331, R347 and R348 gives, from the material named by its argument. Log entry 16, safe. -/
opaque derivedKey : List Nat → Nat

/-- SHA-384 of a list of bytes or words (R336, R343). A standard outside the spec: log entry 5, safe. -/
opaque sha384 : List Nat → Nat

/-- The AES-256-GCM ciphertext and tag of a plaintext under key, 12-byte nonce and additional data (R193, R334, R341). Log entry 5, safe. -/
opaque gcmSeal : (key : Nat) → (nonce : List Nat) → (aad plain : Nat) → Nat × Nat

/-- The HPKE context that a suite, a mode with the 97-byte encapsulated key, the keys of the two sides and an info set up, as RFC 9180 does
(R333). Log entry 5, safe. -/
opaque hpkeContext : (suite : List Nat) → (modeEnc : Nat) → (keys info : List Nat) → Nat

/-- HPKE Export of a context: its label and length (R341, R342). Log entry 5, safe. -/
opaque hpkeExport : (context label len : Nat) → Nat

/-- The AES-256-XTS ciphertext of a 4 KiB data unit under a key and a tweak (R345). Log entry 5, safe. -/
opaque xts : (key tweak : Nat) → List Nat → List Nat

/-- An ECDSA P-384 signature under an identity key (R335, R348). Log entry 5, safe. -/
opaque sign : Nat → List Nat → Nat

/-- A random nonce of a handshake, the n-th drawn (R348). Log entry 16, safe. -/
opaque nonce : Nat → Nat

/-- The n-th value of the contents an SPDM 1.3 response takes from the standard and not from the spec. Log entry 18, safe. -/
opaque spdmContents : Nat → List Nat

/-- The n-th value of the contents an MCTP control response takes from its standard. Log entry 18, safe. -/
opaque mctpContents : Nat → List Nat

/-- A byte that a signed kernel whose code the spec does not give writes: from all that the kernel reads (R166), the space it writes
in and the address. Log entry 8, safe. -/
opaque kernelByte : (inputs : List Nat) → (space addr : Nat) → BitVec 8

/-- The page or table page number that the Cache Mover gives out, from what it is given out for (R178, R179): the spec states no order.
Log entry 7, safe. -/
opaque pageChoice : List Nat → Nat

/-- The entry of a sequence in a kernel's sequence table, from the bytes of its argument block and the sequence's index (R169).
The spec does not give that table's layout. Log entry 44, safe. -/
opaque seqEntry : List Nat → Nat → Nat

/-- A record field or parameter for which the spec states no value: the field's number and the n-th time it is asked. Log
entry 23, safe. -/
opaque unstated : (field n : Nat) → Nat

end Sys2Proof.Config
end

