-- ==== Sys2Proof/Machine/Float.lean ====
section
/-! DEFINITION. The block's floating point: binary32 with results below 2^-126 written as zero (R108), BF16 and FP16
conversions (R99, R124, R125), and the generator Philox4x32-10 (R214). Every operation is computed exactly and rounded
once. -/

namespace Sys2Proof.Machine

/-- A number a pattern stands for: not a number, an infinity, or ± m × 2^e. -/
inductive Fp where
  | nan
  | inf (neg : Bool)
  | fin (neg : Bool) (m : Nat) (e : Int)
  deriving DecidableEq, Repr

/-- The quiet NaN the block writes (R108). -/
def f32Nan : F32 := 0x7FC00000

/-- An infinity of a sign. -/
def f32Inf (neg : Bool) : F32 := if neg then 0xFF800000 else 0x7F800000

/-- A zero of a sign. -/
def f32Zero (neg : Bool) : F32 := if neg then 0x80000000 else 0

/-- 1.0 -/
def f32One : F32 := 0x3F800000

/-- The number a binary32 pattern stands for; a subnormal is read as zero of its sign (R108). -/
def f32Read (x : F32) : Fp :=
  let w := x.toNat
  let neg := w.testBit 31
  let ex := bits 30 23 w
  let fr := bits 22 0 w
  if ex == 255 then (if fr == 0 then .inf neg else .nan)
  else if ex == 0 then .fin neg 0 0
  else .fin neg (2 ^ 23 + fr) ((ex : Int) - 150)

/-- m rounded to its leading k bits, to nearest with ties to even, `sticky` telling that something nonzero lies below m;
with the number of bits dropped. -/
def roundBits (k m : Nat) (sticky : Bool) : Nat × Nat :=
  let len := Nat.log2 m + 1
  if len ≤ k then (m, 0)
  else
    let drop := len - k
    let q := m / 2 ^ drop
    let r := m % 2 ^ drop
    let half := 2 ^ (drop - 1)
    let up := half < r || (r == half && (sticky || q % 2 == 1))
    (q + flag up, drop)

/-- ± (n / d) × 2^e as a binary32 pattern: rounded to 24 bits as if the exponent were unbounded; below 2^-126 zero, above the
range an infinity (R108). -/
def f32Round (neg : Bool) (n d : Nat) (e : Int) : F32 :=
  if n == 0 || d == 0 then f32Zero neg
  else
    let s := 27 + Nat.log2 d - Nat.log2 n
    let q := n * 2 ^ s / d
    let sticky := n * 2 ^ s % d != 0
    let len := Nat.log2 q + 1
    -- at least 26 bits stand above the sticky part, so the 24-bit rounding is exact
    let r := roundBits 24 q sticky
    let top : Int := e - s + (r.2 : Int) + (if r.1 == 2 ^ 24 then 24 else if len < 24 then (len : Int) - 1 else 23)
    if top < -126 then f32Zero neg
    else if 127 < top then f32Inf neg
    else
      let m := if r.1 == 2 ^ 24 then 2 ^ 23 else if len < 24 then r.1 * 2 ^ (24 - len) else r.1
      BitVec.ofNat 32 ((if neg then 2 ^ 31 else 0) + (top + 127).toNat * 2 ^ 23 + (m - 2 ^ 23))

/-- A pattern for an exact number. -/
def f32Of : Fp → F32
  | .nan => f32Nan
  | .inf neg => f32Inf neg
  | .fin neg m e => if 0 ≤ e then f32Round neg (m * 2 ^ e.toNat) 1 0 else f32Round neg m 1 e

/-- A signed integer m × 2^e over a common exponent. -/
def fpScaled (neg : Bool) (m : Nat) (e low : Int) : Int :=
  let v : Int := ((m * 2 ^ (e - low).toNat : Nat) : Int)
  if neg then -v else v

/-- Addition (R108). -/
def f32Add (x y : F32) : F32 :=
  match f32Read x, f32Read y with
  | .nan, _ => f32Nan
  | _, .nan => f32Nan
  | .inf a, .inf b => if a == b then f32Inf a else f32Nan
  | .inf a, _ => f32Inf a
  | _, .inf b => f32Inf b
  | .fin a m e, .fin b n f =>
    let low := min e f
    let v := fpScaled a m e low + fpScaled b n f low
    if v == 0 then f32Zero (a && b)
    else f32Round (v < 0) v.natAbs 1 low

/-- Negation. -/
def f32Neg (x : F32) : F32 := x ^^^ 0x80000000

/-- Subtraction. -/
def f32Sub (x y : F32) : F32 := f32Add x (f32Neg y)

/-- Multiplication (R108). -/
def f32Mul (x y : F32) : F32 :=
  match f32Read x, f32Read y with
  | .nan, _ => f32Nan
  | _, .nan => f32Nan
  | .inf a, .inf b => f32Inf (a != b)
  | .inf a, .fin b n _ => if n == 0 then f32Nan else f32Inf (a != b)
  | .fin a m _, .inf b => if m == 0 then f32Nan else f32Inf (a != b)
  | .fin a m e, .fin b n f => f32Round (a != b) (m * n) 1 (e + f)

/-- Division (R108). -/
def f32Div (x y : F32) : F32 :=
  match f32Read x, f32Read y with
  | .nan, _ => f32Nan
  | _, .nan => f32Nan
  | .inf _, .inf _ => f32Nan
  | .inf a, .fin b _ _ => f32Inf (a != b)
  | .fin a _ _, .inf b => f32Zero (a != b)
  | .fin a m e, .fin b n f =>
    if n == 0 then (if m == 0 then f32Nan else f32Inf (a != b)) else f32Round (a != b) m n (e - f)

/-- The pattern is a NaN. -/
def f32IsNan (x : F32) : Bool := match f32Read x with | .nan => true | _ => false

/-- The pattern is an infinity. -/
def f32IsInf (x : F32) : Bool := match f32Read x with | .inf _ => true | _ => false

/-- x < y; false of a NaN. -/
def f32Lt (x y : F32) : Bool :=
  match f32Read x, f32Read y with
  | .nan, _ => false
  | _, .nan => false
  | .inf a, .inf b => a && !b
  | .inf a, _ => a
  | _, .inf b => !b
  | .fin a m e, .fin b n f =>
    let low := min e f
    fpScaled a m e low < fpScaled b n f low

/-- x ≤ y; false of a NaN. -/
def f32Le (x y : F32) : Bool := !f32IsNan x && !f32IsNan y && !f32Lt y x

/-- x = y as numbers; false of a NaN. -/
def f32Eq (x y : F32) : Bool := f32Le x y && f32Le y x

/-- The larger of two numbers; of the two zeros +0.0. The spec asks that the order of two records' merging leaves no trace (R103)
and does not name the zero: DESIGN CHOICE (log entry 42). -/
def f32Max (x y : F32) : F32 := if f32Lt x y || (x == f32Zero true && f32Eq x y) then y else x

/-- The smaller of two numbers; of the two zeros −0.0: DESIGN CHOICE (log entry 42). -/
def f32Min (x y : F32) : F32 := if f32Lt y x || (x == f32Zero false && f32Eq x y) then y else x

/-- Magnitude. -/
def f32Abs (x : F32) : F32 := x &&& 0x7FFFFFFF

/-- An integer as a binary32, rounded. -/
def f32OfInt (i : Int) : F32 := f32Round (i < 0) i.natAbs 1 0

/-- ± m × 2^e rounded to the nearest integer, ties to even. -/
def rneFin (neg : Bool) (m : Nat) (e : Int) : Int :=
  let v : Nat :=
    if 0 ≤ e then m * 2 ^ e.toNat
    else
      let d := 2 ^ (-e).toNat
      let q := m / d
      let r := 2 * (m % d)
      q + flag (d < r || (r == d && q % 2 == 1))
  if neg then -(v : Int) else (v : Int)

/-- A number rounded to the nearest integer, ties to even; an infinity saturates beyond every clamp that follows, and a NaN,
which the callers rule out, counts as 0. -/
def f32Rne (x : F32) : Int :=
  match f32Read x with
  | .nan => 0
  | .inf neg => if neg then -(2 : Int) ^ 160 else (2 : Int) ^ 160
  | .fin neg m e => rneFin neg m e

/-- The sum of a list, left to right from +0.0. -/
def f32Sum (l : List F32) : F32 := l.foldl f32Add 0

/-! BF16 and FP16. -/

/-- A BF16 as the binary32 it stands for (R99). -/
def f32OfBf16 (x : BF16) : F32 := BitVec.ofNat 32 (x.toNat * 2 ^ 16)

/-- A binary32 rounded to BF16, to nearest even (R124). -/
def bf16Of (x : F32) : BF16 :=
  match f32Read x with
  | .nan => 0x7FC0
  | .inf neg => if neg then 0xFF80 else 0x7F80
  | .fin neg 0 _ => if neg then 0x8000 else 0
  | _ =>
    let w := x.toNat
    BitVec.ofNat 16 ((w + 0x7FFF + (w / 2 ^ 16) % 2) / 2 ^ 16)

/-- Quiet NaN of BF16. -/
def bf16Nan : BF16 := 0x7FC0

/-- The largest finite BF16, 3.3895314 × 10^38 (R101). -/
def bf16Max : BF16 := 0x7F7F

/-- An FP16 as the binary32 it stands for, subnormals included, which binary32 holds as normal numbers. -/
def f32OfF16 (x : F16) : F32 :=
  let w := x.toNat
  let neg := w.testBit 15
  let ex := bits 14 10 w
  let fr := bits 9 0 w
  if ex == 31 then (if fr == 0 then f32Inf neg else f32Nan)
  else if ex == 0 then f32Of (.fin neg fr (-24))
  else f32Of (.fin neg (1024 + fr) ((ex : Int) - 25))

/-- A positive binary32 rounded to FP16 within the range of a group scale, 2^-14 to 65,504 (R125). -/
def f16Scale (x : F32) : F16 :=
  match f32Read x with
  | .nan => 0x7E00
  | .inf _ => 0x7BFF
  | .fin _ m e =>
    if m == 0 then 0x0400
    else
      let r := roundBits 11 m false
      let mant := if r.1 == 2048 then 1024 else r.1
      let top : Int := e + (r.2 : Int) + 10 + (if r.1 == 2048 then 1 else 0)
      if top < -14 then 0x0400
      else if 15 < top then 0x7BFF
      else BitVec.ofNat 16 ((top + 15).toNat * 1024 + (mant - 1024))

/-- A group scale reaches either clamp of R125: below 2^-14 binary16 is spaced 2^-24 apart. -/
def f16Clamped (x : F32) : Bool :=
  match f32Read x with
  | .fin _ m e =>
    let r := roundBits 11 m false
    let top : Int := e + (r.2 : Int) + 10 + (if r.1 == 2048 then 1 else 0)
    rneFin false m (e + 24) < 1024 || 15 < top
  | .inf _ => true
  | .nan => false

/-! Functions that the spec bounds and does not fix: exp (R171, R213), SiLU and GELU (R121). Their exact values are followed in
fixed point with 256 bits below the point, far finer than the bounds. -/

/-- One in fixed point. -/
def fixOne : Nat := 2 ^ 256

/-- A finite binary32 in fixed point, exactly; an infinity or a NaN counts as 0 and is told apart by the callers. -/
def fixOf (x : F32) : Int :=
  match f32Read x with
  | .fin neg m e => fpScaled neg m e (-256)
  | _ => 0

/-- A fixed-point number as a binary32. -/
def fixRound (v : Int) : F32 := f32Round (v < 0) v.natAbs 1 (-256)

/-- The series of e^−y by Horner's rule, with n terms left. -/
def expSeries (y : Nat) : Nat → Nat → Nat
  | 0, acc => acc
  | n + 1, acc => expSeries y n (fixOne - y * acc / ((n + 1) * fixOne))

/-- A number squared n times. -/
def squareTimes : Nat → Nat → Nat
  | 0, v => v
  | n + 1, v => squareTimes n (v * v / fixOne)

/-- e^−t in fixed point, of t ≥ 0: t is divided by 2^16, and the series' result squared 16 times. -/
def expNeg (t : Nat) : Nat := if 200 * fixOne < t then 0 else squareTimes 16 (expSeries (t / 2 ^ 16) 24 fixOne)

/-- 1 / (1 + e^−t) in fixed point. -/
def sigmoid (t : Int) : Int :=
  let e := expNeg t.natAbs
  if t < 0 then ((fixOne * e / (fixOne + e) : Nat) : Int) else ((fixOne * fixOne / (fixOne + e) : Nat) : Int)

/-- e^x in fixed point, of x at most 90. -/
def fixExp (x : Int) : Int :=
  let e := expNeg x.natAbs
  if x < 0 then (e : Int) else ((fixOne * fixOne / e : Nat) : Int)

/-- SiLU in fixed point: x / (1 + e^−x) (R121). -/
def fixSilu (x : Int) : Int := x * sigmoid x / (fixOne : Int)

/-- GELU in tanh form in fixed point (R121): 0.5 (1 + tanh u) is 1 / (1 + e^−2u). -/
def fixGelu (x : Int) : Int :=
  let one : Int := fixOne
  let cube := x * x / one * x / one
  let u := 7978845608 * (x + 44715 * cube / 10 ^ 6) / 10 ^ 10
  x * sigmoid (2 * u) / one

/-- A free value of a function whose exact value is v, held to an error of `tol`: a value within the bound stands, and so does
the zero or the infinity that R108 writes for a bound; a value outside it, which no block gives, is replaced by the exact one
rounded (log entry 6). -/
def heldTo (v tol : Int) (f : F32) : F32 :=
  let within : Bool :=
    match f32Read f with
    | .nan => false
    | .inf _ => f == fixRound (v - tol) || f == fixRound (v + tol)
    | .fin _ m _ =>
      (v - tol ≤ fixOf f && fixOf f ≤ v + tol) || (m == 0 && (f == fixRound (v - tol) || f == fixRound (v + tol)))
  if within then f32Of (f32Read f) else fixRound v

/-- exp, within a relative error of 2^−20 (R171): the free function of Config held to that bound (log entry 6). Beyond 90 every
value overflows. -/
def f32Exp (x : F32) : F32 :=
  match f32Read x with
  | .nan => f32Nan
  | .inf neg => if neg then 0 else f32Inf false
  | .fin _ _ _ =>
    let t := fixOf x
    if 90 * (fixOne : Int) < t then f32Inf false else heldTo (fixExp t) (fixExp t / 2 ^ 20) (Config.exp x)

/-! The generator. -/

/-- One round of Philox4x32: two 32 × 32 bit products and the round keys. -/
def philoxRound (c : Nat × Nat × Nat × Nat) (k : Nat × Nat) : Nat × Nat × Nat × Nat :=
  let p0 := 0xD2511F53 * c.1
  let p1 := 0xCD9E8D57 * c.2.2.1
  ((p1 / 2 ^ 32) ^^^ c.2.1 ^^^ k.1, p1 % 2 ^ 32, (p0 / 2 ^ 32) ^^^ c.2.2.2 ^^^ k.2, p0 % 2 ^ 32)

/-- The rounds left of Philox, the key bumped between them. -/
def philoxRounds : Nat → Nat × Nat × Nat × Nat → Nat × Nat → Nat × Nat × Nat × Nat
  | 0, c, _ => c
  | n + 1, c, k =>
    philoxRounds n (philoxRound c k) ((k.1 + 0x9E3779B9) % 2 ^ 32, (k.2 + 0xBB67AE85) % 2 ^ 32)

/-- First output word of Philox4x32-10 keyed by SEED, low word first, with counter words position, purpose, index and 0
(R214, log entry 21). -/
def philox (seed position purpose index : Nat) : Nat :=
  (philoxRounds 10 (position % 2 ^ 32, purpose, index, 0) (seed % 2 ^ 32, seed / 2 ^ 32 % 2 ^ 32)).1

/-- The uniform u = (x >> 8) × 2^-24 (R214). -/
def uniform (seed position purpose index : Nat) : F32 := f32Round false (philox seed position purpose index / 256) 1 (-24)

end Sys2Proof.Machine
end

