-- ==== Sys2Proof/Machine/State.lean ====
section
/-! DEFINITION. The state of the Keard block as plain data: every register, queue, table and mode the spec names, each
with the rule that names it and its value at reset; then the fault and refusal reasons and State.reset. Fields whose reset
value the spec does not give are listed in log entries 1, 2 and 12. -/

namespace Sys2Proof.Machine

/-- Bytes held by address, sparse: addresses strictly rising, no entry equal to 0, which an unlisted address reads as (log
entry 12). -/
abbrev Memory := List Host.Cell

/-- The five licensed configurations (R2). -/
inductive KdKind where
  | kd1 | kd5 | kd10 | kd15 | kd20
  deriving DecidableEq, Repr, Inhabited

/-- What straps and fuses fix (R2, R27, R419). -/
structure BlockCfg where
  kind : KdKind := .kd20
  /-- segments whose MGR_CAPABLE strap is high (R27) -/
  mgrCapable : List Nat := [0, 10]
  /-- the surroundings assert the programming enable of the fuse port for the moves to SECURED and RETIRED (R419) -/
  progEnable : Bool := true
  /-- segments whose Keard Native Port the integrator connected (R33) -/
  connected : List Nat := [0, 10]
  deriving DecidableEq, Repr

/-- The number of segments of a configuration (R2). -/
def KdKind.segments : KdKind → Nat
  | .kd1 => 1
  | .kd5 => 5
  | .kd10 => 10
  | .kd15 => 15
  | .kd20 => 20

/-- The reference configuration at reset (log entry 1). -/
def BlockCfg.kd20 : BlockCfg := {}

/-- The tree template that holds the root alone (R169, R229). -/
def rootAlone : List Nat := 0x80 :: List.replicate 63 0

/-- The state a segment reports at SEGMENT_STATE (R379). -/
inductive SegState where
  | joining | serving | fenced | lost | held
  deriving DecidableEq, Repr, Inhabited

/-- STATE of an array (R96). -/
inductive ArrayPhase where
  | serving | draining | failed | held
  deriving DecidableEq, Repr, Inhabited

/-- REF_STATE (R73). -/
inductive RefState where
  | locked | holdover | converging
  deriving DecidableEq, Repr, Inhabited

/-- Lifecycle states (R328). -/
inductive Lifecycle where
  | blank | provisioned | secured | retired
  deriving DecidableEq, Repr, Inhabited

/-- TIER of a cache (R185). -/
inductive Tier where
  | bright | dim | both | tombstone
  deriving DecidableEq, Repr, Inhabited

/-- Phase of a span session (R348). -/
inductive SpanPhase where
  | closed | opening | opened
  deriving DecidableEq, Repr, Inhabited

/-- A word as a queue holds it: data, EOR, TORN and parity bit P (R284). -/
structure QWord where
  data : Nat := 0
  eor : Bool := false
  torn : Bool := false
  p : Bool := false
  deriving DecidableEq, Repr

/-- A latching of a word queue that has yet to be reported, with the stamp of its cycle (R290, R293, R295). -/
inductive QEvent where
  | watermark (low : Bool) (depth crossings : Nat) (stamp : Stamp)
  | lost (count : Nat) (stamp : Stamp)
  | underrun (timeout : Bool) (stamp : Stamp)
  deriving DecidableEq, Repr

/-- The last crossing of a mark: its cycle, whether it raised an event, the depth after it and the crossings so far (R290). -/
structure CrossMark where
  stamp : Stamp := {}
  raised : Bool := false
  depth : Nat := 0
  count : Nat := 0
  deriving DecidableEq, Repr

/-- The last push of a word queue: its cycle, the word, and what the queue was before it, for a pop in the same cycle (R289,
R290). -/
structure PushMark where
  stamp : Stamp := {}
  word : QWord := {}
  words : List QWord := []
  lost : Nat := 0
  lostLatched : Bool := false
  highLatched : Bool := false
  lowLatched : Bool := false
  highCross : Nat := 0
  lowCross : Nat := 0
  /-- latchings that the push itself has made -/
  added : List QEvent := []
  deriving DecidableEq, Repr

/-- The last pop of a word queue: its cycle, and what the marks were before it, for a push in the same cycle (R289, R290). -/
structure PopMark where
  stamp : Stamp := {}
  highLatched : Bool := false
  lowLatched : Bool := false
  highCross : Nat := 0
  lowCross : Nat := 0
  /-- latchings that the pop has made -/
  added : List QEvent := []
  deriving DecidableEq, Repr

/-- A host read stalled on an empty queue in HOLD: since when, and the port and the tag it came by (R288, R401). -/
structure StalledRead where
  since : Stamp := {}
  port : Nat := 0
  tag : Nat := 0
  deriving DecidableEq, Repr

/-- The word of a stalled read that has completed, on its way to its port (R288, R402). -/
structure ReadAnswer where
  port : Nat := 0
  tag : Nat := 0
  data : Nat := 0
  deriving DecidableEq, Repr

/-- The cycle of a ring's last index move: its stamp, and the depth and marks before it (R290, R296). -/
structure RingCyc where
  stamp : Stamp := {}
  depth : Nat := 0
  highCross : Nat := 0
  lowCross : Nat := 0
  highLatched : Bool := false
  lowLatched : Bool := false
  /-- crossings of the cycle -/
  up : Bool := false
  down : Bool := false
  /-- latchings of the cycle, raised when it is over -/
  owe : List QEvent := []
  deriving DecidableEq, Repr

/-- A sweep of a step in flight: partition, class and descriptor slot. -/
structure SweepRef where
  part : Nat := 0
  cls : Cls := .lc
  slot : Nat := 0
  deriving DecidableEq, Repr

/-- A row list entry (R60). -/
structure RowEntry where
  masked : Bool := true
  kind : Nat := 0
  seq : Nat := 0
  node : Nat := 0
  pos : Nat := 0
  addr : Nat := 0
  deriving DecidableEq, Repr

/-- A frame at an output module, in the primary or the detour lane, with the side and the lane whose input buffer it holds, none for
a frame of the segment's own (R142, R146, R147). -/
structure TxFrame where
  dir : Dir := .north
  detour : Bool := false
  came : Option (Dir × Bool) := none
  frame : Frame := {}
  deriving DecidableEq, Repr

/-- A frame that waits in a hub, for a combining slot or for detour tables, with the side and the lane whose input buffer it holds
(R142, R147). -/
structure HeldFrame where
  came : Option (Dir × Bool) := none
  frame : Frame := {}
  deriving DecidableEq, Repr

/-- A scan score with its passage reference (R243). -/
structure ScoreRef where
  score : Int := 0
  ref : Nat := 0
  deriving DecidableEq, Repr

/-- A stream of a sequence that waits for, or steps on, a Snare Engine lane (R267). -/
structure SnareJob where
  seq : Nat := 0
  slot : Nat := 0
  out : Bool := false
  /-- a lane that has failed under the stream, which takes another (R281) -/
  avoid : Option Nat := none
  deriving DecidableEq, Repr

/-- A record bound for a CMP, STR or NTC ring (R302, R304). -/
inductive RecKind where
  | completion (seq : Nat)
  | answer
  | stepRec (part : Nat)
  | stream (seq : Nat)
  | result (seq : Nat)
  | ntc
  deriving DecidableEq, Repr

/-- A record that waits for its ring or is being written to it (R302, R404). -/
structure BackRec where
  kind : RecKind := .ntc
  /-- the record as one word; of a stream or result record, which its writing makes, the entries it takes -/
  data : Nat := 0
  /-- CONT of a stream or result record (R227) -/
  cont : Bool := false
  /-- entry index in the ring -/
  idx : Nat := 0
  /-- written and visible in host memory -/
  visible : Bool := false
  /-- its last write failed -/
  failed : Bool := false
  /-- EOR of an NTC word -/
  eor : Bool := true
  /-- beat in which it began to wait (R297) -/
  since : Nat := 0
  deriving DecidableEq, Repr

/-- What a DMA request serves; it decides the outcome of its response (R405). -/
inductive DmaUse where
  | ringRecord (ring idx : Nat)
  | tornEntry (ring idx : Nat)
  | writeBack (ring : Nat) (raise : Bool) (covers : List BackRec)
  | dimWrite (cache : CacheRef)
  | dimFetch (cache : CacheRef)
  | directory (tag place : Nat)
  | passage (tag place : Nat)
  | askDirectory (id : Nat)
  | askPassage (id : Nat)
  | indirect (ep : Endpoint) (transfer : Nat)
  | transfer (seg part : Nat) (cls : Cls) (slot : Nat)
  deriving DecidableEq, Repr

/-- A token and its count in a count store (R211). -/
structure Count where
  token : Nat := 0
  n : Nat := 0
  deriving DecidableEq, Repr

/-- An action found for a token or an input (R272, R275): severity 0 PASS, 1 MARK, 2 REDACT, 3 STOP or BLOCK; whether a
category rather than a pattern found it; slot and pattern number, or category number; and its tag. -/
structure Found where
  act : Nat := 0
  category : Bool := false
  slot : Nat := 0
  num : Nat := 0
  tag : Nat := 0
  deriving DecidableEq, Repr

/-- A token in the hold buffer (R47, R274, R276). -/
structure Held where
  token : Nat := 0
  /-- place among the sequence's output tokens -/
  idx : Nat := 0
  commit : Stamp := {}
  due : Stamp := {}
  group : Nat := 0
  found : List Found := []
  /-- held back past its release instant, for its own verdict or an earlier token's -/
  late : Bool := false
  /-- its own verdict was late, and is counted in VERDICTS_LATE_OUT -/
  own : Bool := false
  /-- beat at which its late verdict became ready -/
  readyAt : Option Nat := none
  deriving DecidableEq, Repr

/-- An output group (R274). -/
structure Group where
  id : Nat := 0
  first : Stamp := {}
  count : Nat := 0
  lastIdx : Nat := 0
  /-- edge or stamp at which it closed, none while open -/
  closed : Option Stamp := none
  bound : Bool := false
  classified : Bool := false
  deriving DecidableEq, Repr

/-- An automaton stream (R267): state, tokens stepped so far, matches found by an output stream and not yet at the manager
(the token's place, the span and what was found), and tokens whose matches have reached it. -/
structure Auto where
  slot : Nat := 0
  out : Bool := false
  state : Nat := 0
  next : Nat := 0
  found : List (Nat × Nat × Found) := []
  reported : Nat := 0
  deriving DecidableEq, Repr

/-- What input screening has found (R272, R273). -/
structure Verdict where
  found : List Found := []
  /-- largest score of each category over the chunks classified -/
  scores : List F32 := []
  chunks : Nat := 0
  /-- the chunk offered in a screen step in flight -/
  bound : Bool := false
  /-- counted in VERDICTS_LATE_IN -/
  late : Bool := false
  deriving DecidableEq, Repr

/-- A pause instant: beat edge and order at that instant (R201). -/
structure PauseAt where
  beat : Nat := 0
  order : Nat := 0
  deriving DecidableEq, Repr

/-- A released token that waits in the token backlog (R302). -/
structure TokBack where
  /-- the stream entries the token makes, not yet written (R276) -/
  entries : List Nat := []
  /-- the token's entries end here; none of a token that goes on in a later record -/
  ends : Bool := true
  due : Stamp := {}
  deriving DecidableEq, Repr

/-- A result entry that waits for its STR ring (R256, R302). -/
structure ResBack where
  rank : Nat := 0
  ref : Nat := 0
  score : F32 := 0
  reranked : Bool := false
  due : Stamp := {}
  deriving DecidableEq, Repr

/-- A page of a block set: the segment it lies on, the model, the block record's entry, and PAGE (R177, R178). -/
structure PageUse where
  seg : Nat := 0
  draft : Bool := false
  slot : Nat := 0
  page : Nat := 0
  deriving DecidableEq, Repr

/-- What a cache's block maps name for one position block: SHARED, the table page of its block record on each segment for each model
(segment, draft, RECORD), and the pages that the records name (R178). -/
structure BlockRef where
  shared : Bool := false
  records : List (Nat × Bool × Nat) := []
  pages : List PageUse := []
  deriving DecidableEq, Repr

/-- A page of a channel that retires, the page it is copied to, and whether a position of it was written after the copy began
(R357). -/
structure PageCopy where
  old : Nat := 0
  new : Nat := 0
  written : Bool := false
  deriving DecidableEq, Repr

/-- A dim record (R192 to R194). -/
structure DimRec where
  recordId : Nat := 0
  /-- address, 4 KiB units -/
  addr : Nat := 0
  /-- length, 4 KiB units -/
  units : Nat := 0
  epoch : Nat := 0
  /-- LENGTH, positions held -/
  length : Nat := 0
  deriving DecidableEq, Repr

/-- A movement between tiers in progress (R196): a write, after which the bright copy stays or goes, or a fetch. -/
inductive DimMove where
  | write (drop : Bool)
  | fetch
  deriving DecidableEq, Repr

/-- Generation parameters as R207 takes them from the body (R206). -/
structure GenParams where
  topK : Nat := 64
  maxTokens : Nat := 0
  temperature : F32 := 0
  topP : F32 := 0x3F800000
  repetition : F32 := 0x3F800000
  presence : F32 := 0
  frequency : F32 := 0
  seed : Nat := 0
  handle : Nat := 0
  saveHandle : Nat := 0
  ttl : Nat := 0
  saveLen : Nat := 0
  template : Nat := 0
  speculate : Bool := false
  penalise : Bool := false
  save : Bool := false
  keep : Bool := false
  deriving DecidableEq, Repr

/-- A retrieval block as R235 takes it (R234). -/
structure Retr where
  indexId : Nat := 0
  nprobe : Nat := 1
  scanK : Nat := 1
  rerankN : Nat := 0
  packMax : Nat := 0
  template : Nat := 0
  resultOnly : Bool := false
  useVector : Bool := false
  truncate : Bool := false
  span : Bool := false
  resultN : Nat := 1
  packBudget : Nat := 0
  tokens : List Nat := []
  vector : List BF16 := []
  deriving DecidableEq, Repr

/-- A request as the manager holds it (R206, R208, R300). -/
structure Request where
  part : Nat := 0
  cls : Cls := .lc
  tenant : Nat := 0
  reqId : Nat := 0
  cmpRing : Nat := 0
  strRing : Nat := 0
  /-- the stream key of its envelope (R341) -/
  streamKey : Nat := 0
  params : GenParams := {}
  stops : List (List Nat) := []
  prompt : List Nat := []
  retr : Option Retr := none
  /-- CLAMPED_PARAMS (R207) -/
  clamped : Bool := false
  arrived : Stamp := {}
  /-- beat of the first attempt to join, for JOIN_WAIT_BT (R200) -/
  waitFrom : Option Nat := none
  /-- beat of its last attempt to join -/
  tried : Nat := 0
  /-- a query of a span manager, served for a worker (R246): its place in the worker's queries -/
  spanQuery : Option Nat := none
  deriving DecidableEq, Repr

/-- Where a candidate stands (R251). -/
inductive CandState where
  | waiting | asked | stored | dropped
  deriving DecidableEq, Repr, Inhabited

/-- A candidate of a retrieval plan (R245, R251, R252). -/
structure Cand where
  ref : Nat := 0
  score : F32 := 0
  /-- the span session it came by -/
  worker : Option Nat := none
  state : CandState := .waiting
  /-- its passage directory entry, once read (R249) -/
  entry : Option Nat := none
  tokens : List Nat := []
  rescore : Option F32 := none
  bound : Bool := false
  /-- pieces received from a worker: place of the first token, tokens, LAST -/
  pieces : List (Nat × List Nat × Bool) := []
  deriving DecidableEq, Repr

/-- Stages of a retrieval plan (R237). -/
inductive PlanStage where
  | waitE | inE | probe | scan | spanWait | fetch | waitR | inR | packed | done
  deriving DecidableEq, Repr, Inhabited

/-- A retrieval plan (R237). -/
structure Plan where
  stage : PlanStage := .waitE
  /-- its number among the block's plans, which its span query and its reads go by (R246, R257); 0 before it has one -/
  tag : Nat := 0
  part : Nat := 0
  indexId : Nat := 0
  embedding : List BF16 := []
  /-- commit stamp of its stage E -/
  stageE : Stamp := {}
  lists : List (Nat × F32) := []
  /-- segments that hold the probe lists -/
  probed : List Nat := []
  /-- segment lists received by the manager (R245) -/
  segLists : List (Nat × List ScoreRef) := []
  lutScale : F32 := 0
  cands : List Cand := []
  /-- DEADLINE_BEAT (R248) -/
  deadline : Nat := 0
  /-- sessions asked, and sessions that have sent LAST -/
  asked : List Nat := []
  ended : List Nat := []
  spanList : List (Nat × Nat × F32) := []
  packed : List Nat := []
  /-- first beat of the join attempt at the hand-over -/
  waitFrom : Option Nat := none
  /-- the plan has ended or packed; results may be released -/
  endedAt : Option Stamp := none
  deriving DecidableEq, Repr

/-- A resident step program (R51): its image and its worst-case time after any rescaling (R69). -/
structure Program where
  id : Nat := 0
  image : ProgramImage := {}
  wcet : Nat := 1
  deriving DecidableEq, Repr

/-- A node of a bound tree (R216 to R218): number, parent, depth, index among its siblings, token, and the proposal
distribution it was drawn from. -/
structure BoundNode where
  node : Nat := 0
  parent : Nat := 0
  depth : Nat := 0
  child : Nat := 0
  token : Option Nat := none
  q : List (Nat × F32) := []
  deriving DecidableEq, Repr

/-- What a freeze binds of one sequence or one screened request in a step (R61, R210, R239, R252, R274). -/
structure Bind where
  seq : Nat := 0
  /-- root and tree nodes, empty without a root -/
  nodes : List BoundNode := []
  prefillFrom : Nat := 0
  prefill : Nat := 0
  /-- position blocks reserved at this freeze -/
  reserved : List Nat := []
  saveBlock : Bool := false
  stageE : Bool := false
  rerank : List Nat := []
  /-- input chunk and output groups, in a screen step -/
  chunk : Option Nat := none
  groups : List Nat := []
  /-- accepted path of the verification (R218) -/
  path : List Nat := []
  /-- tokens drawn or accepted, in position order -/
  drawn : List Nat := []
  deriving DecidableEq, Repr

/-- A step in flight, as the manager holds it (R46). -/
structure StepS where
  prog : Program := {}
  launchNo : Nat := 0
  launch : Nat := 0
  launched : Bool := false
  binds : List Bind := []
  rowLists : List (List RowEntry) := []
  /-- segments that reported their commit descriptor reached -/
  reports : List Nat := []
  /-- largest exponent coded on each stream, and streams with an escape that was not forced (R137, R138) -/
  eMax : List (Nat × Int) := []
  escaped : List Nat := []
  stage : List StageReport := []
  /-- tree levels drafted -/
  levels : Nat := 0
  drawn : Bool := false
  compacted : List Nat := []
  /-- stamp of the abandonment (R66) -/
  abandoned : Option Stamp := none
  /-- sequences bound at the freeze, for the step record (R228) -/
  bound : Nat := 0
  /-- segments that the freeze gave the step to, of a screen step (R362) -/
  segs : List Nat := []
  deriving DecidableEq, Repr

/-- A stream of a partition's stream table with its carried scale (R133, R134, R137). -/
structure StreamS where
  id : Nat := 0
  /-- carried scale s -/
  s : F32 := 0x3F800000
  /-- escape run, 0 to 3 -/
  run : Nat := 0
  /-- initial scale of its table entry -/
  init : F32 := 0x3F800000
  /-- in use: a step has sent a chunk on it (R134) -/
  used : Bool := false
  /-- a load with RESET 1 replaces its scale at the next commit point (R134) -/
  reset : Bool := false
  deriving DecidableEq, Repr

/-- A resident kernel (R159). -/
structure Kernel where
  id : Nat := 0
  abi : Nat := 0
  bytes : Nat := 0
  digest : Nat := 0
  deriving DecidableEq, Repr

/-- A resident model image (R203, R344). -/
structure Model where
  id : Nat := 0
  desc : Nat := 0
  bytes : Nat := 0
  tables : List RTable := []
  digest : Nat := 0
  deriving DecidableEq, Repr

/-- A resident index (R231, R232). -/
structure Index where
  id : Nat := 0
  part : Nat := 0
  desc : Nat := 0
  segVectors : List Nat := []
  segBytes : Nat := 0
  digest : Nat := 0
  deriving DecidableEq, Repr

/-- A packing template (R253). -/
structure PackTemplate where
  head : List Nat := []
  open_ : List Nat := []
  close_ : List Nat := []
  tail : List Nat := []
  deriving DecidableEq, Repr

/-- An entry of ARCHIVE_REGIONS (R249). -/
structure Region where
  region : Nat := 0
  keySlot : Nat := 0
  boundBt : Nat := 0
  dirBase : Nat := 0
  dataBase : Nat := 0
  passages : Nat := 0
  deriving DecidableEq, Repr

/-- A rule set slot's image (R265, R266, R271). -/
structure RuleSet where
  plain : RulePlain := {}
  /-- image digest (R343) -/
  digest : Nat := 0
  /-- beat of its load (R265) -/
  since : Nat := 0
  deriving DecidableEq, Repr

/-- A resident detokeniser table (R269). -/
structure Detok where
  id : Nat := 0
  vocab : Nat := 0
  entries : List Nat := []
  pool : List Nat := []
  /-- image digest (R343) -/
  digest : Nat := 0
  deriving DecidableEq, Repr

/-- A landing window (R154). -/
structure Window where
  id : Nat := 0
  part : Nat := 0
  seg : Nat := 0
  /-- 256-byte units -/
  base : Nat := 0
  size : Nat := 0
  deriving DecidableEq, Repr

/-- An entry of SPAN_TRUST (R348, R352). -/
structure TrustEntry where
  index : Nat := 0
  manager : Nat := 0
  standby : Nat := 0
  firmware : Nat := 0
  deriving DecidableEq, Repr

/-- A response of the SPDM responder (R335): the request code answered, the path and session it goes by, and its contents. -/
structure SpdmReply where
  ep : Endpoint := .window
  session : Option Nat := none
  code : Nat := 0
  body : List Nat := []
  deriving DecidableEq, Repr

/-- A span datagram sent (R149 to R151, R411): message type, session, SEQ and ACK, the MAC stream it leaves on, its Ethernet, IPv6 and
UDP headers in network order, its span header, the bytes of its payload, and its tag. -/
structure SpanMsg where
  type : Nat := 0
  session : Nat := 0
  seq : Nat := 0
  ack : Nat := 0
  stream : Nat := 0
  eth : Nat := 0
  ip : Nat := 0
  udp : Nat := 0
  head : Nat := 0
  body : List Nat := []
  tag : Nat := 0
  deriving DecidableEq, Repr

/-- What a span manager has asked of this worker (R251): the passage, the query it serves, the segment that fetches it, and its
directory entry once read. -/
structure SpanAsk where
  id : Nat := 0
  session : Nat := 0
  ref : Nat := 0
  tag : Nat := 0
  seg : Nat := 0
  entry : Option Nat := none
  /-- SEQ of the last datagram of its answer, until which is acknowledged its passage stays in the store -/
  sent : Option Nat := none
  /-- bytes of the passage in the segment's passage store -/
  bytes : Nat := 0
  deriving DecidableEq, Repr

/-- An entry of a clamp report (R324). -/
structure ClampEntry where
  index : Nat := 0
  sub : Nat := 0
  reason : Nat := 0
  element : Nat := 0xFFFFFFFF
  written : Nat := 0
  applied : Nat := 0
  deriving DecidableEq, Repr

/-- A segmented transfer that has ended: its identifier, direction and last TOGGLE, and the words of its final answer, which a repeat
of its last message receives again (R316). -/
structure DoneTransfer where
  id : Nat := 0
  principal : Principal := .driver
  write : Bool := false
  toggle : Bool := false
  reply : List Nat := []
  deriving DecidableEq, Repr

/-- A clamp report (R324). -/
structure Report where
  number : Nat := 0
  principal : Principal := .driver
  truncated : Bool := false
  entries : List ClampEntry := []
  applied : Nat := 0
  deriving DecidableEq, Repr

/-- A word queue (R283 to R290): a segment notice queue or a management message queue. -/
structure WordQ where
  /-- the words held, oldest first (R284); 1,024 or 256 words of 64 + EOR + TORN + P -/
  words : List QWord := []
  /-- capacity in words (R283); 11 bits -/
  cap : Nat := 1024
  /-- high mark H, three quarters of the capacity (R290); 11 bits -/
  high : Nat := 768
  /-- low mark Lo, one quarter of the capacity (R290); 11 bits -/
  low : Nat := 256
  /-- MODE, 1 HOLD: HOLD from reset until the segment joins (R291) (R288); 1 bit -/
  hold : Bool := true
  /-- lost-word count (R285); 32 bits, saturating -/
  lost : Nat := 0
  /-- LOST_LATCHED (R285); 1 bit -/
  lostLatched : Bool := false
  /-- UNDERRUN_STICKY (R288); 1 bit -/
  underrun : Bool := false
  /-- HIGH_LATCHED (R290); 1 bit -/
  highLatched : Bool := false
  /-- LOW_LATCHED (R290); 1 bit -/
  lowLatched : Bool := false
  /-- high crossings (R290); 12 bits, wraps -/
  highCross : Nat := 0
  /-- low crossings (R290); 12 bits, wraps -/
  lowCross : Nat := 0
  /-- poisoned words read (R292); 8 bits, saturating -/
  poisonRead : Nat := 0
  /-- data of the last word read, zero if none since reset (R288); 64 bits -/
  lastData : Nat := 0
  /-- LAST_EOR (R292); 1 bit -/
  lastEor : Bool := false
  /-- LAST_TORN (R292); 1 bit -/
  lastTorn : Bool := false
  /-- LAST_POISON (R292); 1 bit -/
  lastPoison : Bool := false
  /-- LAST_UNDERRUN (R292); 1 bit -/
  lastUnderrun : Bool := false
  /-- LAST_HOLD_TIMEOUT (R292); 1 bit -/
  lastTimeout : Bool := false
  /-- the next pushed word is stored with TORN 1 (after a flush) (R287); 1 bit -/
  tornNext : Bool := false
  /-- host reads stalled on the empty queue in HOLD, oldest first (R288); at most 64 a port -/
  stalled : List StalledRead := []
  /-- words of stalled reads that have completed, on their way to their ports; list -/
  answers : List ReadAnswer := []
  /-- the last push, and what the queue was before it (R289); structure -/
  pushed : Option PushMark := none
  /-- the last pop, and what the marks were before it (R290); structure -/
  popped : Option PopMark := none
  /-- marks written to QCONTROL, in force from the cycle after the write (R292); structure -/
  newMarks : Option (Stamp × Nat × Nat) := none
  /-- the last high crossing (R290); structure -/
  highAt : Option CrossMark := none
  /-- the last low crossing (R290); structure -/
  lowAt : Option CrossMark := none
  /-- record events raised toward the consumer (R286); count -/
  recordEvents : Nat := 0
  /-- OWNER of a segment notice queue: 1 read by the host or the I3C endpoint (R292); 1 bit -/
  owner : Bool := false
  /-- latchings the drain has yet to report as notices (R295); list -/
  owe : List QEvent := []
  deriving DecidableEq, Repr

/-- A management message queue: 256 words, marks at three quarters and one quarter (R283). -/
def WordQ.mgmt : WordQ := { cap := 256, high := 192, low := 64 }

/-- One entry of a column remap table (R97). -/
structure RemapEntry where
  /-- VALID (R97); 1 bit -/
  valid : Bool := false
  /-- SPARE_BAD (R97); 1 bit -/
  bad : Bool := false
  /-- LOGICAL (R97); 8 bits -/
  logical : Nat := 0
  deriving DecidableEq, Repr

/-- A row scale entry (R111). -/
structure RowScale where
  /-- row scale s (R111); 32 bits -/
  s : F32 := 0
  /-- r (R111); 32 bits -/
  r : F32 := 0
  /-- zero point za (R111); 24 bits signed -/
  za : Int := 0
  /-- POISON of the row's record (R111); 1 bit -/
  poison : Bool := false
  /-- RANGE of the row's record (R111); 1 bit -/
  range : Bool := false
  /-- ABSMAX of the record as the first pass read it (R112); 32 bits -/
  absmax : F32 := 0
  /-- MAX of that record (R112); 32 bits -/
  max : F32 := 0
  /-- MIN of that record (R112); 32 bits -/
  min : F32 := 0
  /-- row code sum (R111); 32 bits -/
  codeSum : Int := 0
  /-- outlier values by place in the list (R111); up to 32 of 16 bits -/
  outliers : List (Nat × BF16) := []
  deriving DecidableEq, Repr

/-- One column accumulator bank with what is kept beside it (R78, R80, R111, R115). -/
structure AccBank where
  /-- the open sweep that holds the bank (R80); one sweep -/
  holder : Option SweepRef := none
  /-- accumulator rows by list position (R78); 4,096 x 256 INT32, sparse -/
  acc : List (Nat × List Int) := []
  /-- row scale entries by list position (R111); 4,096 entries, sparse -/
  scales : List (Nat × RowScale) := []
  /-- side weight buffer: outlier slot and its 256 weights (R115); 16 KiB -/
  side : List (Nat × List BF16) := []
  /-- list positions fed by every pass of the sweep so far (R85); 4,096 bits -/
  fed : List Nat := []
  /-- rescale table bank of the sweep's last pass (R86); 256 entries of 128 bits -/
  table : List Nat := []
  deriving DecidableEq, Repr

/-- A tile in an array's prefetch buffer (R91). -/
structure TileBuf where
  /-- the sweep and pass whose tile it is (R91); reference -/
  tile : SweepRef × Nat := ({}, 0)
  /-- the tile takes 64 KiB (INT8), else 32 KiB (R90); 1 bit -/
  wide : Bool := false
  /-- bytes of the tile by offset (R91); 65,536 bytes, sparse -/
  bytes : Memory := []
  deriving DecidableEq, Repr

/-- A stationary weight register of the whole array with the rescale table bank that its tag selects (R86, R87). -/
structure WeightReg where
  /-- the sweep and pass whose tile the register holds (R87); reference -/
  tile : Option (SweepRef × Nat) := none
  /-- weight codes held, by physical column and depth row (R74); 264 columns × 256 rows of 8 bits, sparse -/
  weights : List (Nat × Nat × Int) := []
  /-- rescale table bank of this tag (R86); 256 entries of 128 bits -/
  table : List Nat := []
  deriving DecidableEq, Repr

/-- One broadcast array (R74 to R98). -/
structure ArrayS where
  /-- STATE (R96); 2 bits -/
  state : ArrayPhase := .held
  /-- pass tag T of the last pass issued (R86); 1 bit -/
  tag : Bool := false
  /-- stationary register 0 (R74); structure -/
  reg0 : WeightReg := {}
  /-- stationary register 1 (R74); structure -/
  reg1 : WeightReg := {}
  /-- accumulator bank 0 (R78); structure -/
  bank0 : AccBank := {}
  /-- accumulator bank 1 (R78); structure -/
  bank1 : AccBank := {}
  /-- sweeps whose last pass has been issued: what the finisher is to write of them (R88); sweeps, oldest first -/
  finishing : List AccBank := []
  /-- tile prefetch buffer (R91); 64 KiB, oldest first -/
  prefetch : List TileBuf := []
  /-- screen credit in arithmetic cycles (R63); capped at 4,096 -/
  credit : Int := 0
  /-- cycles of the array counted toward the next cycle of credit (R63); 4 bits -/
  creditPart : Nat := 0
  /-- COL_REMAP_0 and COL_REMAP_1 (R97); 8 entries -/
  remap : List RemapEntry := List.replicate 8 {}
  /-- physical columns marked failed (COL_FAULT) (R95); 264 bits, sparse -/
  faults : List Nat := []
  /-- last residue mismatch of a column and its beat (R92); beat per column -/
  lastResidue : List (Nat × Nat) := []
  /-- failed columns that wait for the next arm cycle (R93); columns -/
  pendingRemap : List Nat := []
  /-- PASS_COUNT (R95); 64 bits -/
  passCount : Nat := 0
  /-- ROW_COUNT (R95); 64 bits -/
  rowCount : Nat := 0
  /-- LOAD_STALL_CYCLES (R95); 64 bits -/
  loadStall : Nat := 0
  /-- BE_RESTART_COUNT (R95); 64 bits -/
  beRestart : Nat := 0
  /-- RESIDUE_ERROR_COUNT (R95); 64 bits -/
  residueErrors : Nat := 0
  deriving DecidableEq, Repr

/-- A granted allocation of staging SRAM (R65, R66). -/
structure Alloc where
  /-- partition (R65); 4 bits -/
  part : Nat := 0
  /-- class of the step (R65); 1 bit -/
  cls : Cls := .lc
  /-- first unit of the allocation (R102); 256-byte units -/
  base : Nat := 0
  /-- length in units (R65); 256-byte units -/
  units : Nat := 0
  /-- part of it taken from the shared region (R66); 256-byte units -/
  shared : Nat := 0
  deriving DecidableEq, Repr

/-- A kernel that runs on a Thread Complex (R161). -/
structure KernelRun where
  /-- partition (R161); 4 bits -/
  part : Nat := 0
  /-- class (R161); 1 bit -/
  cls : Cls := .lc
  /-- descriptor slot (R161); 16 bits -/
  slot : Nat := 0
  /-- thread slots held (R160); 13 bits -/
  threads : Nat := 0
  /-- core that received its first thread (R161); 6 bits -/
  firstCore : Nat := 0
  /-- its header did not match when it started (R163); 1 bit -/
  headerBad : Bool := false
  /-- counted once in KERNEL_BOUND_EXCEEDED (R165); 1 bit -/
  exceeded : Bool := false
  /-- vector registers of its threads, by thread, register and lane (R156); threads × 32 × 32 of 32 bits, sparse -/
  vregs : List (Nat × Nat) := []
  /-- its core-local store, by core and byte (R156); 64 × 64 KiB, sparse -/
  store : Memory := []
  deriving DecidableEq, Repr

/-- A segment's copy of one row list of a step in flight (R60, R84). -/
structure RowList where
  /-- entries in list order (R60); up to 4,096 of 64 bits -/
  entries : List RowEntry := []
  /-- list positions whose drop bit is set (R85); 4,096 bits, sparse -/
  drop : List Nat := []
  deriving DecidableEq, Repr

/-- A sequence that a step binds, as its segments hold it from the freeze on (R169, R170). -/
structure SegBind where
  /-- live sequence index (R60); 15 bits -/
  seq : Nat := 0
  /-- committed length L at the freeze (R170); 17 bits -/
  len : Nat := 0
  /-- root and tree nodes bound: its tree record (R169); up to 64 -/
  nodes : List BoundNode := []
  /-- first prefill position bound (R61); 17 bits -/
  from_ : Nat := 0
  /-- prefill positions bound and reserved (R61); 12 bits -/
  prefill : Nat := 0
  /-- blocks of its cache at the freeze, by position block (R178); list -/
  blocks : List Nat := []
  /-- its KV entries on the segment as the step's kernels read and write them; a commit point makes those of the step history (R176); positions -/
  kv : List KvEntry := []
  deriving DecidableEq, Repr

/-- A segment's part of a step in flight (R46, R54). -/
structure SegStep where
  /-- partition (R46); 4 bits -/
  part : Nat := 0
  /-- class (R46); 1 bit -/
  cls : Cls := .lc
  /-- launch number (R102); 32 bits -/
  launchNo : Nat := 0
  /-- edge L has passed (R46); 1 bit -/
  launched : Bool := false
  /-- slots issued (R54); descriptor slots -/
  issued : List Nat := []
  /-- slots completed (R54); descriptor slots -/
  done : List Nat := []
  /-- the segment's copies of the row lists (R60); per template -/
  rowLists : List RowList := []
  /-- sequences bound at the freeze, which a cancel leaves as they are (R169); list -/
  bound : List SegBind := []
  /-- passes already made of each open sweep slot (R56); per sweep -/
  passNext : List (Nat × Nat) := []
  /-- the step is abandoned here and issues nothing more (R66); 1 bit -/
  abandoning : Bool := false
  /-- runs of the stack, by address and length, as they were before the step's kernels and transfers wrote them, oldest first (R49, R167); list -/
  undo : List (Nat × Nat × Memory) := []
  /-- chunks written here, by descriptor slot × 32 + source segment (R129); count per slot and source -/
  landed : List (Nat × Nat) := []
  /-- commit descriptor reached (R59); 1 bit -/
  committed : Bool := false
  deriving DecidableEq, Repr

/-- A combining slot of a Link Hub (R140). -/
structure CombSlot where
  /-- partition of the transfer (R144); 4 bits -/
  part : Nat := 0
  /-- class of the transfer (R144); 1 bit -/
  cls : Cls := .lc
  /-- transfer descriptor slot (R140); 16 bits -/
  slot : Nat := 0
  /-- CHUNK index (R140); 20 bits -/
  chunk : Nat := 0
  /-- segments whose chunk has arrived (R140); inputs -/
  got : List Nat := []
  /-- FP32 mode (R140); 1 bit -/
  fp : Bool := false
  /-- common exponent in integer mode (R140); 4 bits signed -/
  e : Int := 0
  /-- exact element sums or maxima (R140); 256 of 16 bits -/
  ints : List Int := []
  /-- elements in FP32 mode (R140); 256 of 32 bits -/
  floats : List F32 := []
  deriving DecidableEq, Repr

/-- One die-to-die module (R23, R145, R148). -/
structure ModuleS where
  /-- marked failed (R145); 1 bit -/
  failed : Bool := false
  /-- reason code of the failure (R374); 8 bits -/
  reason : Nat := 0
  /-- link trained (R145); 1 bit -/
  up : Bool := false
  /-- peer authenticated (R347); 1 bit -/
  authed : Bool := false
  /-- a retraining is under way (R145); 1 bit -/
  retraining : Bool := false
  /-- beat of the last tag failure (R145); beat -/
  tagFailBeat : Option Nat := none
  /-- frame counter of this direction, 0 with each key (R148); 64 bits -/
  txFrames : Nat := 0
  /-- nonce of the frame of this direction sent last (R148); 96 bits -/
  nonce : Nat := 0
  /-- key generation modulo 512 (R347); 9 bits -/
  keyGen : Nat := 0
  /-- link key of this direction, none before training (R332); 256 bits -/
  key : Option Nat := none
  /-- its failure has been raised as SEGMENT_LOST (R147); 1 bit -/
  told : Bool := false
  deriving DecidableEq, Repr

/-- The Link Hub of a segment (R24, R25, R134 to R147). -/
structure Hub where
  /-- north module (R20); structure -/
  north : ModuleS := {}
  /-- east module (R20); structure -/
  east : ModuleS := {}
  /-- south module (R20); structure -/
  south : ModuleS := {}
  /-- west module (R20); structure -/
  west : ModuleS := {}
  /-- combining slots in use (R142); 512 slots -/
  slots : List CombSlot := []
  /-- largest e coded on each stream in the present step (R134); per stream -/
  eMax : List (Nat × Int) := []
  /-- streams on which the step sent an escape that was not forced (R138); streams -/
  escaped : List Nat := []
  /-- frames waiting at an output module (R146); link output buffers -/
  tx : List TxFrame := []
  /-- frames that wait for a combining slot (R142); input buffers -/
  waiting : List HeldFrame := []
  /-- frames that wait for detour tables (R147); input buffers -/
  rerouting : List HeldFrame := []
  /-- detour tables installed (R147); 1 bit -/
  detour : Bool := false
  deriving DecidableEq, Repr

/-- A running scan group (R241, R242). -/
structure ScanGroup where
  /-- live sequence indexes, slot order (R241); up to 8 -/
  members : List Nat := []
  /-- bytes of its table loads that travelled in class 4, beyond the share (R244); bytes -/
  beyond : Nat := 0
  /-- members that went inactive (R257); up to 8 -/
  inactive : List Nat := []
  deriving DecidableEq, Repr

/-- The Snare Engine of a segment (R267). -/
structure Snare where
  /-- ready streams, output before input (R267); queue -/
  queue : List SnareJob := []
  /-- lane and the stream it steps (R267); 64 lanes -/
  lanes : List (Nat × SnareJob) := []
  deriving DecidableEq, Repr

/-- The memory stack of a segment (R173, R174, R356, R357). -/
structure StackS where
  /-- the stack trained at 9.6 Gb/s (R406); 1 bit -/
  trained : Bool := false
  /-- stack contents by byte address (R173); 72 GiB, sparse bytes -/
  mem : Memory := []
  /-- channels retired (R379); 32 bits -/
  retired : List Nat := []
  /-- channels failed (R379); 32 bits -/
  failed : List Nat := []
  /-- channels whose units and pages are moving (R357); 32 bits -/
  retiring : List Nat := []
  /-- last uncorrectable read of a channel (R357); beat per channel -/
  lastUncorr : List (Nat × Nat) := []
  /-- channel and the beats of its corrected reads of the last 2^20 bt (R357); per channel -/
  corrected : List (Nat × List Nat) := []
  /-- units and pages mapped out through the relocation table (R356); unit addresses -/
  mappedOut : List Nat := []
  /-- pages of its pool that are mapped out singly or given to relocated units (R356, R357); page numbers -/
  taken : List Nat := []
  /-- pages of retiring channels on their way to other channels (R357); list -/
  copies : List PageCopy := []
  /-- channels with a second uncorrectable read within 2^20 bt of the first (R357); 32 bits -/
  failing : List Nat := []
  /-- a failed screen-region unit is being copied; screen work waits (R356); 1 bit -/
  screenCopy : Bool := false
  /-- beat of the last PHY window granted (R407); beat -/
  phyWindow : Option Nat := none
  deriving DecidableEq, Repr

/-- The Health Unit of a segment (R353, R376, R377). -/
structure Health where
  /-- MARGIN_PS (R379); 16 bits signed -/
  marginPs : Int := 0
  /-- GUARANTEED_CLOCK_MHZ, the present arithmetic clock (R379); 16 bits -/
  clockMhz : Nat := 2000
  /-- arithmetic clock of the fault record (R389); 16 bits -/
  recordMhz : Nat := 2000
  /-- VCORE_REQUEST_MV (R379); 16 bits -/
  vcoreMv : Nat := 750
  /-- a voltage request awaits VREQ_ACK (R415); 1 bit -/
  vreqOut : Bool := false
  /-- a clock step is scheduled for the next beat edge (R377); 1 bit -/
  stepDown : Bool := false
  /-- a measurement was discarded in amber and is due again (R383); 1 bit -/
  remeasure : Bool := false
  /-- CORRECTED_ERRORS (R379); 64 bits -/
  corrected : Nat := 0
  /-- UNCORRECTED_ERRORS (R379); 32 bits -/
  uncorrected : Nat := 0
  /-- TEMPERATURE_C (R397); 16 bits signed -/
  tempC : Int := 0
  deriving DecidableEq, Repr

/-- What a segment knows of its supplies (R380 to R384, R416). -/
structure SupplyS where
  /-- RAIL_DROOP in 0.1 % units (R397); 16 bits -/
  droop : Nat := 0
  /-- the core rail is in amber (R381); 1 bit -/
  railAmber : Bool := false
  /-- the rail has stayed above its clear level since this stamp (R382); stamp -/
  railAbove : Option Stamp := none
  /-- RAIL_AMBER_ENTRIES (R397); 32 bits -/
  railEntries : Nat := 0
  /-- the arrays feed at half pace (R381); 1 bit -/
  throttled : Bool := false
  /-- the segment treats the feed as stale (R416); 1 bit -/
  feedStale : Bool := false
  /-- when the segment received its last feed reading (R416); stamp -/
  feedAt : Option Stamp := none
  /-- GONG record in the always-on domain (R384); 256 bits -/
  gong : Option Nat := none
  deriving DecidableEq, Repr

/-- A request of the initiator channel (R403). -/
structure DmaReq where
  /-- KI_REQ_TAG (R403); 8 bits -/
  tag : Nat := 0
  /-- KI_REQ_WRITE (R403); 1 bit -/
  write : Bool := false
  /-- KI_REQ_ADDR (R403); 64 bits -/
  addr : Nat := 0
  /-- beats of the request (R403); 1 to 64 -/
  beats : Nat := 1
  /-- KI_REQ_CLASS, the traffic class less one (R403); 2 bits -/
  cls : Nat := 0
  /-- the use that decides the outcome of an error (R405); what it serves -/
  what : DmaUse := .writeBack 0 false []
  /-- write data, little-endian (R403); up to 4 KiB -/
  data : Nat := 0
  /-- first enabled byte of the first beat (R403); 6 bits -/
  off : Nat := 0
  /-- enabled bytes (R403); up to 4,096 -/
  len : Nat := 0
  /-- write-data beats already sent (R403); 0 to 64 -/
  sent : Nat := 0
  /-- bytes of the same use that further requests carry (R403); bytes -/
  more : Nat := 0
  deriving DecidableEq, Repr

/-- The Keard Native Port of a segment (R401 to R405). -/
structure Port where
  /-- the integrator connected the port (R33); 1 bit -/
  connected : Bool := false
  /-- the port has trained (R369); 1 bit -/
  trained : Bool := false
  /-- request credits held, none at reset (R403); count -/
  reqCredit : Nat := 0
  /-- write-data credits held, none at reset (R403); count -/
  wdCredit : Nat := 0
  /-- requests that wait for credit (R403); queue -/
  waiting : List DmaReq := []
  /-- requests outstanding (R403); at most 256 -/
  issued : List DmaReq := []
  /-- next tag to try (R403); 8 bits -/
  nextTag : Nat := 0
  /-- ring writes that failed, with the beat of the failure (R405); list -/
  retry : List (Nat × DmaReq) := []
  /-- KT_REQ_TAG of the last request accepted (R401); 6 bits -/
  reqTag : Nat := 0
  /-- tags of the requests outstanding (R401); at most 64 tags -/
  busy : List Nat := []
  /-- KT_RSP_TAG of the last response (R401); 6 bits -/
  rspTag : Nat := 0
  /-- KT_RSP_STATUS of the last response (R401); 2 bits -/
  rspStatus : Nat := 0
  /-- KT_RSP_RDATA of the last response (R401); 64 bits -/
  rspData : Nat := 0
  deriving DecidableEq, Repr

/-- Keys and management identity of one segment (R328 to R347, R412). -/
structure SegTrust where
  /-- lifecycle state, as the fuses give it (R328); 2 bits -/
  lifecycle : Lifecycle := .blank
  /-- LIFECYCLE fuses, three groups of 4 (R419); 12 bits -/
  lifeFuses : Nat := 0
  /-- LICENSEE_ID fuses, 0x1018.03 (R419); 32 bits -/
  licensee : Nat := 0
  /-- JEDEC_CODE fuses (R419); 11 bits -/
  jedec : Nat := 0
  /-- MIPI_MFR fuses (R419); 15 bits -/
  mipi : Nat := 0
  /-- PUF enrolled (R329); 1 bit -/
  pufEnrolled : Bool := false
  /-- PUF helper data in OTP (R419); 4,096 bits -/
  pufHelper : Nat := 0
  /-- IDENTITY_SEED fuses (R419); 256 bits -/
  seed : Nat := 0
  /-- SERIAL fuses, 0x1018.05 (R419); 64 bits -/
  serial : Nat := 0
  /-- DIE_REVISION fuses, 0x1018.04 (R419); 32 bits -/
  dieRev : Nat := 0
  /-- identity key derived at reset release (R331); ECDSA P-384 -/
  identity : Option Nat := none
  /-- identity certificate in OTP, as bytes (R419); 65,536 bits with the chain -/
  identityCert : List Nat := []
  /-- the provisioning chain in OTP of a manager or standby die, root and intermediate, as bytes (R419); 65,536 bits with the certificate -/
  chain : List Nat := []
  /-- wrapped block image key in OTP of a manager or standby die (R419); 1,024 bits -/
  imageKey : Option Nat := none
  /-- officer root key hashes in OTP (R419); 2 of 384 bits -/
  officerRoots : List Nat := []
  /-- stack key of each owner, 15 the screen region, 16 the block (R332); 512 bits each -/
  stackKeys : List (Nat × Nat) := []
  /-- nonce counter per partition of the present epoch (R194); 64 bits each -/
  dimCounter : List (Nat × Nat) := []
  /-- dynamic address of the I3C target (R412); 7 bits -/
  i3cAddr : Option Nat := none
  /-- data byte of the in-band interrupt that the controller has not answered yet (R412); 8 bits -/
  ibi : Option Nat := none
  /-- in-band interrupts raised (R412); count -/
  ibis : Nat := 0
  /-- fused static address, 0 none (R419); 7 bits -/
  i3cStatic : Nat := 0
  /-- MCTP endpoint ID of its I3C target, 0 before one is set (R310); 8 bits -/
  eid : Nat := 0
  /-- block version of the segment (R10); 32 bits -/
  version : Nat := 0x00030200
  /-- firmware digest of the segment (R336); 384 bits -/
  fwDigest : Nat := 0
  /-- the test port holds the segment (R291); 1 bit -/
  testHeld : Bool := false
  deriving DecidableEq, Repr

/-- The counters of a segment that no other structure holds (R128, R155, R172, R202, R259, R282). -/
structure SegCount where
  /-- ROWS_POISONED (R128); 32 bits -/
  rowsPoisoned : Nat := 0
  /-- INF_CLAMPS (R128); 32 bits -/
  infClamps : Nat := 0
  /-- ACT_SATURATIONS (R128); 64 bits -/
  actSat : Nat := 0
  /-- ZA_CLAMPS (R128); 32 bits -/
  zaClamps : Nat := 0
  /-- FINISH_RANGE (R128); 32 bits -/
  finishRange : Nat := 0
  /-- STATS_PASS_ROWS (R128); 64 bits -/
  statsRows : Nat := 0
  /-- ACC_SATURATED (R128); 1 bit -/
  accSat : Bool := false
  /-- KV_SCALE_CLAMPS (R128); 32 bits -/
  kvClamps : Nat := 0
  /-- KLF_ESCAPES (R155); 64 bits -/
  klfEscapes : Nat := 0
  /-- KLF_FORCED_ESCAPES (R155); 64 bits -/
  klfForced : Nat := 0
  /-- KLF_SAT_ELEMENTS (R155); 64 bits -/
  klfSat : Nat := 0
  /-- KLF_UNDERRANGE (R155); 64 bits -/
  klfUnder : Nat := 0
  /-- FP32_SLOTS (R155); 64 bits -/
  fp32Slots : Nat := 0
  /-- STALE_FRAME_DROPS (R155); 32 bits -/
  staleDrops : Nat := 0
  /-- LINK_TAG_FAILURES (R155); 32 bits -/
  tagFails : Nat := 0
  /-- KERNEL_FAULTS (R172); 32 bits -/
  kernelFaults : Nat := 0
  /-- KERNEL_BOUND_EXCEEDED (R172); 32 bits -/
  boundExceeded : Nat := 0
  /-- THREAD_ISSUE_CYCLES (R172); 64 bits -/
  issueCycles : Nat := 0
  /-- PAGES_MAPPED_OUT (R202); 32 bits -/
  pagesOut : Nat := 0
  /-- COMPACT_ACCESSES (R202); 64 bits -/
  compactAcc : Nat := 0
  /-- SCAN_CODES (R259); 64 bits -/
  scanCodes : Nat := 0
  /-- SCAN_HELD_CYCLES (R259); 64 bits -/
  scanHeld : Nat := 0
  /-- SNARE_UNITS (R282); 64 bits -/
  snareUnits : Nat := 0
  /-- SNARE_MATCHES (R282); 64 bits -/
  snareMatches : Nat := 0
  /-- SNARE_RESTARTS (R282); 32 bits -/
  snareRestarts : Nat := 0
  deriving DecidableEq, Repr

/-- One segment of the block (R20, R32). -/
structure Segment where
  /-- SEGMENT_STATE (R379); 3 bits -/
  state : SegState := .held
  /-- reason the segment was lost, 0 none (R374); 8 bits -/
  lostReason : Nat := 0
  /-- reason the segment is fenced, 0 none (R375); 8 bits -/
  fenceReason : Nat := 0
  /-- beat stamp of the last heartbeat received (R363); 64 bits -/
  lastHb : Nat := 0
  /-- beat of the last acknowledgement that reached the manager (R359); 64 bits -/
  lastAck : Nat := 0
  /-- heartbeat age frozen at hush entry (R395); 16 bits -/
  frozenAge : Option Nat := none
  /-- manager whose heartbeats the segment receives (R363); 5 bits -/
  hbFrom : Nat := 0
  /-- the Beat Unit runs from its own reference (R40); 1 bit -/
  ownRef : Bool := false
  /-- its own time reference is present within R41 (R41); 1 bit -/
  refPresent : Bool := false
  /-- its reference was lost and has yet to be restored (R41); 1 bit -/
  refLost : Bool := false
  /-- consecutive pulses per second of its own reference that met every condition of R41 (R42); count -/
  goodPps : Nat := 0
  /-- heartbeats sent to the segment and not yet received (R29); beat stamps -/
  hbWay : List Nat := []
  /-- self-test passed since reset (R393); 1 bit -/
  selfTested : Bool := false
  /-- reset inputs that are asserted and hold the segment (R400); 3 inputs -/
  resetIn : List ResetInput := [.aoPor]
  /-- beat of reset release plus 2,000,000 (R393); 64 bits -/
  joinDeadline : Nat := 0
  /-- held in reset with its links power-gated (R359); 1 bit -/
  inReset : Bool := true
  /-- broadcast array MA0 (R20); structure -/
  ma0 : ArrayS := {}
  /-- broadcast array MA1 (R20); structure -/
  ma1 : ArrayS := {}
  /-- staging SRAM by byte address (R20); 96 MiB, sparse bytes -/
  staging : Memory := []
  /-- record valid bits set, by unit (R102); 393,216 bits, sparse -/
  validBits : List Nat := []
  /-- allocations granted and not yet freed (R66); list -/
  allocs : List Alloc := []
  /-- its parts of the steps in flight (R66); at most 3 -/
  steps : List SegStep := []
  /-- kernels running (R161); list -/
  kernels : List KernelRun := []
  /-- core after the one that received the last thread (R161); 6 bits -/
  nextCore : Nat := 0
  /-- Link Hub (R20); structure -/
  hub : Hub := {}
  /-- live sequence indexes of waiting queries (R241); queue -/
  scanQueue : List Nat := []
  /-- running scan group (R241); structure -/
  scanGroup : Option ScanGroup := none
  /-- window of 2,000 arithmetic cycles counted last (R244); count -/
  scanWin : Nat := 0
  /-- retrieval bytes asked for in that window (R244); bytes -/
  scanSpent : Nat := 0
  /-- live sequence indexes that hold a LUT store slot (R232); 512 slots -/
  lutUsed : List Nat := []
  /-- bytes of the passage store in use (R232); 64 MiB -/
  passageUsed : Nat := 0
  /-- Snare Engine (R267); structure -/
  snare : Snare := {}
  /-- memory stack (R20); structure -/
  stack : StackS := {}
  /-- Health Unit (R20); structure -/
  health : Health := {}
  /-- supplies (R380); structure -/
  supply : SupplyS := {}
  /-- segment notice queue (R283); structure -/
  nq : WordQ := {}
  /-- inbound queue of the I3C endpoint, 256 words (R309); structure -/
  i3cIn : WordQ := WordQ.mgmt
  /-- outbound queue of the I3C endpoint (R309); structure -/
  i3cOut : WordQ := WordQ.mgmt
  /-- Keard Native Port (R401); structure -/
  port : Port := {}
  /-- Trust Unit and always-on management (R20); structure -/
  trust : SegTrust := {}
  /-- counters (R128); structure -/
  cnt : SegCount := {}
  deriving DecidableEq, Repr

/-- The segments of a configuration as a power-on reset leaves them (R20). -/
def Segment.all (cfg : BlockCfg) : List Segment :=
  (List.range cfg.kind.segments).map fun i => { port := { connected := cfg.connected.contains i } }

/-- One serving loop of a partition (R45, R50, R301). -/
structure Loop where
  /-- a loop of this class runs (R45); 1 bit -/
  running : Bool := false
  /-- program the loop runs (R45); 16 bits -/
  programId : Nat := 0
  /-- launches still to make, none: until stopped (R45); 16 bits -/
  remaining : Option Nat := none
  /-- a STOP ends the loop at its next freeze (R301); 1 bit -/
  stopping : Bool := false
  /-- first beat edge at which the next freeze may take place (R50); 64 bits -/
  freezeAt : Nat := 0
  /-- the step in flight (R46); structure -/
  step : Option StepS := none
  /-- segments whose hub has yet to report its inputs clear (R144); segments -/
  clearing : List Nat := []
  deriving DecidableEq, Repr

/-- A screen policy (R263, R282). -/
structure Policy where
  /-- IN_SETS (R282); 8 bits -/
  inSets : Nat := 0
  /-- OUT_SETS (R282); 8 bits -/
  outSets : Nat := 0
  /-- VERDICT_MAP (R282); 8 bits -/
  verdictMap : Nat := 0xFF
  /-- IN_CLASSIFIER (R282); 16 bits -/
  inClassifier : Nat := 0xFFFF
  /-- OUT_CLASSIFIER (R282); 16 bits -/
  outClassifier : Nat := 0xFFFF
  /-- SCREEN_MODEL (R282); 16 bits -/
  screenModel : Nat := 0xFFFF
  /-- D_IN_BT (R282); 16 bits -/
  dIn : Nat := 1600
  /-- D_OUT_BT (R282); 16 bits -/
  dOut : Nat := 400
  /-- SCREEN_LOCK (R282); 1 bit -/
  lock : Bool := false
  deriving DecidableEq, Repr

/-- One partition: its committed entries, what is resident in it and its loops and queues. -/
structure Partition where
  /-- SEGMENT_MASK (R229); 20 bits -/
  segMask : Nat := 0
  /-- TARGET_MODEL (R229); 16 bits -/
  targetModel : Nat := 0xFFFF
  /-- DRAFT_MODEL (R229); 16 bits -/
  draftModel : Nat := 0xFFFF
  /-- PASS_TARGET (R73); 16 bits -/
  passTarget : Nat := 0
  /-- LC_FLOOR_MIB (R73); 16 bits -/
  lcFloor : Nat := 0
  /-- TREE_TEMPLATES (R229); 64 templates of 64 bytes -/
  templates : List (List Nat) := [rootAlone]
  /-- STEP_RECORDS (R229); 1 bit -/
  stepRecords : Bool := false
  /-- MODEL_AREA_GIB (R202); 8 bits -/
  modelArea : Nat := 4
  /-- RETRIEVAL_AREA_GIB (R202); 8 bits -/
  retrievalArea : Nat := 0
  /-- DECODE_RESERVE (R202); 32 bits -/
  decodeReserve : Nat := 4096
  /-- JOIN_WAIT_BT (R202); 16 bits -/
  joinWait : Nat := 400
  /-- RESUME_HEADROOM (R202); 32 bits -/
  resumeHeadroom : Nat := 4096
  /-- DEFAULT_TTL_BT (R202); 64 bits -/
  defaultTtl : Nat := 180000000
  /-- MAX_TTL_BT (R202); 64 bits -/
  maxTtl : Nat := 17280000000
  /-- DIM_POOL: base byte address and length in 4 KiB units (R202); 16 extents -/
  dimPool : List (Nat × Nat) := []
  /-- SCAN_SHARE_GBPS (R259); 16 bits -/
  scanShare : Nat := 0
  /-- PACK_TEMPLATES (R259); 16 templates -/
  packTemplates : List PackTemplate := []
  /-- STEP_CMP_RING (R305); 16 bits -/
  stepCmpRing : Nat := 0xFFFF
  /-- screen policy (partitions 0 to 14) (R263); structure -/
  policy : Policy := {}
  /-- resident step programs (R51); up to 64 -/
  programs : List Program := []
  /-- streams of the stream tables (R134); up to 4,096 -/
  streams : List StreamS := []
  /-- resident kernels (R159); up to 256 -/
  kernels : List Kernel := []
  /-- resident model images (R344); list -/
  models : List Model := []
  /-- latency-critical loop (R45); structure -/
  lc : Loop := {}
  /-- best-effort loop (R45); structure -/
  be : Loop := {}
  /-- LC admission queue, arrival order (R208); queue -/
  lcQueue : List Request := []
  /-- BE admission queue, arrival order (R208); queue -/
  beQueue : List Request := []
  /-- the status that stopped the partition (R360); 8 bits -/
  stopped : Option Status := none
  /-- pages of the page pool as it was laid out, before any channel is mapped out (R173); 32 bits -/
  layout : Nat := 0
  /-- SCREEN_STACK_MIB as it stood when the partition was configured, which its areas follow (R173); 16 bits -/
  screenMib : Nat := 1024
  /-- POOL_PAGES, pages of the least segment after channels mapped out (R202); 32 bits -/
  poolPages : Nat := 0
  /-- POOL_FREE (R202); 32 bits -/
  poolFree : Nat := 0
  /-- pages on their way back with the stamp of their return (R198); list -/
  returning : List (Nat × Stamp) := []
  /-- OVERRUN_COUNT (R73); 32 bits -/
  overruns : Nat := 0
  deriving DecidableEq, Repr

/-- A tenant table entry and its bucket (R222, R225). -/
structure Tenant where
  /-- VALID (R225); 1 bit -/
  valid : Bool := false
  /-- PRIORITY (R225); 3 bits -/
  priority : Nat := 0
  /-- INPUT_WEIGHT (R225); 16 bits -/
  inputWeight : Nat := 64
  /-- RATE (R225); 32 bits -/
  rate : Nat := 0
  /-- BURST (R225); 32 bits -/
  burst : Nat := 1
  /-- OVERDRAFT (R225); 32 bits -/
  overdraft : Nat := 0
  /-- RESUME_MARK (R225); 32 bits -/
  resumeMark : Nat := 1
  /-- PARTITIONS (R225); 16 bits -/
  partitions : Nat := 0
  /-- bucket level in 1/256 token (R222); 64 bits signed -/
  level : Int := 0
  deriving DecidableEq, Repr

/-- A Handle Directory entry (R185) with what its prefix root table entry and pages hold. -/
structure Handle where
  /-- HANDLE (R185); 64 bits -/
  handle : Nat := 0
  /-- EXPIRY (R185); 64 bits -/
  expiry : Nat := 0
  /-- RECORD_ID and DIM_REF (R185); structure -/
  dim : Option DimRec := none
  /-- REFCOUNT (R185); 16 bits -/
  refcount : Nat := 0
  /-- PREFIX_LEN (R185); 17 bits -/
  prefixLen : Nat := 0
  /-- TENANT (R185); 12 bits -/
  tenant : Nat := 0
  /-- PARTITION (R185); 4 bits -/
  part : Nat := 0
  /-- TIER (R185); 2 bits -/
  tier : Tier := .bright
  /-- DRAFT (R185); 1 bit -/
  draft : Bool := false
  /-- LAST_TOKEN of the prefix root entries (R178); 18 bits -/
  lastToken : Nat := 0
  /-- bright pages per segment the entry itself holds (R188); pages -/
  ownPages : Nat := 0
  /-- older entry whose block records its maps point at (R188); slot -/
  older : Option Nat := none
  /-- what its block maps and their block records name (R178); position blocks -/
  map : List (Nat × BlockRef) := []
  /-- dim write or fetch in progress (R196); list -/
  moving : Option DimMove := none
  /-- keys and values of the prefix (R176); pages -/
  kv : List KvEntry := []
  deriving DecidableEq, Repr

/-- A live sequence (R28, R208) with the state of its request. -/
structure Sequence where
  /-- the request (R208); structure -/
  req : Request := {}
  /-- admission stamp (R208); stamp -/
  admitAt : Stamp := {}
  /-- screen segment (R261); 5 bits -/
  screenSeg : Nat := 0
  /-- directory entry it was admitted against (R187); slot -/
  entry : Option Nat := none
  /-- position blocks it reads with SHARED 1 (R187); blocks -/
  shared : Nat := 0
  /-- directory entry that its save made, which it reads (R188); slot -/
  savedEntry : Option Nat := none
  /-- positions held through its handle, P of R187 (R208); 17 bits -/
  handleLen : Nat := 0
  /-- committed length E at which it started (R187); 17 bits -/
  start : Nat := 0
  /-- COMMITTED_LEN (R178); 17 bits -/
  committed : Nat := 0
  /-- LAST_TOKEN (R178); 18 bits -/
  lastToken : Nat := 0
  /-- position blocks of its own, each one block set (R177); position blocks -/
  ownBlocks : List Nat := []
  /-- what its block maps and their block records name (R178); position blocks -/
  map : List (Nat × BlockRef) := []
  /-- decodes with speculative trees (R187); 1 bit -/
  speculate : Bool := false
  /-- the partial block of its entry is not yet copied (R187); 1 bit -/
  copyPending : Bool := false
  /-- packed content, once handed over (R255); tokens -/
  packed : Option (List Nat) := none
  /-- a retrieval plan has yet to hand over (R255); 1 bit -/
  awaitHandOver : Bool := false
  /-- launch number of the last step that bound a root of it (R61); 32 bits -/
  rooted : Option Nat := none
  /-- output tokens in position order (R215); token IDs -/
  outputs : List Nat := []
  /-- output tokens drawn in steps with HOLD 0, which are never screened (R59); output token places -/
  unheld : List Nat := []
  /-- count stores, least recently raised first (R211); 4,096 per segment -/
  counts : List Count := []
  /-- keys and values, provisional slots included (R176); pages -/
  kv : List KvEntry := []
  /-- hold buffer (R278); at most 256 -/
  hold : List Held := []
  /-- output groups not yet judged and released (R274); list -/
  groups : List Group := []
  /-- automaton streams (R267); per slot and direction -/
  autos : List Auto := []
  /-- input verdict as far as found (R272); structure -/
  verdict : Verdict := {}
  /-- release instant of the input verdict (R273); stamp -/
  inDue : Stamp := {}
  /-- input verdict released (R273); 1 bit -/
  released : Bool := false
  /-- input mark not yet delivered (R276); 12 bits -/
  inputMark : Option Nat := none
  /-- input chunks classified and committed (R273); count -/
  chunksDone : Nat := 0
  /-- the preceding output token was released redacted (R276); 1 bit -/
  lastRedacted : Bool := false
  /-- tier state of a paused sequence (R196); 2 bits -/
  tier : Tier := .bright
  /-- dim write or fetch in progress (R196); list -/
  moving : Option DimMove := none
  /-- dim record (R196); structure -/
  dim : Option DimRec := none
  /-- a dim write starts at the commit point of its step (R196); 1 bit -/
  dimAsked : Bool := false
  /-- paused for its budget (R223); beat and order -/
  pausedBudget : Option PauseAt := none
  /-- its budget pause has become a resumption candidate (R224); 1 bit -/
  resumable : Bool := false
  /-- paused for pages (R200); beat and order -/
  pausedPages : Option PauseAt := none
  /-- paused for its ring (R303); 1 bit -/
  pausedRing : Bool := false
  /-- terminal status and end instant (R219); 8 bits and stamp -/
  ended : Option (Status × Stamp) := none
  /-- its pages have returned (R219); 1 bit -/
  pagesBack : Bool := false
  /-- its save has been decided (R188); 1 bit -/
  saved : Bool := false
  /-- the block set for the partial copy is reserved in the step in flight (R188); 1 bit -/
  saveBlock : Bool := false
  /-- handle result code (R189); 4 bits -/
  handleResult : Nat := 0
  /-- input tokens charged (R226); 32 bits -/
  inputTokens : Nat := 0
  /-- tokens delivered (R226); 32 bits -/
  delivered : Nat := 0
  /-- steps that bound a root (R226); 32 bits -/
  steps : Nat := 0
  /-- stream records written (R226); 32 bits -/
  records : Nat := 0
  /-- next RECORD_SEQ (R227); 32 bits -/
  recordSeq : Nat := 0
  /-- released token entries that wait for the STR ring (R302); shared 262,144 -/
  backlog : List TokBack := []
  /-- token entries of the stream records being written, which keep their places in the token backlog until the record is visible (R405); per record -/
  flying : List (List TokBack) := []
  /-- result entries that wait for the STR ring (R302); entries -/
  results : List ResBack := []
  /-- retrieval plan (R237); structure -/
  plan : Option Plan := none
  /-- its completion record is made and bound for its ring (R219); 1 bit -/
  recorded : Bool := false
  /-- its stream and result records not yet covered by a write-back (R302); count -/
  unwritten : Nat := 0
  deriving DecidableEq, Repr

/-- A ring context (R297) with what the block keeps for the ring. -/
structure Ring where
  /-- BASE (R297); 64 bits -/
  base : Nat := 0
  /-- INDEX_WB (R297); 64 bits -/
  indexWb : Nat := 0
  /-- KIND (R297); 2 bits -/
  kind : Nat := 0
  /-- ENABLE (R297); 1 bit -/
  enable : Bool := false
  /-- EV_ENABLE (R297); 1 bit -/
  evEnable : Bool := false
  /-- SIZE_LOG2 (R297); 5 bits -/
  sizeLog2 : Nat := 6
  /-- EVENT_VECTOR (R297); 11 bits -/
  vector : Nat := 0
  /-- TENANT (R297); 12 bits -/
  tenant : Nat := 0
  /-- ANY_TENANT (R297); 1 bit -/
  anyTenant : Bool := false
  /-- MOD_BT (R297); 16 bits -/
  modBt : Nat := 0
  /-- PAUSE_BT (R297); 16 bits -/
  pauseBt : Nat := 2000
  /-- KIND_MASK (R297); 16 bits -/
  kindMask : Nat := 0
  /-- PARTITION_MASK (R297); 16 bits -/
  partMask : Nat := 0
  /-- HIGH_MARK (R297); 32 bits -/
  high : Nat := 0xFFFFFFFF
  /-- LOW_MARK (R297); 32 bits -/
  low : Nat := 0
  /-- HEAD (R297); 32 bits -/
  head : Nat := 0
  /-- TAIL (R297); 32 bits -/
  tail : Nat := 0
  /-- HIGH_CROSSINGS (R297); 32 bits -/
  highCross : Nat := 0
  /-- LOW_CROSSINGS (R297); 32 bits -/
  lowCross : Nat := 0
  /-- LOST (R297); 32 bits -/
  lost : Nat := 0
  /-- HIGH_LATCHED (R297); 1 bit -/
  highLatched : Bool := false
  /-- LOW_LATCHED (R297); 1 bit -/
  lowLatched : Bool := false
  /-- LOST_LATCHED (R297); 1 bit -/
  lostLatched : Bool := false
  /-- DB_ERROR (R297); 1 bit -/
  dbError : Bool := false
  /-- PAUSING (R297); 1 bit -/
  pausing : Bool := false
  /-- DOORBELL_ERRORS (R297); 32 bits -/
  dbErrors : Nat := 0
  /-- BACKLOG: completion and step records waiting, oldest first (R302); list -/
  backlog : List BackRec := []
  /-- records on the initiator channel, not yet visible (R404); list -/
  writing : List BackRec := []
  /-- an index write-back is due (R299); 1 bit -/
  wbDue : Bool := false
  /-- the write-back covers something that raises the vector (R299); 1 bit -/
  raiseDue : Bool := false
  /-- beat of the last pulse made due (R299); beat -/
  lastPulse : Option Nat := none
  /-- a raise is held within MOD_BT (R299); 1 bit -/
  heldRaise : Bool := false
  /-- words written since enabled, the next WORD_SEQ (R304); 48 bits -/
  words : Nat := 0
  /-- the next word written carries TORN 1 (R298); 1 bit -/
  tornNext : Bool := false
  /-- POISON, TORN and EOR of the words in the ring, oldest first (R304); 3 bits per entry -/
  flags : List Nat := []
  /-- the cycle of the last index move, whose crossings are judged together (R296); structure -/
  cyc : Option RingCyc := none
  /-- records that are visible and await a covering write-back (R302); list -/
  toCover : List BackRec := []
  /-- records that a failed write-back covers, unwritten until it succeeds (R405); list -/
  rewrites : List BackRec := []
  deriving DecidableEq, Repr

/-- The committed values of the block-wide writable entries (R326). -/
structure Globals where
  /-- PLAN_CLOCK_MHZ (R73); 16 bits -/
  planClock : Nat := 1900
  /-- PASS_TARGET_DEFAULT (R73); 16 bits -/
  passDefault : Nat := 1024
  /-- HANG_FACTOR (R73); 8 bits -/
  hangFactor : Nat := 4
  /-- SPAN_ROLE (R325); 8 bits -/
  spanRole : Nat := 0
  /-- SPAN_UDP_PORT (R155); 16 bits -/
  spanPort : Nat := 50560
  /-- SPAN_MTU (R155); 16 bits -/
  spanMtu : Nat := 9000
  /-- SPAN_RETX_BT (R155); 16 bits -/
  spanRetx : Nat := 40
  /-- SPAN_PEERS: index and IPv6 address (R155); 63 entries -/
  spanPeers : List (Nat × Nat) := []
  /-- SPAN_WINDOWS (R155); 256 entries -/
  spanWindows : List Window := []
  /-- SPAN_TRAFFIC_CLASS (R155); 8 bits -/
  spanTc : Nat := 0
  /-- SCREEN_STACK_MIB (R202); 16 bits -/
  screenStack : Nat := 1024
  /-- SPAN_LOCAL_MAC (R423); 48 bits -/
  localMac : Nat := 0
  /-- SPAN_GATEWAY_MAC (R423); 48 bits -/
  gatewayMac : Nat := 0
  /-- SPAN_LOCAL_IP (R423); 128 bits -/
  localIp : Nat := 0
  /-- PPS_DELAY_NS (R423); 16 bits signed -/
  ppsDelay : Int := 0
  /-- SLEW_LIMIT_PPM (R73); 16 bits -/
  slewPpm : Nat := 1000
  /-- BEAT_SKEW_LIMIT_NS (R73); 16 bits -/
  skewNs : Nat := 100
  /-- FEED_AMBER (R397); 16 bits -/
  feedAmber : Nat := 4600
  /-- FEED_CRIMSON (R397); 16 bits -/
  feedCrimson : Nat := 4200
  /-- FEED_CLEAR (R397); 16 bits -/
  feedClear : Nat := 4700
  /-- CLEAR_BT (R397); 16 bits -/
  clearBt : Nat := 20
  /-- THERMAL_TRIP_C (R397); 8 bits -/
  thermalTrip : Nat := 115
  /-- MARGIN_THRESHOLD_PS (R379); 16 bits -/
  marginThreshold : Nat := 40
  /-- MARGIN_FLOOR_PS (R379); 16 bits -/
  marginFloor : Nat := 10
  /-- VCORE_MAX_MV (R379); 16 bits -/
  vcoreMax : Nat := 800
  /-- CHANNEL_RETIRE_COUNT (R379); 32 bits -/
  retireCount : Nat := 1024
  /-- HOLD_LIMIT_BT (R305); 16 bits -/
  holdLimit : Nat := 200
  /-- MGMT_RINGS (R325); 32 bits -/
  mgmtRings : Nat := 0
  /-- ARCHIVE_REGIONS (R259); 64 entries -/
  regions : List Region := []
  /-- SPAN_WAIT_BT (R259); 16 bits -/
  spanWait : Nat := 400
  /-- SPAN_PARTITION (R259); 8 bits -/
  spanPartition : Nat := 0xFF
  /-- OWNER_KEYS: hash and KINDS (R352); 32 entries -/
  ownerKeys : List (Nat × Nat) := []
  /-- SPAN_TRUST (R352); 64 entries -/
  spanTrust : List TrustEntry := []
  deriving DecidableEq, Repr

/-- The block-wide counters (0x2400, 0x600x, 0x601x). -/
structure Counters where
  /-- SPAN_SESSIONS_LOST (R155); 32 bits -/
  spanLost : Nat := 0
  /-- SPAN_WINDOW_DROPS (R155); 32 bits -/
  windowDrops : Nat := 0
  /-- SPAN_DATAGRAM_DROPS (R155); 32 bits -/
  datagramDrops : Nat := 0
  /-- SPAN_FRAME_DROPS (R423); 32 bits -/
  frameDrops : Nat := 0
  /-- NO_PAGES_COUNT (R202); 32 bits -/
  noPages : Nat := 0
  /-- DECODE_DEFERS (R202); 64 bits -/
  decodeDefers : Nat := 0
  /-- RECLAIM_EXPIRED (R202); 32 bits -/
  reclaimExpired : Nat := 0
  /-- RECLAIM_BRIGHT_DROPS (R202); 32 bits -/
  reclaimDrops : Nat := 0
  /-- RECLAIM_BE_PAUSES (R202); 32 bits -/
  reclaimPauses : Nat := 0
  /-- DIM_POOL_FULL (R202); 32 bits -/
  dimFull : Nat := 0
  /-- DIM_SEAL_FAILS (R202); 32 bits -/
  dimSealFails : Nat := 0
  /-- DIR_INSERT_FAILS (R202); 32 bits -/
  dirInsertFails : Nat := 0
  /-- COUNT_DROPS (R229); 64 bits -/
  countDrops : Nat := 0
  /-- SAMPLER_POISON (R229); 32 bits -/
  samplerPoison : Nat := 0
  /-- STEPS_VERIFIED (R229); 64 bits -/
  stepsVerified : Nat := 0
  /-- TOKENS_ACCEPTED (R229); 64 bits -/
  tokensAccepted : Nat := 0
  /-- CANCELS (R229); 32 bits -/
  cancels : Nat := 0
  /-- CANCELS_TOO_LATE (R229); 32 bits -/
  cancelsLate : Nat := 0
  /-- BUDGET_REFUSALS (R229); 32 bits -/
  budgetRefusals : Nat := 0
  /-- BUDGET_PAUSES (R229); 32 bits -/
  budgetPauses : Nat := 0
  /-- RETRIEVAL_PLANS (R259); 64 bits -/
  plans : Nat := 0
  /-- RETRIEVAL_OVERRUNS (R259); 32 bits -/
  planOverruns : Nat := 0
  /-- ARCHIVE_FETCH_FAILS (R259); 32 bits -/
  fetchFails : Nat := 0
  /-- SPAN_LATE_RESULTS (R259); 32 bits -/
  spanLate : Nat := 0
  /-- PACK_EMPTY (R259); 32 bits -/
  packEmpty : Nat := 0
  /-- RETRIEVAL_POISON (R259); 32 bits -/
  retrPoison : Nat := 0
  /-- SCAN_GROUPS (R259); 64 bits -/
  scanGroups : Nat := 0
  /-- INPUT_VERDICTS (R282); 64 bits -/
  inputVerdicts : Nat := 0
  /-- INPUT_BLOCKS (R282); 32 bits -/
  inputBlocks : Nat := 0
  /-- OUTPUT_STOPS (R282); 32 bits -/
  outputStops : Nat := 0
  /-- TOKENS_REDACTED (R282); 64 bits -/
  redacted : Nat := 0
  /-- TOKENS_MARKED (R282); 64 bits -/
  marked : Nat := 0
  /-- VERDICTS_LATE_IN (R282); 32 bits -/
  lateIn : Nat := 0
  /-- VERDICTS_LATE_OUT (R282); 32 bits -/
  lateOut : Nat := 0
  /-- LATE_BEATS (R282); 64 bits -/
  lateBeats : Nat := 0
  /-- REDACT_PARTIAL (R282); 32 bits -/
  redactPartial : Nat := 0
  /-- STOP_AFTER_END (R282); 32 bits -/
  stopAfterEnd : Nat := 0
  /-- HOLD_DEFERS (R282); 64 bits -/
  holdDefers : Nat := 0
  /-- QUERY_PARTIAL (R282); 32 bits -/
  queryPartial : Nat := 0
  /-- CATEGORY_NAN (R282); 32 bits -/
  categoryNan : Nat := 0
  /-- INPUT_MARKS_UNDELIVERED (R282); 32 bits -/
  marksLost : Nat := 0
  /-- RING_PAUSES (R305); 32 bits -/
  ringPauses : Nat := 0
  /-- NOTICES_UNROUTED (R305); 32 bits -/
  unrouted : Nat := 0
  /-- STEP_RECORDS_LOST (R305); 32 bits -/
  stepRecLost : Nat := 0
  /-- SUB_CLAMPED (R305); 32 bits -/
  subClamped : Nat := 0
  /-- ENVELOPE_SEAL_FAILS (R352); 32 bits -/
  envFails : Nat := 0
  /-- IMAGE_SEAL_FAILS (R352); 32 bits -/
  imageFails : Nat := 0
  /-- SPAN_AUTH_FAILS (R352); 32 bits -/
  spanAuthFails : Nat := 0
  /-- STEPS_DISCARDED (R379); 64 bits -/
  stepsDiscarded : Nat := 0
  /-- TAKEOVERS (R379); 32 bits -/
  takeovers : Nat := 0
  /-- SEGMENTS_LOST (R379); 32 bits -/
  segmentsLost : Nat := 0
  /-- SPLITS (R379); 32 bits -/
  splits : Nat := 0
  /-- DMA_READ_ERRORS (R423); 32 bits -/
  dmaReadErrors : Nat := 0
  /-- DMA_WRITE_ERRORS (R423); 32 bits -/
  dmaWriteErrors : Nat := 0
  /-- FEED_STALE_COUNT (R423); 32 bits -/
  feedStale : Nat := 0
  /-- AMBER_ENTRIES (R397); 32 bits -/
  amberEntries : Nat := 0
  /-- THROTTLE_BEATS (R397); 64 bits -/
  throttleBeats : Nat := 0
  /-- OAM_DISCARDS (R325); 32 bits -/
  oamDiscards : Nat := 0
  deriving DecidableEq, Repr

/-- The beat and the sequencer (R39 to R48). -/
structure TimeBase where
  /-- beat counter, BEAT_COUNT (R39); 64 bits -/
  beat : Nat := 0
  /-- the beat has been acquired since the power-on (R39); 1 bit -/
  acquired : Bool := false
  /-- REF_STATE (R73); 8 bits -/
  refState : RefState := .locked
  /-- offset between beat and reference, REF_OFFSET_NS in ps (R73); ps -/
  offsetPs : Int := 0
  /-- consecutive pulses per second that met every condition of R41 (R42); count -/
  goodPps : Nat := 0
  /-- last stamp the sequencer gave (R48); stamp -/
  last : Stamp := {}
  /-- control cycle of the event under way; stamp -/
  now : Stamp := {}
  /-- how far the work of this edge has come: 0 refill, 1 freezes, 2 admissions, 3 resumptions (R199); 3 bits -/
  edgePhase : Nat := 0
  /-- partition and class of the last freeze of this edge (R199); 6 bits -/
  edgeRank : Nat := 0
  /-- next launch number (R102); 32 bits -/
  launchNo : Nat := 0
  /-- Handle Directory set the next beat edge sweeps (R191); 13 bits -/
  sweepSet : Nat := 0
  deriving DecidableEq, Repr

/-- A mirror delta (R30): the three tables as the commit left them. -/
structure Delta where
  /-- sequence number of the commit (R30); 64 bits -/
  seqNo : Nat := 0
  /-- Handle Directory (R30); table -/
  handles : List (Nat × Handle) := []
  /-- tenant table (R30); table -/
  tenants : List (Nat × Tenant) := []
  /-- ring contexts (R30); table -/
  rings : List (Nat × Ring) := []
  deriving DecidableEq, Repr

/-- The standby's mirror and the manager's side of it (R30, R31). -/
structure Mirror where
  /-- sequence number of the next delta (R30); 64 bits -/
  nextSeq : Nat := 1
  /-- deltas sent and not yet acknowledged, MIRROR_LAG (R30); list -/
  unacked : List Delta := []
  /-- the state the standby holds: the last delta applied in full (R31); structure -/
  applied : Delta := {}
  /-- MIRROR_CURRENT (R325); 1 bit -/
  current : Bool := false
  /-- a full copy of the tables is under way (R30); 1 bit -/
  copying : Bool := false
  /-- the mirror was current when the standby's age reached 40 bt (R366); 1 bit -/
  currentAtFence : Bool := false
  deriving DecidableEq, Repr

/-- The standby's confirmation that the manager is silent (R366). -/
structure Confirm where
  /-- segments that a CONFIRM was sent to (R366); segments -/
  asked : List Nat := []
  /-- segments that answered SILENT (R366); segments -/
  silent : List Nat := []
  /-- segments that answered ALIVE (R366); segments -/
  alive : List Nat := []
  /-- answers on their way to the standby: segment, and whether it is SILENT (R366); messages -/
  answers : List (Nat × Bool) := []
  deriving DecidableEq, Repr

/-- Roles, takeover and split (R26, R363 to R373). -/
structure Roles where
  /-- active manager (R26); 5 bits -/
  manager : Nat := 0
  /-- standby, STANDBY (R421); 5 bits -/
  standby : Option Nat := none
  /-- standby that a waist cut left in the far half (R372); 5 bits -/
  farStandby : Option Nat := none
  /-- segment named standby that awaits its copy of the tables (R369); 5 bits -/
  candidate : Option Nat := none
  /-- the active manager has fenced itself (R365); 1 bit -/
  selfFenced : Bool := false
  /-- confirmation of the manager's silence (R366); structure -/
  confirm : Confirm := {}
  /-- a recovery runs and must end by this beat (R367); beat -/
  recovering : Option Nat := none
  /-- SPLIT_STATE (R379); 8 bits -/
  splitState : Nat := 0
  /-- segments the manager treats as fenced by the cut (R370); segments -/
  farHalf : List Nat := []
  /-- this is the second block of split mode (R372); 1 bit -/
  isSecond : Bool := false
  /-- the second block ends its sequences before the rejoin (R373); 1 bit -/
  ending : Bool := false
  /-- beat by which a waist link must have trained (R373); beat -/
  rejoinBy : Option Nat := none
  /-- the write of REJOIN that has yet to complete (R373); path and TRANSFER -/
  rejoinFor : Option (Endpoint × Nat) := none
  /-- the active manager has been lost and sends nothing (R359); 1 bit -/
  managerSilent : Bool := false
  /-- MANAGER_TAKEOVER is still to be written, before any other notice (R367); 1 bit -/
  announce : Bool := false
  /-- a waist link has trained for the rejoin, which waits for the second block to end its sequences (R373); 1 bit -/
  waistUp : Bool := false
  deriving DecidableEq, Repr

/-- Block-wide supply, reset, hush and bring-up state (R380 to R397). -/
structure SupplyG where
  /-- FEED_READING (R397); 16 bits -/
  feed : Nat := 0
  /-- the feed is in amber (R381); 1 bit -/
  feedAmber : Bool := false
  /-- the feed has stayed above its clear level since this stamp (R382); stamp -/
  feedAbove : Option Stamp := none
  /-- GONG_LAST (R397); 256 bits -/
  gongLast : Nat := 0
  /-- GONG_OUT (R400); 1 bit -/
  gongOut : Bool := false
  /-- the block is held in reset (R387); 1 bit -/
  inReset : Bool := true
  /-- the bring-up to come is a cold one and makes the random keys (R332); 1 bit -/
  coldBoot : Bool := true
  /-- BRINGUP_STAGE (R421); 3 bits -/
  stage : Nat := 0
  /-- HUSH_STATE: 0 serving, 1 hush, 2 waking (R421); 2 bits -/
  hush : Nat := 0
  /-- hush is entered at the first beat edge after this beat (R394); beat -/
  hushAsked : Option Nat := none
  /-- beat edge from which the block serves again (R396); 64 bits -/
  wakeAt : Nat := 0
  deriving DecidableEq, Repr

/-- The envelope keys of a partition (R340). -/
structure EnvKey where
  /-- current KEY_ID, 0 none (R352); 8 bits -/
  curId : Nat := 0
  /-- previous KEY_ID, 0 none (R352); 8 bits -/
  prevId : Nat := 0
  /-- current key pair (R332); key -/
  cur : Nat := 0
  /-- previous key pair (R332); key -/
  prev : Nat := 0
  /-- current KEY_EPOCH, 0 none (R352); 8 bits -/
  curEpoch : Nat := 0
  /-- previous KEY_EPOCH, 0 none (R352); 8 bits -/
  prevEpoch : Nat := 0
  /-- current dim key (R332); 256 bits -/
  dimCur : Nat := 0
  /-- previous dim key (R332); 256 bits -/
  dimPrev : Nat := 0
  /-- next RECORD_ID of the epoch (R194); 32 bits -/
  recordId : Nat := 0
  deriving DecidableEq, Repr

/-- A secured SPDM session (R335, R338). -/
structure SpdmSession where
  /-- session identifier (R335); 32 bits -/
  id : Nat := 0
  /-- management path that carries it (R309); endpoint -/
  ep : Endpoint := .window
  /-- opened with officer credentials (R338); 1 bit -/
  officer : Bool := false
  /-- handshake complete (R335); 1 bit -/
  established : Bool := false
  /-- key updates made (R335); count -/
  keyGen : Nat := 0
  /-- beat of the last HEARTBEAT (R335); 64 bits -/
  lastHb : Nat := 0
  deriving DecidableEq, Repr

/-- The Trust Unit of the manager and the block's keys (R328 to R352). -/
structure Trust where
  /-- envelope and dim keys per partition (R340); 15 partitions -/
  envKeys : List EnvKey := List.replicate 16 {}
  /-- archive key slots occupied (R349); 256 slots -/
  archive : List (Nat × Nat) := []
  /-- slot writes that wait for fetches to end (R349); slots -/
  archivePending : List (Nat × Nat) := []
  /-- the SPDM responder is open (R390); 1 bit -/
  spdmOpen : Bool := false
  /-- 1 version, 2 capabilities, 3 algorithms negotiated (R335); per path -/
  spdmPhase : List (Endpoint × Nat) := []
  /-- responses the responder has given, latest first (R335); list -/
  spdmOut : List SpdmReply := []
  /-- secured sessions (R335); list -/
  sessions : List SpdmSession := []
  deriving DecidableEq, Repr

/-- A span session (R152, R348). -/
structure SpanSession where
  /-- index of the peer (R150); 6 bits -/
  peer : Nat := 0
  /-- SESSION (R150); 32 bits -/
  id : Nat := 0
  /-- IPv6 address of the peer (R411); 128 bits -/
  addr : Nat := 0
  /-- own random nonce of its setup (R348); 256 bits -/
  nonce : Nat := 0
  /-- own ephemeral key of its setup (R348); 384 bits -/
  secret : Nat := 0
  /-- signed bytes of its SESSION_OPEN (R348); bytes -/
  hello : List Nat := []
  /-- key of this direction (R332, R348); 256 bits -/
  txKey : Option Nat := none
  /-- key of the other direction (R332, R348); 256 bits -/
  rxKey : Option Nat := none
  /-- opening, open or closed (R348); state -/
  phase : SpanPhase := .closed
  /-- MINOR in force (R152); 8 bits -/
  minor : Nat := 0
  /-- next SEQ sent (R152); 32 bits -/
  txSeq : Nat := 0
  /-- SEQs delivered beyond the in-order mark (R152); 32 bits each -/
  rxSeen : List Nat := []
  /-- next SEQ expected in order (R150); 32 bits -/
  rxNext : Nat := 0
  /-- datagrams acknowledged by the peer (R150); 32 bits -/
  acked : Nat := 0
  /-- SEQ and beat of its last sending (R152); list -/
  unacked : List (Nat × Nat) := []
  /-- retransmissions in a row without an ACK advancing (R152); count -/
  noAdvance : Nat := 0
  /-- key generation of this direction (R348); 8 bits -/
  txGen : Nat := 0
  /-- key generation of the other direction (R348); 8 bits -/
  rxGen : Nat := 0
  /-- MAC stream in use (R152); 2 bits -/
  stream : Nat := 0
  /-- beat at which a rejected session is tried again (R348); beat -/
  retryAt : Option Nat := none
  deriving DecidableEq, Repr

/-- A query a span worker serves (R246). -/
structure SpanQuery where
  /-- QUERY_TAG (R246); 32 bits -/
  tag : Nat := 0
  /-- session it came by (R246); 32 bits -/
  session : Nat := 0
  /-- INDEX_ID (R246); 16 bits -/
  indexId : Nat := 0
  /-- NPROBE as clamped (R246); 16 bits -/
  nprobe : Nat := 0
  /-- SCAN_K (R246); 11 bits -/
  scanK : Nat := 0
  /-- SPAN_PARTITION (R246); 8 bits -/
  part : Nat := 0
  /-- embedding (R246); DIM elements -/
  vector : List BF16 := []
  /-- DEADLINE_BEAT (R246); 64 bits -/
  deadline : Nat := 0
  deriving DecidableEq, Repr

/-- The span port and protocol (R149 to R154, R410, R411). -/
structure Span where
  /-- SP_LINK_UP of each stream (R410); 4 streams -/
  linkUp : List Bool := List.replicate 4 false
  /-- sessions (R152); list -/
  sessions : List SpanSession := []
  /-- next session identifier the manager chooses (R150); 32 bits -/
  nextId : Nat := 1
  /-- queries a worker serves (R246); list -/
  queries : List SpanQuery := []
  /-- passages a span manager has asked of this worker (R251); list -/
  asks : List SpanAsk := []
  /-- next number of a plan or of a passage asked for (R246); 32 bits -/
  nextTag : Nat := 1
  /-- messages sent, oldest first (R149); list -/
  out : List SpanMsg := []
  /-- windows that a commit removed and that have not yet closed (R154); list -/
  removing : List Window := []
  deriving DecidableEq, Repr

/-- Rule sets, detokenisers and late releases of the screen (R263 to R282). -/
structure ScreenG where
  /-- rule sets in force (R265); 8 slots -/
  inForce : List (Nat × RuleSet) := []
  /-- rule sets loaded and not yet in force (R265); 8 slots -/
  loaded : List (Nat × RuleSet) := []
  /-- resident detokeniser tables (R269); 4 tables -/
  detoks : List Detok := []
  deriving DecidableEq, Repr

/-- An open object access transfer (R316, R318). -/
structure Transfer where
  /-- TRANSFER (R313); 8 bits -/
  id : Nat := 0
  /-- INDEX (R313); 16 bits -/
  index : Nat := 0
  /-- SUB (R313); 8 bits -/
  sub : Nat := 0
  /-- a write (R316); 1 bit -/
  write : Bool := false
  /-- principal (R308); 2 bits -/
  principal : Principal := .driver
  /-- total bytes stated (R316); 40 bits -/
  total : Nat := 0
  /-- bytes received, or bytes to be read (R316); bytes -/
  data : List Nat := []
  /-- bytes moved so far (R316); 40 bits -/
  moved : Nat := 0
  /-- TOGGLE expected next (R316); 1 bit -/
  toggle : Bool := false
  /-- host address of an indirect transfer (R317); 64 bits -/
  indirect : Option Nat := none
  /-- beat of the last message of the transfer (R318); 64 bits -/
  lastBeat : Nat := 0
  /-- a DMA request of it failed (R317); 1 bit -/
  failed : Bool := false
  /-- its bytes are all there, and the load they make is still to be performed (R316); 1 bit -/
  whole : Bool := false
  /-- repeats of its final SEGMENT that came before its load was performed (R316); count -/
  again : Nat := 0
  /-- a read that the I3C target of a segment without a route to the manager serves itself (R310); 1 bit -/
  alone : Bool := false
  deriving DecidableEq, Repr

/-- A management endpoint of the manager (R309). -/
structure EndpointS where
  /-- the path (R309); endpoint -/
  ep : Endpoint := .window
  /-- inbound queue (R309); structure -/
  inq : WordQ := WordQ.mgmt
  /-- outbound queue (R309); structure -/
  outq : WordQ := WordQ.mgmt
  /-- open transfers (R318); at most 4 -/
  transfers : List Transfer := []
  /-- final answers of ended segmented transfers, for a repeat of their last message (R316); list -/
  ended : List DoneTransfer := []
  /-- MCTP endpoint ID (R310); 8 bits -/
  eid : Nat := 0
  deriving DecidableEq, Repr

/-- The endpoint of one path at reset (R309). -/
def EndpointS.of (ep : Endpoint) : EndpointS := { ep := ep }

/-- Staging sets, clamp reports and endpoints (R306 to R325). -/
structure Objects where
  /-- staged writes: principal, index, subindex, bytes (R320); sets -/
  staged : List (Principal × Nat × Nat × List Nat) := []
  /-- COMMIT_NUMBER (R325); 64 bits -/
  commitNo : Nat := 0
  /-- clamp reports, the latest first (R324); 8 reports -/
  reports : List Report := []
  /-- endpoint whose message the manager took last: 0 window, 1 ring pair, 2 PCIe, 3 + s the target of segment s (R318); 5 bits -/
  turn : Nat := 0
  /-- management endpoints of the manager (R309); 3 endpoints -/
  eps : List EndpointS := [EndpointS.of .window, EndpointS.of .ringPair, EndpointS.of .pcie]
  deriving DecidableEq, Repr

/-- Event vectors (R417). -/
structure Vectors where
  /-- pending bits set (R417); 2,048 bits, sparse -/
  pending : List Nat := []
  /-- last vector sent (R417); 11 bits -/
  lastSent : Nat := 2047
  /-- transfers made (R417); count -/
  sent : Nat := 0
  /-- segment whose notice queue was drained last (R295); 5 bits -/
  drainLast : Nat := 19
  /-- SUB ring a record was taken from last (R300); 14 bits -/
  subLast : Nat := 16383
  deriving DecidableEq, Repr

/-- Committed values that a commit of the present beat has replaced, in force until the next beat edge (R322). -/
structure Prior where
  /-- block-wide entries still in force (R322); structure -/
  glob : Globals := {}
  /-- entries of the partitions still in force (R322); 16 partitions -/
  parts : List Partition := []
  /-- entries of the tenant table still in force (R322); 4,096, sparse -/
  tenants : List (Nat × Tenant) := []
  deriving DecidableEq, Repr

/-- One of the two blocks of split mode while the other has its turn (R26, R372): every field of the state but the straps, the queue and the counter that the blocks share. -/
structure Block where
  /-- beat and sequencer (R39); structure -/
  time : TimeBase := {}
  /-- the segments (R20); 20 segments -/
  segs : List Segment := Segment.all BlockCfg.kd20
  /-- the partitions (R38); 16 partitions -/
  parts : List Partition := List.replicate 16 {}
  /-- ring contexts that differ from their reset values (R28); 16,384, sparse -/
  rings : List (Nat × Ring) := []
  /-- tenant table entries that differ from their reset values (R28); 4,096, sparse -/
  tenants : List (Nat × Tenant) := []
  /-- occupied ways of the Handle Directory by slot, set x 15 + way (R28); 122,880, sparse -/
  handles : List (Nat × Handle) := []
  /-- live sequence table (R28); 32,768, sparse -/
  seqs : List (Nat × Sequence) := []
  /-- resident indexes (R230); 16 -/
  indexes : List Index := []
  /-- committed block-wide entries (R326); structure -/
  glob : Globals := {}
  /-- values that a commit of this beat has replaced (R322); structure -/
  prior : Option Prior := none
  /-- screening tables (R263); structure -/
  screen : ScreenG := {}
  /-- object dictionary machinery (R306); structure -/
  objs : Objects := {}
  /-- Trust Unit and keys (R332); structure -/
  trust : Trust := {}
  /-- span port (R149); structure -/
  span : Span := {}
  /-- standby mirror (R30); structure -/
  mirror : Mirror := {}
  /-- roles, takeover and split (R26); structure -/
  roles : Roles := {}
  /-- supply, hush and bring-up (R380); structure -/
  power : SupplyG := {}
  /-- event vectors (R417); structure -/
  vectors : Vectors := {}
  /-- block-wide counters (R327); structure -/
  cnt : Counters := {}
  deriving DecidableEq, Repr

/-- The Keard block. -/
structure State where
  /-- licensed configuration, straps and fuses (R2); straps and fuses -/
  cfg : BlockCfg := BlockCfg.kd20
  /-- beat and sequencer (R39); structure -/
  time : TimeBase := {}
  /-- the segments (R20); 20 segments -/
  segs : List Segment := Segment.all BlockCfg.kd20
  /-- the partitions (R38); 16 partitions -/
  parts : List Partition := List.replicate 16 {}
  /-- ring contexts that differ from their reset values (R28); 16,384, sparse -/
  rings : List (Nat × Ring) := []
  /-- tenant table entries that differ from their reset values (R28); 4,096, sparse -/
  tenants : List (Nat × Tenant) := []
  /-- occupied ways of the Handle Directory by slot, set x 15 + way (R28); 122,880, sparse -/
  handles : List (Nat × Handle) := []
  /-- live sequence table (R28); 32,768, sparse -/
  seqs : List (Nat × Sequence) := []
  /-- resident indexes (R230); 16 -/
  indexes : List Index := []
  /-- committed block-wide entries (R326); structure -/
  glob : Globals := {}
  /-- values that a commit of this beat has replaced (R322); structure -/
  prior : Option Prior := none
  /-- screening tables (R263); structure -/
  screen : ScreenG := {}
  /-- object dictionary machinery (R306); structure -/
  objs : Objects := {}
  /-- Trust Unit and keys (R332); structure -/
  trust : Trust := {}
  /-- span port (R149); structure -/
  span : Span := {}
  /-- standby mirror (R30); structure -/
  mirror : Mirror := {}
  /-- roles, takeover and split (R26); structure -/
  roles : Roles := {}
  /-- the block of split mode whose turn it is not (R372); structure -/
  other : Option Block := none
  /-- the block as its last waist cut found it, whose tables and keys the far standby holds (R372); structure -/
  kept : Option Block := none
  /-- supply, hush and bring-up (R380); structure -/
  power : SupplyG := {}
  /-- event vectors (R417); structure -/
  vectors : Vectors := {}
  /-- block-wide counters (R327); structure -/
  cnt : Counters := {}
  /-- counter that the free values of Config are applied to; count -/
  free : Nat := 0
  /-- what signed kernels' code does on the inputs met so far (R166; the spec does not hold that code); list -/
  code : List (List Nat × List KernelWork) := []
  /-- commands that wait, first in first out; queue -/
  pending : List Instr := []
  deriving DecidableEq, Repr

/-- The block right after its power-on reset, every field at the value the spec states for reset, or at the value that log
entries 1, 2 and 12 name (R387, R388, R421). -/
def State.reset : State := {}

/-- Reasons a step stops with a fault. Each is safe: the model stops where the spec says that the access has no place to go. -/
inductive Fault where
  /-- Raised by the staging SRAM operations when an address lies outside the 96 MiB of R20: no such byte exists. Safe. -/
  | noStaging (seg addr : Nat)
  /-- Raised by the stack operations when an address lies outside the 72 GiB of R406: no such byte exists. Safe. -/
  | noStack (seg addr : Nat)
  deriving DecidableEq, Repr

/-- Reasons a step gives a command no meaning. -/
inductive Refusal where
  /-- Raised by the dispatcher for a command whose meaning is not written yet. Safe: nothing is claimed of it. -/
  | notModelled (mnemonic : String)
  deriving DecidableEq, Repr

/-- The outcome of a command. -/
abbrev Result := Host.Outcome State Fault Refusal

end Sys2Proof.Machine
end

