-- ==== Sys2Proof/Machine/Operands.lean ====
section
/-! DEFINITION. The fields of the words that commands carry and the state holds as delivered: step programs (R52 to R60),
model and index descriptors (R203, R231), rescale tables (R118, R119), SUB records and envelopes (R300, R339) and rule set
headers (R265), each as its field map places them. -/

namespace Sys2Proof

/-! CRC-32C. -/

/-- One bit of a CRC-32C, least significant first (log entry 26). -/
def crcBit (c : Nat) : Nat := if c % 2 == 1 then (c / 2) ^^^ 0x82F63B78 else c / 2

/-- One byte of a CRC-32C. -/
def crcByte (c b : Nat) : Nat := crcBit (crcBit (crcBit (crcBit (crcBit (crcBit (crcBit (crcBit (c ^^^ b))))))))

/-- The CRC-32C of a list of bytes (R52, log entry 26). -/
def crc32c (l : List Nat) : Nat := l.foldl crcByte 0xFFFFFFFF ^^^ 0xFFFFFFFF

/-! Step programs. -/

/-- MAGIC of a program header (R52). -/
def ProgramImage.magic (p : ProgramImage) : Nat := bits 255 240 p.header
/-- MAJOR (R52). -/
def ProgramImage.major (p : ProgramImage) : Nat := bits 239 232 p.header
/-- MINOR (R52). -/
def ProgramImage.minor (p : ProgramImage) : Nat := bits 231 224 p.header
/-- PROGRAM_ID (R52). -/
def ProgramImage.id (p : ProgramImage) : Nat := bits 223 208 p.header
/-- PARTITION (R52). -/
def ProgramImage.part (p : ProgramImage) : Nat := bits 207 204 p.header
/-- CLASS (R52): 0 LC, 1 BE. -/
def ProgramImage.cls (p : ProgramImage) : Cls := if bit 203 p.header then .be else .lc
/-- SEGMENT_MASK (R52). -/
def ProgramImage.mask (p : ProgramImage) : Nat := bits 199 180 p.header
/-- PLAN_CLOCK_MHZ (R52). -/
def ProgramImage.clock (p : ProgramImage) : Nat := bits 179 164 p.header
/-- WCET_BT as compiled (R52). -/
def ProgramImage.wcet (p : ProgramImage) : Nat := bits 163 148 p.header
/-- STAGING_64K (R52). -/
def ProgramImage.staging (p : ProgramImage) : Nat := bits 147 136 p.header
/-- PASS_TARGET (R52). -/
def ProgramImage.passTarget (p : ProgramImage) : Nat := bits 135 123 p.header
/-- DECODE_ROWS_MAX (R52). -/
def ProgramImage.decodeMax (p : ProgramImage) : Nat := bits 122 110 p.header
/-- DESC_COUNT (R52). -/
def ProgramImage.descCount (p : ProgramImage) : Nat := bits 103 88 p.header
/-- PROGRAM_BYTES (R52). -/
def ProgramImage.bytes (p : ProgramImage) : Nat := bits 63 32 p.header
/-- CRC (R52). -/
def ProgramImage.crc (p : ProgramImage) : Nat := bits 31 0 p.header
/-- The bytes of a program in their order, with the CRC field taken as zero: header, descriptor slots, row list templates and outlier
lists padded to whole 8 bytes (R51, R52, R60, R113). -/
def ProgramImage.image (p : ProgramImage) : List Nat :=
  bytesLe 32 (p.header / 2 ^ 32 * 2 ^ 32) ++ p.slots.flatMap (bytesLe 16)
    ++ p.rowLists.flatMap (fun t => bytesLe 8 t.head ++ t.entries.flatMap (bytesLe 8))
    ++ p.outliers.flatMap (fun o => bytesLe 8 o.head ++ o.entries.flatMap (bytesLe 4) ++ List.replicate (o.entries.length % 2 * 4) 0)
/-- Segments of SEGMENT_MASK, ascending. -/
def ProgramImage.segs (p : ProgramImage) : List Nat := (List.range 20).filter (fun i => p.mask.testBit i)
/-- Slot i. -/
def ProgramImage.slot (p : ProgramImage) (i : Nat) : Nat := p.slots.getD i 0
/-- The commit descriptor: the last slot (R51, R59). -/
def ProgramImage.commitDesc (p : ProgramImage) : Nat := p.slots.getLastD 0
/-- VERIFY of the commit descriptor (R59). -/
def ProgramImage.verify (p : ProgramImage) : Bool := bit 123 p.commitDesc
/-- DRAW of the commit descriptor (R59). -/
def ProgramImage.draw (p : ProgramImage) : Bool := bit 122 p.commitDesc
/-- HOLD of the commit descriptor (R59). -/
def ProgramImage.hold (p : ProgramImage) : Bool := bit 121 p.commitDesc
/-- KV_ADVANCE of the commit descriptor (R59). -/
def ProgramImage.advance (p : ProgramImage) : Bool := bit 120 p.commitDesc
/-- SCALES of the commit descriptor (R59). -/
def ProgramImage.scales (p : ProgramImage) : Bool := bit 119 p.commitDesc

end Sys2Proof

namespace Sys2Proof.Machine

/-- TYPE of a descriptor slot (R53). -/
def dType (w : Nat) : Nat := bits 127 124 w
/-- AFTER of a sweep (R55). -/
def sweepAfter (w : Nat) : Nat := bits 15 0 w
/-- ARRAY of a sweep (R55). -/
def sweepArr (w : Nat) : Arr := if bit 123 w then .ma1 else .ma0
/-- ACC_BANK of a sweep (R55). -/
def sweepBank (w : Nat) : Bool := bit 122 w
/-- WFMT of a sweep (R55). -/
def sweepWfmt (w : Nat) : Nat := bits 121 120 w
/-- AFMT of a sweep (R55): true for UINT8 asymmetric. -/
def sweepAfmt (w : Nat) : Bool := bit 119 w
/-- OUTFMT of a sweep (R55). -/
def sweepOutfmt (w : Nat) : Nat := bits 118 117 w
/-- ACT of a sweep (R55). -/
def sweepAct (w : Nat) : Nat := bits 116 113 w
/-- FUSE_RS of a sweep (R55). -/
def sweepFuse (w : Nat) : Bool := bit 112 w
/-- PASSES of a sweep (R55). -/
def sweepPasses (w : Nat) : Nat := bits 111 102 w
/-- COL_TILE of a sweep (R55). -/
def sweepColTile (w : Nat) : Nat := bits 101 90 w
/-- ROWLIST of a sweep (R55). -/
def sweepRowList (w : Nat) : Nat := bits 89 74 w
/-- TABLE of a sweep (R55). -/
def sweepTable (w : Nat) : Nat := bits 73 58 w
/-- OUTLIER of a sweep (R55). -/
def sweepOutlier (w : Nat) : Nat := bits 57 52 w
/-- OUT_ADDR of a sweep (R55). -/
def sweepOut (w : Nat) : Nat := bits 51 29 w

/-- TILE_SRC of a pass (R56): true for the stack. -/
def passFromStack (w : Nat) : Bool := bit 111 w
/-- TILE_ADDR of a pass, 64-byte units (R56). -/
def passTile (w : Nat) : Nat := bits 110 80 w
/-- DEPTH_TILE of a pass (R56). -/
def passDepth (w : Nat) : Nat := bits 79 64 w

/-- KERNEL_ID of a kernel (R57). -/
def kernelId (w : Nat) : Nat := bits 123 108 w
/-- THREADS of a kernel (R57). -/
def kernelThreads (w : Nat) : Nat := bits 107 95 w
/-- ARG_ADDR of a kernel, 64-byte units (R57). -/
def kernelArg (w : Nat) : Nat := bits 94 74 w
/-- ARG_LEN of a kernel, 64-byte units (R57). -/
def kernelArgLen (w : Nat) : Nat := bits 73 64 w
/-- BOUND_CYCLES of a kernel (R57). -/
def kernelBound (w : Nat) : Nat := bits 63 32 w
/-- AFTER of a kernel (R57). -/
def kernelAfter (w : Nat) : Nat := bits 31 16 w

/-- KIND of a transfer, from its first slot (R53, R58). -/
def xferKind (w : Nat) : Nat := bits 123 120 w
/-- DEST_SEG of a transfer (R58). -/
def xferDest (w : Nat) : Nat := bits 119 115 w
/-- REDOP of a transfer (R58). -/
def xferRedop (w : Nat) : Nat := bits 114 113 w
/-- ESC_OK of a transfer (R58). -/
def xferEsc (w : Nat) : Bool := bit 112 w
/-- STREAM of a transfer (R58). -/
def xferStream (w : Nat) : Nat := bits 111 96 w
/-- AFTER of a transfer (R58). -/
def xferAfter (w : Nat) : Nat := bits 95 80 w
/-- LENGTH_64 of a transfer (R58). -/
def xferLen (w : Nat) : Nat := bits 63 32 w
/-- SRC_ADDR of a transfer, from its second slot (R58). -/
def xferSrc (w2 : Nat) : Nat := bits 127 64 w2
/-- DST_ADDR of a transfer, from its second slot (R58). -/
def xferDst (w2 : Nat) : Nat := bits 63 0 w2

/-- The initiator-channel class of a step's traffic (R22, R403). -/
def dmaClass : Cls → Nat
  | .lc => 0
  | .be => 2

/-- AFTER of the descriptor a slot opens; 0xFFFF for a pass and the commit descriptor, which have none. -/
def dAfter (w : Nat) : Nat :=
  if dType w == 2 then sweepAfter w
  else if dType w == 3 then kernelAfter w
  else if dType w == 4 then xferAfter w
  else 0xFFFF

/-- Whether each slot is a continuation slot, in slot order (R53). -/
def continuation : Bool → List Nat → List Bool
  | _, [] => []
  | true, _ :: rest => true :: continuation false rest
  | false, w :: rest => false :: continuation (dType w == 4) rest

/-- FIXED of a row list head (R60). -/
def tmplFixed (t : RowTmpl) : Nat := bits 63 51 t.head
/-- DECODE_SLOTS of a row list head (R60). -/
def tmplDecode (t : RowTmpl) : Nat := bits 50 38 t.head
/-- PREFILL_SLOTS of a row list head (R60). -/
def tmplPrefill (t : RowTmpl) : Nat := bits 37 25 t.head

/-- A row list entry as its word spells it (R60). -/
def rowEntry (w : Nat) : RowEntry :=
  { masked := bit 63 w, kind := bits 62 61 w, seq := bits 60 46 w, node := bits 45 40 w, pos := bits 39 23 w,
    addr := bits 22 0 w }

/-- COUNT of an outlier list (R113). -/
def outCount (o : OutList) : Nat := bits 63 58 o.head
/-- The channels of an outlier list in list order (R113). -/
def outChannels (o : OutList) : List Nat := (o.entries.take (outCount o)).map (bits 16 0)

/-! Models, tables and indexes. -/

/-- MODEL_ID of a model descriptor (R203). -/
def mdId (d : Nat) : Nat := bits 127 112 d
/-- VOCAB of a model (R203). -/
def Model.vocab (m : Model) : Nat := bits 111 94 m.desc
/-- EOS_ID of a model (R203). -/
def Model.eos (m : Model) : Nat := bits 93 76 m.desc
/-- CONTEXT_MAX of a model (R203). -/
def Model.contextMax (m : Model) : Nat := bits 75 59 m.desc
/-- LAYERS of a model (R203). -/
def Model.layers (m : Model) : Nat := bits 58 51 m.desc
/-- KV_HEADS_SEG of a model (R203). -/
def Model.heads (m : Model) : Nat := bits 50 46 m.desc
/-- DETOK_ID of a model (R203). -/
def Model.detok (m : Model) : Nat := bits 45 30 m.desc
/-- Pages of one position block of a model on one segment (R177). -/
def Model.blockPages (m : Model) : Nat := m.layers * m.heads

/-- MAGIC of a rescale table header (R118). -/
def rtMagic (h : Nat) : Nat := bits 127 112 h
/-- COL_TILES of a rescale table (R118). -/
def rtColTiles (h : Nat) : Nat := bits 111 96 h
/-- DEPTH_TILES of a rescale table (R118). -/
def rtDepth (h : Nat) : Nat := bits 95 80 h
/-- OUT_PITCH of a rescale table (R118). -/
def rtPitch (h : Nat) : Nat := bits 79 56 h
/-- SIDE_SLOTS of a rescale table (R118). -/
def rtSide (h : Nat) : Nat := bits 55 48 h
/-- BIAS of a rescale table entry (R119). -/
def reBias (e : Nat) : F32 := BitVec.ofNat 32 (bits 127 96 e)
/-- SCALE of a rescale table entry (R119). -/
def reScale (e : Nat) : F32 := BitVec.ofNat 32 (bits 95 64 e)
/-- COLSUM of a rescale table entry (R119). -/
def reColsum (e : Nat) : Int := signed 32 (bits 63 32 e)
/-- EXCL of a rescale table entry (R119). -/
def reExcl (e : Nat) : Bool := bit 8 e
/-- ZW of a rescale table entry (R119). -/
def reZw (e : Nat) : Int := signed 8 (bits 7 0 e)

/-- INDEX_ID of an index descriptor (R231). -/
def ixId (d : Nat) : Nat := bits 511 496 d
/-- PARTITION of an index descriptor (R231). -/
def ixPart (d : Nat) : Nat := bits 495 492 d
/-- ENCODER_MODEL of an index descriptor (R231). -/
def ixEncoder (d : Nat) : Nat := bits 487 472 d
/-- RERANK_MODEL of an index descriptor (R231). -/
def ixRerank (d : Nat) : Nat := bits 471 456 d
/-- DEPTH_TILES of an index descriptor (R231). -/
def ixDepth (d : Nat) : Nat := bits 455 448 d
/-- NLIST of an index descriptor (R231). -/
def ixNlist (d : Nat) : Nat := bits 447 424 d
/-- MAX_SUBLIST of an index descriptor (R231). -/
def ixMaxSub (d : Nat) : Nat := bits 423 400 d
/-- VECTORS of an index descriptor (R231). -/
def ixVectors (d : Nat) : Nat := bits 399 360 d
/-- PLAN_BOUND_BT of an index descriptor (R231). -/
def ixBound (d : Nat) : Nat := bits 359 344 d
/-- RERANK_TOKENS of an index descriptor (R231). -/
def ixRerankTokens (d : Nat) : Nat := bits 343 334 d
/-- AREA_OFFSET of an index descriptor, 4 KiB units (R231). -/
def ixOffset (d : Nat) : Nat := bits 333 304 d
/-- Embedding dimension D (R231). -/
def ixDim (d : Nat) : Nat := 256 * ixDepth d

/-! Rule sets and SUB records. -/

/-- MAGIC of a rule set header (R265). -/
def rsMagic (h : Nat) : Nat := bits 511 496 h
/-- MAJOR of a rule set header (R265). -/
def rsMajor (h : Nat) : Nat := bits 495 488 h
/-- KIND of a rule set header (R265): 0 BYTE, 1 TOKEN, 2 VERDICT_MAP, 3 UNLOCK. -/
def rsKind (h : Nat) : Nat := bits 487 484 h
/-- SLOT of a rule set header (R265). -/
def rsSlot (h : Nat) : Nat := bits 483 481 h
/-- RULESET_ID of a rule set header (R265). -/
def rsId (h : Nat) : Nat := bits 479 464 h
/-- DETOK_ID of a rule set header (R265). -/
def rsDetok (h : Nat) : Nat := bits 463 448 h
/-- VOCAB of a rule set header (R265). -/
def rsVocab (h : Nat) : Nat := bits 447 430 h
/-- STATES of a rule set header (R265). -/
def rsStates (h : Nat) : Nat := bits 429 414 h
/-- CLASSES of a rule set header (R265). -/
def rsClasses (h : Nat) : Nat := bits 413 405 h
/-- PATTERNS of a rule set header (R265). -/
def rsPatterns (h : Nat) : Nat := bits 404 390 h
/-- START of a rule set header (R265). -/
def rsStart (h : Nat) : Nat := bits 389 374 h
/-- UNLOCK_MASK of a rule set header (R265). -/
def rsUnlock (h : Nat) : Nat := bits 373 359 h
/-- IMAGE_BYTES of a rule set header (R265). -/
def rsBytes (h : Nat) : Nat := bits 351 320 h

/-- KIND of a SUB record (R300). -/
def srKind (r : Nat) : Nat := bits 511 504 r
/-- PARTITION of a SUB record (R300). -/
def srPart (r : Nat) : Nat := bits 503 500 r
/-- CLASS of a SUB record (R300). -/
def srCls (r : Nat) : Cls := if bit 499 r then .be else .lc
/-- TENANT of a SUB record (R300). -/
def srTenant (r : Nat) : Nat := bits 495 484 r
/-- REQUEST_ID of a SUB record (R300). -/
def srId (r : Nat) : Nat := bits 479 416 r
/-- CMP_RING of a SUB record (R300). -/
def srCmp (r : Nat) : Nat := bits 415 402 r
/-- STR_RING of a SUB record (R300). -/
def srStr (r : Nat) : Nat := bits 401 388 r
/-- ENVELOPE_ADDR of a SUB record (R300). -/
def srAddr (r : Nat) : Nat := bits 383 320 r
/-- ENVELOPE_LEN of a SUB record (R300). -/
def srLen (r : Nat) : Nat := bits 319 288 r

/-- The code of a status in a record (R18). -/
def statusCode : Status → Nat
  | .ok => 0x00
  | .stop => 0x01
  | .length => 0x02
  | .screenStop => 0x03
  | .screenBlock => 0x04
  | .cancelled => 0x05
  | .budget => 0x06
  | .noPages => 0x07
  | .stepLost => 0x08
  | .badHandle => 0x09
  | .expired => 0x0A
  | .sealFail => 0x0B
  | .alreadyDone => 0x0C
  | .fenced => 0x0D
  | .clamped => 0x0E

/-- A class as the bit that codes it: 0 LC, 1 BE. -/
def clsBit : Cls → Nat
  | .lc => 0
  | .be => 1

end Sys2Proof.Machine
end

