-- ==== Sys2Proof/Machine/Sealing.lean ====
section
/-! DEFINITION. Seals, keys and nonces (R331 to R348): how the block opens what is sealed to it by HPKE, and the byte strings that its
derivations and its AES-256-GCM nonces are made of. The primitives of the standards are opaque (log entry 5). -/

namespace Sys2Proof.Machine

/-- n bytes of a word in network order. -/
def bytesBe (n w : Nat) : List Nat := (bytesLe n w).reverse

/-- A 96-bit nonce as its 12 bytes, bit 95 first (R334). -/
def nonceBytes (n : Nat) : List Nat := bytesBe 12 n

/-- A P-384 public key as an uncompressed SEC1 point: 0x04 and the 96 bytes of its coordinates (R336, R342, R348). -/
def sec1 (key : Nat) : List Nat := 4 :: bytesBe 96 key

/-- The coordinates of the public key that belongs to a private key. -/
def publicKey (key : Nat) : Nat := Config.derivedKey [key]

/-- The ASCII bytes of a label, as a number. -/
def label (t : String) : Nat := t.toList.foldl (fun n c => 256 * n + c.toNat) 0

/-! HPKE (R333). -/

/-- The suite of the block: KEM 0x0011, DHKEM(P-384, HKDF-SHA384); KDF 0x0002, HKDF-SHA384; AEAD 0x0002, AES-256-GCM (R333). -/
def hpkeSuite : List Nat := [0x0011, 0x0002, 0x0002]

/-- HPKE mode base, for envelopes (R333). -/
def modeBase : Nat := 0

/-- HPKE mode auth, for images (R333). -/
def modeAuth : Nat := 2

/-- A sealing context is one that the block sets up too: its suite and mode, the block's key, the sender's key in mode auth, and the info
(R333). -/
def sealSuits (x : HpkeSeal) (mode : Nat) (key : Option Nat) (sender : Nat) (info : List Nat) : Bool :=
  x.suite == hpkeSuite && x.mode == mode && key == some x.key && x.sender == sender && x.info == info

/-- The secret that a context exports under a label (R341, R342). -/
def sealExports (x : HpkeSeal) (name : String) (len : Nat) : Nat :=
  Config.hpkeExport (Config.hpkeContext x.suite (packMsb [(8, x.mode), (776, x.enc)]) [x.key, x.sender] x.info) (label name) len

/-! Request envelopes (R339 to R341). -/

/-- The 16 bytes of an envelope's header: the HPKE info and the additional data (R339). -/
def envelopeHead (header : Nat) : List Nat := bytesLe 16 header

/-- Bytes that an envelope has beyond its body: header, encapsulated key and tag (R339). -/
def envelopeExtra : Nat := 16 + 97 + 16

/-- The body opens under a key of the partition: sealed in mode base to it, the header as info and as additional data, and the tag stands
(R339, R340). -/
def bodyOpens (e : Envelope) (key : Nat) : Bool :=
  sealSuits e.hpke modeBase (some key) 0 (envelopeHead e.header) && e.aad == envelopeHead e.header && e.intact

/-- The stream key that the opening of an envelope exports (R341). -/
def envelopeStreamKey (e : Envelope) : Nat := sealExports e.hpke "KEARD-STREAM" 32

/-! Sealed images (R342). -/

/-- The 64 bytes of an image's header. -/
def imageHead (header : Nat) : List Nat := bytesLe 64 header

/-- The nonce of chunk i: bits [63:0] are i, bits [95:64] zero (R342). -/
def chunkNonce (i : Nat) : List Nat := nonceBytes (i % 2 ^ 64)

/-- The additional data of chunk i: the header, and i as 8 bytes, little-endian (R342). -/
def chunkAad (header i : Nat) : List Nat := imageHead header ++ bytesLe 8 i

/-- Plaintext bytes of chunk i of an image: every chunk but the last is full (R342). -/
def imageChunkBytes (content i : Nat) : Nat := min 1048576 (content - 1048576 * i)

/-- The label under which the content key of an image is exported (R342). -/
def imageLabel : String := "KEARD-IMAGE"

/-- The content key of an image (R342). -/
def imageContentKey (x : SealedImage) : Nat := sealExports x.hpke imageLabel 32

/-- Chunk i of an image opens: it is sealed under the exported content key with its own nonce and additional data, whole, and its tag
stands (R342). -/
def chunkOpens (header content : Nat) (c : SealedChunk) (i : Nat) : Bool :=
  c.label == label imageLabel && c.nonce == chunkNonce i && c.aad == chunkAad header i && c.bytes == imageChunkBytes content i && c.intact

/-- Every chunk of an image opens: the owner sealed it in mode auth under its own key to the block image key, with the header as info
(R342). -/
def imageOpens (x : SealedImage) (content : Nat) (imageKey : Option Nat) : Bool :=
  sealSuits x.hpke modeAuth imageKey x.ownerKey (imageHead x.header) && (x.chunks.zipIdx).all (fun c => chunkOpens x.header content c.1 c.2)

/-- The SHA-384 hash of the owner's public key (R342, R343). -/
def imageOwnerHash (x : SealedImage) : Nat := Config.sha384 (sec1 x.ownerKey)

/-! Stack contents (R345). -/

/-- The 4 KiB data unit of a stack as it lies in the stack: AES-256-XTS under the owner's stack key, the tweak the stack address divided by
4,096 (R345). -/
def stackUnit (key unit : Nat) (plain : List Nat) : List Nat := Config.xts key unit plain

/-! Link and span keys (R347, R348). -/

/-- The key of a direction of a link: HKDF-SHA384 of the shared secret, the training nonces as salt, "KEARD-LINK" and the direction
identifier as info (R347). -/
def linkKey (secret nonceA nonceB direction : Nat) : Nat := Config.derivedKey [secret, nonceA, nonceB, label "KEARD-LINK", direction]

/-- The next key of a direction of a link: HKDF-Expand of the old key with "KEARD-LINK-NEXT" (R347). -/
def nextLinkKey (k : Nat) : Nat := Config.derivedKey [k, label "KEARD-LINK-NEXT"]

/-- The key of a direction of a span session: HKDF-SHA384 of the shared secret, the two nonces, open first, as salt, "KEARD-SPAN", SESSION
and the direction byte as info (R348). -/
def spanKey (secret openNonce acceptNonce session dir : Nat) : Nat :=
  Config.derivedKey [secret, openNonce, acceptNonce, label "KEARD-SPAN", session, dir]

/-- The next key of a direction of a span session: HKDF-Expand with "KEARD-SPAN-NEXT" (R348). -/
def nextSpanKey (k : Nat) : Nat := Config.derivedKey [k, label "KEARD-SPAN-NEXT"]

end Sys2Proof.Machine
end

