-- ==== Sys2Proof/Machine/Ops.lean ====
section
/-! DEFINITION. The shared operations: tables kept as sorted lists, memory, the parts of the state by number, stamps
(R48, R279), word queues (R284 to R290), notices (R293, R294), the initiator channel (R403, R404) and the writing of ring
records (R296 to R304). -/

namespace Sys2Proof.Machine

/-! Tables kept as lists of a key and a value, keys rising. -/

/-- The value under a key. -/
def aGet {α : Type} (k : Nat) : List (Nat × α) → Option α
  | [] => none
  | e :: rest => if e.1 == k then some e.2 else aGet k rest

/-- The table with a value placed under a key. -/
def aSet {α : Type} (k : Nat) (v : α) : List (Nat × α) → List (Nat × α)
  | [] => [(k, v)]
  | e :: rest => if k < e.1 then (k, v) :: e :: rest else if e.1 == k then (k, v) :: rest else e :: aSet k v rest

/-- The table without a key. -/
def aErase {α : Type} (k : Nat) (l : List (Nat × α)) : List (Nat × α) := l.filter (fun e => e.1 != k)

/-- The keys rise strictly. -/
def aSorted {α : Type} : List (Nat × α) → Bool
  | [] => true
  | [_] => true
  | a :: b :: rest => a.1 < b.1 && aSorted (b :: rest)

/-- The list with one place changed. -/
def modifyAt {α : Type} (f : α → α) : Nat → List α → List α
  | _, [] => []
  | 0, a :: rest => f a :: rest
  | n + 1, a :: rest => a :: modifyAt f n rest

/-- A number placed in a rising list of numbers without repeats. -/
def insertNat (n : Nat) : List Nat → List Nat
  | [] => [n]
  | a :: rest => if n < a then n :: a :: rest else if n == a then a :: rest else a :: insertNat n rest

/-- Insertion into a list that an order keeps sorted, after the entries that do not stand above it. -/
def insertBy {α : Type} (above : α → α → Bool) (x : α) : List α → List α
  | [] => [x]
  | a :: rest => if above x a then x :: a :: rest else a :: insertBy above x rest

/-- The list sorted by an order, equals kept in their order. -/
def sortBy {α : Type} (above : α → α → Bool) (l : List α) : List α := l.foldl (fun acc x => insertBy above x acc) []

/-- The sum of a list. -/
def sumNat (l : List Nat) : Nat := l.foldl (· + ·) 0

/-- The least number of a range from `from_` that a test admits, within a number of tries. -/
def firstFrom (ok : Nat → Bool) : Nat → Nat → Option Nat
  | 0, _ => none
  | fuel + 1, n => if ok n then some n else firstFrom ok fuel (n + 1)

/-- A guarded effect: the state is left as it is where the command cannot occur (log entry 4). -/
def onlyIf (c : Bool) (t s : State) : Result := .next (if c then t else s)

/-! Memory: staging SRAM and the stacks, by byte address. -/

/-- What an unlisted address reads as (log entry 12). -/
def emptyByte : BitVec 8 := 0

/-- The byte at an address. -/
def memRead (m : Memory) (a : Nat) : BitVec 8 := (aGet a m).getD emptyByte

/-- The memory with a byte written; writing what an unlisted address reads as removes the entry. -/
def memWrite (m : Memory) (a : Nat) (b : BitVec 8) : Memory := if b == emptyByte then aErase a m else aSet a b m

/-- Bytes written at rising addresses. -/
def memWriteBytes (m : Memory) : Nat → List Nat → Memory
  | _, [] => m
  | a, b :: rest => memWriteBytes (memWrite m a (BitVec.ofNat 8 b)) (a + 1) rest

/-- n bytes read at rising addresses. -/
def memReadBytes (m : Memory) (a : Nat) : Nat → List Nat
  | 0 => []
  | n + 1 => (memRead m a).toNat :: memReadBytes m (a + 1) n

/-- A little-endian word of n bytes (R16). -/
def memReadWord (m : Memory) (a n : Nat) : Nat := ofBytesLe (memReadBytes m a n)

/-- The canonical form: addresses strictly rising, no entry equal to what an unlisted address reads as. -/
def Memory.wf (m : Memory) : Bool := aSorted m && m.all (fun c => c.2 != emptyByte)

/-- Bytes of staging SRAM on a segment: 96 MiB (R20). -/
def stagingBytes : Nat := 96 * 2 ^ 20

/-- Bytes of a stack: 72 GiB (R406). -/
def stackBytes : Nat := 72 * 2 ^ 30

/-! Parts of the state by number. -/

/-- Segment i. -/
def State.seg (s : State) (i : Nat) : Segment := s.segs.getD i {}

/-- The block has a segment i. -/
def State.hasSeg (s : State) (i : Nat) : Bool := i < s.segs.length

/-- The state with segment i changed. -/
def State.onSeg (s : State) (i : Nat) (f : Segment → Segment) : State := { s with segs := modifyAt f i s.segs }

/-- The state with every segment changed. -/
def State.onSegs (s : State) (f : Nat → Segment → Segment) : State :=
  { s with segs := s.segs.zipIdx.map (fun p => f p.2 p.1) }

/-- Partition p. -/
def State.part (s : State) (p : Nat) : Partition := s.parts.getD p {}

/-- The state with partition p changed. -/
def State.onPart (s : State) (p : Nat) (f : Partition → Partition) : State := { s with parts := modifyAt f p s.parts }

/-- The loop of a class. -/
def Partition.loop (p : Partition) : Cls → Loop
  | .lc => p.lc
  | .be => p.be

/-- The partition with the loop of a class changed. -/
def Partition.onLoop (p : Partition) (c : Cls) (f : Loop → Loop) : Partition :=
  match c with
  | .lc => { p with lc := f p.lc }
  | .be => { p with be := f p.be }

/-- The state with a loop changed. -/
def State.onLoop (s : State) (p : Nat) (c : Cls) (f : Loop → Loop) : State := s.onPart p (fun q => q.onLoop c f)

/-- The step in flight of a loop. -/
def State.stepOf (s : State) (p : Nat) (c : Cls) : Option StepS := ((s.part p).loop c).step

/-- The state with the step in flight of a loop changed. -/
def State.onStep (s : State) (p : Nat) (c : Cls) (f : StepS → StepS) : State :=
  s.onLoop p c (fun l => { l with step := l.step.map f })

/-- Tenant t. -/
def State.tenant (s : State) (t : Nat) : Tenant := (aGet t s.tenants).getD {}

/-- The state with tenant t changed; an entry at its reset values is not listed. -/
def State.onTenant (s : State) (t : Nat) (f : Tenant → Tenant) : State :=
  let v := f (s.tenant t)
  { s with tenants := if v == {} then aErase t s.tenants else aSet t v s.tenants }

/-- Ring n. -/
def State.ring (s : State) (n : Nat) : Ring := (aGet n s.rings).getD {}

/-- The state with ring n placed; a context at its reset values is not listed. -/
def State.setRing (s : State) (n : Nat) (r : Ring) : State :=
  { s with rings := if r == {} then aErase n s.rings else aSet n r s.rings }

/-- The state with ring n changed. -/
def State.onRing (s : State) (n : Nat) (f : Ring → Ring) : State := s.setRing n (f (s.ring n))

/-- Directory entry in a slot, set × 15 + way. -/
def State.entry (s : State) (slot : Nat) : Option Handle := aGet slot s.handles

/-- The state with a directory entry changed. -/
def State.onEntry (s : State) (slot : Nat) (f : Handle → Handle) : State :=
  match s.entry slot with
  | some h => { s with handles := aSet slot (f h) s.handles }
  | none => s

/-- Live sequence i. -/
def State.live (s : State) (i : Nat) : Option Sequence := aGet i s.seqs

/-- The state with a live sequence changed. -/
def State.onLive (s : State) (i : Nat) (f : Sequence → Sequence) : State :=
  match s.live i with
  | some q => { s with seqs := aSet i (f q) s.seqs }
  | none => s

/-- The state with a block-wide counter changed. -/
def State.count (s : State) (f : Counters → Counters) : State := { s with cnt := f s.cnt }

/-- The state with a counter of a segment changed. -/
def State.segCount (s : State) (i : Nat) (f : SegCount → SegCount) : State :=
  s.onSeg i (fun g => { g with cnt := f g.cnt })

/-- The active manager segment. -/
def State.mgr (s : State) : Nat := s.roles.manager

/-- A segment is joined and serves, as its manager sees it: not across a waist cut (R370, R379). -/
def State.serving (s : State) (i : Nat) : Bool := (s.seg i).state == .serving && !s.roles.farHalf.contains i

/-- The manager runs: the block is out of reset and its manager is neither fenced nor lost (R365, R387). -/
def State.mgrAwake (s : State) : Bool := !s.power.inReset && !s.roles.selfFenced && !s.roles.managerSilent

/-- The manager answers commands: it runs, and reduced service has opened (R390, R391). -/
def State.mgrUp (s : State) : Bool := s.mgrAwake && 3 ≤ s.power.stage

/-- A segment is joined: it serves or is fenced, within the manager's half (R29, R359, R370). -/
def State.isJoined (s : State) (i : Nat) : Bool :=
  s.hasSeg i && ((s.seg i).state == .serving || (s.seg i).state == .fenced) && !s.roles.farHalf.contains i

/-! Committed values in force (R322). -/

/-- The entries of a partition that steps, admissions and freezes read, taken from `c`. -/
def withEntries (c p : Partition) : Partition :=
  { p with passTarget := c.passTarget, stepRecords := c.stepRecords, templates := c.templates, decodeReserve := c.decodeReserve,
           joinWait := c.joinWait, resumeHeadroom := c.resumeHeadroom, defaultTtl := c.defaultTtl, maxTtl := c.maxTtl,
           packTemplates := c.packTemplates, stepCmpRing := c.stepCmpRing, policy := c.policy, lcFloor := c.lcFloor,
           segMask := c.segMask, targetModel := c.targetModel, draftModel := c.draftModel }

/-- The tenant table with the committed entries of `was` and the bucket levels of `now`. -/
def withLevels (was now : List (Nat × Tenant)) : List (Nat × Tenant) :=
  was.map (fun e => (e.1, { e.2 with level := ((aGet e.1 now).getD e.2).level }))

/-- The values that a commit is about to replace; a second commit of one beat leaves the first one's record (R322). -/
def State.replaced (s : State) : Prior :=
  s.prior.getD { glob := s.glob, parts := s.parts.map (fun p => withEntries p {}), tenants := s.tenants }

/-- The state with the values that are in force before the first beat edge after a commit (R322). -/
def State.inForce (s : State) (c : Prior) : State :=
  { s with glob := c.glob, parts := s.parts.mapIdx (fun i p => withEntries (c.parts.getD i p) p), tenants := withLevels c.tenants s.tenants }

/-- The committed values of `s` put back, what else changed kept; a delta of the mirror carries the committed table (R30, R322). -/
def State.putBack (s t : State) : State :=
  let f (d : Delta) : Delta := if d.seqNo < s.mirror.nextSeq then d else { d with tenants := withLevels s.tenants d.tenants }
  { t with glob := s.glob, parts := t.parts.mapIdx (fun i p => withEntries (s.part i) p), tenants := withLevels s.tenants t.tenants,
           mirror := { t.mirror with unacked := t.mirror.unacked.map f } }

/-- A step's, an admission's or a freeze's effect: it reads the committed values as they stood at the last beat edge (R322). -/
def underForce (f : State → Result) (s : State) : Result :=
  match s.prior with
  | none => f s
  | some c =>
    match f (s.inForce c) with
    | .next t => .next (s.putBack t)
    | r => r

/-! The two blocks of split mode (R26, R372). -/

/-- The block whose turn it is, set aside. -/
def State.block (s : State) : Block :=
  {
    time := s.time, segs := s.segs, parts := s.parts, rings := s.rings, tenants := s.tenants, handles := s.handles,
    seqs := s.seqs, indexes := s.indexes, glob := s.glob, prior := s.prior, screen := s.screen, objs := s.objs,
    trust := s.trust, span := s.span, mirror := s.mirror, roles := s.roles, power := s.power, vectors := s.vectors,
    cnt := s.cnt }

/-- The state with a block in its turn. -/
def State.withBlock (s : State) (b : Block) : State :=
  { s with
    time := b.time, segs := b.segs, parts := b.parts, rings := b.rings, tenants := b.tenants, handles := b.handles,
    seqs := b.seqs, indexes := b.indexes, glob := b.glob, prior := b.prior, screen := b.screen, objs := b.objs,
    trust := b.trust, span := b.span, mirror := b.mirror, roles := b.roles, power := b.power, vectors := b.vectors,
    cnt := b.cnt }

/-- The other block's turn: in split mode the two blocks take turns (DESIGN CHOICE, log entry 35); a whole block is its own. -/
def State.turn (s : State) : State := match s.other with
  | some b => { s.withBlock b with other := some s.block }
  | none => s

/-- The segments of one half as `from_` holds them, the others as `segs` does. -/
def takeHalf (half : List Nat) (from_ segs : List Segment) : List Segment :=
  segs.mapIdx (fun i g => if half.contains i then from_.getD i g else g)

/-- Every segment as the block that it belongs to holds it (R372). -/
def State.allSegs (s : State) : List Segment := match s.other with
  | some b => takeHalf s.roles.farHalf b.segs s.segs
  | none => s.segs

/-- A segment as the block that it belongs to holds it. -/
def State.segOf (s : State) (i : Nat) : Segment := s.allSegs.getD i {}

/-- A segment belongs to the block whose turn it is not (R370, R372). -/
def State.inSecond (s : State) (i : Nat) : Bool := s.other.isSome && s.roles.farHalf.contains i

/-- An object access path leads to a segment of the block whose turn it is not (R309, R372). -/
def State.farPath (s : State) : Endpoint → Bool
  | .i3c k => s.inSecond k
  | _ => false

/-- A command run in the block that it is for: in the other block's turn, if that is the one (R372). -/
def State.inBlockOf (s : State) (far : Bool) (f : State → Result) : Result :=
  if far then match f s.turn with
    | .next t => .next t.turn
    | r => r
  else f s

/-- An effect at a segment, run in the block that the segment belongs to (R33, R372). -/
def State.atBlock (s : State) (i : Nat) (f : State → State) : State := if s.inSecond i then (f s.turn).turn else f s

/-! Guards and counts. -/

/-- The lifecycle state of the manager, which is that of every joined segment (R330). -/
def State.lifecycle (s : State) : Lifecycle := (s.seg s.mgr).trust.lifecycle

/-- The block's lifecycle state serves the host: a RETIRED block does not (R328). -/
def State.unretired (s : State) : Bool := s.lifecycle != .retired

/-- The manager serves the host: up, past any recovery, not in hush, and not RETIRED (R328, R367, R395). -/
def State.mgrServes (s : State) : Bool := s.mgrUp && s.roles.recovering.isNone && s.power.hush == 0 && s.unretired

/-- The segments that serve, in ascending order (R261). -/
def State.servingSegs (s : State) : List Nat := (List.range s.segs.length).filter s.serving

/-- A segment of the block is out of reset and answers accesses to its own window (R33, R387). -/
def State.segUp (s : State) (i : Nat) : Bool := s.hasSeg i && !(s.seg i).inReset && !s.inSecond i

/-- A request of a port answered on its target channel: its tag is free again (R401, R402). A request that a reset of the port has ended
gets no answer. -/
def State.respondTo (s : State) (i tag status data : Nat) : State :=
  if !(s.seg i).port.busy.contains tag then s
  else s.onSeg i (fun g => { g with port :=
    { g.port with rspTag := tag, rspStatus := status, rspData := data, busy := g.port.busy.filter (· != tag) } })

/-- The answer to the request that a segment's target channel has just accepted (R401, R402). -/
def State.respond (s : State) (i status data : Nat) : State := s.respondTo i (s.seg i).port.reqTag status data

/-- The target channel can accept a request: fewer than 64 are outstanding, and none of them has its tag (R401). -/
def State.takesReq (s : State) (i tag : Nat) : Bool := !(s.seg i).port.busy.contains tag && (s.seg i).port.busy.length < 64

/-- A request accepted on a target channel (R401). -/
def State.acceptReq (s : State) (i tag : Nat) : State :=
  s.onSeg i (fun g => { g with port := { g.port with reqTag := tag, busy := g.port.busy ++ [tag] } })

/-- The numbers of the bits set in a mask, ascending. -/
def maskBits (w m : Nat) : List Nat := (List.range w).filter (fun i => m.testBit i)

/-- The segments of a partition in partition order (R203); every serving segment for the screen partition (R38). -/
def State.partSegs (s : State) (p : Nat) : List Nat :=
  if p == 15 then s.servingSegs else maskBits 20 (s.part p).segMask

/-- The place of a value in a list. -/
def placeOf (x : Nat) : List Nat → Nat
  | [] => 0
  | a :: rest => if a == x then 0 else placeOf x rest + 1

/-! Stamps (R47, R48). -/

/-- One stamp lies before another. -/
def before (a b : Stamp) : Bool := a.beat < b.beat || (a.beat == b.beat && a.cyc < b.cyc)

/-- The next control cycle: 5,000 cycles make a beat. -/
def nextCycle (a : Stamp) : Stamp := if a.cyc < 4999 then ⟨a.beat, a.cyc + 1⟩ else ⟨a.beat + 1, 0⟩

/-- The later of two stamps. -/
def laterOf (a b : Stamp) : Stamp := if before a b then b else a

/-- The stamp a number of beats on, in the same control cycle. -/
def plusBeats (a : Stamp) (n : Nat) : Stamp := ⟨a.beat + n, a.cyc⟩

/-- The stamp of the present beat edge. -/
def State.edge (s : State) : Stamp := ⟨s.time.beat, 0⟩

/-- The release stamps that hold their cycle against every other event (R279). -/
def State.reservedStamps (s : State) : List Stamp :=
  s.seqs.flatMap fun e =>
    (if e.2.released || e.2.ended.isSome || e.2.verdict.late then [] else [e.2.inDue])
      ++ (e.2.hold.filter (fun h => !h.late)).map (·.due)

/-- The first stamp from a given one that no release reserves. -/
def freeStamp (taken : List Stamp) : Nat → Stamp → Stamp
  | 0, a => a
  | fuel + 1, a => if taken.contains a then freeStamp taken fuel (nextCycle a) else a

/-- The stamp an event takes that arrives in control cycle `cyc` of the present beat: the first cycle, from its arrival on,
that follows the last stamp given and that no release reserves (R48, R279, log entry 3). -/
def State.stampFor (s : State) (cyc : Nat) : Stamp :=
  let from_ := laterOf ⟨s.time.beat, cyc % 5000⟩ (nextCycle s.time.last)
  freeStamp s.reservedStamps (s.reservedStamps.length + 1) from_

/-- The state in which a stamp has been given: it is the cycle of the event under way. -/
def State.given (s : State) (a : Stamp) : State := { s with time := { s.time with last := laterOf s.time.last a, now := a } }

/-- The state in which an event comes in a control cycle of the present beat, without a stamp of the sequencer. -/
def State.onCycle (s : State) (cyc : Nat) : State := { s with time := { s.time with now := ⟨s.time.beat, cyc % 5000⟩ } }

/-- The cycle of the event under way; the beat edge for the work of an edge. -/
def State.now (s : State) : Stamp := if s.edge.beat < s.time.now.beat || s.time.now.beat == s.time.beat then s.time.now else s.edge

/-- The present beat edge: no event of a later cycle of the beat has come yet (R39, R48). -/
def State.atEdge (s : State) : Bool := s.now.cyc == 0

/-! Word queues. -/

/-- The number of ones among the low bits of a word is odd. -/
def oddOnes : Nat → Nat → Bool
  | 0, _ => false
  | n + 1, w => (w % 2 == 1) != oddOnes n (w / 2)

/-- The parity bit that makes data, EOR, TORN and P hold an even number of ones (R284). -/
def parityOf (data : Nat) (eor torn : Bool) : Bool := (oddOnes 64 data != eor) != torn

/-- POISON of a word: the parity check fails (R284). -/
def QWord.poison (w : QWord) : Bool := parityOf w.data w.eor w.torn != w.p

/-- Depth of a queue. -/
def WordQ.depth (q : WordQ) : Nat := q.words.length

/-- A crossing of the high mark in the cycle `at_`; only a latching raises an event (R290). -/
def qCrossHigh (at_ : Stamp) (q : WordQ) : WordQ :=
  let raised := !q.highLatched
  { q with highCross := q.highCross + 1, highLatched := true,
           highAt := some { stamp := at_, raised := raised, depth := q.depth, count := q.highCross + 1 },
           owe := if raised then q.owe ++ [.watermark false q.depth (q.highCross + 1) at_] else q.owe }

/-- As `qCrossHigh`, for the low mark. -/
def qCrossLow (at_ : Stamp) (q : WordQ) : WordQ :=
  let raised := !q.lowLatched
  { q with lowCross := q.lowCross + 1, lowLatched := true,
           lowAt := some { stamp := at_, raised := raised, depth := q.depth, count := q.lowCross + 1 },
           owe := if raised then q.owe ++ [.watermark true q.depth (q.lowCross + 1) at_] else q.owe }

/-- The crossings of a cycle, judged on the depth before and after it (R290). -/
def qCross (at_ : Stamp) (was : Nat) (q : WordQ) : WordQ :=
  let q := if was < q.high && q.high ≤ q.depth then qCrossHigh at_ q else q
  if q.low < was && q.depth ≤ q.low then qCrossLow at_ q else q

/-- The oldest word loses its record's beginning: it is delivered with TORN 1, its parity kept consistent (R285). -/
def tearOldest : List QWord → List QWord
  | [] => []
  | w :: rest => (if w.torn then w else { w with torn := true, p := !w.p }) :: rest

/-- What a queue is before a push of a word, kept for a pop or a flush in the same cycle (R287, R289). -/
def pushMark (at_ : Stamp) (w : QWord) (q : WordQ) : PushMark :=
  { stamp := at_, word := w, words := q.words, lost := q.lost, lostLatched := q.lostLatched, highLatched := q.highLatched,
    lowLatched := q.lowLatched, highCross := q.highCross, lowCross := q.lowCross }

/-- The marks written to QCONTROL in an earlier cycle are in force (R292). -/
def qTick (at_ : Stamp) (q : WordQ) : WordQ :=
  match q.newMarks with
  | some m => if before m.1 at_ then { q with high := m.2.1, low := m.2.2, newMarks := none } else q
  | none => q

/-- The oldest word discarded for a pushed one (R285). -/
def qOverwrite (at_ : Stamp) (w : QWord) (q : WordQ) : WordQ :=
  let rest := q.words.drop 1
  let n := satAdd 32 q.lost 1
  { q with words := (if (q.words.headD {}).eor then rest else tearOldest rest) ++ [w], lost := n, lostLatched := true,
           owe := if q.lostLatched then q.owe else q.owe ++ [.lost n at_] }

/-- A push on what a pop of the same cycle has left: the depth is what it was before the cycle, so no mark is crossed (R289, R290). -/
def qPushBack (m : PopMark) (w : QWord) (q : WordQ) : WordQ :=
  { q with words := q.words ++ [w], highLatched := m.highLatched, lowLatched := m.lowLatched, highCross := m.highCross,
           lowCross := m.lowCross, owe := q.owe.filter (fun e => !m.added.contains e), popped := none, pushed := none }

/-- A push that no other operation of its cycle goes before. -/
def qPushAlone (at_ : Stamp) (w : QWord) (q : WordQ) : WordQ :=
  let m := pushMark at_ w q
  let t := if q.depth < q.cap then qCross at_ q.depth { q with words := q.words ++ [w] } else qOverwrite at_ w q
  { t with pushed := some { m with added := t.owe.drop q.owe.length }, popped := none }

/-- A push of a word (R284 to R287). The host read that has stalled longest on the empty queue takes the word at once (R288, R289). -/
def qPush (at_ : Stamp) (data : Nat) (eor : Bool) (q : WordQ) : WordQ :=
  let q := qTick at_ q
  let d := data % 2 ^ 64
  let w : QWord := { data := d, eor := eor, torn := q.tornNext, p := parityOf d eor q.tornNext }
  let q := { q with tornNext := false, recordEvents := q.recordEvents + flag eor }
  match q.stalled with
  | x :: rest =>
    { q with stalled := rest, answers := q.answers ++ [{ port := x.port, tag := x.tag, data := w.data }], lastData := w.data,
             lastEor := w.eor, lastTorn := w.torn, lastPoison := w.poison, lastUnderrun := false, lastTimeout := false, pushed := none,
             poisonRead := satAdd 8 q.poisonRead (flag w.poison) }
  | [] =>
    match q.popped with
    | some m => if m.stamp == at_ && q.depth < q.cap then qPushBack m w q else qPushAlone at_ w q
    | none => qPushAlone at_ w q

/-- What a read of a queue delivers: data, EOR, TORN, POISON and UNDERRUN (R284, R288). -/
structure QRead where
  data : Nat := 0
  eor : Bool := false
  torn : Bool := false
  poison : Bool := false
  underrun : Bool := false
  deriving DecidableEq, Repr

/-- What the read of a word delivers (R284). -/
def QWord.read (w : QWord) : QRead := { data := w.data, eor := w.eor, torn := w.torn, poison := w.poison }

/-- The record of a word read. -/
def qTaken (w : QWord) (q : WordQ) : WordQ :=
  { q with lastData := w.data, poisonRead := satAdd 8 q.poisonRead (flag w.poison), pushed := none }

/-- A read of an empty queue in NORMAL (R288). -/
def qEmptyRead (at_ : Stamp) (q : WordQ) : QRead × WordQ :=
  ({ data := q.lastData, underrun := true },
   { q with underrun := true, pushed := none, owe := if q.underrun then q.owe else q.owe ++ [.underrun false at_] })

/-- What the marks of a queue were before a pop, with the latchings that the pop has made. -/
def popMark (at_ : Stamp) (q t : WordQ) : PopMark :=
  { stamp := at_, highLatched := q.highLatched, lowLatched := q.lowLatched, highCross := q.highCross, lowCross := q.lowCross,
    added := t.owe.drop q.owe.length }

/-- A pop of a queue that holds a word, or a NORMAL read of an empty one (R284, R288). -/
def qPop (at_ : Stamp) (q : WordQ) : QRead × WordQ :=
  let q := qTick at_ q
  match q.words with
  | w :: rest =>
    let t := qCross at_ q.depth (qTaken w { q with words := rest })
    (w.read, { t with popped := some (popMark at_ q t) })
  | [] => qEmptyRead at_ q

/-- The queue as it was before the push of this cycle. -/
def qUnpushed (m : PushMark) (q : WordQ) : WordQ :=
  { q with words := m.words, lost := m.lost, lostLatched := m.lostLatched, highLatched := m.highLatched, lowLatched := m.lowLatched,
           highCross := m.highCross, lowCross := m.lowCross, owe := q.owe.filter (fun e => !m.added.contains e), pushed := none }

/-- A push and a pop in one cycle (R289), from the depth before it: an empty queue in HOLD gives the pushed word, in NORMAL the pop
sees it empty and the push lands; else both succeed, the depth stays, and nothing is lost or crossed. -/
def qBoth (at_ : Stamp) (m : PushMark) (q : WordQ) : QRead × WordQ :=
  let b := qUnpushed m q
  match b.words with
  | [] =>
    if b.hold then (m.word.read, qTaken m.word b)
    else
      let t := qEmptyRead at_ b
      (t.1, qCross at_ 0 { t.2 with words := [m.word] })
  | w :: rest => (w.read, qTaken w { b with words := rest ++ [m.word] })

/-- A read of a queue by its consumer: with the push of the same cycle, if there is one (R289). -/
def qRead (at_ : Stamp) (q : WordQ) : QRead × WordQ :=
  match q.pushed with
  | some m => if m.stamp == at_ then qBoth at_ m q else qPop at_ q
  | none => qPop at_ q

/-- The LAST fields of QSTATUS after a read (R292). -/
def qLast (r : QRead) (timeout : Bool) (q : WordQ) : WordQ :=
  { q with lastEor := r.eor, lastTorn := r.torn, lastPoison := r.poison, lastUnderrun := r.underrun, lastTimeout := timeout }

/-- The stalled reads complete as NORMAL reads, oldest first (R288): each one's word goes to the port it came by. -/
def qUnstall (at_ : Stamp) (q : WordQ) : WordQ :=
  q.stalled.foldl (fun q x =>
    let r := qPop at_ q
    { qLast r.1 false r.2 with answers := r.2.answers ++ [{ port := x.port, tag := x.tag, data := r.1.data }] }) { q with stalled := [] }

/-- The push of the present cycle. -/
def WordQ.pushedAt (q : WordQ) (at_ : Stamp) : Option PushMark :=
  match q.pushed with
  | some m => if m.stamp == at_ then some m else none
  | none => none

/-- A flush (R287): with a push in its cycle, the flush acts first and the pushed word is the first after it. A read stalled on the queue
completes as a NORMAL read (R288). -/
def qFlush (at_ : Stamp) (q : WordQ) : WordQ :=
  let q := qTick at_ q
  match q.pushedAt at_ with
  | some m =>
    let b := qUnpushed m q
    let w : QWord := { m.word with torn := true, p := parityOf m.word.data m.word.eor true }
    qCross at_ b.depth { b with words := [w], tornNext := false }
  | none => qUnstall at_ (qCross at_ q.depth { q with words := [], tornNext := true, pushed := none, popped := none })

/-- The mode of a queue set by the block or the host; a stalled read completes when it returns to NORMAL (R288, R291). -/
def qMode (at_ : Stamp) (hold : Bool) (q : WordQ) : WordQ :=
  let q := { q with hold := hold }
  if hold then q else qUnstall at_ q

/-- The queues of a segment set to HOLD or NORMAL (R291). While the test port holds the segment they stay in HOLD. -/
def holdQueues (at_ : Stamp) (hold : Bool) (g : Segment) : Segment :=
  let h := hold || g.trust.testHeld
  { g with nq := qMode at_ h g.nq, i3cIn := qMode at_ h g.i3cIn, i3cOut := qMode at_ h g.i3cOut }

/-- The queues of the manager's endpoints set to HOLD or NORMAL (R291); in HOLD while the test port holds the manager's segment. -/
def State.endpointMode (s : State) (hold : Bool) : State :=
  let h := hold || (s.seg s.mgr).trust.testHeld
  let f (x : EndpointS) : EndpointS := { x with inq := qMode s.now h x.inq, outq := qMode s.now h x.outq }
  { s with objs := { s.objs with eps := s.objs.eps.map f } }

/-- The words of a message or record pushed in order, EOR on the last (R286). -/
def qPushAll (at_ : Stamp) : List Nat → WordQ → WordQ
  | [], q => q
  | [w], q => qPush at_ w true q
  | w :: rest, q => qPushAll at_ rest (qPush at_ w false q)

/-- The answers to stalled reads that have completed reach their ports (R288). -/
def State.answerReads (s : State) (l : List ReadAnswer) : State := l.foldl (fun t x => t.respondTo x.port x.tag 0 x.data) s

/-- The state with a segment's notice queue changed; a stalled read that this completes is answered. -/
def State.onNq (s : State) (i : Nat) (f : WordQ → WordQ) : State :=
  let q := f (s.seg i).nq
  (s.onSeg i (fun g => { g with nq := { f g.nq with answers := [] } })).answerReads q.answers

/-- The stalled reads that a change of mode has completed are answered. -/
def State.settleReads (s : State) : State :=
  let pend := s.segs.flatMap (·.nq.answers) ++ s.objs.eps.flatMap (·.outq.answers)
  let s := if s.segs.any (fun g => !g.nq.answers.isEmpty) then s.onSegs (fun _ g => { g with nq := { g.nq with answers := [] } }) else s
  let clear (x : EndpointS) : EndpointS := { x with outq := { x.outq with answers := [] } }
  let s := if s.objs.eps.any (fun x => !x.outq.answers.isEmpty) then { s with objs := { s.objs with eps := s.objs.eps.map clear } } else s
  s.answerReads pend

/-- A segment's I3C target raises an in-band interrupt with its one data byte (R412): for a message that is ready to be read, 0, or a GONG
record latched, 1. The byte's value is that of its standard, which the spec does not give (log entry 40). -/
def interrupt (cause : Nat) (g : Segment) : Segment :=
  { g with trust := { g.trust with ibi := some (Config.unstated 60 cause % 256), ibis := g.trust.ibis + 1 } }

/-! Notices. -/

/-- The four words of a notice record, word 0 first (R293). -/
def noticeWords (code scope seg part : Nat) (stamp : Stamp) (detail : Nat) : List Nat :=
  [packMsb [(8, 0x20), (8, code), (4, scope), (5, seg), (4, part), (35, 0)],
   stamp.beat % 2 ^ 64,
   packMsb [(16, stamp.cyc), (48, detail / 2 ^ 64)],
   detail % 2 ^ 64]

/-- A segment pushes a notice into its own notice queue (R295). -/
def State.raise (s : State) (src code scope seg part : Nat) (stamp : Stamp) (detail : Nat) : State :=
  s.onNq src (qPushAll stamp (noticeWords code scope seg part stamp detail))

/-- DETAIL of a queue or ring WATERMARK notice (R294). -/
def watermarkDetail (object : Nat) (low : Bool) (depth crossings : Nat) : Nat :=
  packMsb [(16, object), (1, flag low), (31, 0), (32, depth), (32, crossings)]

/-- DETAIL of a LOST_WORDS notice (R294). -/
def lostDetail (object count : Nat) : Nat := packMsb [(16, object), (32, 0), (32, count), (32, 0)]

/-- DETAIL of an UNDERRUN notice (R294). -/
def underrunDetail (object : Nat) (timeout : Bool) : Nat := packMsb [(16, object), (1, flag timeout), (95, 0)]

/-- Code and DETAIL of the notice that reports a latching of a queue (R294). -/
def QEvent.notice (object : Nat) : QEvent → Nat × Nat
  | .watermark low d c _ => (0x01, watermarkDetail object low d c)
  | .lost n _ => (0x02, lostDetail object n)
  | .underrun t _ => (0x03, underrunDetail object t)

/-- The stamp of a latching, which its notice carries (R293). -/
def QEvent.stamp : QEvent → Stamp
  | .watermark _ _ _ a => a
  | .lost _ a => a
  | .underrun _ a => a

/-- The latchings of cycles that are over; those of the present cycle may still be undone (R289, R290). -/
def State.overBy (s : State) (owe : List QEvent) : List QEvent := owe.filter (fun e => before e.stamp s.now)

/-- The latchings of a management queue raised as notices by its segment, which pushes them into its own notice queue, once their cycle
is over. -/
def State.raiseQueue (s : State) (src object : Nat) (owe : List QEvent) : State :=
  (s.overBy owe).foldl (fun t e => t.raise src (e.notice object).1 0x7 src 0 e.stamp (e.notice object).2) s

/-! The initiator channel. -/

/-- Hops between two segments of the mesh (R23, R24). -/
def meshHops (a b : Nat) : Nat :=
  (if a / 5 < b / 5 then b / 5 - a / 5 else a / 5 - b / 5) + (if a % 5 < b % 5 then b % 5 - a % 5 else a % 5 - b % 5)

/-- The segment whose port carries the DMA of segment i: its own if connected, else the nearest connected, ties to the lower
number (R33). -/
def State.dmaSeg (s : State) (i : Nat) : Nat :=
  if (s.seg i).port.connected then i
  else
    let c := (List.range s.segs.length).filter (fun j => (s.seg j).port.connected)
    c.foldl (fun best j => if meshHops i j < meshHops i best || best == i then j else best) i

/-- Data beats sent on the credits held, to the write requests in their order (R403). -/
def sendBeats : Nat → List DmaReq → Nat × List DmaReq
  | k, [] => (k, [])
  | k, r :: rest =>
    if r.write then
      let n := min k (r.beats - r.sent)
      let t := sendBeats (k - n) rest
      (t.1, { r with sent := r.sent + n } :: t.2)
    else
      let t := sendBeats k rest
      (t.1, r :: t.2)

/-- A tag that no outstanding request holds (R403). -/
def freeTag (next : Nat) (issued : List DmaReq) : Nat :=
  ((firstFrom (fun t => !issued.any (fun r => r.tag == t % 256)) 256 next).getD next) % 256

/-- Requests issued while credits and tags last, oldest first. -/
def issueAll : List DmaReq → Port → Port
  | [], p => { p with waiting := [] }
  | r :: rest, p =>
    if 0 < p.reqCredit && p.issued.length < 256 then
      let t := freeTag p.nextTag p.issued
      issueAll rest { p with reqCredit := p.reqCredit - 1, issued := p.issued ++ [{ r with tag := t }],
                             nextTag := (t + 1) % 256 }
    else { p with waiting := r :: rest }

/-- What credits allow is issued and sent (R403). -/
def Port.pump (p : Port) : Port :=
  let p := issueAll p.waiting p
  let t := sendBeats p.wdCredit p.issued
  { p with wdCredit := t.1, issued := t.2 }

/-- A request joins the queue of a segment's initiator channel. -/
def State.dma (s : State) (seg : Nat) (r : DmaReq) : State :=
  s.onSeg (s.dmaSeg seg) (fun g => { g with port := Port.pump { g.port with waiting := g.port.waiting ++ [r] } })

/-- The first request of a transfer of `bytes` bytes at an address, 64-byte aligned and at most 4 KiB, within one 4 KiB frame
(R403); what is left follows in further requests. -/
def dmaReq (write : Bool) (addr bytes cls : Nat) (what : DmaUse) (data : Nat) : DmaReq :=
  let off := addr % 64
  let room := 4096 - addr % 4096
  let len := min bytes room
  { write := write, addr := addr - off, beats := max 1 (ceilDiv (off + len) 64), cls := cls, what := what, data := data,
    off := off, len := len, more := bytes - len }

/-! Rings. -/

/-- Entry size of a ring kind in bytes (R296). -/
def entryBytes (kind : Nat) : Nat := match kind with
  | 0 => 64
  | 1 => 64
  | 2 => 128
  | _ => 16

/-- Entries of a ring. -/
def Ring.entries (r : Ring) : Nat := 2 ^ r.sizeLog2

/-- (TAIL − HEAD) mod 2^32 (R296). -/
def Ring.depth (r : Ring) : Nat := (r.tail + 2 ^ 32 - r.head) % 2 ^ 32

/-- The records that wait, those whose write, or whose write-back, failed included (R302, R405). -/
def Ring.waits (r : Ring) : List BackRec := r.rewrites ++ r.writing.filter (·.failed) ++ r.backlog

/-- BACKLOG (R302). -/
def Ring.backlogCount (r : Ring) : Nat := r.waits.length

/-- A backlogged record is older than PAUSE_BT (R297). -/
def Ring.overdue (beat : Nat) (r : Ring) : Bool := r.waits.any (fun b => b.since + r.pauseBt ≤ beat)

/-- The host's byte address of entry i (R296). -/
def Ring.entryAddr (r : Ring) (i : Nat) : Nat := r.base + i % r.entries * entryBytes r.kind

/-- A WATERMARK or LOST_WORDS notice of a ring, raised by the manager, and the write-back it makes due (R290, R299). -/
def State.ringLatched (s : State) (n : Nat) (e : QEvent) : State :=
  (s.raise s.mgr (e.notice n).1 0x6 0 0 e.stamp (e.notice n).2).onRing n (fun r => { r with wbDue := true, raiseDue := true })

/-- The cycle of a ring's last index move is over: its latchings are raised (R290). -/
def State.closeRing (s : State) (n : Nat) : State :=
  match (s.ring n).cyc with
  | some c => c.owe.foldl (fun t e => t.ringLatched n e) (s.onRing n (fun r => { r with cyc := none }))
  | none => s

/-- A ring before the present cycle: what an earlier move of the cycle found, or as it stands. -/
def Ring.cycBase (now : Stamp) (r : Ring) : RingCyc :=
  let fresh : RingCyc := { stamp := now, depth := r.depth, highCross := r.highCross, lowCross := r.lowCross,
                           highLatched := r.highLatched, lowLatched := r.lowLatched }
  match r.cyc with
  | some c => if c.stamp == now then c else fresh
  | none => fresh

/-- HEAD and TAIL moved, with the crossings judged on the depth before and after the cycle (R290, R296). -/
def ringMoved (now : Stamp) (head tail : Nat) (r : Ring) : Ring :=
  let b := r.cycBase now
  let r' := { r with head := head % 2 ^ 32, tail := tail % 2 ^ 32 }
  let up : Bool := b.depth < r.high && r.high ≤ r'.depth
  let down : Bool := r.low < b.depth && r'.depth ≤ r.low
  let hc := (b.highCross + flag up) % 2 ^ 32
  let lc := (b.lowCross + flag down) % 2 ^ 32
  let owe : List QEvent := (if up && !b.highLatched then [.watermark false r'.depth hc now] else [])
    ++ (if down && !b.lowLatched then [.watermark true r'.depth lc now] else [])
  { r' with highCross := hc, lowCross := lc, highLatched := b.highLatched || up, lowLatched := b.lowLatched || down,
            cyc := some { b with up := up, down := down, owe := owe } }

/-- A ring whose last moves came in an earlier cycle: they are over. -/
def State.ringTurn (s : State) (n : Nat) : State :=
  if (match (s.ring n).cyc with | some c => c.stamp == s.now | none => true) then s else s.closeRing n

/-- The indexes of a ring moved in the present cycle; latchings of an earlier cycle are raised first. -/
def State.moveRing (s : State) (n head tail : Nat) : State := (s.ringTurn n).onRing n (ringMoved s.now head tail)

/-- The index moves of cycles that are over raise their latchings. -/
def State.closeRings (s : State) : State :=
  (s.rings.filter (fun e => match e.2.cyc with | some c => c.stamp != s.now | none => false)).foldl (fun t e => t.closeRing e.1) s

/-- An index that the block moves makes a write-back due (R299). -/
def State.blockMoves (s : State) (n head tail : Nat) : State :=
  (s.moveRing n head tail).onRing n (fun r => { r with wbDue := true })

/-- The loss of an entry or record of a ring counted (R285, R299, R304). -/
def State.ringLoses (s : State) (n : Nat) : State :=
  let r := s.ring n
  let c := satAdd 32 r.lost 1
  let s := s.setRing n { r with lost := c, lostLatched := true }
  if r.lostLatched then s else s.ringLatched n (.lost c s.now)

/-- The next free entry index of a ring, those being written counted. -/
def Ring.nextIdx (r : Ring) : Nat := (r.tail + r.writing.length) % 2 ^ 32

/-- A ring has an entry free for a record. -/
def Ring.hasRoom (r : Ring) : Bool := r.depth + r.writing.length < r.entries

/-- Entries taken from the front of a token backlog, and what is left of it (R302). -/
def takeEntries : Nat → List TokBack → List TokBack × List TokBack
  | _, [] => ([], [])
  | n, b :: rest =>
    if n < b.entries.length then
      (if n == 0 then [] else [{ b with entries := b.entries.take n, ends := false }], { b with entries := b.entries.drop n } :: rest)
    else
      let t := takeEntries (n - b.entries.length) rest
      (b :: t.1, t.2)

/-- The token entries of a sequence that wait for their STR ring, those of records being written included (R302, R405). -/
def Sequence.backTokens (q : Sequence) : List TokBack := q.flying.flatten ++ q.backlog

/-- Places in the token backlog: a token takes one, until the record that holds the last of its entries is written (R302, R303). -/
def tokensIn (l : List TokBack) : Nat := (l.filter (·.ends)).length

/-- 18 token entries of 32 bits, entry 0 the most significant (R227). -/
def packEntries (width n : Nat) (l : List Nat) : Nat :=
  packMsb ((List.range n).map (fun i => (width, l.getD i 0)))

/-- A stream or result record: the clear 32 bytes, and the sealed remainder with its tag (R227, R256, R341). -/
def sealedRecord (kind : Nat) (cont : Bool) (q : Sequence) (beat : Nat) (plain : Nat) : Nat :=
  let clear := packMsb [(8, kind), (16, 0), (1, flag cont), (7, 0), (64, q.req.reqId), (64, beat), (32, q.recordSeq), (64, 0)]
  let c := Config.gcmSeal q.req.streamKey (nonceBytes (q.recordSeq % 2 ^ 32)) clear plain
  packMsb [(256, clear), (640, c.1), (128, c.2)]

/-- A stream record of the next entries of a sequence's token backlog (R227). -/
def streamRecord (n : Nat) (cont : Bool) (q : Sequence) : Nat × Sequence :=
  let t := takeEntries n q.backlog
  let beat := ((q.backlog.headD {}).due).beat
  let plain := packMsb [(8, n), (8, 0), (576, packEntries 32 18 (t.1.flatMap (·.entries))), (48, 0)]
  (sealedRecord 0x10 cont q beat plain,
   { q with backlog := t.2, flying := q.flying ++ [t.1], recordSeq := q.recordSeq + 1, records := q.records + 1, unwritten := q.unwritten + 1 })

/-- A result record of the next entries of a request (R256). -/
def resultRecord (n : Nat) (cont : Bool) (q : Sequence) : Nat × Sequence :=
  let e := q.results.take n
  let first := e.headD {}
  let words := e.map (fun r => packMsb [(64, r.ref), (32, r.score.toNat), (1, flag r.reranked), (31, 0)])
  let plain := packMsb [(8, n), (16, first.rank), (104, 0), (512, packEntries 128 4 words)]
  (sealedRecord 0x11 cont q first.due.beat plain,
   { q with results := q.results.drop n, recordSeq := q.recordSeq + 1, records := q.records + 1, unwritten := q.unwritten + 1 })

/-- The record as it is written: a stream or result record is made now, in the order of writing (R302). -/
def State.makeRecord (s : State) (b : BackRec) : Nat × State :=
  match b.kind with
  | .stream i =>
    match s.live i with
    | some q => let t := streamRecord b.data b.cont q; (t.1, s.onLive i (fun _ => t.2))
    | none => (0, s)
  | .result i =>
    match s.live i with
    | some q => let t := resultRecord b.data b.cont q; (t.1, s.onLive i (fun _ => t.2))
    | none => (0, s)
  | _ => (b.data, s)

/-- The DMA write of a ring entry. -/
def entryWrite (n : Nat) (r : Ring) (idx data : Nat) : DmaReq :=
  dmaReq true (r.entryAddr idx) (entryBytes r.kind) 3 (.ringRecord n idx) data

/-- A record is given its entry and its write is asked of the initiator channel. -/
def State.writeEntry (s : State) (n : Nat) (b : BackRec) : State :=
  let t := s.makeRecord b
  let s := t.2
  let r := s.ring n
  let idx := r.nextIdx
  let s := s.setRing n { r with writing := r.writing ++ [{ b with idx := idx, data := t.1 }] }
  s.dma s.mgr (entryWrite n r idx t.1)

/-- The kind of ring a record is bound for (R296). -/
def RecKind.ringKind : RecKind → Nat
  | .completion _ => 1
  | .answer => 1
  | .stepRec _ => 1
  | .stream _ => 2
  | .result _ => 2
  | .ntc => 3

/-- A record for a CMP or STR ring: written, or kept in the ring's backlog while the ring is full or earlier records wait
(R302). A record for a ring that is not enabled or not of its kind is never written. -/
def State.sendRecord (s : State) (n : Nat) (b : BackRec) : State :=
  let r := s.ring n
  let b := { b with since := s.time.beat }
  if r.enable && r.kind == b.kind.ringKind then
    if r.backlog.isEmpty && r.hasRoom then s.writeEntry n b
    else s.setRing n { r with backlog := r.backlog ++ [b] }
  else s

/-- The backlogged records for which the ring has room are written, in order (R302). -/
def State.writeBacklog (n : Nat) : List BackRec → State → State
  | [], s => s.onRing n (fun r => { r with backlog := [] })
  | b :: rest, s =>
    if (s.ring n).hasRoom then State.writeBacklog n rest (s.writeEntry n b)
    else s.onRing n (fun r => { r with backlog := b :: rest })

/-- An NTC entry (R304). -/
def ntcEntry (seq : Nat) (w : QRead) (torn : Bool) : Nat :=
  packMsb [(48, seq), (13, 0), (1, flag w.poison), (1, flag torn), (1, flag w.eor), (64, w.data)]

/-- The flags of an NTC entry that lie in its byte 8. -/
def ntcFlags (poison torn eor : Bool) : Nat := 4 * flag poison + 2 * flag torn + flag eor

/-- A full NTC ring gives up its oldest entry: HEAD advances, LOST counts, and the entry now at HEAD is rewritten with TORN 1
if the lost one was no record's end (R285, R304). -/
def State.ntcOverwrite (s : State) (n : Nat) : State :=
  let r := s.ring n
  if r.depth + r.writing.length < r.entries then s
  else
    let old := r.flags.headD 1
    let rest := r.flags.drop 1
    let s := s.setRing n { r with flags := if old % 2 == 1 then rest else (rest.headD 0 ||| 2) :: rest.drop 1 }
    let s := s.blockMoves n (r.head + 1) r.tail
    let s := s.ringLoses n
    if old % 2 == 1 then s
    else
      let r := s.ring n
      s.dma s.mgr (dmaReq true (r.entryAddr r.head + 8) 1 3 (.tornEntry n r.head) (r.flags.headD 2))

/-- One word of a notice record written to an NTC ring (R304). -/
def State.ntcWord (s : State) (n : Nat) (w : QRead) : State :=
  let s := s.ntcOverwrite n
  let r := s.ring n
  let torn := w.torn || r.tornNext
  let s := s.setRing n { r with tornNext := false, words := r.words + 1, flags := r.flags ++ [ntcFlags w.poison torn w.eor] }
  s.writeEntry n { kind := .ntc, data := ntcEntry r.words w torn, eor := w.eor }

/-! Event vectors (R299, R417). -/

/-- A pulse of a vector is made due: its pending bit is set. -/
def State.pulse (s : State) (v : Nat) : State :=
  { s with vectors := { s.vectors with pending := insertNat v s.vectors.pending } }

/-- A ring raises its vector: a pulse is due at once, or at the end of the MOD_BT interval it falls in. -/
def State.raiseVector (s : State) (n : Nat) : State :=
  let r := s.ring n
  if !r.evEnable then s
  else
    match r.lastPulse with
    | some b =>
      if s.time.beat < b + r.modBt then s.setRing n { r with heldRaise := true }
      else (s.setRing n { r with lastPulse := some s.time.beat }).pulse r.vector
    | none => (s.setRing n { r with lastPulse := some s.time.beat }).pulse r.vector

end Sys2Proof.Machine
end

