-- ==== Sys2Proof/Machine/Arith.lean ====
section
/-! DEFINITION. Integer arithmetic and scaling: statistics records (R101 to R105), the Row Scaler (R109 to R112), the column
sums (R75, R106, R116, R117), the Side Lane (R115), the finisher (R121 to R124) and groups of 128 (R125). -/

namespace Sys2Proof.Machine

/-! Rows and records in staging SRAM. -/

/-- The part of a memory within n bytes of an address, by offset. -/
def memPart (m : Memory) (base n : Nat) : Memory := (m.filter (fun c => base ≤ c.1 && c.1 < base + n)).map (fun c => (c.1 - base, c.2))

/-- The 256 BF16 elements of depth slice k of the row at a unit (R99). -/
def rowSlice (m : Memory) (unit k : Nat) : List BF16 :=
  let p := memPart m (unit * 256 + 512 * k) 512
  (List.range 256).map (fun i => BitVec.ofNat 16 (memReadWord p (2 * i) 2))

/-- The header unit of a row: the one before it; a row at unit 0 has none, which the unit past the SRAM's end stands for. -/
def headerUnit (unit : Nat) : Nat := if unit == 0 then 393216 else unit - 1

/-- A statistics record (R101). -/
structure RowStats where
  absmax : F32 := 0
  max : F32 := 0
  min : F32 := 0
  tag : Nat := 0
  range : Bool := false
  poison : Bool := false
  deriving DecidableEq, Repr

/-- A record as its 128-bit word spells it (R101). -/
def statsOf (w : Nat) : RowStats :=
  { absmax := BitVec.ofNat 32 (bits 127 96 w), max := BitVec.ofNat 32 (bits 95 64 w), min := BitVec.ofNat 32 (bits 63 32 w),
    tag := bits 31 8 w, range := bit 1 w, poison := bit 0 w }

/-- The word of a record (R101). -/
def statsWord (r : RowStats) : Nat :=
  packMsb [(32, r.absmax.toNat), (32, r.max.toNat), (32, r.min.toNat), (24, r.tag), (6, 0), (1, flag r.range), (1, flag r.poison)]

/-- The record of the row at a unit. -/
def readStats (m : Memory) (unit : Nat) : RowStats := statsOf (memReadWord (memPart m (headerUnit unit * 256 + 240) 16) 0 16)

/-- A record is current for a step (R102). -/
def statsCurrent (valid : List Nat) (m : Memory) (launchNo unit : Nat) : Bool :=
  valid.contains (headerUnit unit) && (readStats m unit).tag == launchNo % 2 ^ 24

/-- An element as statistics and coding read it: NaN as 0, infinities as the largest finite value (R101, R110). -/
def cleanElem (x : BF16) : F32 :=
  let v := f32OfBf16 x
  if f32IsNan v then 0
  else if f32IsInf v then f32OfBf16 (if x.toNat.testBit 15 then 0xFF7F else bf16Max)
  else f32Of (f32Read v)

/-- Statistics of elements; each carries whether its channel is excluded (R101). The largest and smallest of no elements are
the infinities that leave every other value as it is, so that slices merge in any order (R103, log entry 42). -/
def gatherStats (tag : Nat) (l : List (BF16 × Bool)) : RowStats :=
  let vs := (l.filter (fun e => !e.2)).map (fun e => cleanElem e.1)
  { absmax := vs.foldl (fun a v => f32Max a (f32Abs v)) 0, max := vs.foldl f32Max (vs.headD (f32Inf true)),
    min := vs.foldl f32Min (vs.headD (f32Inf false)), tag := tag % 2 ^ 24,
    range := l.any (fun e => f32IsInf (f32OfBf16 e.1)), poison := l.any (fun e => f32IsNan (f32OfBf16 e.1)) }

/-- The combining write of a slice's statistics into a record (R103). -/
def mergeStats (current : Bool) (old new : RowStats) : RowStats :=
  if current then
    { absmax := f32Max old.absmax new.absmax, max := f32Max old.max new.max, min := f32Min old.min new.min, tag := new.tag,
      range := old.range || new.range, poison := old.poison || new.poison }
  else new

/-- A record written: 16 bytes of the header unit (R102). -/
def writeStats (m : Memory) (unit : Nat) (r : RowStats) : Memory :=
  memWriteBytes m (headerUnit unit * 256 + 240) (bytesLe 16 (statsWord r))

/-! The Row Scaler. -/

/-- tiny, 2^-120 (R109). -/
def tiny : F32 := 0x03800000

/-- 127 and 255 as binary32. -/
def f127 : F32 := 0x42FE0000

/-- 255 as binary32. -/
def f255 : F32 := 0x437F0000

/-- Bounds of a zero point (R107). -/
def clampZa (i : Int) : Int := clampInt (-8388608) 8388607 i

/-- The scale of a row from its record, and whether its zero point was clamped (R109, R112). -/
def rowScale (asym : Bool) (r : RowStats) : RowScale × Bool :=
  let base : RowScale := { poison := r.poison, range := r.range, absmax := r.absmax, max := r.max, min := r.min }
  let span := f32Sub r.max r.min
  if asym && f32Le tiny span then
    let q := f32Div f255 span
    let z := f32Rne (f32Mul (f32Neg r.min) q)
    ({ base with s := f32Div span f255, r := q, za := clampZa z }, clampZa z != z)
  else if f32Le tiny r.absmax then
    ({ base with s := f32Div r.absmax f127, r := f32Div f127 r.absmax, za := if asym then 128 else 0 }, false)
  else ({ base with s := f32One, r := 0, za := 0 }, false)

/-- The code of an element (R110). -/
def codeOf (asym : Bool) (e : RowScale) (x : BF16) : Int :=
  let q := f32Rne (f32Mul (cleanElem x) e.r) + e.za
  if asym then clampInt 0 255 q else clampInt (-127) 127 q

/-- An element lies outside the range of its row's record, as the sweep's first pass read it (R112). -/
def outsideRange (asym : Bool) (e : RowScale) (x : BF16) : Bool :=
  let v := cleanElem x
  if asym then f32Lt v e.min || f32Lt e.max v else f32Lt e.absmax (f32Abs v)

/-- One slice fed: its codes, an outlier channel taking za, and what it adds to the row's entry and the counters (R110 to
R112). -/
structure FedSlice where
  codes : List Int := []
  sum : Int := 0
  outliers : List (Nat × BF16) := []
  saturated : Nat := 0
  infs : Nat := 0
  deriving DecidableEq, Repr

/-- A slice of a row coded (R110). An outlier channel is fed za as R110 says, whole: za may lie outside the 9-bit activation
operand of R75 and the codes of R107, and what the cells then do the spec leaves open. DESIGN CHOICE (log entry 42): the
product is formed in full width. -/
def feedSlice (asym : Bool) (e : RowScale) (chans : List Nat) (k : Nat) (xs : List BF16) : FedSlice :=
  let l := xs.zipIdx
  let isOut (i : Nat) : Bool := chans.contains (256 * k + i)
  let codes := l.map (fun p => if isOut p.2 then e.za else codeOf asym e p.1)
  { codes := codes, sum := codes.foldl (· + ·) 0,
    outliers := (l.filter (fun p => isOut p.2)).map (fun p => (placeOf (256 * k + p.2) chans, p.1)),
    saturated := (l.filter (fun p => !isOut p.2 && outsideRange asym e p.1)).length,
    infs := (l.filter (fun p => f32IsInf (f32OfBf16 p.1))).length }

/-- A row's entry after a slice (R111). -/
def scaleAfter (f : FedSlice) (e : RowScale) : RowScale :=
  { e with codeSum := e.codeSum + f.sum, outliers := e.outliers ++ f.outliers }

/-! Columns. -/

/-- The weight codes that a tile byte holds: column, depth row and code (R75, R106). -/
def byteCodes (wfmt off byte : Nat) : List (Nat × Nat × Int) :=
  if wfmt == 0 then [(off / 256, off % 256, signed 8 byte)]
  else
    let c (n : Nat) : Int := if wfmt == 1 then signed 4 n else (n : Int)
    [(off / 128, 2 * (off % 128), c (byte % 16)), (off / 128, 2 * (off % 128) + 1, c (byte / 16))]

/-- The codes of a tile that differ from 0 and what contributes to each column. -/
def tileCodes (wfmt : Nat) (tile : Memory) : List (Nat × Nat × Int) :=
  tile.flatMap (fun c => byteCodes wfmt c.1 c.2.toNat)

/-- The physical column that serves a logical column: the spare of its valid entry, or its own (R97). -/
def physColumn (remap : List RemapEntry) (l : Nat) : Nat :=
  match firstFrom (fun k => (remap.getD k {}).valid && (remap.getD k {}).logical == l) 8 0 with
  | some k => 256 + k
  | none => l

/-- The cells of a register after a load: each logical column's weights in the physical column that the remap table gives, the
other physical columns as they were (R74, R90). -/
def placeWeights (remap : List RemapEntry) (tile old : List (Nat × Nat × Int)) : List (Nat × Nat × Int) :=
  let used := (List.range 256).map (physColumn remap)
  tile.map (fun w => (physColumn remap w.1, w.2)) ++ old.filter (fun w => !used.contains w.1)

/-- The tree outputs of the 264 physical columns for a fed slice (R78): weights of code 0 add nothing. -/
def columnSums (codes : List Int) (cells : List (Nat × Nat × Int)) : List Int :=
  (List.range 264).map (fun c =>
    (cells.filter (fun w => w.1 == c)).foldl (fun acc w => acc + codes.getD w.2.1 0 * w.2.2) 0)

/-- The remap stage: 256 of the 264 tree outputs, one for each logical column (R78). -/
def treeOut (remap : List RemapEntry) (codes : List Int) (cells : List (Nat × Nat × Int)) : List Int :=
  let sums := columnSums codes cells
  (List.range 256).map (fun l => sums.getD (physColumn remap l) 0)

/-- Largest magnitude of an accumulator (R117). -/
def accMax : Int := 2147483647

/-- An accumulator row after a pass: written by the first, added to by the others, saturating (R78, R117). -/
def accumulate (first : Bool) (old tree : List Int) : List Int :=
  tree.zipIdx.map (fun p => clampInt (-accMax) accMax (if first then p.1 else old.getD p.2 0 + p.1))

/-- An accumulator row saturated in a pass. -/
def accSaturates (first : Bool) (old tree : List Int) : Bool :=
  tree.zipIdx.any (fun p => let v := if first then p.1 else old.getD p.2 0 + p.1; v < -accMax || accMax < v)

/-! The finisher. -/

/-- The side sum of one output channel: outlier values in list order times their side weights (R115). -/
def sideSum (e : RowScale) (side : List (Nat × List BF16)) (c n : Nat) : F32 :=
  (List.range n).foldl (fun acc i =>
    let v := match aGet i e.outliers with | some x => cleanElem x | none => 0
    let w := f32OfBf16 (((aGet i side).getD []).getD c 0)
    f32Add acc (f32Mul v w)) 0

/-- SiLU and GELU: within a relative error of 2^−20 or an absolute one of 2^−40, whichever is larger (R121). A NaN and +∞ stay as
they are, and of −∞ the spec states no value (R123, log entries 6 and 42). -/
def smooth (f : F32 → F32) (exact : Int → Int) (x : F32) : F32 :=
  if f32IsNan x then f32Nan
  else if x == f32Inf false then x
  else if x == f32Inf true then f32Of (f32Read (f x))
  else
    let v := exact (fixOf x)
    heldTo v (max ((v.natAbs : Int) / 2 ^ 20) (2 ^ 216)) (f x)

/-- The activation function (R121). ReLU leaves −0.0 as it is: only a value below zero becomes +0.0 (DESIGN CHOICE, log entry 42). -/
def activate (act : Nat) (x : F32) : F32 :=
  if act == 1 then (if f32Lt x 0 then 0 else x)
  else if act == 2 then smooth Config.silu fixSilu x
  else if act == 3 then smooth Config.gelu fixGelu x
  else x

/-- The value of one output element before the output stage (R121, R123). -/
def finishElem (wfmt act passes : Nat) (e : RowScale) (entry : Nat) (a : Int) (side : F32) : F32 :=
  if e.poison then f32Nan
  else if f32Eq (reScale entry) 0 then activate act (f32Of (f32Read (reBias entry)))
  else
    let zw : Int := if wfmt == 2 then reZw entry else 0
    let c := a - zw * e.codeSum - e.za * reColsum entry + 256 * (passes : Int) * e.za * zw
    let v := f32Mul (f32Mul (f32OfInt c) e.s) (reScale entry)
    activate act (f32Add (f32Add v (reBias entry)) side)

/-- A group of 128 values quantised (R125): scale, codes, and whether it counts in KV_SCALE_CLAMPS. -/
def quantGroup (v : List F32) : F16 × List Int × Bool :=
  if v.any f32IsNan then (0x7E00, v.map (fun _ => 0), false)
  else
    let big : F32 := f32Mul (f32OfInt 65504) f127
    let a := v.foldl (fun m x => f32Max m (if f32IsInf x then big else f32Abs x)) 0
    if f32Eq a 0 then (0x3C00, v.map (fun _ => 0), false)
    else
      let q := f32Div a f127
      let s := f16Scale q
      (s, v.map (fun x => clampInt (-127) 127 (f32Rne (f32Div x (f32OfF16 s)))), f16Clamped q || v.any f32IsInf)

/-- Codes as the bytes that hold them. -/
def codeBytes (l : List Int) : List Nat := l.map (unsigned 8)

/-- What a finisher writes of one row: bytes at its slice, bytes in its header unit, statistics, and what the counters take. -/
structure RowOut where
  slice : List Nat := []
  header : Option Nat := none
  stats : RowStats := {}
  odd : Nat := 0
  clamps : Nat := 0
  deriving DecidableEq, Repr

/-- Elements that a finisher made NaN or infinite, of a row not poisoned (R123). -/
def oddElems (e : RowScale) (v : List F32) : Nat :=
  if e.poison then 0 else (v.filter (fun x => f32IsNan x || f32IsInf x)).length

/-- The BF16 output of a row (R124), its statistics over the values written (R103). -/
def outBf16 (tag : Nat) (e : RowScale) (excl : List Bool) (v : List F32) : RowOut :=
  let w := v.map bf16Of
  let st := gatherStats tag (w.zip excl)
  { slice := w.flatMap (fun x => bytesLe 2 x.toNat), stats := { st with range := st.range || e.range },
    odd := oddElems e (w.map f32OfBf16) }

/-- The FP32 output of a row (R124). -/
def outF32 (e : RowScale) (v : List F32) : RowOut :=
  { slice := v.flatMap (fun x => bytesLe 4 x.toNat), odd := oddElems e v,
    stats := { range := v.any f32IsInf || e.range, poison := v.any f32IsNan } }

/-- The INT8 output of a row: two groups, their scales in one 32-bit word (R124, R125). -/
def outInt8 (e : RowScale) (v : List F32) : RowOut :=
  let a := quantGroup (v.take 128)
  let b := quantGroup (v.drop 128)
  { slice := codeBytes (a.2.1 ++ b.2.1), header := some (a.1.toNat + b.1.toNat * 2 ^ 16), odd := oddElems e v,
    clamps := flag a.2.2 + flag b.2.2,
    stats := { range := a.2.2 || b.2.2 || v.any f32IsInf || e.range, poison := v.any f32IsNan } }

/-- The output of one row of a sweep (R121 to R124). -/
def finishRow (w passes tag : Nat) (table : List Nat) (e : RowScale) (acc : List Int) (side : List (Nat × List BF16)) (n : Nat) :
    RowOut :=
  let v := (List.range 256).map (fun c =>
    finishElem (sweepWfmt w) (sweepAct w) passes e (table.getD c 0) (acc.getD c 0) (sideSum e side c n))
  if sweepOutfmt w == 0 then outBf16 tag e (table.map reExcl ++ List.replicate (256 - table.length) false) v
  else if sweepOutfmt w == 1 then outInt8 e v
  else outF32 e v

/-- S of R100: output units of a slice by OUTFMT. -/
def outUnits (outfmt : Nat) : Nat := if outfmt == 0 then 2 else if outfmt == 1 then 1 else 4

end Sys2Proof.Machine
end

