-- ==== Sys2Proof/Machine/Cache.lean ====
section
/-! DEFINITION. Pages and block sets (R173 to R184), the Handle Directory (R185 to R191), dim records and the movement
between tiers (R192 to R197), the return and reclaim of pages (R198 to R201), and how a live sequence ends (R219, R220,
R257). Pages are counted per partition, as the least over its segments (R202, log entry 7). -/

namespace Sys2Proof.Machine

/-! Models and block sets. -/

/-- A resident model of a partition. -/
def Partition.model (p : Partition) (id : Nat) : Option Model :=
  if id == 0xFFFF then none else p.models.find? (fun m => m.id == id)

/-- The target model of a partition (R203). -/
def Partition.target (p : Partition) : Option Model := p.model p.targetModel

/-- The draft model of a partition (R203). -/
def Partition.draft (p : Partition) : Option Model := p.model p.draftModel

/-- Pages of a model's block set; none without a model. -/
def setOf (m : Option Model) : Nat := match m with | some m => m.blockPages | none => 0

/-- Pages of a block set on one segment: of the target, and of the draft for a sequence that uses it (R177). -/
def Partition.setPages (p : Partition) (draft : Bool) : Nat := setOf p.target + (if draft then setOf p.draft else 0)

/-- Bytes of a stack left to the two pools of a partition (R173). -/
def poolBytes (screenMib modelGib retrievalGib : Nat) : Nat :=
  stackBytes - 2 ^ 28 - screenMib * 2 ^ 20 - (modelGib + retrievalGib) * 2 ^ 30

/-- Bytes of the block maps: one for each model slot of each live sequence and directory entry (R175). -/
def mapBytes : Nat := (32768 + 122880) * 2 * 4096

/-- The largest multiple of 32 pages that fits beside the block records they need (R174, R175). -/
def pagesFor (bytes set : Nat) : Nat :=
  let room := bytes - mapBytes
  let set := max 1 set
  let fits (n : Nat) : Bool := n * 16896 + n / set * 4096 ≤ room
  let n := room * set / (16896 * set + 4096) / 32 * 32
  if fits (n + 32) then n + 32 else n

/-- The smallest block set of a partition's resident models that hold KV pages (R175). -/
def Partition.leastSet (p : Partition) : Nat :=
  ((p.models.map Model.blockPages).filter (0 < ·)).foldl (fun acc n => if acc == 0 || n < acc then n else acc) 0

/-- Pages of a partition's pool before any channel is mapped out (R173, R174). -/
def Partition.layoutPages (p : Partition) : Nat :=
  match p.target with
  | none => 0
  | some _ => pagesFor (poolBytes p.screenMib p.modelArea p.retrievalArea) p.leastSet

/-- Channel shares mapped out on a segment (R174, R357). -/
def Segment.deadChannels (g : Segment) : Nat := (g.stack.retired ++ g.stack.failed).eraseDups.length

/-- Pages of a pool of n pages that a segment has lost: 1/32 for each channel out, and the frames out singly (R174, R357). -/
def Segment.pagesLost (n : Nat) (g : Segment) : Nat :=
  n / 32 * g.deadChannels + (g.stack.taken.filter (fun k => !(g.stack.retired ++ g.stack.failed).contains (k % 32))).length

/-- The pool of a partition, as it was laid out (R173), after what is mapped out, least over its segments (R174, R202). -/
def State.poolOf (s : State) (i : Nat) : Nat :=
  let n := (s.part i).layout
  n - ((s.partSegs i).map (fun j => (s.seg j).pagesLost n)).foldl max 0

/-! The pool. -/

/-- Pages whose return is stamped before an edge join the free pages (R198). -/
def settled (edge : Stamp) (p : Partition) : Partition :=
  { p with poolFree := p.poolFree + sumNat ((p.returning.filter (fun r => before r.2 edge)).map (·.1)),
           returning := p.returning.filter (fun r => !before r.2 edge) }

/-- The pool of a partition as the present beat edge sees it. -/
def State.settle (s : State) (i : Nat) : State := s.onPart i (settled s.edge)

/-- POOL_FREE: pages that no cache holds (R202). -/
def Partition.freePages (p : Partition) : Nat := p.poolFree + sumNat (p.returning.map (·.1))

/-- Pages return to a pool at a stamp (R198). -/
def State.returnPages (s : State) (i n : Nat) (stamp : Stamp) : State :=
  if n == 0 then s else s.onPart i (fun p => { p with returning := p.returning ++ [(n, stamp)] })

/-- Pages freed at once by reclaim (R200). -/
def State.freeNow (s : State) (i n : Nat) : State := s.onPart i (fun p => { p with poolFree := p.poolFree + n })

/-- Pages taken from a pool. -/
def State.takePages (s : State) (i n : Nat) : State := s.onPart i (fun p => { p with poolFree := p.poolFree - n })

/-- Pages per segment that a live sequence's own block sets hold, the one reserved for its save copy included. -/
def State.seqPages (s : State) (q : Sequence) : Nat :=
  (q.ownBlocks.length + flag q.saveBlock) * (s.part q.req.part).setPages q.speculate

/-- Position blocks that positions `from_` to `to_` − 1 touch and the sequence does not yet hold (R181). -/
def missingBlocks (q : Sequence) (from_ to_ : Nat) : List Nat :=
  if to_ ≤ from_ then []
  else ((List.range ((to_ - 1) / 64 + 1 - from_ / 64)).map (· + from_ / 64)).filter
    (fun b => !(b < q.shared || q.ownBlocks.contains b))

/-! Where the bytes of a stack lie. -/

/-- The channel of a stack address outside the page pool: 4 KiB units over 32 channels (R174). -/
def stackChannel (addr : Nat) : Nat := addr / 4096 % 32

/-- The channel of a page, and its offset within that channel's share of the pool (R174). -/
def pagePlace (n : Nat) : Nat × Nat := (n % 32, n / 32 * 16896)

/-- The base addresses of a partition's regions in each of its stacks (R173): model area, retrieval area, table pool. They are fixed
when the partition is configured. -/
def State.regionBases (s : State) (p : Nat) : Nat × Nat × Nat :=
  let q := s.part p
  let model := 2 ^ 28 + q.screenMib * 2 ^ 20
  (model, model + q.modelArea * 2 ^ 30, model + (q.modelArea + q.retrievalArea) * 2 ^ 30)

/-- The owner of a stack address, whose stack key its contents lie under: the block, 16, of the block reserve, partition 15 of the screen
region, and else the partition whose region it is in (R345). -/
def State.stackOwner (s : State) (seg addr : Nat) : Option Nat :=
  if addr < 2 ^ 28 then some 16
  else (List.range 15).find? (fun p => (s.part p).segMask.testBit seg && (s.regionBases p).1 ≤ addr) |>.orElse (fun _ => some 15)

/-- A 4 KiB data unit of a segment's stack as it lies in the stack, encrypted under the key of its owner; none where the owner has no stack
key there (R328, R345). `StackS.mem` holds the contents as an access under the present key reads them; a key made anew drops them. -/
def State.stackCipher (s : State) (seg unit : Nat) : Option (List Nat) :=
  (s.stackOwner seg (4096 * unit)).bind (fun o =>
    (aGet o (s.seg seg).trust.stackKeys).map (fun key =>
      stackUnit key unit ((List.range 4096).map (fun i => (memRead (s.seg seg).stack.mem (4096 * unit + i)).toNat))))

/-- MiB of the screen region that every stack has: SCREEN_STACK_MIB, or less where a partition was configured under less (R173). -/
def State.screenMib (s : State) : Nat :=
  ((s.parts.filter (fun q => q.segMask != 0)).map (·.screenMib)).foldl min s.glob.screenStack

/-- Table pages of a partition's table pool: a block map for each model slot of each sequence and entry, and a block record for each
block set that the page pool can hold (R175). -/
def Partition.tablePages (p : Partition) : Nat := if p.target.isNone then 0 else mapBytes / 4096 + p.layout / max 1 p.leastSet

/-! Keys and values. -/

/-- The keys and values of the directory entry that a sequence was admitted against. -/
def State.entryKv (s : State) (q : Sequence) : List KvEntry :=
  match q.entry with
  | some e => ((s.entry e).getD {}).kv
  | none => []

/-- The keys and values that a sequence reads at a position: its own, or, for a position block it only shares, those of the
directory entry it was admitted against (R178, R187). -/
def State.kvAt (s : State) (q : Sequence) (seg model slot pos : Nat) : KvEntry :=
  let here (e : KvEntry) : Bool := e.seg == seg && e.model == model && e.slot == slot && e.pos == pos
  match q.kv.find? here with
  | some e => e
  | none => if pos / 64 < q.shared then ((s.entryKv q).find? here).getD {} else {}

/-- The place of a KV entry is the same. -/
def sameSlot (a b : KvEntry) : Bool := a.seg == b.seg && a.model == b.model && a.slot == b.slot && a.pos == b.pos

/-- The keys and values of a sequence's first positions, those it only reads included. -/
def State.prefixKv (s : State) (q : Sequence) (len : Nat) : List KvEntry :=
  ((s.entryKv q).filter (fun e => e.pos / 64 < q.shared && e.pos < len && !q.kv.any (fun x => sameSlot x e)))
    ++ q.kv.filter (fun e => e.pos < len)

/-- A KV entry written over what its place held. -/
def putKv (e : KvEntry) (l : List KvEntry) : List KvEntry := l.filter (fun x => !sameSlot x e) ++ [e]

/-- The keys and values that a cache holds at a position. -/
def State.cacheKv (s : State) (c : CacheRef) (seg model slot pos : Nat) : KvEntry := match c with
  | .seq k => s.kvAt ((s.live k).getD {}) seg model slot pos
  | .entry n => (((s.entry n).getD {}).kv.find? (fun e => e.seg == seg && e.model == model && e.slot == slot && e.pos == pos)).getD {}

/-- The bytes of a page frame: 64 positions of one KV head of one layer, key codes, value codes and the sidecar of their scales (R176). -/
def State.pageFrame (s : State) (c : CacheRef) (seg : Nat) (draft : Bool) (block slot : Nat) : List Nat :=
  let l := (List.range 64).map (fun i => s.cacheKv c seg (flag draft) slot (64 * block + i))
  let codes (v : List Int) : List Nat := (List.range 128).map (fun i => unsigned 8 (v.getD i 0))
  l.flatMap (fun e => codes e.key) ++ l.flatMap (fun e => codes e.val) ++ l.flatMap (fun e => bytesLe 2 e.kScale.toNat)
    ++ l.flatMap (fun e => bytesLe 2 e.vScale.toNat) ++ List.replicate 256 0

/-! Page tables: what a cache's block maps and block records name, with the numbers the Cache Mover gave out for them (R178, R179). -/

/-- A cache as one number: a live sequence index, or past those a directory slot (R175). -/
def cacheNo : CacheRef → Nat
  | .seq k => k
  | .entry n => 32768 + n

/-- The block map table page of a cache on a segment for a model (R175): 0 means none, and table page 0 is never allocated. -/
def State.mapPage (s : State) (p seg : Nat) (c : CacheRef) (draft : Bool) : Nat :=
  1 + Config.pageChoice [0, seg, cacheNo c, flag draft] % ((s.part p).tablePages - 1)

/-- What a cache's block maps name. -/
def State.mapOf (s : State) : CacheRef → List (Nat × BlockRef)
  | .seq k => ((s.live k).getD {}).map
  | .entry n => ((s.entry n).getD {}).map

/-- A cache's block maps changed. -/
def State.onMap (s : State) (c : CacheRef) (f : List (Nat × BlockRef) → List (Nat × BlockRef)) : State := match c with
  | .seq k => s.onLive k (fun q => { q with map := f q.map })
  | .entry n => s.onEntry n (fun h => { h with map := f h.map })

/-- Everything that the block maps of a partition's caches name. -/
def State.refsOf (s : State) (p : Nat) : List BlockRef :=
  (s.seqs.filter (fun e => e.2.req.part == p)).flatMap (fun e => e.2.map.map (·.2))
    ++ (s.handles.filter (fun e => e.2.part == p)).flatMap (fun e => e.2.map.map (·.2))

/-- The pages that a partition's caches hold on a segment. -/
def State.usedPages (s : State) (p seg : Nat) : List Nat :=
  (s.refsOf p).flatMap (fun r => (r.pages.filter (fun u => u.seg == seg)).map (·.page))

/-- A page of a segment's pool may be given out: not in a channel that is out of service or on its way out, not mapped out, and not
the place of a copy under way (R174, R356, R357). -/
def StackS.gives (k : StackS) (n : Nat) : Bool :=
  !(k.retired ++ k.failed ++ k.retiring ++ k.failing).contains (n % 32) && !k.taken.contains n && !k.copies.any (fun c => c.new == n)

/-- The first of `n` numbers, from a choice on and wrapping, that a test admits; the choice itself where it admits none. -/
def pickFrom (ok : Nat → Bool) (choice n : Nat) : Nat :=
  let c := choice % max 1 n
  (c + ((firstFrom (fun k => ok ((c + k) % max 1 n)) n 0).getD 0)) % max 1 n

/-- A free page of a segment: which of them is open (R179, log entry 7). -/
def State.freePage (s : State) (p seg : Nat) (taken : List Nat) (what : List Nat) : Nat :=
  let used := s.usedPages p seg ++ taken
  pickFrom (fun k => (s.seg seg).stack.gives k && !used.contains k) (Config.pageChoice what) (s.part p).layout

/-- The entries of a position block's records, target model first (R178, R193). -/
def State.recordSlots (s : State) (p : Nat) (draft : Bool) : List (Bool × Nat) :=
  let of_ (d : Bool) (m : Option Model) : List (Bool × Nat) := (List.range (setOf m)).map (fun k => (d, k))
  of_ false (s.part p).target ++ (if draft then of_ true (s.part p).draft else [])

/-- A block set given out for a position block of a cache: its block records and pages on every segment of the partition (R177 to R179). -/
def State.newRef (s : State) (p : Nat) (draft : Bool) (c : CacheRef) (block : Nat) : BlockRef :=
  let id := [cacheNo c, block, s.time.beat]
  let onSeg (i : Nat) : List PageUse :=
    (s.recordSlots p draft).foldl (fun l x =>
      l ++ [{ seg := i, draft := x.1, slot := x.2, page := s.freePage p i (l.map (·.page)) ([2, i, flag x.1, x.2] ++ id) }]) []
  let busy (i : Nat) : List Nat := (s.refsOf p).flatMap (fun r => (r.records.filter (fun x => x.1 == i)).map (·.2.2))
  let record (i : Nat) (d : Bool) (l : List Nat) : Nat :=
    1 + pickFrom (fun k => !l.contains (k + 1)) (Config.pageChoice ([1, i, flag d] ++ id)) ((s.part p).tablePages - 1)
  let records (i : Nat) : List (Nat × Bool × Nat) :=
    let t := record i false (busy i)
    (i, false, t) :: (if draft then [(i, true, record i true (t :: busy i))] else [])
  { records := (s.partSegs p).flatMap records, pages := (s.partSegs p).flatMap onSeg }

/-- A cache by its reference: partition, positions held, whether it holds draft pages, its last token. -/
def State.cacheOf (s : State) : CacheRef → Option (Nat × Nat × Bool × Nat)
  | .entry slot => (s.entry slot).map (fun h => (h.part, h.prefixLen, h.draft, h.lastToken))
  | .seq i => (s.live i).map (fun q => (q.req.part, q.committed, q.speculate, q.lastToken))

/-- Position blocks of a cache given block sets of their own. -/
def State.giveBlocks (s : State) (c : CacheRef) (blocks : List Nat) : State :=
  match s.cacheOf c with
  | some (p, _, draft, _) => blocks.foldl (fun t b => t.onMap c (aSet b (t.newRef p draft c b))) s
  | none => s

/-- The entry of a block map is given up. -/
def State.dropBlocks (s : State) (c : CacheRef) (gone : Nat → Bool) : State := s.onMap c (fun l => l.filter (fun x => !gone x.1))

/-- A block map entry: VALID, SHARED and RECORD; 0 of a block without a record (R178). -/
def State.mapEntry (s : State) (seg : Nat) (c : CacheRef) (draft : Bool) (block : Nat) : Nat :=
  match aGet block (s.mapOf c) with
  | some r =>
    match r.records.find? (fun x => x.1 == seg && x.2.1 == draft) with
    | some x => packMsb [(1, 1), (1, flag r.shared), (30, x.2.2)]
    | none => 0
  | none => 0

/-- The page of an entry of a position block's record on a segment (R178). -/
def State.pageOf (s : State) (seg : Nat) (c : CacheRef) (draft : Bool) (block slot : Nat) : Option Nat :=
  ((aGet block (s.mapOf c)).bind (fun r => r.pages.find? (fun u => u.seg == seg && u.draft == draft && u.slot == slot))).map (·.page)

/-- A block record entry: VALID and PAGE (R178). -/
def State.recordEntry (s : State) (seg : Nat) (c : CacheRef) (draft : Bool) (block slot : Nat) : Nat :=
  match s.pageOf seg c draft block slot with
  | some page => packMsb [(1, 1), (7, 0), (24, page)]
  | none => 0

/-- The root entry of a cache is in use (R178): a tombstone's is not (R191). -/
def State.rootValid (s : State) : CacheRef → Bool
  | .seq k => (s.live k).isSome
  | .entry n => match s.entry n with
    | some h => h.tier != .tombstone
    | none => false

/-- A root entry, of the root table or the prefix root table: block maps, COMMITTED_LEN, VALID and LAST_TOKEN (R178). -/
def State.rootEntry (s : State) (seg : Nat) (c : CacheRef) : Nat :=
  match s.cacheOf c with
  | some (p, len, draft, last) =>
    if !s.rootValid c then 0
    else packMsb [(32, s.mapPage p seg c false), (32, if draft then s.mapPage p seg c true else 0), (17, len), (1, 1), (18, last), (28, 0)]
  | none => 0

/-- What a cache's block maps name on a segment, as its kernels see it: by position block, records and pages (R178, R179). -/
def State.blocksOf (s : State) (seg : Nat) (c : CacheRef) : List Nat :=
  (s.mapOf c).flatMap (fun x => [x.1, flag x.2.shared]
    ++ (x.2.records.filter (fun r => r.1 == seg)).flatMap (fun r => [flag r.2.1, r.2.2])
    ++ (x.2.pages.filter (fun u => u.seg == seg)).flatMap (fun u => [flag u.draft, u.slot, u.page]))

/-- Block map entries that become SHARED. -/
def shareBelow (n : Nat) (l : List (Nat × BlockRef)) : List (Nat × BlockRef) :=
  l.map (fun x => if x.1 < n then (x.1, { x.2 with shared := true }) else x)

/-! Channels that retire (R357). -/

/-- Pages replaced by their copies wherever a block record names them on a segment. -/
def swapPages (seg : Nat) (l : List PageCopy) (r : BlockRef) : BlockRef :=
  { r with pages := r.pages.map (fun u =>
      if u.seg == seg then (match l.find? (fun c => c.old == u.page) with | some c => { u with page := c.new } | none => u) else u) }

/-- Every block record changed. -/
def State.onRefs (s : State) (f : BlockRef → BlockRef) : State :=
  { s with seqs := s.seqs.map (fun e => (e.1, { e.2 with map := e.2.map.map (fun x => (x.1, f x.2)) })),
           handles := s.handles.map (fun e => (e.1, { e.2 with map := e.2.map.map (fun x => (x.1, f x.2)) })) }

/-- Pages on a segment that a loop's freeze may replace: those of its own sequences' block sets, and those of the partition's directory
entries, which no loop writes (R357, log entry 7). -/
def State.loopPages (s : State) (p : Nat) (c : Cls) (seg : Nat) : List Nat :=
  let on (l : List (Nat × BlockRef)) : List Nat :=
    (l.filter (fun x => !x.2.shared)).flatMap (fun x => (x.2.pages.filter (fun u => u.seg == seg)).map (·.page))
  (s.seqs.filter (fun e => e.2.req.part == p && e.2.req.cls == c)).flatMap (fun e => on e.2.map)
    ++ (s.handles.filter (fun e => e.2.part == p)).flatMap (fun e => on e.2.map)

/-- At a freeze of a loop its copied pages replace the originals; a page written since its copy began is copied again (R357). -/
def State.replaceCopies (s : State) (p : Nat) (c : Cls) : State :=
  (s.partSegs p).foldl (fun t i =>
    let l := (t.seg i).stack.copies
    if l.isEmpty then t
    else
      let mine := t.loopPages p c i
      let done := l.filter (fun x => mine.contains x.old && !x.written)
      let rest := (l.filter (fun x => !(mine.contains x.old && !x.written))).map
        (fun x => if mine.contains x.old then { x with written := false } else x)
      (t.onRefs (swapPages i done)).onSeg i (fun g => { g with stack := { g.stack with copies := rest } })) s

/-- A page is written: a copy of it under way is out of date (R357). -/
def notePageWrite (page : Option Nat) (g : Segment) : Segment :=
  { g with stack := { g.stack with copies := g.stack.copies.map (fun c => if page == some c.old then { c with written := true } else c) } }

/-! Dim records. -/

/-- Frames of a dim record per segment: pages of its position blocks (R193). -/
def dimFrames (positions set : Nat) : Nat := ceilDiv positions 64 * set

/-- Length of a dim record in 4 KiB units: the header frame and 17,408 bytes for each page of each segment (R193). -/
def dimUnits (segs frames : Nat) : Nat := 1 + ceilDiv (segs * frames * 17408) 4096

/-- The dim records of a partition: of its entries and of its live sequences. -/
def State.dimRecords (s : State) (i : Nat) : List DimRec :=
  s.handles.filterMap (fun e => if e.2.part == i then e.2.dim else none)
    ++ s.seqs.filterMap (fun e => if e.2.req.part == i then e.2.dim else none)

/-- Two runs of units overlap. -/
def overlaps (a n b m : Nat) : Bool := a < b + m && b < a + n

/-- First fit from the lowest address within the extents of DIM_POOL (R192). -/
def dimPlace (pool : List (Nat × Nat)) (used : List DimRec) (n : Nat) : Option Nat :=
  let starts := pool.map (fun e => e.1 / 4096) ++ used.map (fun r => r.addr + r.units)
  let ok (a : Nat) : Bool :=
    pool.any (fun e => e.1 / 4096 ≤ a && a + n ≤ e.1 / 4096 + e.2) && used.all (fun r => !overlaps a n r.addr r.units)
  (starts.filter ok).foldl (fun acc a => match acc with | some b => some (min a b) | none => some a) none

/-- The GCM nonce of a frame (R194); segment 31 stands for a record header. -/
def dimNonce (epoch part seg counter : Nat) : Nat := packMsb [(8, epoch), (4, part), (5, seg), (15, 0), (64, counter)]

/-- The record header of R193, its tag over the bits above. No counter is stated for a record header: DESIGN CHOICE (log entry 7), its
RECORD_ID, which never repeats within an epoch (R194). -/
def dimHeader (part segs : Nat) (draft : Bool) (last recordId len frames epoch key : Nat) : Nat :=
  let clear := packMsb [(16, 0x4B52), (8, 3), (4, part), (5, segs), (1, flag draft), (18, last), (12, 0), (32, recordId),
    (17, len), (15, 0), (24, frames), (232, 0)]
  packMsb [(384, clear), (128, (Config.gcmSeal key (nonceBytes (dimNonce epoch part 31 recordId)) clear 0).2)]

/-- The header of a page frame of a dim record (R193). -/
def frameHeader (epoch part seg : Nat) (draft : Bool) (recordId block slot counter : Nat) : Nat :=
  packMsb [(16, 0x4B50), (8, 3), (8, epoch), (4, part), (5, seg), (1, flag draft), (6, 0), (32, recordId), (10, block), (10, slot),
    (28, 0), (64, counter), (320, 0)]

/-- The 17,408 bytes of a page frame in a dim record, as one little-endian number: the header, the page encrypted, the tag, and the
rest reserved (R193, R194). -/
def State.sealedFrame (s : State) (c : CacheRef) (part seg recordId epoch key counter : Nat) (f : Nat × Bool × Nat) : Nat :=
  let hd := frameHeader epoch part seg f.2.1 recordId f.1 f.2.2 counter
  let page := ofBytesLe (s.pageFrame c seg f.2.1 f.1 f.2.2)
  let sealed := Config.gcmSeal key (nonceBytes (dimNonce epoch part seg counter)) hd page
  hd + sealed.1 % 2 ^ (8 * 16896) * 2 ^ 512 + sealed.2 % 2 ^ 128 * 2 ^ (8 * 16960)

/-- The page frames of a cache on one segment, in a dim record's order: by position block, then the target model first, then by block
record entry (R193). -/
def State.framesOf (s : State) (p len : Nat) (draft : Bool) : List (Nat × Bool × Nat) :=
  let of_ (b : Nat) (d : Bool) (m : Option Model) : List (Nat × Bool × Nat) := (List.range (setOf m)).map (fun k => (b, d, k))
  (List.range (ceilDiv len 64)).flatMap (fun b =>
    of_ b false (s.part p).target ++ (if draft then of_ b true (s.part p).draft else []))

/-- A segment's part of a dim record, as one little-endian number; the segment's counter gives each frame its own (R193, R194). -/
def State.segmentFrames (s : State) (c : CacheRef) (part seg recordId epoch key : Nat) (frames : List (Nat × Bool × Nat)) : Nat :=
  let first := (aGet part (s.seg seg).trust.dimCounter).getD 0
  sumNat ((frames.zipIdx).map (fun f =>
    s.sealedFrame c part seg recordId epoch key (first + f.2) f.1 * 2 ^ (8 * 17408 * f.2)))

/-- The dim record fields of a cache set. -/
def State.setDim (s : State) (c : CacheRef) (d : Option DimRec) (m : Option DimMove) : State :=
  match c with
  | .entry slot => s.onEntry slot (fun h => { h with dim := d, moving := m })
  | .seq i => s.onLive i (fun q => { q with dim := d, moving := m })

/-- Units of a dim record of a partition for a number of positions (R193). -/
def State.unitsFor (s : State) (p len : Nat) (draft : Bool) : Nat :=
  dimUnits (s.partSegs p).length (dimFrames len ((s.part p).setPages draft))

/-- Positions for which a cache's record is given room: those it holds, and of a sequence all that its position blocks can come to
hold by the commit point at which the write starts (R192, R196). -/
def State.dimRoom (s : State) (c : CacheRef) (len : Nat) : Nat :=
  match c with
  | .seq k => max len (64 * ((((s.live k).getD {}).ownBlocks.map (· + 1)).foldl max 0))
  | .entry _ => len

/-- A place for a cache's dim record; none where the pool has no room (R192). -/
def State.dimAlloc (s : State) (c : CacheRef) (bound : Bool) : Option DimRec :=
  match s.cacheOf c with
  | some (p, len, draft, _) =>
    let units := s.unitsFor p (if bound then s.dimRoom c len else len) draft
    (dimPlace (s.part p).dimPool (s.dimRecords p) units).map (fun a => { addr := a, units := units, length := len })
  | none => none

/-- RECORD_ID and the nonce counters after a record is sealed (R194). -/
def State.dimCounts (s : State) (p frames : Nat) : State :=
  let keys := modifyAt (fun (k : EnvKey) => { k with recordId := k.recordId + 1 }) p s.trust.envKeys
  let s := { s with trust := { s.trust with envKeys := keys } }
  (s.partSegs p).foldl (fun t i => t.onSeg i (fun g =>
    { g with trust := { g.trust with dimCounter := aSet p ((aGet p g.trust.dimCounter).getD 0 + frames) g.trust.dimCounter } })) s

/-- A dim write begins at the place given to its record: its frames are sealed under the epoch of that instant, each segment writing its
own by its initiator channel and the manager the header frame (R193, R194, R196). -/
def State.dimWriteTo (s : State) (c : CacheRef) (d : DimRec) (drop : Bool) : State :=
  match s.cacheOf c with
  | some (p, len, draft, last) =>
    let l := s.framesOf p len draft
    let k := s.trust.envKeys.getD p {}
    let segs := s.partSegs p
    let d : DimRec := { recordId := k.recordId, addr := d.addr, units := s.unitsFor p len draft, epoch := k.curEpoch, length := len }
    let hd := dimHeader p segs.length draft last d.recordId len l.length d.epoch k.dimCur
    let t := (s.setDim c (some d) (some (.write drop))).dimCounts p l.length
    let t := t.dma s.mgr (dmaReq true (d.addr * 4096) 4096 3 (.dimWrite c) hd)
    if l.isEmpty then t
    else
      segs.zipIdx.foldl (fun t x =>
        t.dma x.1 (dmaReq true (d.addr * 4096 + 4096 + 17408 * l.length * x.2) (17408 * l.length) 3 (.dimWrite c)
          (s.segmentFrames c p x.1 d.recordId d.epoch k.dimCur l))) t
  | none => s

/-- A dim write begins, or the cache stays on the bright tier alone, counted in DIM_POOL_FULL (R192, R196). -/
def State.beginDimWrite (s : State) (c : CacheRef) : State :=
  match s.dimAlloc c false with
  | some d => s.dimWriteTo c d false
  | none => s.count (fun k => { k with dimFull := k.dimFull + 1 })

/-- A dim fetch begins: the header frame by the manager, each segment's frames by its own initiator channel (R193, R196, R197). -/
def State.beginDimFetch (s : State) (c : CacheRef) : State :=
  let d : DimRec := match c with
    | .entry slot => ((s.entry slot).bind (·.dim)).getD {}
    | .seq i => ((s.live i).bind (·.dim)).getD {}
  let t := (s.setDim c (some d) (some .fetch)).dma s.mgr (dmaReq false (d.addr * 4096) 4096 3 (.dimFetch c) 0)
  match s.cacheOf c with
  | some (p, _, draft, _) =>
    let n := 17408 * (s.framesOf p d.length draft).length
    if n == 0 then t
    else
      (s.partSegs p).zipIdx.foldl (fun t x =>
        t.dma x.1 (dmaReq false (d.addr * 4096 + 4096 + n * x.2) n 3 (.dimFetch c) 0)) t
  | none => t

/-! The Handle Directory. -/

/-- The set of a handle (R186). -/
def handleSet (h : Nat) : Nat := bits 12 0 h ^^^ bits 25 13 h ^^^ bits 38 26 h ^^^ bits 51 39 h ^^^ bits 63 52 h

/-- The slots of a set, way by way: set × 15 + way (R173, R185). -/
def setSlots (set : Nat) : List Nat := (List.range 15).map (fun w => set * 15 + w)

/-- The way of a set that holds a handle of a partition and tenant (R186). -/
def State.findHandle (s : State) (h part tenant : Nat) : Option Nat :=
  (setSlots (handleSet h)).find? fun k =>
    match s.entry k with
    | some e => e.handle == h && e.part == part && e.tenant == tenant
    | none => false

/-- One count of an entry's REFCOUNT given back; a BRIGHT entry that reaches 0 begins its dim write (R187, R196). -/
def State.releaseEntry (s : State) (slot : Nat) : State :=
  match s.entry slot with
  | some h =>
    let s := s.onEntry slot (fun h => { h with refcount := h.refcount - 1 })
    if h.refcount == 1 && h.tier == .bright && h.moving.isNone then s.beginDimWrite (.entry slot) else s
  | none => s

/-- An entry's bright copy is freed: its pages go to `put`, and the hold on an older entry ends (R188). -/
def State.freeBright (s : State) (slot : Nat) (put : State → Nat → Nat → State) : State :=
  match s.entry slot with
  | some h =>
    let s := s.onEntry slot (fun h => { h with ownPages := 0, older := none, map := [] })
    let s := put s h.part h.ownPages
    match h.older with
    | some o => s.releaseEntry o
    | none => s
  | none => s

/-- An entry becomes a tombstone: it keeps HANDLE, PARTITION and TENANT, and its pages and dim record are freed (R191). -/
def State.tombstone (s : State) (slot : Nat) (put : State → Nat → Nat → State) : State :=
  let dead (h : Handle) : Handle := { h with tier := .tombstone, dim := none, moving := none, refcount := 0, kv := [] }
  (s.freeBright slot put).onEntry slot dead

/-- An expired entry with REFCOUNT 0 that has not become a tombstone (R191). -/
def sweepable (beat : Nat) (h : Handle) : Bool := h.tier != .tombstone && h.expiry ≤ beat && h.refcount == 0

/-- The sweep of one set at a beat edge, in ascending set order over the edges (R191). -/
def State.sweepSet (s : State) : State :=
  let t := (setSlots s.time.sweepSet).foldl (fun t k =>
    match t.entry k with
    | some h => if sweepable t.time.beat h then t.tombstone k (fun u p n => u.returnPages p n u.edge) else t
    | none => t) s
  { t with time := { t.time with sweepSet := (s.time.sweepSet + 1) % 8192 } }

/-- The way an insertion takes: the lowest free way, else the tombstone of lowest EXPIRY, ties to the lower way (R189). -/
def State.insertWay (s : State) (h : Nat) : Option Nat :=
  let slots := setSlots (handleSet h)
  match slots.find? (fun k => (s.entry k).isNone) with
  | some k => some k
  | none =>
    slots.foldl (fun acc k =>
      match s.entry k with
      | some e =>
        if e.tier != .tombstone then acc
        else
          match acc with
          | some b => if e.expiry < ((s.entry b).getD {}).expiry then some k else acc
          | none => some k
      | none => acc) none

/-- An insertion at a commit point: the result code of R189, the slot taken if any, and the state in which an entry it replaces
has been freed. -/
def State.insertEntry (s : State) (e : Handle) (stamp : Stamp) : Nat × Option Nat × State :=
  let put (u : State) (p n : Nat) : State := u.returnPages p n stamp
  match s.findHandle e.handle e.part e.tenant with
  | some k =>
    let old := (s.entry k).getD {}
    if old.refcount == 0 then
      let s := s.tombstone k put
      (2, some k, { s with handles := aSet k e s.handles })
    else (4, none, s)
  | none =>
    match s.insertWay e.handle with
    | some w => (1, some w, { s with handles := aSet w e s.handles })
    | none => (3, none, s.count (fun c => { c with dirInsertFails := c.dirInsertFails + 1 }))

/-! Reclaim. -/

/-- Pages that already begun reclaim will free: those of sequences with a dim write that drops the bright copy, begun or due at a
commit point (R200). -/
def State.promisedPages (s : State) (i : Nat) : Nat :=
  sumNat ((s.seqs.filter (fun e => e.2.req.part == i && (e.2.moving == some (.write true) || e.2.dimAsked))).map (fun e => s.seqPages e.2))

/-- Free and promised pages cover a demand (R200). -/
def State.covers (s : State) (i demand : Nat) : Bool := demand ≤ (s.part i).poolFree + s.promisedPages i

/-- A sequence is paused for any reason. -/
def Sequence.paused (q : Sequence) : Bool := q.pausedBudget.isSome || q.pausedPages.isSome || q.pausedRing

/-- The pause instant of a paused sequence, the earlier of two. -/
def Sequence.pauseAt (q : Sequence) : PauseAt :=
  match q.pausedBudget, q.pausedPages with
  | some a, some b => if a.beat < b.beat || (a.beat == b.beat && a.order < b.order) then a else b
  | some a, none => a
  | none, some b => b
  | none, none => {}

/-- A reclaim step repeated until the demand is covered or it finds no candidate: what one candidate's fall gives back may make another
of them (R200). -/
def State.reclaimWhile (i demand : Nat) (next : State → Option Nat) (take : State → Nat → State) : Nat → State → State
  | 0, s => s
  | fuel + 1, s =>
    if s.covers i demand then s
    else
      match next s with
      | some k => State.reclaimWhile i demand next take fuel (take s k)
      | none => s

/-- Reclaim step 1: expired entries of REFCOUNT 0, in ascending slot. -/
def State.reclaimExpired (s : State) (i demand : Nat) : State :=
  let next (t : State) : Option Nat :=
    (t.handles.find? (fun e => e.2.part == i && sweepable t.time.beat e.2 && e.2.moving.isNone)).map (·.1)
  let take (t : State) (k : Nat) : State :=
    (t.tombstone k State.freeNow).count (fun c => { c with reclaimExpired := c.reclaimExpired + 1 })
  State.reclaimWhile i demand next take s.handles.length s

/-- Reclaim step 2 on entries: bright copies of entries in BOTH with REFCOUNT 0, lowest EXPIRY first. -/
def State.reclaimEntries (s : State) (i demand : Nat) : State :=
  let next (t : State) : Option Nat :=
    (sortBy (fun (a b : Nat × Handle) => a.2.expiry < b.2.expiry)
      (t.handles.filter (fun e => e.2.part == i && e.2.tier == .both && e.2.refcount == 0 && e.2.moving.isNone))).head?.map (·.1)
  let take (t : State) (k : Nat) : State :=
    ((t.freeBright k State.freeNow).onEntry k (fun h => { h with tier := .dim })).count
      (fun c => { c with reclaimDrops := c.reclaimDrops + 1 })
  State.reclaimWhile i demand next take s.handles.length s

/-- A sequence whose own block sets are given up: what it only shares stays in its maps (R178, R196). -/
def dropOwn (q : Sequence) : Sequence := { q with ownBlocks := [], map := q.map.filter (fun x => x.2.shared) }

/-- The bright copy of a live sequence in BOTH freed at once: DIM remains. -/
def State.dropSeqBright (s : State) (k : Nat) : State :=
  match s.live k with
  | some q => (s.freeNow q.req.part (s.seqPages q)).onLive k (fun q => dropOwn { q with tier := .dim })
  | none => s

/-- Reclaim step 2 on sequences: paused sequences in BOTH, earliest paused first. -/
def State.reclaimPaused (s : State) (i demand : Nat) : State :=
  let order := sortBy (fun (a b : Nat × PauseAt) => a.2.beat < b.2.beat || (a.2.beat == b.2.beat && a.2.order < b.2.order))
    ((s.seqs.filter (fun e => e.2.req.part == i && e.2.tier == .both && e.2.paused && e.2.moving.isNone
        && e.2.ended.isNone)).map (fun e => (e.1, e.2.pauseAt)))
  order.foldl (fun t e =>
    if t.covers i demand then t
    else (t.dropSeqBright e.1).count (fun c => { c with reclaimDrops := c.reclaimDrops + 1 })) s

/-- A loop has a step in flight that has not been abandoned. -/
def State.inFlight (s : State) (p : Nat) (c : Cls) : Bool :=
  match s.stepOf p c with
  | some st => st.abandoned.isNone
  | none => false

/-- The sequence is bound in the step in flight of its loop, or already in the freeze under way, whose bound sequences are given. -/
def State.boundNow (s : State) (bound : List Nat) (k : Nat) (q : Sequence) : Bool :=
  bound.contains k ||
  match s.stepOf q.req.part q.req.cls with
  | some st => st.abandoned.isNone && st.binds.any (fun b => b.seq == k)
  | none => false

/-- The order at this edge of the next sequence that reclaim pauses: after those it has paused already (R201). -/
def State.pauseOrder (s : State) : Nat :=
  (s.seqs.filter (fun e => match e.2.pausedPages with | some a => a.beat == s.time.beat | none => false)).length

/-- One BE sequence paused to the dim tier (R200, step 3). -/
def State.pausePages (s : State) (bound : List Nat) (k : Nat) : State :=
  match s.live k with
  | some q =>
    let mark (q : Sequence) : Sequence := { q with pausedPages := some ⟨s.time.beat, s.pauseOrder⟩ }
    let tally (t : State) : State := t.count (fun c => { c with reclaimPauses := c.reclaimPauses + 1 })
    if q.tier == .both then tally ((s.dropSeqBright k).onLive k mark)
    else
      match s.dimAlloc (.seq k) (s.boundNow bound k q) with
      | some d =>
        if s.boundNow bound k q then
          tally (s.onLive k (fun q => { mark q with dimAsked := true, dim := some d }))
        else tally ((s.dimWriteTo (.seq k) d true).onLive k mark)
      | none => s.count (fun c => { c with dimFull := c.dimFull + 1 })
  | none => s

/-- Reclaim step 3: BE sequences, lowest tenant priority first, then most recently admitted first. -/
def State.reclaimBe (s : State) (bound : List Nat) (i demand : Nat) : State :=
  let order := sortBy (fun (a b : Nat × Sequence) =>
      (s.tenant a.2.req.tenant).priority < (s.tenant b.2.req.tenant).priority
        || ((s.tenant a.2.req.tenant).priority == (s.tenant b.2.req.tenant).priority && before b.2.admitAt a.2.admitAt))
    (s.seqs.filter (fun e => e.2.req.part == i && e.2.req.cls == .be && e.2.ended.isNone && e.2.moving.isNone
      && e.2.pausedPages.isNone && (e.2.tier == .bright || e.2.tier == .both)))
  order.foldl (fun t e => if t.covers i demand then t else t.pausePages bound e.1) s

/-- Reclaim for a demand of pages at a beat edge, in the order of R200, stopping as soon as free and promised pages cover it; a freeze
gives the sequences it has bound so far, which start no dim write before their step's commit point (R196). -/
def State.reclaim (s : State) (bound : List Nat) (i demand : Nat) : State :=
  if s.covers i demand then s
  else (((s.reclaimExpired i demand).reclaimEntries i demand).reclaimPaused i demand).reclaimBe bound i demand

/-! Budgets. -/

/-- A charge or refund of a tenant's bucket in 1/256 token (R222). -/
def State.charge (s : State) (t : Nat) (amount : Int) : State :=
  s.onTenant t (fun e => { e with level := e.level - amount })

/-! How a sequence ends. -/

/-- A row of a sequence masked where it is still to be fed (R62). -/
def maskRows (k : Nat) (l : List RowEntry) : List RowEntry :=
  l.map (fun e => if !e.masked && e.kind != 0 && e.seq == k then { e with masked := true } else e)

/-- A segment's copy of a row list with a sequence masked, and dropped where already fed (R62, R85). -/
def dropRows (k : Nat) (l : RowList) : RowList :=
  { entries := maskRows k l.entries,
    drop := (l.entries.zipIdx.filter (fun p => !p.1.masked && p.1.kind != 0 && p.1.seq == k)).foldl
      (fun acc p => insertNat p.2 acc) l.drop }

/-- A loop whose step in flight binds a sequence no more. -/
def unbindLoop (k : Nat) (l : Loop) : Loop :=
  let cut (st : StepS) : StepS :=
    { st with binds := st.binds.filter (fun b => b.seq != k), rowLists := st.rowLists.map (maskRows k) }
  { l with step := l.step.map cut }

/-- A sequence's rows are masked in every step that has not reached its commit point, which commits without it (R220). -/
def State.unbind (s : State) (k : Nat) : State :=
  let s := { s with parts := s.parts.map (fun (p : Partition) => { p with lc := unbindLoop k p.lc, be := unbindLoop k p.be }) }
  let drop (st : SegStep) : SegStep := { st with rowLists := st.rowLists.map (dropRows k) }
  s.onSegs (fun _ g => { g with steps := g.steps.map drop })

/-- Bytes of a request's fetched passages in the passage store of a segment at place `i` of `n` (R251). -/
def storedBytes (pl : Plan) (i n : Nat) : Nat :=
  sumNat ((pl.cands.zipIdx.filter (fun c => c.2 % (max 1 n) == i && c.1.state == .stored)).map (fun c => 4 * c.1.tokens.length))

/-- The passage store of every segment gives up a request's passages (R254, R257). -/
def State.freePassages (s : State) (pl : Plan) : State :=
  let segs := s.partSegs pl.part
  segs.foldl (fun t i => t.onSeg i (fun g =>
    { g with passageUsed := g.passageUsed - storedBytes pl (placeOf i segs) segs.length })) s

/-- A sequence's query leaves the scan queues; in a scan group its slot goes inactive; its LUT store slots are freed (R257). -/
def State.leaveScan (s : State) (k : Nat) : State :=
  s.onSegs (fun _ g =>
    { g with scanQueue := g.scanQueue.filter (· != k), lutUsed := g.lutUsed.filter (· != k),
             scanGroup := g.scanGroup.map (fun r => if r.members.contains k then { r with inactive := insertNat k r.inactive } else r) })

/-- A retrieval plan in progress ends with its request (R257). -/
def State.dropPlan (s : State) (k : Nat) : State :=
  match s.live k with
  | some q =>
    match q.plan with
    | some pl => ((s.freePassages pl).leaveScan k).onLive k (fun q => { q with plan := none })
    | none => s
  | none => s

/-- Held tokens discarded and their charge refunded at once (R220). -/
def State.discardHeld (s : State) (k : Nat) : State :=
  match s.live k with
  | some q => (s.charge q.req.tenant (-(256 * (q.hold.length : Int)))).onLive k (fun q => { q with hold := [], groups := [] })
  | none => s

/-- The pages of a sequence that has ended return: its own block sets, its count of its entry, and its dim record (R187,
R198). -/
def State.pagesReturn (s : State) (k : Nat) (stamp : Stamp) : State :=
  match s.live k with
  | some q =>
    if q.pagesBack then s
    else
      let s := s.returnPages q.req.part (s.seqPages q) stamp
      let s := s.onLive k (fun q => { q with
        ownBlocks := [], map := [], saveBlock := false, dim := none, dimAsked := false, moving := none, entry := none, savedEntry := none, shared := 0, pagesBack := true,
        counts := [] })
      let s := match q.savedEntry with
        | some e => s.releaseEntry e
        | none => s
      match q.entry with
      | some e => s.releaseEntry e
      | none => s
  | none => s

/-- The handle result of a sequence that ends before its save or keep (R189). -/
def endedResult (q : Sequence) : Nat :=
  if (q.req.params.save || q.req.params.keep) && !q.saved then 5 else q.handleResult

/-- A sequence ends with a status at an instant that is not a commit point (R219, R220): a status already fixed stands. -/
def State.endSeq (s : State) (k : Nat) (st : Status) (e : Stamp) : State :=
  match s.live k with
  | some q =>
    if q.ended.isSome then s
    else
      let s := ((s.unbind k).dropPlan k).discardHeld k
      let s := s.onLive k (fun q => { q with
        ended := some (st, e), handleResult := endedResult q, saved := true, autos := [],
        pausedBudget := none, pausedPages := none, pausedRing := q.pausedRing && !q.backTokens.isEmpty })
      let s := s.onSegs (fun _ g => { g with snare := { g.snare with
        queue := g.snare.queue.filter (fun j => j.seq != k),
        lanes := g.snare.lanes.filter (fun j => j.2.seq != k) } })
      if s.inFlight q.req.part q.req.cls then s else s.pagesReturn k e
  | none => s

/-- The completion record of a request that was never admitted, or of a cancel (R226). -/
def answerRecord (r : Request) (st : Status) (cancel : Bool) (handleResult admitBeat : Nat) (e : Stamp) : Nat :=
  packMsb [(8, 0x01), (8, statusCode st), (4, handleResult), (4, r.part), (1, clsBit r.cls), (1, flag r.clamped),
    (1, flag cancel), (5, 0), (12, r.tenant), (4, 0), (64, r.reqId), (64, admitBeat), (64, e.beat), (16, e.cyc),
    (32, 0), (32, 0), (32, 0), (32, 0), (128, 0)]

/-- A request that ends before admission: its completion record is written at once (R219). -/
def State.failRequest (s : State) (r : Request) (st : Status) (e : Stamp) : State :=
  let hr := if r.params.save || r.params.keep then 5 else 0
  s.sendRecord r.cmpRing { kind := .answer, data := answerRecord r st false hr 0 e }

/-- The completion record of a live sequence (R226). -/
def completionRecord (q : Sequence) : Nat :=
  let e := q.ended.getD (.ok, {})
  packMsb [(8, 0x01), (8, statusCode e.1), (4, q.handleResult), (4, q.req.part), (1, clsBit q.req.cls), (1, flag q.req.clamped),
    (1, 0), (5, 0), (12, q.req.tenant), (4, 0), (64, q.req.reqId), (64, q.admitAt.beat), (64, e.2.beat), (16, e.2.cyc),
    (32, q.inputTokens), (32, q.delivered), (32, q.steps), (32, q.records), (128, 0)]

/-- The completion record of a sequence may be written: its last held token released or discarded, its pages back, and its
stream and result records covered by a write-back (R219, R302). -/
def Sequence.completes (q : Sequence) : Bool :=
  q.ended.isSome && q.hold.isEmpty && q.pagesBack && q.backlog.isEmpty && q.results.isEmpty && q.unwritten == 0 && !q.recorded

/-- COMPLETION_RECORD_WRITE (R219). The live sequence index is freed when the record is written; a record whose ring is not
enabled is never written (R302). -/
def execCompletionRecordWrite (seq : Nat) (s : State) : Result :=
  match s.live seq with
  | some q =>
    let lostMark := q.inputMark.isSome
    let s' := if lostMark then s.count (fun c => { c with marksLost := c.marksLost + 1 }) else s
    let r := s.ring q.req.cmpRing
    onlyIf (s.mgrUp && q.completes)
      (if q.req.spanQuery.isSome || !(r.enable && r.kind == 1) then { s' with seqs := aErase seq s'.seqs }
       else (s'.onLive seq (fun q => { q with recorded := true })).sendRecord q.req.cmpRing
         { kind := .completion seq, data := completionRecord q }) s
  | none => .next s

end Sys2Proof.Machine
end

