-- ==== Sys2Proof/Machine/Reset.lean ====
section
/-! DEFINITION. What resets leave (R387 to R389): the state of one segment, of the partitions and of the block after a cold,
a warm or a power-on reset, before bring-up begins. -/

namespace Sys2Proof.Machine

/-! One segment. -/

/-- An array after a reset: only its column remap table and fault map stand (R97, R389). -/
def resetArray (a : ArrayS) : ArrayS := { remap := a.remap, faults := a.faults }

/-- A module after a reset: only its failure stands (R145, R389). -/
def resetModule (m : ModuleS) : ModuleS := { failed := m.failed, reason := m.reason, told := m.told }

/-- A Link Hub after a reset. -/
def resetHub (h : Hub) : Hub :=
  { north := resetModule h.north, east := resetModule h.east, south := resetModule h.south, west := resetModule h.west }

/-- A stack after a reset: channels out of service stand; contents stand after a warm reset only (R387, R389). -/
def resetStack (warm : Bool) (k : StackS) : StackS :=
  { retired := k.retired, failed := k.failed, taken := k.taken, mem := if warm then k.mem else [],
    mappedOut := if warm then k.mappedOut else [] }

/-- A Health Unit after a reset: the clock and voltage of the fault record stand (R377, R389). -/
def resetHealth (h : Health) : Health := { marginPs := h.marginPs, clockMhz := h.recordMhz, recordMhz := h.recordMhz, vcoreMv := h.vcoreMv, tempC := h.tempC }

/-- What a segment's Trust Unit and I3C target keep (R329, R332, R388). -/
def resetTrust (warm : Bool) (t : SegTrust) : SegTrust :=
  { lifecycle := t.lifecycle, lifeFuses := t.lifeFuses, licensee := t.licensee, jedec := t.jedec, mipi := t.mipi, pufEnrolled := t.pufEnrolled, pufHelper := t.pufHelper, seed := t.seed, serial := t.serial,
    dieRev := t.dieRev, identityCert := t.identityCert, chain := t.chain, imageKey := t.imageKey, officerRoots := t.officerRoots,
    i3cAddr := t.i3cAddr,
    i3cStatic := t.i3cStatic, ibi := t.ibi, ibis := t.ibis, eid := t.eid, version := t.version, fwDigest := t.fwDigest, testHeld := t.testHeld,
    stackKeys := if warm then t.stackKeys else [], dimCounter := if warm then t.dimCounter else [] }

/-- A segment after a cold or warm reset, held in reset (R387 to R389). -/
def resetSegment (warm : Bool) (g : Segment) : Segment :=
  { ownRef := g.ownRef, refPresent := g.refPresent, refLost := g.refLost, goodPps := g.goodPps, lastHb := g.lastHb, resetIn := g.resetIn,
    ma0 := resetArray g.ma0, ma1 := resetArray g.ma1, hub := resetHub g.hub, stack := resetStack warm g.stack,
    health := resetHealth g.health, supply := { g.supply with railEntries := 0 },
    port := { connected := g.port.connected }, trust := resetTrust warm g.trust }

/-- A module that a power-on reset tries again (R145, R389). -/
def retryModules (h : Hub) : Hub :=
  let f (m : ModuleS) : ModuleS := { m with failed := false, reason := 0, told := false }
  { h with north := f h.north, east := f h.east, south := f h.south, west := f h.west }

/-- A segment after the power-on reset of its always-on domain (R388, R400): the fuses and the fault record stand. -/
def powerOnSegment (g : Segment) : Segment :=
  let r := resetSegment false g
  { r with
    ownRef := false, refPresent := false, refLost := false, goodPps := 0, lastHb := 0, resetIn := [.aoPor], hub := retryModules r.hub, supply := {},
    trust := { r.trust with i3cAddr := none, ibi := none, ibis := 0, eid := 0 } }

/-! Partitions, rings and the whole block. -/

/-- A partition after a warm reset: its committed entries and what is resident stand; its loops have ended, its queues are
empty and its pool is free (R387). -/
def warmPartition (p : Partition) : Partition :=
  { p with lc := {}, be := {}, lcQueue := [], beQueue := [], stopped := none, poolFree := p.poolPages, returning := [],
           overruns := 0 }

/-- A ring context after a warm reset: kept, with ENABLE 0, and nothing in flight (R387). -/
def warmRing (r : Ring) : Ring :=
  { r with enable := false, pausing := false, backlog := [], writing := [], wbDue := false, raiseDue := false, heldRaise := false,
           toCover := [], rewrites := [], cyc := none }

/-- The rings of a table after a warm reset; a context at its reset values is not listed. -/
def warmRings (l : List (Nat × Ring)) : List (Nat × Ring) :=
  (l.map (fun e => (e.1, warmRing e.2))).filter (fun e => e.2 != ({} : Ring))

/-- The beat runs on; launch numbers start again at bring-up (R102, R388). -/
def resetTime (t : TimeBase) : TimeBase := { t with launchNo := 0, sweepSet := 0, edgePhase := 3, edgeRank := 0 }

/-- Supplies, GONG record and readings after a reset of the block. -/
def resetPower (cold : Bool) (p : SupplyG) : SupplyG :=
  { feed := p.feed, feedAmber := p.feedAmber, feedAbove := p.feedAbove, gongLast := p.gongLast, gongOut := p.gongOut,
    coldBoot := cold || p.coldBoot }

/-- The archive keys with a slot written; an all-zero key empties it (R349). -/
def putArchive (slot key : Nat) (l : List (Nat × Nat)) : List (Nat × Nat) := if key == 0 then aErase slot l else aSet slot key l

/-- The archive keys once every write that waits for fetches to end has been made (R349). -/
def Trust.settledArchive (t : Trust) : List (Nat × Nat) := t.archivePending.foldl (fun a e => putArchive e.1 e.2 a) t.archive

/-- The keys that a warm reset keeps (R332); the reset ends the fetches that a write of an archive key waits for. -/
def warmTrust (t : Trust) : Trust := { envKeys := t.envKeys, archive := t.settledArchive }

/-- The block after a cold reset, held in reset (R387); the two blocks of split mode are reset as one (log entry 35). -/
def State.coldReset (s : State) : State :=
  { cfg := s.cfg, time := resetTime s.time, segs := s.allSegs.map (resetSegment false), power := resetPower true s.power,
    span := { linkUp := s.span.linkUp }, free := s.free, code := s.code, pending := s.pending }

/-- The block after a warm reset, held in reset (R387); as `coldReset` in split mode. -/
def State.warmReset (s : State) : State :=
  { cfg := s.cfg, time := resetTime s.time, segs := s.allSegs.map (resetSegment true), parts := s.parts.map warmPartition,
    rings := warmRings s.rings, tenants := s.tenants, indexes := s.indexes, glob := s.glob, screen := s.screen,
    objs := { commitNo := s.objs.commitNo }, power := resetPower false s.power, trust := warmTrust s.trust,
    span := { linkUp := s.span.linkUp }, free := s.free, code := s.code, pending := s.pending }

/-! Leaving reset (R331, R332, R390). -/

/-- A segment holds keys: it is neither BLANK nor RETIRED (R328). -/
def Lifecycle.keyed (l : Lifecycle) : Bool := l != .blank && l != .retired

/-- The identity key that a Trust Unit derives from its PUF response and identity seed fuses; none while BLANK, and none once RETIRED
(R328, R331). -/
def identityKey (i : Nat) (t : SegTrust) : Option Nat :=
  if t.lifecycle.keyed then some (Config.derivedKey [Config.pufResponse i, t.seed]) else none

/-- A segment leaves reset: it derives its identity key, and its join deadline starts (R331, R390, R393). -/
def releaseSegment (beat i : Nat) (g : Segment) : Segment :=
  { g with state := .joining, inReset := false, joinDeadline := beat + 2000000,
           trust := { g.trust with identity := identityKey i g.trust } }

/-- The random keys of a cold bring-up: envelope keys at generation 1 and dim keys at epoch 1 of partitions 0 to 14 (R332,
R340, R346). -/
def freshEnvKeys (free : Nat) : List EnvKey :=
  (List.range 16).map (fun p =>
    if p == 15 then {} else { curId := 1, cur := Config.freshKey (free + 2 * p), curEpoch := 1,
                              dimCur := Config.freshKey (free + 2 * p + 1) })

/-- The keys of a segment's stack that a cold bring-up makes: those of the block, owner 16, of partition 15, and of each partition that
the segment belongs to (R332, R345); none while it is BLANK or RETIRED (R328). -/
def freshStackKeys (free : Nat) (parts : List Nat) (i : Nat) (g : Segment) : Segment :=
  let keys := (parts ++ [15, 16]).map (fun p => (p, Config.freshKey (free + 32 + 17 * i + p)))
  if g.trust.lifecycle.keyed then { g with trust := { g.trust with stackKeys := keys } } else g

/-- The generation partitions that a segment belongs to. -/
def State.ownersOf (s : State) (i : Nat) : List Nat := (List.range 15).filter (fun p => (s.part p).segMask.testBit i)

/-- A cold bring-up makes the random keys; a block that is BLANK or RETIRED has no content keys (R328, R332). -/
def State.coldKeys (s : State) : State :=
  let keys := if (s.seg s.roles.manager).trust.lifecycle.keyed then freshEnvKeys s.free else List.replicate 16 {}
  let t := s.onSegs (fun i g => freshStackKeys s.free (s.ownersOf i) i g)
  { t with trust := { t.trust with envKeys := keys }, free := t.free + 400 }

/-- The keys of a stack whose random keys were lost are made anew as its segment leaves reset (R332). -/
def State.stackKeysAt (s : State) (i : Nat) : State :=
  if (s.seg i).trust.stackKeys.isEmpty then
    let t := s.onSeg i (freshStackKeys s.free (s.ownersOf i) i)
    { t with free := s.free + 400 }
  else s

/-- Bring-up starts at stage 0 (R390); a cold one makes the random keys (R332). -/
def State.bringUp (s : State) : State :=
  let s := s.onSegs (fun i g => if !g.resetIn.isEmpty then g else releaseSegment s.time.beat i g)
  let s := if s.power.coldBoot then s.coldKeys else s
  { s with power := { s.power with inReset := false, gongOut := false, coldBoot := false, stage := 0 } }

/-- A reset of the block that no input holds: bring-up follows at once (R387, R390). -/
def State.coldRestart (s : State) : State := s.coldReset.bringUp

/-- As `coldRestart`, for a warm reset. -/
def State.warmRestart (s : State) : State := s.warmReset.bringUp

end Sys2Proof.Machine
end

