-- ==== Sys2Proof/Machine/Losses.lean ====
section
/-! DEFINITION. Step records (R228), how a step ends without a commit point (R49, R355), and how partitions and segments leave
service (R359, R360, R384): the shared operations of the fault rules. -/

namespace Sys2Proof.Machine

/-! Step records. -/

/-- Outcome codes of a step record (R228). -/
inductive StepEnd where
  | committed | abandoned | hung | discarded | refused
  deriving DecidableEq, Repr

/-- OUTCOME as coded (R228). -/
def outcomeCode : StepEnd → Nat
  | .committed => 0
  | .abandoned => 1
  | .hung => 2
  | .discarded => 3
  | .refused => 4

/-- STATUS of a step record by its outcome (R228). -/
def outcomeStatus : StepEnd → Status
  | .committed => .ok
  | .abandoned => .ok
  | .hung => .stepLost
  | .discarded => .stepLost
  | .refused => .clamped

/-- The step record (R228). -/
def stepRecord (p : Nat) (c : Cls) (o : StepEnd) (program launchNo launch : Nat) (e : Stamp) (seqs tokens : Nat) : Nat :=
  packMsb [(8, 0x02), (8, statusCode (outcomeStatus o)), (4, p), (1, clsBit c), (3, outcomeCode o), (16, program), (32, launchNo),
    (64, launch), (64, e.beat), (16, e.cyc), (16, seqs), (32, tokens), (248, 0)]

/-- The step records of a partition that wait, in whichever ring: a commit may have named another since (R302). -/
def State.stepBacklog (s : State) (p : Nat) : Nat :=
  sumNat (s.rings.map (fun e => (e.2.waits.filter (fun b => b.kind == .stepRec p)).length))

/-- A step record bound for its partition's STEP_CMP_RING, or lost (R302). -/
def State.sendStepRecord (s : State) (p data : Nat) : State :=
  let n := (s.part p).stepCmpRing
  let r := s.ring n
  if n < 16384 && r.enable && r.kind == 1 && s.stepBacklog p < 64 then
    s.sendRecord n { kind := .stepRec p, data := data }
  else s.count (fun c => { c with stepRecLost := c.stepRecLost + 1 })

/-- The record of a step in flight that ends at a stamp. -/
def State.recordStep (s : State) (p : Nat) (c : Cls) (o : StepEnd) (e : Stamp) (tokens : Nat) (st : StepS) : State :=
  s.sendStepRecord p (stepRecord p c o st.prog.id st.launchNo st.launch e st.bound tokens)

/-! A step leaves the segments. -/

/-- The streams that a program's transfers name (R58, R129). -/
def programStreams (img : ProgramImage) : List Nat :=
  ((img.slots.zip (continuation false img.slots)).filter (fun p => !p.2 && dType p.1 == 4)).map (fun p => xferStream p.1)

/-- A reference names a step. -/
def SweepRef.of (p : Nat) (c : Cls) (r : SweepRef) : Bool := r.part == p && r.cls == c

/-- A bank given up by a step's sweep. -/
def dropBank (p : Nat) (c : Cls) (b : AccBank) : AccBank :=
  match b.holder with
  | some r => if SweepRef.of p c r then {} else b
  | none => b

/-- A weight register given up by a step's tile. -/
def dropReg (p : Nat) (c : Cls) (w : WeightReg) : WeightReg :=
  match w.tile with
  | some r => if SweepRef.of p c r.1 then {} else w
  | none => w

/-- An array whose passes of a step have ended, their outputs dropped. -/
def dropArray (p : Nat) (c : Cls) (a : ArrayS) : ArrayS :=
  { a with bank0 := dropBank p c a.bank0, bank1 := dropBank p c a.bank1, reg0 := dropReg p c a.reg0, reg1 := dropReg p c a.reg1,
           finishing := a.finishing.filter (fun b => !(b.holder.any (SweepRef.of p c))),
           prefetch := a.prefetch.filter (fun b => !SweepRef.of p c b.tile.1) }

/-- A hub's output buffers once transfers on some streams have ended: of the segment's own frames on them only the chunk in flight
leaves, the one at the head of its module's lane (R66). -/
def endOutbound (streams : List Nat) : List (Dir × Bool) → List TxFrame → List TxFrame
  | _, [] => []
  | seen, x :: rest =>
    if x.came.isNone && streams.contains x.frame.stream && seen.contains (x.dir, x.detour) then endOutbound streams seen rest
    else x :: endOutbound streams ((x.dir, x.detour) :: seen) rest

/-- The segment's own frames on some streams are not sent any more. -/
def endHeld (streams : List Nat) (l : List HeldFrame) : List HeldFrame :=
  l.filter (fun x => !(x.came.isNone && streams.contains x.frame.stream))

/-- A request serves a host transfer of a step on some segments. -/
def DmaUse.ofStep (on : Nat → Bool) (p : Nat) (c : Cls) : DmaUse → Bool
  | .transfer i q k _ => on i && q == p && k == c
  | _ => false

/-- A port once a step's host transfers have ended: only the requests in flight go on (R66). -/
def Port.endTransfers (on : Nat → Bool) (p : Nat) (c : Cls) (port : Port) : Port :=
  { port with waiting := port.waiting.filter (fun r => !r.what.ofStep on p c)
              issued := port.issued.map (fun r => if r.what.ofStep on p c then { r with more := 0 } else r) }

/-- The host transfers of a step end on some segments. -/
def State.endTransfersOn (s : State) (on : Nat → Bool) (p : Nat) (c : Cls) : State :=
  s.onSegs (fun _ g => { g with port := g.port.endTransfers on p c })

/-- A memory with a run of bytes, given by offset, put in place of what it holds there. -/
def putRun (m : Memory) (r : Nat × Nat × Memory) : Memory :=
  r.2.2.foldl (fun m e => memWrite m (r.1 + e.1) e.2) (m.filter (fun e => !(r.1 ≤ e.1 && e.1 < r.1 + r.2.1)))

/-- What a step's kernels and transfers wrote to the stack is taken back: a step that ends without a commit point has no effects (R49). -/
def undoStack (p : Nat) (c : Cls) (g : Segment) : Segment :=
  match g.steps.find? (fun t => t.part == p && t.cls == c) with
  | some t => { g with stack := { g.stack with mem := t.undo.reverse.foldl putRun g.stack.mem } }
  | none => g

/-- A segment without a step: nothing more is issued, its kernels and transfers end, its staging SRAM and combining slots are
free, and the frames that waited for a slot are dropped and counted (R66, R144, R355). -/
def dropStepHere (p : Nat) (c : Cls) (streams : List Nat) (g : Segment) : Segment :=
  let stale := (g.hub.waiting.filter (fun x => streams.contains x.frame.stream)).length
  { g with
    cnt := { g.cnt with staleDrops := g.cnt.staleDrops + stale },
    steps := g.steps.filter (fun t => !(t.part == p && t.cls == c)),
    allocs := g.allocs.filter (fun a => !(a.part == p && a.cls == c)),
    kernels := g.kernels.filter (fun k => !(k.part == p && k.cls == c)),
    ma0 := dropArray p c g.ma0, ma1 := dropArray p c g.ma1,
    hub := { g.hub with
      slots := g.hub.slots.filter (fun k => !(k.part == p && k.cls == c)),
      waiting := g.hub.waiting.filter (fun x => !streams.contains x.frame.stream),
      tx := endOutbound streams [] g.hub.tx, rerouting := endHeld streams g.hub.rerouting,
      eMax := g.hub.eMax.filter (fun e => !streams.contains e.1),
      escaped := g.hub.escaped.filter (fun k => !streams.contains k) } }

/-- The segments that take part in a program's steps: its SEGMENT_MASK; every serving segment for the screen partition
(R46), which leaves a screen step in flight only at the next freeze (R362). -/
def State.stepSegs (s : State) (p : Nat) (img : ProgramImage) : List Nat :=
  if p == 15 then (match s.stepOf 15 .lc with | some st => st.segs | none => s.servingSegs) else img.segs

/-! A step ends without a commit point. -/

/-- What a freeze reserved for a bound sequence returns to the pool (R49, R198). -/
def State.unreserve (s : State) (stamp : Stamp) (b : Bind) : State :=
  match s.live b.seq with
  | some q =>
    let n := (b.reserved.length + flag b.saveBlock) * (s.part q.req.part).setPages q.speculate
    ((s.returnPages q.req.part n stamp).dropBlocks (.seq b.seq) b.reserved.contains).onLive b.seq (fun q => { q with
      ownBlocks := q.ownBlocks.filter (fun k => !b.reserved.contains k), saveBlock := q.saveBlock && !b.saveBlock })
  | none => s

/-- A sequence stands at its last commit again: its KV writes of the step are never read, and its chunk, groups and retrieval
rows are to be bound again (R49, R257, R281). -/
def standBack (screen : Bool) (b : Bind) (q : Sequence) : Sequence :=
  let wait (pl : Plan) : Plan :=
    { pl with stage := if pl.stage == .inE then .waitE else if pl.stage == .inR then .waitR else pl.stage,
              cands := pl.cands.map (fun (c : Cand) => { c with bound := false }) }
  if screen then
    { q with verdict := if b.chunk.isSome then { q.verdict with bound := false } else q.verdict,
             groups := q.groups.map (fun g => if b.groups.contains g.id then { g with bound := false } else g) }
  else
    { q with kv := q.kv.filter (fun e => e.pos < q.committed),
             plan := if b.stageE || !b.rerank.isEmpty then q.plan.map wait else q.plan }

/-- The pages of a loop's sequences that ended while its step was in flight return (R198). -/
def State.endedBack (s : State) (p : Nat) (c : Cls) (stamp : Stamp) : State :=
  ((s.seqs.filter (fun e => e.2.req.part == p && e.2.req.cls == c && e.2.ended.isSome && !e.2.pagesBack)).map (·.1)).foldl
    (fun t k => t.pagesReturn k stamp) s

/-- The loop after its step has ended: a loop whose launches have all been made ends (R301); the next freeze waits for the
next beat edge (R50) and for its hubs to be clear (R144). -/
def loopAfter (stamp : Stamp) (clearing : List Nat) (l : Loop) : Loop :=
  { l with step := none, running := l.running && l.remaining != some 0, freezeAt := stamp.beat + 1, clearing := clearing }

/-- A step in flight removed without a commit point (R49). -/
def State.clearStep (s : State) (p : Nat) (c : Cls) (stamp : Stamp) : State :=
  match s.stepOf p c with
  | some st =>
    let s := st.binds.foldl (fun t b => (t.unreserve stamp b).onLive b.seq (standBack (p == 15) b)) s
    let streams := programStreams st.prog.image
    let segs := (s.stepSegs p st.prog.image).filter s.serving
    let s := (s.onSegs (fun _ g => dropStepHere p c streams (undoStack p c g))).endTransfersOn (fun _ => true) p c
    (s.onLoop p c (loopAfter stamp segs)).endedBack p c stamp
  | none => s

/-- A BE loop halts until the driver launches it again (R50, R66). -/
def State.haltBe (s : State) (p : Nat) (c : Cls) : State :=
  if c == .be then s.onLoop p c (fun l => { l with running := false }) else s

/-- A step discarded or hung at a stamp: its record is written and its sequences end; chunks and groups of a screen step are
bound again (R71, R281, R355). A step that was abandoned before has ended, and only its record is still to be written (R66). -/
def State.discardStep (s : State) (p : Nat) (c : Cls) (o : StepEnd) (status : Status) (stamp : Stamp) : State :=
  match s.stepOf p c with
  | some st =>
    match st.abandoned with
    | some e => (s.onLoop p c (fun l => { l with step := none })).recordStep p c .abandoned e 0 st
    | none =>
      let s := ((s.clearStep p c stamp).haltBe p c).recordStep p c o stamp 0 st
      let s := if o == .discarded then s.count (fun k => { k with stepsDiscarded := k.stepsDiscarded + 1 }) else s
      if p == 15 then s else (st.binds.map (·.seq)).foldl (fun t k => t.endSeq k status stamp) s
  | none => s

/-- An uncorrectable data-path error of a segment that names a step in flight: it is counted, and the step is discarded at
one stamp of the sequencer (R354, R355). -/
def State.dataPathError (s : State) (cyc seg p : Nat) (c : Cls) : State :=
  let count (g : Segment) : Segment := { g with health := { g.health with uncorrected := g.health.uncorrected + 1 } }
  let t := s.onSeg seg count
  match s.stepOf p c with
  | some st =>
    if st.abandoned.isSome then t
    else
      let e := s.stampFor cyc
      (t.given e).discardStep p c .discarded .stepLost e
  | none => t

/-! Partitions and segments leave service. -/

/-- A loop ends at the stamp at which its partition is stopped (R301, R360). -/
def stoppedLoop (l : Loop) : Loop := { l with running := false, stopping := false, remaining := none }

/-- Every entry of a partition becomes a tombstone (R360). -/
def State.tombstoneAll (s : State) (p : Nat) (stamp : Stamp) : State :=
  ((s.handles.filter (fun e => e.2.part == p && e.2.tier != .tombstone)).map (·.1)).foldl
    (fun t k => t.tombstone k (fun u i n => u.returnPages i n stamp)) s

/-- Every live sequence that a test picks ends. -/
def State.endWhere (s : State) (pick : Sequence → Bool) (status : Status) (stamp : Stamp) : State :=
  ((s.seqs.filter (fun e => pick e.2)).map (·.1)).foldl (fun t k => t.endSeq k status stamp) s

/-- The requests waiting in a partition's admission queues end. -/
def State.failQueued (s : State) (p : Nat) (status : Status) (stamp : Stamp) : State :=
  let q := s.part p
  let t := (q.lcQueue ++ q.beQueue).foldl (fun t r => t.failRequest r status stamp) s
  t.onPart p (fun q => { q with lcQueue := [], beQueue := [] })

/-- A partition is stopped (R360). -/
def State.stopPartition (s : State) (p : Nat) (status : Status) (stamp : Stamp) : State :=
  let s := (s.discardStep p .lc .discarded status stamp).discardStep p .be .discarded status stamp
  let s := s.onPart p (fun q => { q with lc := stoppedLoop q.lc, be := stoppedLoop q.be })
  let s := s.failQueued p status stamp
  let s := s.endWhere (fun q => q.req.part == p) status stamp
  (s.tombstoneAll p stamp).onPart p (fun q => { q with stopped := some status })

/-- A step in flight of a loop has a segment of a list in its mask. -/
def State.stepTouches (s : State) (out : List Nat) (p : Nat) (c : Cls) : Bool :=
  match s.stepOf p c with
  | some st => p == 15 || st.prog.image.segs.any out.contains
  | none => false

/-- The held tokens of sequences already ended whose screen segment leaves are discarded and refunded: no verdict on them can come
(R281). -/
def State.unscreened (s : State) (out : List Nat) : State :=
  ((s.seqs.filter (fun e => e.2.ended.isSome && out.contains e.2.screenSeg)).map (·.1)).foldl State.discardHeld s

/-- What happens at the stamp at which segments leave the block (R360, R370): steps are discarded, partitions that own them
stopped, and sequences screened there end. -/
def State.segsLeave (s : State) (out : List Nat) (status : Status) (stamp : Stamp) : State :=
  let ps := List.range 16
  let s := ps.foldl (fun t p => [Cls.lc, Cls.be].foldl (fun u c =>
    if u.stepTouches out p c then u.discardStep p c .discarded status stamp else u) t) s
  let s := ps.foldl (fun t p =>
    if (maskBits 20 (t.part p).segMask).any out.contains && (t.part p).stopped.isNone then t.stopPartition p status stamp else t) s
  (s.unscreened out).endWhere (fun q => out.contains q.screenSeg) status stamp

/-- The modules marked failed, as SEGMENT_LOST carries them: north, east, south, west (R294). -/
def Hub.failedBits (h : Hub) : Nat :=
  packMsb [(1, flag h.north.failed), (1, flag h.east.failed), (1, flag h.south.failed), (1, flag h.west.failed)]

/-- DETAIL of SEGMENT_LOST (R294). -/
def lostSegDetail (mods reason : Nat) : Nat := packMsb [(4, mods), (8, reason), (100, 0)]

/-- SEGMENT_LOST with the scope SEGMENT, raised by the manager (R294, R374). -/
def State.raiseLost (s : State) (i reason : Nat) (stamp : Stamp) : State :=
  s.raise s.mgr 0x0A 0x1 i 0 stamp (lostSegDetail (s.seg i).hub.failedBits reason)

/-- A segment that is lost is held in reset with its links power-gated; its stack contents stand until its reset (R359). -/
def lostSegment (reason : Nat) (g : Segment) : Segment :=
  { resetSegment true g with state := .lost, lostReason := reason, inReset := true }

/-- The standby is lost with its segment, or a candidate before its copy is complete, so that another may be named (R369). Whether the deltas' sequence numbers go on afterwards the spec does not say: DESIGN
CHOICE (log entry 36), they go on from where they were (R30). -/
def State.dropStandby (s : State) (i : Nat) : State :=
  if s.roles.standby == some i then { s with roles := { s.roles with standby := none }, mirror := { nextSeq := s.mirror.nextSeq } }
  else if s.roles.candidate == some i then { s with roles := { s.roles with candidate := none }, mirror := { s.mirror with copying := false } }
  else s

/-- A segment other than the manager is lost at a stamp (R359, R360). -/
def State.loseSegment (s : State) (i reason : Nat) (stamp : Stamp) : State :=
  let s := s.segsLeave [i] .stepLost stamp
  let s := (s.onSeg i (lostSegment reason)).dropStandby i
  (s.raiseLost i reason stamp).count (fun c => { c with segmentsLost := c.segmentsLost + 1 })

/-! The GONG and the loss of the manager. -/

/-- The GONG record (R385): a notice record as one word. -/
def gongRecord (cause scope seg reading : Nat) (stamp : Stamp) : Nat :=
  packMsb ((noticeWords 0x07 scope seg 0 stamp (packMsb [(8, cause), (16, reading), (88, 0)])).map (fun w => (64, w)))

/-- A GONG: every segment latches the record and raises an in-band interrupt for it, and the block enters a cold reset (R384, R385,
R412). -/
def State.gong (s : State) (rec : Nat) : State :=
  let s := s.coldReset.onSegs (fun _ g => interrupt 1 { g with supply := { g.supply with gong := some rec } })
  { s with power := { s.power with gongLast := rec, gongOut := true } }

/-- The block has a standby manager by its configuration (R3). -/
def KdKind.hasStandby (k : KdKind) : Bool := match k with
  | .kd1 => false
  | .kd5 => false
  | _ => true

/-- The active manager is lost: block fatal in KD-1 and KD-5, else it falls silent until a takeover (R353, R366). -/
def State.loseManager (s : State) (stamp : Stamp) : State :=
  if s.cfg.kind.hasStandby then { s with roles := { s.roles with managerSilent := true } }
  else s.gong (gongRecord 0x03 0x0 0 0 stamp)

/-- A segment, or the manager, is lost (R359, R360). -/
def State.loseAny (s : State) (i reason : Nat) (stamp : Stamp) : State :=
  if i == s.mgr then s.loseManager stamp else s.loseSegment i reason stamp

end Sys2Proof.Machine
end

