-- ==== Sys2Proof/Machine/Routes.lean ====
section
/-! DEFINITION. The mesh (R23): its routes and detours (R24, R146), the nonce and frame counter of a link's direction (R148), and the
passage of control messages (R25). -/

namespace Sys2Proof.Machine

/-! The mesh. -/

/-- The neighbour of a segment on a side, in a block of n segments (R23). -/
def neighbour (n i : Nat) : Dir → Option Nat
  | .north => if 5 ≤ i then some (i - 5) else none
  | .south => if i + 5 < n then some (i + 5) else none
  | .east => if i % 5 < 4 && i + 1 < n then some (i + 1) else none
  | .west => if 0 < i % 5 then some (i - 1) else none

/-- The side that faces a side across a link (R23). -/
def opposite : Dir → Dir
  | .north => .south
  | .south => .north
  | .east => .west
  | .west => .east

/-- A module of a hub. -/
def Hub.module (h : Hub) : Dir → ModuleS
  | .north => h.north
  | .east => h.east
  | .south => h.south
  | .west => h.west

/-- The hub with a module changed. -/
def Hub.onModule (h : Hub) (d : Dir) (f : ModuleS → ModuleS) : Hub :=
  match d with
  | .north => { h with north := f h.north }
  | .east => { h with east := f h.east }
  | .south => { h with south := f h.south }
  | .west => { h with west := f h.west }

/-- The state with a module of a segment changed. -/
def State.onModule (s : State) (i : Nat) (d : Dir) (f : ModuleS → ModuleS) : State :=
  s.onSeg i (fun g => { g with hub := g.hub.onModule d f })

/-- The state with a segment's hub changed. -/
def State.onHub (s : State) (i : Nat) (f : Hub → Hub) : State := s.onSeg i (fun g => { g with hub := f g.hub })

/-- The four sides. -/
def allDirs : List Dir := [.north, .east, .south, .west]

/-- The next side of the route toward another segment: along the row first, then along the column (R24). -/
def routeDir (i d : Nat) : Dir :=
  if i % 5 < d % 5 then .east
  else if d % 5 < i % 5 then .west
  else if i / 5 < d / 5 then .south
  else .north

/-- The next segment of the route toward another segment on a mesh with every link healthy (R24). -/
def routeNext (i d : Nat) : Nat :=
  match routeDir i d with
  | .east => i + 1
  | .west => i - 1
  | .south => i + 5
  | .north => i - 5

/-- The route from a segment to another, both included (R24). -/
def routeFrom : Nat → Nat → Nat → List Nat
  | 0, i, _ => [i]
  | n + 1, i, d => if i == d then [i] else i :: routeFrom n (routeNext i d) d

/-- The link on a side of a segment has failed: a module at either end is marked failed, or the neighbour is out with its links
power-gated (R145, R359). -/
def State.linkFailed (s : State) (i : Nat) (d : Dir) : Bool :=
  match neighbour s.segs.length i d with
  | some j =>
    ((s.seg i).hub.module d).failed || ((s.seg j).hub.module (opposite d)).failed || (s.seg j).state == .lost || (s.seg i).state == .lost
  | none => true

/-- The link on a side of a segment carries frames: trained and authenticated at both ends (R145, R347). -/
def State.linkUp (s : State) (i : Nat) (d : Dir) : Bool :=
  match neighbour s.segs.length i d with
  | some j =>
    let a := (s.seg i).hub.module d
    let b := (s.seg j).hub.module (opposite d)
    !s.linkFailed i d && a.up && a.authed && b.up && b.authed
  | none => false

/-- The route of R24 crosses a failed link (R146). -/
def State.routeFailed (s : State) : Nat → Nat → Nat → Bool
  | 0, _, _ => false
  | n + 1, i, d => if i == d then false else s.linkFailed i (routeDir i d) || s.routeFailed n (routeNext i d) d

/-- The neighbours of a segment over healthy links, by side. -/
def State.healthyNext (s : State) (i : Nat) : List Nat :=
  allDirs.filterMap (fun d => if s.linkFailed i d then none else neighbour s.segs.length i d)

/-- Distances from a root over healthy links, one more level of a breadth-first search (R146). -/
def State.bfsLevel (s : State) (n : Nat) (dist : List (Nat × Nat)) : List (Nat × Nat) :=
  (List.range s.segs.length).foldl (fun l i =>
    if (aGet i l).isSome then l
    else if (s.healthyNext i).any (fun j => aGet j dist == some n) then aSet i (n + 1) l
    else l) dist

/-- Distances from the active manager over healthy links; a segment that none reaches is absent (R146, R147). -/
def State.meshDist (s : State) : List (Nat × Nat) :=
  (List.range s.segs.length).foldl (fun l n => s.bfsLevel n l) [(s.mgr, 0)]

/-- The parent of a segment in the spanning tree rooted at the manager, ties to the lower number (R146). -/
def State.treeParent (s : State) (dist : List (Nat × Nat)) (i : Nat) : Option Nat :=
  match aGet i dist with
  | some (n + 1) => (List.range s.segs.length).find? (fun j => aGet j dist == some n && (s.healthyNext i).contains j)
  | _ => none

/-- The way from a segment up to the root of the spanning tree. -/
def State.upChain (s : State) (dist : List (Nat × Nat)) : Nat → Nat → List Nat
  | 0, i => [i]
  | n + 1, i =>
    match s.treeParent dist i with
    | some p => i :: s.upChain dist n p
    | none => [i]

/-- The next segment of a detour route: down if the destination lies below, else up (R146). -/
def State.detourNext (s : State) (i d : Nat) : Option Nat :=
  let dist := s.meshDist
  let chain := s.upChain dist s.segs.length d
  if chain.contains i then (if i == d then none else chain[placeOf i chain - 1]?) else s.treeParent dist i

/-- The side of a segment that faces a neighbour. -/
def dirTo (n i j : Nat) : Option Dir := allDirs.find? (fun d => neighbour n i d == some j)

/-- A segment has an authenticated link to a joined one (R347, R393). -/
def State.hasJoinedLink (s : State) (i : Nat) : Bool :=
  allDirs.any (fun d => s.linkUp i d && (match neighbour s.segs.length i d with
    | some j => s.serving j
    | none => false))

/-! Streams (R132). -/

/-- The step of a stream: the partition that owns it and the class of its half (R132). -/
def streamPart (n : Nat) : Nat := n / 4096
/-- As `streamPart`, for the class. -/
def streamCls (n : Nat) : Cls := if n % 4096 < 2048 then .lc else .be

/-! Frames of a link (R148). -/

/-- The direction identifier of a link (R347). -/
def directionId (seg : Nat) (d : Dir) (gen : Nat) : Nat :=
  packMsb [(16, 0x4C4B), (5, seg), (2, match d with | .north => 0 | .east => 1 | .south => 2 | .west => 3), (9, gen)]

/-- The nonce of a frame: the identifier of its direction, then the frame counter (R148). -/
def linkNonce (seg : Nat) (d : Dir) (gen counter : Nat) : Nat := packMsb [(32, directionId seg d gen), (64, counter)]

/-- A frame leaves an output module: it takes the direction's next nonce, and the frame counter rises (R148). -/
def frameLeaves (seg : Nat) (d : Dir) (m : ModuleS) : ModuleS :=
  { m with txFrames := m.txFrames + 1, nonce := linkNonce seg d m.keyGen m.txFrames }

/-- The segments that a message passes from one segment to another: the route of R24, or, where that crosses a failed link, the
detour route, both ends included (R24, R146). -/
def State.pathFrom (s : State) : Nat → Nat → Nat → List Nat
  | 0, i, _ => [i]
  | n + 1, i, d =>
    if i == d then [i]
    else match s.detourNext i d with
      | some j => i :: s.pathFrom n j d
      | none => [i]

/-- The way of a message between two segments. -/
def State.wayTo (s : State) (i d : Nat) : List Nat :=
  if s.routeFailed 8 i d then s.pathFrom s.segs.length i d else routeFrom 8 i d

/-- A message passes from a segment to its neighbour over their link. -/
def State.hop (s : State) (i j : Nat) : State :=
  match dirTo s.segs.length i j with
  | some d => if s.linkUp i d then s.onModule i d (frameLeaves i d) else s
  | none => s

/-- A control message passes from one segment to another: one frame on every link of its way (R25, R148, log entry 43). -/
def State.control (s : State) (i d : Nat) : State :=
  let way := s.wayTo i d
  (way.zip (way.drop 1)).foldl (fun t x => t.hop x.1 x.2) s

/-- What the manager mirrors is sent to the standby, if a healthy route leads to it (R25, R31, R332). -/
def State.toStandby (s : State) : State :=
  match s.roles.standby with
  | some i => if (aGet i s.meshDist).isSome then s.control s.mgr i else s
  | none => s

/-- A control message of the manager to each of some segments. -/
def State.controlAll (s : State) (l : List Nat) : State := l.foldl (fun t i => t.control s.mgr i) s

end Sys2Proof.Machine
end

