-- ==== Sys2Proof/Machine/Sampler.lean ====
section
/-! DEFINITION. The Sampler and the verification of speculative trees (R205, R211 to R218), computed in binary32. -/

namespace Sys2Proof.Machine

/-- The vocabulary shard width W of a partition of n segments (R205). -/
def shardWidth (vocab n : Nat) : Nat := 64 * ceilDiv vocab (64 * n)

/-- Penalties and temperature on one logit (R212, stages 1 and 2). -/
def adjustLogit (g : GenParams) (n : Nat) (z : F32) : F32 :=
  let z := if n == 0 then z
    else
      let y := if f32Lt 0 z then f32Div z g.repetition else f32Mul z g.repetition
      f32Sub (f32Sub y g.presence) (f32Mul g.frequency (f32OfInt n))
  if f32Eq g.temperature 0 then z else f32Div z g.temperature

/-- The count of a token in a count store (R211). -/
def countOf (t : Nat) (c : List Count) : Nat := match c.find? (fun e => e.token == t) with | some e => e.n | none => 0

/-- A candidate: token and adjusted logit or probability. -/
abbrev Choice := Nat × F32

/-- Larger z first, ties to the lower token (R212, R213). -/
def choiceAbove (a b : Choice) : Bool := f32Lt b.2 a.2 || (!f32Lt a.2 b.2 && a.1 < b.1)

/-- The adjusted logits of one shard whose lowest token is `base`. -/
def shardChoices (g : GenParams) (c : List Count) (base : Nat) (shard : List F32) : List Choice :=
  shard.zipIdx.map (fun p => (base + p.2, adjustLogit g (countOf (base + p.2) c) p.1))

/-- What a segment Sampler reports: m, S and its 64 largest (R212, stage 3). -/
structure ShardReport where
  m : F32 := 0
  s : F32 := 0
  top : List Choice := []
  deriving DecidableEq, Repr

/-- Local reduction of one shard (R212, stage 3); a shard whose every z is −∞ adds nothing to Z. -/
def reduceShard (l : List Choice) : ShardReport :=
  let m := l.foldl (fun acc p => f32Max acc p.2) (f32Inf true)
  { m := m, s := if m == f32Inf true then 0 else f32Sum (l.map (fun p => f32Exp (f32Sub p.2 m))), top := (sortBy choiceAbove l).take 64 }

/-- The shards of a row, each with its tokens and adjusted logits. -/
def rowShards (g : GenParams) (c : List Count) (width : Nat) (shards : List (List F32)) : List (List Choice) :=
  shards.zipIdx.map (fun p => shardChoices g c (p.2 * width) p.1)

/-- A row is poisoned: a logit is NaN, a z is +∞, or every z is −∞ (R212). -/
def rowPoisoned (raw : List (List F32)) (l : List (List Choice)) : Bool :=
  raw.any (fun sh => sh.any f32IsNan) || l.any (fun sh => sh.any (fun p => p.2 == f32Inf false || f32IsNan p.2))
    || l.all (fun sh => sh.all (fun p => p.2 == f32Inf true))

/-- M and Z of the merged reports (R213, item 1). -/
def mergeNorm (r : List ShardReport) : F32 × F32 :=
  let m := r.foldl (fun acc p => f32Max acc p.m) (f32Inf true)
  (m, f32Sum (r.map (fun p => f32Mul p.s (f32Exp (f32Sub p.m m)))))

/-- The shortest leading run whose cumulative p reaches TOP_P, or all (R213, item 4). -/
def keptRun (topP : F32) : F32 → List Choice → List Choice
  | _, [] => []
  | acc, p :: rest =>
    let acc := f32Add acc p.2
    if f32Le topP acc then [p] else p :: keptRun topP acc rest

/-- The candidates of a row, sorted, and the kept set with its probabilities (R213, items 1 to 4). -/
def rowKept (g : GenParams) (l : List (List Choice)) : List Choice × List Choice :=
  let r := l.map reduceShard
  let n := mergeNorm r
  let cand := ((sortBy choiceAbove (r.flatMap (·.top))).take g.topK)
  (cand, keptRun g.topP 0 (cand.map (fun p => (p.1, f32Div (f32Exp (f32Sub p.2 n.1)) n.2))))

/-- The total p of a set. -/
def totalP (l : List Choice) : F32 := f32Sum (l.map (·.2))

/-- The first of a set whose cumulative p is at least a level (R213, item 5). -/
def drawAt (level : F32) : F32 → List Choice → Nat
  | _, [] => 0
  | _, [p] => p.1
  | acc, p :: rest =>
    let acc := f32Add acc p.2
    if f32Le level acc then p.1 else drawAt level acc rest

/-- A draw from a set by a uniform u (R213, item 5). -/
def drawFrom (l : List Choice) (u : F32) : Nat := drawAt (f32Mul u (totalP l)) 0 l

/-- A set normalised to total 1 (R217, R218). -/
def normalise (l : List Choice) : List Choice := let w := totalP l; l.map (fun p => (p.1, f32Div p.2 w))

/-- A row's outcome: poisoned, its first candidate, and its kept set. -/
structure RowDist where
  poisoned : Bool := false
  first : Nat := 0
  kept : List Choice := []
  deriving DecidableEq, Repr

/-- A row of logits taken through R212 and R213 up to the kept set; of a poisoned row, EOS with probability 1. -/
def rowDist (g : GenParams) (c : List Count) (width eos : Nat) (shards : List (List F32)) : RowDist :=
  let l := rowShards g c width shards
  if rowPoisoned shards l then { poisoned := true, first := eos, kept := [(eos, f32One)] }
  else
    let k := rowKept g l
    { first := (k.1.headD (eos, 0)).1, kept := k.2 }

/-- Greedy generation: TEMPERATURE 0. -/
def GenParams.greedy (g : GenParams) : Bool := f32Eq g.temperature 0

/-- A plain draw at a position (R213, R214). -/
def drawToken (g : GenParams) (d : RowDist) (pos : Nat) : Nat :=
  if d.poisoned || g.greedy then d.first else drawFrom d.kept (uniform g.seed pos 0 0)

/-! Trees. -/

/-- Node n of a tree template is present (R169). -/
def tmplHas (t : List Nat) (n : Nat) : Bool := bit 7 (t.getD n 0)

/-- The parent of node n of a tree template (R169). -/
def tmplParent (t : List Nat) (n : Nat) : Nat := bits 5 0 (t.getD n 0)

/-- The nodes a freeze binds of a template: in ascending number, up to the first that the rows left or the position limit
exclude; a node whose parent is left out is left out too (R216). -/
def bindNodes (t : List Nat) (limit : Nat) : List Nat → Nat → List BoundNode → List BoundNode
  | [], _, acc => acc
  | n :: rest, rows, acc =>
    if !tmplHas t n then bindNodes t limit rest rows acc
    else if rows == 0 || limit < n then acc
    else
      match acc.find? (fun b => b.node == tmplParent t n) with
      | some p =>
        let k := (acc.filter (fun b => b.node != 0 && b.parent == p.node)).length
        bindNodes t limit rest (rows - 1) (acc ++ [{ node := n, parent := p.node, depth := p.depth + 1, child := k }])
      | none => bindNodes t limit rest rows acc

/-- The bound shape of a tree: the root, then the nodes that fit (R216). -/
def boundTree (t : List Nat) (rows limit : Nat) (token : Nat) : List BoundNode :=
  bindNodes t limit ((List.range 63).map (· + 1)) (rows - 1) [{ token := some token }]

/-- The deepest node of a bound tree. -/
def treeDepth (l : List BoundNode) : Nat := l.foldl (fun acc b => max acc b.depth) 0

/-- The children of a node that still carry a token, in order (R216, R217). -/
def childrenOf (l : List BoundNode) (v : Nat) : List BoundNode :=
  l.filter (fun b => b.node != 0 && b.parent == v && b.token.isSome)

/-- What is left of a draft distribution once a token is taken: renormalised, or, greedy, the candidates that follow; empty where nothing
of positive weight remains (R217, item 3). -/
def withoutToken (g : GenParams) (t : Nat) (q : List Choice) : List Choice :=
  let r := q.filter (fun p => p.1 != t)
  if g.greedy then r else if r.all (fun p => f32Eq p.2 0) then [] else normalise r

/-- Tokens for the children of a node with draft distribution q, in order, each with the distribution it was drawn from; a child for
which no token remains is left out (R217, item 3). -/
def draftChildren (g : GenParams) (len : Nat) : List Choice → List BoundNode → List BoundNode
  | _, [] => []
  | q, c :: rest =>
    if q.isEmpty then { c with token := none } :: draftChildren g len [] rest
    else
      let t := if g.greedy then (q.headD (0, 0)).1 else drawFrom q (uniform g.seed (len + c.node) 2 c.child)
      { c with token := some t, q := if g.greedy then [] else q } :: draftChildren g len (withoutToken g t q) rest

/-- The draft distribution of a row as the children are drawn from it: the kept set normalised, or, greedy, the candidates in order. -/
def draftQ (g : GenParams) (c : List Count) (width eos : Nat) (shards : List (List F32)) : RowDist :=
  let l := rowShards g c width shards
  if rowPoisoned shards l then { poisoned := true, first := eos, kept := [(eos, f32One)] }
  else
    let k := rowKept g l
    { first := (k.1.headD (eos, 0)).1, kept := if g.greedy then k.1 else normalise k.2 }

/-- Descendants of nodes left out carry no token either (R217, item 3). -/
def dropOrphans (l : List BoundNode) : List BoundNode :=
  l.foldl (fun acc b =>
    let ok := b.node == 0 || b.depth == 0 || acc.any (fun p => p.node == b.parent && p.token.isSome) || b.token.isNone
    acc ++ [if ok then b else { b with token := none }]) []

/-- One level drafted: the children of each node of that depth receive their tokens (R217, item 3). -/
def draftLevelNodes (g : GenParams) (len level : Nat) (dist : Nat → RowDist) (l : List BoundNode) : List BoundNode :=
  let done := (l.filter (fun b => b.depth == level && (b.node == 0 || b.token.isSome))).flatMap (fun v =>
    let d := dist v.node
    draftChildren g len d.kept (l.filter (fun b => b.node != 0 && b.parent == v.node)))
  l.map (fun b =>
    match done.find? (fun c => c.node == b.node) with
    | some c => c
    | none => if b.depth == level + 1 then { b with token := none } else b)

/-- p[token] of a distribution. -/
def probOf (t : Nat) (l : List Choice) : F32 := match l.find? (fun p => p.1 == t) with | some p => p.2 | none => 0

/-- max(p − q, 0), renormalised; p itself where nothing is left (R218). -/
def residual (p0 p q : List Choice) : List Choice :=
  let r := p.map (fun c => (c.1, f32Max 0 (f32Sub c.2 (probOf c.1 q))))
  if r.all (fun c => f32Eq c.2 0) then p0 else normalise r

/-- The children of a node tested in order: the first accepted, or none and the distribution left (R218, sampled). -/
def acceptChild (g : GenParams) (len : Nat) (p0 : List Choice) : List Choice → List BoundNode → Option BoundNode × List Choice
  | p, [] => (none, p)
  | p, c :: rest =>
    let t := c.token.getD 0
    let u := uniform g.seed (len + c.node) 1 c.child
    if f32Lt u (f32Div (probOf t p) (probOf t c.q)) then (some c, p)
    else acceptChild g len p0 (residual p0 p c.q) rest

/-- The walk from a node down: accepted nodes and the new token (R218). -/
def verifyFrom (g : GenParams) (len : Nat) (l : List BoundNode) (dist : Nat → RowDist) : Nat → Nat → Nat → List Nat × Nat
  | 0, v, _ => ([], (dist v).first)
  | fuel + 1, v, d =>
    let r := dist v
    let kids := childrenOf l v
    if g.greedy then
      match kids.find? (fun c => c.token == some r.first) with
      | some c => let t := verifyFrom g len l dist fuel c.node (d + 1); (c.node :: t.1, t.2)
      | none => ([], r.first)
    else
      let p0 := normalise r.kept
      match acceptChild g len p0 p0 kids with
      | (some c, _) => let t := verifyFrom g len l dist fuel c.node (d + 1); (c.node :: t.1, t.2)
      | (none, p) => ([], drawFrom p (uniform g.seed (len + d + 1) 0 0))

/-- Verification of a bound tree from the root down: the accepted path and the new token (R218). -/
def verifyTree (g : GenParams) (len : Nat) (l : List BoundNode) (dist : Nat → RowDist) : List Nat × Nat :=
  verifyFrom g len l dist 17 0 0

/-! Counts and stops. -/

/-- A token's count raised by one: it becomes the most recently raised; a full store of its shard drops the entry raised least
recently. With the number of drops (R211). -/
def raiseCount (width t : Nat) (c : List Count) : List Count × Nat :=
  match c.find? (fun e => e.token == t) with
  | some e => (c.filter (fun x => x.token != t) ++ [{ e with n := min 65535 (e.n + 1) }], 0)
  | none =>
    let same (e : Count) : Bool := e.token / width == t / width
    if (c.filter same).length < 4096 then (c ++ [{ token := t, n := 1 }], 0)
    else
      match c.find? same with
      | some old => (c.filter (fun x => x.token != old.token) ++ [{ token := t, n := 1 }], 1)
      | none => (c ++ [{ token := t, n := 1 }], 0)

/-- Counts raised for tokens in order. -/
def raiseCounts (width : Nat) (ts : List Nat) (c : List Count) : List Count × Nat :=
  ts.foldl (fun acc t => let r := raiseCount width t acc.1; (r.1, acc.2 + r.2)) (c, 0)

/-- The list ends with a stop entry. -/
def endsWith (stop out : List Nat) : Bool := out.drop (out.length - stop.length) == stop && stop.length ≤ out.length

/-- The status that the newest of some output tokens gives its sequence, if it is the last (R215): `pos` is its position. -/
def stopStatus (g : GenParams) (stops : List (List Nat)) (eos contextMax pos : Nat) (out : List Nat) : Option Status :=
  let t := out.getLastD 0
  if t == eos || stops.any (fun st => endsWith st out) then some .stop
  else if g.maxTokens ≤ out.length || contextMax ≤ pos + 1 then some .length
  else none

/-- The drawn tokens of a step up to and including the first that ends the sequence, with the status it gives (R215). -/
def untilStop (g : GenParams) (stops : List (List Nat)) (eos contextMax : Nat) :
    Nat → List Nat → List Nat → List Nat × Option Status
  | _, _, [] => ([], none)
  | pos, out, t :: rest =>
    match stopStatus g stops eos contextMax pos (out ++ [t]) with
    | some st => ([t], some st)
    | none => let r := untilStop g stops eos contextMax (pos + 1) (out ++ [t]) rest; (t :: r.1, r.2)

end Sys2Proof.Machine
end

