-- ==== Sys2Proof/Machine/Screen.lean ====
section
/-! DEFINITION. Screening: policies and vocabularies (R260 to R263), automaton streams (R265 to R269), verdicts (R270 to
R275), the hold buffer, releases and late releases (R276 to R281). -/

namespace Sys2Proof.Machine

/-! Policies. -/

/-- A resident model of any partition. -/
def State.anyModel (s : State) (id : Nat) : Option Model := s.parts.findSome? (fun p => p.model id)

/-- The model whose VOCAB and DETOK_ID are a partition's screening vocabulary (R260). -/
def State.screenVocab (s : State) (p : Nat) : Option Model :=
  let pp := s.part p
  if pp.policy.screenModel == 0xFFFF then pp.target else s.anyModel pp.policy.screenModel

/-- The program the screen loop runs, or was last launched with. -/
def State.screenProgram (s : State) : Option Program :=
  let p := s.part 15
  p.programs.find? (fun g => g.id == p.lc.programId)

/-- W of R262. -/
def State.screenW (s : State) : Nat := match s.screenProgram with | some g => g.wcet | none => 0

/-- SCREEN_MIN_BT (R262). -/
def State.screenMin (s : State) : Nat := 2 * s.screenW + 5

/-- The rule set in force in a slot. -/
def State.ruleSet (s : State) (k : Nat) : Option RuleSet := aGet k s.screen.inForce

/-- A rule set is an automaton: BYTE or TOKEN (R265). -/
def RuleSet.automaton (r : RuleSet) : Bool := rsKind r.plain.header < 2

/-- The slots of a mask that hold automata in force. -/
def State.autoSlots (s : State) (mask : Nat) : List Nat :=
  (maskBits 8 mask).filter (fun k => match s.ruleSet k with | some r => r.automaton | none => false)

/-- The verdict map of a partition's policy (R271). -/
def State.verdictMap (s : State) (p : Nat) : Option RulePlain :=
  let k := (s.part p).policy.verdictMap
  if k == 0xFF then none else
    match s.ruleSet k with
    | some r => if rsKind r.plain.header == 2 then some r.plain else none
    | none => none

/-- REDACT_LEN of a verdict map, 0 without one (R271). -/
def redactLen (m : Option RulePlain) : Nat := match m with | some r => bits 127 120 r.mapHead | none => 0

/-- The replacement tokens of a verdict map (R271). -/
def replacement (m : Option RulePlain) : List Nat :=
  match m with | some r => (r.replacement.take (redactLen m)).map (bits 17 0) | none => []

/-- EMPTY_ACTION as a severity: PASS, or BLOCK (R271). -/
def emptyAction (m : Option RulePlain) : Nat :=
  match m with | some r => if bits 119 116 r.mapHead == 4 then 3 else 0 | none => 0

/-- An ACTION as a severity on output: BLOCK counts as STOP (R266, R275). -/
def severity (action : Nat) : Nat := min 3 action

/-- A severity on input: REDACT counts as MARK (R272). -/
def inputSeverity (sev : Nat) : Nat := if sev == 2 then 1 else sev

/-! Automata. -/

/-- The bytes of a token in a detokeniser (R269). -/
def Detok.bytesOf (d : Detok) (t : Nat) : List Nat :=
  let e := d.entries.getD t 0
  (d.pool.drop (bits 31 8 e)).take (bits 7 0 e)

/-- A resident detokeniser table. -/
def State.detok (s : State) (id : Nat) : Option Detok := s.screen.detoks.find? (fun d => d.id == id)

/-- The patterns of a match list from an entry up to LAST (R266). -/
def matchPatterns : Nat → List Nat → List Nat
  | 0, _ => []
  | _, [] => []
  | fuel + 1, e :: rest => bits 13 0 e :: (if bit 31 e then [] else matchPatterns fuel rest)

/-- One unit: the next state, and the patterns that entering it completes (R267). -/
def stepUnit (r : RulePlain) (state u : Nat) : Nat × List Nat :=
  let c := r.classMap.getD u 0
  let e := r.trans.getD (state * rsClasses r.header + c) 0
  (bits 31 16 e, if bit 15 e then matchPatterns r.matchList.length (r.matchList.drop (bits 14 0 e)) else [])

/-- The units of one token stepped in order. -/
def stepUnits (r : RulePlain) : Nat → List Nat → Nat × List Nat
  | state, [] => (state, [])
  | state, u :: rest =>
    let t := stepUnit r state u
    let v := stepUnits r t.1 rest
    (v.1, t.2 ++ v.2)

/-- What a completed pattern contributes (R266). -/
def patternFound (r : RulePlain) (slot n : Nat) : Nat × Found :=
  let e := r.patterns.getD n 0
  (bits 47 43 e, { act := severity (bits 63 60 e), slot := slot, num := n, tag := bits 59 48 e })

/-- The units of a token for a rule set: the token itself, or its bytes (R267). -/
def tokenUnits (r : RulePlain) (d : Option Detok) (t : Nat) : List Nat :=
  if rsKind r.header == 1 then [t] else match d with | some d => d.bytesOf t | none => []

/-- Tokens stepped in order from a place: the state reached, the matches with their token's place and span, and the units. -/
def stepTokens (r : RulePlain) (slot : Nat) :
    Nat → List (List Nat) → Nat → Nat × List (Nat × Nat × Found) × Nat
  | _, [], state => (state, [], 0)
  | i, us :: rest, state =>
    let t := stepUnits r state us
    let v := stepTokens r slot (i + 1) rest t.1
    (v.1, t.2.map (fun n => (i, patternFound r slot n)) ++ v.2.1, us.length + v.2.2)

/-- The encoder model of a request's index. -/
def State.encoderOf (s : State) (q : Request) : Option Model :=
  match q.retr with
  | some r => (s.indexes.find? (fun x => x.id == r.indexId)).bind (fun x => (s.part x.part).model (ixEncoder x.desc))
  | none => none

/-- Query tokens of a request (R236). -/
def queryTokens (q : Request) : List Nat := match q.retr with | some r => r.tokens | none => []

/-- The query tokens of a request are skipped by TOKEN streams and the classifier: their encoder's DETOK_ID differs from the
screening vocabulary's (R268). -/
def State.queryApart (s : State) (q : Request) : Bool :=
  !(queryTokens q).isEmpty &&
    (match s.encoderOf q, s.screenVocab q.part with
     | some e, some v => e.detok != v.detok
     | _, none => true
     | none, some _ => false)

/-- The screened input of a request: its prompt and query tokens (R260). -/
def screenedTokens (q : Request) : List Nat := q.prompt ++ queryTokens q

/-- The tokens the input classifier reads (R268, R270). -/
def State.classifiedTokens (s : State) (q : Request) : List Nat :=
  if s.queryApart q then q.prompt else screenedTokens q

/-- The units of each screened token for a rule set (R267, R268). -/
def State.inputUnits (s : State) (q : Request) (r : RulePlain) : List (List Nat) :=
  let own := ((s.screenVocab q.part).map Model.detok).bind s.detok
  let other := if s.queryApart q then ((s.encoderOf q).map Model.detok).bind s.detok else own
  let body := q.prompt.map (tokenUnits r own)
  if s.queryApart q && rsKind r.header == 1 then body else body ++ (queryTokens q).map (tokenUnits r other)

/-- The units of each output token of a sequence for a rule set; a token that never enters a hold buffer is never screened (R59). -/
def State.outputUnits (s : State) (q : Sequence) (r : RulePlain) : List (List Nat) :=
  let d := ((s.screenVocab q.req.part).map Model.detok).bind s.detok
  (q.outputs.zipIdx).map (fun t => if q.unheld.contains t.2 then [] else tokenUnits r d t.1)

/-- Two jobs are of one stream, whichever lane has failed under it. -/
def sameStream (a b : SnareJob) : Bool := a.seq == b.seq && a.slot == b.slot && a.out == b.out

/-- A stream placed in the queue of its screen segment: output streams before input streams, in the order they became ready; one that
waits or steps already stays where it is (R267). -/
def queueJob (j : SnareJob) (n : Snare) : Snare :=
  if n.queue.any (sameStream j) || n.lanes.any (fun l => sameStream j l.2) then n
  else if j.out then
    { n with queue := n.queue.filter (·.out) ++ [j] ++ n.queue.filter (fun x => !x.out) }
  else { n with queue := n.queue ++ [j] }

/-- A stream of a sequence made ready on its screen segment. -/
def State.readyStream (s : State) (k : Nat) (slot : Nat) (out : Bool) : State :=
  match s.live k with
  | some q => s.onSeg q.screenSeg (fun g => { g with snare := queueJob ⟨k, slot, out, none⟩ g.snare })
  | none => s

/-- The streams of one direction that a policy asks for and a sequence lacks, each in START. -/
def State.newAutos (s : State) (q : Sequence) (out : Bool) : List Auto :=
  let mask := if out then (s.part q.req.part).policy.outSets else (s.part q.req.part).policy.inSets
  ((s.autoSlots mask).filter (fun k => !q.autos.any (fun a => a.slot == k && a.out == out))).map (fun k =>
    { slot := k, out := out, state := match s.ruleSet k with | some r => rsStart r.plain.header | none => 0 })

/-- The streams of one direction set up and made ready (R267, R273, R275). -/
def State.startStreams (s : State) (k : Nat) (out : Bool) : State :=
  match s.live k with
  | some _ =>
    let s := s.onLive k (fun q => { q with autos := q.autos ++ s.newAutos q out })
    match s.live k with
    | some q => (q.autos.filter (fun a => a.out == out)).foldl (fun t a => t.readyStream k a.slot out) s
    | none => s
  | none => s

/-- The stream's units stepped to the end of what the sequence has: found patterns go to the verdict, or, of an output stream,
wait for their report; SNARE_UNITS and SNARE_MATCHES count (R267, R275, R282). -/
def State.stepStream (s : State) (seg : Nat) (j : SnareJob) : State :=
  match s.live j.seq, s.ruleSet j.slot with
  | some q, some r =>
    match q.autos.find? (fun a => a.slot == j.slot && a.out == j.out) with
    | some a =>
      let units := if j.out then s.outputUnits q r.plain else s.inputUnits q.req r.plain
      let t := stepTokens r.plain j.slot a.next (units.drop a.next) a.state
      let a' := { a with
        state := t.1, next := units.length, found := if j.out then a.found ++ t.2.1 else [],
        reported := if j.out then a.reported else units.length }
      let found := t.2.1.map (fun m => m.2.2)
      let s := s.onLive j.seq (fun q => { q with
        autos := q.autos.map (fun x => if x.slot == j.slot && x.out == j.out then a' else x),
        verdict := if j.out then q.verdict else { q.verdict with found := q.verdict.found ++ found } })
      s.segCount seg (fun c => { c with snareUnits := c.snareUnits + t.2.2, snareMatches := c.snareMatches + found.length })
    | none => s
  | _, _ => s

/-! Verdicts. -/

/-- A category entry of a verdict map (R271). -/
def categoryOf (e : Nat) : Category :=
  { threshold := BitVec.ofNat 32 (bits 63 32 e), action := bits 31 28 e, tag := bits 27 16 e, enabled := bit 15 e }

/-- A category fires: enabled, and its score at or above THRESHOLD or NaN (R271). -/
def Category_fires (c : Category) (score : F32) : Bool := c.enabled && (f32IsNan score || f32Le c.threshold score)

/-- What firing categories contribute, input or output (R271). -/
def categoriesFound (m : Option RulePlain) (out : Bool) (scores : List F32) : List Found :=
  match m with
  | none => []
  | some r =>
    let es := ((r.categories.drop (if out then 16 else 0)).take 16).map categoryOf
    ((es.zipIdx).filter (fun p => p.2 < scores.length && Category_fires p.1 (scores.getD p.2 0))).map (fun p =>
      { act := severity p.1.action, category := true, num := p.2, tag := p.1.tag })

/-- Firings on a NaN score, for CATEGORY_NAN (R271). -/
def nanFirings (m : Option RulePlain) (out : Bool) (scores : List F32) : Nat :=
  ((categoriesFound m out scores).filter (fun f => f32IsNan (scores.getD f.num 0))).length

/-- Scores of two windows combined category by category: the larger, a NaN counting as larger than any number (R270). -/
def maxScores : List F32 → List F32 → List F32
  | [], b => b
  | a, [] => a
  | x :: a, y :: b => (if f32IsNan x || f32IsNan y then f32Nan else f32Max x y) :: maxScores a b

/-- The first of two found actions in the order that decides a tag: patterns before categories, lower slot, lower number
(R272). -/
def foundAbove (a b : Found) : Bool :=
  if a.category != b.category then !a.category
  else if a.slot != b.slot then a.slot < b.slot
  else a.num < b.num

/-- The most severe of some actions. -/
def worst (l : List Found) : Nat := l.foldl (fun acc f => max acc f.act) 0

/-- The tag of a MARK (R272). -/
def markTag (l : List Found) : Nat :=
  match sortBy foundAbove (l.filter (fun f => f.act == 1)) with
  | f :: _ => f.tag
  | [] => 0

/-- The input verdict: severity 0 PASS, 1 MARK, 3 BLOCK, and the tag of a MARK (R272). -/
def State.inputVerdict (s : State) (q : Sequence) : Nat × Nat :=
  let m := s.verdictMap q.req.part
  if (screenedTokens q.req).isEmpty then (emptyAction m, 0)
  else
    let l := (q.verdict.found ++ categoriesFound m false q.verdict.scores).map (fun f => { f with act := inputSeverity f.act })
    (worst l, if worst l == 1 then markTag l else 0)

/-- Chunks of 16,384 tokens that the input classifier reads (R273). -/
def State.chunkCount (s : State) (q : Request) : Nat :=
  if (s.part q.part).policy.inClassifier == 0xFFFF then 0 else ceilDiv (s.classifiedTokens q).length 16384

/-- Windows of at most 512 tokens that chunk j of a request's classified tokens is cut into (R270). -/
def State.chunkWindows (s : State) (q : Request) (j : Nat) : Nat :=
  ceilDiv (min 16384 ((s.classifiedTokens q).length - 16384 * j)) 512

/-- The input verdict is ready: every input stream stepped, every chunk classified (R280). -/
def State.inputReady (s : State) (q : Sequence) : Bool :=
  q.autos.all (fun a => a.out || (screenedTokens q.req).isEmpty ||
    (match s.ruleSet a.slot with | some r => (s.inputUnits q.req r.plain).length ≤ a.next | none => true))
    && s.chunkCount q.req ≤ q.verdict.chunks

/-- The verdict on a held token is ready: every output stream's matches reported past it, its group classified (R280). -/
def State.heldReady (s : State) (q : Sequence) (h : Held) : Bool :=
  q.autos.all (fun a => !a.out || (s.ruleSet a.slot).isNone || h.idx < a.reported)
    && ((s.part q.req.part).policy.outClassifier == 0xFFFF
        || q.groups.any (fun g => g.id == h.group && g.classified))

/-- The release instant of the input verdict: admission plus k × D_IN_BT (R273). -/
def inputDue (dIn n : Nat) (admitAt : Stamp) : Stamp := plusBeats admitAt (max 1 (ceilDiv n 16384) * dIn)

/-! The hold buffer. -/

/-- Tokens held or backlogged over all sequences (R278, R303). -/
def State.heldAll (s : State) : Nat := sumNat (s.seqs.map (fun e => e.2.hold.length + tokensIn e.2.backTokens))

/-- A token enters the open group, or opens one; the eighth token closes it (R274). -/
def joinGroup (stamp : Stamp) (idx : Nat) (gs : List Group) : Nat × List Group :=
  match gs.find? (fun g => g.closed.isNone) with
  | some g =>
    let n := g.count + 1
    (g.id, gs.map (fun x => if x.id == g.id then
      { x with count := n, lastIdx := idx, closed := if n == 8 then some stamp else none } else x))
  | none =>
    let id := gs.foldl (fun acc g => max acc (g.id + 1)) (idx + 1)
    (id, gs ++ [{ id := id, first := stamp, count := 1, lastIdx := idx }])

/-- Tokens enter a sequence's hold buffer at a commit stamp (R47, R274). -/
def enterHold (stamp due : Stamp) (toks : List Nat) (q : Sequence) : Sequence :=
  toks.foldl (fun q t =>
    let idx := q.outputs.length
    let g := joinGroup stamp idx q.groups
    { q with
      outputs := q.outputs ++ [t], groups := g.2,
      hold := q.hold ++ [{ token := t, idx := idx, commit := stamp, due := due, group := g.1 }] }) q

/-- The open group closes (R274). -/
def closeGroup (at_ : Stamp) (q : Sequence) : Sequence :=
  { q with groups := q.groups.map (fun g => if g.closed.isNone then { g with closed := some at_ } else g) }

/-- G = D_OUT_BT − SCREEN_MIN_BT (R274). -/
def State.groupAge (s : State) (p : Nat) : Nat := (s.part p).policy.dOut - s.screenMin

/-- The open group of a sequence has reached its age at the present edge (R274). -/
def State.groupDue (s : State) (q : Sequence) : Bool :=
  q.groups.any (fun g => g.closed.isNone && before g.first s.edge && g.first.beat + s.groupAge q.req.part ≤ s.time.beat)

/-- GROUP_CLOSE (R274). -/
def execGroupClose (seq : Nat) (s : State) : Result := underForce (fun s =>
  match s.live seq with
  | some q => onlyIf (s.mgrUp && s.groupDue q) (s.onLive seq (closeGroup s.edge)) s
  | none => .next s) s

/-! Snare lanes. -/

/-- The lowest free lane of a Snare Engine that a stream may take: not the one that has failed under it (R267, R281). -/
def freeLane (n : Snare) (j : SnareJob) : Option Nat :=
  firstFrom (fun k => j.avoid != some k && !n.lanes.any (fun l => l.1 == k)) 64 0

/-- The first stream of the queue for which a lane is free takes it (R267). -/
def takeJob (n : Snare) : Snare :=
  match n.queue.find? (fun j => (freeLane n j).isSome) with
  | some j =>
    match freeLane n j with
    | some k => { n with queue := n.queue.erase j, lanes := aSet k j n.lanes }
    | none => n
  | none => n

/-- SNARE_STREAM_START (R267). -/
def execSnareStreamStart (seg : Nat) (s : State) : Result :=
  onlyIf (s.serving seg && !(s.seg seg).stack.screenCopy) (s.onSeg seg (fun g => { g with snare := takeJob g.snare })) s

/-- SNARE_STREAM_END (R267): the stream's result is ready and the lane free. -/
def execSnareStreamEnd (seg lane : Nat) (s : State) : Result :=
  match aGet lane (s.seg seg).snare.lanes with
  | some j =>
    .next ((s.stepStream seg j).onSeg seg (fun g => { g with snare := { g.snare with lanes := aErase lane g.snare.lanes } }))
  | none => .next s

/-- A stream restarts from START over all its units (R281). -/
def State.restartStream (s : State) (j : SnareJob) : State :=
  let start := match s.ruleSet j.slot with | some r => rsStart r.plain.header | none => 0
  s.onLive j.seq (fun q => { q with autos := q.autos.map (fun a =>
    if a.slot == j.slot && a.out == j.out then { a with state := start, next := 0, reported := 0, found := [] } else a) })

/-- The stream of a failed lane moved to another free lane, or to the head of its kind in the queue, from which another lane takes it (R267,
R281). -/
def moveJob (lane : Nat) (j : SnareJob) (n : Snare) : Snare :=
  let j := { j with avoid := some lane }
  let n := { n with lanes := aErase lane n.lanes }
  match freeLane n j with
  | some k => { n with lanes := aSet k j n.lanes }
  | none =>
    if j.out then { n with queue := j :: n.queue }
    else { n with queue := n.queue.filter (·.out) ++ [j] ++ n.queue.filter (fun x => !x.out) }

/-- SNARE_LANE_ERROR (R281, R354): the error names no step; it is counted, and the stream restarts. -/
def execSnareLaneError (seg lane : Nat) (s : State) : Result :=
  match aGet lane (s.seg seg).snare.lanes with
  | some j =>
    .next (((s.restartStream j).onSeg seg (fun g =>
      { g with snare := moveJob lane j g.snare, health := { g.health with uncorrected := g.health.uncorrected + 1 } })).segCount seg
      (fun c => { c with snareRestarts := c.snareRestarts + 1 }))
  | none => .next s

/-- A found action applied to the held tokens that its span covers (R275). -/
def applyFound (last span : Nat) (f : Found) (hold : List Held) : List Held :=
  hold.map (fun h => if h.idx ≤ last && last < h.idx + span then { h with found := h.found ++ [f] } else h)

/-- An output token of a sequence has been released: tokens that enter the hold buffer are released in position order (R59, R276). -/
def tokenReleased (q : Sequence) (i : Nat) : Bool :=
  !q.unheld.contains i && ((List.range i).filter (fun j => !q.unheld.contains j)).length < q.delivered

/-- A REDACT span reaches a token already released (R275). -/
def spanReleased (last span : Nat) (f : Found) (q : Sequence) : Bool :=
  f.act == 2 && (List.range (min span (last + 1))).any (fun k => tokenReleased q (last - k))

/-- The beat at which late verdicts of a sequence's held tokens have become ready is noted (R280). -/
def State.noteReady (s : State) (k : Nat) : State :=
  let note (q : Sequence) (h : Held) : Held :=
    if h.own && h.readyAt.isNone && s.heldReady q h then { h with readyAt := some s.time.beat } else h
  s.onLive k (fun q => { q with hold := q.hold.map (note q) })

/-- The matches of a sequence's output streams reach the manager (R275). -/
def State.reportMatches (s : State) (k : Nat) : State :=
  match s.live k with
  | some q =>
    let ms := (q.autos.filter (·.out)).flatMap (·.found)
    let partial_ := (ms.filter (fun m => spanReleased m.1 m.2.1 m.2.2 q)).length
    let s := s.onLive k (fun q => { q with
      hold := ms.foldl (fun h m => applyFound m.1 m.2.1 m.2.2 h) q.hold,
      autos := q.autos.map (fun a => if a.out then { a with found := [], reported := a.next } else a) })
    s.count (fun c => { c with redactPartial := c.redactPartial + partial_ })
  | none => s

/-- SNARE_MATCH_REPORT (R275). -/
def execSnareMatchReport (seq : Nat) (s : State) : Result := onlyIf s.mgrUp ((s.reportMatches seq).noteReady seq) s

/-! Releases. -/

/-- A stream entry (R227). -/
def streamEntry (mark redacted : Bool) (tag token : Nat) : Nat :=
  packMsb [(1, flag mark), (1, flag redacted), (12, tag), (18, token)]

/-- The filler entry (R276). -/
def fillerEntry : Nat := streamEntry false true 0 0x3FFFF

/-- The stream entries of a released token (R276). -/
def entriesOf (m : Option RulePlain) (lastRedacted : Bool) (inputMark : Option Nat) (h : Held) : List Nat :=
  match worst h.found with
  | 0 =>
    match inputMark with
    | some t => [streamEntry true false t h.token]
    | none => [streamEntry false false 0 h.token]
  | 1 => [streamEntry true false (markTag h.found) h.token]
  | _ =>
    if lastRedacted || redactLen m == 0 then [fillerEntry]
    else (replacement m).map (streamEntry false true 0)

/-- Records of at most n entries, all but the last with CONT (R227). -/
def recordCounts (n : Nat) : Nat → Nat → List (Nat × Bool)
  | 0, _ => []
  | fuel + 1, total =>
    if total == 0 then []
    else if total ≤ n then [(total, false)]
    else (n, true) :: recordCounts n fuel (total - n)

/-- Released tokens go to the sequence's stream: their entries join the token backlog and the records that take them are
bound for the STR ring (R276, R302). -/
def State.streamOut (s : State) (k : Nat) (toks : List TokBack) : State :=
  match s.live k with
  | some q =>
    let r := s.ring q.req.strRing
    if !(r.enable && r.kind == 2) then s
    else
      let total := sumNat (toks.map (fun t => t.entries.length))
      let s := s.onLive k (fun q => { q with backlog := q.backlog ++ toks })
      (recordCounts 18 total total).foldl (fun t c =>
        t.sendRecord q.req.strRing { kind := .stream k, data := c.1, cont := c.2 }) s
  | none => s

/-- One held token released: it leaves the hold buffer and makes its stream entries (R276). -/
def releaseToken (m : Option RulePlain) (due : Stamp) (h : Held) (q : Sequence) : TokBack × Sequence :=
  let es := entriesOf m q.lastRedacted q.inputMark h
  ({ entries := es, due := due },
   { q with
     hold := q.hold.filter (fun x => x.idx != h.idx), delivered := q.delivered + 1,
     lastRedacted := 1 < worst h.found, inputMark := none,
     groups := q.groups.filter (fun g => g.closed.isNone || q.hold.any (fun x => x.group == g.id && x.idx != h.idx)) })

/-- Held tokens released in position order at an instant. -/
def releaseAll (m : Option RulePlain) (due : Stamp) : List Held → Sequence → List TokBack × Sequence
  | [], q => ([], q)
  | h :: rest, q =>
    let t := releaseToken m due h q
    let u := releaseAll m due rest t.2
    (t.1 :: u.1, u.2)

/-- The held tokens of a list up to the first whose action is STOP. -/
def beforeStop : List Held → List Held
  | [] => []
  | h :: rest => if worst h.found == 3 then [] else h :: beforeStop rest

/-- A STOP at a release instant: it ends the sequence with SCREEN_STOP, or, after another end, discards what is still held
(R277). -/
def State.screenStops (s : State) (k : Nat) (at_ : Stamp) : State :=
  match s.live k with
  | some q =>
    if q.ended.isSome then (s.discardHeld k).count (fun c => { c with stopAfterEnd := c.stopAfterEnd + 1 })
    else (s.endSeq k .screenStop at_).count (fun c => { c with outputStops := c.outputStops + 1 })
  | none => s

/-- Ready held tokens of a sequence released at an instant, up to a STOP (R276, R277). -/
def State.releaseTokens (s : State) (k : Nat) (at_ : Stamp) (toks : List Held) : State :=
  match s.live k with
  | some q =>
    let m := s.verdictMap q.req.part
    let go := beforeStop toks
    let t := releaseAll m at_ go q
    let s := (s.onLive k (fun _ => t.2)).streamOut k t.1
    let s := s.count (fun c => { c with
      redacted := c.redacted + (go.filter (fun h => worst h.found == 2)).length,
      marked := c.marked + (go.filter (fun h => worst h.found == 1)).length })
    if go.length < toks.length then s.screenStops k at_ else s
  | none => s

/-- Total positions of a sequence's prompt, P of R210. -/
def Sequence.promptLen (q : Sequence) : Nat := q.handleLen + q.req.prompt.length + (q.packed.getD []).length

/-- Every prefill position is committed (R210). -/
def Sequence.prefilled (q : Sequence) : Bool := !q.awaitHandOver && q.promptLen ≤ q.committed + 1

/-- The request returns references only (R256). -/
def Request.resultOnly (r : Request) : Bool := match r.retr with | some x => x.resultOnly | none => false

/-- The first RESULT_N candidates as result entries, in the order of R252 (R256). -/
def resultEntries (r : Retr) (due : Stamp) (order : List Cand) : List ResBack :=
  ((order.take r.resultN).zipIdx).map (fun p =>
    { rank := p.2, ref := p.1.ref, score := p.1.rescore.getD p.1.score, reranked := p.1.rescore.isSome, due := due })

/-- The re-rank order (R252): re-ranked candidates by score descending, ties and NaN scores in candidate-list order, then the
candidates not re-ranked. -/
def rerankOrder (l : List Cand) : List Cand :=
  let live := l.filter (fun c => c.state != .dropped)
  let done := live.filter (fun c => c.rescore.isSome)
  let good := done.filter (fun c => !f32IsNan (c.rescore.getD 0))
  let nan := done.filter (fun c => f32IsNan (c.rescore.getD 0))
  sortBy (fun a b => f32Lt (b.rescore.getD 0) (a.rescore.getD 0)) good ++ nan ++ live.filter (fun c => c.rescore.isNone)

/-- PLAN_BOUND_BT has passed since the admission of a plan's request: one OVERRUN notice and its count (R258). -/
def State.planOverrun (s : State) (q : Sequence) (pl : Plan) (at_ : Stamp) : State :=
  match s.indexes.find? (fun x => x.id == pl.indexId) with
  | some x =>
    if q.admitAt.beat + ixBound x.desc < at_.beat then
      (s.raise s.mgr 0x04 0x5 0 x.part at_ (packMsb [(16, x.id), (64, q.admitAt.beat), (32, 0)])).count
        (fun c => { c with planOverruns := c.planOverruns + 1 })
    else s
  | none => s

/-- The result records of a RESULT_ONLY request whose plan has ended and whose verdict is released (R256). The request ends
with OK at that instant; its completion record follows the last result record. -/
def State.releaseResults (s : State) (k : Nat) (at_ : Stamp) : State :=
  match s.live k with
  | some q =>
    match q.plan, q.req.retr with
    | some pl, some r =>
      if !(r.resultOnly && q.released && pl.endedAt.isSome && q.ended.isNone) then s
      else
        let es := resultEntries r at_ (rerankOrder pl.cands)
        let s := s.planOverrun q pl at_
        let s := s.count (fun c => { c with plans := c.plans + 1 })
        let ring := s.ring q.req.strRing
        let s := if ring.enable && ring.kind == 2 then
            (recordCounts 4 es.length es.length).foldl (fun t c =>
              t.sendRecord q.req.strRing { kind := .result k, data := c.1, cont := c.2 })
              (s.onLive k (fun q => { q with results := q.results ++ es }))
          else s
        s.endSeq k .ok at_
    | _, _ => s
  | none => s

/-- A request with MAX_TOKENS 0 ends with OK at the release of its verdict, unless a save or keep waits for a commit point
(R210). -/
def State.endAtRelease (s : State) (k : Nat) (at_ : Stamp) : State :=
  match s.live k with
  | some q =>
    if q.ended.isNone && q.req.params.maxTokens == 0 && !q.req.resultOnly && q.released && q.prefilled
        && !((q.req.params.save && !q.saved) || q.req.params.keep) then s.endSeq k .ok at_
    else s
  | none => s

/-- An input verdict released at an instant (R273). -/
def State.releaseInput (s : State) (k : Nat) (at_ : Stamp) : State :=
  match s.live k with
  | some q =>
    let v := s.inputVerdict q
    let nan := nanFirings (s.verdictMap q.req.part) false q.verdict.scores
    let s := s.count (fun c => { c with inputVerdicts := c.inputVerdicts + 1, categoryNan := c.categoryNan + nan })
    let s := s.onLive k (fun q => { q with released := true, inputMark := if v.1 == 1 then some v.2 else none })
    if v.1 == 3 then (s.endSeq k .screenBlock at_).count (fun c => { c with inputBlocks := c.inputBlocks + 1 })
    else (s.releaseResults k at_).endAtRelease k at_
  | none => s

/-- The earliest release stamp at or before an instant among those not held back (R279). -/
def State.nextDue (s : State) (now : Stamp) : Option Stamp :=
  (s.reservedStamps.filter (fun a => !before now a)).foldl
    (fun acc a => match acc with | some b => if before a b then some a else some b | none => some a) none

/-- Input releases due at a stamp: released when ready, else late (R273, R280). -/
def State.inputAt (s : State) (k : Nat) (at_ : Stamp) : State :=
  match s.live k with
  | some q =>
    if q.released || q.ended.isSome || q.verdict.late || q.inDue != at_ then s
    else if s.inputReady q then s.releaseInput k at_
    else (s.onLive k (fun q => { q with verdict := { q.verdict with late := true } })).count
      (fun c => { c with lateIn := c.lateIn + 1 })
  | none => s

/-- The leading held tokens whose verdicts are ready. -/
def State.readyRun (s : State) (q : Sequence) : List Held → List Held
  | [] => []
  | h :: rest => if s.heldReady q h then h :: s.readyRun q rest else []

/-- Token releases due at a stamp: the leading ready tokens released, the rest held back, and each verdict that is not ready
counted (R276, R280). -/
def State.tokensAt (s : State) (k : Nat) (at_ : Stamp) : State :=
  match s.live k with
  | some q =>
    let due := q.hold.filter (fun h => h.due == at_ && !h.late)
    if due.isEmpty then s
    else
      let go := if q.hold.any (fun h => h.late) then [] else s.readyRun q due
      let wait := due.drop go.length
      let unready := wait.filter (fun h => !s.heldReady q h)
      let holdBack (h : Held) : Held :=
        if wait.any (fun w => w.idx == h.idx) then { h with late := true, own := unready.any (fun w => w.idx == h.idx) } else h
      let s := s.releaseTokens k at_ go
      let s := s.onLive k (fun q => { q with hold := q.hold.map holdBack })
      s.count (fun c => { c with lateOut := c.lateOut + unready.length })
  | none => s

/-- Every release due at a stamp, as one event: input releases first, then token releases, each in ascending live sequence
index (R279). -/
def State.releasesAt (s : State) (at_ : Stamp) : State :=
  let ks := s.seqs.map (·.1)
  let s := ks.foldl (fun t k => t.inputAt k at_) s
  let s := ks.foldl (fun t k => t.tokensAt k at_) s
  s.given at_

/-- RELEASE (R279): the releases due at the earliest stamp up to the present cycle. -/
def execRelease (cyc : Nat) (s : State) : Result :=
  match s.nextDue ⟨s.time.beat, cyc % 5000⟩ with
  | some a => onlyIf s.mgrUp (s.releasesAt a) s
  | none => .next s

/-- Beats by which a verdict was late. -/
def lateBy (due at_ : Stamp) : Nat := at_.beat - due.beat

/-- Beats by which the verdict on a held token was late: none where it only waited for an earlier token's (R280). -/
def heldLateBy (at_ : Stamp) (h : Held) : Nat := if h.own then h.readyAt.getD at_.beat - h.due.beat else 0

/-- A late input verdict that has become ready is released (R280). -/
def State.lateInputAt (s : State) (k : Nat) (at_ : Stamp) : State :=
  match s.live k with
  | some q =>
    if q.verdict.late && !q.released && q.ended.isNone && s.inputReady q then
      (s.count (fun c => { c with lateBeats := c.lateBeats + lateBy q.inDue at_ })).releaseInput k at_
    else s
  | none => s

/-- The late tokens of a sequence that have become ready are released, in order (R280). -/
def State.lateTokensAt (s : State) (k : Nat) (at_ : Stamp) : State :=
  match s.live k with
  | some q =>
    let go := s.readyRun q (q.hold.filter (·.late))
    if go.isEmpty then s
    else
      (s.count (fun c => { c with lateBeats := c.lateBeats + sumNat (go.map (heldLateBy at_)) })).releaseTokens k at_ go
  | none => s

/-- A held-back release has become ready (R280). -/
def State.lateReady (s : State) : Bool :=
  s.seqs.any (fun e => (e.2.verdict.late && !e.2.released && e.2.ended.isNone && s.inputReady e.2)
    || !(s.readyRun e.2 (e.2.hold.filter (·.late))).isEmpty)

/-- LATE_RELEASE (R279, R280): all late releases that fall in one cycle form one event. -/
def execLateRelease (cyc : Nat) (s : State) : Result :=
  let a := s.stampFor cyc
  let ks := s.seqs.map (·.1)
  onlyIf (s.mgrUp && s.lateReady)
    (let t := ks.foldl (fun t k => t.lateInputAt k a) s
     (ks.foldl (fun t k => t.lateTokensAt k a) t).given a) s

end Sys2Proof.Machine
end

