-- ==== Sys2Proof/Machine/Steps.lean ====
section
/-! DEFINITION. Serving loops and steps: step doorbells (R45, R301), the freeze (R46, R61, R181, R223, R239, R252, R273, R274,
R278, R303), the launch, staging allocation and abandonment (R65, R66), hangs (R71) and hub reports (R144). -/

namespace Sys2Proof.Machine

/-! Step doorbells. -/

/-- Every segment of a partition's mask has joined (R392). -/
def State.maskJoined (s : State) (p : Nat) : Bool := (maskBits 20 (s.part p).segMask).all s.serving

/-- A program holds a sweep with INT4 weights (R391). -/
def hasInt4 (img : ProgramImage) : Bool :=
  (img.slots.zip (continuation false img.slots)).any (fun d =>
    !d.2 && dType d.1 == 2 && (sweepWfmt d.1 == 1 || sweepWfmt d.1 == 2))

/-- A screen program of worst case `w` would raise SCREEN_MIN_BT above a committed delay (R262). -/
def State.screenTooSlow (s : State) (w : Nat) : Bool :=
  (s.parts.take 15).any (fun p => p.policy.dIn < 2 * w + 5 || p.policy.dOut < 2 * w + 5)

/-- A program of a partition by its identifier. -/
def Partition.program (p : Partition) (id : Nat) : Option Program := p.programs.find? (fun g => g.id == id)

/-- A LAUNCH is accepted (R301, R391). -/
def State.launchOk (s : State) (p : Nat) (c : Cls) (program : Nat) : Bool :=
  let q := s.part p
  match q.program program with
  | some g =>
    !(q.loop c).running && q.stopped.isNone && s.maskJoined p && g.image.cls == c && !(p == 15 && c == .be)
      && !(p == 15 && s.screenTooSlow g.wcet) && !(s.power.stage < 4 && hasInt4 g.image)
  | none => false

/-- A step launch entry refused (R301): OUTCOME REFUSED, status CLAMPED. -/
def State.refuseLaunch (s : State) (p : Nat) (c : Cls) (program : Nat) (e : Stamp) : State :=
  s.sendStepRecord p (stepRecord p c .refused (program % 65536) 0 0 e 0 0)

/-- A loop started by a LAUNCH: it first freezes at the first beat edge after the stamp, and after a wake (R301, R396). -/
def launched (program repeats : Nat) (e : Stamp) (wakeAt : Nat) (l : Loop) : Loop :=
  { l with running := true, programId := program, remaining := if repeats % 65536 == 0 then none else some (repeats % 65536),
           stopping := false, freezeAt := max (max l.freezeAt (e.beat + 1)) wakeAt }

/-- The beat edge before which nothing freezes after a wake event. -/
def SupplyG.heldUntil (p : SupplyG) : Nat := if p.hush == 2 then p.wakeAt else 0

/-- LAUNCH (R45, R301). -/
def execLaunch (cyc part : Nat) (cls : Cls) (program repeats : Nat) (s : State) : Result :=
  let e := s.stampFor cyc
  let t := s.given e
  onlyIf (s.mgrUp && s.unretired && part < 16)
    (if s.launchOk part cls program then t.onLoop part cls (launched program repeats e s.power.heldUntil)
     else t.refuseLaunch part cls program e) s

/-- STOP (R301): the loop ends at its next freeze; no effect on a loop that is not running. -/
def execStop (cyc part : Nat) (cls : Cls) (s : State) : Result :=
  let stop (l : Loop) : Loop := { l with stopping := l.stopping || l.running }
  onlyIf (s.mgrUp && s.unretired && part < 16) ((s.given (s.stampFor cyc)).onLoop part cls stop) s

/-- STEP_DOORBELL_RESERVED_OP (R18, R301). -/
def execStepDoorbellReservedOp (cyc part op : Nat) (cls : Cls) (program : Nat) (s : State) : Result :=
  let e := s.stampFor cyc
  onlyIf (s.mgrUp && s.unretired && part < 16 && op % 16 != 1 && op % 16 != 2) ((s.given e).refuseLaunch part cls program e) s

/-! What a freeze binds. -/

/-- Rows of retrieval or screen work on a segment, with the row lists that take them: retrieval rows stand whole in each of theirs, screen
rows fill the program's lists in turn (R239, R252, R274). -/
structure ExtraRows where
  seg : Nat := 0
  lists : List Nat := []
  rows : List RowEntry := []
  deriving DecidableEq, Repr

/-- What a freeze has bound so far and the rows it has left. -/
structure FreezeAcc where
  binds : List Bind := []
  /-- decode rows bound -/
  decode : Nat := 0
  /-- prefill rows bound -/
  prefill : Nat := 0
  /-- block sets reserved (R180) -/
  sets : Nat := 0
  /-- rows of retrieval and screen work -/
  extra : List ExtraRows := []
  deriving DecidableEq, Repr

/-- The bind of a sequence changed, or begun. -/
def onBind (k : Nat) (f : Bind → Bind) (l : List Bind) : List Bind :=
  if l.any (fun b => b.seq == k) then l.map (fun b => if b.seq == k then f b else b) else l ++ [f { seq := k }]

/-- The least of the positive slot counts of a program's templates. -/
def leastSlots (count : RowTmpl → Nat) (img : ProgramImage) : Nat :=
  ((img.rowLists.map count).filter (0 < ·)).foldl (fun acc n => if acc == 0 then n else min acc n) 0

/-- Decode rows that a step of a program can bind (R52, R60). -/
def decodeRows (img : ProgramImage) : Nat := min img.decodeMax (leastSlots tmplDecode img)

/-- Prefill slots of a program's templates taken together, which screen work fills one list after another (R274). -/
def slotRows (img : ProgramImage) : Nat := sumNat (img.rowLists.map tmplPrefill)

/-- The pass target of a step (R61). -/
def State.passTarget (s : State) (p : Nat) (img : ProgramImage) : Nat :=
  if img.passTarget != 0 then img.passTarget
  else if (s.part p).passTarget != 0 then (s.part p).passTarget
  else s.glob.passDefault

/-- A tenant's level is exhausted for a class (R223). -/
def exhausted (c : Cls) (t : Tenant) : Bool :=
  match c with
  | .be => t.level ≤ 0
  | .lc => t.level ≤ -(256 * (t.overdraft : Int))

/-- One sequence paused for its budget at a freeze (R223); its cache begins its dim write (R196). -/
def State.pauseBudget (s : State) (k : Nat) : State :=
  match s.live k with
  | some q =>
    let s := (s.onLive k (fun q => { q with pausedBudget := some ⟨s.time.beat, k⟩, resumable := false })).count
      (fun c => { c with budgetPauses := c.budgetPauses + 1 })
    if q.tier == .bright && q.moving.isNone && !q.dimAsked && 0 < q.committed then s.beginDimWrite (.seq k) else s
  | none => s

/-- The sequences of a loop: live, not ended, in ascending index. -/
def State.loopSeqs (s : State) (p : Nat) (c : Cls) : List (Nat × Sequence) :=
  s.seqs.filter (fun e => e.2.req.part == p && e.2.req.cls == c && e.2.ended.isNone)

/-- Budget pauses of a freeze: not before a sequence's hand-over (R223, R255). -/
def State.pauseBudgets (s : State) (p : Nat) (c : Cls) : State :=
  ((s.loopSeqs p c).filter (fun e =>
      e.2.pausedBudget.isNone && !e.2.awaitHandOver && !e.2.req.resultOnly && exhausted c (s.tenant e.2.req.tenant))).foldl
    (fun t e => t.pauseBudget e.1) s

/-- The entry a sequence was admitted against is bright (R197). -/
def State.entryBright (s : State) (q : Sequence) : Bool :=
  match q.entry with
  | some e => ((s.entry e).getD {}).tier != .dim
  | none => true

/-- A sequence's cache can be read: nothing of it is still to be fetched or copied (R187, R197). -/
def State.cacheReady (s : State) (q : Sequence) : Bool :=
  q.tier != .dim && q.moving != some .fetch && !q.copyPending && s.entryBright q

/-- A sequence may be bound in a step of its loop. -/
def State.bindable (s : State) (q : Sequence) : Bool :=
  q.ended.isNone && !q.paused && !q.req.resultOnly && s.cacheReady q

/-- A root of the sequence may be bound (R210). -/
def State.rootReady (s : State) (q : Sequence) : Bool :=
  s.bindable q && q.released && q.prefilled && 0 < q.req.params.maxTokens && 0 < q.promptLen

/-- Earlier in the binding order of roots (R61). -/
def rootAbove (a b : Nat × Sequence) : Bool :=
  match a.2.rooted, b.2.rooted with
  | none, some _ => true
  | some _, none => false
  | none, none => before a.2.admitAt b.2.admitAt
  | some x, some y => x < y || (x == y && before a.2.admitAt b.2.admitAt)

/-- The token a root carries: the last token, or the prompt's token at the committed length (R210). -/
def rootToken (q : Sequence) : Nat :=
  if q.outputs.isEmpty then
    let all := q.req.prompt ++ q.packed.getD []
    if q.handleLen ≤ q.committed then all.getD (q.committed - q.handleLen) q.lastToken else q.lastToken
  else q.outputs.getLastD 0

/-- The highest position a sequence's rows may take (R181). -/
def State.positionLimit (s : State) (q : Sequence) : Nat :=
  match (s.part q.req.part).target with
  | some m => min 65535 (m.contextMax - 1)
  | none => 65535

/-- The tree a freeze binds of a sequence with a number of rows left (R216, R217). -/
def State.treeFor (s : State) (verify : Bool) (rows : Nat) (q : Sequence) : List BoundNode :=
  let t := (s.part q.req.part).templates.getD q.req.params.template rootAlone
  let limit := s.positionLimit q - q.committed
  if verify && q.speculate then boundTree t rows limit (rootToken q) else boundTree rootAlone rows limit (rootToken q)

/-- The hold buffers have no room for what a bound tree may draw (R278, R303). -/
def State.holdShort (s : State) (q : Sequence) (nodes : List BoundNode) : Bool :=
  let need := treeDepth nodes + 1
  256 < q.hold.length + tokensIn q.backTokens + need || 262144 < s.heldAll + need

/-- The save of a request could be made by a step that takes the committed length up by a number of rows (R188). -/
def saveReachable (q : Sequence) (rows : Nat) : Bool :=
  q.req.params.save && !q.saved && q.req.params.saveLen ≤ q.committed + rows

/-- A reservation of block sets at a freeze, after reclaim (R180, R199, R200). -/
def State.reserveSets (s : State) (p sets pages : Nat) (a : FreezeAcc) : Bool × State :=
  if 2048 < a.sets + sets then (false, s)
  else if pages == 0 then (true, s)
  else
    let s := s.reclaim (a.binds.map (·.seq)) p pages
    if pages ≤ (s.part p).poolFree then (true, s.takePages p pages) else (false, s)

/-- The save copy of a sequence reserved where the step could make the save; a failure binds the sequence all the same
(R188). -/
def State.reserveSave (s : State) (p k rows : Nat) (q : Sequence) (a : FreezeAcc) : FreezeAcc × State :=
  if saveReachable q rows && q.req.params.saveLen % 64 != 0 && !q.saveBlock then
    let t := s.reserveSets p 1 ((s.part p).setPages q.speculate) a
    if t.1 then
      ({ a with sets := a.sets + 1, binds := onBind k (fun b => { b with saveBlock := true }) a.binds },
       t.2.onLive k (fun q => { q with saveBlock := true }))
    else (a, t.2)
  else (a, s)

/-- One root, with its tree, bound at a freeze (R61, R181, R199), unless an earlier reservation has just paused its sequence (R200). -/
def State.bindRoot (p rows launchNo : Nat) (verify : Bool) (acc : FreezeAcc × State) (k : Nat) : FreezeAcc × State :=
  let a := acc.1
  let s := acc.2
  match s.live k with
  | some q =>
    if rows ≤ a.decode || !s.rootReady q then acc
    else if s.positionLimit q < q.committed then acc
    else
      let nodes := s.treeFor verify (rows - a.decode) q
      if s.holdShort q nodes then (a, s.count (fun c => { c with holdDefers := c.holdDefers + 1 }))
      else
        let new := missingBlocks q q.committed (q.committed + nodes.length)
        let r := s.reserveSets p new.length (new.length * (s.part p).setPages q.speculate) a
        if !r.1 then (a, r.2.count (fun c => { c with decodeDefers := c.decodeDefers + 1 }))
        else
          let s := (r.2.giveBlocks (.seq k) new).onLive k (fun q => { q with
            ownBlocks := new.foldl (fun l b => insertNat b l) q.ownBlocks, rooted := some launchNo, steps := q.steps + 1 })
          let a := { a with decode := a.decode + nodes.length, sets := a.sets + new.length,
                            binds := onBind k (fun b => { b with nodes := nodes, reserved := new }) a.binds }
          s.reserveSave p k nodes.length q a
  | none => acc

/-- Positions of prefill that a sequence still has, in order: up to its last prefill position (R210, R255). -/
def Sequence.prefillLeft (q : Sequence) : Nat := q.promptLen - 1 - q.committed

/-- One prefill chunk bound (R61), unless its sequence has just been paused (R200). -/
def State.bindPrefill (p rows : Nat) (acc : FreezeAcc × State) (k : Nat) : FreezeAcc × State :=
  let a := acc.1
  let s := acc.2
  match s.live k with
  | some q =>
    let n := min q.prefillLeft (rows - a.prefill)
    if n == 0 || !s.bindable q then acc
    else
      let a := { a with prefill := a.prefill + n,
                        binds := onBind k (fun b => { b with prefillFrom := q.committed, prefill := n }) a.binds }
      s.reserveSave p k n q a
  | none => acc

/-- A save that waits for a commit point of its loop, of a sequence with no row bound, paused or not (R188, R210). -/
def State.bindSave (p : Nat) (acc : FreezeAcc × State) (k : Nat) : FreezeAcc × State :=
  match acc.2.live k with
  | some q => if acc.1.binds.any (fun b => b.seq == k) then acc else acc.2.reserveSave p k 0 q acc.1
  | none => acc

/-- Rows taken by retrieval or screen work on a segment. -/
def FreezeAcc.extraOn (a : FreezeAcc) (seg : Nat) : Nat :=
  sumNat ((a.extra.filter (fun x => x.seg == seg)).map (fun x => x.rows.length))

/-- Rows taken by retrieval work in one row list on a segment. -/
def FreezeAcc.extraIn (a : FreezeAcc) (seg list : Nat) : Nat :=
  sumNat ((a.extra.filter (fun x => x.seg == seg && x.lists.contains list)).map (fun x => x.rows.length))

/-- Rows placed in row lists of a segment. -/
def FreezeAcc.place (a : FreezeAcc) (seg : Nat) (lists : List Nat) (rows : List RowEntry) : FreezeAcc :=
  { a with extra := a.extra ++ [{ seg := seg, lists := lists, rows := rows }] }

/-- The row lists of a program that sweeps of a model stream: those that a sweep names whose TABLE is a rescale table of the model's
image (R55, R60, R120). -/
def State.listsOf (s : State) (p model : Nat) (img : ProgramImage) : List Nat :=
  let tables := match (s.part p).model model with
    | some m => m.tables.map (fun (t : RTable) => t.num)
    | none => []
  (((img.slots.zip (continuation false img.slots)).filter (fun w => !w.2 && dType w.1 == 2 && tables.contains (sweepTable w.1))).map
    (fun w => sweepRowList w.1)).eraseDups

/-- Prefill slots of row lists of a segment take so many rows more, whole in every list (R239, R252). -/
def FreezeAcc.fits (a : FreezeAcc) (img : ProgramImage) (seg : Nat) (lists : List Nat) (n : Nat) : Bool :=
  !lists.isEmpty && lists.all (fun r => a.prefill + a.extraIn seg r + n ≤ tmplPrefill (img.rowLists.getD r {}))

/-- Prefill-kind rows of a sequence at positions `from_` on (R239, R252). -/
def pieceRows (k from_ n : Nat) : List RowEntry :=
  (List.range n).map (fun i => { masked := false, kind := 3, seq := k, pos := from_ + i })

/-- The segment that takes item `i` of a partition's segments (R239, R251). -/
def State.placeSeg (s : State) (p i : Nat) : Nat :=
  let l := s.partSegs p
  l.getD (i % max 1 l.length) 0

/-- A LUT store slot is free on every segment of a partition (R232, R237). -/
def State.lutFree (s : State) (p : Nat) : Bool := (s.partSegs p).all (fun i => (s.seg i).lutUsed.length < 512)

/-- The index of a plan, by its descriptor (R231). -/
def State.planDesc (s : State) (q : Sequence) : Nat :=
  match q.plan with
  | some pl => match s.indexes.find? (fun x => x.id == pl.indexId) with
    | some x => x.desc
    | none => 0
  | none => 0

/-- Stage E of one request bound, its rows whole in the encoder's row lists of its segment (R237, R239); a stage that repeats still holds
its LUT store slots (R257). -/
def State.bindStageE (p : Nat) (img : ProgramImage) (acc : FreezeAcc × State) (k : Nat) : FreezeAcc × State :=
  let a := acc.1
  let s := acc.2
  match s.live k with
  | some q =>
    let n := (queryTokens q.req).length
    let seg := s.placeSeg p k
    let held := (s.partSegs p).all (fun i => (s.seg i).lutUsed.contains k)
    let lists := s.listsOf p (ixEncoder (s.planDesc q)) img
    if !(held || s.lutFree p) || !a.fits img seg lists n then acc
    else
      let s := (s.partSegs p).foldl (fun t i => t.onSeg i (fun g => { g with lutUsed := insertNat k g.lutUsed })) s
      let s := s.onLive k (fun q => { q with plan := q.plan.map (fun pl => { pl with stage := .inE }) })
      ({ (a.place seg lists (pieceRows k 0 n)) with binds := onBind k (fun b => { b with stageE := true }) a.binds }, s)
  | none => acc

/-- The candidates of a plan that are still to be re-ranked, by place in the candidate list (R252). -/
def rerankLeft (n : Nat) (pl : Plan) : List Nat :=
  (((pl.cands.take n).zipIdx).filter (fun c => c.1.state == .stored && c.1.rescore.isNone && !c.1.bound)).map (·.2)

/-- Candidates bound in their order while the re-rank slots of their segments last (R252). -/
def State.bindCands (s : State) (p : Nat) (img : ProgramImage) (lists : List Nat) (k rows : Nat) : List Nat → FreezeAcc → List Nat × FreezeAcc
  | [], a => ([], a)
  | i :: rest, a =>
    let seg := s.placeSeg p i
    if !a.fits img seg lists rows then ([], a)
    else
      let order := i / max 1 (s.partSegs p).length
      let t := s.bindCands p img lists k rows rest (a.place seg lists (pieceRows k (order * rows) rows))
      (i :: t.1, t.2)

/-- Stage R of one request bound as far as the slots go (R252). -/
def State.bindStageR (p : Nat) (img : ProgramImage) (acc : FreezeAcc × State) (k : Nat) : FreezeAcc × State :=
  let a := acc.1
  let s := acc.2
  match s.live k with
  | some q =>
    match q.plan, q.req.retr with
    | some pl, some r =>
      let d := s.planDesc q
      let t := s.bindCands p img (s.listsOf p (ixRerank d) img) k (ixRerankTokens d) (rerankLeft r.rerankN pl) a
      if t.1.isEmpty then acc
      else
        let mark (c : Cand × Nat) : Cand := if t.1.contains c.2 then { c.1 with bound := true } else c.1
        let s := s.onLive k (fun q => { q with plan := some { pl with stage := .inR, cands := pl.cands.zipIdx.map mark } })
        ({ t.2 with binds := onBind k (fun b => { b with rerank := t.1 }) t.2.binds }, s)
    | _, _ => acc
  | none => acc

/-- Plans of a retrieval partition and class that wait for a stage, in admission order. -/
def State.plansAt (s : State) (p : Nat) (c : Cls) (stage : PlanStage) : List Nat :=
  let l := s.seqs.filter (fun e => e.2.ended.isNone && e.2.req.cls == c &&
    (match e.2.plan with | some pl => pl.part == p && pl.stage == stage | none => false))
  (sortBy (fun (a b : Nat × Sequence) => before a.2.admitAt b.2.admitAt) l).map (·.1)

/-! Screen work. -/

/-- The output groups that wait for the screen loop, in order of closing, ties by live sequence index (R274). -/
def State.groupsWaiting (s : State) : List (Nat × Group) :=
  let l := s.seqs.flatMap (fun e =>
    if (s.part e.2.req.part).policy.outClassifier == 0xFFFF then []
    else (e.2.groups.filter (fun g => !g.bound && !g.classified && g.closed.isSome)).map (fun g => (e.1, g)))
  sortBy (fun (a b : Nat × Group) => before (a.2.closed.getD {}) (b.2.closed.getD {})) l

/-- The requests whose next input chunk waits for the screen loop, in order of admission (R273, R274). -/
def State.chunksWaiting (s : State) : List (Nat × Sequence) :=
  sortBy (fun (a b : Nat × Sequence) => before a.2.admitAt b.2.admitAt)
    (s.seqs.filter (fun e => e.2.ended.isNone && !e.2.released && !e.2.verdict.bound && e.2.verdict.chunks < s.chunkCount e.2.req))

/-- Screen work may be bound on a segment: it serves, and no unit of its screen region is being copied (R356). -/
def State.screens (s : State) (seg : Nat) : Bool := s.serving seg && !(s.seg seg).stack.screenCopy

/-- One output group bound: its window is the last 128 output tokens up to the group's last (R270, R274). -/
def State.bindGroup (cap : Nat) (acc : FreezeAcc × State) (w : Nat × Group) : FreezeAcc × State :=
  match acc.2.live w.1 with
  | some q =>
    let n := min 128 (w.2.lastIdx + 1)
    if cap < acc.1.extraOn q.screenSeg + n || !acc.2.screens q.screenSeg then acc
    else
      let a := acc.1.place q.screenSeg [] (pieceRows w.1 (w.2.lastIdx + 1 - n) n)
      ({ a with binds := onBind w.1 (fun b => { b with groups := b.groups ++ [w.2.id] }) a.binds },
       acc.2.onLive w.1 (fun q => { q with groups := q.groups.map (fun g => if g.id == w.2.id then { g with bound := true } else g) }))
  | none => acc

/-- One input chunk bound (R273). -/
def State.bindChunk (cap : Nat) (acc : FreezeAcc × State) (w : Nat × Sequence) : FreezeAcc × State :=
  let j := w.2.verdict.chunks
  let n := min 16384 ((acc.2.classifiedTokens w.2.req).length - 16384 * j)
  if cap < acc.1.extraOn w.2.screenSeg + n || !acc.2.screens w.2.screenSeg then acc
  else
    let a := acc.1.place w.2.screenSeg [] (pieceRows w.1 (16384 * j) n)
    ({ a with binds := onBind w.1 (fun b => { b with chunk := some j }) a.binds },
     acc.2.onLive w.1 (fun q => { q with verdict := { q.verdict with bound := true } }))

/-! Row lists. -/

/-- The rows of a bound sequence's roots, or of its other nodes (R60, R61). -/
def decodeEntries (roots : Bool) (len : Nat) (b : Bind) : List RowEntry :=
  (b.nodes.filter (fun n => (n.node == 0) == roots)).map (fun n =>
    { masked := false, kind := if roots then 1 else 2, seq := b.seq, node := n.node, pos := len + n.node })

/-- The rows of a bound prefill chunk. -/
def prefillEntries (b : Bind) : List RowEntry := pieceRows b.seq b.prefillFrom b.prefill

/-- Slots filled in order with rows, the rest masked; each slot keeps its compiled address (R60, R61). -/
def fillSlots : List RowEntry → List RowEntry → List RowEntry
  | [], _ => []
  | t :: rest, [] => { t with masked := true } :: fillSlots rest []
  | t :: rest, r :: rows => { r with addr := t.addr } :: fillSlots rest rows

/-- One row list as a freeze fills it (R61). -/
def fillTemplate (decode prefill : List RowEntry) (t : RowTmpl) : List RowEntry :=
  let all := t.entries.map rowEntry
  let f := tmplFixed t
  let d := tmplDecode t
  all.take f ++ fillSlots ((all.drop f).take d) decode ++ fillSlots ((all.drop (f + d)).take (tmplPrefill t)) prefill

/-- The row lists of a screen step: the rows fill one list after another (R274). -/
def fillInTurn : List RowTmpl → List RowEntry → List (List RowEntry)
  | [], _ => []
  | t :: rest, rows => fillTemplate [] (rows.take (tmplPrefill t)) t :: fillInTurn rest (rows.drop (tmplPrefill t))

/-- The row lists of a step with the rows placed beside the common ones: each list takes those that are its own; screen rows fill one list
after another (R61, R239, R252, R274, log entry 27). -/
def State.fillLists (s : State) (img : ProgramImage) (binds : List Bind) (extra : List ExtraRows) : List (List RowEntry) :=
  let len (b : Bind) : Nat := ((s.live b.seq).getD {}).committed
  let decode := binds.flatMap (fun b => decodeEntries true (len b) b) ++ binds.flatMap (fun b => decodeEntries false (len b) b)
  let prefill := binds.flatMap prefillEntries
  let own (r : Nat) : List RowEntry := (extra.filter (fun x => x.lists.contains r)).flatMap (·.rows)
  if img.part == 15 then fillInTurn img.rowLists (extra.flatMap (·.rows))
  else img.rowLists.zipIdx.map (fun x => fillTemplate decode (prefill ++ own x.2) x.1)

/-! The freeze. -/

/-- What the freeze of a generation or retrieval loop binds (R59, R61, R239, R252). DESIGN CHOICE, log entry 27: where row lists have
different numbers of decode slots, or of prefill slots, as many rows bind as the list with the fewest, of those that have any, takes. -/
def State.bindAll (s : State) (p : Nat) (c : Cls) (img : ProgramImage) : FreezeAcc × State :=
  let roots := if img.draw && img.advance then
      (sortBy rootAbove ((s.loopSeqs p c).filter (fun e => s.rootReady e.2))).map (·.1)
    else []
  let acc := roots.foldl (State.bindRoot p (decodeRows img) s.time.launchNo img.verify) ({}, s)
  let rows := min (min 4096 (s.passTarget p img) - acc.1.decode) (leastSlots tmplPrefill img)
  let fills := if img.advance then
      (sortBy (fun (a b : Nat × Sequence) => before a.2.admitAt b.2.admitAt)
        ((s.loopSeqs p c).filter (fun e => s.bindable e.2))).map (·.1)
    else []
  let acc := fills.foldl (State.bindPrefill p rows) acc
  let acc := ((s.loopSeqs p c).map (·.1)).foldl (State.bindSave p) acc
  let acc := (s.plansAt p c .waitE).foldl (State.bindStageE p img) acc
  (s.plansAt p c .waitR ++ s.plansAt p c .inR).foldl (State.bindStageR p img) acc

/-- What the freeze of the screen loop binds (R274). -/
def State.bindScreen (s : State) (img : ProgramImage) : FreezeAcc × State :=
  let cap := slotRows img
  let acc := s.groupsWaiting.foldl (State.bindGroup cap) ({}, s)
  s.chunksWaiting.foldl (State.bindChunk cap) acc

/-! Tree records. -/

/-- The low 16 bytes of a kernel's argument block (R163). -/
def argHeader (m : Memory) (w : Nat) : Nat := memReadWord (memPart m (kernelArg w * 64) 16) 0 16

/-- A tree record (R169): one byte a node, PRESENT and PARENT. -/
def treeRecord (nodes : List BoundNode) : List Nat :=
  (List.range 64).map (fun n => match nodes.find? (fun b => b.node == n) with
    | some b => 128 + b.parent % 64
    | none => 0)

/-- The tree records of one kernel's step written into its argument block (R169): at TREE_OFF and 64 bytes for each entry of the
kernel's sequence table; none where the header names no tree records or no sequence table (R163). -/
def writeTrees (binds : List Bind) (w : Nat) (m : Memory) : Memory :=
  let h := argHeader m w
  let block := memReadBytes (memPart m (kernelArg w * 64) (kernelArgLen w * 64)) 0 (kernelArgLen w * 64)
  if bits 127 112 h != 0x4B41 || bits 63 48 h == 0 || bits 79 64 h == 0 then m
  else (binds.filter (fun b => 1 < b.nodes.length)).foldl (fun m b =>
    let a := (kernelArg w + bits 63 48 h + Config.seqEntry block b.seq) * 64
    if a + 64 ≤ stagingBytes then memWriteBytes m a (treeRecord b.nodes) else m) m

/-- The kernel descriptors of a program. -/
def kernelSlots (img : ProgramImage) : List Nat :=
  ((img.slots.zip (continuation false img.slots)).filter (fun d => !d.2 && dType d.1 == 3)).map (·.1)

/-- The tree records of a step written into staging SRAM at its freeze, for each of its kernels (R169). -/
def freezeTrees (img : ProgramImage) (binds : List Bind) (g : Segment) : Segment :=
  { g with staging := (kernelSlots img).foldl (fun m w => writeTrees binds w m) g.staging }

/-- What a step's segments are given of a sequence bound: its committed length and its tree (R169, R170), its blocks, and the KV
entries that the segment holds of it, its own and those it shares (R176, R178). -/
def State.segBind (s : State) (i : Nat) (b : Bind) : SegBind :=
  let q := (s.live b.seq).getD {}
  { seq := b.seq, len := q.committed, nodes := b.nodes, from_ := b.prefillFrom, prefill := b.prefill, blocks := s.blocksOf i (.seq b.seq),
    kv := (s.prefixKv q q.committed).filter (fun e => e.seg == i) }

/-- A frozen step given to the manager and to each participating segment (R46). -/
def State.sendLaunch (s : State) (p : Nat) (c : Cls) (g : Program) (a : FreezeAcc) : State :=
  let n := s.time.launchNo
  let step : StepS :=
    { prog := g, launchNo := n, launch := s.time.beat + 1, binds := a.binds, rowLists := s.fillLists g.image a.binds [],
      bound := a.binds.length, segs := if p == 15 then s.servingSegs else [] }
  let part (i : Nat) : SegStep :=
    { part := p, cls := c, launchNo := n, bound := a.binds.map (s.segBind i),
      rowLists := (s.fillLists g.image a.binds (a.extra.filter (fun x => x.seg == i))).map (fun l => { entries := l }) }
  let segs := s.stepSegs p g.image
  let join (i : Nat) (sg : Segment) : Segment := { freezeTrees g.image a.binds sg with steps := sg.steps ++ [part i] }
  let s := (s.controlAll segs).onSegs (fun i sg => if segs.contains i && s.serving i then join i sg else sg)
  let s := s.onLoop p c (fun l => { l with step := some step, remaining := l.remaining.map (· - 1) })
  { s with time := { s.time with launchNo := (n + 1) % 2 ^ 32 } }

/-- The place of a loop in the order of freezes at one edge: partitions ascending, LC before BE (R199). -/
def freezeRank (p : Nat) (c : Cls) : Nat := 2 * p + clsBit c + 1

/-- A freeze of a loop falls at the present edge (R50, R144, R199). -/
def State.freezeDue (s : State) (p : Nat) (c : Cls) : Bool :=
  let l := (s.part p).loop c
  s.mgrServes && p < 16 && s.time.edgePhase == 1 && s.time.edgeRank < freezeRank p c && l.running && l.step.isNone
    && l.clearing.isEmpty && l.freezeAt ≤ s.time.beat

/-- The freeze of a running loop (R46); copied pages of retiring channels replace the originals first (R357). -/
def State.freeze (s : State) (p : Nat) (c : Cls) (g : Program) : State :=
  let s := s.replaceCopies p c
  let s := if p == 15 then s else s.pauseBudgets p c
  let r := if p == 15 then s.bindScreen g.image else s.bindAll p c g.image
  r.2.sendLaunch p c g r.1

/-- FREEZE (R46). A loop that a STOP has reached ends instead (R301). -/
def execFreeze (part : Nat) (cls : Cls) (s : State) : Result := underForce (fun s =>
  let l := (s.part part).loop cls
  let t := { s with time := { s.time with edgeRank := freezeRank part cls } }
  match (s.part part).program l.programId with
  | some g =>
    onlyIf (s.freezeDue part cls)
      (if l.stopping then t.onLoop part cls stoppedLoop else t.freeze part cls g) s
  | none => .next s) s

/-- STEP_LAUNCH (R46): edge L has come. -/
def execStepLaunch (part : Nat) (cls : Cls) (s : State) : Result :=
  match s.stepOf part cls with
  | some st =>
    let go (t : SegStep) : SegStep := if t.part == part && t.cls == cls then { t with launched := true } else t
    onlyIf (!st.launched && st.launch ≤ s.time.beat)
      ((s.onStep part cls (fun st => { st with launched := true })).onSegs (fun _ g => { g with steps := g.steps.map go })) s
  | none => .next s

/-! Segments' parts of steps. -/

/-- A segment's part of a step. -/
def Segment.stepHere (g : Segment) (p : Nat) (c : Cls) : Option SegStep := g.steps.find? (fun t => t.part == p && t.cls == c)

/-- A segment's part of a step changed. -/
def Segment.onStep (g : Segment) (p : Nat) (c : Cls) (f : SegStep → SegStep) : Segment :=
  { g with steps := g.steps.map (fun t => if t.part == p && t.cls == c then f t else t) }

/-- The segment with other contents of its stack. -/
def Segment.withStack (g : Segment) (m : Memory) : Segment := { g with stack := { g.stack with mem := m } }

/-- A step keeps what a run of its segment's stack holds, which it is about to write (R49, R167). -/
def keepRun (p : Nat) (c : Cls) (a n : Nat) (g : Segment) : Segment :=
  g.onStep p c (fun t => { t with undo := t.undo ++ [(a, n, memPart g.stack.mem a n)] })

/-- The state with a segment's part of a step changed. -/
def State.onSegStep (s : State) (i p : Nat) (c : Cls) (f : SegStep → SegStep) : State := s.onSeg i (fun g => g.onStep p c f)

/-- A segment's part of a step that has launched and goes on. -/
def Segment.runs (g : Segment) (p : Nat) (c : Cls) : Bool :=
  match g.stepHere p c with
  | some t => t.launched && !t.abandoning && !t.committed && g.state == .serving
  | none => false

/-- Every descriptor before the commit descriptor has completed on a segment (R59). -/
def allDone (img : ProgramImage) (t : SegStep) : Bool :=
  let d := (img.slots.zip (continuation false img.slots)).zipIdx
  d.all (fun x => x.1.2 || dType x.1.1 == 1 || dType x.1.1 == 5 || t.done.contains x.2)

/-- The larger of two exponents recorded for a stream (R137). -/
def joinMax (l : List (Nat × Int)) (e : Nat × Int) : List (Nat × Int) :=
  match aGet e.1 l with
  | some x => aSet e.1 (max x e.2) l
  | none => aSet e.1 e.2 l

/-- A segment's report with its commit descriptor reached: the largest exponents and escapes of its hub, and what its
retrieval and screen rows gave (R59, R137, R238). -/
def takeReport (seg : Nat) (streams : List Nat) (h : Hub) (reports : List StageReport) (st : StepS) : StepS :=
  { st with reports := insertNat seg st.reports,
            eMax := (h.eMax.filter (fun e => streams.contains e.1)).foldl joinMax st.eMax,
            escaped := (h.escaped.filter streams.contains).foldl (fun l k => insertNat k l) st.escaped,
            stage := st.stage ++ reports }

/-- Every window of a bound input chunk, and every bound output group, has its 16 scores (R270, R274). -/
def State.scoresWhole (s : State) (l : List StageReport) (b : Bind) : Bool :=
  let window (i : Nat) : Bool := l.any (fun r => match r with
    | .chunk k w sc => k == b.seq && w == i && sc.length == 16
    | _ => false)
  let group (n : Nat) : Bool := l.any (fun r => match r with
    | .group k g sc => k == b.seq && g == n && sc.length == 16
    | _ => false)
  let chunk : Bool := match b.chunk with
    | some j => (List.range (s.chunkWindows ((s.live b.seq).getD {}).req j)).all window
    | none => true
  chunk && b.groups.all group

/-- With a segment's reports every segment has reported, and what the step is to score is scored; or segments are still to report. -/
def State.reportsWhole (s : State) (seg p : Nat) (st : StepS) (reports : List StageReport) : Bool :=
  !((s.stepSegs p st.prog.image).all (fun i => i == seg || st.reports.contains i))
    || st.binds.all (s.scoresWhole (st.stage ++ reports))

/-- COMMIT_DESCRIPTOR_REACHED (R59); a screen step reaches it with the scores of every window and group bound (R270). -/
def execCommitDescriptorReached (seg part : Nat) (cls : Cls) (reports : List StageReport) (s : State) : Result :=
  let g := s.seg seg
  match s.stepOf part cls, g.stepHere part cls with
  | some st, some t =>
    let streams := programStreams st.prog.image
    onlyIf (g.runs part cls && st.abandoned.isNone && allDone st.prog.image t && s.reportsWhole seg part st reports)
      (((s.control seg s.mgr).onSegStep seg part cls (fun t => { t with committed := true })).onStep part cls
        (takeReport seg streams g.hub reports)) s
  | _, _ => .next s

/-- The inputs of a segment's hub are clear of the frames of a loop's streams: none is on a link toward it, and none is on its way to
it or waits in it (R144). -/
def State.hubClear (s : State) (seg p : Nat) (c : Cls) : Bool :=
  let of (f : Frame) : Bool := streamPart f.stream == p && streamCls f.stream == c
  (List.range s.segs.length).all (fun j =>
    let h := (s.seg j).hub
    h.tx.all (fun t => !(of t.frame && (t.frame.dest == seg || neighbour s.segs.length j t.dir == some seg)))
      && h.rerouting.all (fun x => !(of x.frame && x.frame.dest == seg)))
    && (s.seg seg).hub.waiting.all (fun x => !of x.frame)

/-- HUB_CLEAR_REPORT (R144). -/
def execHubClearReport (seg part : Nat) (cls : Cls) (s : State) : Result :=
  onlyIf (part < 16 && ((s.part part).loop cls).clearing.contains seg && s.hubClear seg part cls)
    ((s.control seg s.mgr).onLoop part cls (fun l => { l with clearing := l.clearing.filter (· != seg) })) s

/-- The edge by which a step must have reached its commit point (R71). -/
def State.hangEdge (s : State) (st : StepS) : Nat := st.launch + st.prog.wcet * s.glob.hangFactor

/-- STEP_HANG (R71). -/
def execStepHang (part : Nat) (cls : Cls) (s : State) : Result := underForce (fun s =>
  match s.stepOf part cls with
  | some st =>
    let e : Stamp := ⟨s.hangEdge st, 0⟩
    onlyIf (s.mgrUp && st.abandoned.isNone && s.hangEdge st ≤ s.time.beat)
      ((s.given e).discardStep part cls .hung .stepLost e) s
  | none => .next s) s

/-! Staging SRAM. -/

/-- Units of 256 bytes in a segment's staging SRAM. -/
def stagingUnits : Nat := 393216

/-- The LC floors on a segment: of the partition that owns it and of the screen partition (R65). -/
def State.floorUnits (s : State) (p : Nat) : Nat := (s.part p).lcFloor * 4096

/-- The partition that owns a segment, if any. -/
def State.ownerOf (s : State) (seg : Nat) : Option Nat :=
  (List.range 15).find? (fun p => (s.part p).segMask.testBit seg)

/-- Units of the shared region of a segment (R65). -/
def State.sharedUnits (s : State) (seg : Nat) : Nat :=
  stagingUnits - s.floorUnits 15 - (match s.ownerOf seg with | some p => s.floorUnits p | none => 0)

/-- Units of a partition's floor that its allocations use on a segment. -/
def Segment.floorUsed (g : Segment) (p : Nat) : Nat :=
  sumNat ((g.allocs.filter (fun a => a.part == p)).map (fun a => a.units - a.shared))

/-- Units of the shared region in use on a segment. -/
def Segment.sharedUsed (g : Segment) : Nat := sumNat (g.allocs.map (·.shared))

/-- What an allocation takes from the shared region: all of it for BE, what the floor does not hold for LC (R65). -/
def State.needShared (s : State) (seg p : Nat) (c : Cls) (units : Nat) : Nat :=
  match c with
  | .be => units
  | .lc => units - (s.floorUnits p - (s.seg seg).floorUsed p)

/-- An allocation fits a segment's shared region. -/
def State.allocFits (s : State) (seg p : Nat) (c : Cls) (units : Nat) : Bool :=
  s.needShared seg p c units + (s.seg seg).sharedUsed ≤ s.sharedUnits seg

/-- What a step holds on a segment, with a further request, stays within its STAGING_64K (R66, R168). -/
def State.withinStaging (s : State) (seg p : Nat) (c : Cls) (units : Nat) : Bool :=
  match s.stepOf p c with
  | some st => sumNat (((s.seg seg).allocs.filter (fun a => a.part == p && a.cls == c)).map (·.units)) + units ≤ 256 * st.prog.image.staging
  | none => false

/-- An allocation granted at a base: the valid bits of its units are cleared (R102). -/
def State.grant (s : State) (seg p : Nat) (c : Cls) (units base : Nat) : State :=
  let a : Alloc := { part := p, cls := c, base := base, units := units, shared := s.needShared seg p c units }
  s.onSeg seg (fun g => { g with
    allocs := g.allocs ++ [a], validBits := g.validBits.filter (fun u => u < base || base + units ≤ u) })

/-- The units of a placement are free. -/
def Segment.unitsFree (g : Segment) (units base : Nat) : Bool :=
  base + units ≤ stagingUnits && g.allocs.all (fun a => base + units ≤ a.base || a.base + a.units ≤ base)

/-- A segment abandons its BE step: nothing more is issued, and its data are freed without a spill (R66). -/
def abandonHere (p : Nat) (streams : List Nat) (g : Segment) : Segment :=
  match g.stepHere p .be with
  | some t => { dropStepHere p .be streams (undoStack p .be g) with
      steps := g.steps.map (fun x => if x == t then { x with abandoning := true, undo := [] } else x) }
  | none => g

/-- The BE step of the partition that owns a segment is abandoned there (R66). -/
def State.abandonOn (s : State) (seg : Nat) : State :=
  match s.ownerOf seg with
  | some p =>
    match s.stepOf p .be with
    | some st => (s.onSeg seg (abandonHere p (programStreams st.prog.image))).endTransfersOn (· == seg) p .be
    | none => s
  | none => s

/-- BE data occupy shared staging on a segment. -/
def Segment.beHolds (g : Segment) : Bool := g.allocs.any (fun a => a.cls == .be && 0 < a.shared)

/-- STAGING_ALLOCATE (R65, R66). A request that does not fit waits: it is asked again; one that would take the step above its
STAGING_64K is never granted. -/
def execStagingAllocate (seg part : Nat) (cls : Cls) (units base : Nat) (s : State) : Result := underForce (fun s =>
  let g := s.seg seg
  let t := if cls == .lc && !s.allocFits seg part cls units && g.beHolds then s.abandonOn seg else s
  onlyIf (g.runs part cls && 0 < units && s.withinStaging seg part cls units)
    (if t.allocFits seg part cls units && (t.seg seg).unitsFree units base then t.grant seg part cls units base else t) s) s

/-- A BE step is abandoned on some segment and the manager has not yet stamped it. -/
def State.abandonSeen (s : State) (p : Nat) : Bool :=
  s.segs.any (fun g => match g.stepHere p .be with | some t => t.abandoning | none => false)

/-- The segments that report an abandonment send their message to the manager (R66). -/
def State.abandonMessages (s : State) (p : Nat) : State :=
  ((List.range s.segs.length).filter (fun i => match (s.seg i).stepHere p .be with | some t => t.abandoning | none => false)).foldl
    (fun t i => t.control i t.mgr) s

/-- ABANDON_REPORT (R66): at its stamp the step is abandoned on every segment, ends under R49, and its loop halts. -/
def execAbandonReport (cyc part : Nat) (s : State) : Result :=
  let e := s.stampFor cyc
  match s.stepOf part .be with
  | some st =>
    onlyIf (s.mgrUp && s.abandonSeen part && st.abandoned.isNone)
      (((((s.given e).abandonMessages part).controlAll (s.stepSegs part st.prog.image)).clearStep part .be e).onLoop part .be (fun l =>
        { l with running := false, step := some { st with abandoned := some e, binds := [] } })) s
  | none => .next s

/-- ABANDON_COMPLETE (R66): the step's data are freed on every segment; its record carries the abandonment stamp. -/
def execAbandonComplete (part : Nat) (s : State) : Result :=
  match s.stepOf part .be with
  | some st =>
    match st.abandoned with
    | some e =>
      onlyIf s.mgrUp
        ((s.onLoop part .be (fun l => { l with step := none })).recordStep part .be .abandoned e 0 st) s
    | none => .next s
  | none => .next s

end Sys2Proof.Machine
end

