-- ==== Sys2Proof/Machine/Arrays.lean ====
section
/-! DEFINITION. The broadcast arrays: pass arbitration (R63), bank ownership (R80, R81), stationary registers and tables (R86,
R87), tile loads (R90), statistics passes (R105), sweeps (R78, R100, R103), residue checks and spare columns (R92 to R94). -/

namespace Sys2Proof.Machine

/-! The parts of a segment that an array's work uses. -/

/-- An array of a segment. -/
def Segment.array (g : Segment) : Arr → ArrayS
  | .ma0 => g.ma0
  | .ma1 => g.ma1

/-- The segment with an array changed. -/
def Segment.onArray (g : Segment) (a : Arr) (f : ArrayS → ArrayS) : Segment :=
  match a with
  | .ma0 => { g with ma0 := f g.ma0 }
  | .ma1 => { g with ma1 := f g.ma1 }

/-- The other array. -/
def otherArr : Arr → Arr
  | .ma0 => .ma1
  | .ma1 => .ma0

/-- An accumulator bank of an array. -/
def ArrayS.bank (a : ArrayS) (b : Bool) : AccBank := if b then a.bank1 else a.bank0

/-- The array with a bank changed. -/
def ArrayS.onBank (a : ArrayS) (b : Bool) (f : AccBank → AccBank) : ArrayS :=
  if b then { a with bank1 := f a.bank1 } else { a with bank0 := f a.bank0 }

/-- The stationary register, with its table bank, that a pass tag selects (R86). -/
def ArrayS.reg (a : ArrayS) (tag : Bool) : WeightReg := if tag then a.reg1 else a.reg0

/-- The array with the register of a tag changed. -/
def ArrayS.setReg (a : ArrayS) (tag : Bool) (w : WeightReg) : ArrayS := if tag then { a with reg1 := w } else { a with reg0 := w }

/-- The array that runs a sweep of a segment: the one it names, or the other while that one has failed or is held and the
other serves, or drains for a remap (R93, R94, R391). -/
def Segment.sweepRuns (g : Segment) (w : Nat) : Arr :=
  let a := sweepArr w
  let down := (g.array a).state == .failed || (g.array a).state == .held
  let up := (g.array (otherArr a)).state == .serving || (g.array (otherArr a)).state == .draining
  if down && up then otherArr a else a

/-- A rescale table of a partition by the number that TABLE names, for a segment (R118). -/
def State.rtable (s : State) (seg p n : Nat) : Option RTable :=
  (s.part p).models.findSome? (fun m => m.tables.find? (fun t => t.num == n && (t.seg.isNone || t.seg == some seg)))

/-- The outlier channels of a sweep, in list order (R113). -/
def sweepChannels (img : ProgramImage) (w : Nat) : List Nat :=
  if sweepOutlier w == 63 then [] else outChannels (img.outliers.getD (sweepOutlier w) {})

/-- The unmasked rows of a row list by list position (R84). -/
def RowList.rows (l : RowList) : List (Nat × RowEntry) :=
  ((l.entries.zipIdx).filter (fun e => !e.1.masked)).map (fun e => (e.2, e.1))

/-! The next pass of a step on an array. -/

/-- A pass that a step could issue next: its sweep, its place in it, their descriptors, its row list and its launch. -/
structure PassRef where
  ref : SweepRef := {}
  k : Nat := 0
  launchNo : Nat := 0
  sweep : Nat := 0
  pass : Nat := 0
  rows : List (Nat × RowEntry) := []
  chans : List Nat := []
  deriving DecidableEq, Repr

/-- The next pass of a sweep of a segment's part of a step. -/
def passOf (img : ProgramImage) (t : SegStep) (slot : Nat) : PassRef :=
  let w := img.slot slot
  let k := (aGet slot t.passNext).getD 0
  { ref := { part := t.part, cls := t.cls, slot := slot }, k := k, launchNo := t.launchNo, sweep := w, pass := img.slot (slot + 1 + k),
    rows := (t.rowLists.getD (sweepRowList w) {}).rows, chans := sweepChannels img w }

/-- A pass is the last of its sweep. -/
def PassRef.last (r : PassRef) : Bool := r.k + 1 == sweepPasses r.sweep

/-- An array takes no passes: failed, or held out of service (R94, R391). -/
def Segment.arrayDown (g : Segment) (arr : Arr) : Bool := (g.array arr).state == .failed || (g.array arr).state == .held

/-- The sweeps of a program that run on an array of a segment and are not complete, in program order (R54, R94). -/
def Segment.openSweeps (g : Segment) (img : ProgramImage) (arr : Arr) (t : SegStep) : List Nat :=
  let d := (img.slots.zip (continuation false img.slots)).zipIdx
  (d.filter (fun x => !x.1.2 && dType x.1.1 == 2 && !t.done.contains x.2 && g.sweepRuns x.1.1 == arr)).map (·.2)

/-- A sweep has begun: one of its passes has been issued. -/
def sweepBegun (t : SegStep) (i : Nat) : Bool := 0 < (aGet i t.passNext).getD 0

/-- The first passes not yet issued of a step's sweeps on an array, in program order. An array that serves for both has one
sweep open at a time, which runs to completion before the next opens, one already begun first (R94). -/
def State.passesAhead (s : State) (seg : Nat) (arr : Arr) (t : SegStep) : List PassRef :=
  let g := s.seg seg
  match s.stepOf t.part t.cls with
  | some st =>
    let img := st.prog.image
    let l := g.openSweeps img arr t
    let l := if g.arrayDown (otherArr arr) then ((l.filter (sweepBegun t)) ++ l).take 1 else l
    (l.map (passOf img t)).filter (fun r => r.k < sweepPasses r.sweep)
  | none => []

/-- The next pass of a step on an array: of its first sweep with passes left, once that sweep's descriptor is issued (R54). -/
def State.nextPass (s : State) (seg : Nat) (arr : Arr) (t : SegStep) : Option PassRef :=
  match (s.passesAhead seg arr t).head? with
  | some r => if t.issued.contains r.ref.slot then some r else none
  | none => none

/-- The pass whose tile a step loads next on an array: its sweep need not be issued yet, and a sweep with no unmasked row loads
none (R84, R87, R89). -/
def State.nextLoad (s : State) (seg : Nat) (arr : Arr) (t : SegStep) : Option PassRef :=
  (s.passesAhead seg arr t).find? (fun r => !r.rows.isEmpty)

/-- The pass after the one whose tile is loaded: the next of its sweep, or the first of the sweep that follows. -/
def State.followingLoad (s : State) (seg : Nat) (arr : Arr) (t : SegStep) (r : PassRef) : Option PassRef :=
  match s.stepOf t.part t.cls with
  | some st =>
    if r.k + 1 < sweepPasses r.sweep then some { r with k := r.k + 1, pass := st.prog.image.slot (r.ref.slot + 2 + r.k) }
    else (s.passesAhead seg arr t).find? (fun x => !x.rows.isEmpty && r.ref.slot < x.ref.slot)
  | none => none

/-- The parts of steps on a segment that issue passes, in the order of R63: the screen step, the LC step, the BE step. -/
def Segment.sources (g : Segment) : List SegStep :=
  let on := g.steps.filter (fun t => g.runs t.part t.cls)
  on.filter (fun t => t.part == 15) ++ on.filter (fun t => t.part != 15 && t.cls == .lc) ++
    on.filter (fun t => t.part != 15 && t.cls == .be)

/-- The first pass of a sweep waits for a current record of every row (R105). -/
def rowsCurrent (g : Segment) (r : PassRef) : Bool :=
  r.rows.all (fun e => statsCurrent g.validBits g.staging r.launchNo e.2.addr)

/-- The claimant takes a bank from a BE sweep of another step (R81). -/
def takesBank (r : PassRef) (b : AccBank) : Bool :=
  match b.holder with
  | some h => h.part != 15 && h.cls == .be && (r.ref.cls == .lc || r.ref.part == 15)
  | none => false

/-- A sweep of an array whose passes have all been issued. -/
def ArrayS.finishes (a : ArrayS) (h : SweepRef) : Bool := a.finishing.any (fun b => b.holder == some h)

/-- The bank of a pass is free, its own, that of an earlier sweep of its step whose passes have all been issued, or a BE sweep's
that it takes (R80, R81, R83). -/
def bankOpen (a : ArrayS) (r : PassRef) (b : AccBank) : Bool :=
  match b.holder with
  | none => r.k == 0
  | some h => h == r.ref || (r.k == 0 && (takesBank r b || (h.part == r.ref.part && h.cls == r.ref.cls && a.finishes h)))

/-- A pass is ready on an array: its tile is in the register of the next tag, its bank is open, and its rows are coded with
current records (R81, R87, R105). -/
def passReady (g : Segment) (a : ArrayS) (r : PassRef) : Bool :=
  (a.reg (!a.tag)).tile == some (r.ref, r.k) && bankOpen a r (a.bank (sweepBank r.sweep)) && (r.k != 0 || rowsCurrent g r)

/-- The pass that an array issues next: the screen partition first while its credit is positive, and last whatever its
credit (R63). -/
def State.choosePass (s : State) (seg : Nat) (arr : Arr) : Option PassRef :=
  let g := s.seg seg
  let a := g.array arr
  let ready (t : SegStep) : Option PassRef :=
    match s.nextPass seg arr t with
    | some r => if passReady g a r then some r else none
    | none => none
  let src := g.sources
  let screen := src.filter (fun t => t.part == 15)
  let rest := src.filter (fun t => t.part != 15)
  ((if 0 < a.credit then screen else []) ++ rest ++ screen).findSome? ready

/-! Issue. -/

/-- The number of a sweep's next pass. -/
def setPass (slot k : Nat) (t : SegStep) : SegStep := { t with passNext := aSet slot k t.passNext }

/-- A sweep that has completed (R89). -/
def sweepDone (slot : Nat) (t : SegStep) : SegStep := { t with done := insertNat slot t.done }

/-- A sweep whose row list has no unmasked row is retired: its passes count, its bank is free, and it completes (R84, R89). -/
def retireSweep (arr : Arr) (r : PassRef) (g : Segment) : Segment :=
  let free (b : AccBank) : AccBank := if b.holder == some r.ref then {} else b
  (g.onArray arr (fun a => a.onBank (sweepBank r.sweep) free)).onStep r.ref.part r.ref.cls
    (fun t => sweepDone r.ref.slot (setPass r.ref.slot (sweepPasses r.sweep) t))

/-- The sweep at the head of a step's order on an array is retired if it has no unmasked row. -/
def State.retireHead (s : State) (seg : Nat) (arr : Arr) (p : Nat) (c : Cls) : State :=
  match (s.seg seg).stepHere p c with
  | some t =>
    match s.nextPass seg arr t with
    | some r => if r.rows.isEmpty then s.onSeg seg (retireSweep arr r) else s
    | none => s
  | none => s

/-- The sweeps at the head of each step's order on an array that have no unmasked row are retired (R84). -/
def State.retireEmpty (s : State) (seg : Nat) (arr : Arr) : State :=
  (s.seg seg).sources.foldl (fun u t => t.issued.foldl (fun v _ => v.retireHead seg arr t.part t.cls) u) s

/-- A BE sweep that loses its bank issues again from its first pass (R81). -/
def restartHolder (arr : Arr) (b : AccBank) (g : Segment) : Segment :=
  match b.holder with
  | some h =>
    (g.onStep h.part h.cls (setPass h.slot 0)).onArray arr (fun a =>
      { a with beRestart := a.beRestart + 1, finishing := a.finishing.filter (fun b => b.holder != some h) })
  | none => g

/-- One row fed: its place, its scale entry after the pass, its accumulator row, and what the counters take. -/
structure FedRow where
  pos : Nat := 0
  scale : RowScale := {}
  acc : List Int := []
  zaClamped : Bool := false
  saturated : Nat := 0
  infs : Nat := 0
  accSat : Bool := false
  deriving DecidableEq, Repr

/-- A row fed in a pass (R78, R109 to R112, R117): the first pass reads its record. -/
def feedRow (m : Memory) (r : PassRef) (remap : List RemapEntry) (cells : List (Nat × Nat × Int)) (b : AccBank)
    (row : Nat × RowEntry) : FedRow :=
  let asym := sweepAfmt r.sweep
  let first := r.k == 0
  let start := rowScale asym (readStats m row.2.addr)
  let e := if first then start.1 else (aGet row.1 b.scales).getD {}
  let f := feedSlice asym e r.chans (passDepth r.pass) (rowSlice m row.2.addr (passDepth r.pass))
  let old := (aGet row.1 b.acc).getD []
  let tree := treeOut remap f.codes cells
  { pos := row.1, scale := scaleAfter f e, acc := accumulate first old tree, zaClamped := first && start.2, saturated := f.saturated,
    infs := f.infs, accSat := accSaturates first old tree }

/-- The side weight rows of the outlier channels whose index falls in a pass's depth slice (R90, R115). -/
def sideRows (r : PassRef) (t : RTable) : List (Nat × List BF16) :=
  ((r.chans.zipIdx).filter (fun c => c.1 / 256 == passDepth r.pass)).map (fun c =>
    (c.2, t.side.getD (sweepColTile r.sweep * rtSide t.header + c.2) []))

/-- The bank after a pass (R78, R111, R115). -/
def bankAfter (r : PassRef) (side : List (Nat × List BF16)) (table : List Nat) (fed : List FedRow) (b : AccBank) : AccBank :=
  let b := if r.k == 0 then ({} : AccBank) else b
  { b with
    holder := some r.ref, acc := fed.foldl (fun l f => aSet f.pos f.acc l) b.acc,
    scales := fed.foldl (fun l f => aSet f.pos f.scale l) b.scales,
    side := side.foldl (fun l e => aSet e.1 e.2 l) b.side, fed := fed.map (·.pos),
    table := if r.last then table else b.table }

/-- The cycles in which a pass feeds its rows: two a row in a last pass with FP32 output and in a throttled array (R124, R381). -/
def passCycles (slow : Bool) (r : PassRef) (rows : Nat) : Nat := if slow || (r.last && sweepOutfmt r.sweep == 2) then 2 * rows else rows

/-- The array after a pass it has issued; the sums of a last pass go on to the finisher (R63, R78, R86, R95). -/
def arrayAfter (slow : Bool) (r : PassRef) (side : List (Nat × List BF16)) (fed : List FedRow) (a : ArrayS) : ArrayS :=
  let table := (a.reg (!a.tag)).table
  let a' := a.onBank (sweepBank r.sweep) (bankAfter r side table fed)
  { a' with
    tag := !a.tag, passCount := a.passCount + 1, rowCount := a.rowCount + fed.length,
    finishing := if r.last then a.finishing ++ [a'.bank (sweepBank r.sweep)] else a.finishing,
    credit := if r.ref.part == 15 then a.credit - (passCycles slow r fed.length : Int) else a.credit }

/-- The counters of a segment after a pass (R112, R117, R123). -/
def countFed (first : Bool) (fed : List FedRow) (c : SegCount) : SegCount :=
  { c with
    rowsPoisoned := c.rowsPoisoned + (if first then (fed.filter (fun f => f.scale.poison)).length else 0),
    infClamps := c.infClamps + sumNat (fed.map (·.infs)), actSat := c.actSat + sumNat (fed.map (·.saturated)),
    zaClamps := c.zaClamps + (fed.filter (·.zaClamped)).length, accSat := c.accSat || fed.any (·.accSat) }

/-- Bytes of the activation slice that a pass reads of a row. -/
def sliceEnd (r : PassRef) (row : Nat × RowEntry) : Nat := row.2.addr * 256 + 512 * (passDepth r.pass + 1)

/-- The first address outside staging SRAM that a pass would read. -/
def rowOutside (r : PassRef) : Option Nat := (r.rows.map (sliceEnd r)).find? (fun a => stagingBytes < a)

/-- A pass issued on a segment (R78, R86). -/
def State.issuePass (s : State) (seg : Nat) (arr : Arr) (r : PassRef) : State :=
  let g := s.seg seg
  let a := g.array arr
  let b := a.bank (sweepBank r.sweep)
  let g := if r.k == 0 && takesBank r b then restartHolder arr b g else g
  let side := match s.rtable seg r.ref.part (sweepTable r.sweep) with | some t => sideRows r t | none => []
  let fed := r.rows.map (feedRow g.staging r a.remap (a.reg (!a.tag)).weights b)
  let g := (g.onArray arr (arrayAfter g.supply.throttled r side fed)).onStep r.ref.part r.ref.cls (setPass r.ref.slot (r.k + 1))
  s.onSeg seg (fun _ => { g with cnt := countFed (r.k == 0) fed g.cnt })

/-- An array of a segment takes passes (R93, R96). -/
def Segment.arrayRuns (g : Segment) (arr : Arr) : Bool :=
  g.state == .serving && (g.array arr).state == .serving && (g.array arr).pendingRemap.isEmpty

/-- The cycles in which a ready pass waited only for its tile, which come with the arm cycle, are counted (R95). -/
def countStall (n : Nat) (a : ArrayS) : ArrayS := { a with loadStall := a.loadStall + n }

/-- PASS_ARM (R63, R83): with no pass ready, nothing is issued. -/
def execPassArm (seg : Nat) (arr : Arr) (stall : Nat) (s : State) : Result :=
  if (s.seg seg).arrayRuns arr then
    let s := s.retireEmpty seg arr
    match s.choosePass seg arr with
    | some r =>
      match rowOutside r with
      | some a => .fault (.noStaging seg a)
      | none => .next ((s.issuePass seg arr r).onSeg seg (fun g => g.onArray arr (countStall stall)))
    | none => .next s
  else .next s

/-! Tiles. -/

/-- Bytes of a tile (R90, R106). -/
def tileBytes (wfmt : Nat) : Nat := if wfmt == 0 then 65536 else 32768

/-- The bytes of a pass's tile in a memory (R55, R90). -/
def tileIn (m : Memory) (r : PassRef) : Memory := memPart m (passTile r.pass * 64) (tileBytes (sweepWfmt r.sweep))

/-- The tile of a pass placed with its table bank in the register of the next tag, sign-extended at the cells' load ports (R75,
R86, R90). -/
def loadTile (r : PassRef) (tile : Memory) (table : List Nat) (a : ArrayS) : ArrayS :=
  let old := a.reg (!a.tag)
  a.setReg (!a.tag) { tile := some (r.ref, r.k), weights := placeWeights a.remap (tileCodes (sweepWfmt r.sweep) tile) old.weights,
                      table := if r.last then table else old.table }

/-- The tile of a pass in the prefetch buffer of an array (R91). -/
def ArrayS.prefetched (a : ArrayS) (r : PassRef) : Option TileBuf := a.prefetch.find? (fun b => b.tile == (r.ref, r.k))

/-- Bytes of a prefetch buffer in use. -/
def bufBytes (l : List TileBuf) : Nat := sumNat (l.map (fun b => if b.wide then 65536 else 32768))

/-- A prefetch buffer takes a tile as long as it has space (R91). -/
def fitBuffer (l : List TileBuf) (b : TileBuf) : List TileBuf := if bufBytes (l ++ [b]) ≤ 65536 then l ++ [b] else l

/-- The prefetch buffer after a tile has gone into the cells: the tile has left it, and a stack-fed tile that follows is streamed
in (R91, log entry 46). -/
def prefetchNext (stack : Memory) (r : PassRef) (next : Option PassRef) (a : ArrayS) : ArrayS :=
  let l := a.prefetch.filter (fun b => b.tile != (r.ref, r.k))
  match next with
  | some n =>
    if passFromStack n.pass && (a.prefetched n).isNone then
      { a with prefetch := fitBuffer l { tile := (n.ref, n.k), wide := sweepWfmt n.sweep == 0, bytes := tileIn stack n } }
    else { a with prefetch := l }
  | none => { a with prefetch := l }

/-- The bytes that a pass's load takes: of the prefetch buffer, the stack or staging SRAM (R91). -/
def Segment.tileOf (g : Segment) (arr : Arr) (r : PassRef) : Memory :=
  if passFromStack r.pass then
    match (g.array arr).prefetched r with
    | some b => b.bytes
    | none => tileIn g.stack.mem r
  else tileIn g.staging r

/-- The rescale table bank of a sweep's column tile (R90, R118). -/
def tableBank (w : Nat) (t : RTable) : List Nat := (t.entries.drop (256 * sweepColTile w)).take 256

/-- TILE_LOAD_COMPLETE (R87, R90, R91): the tile of the step's next pass on the array is complete in the free register. A load that
ends by the cycle after the pass's first row is fed counts as complete before its arm (log entry 46). -/
def execTileLoadComplete (seg : Nat) (arr : Arr) (part : Nat) (cls : Cls) (slot : Nat) (s : State) : Result :=
  let g := s.seg seg
  match g.stepHere part cls with
  | some t =>
   match s.nextLoad seg arr t with
   | some r =>
    let top := passTile r.pass * 64 + tileBytes (sweepWfmt r.sweep)
    if !(g.runs part cls && r.ref.slot + 1 + r.k == slot && g.arrayRuns arr) then .next s
    else if passFromStack r.pass && stackBytes < top then .fault (.noStack seg top)
    else if !passFromStack r.pass && stagingBytes < top then .fault (.noStaging seg top)
    else
      let table := match s.rtable seg part (sweepTable r.sweep) with | some t => tableBank r.sweep t | none => []
      let follow := s.followingLoad seg arr t r
      .next (s.onSeg seg (fun g => g.onArray arr (fun a => prefetchNext g.stack.mem r follow (loadTile r (g.tileOf arr r) table a))))
   | none => .next s
  | none => .next s

/-! Statistics passes. -/

/-- The statistics of a whole row over its slices (R101, R105). A row of a sweep has 256 × PASSES channels (R99), so the slices are
0 to PASSES − 1 whatever DEPTH_TILE its passes name: DESIGN CHOICE (log entry 42) where those differ. -/
def rowStatistics (m : Memory) (r : PassRef) (unit : Nat) : RowStats :=
  let elems := ((List.range (sweepPasses r.sweep)).flatMap (rowSlice m unit)).zipIdx
  gatherStats r.launchNo (elems.map (fun e => (e.1, r.chans.contains e.2)))

/-- A row given a statistics pass: its record is written and its valid bit set (R102, R105). -/
def statsRow (r : PassRef) (g : Segment) (unit : Nat) : Segment :=
  if statsCurrent g.validBits g.staging r.launchNo unit then g
  else
    { g with staging := writeStats g.staging unit (rowStatistics g.staging r unit),
             validBits := insertNat (headerUnit unit) g.validBits, cnt := { g.cnt with statsRows := g.cnt.statsRows + 1 } }

/-- STATISTICS_PASS (R105): before a sweep's first pass, each unmasked row without a current record is given one. -/
def execStatisticsPass (seg part : Nat) (cls : Cls) (slot : Nat) (s : State) : Result :=
  let g := s.seg seg
  match s.stepOf part cls, g.stepHere part cls with
  | some st, some t =>
    let r := passOf st.prog.image t slot
    onlyIf (g.runs part cls && t.issued.contains slot && !t.done.contains slot && dType r.sweep == 2 && r.k == 0)
      (s.onSeg seg (fun g => r.rows.foldl (fun h e => statsRow r h e.2.addr) g)) s
  | _, _ => .next s

/-! The end of a sweep. -/

/-- The unit at which a row's output slice starts (R100). -/
def outUnit (w pitch pos : Nat) : Nat := sweepOut w + pos * pitch + sweepColTile w * outUnits (sweepOutfmt w)

/-- One finished row written to staging SRAM (R100, R103, R124, R125): its slice, the scales of an INT8 slice in the header
unit, its statistics. -/
def writeRow (w pitch launchNo : Nat) (g : Segment) (row : Nat × RowOut) : Segment :=
  let out := row.2
  let start := sweepOut w + row.1 * pitch
  let m := memWriteBytes g.staging (outUnit w pitch row.1 * 256) out.slice
  let m := match out.header with
    | some h => memWriteBytes m (headerUnit start * 256 + 4 * sweepColTile w) (bytesLe 4 h)
    | none => m
  let old := readStats m start
  let current := statsCurrent g.validBits m launchNo start
  if sweepFuse w then
    { g with staging := writeStats m start (mergeStats current old out.stats), validBits := insertNat (headerUnit start) g.validBits }
  else if current && (out.stats.range || out.stats.poison) then
    let marked := { old with range := old.range || out.stats.range, poison := old.poison || out.stats.poison }
    { g with staging := writeStats m start marked }
  else { g with staging := m }

/-- The rows a finisher writes: those fed by every pass that no cancel dropped (R85, R123). -/
def finishRows (r : PassRef) (drop : List Nat) (b : AccBank) : List (Nat × RowOut) :=
  (b.fed.filter (fun j => !drop.contains j)).map (fun j =>
    (j, finishRow r.sweep (sweepPasses r.sweep) r.launchNo b.table ((aGet j b.scales).getD {}) ((aGet j b.acc).getD []) b.side
      r.chans.length))

/-- The counters of a segment after a sweep's outputs (R123, R125). -/
def countOut (rows : List (Nat × RowOut)) (c : SegCount) : SegCount :=
  { c with finishRange := c.finishRange + sumNat (rows.map (fun x => x.2.odd)),
           kvClamps := c.kvClamps + sumNat (rows.map (fun x => x.2.clamps)) }

/-- An array that is done with a sweep: the bank it still holds is free, and the finisher has nothing left of it (R80). -/
def leaveArray (r : PassRef) (a : ArrayS) : ArrayS :=
  let a := a.onBank (sweepBank r.sweep) (fun b => if b.holder == some r.ref then {} else b)
  { a with finishing := a.finishing.filter (fun b => b.holder != some r.ref) }

/-- A sweep completes on a segment: its rows are written, its bank is free, its slot is done (R78, R89, R100). -/
def completeSweep (arr : Arr) (r : PassRef) (pitch : Nat) (rows : List (Nat × RowOut)) (g : Segment) : Segment :=
  let g := rows.foldl (writeRow r.sweep pitch r.launchNo) g
  let g := (g.onArray arr (leaveArray r)).onStep r.ref.part r.ref.cls (sweepDone r.ref.slot)
  { g with cnt := countOut rows g.cnt }

/-- The end of the bytes of a row's output slice. -/
def outEnd (w pitch : Nat) (row : Nat × RowOut) : Nat := (outUnit w pitch row.1 + outUnits (sweepOutfmt w)) * 256

/-- SWEEP_COMPLETE (R89): every pass has been issued; the results are in staging SRAM. Sweeps leave the array's pipeline in the order
of their last passes. -/
def execSweepComplete (seg part : Nat) (cls : Cls) (slot : Nat) (s : State) : Result :=
  let g := s.seg seg
  match s.stepOf part cls, g.stepHere part cls with
  | some st, some t =>
    let r := passOf st.prog.image t slot
    let arr := g.sweepRuns r.sweep
    let b := (g.array arr).finishing.headD {}
    if g.runs part cls && dType r.sweep == 2 && r.k == sweepPasses r.sweep && !t.done.contains slot && b.holder == some r.ref then
      let pitch := match s.rtable seg part (sweepTable r.sweep) with | some x => rtPitch x.header | none => 0
      let rows := finishRows r (t.rowLists.getD (sweepRowList r.sweep) {}).drop b
      match (rows.map (outEnd r.sweep pitch)).find? (fun a => stagingBytes < a) with
      | some a => .fault (.noStaging seg a)
      | none => .next (s.onSeg seg (completeSweep arr r pitch rows))
    else .next s
  | _, _ => .next s

/-! Spare columns. -/

/-- The lowest spare entry that is neither valid nor bad (R93). -/
def freeSpare (l : List RemapEntry) : Option Nat := firstFrom (fun k => !(l.getD k {}).valid && !(l.getD k {}).bad) 8 0

/-- The logical column that a failed physical column leaves to a spare; none where nothing is to be moved (R93). -/
def columnServed (a : ArrayS) (c : Nat) : Option Nat :=
  if c < 256 then
    if a.remap.any (fun e => e.valid && e.logical == c) then none else some c
  else
    let e := a.remap.getD (c - 256) {}
    if e.valid then some e.logical else none

/-- A failed spare is marked SPARE_BAD and serves no column (R93). -/
def spareBad (c : Nat) (a : ArrayS) : ArrayS :=
  if c < 256 then a else { a with remap := modifyAt (fun e => { e with bad := true, valid := false }) (c - 256) a.remap }

/-- A physical column is marked failed. One that leaves a logical column without service waits for the next arm cycle, where the
array drains; an unused spare is only marked SPARE_BAD, and a column already served by a spare causes no further action (R92,
R93). -/
def markColumn (c : Nat) (a : ArrayS) : ArrayS :=
  if a.faults.contains c then a
  else
    let a := { a with faults := insertNat c a.faults }
    match columnServed a c with
    | some _ => { a with pendingRemap := insertNat c a.pendingRemap, state := if a.state == .serving then .draining else a.state }
    | none => spareBad c a

/-- A residue mismatch of a column at a beat; a second within 2^20 bt of the first marks the column failed (R92). R92 also records
the column of every mismatch in the column fault map, whose bits R95 defines as marked failed, and lets a single mismatch leave
the column in service: DESIGN CHOICE (log entry 46), a bit is set only once the column is marked failed. -/
def residueAt (c beat : Nat) (a : ArrayS) : ArrayS :=
  let second := match aGet c a.lastResidue with | some b => decide (beat ≤ b + 2 ^ 20) | none => false
  let a := { a with residueErrors := a.residueErrors + 1, lastResidue := aSet c beat a.lastResidue }
  if second then markColumn c a else a

/-- RESIDUE_MISMATCH (R92, R354): the step of the pass whose row tag the value carried is discarded. -/
def execResidueMismatch (cyc seg : Nat) (arr : Arr) (column part : Nat) (cls : Cls) (s : State) : Result :=
  let t := s.dataPathError cyc seg part cls
  onlyIf (s.segUp seg && s.serving seg && column < 264 && ((s.seg seg).array arr).state != .failed)
    (t.onSeg seg (fun g => g.onArray arr (residueAt column s.time.beat))) s

/-- One failed column remapped, or the array marked failed where no spare is free (R93, R94). -/
def remapColumn (a : ArrayS) (c : Nat) : ArrayS :=
  match columnServed a c with
  | some l =>
    let a := spareBad c a
    match freeSpare a.remap with
    | some k => { a with remap := modifyAt (fun e => { e with valid := true, logical := l }) k a.remap }
    | none => { a with state := .failed }
  | none => spareBad c a

/-- The array after the drain: its columns remapped and both weight registers invalid (R93). Of columns that wait together the one with
the lowest number takes the lowest spare (DESIGN CHOICE, log entry 46). An array that does not serve yet is held as before. -/
def remapAll (a : ArrayS) : ArrayS :=
  let a := a.pendingRemap.foldl remapColumn { a with state := if a.state == .draining then .serving else a.state, pendingRemap := [] }
  { a with reg0 := { a.reg0 with tile := none }, reg1 := { a.reg1 with tile := none } }

/-- A failed array takes no further passes, and its sweeps go to the surviving array (R94). What becomes of the sweeps open on it
the spec does not say: DESIGN CHOICE (log entry 46), their sums are discarded and they begin again from their first pass. -/
def failArray (arr : Arr) (g : Segment) : Segment :=
  let again (g : Segment) (b : AccBank) : Segment :=
    match b.holder with
    | some h => g.onStep h.part h.cls (setPass h.slot 0)
    | none => g
  let a := g.array arr
  (([a.bank0, a.bank1] ++ a.finishing).foldl again g).onArray arr (fun a => { a with bank0 := {}, bank1 := {}, finishing := [] })

/-- The code that reports an array out of service (R374). -/
def arrayReason : Arr → Nat
  | .ma0 => 0x20
  | .ma1 => 0x21

/-- The reason code of a segment whose arrays have both failed (R374). -/
def bothArraysFailed : Nat := 0x05

/-- An array's failure reported; both arrays failed lose the segment (R94, R359, R374). -/
def State.arrayFailed (s : State) (seg : Nat) (arr : Arr) (e : Stamp) : State :=
  let s := (s.onSeg seg (failArray arr)).raiseLost seg (arrayReason arr) e
  if ((s.seg seg).array (otherArr arr)).state == .failed then s.loseAny seg bothArraysFailed e else s

/-- COLUMN_REMAP (R93, R94), once the pipeline has drained; of an array that is held there is nothing to drain. -/
def execColumnRemap (cyc seg : Nat) (arr : Arr) (s : State) : Result :=
  let a := (s.seg seg).array arr
  let e := s.stampFor cyc
  let t := s.onSeg seg (fun g => g.onArray arr remapAll)
  onlyIf (s.segUp seg && !a.pendingRemap.isEmpty && a.finishing.isEmpty && a.state != .failed)
    (if (remapAll a).state == .failed then (t.given e).arrayFailed seg arr e else t) s

end Sys2Proof.Machine
end

