-- ==== Sys2Proof/Machine/Blocks.lean ====
section
/-! DEFINITION. The two blocks of split mode and their end (R372, R373): the notices that a fenced half raises, and a second block that
prepares for the rejoin. -/

namespace Sys2Proof.Machine

/-- Segments of half A (R2). -/
def KdKind.halfA : KdKind → Nat
  | .kd10 => 5
  | .kd15 => 10
  | .kd20 => 10
  | k => k.segments

/-- A segment lies in half B (R2). -/
def State.inHalfB (s : State) (i : Nat) : Bool := s.cfg.kind.halfA ≤ i

/-- DETAIL of FENCED: half and reason (R294, R375). -/
def fencedDetail (halfB : Bool) (reason : Nat) : Nat := packMsb [(1, flag halfB), (8, reason), (103, 0)]

/-- FENCED pushed by a segment for its half (R294, R375). -/
def State.raiseFenced (s : State) (i reason : Nat) (e : Stamp) : State :=
  s.raise i 0x0C 0x0 0 0 e (fencedDetail (s.inHalfB i) reason)

/-- A segment of the far half prepared for the rejoin: warm reset, then fenced with reason REJOIN. -/
def preparedSegment (g : Segment) : Segment :=
  if g.state == .lost then g
  else
    let r := resetSegment true g
    { r with state := .fenced, fenceReason := 0x05, inReset := false, nq := { r.nq with owner := true }, trust := { r.trust with identity := g.trust.identity } }

/-- Segments of the far half as they wait for the rejoin, each reported fenced (R373, R375). -/
def State.farPrepared (s : State) (far : List Nat) (e : Stamp) : State :=
  let t := s.onSegs (fun i g => if far.contains i then preparedSegment g else g)
  (far.filter (fun i => (t.seg i).state == .fenced)).foldl (fun u i => u.raiseFenced i 0x05 e) t

/-- A segment of the far half that joins again as at bring-up, a lost one with it, through self-test (R359); one that was not prepared
for the rejoin is reset first (R373). -/
def joinAgain (beat i : Nat) (g : Segment) : Segment :=
  releaseSegment beat i (if g.state == .fenced && g.fenceReason == 0x05 then { g with fenceReason := 0 } else resetSegment true g)

/-- The far half's segments join as at bring-up once a waist link has trained after a REJOIN (R373). -/
def State.rejoinFar (s : State) : State :=
  let far := s.roles.farHalf
  let t := s.onSegs (fun i g => if far.contains i then joinAgain s.time.beat i g else g)
  let t := far.foldl (fun u i => u.stackKeysAt i) t
  { t with kept := none,
           roles := { t.roles with farHalf := [], splitState := 3, rejoinBy := none, waistUp := false, farStandby := none } }

/-- How a live sequence of the second block ends as the block prepares for the rejoin: with FENCED (R373), or, where the rejoin has come
without that preparation, with SEAL_FAIL if it rests on a dim record, which the joined block cannot open (R350). -/
def endReason (rejoins : Bool) (q : Sequence) : Status := if rejoins && q.dim.isSome then .sealFail else .fenced

/-- Every live sequence of the second block ends (R350, R373). -/
def State.endLive (s : State) (rejoins : Bool) (e : Stamp) : State :=
  s.seqs.foldl (fun t x => if x.2.ended.isNone then t.endSeq x.1 (endReason rejoins x.2) e else t) s

/-- The second block is over: its half makes a warm reset and waits fenced, in the first block's sight; a rejoin that waits for it goes
on (R373). A mirror of before the split is not current for a second one. -/
def State.endSecond (s : State) : State := match s.other with
  | some b =>
    let t := { s.withBlock b with other := none, segs := takeHalf b.roles.farHalf s.segs b.segs }
    let t := { t with roles := { t.roles with splitState := 1 }, mirror := { t.mirror with currentAtFence := false } }
    let t := t.farPrepared t.roles.farHalf t.edge
    if t.roles.waistUp then t.rejoinFar else t
  | none => s

/-- The dim records of a block, which fail their checks once the other half's keys are the block's (R350). -/
def Block.dimRecords (b : Block) : Nat :=
  (b.seqs.filter (fun x => x.2.ended.isNone && x.2.dim.isSome)).length + (b.handles.filter (fun x => x.2.dim.isSome)).length

/-- A waist link has trained for a rejoin: the far half joins, after a second block that was not prepared has ended its sequences, its
dim records lost (R350, R373). -/
def State.waistTrained (s : State) : State := match s.other with
  | some b =>
    let n := b.dimRecords
    let t := (s.turn.endLive true s.turn.edge).turn
    let t := { t with other := t.other.map (fun (x : Block) => { x with roles := { x.roles with ending := true } }) }
    { t with roles := { t.roles with rejoinBy := none, waistUp := true },
             cnt := { t.cnt with dimSealFails := t.cnt.dimSealFails + n } }
  | none => s.rejoinFar

/-- A second block that was told to prepare for the rejoin ends its sequences at each edge, and is over when the last of their records
has been written (R373). -/
def State.secondEnds (s : State) : State :=
  if s.roles.ending then
    let t := s.endLive false s.edge
    if t.seqs.isEmpty then t.endSecond else t
  else s

end Sys2Proof.Machine
end

