-- ==== Sys2Proof/Machine/Queues.lean ====
section
/-! DEFINITION. The commands of the segment notice queues: host reads and writes of their registers (R288, R292), and the
manager's drain (R295). -/

namespace Sys2Proof

/-- OBJECT number of an endpoint's inbound queue (R309). -/
def Endpoint.inObject : Endpoint → Nat
  | .window => 1
  | .ringPair => 3
  | .pcie => 5
  | .i3c k => 16 + 2 * k

end Sys2Proof

namespace Sys2Proof.Machine

/-! Endpoints and their queues (R309). -/

/-- The endpoint of a path; a target of a segment that no transfer has used is at its reset values. -/
def State.ep (s : State) (e : Endpoint) : EndpointS := (s.objs.eps.find? (fun x => x.ep == e)).getD (EndpointS.of e)

/-- The state with an endpoint changed. -/
def State.onEp (s : State) (e : Endpoint) (f : EndpointS → EndpointS) : State :=
  let l := s.objs.eps
  let l := if l.any (fun x => x.ep == e) then l.map (fun x => if x.ep == e then f x else x) else l ++ [f (EndpointS.of e)]
  { s with objs := { s.objs with eps := l } }

/-- The inbound queue of an endpoint: that of the segment for an I3C target (R309). -/
def State.inQueue (s : State) : Endpoint → WordQ
  | .i3c k => (s.seg k).i3cIn
  | e => (s.ep e).inq

/-- The outbound queue of an endpoint. -/
def State.outQueue (s : State) : Endpoint → WordQ
  | .i3c k => (s.seg k).i3cOut
  | e => (s.ep e).outq

/-- The segment that raises the latchings of an endpoint's queues. -/
def State.epSeg (s : State) : Endpoint → Nat
  | .i3c k => k
  | _ => s.mgr

/-- A management queue placed; its latchings of cycles that are over are raised as notices (R290, R294). -/
def State.putIn (s : State) (e : Endpoint) (q : WordQ) : State :=
  let clean := { q with owe := q.owe.filter (fun x => !before x.stamp s.now), answers := [] }
  let s := match e with
    | .i3c k => s.onSeg k (fun g => { g with i3cIn := clean })
    | e => s.onEp e (fun x => { x with inq := clean })
  s.raiseQueue (s.epSeg e) e.inObject q.owe

/-- As `putIn`, for the outbound queue; a stalled host read that this completes is answered. -/
def State.putOut (s : State) (e : Endpoint) (q : WordQ) : State :=
  let clean := { q with owe := q.owe.filter (fun x => !before x.stamp s.now), answers := [] }
  let s := match e with
    | .i3c k => s.onSeg k (fun g => { g with i3cOut := clean })
    | e => s.onEp e (fun x => { x with outq := clean })
  (s.raiseQueue (s.epSeg e) (e.inObject + 1) q.owe).answerReads q.answers

/-- The endpoints whose queues owe a latching of a cycle that is over. -/
def State.owing (s : State) : List Endpoint :=
  let due (q : WordQ) : Bool := q.owe.any (fun x => before x.stamp s.now)
  ((s.objs.eps.filter (fun x => due x.inq || due x.outq)).map (·.ep))
    ++ ((List.range s.segs.length).filter (fun i => due (s.seg i).i3cIn || due (s.seg i).i3cOut)).map (.i3c ·)

/-- The cycles that are over raise the latchings of the management queues and of the rings (R289, R290). -/
def State.closeCycles (s : State) : State :=
  (s.owing.foldl (fun t e => let t := t.putIn e (t.inQueue e); t.putOut e (t.outQueue e)) s).closeRings

/-- A host read stalls: the queue is empty in HOLD, and no word comes in the read's own cycle (R288, R289). -/
def WordQ.stalls (at_ : Stamp) (q : WordQ) : Bool := q.hold && q.words.isEmpty && (q.pushedAt at_).isNone

/-- A read that stalls behind those that have stalled before it (R288, R402). -/
def qStall (at_ : Stamp) (port tag : Nat) (q : WordQ) : WordQ :=
  { q with stalled := q.stalled ++ [{ since := at_, port := port, tag := tag }] }

/-- A host read of QDATA by the request that a port has just accepted: 0 and no effect while the manager owns the queue; a stall on an
empty queue in HOLD; else a pop, whose flags go to the LAST fields (R288, R292). -/
def State.readQdata (s : State) (port i : Nat) : State :=
  let q := (s.seg i).nq
  if !q.owner then s.respond port 0 0
  else if q.stalls s.now then s.onNq i (qStall s.now port (s.seg port).port.reqTag)
  else
    let t := qRead s.now q
    (s.onNq i (fun _ => qLast t.1 false t.2)).respond port 0 t.1.data

/-- A request on a segment's own target channel, in its block: accepted, and given its effect (R401). -/
def State.onRequest (s : State) (at_ : ReqAt) (f : State → State) : Result :=
  s.inBlockOf (s.inSecond at_.seg) (fun s =>
    onlyIf (s.segUp at_.seg && s.takesReq at_.seg at_.tag) (f ((s.onCycle at_.cyc).acceptReq at_.seg at_.tag)) s)

/-- QDATA_READ (R292). -/
def execQdataRead (at_ : ReqAt) (s : State) : Result := s.onRequest at_ (fun s => s.readQdata at_.seg at_.seg)

/-- The read that has stalled longest ends at HOLD_LIMIT_BT with the last value, UNDERRUN and HOLD_TIMEOUT (R288), on the port it came
by. -/
def qTimeout (at_ : Stamp) (q : WordQ) : WordQ :=
  match q.stalled with
  | x :: rest =>
    { q with stalled := rest, answers := q.answers ++ [{ port := x.port, tag := x.tag, data := q.lastData }], underrun := true,
             owe := if q.underrun then q.owe else q.owe ++ [.underrun true at_],
             lastEor := false, lastTorn := false, lastPoison := false, lastUnderrun := true, lastTimeout := true }
  | [] => q

/-- The marks a write of QCONTROL leaves: each taken into its own range, then LOW_MARK held below HIGH_MARK (R292). -/
def qMarks (word cap : Nat) : Nat × Nat :=
  let h := clampNat 1 cap (bits 58 48 word)
  let l := min (bits 42 32 word) (cap - 1)
  (h, if l < h then l else h - 1)

/-- The effect of a write of QCONTROL: a flush against the marks in force, the mode, and the marks together from the next cycle on
(R292). -/
def qControl (at_ : Stamp) (word : Nat) (q : WordQ) : WordQ :=
  let q := qTick at_ q
  let q := if bit 1 word then qFlush at_ q else q
  let m := qMarks word q.cap
  qMode at_ (bit 0 word) { q with newMarks := some (at_, m.1, m.2) }

/-- QCONTROL_WRITE (R292). -/
def execQcontrolWrite (at_ : ReqAt) (word : Nat) (s : State) : Result :=
  s.onRequest at_ (fun s => (s.onNq at_.seg (qControl s.now word)).respond at_.seg 0 0)

/-- QUEUE_FLUSH (R287). -/
def execQueueFlush (at_ : ReqAt) (s : State) : Result :=
  s.onRequest at_ (fun s => (s.onNq at_.seg (qFlush s.now)).respond at_.seg 0 0)

/-- A mark crossed in the cycle of a clear of its latched bit. -/
def crossedAt (at_ : Stamp) : Option CrossMark → Option CrossMark
  | some m => if m.stamp == at_ then some m else none
  | none => none

/-- The event of a crossing in the cycle of the clear, which counts as a latching (R290), where the crossing raised none itself. -/
def lateLatch (low : Bool) (m : CrossMark) (owe : List QEvent) : List QEvent :=
  if m.raised then owe else owe ++ [.watermark low m.depth m.count m.stamp]

/-- The high latched bit after a word is written to QSTATUS: a crossing in the same cycle leaves it set, and is a latching (R290). -/
def qClearHigh (at_ : Stamp) (word : Nat) (q : WordQ) : WordQ :=
  if q.highLatched && bit 8 word then match crossedAt at_ q.highAt with
    | some m => { q with owe := lateLatch false m q.owe, highAt := some { m with raised := true } }
    | none => { q with highLatched := false }
  else q

/-- As `qClearHigh`, for the low mark. -/
def qClearLow (at_ : Stamp) (word : Nat) (q : WordQ) : WordQ :=
  if q.lowLatched && bit 7 word then match crossedAt at_ q.lowAt with
    | some m => { q with owe := lateLatch true m q.owe, lowAt := some { m with raised := true } }
    | none => { q with lowLatched := false }
  else q

/-- The latched bits of QSTATUS that a word clears (R290, R292). -/
def qClear (at_ : Stamp) (word : Nat) (q : WordQ) : WordQ :=
  qClearLow at_ word (qClearHigh at_ word
    { q with lostLatched := q.lostLatched && !bit 10 word, underrun := q.underrun && !bit 9 word })

/-- QSTATUS_CLEAR (R290). -/
def execQstatusClear (at_ : ReqAt) (word : Nat) (s : State) : Result :=
  s.onRequest at_ (fun s => (s.onNq at_.seg (qClear s.now word)).respond at_.seg 0 0)

/-! The drain. -/

/-- The NTC rings that take a notice with this word 0: enabled, KIND_MASK bit NOTICE, and PARTITION_MASK for the scopes
PARTITION, STREAM and INDEX (R295). -/
def State.admitting (s : State) (word0 : Nat) : List Nat :=
  let code := bits 55 48 word0
  let scope := bits 47 44 word0
  let part := bits 38 35 word0
  (s.rings.filter fun e =>
    e.2.enable && e.2.kind == 3 && code < 16 && e.2.kindMask.testBit code
      && (!(scope == 3 || scope == 4 || scope == 5) || e.2.partMask.testBit part)).map (·.1)

/-- A ring cannot take a notice record now: a word of it, or its write-back, failed and waits, or its entries are all being written
(R405). -/
def State.ntcBlocked (s : State) (n : Nat) : Bool :=
  let r := s.ring n
  r.writing.any (·.failed) || !r.rewrites.isEmpty || r.entries < r.writing.length + 4

/-- The rings that a record is written to: those that admit it, if it is of four words (R295). -/
def State.bound (s : State) (rec : List QRead) : List Nat :=
  if rec.length == 4 then s.admitting ((rec.headD {}).data) else []

/-- Every ring that a record is bound for can take it now (R405). -/
def State.roomFor (s : State) (rec : List QRead) : Bool := (s.bound rec).all (fun n => !s.ntcBlocked n)

/-- A record of four words written to each ring that admits it; another record, or one that reaches no ring, is counted in
NOTICES_UNROUTED (R295). -/
def State.route (s : State) (rec : List QRead) : State :=
  if (s.bound rec).isEmpty then s.count (fun c => { c with unrouted := c.unrouted + 1 })
  else (s.bound rec).foldl (fun t n => rec.foldl (fun u w => u.ntcWord n w) t) s

/-- The words of a notice that the drain makes itself, as reads. -/
def madeNotice (words : List Nat) : List QRead :=
  words.zipIdx.map (fun p => { data := p.1, eor := p.2 == 3 })

/-- The words up to and including the next EOR popped; none while no record is whole. -/
def popRecord (at_ : Stamp) : Nat → WordQ → List QRead × WordQ
  | 0, q => ([], q)
  | fuel + 1, q =>
    let t := qRead at_ q
    if t.1.eor || t.1.underrun then ([t.1], t.2)
    else
      let u := popRecord at_ fuel t.2
      (t.1 :: u.1, u.2)

/-- The queue holds a whole record. -/
def WordQ.hasRecord (q : WordQ) : Bool := q.words.any (·.eor)

/-- The notice of a latching of a segment's notice queue (R294, R295). -/
def owedNotice (i : Nat) (e : QEvent) : List QRead :=
  madeNotice (noticeWords (e.notice 0).1 0x7 i 0 e.stamp (e.notice 0).2)

/-- The next record of a queue can be drained: it is whole, and every ring it is bound for can take it (R295, R405). -/
def State.nextFree (s : State) (at_ : Stamp) (q : WordQ) : Bool := q.hasRecord && s.roomFor (popRecord at_ q.depth q).1

/-- A segment's queue holds something that the manager can drain now: a notice behind a word that waits is not (R405). -/
def State.drainable (s : State) (i : Nat) : Bool :=
  let q := (s.seg i).nq
  !q.owner && (match s.overBy q.owe with
    | e :: _ => s.roomFor (owedNotice i e)
    | [] => s.nextFree s.now q)

/-- The notice that a new manager writes before any other stands ready (R367). -/
def State.announces (s : State) : Bool := !(s.seg s.mgr).nq.owner && s.nextFree s.now (s.seg s.mgr).nq

/-- Whose turn it is: the manager's own queue while MANAGER_TAKEOVER stands in it (R367), else the first segment, in rotation after the
last drained, that has something to drain (R295). -/
def State.drainTurn (s : State) : Option Nat :=
  let n := s.segs.length
  if s.roles.announce then (if s.announces then some s.mgr else none)
  else ((List.range n).map (fun k => (s.vectors.drainLast + 1 + k) % n)).find? s.drainable

/-- The notices of a queue's own latchings, made by the drain and never pushed into the queue (R295), while their rings can take
them; the rest stay owed. -/
def State.drainOwed (i : Nat) : List QEvent → State → State
  | [], s => s
  | e :: rest, s =>
    if s.roomFor (owedNotice i e) then State.drainOwed i rest ((s.onNq i (fun q => { q with owe := q.owe.erase e })).route (owedNotice i e))
    else s

/-- The next record of a segment's queue popped and routed. -/
def State.sendNext (s : State) (i : Nat) : State :=
  let t := popRecord s.now (s.seg i).nq.depth (s.seg i).nq
  (s.onNq i (fun _ => t.2)).route t.1

/-- One record drained from a segment's queue and routed. -/
def State.drainOne (s : State) (i : Nat) : State :=
  let q := (s.seg i).nq
  if (s.overBy q.owe).isEmpty && s.nextFree s.now q then s.sendNext i else s

/-- One turn of the drain at a segment (R295, R367). -/
def State.drainAt (s : State) (i : Nat) : State :=
  if s.roles.announce then { s.sendNext i with roles := { s.roles with announce := false } }
  else (State.drainOwed i (s.overBy (s.seg i).nq.owe) s).drainOne i

/-- NOTICE_DRAIN (R295): one turn of the rotation. -/
def execNoticeDrain (at_ : SegAt) (s : State) : Result :=
  let s' := (s.onCycle at_.cyc).closeCycles
  onlyIf (s.mgrUp && s.roles.recovering.isNone && s'.drainTurn == some at_.seg)
    (let t := s'.drainAt at_.seg
     { t with vectors := { t.vectors with drainLast := at_.seg } }) s

end Sys2Proof.Machine
end

