-- ==== Sys2Proof/Machine/Beat.lean ====
section
/-! DEFINITION. The beat and its reference (R39 to R42, R414), the work of each beat edge (R191, R222, R386), heartbeats (R29,
R359, R363) and the standby's mirror (R30, R31). -/

namespace Sys2Proof.Machine

/-! Reference and beat. -/

/-- DETAIL of REF_HOLDOVER: state and offset in ns (R294). -/
def holdoverDetail (state : Nat) (offsetNs : Int) : Nat := packMsb [(8, state), (8, 0), (32, unsigned 32 offsetNs), (64, 0)]

/-- The offset after one beat: unmoved while locked, drifting by at most 2 ppm of 5 µs in holdover, moving toward 0 by at most
the slew limit while converging (R41, R42). -/
def offsetAfter (r : RefState) (slewPpm : Nat) (slew off : Int) : Int :=
  match r with
  | .locked => off
  | .holdover => off + clampInt (-10) 10 slew
  | .converging =>
    let m : Int := min (slew.natAbs : Int) (5 * (slewPpm : Int))
    if off < 0 then min 0 (off + m) else max 0 (off - m)

/-- Refills fall on beats that are a multiple of 16,384 (R222). -/
def refillDue (beat : Nat) : Bool := beat % 16384 == 0

/-- A sequence paused for its budget becomes a resumption candidate at an edge at which its tenant's level suffices (R224). -/
def State.markCandidates (s : State) : State :=
  { s with seqs := s.seqs.map (fun e =>
      (e.1, if e.2.pausedBudget.isSome && 256 * ((s.tenant e.2.req.tenant).resumeMark : Int) ≤ (s.tenant e.2.req.tenant).level
        then { e.2 with resumable := true } else e.2)) }

/-- Screen credit accrues at one cycle for every 16 of the array, up to 4,096 (R63), beat by beat: 5 µs of its clock. -/
def accrue (clockMhz : Nat) (a : ArrayS) : ArrayS :=
  let n := a.creditPart + clockMhz * 5
  { a with credit := min 4096 (a.credit + ((n / 16 : Nat) : Int)), creditPart := n % 16 }

/-- What a beat edge does in each segment: credit, and the junction reading (R63, R386). -/
def edgeSegment (temps : List Int) (i : Nat) (g : Segment) : Segment :=
  { g with ma0 := accrue g.health.clockMhz g.ma0, ma1 := accrue g.health.clockMhz g.ma1,
           health := { g.health with tempC := temps.getD i g.health.tempC } }

/-- The joined segments at or above the trip temperature (R386). -/
def State.tooHot (s : State) : List Nat :=
  (List.range s.segs.length).filter (fun i =>
    ((s.seg i).state == .serving || (s.seg i).state == .fenced) && (s.glob.thermalTrip : Int) ≤ (s.seg i).health.tempC)

/-- The beat counter moves on, and with it the offset from the reference (R39, R42). -/
def nextBeat (slewPpm : Nat) (slew : Int) (t : TimeBase) : TimeBase :=
  { t with beat := t.beat + 1, offsetPs := offsetAfter t.refState slewPpm slew t.offsetPs,
           edgePhase := if refillDue (t.beat + 1) then 0 else 1, edgeRank := 0 }

/-- The manager's work of a beat edge that no other command stands for: pages on their way back join the pools (R198), one set
is swept (R191), and budget candidates are marked (R224). -/
def State.managerEdge (s : State) : State :=
  if s.mgrUp then
    let s := ((List.range 16).foldl (fun t p => t.settle p) s).sweepSet
    if s.time.edgePhase == 0 then s else s.markCandidates
  else s

/-- Stage 1 of bring-up, the manager's own self-test, is published from the first beat edge after the release of the reset until the test
ends (R390). DESIGN CHOICE (log entry 37): the spec does not say when stage 0 passes into it. -/
def State.stageOne (s : State) : State :=
  if s.power.stage == 0 && !s.power.inReset then { s with power := { s.power with stage := 1 } } else s

/-- BEAT_EDGE (R39). Values committed in the beat that ends are in force from here (R322), those committed in hush from the wake edge
(R395). In split mode the edges of the two blocks
alternate, and what follows an edge is its block's (DESIGN CHOICE, log entry 35). -/
def execBeatEdge (slewPs : Int) (temps : List Int) (s : State) : Result :=
  let s := s.turn.secondEnds
  let s := ({ s with time := nextBeat s.glob.slewPpm slewPs s.time, prior := if s.power.hush == 0 then none else s.prior } : State).closeCycles
  let s := s.stageOne
  let s := s.onSegs (edgeSegment temps)
  let n := (s.segs.filter (fun g => g.supply.throttled)).length
  let s := (s.count (fun c => { c with throttleBeats := c.throttleBeats + n })).managerEdge
  .next (s.tooHot.foldl (fun t i => t.loseAny i 0x07 t.edge) s)

/-- A pulse per second meets the conditions of R41: in time, within 20 ns of its beat edge, and its time of day, if any, within
a second of the beat. -/
def ppsGood (beat : Nat) (tod : Option Nat) (inTime : Bool) (offsetNs : Int) : Bool :=
  inTime && offsetNs.natAbs ≤ 20 &&
    (match tod with
     | some t => t * 200000 ≤ beat + 200000 && beat ≤ t * 200000 + 200000
     | none => true)

/-- The counter loaded at the first pulse per second after acquisition (R39). -/
def loadBeat (tod : Nat) (t : TimeBase) : TimeBase :=
  { t with beat := tod * 200000, acquired := true, refState := .locked, offsetPs := 0, goodPps := 0,
           edgePhase := if refillDue (tod * 200000) then 0 else 1, edgeRank := 0 }

/-- The beats that a load of the counter skips do not count toward a join deadline (R393). -/
def skipBeats (was now : Nat) (g : Segment) : Segment := { g with joinDeadline := g.joinDeadline + now - was }

/-- A pulse per second counted toward the reference's return (R42). -/
def countPps (good : Bool) (t : TimeBase) : TimeBase := { t with goodPps := if good then t.goodPps + 1 else 0 }

/-- A pulse per second at a segment (R41, R42): its reference is present from the first good pulse, or, once it has been lost, from
the second of two in a row. -/
def markPps (load good : Bool) (g : Segment) : Segment :=
  let n := if good then g.goodPps + 1 else 0
  let back := load || (good && (!g.refLost || 2 ≤ n))
  { g with goodPps := n, refPresent := g.refPresent || back, refLost := g.refLost && !back, ownRef := g.ownRef || load }

/-- The time of day that an edge takes: of the words presented, the latest first, the one that stood with TOD_VALID high throughout the
1 µs before the edge, or, where that microsecond saw a change, the stable word before it (R414). -/
def todTaken (l : List TodWord) : Option Nat := (l.find? (fun w => w.untilNs < 1000 && 1000 ≤ w.sinceNs)).map (·.sec)

/-- PPS_EDGE (R39, R41, R414): the edge is taken as arriving PPS_DELAY_NS earlier than it reaches the pin. -/
def execPpsEdge (seg : Nat) (tod : List TodWord) (inTime : Bool) (offsetNs : Int) (s : State) : Result :=
  let offsetNs := offsetNs - (s.glob.ppsDelay : Int)
  let tod := todTaken tod
  let load := seg == s.mgr && !s.time.acquired && tod.isSome
  let good := load || ppsGood s.time.beat tod inTime offsetNs
  let s := s.onSeg seg (markPps load good)
  if load then
    let t := s.onSegs (fun _ g => skipBeats s.time.beat (tod.getD 0 * 200000) g)
    .next { t with time := loadBeat (tod.getD 0) s.time, prior := none }
  else .next (if seg == s.mgr then { s with time := countPps good s.time } else s)

/-- REF_LOST (R41): a segment's reference is lost; the manager's takes the block into holdover. -/
def execRefLost (seg : Nat) (_cause : RefLoss) (s : State) : Result :=
  let t := s.onSeg seg (fun g => { g with refPresent := false, refLost := true, goodPps := 0 })
  let enters := seg == s.mgr && s.time.refState != .holdover && s.mgrAwake
  .next (if enters then
      ({ t with time := { t.time with refState := .holdover, goodPps := 0 } }).raise s.mgr 0x09 0x0 0 0 s.edge
        (holdoverDetail 0 (s.time.offsetPs / 1000))
    else t)

/-- REF_RESTORED (R42): two good pulses in a row end the holdover; the beat converges from the offset measured. -/
def execRefRestored (offsetNs : Int) (s : State) : Result :=
  onlyIf (s.time.refState == .holdover && 2 ≤ s.time.goodPps)
    (({ s with time := { s.time with refState := .converging, offsetPs := offsetNs * 1000 } }).onSeg s.mgr
      (fun g => { g with refPresent := true, refLost := false })) s

/-- REF_CONVERGED (R42). -/
def execRefConverged (s : State) : Result :=
  onlyIf (s.time.refState == .converging && s.time.offsetPs == 0)
    (({ s with time := { s.time with refState := .locked } }).raise s.mgr 0x09 0x0 0 0 s.edge (holdoverDetail 1 0)) s

/-- A Beat Unit's source under R40: its own reference while present and within the skew limit. -/
def ownSource (present : Bool) (limit : Nat) (skewNs : Int) : Bool := present && skewNs.natAbs ≤ limit

/-- BEAT_SOURCE_CHANGE (R40). -/
def execBeatSourceChange (seg : Nat) (skewNs : Int) (s : State) : Result :=
  let g := s.seg seg
  let own := ownSource g.refPresent s.glob.skewNs skewNs
  onlyIf (s.segUp seg && seg != s.mgr && own != g.ownRef && s.power.hush != 1)
    ((s.onSeg seg (fun g => { g with ownRef := own })).raise seg 0x09 0x1 seg 0 s.edge (holdoverDetail (flag (!own)) skewNs)) s

/-! Token refill. -/

/-- A bucket refilled; a level above 256 × BURST is left where it stands (R222; one that a lowered BURST leaves above it too, log entry
41). -/
def refilled (t : Tenant) : Tenant :=
  if t.valid then { t with level := max t.level (min (t.level + 256 * (t.rate : Int)) (256 * (t.burst : Int))) } else t

/-- TOKEN_REFILL (R222): it comes first at its edge. -/
def execTokenRefill (s : State) : Result := underForce (fun s =>
  onlyIf (s.mgrAwake && s.time.edgePhase == 0 && refillDue s.time.beat)
    ({ s with tenants := s.tenants.map (fun (e : Nat × Tenant) => (e.1, refilled e.2)),
              time := { s.time with edgePhase := 1 } } : State).markCandidates s) s

/-! Heartbeats. -/

/-- A heartbeat sent to a segment: it is on its way with its beat stamp. One that 12 later ones have followed is forgotten. -/
def sendHeartbeat (beat : Nat) (g : Segment) : Segment :=
  { g with hbWay := ((g.hbWay.filter (· != beat)) ++ [beat]).drop (if 12 ≤ (g.hbWay.filter (· != beat)).length then 1 else 0) }

/-- HEARTBEAT (R29): once every 4 bt, to every segment of the block; the manager's own takes it at once. -/
def execHeartbeat (s : State) : Result :=
  let send (i : Nat) (g : Segment) : Segment :=
    if i == s.mgr then { g with lastHb := s.time.beat, lastAck := s.time.beat } else sendHeartbeat s.time.beat g
  onlyIf (s.mgrUp && s.power.hush == 0 && s.time.beat % 4 == 0)
    ((s.onSegs send).controlAll ((List.range s.segs.length).filter (· != s.mgr))) s

/-- A segment takes a heartbeat stamped `b`: a fenced one is unfenced by a manager other than the one it had lost (R364, R367);
a joined one acknowledges (R363). -/
def heartbeatTaken (mgr b now : Nat) (g : Segment) : Segment :=
  let free := g.state == .fenced && g.hbFrom != mgr && g.fenceReason != 0x05
  let state := if free then .serving else g.state
  { g with lastHb := max g.lastHb b, hbFrom := if free || g.state != .fenced then mgr else g.hbFrom, state := state,
           hbWay := g.hbWay.filter (b < ·), fenceReason := if free then 0 else g.fenceReason, lastAck := now }

/-- A segment unfenced after its new manager's recovery has ended serves its queues at once (R291). -/
def unfencedQueues (at_ : Stamp) (g : Segment) : Segment :=
  let g := holdQueues at_ false g
  { g with nq := { g.nq with owner := false } }

/-- HEARTBEAT_RECEIVE (R363): a heartbeat on its way reaches its segment, which acknowledges it on the control channel. -/
def execHeartbeatReceive (seg stampBeat : Nat) (s : State) : Result :=
  onlyIf (s.mgrUp && seg != s.mgr && s.isJoined seg && (s.seg seg).hbWay.contains stampBeat && s.power.hush == 0)
    (let take := heartbeatTaken s.mgr stampBeat s.time.beat
     let freed := (s.seg seg).state == .fenced && (take (s.seg seg)).state == .serving && s.roles.recovering.isNone
     let t := s.control seg s.mgr
     if freed then (t.onSeg seg (fun g => unfencedQueues s.now (take g))).settleReads else t.onSeg seg take) s

/-- HEARTBEAT_ACK_TIMEOUT (R359): a joined segment whose acknowledgements stop for 40 bt is lost with reason HEARTBEAT. -/
def execHeartbeatAckTimeout (cyc seg : Nat) (s : State) : Result :=
  let e := s.stampFor cyc
  onlyIf (s.mgrUp && s.isJoined seg && seg != s.mgr && (s.seg seg).lastAck + 40 ≤ s.time.beat && s.power.hush == 0)
    ((s.given e).loseSegment seg 0x01 e) s

/-! The mirror. -/

/-- The three mirrored tables as they stand (R30). -/
def State.tables (s : State) (n : Nat) : Delta := { seqNo := n, handles := s.handles, tenants := s.tenants, rings := s.rings }

/-- A commit point sends its delta over the control channel, ahead of its records (R25, R30, R47). -/
def State.mirrorCommit (s : State) : State :=
  let n := s.mirror.nextSeq
  let m := { s.mirror with nextSeq := n + 1 }
  match s.roles.standby with
  | some i => { s.control s.mgr i with mirror := { m with unacked := m.unacked ++ [s.tables n] } }
  | none => { s with mirror := m }

/-- The standby takes a delta: the next in order is applied and acknowledged; after a gap it asks for a full copy (R30). -/
def applyDelta (d : Delta) (m : Mirror) : Mirror :=
  if m.copying then m
  else if d.seqNo == m.applied.seqNo + 1 then { m with applied := d, unacked := m.unacked.filter (fun x => x.seqNo != d.seqNo) }
  else if m.applied.seqNo < d.seqNo then { m with copying := true, current := false }
  else m

/-- MIRROR_DELTA_APPLY (R30). -/
def execMirrorDeltaApply (seqNo : Nat) (s : State) : Result :=
  match s.mirror.unacked.find? (fun d => d.seqNo == seqNo) with
  | some d =>
    match s.roles.standby with
    | some i => .next { s.control i s.mgr with mirror := applyDelta d s.mirror }
    | none => .next s
  | none => .next s

/-- MIRROR_COPY_COMPLETE (R30, R369): the mirror is current, and a segment named standby becomes it. -/
def execMirrorCopyComplete (s : State) : Result :=
  onlyIf (s.mgrUp && s.mirror.copying)
    { s with
      mirror := { s.mirror with applied := s.tables (s.mirror.nextSeq - 1), unacked := [], current := true, copying := false },
      roles := { s.roles with standby := s.roles.candidate.or s.roles.standby, candidate := none } } s

end Sys2Proof.Machine
end

