-- ==== Sys2Proof/Machine/Datagrams.lean ====
section
/-! DEFINITION. The datagrams that the span port builds (R149, R150, R411): their headers, tag and checksum, and the session they are
sent on (R152, R348). -/

namespace Sys2Proof.Machine

/-- The 24-byte span header (R150). -/
def spanHead (minor type block session seq ack length records : Nat) : Nat :=
  packMsb [(8, 3), (8, minor), (8, type), (6, block), (2, 0), (32, session), (32, seq), (32, ack), (16, length), (8, records), (40, 0)]

/-- Payload bytes that a datagram carries at an MTU (R149). -/
def spanRoom (mtu : Nat) : Nat := if mtu == 9000 then 8912 else 1412

/-- Bytes summed as 16-bit words in network order. -/
def sumWords : List Nat → Nat
  | a :: b :: rest => a * 256 + b + sumWords rest
  | [a] => a * 256
  | [] => 0

/-- A sum with its carries added in, complemented; 0 is sent as 0xFFFF (RFC 8200, R149). -/
def onesChecksum (n : Nat) : Nat :=
  let fold (k : Nat) : Nat := k % 65536 + k / 65536
  let c := 65535 - fold (fold (fold n))
  if c == 0 then 65535 else c

/-- The UDP checksum: over the pseudo-header of RFC 8200, the UDP header with its two ports and what follows it (R149). -/
def udpChecksumOf (src dst srcPort port : Nat) (data : List Nat) : Nat :=
  let n := data.length + 8
  onesChecksum (sumWords (bytesBe 16 src) + sumWords (bytesBe 16 dst) + n + 17 + srcPort + port + n + sumWords data)

/-- The UDP checksum of a datagram that the block builds, both of whose ports are SPAN_UDP_PORT (R149). -/
def udpChecksum (src dst port : Nat) (data : List Nat) : Nat := udpChecksumOf src dst port port data

/-- The nonce of a datagram: direction byte, key generation and SEQ (R348). -/
def spanNonce (fromManager : Bool) (gen seq : Nat) : Nat :=
  packMsb [(8, flag (!fromManager)), (48, 0), (8, gen), (32, seq)]

/-- A block's own index in its span: 0 for the span manager; for a worker that of the SPAN_PEERS entry with its own address (log entry
32). -/
def State.ownBlock (s : State) : Nat :=
  if s.glob.spanRole == 1 then 0
  else match s.glob.spanPeers.find? (fun x => x.2 == s.glob.localIp) with
    | some x => x.1
    | none => Config.unstated 40 0

/-- A datagram of a session as it leaves (R149, R150, R411). What its payload holds may depend on the span header, which a hello
signs (R348). -/
def State.datagram (s : State) (x : SpanSession) (type seq length records : Nat) (payload : List Nat → List Nat) : SpanMsg :=
  let ack := (x.rxNext + 2 ^ 32 - 1) % 2 ^ 32
  let head := spanHead x.minor type s.ownBlock x.id seq ack length records
  let hb := bytesLe 24 head
  let body := payload hb
  let tag := (Config.gcmSeal (x.txKey.getD 0) (nonceBytes (spanNonce (s.glob.spanRole == 1) x.txGen seq)) (ofBytesLe (hb ++ body)) 0).2 % 2 ^ 128
  let data := hb ++ body ++ bytesLe 16 tag
  { type := type, session := x.id, seq := seq, ack := ack, stream := x.stream,
    eth := packMsb [(48, s.glob.gatewayMac), (48, s.glob.localMac), (16, 0x86DD)],
    ip := packMsb [(4, 6), (8, s.glob.spanTc), (20, Config.unstated 41 seq), (16, data.length + 8), (8, 17), (8, 64), (128, s.glob.localIp),
      (128, x.addr)],
    udp := packMsb [(16, s.glob.spanPort), (16, s.glob.spanPort), (16, data.length + 8),
      (16, udpChecksum s.glob.localIp x.addr s.glob.spanPort data)],
    head := head, body := body, tag := tag }

/-- A datagram put on its way. -/
def State.emit (s : State) (m : SpanMsg) : State := { s with span := { s.span with out := s.span.out ++ [m] } }

/-- A session by its identifier. -/
def State.spanSession (s : State) (id : Nat) : Option SpanSession := s.span.sessions.find? (fun x => x.id == id)

/-- A session changed. -/
def State.onSpan (s : State) (id : Nat) (f : SpanSession → SpanSession) : State :=
  { s with span := { s.span with sessions := s.span.sessions.map (fun x => if x.id == id then f x else x) } }

/-- A datagram sent on a session with the next SEQ, kept until it is acknowledged (R150, R152). -/
def State.spanPost (s : State) (id type length records : Nat) (payload : List Nat → List Nat) : State :=
  match s.spanSession id with
  | some x =>
    (s.emit (s.datagram x type x.txSeq length records payload)).onSpan id (fun y =>
      { y with txSeq := (y.txSeq + 1) % 2 ^ 32, unacked := y.unacked ++ [(y.txSeq, s.time.beat)] })
  | none => s

/-- A datagram of some records sent on a session. -/
def State.spanSend (s : State) (id type records : Nat) (body : List Nat) : State :=
  s.spanPost id type body.length records (fun _ => body)

/-- Records put into datagrams, in order, as many in each as its room allows (R149, R153): how many records each datagram carries, and
their bytes. -/
def packDatagrams (room : Nat) : List (List Nat) → Nat → List Nat → List (Nat × List Nat)
  | [], n, cur => if n == 0 then [] else [(n, cur)]
  | r :: rest, n, cur =>
    if n == 0 || cur.length + r.length ≤ room then packDatagrams room rest (n + 1) (cur ++ r)
    else (n, cur) :: packDatagrams room rest 1 r

/-- Records sent on a session in as few datagrams as hold them. -/
def State.spanSendAll (s : State) (id type : Nat) (records : List (List Nat)) : State :=
  (packDatagrams (spanRoom s.glob.spanMtu) records 0 []).foldl (fun t d => t.spanSend id type d.1 d.2) s

end Sys2Proof.Machine
end

