-- ==== Sys2Proof/Machine/Kernels.lean ====
section
/-! DEFINITION. The Thread Complex: thread slots (R160 to R162), argument block headers (R163), kernel faults and bounds (R164,
R165), the writes of kernels (R104, R125, R167) and the standard attention kernel (R170, R171). -/

namespace Sys2Proof.Machine

/-! Argument blocks. -/

/-- A kernel image of a partition by its identifier (R159). -/
def Partition.kernel (p : Partition) (id : Nat) : Option Kernel := p.kernels.find? (fun k => k.id == id)

/-- MAGIC and ABI of the header match (R163). -/
def headerOk (k : Kernel) (m : Memory) (w : Nat) : Bool :=
  bits 127 112 (argHeader m w) == 0x4B41 && bits 111 104 (argHeader m w) == k.abi

/-- The excluded channels that EXCL_OFF names, laid out as an outlier list (R113, R163). -/
def excludedChannels (m : Memory) (w : Nat) : List Nat :=
  let off := bits 95 80 (argHeader m w)
  if off == 0 then []
  else
    let p := memPart m (kernelArg w * 64 + off * 64) 136
    let n := bits 63 58 (memReadWord p 0 8)
    (List.range n).map (fun i => bits 16 0 (memReadWord p (8 + 4 * i) 4))

/-! Thread slots. -/

/-- Thread slots of a kind: 256 for the screen partition, 3,840 for the others (R160). -/
def slotsOfKind (part : Nat) : Nat := if part == 15 then 256 else 3840

/-- Thread slots that kernels of a kind hold on a segment. -/
def Segment.threadsHeld (g : Segment) (part : Nat) : Nat :=
  sumNat ((g.kernels.filter (fun k => (k.part == 15) == (part == 15))).map (·.threads))

/-- Free thread slots for a kernel. -/
def Segment.threadsFree (g : Segment) (part : Nat) : Nat := slotsOfKind part - g.threadsHeld part

/-- Thread slots that BE kernels of a generation partition hold. -/
def Segment.beThreads (g : Segment) : Nat := sumNat ((g.kernels.filter (fun k => k.part != 15 && k.cls == .be)).map (·.threads))

/-- An LC kernel takes the slots of the BE step: the free ones fall short and those make up the shortfall (R162). -/
def Segment.takesThreads (g : Segment) (part : Nat) (cls : Cls) (n : Nat) : Bool :=
  part != 15 && cls == .lc && g.threadsFree part < n && n ≤ g.threadsFree part + g.beThreads

/-- A kernel is running on a segment. -/
def Segment.kernelRun (g : Segment) (p : Nat) (c : Cls) (slot : Nat) : Option KernelRun :=
  g.kernels.find? (fun k => k.part == p && k.cls == c && k.slot == slot)

/-- The earlier kernel descriptors of a program have all started (R161). -/
def earlierStarted (img : ProgramImage) (g : Segment) (t : SegStep) (slot : Nat) : Bool :=
  (((img.slots.zip (continuation false img.slots)).take slot).zipIdx).all (fun d =>
    d.1.2 || dType d.1.1 != 3 || t.done.contains d.2 || (g.kernelRun t.part t.cls d.2).isSome)

/-- A range of bytes lies within the step's allocations on a segment (R164). -/
def Segment.inAlloc (g : Segment) (p : Nat) (c : Cls) (addr n : Nat) : Bool :=
  g.allocs.any (fun a => a.part == p && a.cls == c && a.base * 256 ≤ addr && addr + n ≤ (a.base + a.units) * 256)

/-- What a kernel that starts finds wrong: its argument block lies outside the step's allocation, or the header does not match its
image (R163, R164, R168). -/
def State.headerBadAt (s : State) (seg p : Nat) (c : Cls) (w : Nat) : Bool :=
  let g := s.seg seg
  match (s.part p).kernel (kernelId w) with
  | some k => !(g.inAlloc p c (kernelArg w * 64) (kernelArgLen w * 64)) || !headerOk k g.staging w
  | none => false

/-- A kernel's threads placed in rotation over the 64 cores (R161), its registers and core-local store empty (R156); whether its
header matched is found now (R163). -/
def startKernel (p : Nat) (c : Cls) (slot threads : Nat) (bad : Bool) (g : Segment) : Segment :=
  { g with kernels := g.kernels ++ [{ part := p, cls := c, slot := slot, threads := threads, firstCore := g.nextCore,
                                      headerBad := bad }],
           nextCore := (g.nextCore + threads) % 64 }

/-- KERNEL_START (R161, R162): a kernel that finds too few slots waits; it is asked to start again. -/
def execKernelStart (seg part : Nat) (cls : Cls) (slot : Nat) (s : State) : Result :=
  let g := s.seg seg
  match s.stepOf part cls, g.stepHere part cls with
  | some st, some t =>
    let n := kernelThreads (st.prog.image.slot slot)
    let bad := s.headerBadAt seg part cls (st.prog.image.slot slot)
    if g.runs part cls && t.issued.contains slot && !t.done.contains slot && (g.kernelRun part cls slot).isNone
        && dType (st.prog.image.slot slot) == 3 && earlierStarted st.prog.image g t slot then
      let s := if g.takesThreads part cls n then s.abandonOn seg else s
      .next (if n ≤ (s.seg seg).threadsFree part then s.onSeg seg (startKernel part cls slot n bad) else s)
    else .next s
  | _, _ => .next s

/-! Keys and values. -/

/-- The nodes from the root to a node, both included (R170). -/
def pathTo (nodes : List BoundNode) (n : Nat) : List Nat :=
  let step (acc : List Nat) (_ : Nat) : List Nat :=
    match acc with
    | k :: _ => if k == 0 then acc else
        match nodes.find? (fun b => b.node == k) with
        | some b => b.parent :: acc
        | none => acc
    | [] => acc
  (List.range 64).foldl step [n]

/-- The positions that the row of a list entry attends to, pages in position order and then provisional slots in path order (R170):
for a root or a tree node the slots of the nodes on its path, for a prefill row those of the positions up to its own. What was bound
at the freeze decides: a kernel does not observe a cancel (R167). -/
def attends (b : SegBind) (e : RowEntry) : List Nat × List Nat :=
  let pages := List.range b.len
  if e.kind == 3 then (pages, (List.range (e.pos + 1 - b.len)).map (fun i => b.len + i))
  else (pages, (pathTo b.nodes e.node).map (fun k => b.len + k))

/-- The position whose KV entry the row of a list entry writes: node n of a tree takes the n-th slot after the committed length, a
prefill row its own position (R179, R181). -/
def rowPos (b : SegBind) (e : RowEntry) : Nat := if e.kind == 3 then e.pos else b.len + e.node

/-- A row of a step's row list that belongs to a sequence, with what the step bound of it (R60, R170). -/
def SegStep.boundRow (t : SegStep) (list row : Nat) : Option (RowEntry × SegBind) :=
  match (t.rowLists.getD list {}).entries[row]? with
  | some e => if e.kind == 0 then none else (t.bound.find? (fun b => b.seq == e.seq)).map (fun b => (e, b))
  | none => none

/-- KV heads that a segment holds of a partition's target or draft model (R177). -/
def Partition.kvHeads (p : Partition) (draft : Bool) : Nat := match (if draft then p.draft else p.target) with
  | some m => m.heads
  | none => 0

/-- The block record entry that query head h of a row reads: the KV head of its group, each KV head serving as many query heads as
the others (R170, R178). -/
def kvSlot (kvHeads heads layer h : Nat) : Nat := layer * kvHeads + h * kvHeads / heads

/-! The attention kernel. -/

/-- The exact dot product of codes. -/
def dotInt (a b : List Int) : Int := (a.zip b).foldl (fun acc p => acc + p.1 * p.2) 0

/-- What the kernel carries from block to block: m, l and the accumulators (R171). -/
structure AttnAcc where
  m : F32 := 0xFF800000
  l : F32 := 0
  acc : List F32 := List.replicate 128 0
  deriving DecidableEq, Repr

/-- The score of a position (R171). -/
def attnScore (q : F16 × List Int) (c : F32) (e : KvEntry) : F32 :=
  f32Mul (f32Mul (f32OfInt (dotInt q.2 e.key)) (f32Mul (f32OfF16 q.1) (f32OfF16 e.kScale))) c

/-- The code of a weight in its block (R171). -/
def weightCode (sw w : F32) : Int := clampInt 0 255 (f32Rne (f32Div w sw))

/-- One block of at most 64 positions (R171). -/
def attnBlock (q : F16 × List Int) (c : F32) (a : AttnAcc) (block : List KvEntry) : AttnAcc :=
  let scores := block.map (attnScore q c)
  let m := scores.foldl f32Max a.m
  let k := f32Exp (f32Sub a.m m)
  let p := scores.map (fun x => f32Exp (f32Sub x m))
  let w := (p.zip block).map (fun x => f32Mul x.1 (f32OfF16 x.2.vScale))
  let top := w.foldl f32Max 0
  let acc := a.acc.map (f32Mul · k)
  let l := p.foldl f32Add (f32Mul a.l k)
  if f32Eq top 0 then { m := m, l := l, acc := acc }
  else
    let sw := f32Div top f255
    let codes := w.map (weightCode sw)
    { m := m, l := l,
      acc := acc.zipIdx.map (fun x => f32Add x.1 (f32Mul (f32OfInt (dotInt codes (block.map (fun e => e.val.getD x.2 0)))) sw)) }

/-- Positions in blocks of at most 64. -/
def attnBlocks : Nat → List KvEntry → List (List KvEntry)
  | 0, _ => []
  | n + 1, l => if l.isEmpty then [] else l.take 64 :: attnBlocks n (l.drop 64)

/-- The output of one query head over the positions it reads (R171): NaN where a score is NaN. KV_SCALE_CLAMPS does not count the query's
group, which is no KV entry (DESIGN CHOICE, log entry 42). -/
def attention (query : List BF16) (c : F32) (kv : List KvEntry) : List BF16 :=
  let g := quantGroup (query.map f32OfBf16)
  let q := (g.1, g.2.1)
  if kv.any (fun e => f32IsNan (attnScore q c e) || f32IsNan (f32OfF16 e.vScale)) then List.replicate 128 bf16Nan
  else
    let a := (attnBlocks (kv.length + 1) kv).foldl (attnBlock q c) {}
    a.acc.map (fun x => bf16Of (f32Div x a.l))

/-! A kernel's writes. -/

/-- The stack addresses that a partition's kernels may write (R164, R173, R179): its region of the stack, without the table pool and
the page pool, which only the Cache Mover and KV entries write. -/
def State.stackRegion (s : State) (p : Nat) : Nat × Nat :=
  let b := s.regionBases p
  if p == 15 then (2 ^ 28, 2 ^ 28 + s.screenMib * 2 ^ 20) else (b.1, min stackBytes b.2.2)

/-- A range of bytes of host memory lies within one that a transfer of a program names (R58, R164). -/
def hostNamed (img : ProgramImage) (addr n : Nat) : Bool :=
  (List.range img.slots.length).any (fun k =>
    let w := img.slot k
    let w2 := img.slot (k + 1)
    let base := if xferKind w == 4 then xferSrc w2 else xferDst w2
    !(continuation false img.slots).getD k false && dType w == 4 && (xferKind w == 4 || xferKind w == 5)
      && base ≤ addr && addr + n ≤ base + xferLen w * 64)

/-- BF16 elements as bytes. -/
def bf16Bytes (l : List BF16) : List Nat := l.flatMap (fun x => bytesLe 2 x.toNat)

/-- A piece of a kernel's work is one that the kernel may do: an access of the size and alignment of R157 to its step's allocation,
its partition's region of the stack or host memory that its step's transfers name, or a KV entry at a position that the step has
reserved (R164, R167, R179). Staging SRAM accesses are aligned to their smallest size, 4 bytes (log entry 8). -/
def State.reaches (s : State) (seg p : Nat) (c : Cls) (img : ProgramImage) (k : Nat) (t : SegStep) (w : KernelWork) : Bool :=
  let g := s.seg seg
  match w with
  | .bytes a n => 4 ≤ n && n ≤ 512 && a % 4 == 0 && g.inAlloc p c a n
  | .stack a n =>
    64 ≤ n && n ≤ 256 && a % 64 == 0 && a % 4096 + n ≤ 4096 && (s.stackRegion p).1 ≤ a && a + n ≤ (s.stackRegion p).2
  | .host a n => hostNamed img a n
  | .attention out query heads factor list row draft layer =>
    let a := img.slot k
    factor % 4 == 0 && kernelArg a * 64 ≤ factor && factor + 4 ≤ (kernelArg a + kernelArgLen a) * 64 && factor + 4 ≤ stagingBytes
      && 0 < out && g.inAlloc p c (headerUnit out * 256) (256 + 256 * heads) && g.inAlloc p c (query * 256) (256 * heads)
      && (t.boundRow list row).isSome && 0 < heads && heads % (s.part p).kvHeads draft == 0
      && layer < (match (if draft then (s.part p).draft else (s.part p).target) with | some m => m.layers | none => 0)
  | .row u n => 0 < u && g.inAlloc p c (headerUnit u * 256) (256 + 2 * n)
  | .stats u n => 0 < u && g.inAlloc p c (headerUnit u * 256) (256 + 2 * n)
  | .kv list row draft slot =>
    (match t.boundRow list row with
     | some (e, b) => (if e.kind == 3 then b.from_ ≤ e.pos && e.pos < b.from_ + b.prefill else b.nodes.any (fun n => n.node == e.node))
     | none => false) && slot < setOf (if draft then (s.part p).draft else (s.part p).target)

/-- The activation rows that a kernel has written for sweeps (R104, R163). -/
def workRows (work : List KernelWork) : List Nat :=
  (work.filterMap (fun w => match w with
    | .attention out _ _ _ _ _ _ _ => some out
    | .row u _ => some u
    | .stats u _ => some u
    | _ => none)).eraseDups

/-- OUT_ROWS of a kernel's argument block header (R163). -/
def outRows (m : Memory) (w : Nat) : Nat := bits 47 32 (argHeader m w)

/-- The record of a row written with the current tag, its valid bit set (R102, R104). -/
def recordRow (launchNo unit : Nat) (excl : List Nat) (elems : List BF16) (g : Segment) : Segment :=
  let r := gatherStats launchNo ((elems.zipIdx).map (fun e => (e.1, excl.contains e.2)))
  { g with staging := writeStats g.staging unit r, validBits := insertNat (headerUnit unit) g.validBits }

/-- A row of elements written with its record. -/
def writeElems (launchNo unit : Nat) (excl : List Nat) (elems : List BF16) (g : Segment) : Segment :=
  recordRow launchNo unit excl elems { g with staging := memWriteBytes g.staging (unit * 256) (bf16Bytes elems) }

/-- The elements of a row as staging SRAM holds them. -/
def rowElems (m : Memory) (unit n : Nat) : List BF16 :=
  let p := memPart m (unit * 256) (2 * n)
  (List.range n).map (fun i => BitVec.ofNat 16 (memReadWord p (2 * i) 2))

/-! What a signed kernel computes. -/

/-- Memory cells as numbers. -/
def cellInputs (m : Memory) : List Nat := m.flatMap (fun c => [c.1, c.2.toNat])

/-- A KV entry as numbers. -/
def kvInputs (e : KvEntry) : List Nat :=
  [e.model, e.slot, e.pos, e.kScale.toNat, e.vScale.toNat] ++ codeBytes e.key ++ codeBytes e.val

/-- The stack as a step's kernels see it: without what other steps that have not committed have written (R167). -/
def Segment.stackSeen (g : Segment) (p : Nat) (c : Cls) : Memory :=
  (g.steps.filter (fun t => !(t.part == p && t.cls == c))).foldl (fun m t => t.undo.reverse.foldl putRun m) g.stack.mem

/-- Everything that a kernel may read (R164, R166, R167): its image, THREADS, its step's staging SRAM with the argument block in it,
its partition's stack region, the row lists, the page tables and histories of the sequences bound, and what it read of host memory. -/
def State.kernelInputs (s : State) (seg p : Nat) (c : Cls) (w : Nat) (k : Kernel) (t : SegStep) (host : List Nat) : List Nat :=
  let g := s.seg seg
  let region := s.stackRegion p
  let rows := t.rowLists.flatMap (fun l => l.entries.flatMap (fun e => [e.kind, e.seq, e.node, e.pos, e.addr]))
  let history (b : SegBind) : List Nat := [b.seq, b.len] ++ b.blocks ++ b.kv.flatMap kvInputs
  [k.digest, kernelThreads w, kernelArg w] ++ rows ++ t.bound.flatMap history
    ++ cellInputs (g.staging.filter (fun x => g.inAlloc p c x.1 1))
    ++ cellInputs ((g.stackSeen p c).filter (fun x => region.1 ≤ x.1 && x.1 < region.2)) ++ host

/-- The bytes that a kernel writes at an address of a space: 0 staging SRAM, 1 the stack, 2 host memory, 3 KV entries (log entry 8). -/
def writtenBytes (inputs : List Nat) (space addr n : Nat) : List Nat :=
  (List.range n).map (fun i => (Config.kernelByte inputs space (addr + i)).toNat)

/-- A head vector of 128 values that a kernel forms for a KV entry, before it is quantised. -/
def headVector (inputs : List Nat) (place : Nat) : List F32 :=
  (List.range 128).map (fun i => BitVec.ofNat 32 (ofBytesLe (writtenBytes inputs 3 (512 * place + 4 * i) 4)))

/-- Bytes written to the stack for a step, which keeps what they were until it ends (R49, R167). -/
def writeStack (p : Nat) (c : Cls) (a : Nat) (l : List Nat) (g : Segment) : Segment :=
  (keepRun p c a l.length g).withStack (memWriteBytes g.stack.mem a l)

/-- The KV entry that attention reads of a sequence bound at a position. -/
def SegBind.kvAt (b : SegBind) (model slot pos : Nat) : KvEntry :=
  (b.kv.find? (fun e => e.model == model && e.slot == slot && e.pos == pos)).getD {}

/-- One piece of a kernel's work done on a segment. A kernel does not observe a cancel: what it writes for a sequence stands in the step,
and is ignored at the commit point if the sequence is no longer bound (R167). -/
def State.kernelWork (s : State) (seg p : Nat) (c : Cls) (use : DmaUse) (launchNo : Nat) (excl : List Nat) (t : SegStep)
    (inputs : List Nat) (w : KernelWork) : State :=
  match w with
  | .bytes a n => s.onSeg seg (fun g => { g with staging := memWriteBytes g.staging a (writtenBytes inputs 0 a n) })
  | .stack a n =>
    s.onSeg seg (writeStack p c a (writtenBytes inputs 1 a n))
  | .host a n => s.dma seg (dmaReq true a n (dmaClass c) use (ofBytesLe (writtenBytes inputs 2 a n)))
  | .row u n =>
    let elems := (List.range n).map (fun i => BitVec.ofNat 16 (ofBytesLe (writtenBytes inputs 0 (u * 256 + 2 * i) 2)))
    s.onSeg seg (writeElems launchNo u excl elems)
  | .stats u n => s.onSeg seg (fun g => recordRow launchNo u excl (rowElems g.staging u n) g)
  | .attention out query heads factor list row draft layer =>
    match ((s.seg seg).stepHere p c).bind (fun t => t.boundRow list row) with
    | some (e, b) =>
      let at_ := attends b e
      let k : F32 := BitVec.ofNat 32 (memReadWord (s.seg seg).staging factor 4)
      let head (h : Nat) : List BF16 :=
        let slot := kvSlot ((s.part p).kvHeads draft) heads layer h
        attention (rowElems (s.seg seg).staging (query + h) 128) k ((at_.1 ++ at_.2).map (b.kvAt (flag draft) slot))
      s.onSeg seg (writeElems launchNo out excl ((List.range heads).flatMap head))
    | none => s
  | .kv list row draft slot =>
    match t.boundRow list row with
    | some (e, b) =>
      let pos := rowPos b e
      let place := (((e.seq * 65536 + pos) * 1024 + slot) * 2 + flag draft) * 2
      let k := quantGroup (headVector inputs place)
      let v := quantGroup (headVector inputs (place + 1))
      let x : KvEntry :=
        { seg := seg, model := flag draft, slot := slot, pos := pos, key := k.2.1, kScale := k.1, val := v.2.1, vScale := v.1 }
      let put (b : SegBind) : SegBind := if b.seq == e.seq then { b with kv := putKv x b.kv } else b
      let page := s.pageOf seg (.seq e.seq) draft (pos / 64) slot
      ((s.onSegStep seg p c (fun t => { t with bound := t.bound.map put })).onSeg seg (notePageWrite page)).segCount seg (fun n =>
        { n with kvClamps := n.kvClamps + flag k.2.2 + flag v.2.2 })
    | none => s

/-- A kernel's threads have ended: its slots are free. -/
def dropKernel (p : Nat) (c : Cls) (slot : Nat) (g : Segment) : Segment :=
  { g with kernels := g.kernels.filter (fun k => !(k.part == p && k.cls == c && k.slot == slot)) }

/-- The kernel that a descriptor slot of a step runs on a segment, with its image. -/
def State.runningKernel (s : State) (seg p : Nat) (c : Cls) (slot : Nat) : Option (KernelRun × Kernel × StepS) :=
  let g := s.seg seg
  match g.kernelRun p c slot, s.stepOf p c with
  | some k, some st =>
    match (s.part p).kernel (kernelId (st.prog.image.slot slot)) with
    | some im => if g.runs p c then some (k, im, st) else none
    | none => none
  | _, _ => none

/-- The work of a kernel done, piece by piece. -/
def State.kernelDone (s : State) (seg part : Nat) (cls : Cls) (slot : Nat) (k : Kernel) (st : StepS) (h : SegStep)
    (work : List KernelWork) (host : List Nat) : State :=
  let w := st.prog.image.slot slot
  let excl := excludedChannels (s.seg seg).staging w
  let inputs := s.kernelInputs seg part cls w k h host
  work.foldl (fun t v => t.kernelWork seg part cls (.transfer seg part cls slot) st.launchNo excl h inputs v) s

/-- The pieces of work are those that the kernel's code does on its inputs, as far as a run before has shown (R166, log entry 8). -/
def State.codeAgrees (s : State) (inputs : List Nat) (work : List KernelWork) : Bool :=
  match s.code.find? (fun e => e.1 == inputs) with
  | some e => e.2 == work
  | none => true

/-- KERNEL_COMPLETE (R161): the work of a kernel whose header was sound, that does nothing a kernel may not do, does what it did before on
the same inputs (R166), and has written the rows its argument block states (R163). -/
def execKernelComplete (seg part : Nat) (cls : Cls) (slot issueCycles : Nat) (work : KernelDone) (s : State) :
    Result :=
  match s.runningKernel seg part cls slot, (s.seg seg).stepHere part cls with
  | some x, some h =>
    let t := s.kernelDone seg part cls slot x.2.1 x.2.2 h work.pieces work.host
    let inputs := s.kernelInputs seg part cls (x.2.2.prog.image.slot slot) x.2.1 h work.host
    let t := { t with code := if s.code.any (fun e => e.1 == inputs) then t.code else t.code ++ [(inputs, work.pieces)] }
    onlyIf (!x.1.headerBad && s.codeAgrees inputs work.pieces && work.pieces.all (s.reaches seg part cls x.2.2.prog.image slot h)
        && (workRows work.pieces).length == outRows (s.seg seg).staging (x.2.2.prog.image.slot slot))
      ((t.onSeg seg (fun g => (dropKernel part cls slot g).onStep part cls (sweepDone slot))).segCount seg (fun n =>
        { n with issueCycles := n.issueCycles + issueCycles })) s
  | _, _ => .next s

/-- KERNEL_FAULT (R163, R164): the kernel stops, and its step suffers an uncorrectable data-path error. A header fault is one of
a header that does not match. -/
def execKernelFault (cyc seg part : Nat) (cls : Cls) (slot : Nat) (cause : KernelCause) (s : State) : Result :=
  match s.runningKernel seg part cls slot with
  | some x =>
    let t := (s.onSeg seg (dropKernel part cls slot)).segCount seg (fun n => { n with kernelFaults := n.kernelFaults + 1 })
    onlyIf (cause != .header || x.1.headerBad)
      (t.dataPathError cyc seg part cls) s
  | none => .next s

/-- KERNEL_BOUND_EXCEEDED (R165): the kernel keeps running and is counted once. -/
def execKernelBoundExceeded (seg part : Nat) (cls : Cls) (slot : Nat) (s : State) : Result :=
  match s.runningKernel seg part cls slot with
  | some x =>
    let mark (k : KernelRun) : KernelRun := if k == x.1 then { k with exceeded := true } else k
    onlyIf (!x.1.exceeded)
      ((s.onSeg seg (fun g => { g with kernels := g.kernels.map mark })).segCount seg (fun n =>
        { n with boundExceeded := n.boundExceeded + 1 })) s
  | none => .next s

end Sys2Proof.Machine
end

