-- ==== Sys2Proof/Machine/Links.lean ====
section
/-! DEFINITION. Descriptors and link transport: issue (R54), lanes and their buffers (R142, R146), the coding of chunks
(R135, R136), combining slots (R139 to R144) and the completion of transfers (R129). -/

namespace Sys2Proof.Machine

/-! Lanes and their buffers. -/

/-- Frames that hold a place in the input buffer of a lane of a link: those that wait in the hub, and those that wait at an output
module to be sent on (R142, R146). -/
def Hub.bufferUsed (h : Hub) (d : Dir) (lane : Bool) : Nat :=
  (h.tx.filter (fun t => t.came == some (d, lane))).length + (h.waiting.filter (fun t => t.came == some (d, lane))).length
    + (h.rerouting.filter (fun t => t.came == some (d, lane))).length

/-- The sender of a lane has a credit: the receiver's buffer of the lane has a place free (R142, R146, log entry 43). -/
def Hub.credit (h : Hub) (d : Dir) (lane : Bool) : Bool :=
  h.bufferUsed d lane == 0 || h.bufferUsed d lane ≤ Config.linkBuffer

/-- A frame that waits in a hub for detour tables (R147). -/
def State.holdFrame (s : State) (i : Nat) (came : Option (Dir × Bool)) (f : Frame) : State :=
  s.onHub i (fun h => { h with rerouting := h.rerouting ++ [{ came := came, frame := f }] })

/-- A frame that waits at an output module. -/
def State.queueFrame (s : State) (i : Nat) (d : Dir) (detour : Bool) (came : Option (Dir × Bool)) (f : Frame) : State :=
  s.onHub i (fun h => { h with tx := h.tx ++ [{ dir := d, detour := detour, came := came, frame := f }] })

/-- A frame sent on from a segment: in the primary lane if its whole route from its source is healthy, else in the detour lane, for
which it waits until the tables are installed (R146, R147). -/
def State.sendFrame (s : State) (i : Nat) (detour : Bool) (came : Option (Dir × Bool)) (f : Frame) : State :=
  if detour || (came.isNone && s.routeFailed 8 i f.dest) then
    if (s.seg i).hub.detour then
      match s.detourNext i f.dest with
      | some j =>
        match dirTo s.segs.length i j with
        | some d => s.queueFrame i d true came f
        | none => s
      | none => s
    else s.holdFrame i came f
  else if s.linkFailed i (routeDir i f.dest) then s.holdFrame i came f
  else s.queueFrame i (routeDir i f.dest) false came f

/-! Coding. -/

/-- 2^e as binary32, for exponents in the normal range. -/
def pow2 (e : Int) : F32 := f32Round false 1 1 e

/-- A coded chunk (R135). -/
structure Coded where
  e : Int := 0
  esc : Bool := false
  forced : Bool := false
  under : Bool := false
  sat : Nat := 0
  codes : List Int := []
  raw : List BF16 := []
  deriving DecidableEq, Repr

/-- The smallest exponent from -8 to 7 that holds a scaled magnitude (R135). -/
def chunkExp (t : F32) : Option Int :=
  (firstFrom (fun n => f32Le t (f32Mul f127 (pow2 ((n : Int) - 8)))) 16 0).map (fun n => (n : Int) - 8)

/-- An escaped chunk: the elements as BF16, every NaN written as 0x7FC0 (R135). -/
def escaped (forced : Bool) (x : List F32) : Coded := { e := 7, esc := true, forced := forced, raw := x.map bf16Of }

/-- Largest magnitude of a list of elements. -/
def absMax (x : List F32) : F32 := x.foldl (fun a v => f32Max a (f32Abs v)) 0

/-- The coding of a chunk (R135). -/
def klfCode (s : F32) (escOk : Bool) (x : List F32) : Coded :=
  if x.any (fun v => f32IsNan v || f32IsInf v) then escaped true x
  else
    let a := absMax x
    if f32Eq a 0 then { e := -8, codes := x.map (fun _ => 0) }
    else
      let r := f32Div f32One s
      let found := chunkExp (f32Mul a r)
      if found.isNone && escOk then escaped false x
      else
        let e := found.getD 7
        let q := x.map (fun v => f32Rne (f32Mul (f32Mul v r) (pow2 (-e))))
        let codes := q.map (clampInt (-127) 127)
        { e := e, codes := codes, sat := min 255 (q.filter (fun v => 127 < v.natAbs)).length,
          under := e == -8 && codes.all (fun v => v.natAbs < 8) }

/-- An element of a chunk that is not escaped, decoded (R136). -/
def decodeElem (s : F32) (e : Int) (q : Int) : F32 := f32Mul (f32Mul (f32OfInt q) s) (pow2 e)

/-- A chunk decoded to binary32 (R136). -/
def decodeChunk (s : F32) (f : Frame) : List F32 :=
  if f.esc then f.raw.map f32OfBf16 else f.codes.map (decodeElem s f.exp)

/-- A chunk as it is written to staging SRAM (R136). -/
def chunkBytes (s : F32) (f : Frame) : List Nat := bf16Bytes (if f.esc then f.raw else (decodeChunk s f).map bf16Of)

/-- An integer divided by 2^k, rounded to nearest, ties to even. -/
def rneShift (i : Int) (k : Nat) : Int :=
  let r := roundTo i.natAbs (2 ^ k)
  if i < 0 then -(r : Int) else r
where
  /-- The quotient of two numbers rounded to nearest, ties to even. -/
  roundTo (n d : Nat) : Nat :=
    let q := n / d
    let r := n % d
    if 2 * r < d then q else if d < 2 * r then q + 1 else q + q % 2

/-- A complete slot in integer mode coded (R141). An all-zero SUM sent at e = −8 has U = 1, as R141's condition says; R135's remark on
all-zero chunks is read as one on chunks that it codes itself (DEDUCED, log entry 43). -/
def codeInts (s : F32) (escOk sum : Bool) (e : Int) (v : List Int) : Coded :=
  if sum then
    let m := v.foldl (fun a x => max a x.natAbs) 0
    let k := (firstFrom (fun k => rneShift (m : Int) k ≤ 127) 17 0).getD 16
    if 7 < e + (k : Int) then klfCode s escOk (v.map (decodeElem s e))
    else
      let q := v.map (fun x => rneShift x k)
      { e := e + (k : Int), codes := q, under := e + (k : Int) == -8 && q.all (fun x => x.natAbs < 8) }
  else { e := e, codes := v, under := e == -8 && v.all (fun x => x.natAbs < 8) }

/-! Transfers of a step. -/

/-- The carried scale of a stream (R133, R134). -/
def State.scaleOf (s : State) (n : Nat) : F32 :=
  match (s.part (streamPart n)).streams.find? (fun x => x.id == n) with
  | some x => x.s
  | none => f32One

/-- The transfer descriptors of a program in slot order: slot, first and second word (R58). -/
def transfersOf (img : ProgramImage) : List (Nat × Nat × Nat) :=
  (((img.slots.zip (continuation false img.slots)).zipIdx).filter (fun d => !d.1.2 && dType d.1.1 == 4)).map (fun d =>
    (d.2, d.1.1, img.slot (d.2 + 1)))

/-- The transfer of a program that a frame belongs to on a segment, unless it has completed there (R129, log entry 43). -/
def transferFor (img : ProgramImage) (done : List Nat) (f : Frame) : Option (Nat × Nat × Nat) :=
  (transfersOf img).find? (fun t => t.1 == f.slot && xferStream t.2.1 == f.stream
    && (xferKind t.2.1 == 2 || xferKind t.2.1 == 3 || xferKind t.2.1 == 6) && !done.contains t.1)

/-- Chunks of a transfer (R129). -/
def chunksOf (w : Nat) : Nat := xferLen w / 8

/-- The destinations of a transfer of kind 2 or 3 (R58). -/
def destsOf (img : ProgramImage) (w : Nat) : List Nat := if xferDest w == 31 then img.segs else [xferDest w]

/-- The root of the combining tree of a transfer (R139). -/
def rootOf (img : ProgramImage) (w : Nat) : Nat := if xferDest w == 31 then img.segs.headD 0 else xferDest w

/-- The parent of a segment in the combining tree: the first segment of the mask that its route toward the root meets (R139). -/
def combParent (img : ProgramImage) (root i : Nat) : Option Nat :=
  if i == root then none else ((routeFrom 8 i root).drop 1).find? (fun j => img.segs.contains j)

/-- The children of a segment in the combining tree (R139). -/
def combChildren (img : ProgramImage) (root i : Nat) : List Nat := img.segs.filter (fun j => combParent img root j == some i)

/-! Hubs at work. -/

/-- The counters of a segment after a chunk it coded (R136, R155). -/
def countChunk (c : Coded) (n : SegCount) : SegCount :=
  { n with klfEscapes := n.klfEscapes + flag c.esc, klfForced := n.klfForced + flag c.forced, klfSat := n.klfSat + c.sat,
           klfUnder := n.klfUnder + flag c.under }

/-- What a hub keeps of a chunk it coded: the largest e of the stream, and escapes that were not forced (R134, R138). -/
def noteChunk (stream : Nat) (c : Coded) (h : Hub) : Hub :=
  { h with eMax := joinMax h.eMax (stream, c.e), escaped := if c.esc && !c.forced then insertNat stream h.escaped else h.escaped }

/-- A chunk coded on a segment: counted and noted. -/
def State.coded (s : State) (seg stream : Nat) (c : Coded) : State :=
  (s.onHub seg (noteChunk stream c)).segCount seg (countChunk c)

/-- The frame of a coded chunk (R130). -/
def frameOf (src dest slot stream chunk redop launchNo : Nat) (c : Coded) : Frame :=
  { src := src, dest := dest, slot := slot, stream := stream, chunk := chunk, exp := c.e, esc := c.esc, under := c.under, sat := c.sat,
    redop := redop, passTag := launchNo % 256, codes := c.codes, raw := c.raw }

/-- A chunk written at its destination and counted as landed from its source (R129, R136). -/
def State.landChunk (s : State) (seg slot src : Nat) (w2 : Nat) (f : Frame) : State :=
  let data := chunkBytes (s.scaleOf f.stream) f
  let key := slot * 32 + src
  let p := streamPart f.stream
  let c := streamCls f.stream
  let s := s.onSeg seg (fun g => { g with staging := memWriteBytes g.staging (xferDst w2 + 512 * f.chunk) data })
  s.onSegStep seg p c (fun t => { t with landed := aSet key ((aGet key t.landed).getD 0 + 1) t.landed })

/-- A chunk taken into a combining slot (R140). -/
def combine (s : F32) (sum : Bool) (f : Frame) (k : CombSlot) : CombSlot :=
  let k := { k with got := k.got ++ [f.src] }
  let fmax (x y : F32) : F32 := if f32IsNan x || f32IsNan y then f32Nan else f32Max x y
  if k.got.length == 1 then
    if f.esc then { k with fp := true, floats := decodeChunk s f } else { k with e := f.exp, ints := f.codes }
  else if !k.fp && !f.esc && f.exp == k.e then
    { k with ints := (k.ints.zip f.codes).map (fun x => if sum then x.1 + x.2 else max x.1 x.2) }
  else
    let have_ := if k.fp then k.floats else k.ints.map (decodeElem s k.e)
    { k with fp := true, ints := [], floats := (have_.zip (decodeChunk s f)).map (fun x => if sum then f32Add x.1 x.2 else fmax x.1 x.2) }

/-- A combining slot holds its own chunk and one of each child (R140). -/
def slotComplete (img : ProgramImage) (root seg : Nat) (k : CombSlot) : Bool :=
  (seg :: combChildren img root seg).all k.got.contains

/-- A result sent down the combining tree from a segment, copied to its children (R141). -/
def State.sendDown (s : State) (seg : Nat) (children : List Nat) (f : Frame) : State :=
  children.foldl (fun t j => t.sendFrame seg false none { f with src := seg, dest := j, down := true }) s

/-- A complete slot coded, sent to the parent or written at the root, and freed (R141). -/
def State.finishSlot (s : State) (seg : Nat) (img : ProgramImage) (launchNo : Nat) (t : Nat × Nat × Nat) (k : CombSlot) : State :=
  let w := t.2.1
  let stream := xferStream w
  let sc := s.scaleOf stream
  let c := if k.fp then klfCode sc (xferEsc w) k.floats else codeInts sc (xferEsc w) (xferRedop w == 1) k.e k.ints
  let s := (s.coded seg stream c).onHub seg (fun h => { h with slots := h.slots.filter (fun x => !(x.slot == k.slot && x.chunk == k.chunk
    && x.part == k.part && x.cls == k.cls)) })
  let root := rootOf img w
  let f := frameOf seg seg t.1 stream k.chunk (xferRedop w) launchNo c
  match combParent img root seg with
  | some p => s.sendFrame seg false none { f with dest := p }
  | none =>
    let s := s.landChunk seg t.1 root t.2.2 f
    if xferDest w == 31 then s.sendDown seg (combChildren img root seg) f else s

/-- A chunk offered to a hub's combining slots: it waits where it needs a slot and none is free (R142). -/
def State.offer (s : State) (seg : Nat) (img : ProgramImage) (launchNo : Nat) (t : Nat × Nat × Nat) (came : Option (Dir × Bool))
    (f : Frame) : State :=
  let h := (s.seg seg).hub
  let p := streamPart f.stream
  let c := streamCls f.stream
  let is (k : CombSlot) : Bool := k.part == p && k.cls == c && k.slot == t.1 && k.chunk == f.chunk
  let held := h.slots.find? is
  if held.isNone && 512 ≤ h.slots.length then
    s.onHub seg (fun h => { h with waiting := h.waiting ++ [{ came := came, frame := f }] })
  else
    let k := combine (s.scaleOf f.stream) (xferRedop t.2.1 == 1) f (held.getD { part := p, cls := c, slot := t.1, chunk := f.chunk })
    let turned := k.fp && !(held.getD {}).fp
    let s := (s.onHub seg (fun h => { h with slots := h.slots.filter (fun x => !is x) ++ [k] })).segCount seg (fun n =>
      { n with fp32Slots := n.fp32Slots + flag turned })
    if slotComplete img (rootOf img t.2.1) seg k then s.finishSlot seg img launchNo t k else s

/-- A frame for this hub: dropped unless its PASS_TAG is that of the step in flight in the loop that owns its stream (R144);
then decoded and written, passed down, or combined (R140, R141). -/
def State.accept (s : State) (seg : Nat) (came : Option (Dir × Bool)) (f : Frame) : State :=
  let p := streamPart f.stream
  let c := streamCls f.stream
  let stale := s.segCount seg (fun n => { n with staleDrops := n.staleDrops + 1 })
  match (s.seg seg).stepHere p c, s.stepOf p c with
  | some t, some st =>
    let img := st.prog.image
    if st.launchNo % 256 != f.passTag || st.abandoned.isSome then stale
    else
      match transferFor img t.done f with
      | some x =>
        if f.down then
          (s.landChunk seg x.1 (rootOf img x.2.1) x.2.2 f).sendDown seg (combChildren img (rootOf img x.2.1) seg) f
        else if xferKind x.2.1 == 3 then s.offer seg img st.launchNo x came f
        else s.landChunk seg x.1 f.src x.2.2 f
      | none => stale
  | _, _ => stale

/-- The frames that waited for a combining slot are offered again, oldest first, while a slot is free (R142). -/
def State.drainWaiting (seg : Nat) : Nat → State → State
  | 0, s => s
  | n + 1, s =>
    let l := (s.seg seg).hub.waiting
    if l.isEmpty || 512 ≤ (s.seg seg).hub.slots.length then s
    else State.drainWaiting seg n (l.foldl (fun t x => t.accept seg x.came x.frame) (s.onHub seg (fun h => { h with waiting := [] })))

/-- Every slot that has come free on a hub is used by the frames that waited there. -/
def State.slotsFreed (s : State) (seg : Nat) : State := State.drainWaiting seg ((s.seg seg).hub.waiting.length + 1) s

/-! The span port. -/

/-- The span session that reaches a block by its index, and the stream it leaves on (R152, R153). -/
def State.sessionTo (s : State) (peer : Nat) : Option SpanSession :=
  s.span.sessions.find? (fun x => x.peer == peer && x.phase == .opened)

/-- The KLF header of a frame (R130). -/
def klfHeader (f : Frame) : Nat :=
  packMsb [(16, f.stream), (20, f.chunk), (4, unsigned 4 f.exp), (1, flag f.esc), (1, flag f.under), (8, f.sat), (2, f.redop),
    (8, f.passTag), (4, 0)]

/-- The span prefix of a record, for the DEST_SEG of its descriptor (R58, R153). -/
def spanPrefix (sc : F32) (destSeg dst offset : Nat) : Nat :=
  packMsb [(32, sc.toNat), (5, destSeg), (27, 0), (16, bits 47 32 dst), (16, 0), (32, offset)]

/-- The bytes of a KLF record: the KLF header, the span prefix, the payload (R131, R153). -/
def klfRecord (sc : F32) (destSeg w2 : Nat) (f : Frame) : List Nat :=
  bytesLe 8 (klfHeader f) ++ bytesLe 16 (spanPrefix sc destSeg w2 (bits 31 0 w2 + 512 * f.chunk))
    ++ (if f.esc then bf16Bytes f.raw else f.codes.map (unsigned 8))

/-- KLF records leave by the span port for the block that DST_ADDR names (R153). Without an open session to that block they are not sent,
and nothing counts them (DESIGN CHOICE, log entry 32). -/
def State.spanRecords (s : State) (w w2 : Nat) (l : List Frame) : State :=
  match s.sessionTo (bits 63 58 w2) with
  | some x => s.spanSendAll x.id 0x07 (l.map (fun f => klfRecord (s.scaleOf f.stream) (xferDest w) w2 f))
  | none => s

/-- A frame that has arrived at the segment it is addressed to: of a transfer of kind 6, it leaves by the span port. -/
def State.arrive (s : State) (seg : Nat) (came : Option (Dir × Bool)) (f : Frame) : State :=
  let span := match s.stepOf (streamPart f.stream) (streamCls f.stream) with
    | some st => if st.launchNo % 256 == f.passTag then (transferFor st.prog.image [] f).filter (fun (t : Nat × Nat × Nat) => xferKind t.2.1 == 6) else none
    | none => none
  match span with
  | some x => if seg == s.mgr then s.spanRecords x.2.1 x.2.2 [f] else s.accept seg came f
  | none => (s.accept seg came f).slotsFreed seg

/-! Issue. -/

/-- The unit that a descriptor uses on a segment (R54): the array that runs it, the surviving one where its own has failed (R94),
the Thread Complex, the Link Hub, and the Stack Controller's transfer queue, on which host transfers take their turn with the others
(DESIGN CHOICE, log entry 27: R54 does not name their unit). -/
def Segment.unitOf (g : Segment) (w : Nat) : Nat :=
  if dType w == 2 then (if g.sweepRuns w == .ma0 then 0 else 1)
  else if dType w == 3 then 2
  else if xferKind w == 2 || xferKind w == 3 || xferKind w == 6 then 3
  else 4

/-- A descriptor that is issued by itself: a sweep, a kernel or a transfer. -/
def issuable (w : Nat) : Bool := dType w == 2 || dType w == 3 || dType w == 4

/-- The descriptor in a slot has completed on a segment; a pass has once it has been issued and fed (R54, log entry 46). -/
def slotDone (img : ProgramImage) (t : SegStep) (n : Nat) : Bool :=
  let d := (img.slots.zip (continuation false img.slots)).zipIdx
  let own (x : (Nat × Bool) × Nat) : Bool :=
    !x.1.2 && dType x.1.1 == 2 && x.2 < n && n ≤ x.2 + sweepPasses x.1.1 && n - x.2 ≤ (aGet x.2 t.passNext).getD 0
  t.done.contains n || d.any own

/-- A descriptor may be issued on a segment: its unit is free in program order, and what AFTER names has completed (R54). -/
def mayIssue (g : Segment) (img : ProgramImage) (t : SegStep) (slot : Nat) : Bool :=
  let d := (img.slots.zip (continuation false img.slots)).zipIdx
  let w := img.slot slot
  d.any (fun x => x.2 == slot && !x.1.2) && issuable w && !t.issued.contains slot
    && (dAfter w == 0xFFFF || slotDone img t (dAfter w))
    && d.all (fun x => x.1.2 || slot ≤ x.2 || !issuable x.1.1 || g.unitOf x.1.1 != g.unitOf w || t.issued.contains x.2)

/-- The bytes of staging SRAM and of the stack that a transfer touches end in range (R58). -/
def xferFault (seg w w2 : Nat) : Option Fault :=
  let n := xferLen w * 64
  let kind := xferKind w
  let src := xferSrc w2 + n
  let dst := xferDst w2 + n
  if kind == 0 && stackBytes < src then some (.noStack seg src)
  else if kind == 1 && stackBytes < dst then some (.noStack seg dst)
  else if kind != 0 && kind != 4 && stagingBytes < src then some (.noStaging seg src)
  else if kind != 1 && kind != 5 && kind != 6 && stagingBytes < dst then some (.noStaging seg dst)
  else none

/-- The source elements of a chunk (R129). -/
def chunkSource (m : Memory) (w2 i : Nat) : List BF16 :=
  let p := memPart m (xferSrc w2 + 512 * i) 512
  (List.range 256).map (fun k => BitVec.ofNat 16 (memReadWord p (2 * k) 2))

/-- The coding of a chunk of source elements, read as R108 says; an escape sends the elements unchanged, but for NaN (R135). -/
def codeSource (s : F32) (escOk : Bool) (x : List BF16) : Coded :=
  let c := klfCode s escOk (x.map (fun v => f32Of (f32Read (f32OfBf16 v))))
  if c.esc then { c with raw := x.map (fun v => if f32IsNan (f32OfBf16 v) then bf16Nan else v) } else c

/-- One chunk of a transfer coded and sent (R129, R135, R139). An escape of source elements sends them unchanged. -/
def State.sendChunk (s : State) (seg : Nat) (st : StepS) (x : Nat × Nat × Nat) (i : Nat) : State :=
  let w := x.2.1
  let stream := xferStream w
  let c := codeSource (s.scaleOf stream) (xferEsc w) (chunkSource (s.seg seg).staging x.2.2 i)
  let s := s.coded seg stream c
  let f (dest : Nat) : Frame := frameOf seg dest x.1 stream i (xferRedop w) st.launchNo c
  if xferKind w == 3 then s.offer seg st.prog.image st.launchNo x none (f seg)
  else if xferKind w == 6 then s.sendFrame seg false none (f s.mgr)
  else
    (destsOf st.prog.image w).foldl (fun t d =>
      if d == seg then t.landChunk seg x.1 seg x.2.2 (f seg) else t.sendFrame seg false none (f d)) s

/-- The chunks of a transfer of kind 6 on the manager's segment: coded, and sent by its own span port (R129, R153). -/
def State.sendSpan (s : State) (seg : Nat) (st : StepS) (x : Nat × Nat × Nat) : State :=
  let stream := xferStream x.2.1
  let code (i : Nat) : Coded := codeSource (s.scaleOf stream) (xferEsc x.2.1) (chunkSource (s.seg seg).staging x.2.2 i)
  let l := List.range (chunksOf x.2.1)
  let s := l.foldl (fun t i => t.coded seg stream (code i)) s
  s.spanRecords x.2.1 x.2.2 (l.map (fun i => frameOf seg seg x.1 stream i (xferRedop x.2.1) st.launchNo (code i)))

/-- The streams of a partition that a step has sent a chunk on are in use (R134). -/
def State.useStream (s : State) (n : Nat) : State :=
  let mark (x : StreamS) : StreamS := if x.id == n then { x with used := true } else x
  s.onPart (streamPart n) (fun p => { p with streams := p.streams.map mark })

/-- A transfer begun on a segment: KLF chunks sent, or host DMA asked for (R58). -/
def State.startTransfer (s : State) (seg p : Nat) (c : Cls) (st : StepS) (x : Nat × Nat × Nat) : State :=
  let w := x.2.1
  let kind := xferKind w
  if kind == 4 then s.dma seg (dmaReq false (xferSrc x.2.2) (xferLen w * 64) (dmaClass c) (.transfer seg p c x.1) 0)
  else if kind == 5 then
    let data := ofBytesLe (memReadBytes (memPart (s.seg seg).staging (xferSrc x.2.2) (xferLen w * 64)) 0 (xferLen w * 64))
    s.dma seg (dmaReq true (xferDst x.2.2) (xferLen w * 64) (dmaClass c) (.transfer seg p c x.1) data)
  else if (kind == 2 || kind == 3 || kind == 6) && 0 < chunksOf w then
    let u := s.useStream (xferStream w)
    if kind == 6 && seg == s.mgr then u.sendSpan seg st x
    else ((List.range (chunksOf w)).foldl (fun t i => t.sendChunk seg st x i) u).slotsFreed seg
  else s

/-- DESCRIPTOR_ISSUE (R54). A sweep's passes are issued by its array and a kernel's threads by the Thread Complex. -/
def execDescriptorIssue (seg part : Nat) (cls : Cls) (slot : Nat) (s : State) : Result :=
  let g := s.seg seg
  match s.stepOf part cls, g.stepHere part cls with
  | some st, some t =>
    let w := st.prog.image.slot slot
    let w2 := st.prog.image.slot (slot + 1)
    let u := s.onSegStep seg part cls (fun t => { t with issued := insertNat slot t.issued })
    if g.runs part cls && mayIssue g st.prog.image t slot then
      if dType w == 4 then
        match xferFault seg w w2 with
        | some f => .fault f
        | none => .next (u.startTransfer seg part cls st (slot, w, w2))
      else .next u
    else .next s
  | _, _ => .next s

/-! Frames. -/

/-- A frame leaves a neighbour's output module, and the counter of that direction rises (R146, R148). -/
def State.takeFrame (s : State) (j : Nat) (d : Dir) (t : TxFrame) : State :=
  s.onHub j (fun h => ({ h with tx := h.tx.erase t }).onModule d (frameLeaves j d))

/-- The neighbour and its output module that hold a frame for a segment, the oldest first. -/
def State.inbound (s : State) (seg : Nat) (f : Frame) : Option (Nat × Dir × TxFrame) :=
  allDirs.findSome? (fun d =>
    match neighbour s.segs.length seg d with
    | some j =>
      match (s.seg j).hub.tx.find? (fun t => t.dir == opposite d && t.frame == f) with
      | some t => if s.linkUp seg d then some (j, opposite d, t) else none
      | none => none
    | none => none)

/-- A frame that waited in an input buffer for a combining slot is taken up once one is free (R142). -/
def State.takeWaiting (s : State) (seg : Nat) (f : Frame) : State :=
  let h := (s.seg seg).hub
  match h.waiting.find? (fun x => x.frame == f) with
  | some x =>
    if h.slots.length < 512 then
      ((s.onHub seg (fun h => { h with waiting := h.waiting.erase x })).accept seg x.came f).slotsFreed seg
    else s
  | none => s

/-- KLF_FRAME_RECEIVE (R144): a frame that a neighbour has sent, for which the lane has a credit (R142, R146), or one that waits in an
input buffer; forwarding hubs do not check PASS_TAG. -/
def execKlfFrameReceive (seg : Nat) (frame : Frame) (s : State) : Result :=
  match s.inbound seg frame with
  | some x =>
    let came := (opposite x.2.1, x.2.2.detour)
    let t := s.takeFrame x.1 x.2.1 x.2.2
    onlyIf ((s.seg seg).hub.credit came.1 came.2)
      (if frame.dest == seg then t.arrive seg (some came) frame else t.sendFrame seg came.2 (some came) frame) s
  | none => .next (s.takeWaiting seg frame)

/-! Completion. -/

/-- Chunks of a transfer from a source that have landed on a segment. -/
def State.landedOn (s : State) (seg p : Nat) (c : Cls) (slot src : Nat) : Nat :=
  match (s.seg seg).stepHere p c with
  | some t => (aGet (slot * 32 + src) t.landed).getD 0
  | none => 0

/-- A frame of a transfer is still on its way from a segment. -/
def State.framesLeft (s : State) (slot stream src : Nat) : Bool :=
  let of (f : Frame) : Bool := f.slot == slot && f.stream == stream && f.src == src
  s.segs.any (fun g => g.hub.tx.any (fun t => of t.frame) || g.hub.rerouting.any (fun t => of t.frame))

/-- A request of the initiator channel serves a transfer. -/
def State.dmaPending (s : State) (u : DmaUse) : Bool :=
  s.segs.any (fun g => (g.port.waiting ++ g.port.issued).any (fun r => r.what == u) || g.port.retry.any (fun r => r.2.what == u))

/-- The last chunk of a transfer is written at its destination (R129). -/
def State.transferDone (s : State) (seg p : Nat) (c : Cls) (img : ProgramImage) (x : Nat × Nat × Nat) : Bool :=
  let w := x.2.1
  let n := chunksOf w
  let kind := xferKind w
  let dests := destsOf img w
  if kind == 2 then
    dests.all (fun d => s.landedOn d p c x.1 seg == n)
      && (!dests.contains seg || img.segs.all (fun i => s.landedOn seg p c x.1 i == n))
  else if kind == 3 then
    let root := rootOf img w
    if dests.contains seg then s.landedOn seg p c x.1 root == n else dests.all (fun d => s.landedOn d p c x.1 root == n)
  else if kind == 6 then !s.framesLeft x.1 (xferStream w) seg
  else !s.dmaPending (.transfer seg p c x.1)

/-- The bytes that a local or host transfer places as it completes (R58). -/
def moveBytes (w w2 : Nat) (hostData : List Nat) (g : Segment) : Segment :=
  let n := xferLen w * 64
  let copy (src dst : Memory) : Memory :=
    (memPart src (xferSrc w2) n).foldl (fun m e => memWrite m (xferDst w2 + e.1) e.2)
      (dst.filter (fun e => !(xferDst w2 ≤ e.1 && e.1 < xferDst w2 + n)))
  match xferKind w with
  | 0 => { g with staging := copy g.stack.mem g.staging }
  | 1 => { g with stack := { g.stack with mem := copy g.staging g.stack.mem } }
  | 4 => { g with staging := memWriteBytes g.staging (xferDst w2) (hostData.take n) }
  | _ => g

/-- TRANSFER_COMPLETE (R58, R129). -/
def execTransferComplete (seg part : Nat) (cls : Cls) (slot : Nat) (hostData : List Nat) (s : State) : Result :=
  let g := s.seg seg
  match s.stepOf part cls, g.stepHere part cls with
  | some st, some t =>
    let w := st.prog.image.slot slot
    let w2 := st.prog.image.slot (slot + 1)
    onlyIf (g.runs part cls && t.issued.contains slot && !t.done.contains slot && dType w == 4
        && (xferKind w != 4 || hostData.length == xferLen w * 64) && s.transferDone seg part cls st.prog.image (slot, w, w2))
      (s.onSeg seg (fun g =>
        let g := if xferKind w == 1 then keepRun part cls (xferDst w2) (xferLen w * 64) g else g
        (moveBytes w w2 hostData g).onStep part cls (sweepDone slot))) s
  | _, _ => .next s

end Sys2Proof.Machine
end

