-- ==== Sys2Proof/Machine/Mesh.lean ====
section
/-! DEFINITION. Dead links and detours (R145, R147), link training, authentication and rekeying (R148, R347), and the waist cut (R370). -/

namespace Sys2Proof.Machine

/-! Halves and the waist. -/

/-- The segments of the half that holds a segment. -/
def State.halfOf (s : State) (i : Nat) : List Nat := (List.range s.segs.length).filter (fun j => s.inHalfB j == s.inHalfB i)

/-- The segments of the other half. -/
def State.otherHalf (s : State) (i : Nat) : List Nat := (List.range s.segs.length).filter (fun j => s.inHalfB j != s.inHalfB i)

/-- The segments of half A whose south module faces the waist, by column (R2). -/
def State.waistSegs (s : State) : List Nat :=
  if s.cfg.kind.halfA < s.segs.length then (List.range 5).map (fun c => s.cfg.kind.halfA - 5 + c) else []

/-- A module faces the waist. -/
def State.atWaist (s : State) (i : Nat) (d : Dir) : Bool :=
  (d == .south && s.waistSegs.contains i) || (d == .north && s.waistSegs.any (fun j => j + 5 == i))

/-- The waist link below a segment is gone: it is marked failed, or a segment at one of its ends has been lost, its links power-gated
(R145, R359). -/
def State.waistLinkGone (s : State) (i : Nat) : Bool :=
  ((s.seg i).hub.module .south).failed || (s.seg i).state == .lost || (s.seg (i + 5)).state == .lost

/-- No waist link is left (R370). -/
def State.waistGone (s : State) : Bool := s.waistSegs.all s.waistLinkGone

/-- DETAIL of WAIST_DOWN: bit k for column k (R294). -/
def State.waistDetail (s : State) : Nat :=
  packMsb [(5, sumNat ((s.waistSegs.zipIdx).map (fun p => if s.waistLinkGone p.1 then 2 ^ p.2 else 0))), (107, 0)]

/-- A waist cut at a stamp (R370): the far half is treated as fenced, steps and partitions that need it end with FENCED, and the
block goes on without a standby. The far standby holds what was mirrored to it until now. -/
def State.waistCut (s : State) (e : Stamp) : State :=
  let far := s.otherHalf s.mgr
  let s := ({ s with kept := some s.block } : State).raise s.mgr 0x0B 0x0 0 0 e s.waistDetail
  let s := s.segsLeave far .fenced e
  let s := { s with
    roles := { s.roles with farHalf := far, splitState := 1, farStandby := s.roles.standby, standby := none, candidate := none },
    mirror := { s.mirror with current := false, copying := false, unacked := [], currentAtFence := s.mirror.current } }
  (s.raise s.mgr 0x0C 0x0 0 0 e (fencedDetail (!s.inHalfB s.mgr) 0x04)).count (fun c => { c with splits := c.splits + 1 })

/-- The last waist link has failed while each half holds a joined segment (R370). -/
def State.cutNow (s : State) : Bool :=
  s.roles.splitState == 0 && !s.waistSegs.isEmpty && s.waistGone && (s.halfOf s.mgr).any s.serving && (s.otherHalf s.mgr).any s.serving

/-! Training. -/

/-- A module whose link has trained and whose peer is authenticated, with the key of its direction (R148, R347). -/
def trainModule (key : Nat) (m : ModuleS) : ModuleS :=
  { m with up := true, authed := true, retraining := false, keyGen := 0, txFrames := 0, key := some key }

/-- The key of the direction that leaves a segment on a side, after the training that draws the n-th secret and nonces (R347). -/
def trainedKey (n seg : Nat) (d : Dir) : Nat := linkKey (Config.freshKey n) (Config.nonce n) (Config.nonce (n + 1)) (directionId seg d 0)

/-- One end of a link accepts what the other shows: a certificate that chains to the provisioning root, names the same SERIAL and the segment
that the mesh places at the module, and a signature that verifies (R23, R347). -/
def certStands (serial peer : Nat) (c : LinkCert) : Bool := c.chains && c.serial == serial && c.segment == peer && c.signed

/-- The two ends of a link authenticate each other: both have an identity key, and each accepts the other (R331, R347). -/
def State.linkAuthentic (s : State) (seg j : Nat) (a : LinkAuth) : Bool :=
  (s.seg seg).trust.identity.isSome && (s.seg j).trust.identity.isSome
    && certStands (s.seg j).trust.serial seg a.near && certStands (s.seg seg).trust.serial j a.far

/-- The link on a side of a segment trained: the key of each direction comes from the secret that the two Trust Units have agreed
(R347). -/
def State.trainLink (s : State) (seg j : Nat) (d : Dir) : State :=
  { ((s.onModule seg d (trainModule (trainedKey s.free seg d))).onModule j (opposite d) (trainModule (trainedKey s.free j (opposite d)))) with
    free := s.free + 2 }

/-! A module fails. -/

/-- A module marked failed: its link is power-gated (R145). -/
def failModule (reason : Nat) (told : Bool) (m : ModuleS) : ModuleS :=
  { m with failed := true, reason := reason, up := false, authed := false, retraining := false, key := none, told := m.told || told }

/-- Frames that waited for a link that has failed wait for the detour tables (R147). -/
def stopTx (d : Dir) (h : Hub) : Hub :=
  { h with
    tx := h.tx.filter (fun t => t.dir != d),
    rerouting := h.rerouting ++ (h.tx.filter (fun t => t.dir == d)).map (fun t => { came := t.came, frame := t.frame }) }

/-- The oldest frames at an output module: those that were in the link when it failed (R147). -/
def Hub.inLink (h : Hub) (d : Dir) (n : Nat) : List TxFrame := (h.tx.filter (fun t => t.dir == d)).take n

/-- A module is marked failed, at both ends of its link; the segment's own end is to be reported, the tables are to be computed
anew, and the last waist link cuts the waist (R145, R147, R370). -/
def State.moduleFailed (s : State) (i : Nat) (d : Dir) (reason : Nat) (e : Stamp) : State :=
  let s := s.onHub i (fun h => stopTx d (h.onModule d (failModule reason false)))
  let s := match neighbour s.segs.length i d with
    | some j => s.onHub j (fun h => stopTx (opposite d) (h.onModule (opposite d) (failModule reason true)))
    | none => s
  let s := s.onSegs (fun _ g => { g with hub := { g.hub with detour := false } })
  if s.cutNow then s.waistCut e else s

/-- LINK_DOWN (R145): the module retrains. -/
def execLinkDown (seg : Nat) (dir : Dir) (s : State) : Result :=
  let down (m : ModuleS) : ModuleS := { m with up := false, authed := false, retraining := true }
  match neighbour s.segs.length seg dir with
  | some j => onlyIf (s.linkUp seg dir) ((s.onModule seg dir down).onModule j (opposite dir) down) s
  | none => .next s

/-- The steps whose traffic was in a frame: the loop that owns its stream, if PASS_TAG is that of its step in flight (R354). -/
def State.frameError (s : State) (cyc seg : Nat) (f : Frame) : State :=
  let p := streamPart f.stream
  let c := streamCls f.stream
  let here := match s.stepOf p c with | some st => st.launchNo % 256 == f.passTag | none => false
  if here then s.dataPathError cyc seg p c
  else s.onSeg seg (fun g => { g with health := { g.health with uncorrected := g.health.uncorrected + 1 } })

/-- The frames that were in a link of a segment when it failed are lost: in one direction the first `out` frames of its own output
module, in the other the first `back` of its neighbour's (R145, R147, log entry 43). -/
def State.loseInLink (s : State) (cyc seg j : Nat) (d : Dir) (out back : Nat) : State :=
  let mine := (s.seg seg).hub.inLink d out
  let theirs := (s.seg j).hub.inLink (opposite d) back
  let s := mine.foldl (fun t x => t.onHub seg (fun h => { h with tx := h.tx.erase x })) s
  let s := theirs.foldl (fun t x => t.onHub j (fun h => { h with tx := h.tx.erase x })) s
  let s := mine.foldl (fun t x => t.frameError cyc j x.frame) s
  theirs.foldl (fun t x => t.frameError cyc seg x.frame) s

/-- SEGMENT_LOST with the scope LINK for a failed module (R147, R294, R374). -/
def State.raiseLink (s : State) (e : Stamp) (x : Nat × Dir) : State :=
  let m := (s.seg x.1).hub.module x.2
  (s.raise s.mgr 0x0A 0x2 x.1 0 e (lostSegDetail (s.seg x.1).hub.failedBits m.reason)).onModule x.1 x.2 (fun m => { m with told := true })

/-- A link whose two ends did not authenticate each other: it is not brought up, and it is reported as lost (R347). -/
def State.unauthentic (s : State) (seg : Nat) (dir : Dir) (e : Stamp) : State := (s.moduleFailed seg dir 0x11 e).raiseLink e (seg, dir)

/-- LINK_RETRAINING_END (R145): one failed retraining marks the module failed; at a good one the Trust Units authenticate each other and agree
the keys of both directions anew (R148, R332, R347). -/
def execLinkRetrainingEnd (cyc seg : Nat) (dir : Dir) (outcome : Retraining) (s : State) : Result :=
  let e := s.stampFor cyc
  match neighbour s.segs.length seg dir with
  | some j =>
    onlyIf (((s.seg seg).hub.module dir).retraining && !((s.seg seg).hub.module dir).failed)
      (match outcome with
       | .good auth => if s.linkAuthentic seg j auth then s.trainLink seg j dir else (s.given e).unauthentic seg dir e
       | .failed out back => ((s.given e).loseInLink cyc seg j dir out back).moduleFailed seg dir 0x10 e) s
  | none => .next s

/-- The traffic of a frame that failed its tag: what was in it and the errors it makes (R145, R354). -/
def State.trafficError (s : State) (cyc seg : Nat) : LinkTraffic → State
  | .klf f => s.frameError cyc seg f
  | .other steps =>
    let here := steps.filter (fun x => (s.stepOf x.1 x.2).isSome)
    if here.isEmpty then s.onSeg seg (fun g => { g with health := { g.health with uncorrected := g.health.uncorrected + 1 } })
    else here.foldl (fun t x => t.dataPathError cyc seg x.1 x.2) s

/-- The frame of some traffic leaves the neighbour's output module, and is dropped where it arrives; none if no such frame can come
over the link. -/
def State.failedFrame (s : State) (seg j : Nat) (d : Dir) : LinkTraffic → Option State
  | .klf f => match s.inbound seg f with
    | some x => if x.2.1 == opposite d then some (s.takeFrame x.1 x.2.1 x.2.2) else none
    | none => none
  | .other _ => if s.linkUp seg d then some (s.onModule j (opposite d) (frameLeaves j (opposite d))) else none

/-- LINK_TAG_FAILURE (R145): the frame, of whatever traffic, is dropped; a second failure within 2^20 bt marks the module failed. Each
receiving module counts its own failures (DESIGN CHOICE, log entry 43). -/
def execLinkTagFailure (cyc seg : Nat) (dir : Dir) (failure : TagFailure) (s : State) : Result :=
  match neighbour s.segs.length seg dir with
  | some j =>
    match s.failedFrame seg j dir failure.traffic with
    | some t =>
      let m := (s.seg seg).hub.module dir
      let second := match m.tagFailBeat with | some b => decide (s.time.beat ≤ b + 2 ^ 20) | none => false
      let t := (t.onModule seg dir (fun m => { m with tagFailBeat := some s.time.beat })).segCount seg
        (fun n => { n with tagFails := n.tagFails + 1 })
      let t := t.trafficError cyc seg failure.traffic
      let e := t.stampFor cyc
      .next (if second then ((t.given e).loseInLink cyc seg j dir failure.inLink failure.inBack).moduleFailed seg dir 0x11 e else t)
    | none => .next s
  | none => .next s

/-- The frames that waited for the tables are sent on in the detour lane (R147). -/
def State.reroute (s : State) (i : Nat) : State :=
  let l := (s.seg i).hub.rerouting
  l.foldl (fun t x => t.sendFrame i true x.came x.frame) (s.onHub i (fun h => { h with rerouting := [], detour := true }))

/-- The modules whose failure has not been raised, by segment and side. -/
def State.untold (s : State) : List (Nat × Dir) :=
  (List.range s.segs.length).flatMap (fun i =>
    (allDirs.filter (fun d => ((s.seg i).hub.module d).failed && !((s.seg i).hub.module d).told)).map (fun d => (i, d)))

/-- The joined segments that no healthy route reaches (R147, R359). -/
def State.unreached (s : State) : List Nat :=
  let d := s.meshDist
  (List.range s.segs.length).filter (fun i => s.isJoined i && (aGet i d).isNone)

/-- DETOUR_INSTALL (R147): the tables are installed, the failures are raised, and segments that no healthy route reaches are
lost with reason UNREACHABLE. -/
def execDetourInstall (cyc : Nat) (s : State) : Result :=
  let e := s.stampFor cyc
  let t := s.untold.foldl (fun t x => t.raiseLink e x) ((s.given e).controlAll ((List.range s.segs.length).filter (· != s.mgr)))
  let t := (List.range t.segs.length).foldl State.reroute t
  onlyIf (s.mgrUp && s.segs.any (fun g => !g.hub.detour) && s.segs.any (fun g => allDirs.any (fun d => (g.hub.module d).failed)))
    (t.unreached.foldl (fun t i => t.loseSegment i 0x02 e) t) s

/-! Rekeying. -/

/-- LINK_REKEY (R148, R347): after 2^32 frames of a direction. -/
def execLinkRekey (seg : Nat) (dir : Dir) (s : State) : Result :=
  let next (m : ModuleS) : ModuleS :=
    { m with keyGen := (m.keyGen + 1) % 512, txFrames := 0, key := m.key.map nextLinkKey }
  onlyIf (s.linkUp seg dir && 2 ^ 32 ≤ ((s.seg seg).hub.module dir).txFrames) (s.onModule seg dir next) s

end Sys2Proof.Machine
end

