-- ==== Sys2Proof/Machine/Dictionary.lean ====
section
/-! DEFINITION. The object dictionary as it is read (R306 to R308, R324 to R327): every entry with its type, its access code
and the bytes it reads. No entry of the block has the access code RW, so the code is left out. -/

namespace Sys2Proof.Machine

/-- Access codes (R308). -/
inductive Access where
  | const | ro | rws | wo
  deriving DecidableEq, Repr

/-- Types of entries (R307): a number of some bytes, a BOOL, a VSTR or a DOMAIN. -/
inductive Shape where
  | num (bytes : Nat)
  | flag
  | vstr
  | domain
  deriving DecidableEq, Repr

/-- An entry as a principal sees it: its subindex, type and access, and the bytes that a read returns, little-endian (R16). -/
structure Obj where
  sub : Nat := 0
  shape : Shape := .num 1
  access : Access := .ro
  data : List Nat := []
  deriving DecidableEq, Repr

/-- The size of a type, none where it varies (R307). -/
def Shape.size : Shape → Option Nat
  | .num n => some n
  | .flag => some 1
  | .vstr => none
  | .domain => none

/-- A read-only number. -/
def roNum (sub bytes v : Nat) : Obj := { sub := sub, shape := .num bytes, data := bytesLe bytes v }

/-- A read-only BOOL. -/
def roFlag (sub : Nat) (b : Bool) : Obj := { sub := sub, shape := .flag, data := [Sys2Proof.flag b] }

/-- A read-only DOMAIN. -/
def roDom (sub : Nat) (data : List Nat) : Obj := { sub := sub, shape := .domain, data := data }

/-- A constant number. -/
def constNum (sub bytes v : Nat) : Obj := { roNum sub bytes v with access := .const }

/-- A staged number. -/
def rwsNum (sub bytes v : Nat) : Obj := { roNum sub bytes v with access := .rws }

/-- A staged BOOL. -/
def rwsFlag (sub : Nat) (b : Bool) : Obj := { roFlag sub b with access := .rws }

/-- A staged DOMAIN. -/
def rwsDom (sub : Nat) (data : List Nat) : Obj := { roDom sub data with access := .rws }

/-- A write-only number. -/
def woNum (sub bytes : Nat) : Obj := { sub := sub, shape := .num bytes, access := .wo }

/-- A write-only load point. -/
def woDom (sub : Nat) : Obj := { sub := sub, shape := .domain, access := .wo }

/-! The bytes of DOMAIN entries. -/

/-- The code of a principal in a report (R324). -/
def principalCode : Principal → Nat
  | .driver => 0
  | .bmc => 1
  | .officer => 2

/-- A clamp report's entry (R324). -/
def clampBytes (e : ClampEntry) : List Nat :=
  bytesLe 32 (packMsb [(16, e.index), (8, e.sub), (4, e.reason), (4, 0), (32, e.element), (64, e.written), (64, e.applied), (64, 0)])

/-- A clamp report (R324). -/
def reportBytes (r : Report) : List Nat :=
  bytesLe 16 (packMsb [(64, r.number), (2, principalCode r.principal), (1, flag r.truncated), (13, 0), (16, r.entries.length),
    (16, r.applied), (16, 0)]) ++ r.entries.flatMap clampBytes

/-- An entry of SPAN_PEERS: index and IPv6 address in network order (R155). -/
def peerBytes (e : Nat × Nat) : List Nat := bytesLe 8 e.1 ++ (bytesLe 16 e.2).reverse

/-- An entry of SPAN_WINDOWS (R154). -/
def windowBytes (w : Window) : List Nat :=
  bytesLe 16 (packMsb [(16, w.id), (4, w.part), (5, w.seg), (39, 0), (23, w.base), (23, w.size), (18, 0)])

/-- An extent of DIM_POOL (R202). -/
def extentBytes (e : Nat × Nat) : List Nat := bytesLe 8 e.1 ++ bytesLe 8 e.2

/-- The 64 slots of one array of a packing template (R253). -/
def tokenSlots (l : List Nat) : List Nat := (List.range 64).flatMap (fun i => bytesLe 4 (l.getD i 0))

/-- A packing template (R253). -/
def templateBytes (t : PackTemplate) : List Nat :=
  bytesLe 16 (packMsb [(8, t.head.length), (8, t.open_.length), (8, t.close_.length), (8, t.tail.length), (96, 0)])
    ++ tokenSlots t.head ++ tokenSlots t.open_ ++ tokenSlots t.close_ ++ tokenSlots t.tail

/-- A tenant entry (R225). -/
def tenantBytes (t : Tenant) : List Nat :=
  bytesLe 32 (packMsb [(1, flag t.valid), (3, t.priority), (4, 0), (16, t.inputWeight), (8, 0), (32, t.rate), (32, t.burst),
    (32, t.overdraft), (32, t.resumeMark), (16, t.partitions), (80, 0)])

/-- An archive region (R249). -/
def regionBytes (r : Region) : List Nat :=
  bytesLe 32 (packMsb [(8, r.region), (8, r.keySlot), (16, r.boundBt), (32, 0), (64, r.dirBase), (64, r.dataBase), (56, r.passages),
    (8, 0)])

/-- An entry of OWNER_KEYS: the key hash and KINDS (R352). -/
def ownerBytes (e : Nat × Nat) : List Nat := (bytesLe 48 e.1).reverse ++ List.replicate 15 0 ++ [e.2 % 256]

/-- An entry of SPAN_TRUST (R352). -/
def trustBytes (e : TrustEntry) : List Nat :=
  bytesLe 16 (e.index % 256) ++ (bytesLe 48 e.manager).reverse ++ (bytesLe 48 e.standby).reverse ++ (bytesLe 48 e.firmware).reverse

/-- A stream of STREAM_STATE (R155). -/
def streamBytes (t : StreamS) : List Nat := bytesLe 8 (packMsb [(16, t.id), (14, 0), (2, t.run), (32, t.s.toNat)])

/-- KiB that a count of bytes takes. -/
def kib (n : Nat) : Nat := ceilDiv n 1024

/-- A kernel of KERNEL_LIST (R172). -/
def kernelBytes (k : Kernel) : List Nat := bytesLe 8 (packMsb [(16, k.id), (8, k.abi), (8, 0), (32, kib k.bytes)])

/-- A model of MODEL_LIST (R352). -/
def modelBytes (m : Model) : List Nat := bytesLe 8 (m.id % 2 ^ 16) ++ (bytesLe 48 m.digest).reverse

/-- The image of a rule set slot: the one loaded, else the one in force (R265). -/
def State.slotImage (s : State) (k : Nat) : Option RuleSet :=
  match aGet k s.screen.loaded with
  | some r => some r
  | none => aGet k s.screen.inForce

/-- Bytes of the tables of an automaton: class map, transitions, patterns and match list, each padded to 64 bytes (R266). -/
def tableBytes (p : RulePlain) : Nat :=
  let pad (n : Nat) : Nat := ceilDiv n 64 * 64
  if rsKind p.header < 2 then
    pad p.classMap.length + pad (4 * p.trans.length) + pad (8 * p.patterns.length) + pad (4 * p.matchList.length)
  else 0

/-- An entry of RULESET_TABLE (R282). -/
def State.slotBytes (s : State) (k : Nat) : List Nat :=
  match s.slotImage k with
  | some r => bytesLe 8 (packMsb [(16, rsId r.plain.header), (4, rsKind r.plain.header), (1, 1), (11, 0), (32, kib (tableBytes r.plain))])
  | none => List.replicate 8 0

/-- An entry of DETOK_TABLE (R282). -/
def detokBytes (d : Detok) : List Nat := bytesLe 8 (packMsb [(16, d.id), (18, d.vocab), (30, 0)])

/-- The keys of one partition in KEY_STATE (R352). -/
def keyBytes (k : EnvKey) : List Nat := [k.curId % 256, k.prevId % 256, k.curEpoch % 256, k.prevEpoch % 256]

/-- A fault map of 264 bits, bit 0 first (R98). -/
def faultMap (a : ArrayS) : List Nat := bytesLe 33 (sumNat (a.faults.eraseDups.map (fun c => 2 ^ c)))

/-! The entries of each index. -/

/-- The characters of a string as bytes; the strings of the block are plain ASCII. -/
def ascii (t : String) : List Nat := t.toList.map Char.toNat

/-- HW_VERSION by configuration (R325). -/
def KdKind.hwVersion (k : KdKind) : List Nat := match k with
  | .kd1 => ascii "KEARD 3.2.0 KD-1"
  | .kd5 => ascii "KEARD 3.2.0 KD-5"
  | .kd10 => ascii "KEARD 3.2.0 KD-10"
  | .kd15 => ascii "KEARD 3.2.0 KD-15"
  | .kd20 => ascii "KEARD 3.2.0 KD-20"

/-- REF_STATE as coded (R73). -/
def refCode : RefState → Nat
  | .locked => 0
  | .holdover => 1
  | .converging => 2

/-- SEGMENT_STATE as coded (R379). -/
def segStateCode : SegState → Nat
  | .joining => 0
  | .serving => 1
  | .fenced => 2
  | .lost => 3
  | .held => 4

/-- STATE of an array as coded (R96, R98). -/
def arrayCode : ArrayPhase → Nat
  | .serving => 0
  | .draining => 1
  | .failed => 2
  | .held => 3

/-- STATE of an array as it is read: held in hush, unless it has failed (R96, R394). -/
def State.arrayStateOf (s : State) (a : ArrayS) : Nat :=
  if s.power.hush != 0 && a.state != .failed then arrayCode .held else arrayCode a.state

/-- LIFECYCLE_STATE as coded (R352). -/
def lifecycleCode : Lifecycle → Nat
  | .blank => 0
  | .provisioned => 1
  | .secured => 2
  | .retired => 3

/-- Numbers as the bits of a mask. -/
def maskOf (l : List Nat) : Nat := sumNat (l.eraseDups.map (fun i => 2 ^ i))

/-- The segments whose state a test admits, as a mask. -/
def State.segBits (s : State) (f : Segment → Bool) : Nat := maskOf ((List.range s.segs.length).filter (fun i => f (s.seg i)))

/-- Segments of the block, those of its half in a second block (R325, R372). -/
def State.blockSegments (s : State) : Nat := s.cfg.kind.segments - (if s.roles.isSecond then s.roles.farHalf.length else 0)

/-- Identity, commit and clamp reports, 0x1000 to 0x1101 (R325). -/
def State.objIdentity (s : State) (who : Principal) (index : Nat) : List Obj := match index with
  | 0x1000 => [constNum 0 4 (0x4B440000 + s.blockSegments)]
  | 0x1009 => [{ shape := .vstr, access := .const, data := s.cfg.kind.hwVersion }]
  | 0x100A => [constNum 0 4 0x00030200]
  | 0x1018 => [constNum 1 4 0x5A52, constNum 2 4 0x4B44, constNum 3 4 (s.seg s.mgr).trust.licensee, constNum 4 4 (s.seg s.mgr).trust.dieRev,
               constNum 5 8 (s.seg s.mgr).trust.serial]
  | 0x1100 => [{ sub := 1, shape := .flag, access := .wo }, roNum 2 8 s.objs.commitNo,
               roNum 3 2 (s.objs.staged.filter (fun e => e.1 == who)).length, roNum 4 4 s.cnt.oamDiscards]
  | 0x1101 => (List.range 8).map (fun i => roDom (i + 1) (reportBytes (s.objs.reports.getD i {})))
  | _ => []

/-- Block-wide settings, 0x2000 to 0x2400 (R73, R155, R202, R305, R325, R379, R397, R423). -/
def State.objSettings (s : State) (index : Nat) : List Obj :=
  let g := s.glob
  match index with
  | 0x2000 => [constNum 1 1 s.blockSegments, rwsNum 2 2 g.planClock, rwsNum 3 2 g.passDefault, rwsNum 4 1 g.hangFactor,
      rwsNum 5 1 g.spanRole, rwsNum 6 2 g.spanPort, rwsNum 7 2 g.spanMtu, rwsNum 8 2 g.spanRetx,
      rwsDom 9 (g.spanPeers.flatMap peerBytes), rwsDom 0x0A (g.spanWindows.flatMap windowBytes), rwsNum 0x0B 1 g.spanTc,
      rwsNum 0x0C 2 g.screenStack, woNum 0x0D 1, woNum 0x0E 1, rwsNum 0x0F 8 g.localMac, rwsNum 0x10 8 g.gatewayMac,
      rwsDom 0x11 (bytesLe 16 g.localIp).reverse]
  | 0x2100 => [rwsNum 1 2 (unsigned 16 g.ppsDelay), rwsNum 2 2 g.slewPpm, roNum 3 4 (s.segBits (·.refPresent)), rwsNum 4 2 g.skewNs]
  | 0x2200 => [constNum 1 2 50, constNum 2 2 100, constNum 3 2 40, rwsNum 4 2 g.feedAmber, rwsNum 5 2 g.feedCrimson,
      rwsNum 6 2 g.feedClear, rwsNum 7 2 g.clearBt, rwsNum 0x10 1 g.thermalTrip, rwsNum 0x20 2 g.marginThreshold,
      rwsNum 0x21 2 g.marginFloor, rwsNum 0x22 2 g.vcoreMax, rwsNum 0x23 4 g.retireCount, woNum 0x30 1, woNum 0x31 1]
  | 0x2400 => [rwsNum 1 2 g.holdLimit, roNum 2 4 (sumNat (s.seqs.map (fun e => tokensIn e.2.backTokens))),
      roNum 3 4 s.cnt.ringPauses, roNum 4 4 s.cnt.unrouted, roNum 5 4 s.cnt.stepRecLost, roNum 6 4 s.cnt.subClamped,
      rwsNum 7 4 g.mgmtRings]
  | _ => []

/-- KiB of a segment's kernel store that its kernels leave free (R159, R172). -/
def State.kernelFree (s : State) (i : Nat) : Nat :=
  let used (p : Nat) : Nat := sumNat ((s.part p).kernels.map (fun k => kib k.bytes))
  4096 - used 15 - sumNat (((List.range 15).filter (fun p => (s.part p).segMask.testBit i)).map used)

/-- HEARTBEAT_AGE_BT (R363, R379, R395). -/
def State.heartbeatAge (s : State) (i : Nat) : Nat :=
  min 65535 ((s.seg i).frozenAge.getD (s.time.beat - (s.seg i).lastHb))

/-- SEGMENT_STATE as it is read: a segment across a waist cut reads as fenced, one in test or hush as held (R370, R379). -/
def State.segStateOf (s : State) (i : Nat) : Nat :=
  let g := s.seg i
  if s.roles.farHalf.contains i then segStateCode .fenced
  else if g.trust.testHeld || (s.power.hush == 1 && g.state == .serving) then segStateCode .held
  else segStateCode g.state

/-- The entries of segment i, 0x3000 + i × 0x40. -/
def State.objSegment (s : State) (i : Nat) : List Obj :=
  let g := s.seg i
  let c := g.cnt
  let spares (a : ArrayS) : Nat := (a.remap.filter (fun e => !e.valid && !e.bad)).length
  [roNum 0x10 1 (s.arrayStateOf g.ma0), roNum 0x11 1 (s.arrayStateOf g.ma1), roNum 0x12 1 (spares g.ma0), roNum 0x13 1 (spares g.ma1),
   roDom 0x14 (faultMap g.ma0 ++ faultMap g.ma1), roNum 0x15 4 (g.ma0.beRestart + g.ma1.beRestart),
   roNum 0x16 4 (g.ma0.residueErrors + g.ma1.residueErrors), roNum 0x17 8 (g.ma0.loadStall + g.ma1.loadStall),
   roNum 0x18 4 c.rowsPoisoned, roNum 0x19 4 c.infClamps, roNum 0x1A 8 c.actSat, roNum 0x1B 4 c.zaClamps, roNum 0x1C 4 c.finishRange,
   roNum 0x1D 8 c.statsRows, roFlag 0x1E c.accSat, roNum 0x1F 4 c.kvClamps,
   roNum 0x20 1 g.hub.failedBits, roNum 0x21 8 c.klfEscapes, roNum 0x22 8 c.klfForced, roNum 0x23 8 c.klfSat, roNum 0x24 8 c.klfUnder,
   roNum 0x25 8 c.fp32Slots, roNum 0x26 4 c.staleDrops, roNum 0x27 4 c.tagFails,
   roNum 0x28 4 c.kernelFaults, roNum 0x29 4 c.boundExceeded, roNum 0x2A 8 c.issueCycles, roNum 0x2B 2 (s.kernelFree i),
   roNum 0x2C 4 c.pagesOut, roNum 0x2D 8 c.compactAcc, roNum 0x2E 8 c.scanCodes, roNum 0x2F 8 c.scanHeld,
   roNum 0x30 8 c.snareUnits, roNum 0x31 8 c.snareMatches, roNum 0x32 4 c.snareRestarts,
   roNum 0x33 1 (s.segStateOf i), roNum 0x34 2 (s.heartbeatAge i),
   roNum 0x35 2 (unsigned 16 g.health.marginPs), roNum 0x36 2 g.health.clockMhz, roNum 0x37 2 g.health.vcoreMv,
   roNum 0x38 8 (maskOf g.stack.retired * 2 ^ 32 + maskOf g.stack.failed), roNum 0x39 8 g.health.corrected,
   roNum 0x3A 4 g.health.uncorrected, roNum 0x3B 2 g.supply.droop, roNum 0x3C 2 (unsigned 16 g.health.tempC),
   roNum 0x3D 4 g.supply.railEntries]

/-- The entries that every partition has, the screen partition included (R306). -/
def partCommon (p : Partition) : List Obj :=
  [rwsNum 3 2 p.passTarget, rwsNum 4 2 p.lcFloor, rwsFlag 7 p.stepRecords, woDom 8, woDom 9,
   roDom 0x0A ((p.streams.filter (·.used)).flatMap streamBytes), woDom 0x0B, roDom 0x0C (p.kernels.flatMap kernelBytes),
   rwsNum 0x1D 2 p.stepCmpRing, woDom 0x1E, roDom 0x1F (p.models.flatMap modelBytes)]

/-- Live sequences of a partition that a test admits. -/
def State.liveCount (s : State) (p : Nat) (f : Sequence → Bool) : Nat :=
  (s.seqs.filter (fun e => e.2.req.part == p && f e.2)).length

/-- Further entries of a generation partition. -/
def State.partOwn (s : State) (i : Nat) (p : Partition) : List Obj :=
  [rwsNum 1 4 p.segMask, rwsNum 2 2 p.targetModel, rwsNum 5 2 p.draftModel, rwsDom 6 p.templates.flatten,
   roNum 0x0D 4 (s.liveCount i (fun _ => true)), roNum 0x0E 4 (p.lcQueue.length + p.beQueue.length),
   roNum 0x0F 4 (s.liveCount i (·.pausedBudget.isSome)), rwsNum 0x10 1 p.modelArea, rwsNum 0x11 1 p.retrievalArea,
   roNum 0x12 4 p.poolPages, roNum 0x13 4 p.freePages, rwsNum 0x14 4 p.decodeReserve, rwsNum 0x15 2 p.joinWait,
   rwsNum 0x16 4 p.resumeHeadroom, rwsNum 0x17 8 p.defaultTtl, rwsNum 0x18 8 p.maxTtl, rwsDom 0x19 (p.dimPool.flatMap extentBytes),
   rwsNum 0x1A 2 p.scanShare, rwsDom 0x1B (p.packTemplates.flatMap templateBytes), woDom 0x1C]

/-- The entries of partition i, 0x4000 + i × 0x10 (R306). -/
def State.objPartition (s : State) (i : Nat) : List Obj :=
  partCommon (s.part i) ++ (if i < 15 then s.partOwn i (s.part i) else [])

/-- The screen policy of partition i, 0x5100 + i × 0x10 (R282). -/
def objPolicy (p : Policy) : List Obj :=
  [rwsNum 1 1 p.inSets, rwsNum 2 1 p.outSets, rwsNum 3 1 p.verdictMap, rwsNum 4 2 p.inClassifier, rwsNum 5 2 p.outClassifier,
   rwsNum 6 2 p.screenModel, rwsNum 7 2 p.dIn, rwsNum 8 2 p.dOut, rwsFlag 9 p.lock]

/-- An index descriptor as the dictionary returns it: its reserved bits read as zero (R17, R231). -/
def plainIndexDesc (w : Nat) : Nat := packMsb [(20, bits 511 492 w), (4, 0), (184, bits 487 304 w), (304, 0)]

/-- Tenants, screens and retrieval, 0x4800 to 0x5800 (R229, R259, R282). -/
def State.objTables (s : State) (index : Nat) : List Obj := match index with
  | 0x4800 => [rwsDom 1 ((List.range 4096).flatMap (fun t => tenantBytes (s.tenant t))),
               roDom 2 ((List.range 4096).flatMap (fun t => bytesLe 8 (unsigned 64 (s.tenant t).level)))]
  | 0x5000 => [woDom 1, roDom 2 ((List.range 8).flatMap s.slotBytes), woDom 3, roDom 4 (s.screen.detoks.flatMap detokBytes),
               roNum 5 2 s.screenMin]
  | 0x5800 => [roDom 1 (s.indexes.flatMap (fun x => bytesLe 64 (plainIndexDesc x.desc))), rwsDom 2 (s.glob.regions.flatMap regionBytes),
               rwsNum 3 2 s.glob.spanWait, rwsNum 4 1 s.glob.spanPartition]
  | _ => []

/-- The beat, overruns and counters, 0x6000 to 0x600E (R73, R155, R202, R229, R259, R282, R352, R423). REF_OFFSET_NS of an offset that
is not a whole number of nanoseconds: the spec gives no rounding. DESIGN CHOICE (log entry 45), down. -/
def State.objCounters (s : State) (index : Nat) : List Obj :=
  let c := s.cnt
  match index with
  | 0x6000 => [roNum 1 8 s.time.beat, roNum 2 1 (refCode s.time.refState), roNum 3 4 (unsigned 32 (s.time.offsetPs / 1000))]
  | 0x6002 => (List.range 16).map (fun p => roNum (p + 1) 4 (s.part p).overruns)
  | 0x6004 => [roNum 1 4 c.spanLost, roNum 2 4 c.windowDrops, roNum 3 4 c.datagramDrops, roNum 4 4 c.frameDrops]
  | 0x6006 => [roNum 1 4 c.noPages, roNum 2 8 c.decodeDefers, roNum 3 4 c.reclaimExpired, roNum 4 4 c.reclaimDrops,
               roNum 5 4 c.reclaimPauses, roNum 6 4 c.dimFull, roNum 7 4 c.dimSealFails, roNum 8 4 c.dirInsertFails,
               roNum 9 4 s.handles.length]
  | 0x6008 => [roNum 1 8 c.countDrops, roNum 2 4 c.samplerPoison, roNum 3 8 c.stepsVerified, roNum 4 8 c.tokensAccepted,
               roNum 5 4 c.cancels, roNum 6 4 c.cancelsLate, roNum 7 4 c.budgetRefusals, roNum 8 4 c.budgetPauses]
  | 0x600A => [roNum 1 8 c.plans, roNum 2 4 c.planOverruns, roNum 3 4 c.fetchFails, roNum 4 4 c.spanLate, roNum 5 4 c.packEmpty,
               roNum 6 4 c.retrPoison, roNum 7 8 c.scanGroups]
  | 0x600C => [roNum 1 8 c.inputVerdicts, roNum 2 4 c.inputBlocks, roNum 3 4 c.outputStops, roNum 4 8 c.redacted, roNum 5 8 c.marked,
               roNum 6 4 c.lateIn, roNum 7 4 c.lateOut, roNum 8 8 c.lateBeats, roNum 9 4 c.redactPartial, roNum 0x0A 4 c.stopAfterEnd,
               roNum 0x0B 8 c.holdDefers, roNum 0x0C 4 c.queryPartial, roNum 0x0D 4 c.categoryNan, roNum 0x0E 4 c.marksLost]
  | 0x600E => [roNum 1 4 c.envFails, roNum 2 4 c.imageFails, roNum 3 4 c.spanAuthFails]
  | _ => []

/-- Mirror, faults, supplies and DMA, 0x6010 to 0x6016 (R325, R379, R397, R423). -/
def State.objHealth (s : State) (index : Nat) : List Obj :=
  let c := s.cnt
  match index with
  | 0x6010 => [roNum 1 4 s.mirror.unacked.length, roFlag 2 s.mirror.current]
  | 0x6012 => [roNum 1 8 c.stepsDiscarded, roNum 2 4 c.takeovers, roNum 3 4 c.segmentsLost, roNum 4 4 c.splits,
               roNum 5 1 s.roles.splitState, roNum 6 1 (s.roles.standby.getD 0xFF), roNum 7 4 (maskOf s.cfg.mgrCapable)]
  | 0x6014 => [roDom 1 (bytesLe 32 s.power.gongLast), roNum 2 2 s.power.feed, roNum 3 4 c.amberEntries, roNum 4 8 c.throttleBeats,
               roNum 5 1 s.power.stage, roNum 6 1 s.power.hush]
  | 0x6016 => [roNum 1 4 c.dmaReadErrors, roNum 2 4 c.dmaWriteErrors, roNum 3 4 c.feedStale]
  | _ => []

/-- Trust, 0x7000 (R352). -/
def State.objTrust (s : State) (index : Nat) : List Obj := match index with
  | 0x7000 => [roNum 1 1 (lifecycleCode (s.seg s.mgr).trust.lifecycle), woNum 2 1, woNum 3 2, woNum 4 2,
               rwsDom 5 (s.glob.ownerKeys.flatMap ownerBytes), woDom 6, rwsDom 7 (s.glob.spanTrust.flatMap trustBytes),
               roDom 8 ((s.trust.envKeys.take 15).flatMap keyBytes)]
  | _ => []

/-- The instance of a repeated index, if the index is one (R306). -/
def repeatOf (base step top index : Nat) : Option Nat :=
  if base ≤ index && (index - base) % step == 0 && (index - base) / step ≤ top then some ((index - base) / step) else none

/-- The entries of an index, subindex 0 aside where it only counts them (R306). -/
def State.objects (s : State) (who : Principal) (index : Nat) : List Obj :=
  if index < 0x2000 then s.objIdentity who index
  else if index < 0x3000 then s.objSettings index
  else if index < 0x4000 then
    match repeatOf 0x3000 0x40 19 index with
    | some i => s.objSegment i
    | none => []
  else if index < 0x4800 then
    match repeatOf 0x4000 0x10 15 index with
    | some i => s.objPartition i
    | none => []
  else if index < 0x5100 then s.objTables index
  else if index < 0x5800 then
    match repeatOf 0x5100 0x10 14 index with
    | some i => objPolicy (s.part i).policy
    | none => []
  else if index < 0x6000 then s.objTables index
  else if index < 0x6010 then s.objCounters index
  else if index < 0x7000 then s.objHealth index
  else if index < 0x8000 then s.objTrust index
  else []

/-- The highest subindex of an index. -/
def highestSub (l : List Obj) : Nat := l.foldl (fun acc o => max acc o.sub) 0

/-- An entry, none where the Index.Sub is not defined (R306). -/
def State.object (s : State) (who : Principal) (index sub : Nat) : Option Obj :=
  let l := s.objects who index
  if sub == 0 && 0 < highestSub l then some (constNum 0 1 (highestSub l)) else l.find? (fun o => o.sub == sub)

/-! Rights (R308). -/

/-- A RETIRED block answers identity reads alone (R328). -/
def State.closed (s : State) (index : Nat) : Bool := s.lifecycle == .retired && !(0x1000 ≤ index && index ≤ 0x10FF)

/-- Entries that an OFFICER alone reads and writes. -/
def officerOnly (index : Nat) : Bool := 0x7000 ≤ index && index ≤ 0x70FF

/-- The principal may reach the index at all (R308). -/
def mayReach (who : Principal) (index : Nat) : Bool := who == .officer || !officerOnly index

/-- Abort codes (R319). -/
def abortCode (class_ detail : Nat) : Nat := class_ * 2 ^ 16 + detail

/-- What stops a read, as an abort code: no such entry, no right, or the wrong direction (R306, R308). -/
def State.readBar (s : State) (who : Principal) (index sub : Nat) : Option Nat :=
  match s.object who index sub with
  | none => some (abortCode 1 0)
  | some o =>
    if s.closed index then some (abortCode 0xD 0)
    else if !mayReach who index then some (abortCode 2 0)
    else if o.access == .wo then some (abortCode 3 0)
    else none

/-- What stops a write, as an abort code. -/
def State.writeBar (s : State) (who : Principal) (index sub : Nat) : Option Nat :=
  match s.object who index sub with
  | none => some (abortCode 1 0)
  | some o =>
    if s.lifecycle == .retired then some (abortCode 0xD 0)
    else if !mayReach who index then some (abortCode 2 0)
    else if o.access == .ro || o.access == .const then some (abortCode 3 0)
    else none

end Sys2Proof.Machine
end

