-- ==== Sys2Proof/Machine/Commits.lean ====
section
/-! DEFINITION. Staging and commit (R320 to R324): the staged entries with their ranges and their effect on the state, the first
pass that takes each field alone, the second pass that applies the relations between fields, and what a commit leaves. -/

namespace Sys2Proof.Machine

/-! Reasons of a clamp (R324). -/

/-- BOUND. -/
def rBound : Nat := 1
/-- STEP. -/
def rStep : Nat := 2
/-- ENCODING. -/
def rEncoding : Nat := 3
/-- REFUSED. -/
def rRefused : Nat := 4
/-- LOCKED. -/
def rLocked : Nat := 5
/-- IN_USE. -/
def rInUse : Nat := 6
/-- DROPPED. -/
def rDropped : Nat := 7
/-- DEPENDENT. -/
def rDependent : Nat := 8

/-! The first pass on one number: the value taken and the reason, 0 for none (R321). -/

/-- To the nearest bound. -/
def bound (lo hi v : Nat) : Nat × Nat := if v < lo then (lo, rBound) else if hi < v then (hi, rBound) else (v, 0)

/-- Any value stands. -/
def anyValue (v : Nat) : Nat × Nat := (v, 0)

/-- To the nearest bound, then down to a multiple of a step. -/
def stepped (lo hi step v : Nat) : Nat × Nat :=
  let b := bound lo hi v
  if b.1 % step == 0 then b else (b.1 / step * step, rStep)

/-- 0 or an interval: to the nearest of 0 and the interval's ends, ties to the interval's end. -/
def zeroOr (lo hi v : Nat) : Nat × Nat :=
  if v == 0 then (0, 0) else if v < lo then (if 2 * v < lo then (0, rBound) else (lo, rBound)) else bound lo hi v

/-- Values up to a top, and one that means none; what lies between becomes none. -/
def gapped (top none_ v : Nat) : Nat × Nat := if v ≤ top || v == none_ then (v, 0) else (none_, rEncoding)

/-- 0 or 1: other values become 1 (R307). -/
def boolValue (v : Nat) : Nat × Nat := if v ≤ 1 then (v, 0) else (1, rEncoding)

/-- SPAN_MTU: to 1,500 below 9,000 (R155). -/
def mtuValue (v : Nat) : Nat × Nat :=
  if v == 1500 || v == 9000 then (v, 0) else if v < 9000 then (1500, rBound) else (9000, rBound)

/-- SPAN_ROLE: reserved values to 0 (R325). -/
def roleValue (v : Nat) : Nat × Nat := if v ≤ 2 then (v, 0) else (0, rEncoding)

/-- A unicast MAC address in bits [47:0]: the multicast bit, bit 0 of the first byte sent, and the bits above cleared (R423). -/
def macValue (v : Nat) : Nat × Nat :=
  let m := v % 2 ^ 48
  let m := if m.testBit 40 then m - 2 ^ 40 else m
  if m == v then (v, 0) else (m, rEncoding)

/-- PPS_DELAY_NS as its 16-bit pattern (R423). -/
def delayValue (v : Nat) : Nat × Nat :=
  let i := signed 16 v
  let c := clampInt (-1000) 1000 i
  if c == i then (v, 0) else (unsigned 16 c, rBound)

/-! Fields: the staged numbers of an index. -/

/-- A staged number: its subindex, its size, the first pass, and where the state holds it. -/
structure Field where
  sub : Nat
  bytes : Nat
  isSigned : Bool := false
  first : Nat → Nat × Nat
  get : State → Nat
  set : Nat → State → State

/-- A field of the block-wide entries. -/
def globField (sub bytes : Nat) (first : Nat → Nat × Nat) (get : Globals → Nat) (set : Nat → Globals → Globals) : Field :=
  { sub := sub, bytes := bytes, first := first, get := fun s => get s.glob, set := fun v s => { s with glob := set v s.glob } }

/-- A field of a partition. -/
def partField (p sub bytes : Nat) (first : Nat → Nat × Nat) (get : Partition → Nat) (set : Nat → Partition → Partition) : Field :=
  { sub := sub, bytes := bytes, first := first, get := fun s => get (s.part p), set := fun v s => s.onPart p (set v) }

/-- A field of a screen policy. -/
def policyField (p sub bytes : Nat) (first : Nat → Nat × Nat) (get : Policy → Nat) (set : Nat → Policy → Policy) : Field :=
  partField p sub bytes first (fun q => get q.policy) (fun v q => { q with policy := set v q.policy })

/-- Fields of the index 0x2000 (R73, R155, R202, R325, R423). -/
def fields2000 : List Field :=
  [globField 0x02 2 (stepped 1200 2000 25) (·.planClock) (fun v g => { g with planClock := v }),
   globField 0x03 2 (bound 64 4096) (·.passDefault) (fun v g => { g with passDefault := v }),
   globField 0x04 1 (bound 2 16) (·.hangFactor) (fun v g => { g with hangFactor := v }),
   globField 0x05 1 roleValue (·.spanRole) (fun v g => { g with spanRole := v }),
   globField 0x06 2 (bound 49152 65535) (·.spanPort) (fun v g => { g with spanPort := v }),
   globField 0x07 2 mtuValue (·.spanMtu) (fun v g => { g with spanMtu := v }),
   globField 0x08 2 (bound 10 4000) (·.spanRetx) (fun v g => { g with spanRetx := v }),
   globField 0x0B 1 anyValue (·.spanTc) (fun v g => { g with spanTc := v }),
   globField 0x0C 2 (bound 256 8192) (·.screenStack) (fun v g => { g with screenStack := v }),
   globField 0x0F 8 macValue (·.localMac) (fun v g => { g with localMac := v }),
   globField 0x10 8 macValue (·.gatewayMac) (fun v g => { g with gatewayMac := v })]

/-- Fields of the index 0x2100 (R73, R423). -/
def fields2100 : List Field :=
  [{ globField 0x01 2 delayValue (fun g => unsigned 16 g.ppsDelay) (fun v g => { g with ppsDelay := signed 16 v }) with
       isSigned := true },
   globField 0x02 2 (bound 100 10000) (·.slewPpm) (fun v g => { g with slewPpm := v }),
   globField 0x04 2 (bound 20 1000) (·.skewNs) (fun v g => { g with skewNs := v })]

/-- Fields of the index 0x2200 (R379, R397). -/
def fields2200 : List Field :=
  [globField 0x04 2 (bound 4000 5000) (·.feedAmber) (fun v g => { g with feedAmber := v }),
   globField 0x05 2 (bound 3600 4800) (·.feedCrimson) (fun v g => { g with feedCrimson := v }),
   globField 0x06 2 (bound 4100 5200) (·.feedClear) (fun v g => { g with feedClear := v }),
   globField 0x07 2 (bound 4 2000) (·.clearBt) (fun v g => { g with clearBt := v }),
   globField 0x10 1 (bound 85 125) (·.thermalTrip) (fun v g => { g with thermalTrip := v }),
   globField 0x20 2 (bound 10 200) (·.marginThreshold) (fun v g => { g with marginThreshold := v }),
   globField 0x21 2 (bound 0 100) (·.marginFloor) (fun v g => { g with marginFloor := v }),
   globField 0x22 2 (bound 750 850) (·.vcoreMax) (fun v g => { g with vcoreMax := v }),
   globField 0x23 4 (zeroOr 16 1048576) (·.retireCount) (fun v g => { g with retireCount := v })]

/-- MGMT_RINGS with its rsvd bits 0 (R325). -/
def ringsValue (v : Nat) : Nat × Nat :=
  let w := packMsb [(1, bits 31 31 v), (1, 0), (14, bits 29 16 v), (2, 0), (14, bits 13 0 v)]
  (w, 0)

/-- Fields of the index 0x2400 (R305, R325). -/
def fields2400 : List Field :=
  [globField 0x01 2 (bound 20 2000) (·.holdLimit) (fun v g => { g with holdLimit := v }),
   globField 0x07 4 ringsValue (·.mgmtRings) (fun v g => { g with mgmtRings := v })]

/-- Fields of the index 0x5800 (R259). -/
def fields5800 : List Field :=
  [globField 0x03 2 (bound 20 4000) (·.spanWait) (fun v g => { g with spanWait := v }),
   globField 0x04 1 (gapped 14 0xFF) (·.spanPartition) (fun v g => { g with spanPartition := v })]

/-- SEGMENT_MASK: the bits of absent segments cleared (R229). -/
def maskValue (segs v : Nat) : Nat × Nat := if v < 2 ^ segs then (v, 0) else (v % 2 ^ segs, rBound)

/-- Fields that every partition has (R73, R229, R305). -/
def partFieldsAll (p : Nat) : List Field :=
  [partField p 0x03 2 (zeroOr 64 4096) (·.passTarget) (fun v q => { q with passTarget := v }),
   partField p 0x04 2 (bound 0 96) (·.lcFloor) (fun v q => { q with lcFloor := v }),
   partField p 0x07 1 boolValue (fun q => flag q.stepRecords) (fun v q => { q with stepRecords := v == 1 }),
   partField p 0x1D 2 (gapped 16383 0xFFFF) (·.stepCmpRing) (fun v q => { q with stepCmpRing := v })]

/-- Fields of a generation partition (R202, R229, R259). -/
def partFieldsOwn (segs p : Nat) : List Field :=
  [partField p 0x01 4 (maskValue segs) (·.segMask) (fun v q => { q with segMask := v }),
   partField p 0x02 2 anyValue (·.targetModel) (fun v q => { q with targetModel := v }),
   partField p 0x05 2 anyValue (·.draftModel) (fun v q => { q with draftModel := v }),
   partField p 0x10 1 (bound 1 64) (·.modelArea) (fun v q => { q with modelArea := v }),
   partField p 0x11 1 (bound 0 64) (·.retrievalArea) (fun v q => { q with retrievalArea := v }),
   partField p 0x14 4 (bound 0 1048576) (·.decodeReserve) (fun v q => { q with decodeReserve := v }),
   partField p 0x15 2 (bound 0 4000) (·.joinWait) (fun v q => { q with joinWait := v }),
   partField p 0x16 4 (bound 0 1048576) (·.resumeHeadroom) (fun v q => { q with resumeHeadroom := v }),
   partField p 0x17 8 (bound 200 (2 ^ 64 - 1)) (·.defaultTtl) (fun v q => { q with defaultTtl := v }),
   partField p 0x18 8 (bound 200000 518400000000) (·.maxTtl) (fun v q => { q with maxTtl := v }),
   partField p 0x1A 2 (bound 0 2048) (·.scanShare) (fun v q => { q with scanShare := v })]

/-- Fields of a screen policy (R282). -/
def policyFields (p : Nat) : List Field :=
  [policyField p 1 1 anyValue (·.inSets) (fun v q => { q with inSets := v }),
   policyField p 2 1 anyValue (·.outSets) (fun v q => { q with outSets := v }),
   policyField p 3 1 (gapped 7 0xFF) (·.verdictMap) (fun v q => { q with verdictMap := v }),
   policyField p 4 2 anyValue (·.inClassifier) (fun v q => { q with inClassifier := v }),
   policyField p 5 2 anyValue (·.outClassifier) (fun v q => { q with outClassifier := v }),
   policyField p 6 2 anyValue (·.screenModel) (fun v q => { q with screenModel := v }),
   policyField p 7 2 (bound 400 4000) (·.dIn) (fun v q => { q with dIn := v }),
   policyField p 8 2 (bound 100 5000) (·.dOut) (fun v q => { q with dOut := v }),
   policyField p 9 1 boolValue (fun q => flag q.lock) (fun v q => { q with lock := v == 1 })]

/-- The staged numbers of an index. -/
def fieldsAt (segs index : Nat) : List Field := match index with
  | 0x2000 => fields2000
  | 0x2100 => fields2100
  | 0x2200 => fields2200
  | 0x2400 => fields2400
  | 0x5800 => fields5800
  | _ =>
    if index < 0x4800 then
      match repeatOf 0x4000 0x10 15 index with
      | some p => partFieldsAll p ++ (if p < 15 then partFieldsOwn segs p else [])
      | none => []
    else
      match repeatOf 0x5100 0x10 14 index with
      | some p => policyFields p
      | none => []

/-- A staged number by its address. -/
def State.field (s : State) (index sub : Nat) : Option Field :=
  (fieldsAt s.segs.length index).find? (fun f => f.sub == sub)

/-! The commit at work. -/

/-- A commit under way: the candidate state, and the fields clamped so far. -/
structure Draft where
  s : State
  log : List ClampEntry := []

/-- A field or element clamped: a field changed by more than one stage reports the last (R324). -/
def Draft.note (d : Draft) (index sub element reason written : Nat) : Draft :=
  let same (e : ClampEntry) : Bool := e.index == index && e.sub == sub && e.element == element
  if d.log.any same then { d with log := d.log.map (fun e => if same e then { e with reason := reason } else e) }
  else { d with log := d.log ++ [{ index := index, sub := sub, reason := reason, element := element, written := written }] }

/-- The whole entry as an element number (R324). -/
def wholeEntry : Nat := 0xFFFFFFFF

/-- What a principal has staged. -/
def State.stagedBy (s : State) (who : Principal) : List (Nat × Nat × List Nat) :=
  (s.objs.staged.filter (fun e => e.1 == who)).map (·.2)

/-- The staged value of a number, as the set that is committed holds it. -/
def stagedNum (set : List (Nat × Nat × List Nat)) (index sub : Nat) : Option Nat :=
  (set.find? (fun e => e.1 == index && e.2.1 == sub)).map (fun e => ofBytesLe e.2.2)

/-- A relation sets a field: unchanged values are not clamped; a field not staged is DEPENDENT (R321). -/
def Draft.setTo (set : List (Nat × Nat × List Nat)) (index sub reason v : Nat) (d : Draft) : Draft :=
  match d.s.field index sub with
  | some f =>
    if f.get d.s == v then d
    else
      match stagedNum set index sub with
      | some w => ({ d with s := f.set v d.s }).note index sub wholeEntry reason w
      | none => ({ d with s := f.set v d.s }).note index sub wholeEntry rDependent (f.get d.s)
  | none => d

/-- A staged field keeps its old value (R321). -/
def Draft.keep (set : List (Nat × Nat × List Nat)) (old : State) (index sub reason : Nat) (d : Draft) : Draft :=
  match old.field index sub with
  | some f => d.setTo set index sub reason (f.get old)
  | none => d

/-- `keep` under a condition. -/
def Draft.keepIf (c : Bool) (set : List (Nat × Nat × List Nat)) (old : State) (index sub reason : Nat) (d : Draft) : Draft :=
  if c then d.keep set old index sub reason else d

/-! DOMAIN entries: elements, their own range, and the relations between them. -/

/-- Element size and most elements of a staged DOMAIN, and whether its size is exact (R326). -/
def domainSize (index sub : Nat) : Option (Nat × Nat × Bool) :=
  match index, sub with
  | 0x2000, 0x09 => some (24, 63, false)
  | 0x2000, 0x0A => some (16, 256, false)
  | 0x2000, 0x11 => some (16, 1, true)
  | 0x4800, 0x01 => some (32, 4096, true)
  | 0x5800, 0x02 => some (32, 64, false)
  | 0x7000, 0x05 => some (64, 32, false)
  | 0x7000, 0x07 => some (160, 64, false)
  | _, _ =>
    match repeatOf 0x4000 0x10 14 index with
    | some _ => if sub == 6 then some (64, 64, false) else if sub == 0x19 then some (16, 16, false)
                else if sub == 0x1B then some (1040, 16, false) else none
    | none => none

/-- A size that a DOMAIN admits. -/
def domainFits (d : Nat × Nat × Bool) (n : Nat) : Bool :=
  if d.2.2 then n == d.1 * d.2.1 else n % d.1 == 0 && n ≤ d.1 * d.2.1

/-- Bytes cut into elements. -/
def elementsOf (n : Nat) : Nat → List Nat → List (List Nat)
  | 0, _ => []
  | _ + 1, [] => []
  | fuel + 1, l => l.take n :: elementsOf n fuel (l.drop n)

/-- Elements dropped from a DOMAIN, by their number. -/
def Draft.drops (index sub : Nat) (l : List Nat) (d : Draft) : Draft :=
  l.foldl (fun d i => d.note index sub i rDropped 0) d

/-- The numbered elements that pass, and the numbers of those that are dropped, when each is judged against the elements kept
before it. -/
def sift {α : Type} (ok : List α → α → Bool) (l : List (α × Nat)) : List α × List Nat :=
  l.foldl (fun acc e => if ok acc.1 e.1 then (acc.1 ++ [e.1], acc.2) else (acc.1, acc.2 ++ [e.2])) ([], [])

/-- The fields of an element of a staged DOMAIN from its most significant bit down, its bytes taken as one little-endian word: their
widths, and whether they are held; the others are rsvd (R17). None for an entry without rsvd fields. -/
def domainFields (index sub : Nat) : Option (List (Nat × Bool)) :=
  match index, sub with
  | 0x2000, 0x09 => some [(128, true), (56, false), (8, true)]
  | 0x2000, 0x0A => some [(25, true), (39, false), (46, true), (18, false)]
  | 0x4800, 0x01 => some [(1, true), (3, true), (4, false), (16, true), (8, false), (144, true), (80, false)]
  | 0x5800, 0x02 => some [(32, true), (32, false), (184, true), (8, false)]
  | 0x7000, 0x05 => some [(8, true), (120, false), (384, true)]
  | 0x7000, 0x07 => some [(1152, true), (120, false), (8, true)]
  | _, _ =>
    match repeatOf 0x4000 0x10 14 index with
    | some _ => if sub == 6 then some ((List.replicate 64 [(1, true), (1, false), (6, true)]).flatten)
                else if sub == 0x1B then some ((List.replicate 256 [(14, false), (18, true)]).flatten ++ [(32, true), (96, false)]) else none
    | none => none

/-- A word without its rsvd fields. -/
def heldFields (l : List (Nat × Bool)) (w : Nat) : Nat :=
  (l.foldr (fun (f : Nat × Bool) (acc : Nat × Nat) =>
    (acc.1 + f.1, acc.2 + (if f.2 then w / 2 ^ acc.1 % 2 ^ f.1 * 2 ^ acc.1 else 0))) (0, 0)).2

/-- What is staged of a write: its rsvd fields are ignored and read as zero (R17). -/
def plainStaged (index sub : Nat) (data : List Nat) : List Nat :=
  match domainSize index sub, domainFields index sub with
  | some d, some l => (elementsOf d.1 data.length data).flatMap (fun b => bytesLe b.length (heldFields l (ofBytesLe b)))
  | _, _ => if index == 0x2400 && sub == 7 then bytesLe data.length (ringsValue (ofBytesLe data)).1 else data

/-- A span session is open (R325, R423). -/
def State.sessionOpen (s : State) : Bool := s.span.sessions.any (fun x => x.phase == .opened)

/-- SPAN_PEERS (R155). -/
def Draft.peers (els : List (List Nat)) (d : Draft) : Draft :=
  let l := els.map (fun b => (b.headD 0, ofBytesLe (b.drop 8).reverse))
  let t := sift (fun _ (e : Nat × Nat) => 1 ≤ e.1 && e.1 ≤ 63) l.zipIdx
  ({ d with s := { d.s with glob := { d.s.glob with spanPeers := t.1 } } }).drops 0x2000 0x09 t.2

/-- A landing window as its entry spells it (R154). -/
def windowOf (b : List Nat) : Window :=
  let w := ofBytesLe b
  { id := bits 127 112 w, part := bits 111 108 w, seg := bits 107 103 w, base := bits 63 41 w, size := bits 40 18 w }

/-- A window lies within staging SRAM and apart from the windows kept before it (R154, R155). -/
def windowOk (segs : Nat) (kept : List Window) (w : Window) : Bool :=
  w.seg < segs && 2 ≤ w.size && w.base + w.size ≤ 393216
    && kept.all (fun k => !(k.seg == w.seg && overlaps k.base k.size w.base w.size))

/-- SPAN_WINDOWS: a window that the commit removes takes no further record, and closes once none is being written into it (R154). -/
def Draft.windows (els : List (List Nat)) (d : Draft) : Draft :=
  let t := sift (windowOk d.s.segs.length) (els.map windowOf).zipIdx
  let gone := d.s.glob.spanWindows.filter (fun w => !t.1.contains w)
  let s := { d.s with glob := { d.s.glob with spanWindows := t.1 }, span := { d.s.span with removing := d.s.span.removing ++ gone } }
  ({ d with s := s }).drops 0x2000 0x0A t.2

/-- SPAN_LOCAL_IP: a multicast address is refused; the old value stands while a span session is open (R423). -/
def Draft.localIp (els : List (List Nat)) (d : Draft) : Draft :=
  let v := ofBytesLe (els.headD []).reverse
  if bits 127 120 v == 0xFF then d.note 0x2000 0x11 wholeEntry rRefused 0
  else if d.s.sessionOpen && v != d.s.glob.localIp then d.note 0x2000 0x11 wholeEntry rInUse 0
  else { d with s := { d.s with glob := { d.s.glob with localIp := v } } }

/-- Depth of a node of a tree record, by its PARENT steps. -/
def nodeDepth (t : List Nat) : Nat → Nat → Nat
  | 0, _ => 0
  | fuel + 1, n => if n == 0 then 0 else nodeDepth t fuel (bits 5 0 (t.getD n 0)) + 1

/-- A tree template stands: node 0 is present, each PARENT is below its node, and no node is deeper than 16 (R229). -/
def templateOk (t : List Nat) : Bool :=
  bit 7 (t.getD 0 0) && (List.range 64).all (fun n =>
    n == 0 || !bit 7 (t.getD n 0) || (bits 5 0 (t.getD n 0) < n && nodeDepth t 64 n ≤ 16))

/-- A tree template as it is held: bit [6] of every node reads as zero (R17, R169). -/
def plainTemplate (t : List Nat) : List Nat := t.map (fun b => packMsb [(1, bits 7 7 b), (1, 0), (6, bits 5 0 b)])

/-- TREE_TEMPLATES: a broken template becomes template 0 as the entry's default gives it, the root alone (R229, log entry 25). -/
def Draft.trees (p : Nat) (els : List (List Nat)) (d : Draft) : Draft :=
  let bad := (els.zipIdx.filter (fun e => !templateOk e.1)).map (·.2)
  let s := d.s.onPart p (fun q => { q with templates := els.map (fun t => if templateOk t then plainTemplate t else rootAlone) })
  bad.foldl (fun d i => d.note (0x4000 + p * 0x10) 6 i rEncoding 0) { d with s := s }

/-- A live dim record lies in an extent (R202). -/
def State.extentHeld (s : State) (p : Nat) (e : Nat × Nat) : Bool :=
  (s.dimRecords p).any (fun r => e.1 ≤ r.addr * 4096 && r.addr * 4096 < e.1 + e.2 * 4096)

/-- DIM_POOL: an extent that holds a live dim record stays as it was; misaligned or overlapping extents are dropped (R202). -/
def Draft.dimPools (p : Nat) (els : List (List Nat)) (d : Draft) : Draft :=
  let l := els.map (fun b => (ofBytesLe (b.take 8), ofBytesLe (b.drop 8)))
  let held := (d.s.part p).dimPool.zipIdx.filter (fun e => d.s.extentHeld p e.1 && !l.contains e.1)
  let ok (kept : List (Nat × Nat)) (e : Nat × Nat) : Bool :=
    e.1 % 4096 == 0 && kept.all (fun k => !overlaps k.1 (k.2 * 4096) e.1 (e.2 * 4096))
  let t := sift (fun kept (e : Nat × Nat) => ok (held.map (·.1) ++ kept) e) l.zipIdx
  let s := d.s.onPart p (fun q => { q with dimPool := held.map (·.1) ++ t.1 })
  let d := ({ d with s := s }).drops (0x4000 + p * 0x10) 0x19 t.2
  held.foldl (fun d e => d.note (0x4000 + p * 0x10) 0x19 e.2 rInUse 0) d

/-- The tokens of one array of a packing template (R253). -/
def slotTokens (n : Nat) (b : List Nat) : List Nat :=
  (List.range n).map (fun i => bits 17 0 (ofBytesLe ((b.drop (4 * i)).take 4)))

/-- A packing template with the lengths of its arrays (R253). -/
def packTemplateOf (b : List Nat) : PackTemplate × List Nat :=
  let h := ofBytesLe (b.take 16)
  let a (k n : Nat) : List Nat := slotTokens n (b.drop (16 + 256 * k))
  ({ head := a 0 (min 64 (bits 127 120 h)), open_ := a 1 (min 64 (bits 119 112 h)), close_ := a 2 (min 64 (bits 111 104 h)),
     tail := a 3 (min 64 (bits 103 96 h)) }, [bits 127 120 h, bits 119 112 h, bits 111 104 h, bits 103 96 h])

/-- Every token of a packing template lies below a vocabulary (R259). -/
def templateSuits (vocab : Nat) (t : PackTemplate) : Bool := (t.head ++ t.open_ ++ t.close_ ++ t.tail).all (fun x => x < vocab)

/-- VOCAB of a partition's target model, 0 without one. -/
def State.targetVocab (s : State) (p : Nat) : Nat := match (s.part p).target with
  | some m => m.vocab
  | none => 0

/-- Committed packing templates that a commit's target model no longer suits are dropped, though they were not staged (R259, R321). -/
def Draft.packsKept (set : List (Nat × Nat × List Nat)) (p : Nat) (d : Draft) : Draft :=
  let x := 0x4000 + p * 0x10
  let bad := ((d.s.part p).packTemplates.zipIdx.filter (fun e => !templateSuits (d.s.targetVocab p) e.1)).map (·.2)
  if set.any (fun e => e.1 == x && e.2.1 == 0x1B) || bad.isEmpty then d
  else
    let s := d.s.onPart p (fun q => { q with packTemplates := q.packTemplates.filter (templateSuits (d.s.targetVocab p)) })
    bad.foldl (fun d i => d.note x 0x1B i rDependent 0) { d with s := s }

/-- PACK_TEMPLATES: a template with a length above 64, or a token at or above the target's VOCAB, is dropped (R259). -/
def Draft.packs (p : Nat) (els : List (List Nat)) (d : Draft) : Draft :=
  let ok (t : PackTemplate × List Nat) : Bool := t.2.all (fun n => n ≤ 64) && templateSuits (d.s.targetVocab p) t.1
  let t := sift (fun _ (e : PackTemplate × List Nat) => ok e) (els.map packTemplateOf).zipIdx
  ({ d with s := d.s.onPart p (fun q => { q with packTemplates := t.1.map (fun (x : PackTemplate × List Nat) => x.1) }) }).drops (0x4000 + p * 0x10) 0x1B t.2

/-- A tenant entry with every field at its nearest bound (R225). -/
def tenantOf (b : List Nat) (old : Tenant) : Tenant × Nat :=
  let w := ofBytesLe b
  let iw := bound 0 1024 (bits 247 232 w)
  let bu := bound 1 (2 ^ 31 - 1) (bits 191 160 w)
  let rm := bound 1 (2 ^ 32 - 1) (bits 127 96 w)
  let t : Tenant := { old with
    valid := bit 255 w, priority := bits 254 252 w, inputWeight := iw.1, rate := bits 223 192 w, burst := bu.1,
    overdraft := bits 159 128 w, resumeMark := min rm.1 bu.1, partitions := bits 95 80 w }
  (t, if bu.1 < rm.1 then rDependent else max iw.2 (max bu.2 rm.2))

/-- A tenant that turns valid starts with a full bucket (R222). -/
def tenantFilled (was : Tenant) (t : Tenant) : Tenant :=
  if t.valid && !was.valid then { t with level := 256 * (t.burst : Int) } else t

/-- TENANT_TABLE (R225, R229). -/
def Draft.tenantTable (els : List (List Nat)) (d : Draft) : Draft :=
  els.zipIdx.foldl (fun d e =>
    let was := d.s.tenant e.2
    let t := tenantOf e.1 was
    let d := { d with s := d.s.onTenant e.2 (fun _ => tenantFilled was t.1) }
    if t.2 == 0 then d else d.note 0x4800 0x01 e.2 t.2 0) d

/-- A region has fetches in flight (R259). -/
def State.regionBusy (s : State) (n : Nat) : Bool :=
  s.seqs.any (fun e => match e.2.plan with
    | some pl => pl.stage == .fetch && pl.cands.zipIdx.any (fun c =>
        c.1.state == .waiting && bits 63 56 c.1.ref == n && (s.dmaPending (.directory pl.tag c.2) || s.dmaPending (.passage pl.tag c.2)))
    | none => false)
    || s.span.asks.any (fun a => a.sent.isNone && bits 63 56 a.ref == n)

/-- An archive region as its entry spells it (R249). -/
def regionOf (b : List Nat) : Region :=
  let w := ofBytesLe b
  { region := bits 255 248 w, keySlot := bits 247 240 w, boundBt := bits 239 224 w, dirBase := bits 191 128 w,
    dataBase := bits 127 64 w, passages := bits 63 8 w }

/-- ARCHIVE_REGIONS: misaligned or duplicate regions are dropped; a region with fetches in flight stays as it was (R259). -/
def Draft.regions (els : List (List Nat)) (d : Draft) : Draft :=
  let l := els.map regionOf
  let held := d.s.glob.regions.zipIdx.filter (fun e => d.s.regionBusy e.1.region && !l.contains e.1)
  let ok (kept : List Region) (r : Region) : Bool :=
    r.dirBase % 4096 == 0 && r.dataBase % 4096 == 0 && kept.all (fun k => k.region != r.region)
  let t := sift (fun kept (e : Region) => ok (held.map (·.1) ++ kept) e) l.zipIdx
  let d := ({ d with s := { d.s with glob := { d.s.glob with regions := held.map (fun (x : Region × Nat) => x.1) ++ t.1 } } }).drops 0x5800 0x02 t.2
  held.foldl (fun d e => d.note 0x5800 0x02 e.2 rInUse 0) d

/-- OWNER_KEYS: entries with KINDS 0 are dropped (R352). -/
def Draft.owners (els : List (List Nat)) (d : Draft) : Draft :=
  let t := sift (fun _ (e : Nat × Nat) => e.2 != 0) (els.map (fun b => (ofBytesLe (b.take 48).reverse, b.getD 63 0))).zipIdx
  ({ d with s := { d.s with glob := { d.s.glob with ownerKeys := t.1 } } }).drops 0x7000 0x05 t.2

/-- An entry of SPAN_TRUST as spelt (R352). -/
def trustOf (b : List Nat) : TrustEntry :=
  let h (k : Nat) : Nat := ofBytesLe ((b.drop k).take 48).reverse
  { index := b.headD 0, manager := h 16, standby := h 64, firmware := h 112 }

/-- SPAN_TRUST: entries with an index above 63, or repeated, are dropped (R352). -/
def Draft.trusts (els : List (List Nat)) (d : Draft) : Draft :=
  let t := sift (fun kept (e : TrustEntry) => e.index ≤ 63 && kept.all (fun k => k.index != e.index)) (els.map trustOf).zipIdx
  ({ d with s := { d.s with glob := { d.s.glob with spanTrust := t.1 } } }).drops 0x7000 0x07 t.2

/-- A staged DOMAIN taken into the candidate. -/
def Draft.domain (index sub : Nat) (data : List Nat) (d : Draft) : Draft :=
  match domainSize index sub with
  | some z =>
    let els := elementsOf z.1 z.2.1 data
    if index == 0x2000 then (if sub == 9 then d.peers els else if sub == 0x0A then d.windows els else d.localIp els)
    else if index == 0x4800 then d.tenantTable els
    else if index == 0x5800 then d.regions els
    else if index == 0x7000 then (if sub == 5 then d.owners els else d.trusts els)
    else
      let p := (index - 0x4000) / 0x10
      if sub == 6 then d.trees p els else if sub == 0x19 then d.dimPools p els else d.packs p els
  | none => d

/-! The first pass. -/

/-- One staged number taken against its own range. -/
def Draft.first (e : Nat × Nat × List Nat) (d : Draft) : Draft :=
  match d.s.field e.1 e.2.1 with
  | some f =>
    let v := ofBytesLe e.2.2
    let t := f.first v
    let d := { d with s := f.set t.1 d.s }
    if t.2 == 0 then d else d.note e.1 e.2.1 wholeEntry t.2 v
  | none => d

/-- The first pass over a set: every number alone. -/
def firstPass (set : List (Nat × Nat × List Nat)) (s : State) : Draft := set.foldl (fun d e => d.first e) { s := s }

/-! The second pass, in ascending Index.Sub. -/

/-- Staged DOMAINs of an index range are taken in. -/
def Draft.domains (set : List (Nat × Nat × List Nat)) (lo hi : Nat) (d : Draft) : Draft :=
  set.foldl (fun d e => if lo ≤ e.1 && e.1 ≤ hi then d.domain e.1 e.2.1 e.2.2 else d) d

/-- Relations of 0x2000: what a span session holds (R325, R423). -/
def relations2000 (set : List (Nat × Nat × List Nat)) (old : State) (d : Draft) : Draft :=
  let busy := old.sessionOpen
  let d := d.keepIf busy set old 0x2000 0x05 rInUse
  let d := d.keepIf busy set old 0x2000 0x0F rInUse
  d.keepIf busy set old 0x2000 0x10 rInUse

/-- Relations of 0x2200: the feed levels, and the margin floor (R379, R397). -/
def relations2200 (set : List (Nat × Nat × List Nat)) (d : Draft) : Draft :=
  let d := d.setTo set 0x2200 0x04 rDependent (min d.s.glob.feedAmber (d.s.glob.feedClear - 10))
  let d := d.setTo set 0x2200 0x05 rDependent (min d.s.glob.feedCrimson (d.s.glob.feedAmber - 10))
  d.setTo set 0x2200 0x21 rDependent (min d.s.glob.marginFloor (d.s.glob.marginThreshold - 1))

/-- A ring in service of a kind. -/
def State.ringServes (s : State) (n kind : Nat) : Bool := n < 16384 && (s.ring n).enable && (s.ring n).kind == kind

/-- MGMT_RINGS: ENABLE to 0 when either ring is not enabled or of the wrong kind (R312). -/
def relations2400 (set : List (Nat × Nat × List Nat)) (d : Draft) : Draft :=
  let w := d.s.glob.mgmtRings
  if bit 31 w && !(d.s.ringServes (bits 29 16 w) 0 && d.s.ringServes (bits 13 0 w) 1) then
    d.setTo set 0x2400 0x07 rDependent (w % 2 ^ 31)
  else d

/-- A partition holds a live sequence or a directory entry, tombstones aside (R202, R204). -/
def State.holdsCaches (s : State) (p : Nat) : Bool :=
  s.seqs.any (fun e => e.2.req.part == p) || s.handles.any (fun e => e.2.part == p && e.2.tier != .tombstone)

/-- The partition that keeps a segment named by several masks: the one whose committed mask holds it, else the lowest (R229). -/
def maskOwner (old new : List Nat) (i : Nat) : Nat :=
  match (List.range 15).find? (fun p => (old.getD p 0).testBit i && (new.getD p 0).testBit i) with
  | some p => p
  | none => ((List.range 15).find? (fun p => (new.getD p 0).testBit i)).getD 0

/-- The masks settled against one another (R229). -/
def settledMask (old new : List Nat) (p : Nat) : Nat :=
  maskOf ((maskBits 20 (new.getD p 0)).filter (fun i => maskOwner old new i == p))

/-- What a partition that restarts is emptied of (R361). -/
def restarted (p : Partition) : Partition := { p with programs := [], streams := [], kernels := [], models := [], stopped := none }

/-- A stopped partition restarts at a commit that gives it another mask, of joined segments; its models become none, and are reported
where they were not (R321, R361). A model that the same commit stages is judged by the relations of the models. -/
def Draft.restart (set : List (Nat × Nat × List Nat)) (old : State) (p : Nat) (d : Draft) : Draft :=
  let x := 0x4000 + p * 0x10
  let m := (d.s.part p).segMask
  let none_ (sub : Nat) (d : Draft) : Draft := if (stagedNum set x sub).isSome then d else d.setTo set x sub rDependent 0xFFFF
  if (old.part p).stopped.isSome && m != (old.part p).segMask && m != 0 && d.s.maskJoined p then
    let s := d.s.onPart p restarted
    none_ 5 (none_ 2 { d with s := { s with indexes := s.indexes.filter (fun y => y.part != p) } })
  else d

/-- Relations of the SEGMENT_MASKs (R204, R229, R361). -/
def relationsMasks (set : List (Nat × Nat × List Nat)) (old : State) (d : Draft) : Draft :=
  let ps := List.range 15
  let d := ps.foldl (fun d p => d.keepIf (old.holdsCaches p) set old (0x4000 + p * 0x10) 0x01 rInUse) d
  let was := ps.map (fun p => (old.part p).segMask)
  let now := ps.map (fun p => (d.s.part p).segMask)
  let d := ps.foldl (fun d p => d.setTo set (0x4000 + p * 0x10) 0x01 rDependent (settledMask was now p)) d
  ps.foldl (fun d p => d.restart set old p) d

/-- Two models with the same VOCAB and DETOK_ID (R264). -/
def sameTokens (a b : Option Model) : Bool := match a, b with
  | some x, some y => x.vocab == y.vocab && x.detok == y.detok
  | none, none => true
  | _, _ => false

/-- A draft model suits a target (R204). -/
def draftSuits (t d : Option Model) : Bool := match t, d with
  | some x, some y => x.vocab == y.vocab && x.detok == y.detok && x.eos == y.eos
  | _, some _ => false
  | _, none => true

/-- Relations of a partition's models (R204, R229, R264); a restart, which empties the partition, keeps no model (R361). -/
def relationsModels (set : List (Nat × Nat × List Nat)) (old : State) (p : Nat) (d : Draft) : Draft :=
  let x := 0x4000 + p * 0x10
  let held := old.holdsCaches p
  let d := if (d.s.part p).targetModel != 0xFFFF && (d.s.part p).target.isNone then d.setTo set x 0x02 rDependent 0xFFFF else d
  let restarts := (old.part p).stopped.isSome && (d.s.part p).stopped.isNone
  let d := d.keepIf (!restarts && (old.part p).policy.lock && !sameTokens (old.part p).target (d.s.part p).target) set old x 0x02 rLocked
  let d := d.keepIf held set old x 0x02 rInUse
  let d := if !draftSuits (d.s.part p).target (d.s.part p).draft || ((d.s.part p).draftModel != 0xFFFF && (d.s.part p).draft.isNone)
    then d.setTo set x 0x05 rDependent 0xFFFF else d
  let d := d.keepIf held set old x 0x05 rInUse
  let d := d.keepIf held set old x 0x10 rInUse
  d.keepIf held set old x 0x11 rInUse

/-- The floors of a segment: those of the screen partition and of its generation partition (R65). -/
def State.floorsOn (s : State) (i : Nat) : List Nat :=
  15 :: (List.range 15).filter (fun p => (s.part p).segMask.testBit i)

/-- A partition's LC floor as the segments it holds allow it: scaled down in proportion where a segment's floors exceed 96 MiB
(R65, R73). The quotient is rounded down to whole MiB, the model's choice: the spec gives no rounding (log entry 25). -/
def State.scaledFloor (s : State) (p : Nat) : Nat :=
  (List.range s.segs.length).foldl (fun acc i =>
    let ps := s.floorsOn i
    let sum := sumNat (ps.map (fun q => (s.part q).lcFloor))
    if ps.contains p && 96 < sum then min acc ((s.part p).lcFloor * 96 / sum) else acc) (s.part p).lcFloor

/-- Relations of the LC floors (R65). -/
def relationsFloors (set : List (Nat × Nat × List Nat)) (d : Draft) : Draft :=
  let want := (List.range 16).map d.s.scaledFloor
  (List.range 16).foldl (fun d p => d.setTo set (0x4000 + p * 0x10) 0x04 rDependent (want.getD p 0)) d

/-- The remaining relations of a partition: DEFAULT_TTL_BT and STEP_CMP_RING (R202, R305). -/
def relationsPart (set : List (Nat × Nat × List Nat)) (p : Nat) (d : Draft) : Draft :=
  let x := 0x4000 + p * 0x10
  let d := d.setTo set x 0x17 rDependent (min (d.s.part p).defaultTtl (d.s.part p).maxTtl)
  if (d.s.part p).stepCmpRing != 0xFFFF && !d.s.ringServes (d.s.part p).stepCmpRing 1 then d.setTo set x 0x1D rDependent 0xFFFF else d

/-- A rule set slot may stay attached to a policy (R268). -/
def slotSuits (vocab : Option Model) (r : Option RuleSet) : Bool := match r with
  | none => true
  | some r =>
    if !r.automaton then false
    else
      match vocab with
      | none => true
      | some m => if rsKind r.plain.header == 0 then rsDetok r.plain.header == m.detok else rsVocab r.plain.header == m.vocab

/-- The bits of a set that R268 leaves. -/
def State.suitedSets (s : State) (p sets : Nat) : Nat :=
  maskOf ((maskBits 8 sets).filter (fun k => slotSuits (s.screenVocab p) (s.slotImage k)))

/-- A verdict map slot holds a verdict map (R282). -/
def State.mapStands (s : State) (k : Nat) : Bool := match s.slotImage k with
  | some r => rsKind r.plain.header == 2
  | none => false

/-- A model of the screen partition, or none (R263). -/
def State.classifierStands (s : State) (id : Nat) : Bool := id == 0xFFFF || ((s.part 15).model id).isSome

/-- Relations of a screen policy whose partition is not locked (R262, R263, R268). -/
def relationsPolicy (set : List (Nat × Nat × List Nat)) (old : State) (p : Nat) (d : Draft) : Draft :=
  let x := 0x5100 + p * 0x10
  let q := fun (d : Draft) => (d.s.part p).policy
  let none_ := fun (sub : Nat) (ok : Bool) (d : Draft) => if ok then d else d.setTo set x sub rDependent 0xFFFF
  let d := if (q d).screenModel == 0xFFFF || (d.s.anyModel (q d).screenModel).isSome then d
    else d.setTo set x 6 rDependent 0xFFFF
  let d := d.setTo set x 1 rDependent (d.s.suitedSets p (q d).inSets)
  let d := d.setTo set x 2 rDependent (d.s.suitedSets p (q d).outSets)
  let d := if (q d).verdictMap == 0xFF || d.s.mapStands (q d).verdictMap then d else d.setTo set x 3 rDependent 0xFF
  let d := none_ 4 (d.s.classifierStands (q d).inClassifier) d
  let d := none_ 5 (d.s.classifierStands (q d).outClassifier) d
  let d := if (stagedNum set x 7).isSome && (q d).dIn < d.s.screenMin then d.keep set old x 7 rRefused else d
  if (stagedNum set x 8).isSome && (q d).dOut < d.s.screenMin then d.keep set old x 8 rRefused else d

/-- A screen-locked policy keeps every field (R264). -/
def lockedPolicy (set : List (Nat × Nat × List Nat)) (old : State) (p : Nat) (d : Draft) : Draft :=
  (List.range 9).foldl (fun d k => d.keep set old (0x5100 + p * 0x10) (k + 1) rLocked) d

/-- SPAN_PARTITION: to 0xFF if the partition holds no index (R259). -/
def relations5800 (set : List (Nat × Nat × List Nat)) (d : Draft) : Draft :=
  let p := d.s.glob.spanPartition
  if p != 0xFF && !d.s.indexes.any (fun x => x.part == p) then d.setTo set 0x5800 0x04 rDependent 0xFF else d

/-- The second pass (R321). -/
def secondPass (set : List (Nat × Nat × List Nat)) (old : State) (d : Draft) : Draft :=
  let d := (relations2000 set old d).domains set 0x2000 0x2000
  let d := relations2400 set (relations2200 set d)
  let d := relationsMasks set old d
  let d := (List.range 15).foldl (fun d p => relationsModels set old p d) d
  let d := relationsFloors set d
  let d := (List.range 16).foldl (fun d p => relationsPart set p d) d
  let d := (List.range 15).foldl (fun d p => d.packsKept set p) d
  let d := d.domains set 0x4000 0x4800
  let d := (List.range 15).foldl (fun d p =>
    if (old.part p).policy.lock then lockedPolicy set old p d else relationsPolicy set old p d) d
  (relations5800 set d).domains set 0x5800 0x7000

/-! What a commit leaves. -/

/-- The pool of a partition is laid out where its mask, its models or its areas changed; SCREEN_STACK_MIB as it stands when a mask
configures the partition holds for it from then on (R173, log entry 7). -/
def State.layout (old s : State) (p : Nat) : State :=
  let a := old.part p
  let b := s.part p
  if a.segMask == b.segMask && a.targetModel == b.targetModel && a.draftModel == b.draftModel && a.modelArea == b.modelArea
      && a.retrievalArea == b.retrievalArea then s
  else
    let s := s.onPart p (fun q => { q with screenMib := if a.segMask == b.segMask then q.screenMib else s.glob.screenStack })
    let s := s.onPart p (fun q => { q with layout := q.layoutPages })
    let n := s.poolOf p
    s.onPart p (fun q => { q with poolPages := n, poolFree := n, returning := [] })

/-- A segment given to a partition: its stack key for the partition is made anew, unless its lifecycle state has no content keys (R328), and
nothing written under the old key is read again (R345). -/
def giveSegment (screenMib p key : Nat) (g : Segment) : Segment :=
  { g with trust := if g.trust.lifecycle.keyed then { g.trust with stackKeys := aSet p key g.trust.stackKeys } else g.trust,
           stack := { g.stack with mem := g.stack.mem.filter (fun c => c.1 < 2 ^ 28 + screenMib * 2 ^ 20) } }

/-- The segments that a commit gives to partitions (R345). -/
def State.given_ (old s : State) : State :=
  let new := (List.range 15).flatMap (fun p =>
    ((maskBits 20 (s.part p).segMask).filter (fun i => !(old.part p).segMask.testBit i)).map (fun i => (p, i)))
  new.foldl (fun t x => { t.onSeg x.2 (giveSegment (t.part x.1).screenMib x.1 (Config.freshKey t.free)) with free := t.free + 1 }) s

/-- A WCET_BT for a clock below the one a program was compiled at (R69). -/
def rescaledWcet (clock : Nat) (img : ProgramImage) : Nat := ceilDiv (img.wcet * img.clock) clock

/-- Resident programs under a lower planning clock (R69). -/
def rescale (clock : Nat) (g : Program) : Program :=
  if clock < g.image.clock then { g with wcet := rescaledWcet clock g.image } else g

/-- A lowered planning clock rescales the resident programs (R69); reduced service runs at 1,600 MHz at most (R391). One raised above the
clock of a serving segment leaves that clock where it stands (DESIGN CHOICE, log entry 25). -/
def State.replan (old s : State) : State :=
  let clock := if s.power.stage < 4 then min 1600 s.glob.planClock else s.glob.planClock
  if s.glob.planClock < old.glob.planClock then
    { s with parts := s.parts.map (fun p => { p with programs := p.programs.map (rescale clock) }) }
  else s

/-- The level of a tenant as the standby's copy takes it: that of the last delta, but where the commit itself set it (R31, R322, R367). -/
def mirroredLevel (was held : Option Tenant) (now : Tenant) : Int :=
  if was.map (·.level) == some now.level then (held.getD now).level else now.level

/-- Tenant entries that a commit changed, as the standby's copy takes them (R322). -/
def mirrored (was now l : List (Nat × Tenant)) : List (Nat × Tenant) :=
  let keys := ((was ++ now).map (·.1)).filter (fun k => aGet k was != aGet k now)
  keys.foldl (fun l k => match aGet k now with
    | some t => aSet k { t with level := mirroredLevel (aGet k was) (aGet k l) t } l
    | none => aErase k l) l

/-- Before the ACK, the committed changes go to the standby, which holds the tenant table among its copies (R322). A standby that the
manager has none of, that no route reaches, or that a waist cut left in the far half, receives nothing. -/
def State.mirrorCommitted (old s : State) : State :=
  let f (d : Delta) : Delta := { d with tenants := mirrored old.tenants s.tenants d.tenants }
  match s.roles.standby with
  | some i =>
    if (aGet i s.meshDist).isNone then s
    else { s.toStandby with mirror := { s.mirror with unacked := s.mirror.unacked.map f, applied := f s.mirror.applied } }
  | none => s

/-- An applied value as a report gives it: extended to 64 bits, 0 for a DOMAIN (R324). -/
def State.appliedValue (s : State) (e : ClampEntry) : Nat × Nat :=
  match s.field e.index e.sub with
  | some f =>
    let ext (v : Nat) : Nat := if f.isSigned then unsigned 64 (signed (8 * f.bytes) v) else v
    (ext e.written, ext (f.get s))
  | none => (0, 0)

/-- One entry before another in a report: ascending Index.Sub, then element (R324). -/
def clampBefore (a b : ClampEntry) : Bool :=
  a.index * 256 + a.sub < b.index * 256 + b.sub || (a.index == b.index && a.sub == b.sub && a.element < b.element)

/-- The report of a commit (R324). -/
def Draft.report (d : Draft) (number : Nat) (who : Principal) (set : List (Nat × Nat × List Nat)) : Report :=
  let fill (e : ClampEntry) : ClampEntry :=
    let v := d.s.appliedValue e
    { e with written := v.1, applied := v.2 }
  { number := number, principal := who, truncated := decide (1024 < d.log.length),
    entries := ((sortBy clampBefore d.log).take 1024).map fill,
    applied := (set.filter (fun e => !d.log.any (fun c => c.index == e.1 && c.sub == e.2.1))).length }

/-- DETAIL of CLAMP_REPORT: fields clamped in [111:96], commit number in [95:32] (R294). -/
def clampDetail (n number : Nat) : Nat := packMsb [(16, n), (64, number), (32, 0)]

/-- The set that a commit takes, cleared from the staging (R321). -/
def State.unstage (s : State) (who : Principal) : State :=
  { s with objs := { s.objs with staged := s.objs.staged.filter (fun e => e.1 != who) } }

/-- The draft that a staging set makes of a state. -/
def State.draft (s : State) (set : List (Nat × Nat × List Nat)) : Draft := secondPass set s (firstPass set s)

/-- A commit of a staging set at a stamp (R321, R323, R324). -/
def State.commitSet (s : State) (who : Principal) (set : List (Nat × Nat × List Nat)) (e : Stamp) : State :=
  let d := s.draft set
  let n := s.objs.commitNo + 1
  let d := { d with s := { d.s with prior := some s.replaced } }
  let d := { d with s := (State.mirrorCommitted s) <| State.replan s <| (State.given_ s) ((List.range 15).foldl (fun t p => State.layout s t p) d.s) }
  let r := d.report n who set
  let t := { d.s with objs := { d.s.objs with commitNo := n, reports := (r :: d.s.objs.reports).take 8 } }
  if d.log.isEmpty then t else t.raise t.mgr 0x0F 0x0 0 0 e (clampDetail d.log.length n)

/-- Word 1 of the ACK of a commit: fields clamped, and the low 48 bits of the commit number (R321). -/
def commitAck (clamped number : Nat) : Nat := packMsb [(16, clamped), (48, number)]

end Sys2Proof.Machine
end

