-- ==== Sys2Proof/Machine/Retrieval.lean ====
section
/-! DEFINITION. Retrieval plans (R237): probe lists (R240), scan groups (R241 to R245), the span merge (R246 to R248), the
fetch of passages (R249 to R251), re-ranking (R252) and packing (R253, R254). -/

namespace Sys2Proof.Machine

/-! Plans. -/

/-- The retrieval plan of a live sequence. -/
def State.planOf (s : State) (k : Nat) : Option Plan := (s.live k).bind (·.plan)

/-- The live sequence of the plan that bears a number among the block's plans (R246, R257). -/
def State.tagged (s : State) (tag : Nat) : Option Nat :=
  (s.seqs.find? (fun e => match e.2.plan with
    | some pl => pl.tag == tag && tag != 0 && pl.endedAt.isNone && e.2.ended.isNone
    | none => false)).map (·.1)

/-- The number after one: 32 bits, and never 0. -/
def nextTagAfter (n : Nat) : Nat := if (n + 1) % 2 ^ 32 == 0 then 1 else (n + 1) % 2 ^ 32

/-- The state with a live sequence's plan changed. -/
def State.onPlan (s : State) (k : Nat) (f : Plan → Plan) : State := s.onLive k (fun q => { q with plan := q.plan.map f })

/-- A resident index. -/
def State.index (s : State) (id : Nat) : Option Index := s.indexes.find? (fun x => x.id == id)

/-- The retrieval block of a live sequence's request. -/
def State.retrOf (s : State) (k : Nat) : Option Retr := (s.live k).bind (fun q => q.req.retr)

/-- The plan of a sequence at a stage. -/
def State.planAt (s : State) (k : Nat) (stage : PlanStage) : Bool :=
  match s.planOf k with
  | some pl => pl.stage == stage
  | none => false

/-! Where an index lies (R173, R232). -/

/-- A byte count rounded up to 4 KiB. -/
def align4k (n : Nat) : Nat := ceilDiv n 4096 * 4096

/-- Byte address of the retrieval area of a partition in a stack (R173). -/
def State.retrievalBase (s : State) (p : Nat) : Nat := (s.regionBases p).2.1

/-- Byte address of an index in a stack (R231). -/
def State.indexBase (s : State) (x : Index) : Nat := s.retrievalBase x.part + ixOffset x.desc * 4096

/-- Bytes of the centroid shard on one of n segments: its INT8 tiles and their rescale table (R118, R232). -/
def shardBytes (desc n : Nat) : Nat :=
  let c := ixNlist desc / max 1 n
  c * ixDim desc + 64 + c * 16

/-- Offset of the codebooks from the start of an index. -/
def codebookOffset (desc n : Nat) : Nat := align4k (shardBytes desc n)

/-- Offset of the list directory from the start of an index: after 64 × 256 subcentroids of D / 64 BF16 elements. -/
def directoryOffset (desc n : Nat) : Nat := codebookOffset desc n + align4k (512 * ixDim desc)

/-- A list of a segment: the address of its codes, the address of its passage references, and COUNT (R232). -/
def listAt (m : Memory) (base desc n l : Nat) : Nat × Nat × Nat :=
  let e := memReadWord m (base + directoryOffset desc n + 16 * l) 16
  let codes := base + bits 127 88 e * 64
  (codes, codes + bits 87 64 e * 64, bits 87 64 e)

/-! The lookup table (R239). -/

/-- n BF16 elements at an address. -/
def bf16At (m : Memory) (a n : Nat) : List BF16 := (List.range n).map (fun i => BitVec.ofNat 16 (memReadWord m (a + 2 * i) 2))

/-- The dot product of a query's subspace with a subcentroid, dimensions ascending. -/
def dotF32 (a b : List BF16) : F32 := f32Sum ((a.zip b).map (fun p => f32Mul (f32OfBf16 p.1) (f32OfBf16 p.2)))

/-- t[m][j] of an embedding against the codebooks at an address. -/
def lutDots (mem : Memory) (a dim : Nat) (vec : List BF16) : List (List F32) :=
  let w := dim / 64
  (List.range 64).map (fun i =>
    (List.range 256).map (fun j => dotF32 ((vec.drop (i * w)).take w) (bf16At mem (a + (i * 256 + j) * 2 * w) w)))

/-- The largest magnitude of a table. -/
def lutMax (t : List (List F32)) : F32 := t.foldl (fun a r => r.foldl (fun b x => f32Max b (f32Abs x)) a) 0

/-- A lookup table: r_lut, lut_scale and the entries. -/
structure Lut where
  r : F32 := 0
  scale : F32 := f32One
  entries : List (List Int) := []
  deriving DecidableEq, Repr

/-- The lookup table of an embedding. -/
def lutOf (t : List (List F32)) : Lut :=
  let mx := lutMax t
  let r : F32 := if f32Eq mx 0 then 0 else f32Div (f32OfInt 32767) mx
  { r := r, scale := if f32Eq mx 0 then f32One else f32Div mx (f32OfInt 32767),
    entries := t.map (fun row => row.map (fun x => clampInt (-32767) 32767 (f32Rne (f32Mul x r)))) }

/-- The lookup table that a segment builds of an embedding for an index. -/
def State.lutHere (s : State) (seg : Nat) (x : Index) (vec : List BF16) : Lut :=
  let a := s.indexBase x + codebookOffset x.desc (s.partSegs x.part).length
  lutOf (lutDots (s.seg seg).stack.mem a (ixDim x.desc) vec)

/-! Scores and heaps (R242, R243). -/

/-- The order of heap entries: score descending, then passage reference ascending. -/
def scanAbove (a b : ScoreRef) : Bool := b.score < a.score || (a.score == b.score && a.ref < b.ref)

/-- The best k entries, in order. -/
def bestOf (k : Nat) (l : List ScoreRef) : List ScoreRef := (sortBy scanAbove l).take k

/-- The score of a code. -/
def codeScore (t : Lut) (base : Int) (code : List Nat) : Int :=
  (t.entries.zip code).foldl (fun acc e => acc + e.1.getD e.2 0) base

/-- The scores of the codes of one list for one query. -/
def listScores (m : Memory) (t : Lut) (base : Int) (lst : Nat × Nat × Nat) : List ScoreRef :=
  (List.range lst.2.2).map (fun i =>
    { score := codeScore t base (memReadBytes m (lst.1 + 64 * i) 64), ref := memReadWord m (lst.2.1 + 8 * i) 8 })

/-- base of a list: clamp(rne(c × r_lut), −2^30, 2^30). -/
def listBase (t : Lut) (c : F32) : Int := clampInt (-(2 ^ 30)) (2 ^ 30) (f32Rne (f32Mul c t.r))

/-- A query's SCAN_K best entries on a segment, over the lists it probes. -/
def State.segHeap (s : State) (seg k : Nat) : List ScoreRef :=
  match s.planOf k, s.retrOf k with
  | some pl, some r =>
    match s.index pl.indexId with
    | some x =>
      let m := (s.seg seg).stack.mem
      let n := (s.partSegs x.part).length
      let t := s.lutHere seg x pl.embedding
      bestOf r.scanK (pl.lists.flatMap (fun l => listScores m t (listBase t l.2) (listAt m (s.indexBase x) x.desc n l.1)))
    | none => []
  | _, _ => []

/-- fp32(i × x): the exact product of an integer and a binary32 number, rounded once (R245). -/
def f32Scaled (i : Int) (x : F32) : F32 :=
  match f32Read x with
  | .fin neg m e =>
    if 0 ≤ e then f32Round (neg != (i < 0 : Bool)) (i.natAbs * m * 2 ^ e.toNat) 1 0 else f32Round (neg != (i < 0 : Bool)) (i.natAbs * m) 1 e
  | _ => f32Mul (f32OfInt i) x

/-! Packing (R253, R254). -/

/-- The packing budget B. -/
def State.packBudget (s : State) (q : Sequence) (r : Retr) : Nat :=
  let room := match (s.part q.req.part).target with | some m => m.contextMax | none => 0
  min r.packBudget (room - q.handleLen - q.req.prompt.length - max 1 q.req.params.maxTokens)

/-- The passages that fit, in order: what is appended, and how many. -/
def packPassages (t : PackTemplate) (packMax : Nat) (trunc : Bool) : Nat → Nat → List Cand → List Nat × Nat
  | _, used, [] => ([], used)
  | left, used, c :: rest =>
    if used == packMax then ([], used)
    else
      let frame := t.open_.length + t.close_.length
      let need := frame + c.tokens.length
      if need ≤ left then
        let r := packPassages t packMax trunc (left - need) (used + 1) rest
        (t.open_ ++ c.tokens ++ t.close_ ++ r.1, r.2)
      else if trunc && frame < left then (t.open_ ++ c.tokens.take (left - frame) ++ t.close_, used + 1)
      else packPassages t packMax trunc left used rest

/-- The packed content of candidates in their order (R254). -/
def packContent (t : PackTemplate) (r : Retr) (budget : Nat) (l : List Cand) : List Nat :=
  let ends := t.head.length + t.tail.length
  if budget < ends then []
  else
    let p := packPassages t r.packMax r.truncate (budget - ends) 0 (l.filter (fun c => c.state == .stored))
    if p.2 == 0 then [] else t.head ++ p.1 ++ t.tail

/-- A plan packs: its content is fixed, an empty one counted in PACK_EMPTY, and its passages freed (R254). -/
def State.packPlan (s : State) (k : Nat) : State :=
  match s.live k with
  | some q =>
    match q.plan, q.req.retr with
    | some pl, some r =>
      let t := (s.part q.req.part).packTemplates.getD r.template {}
      let toks := packContent t r (s.packBudget q r) (rerankOrder pl.cands)
      let s := s.freePassages pl
      let s := s.onPlan k (fun pl => { pl with stage := .packed, packed := toks, cands := [], endedAt := some s.edge })
      if toks.isEmpty then s.count (fun c => { c with packEmpty := c.packEmpty + 1 }) else s
    | _, _ => s
  | none => s

/-- A plan of a RESULT_ONLY request ends: its results are released with its verdict (R256). -/
def State.endPlan (s : State) (k : Nat) : State :=
  match s.planOf k with
  | some pl =>
    let e := s.stampFor 0
    let s := (s.given e).freePassages pl
    (s.onPlan k (fun pl => { pl with stage := .done, endedAt := some e, cands := pl.cands.map (fun (c : Cand) => { c with tokens := [] }) })).releaseResults k e
  | none => s

/-- Stage R is over, or skipped: the plan packs, or ends (R237). -/
def State.afterRank (s : State) (k : Nat) : State :=
  match s.live k with
  | some q => if q.req.resultOnly then s.endPlan k else s.packPlan k
  | none => s

/-! The fetch (R251). -/

/-- How many leading candidates are fetched: those that are to be re-ranked and those that may be packed. -/
def fetchCount (r : Retr) : Nat := if r.resultOnly then r.rerankN else max r.rerankN r.packMax

/-- The archive region a reference names (R232, R249). -/
def State.region (s : State) (ref : Nat) : Option Region := s.glob.regions.find? (fun x => x.region == bits 63 56 ref)

/-- A candidate of a plan changed. -/
def State.onCand (s : State) (k place : Nat) (f : Cand → Cand) : State :=
  s.onPlan k (fun pl => { pl with cands := modifyAt f place pl.cands })

/-- A candidate dropped, counted in ARCHIVE_FETCH_FAILS. -/
def State.dropCand (s : State) (k place : Nat) : State :=
  (s.onCand k place (fun c => { c with state := .dropped })).count (fun c => { c with fetchFails := c.fetchFails + 1 })

/-- A plan that asks workers or reads passages is given its number. -/
def State.numberPlan (s : State) (k : Nat) : State :=
  match s.planOf k with
  | some pl =>
    if pl.tag != 0 then s
    else
      let n := s.span.nextTag
      { (s.onPlan k (fun pl => { pl with tag := n })) with span := { s.span with nextTag := nextTagAfter n } }
  | none => s

/-- The window of 2,000 arithmetic cycles of a segment that the present event falls in, counted from beat 0 (R244, log entry 45). -/
def State.scanWindow (s : State) (seg : Nat) : Nat :=
  (s.now.beat * 5000 + s.now.cyc) * (s.seg seg).health.clockMhz / 2000000

/-- Bytes of retrieval traffic that a window guarantees a partition on a segment: SCAN_SHARE_GBPS over 2,000 arithmetic cycles (R244). -/
def State.scanAllowed (s : State) (seg p : Nat) : Nat := (s.part p).scanShare * 2000000 / max 1 (s.seg seg).health.clockMhz

/-- Bytes of retrieval traffic of the present window on a segment, with some more (R244). -/
def State.scanUsed (s : State) (seg bytes : Nat) : Nat :=
  (if (s.seg seg).scanWin == s.scanWindow seg then (s.seg seg).scanSpent else 0) + bytes

/-- Further retrieval traffic of a partition on a segment stays within its share: it travels in class 2 of R22, else in class 4 (R244). -/
def State.inShare (s : State) (seg p bytes : Nat) : Bool := s.scanUsed seg bytes ≤ s.scanAllowed seg p

/-- Retrieval traffic, of whichever class, counted in its window: code reads, table loads and archive fetches alike (R244). -/
def State.scanCharge (s : State) (seg bytes : Nat) : State :=
  s.onSeg seg (fun g => { g with scanWin := s.scanWindow seg, scanSpent := s.scanUsed seg bytes })

/-- A read of retrieval traffic asked of a segment's initiator channel: in class 2 while the window's traffic stays within the share,
beyond it in class 4 (R22, R244). -/
def State.scanRead (s : State) (seg p addr bytes : Nat) (what : DmaUse) : State :=
  (s.scanCharge seg bytes).dma seg (dmaReq false addr bytes (if s.inShare seg p bytes then 1 else 3) what 0)

/-- The read of a passage's directory entry asked of the segment that fetches it. -/
def State.readDirectory (s : State) (place : Nat) (pl : Plan) (g : Region) (ref : Nat) : State :=
  s.scanRead (s.placeSeg pl.part place) pl.part (g.dirBase + 16 * bits 55 0 ref) 16 (.directory pl.tag place)

/-- One candidate's fetch begins: it is read, asked of the worker it came from, or dropped. -/
def State.fetchCand (s : State) (k place : Nat) (pl : Plan) (c : Cand) : State :=
  match s.region c.ref with
  | some g => if g.passages ≤ bits 55 0 c.ref then s.dropCand k place else s.readDirectory place pl g c.ref
  | none =>
    match c.worker with
    | some w => (s.spanSend w 0x06 1 (bytesLe 16 (packMsb [(64, c.ref), (32, pl.tag), (32, 0)]))).onCand k place (fun c => { c with state := .asked })
    | none => s.dropCand k place

/-- The fetch is over: the last candidate is stored or dropped, and stage R waits, or the plan goes on to its end. -/
def State.fetchDone (s : State) (k : Nat) : State :=
  match s.planOf k, s.retrOf k with
  | some pl, some r =>
    if pl.stage != .fetch || (pl.cands.take (fetchCount r)).any (fun c => c.state == .waiting || c.state == .asked) then s
    else if (pl.cands.take r.rerankN).any (fun c => c.state == .stored) then s.onPlan k (fun pl => { pl with stage := .waitR })
    else s.afterRank k
  | _, _ => s

/-- A worker's answer to a query: HEAP_RESULT records of at most so many entries, the last with LAST (R247). -/
def heapRecords (size tag : Nat) : Nat → Nat → List Cand → List (List Nat)
  | 0, _, _ => []
  | fuel + 1, first, l =>
    let part := l.take size
    let last := (l.drop size).isEmpty
    let hd := packMsb [(32, tag), (16, first), (16, part.length), (1, flag last), (63, 0)]
    (bytesLe 16 hd ++ part.flatMap (fun c => bytesLe 16 (packMsb [(64, c.ref), (32, c.score.toNat), (32, 0)])))
      :: (if last then [] else heapRecords size tag fuel (first + size) (l.drop size))

/-- Entries of a HEAP_RESULT record that one datagram carries, at most 512 (R149, R247). -/
def heapEntries (mtu : Nat) : Nat := min 512 ((spanRoom mtu - 16) / 16)

/-- The heap of a query that a worker serves is answered, and the query's live sequence ends (R246). -/
def State.answerQuery (s : State) (k : Nat) (tag : Nat) (cands : List Cand) : State :=
  match s.span.queries.find? (fun x => x.tag == tag) with
  | some x =>
    let s := s.spanSendAll x.session 0x05 (heapRecords (heapEntries s.glob.spanMtu) tag (cands.length + 1) 0 cands)
    { s with seqs := aErase k s.seqs, span := { s.span with queries := s.span.queries.filter (fun y => y.tag != tag) } }
  | none => { s with seqs := aErase k s.seqs }

/-- The candidate list of a plan is fixed: it ends, or its fetch begins (R237). -/
def State.afterMerge (s : State) (k : Nat) : State :=
  match s.live k with
  | some q =>
    match q.plan, q.req.retr with
    | some pl, some r =>
      match q.req.spanQuery with
      | some tag => s.answerQuery k tag pl.cands
      | none =>
        if r.resultOnly && r.rerankN == 0 then s.endPlan k
        else
          let s := (s.onPlan k (fun pl => { pl with stage := .fetch })).numberPlan k
          let pl := (s.planOf k).getD pl
          let s := ((pl.cands.take (fetchCount r)).zipIdx).foldl (fun t c => t.fetchCand k c.2 pl c.1) s
          s.fetchDone k
    | _, _ => s
  | none => s

/-- The bytes a passage takes in the store of the segment that fetched it fit (R232, R251). -/
def State.storeFits (s : State) (seg bytes : Nat) : Bool := (s.seg seg).passageUsed + bytes ≤ 64 * 2 ^ 20

/-- The vocabulary a fetched passage must keep to: the target's, or the re-ranker's when results alone are returned. -/
def State.passageVocab (s : State) (q : Sequence) (pl : Plan) : Nat :=
  let m := if q.req.resultOnly then
      (s.index pl.indexId).bind (fun x => (s.part x.part).model (ixRerank x.desc))
    else (s.part q.req.part).target
  match m with | some m => m.vocab | none => 0

/-- A passage's tokens placed in the passage store, or the candidate dropped for a token outside the vocabulary; a full store
makes the fetch wait. -/
def State.storePassage (s : State) (k place : Nat) (pl : Plan) (q : Sequence) (tokens : List Nat) : State :=
  let seg := s.placeSeg pl.part place
  if tokens.any (fun t => s.passageVocab q pl ≤ t) then s.dropCand k place
  else if s.storeFits seg (4 * tokens.length) then
    (s.onSeg seg (fun g => { g with passageUsed := g.passageUsed + 4 * tokens.length })).onCand k place
      (fun c => { c with state := .stored, tokens := tokens })
  else s

/-- A passage record read stands (R250, R251): its region's archive key is held, and MAGIC, REGION, the passage number and LENGTH are
those of the reference and of its directory entry, for as many tokens. -/
def State.recordStands (s : State) (g : Region) (ref entry header : Nat) (tokens : List Nat) : Bool :=
  (s.trust.archive.any (fun k => k.1 == g.keySlot)) && bits 511 496 header == 0x4B54 && bits 495 488 header == bits 63 56 ref
    && bits 487 432 header == bits 55 0 ref && bits 431 420 header == bits 87 76 entry && tokens.length == bits 431 420 header + 1

/-- What fetching a candidate found takes effect. -/
def State.fetched (s : State) (k place : Nat) (pl : Plan) (q : Sequence) (c : Cand) : FetchResult → State
  | .opened header tokens =>
    match s.region c.ref, c.entry with
    | some g, some e => if s.recordStands g c.ref e header tokens then s.storePassage k place pl q tokens else s.dropCand k place
    | _, _ => s.dropCand k place
  | .dmaError => s.dropCand k place
  | .tagFail => s.dropCand k place

/-- The reads of a candidate are still under way. -/
def State.passagePending (s : State) (tag place : Nat) : Bool := s.dmaPending (.directory tag place) || s.dmaPending (.passage tag place)

/-- A candidate asked of a worker is still incomplete at DEADLINE_BEAT + SPAN_WAIT_BT. -/
def State.askOver (s : State) (pl : Plan) : Bool := pl.deadline + s.glob.spanWait ≤ s.time.beat

/-- The passage that a worker's pieces spell from a place on, none while one is missing (R251). -/
def piecesFrom (pieces : List (Nat × List Nat × Bool)) : Nat → Nat → Option (List Nat)
  | 0, _ => none
  | fuel + 1, at_ =>
    match pieces.find? (fun (e : Nat × List Nat × Bool) => e.1 == at_) with
    | some e =>
      if e.2.2 then some e.2.1
      else if e.2.1.isEmpty then none
      else (piecesFrom pieces fuel (at_ + e.2.1.length)).map (e.2.1 ++ ·)
    | none => none

/-- The passage of a candidate asked of a worker, once its pieces are all there. -/
def Cand.passage (c : Cand) : Option (List Nat) := piecesFrom c.pieces c.pieces.length 0

/-- What a worker's pieces have brought is stored; a candidate still incomplete at its limit is dropped (R251). -/
def State.askedEnds (s : State) (k place : Nat) (pl : Plan) (q : Sequence) (c : Cand) : State :=
  match c.passage with
  | some tokens => (s.storePassage k place pl q tokens).fetchDone k
  | none => if s.askOver pl then (s.dropCand k place).fetchDone k else s

/-- The fetch of a candidate of a plan completes. -/
def State.candFetched (s : State) (seq place : Nat) (result : FetchResult) : State :=
  match s.live seq with
  | some q =>
    match q.plan, q.req.retr with
    | some pl, some r =>
      let c := pl.cands.getD place {}
      let inFetch := pl.stage == .fetch && place < pl.cands.length && place < fetchCount r && s.mgrUp
      if inFetch && c.state == .waiting && !s.passagePending pl.tag place then (s.fetched seq place pl q c result).fetchDone seq
      else if inFetch && c.state == .asked then s.askedEnds seq place pl q c
      else s
    | _, _ => s
  | none => s

/-! Passages that a worker serves (R251). -/

/-- Tokens of a CANDIDATE_REF record that one datagram carries: its payload bytes less the record's header (R149, R251). -/
def pieceTokens (mtu : Nat) : Nat := (spanRoom mtu - 16) / 4

/-- The header of a CANDIDATE_REF record. -/
def pieceHead (ref tag offset n : Nat) (last failed : Bool) : Nat :=
  packMsb [(64, ref), (32, tag), (12, offset), (13, n), (1, flag last), (1, flag failed), (5, 0)]

/-- The CANDIDATE_REF records of a passage, in order, as bytes. -/
def pieceRecords (ref tag size : Nat) : Nat → Nat → List Nat → List (List Nat)
  | 0, _, _ => []
  | fuel + 1, offset, l =>
    let part := l.take size
    let last := (l.drop size).isEmpty
    (bytesLe 16 (pieceHead ref tag offset part.length last false) ++ part.flatMap (bytesLe 4))
      :: (if last then [] else pieceRecords ref tag size fuel (offset + size) (l.drop size))

/-- A worker answers that it has dropped a candidate, which it counts. -/
def State.refusePassage (s : State) (session ref tag : Nat) : State :=
  (s.count (fun c => { c with fetchFails := c.fetchFails + 1 })).spanSend session 0x06 1 (bytesLe 16 (pieceHead ref tag 0 0 true true))

/-- What a span manager has asked of this worker is dealt with. -/
def State.askDone (s : State) (a : SpanAsk) : State :=
  { s with span := { s.span with asks := s.span.asks.filter (fun x => x.id != a.id) } }

/-- The vocabulary that a worker checks a passage against: that of the target model of its SPAN_PARTITION, if it has one (log entry
32). -/
def State.workerVocab (s : State) : Option Nat :=
  if s.glob.spanPartition < 15 then ((s.part s.glob.spanPartition).target).map (·.vocab) else none

/-- A passage asked for placed in the passage store of the segment that fetched it, and answered in pieces (R251). It stays there until its
datagrams are acknowledged (log entry 32). -/
def State.answerPassage (s : State) (a : SpanAsk) (tokens : List Nat) : State :=
  let bytes := 4 * tokens.length
  let t := (s.onSeg a.seg (fun g => { g with passageUsed := g.passageUsed + bytes })).spanSendAll a.session 0x06
    (pieceRecords a.ref a.tag (pieceTokens s.glob.spanMtu) (tokens.length + 1) 0 tokens)
  let seq := match t.spanSession a.session with | some x => x.txSeq + 2 ^ 32 - 1 | none => 0
  { t with span := { t.span with asks := t.span.asks.map (fun (x : SpanAsk) =>
      if x.id == a.id then { x with sent := some (seq % 2 ^ 32), bytes := bytes } else x) } }

/-- A worker's fetch completes: the passage is answered in pieces, or as dropped; while its store is full it waits. -/
def State.askFetched (s : State) (id : Nat) (result : FetchResult) : State :=
  match s.span.asks.find? (fun a => a.id == id && a.sent.isNone) with
  | some a =>
    if s.dmaPending (.askDirectory id) || s.dmaPending (.askPassage id) then s
    else
      let failed := (s.askDone a).refusePassage a.session a.ref a.tag
      match s.region a.ref, a.entry, result with
      | some g, some e, .opened header tokens =>
        if !s.recordStands g a.ref e header tokens || tokens.any (fun t => match s.workerVocab with | some v => v ≤ t | none => false) then
          failed
        else if !s.storeFits a.seg (4 * tokens.length) then s
        else s.answerPassage a tokens
      | _, _, _ => failed
  | none => s

/-- PASSAGE_FETCH_COMPLETE (R251). The place is the candidate's in its plan; a passage asked for has none. -/
def execPassageFetchComplete (owner : FetchFor) (place : Nat) (result : FetchResult) (s : State) : Result :=
  .next (match owner with
    | .cand seq => s.candFetched seq place result
    | .ask id => s.askFetched id result)

/-! Probe lists and scan groups. -/

/-- A query stands before another in a scan queue: LC before BE, then in order of their stage E (R241). -/
def State.queryAbove (s : State) (a b : Nat) : Bool :=
  let qa := (s.live a).getD {}
  let qb := (s.live b).getD {}
  if qa.req.cls != qb.req.cls then qa.req.cls == .lc
  else before (qa.plan.getD {}).stageE (qb.plan.getD {}).stageE

/-- A segment that has received a query's probe lists holds it in its scan queue (R240, R241). -/
def State.probeArrives (s : State) (seg k : Nat) (pl : Plan) : State :=
  let all := (s.partSegs pl.part).all (fun i => i == seg || pl.probed.contains i)
  let s := s.onPlan k (fun pl => { pl with probed := insertNat seg pl.probed, stage := if all then .scan else pl.stage })
  s.onSeg seg (fun g => { g with scanQueue := insertBy s.queryAbove k g.scanQueue })

/-- PROBE_LIST_RECEIVE (R240). -/
def execProbeListReceive (seg seq : Nat) (s : State) : Result :=
  match s.planOf seq with
  | some pl =>
    onlyIf (pl.stage == .probe && (s.partSegs pl.part).contains seg && !pl.probed.contains seg && s.serving seg)
      (s.probeArrives seg seq pl) s
  | none => .next s

/-- Bytes of the table that a group loads for one query: 64 × 256 INT16 entries (R242). -/
def tableLoadBytes : Nat := 32768

/-- A group's table for one query loaded from the LUT store: in the partition's share, or beyond it (R242, R244). -/
def State.loadTable (s : State) (seg k : Nat) : State :=
  match s.planOf k with
  | some pl =>
    let more := if s.inShare seg pl.part tableLoadBytes then 0 else tableLoadBytes
    (s.scanCharge seg tableLoadBytes).onSeg seg (fun g =>
      { g with scanGroup := g.scanGroup.map (fun (x : ScanGroup) => { x with beyond := x.beyond + more }) })
  | none => s

/-- SCAN_GROUP_START (R241, R242): the first 8 queries of the queue form a group on idle lanes, which loads its tables. -/
def execScanGroupStart (seg : Nat) (s : State) : Result :=
  let g := s.seg seg
  let start (g : Segment) : Segment :=
    { g with scanGroup := some { members := g.scanQueue.take 8 }, scanQueue := g.scanQueue.drop 8 }
  onlyIf (s.serving seg && g.scanGroup.isNone && !g.scanQueue.isEmpty)
    ((g.scanQueue.take 8).foldl (fun t k => t.loadTable seg k) (s.onSeg seg start)) s

/-- The lists that a scan group reads: the union of its active queries' probe lists, by index (R242). -/
def State.groupLists (s : State) (members : List Nat) : List (Nat × Nat) :=
  (members.flatMap (fun k => match s.planOf k with
    | some pl => pl.lists.map (fun l => (pl.indexId, l.1))
    | none => [])).eraseDups

/-- Codes of a list on a segment. -/
def State.listCodes (s : State) (seg : Nat) (l : Nat × Nat) : Nat :=
  match s.index l.1 with
  | some x => (listAt (s.seg seg).stack.mem (s.indexBase x) x.desc (s.partSegs x.part).length l.2).2.2
  | none => 0

/-- A segment's heap of a query goes to the manager, and its LUT store slot is free (R245). -/
def State.heapOut (s : State) (seg k : Nat) : State :=
  let h := s.segHeap seg k
  (s.onPlan k (fun pl => { pl with segLists := aSet seg h pl.segLists })).onSeg seg
    (fun g => { g with lutUsed := g.lutUsed.filter (· != k) })

/-- SCAN_GROUP_END (R242, R245): the last block has been scanned; stalls of the lanes are counted (R244). The codes read for queries that
went inactive while the group ran, and those read in the present window, come as an operand: which blocks came before is timing (R257,
R259). The codes of a window count toward its share (R244). -/
def execScanGroupEnd (seg : Nat) (stalls : ScanStalls) (s : State) : Result :=
  match (s.seg seg).scanGroup with
  | some g =>
    let act := g.members.filter (fun k => !g.inactive.contains k)
    let codes := sumNat ((s.groupLists act).map (s.listCodes seg)) + (if g.inactive.isEmpty then 0 else stalls.idleCodes)
    let s' := act.foldl (fun t k => t.heapOut seg k) (s.scanCharge seg (min stalls.windowBytes (64 * codes)))
    let s' := s'.onSeg seg (fun g => { g with scanGroup := none })
    let s' := s'.segCount seg (fun c => { c with scanCodes := c.scanCodes + codes, scanHeld := c.scanHeld + stalls.heldCycles })
    onlyIf (s.serving seg) (s'.count (fun c => { c with scanGroups := c.scanGroups + 1 })) s
  | none => .next s

/-- Every segment of the retrieval partition has reported its list. -/
def State.heapsIn (s : State) (pl : Plan) : Bool := (s.partSegs pl.part).all (fun i => (aGet i pl.segLists).isSome)

/-- The candidate list of the block: the SCAN_K best of the segments' lists, with their scores outside the block (R245). -/
def mergedCands (k : Nat) (scale : F32) (lists : List (Nat × List ScoreRef)) : List Cand :=
  (bestOf k (lists.flatMap (·.2))).map (fun x => { ref := x.ref, score := f32Scaled x.score scale })

/-- SCAN_HEAP_MERGE (R245). With workers asked, the span merge follows; else the candidate list is fixed. -/
def execScanHeapMerge (seq : Nat) (s : State) : Result :=
  match s.planOf seq, s.retrOf seq with
  | some pl, some r =>
    let fix (pl : Plan) : Plan :=
      { pl with cands := mergedCands r.scanK pl.lutScale pl.segLists, segLists := [], stage := .spanWait }
    let t := s.onPlan seq fix
    onlyIf (s.mgrUp && pl.stage == .scan && s.heapsIn pl) (if pl.asked.isEmpty then t.afterMerge seq else t) s
  | _, _ => .next s

/-! The span merge (R248). -/

/-- A worker asked has sent LAST, or its session has ended. -/
def State.workerDone (s : State) (pl : Plan) (w : Nat) : Bool :=
  pl.ended.contains w || !s.span.sessions.any (fun x => x.id == w && x.phase == .opened)

/-- The block index of a worker's session; 0 for the block itself (R150). -/
def State.blockOf (s : State) (w : Option Nat) : Nat :=
  match w with
  | some i => match s.span.sessions.find? (fun x => x.id == i) with | some x => x.peer | none => 0
  | none => 0

/-- Score descending, then block index ascending, then passage reference ascending. -/
def spanAbove (a b : Nat × Cand) : Bool :=
  if f32Lt b.2.score a.2.score then true
  else if f32Lt a.2.score b.2.score then false
  else a.1 < b.1 || (a.1 == b.1 && a.2.ref < b.2.ref)

/-- The block's own list and its workers' lists merged. -/
def State.spanMerged (s : State) (k : Nat) (pl : Plan) : List Cand :=
  let theirs : List Cand := pl.spanList.map (fun e => { ref := e.2.1, score := e.2.2, worker := some e.1 })
  ((sortBy spanAbove ((pl.cands ++ theirs).map (fun c => (s.blockOf c.worker, c)))).map (·.2)).take k

/-- SPAN_MERGE (R248). -/
def execSpanMerge (seq : Nat) (s : State) : Result :=
  match s.planOf seq, s.retrOf seq with
  | some pl, some r =>
    let due := pl.asked.all (s.workerDone pl) || pl.deadline ≤ s.time.beat
    onlyIf (s.mgrUp && pl.stage == .spanWait && due)
      ((s.onPlan seq (fun pl => { pl with cands := s.spanMerged r.scanK pl, spanList := [] })).afterMerge seq) s
  | _, _ => .next s

/-! What the commit point of a step does to plans (R238 to R240, R252). -/

/-- The order of coarse lists: score descending, then list number ascending (R239). -/
def coarseAbove (a b : Nat × F32) : Bool := f32Lt b.2 a.2 || (!f32Lt a.2 b.2 && a.1 < b.1)

/-- The coarse reports of a sequence among a step's reports: lists, embedding, poison. -/
def coarseReports (k : Nat) (l : List StageReport) : List (Nat × F32) × List BF16 × Bool :=
  l.foldl (fun acc r => match r with
    | .coarse q lists v p => if q == k then (acc.1 ++ lists, if acc.2.1.isEmpty then v else acc.2.1, acc.2.2 || p) else acc
    | _ => acc) ([], [], false)

/-- The score of a candidate among a step's reports. -/
def scoreReport (k place : Nat) (l : List StageReport) : Option F32 :=
  l.findSome? (fun r => match r with | .score q i v => if q == k && i == place then some v else none | _ => none)

/-- A QUERY record (R246). -/
def queryRecord (tag : Nat) (r : Retr) (deadline : Nat) (vec : List BF16) : List Nat :=
  bytesLe 32 (packMsb [(64, deadline), (32, tag), (16, r.indexId), (16, r.nprobe), (11, r.scanK), (5, 0), (16, vec.length), (96, 0)])
    ++ vec.flatMap (fun v => bytesLe 2 v.toNat)

/-- The query sent to every worker with an open session (R246). -/
def State.askWorkers (s : State) (k : Nat) (r : Retr) (vec : List BF16) : State :=
  let ws := (s.span.sessions.filter (fun x => x.phase == .opened)).map (·.id)
  let deadline := s.time.beat + s.glob.spanWait
  let s := s.numberPlan k
  let tag := ((s.planOf k).getD {}).tag
  let s := ws.foldl (fun t w => t.spanSend w 0x04 1 (queryRecord tag r deadline vec)) s
  s.onPlan k (fun pl => { pl with asked := ws, deadline := deadline })

/-- A poisoned embedding yields no probe list: the request goes on with no candidates (R239). -/
def State.poisonPlan (s : State) (k : Nat) : State :=
  ((s.count (fun c => { c with retrPoison := c.retrPoison + 1 })).leaveScan k).afterMerge k

/-- Stage E of a request commits: its coarse lists are merged and its probe lists sent (R239, R240). -/
def State.commitStageE (s : State) (e : Stamp) (reports : List StageReport) (k : Nat) : State :=
  match s.planOf k, s.retrOf k with
  | some pl, some r =>
    match s.index pl.indexId with
    | some x =>
      let c := coarseReports k reports
      let vec := if r.useVector then r.vector else c.2.1
      if c.2.2 then s.poisonPlan k
      else
        let t := s.lutHere ((s.partSegs pl.part).headD 0) x vec
        let go (pl : Plan) : Plan :=
          { pl with stage := .probe, embedding := vec, stageE := e, lutScale := t.scale,
                    lists := (sortBy coarseAbove c.1).take r.nprobe }
        let s := s.onPlan k go
        if r.span && s.glob.spanRole == 1 then s.askWorkers k r vec else s
    | none => s.poisonPlan k
  | _, _ => s

/-- Stage R of a request commits for the candidates bound in the step; with the last of them the stage ends (R252). -/
def State.commitStageR (s : State) (reports : List StageReport) (b : Bind) : State :=
  match s.retrOf b.seq with
  | some r =>
    let score (c : Cand × Nat) : Cand :=
      if b.rerank.contains c.2 then { c.1 with bound := false, rescore := some ((scoreReport b.seq c.2 reports).getD f32Nan) } else c.1
    let s := s.onPlan b.seq (fun pl => { pl with cands := pl.cands.zipIdx.map score })
    match s.planOf b.seq with
    | some pl =>
      if (pl.cands.take r.rerankN).any (fun c => c.state == .stored && c.rescore.isNone) then s else s.afterRank b.seq
    | none => s
  | none => s

/-- The retrieval stages that a step's commit point ends. -/
def State.commitStages (s : State) (e : Stamp) (st : StepS) : State :=
  st.binds.foldl (fun t b =>
    let t := if b.stageE then t.commitStageE e st.stage b.seq else t
    if b.rerank.isEmpty then t else t.commitStageR st.stage b) s

end Sys2Proof.Machine
end

