-- ==== Sys2Proof/Machine/Commit.lean ====
section
/-! DEFINITION. Drafting, drawing and verification (R217, R218), compaction (R182, R183), and the commit point with all its
effects (R47): lengths, blocks, counts, stops, saves and keeps (R184, R188, R189, R210, R211, R215), screening results (R270 to
R275), carried scales (R134, R137, R138) and the step record (R228). -/

namespace Sys2Proof.Machine

/-! Draft levels and draws. -/

/-- The row of a node among the rows of a draw. -/
def rowOf (rows : List LogitRow) (seq node : Nat) : Option LogitRow := rows.find? (fun r => r.seq == seq && r.node == node)

/-- The shards of a row are those of R205: one for each segment of the partition, each of its width. -/
def shardsOk (vocab n : Nat) (r : LogitRow) : Bool :=
  let w := shardWidth vocab n
  r.shards.length == n && (r.shards.zipIdx).all (fun p => p.1.length == min ((p.2 + 1) * w) vocab - min (p.2 * w) vocab)

/-- Every node of a list has its row. -/
def rowsOk (vocab n : Nat) (rows : List LogitRow) (seq : Nat) (nodes : List BoundNode) : Bool :=
  nodes.all (fun b => match rowOf rows seq b.node with | some r => shardsOk vocab n r | none => false)

/-- The distribution of a node's target row (R212, R213). -/
def targetDist (m : Model) (n : Nat) (q : Sequence) (rows : List LogitRow) (seq node : Nat) : RowDist :=
  match rowOf rows seq node with
  | some r => rowDist q.req.params q.counts (shardWidth m.vocab n) m.eos r.shards
  | none => {}

/-- The distribution from which a node's children are drafted (R217). -/
def draftDist (m : Model) (n : Nat) (q : Sequence) (rows : List LogitRow) (seq node : Nat) : RowDist :=
  match rowOf rows seq node with
  | some r => draftQ q.req.params q.counts (shardWidth m.vocab n) m.eos r.shards
  | none => {}

/-- A step verifies trees of more than a root (R217). -/
def Bind.hasTree (b : Bind) : Bool := 1 < b.nodes.length

/-- The nodes of a level that run through the draft model. -/
def levelNodes (level : Nat) (b : Bind) : List BoundNode := b.nodes.filter (fun x => x.depth == level && x.token.isSome)

/-- A bind with one more level drafted. -/
def State.draftBind (s : State) (m : Model) (n level : Nat) (rows : List LogitRow) (b : Bind) : Bind :=
  match s.live b.seq with
  | some q =>
    if b.hasTree then
      { b with nodes := dropOrphans (draftLevelNodes q.req.params q.committed level (draftDist m n q rows b.seq) b.nodes) }
    else b
  | none => b

/-- Poisoned rows among those of some nodes. -/
def poisonedRows (dist : Nat → RowDist) (nodes : List BoundNode) : Nat := (nodes.filter (fun b => (dist b.node).poisoned)).length

/-- Poisoned rows of a bind, by a distribution for each node. -/
def State.poisonIn (s : State) (dist : Sequence → Nat → Nat → RowDist) (nodes : Bind → List BoundNode) (binds : List Bind) : Nat :=
  sumNat (binds.map (fun b => match s.live b.seq with
    | some q => poisonedRows (dist q b.seq) (nodes b)
    | none => 0))

/-- The step verifies, and goes on. -/
def StepS.verifies (st : StepS) : Bool := st.launched && st.abandoned.isNone && st.prog.image.verify

/-- DRAFT_LEVEL (R217): the draft rows of one level are sampled, and the children of its nodes receive their tokens; the deepest level has
none to draw. -/
def execDraftLevel (part : Nat) (cls : Cls) (level : Nat) (rows : List LogitRow) (s : State) : Result :=
  match s.stepOf part cls, (s.part part).draft with
  | some st, some m =>
    let n := (s.partSegs part).length
    let trees := st.binds.filter Bind.hasTree
    let ok := trees.all (fun b => rowsOk m.vocab n rows b.seq (levelNodes level b))
    let poison := s.poisonIn (fun q => draftDist m n q rows) (levelNodes level) trees
    let deep := trees.any (fun b => !(levelNodes level b).isEmpty)
    onlyIf (s.mgrUp && st.verifies && !st.drawn && level == st.levels && deep && ok)
      ((s.onStep part cls (fun st => { st with binds := st.binds.map (s.draftBind m n level rows), levels := st.levels + 1 })).count
        (fun c => { c with samplerPoison := c.samplerPoison + poison })) s
  | _, _ => .next s

/-- Every participating segment has reported its commit descriptor reached (R47). -/
def State.allReported (s : State) (p : Nat) (st : StepS) : Bool := (s.stepSegs p st.prog.image).all st.reports.contains

/-- The step binds a root. -/
def StepS.roots (st : StepS) : Bool := st.binds.any (fun b => !b.nodes.isEmpty)

/-- The nodes whose rows a draw uses: the root and the nodes that carry a token. -/
def drawNodes (b : Bind) : List BoundNode := b.nodes.filter (fun x => x.node == 0 || x.token.isSome)

/-- The token of a node of a bound tree. -/
def nodeToken (nodes : List BoundNode) (n : Nat) : Nat :=
  match nodes.find? (fun b => b.node == n) with | some b => b.token.getD 0 | none => 0

/-- What a bind's logits give: the accepted path and the output tokens, cut at the first that ends the sequence (R213, R215,
R218). -/
def drawBind (m : Model) (n : Nat) (verify : Bool) (rows : List LogitRow) (q : Sequence) (b : Bind) : Bind :=
  let g := q.req.params
  let dist := targetDist m n q rows b.seq
  if b.nodes.isEmpty then b
  else
    let v := if verify && b.hasTree then verifyTree g q.committed b.nodes dist
             else ([], drawToken g (dist 0) (q.committed + 1))
    let all := v.1.map (nodeToken b.nodes) ++ [v.2]
    let toks := (untilStop g q.req.stops m.eos m.contextMax (q.committed + 1) q.outputs all).1
    { b with path := v.1.take toks.length, drawn := toks }

/-- A step's binds after its draw. -/
def State.drawBinds (s : State) (m : Model) (n : Nat) (verify : Bool) (rows : List LogitRow) (binds : List Bind) : List Bind :=
  binds.map (fun b => match s.live b.seq with
    | some q => drawBind m n verify rows q b
    | none => b)

/-- Tree nodes that the verification of some binds accepts, those after a last token included (R218). -/
def State.acceptedIn (s : State) (m : Model) (n : Nat) (rows : List LogitRow) (binds : List Bind) : Nat :=
  sumNat (binds.map (fun b => match s.live b.seq with
    | some q => (verifyTree q.req.params q.committed b.nodes (targetDist m n q rows b.seq)).1.length
    | none => 0))

/-- Levels of a bound tree that carry tokens still: none of a root alone, which runs no draft phase (R217). -/
def Bind.levels (b : Bind) : Nat := if b.hasTree then treeDepth (b.nodes.filter (fun x => x.token.isSome)) + 1 else 0

/-- The levels a step's trees need. -/
def StepS.levelsDue (st : StepS) : Nat := st.binds.foldl (fun acc b => max acc b.levels) 0

/-- MANAGER_DRAW (R213, R217, R218): the manager merges the sampler shards, draws, and verifies the trees. -/
def execManagerDraw (part : Nat) (cls : Cls) (rows : List LogitRow) (s : State) : Result :=
  match s.stepOf part cls, (s.part part).target with
  | some st, some m =>
    let n := (s.partSegs part).length
    let img := st.prog.image
    let ok := st.binds.all (fun b => rowsOk m.vocab n rows b.seq (drawNodes b))
    let poison := s.poisonIn (fun q => targetDist m n q rows) drawNodes st.binds
    let binds := s.drawBinds m n img.verify rows st.binds
    let trees := if img.verify then st.binds.filter Bind.hasTree else []
    onlyIf (s.mgrUp && st.launched && st.abandoned.isNone && img.draw && st.roots && !st.drawn && s.allReported part st
        && (!img.verify || st.levelsDue ≤ st.levels) && ok)
      ((s.onStep part cls (fun st => { st with binds := binds, drawn := true })).count (fun c =>
        { c with samplerPoison := c.samplerPoison + poison, stepsVerified := c.stepsVerified + trees.length,
                 tokensAccepted := c.tokensAccepted + s.acceptedIn m n rows trees })) s
  | _, _ => .next s

/-! Compaction (R182, R183). -/

/-- The moves of a path: source and destination offsets, in ascending order, where they differ. -/
def pathMoves (path : List Nat) : List (Nat × Nat) := ((path.zipIdx).map (fun p => (p.1, p.2 + 1))).filter (fun p => p.1 != p.2)

/-- A position of one segment copied over another. -/
def copyPosition (seg from_ to_ : Nat) (kv : List KvEntry) : List KvEntry :=
  (kv.filter (fun e => e.seg == seg && e.pos == from_)).foldl (fun acc e => putKv { e with pos := to_ } acc) kv

/-- A path compacted on a segment. -/
def compactPath (seg len : Nat) (path : List Nat) (kv : List KvEntry) : List KvEntry :=
  (pathMoves path).foldl (fun acc m => copyPosition seg (len + m.1) (len + m.2) acc) kv

/-- Stack accesses of a bind's compaction: three for each moved position of each layer and head. -/
def State.compactCost (s : State) (b : Bind) : Nat :=
  match s.live b.seq with
  | some q => 3 * (pathMoves b.path).length * (s.part q.req.part).setPages q.speculate
  | none => 0

/-- The segments whose compaction a verifying step's commit point waits for: every segment of the partition (R182), and those of the
program's mask. -/
def State.compactSegs (s : State) (p : Nat) (img : ProgramImage) : List Nat :=
  (List.range s.segs.length).filter (fun i => (s.partSegs p).contains i || img.segs.contains i)

/-- COMPACTION_COMPLETE (R182). -/
def execCompactionComplete (seg part : Nat) (cls : Cls) (s : State) : Result :=
  match s.stepOf part cls with
  | some st =>
    let path (k : Nat) : List Nat := ((st.binds.find? (fun b => b.seq == k)).map (·.path)).getD []
    let move (b : SegBind) : SegBind := { b with kv := compactPath seg b.len (path b.seq) b.kv }
    let cost := sumNat (st.binds.map s.compactCost)
    onlyIf (s.mgrUp && st.prog.image.verify && st.drawn && (s.compactSegs part st.prog.image).contains seg && !st.compacted.contains seg)
      (((s.onSegStep seg part cls (fun t => { t with bound := t.bound.map move })).onStep part cls (fun st => { st with compacted := insertNat seg st.compacted })).segCount seg
        (fun c => { c with compactAcc := c.compactAcc + cost })) s
  | none => .next s

/-! The commit point: positions, tokens and blocks. -/

/-- The token at a position of a sequence's prompt, if the block holds it: of the body or of packed content (R210, R211). -/
def promptToken (q : Sequence) (pos : Nat) : Option Nat :=
  if pos < q.handleLen then none else (q.req.prompt ++ q.packed.getD [])[pos - q.handleLen]?

/-- Counts raised, with the drops counted in COUNT_DROPS (R211). -/
def State.raiseFor (s : State) (k : Nat) (toks : List Nat) : State :=
  match s.live k with
  | some q =>
    let p := s.part q.req.part
    let w := shardWidth (match p.target with | some m => m.vocab | none => 1) (s.partSegs q.req.part).length
    let r := raiseCounts w toks q.counts
    (s.onLive k (fun q => { q with counts := r.1 })).count (fun c => { c with countDrops := c.countDrops + r.2 })
  | none => s

/-- The prompt tokens of some positions enter the counts where PENALISE_PROMPT asks for it (R211). -/
def State.penalisePrompt (s : State) (k from_ n : Nat) : State :=
  match s.live k with
  | some q =>
    if q.req.params.penalise then s.raiseFor k ((List.range n).filterMap (fun i => promptToken q (from_ + i))) else s
  | none => s

/-- The prefill rows of a bind commit (R47, R178). -/
def State.commitPrefill (s : State) (b : Bind) : State :=
  if b.prefill == 0 then s
  else
    (s.penalisePrompt b.seq b.prefillFrom b.prefill).onLive b.seq (fun q => { q with
      committed := b.prefillFrom + b.prefill,
      lastToken := (promptToken q (b.prefillFrom + b.prefill - 1)).getD q.lastToken })

/-- The token at the last position an accepted path commits. -/
def pathToken (b : Bind) : Nat := nodeToken b.nodes (b.path.getLastD 0)

/-- Output tokens enter the hold buffer, are charged, and make the output streams ready (R47, R222, R275). -/
def State.holdTokens (s : State) (e : Stamp) (k : Nat) (toks : List Nat) : State :=
  match s.live k with
  | some q =>
    let due := plusBeats e (s.part q.req.part).policy.dOut
    let s := s.onLive k (enterHold e due toks)
    (s.charge q.req.tenant (256 * (toks.length : Int))).startStreams k true
  | none => s

/-- The status that a bind's drawn tokens end their sequence with (R215). -/
def drawnStatus (m : Option Model) (q : Sequence) (b : Bind) : Option Status :=
  match m with
  | some m => (untilStop q.req.params q.req.stops m.eos m.contextMax (q.committed + 1) q.outputs b.drawn).2
  | none => none

/-- A sequence ends at a commit point: what it holds is still released (R219, R274). -/
def endsAt (st : Status) (e : Stamp) (q : Sequence) : Sequence :=
  let q := closeGroup e q
  { q with ended := some (st, e), pausedBudget := none, pausedPages := none, pausedRing := q.pausedRing && !q.backTokens.isEmpty }

/-- A sequence that ends is bound in no step of a generation partition that is still in flight (R220). -/
def State.leaveSteps (s : State) (k : Nat) : State :=
  let out (l : Loop) : Loop := { l with step := l.step.map (fun st => { st with binds := st.binds.filter (fun b => b.seq != k) }) }
  { s with parts := s.parts.mapIdx (fun i (p : Partition) => if i < 15 then { p with lc := out p.lc, be := out p.be } else p) }

/-- The root and the path of a bind commit, with the tokens drawn (R47, R59, R182, R215). -/
def State.commitRoot (s : State) (e : Stamp) (hold : Bool) (b : Bind) : State :=
  match s.live b.seq with
  | some q =>
    if b.nodes.isEmpty then s
    else
      let st := drawnStatus (s.part q.req.part).target q b
      let s := (s.penalisePrompt b.seq q.committed 1).raiseFor b.seq b.drawn
      let s := if hold then s.holdTokens e b.seq b.drawn
        else s.onLive b.seq (fun q => { q with
          outputs := q.outputs ++ b.drawn, unheld := q.unheld ++ (List.range b.drawn.length).map (· + q.outputs.length) })
      let s := s.onLive b.seq (fun q => { q with committed := q.committed + b.path.length + 1, lastToken := pathToken b })
      match st with
      | some st => (s.leaveSteps b.seq).onLive b.seq (endsAt st e)
      | none => s
  | none => s

/-- Provisional slots beyond the committed length are given up, and blocks that hold no committed position return (R184). -/
def State.trimBlocks (s : State) (e : Stamp) (k : Nat) : State :=
  match s.live k with
  | some q =>
    let gone := q.ownBlocks.filter (fun b => q.committed ≤ b * 64)
    let gone := gone.filter (fun b => ceilDiv q.promptLen 64 ≤ b)
    let s := s.returnPages q.req.part (gone.length * (s.part q.req.part).setPages q.speculate) e
    (s.dropBlocks (.seq k) gone.contains).onLive k (fun q => { q with
      kv := q.kv.filter (fun x => x.pos < q.committed),
      ownBlocks := q.ownBlocks.filter (fun b => !gone.contains b) })
  | none => s

/-- One sequence's rows of a generation step commit. -/
def State.commitBind (s : State) (e : Stamp) (hold : Bool) (b : Bind) : State :=
  if b.prefill == 0 && b.nodes.isEmpty then s
  else (((s.commitPrefill b).commitRoot e hold b).trimBlocks e b.seq)

/-! Saves and keeps (R188 to R190). -/

/-- The time-to-live of a request (R188). -/
def State.ttlOf (s : State) (r : Request) : Nat :=
  let p := s.part r.part
  min p.maxTtl (if r.params.ttl == 0 then p.defaultTtl else r.params.ttl)

/-- The older entry whose block records a new entry of a length points at. -/
def olderOf (q : Sequence) (len : Nat) : Option Nat := if 0 < min q.shared (len / 64) then q.entry else none

/-- The entry that a save or a keep inserts, to which the position blocks below `pagesTo` pass as they stand (R188). -/
def State.newEntry (s : State) (q : Sequence) (len pagesTo last pages refs : Nat) (e : Stamp) : Handle :=
  { handle := q.req.params.saveHandle, expiry := e.beat + s.ttlOf q.req, refcount := refs, prefixLen := len,
    tenant := q.req.tenant, part := q.req.part, draft := q.speculate, lastToken := last, ownPages := pages,
    older := olderOf q len, map := q.map.filter (fun x => x.1 < pagesTo), kv := s.prefixKv q len }

/-- The new entry's hold on the older entry (R188). -/
def State.holdOlder (s : State) (o : Option Nat) : State :=
  match o with
  | some k => s.onEntry k (fun h => { h with refcount := h.refcount + 1 })
  | none => s

/-- The token at a position of a sequence: of its prompt or its output, or the last token of the entry it was admitted against (R178,
R187, R188). The tokens of that entry's earlier positions the block does not hold, and the spec states none: a free value (log
entry 23). -/
def State.tokenAt (s : State) (q : Sequence) (pos : Nat) : Nat :=
  let older := match q.entry with | some k => ((s.entry k).getD {}).lastToken | none => 0
  if pos + 1 == q.committed then q.lastToken
  else if pos + 1 == q.handleLen then older
  else if pos < q.promptLen then (promptToken q pos).getD (Config.unstated 42 pos % 2 ^ 18)
  else q.outputs.getD (pos - q.promptLen) 0

/-- A save can be made at this commit point (R188). -/
def saveNow (q : Sequence) : Bool :=
  q.req.params.save && !q.saved && q.released && q.req.params.saveLen ≤ q.committed
    && (q.req.params.saveLen % 64 == 0 || q.saveBlock)

/-- A save at a commit point. -/
def State.makeSave (s : State) (e : Stamp) (k : Nat) : State :=
  match s.live k with
  | some q =>
    if !saveNow q then s
    else
      let len := q.req.params.saveLen
      let set := (s.part q.req.part).setPages q.speculate
      let full := q.ownBlocks.filter (· < len / 64)
      let part := flag (len % 64 != 0)
      let r := s.insertEntry (s.newEntry q len (len / 64) (s.tokenAt q (len - 1)) ((full.length + part) * set) 1 e) e
      match r.2.1 with
      | some slot =>
        ((r.2.2.holdOlder (olderOf q len)).giveBlocks (.entry slot) (if part == 0 then [] else [len / 64])).onLive k (fun q => { q with
          saved := true, map := shareBelow (len / 64) q.map, handleResult := r.1, savedEntry := some slot, shared := max q.shared (len / 64),
          ownBlocks := q.ownBlocks.filter (fun b => !full.contains b), saveBlock := q.saveBlock && part == 0 })
      | none => r.2.2.onLive k (fun q => { q with saved := true, handleResult := r.1 })
  | none => s

/-- A keep at the commit point where its sequence leaves: every block passes to the new entry, whose dim write begins (R188,
R196). -/
def State.makeKeep (s : State) (e : Stamp) (k : Nat) : State :=
  match s.live k with
  | some q =>
    if !(q.req.params.keep && !q.saved && q.ended.isSome && q.released && 0 < q.committed) then s
    else
      let set := (s.part q.req.part).setPages q.speculate
      let r := s.insertEntry (s.newEntry q q.committed (ceilDiv q.committed 64) q.lastToken (q.ownBlocks.length * set) 0 e) e
      match r.2.1 with
      | some slot =>
        ((r.2.2.holdOlder (olderOf q q.committed)).onLive k (fun q => { q with
          saved := true, handleResult := r.1, ownBlocks := [], map := [] })).beginDimWrite (.entry slot)
      | none => r.2.2.onLive k (fun q => { q with saved := true, handleResult := r.1 })
  | none => s

/-- A request with MAX_TOKENS 0 whose prefill is committed and whose verdict is released ends at this commit point, unless its
save must wait for a later one (R210). -/
def endsEmpty (q : Sequence) : Bool :=
  q.ended.isNone && q.req.params.maxTokens == 0 && !q.req.resultOnly && q.released && q.prefilled
    && (saveNow q || !(q.req.params.save && !q.saved && q.req.params.saveLen ≤ q.committed))

/-- An unused block set of a save returns (R188). -/
def State.returnSave (s : State) (e : Stamp) (k : Nat) : State :=
  match s.live k with
  | some q =>
    if q.saveBlock then
      (s.returnPages q.req.part ((s.part q.req.part).setPages q.speculate) e).onLive k (fun q => { q with saveBlock := false })
    else s
  | none => s

/-- A sequence that has ended before its save or keep (R189). -/
def unsavedEnd (q : Sequence) : Sequence :=
  if q.ended.isSome then { q with handleResult := endedResult q, saved := true } else q

/-- A dim write asked for while a step was in flight starts (R196, R200). -/
def State.startAsked (s : State) (k : Nat) : State :=
  match s.live k with
  | some q =>
    match q.dim with
    | some d => if q.dimAsked && q.ended.isNone then (s.onLive k (fun q => { q with dimAsked := false })).dimWriteTo (.seq k) d true else s
    | none => s
  | none => s

/-- What a commit point does for the sequences of its loop, bound or not, in ascending live sequence index. -/
def State.commitLoop (s : State) (p : Nat) (c : Cls) (e : Stamp) : State :=
  let ks := (s.seqs.filter (fun x => x.2.req.part == p && x.2.req.cls == c && !x.2.pagesBack)).map (·.1)
  let s := ks.foldl (fun t k => t.onLive k (fun q => if endsEmpty q then endsAt .ok e q else q)) s
  let s := ks.foldl (fun t k => (t.makeSave e k).makeKeep e k) s
  let s := ks.foldl (fun t k => (t.returnSave e k).onLive k unsavedEnd) s
  (ks.foldl (fun t k => t.startAsked k) s).endedBack p c e

/-! Screening results. -/

/-- The scores reported for a sequence's chunk, window by window (R270). -/
def chunkScores (k : Nat) (l : List StageReport) : List F32 :=
  l.foldl (fun acc r => match r with
    | .chunk q _ sc => if q == k then maxScores acc sc else acc
    | _ => acc) []

/-- The scores reported for a group. -/
def groupScores (k gid : Nat) (l : List StageReport) : List F32 :=
  (l.findSome? (fun r => match r with | .group q g sc => if q == k && g == gid then some sc else none | _ => none)).getD []

/-- A group's categories take effect on its held tokens (R271, R275). -/
def State.commitGroup (s : State) (k gid : Nat) (scores : List F32) : State :=
  match s.live k with
  | some q =>
    let m := s.verdictMap q.req.part
    let found := categoriesFound m true scores
    let mark (h : Held) : Held := if h.group == gid then { h with found := h.found ++ found } else h
    ((s.onLive k (fun q => { q with
      hold := q.hold.map mark,
      groups := q.groups.map (fun g => if g.id == gid then { g with bound := false, classified := true } else g) })).noteReady k).count
      (fun c => { c with categoryNan := c.categoryNan + nanFirings m true scores })
  | none => s

/-- One bind of a screen step commits (R273, R274). -/
def State.commitScreen (s : State) (l : List StageReport) (b : Bind) : State :=
  let s := match b.chunk with
    | some j => s.onLive b.seq (fun q => { q with
        chunksDone := j + 1,
        verdict := { q.verdict with bound := false, chunks := j + 1, scores := maxScores q.verdict.scores (chunkScores b.seq l) } })
    | none => s
  b.groups.foldl (fun t g => t.commitGroup b.seq g (groupScores b.seq g l)) s

/-! Carried scales (R134, R137, R138). -/

/-- clamp(s × 2^e, 2^−126, (2 − 2^−23) × 2^127). -/
def scaleStep (x : F32) (e : Int) : F32 :=
  let y := f32Mul x (pow2 e)
  if f32IsInf y then 0x7F7FFFFF else if f32Lt y 0x00800000 then 0x00800000 else y

/-- A stream on which the step coded a chunk, updated; with whether its notice is raised. -/
def scaleUpdate (eMax : Int) (escaped : Bool) (x : StreamS) : StreamS × Bool :=
  let run := if escaped then min 3 (x.run + 1) else 0
  ({ x with s := scaleStep x.s eMax, run := run }, run == 3 && x.run < 3)

/-- A stream after a commit of its partition: in use once a step has sent on it, updated under SCALES, then replaced where a
table load asked for it. -/
def streamCommit (scales : Bool) (eMax : List (Nat × Int)) (escaped : List Nat) (x : StreamS) : StreamS × Bool :=
  let t := match aGet x.id eMax with
    | some e => let u := if scales then scaleUpdate e (escaped.contains x.id) x else (x, false)
                ({ u.1 with used := true }, u.2)
    | none => (x, false)
  (if t.1.reset then { t.1 with s := t.1.init, run := 0, reset := false } else t.1, t.2)

/-- CARRIED_SCALE_STALE (R138). -/
def State.raiseStale (s : State) (p : Nat) (e : Stamp) (id : Nat) (x : F32) : State :=
  s.raise s.mgr 0x0E 0x4 0 p e (packMsb [(16, id), (32, x.toNat), (64, 0)])

/-- The streams of a partition after a commit. -/
def State.commitScales (s : State) (p : Nat) (e : Stamp) (st : StepS) : State :=
  let old := (s.part p).streams
  let new := old.map (streamCommit st.prog.image.scales st.eMax st.escaped)
  let s := s.onPart p (fun q => { q with streams := new.map (·.1) })
  ((old.zip new).filter (fun x => x.2.2)).foldl (fun t x =>
    t.raiseStale p e x.1.id (scaleStep x.1.s ((aGet x.1.id st.eMax).getD 0))) s

/-! The commit point. -/

/-- A commit point falls after edge L + WCET_BT: one OVERRUN notice (R70). -/
def State.overrun (s : State) (p : Nat) (e : Stamp) (st : StepS) : State :=
  if before ⟨st.launch + st.prog.wcet, 0⟩ e then
    (s.raise s.mgr 0x04 0x3 0 p e (packMsb [(16, st.prog.id), (64, st.launch), (32, st.launchNo)])).onPart p
      (fun q => { q with overruns := q.overruns + 1 })
  else s

/-- Every segment has reported, and the draw and the compaction of the step have ended (R47, R182). DESIGN CHOICE, log entry 34: a BE
step that a segment abandons after every segment has reported, and whose abandonment has not been stamped, may still commit, and its
loop then does not halt: R66 does not say which comes first. -/
def State.commitReady (s : State) (p : Nat) (st : StepS) : Bool :=
  let img := st.prog.image
  st.launched && st.abandoned.isNone && s.allReported p st && (!(img.draw && st.roots) || st.drawn)
    && (!(img.verify && img.draw && st.roots) || (s.compactSegs p img).all st.compacted.contains)

/-- Tokens that a step's binds bring into hold buffers (R228). -/
def tokensHeld (img : ProgramImage) (binds : List Bind) : Nat :=
  if img.hold then sumNat (binds.map (fun b => b.drawn.length)) else 0

/-- The effects of a commit point on sequences, plans and screening. -/
def State.commitWork (s : State) (p : Nat) (c : Cls) (e : Stamp) (st : StepS) : State :=
  if p == 15 then st.binds.foldl (fun t b => t.commitScreen st.stage b) s
  else
    let s := if st.prog.image.advance then st.binds.foldl (fun t b => t.commitBind e st.prog.image.hold b) s else s
    (s.commitLoop p c e).commitStages e st

/-- The step leaves the segments, to which the commit message goes, and its loop (R25, R46, R50). -/
def State.stepLeaves (s : State) (p : Nat) (c : Cls) (e : Stamp) (img : ProgramImage) : State :=
  (((s.controlAll (s.stepSegs p img)).onSegs (fun _ g => dropStepHere p c (programStreams img) g))).onLoop p c (loopAfter e [])

/-- The KV entries that a step's kernels wrote at its binds' positions become entries of the sequences (R47, R167). -/
def State.mergeKv (s : State) (p : Nat) (c : Cls) (st : StepS) : State :=
  let of (k : Nat) (g : Segment) : List KvEntry := match g.stepHere p c with
    | some t => (t.bound.filter (fun b => b.seq == k)).flatMap (fun b => b.kv.filter (fun e => b.len ≤ e.pos))
    | none => []
  st.binds.foldl (fun t b => t.onLive b.seq (fun q => { q with kv := (s.segs.flatMap (of b.seq)).foldl (fun l e => putKv e l) q.kv })) s

/-- All that takes effect at a commit point (R47): the mirror delta goes ahead of the step's records. -/
def State.commit (s : State) (p : Nat) (c : Cls) (e : Stamp) (st : StepS) : State :=
  let s := (((s.mergeKv p c st).stepLeaves p c e st.prog.image).commitWork p c e st).commitScales p e st
  let s := (s.overrun p e st).mirrorCommit
  if (s.part p).stepRecords then s.recordStep p c .committed e (tokensHeld st.prog.image st.binds) st else s

/-- COMMIT_POINT (R47). -/
def execCommitPoint (cyc part : Nat) (cls : Cls) (s : State) : Result := underForce (fun s =>
  match s.stepOf part cls with
  | some st =>
    let e := s.stampFor cyc
    onlyIf (s.mgrUp && s.commitReady part st) ((s.given e).commit part cls e st) s
  | none => .next s) s

end Sys2Proof.Machine
end

