-- ==== Sys2Proof/Machine/Serving.lean ====
section
/-! DEFINITION. Requests: SUB records and envelopes (R300, R339 to R341), bodies (R206, R207, R234, R235), admission (R186,
R187, R190, R199, R200, R208, R209, R236), cancels (R221), resumptions (R201, R224) and the hand-over of packed content
(R255). -/

namespace Sys2Proof.Machine

/-! Bodies. -/

/-- A binary32 parameter brought into a range: the value and whether it was changed. A NaN lies in no range and no bound is
nearer: the spec states no value for it (log entry 23). -/
def clampF32 (field n : Nat) (lo hi x : F32) : F32 × Bool :=
  if f32IsNan x then (BitVec.ofNat 32 (Config.unstated field n), true)
  else if f32Lt x lo then (lo, true)
  else if f32Lt hi x then (hi, true)
  else (x, false)

/-- TEMPERATURE (R206, R207): 0.0, or 0.01 to 100.0. -/
def clampTemperature (n : Nat) (x : F32) : F32 × Bool :=
  if f32IsNan x then (BitVec.ofNat 32 (Config.unstated 0 n), true)
  else if f32Eq x 0 then (x, false)
  else if f32Lt x 0x3BA3D70A then (0, true)
  else if f32Lt x 0x3C23D70A then (0x3C23D70A, true)
  else if f32Lt 0x42C80000 x then (0x42C80000, true)
  else (x, false)

/-- A number brought into a range, and whether it was changed. -/
def clampFlag (lo hi x : Nat) : Nat × Bool := (clampNat lo hi x, x < lo || hi < x)

/-- A field of a body header as a binary32 number. -/
def fieldF32 (hi lo w : Nat) : F32 := BitVec.ofNat 32 (bits hi lo w)

/-- The generation parameters of a body header, and whether one was clamped (R206, R207). `n` numbers the free values. -/
def bodyParams (n : Nat) (w : Nat) : GenParams × Bool :=
  let k := bits 999 992 w
  let mt := clampFlag 0 65536 (bits 991 960 w)
  let te := clampTemperature n (fieldF32 959 928 w)
  let tp := clampF32 1 n 0x3A83126F 0x3F800000 (fieldF32 927 896 w)
  let rp := clampF32 2 n 0x3F800000 0x41200000 (fieldF32 895 864 w)
  let pp := clampF32 3 n 0xC1200000 0x41200000 (fieldF32 863 832 w)
  let fq := clampF32 4 n 0xC1200000 0x41200000 (fieldF32 831 800 w)
  let save := bit 491 w
  let sl := if save then clampFlag 1 65536 (bits 535 504 w) else (bits 535 504 w, false)
  ({ topK := if k == 0 then 64 else min 64 k, maxTokens := mt.1, temperature := te.1, topP := tp.1, repetition := rp.1,
     presence := pp.1, frequency := fq.1, seed := bits 799 736 w, handle := bits 735 672 w, saveHandle := bits 671 608 w,
     ttl := bits 607 568 w, saveLen := sl.1, template := bits 499 494 w, speculate := bit 493 w, penalise := bit 492 w,
     save := save, keep := bit 490 w },
   64 < k || mt.2 || te.2 || tp.2 || rp.2 || pp.2 || fq.2 || sl.2)

/-- PROMPT_LEN (R206). -/
def bodyPromptLen (w : Nat) : Nat := bits 567 536 w
/-- STOP_COUNT (R206). -/
def bodyStops (w : Nat) : Nat := bits 503 500 w
/-- RETRIEVE (R206). -/
def bodyRetrieve (w : Nat) : Bool := bit 489 w

/-- QUERY_LEN of a retrieval block (R234). -/
def rbQueryLen (w : Nat) : Nat := bits 415 400 w
/-- QUERY_VECTOR of a retrieval block (R234). -/
def rbVector (w : Nat) : Bool := bit 431 w
/-- RESULT_ONLY of a retrieval block (R234). -/
def rbResultOnly (w : Nat) : Bool := bit 432 w
/-- INDEX_ID of a retrieval block (R234). -/
def rbIndex (w : Nat) : Nat := bits 495 480 w

end Sys2Proof.Machine

namespace Sys2Proof

/-- The retrieval block of an envelope, if its body asks for one. -/
def Envelope.retr (e : Envelope) : Option RetrBlock := if Machine.bodyRetrieve e.bodyHeader then e.retrieval else none

/-- The request asks for results only (R235). -/
def Envelope.resultOnly (e : Envelope) : Bool := match e.retr with | some r => Machine.rbResultOnly r.header | none => false

end Sys2Proof

namespace Sys2Proof.Machine

/-- Bytes that a retrieval block takes (R235). -/
def State.retrBytes (s : State) (r : RetrBlock) : Nat :=
  if rbVector r.header then
    64 + 2 * (match s.index (rbIndex r.header) with | some x => ixDim x.desc | none => r.vector.length)
  else 64 + 4 * rbQueryLen r.header

/-- The body's length is what its header implies, and its parts are there (R207, R235). -/
def State.lengthOk (s : State) (e : Envelope) : Bool :=
  let w := e.bodyHeader
  let retr := match e.retr with | some r => s.retrBytes r | none => 0
  e.bodyBytes == 128 + 68 * bodyStops w + 4 * bodyPromptLen w + retr && e.stops.length == bodyStops w
    && e.prompt.length == bodyPromptLen w && (bodyRetrieve w == e.retr.isSome)

/-- A retrieval block is at fault: its MAGIC, or a query token outside the encoder's vocabulary (R235). -/
def State.retrFault (s : State) (part : Nat) (r : RetrBlock) : Bool :=
  let enc := (s.index (rbIndex r.header)).bind (fun x => (s.part x.part).model (ixEncoder x.desc))
  let outside := match enc with | some m => r.tokens.any (fun t => m.vocab ≤ t) | none => false
  bits 511 496 r.header != 0x4B49 || (!rbVector r.header && outside)
    || (!rbResultOnly r.header && (s.part part).target.isNone)

/-- A request body is at fault (R207, R235). -/
def State.bodyFault (s : State) (part : Nat) (e : Envelope) : Bool :=
  let w := e.bodyHeader
  let ro := e.resultOnly
  let vocab := match (s.part part).target with | some m => m.vocab | none => 0
  let save := bit 491 w
  let keep := bit 490 w
  bits 1023 1008 w != 0x4B51 || bits 1007 1000 w != 3 || !s.lengthOk e
    || ((s.part part).target.isNone && !ro)
    || (!ro && (e.prompt.any (fun t => vocab ≤ t)
        || e.stops.any (fun st => st.len == 0 || 16 < st.len || (st.tokens.take st.len).any (fun t => vocab ≤ t))
        || (save && keep) || ((save || keep) && bits 671 608 w == 0)
        || (bodyPromptLen w == 0 && bits 735 672 w == 0)))
    || (match e.retr with | some r => s.retrFault part r | none => false)

/-- The retrieval block as the request carries it, and whether a field was clamped (R234, R235). -/
def State.takeRetr (s : State) (r : RetrBlock) : Retr × Bool :=
  let w := r.header
  let nlist := match s.index (rbIndex w) with | some x => max 1 (ixNlist x.desc) | none => 16384
  let np := clampFlag 1 (min 16384 nlist) (bits 479 464 w)
  let sk := clampFlag 1 1024 (bits 463 453 w)
  let rr := clampFlag 0 (min 256 sk.1) (bits 452 444 w)
  let pm := clampFlag 0 64 (bits 443 437 w)
  let rn := if rbResultOnly w then clampFlag 1 1024 (bits 399 384 w) else (bits 399 384 w, false)
  let ql := if rbVector w then (0, rbQueryLen w != 0) else clampFlag 1 512 (rbQueryLen w)
  ({ indexId := rbIndex w, nprobe := np.1, scanK := sk.1, rerankN := rr.1, packMax := pm.1, template := bits 436 433 w,
     resultOnly := rbResultOnly w, useVector := rbVector w, truncate := bit 430 w, span := bit 429 w, resultN := rn.1,
     packBudget := bits 383 352 w, tokens := if rbVector w then [] else r.tokens.take ql.1,
     vector := if rbVector w then r.vector else [] },
   np.2 || sk.2 || rr.2 || pm.2 || rn.2 || ql.2)

/-- What RESULT_ONLY takes as 0, and whether that changed anything (R235). -/
def resultParams (g : GenParams) (promptLen stops : Nat) : GenParams × Bool :=
  ({ g with maxTokens := 0, handle := 0, save := false, keep := false },
   g.maxTokens != 0 || g.handle != 0 || g.save || g.keep || promptLen != 0 || stops != 0)

/-- A request as its body gives it (R206, R207, R235). -/
def State.takeBody (s : State) (r : Request) (e : Envelope) : Request :=
  let pp := s.part r.part
  let b := bodyParams s.free e.bodyHeader
  let spec := b.1.speculate && pp.draft.isSome
  let tmpl := if b.1.template < pp.templates.length then b.1.template else 0
  let g := { b.1 with speculate := spec, template := tmpl }
  let c := b.2 || spec != b.1.speculate || tmpl != b.1.template || 65535 < e.prompt.length || 8 < e.stops.length
  let ret := e.retr.map s.takeRetr
  let c := c || (match ret with | some x => x.2 | none => false)
  if e.resultOnly then
    let z := resultParams g e.prompt.length e.stops.length
    { r with params := z.1, stops := [], prompt := [], retr := ret.map (·.1), clamped := c || z.2 }
  else
    { r with params := g, stops := (e.stops.take 8).map (fun st => st.tokens.take st.len), prompt := e.prompt.take 65535,
             retr := ret.map (·.1), clamped := c }

/-! SUB records. -/

/-- The request that a SUB record names. -/
def recordRequest (rec : SubRecord) (e : Stamp) : Request :=
  { part := srPart rec, cls := srCls rec, tenant := srTenant rec, reqId := srId rec, cmpRing := srCmp rec, strRing := srStr rec,
    arrived := e }

/-- The SUB ring of the management ring pair, to which R300 does not apply (R312). -/
def State.mgmtSub (s : State) (n : Nat) : Bool := bit 31 s.glob.mgmtRings && n == bits 29 16 s.glob.mgmtRings

/-- A SUB ring holds a record that has not been taken. -/
def subWaits (r : Ring) : Bool := r.enable && r.kind == 0 && 0 < r.depth

/-- The SUB ring whose turn it is: the first, in rotation after the last, that holds a record (R300). -/
def State.subTurn (s : State) : Option Nat :=
  let l := (s.rings.filter (fun e => subWaits e.2 && !s.mgmtSub e.1)).map (·.1)
  match l.find? (fun n => s.vectors.subLast < n) with
  | some n => some n
  | none => l.head?

/-- A ring is an enabled ring of a kind. -/
def State.ringIs (s : State) (n kind : Nat) : Bool := (s.ring n).enable && (s.ring n).kind == kind

/-- A request of a tenant is queued or live: it has no completion record yet. -/
def State.reqLive (s : State) (tenant id : Nat) : Bool :=
  s.seqs.any (fun e => e.2.req.tenant == tenant && e.2.req.reqId == id && e.2.req.spanQuery.isNone)
    || s.parts.any (fun p => (p.lcQueue ++ p.beQueue).any (fun r => r.tenant == tenant && r.reqId == id))

/-- The tenant of a record is barred by its ring (R297, R300). -/
def tenantBarred (r : Ring) (rec : SubRecord) : Bool := !r.anyTenant && r.tenant != srTenant rec

/-- A REQUEST record fails with CLAMPED (R300). -/
def State.requestClamped (s : State) (r : Ring) (rec : SubRecord) : Bool :=
  tenantBarred r rec || srId rec == 0 || s.reqLive (srTenant rec) (srId rec) || srPart rec == 15
    || (s.part (srPart rec)).segMask == 0 || !s.ringIs (srStr rec) 2 || srAddr rec % 64 != 0
    || srLen rec == 0 || 1048576 < srLen rec

/-- A CANCEL record fails with CLAMPED (R300). -/
def cancelClamped (r : Ring) (rec : SubRecord) : Bool := tenantBarred r rec || srId rec == 0

/-- A record taken from a SUB ring: HEAD passes it (R300). -/
def State.takeSub (s : State) (ring : Nat) : State :=
  let r := s.ring ring
  let s := s.blockMoves ring (r.head + 1) r.tail
  { s with vectors := { s.vectors with subLast := ring } }

/-- A completion record of a request that was never admitted, or of a cancel (R226). -/
def State.answer (s : State) (r : Request) (st : Status) (cancel : Bool) (e : Stamp) : State :=
  s.sendRecord r.cmpRing { kind := .answer, data := answerRecord r st cancel 0 0 e }

/-- A record fails with CLAMPED (R300). -/
def State.subClamp (s : State) (r : Request) (cancel : Bool) (e : Stamp) : State :=
  (s.answer r .clamped cancel e).count (fun c => { c with subClamped := c.subClamped + 1 })

/-- The envelope opens: it is as long as its parts, its header matches the record and names a key the partition holds, and the body opens
under that key (R339, R340). -/
def State.envelopeOpens (s : State) (rec : SubRecord) (e : Envelope) : Bool :=
  let k := s.trust.envKeys.getD (srPart rec) {}
  let id := bits 95 88 e.header
  srLen rec == e.bodyBytes + envelopeExtra &&
  bits 127 112 e.header == 0x4B45 && bits 111 104 e.header == 3 && bits 103 100 e.header == srPart rec
    && bits 87 76 e.header == srTenant rec && id != 0 && (id == k.curId || id == k.prevId)
    && bodyOpens e (if id == k.curId then k.cur else k.prev)

/-- The state with a request appended to its admission queue (R208). -/
def State.enqueue (s : State) (r : Request) : State :=
  let put (p : Partition) : Partition :=
    match r.cls with
    | .lc => { p with lcQueue := p.lcQueue ++ [r] }
    | .be => { p with beQueue := p.beQueue ++ [r] }
  s.onPart r.part put

/-- A request whose record passed: its envelope is opened, its body checked, and it is queued (R207, R208, R340, R341, R405). -/
def State.openRequest (s : State) (r : Request) (rec : SubRecord) (env : Envelope) (e : Stamp) : State :=
  if env.readError then
    (s.failRequest r .sealFail e).count (fun c => { c with dmaReadErrors := c.dmaReadErrors + 1 })
  else if !s.envelopeOpens rec env then
    (s.failRequest r .sealFail e).count (fun c => { c with envFails := c.envFails + 1 })
  else
    let q := s.takeBody { r with streamKey := envelopeStreamKey env } env
    let s := { s with free := s.free + 1 }
    if s.bodyFault r.part env then s.failRequest { q with retr := none } .sealFail e else s.enqueue q

/-- A SUB record may be taken now from a ring. -/
def State.subReady (s : State) (ring : Nat) : Bool := s.mgrServes && s.subTurn == some ring

/-- A record that names no enabled CMP ring is dropped and counted in the SUB ring's LOST; any other goes on (R300). -/
def State.subChecked (s : State) (ring : Nat) (rec : SubRecord) (go : State → State) : State :=
  let t := s.takeSub ring
  if s.ringIs (srCmp rec) 1 then go t else t.ringLoses ring

/-- SUB_REQUEST (R300). -/
def execSubRequest (cyc ring : Nat) (rec : SubRecord) (env : Envelope) (s : State) : Result :=
  let e := s.stampFor cyc
  let r := recordRequest rec e
  onlyIf (s.subReady ring && srKind rec == 0x30)
    ((s.given e).subChecked ring rec (fun t =>
      if s.requestClamped (s.ring ring) rec then t.subClamp r false e else t.openRequest r rec env e)) s

/-- SUB_RESERVED_KIND (R300). -/
def execSubReservedKind (cyc ring : Nat) (rec : SubRecord) (s : State) : Result :=
  let e := s.stampFor cyc
  onlyIf (s.subReady ring && srKind rec != 0x30 && srKind rec != 0x31)
    ((s.given e).subChecked ring rec (fun t => t.subClamp (recordRequest rec e) false e)) s

/-! Cancels (R221). -/

/-- The live sequence of a request whose end instant is not reached. -/
def State.cancelLive (s : State) (tenant id : Nat) : Option Nat :=
  (s.seqs.find? (fun e => e.2.req.tenant == tenant && e.2.req.reqId == id && e.2.ended.isNone && e.2.req.spanQuery.isNone)).map (·.1)

/-- A request of a tenant by its identifier. -/
def named (tenant id : Nat) (r : Request) : Bool := r.tenant == tenant && r.reqId == id

/-- A request waiting in an admission queue. -/
def State.cancelQueued (s : State) (tenant id : Nat) : Option Request :=
  (s.parts.flatMap (fun p => p.lcQueue ++ p.beQueue)).find? (named tenant id)

/-- A request removed from its admission queue. -/
def State.unqueue (s : State) (r : Request) : State :=
  let keep (l : List Request) : List Request := l.filter (fun x => !named r.tenant r.reqId x)
  s.onPart r.part (fun p => { p with lcQueue := keep p.lcQueue, beQueue := keep p.beQueue })

/-- The cancel's own completion record: its PARTITION and CLASS, which the SUB record leaves ignored, are unstated (log entry
23). -/
def State.cancelAnswer (s : State) (r : Request) (st : Status) (e : Stamp) : State :=
  let w := Config.unstated 5 s.free
  ({ s with free := s.free + 1 }).answer { r with part := w % 16, cls := if bit 4 w then .be else .lc } st true e

/-- A cancel that names a request of its tenant ends it, or comes too late. -/
def State.cancelRequest (s : State) (r : Request) (e : Stamp) : State :=
  let hit := s.count (fun c => { c with cancels := c.cancels + 1 })
  match s.cancelQueued r.tenant r.reqId with
  | some q => ((hit.unqueue q).failRequest q .cancelled e).cancelAnswer r .ok e
  | none =>
    match s.cancelLive r.tenant r.reqId with
    | some k => (hit.endSeq k .cancelled e).cancelAnswer r .ok e
    | none => (s.count (fun c => { c with cancelsLate := c.cancelsLate + 1 })).cancelAnswer r .alreadyDone e

/-- CANCEL (R221, R300). -/
def execCancel (cyc ring : Nat) (rec : SubRecord) (s : State) : Result :=
  let e := s.stampFor cyc
  let r := recordRequest rec e
  onlyIf (s.subReady ring && srKind rec == 0x31)
    ((s.given e).subChecked ring rec (fun t =>
      if cancelClamped (s.ring ring) rec then t.subClamp r true e else t.cancelRequest r e)) s

/-! Admission. -/

/-- What a request would be admitted with. -/
structure Join where
  /-- the directory entry it names -/
  entry : Option Nat := none
  /-- positions held through the handle, P of R187 -/
  held : Nat := 0
  /-- committed length at which it starts, E of R187 -/
  start : Nat := 0
  /-- whether it decodes with speculative trees (R187) -/
  speculate : Bool := false
  /-- last token of the entry -/
  last : Nat := 0
  /-- pages of its own blocks, the partial copy's included -/
  pages : Nat := 0
  /-- pages of a fetch of the entry from the dim tier (R197) -/
  fetch : Nat := 0
  deriving DecidableEq, Repr

/-- Index of the lowest free live sequence entry (R208). -/
def State.freeIndex (s : State) : Option Nat := firstFrom (fun k => (s.live k).isNone) 32768 0

/-- A retrieval request is refused (R236). -/
def State.indexRefused (s : State) (r : Request) : Bool :=
  match r.retr with
  | some x =>
    match s.index x.indexId with
    | some ix => !(s.tenant r.tenant).partitions.testBit ix.part || (x.span && s.glob.spanRole != 1)
    | none => true
  | none => false

/-- How a request stands against the directory: the slot it names, or the status it fails with (R186). -/
def State.lookup (s : State) (r : Request) : Except Status (Option Nat) :=
  if r.params.handle == 0 then .ok none
  else
    match s.findHandle r.params.handle r.part r.tenant with
    | some k =>
      let h := (s.entry k).getD {}
      if h.tier == .tombstone || h.expiry ≤ s.time.beat then .error .expired else .ok (some k)
    | none => .error .badHandle

/-- What joining takes of a request against an entry (R187, R197, R199). -/
def State.joinOf (s : State) (r : Request) (slot : Option Nat) : Join :=
  let p := s.part r.part
  match slot with
  | some k =>
    let h := (s.entry k).getD {}
    let spec := r.params.speculate && h.draft
    let e := if r.prompt.isEmpty then h.prefixLen - 1 else h.prefixLen
    let total := h.prefixLen + r.prompt.length
    let fetch := if h.tier == .dim && h.moving.isNone then ceilDiv h.prefixLen 64 * p.setPages h.draft else 0
    { entry := some k, held := h.prefixLen, start := e, speculate := spec, last := h.lastToken,
      pages := (ceilDiv total 64 - e / 64) * p.setPages spec, fetch := fetch }
  | none =>
    { speculate := r.params.speculate, pages := ceilDiv r.prompt.length 64 * p.setPages r.params.speculate }

/-- The checks of an admission turn before pages, in their order: the status of the first that fails, or what to join with
(R208, R236, R360). -/
def State.admissionChecks (s : State) (r : Request) : Except Status Join :=
  let t := s.tenant r.tenant
  let p := s.part r.part
  match p.stopped with
  | some st => .error st
  | none =>
    if !(t.valid && t.partitions.testBit r.part) || t.level ≤ 0 then .error .budget
    else
      match s.lookup r with
      | .error st => .error st
      | .ok slot =>
        if s.indexRefused r then .error .badHandle
        else if r.resultOnly then .ok {}
        else
          match p.target with
          | none => .error .noPages
          | some m =>
            let j := s.joinOf r slot
            if m.contextMax < j.held + r.prompt.length + flag (0 < r.params.maxTokens) then .error .length else .ok j

/-- A demand of pages at a join, after reclaim; an entry it names is not reclaimed for it (R199, R200). -/
def State.joinPages (s : State) (p demand : Nat) (entry : Option Nat) : Bool × State :=
  let hold (n : Nat → Nat) (t : State) : State :=
    match entry with
    | some k => t.onEntry k (fun h => { h with refcount := n h.refcount })
    | none => t
  if demand == 0 then (true, s)
  else
    let need := demand + (s.part p).decodeReserve
    let t := hold (· - 1) ((hold (· + 1) s).reclaim [] p need)
    (need ≤ (t.part p).poolFree, t)

/-- The block numbers of a new sequence's own position blocks. -/
def joinBlocks (j : Join) (total : Nat) : List Nat := (List.range (ceilDiv total 64 - j.start / 64)).map (· + j.start / 64)

/-- EXPIRY of an entry that a request with a time-to-live names (R190). -/
def extendExpiry (beat ttl maxTtl : Nat) (h : Handle) : Handle := { h with expiry := max h.expiry (beat + min ttl maxTtl) }

/-- The entry that a request is admitted against: one more count, a later EXPIRY, and a fetch if it is on the dim tier alone
(R186, R190, R197). -/
def State.admitEntry (s : State) (r : Request) (j : Join) : State :=
  match j.entry with
  | some k =>
    let p := s.part r.part
    let up (h : Handle) : Handle :=
      let h := { h with refcount := h.refcount + 1, ownPages := h.ownPages + j.fetch }
      if r.params.ttl == 0 then h else extendExpiry s.time.beat r.params.ttl p.maxTtl h
    let s := s.onEntry k up
    if 0 < j.fetch then
      (s.giveBlocks (.entry k) (List.range (ceilDiv ((s.entry k).getD {}).prefixLen 64))).beginDimFetch (.entry k)
    else s
  | none => s

/-- A new retrieval plan (R237). -/
def State.newPlan (s : State) (r : Request) : Option Plan :=
  r.retr.map (fun x => { part := match s.index x.indexId with | some ix => ix.part | none => 0, indexId := x.indexId })

/-- The input charge of a request: INPUT_WEIGHT for each token of the body and of the query (R209, R236). -/
def State.inputCharge (s : State) (r : Request) (n : Nat) : State :=
  s.charge r.tenant (((s.tenant r.tenant).inputWeight * n : Nat) : Int)

/-- A live sequence at its admission (R187, R208, R261, R273). -/
def State.newSequence (s : State) (k : Nat) (r : Request) (j : Join) (a : Stamp) : Sequence :=
  let segs := s.servingSegs
  { req := r, admitAt := a, screenSeg := segs.getD (k % max 1 segs.length) 0, entry := j.entry, shared := j.start / 64,
    handleLen := j.held, start := j.start, committed := j.start, lastToken := j.last,
    ownBlocks := if r.resultOnly then [] else joinBlocks j (j.held + r.prompt.length),
    map := (match j.entry with | some e => shareBelow (j.start / 64) (((s.entry e).getD {}).map.filter (fun x => x.1 < j.start / 64)) | none => []),
    speculate := j.speculate,
    copyPending := j.start % 64 != 0, awaitHandOver := r.retr.isSome && !r.resultOnly, plan := s.newPlan r,
    inDue := inputDue (s.part r.part).policy.dIn (screenedTokens r).length a,
    inputTokens := (screenedTokens r).length }

/-- A request admitted under a live sequence index, its pages reserved (R36, R208, R209). -/
def State.admitRequest (s : State) (k : Nat) (r : Request) (j : Join) (a : Stamp) : State :=
  let s := (s.takePages r.part (j.pages + j.fetch)).admitEntry r j
  let s := s.inputCharge r (screenedTokens r).length
  let q := s.newSequence k r j a
  let s := { s with seqs := aSet k q s.seqs }.giveBlocks (.seq k) q.ownBlocks
  let s := if s.queryApart r then s.count (fun c => { c with queryPartial := c.queryPartial + 1 }) else s
  s.startStreams k false

/-- The queue of a class. -/
def Partition.queue (p : Partition) : Cls → List Request
  | .lc => p.lcQueue
  | .be => p.beQueue

/-- A request changed where it stands in its queue. -/
def State.onQueued (s : State) (r : Request) (f : Request → Request) : State :=
  let g (l : List Request) : List Request := l.map (fun x => if named r.tenant r.reqId x then f x else x)
  s.onPart r.part (fun p => { p with lcQueue := g p.lcQueue, beQueue := g p.beQueue })

/-- Requests of a partition have turns: every segment of its mask has joined, or the partition has stopped and fails them (R360,
R392). -/
def State.takesTurns (s : State) (p : Nat) : Bool := s.maskJoined p || (s.part p).stopped.isSome

/-- The request whose turn it is in a queue at this edge: of the LC queue the head alone, of the BE queue the first not yet
tried (R199, R200); none while a segment of the partition has not joined (R392). -/
def State.turnOf (s : State) (p : Nat) (c : Cls) : Option Request :=
  let q := if s.takesTurns p then (s.part p).queue c else []
  let q := q.filter (fun r => before r.arrived s.edge)
  let untried (r : Request) : Bool := r.tried != s.time.beat
  match c with
  | .lc => match q.head? with | some r => if untried r then some r else none | none => none
  | .be => q.find? untried

/-- A request fails at its admission turn, at a stamp of the sequencer (R208, R219). -/
def State.failTurn (s : State) (r : Request) (st : Status) : State :=
  let e := s.stampFor 0
  let s := ((s.given e).unqueue r).failRequest r st e
  if st == .budget then s.count (fun c => { c with budgetRefusals := c.budgetRefusals + 1 })
  else if st == .noPages then s.count (fun c => { c with noPages := c.noPages + 1 })
  else s

/-- A request whose pages or index are short waits, or fails where nothing promised would help (R200). -/
def State.shortTurn (s : State) (r : Request) (need : Nat) : State :=
  let wait (x : Request) : Request := { x with waitFrom := some (x.waitFrom.getD s.time.beat), tried := s.time.beat }
  match r.cls with
  | .be => s.onQueued r wait
  | .lc =>
    if s.covers r.part need && 0 < s.promisedPages r.part then s.onQueued r wait else s.failTurn r .noPages

/-- One admission turn (R208). -/
def State.admitTurn (s : State) (r : Request) : State :=
  match s.admissionChecks r with
  | .error st => s.failTurn r st
  | .ok j =>
    let t := s.joinPages r.part (j.pages + j.fetch) j.entry
    match t.1, t.2.freeIndex with
    | true, some k =>
      let a := t.2.stampFor 0
      ((t.2.given a).unqueue r).admitRequest k r j a
    | _, _ => t.2.shortTurn r (j.pages + j.fetch + (s.part r.part).decodeReserve)

/-- The work of an edge has come to its admission queues or can go on to them (R199). -/
def State.edgeAt (s : State) (phase : Nat) : Bool := s.mgrServes && s.time.edgePhase != 0 && s.time.edgePhase ≤ phase

/-- The state with an edge's work come to a phase. -/
def State.toPhase (s : State) (phase : Nat) : State := { s with time := { s.time with edgePhase := phase } }

/-- ADMISSION (R199, R208): LC requests have their turns before BE requests. -/
def execAdmission (part : Nat) (cls : Cls) (s : State) : Result := underForce (fun s =>
  match s.turnOf part cls with
  | some r =>
    onlyIf (part < 15 && s.edgeAt 2 && (cls == .lc || (s.turnOf part .lc).isNone)) ((s.toPhase 2).admitTurn r) s
  | none => .next s) s

/-! The hand-over. -/

/-- The block numbers that packed content adds to a sequence (R255). -/
def handOverBlocks (q : Sequence) (pl : Plan) : List Nat :=
  missingBlocks q q.start (q.promptLen + pl.packed.length)

/-- The packed prompt handed to prefill, charged, and the plan completed (R209, R255, R258). -/
def State.handOver (s : State) (k : Nat) (q : Sequence) (pl : Plan) (blocks : List Nat) (e : Stamp) : State :=
  let s := s.takePages q.req.part (blocks.length * (s.part q.req.part).setPages q.speculate)
  let s := s.inputCharge q.req pl.packed.length
  let s := (s.planOverrun q pl e).count (fun c => { c with plans := c.plans + 1 })
  (s.giveBlocks (.seq k) blocks).onLive k (fun q => { q with
    packed := some pl.packed, awaitHandOver := false, plan := none, inputTokens := q.inputTokens + pl.packed.length,
    ownBlocks := blocks.foldl (fun l b => insertNat b l) q.ownBlocks })

/-- A hand-over that finds no pages waits; an LC request fails where nothing promised would help (R200, R255). -/
def State.handOverShort (s : State) (k : Nat) (q : Sequence) (need : Nat) : State :=
  let wait (pl : Plan) : Plan := { pl with waitFrom := some (pl.waitFrom.getD s.time.beat) }
  match q.req.cls with
  | .be => s.onPlan k wait
  | .lc =>
    if s.covers q.req.part need then s.onPlan k wait
    else
      let e := s.stampFor 0
      ((s.given e).endSeq k .noPages e).count (fun c => { c with noPages := c.noPages + 1 })

/-- Packing ended before this beat edge (R255). -/
def packedBefore (beat : Nat) (pl : Plan) : Bool := pl.stage == .packed && (pl.endedAt.getD {}).beat < beat

/-- HAND_OVER (R255): a join at a beat edge. -/
def execHandOver (seq : Nat) (s : State) : Result := underForce (fun s =>
  match s.live seq with
  | some q =>
    match q.plan with
    | some pl =>
      let blocks := handOverBlocks q pl
      let demand := blocks.length * (s.part q.req.part).setPages q.speculate
      let t := (s.toPhase 2).joinPages q.req.part demand none
      onlyIf (s.edgeAt 2 && packedBefore s.time.beat pl && q.ended.isNone && q.tier == .bright && q.moving.isNone)
        (if t.1 then
          let e := t.2.stampFor 0
          (t.2.given e).handOver seq q pl blocks e
         else t.2.handOverShort seq q (demand + (s.part q.req.part).decodeReserve)) s
    | none => .next s
  | none => .next s) s

/-! The end of a wait. -/

/-- A wait that began in a beat has lasted JOIN_WAIT_BT. -/
def waitOver (beat joinWait : Nat) (from_ : Option Nat) : Bool :=
  match from_ with
  | some b => b + joinWait ≤ beat
  | none => false

/-- An LC sequence whose hand-over has waited too long. -/
def State.handOverLate (s : State) (p : Nat) : Option Nat :=
  (s.seqs.find? (fun e => e.2.req.part == p && e.2.req.cls == .lc && e.2.ended.isNone &&
    (match e.2.plan with | some pl => waitOver s.time.beat (s.part p).joinWait pl.waitFrom | none => false))).map (·.1)

/-- JOIN_WAIT_EXPIRY (R200, R255): the head of the LC queue, or an LC request at its hand-over, fails with NO_PAGES. -/
def execJoinWaitExpiry (part : Nat) (s : State) : Result := underForce (fun s =>
  let late := match (s.part part).lcQueue.head? with
    | some r => if waitOver s.time.beat (s.part part).joinWait r.waitFrom then some r else none
    | none => none
  match late, s.handOverLate part with
  | some r, _ => onlyIf (s.mgrUp && part < 15 && s.takesTurns part) (s.failTurn r .noPages) s
  | none, some k =>
    let e := s.stampFor 0
    onlyIf (s.mgrUp && part < 15)
      (((s.given e).endSeq k .noPages e).count (fun c => { c with noPages := c.noPages + 1 })) s
  | none, none => .next s) s

/-! Resumptions. -/

/-- A paused sequence may be considered for resumption (R201, R224). -/
def resumeCandidate (q : Sequence) : Bool :=
  q.ended.isNone && (q.pausedBudget.isSome || q.pausedPages.isSome) && (q.pausedBudget.isNone || q.resumable)
    && !q.pausedRing && q.moving.isNone && !q.dimAsked

/-- The position blocks a sequence on the dim tier alone takes again. -/
def resumeBlocks (q : Sequence) : List Nat :=
  let top := max (ceilDiv q.committed 64) (ceilDiv q.promptLen 64)
  (List.range (top - q.shared)).map (· + q.shared)

/-- Pages that a sequence on the dim tier alone takes again when it resumes (R197). -/
def State.fetchPages (s : State) (q : Sequence) : Nat := (resumeBlocks q).length * (s.part q.req.part).setPages q.speculate

/-- The bright need of a paused sequence: none in BOTH, its block sets otherwise (R201). -/
def State.brightNeed (s : State) (q : Sequence) : Nat :=
  match q.tier with
  | .both => 0
  | .dim => s.fetchPages q
  | _ => s.seqPages q

/-- The condition of a resumption holds (R201). -/
def State.resumeFits (s : State) (q : Sequence) : Bool :=
  let p := s.part q.req.part
  s.brightNeed q + p.decodeReserve + p.resumeHeadroom < p.poolFree

/-- Earlier in the order of resumptions: LC before BE, then tenant priority, pause instant and order (R201, R224). -/
def State.resumeAbove (s : State) (a b : Nat × Sequence) : Bool :=
  let pa := (s.tenant a.2.req.tenant).priority
  let pb := (s.tenant b.2.req.tenant).priority
  let x := a.2.pauseAt
  let y := b.2.pauseAt
  if a.2.req.cls != b.2.req.cls then a.2.req.cls == .lc
  else if pa != pb then pb < pa
  else x.beat < y.beat || (x.beat == y.beat && x.order < y.order)

/-- The next sequence of a partition to resume at this edge. -/
def State.resumeNext (s : State) (p : Nat) : Option Nat :=
  (sortBy s.resumeAbove (s.seqs.filter (fun e => e.2.req.part == p && resumeCandidate e.2 && s.resumeFits e.2))).head?.map (·.1)

/-- A paused sequence resumes: in BOTH it drops its dim record, on the dim tier alone it takes its pages and is fetched (R196, R201). -/
def State.resume (s : State) (k : Nat) : State :=
  match s.live k with
  | some q =>
    let go (q : Sequence) : Sequence := { q with pausedBudget := none, pausedPages := none, resumable := false }
    if q.tier == .dim then
      (((s.takePages q.req.part (s.fetchPages q)).onLive k (fun q => { go q with ownBlocks := resumeBlocks q })).giveBlocks (.seq k)
        (resumeBlocks q)).beginDimFetch (.seq k)
    else s.onLive k (fun q => { go q with tier := .bright, dim := none })
  | none => s

/-- RESUMPTION (R201): after the admission queues of the same edge. -/
def execResumption (part : Nat) (s : State) : Result := underForce (fun s =>
  match s.resumeNext part with
  | some k => onlyIf (part < 15 && s.edgeAt 3) ((s.toPhase 3).resume k) s
  | none => .next s) s

/-! Tiers (R195 to R197). -/

/-- The movement of a cache in progress. -/
def State.moveOf (s : State) : CacheRef → Option DimMove
  | .entry k => (s.entry k).bind (·.moving)
  | .seq k => (s.live k).bind (·.moving)

/-- The partition of a cache. -/
def State.partOf (s : State) (c : CacheRef) : Nat := match s.cacheOf c with | some x => x.1 | none => 0

/-- The bright pages of a cache given back at a stamp, its promise with them where reclaim asked for the write (R196, R200). -/
def State.dropBright (s : State) (k : Nat) (stamp : Stamp) : State :=
  match s.live k with
  | some q =>
    let n := s.seqPages q
    (s.returnPages q.req.part n stamp).onLive k
      (fun q => dropOwn { q with tier := .dim, moving := none })
  | none => s

/-- The last frame of a dim write is written: BOTH, or DIM where reclaim paused the sequence (R196). -/
def State.writeEnds (s : State) (c : CacheRef) (drop : Bool) : State :=
  match c with
  | .entry k => s.onEntry k (fun h => { h with tier := .both, moving := none })
  | .seq k => if drop then s.dropBright k s.edge else s.onLive k (fun q => { q with tier := .both, moving := none })

/-- A sequence's dim write that its step's commit point has yet to begin (R196). -/
def State.writeAsked (s : State) : CacheRef → Bool
  | .seq k => ((s.live k).getD {}).dimAsked
  | .entry _ => false

/-- DIM_WRITE_COMPLETE (R196). -/
def execDimWriteComplete (cache : CacheRef) (s : State) : Result :=
  match s.moveOf cache with
  | some (.write drop) => onlyIf (s.mgrUp && !s.dmaPending (.dimWrite cache) && !s.writeAsked cache) (s.writeEnds cache drop) s
  | _ => .next s

/-- The last frame of a dim fetch is verified: BOTH for an entry, whose LAST_TOKEN the record restores; BRIGHT for a sequence, whose
record is freed (R193, R196). -/
def State.fetchEnds (s : State) (c : CacheRef) (header : Nat) : State :=
  match c with
  | .entry k => s.onEntry k (fun h => { h with tier := .both, moving := none, lastToken := bits 477 460 header })
  | .seq k => s.onLive k (fun q => { q with tier := .bright, moving := none, dim := none })

/-- A read-back failure (R195): the reserved pages return at its stamp (R198), the record and the entry, or the paused sequence,
are freed, and every user, which names the entry no more, ends with SEAL_FAIL. -/
def State.readBackFails (s : State) (c : CacheRef) (e : Stamp) : State :=
  let s := s.count (fun k => { k with dimSealFails := k.dimSealFails + 1 })
  match c with
  | .entry k =>
    let h := (s.entry k).getD {}
    let users := (s.seqs.filter (fun x => x.2.entry == some k)).map (·.1)
    let s := s.returnPages h.part h.ownPages e
    let s := s.onEntry k (fun h => { h with ownPages := 0, map := [], moving := none, dim := none })
    let s := users.foldl (fun t i => t.endSeq i .sealFail e) s
    let s := { s with seqs := s.seqs.map (fun (x : Nat × Sequence) => (x.1, if x.2.entry == some k then { x.2 with entry := none, shared := 0 } else x.2)) }
    { s with handles := aErase k s.handles }
  | .seq k =>
    match s.live k with
    | some q =>
      let s := s.returnPages q.req.part (s.seqPages q) e
      (s.onLive k (fun q => dropOwn { q with moving := none, dim := none })).endSeq k .sealFail e
    | none => s

/-- The block still holds the key of the epoch under which a cache's record was sealed (R195, R346). -/
def State.epochHeld (s : State) (c : CacheRef) : Bool :=
  let d : Option DimRec := match c with | .entry k => (s.entry k).bind (·.dim) | .seq k => (s.live k).bind (·.dim)
  let keys := s.trust.envKeys.getD (s.partOf c) {}
  match d with
  | some d => d.epoch != 0 && (d.epoch == keys.curEpoch || d.epoch == keys.prevEpoch)
  | none => false

/-- A record header names the record that its reader expects (R193, R195). -/
def recordNamed (part : Nat) (d : DimRec) (h : Nat) : Bool :=
  bits 511 496 h == 0x4B52 && bits 495 488 h == 3 && bits 487 484 h == part && bits 447 416 h == d.recordId

/-- A frame header names the page frame that its reader expects there (R193, R195). -/
def frameNamed (part : Nat) (d : DimRec) (x : Nat × Nat × Bool × Nat) (h : Nat) : Bool :=
  bits 511 496 h == 0x4B50 && bits 495 488 h == 3 && bits 487 480 h == d.epoch && bits 479 476 h == part && bits 475 471 h == x.1
    && bits 470 470 h == flag x.2.2.1 && bits 463 432 h == d.recordId && bits 431 422 h == x.2.1 && bits 421 412 h == x.2.2.2

/-- The frame headers read back are those of a record's frames, in its order (R193). -/
def framesNamed (part : Nat) (d : DimRec) : List (Nat × Nat × Bool × Nat) → List Nat → Bool
  | [], [] => true
  | x :: xs, h :: hs => frameNamed part d x h && framesNamed part d xs hs
  | _, _ => false

/-- Every frame of a cache's record that has been read back names what its reader expects, under a key the block holds (R195). -/
def State.readBackStands (s : State) (r : DimRead) : Bool :=
  match s.cacheOf r.cache with
  | some (p, _, draft, _) =>
    let d := ((match r.cache with | .entry k => (s.entry k).bind (·.dim) | .seq k => (s.live k).bind (·.dim))).getD {}
    s.epochHeld r.cache && recordNamed p d r.header
      && framesNamed p d ((s.partSegs p).flatMap (fun i => (s.framesOf p d.length draft).map (fun f => (i, f)))) r.frames
  | none => false

/-- DIM_FETCH_COMPLETE (R197): the headers that have come back, their tags verified, are compared with what the reader expects; a
record that another epoch, cache or copy left there fails (R195). -/
def execDimFetchComplete (read : DimRead) (s : State) : Result :=
  match s.moveOf read.cache with
  | some .fetch =>
    onlyIf (s.mgrUp && !s.dmaPending (.dimFetch read.cache))
      (if s.readBackStands read then s.fetchEnds read.cache read.header else s.readBackFails read.cache s.edge) s
  | _ => .next s

/-- DIM_READ_BACK_FAIL (R195). -/
def execDimReadBackFail (cyc : Nat) (cache : CacheRef) (s : State) : Result :=
  let e := s.stampFor cyc
  match s.moveOf cache with
  | some .fetch => onlyIf s.mgrUp ((s.given e).readBackFails cache e) s
  | _ => .next s

/-- The positions of an entry's partial block copied into the sequence's own block set (R187). -/
def State.copyPartial (s : State) (k : Nat) : State :=
  match s.live k with
  | some q =>
    let from_ := q.start / 64 * 64
    let copied := (s.entryKv q).filter (fun e => from_ ≤ e.pos && e.pos < q.start)
    s.onLive k (fun q => { q with kv := copied.foldl (fun l e => putKv e l) q.kv, copyPending := false })
  | none => s

/-- PARTIAL_BLOCK_COPY_COMPLETE (R187). -/
def execPartialBlockCopyComplete (seq : Nat) (s : State) : Result :=
  match s.live seq with
  | some q => onlyIf (s.mgrUp && q.copyPending && s.entryBright q) (s.copyPartial seq) s
  | none => .next s

end Sys2Proof.Machine
end

