-- ==== Sys2Proof/Machine/Rings.lean ====
section
/-! DEFINITION. The commands of the rings: doorbells and context writes (R297, R298), index write-backs and event vectors
(R299, R417), backlogs and pauses (R302, R303). -/

namespace Sys2Proof.Machine

/-! Doorbells. -/

/-- A doorbell is valid: its ring is enabled, its OP suits the ring's kind, and its INDEX passes the check of R298. -/
def doorbellOk (op index : Nat) (r : Ring) : Bool :=
  let i := index % 2 ^ 32
  r.enable &&
    (if op == 1 then r.kind == 0 && (i + 2 ^ 32 - r.tail) % 2 ^ 32 ≤ r.entries - r.depth
     else if op == 2 then
       r.kind != 0 && ((i + 2 ^ 32 - r.head) % 2 ^ 32 ≤ r.depth
         || (r.kind == 3 && (r.head + 2 ^ 32 - i) % 2 ^ 32 ≤ r.entries))
     else op == 3 && r.kind == 3)

/-- The effect of a valid doorbell (R298). -/
def State.doorbellActs (s : State) (n op index : Nat) : State :=
  let r := s.ring n
  let i := index % 2 ^ 32
  if op == 1 then s.moveRing n r.head i
  else if op == 2 then
    let moved := (i + 2 ^ 32 - r.head) % 2 ^ 32
    if moved ≤ r.depth then
      (s.moveRing n i r.tail).onRing n (fun r => { r with flags := r.flags.drop moved })
    else s
  else
    (s.moveRing n r.tail r.tail).onRing n (fun q => { q with flags := q.flags.drop r.depth, tornNext := true })

/-- A doorbell refused: counted in DOORBELL_ERRORS, DB_ERROR set (R298). -/
def Ring.refuse (r : Ring) : Ring := { r with dbErrors := (r.dbErrors + 1) % 2 ^ 32, dbError := true }

/-- A doorbell as the manager takes it: stamped (R48), then valid and acted on, or ignored and counted. -/
def State.doorbell (s : State) (cyc n op index : Nat) : State :=
  let s := s.given (s.stampFor cyc)
  if doorbellOk op index (s.ring n) then s.doorbellActs n op index else s.onRing n Ring.refuse

/-- A wake event: the block serves again at beat edge b + 50, b the beat of its stamp (R396). -/
def State.wakeEvent (s : State) (b : Nat) : State :=
  if s.power.hush == 1 then { s with power := { s.power with hush := 2, wakeAt := b + 50 } } else s

/-- The manager accepts ring doorbells: in service, or a PRODUCE in hush (R395, R396). -/
def State.takesDoorbell (s : State) (n : Nat) : Bool := s.mgrUp && s.unretired && n < 16384

/-- The ring is a SUB ring in service. -/
def Ring.isSub (r : Ring) : Bool := r.enable && r.kind == 0

/-- PRODUCE (R298); on a SUB ring in hush it is a wake event as well (R396). -/
def execProduce (cyc ring index : Nat) (s : State) : Result :=
  let t := s.doorbell cyc ring 1 index
  onlyIf (s.takesDoorbell ring) (if (s.ring ring).isSub then t.wakeEvent (s.stampFor cyc).beat else t) s

/-- CONSUME (R298). -/
def execConsume (cyc ring index : Nat) (s : State) : Result :=
  onlyIf (s.takesDoorbell ring) (s.doorbell cyc ring 2 index) s

/-- RING_FLUSH (R298). -/
def execRingFlush (cyc ring : Nat) (s : State) : Result :=
  onlyIf (s.takesDoorbell ring) (s.doorbell cyc ring 3 0) s

/-- DOORBELL_RESERVED_OP (R18, R298): a doorbell of any OP that its ring does not find valid. -/
def execDoorbellReservedOp (cyc ring op index : Nat) (s : State) : Result :=
  onlyIf (s.takesDoorbell ring) (s.doorbell cyc ring (op % 16) index) s

/-! Context writes. -/

/-- The fields of context word 13 that take writes only while ENABLE is 0 (R298). -/
def ringGated13 (word : Nat) (r : Ring) : Ring :=
  { r with kind := bits 63 62 word, sizeLog2 := bits 59 55 word, tenant := bits 43 32 word, anyTenant := bit 31 word }

/-- The fields of context word 13 that take writes at any time. -/
def ringFree13 (word : Nat) (r : Ring) : Ring :=
  { r with evEnable := bit 60 word, vector := bits 54 44 word, modBt := bits 15 0 word }

/-- What enabling sets to 0 (R298). -/
def ringStart (r : Ring) : Ring :=
  { r with enable := true, head := 0, tail := 0, highCross := 0, lowCross := 0, lost := 0, dbErrors := 0, backlog := [],
           highLatched := false, lowLatched := false, lostLatched := false, dbError := false, pausing := false,
           writing := [], wbDue := false, raiseDue := false, lastPulse := none, heldRaise := false, words := 0,
           tornNext := false, flags := [], toCover := [], rewrites := [], cyc := none }

/-- A ring may be enabled: BASE and INDEX_WB aligned, SIZE_LOG2 6 to 20 (R298). -/
def ringStartable (r : Ring) : Bool :=
  r.base % 4096 == 0 && r.indexWb % 8 == 0 && 6 ≤ r.sizeLog2 && r.sizeLog2 ≤ 20

/-- A write of context word 13 that enables the ring (R298). -/
def ringEnabled (word : Nat) (r : Ring) : Ring :=
  let r' := ringFree13 word (ringGated13 word r)
  if ringStartable r' then ringStart r' else { r with dbError := true }

/-- A ring is named by a live or queued request or a waiting completion record, or by a STEP_CMP_RING, or holds a backlog
(R298). -/
def State.ringInUse (s : State) (n : Nat) : Bool :=
  let r := s.ring n
  let named (q : Request) : Bool := (r.kind == 1 && q.cmpRing == n) || (r.kind == 2 && q.strRing == n)
  (r.kind == 1 || r.kind == 2) &&
    (s.seqs.any (fun e => named e.2.req) || s.parts.any (fun p => p.lcQueue.any named || p.beQueue.any named)
      || 0 < r.backlogCount
      || (r.kind == 1 && s.parts.any (fun p => p.stepCmpRing == n)))

/-- A write of context word 13 that disables the ring, or is ignored while the ring is in use (R298). -/
def State.disableRing (s : State) (n word : Nat) : State :=
  if s.ringInUse n then s.onRing n (fun r => { r with dbError := true })
  else s.onRing n (fun r => { ringFree13 word r with enable := false })

/-- The latched bits of the marks after a write of context word 7: the clear comes before the crossings of its own cycle, which leave
their bit set and count as latchings (R290). -/
def ringCleared (now : Stamp) (word : Nat) (r : Ring) : Ring :=
  let b := r.cycBase now
  ringMoved now r.head r.tail
    { r with cyc := some { b with highLatched := b.highLatched && !bit 63 word, lowLatched := b.lowLatched && !bit 62 word } }

/-- A context write that leaves ENABLE as it is (R297, R298). -/
def ringWrite (now : Stamp) (wordNo word : Nat) (r : Ring) : Ring :=
  match wordNo with
  | 15 => if r.enable then r else { r with base := word % 2 ^ 64 }
  | 14 => if r.enable then r else { r with indexWb := word % 2 ^ 64 }
  | 13 => ringFree13 word (if r.enable then r else ringGated13 word r)
  | 12 => { r with pauseBt := clampNat 20 60000 (bits 63 48 word), kindMask := bits 47 32 word, partMask := bits 31 16 word }
  | 11 => { r with high := bits 63 32 word, low := bits 31 0 word }
  | 7 => ringCleared now word { r with lostLatched := r.lostLatched && !bit 59 word, dbError := r.dbError && !bit 58 word }
  | _ => r

/-- A write of one 64-bit word of a ring context (R297, R298). -/
def State.contextWrite (s : State) (n wordNo word : Nat) : State :=
  let r := s.ring n
  if wordNo == 13 && !r.enable && bit 61 word then (s.closeRing n).onRing n (ringEnabled word)
  else if wordNo == 13 && r.enable && !bit 61 word then (s.closeRing n).disableRing n word
  else (s.ringTurn n).onRing n (ringWrite s.now wordNo word)

/-- The manager accepts ring context writes. -/
def State.takesContext (s : State) (n : Nat) : Bool := s.mgrUp && s.unretired && n < 16384

/-- RING_ENABLE (R298): a write of context word 13 with ENABLE 1 to a ring out of service. -/
def execRingEnable (ring word : Nat) (s : State) : Result :=
  onlyIf (s.takesContext ring && !(s.ring ring).enable && bit 61 word) (s.contextWrite ring 13 word) s

/-- RING_DISABLE (R298): a write of context word 13 with ENABLE 0 to a ring in service. -/
def execRingDisable (ring word : Nat) (s : State) : Result :=
  onlyIf (s.takesContext ring && (s.ring ring).enable && !bit 61 word) (s.contextWrite ring 13 word) s

/-- RING_CONTEXT_WRITE (R298). -/
def execRingContextWrite (ring wordNo word : Nat) (s : State) : Result :=
  onlyIf (s.takesContext ring && wordNo < 16) (s.contextWrite ring wordNo word) s

/-! Write-backs and vectors. -/

/-- A request in a segment's port serves a test. -/
def State.dmaAny (s : State) (f : DmaUse → Bool) : Bool :=
  s.segs.any (fun g => g.port.waiting.any (fun r => f r.what) || g.port.issued.any (fun r => f r.what)
    || g.port.retry.any (fun e => f e.2.what))

/-- An entry that the indexes cover is still to become visible: a torn entry being rewritten (R299, R304). -/
def State.tornPending (s : State) (n : Nat) : Bool :=
  s.dmaAny (fun u => match u with | .tornEntry m _ => m == n | _ => false)

/-- A write-back of a ring is on its way, or is to be written again: the next one waits for its response (R404, R405). -/
def State.backPending (s : State) (n : Nat) : Bool :=
  s.dmaAny (fun u => match u with | .writeBack m _ _ => m == n | _ => false)

/-- The index write-back asked of the initiator channel: HEAD in bits [63:32], TAIL in bits [31:0] (R299). -/
def State.writeBack (s : State) (n : Nat) : State :=
  let r := s.ring n
  let s := s.setRing n { r with wbDue := false, raiseDue := false, toCover := [] }
  s.dma s.mgr (dmaReq true r.indexWb 8 3 (.writeBack n r.raiseDue r.toCover) (r.head * 2 ^ 32 + r.tail))

/-- INDEX_WRITEBACK (R299). -/
def execIndexWriteback (ring : Nat) (s : State) : Result :=
  let s' := s.closeRing ring
  onlyIf (s.mgrUp && (s'.ring ring).enable && (s'.ring ring).wbDue && !s.tornPending ring && !s.backPending ring) (s'.writeBack ring) s

/-- MOD_INTERVAL_END (R299): the raises held in the interval make one pulse due at its end. -/
def execModIntervalEnd (ring : Nat) (s : State) : Result :=
  let r := s.ring ring
  onlyIf (s.mgrUp && r.heldRaise && (r.lastPulse.getD 0) + r.modBt ≤ s.time.beat)
    ((s.setRing ring { r with heldRaise := false, lastPulse := some s.time.beat }).pulse r.vector) s

/-- The pending vector that comes first in ascending number after the last one sent, wrapping after 2,047 (R417). -/
def nextVector (v : Vectors) : Option Nat :=
  match v.pending.find? (fun k => v.lastSent < k) with
  | some k => some k
  | none => v.pending.head?

/-- EVENT_VECTOR_TRANSFER (R417). -/
def execEventVectorTransfer (s : State) : Result :=
  match nextVector s.vectors with
  | some k => onlyIf s.mgrUp { s with vectors := { s.vectors with pending := s.vectors.pending.filter (· != k), lastSent := k,
                                                                   sent := s.vectors.sent + 1 } } s
  | none => .next s

/-! Backlogs and pauses. -/

/-- A sequence paused for its ring whose backlog has emptied may be bound again (R303). -/
def State.ringResumes (s : State) (n : Nat) : State :=
  let s := { s with seqs := s.seqs.map (fun e =>
    (e.1, if e.2.req.strRing == n && e.2.pausedRing && e.2.backTokens.isEmpty then { e.2 with pausedRing := false } else e.2)) }
  if s.seqs.any (fun e => e.2.req.strRing == n && e.2.pausedRing) then s
  else s.onRing n (fun r => { r with pausing := false })

/-- RING_BACKLOG_WRITE (R302). -/
def execRingBacklogWrite (ring : Nat) (s : State) : Result :=
  let r := s.ring ring
  onlyIf (s.mgrUp && r.enable && !r.backlog.isEmpty && r.hasRoom)
    ((State.writeBacklog ring r.backlog s).ringResumes ring) s

/-- A sequence's oldest backlogged token has waited PAUSE_BT beats of its STR ring since its release instant (R303). -/
def State.ringPauseDue (s : State) (q : Sequence) : Bool :=
  match q.backTokens with
  | b :: _ => b.due.beat + (s.ring q.req.strRing).pauseBt ≤ s.time.beat
  | [] => false

/-- RING_PAUSE (R303). -/
def execRingPause (seq : Nat) (s : State) : Result :=
  match s.live seq with
  | some q =>
    onlyIf (s.mgrUp && s.ringPauseDue q && !q.pausedRing)
      (((s.onLive seq (fun q => { q with pausedRing := true })).onRing q.req.strRing
        (fun r => { r with pausing := true })).count (fun c => { c with ringPauses := c.ringPauses + 1 })) s
  | none => .next s

/-- A failed ring write with a tag, from a beat before this one (R405). -/
def failedWrite (beat tag : Nat) (p : Port) : Option (Nat × DmaReq) :=
  p.retry.find? (fun e => e.2.tag == tag && e.1 < beat)

/-- The record of a ring entry is being written again. -/
def ringRewrites (idx : Nat) (r : Ring) : Ring :=
  { r with writing := r.writing.map (fun b => if b.idx == idx then { b with failed := false } else b) }

/-- A write serves a host ring: its entries, or its index write-back. -/
def DmaUse.ofRing : DmaUse → Bool
  | .ringRecord _ _ => true
  | .tornEntry _ _ => true
  | .writeBack _ _ _ => true
  | _ => false

/-- RING_WRITE_RETRY (R405): the write is asked again of the channel it failed on. A manager that has fenced itself writes its host rings
no more (R365). -/
def execRingWriteRetry (seg tag : Nat) (s : State) : Result :=
  match failedWrite s.time.beat tag (s.seg seg).port with
  | some e =>
    if e.2.what.ofRing && !s.mgrAwake then .next s else
    let again (p : Port) : Port :=
      Port.pump { p with retry := p.retry.filter (· != e), waiting := p.waiting ++ [{ e.2 with sent := 0 }] }
    let s := s.onSeg seg (fun g => { g with port := again g.port })
    match e.2.what with
    | .ringRecord n idx => .next (s.onRing n (ringRewrites idx))
    | _ => .next s
  | none => .next s

/-! What a write response does to rings (R404). -/

/-- The token entries of a stream record leave the token backlog when it is written (R302, R405). -/
def recordWritten (q : Sequence) : Sequence := { q with flying := q.flying.drop 1 }

/-- The effect of a record that has become visible in its ring: the next write-back covers it, and raises the vector for it (R299). -/
def State.landed (s : State) (n : Nat) (b : BackRec) : State :=
  s.onRing n (fun r => { r with raiseDue := r.raiseDue || b.eor, toCover := r.toCover ++ [b] })

/-- A record whose write-back has succeeded is written (R219, R302, R405): the live sequence index of a completion record is free; the
entries of a stream record leave the token backlog. -/
def State.recordDone (s : State) (n : Nat) (b : BackRec) : State :=
  match b.kind with
  | .completion i => { s with seqs := aErase i s.seqs }
  | .stream i => (s.onLive i (fun q => { recordWritten q with unwritten := q.unwritten - 1 })).ringResumes n
  | .result i => s.onLive i (fun q => { q with unwritten := q.unwritten - 1 })
  | _ => s

/-- The leading records that are visible: TAIL passes them in order. -/
def State.advanceTail (n : Nat) : List BackRec → State → State
  | [], s => s.onRing n (fun r => { r with writing := [] })
  | b :: rest, s =>
    if b.visible then
      let r := s.ring n
      State.advanceTail n rest ((s.blockMoves n r.head (r.tail + 1)).landed n b)
    else s.onRing n (fun r => { r with writing := b :: rest })

/-- A ring entry has become visible (R404). -/
def State.entryVisible (s : State) (n idx : Nat) : State :=
  let w := (s.ring n).writing.map (fun b => if b.idx == idx then { b with visible := true, failed := false } else b)
  State.advanceTail n w (s.onRing n (fun r => { r with writing := w }))

/-- A write-back has become visible: the records it covers count as written, and the vector is raised (R299, R302). -/
def State.writeBackVisible (s : State) (n : Nat) (raise : Bool) (covers : List BackRec) : State :=
  let s := covers.foldl (fun t b => t.recordDone n b) (s.onRing n (fun r => { r with rewrites := [] }))
  if raise then s.raiseVector n else s

/-- A ring write has failed: its record, or the records that a write-back covers, count as unwritten until it succeeds (R405). -/
def State.ringWriteFailed (s : State) (seg : Nat) (r : DmaReq) : State :=
  let s := s.onSeg seg (fun g => { g with port := { g.port with retry := g.port.retry ++ [(s.time.beat, r)] } })
  match r.what with
  | .ringRecord n idx =>
    s.onRing n (fun q => { q with writing := q.writing.map (fun b => if b.idx == idx then { b with failed := true } else b) })
  | .writeBack n _ covers => s.onRing n (fun q => { q with rewrites := covers })
  | _ => s

end Sys2Proof.Machine
end

