-- ==== Sys2Proof/Machine/Objects.lean ====
section
/-! DEFINITION. Object access messages and transfers (R309 to R320): the endpoints and their queues, reads, segmented and indirect
transfers, aborts and timeouts. What a write of a write-only entry does is in Expedited.lean and Loads.lean. -/

namespace Sys2Proof

/-- Paths on which INDIRECT is accepted (R317). -/
def Endpoint.indirectOk : Endpoint → Bool
  | .window => true
  | .ringPair => true
  | _ => false

end Sys2Proof

namespace Sys2Proof.Machine

/-! Messages. -/

/-- A header word (R313). -/
def oamWord (cmd : Nat) (h : OamHead) : Nat :=
  packMsb [(4, cmd), (4, 0), (8, h.transfer), (16, h.index), (8, h.sub), (6, h.count), (2, h.size), (1, flag h.toggle), (1, flag h.last),
    (1, flag h.staged), (1, flag h.indirect), (12, 0)]

/-- The header of a transfer's messages. -/
def Transfer.head (t : Transfer) : OamHead := { transfer := t.id, index := t.index, sub := t.sub }

/-- An ABORT (R314, R319). -/
def abortWords (h : OamHead) (code : Nat) : List Nat :=
  [oamWord 7 { transfer := h.transfer, index := h.index, sub := h.sub }, code]

/-- An ACK (R315, R316). -/
def ackWords (h : OamHead) (word1 : Nat) : List Nat :=
  [oamWord 6 { transfer := h.transfer, index := h.index, sub := h.sub, toggle := h.toggle }, word1]

/-- Data bytes as words, little-endian (R16). -/
def dataWords : Nat → List Nat → List Nat
  | 0, _ => []
  | _ + 1, [] => []
  | fuel + 1, l => ofBytesLe (l.take 8) :: dataWords fuel (l.drop 8)

/-- A SEGMENT of the block (R316). -/
def segmentWords (h : OamHead) (toggle last : Bool) (offset : Nat) (data : List Nat) : List Nat :=
  [oamWord 4 { transfer := h.transfer, index := h.index, sub := h.sub, count := data.length, toggle := toggle, last := last }, offset]
    ++ dataWords 6 data

/-- The two rings of the management ring pair: SUB and CMP (R325). -/
def State.mgmtPair (s : State) : Nat × Nat := (bits 29 16 s.glob.mgmtRings, bits 13 0 s.glob.mgmtRings)

/-- A route leads from a segment to the live manager: it serves, or is joining with a link to a joined segment (R33, R310). -/
def State.routesTo (s : State) (k : Nat) : Bool :=
  s.serving k || ((s.seg k).state == .joining && s.hasJoinedLink k)

/-- A live manager can be reached from an endpoint (R310). -/
def State.reaches_ (s : State) : Endpoint → Bool
  | .i3c k => s.mgrUp && (k == s.mgr || s.routesTo k)
  | _ => true

/-- A message between a segment's I3C target and the manager passes over the control channel, in the direction given (R25, R310). -/
def State.forwardMsg (s : State) (out : Bool) : Endpoint → State
  | .i3c k => if k == s.mgr || !s.reaches_ (.i3c k) then s else if out then s.control s.mgr k else s.control k s.mgr
  | _ => s

/-- A message of the block goes out on its path: into the window's queue 2, into the CMP ring of the ring pair, or through the
outbound queue of an MCTP endpoint, where it stands until the medium reads it (R309, R312); an I3C target raises an in-band interrupt for
it (R412). -/
def State.send (s : State) (e : Endpoint) (words : List Nat) : State :=
  match e with
  | .ringPair =>
    let q := (popRecord s.now 8 (qPushAll s.now words (s.outQueue .ringPair))).2
    let data := ofBytesLe (words.flatMap (bytesLe 8))
    (s.putOut .ringPair q).sendRecord s.mgmtPair.2 { kind := .answer, data := data }
  | .i3c k =>
    let s := s.forwardMsg true (.i3c k)
    (s.putOut (.i3c k) (qPushAll s.now words (s.outQueue (.i3c k)))).onSeg k (interrupt 0)
  | e => s.putOut e (qPushAll s.now words (s.outQueue e))

/-- The whole messages of an MCTP endpoint's outbound queue read by its medium, which takes them before it delivers the next message of
its path (the model's choice, log entry 24). -/
def drainOut (at_ : Stamp) : Nat → WordQ → WordQ
  | 0, q => q
  | fuel + 1, q => if q.hasRecord then drainOut at_ fuel (popRecord at_ q.depth q).2 else q

/-- The medium of an MCTP path reads what its endpoint has sent. -/
def State.mediumReads (s : State) (e : Endpoint) : State := match e with
  | .window => s
  | .ringPair => s
  | e =>
    if !(s.outQueue e).hasRecord then s
    else
      let t := s.putOut e (drainOut s.now (s.outQueue e).depth (s.outQueue e))
      match e with
      | .i3c k => t.onSeg k (fun g => { g with trust := { g.trust with ibi := none } })
      | _ => t

/-- The words of the first whole record of a queue. -/
def firstRecord : List QWord → List QWord
  | [] => []
  | w :: rest => if w.eor then [w] else w :: firstRecord rest

/-- A record was delivered intact: no word TORN or POISON (R313). -/
def intact (l : List QWord) : Bool := l.all (fun w => !w.torn && !w.poison)

/-- The window's queue 1 holds a whole record next. -/
def State.windowRecord (s : State) : Option (List QWord) :=
  let q := s.inQueue .window
  if q.hasRecord then some (firstRecord q.words) else none

/-- The manager, or the segment of an I3C target, can take a message on a path (R309, R310, R312). -/
def State.pathOpen (s : State) : Endpoint → Bool
  | .ringPair => s.mgrUp && bit 31 s.glob.mgmtRings && 0 < (s.ring s.mgmtPair.1).depth
  | .i3c k => s.hasSeg k && !s.inSecond k
  | _ => s.mgrUp

/-- The words of a message without its reserved bits: those of the header, of a word 1 that its command leaves reserved or takes
32 bits of, and the bytes beyond COUNT of a SEGMENT (R313, R314). -/
def plainWords : List Nat → List Nat
  | w :: a :: rest =>
    let cmd := bits 63 60 w
    let a' := if cmd == 5 || (cmd == 1 && !bit 12 w) then 0 else if cmd == 2 || cmd == 4 || cmd == 7 then a % 2 ^ 32 else a
    let data := if cmd == 4 then dataWords 6 ((rest.flatMap (bytesLe 8)).take (bits 23 18 w)) else rest
    packMsb [(4, cmd), (4, 0), (44, bits 55 12 w), (12, 0)] :: a' :: data
  | l => l

/-- The number of an endpoint in the rotation of R318. -/
def endpointNo : Endpoint → Nat
  | .window => 0
  | .ringPair => 1
  | .pcie => 2
  | .i3c k => 3 + k

/-- Endpoints in the rotation: the window, the ring pair, PCIe and the targets of 20 segments. -/
def turns : Nat := 23

/-- An endpoint holds a message for the manager: a record in the window's queue 1, an entry of the pair's SUB ring, or the message that a
command now brings. -/
def State.waitsAt (s : State) (e : Endpoint) (n : Nat) : Bool :=
  n == endpointNo e || (n == 0 && s.windowRecord.isSome && s.pathOpen .window) || (n == 1 && s.pathOpen .ringPair)

/-- It is an endpoint's turn: the first, after the one whose message was taken last, that holds a message (R318). A target that the
manager is out of reach of takes no turn. -/
def State.epTurn (s : State) (e : Endpoint) : Bool :=
  !s.reaches_ e ||
    ((List.range turns).map (fun k => (s.objs.turn + 1 + k) % turns)).find? (s.waitsAt e) == some (endpointNo e)

/-- A message stands next on its path: in the window, the next record of queue 1 spells it; and it is the path's turn. -/
def State.standsNext (s : State) (e : Endpoint) (words : List Nat) : Bool :=
  s.pathOpen e && s.epTurn e && (e != .window || (match s.windowRecord with
    | some r => intact r && plainWords (r.map (·.data)) == words
    | none => false))

/-- A message is taken from its inbound queue, and from the SUB ring of the ring pair (R309, R312); that of an I3C target is forwarded to
the manager (R310). -/
def State.takeIn (s : State) (e : Endpoint) (words : List Nat) : State :=
  let s := (s.mediumReads e).forwardMsg false e
  let s := if s.reaches_ e then { s with objs := { s.objs with turn := endpointNo e } } else s
  let q := s.inQueue e
  let q := if e == .window then q else qPushAll s.now words q
  let s := s.putIn e (popRecord s.now q.depth q).2
  if e == .ringPair then
    let n := s.mgmtPair.1
    s.blockMoves n ((s.ring n).head + 1) (s.ring n).tail
  else s

/-- The secured session that a path names, where it is established on that path (R338). -/
def State.session (s : State) (p : Path) : Option SpdmSession :=
  match p.session with
  | some k => s.trust.sessions.find? (fun x => x.id == k && x.ep == p.ep && x.established)
  | none => none

/-- The path's secured session, if it names one, is established. -/
def State.pathStands (s : State) (p : Path) : Bool := p.session.isNone || (s.session p).isSome

/-- The principal of a path (R309, R338). -/
def State.principal (s : State) (p : Path) : Principal :=
  match s.session p with
  | some x => if x.officer then .officer else match p.ep with
    | .window => .driver
    | .ringPair => .driver
    | _ => .bmc
  | none => match p.ep with
    | .window => .driver
    | .ringPair => .driver
    | _ => .bmc

/-- A message that a command brings: it stands next on its path and its session, if any, is established. -/
def State.arrives (s : State) (p : Path) (words : List Nat) : Bool := s.standsNext p.ep words && s.pathStands p

/-- A message that the manager answers, or, where no live manager can be reached, its I3C target answers with UNREACHABLE (R310). -/
def State.answerMsg (s : State) (p : Path) (h : OamHead) (words : List Nat) (act : State → State) : Result :=
  onlyIf (s.arrives p words)
    (if s.reaches_ p.ep then act (s.takeIn p.ep words)
     else (s.takeIn p.ep words).send p.ep (abortWords h (abortCode 0xE 0))) s

/-! Transfers (R316, R318). -/

/-- An open transfer. -/
def State.transfer (s : State) (e : Endpoint) (id : Nat) : Option Transfer := (s.ep e).transfers.find? (fun t => t.id == id)

/-- The open transfer that a message on a path is about: one opened under the principal that the message runs under (R338). -/
def State.transferOf (s : State) (p : Path) (id : Nat) : Option Transfer :=
  (s.transfer p.ep id).filter (fun t => t.principal == s.principal p)

/-- A transfer closed. -/
def State.closeTransfer (s : State) (e : Endpoint) (id : Nat) : State :=
  s.onEp e (fun x => { x with transfers := x.transfers.filter (fun t => t.id != id) })

/-- The record of an ended transfer is dropped. -/
def State.forget (s : State) (e : Endpoint) (id : Nat) : State :=
  if (s.ep e).ended.any (fun d => d.id == id) then
    s.onEp e (fun x => { x with ended := x.ended.filter (fun d => d.id != id) })
  else s

/-- A transfer's final answer: it is closed, and the answer is kept for a repeat of its last message (R316). -/
def State.finish (s : State) (e : Endpoint) (t : Transfer) (toggle : Bool) (words : List Nat) : State :=
  let d : DoneTransfer := { id := t.id, principal := t.principal, write := t.write, toggle := toggle, reply := words }
  (((s.closeTransfer e t.id).forget e t.id).onEp e (fun x => { x with ended := x.ended ++ [d] })).send e words

/-- The final answer of a transfer whose load has been performed, given again for each repeat of its last SEGMENT (R316). -/
def State.finishLoad (s : State) (e : Endpoint) (t : Transfer) (words : List Nat) : State :=
  (List.range t.again).foldl (fun u _ => u.send e words) (s.finish e t t.toggle words)

/-- The answer to a SEGMENT or SEGMENT_REQUEST that names no open transfer of its principal: a repeat of the last message of an ended one
is answered again; any other answers TRANSFER (R316, R318, R338). -/
def State.answerEnded (s : State) (p : Path) (h : OamHead) (write : Bool) : State :=
  match (s.ep p.ep).ended.find? (fun d =>
      d.id == h.transfer && d.principal == s.principal p && d.write == write && d.toggle == h.toggle) with
  | some d => s.send p.ep d.reply
  | none => s.send p.ep (abortWords h (abortCode 6 0))

/-- A transfer changed. -/
def State.onTransfer (s : State) (e : Endpoint) (id : Nat) (f : Transfer → Transfer) : State :=
  s.onEp e (fun x => { x with transfers := x.transfers.map (fun t => if t.id == id then f t else t) })

/-- A message that opens a transfer ends the one its TRANSFER names, with ABORT TRANSFER (R318). -/
def State.replaceTransfer (s : State) (e : Endpoint) (id : Nat) : State :=
  let s := s.forget e id
  match s.transfer e id with
  | some t => (s.closeTransfer e id).send e (abortWords t.head (abortCode 6 0))
  | none => s

/-- A transfer opened, unless four are open (R318). -/
def State.openTransfer (s : State) (e : Endpoint) (t : Transfer) (act : State → State) : State :=
  if 4 ≤ (s.ep e).transfers.length then s.send e (abortWords t.head (abortCode 7 0))
  else act (s.onEp e (fun x => { x with transfers := x.transfers ++ [t] }))

/-! Reads. -/

/-- The bytes a READ returns: the reader's staged value if STAGED asks for it and there is one, else the committed one (R320). -/
def State.readValue (s : State) (who : Principal) (h : OamHead) : List Nat :=
  let staged := (s.stagedBy who).find? (fun e => e.1 == h.index && e.2.1 == h.sub)
  match h.staged, staged with
  | true, some e => e.2.2
  | _, _ => match s.object who h.index h.sub with
    | some o => o.data
    | none => []

/-- A READ answered by the value itself (R315). -/
def expeditedWords (h : OamHead) (data : List Nat) : List Nat :=
  [oamWord 8 { transfer := h.transfer, index := h.index, sub := h.sub, size := data.length - 1 }, ofBytesLe data]

/-- READ_INITIATE (R316, R317). -/
def initiateWords (h : OamHead) (last : Bool) (total : Nat) : List Nat :=
  [oamWord 9 { transfer := h.transfer, index := h.index, sub := h.sub, last := last }, total]

/-- An entry of 1 to 4 bytes, which is transferred expedited (R315). -/
def Shape.expedited (o : Shape) : Bool := match o.size with
  | some n => n ≤ 4
  | none => false

/-- The effect of a READ whose entry may be read (R315 to R317). -/
def State.readEntry (s : State) (p : Path) (h : OamHead) (buffer room : Nat) (o : Obj) : State :=
  let data := s.readValue (s.principal p) h
  let t : Transfer := { id := h.transfer, index := h.index, sub := h.sub, principal := s.principal p, total := data.length, data := data,
                        alone := !s.reaches_ p.ep, lastBeat := s.time.beat }
  if h.indirect then
    if !p.ep.indirectOk then s.send p.ep (abortWords h (abortCode 2 0))
    else if room < data.length then s.send p.ep (abortWords h (abortCode 4 0))
    else s.openTransfer p.ep { t with indirect := some buffer } (fun s =>
      if data.isEmpty then s
      else s.dma s.mgr (dmaReq true buffer data.length 3 (.indirect p.ep h.transfer) (ofBytesLe data)))
  else if o.shape.expedited then s.send p.ep (expeditedWords h data)
  else if data.isEmpty then s.send p.ep (initiateWords h true 0)
  else s.openTransfer p.ep t (fun s => s.send p.ep (initiateWords h false data.length))

/-- Entries that an I3C target answers from its own segment's copies when no live manager can be reached (R310). -/
def ownCopies (seg index : Nat) : Bool :=
  (0x1000 ≤ index && index ≤ 0x10FF) || index == 0x3000 + seg * 0x40 || (0x6000 ≤ index && index ≤ 0x6FFF)

/-- A read is served from a segment's own copies. -/
def State.servedAlone (s : State) (e : Endpoint) (index : Nat) : Bool := match e with
  | .i3c k => !s.reaches_ e && ownCopies k index
  | _ => false

/-- A READ as it is answered. -/
def State.doRead (s : State) (p : Path) (h : OamHead) (buffer room : Nat) : State :=
  let s := s.replaceTransfer p.ep h.transfer
  match s.readBar (s.principal p) h.index h.sub, s.object (s.principal p) h.index h.sub with
  | none, some o => s.readEntry p h buffer room o
  | some code, _ => s.send p.ep (abortWords h code)
  | none, none => s

/-- The words of a READ (R314). -/
def readWords (h : OamHead) (buffer room : Nat) : List Nat :=
  if h.indirect then [oamWord 1 h, buffer % 2 ^ 64, room % 2 ^ 64] else [oamWord 1 h, 0]

/-- READ (R315 to R317). -/
def execRead (_cyc : Nat) (path : Path) (head : OamHead) (buffer room : Nat) (s : State) : Result :=
  s.inBlockOf (s.farPath path.ep) (fun s =>
    let w := readWords head buffer room
    if s.servedAlone path.ep head.index then
      onlyIf (s.arrives path w) ((s.takeIn path.ep w).doRead path head buffer room) s
    else s.answerMsg path head w (fun s => s.doRead path head buffer room))

/-- The words of a SEGMENT_REQUEST. -/
def requestWords (h : OamHead) : List Nat := [oamWord 5 h, 0]

/-- Up to 48 bytes of a read transfer, from an offset (R316). -/
def Transfer.piece (t : Transfer) (offset : Nat) : List Nat := (t.data.drop offset).take 48

/-- The answer to a SEGMENT_REQUEST of an open read: the next bytes, or, on a repeated TOGGLE, those sent last (R316). The
transfer is over with its final SEGMENT. -/
def State.nextPiece (s : State) (e : Endpoint) (h : OamHead) (t : Transfer) : State :=
  if h.toggle == t.toggle then
    let data := t.piece t.moved
    let moved := t.moved + data.length
    let last := t.total ≤ moved
    let words := segmentWords h h.toggle last t.moved data
    if last then s.finish e t h.toggle words
    else (s.onTransfer e t.id (fun t => { t with moved := moved, toggle := !t.toggle, lastBeat := s.time.beat })).send e words
  else if t.moved == 0 then s.send e (abortWords h (abortCode 5 0))
  else
    let from_ := (t.moved - 1) / 48 * 48
    (s.onTransfer e t.id (fun t => { t with lastBeat := s.time.beat })).send e (segmentWords h h.toggle false from_ (t.piece from_))

/-- A SEGMENT_REQUEST as it is answered (R316, R318, R338). -/
def State.doRequest (s : State) (p : Path) (h : OamHead) : State :=
  match s.transferOf p h.transfer with
  | some t => if t.write || t.indirect.isSome then s.send p.ep (abortWords h (abortCode 6 0)) else s.nextPiece p.ep h t
  | none => s.answerEnded p h false

/-- A message is about a read that the path's I3C target serves itself (R310). -/
def State.ofAlone (s : State) (e : Endpoint) (h : OamHead) : Bool := match s.transfer e h.transfer with
  | some t => t.alone
  | none => false

/-- SEGMENT_REQUEST (R316, R318); of a read that an I3C target serves itself, answered by the target (R310). -/
def execSegmentRequest (_cyc : Nat) (path : Path) (head : OamHead) (s : State) : Result :=
  s.inBlockOf (s.farPath path.ep) (fun s =>
    let w := requestWords head
    if s.ofAlone path.ep head then onlyIf (s.arrives path w) ((s.takeIn path.ep w).doRequest path head) s
    else s.answerMsg path head w (fun s => s.doRequest path head))

/-! Writes. -/

/-- The size of a written value breaks its entry's (R307, R315, R316, R326). -/
def sizeBroken (o : Obj) (index sub n : Nat) : Bool := match o.shape.size with
  | some k => n != k
  | none => match domainSize index sub with
    | some d => !domainFits d n
    | none => false

/-- A staged write, without its rsvd fields (R17): within a set the last write of an entry stands (R320). -/
def State.stage (s : State) (who : Principal) (index sub : Nat) (data : List Nat) : State :=
  let rest := s.objs.staged.filter (fun e => !(e.1 == who && e.2.1 == index && e.2.2.1 == sub))
  let less (a b : Principal × Nat × Nat × List Nat) : Bool := a.2.1 * 256 + a.2.2.1 < b.2.1 * 256 + b.2.2.1
  { s with objs := { s.objs with staged := insertBy less (who, index, sub, plainStaged index sub data) rest } }

/-- Most bytes of a DOMAIN written directly, and by an indirect transfer (R307). -/
def domainMost (indirect : Bool) : Nat := if indirect then 2 ^ 40 else 2 ^ 24

/-- The words of a WRITE_INITIATE (R314). -/
def writeInitWords (h : OamHead) (total source : Nat) : List Nat :=
  [oamWord 3 h, total % 2 ^ 64] ++ (if h.indirect then [source % 2 ^ 64] else [])

/-- A load through a WO DOMAIN entry in hush (R395). -/
def State.loadsBarred (s : State) (o : Obj) : Bool := s.power.hush != 0 && o.access == .wo && o.shape == .domain

/-- The effect of a WRITE_INITIATE whose entry may be written (R316, R317). -/
def State.initWrite (s : State) (p : Path) (h : OamHead) (total source : Nat) (o : Obj) : State :=
  let t : Transfer := { id := h.transfer, index := h.index, sub := h.sub, write := true, principal := s.principal p, total := total,
                        lastBeat := s.time.beat }
  if h.indirect && !p.ep.indirectOk then s.send p.ep (abortWords h (abortCode 2 0))
  else if o.shape.expedited then s.send p.ep (abortWords h (abortCode 5 0))
  else if domainMost h.indirect < total then s.send p.ep (abortWords h (abortCode 4 0))
  else if s.loadsBarred o then s.send p.ep (abortWords h (abortCode 7 0))
  else if h.indirect then
    s.openTransfer p.ep { t with indirect := some source } (fun s =>
      if total == 0 then s else s.dma s.mgr (dmaReq false source total 3 (.indirect p.ep h.transfer) 0))
  else s.openTransfer p.ep t (fun s => s.send p.ep (ackWords h 0))

/-- WRITE_INITIATE (R316, R317). -/
def execWriteInitiate (_cyc : Nat) (path : Path) (head : OamHead) (total source : Nat) (s : State) : Result :=
  s.inBlockOf (s.farPath path.ep) (fun s =>
    s.answerMsg path head (writeInitWords head total source) (fun s =>
      let s := s.replaceTransfer path.ep head.transfer
      match s.writeBar (s.principal path) head.index head.sub, s.object (s.principal path) head.index head.sub with
      | none, some o => s.initWrite path head (total % 2 ^ 64) (source % 2 ^ 64) o
      | some code, _ => s.send path.ep (abortWords head code)
      | none, none => s))

/-- The bytes of a segmented or indirect write are all there: a staged entry is staged; the load of a write-only one is ready to be
performed, and its answer will carry this TOGGLE; a length that the entry does not allow answers LENGTH (R316, R317). -/
def State.finishWrite (s : State) (e : Endpoint) (t : Transfer) (toggle : Bool) (len : Nat) (data : List Nat) : State :=
  match s.object t.principal t.index t.sub with
  | some o =>
    if len != t.total || sizeBroken o t.index t.sub t.total then
      s.finish e t toggle (abortWords t.head (abortCode 4 0))
    else if o.access == .rws then
      (s.stage t.principal t.index t.sub data).finish e t toggle (ackWords { t.head with toggle := toggle } 0)
    else s.onTransfer e t.id (fun x => { x with whole := true, toggle := toggle, moved := t.total, data := data })
  | none => s.finish e t toggle (abortWords t.head (abortCode 1 0))

/-- The next SEGMENT of an open write, in byte order (R316). -/
def State.takeSegment (s : State) (e : Endpoint) (h : OamHead) (offset : Nat) (data : List Nat) (t : Transfer) : State :=
  let moved := t.moved + data.length
  if offset != t.moved then (s.closeTransfer e t.id).send e (abortWords h (abortCode 5 0))
  else if t.total < moved then (s.closeTransfer e t.id).send e (abortWords h (abortCode 4 0))
  else if h.last then s.finishWrite e t h.toggle moved (t.data ++ data)
  else (s.onTransfer e t.id (fun x => { x with data := t.data ++ data, moved := moved, toggle := !t.toggle, lastBeat := s.time.beat })).send
    e (ackWords h 0)

/-- The answer to a SEGMENT: a repeated TOGGLE is answered again and not applied again (R316, R318, R338). -/
def State.doSegment (s : State) (p : Path) (h : OamHead) (offset : Nat) (data : List Nat) : State :=
  let e := p.ep
  match s.transferOf p h.transfer with
  | some t =>
    if !t.write || t.indirect.isSome then s.send e (abortWords h (abortCode 6 0))
    else if t.whole && h.toggle == t.toggle then s.onTransfer e t.id (fun x => { x with again := x.again + 1 })
    else if t.whole then s.send e (abortWords h (abortCode 5 0))
    else if h.toggle == t.toggle then s.takeSegment e h offset data t
    else if t.moved == 0 then s.send e (abortWords h (abortCode 5 0))
    else (s.onTransfer e t.id (fun x => { x with lastBeat := s.time.beat })).send e (ackWords h 0)
  | none => s.answerEnded p h true

/-- The words of a SEGMENT of the client. -/
def clientSegment (h : OamHead) (offset : Nat) (data : List Nat) : List Nat := [oamWord 4 h, offset % 2 ^ 32] ++ dataWords 6 data

/-- SEGMENT (R316). -/
def execSegment (cyc : Nat) (path : Path) (head : OamHead) (offset : Nat) (data : List Nat) (s : State) : Result :=
  s.inBlockOf (s.farPath path.ep) (fun s =>
    let w := clientSegment head offset data
    if head.count == data.length && 1 ≤ data.length && data.length ≤ 48 then
      s.answerMsg path head w (fun t =>
        (if head.last then t.given (t.stampFor cyc) else t).doSegment path head (offset % 2 ^ 32) data)
    else .next s)

/-- The DMA of an indirect transfer has ended: a write is applied, or its load made ready; a read answers READ_INITIATE with
LAST 1; an error answers DMA (R317). -/
def State.indirectDone (s : State) (e : Endpoint) (t : Transfer) (data : List Nat) : State :=
  if t.failed then (s.closeTransfer e t.id).send e (abortWords t.head (abortCode 0xF 0))
  else if t.write then s.finishWrite e t false t.total data
  else (s.closeTransfer e t.id).send e (initiateWords t.head true t.total)

/-- An indirect transfer has DMA requests of its own outstanding. -/
def State.indirectBusy (s : State) (e : Endpoint) (id : Nat) : Bool :=
  s.dmaAny (fun u => match u with | .indirect f k => f == e && k == id | _ => false)

/-- The entry that a transfer writes is a load point: a write-only DOMAIN. -/
def State.loadPoint (s : State) (t : Transfer) : Bool := match s.object t.principal t.index t.sub with
  | some o => o.access == .wo
  | none => false

/-- INDIRECT_TRANSFER_COMPLETE (R317): the bytes of a staged entry are those fetched; those of an image are what its load row
brings. -/
def execIndirectTransferComplete (cyc : Nat) (ep : Endpoint) (transfer : Nat) (error : Bool) (data : List Nat) (s : State) : Result :=
  s.inBlockOf (s.farPath ep) (fun s =>
    match s.transfer ep transfer with
    | some t =>
      let loads := s.loadPoint t
      onlyIf (s.mgrUp && t.indirect.isSome && !t.whole && error == t.failed && !s.indirectBusy ep transfer
          && (loads || !t.write || t.failed || data.length == t.total))
        ((s.given (s.stampFor cyc)).indirectDone ep t (if loads then [] else data)) s
    | none => .next s)

/-! Ends of transfers. -/

/-- The client's own transfer ended: closed, with no answer kept; another principal's stands (R318, R338). -/
def State.abortOwn (s : State) (p : Path) (id : Nat) : State :=
  if (s.transfer p.ep id).all (fun t => t.principal == s.principal p) then (s.closeTransfer p.ep id).forget p.ep id else s

/-- ABORT (R318): the client ends its transfer; nothing is applied and nothing is answered. -/
def execAbort (_cyc : Nat) (path : Path) (head : OamHead) (code : Nat) (s : State) : Result :=
  s.inBlockOf (s.farPath path.ep) (fun s =>
    let w := [oamWord 7 head, code % 2 ^ 32]
    let act (t : State) : State := t.abortOwn path head.transfer
    if s.ofAlone path.ep head then onlyIf (s.arrives path w) (act (s.takeIn path.ep w)) s else s.answerMsg path head w act)

/-- Commands a client may not send: the reserved ones and those of the block (R314). -/
def cmdBarred (cmd : Nat) : Bool := cmd == 0 || cmd == 6 || 8 ≤ cmd

/-- The window's next record opens with a header of a barred CMD and these fields. -/
def State.barredNext (s : State) (h : OamHead) : Bool := match s.windowRecord with
  | some (w :: rest) => intact (w :: rest) && cmdBarred (bits 63 60 w.data)
      && oamWord 0 h == packMsb [(8, 0), (44, bits 55 12 w.data), (12, 0)] && rest.length ≤ 7
  | _ => false

/-- A message that no command of the table spells is answered with ABORT COMMAND, or with UNREACHABLE by a target that no live manager
can be reached from (R310, R314). -/
def State.answerBarred (s : State) (e : Endpoint) (h : OamHead) : State :=
  s.send e (abortWords h (if s.reaches_ e then abortCode 5 0 else abortCode 0xE 0))

/-- OAM_RESERVED_CMD (R314, R319): answered with ABORT COMMAND. -/
def execOamReservedCmd (by_ : PathAt) (head : OamHead) (s : State) : Result :=
  s.inBlockOf (s.farPath by_.path.ep) (fun s =>
    let w := [oamWord 0 head]
    let ok := s.pathOpen by_.path.ep && s.epTurn by_.path.ep && s.pathStands by_.path && (by_.path.ep != .window || s.barredNext head)
    onlyIf ok (((s.onCycle by_.cyc).takeIn by_.path.ep w).answerBarred by_.path.ep head) s)

/-- Words that a header word implies, itself included; none for a barred CMD (R314). -/
def impliedWords (w : Nat) : Option Nat :=
  let cmd := bits 63 60 w
  if cmd == 1 || cmd == 3 then some (if bit 12 w then 3 else 2)
  else if cmd == 2 || cmd == 5 || cmd == 7 then some 2
  else if cmd == 4 then some (2 + ceilDiv (bits 23 18 w) 8)
  else none

/-- A record of queue 1 that is discarded whole: a word TORN or POISON, or a length its header does not imply, a SEGMENT's COUNT
outside 1 to 48 included (R313). -/
def discarded (r : List QWord) : Bool :=
  !intact r || 8 < r.length || (match r with
    | w :: _ => (match impliedWords w.data with
        | some n => n != r.length || (bits 63 60 w.data == 4 && !(1 ≤ bits 23 18 w.data && bits 23 18 w.data ≤ 48))
        | none => false)
    | [] => false)

/-- The window's next record is discarded, its header word intact or not. -/
def State.discardNext (s : State) (h : OamHead) (headIntact : Bool) : Bool := match s.windowRecord with
  | some (w :: rest) => discarded (w :: rest) && headIntact == intact [w]
      && (!headIntact || oamWord 0 h == packMsb [(8, 0), (44, bits 55 12 w.data), (12, 0)])
  | _ => false

/-- OAM_DISCARD (R313): counted, and answered with ABORT COMMAND where its header word was delivered intact. -/
def execOamDiscard (by_ : PathAt) (head : OamHead) (headIntact : Bool) (s : State) : Result :=
  s.inBlockOf (s.farPath by_.path.ep) (fun s =>
    let ok := s.pathOpen by_.path.ep && s.epTurn by_.path.ep && s.pathStands by_.path && (by_.path.ep != .window || s.discardNext head headIntact)
    let t := ((s.onCycle by_.cyc).takeIn by_.path.ep [oamWord 0 head]).count (fun c => { c with oamDiscards := c.oamDiscards + 1 })
    onlyIf ok (if headIntact then t.answerBarred by_.path.ep head else t) s)

/-- A transfer has stood idle for 4,000 beats: no message, no DMA and no load is awaited by the block (R318). -/
def Transfer.idle (t : Transfer) (beat : Nat) : Bool := t.indirect.isNone && !t.whole && t.lastBeat + 4000 ≤ beat

/-- TRANSFER_TIMEOUT (R318). -/
def execTransferTimeout (ep : Endpoint) (transfer : Nat) (s : State) : Result :=
  s.inBlockOf (s.farPath ep) (fun s =>
    match s.transfer ep transfer with
    | some t => onlyIf ((s.mgrUp || t.alone) && t.idle s.time.beat) ((s.closeTransfer ep transfer).send ep (abortWords t.head (abortCode 8 0))) s
    | none => .next s)

/-! The window's registers (R311). -/

/-- OW_PUSH (R311): a word pushed into queue 1 with EOR 0. -/
def execOwPush (put : WordAt) (s : State) : Result :=
  let s' := s.onCycle put.cyc
  onlyIf s.mgrUp (s'.closeCycles.putIn .window (qPush s'.now put.word false (s'.closeCycles.inQueue .window))) s

/-- OW_PUSH_LAST (R311): a word pushed into queue 1 with EOR 1. -/
def execOwPushLast (put : WordAt) (s : State) : Result :=
  let s' := s.onCycle put.cyc
  onlyIf s.mgrUp (s'.closeCycles.putIn .window (qPush s'.now put.word true (s'.closeCycles.inQueue .window))) s

end Sys2Proof.Machine
end

