-- ==== Sys2Proof/Machine/Loads.lean ====
section
/-! DEFINITION. The loads through write-only DOMAIN entries: step programs (R51 to R60, R114, R120, R129, R160, R362), stream tables
(R133, R134), kernels (R159), and sealed images of models, indexes, rule sets and detokenisers (R203, R233, R265, R269, R342 to R344).
What an image holds comes as an operand of the row, as its transfer carried it. -/

namespace Sys2Proof.Machine

/-! The frame of every load. -/

/-- What a load does: the state after it, or an abort code. -/
abbrev LoadAct := Transfer → State → State × Option Nat

/-- LOAD_REFUSED (R319). -/
def loadRefused (detail : Nat) : Nat := abortCode 9 detail

/-- A load that is refused. -/
def refuseLoad (code : Nat) (s : State) : State × Option Nat := (s, some code)

/-- A load that is done. -/
def acceptLoad (s : State) : State × Option Nat := (s, none)

/-- A load performed for a transfer whose bytes are all there, at its stamp: answered by ACK, or by an abort code; in hush it
answers BUSY (R316, R323, R395). -/
def State.load (s : State) (cyc : Nat) (p : Path) (id index sub : Nat) (act : LoadAct) : Result :=
  s.inBlockOf (s.farPath p.ep) (fun s =>
    match s.transfer p.ep id with
    | some t =>
      let s' := (s.given (s.stampFor cyc)).closeTransfer p.ep id
      let r := if s.power.hush == 0 then act t s' else refuseLoad (abortCode 7 0) s'
      onlyIf (s.mgrUp && t.whole && t.index == index && t.sub == sub)
        (match r.2 with
         | none => r.1.finishLoad p.ep t (ackWords { t.head with toggle := t.toggle } 0)
         | some code => r.1.finishLoad p.ep t (abortWords t.head code)) s
    | none => .next s)

/-! Step programs. -/

/-- Staging SRAM that a partition can hold on a segment: its LC floor and the whole shared region (R65), in 64 KiB units. -/
def State.stagingRoom (s : State) (i p : Nat) : Nat :=
  16 * ((s.part p).lcFloor + (96 - sumNat ((s.floorsOn i).map (fun q => (s.part q).lcFloor))))

/-- The segments that a partition's programs may name (R51). -/
def State.programSegs (s : State) (p : Nat) : Nat := if p == 15 then 2 ^ s.segs.length - 1 else (s.part p).segMask

/-- The header of a program stands, its bytes, its CRC and its version first (R9, R51, R52). -/
def headerWhole (img : ProgramImage) (total : Nat) : Bool :=
  img.magic == 0x4B53 && img.major == 3 && img.minor ≤ 2 && img.crc == crc32c img.image && img.bytes == total
    && total == img.image.length
    && img.descCount == img.slots.length && 1 ≤ img.descCount

/-- The remaining fields of the header stand (R51). -/
def State.headerStands (s : State) (p : Nat) (img : ProgramImage) : Bool :=
  img.part == p && img.mask != 0 && img.mask &&& s.programSegs p == img.mask && img.wcet != 0
    && 1 ≤ img.staging && img.staging ≤ 1536 && img.clock ≤ s.glob.planClock
    && img.segs.all (fun i => img.staging ≤ s.stagingRoom i p) && img.decodeMax ≤ 4096 && img.passTarget ≤ 4096

/-- A row list template stands (R60). -/
def templateStands (t : RowTmpl) : Bool :=
  t.entries.length == tmplFixed t + tmplDecode t + tmplPrefill t && t.entries.length ≤ 4096
    && (tmplFixed t == 0 || (tmplDecode t == 0 && tmplPrefill t == 0))

/-- Strictly ascending. -/
def ascending : List Nat → Bool
  | a :: b :: rest => a < b && ascending (b :: rest)
  | _ => true

/-- An outlier list stands by itself (R113, R114). -/
def outlierStands (o : OutList) : Bool := outCount o ≤ 32 && o.entries.length == outCount o && ascending (outChannels o)

/-- AFTER names an earlier descriptor, or none (R51, R53). -/
def afterStands (cont : List Bool) (i after : Nat) : Bool := after == 0xFFFF || (after < i && !cont.getD after true)

/-- The rescale table of a sweep stands on a segment (R114, R120). -/
def tableStands (img : ProgramImage) (w : Nat) (t : Option RTable) : Bool := match t with
  | some t =>
    rtMagic t.header == 0x5254 && rtDepth t.header == sweepPasses w && sweepColTile w < rtColTiles t.header
      && 1 + rtColTiles t.header * outUnits (sweepOutfmt w) ≤ rtPitch t.header
      && (sweepChannels img w).length ≤ rtSide t.header
  | none => false

/-- The bank that a sweep may name (R80): bank 1 in a program of the screen partition, bank 0 in any other LC program. -/
def bankStands (p : Nat) (c : Cls) (bank1 : Bool) : Bool := if p == 15 then bank1 else c == .be || !bank1

/-- A sweep descriptor stands in slot i (R51, R55, R80, R114, R120). -/
def State.sweepStands (s : State) (p : Nat) (img : ProgramImage) (cont : List Bool) (i w : Nat) : Bool :=
  sweepWfmt w != 3 && sweepOutfmt w != 3 && sweepAct w ≤ 3 && 1 ≤ sweepPasses w && sweepPasses w ≤ (if sweepAfmt w then 256 else 512)
    && sweepRowList w < img.rowLists.length && afterStands cont i (sweepAfter w) && bankStands p img.cls (sweepBank w)
    && (sweepOutlier w == 63 || sweepOutlier w < img.outliers.length)
    && (sweepChannels img w).all (fun c => c < 256 * sweepPasses w)
    && (!sweepFuse w || sweepOutfmt w == 0) && !(sweepOutfmt w == 1 && 60 ≤ sweepColTile w)
    && ((img.slots.drop (i + 1)).take (sweepPasses w)).length == sweepPasses w
    && ((img.slots.drop (i + 1)).take (sweepPasses w)).all (fun x => dType x == 1)
    && img.segs.all (fun j => tableStands img w (s.rtable j p (sweepTable w)))

/-- A kernel descriptor stands (R51, R57, R160). -/
def State.kernelStands (s : State) (p : Nat) (cont : List Bool) (i w : Nat) : Bool :=
  ((s.part p).kernel (kernelId w)).isSome && 1 ≤ kernelThreads w && kernelThreads w ≤ slotsOfKind p && 1 ≤ kernelArgLen w
    && afterStands cont i (kernelAfter w)

/-- A stream lies in the range of a partition and class (R132). -/
def streamOwned (p : Nat) (c : Cls) (n : Nat) : Bool :=
  n / 4096 == p && (match c with | .lc => n % 4096 < 2048 | .be => 2048 ≤ n % 4096)

/-- A transfer descriptor stands, given its two slots (R51, R58, R129, R362). -/
def State.xferStands (s : State) (p : Nat) (img : ProgramImage) (cont : List Bool) (i w : Nat) : Bool :=
  let w2 := img.slot (i + 1)
  let kind := xferKind w
  let klf := kind == 2 || kind == 3 || kind == 6
  kind ≤ 6 && i + 1 < img.slots.length && (xferDest w < 20 || xferDest w == 31) && xferRedop w != 3 && afterStands cont i (xferAfter w)
    && xferSrc w2 % 64 == 0 && xferDst w2 % 64 == 0
    && (!klf || (p != 15 && xferLen w % 8 == 0 && xferLen w ≤ 8 * 2 ^ 20 && streamOwned p img.cls (xferStream w)
        && (s.part p).streams.any (fun x => x.id == xferStream w) && (kind == 3) == (xferRedop w != 0)
        && (kind == 6 || xferDest w == 31 || img.mask.testBit (xferDest w))))

/-- The pass in slot i stands among the passes of a sweep: PASSES of a sweep at most as many slots before it (R51). -/
def passStands (img : ProgramImage) (cont : List Bool) (i : Nat) : Bool :=
  (List.range i).any (fun j =>
    !cont.getD j true && dType (img.slot j) == 2 && i ≤ j + sweepPasses (img.slot j)
      && (List.range (i - j - 1)).all (fun k => dType (img.slot (j + 1 + k)) == 1))

/-- The descriptor that opens in slot i stands. -/
def State.slotStands (s : State) (p : Nat) (img : ProgramImage) (cont : List Bool) (i : Nat) : Bool :=
  let w := img.slot i
  if cont.getD i false then true
  else if dType w == 1 then passStands img cont i
  else if dType w == 2 then s.sweepStands p img cont i w
  else if dType w == 3 then s.kernelStands p cont i w
  else if dType w == 4 then s.xferStands p img cont i w
  else dType w == 5 && i + 1 == img.slots.length

/-- The last slot is the program's commit descriptor (R51). -/
def commitLast (img : ProgramImage) (cont : List Bool) : Bool :=
  dType img.commitDesc == 5 && !cont.getD (img.slots.length - 1) true

/-- Why a program is refused: the detail of LOAD_REFUSED, its first failing slot or 0xFFFF (R51, R319). -/
def State.programFault (s : State) (p total : Nat) (img : ProgramImage) : Option Nat :=
  let cont := continuation false img.slots
  if !headerWhole img total then some 0xFFFF
  else
    match (List.range img.slots.length).find? (fun i => !s.slotStands p img cont i) with
    | some i => some i
    | none =>
      if s.headerStands p img && commitLast img cont && img.rowLists.all templateStands && img.outliers.all outlierStands then none
      else some 0xFFFF

/-- WCET_BT as a program takes it: rescaled to the 1,600 MHz of reduced service while that lasts (R391). -/
def State.loadedWcet (s : State) (img : ProgramImage) : Nat :=
  if s.power.stage < 4 && 1600 < img.clock then rescaledWcet 1600 img else img.wcet

/-- A loop of the partition runs a program. -/
def Partition.runs (q : Partition) (id : Nat) : Bool :=
  (q.lc.running && q.lc.programId == id) || (q.be.running && q.be.programId == id)

/-- A step program loaded: made resident, or put in the place of the resident program of its identifier (R51). -/
def loadProgram (p : Nat) (img : ProgramImage) : LoadAct := fun t s =>
  let q := s.part p
  let g : Program := { id := img.id, image := img, wcet := s.loadedWcet img }
  match s.programFault p t.total img with
  | some d => refuseLoad (loadRefused d) s
  | none =>
    match q.program img.id with
    | some old =>
      if q.runs img.id && old.image.cls != img.cls then refuseLoad (abortCode 0xB 0) s
      else if p == 15 && s.screenTooSlow g.wcet then refuseLoad (loadRefused 0xFFFF) s
      else acceptLoad (s.onPart p (fun q => { q with programs := q.programs.map (fun x => if x.id == img.id then g else x) }))
    | none =>
      if 64 ≤ q.programs.length then refuseLoad (abortCode 0xC 0) s
      else acceptLoad (s.onPart p (fun q => { q with programs := q.programs ++ [g] }))

/-- PROGRAM_LOAD (R51). -/
def execProgramLoad (cyc : Nat) (path : Path) (transfer part : Nat) (image : ProgramImage) (s : State) : Result :=
  s.load cyc path transfer (0x4000 + part * 0x10) 0x08 (loadProgram part image)

/-! Stream tables. -/

/-- STREAM of a stream table entry (R133). -/
def teStream (e : Nat) : Nat := bits 63 48 e

/-- A positive normal binary32 value. -/
def positiveNormal (x : Nat) : Bool := !bit 31 x && bits 30 23 x != 0 && bits 30 23 x != 255

/-- A stream table stands (R133). -/
def streamTableStands (p : Nat) (entries : List Nat) : Bool :=
  entries.all (fun e => teStream e / 4096 == p && positiveNormal (bits 31 0 e)) && (entries.map teStream).Nodup

/-- A stream as a table entry leaves it (R134). -/
def streamLoaded (quiet : Bool) (e : Nat) (x : StreamS) : StreamS :=
  let v : F32 := BitVec.ofNat 32 e
  if !x.used then { x with init := v, s := v }
  else if !bit 32 e then x
  else if quiet then { x with init := v, s := v, run := 0 }
  else { x with init := v, reset := true }

/-- The streams of a partition after an entry, in ascending order. -/
def putStream (quiet : Bool) (l : List StreamS) (e : Nat) : List StreamS :=
  let n := teStream e
  if l.any (fun x => x.id == n) then l.map (fun x => if x.id == n then streamLoaded quiet e x else x)
  else insertBy (fun a b => a.id < b.id) (streamLoaded quiet e { id := n }) l

/-- A stream table loaded (R133, R134). -/
def loadStreams (p : Nat) (entries : List Nat) : LoadAct := fun t s =>
  let quiet := (s.stepOf p .lc).isNone && (s.stepOf p .be).isNone
  if t.total != 8 * entries.length || 4096 < entries.length then refuseLoad (abortCode 4 0) s
  else if !streamTableStands p entries then refuseLoad (loadRefused 0xFFFF) s
  else acceptLoad (s.onPart p (fun q => { q with streams := entries.foldl (putStream quiet) q.streams }))

/-- STREAM_TABLE (R133). -/
def execStreamTable (cyc : Nat) (path : Path) (transfer part : Nat) (entries : List Nat) (s : State) : Result :=
  s.load cyc path transfer (0x4000 + part * 0x10) 0x09 (loadStreams part entries)

/-! Kernels. -/

/-- KiB of each segment's kernel store that a partition's kernels may occupy (R159). -/
def storeKib (p : Nat) : Nat := if p == 15 then 512 else 3584

/-- A kernel loaded (R159, R319). -/
def loadKernel (p : Nat) (img : KernelImage) : LoadAct := fun _ s =>
  let q := s.part p
  let k : Kernel := { id := img.id, abi := img.abi, bytes := img.bytes, digest := Config.sha384 img.content }
  if !img.sigOk then refuseLoad (abortCode 0xA 0) s
  else if (q.kernel img.id).isSome then refuseLoad (abortCode 0xB 0) s
  else if 256 ≤ q.kernels.length || storeKib p < sumNat (q.kernels.map (fun x => kib x.bytes)) + kib img.bytes then
    refuseLoad (abortCode 0xC 0) s
  else acceptLoad (s.onPart p (fun q => { q with kernels := insertBy (fun a b => a.id < b.id) k q.kernels }))

/-- KERNEL_LOAD (R159). -/
def execKernelLoad (cyc : Nat) (path : Path) (transfer part : Nat) (image : KernelImage) (s : State) : Result :=
  s.load cyc path transfer (0x4000 + part * 0x10) 0x0B (loadKernel part image)

/-! Sealed images. -/

/-- KIND of a sealed image (R342). -/
def siKind (h : Nat) : Nat := bits 487 484 h
/-- PARTITION of a sealed image (R342). -/
def siPart (h : Nat) : Nat := bits 483 480 h
/-- OBJECT_ID of a sealed image (R342). -/
def siId (h : Nat) : Nat := bits 479 464 h
/-- CHUNKS of a sealed image (R342). -/
def siChunks (h : Nat) : Nat := bits 415 384 h
/-- CONTENT_BYTES of a sealed image (R342). -/
def siContent (h : Nat) : Nat := bits 383 320 h

/-- A sealed image is accepted (R342, R343). -/
def State.sealStands (s : State) (kind : Nat) (part : Option Nat) (total : Nat) (img : SealedImage) : Bool :=
  let h := img.header
  bits 511 496 h == 0x4B4D && bits 495 488 h == 3 && siKind h == kind && (part.isNone || part == some (siPart h))
    && siChunks h == ceilDiv (siContent h) 1048576 && img.bytes == 320 + siContent h + 16 * siChunks h && img.bytes == total
    && imageOpens img (siContent h) (s.seg s.roles.manager).trust.imageKey && img.chunks.length == siChunks h
    && s.glob.ownerKeys.any (fun k => k.1 == imageOwnerHash img && k.2.testBit kind)

/-- The image digest (R343). -/
def SealedImage_digest (img : SealedImage) : Nat := Config.sha384 (bytesLe 64 img.header ++ img.content)

/-- A sealed load: refused in BLANK and RETIRED (R328), and where the seal fails, which is counted (R343). -/
def sealedLoad (kind code : Nat) (part : Option Nat) (img : SealedImage) (act : LoadAct) : LoadAct := fun t s =>
  if s.lifecycle == .blank || s.lifecycle == .retired then refuseLoad (abortCode 0xD 0) s
  else if s.sealStands kind part t.total img then act t s
  else refuseLoad code (s.count (fun c => { c with imageFails := c.imageFails + 1 }))

/-! Models. -/

/-- A model descriptor stands (R203). -/
def modelDescStands (id : Nat) (m : Model) : Bool :=
  m.id == id && 2 ≤ m.vocab && m.vocab ≤ 262143 && m.eos < m.vocab && 2 ≤ m.contextMax && m.contextMax ≤ 65536 && 1 ≤ m.layers
    && m.layers * m.heads ≤ 1024

/-- A rescale table holds what R118 lays out: its tiles and outlier slots in range, 256 entries a tile and a side row of 256 weights
for each outlier slot of each tile. -/
def tableWhole (t : RTable) : Bool :=
  let n := rtColTiles t.header
  rtMagic t.header == 0x5254 && 1 ≤ n && n ≤ 4096 && rtSide t.header ≤ 32 && t.entries.length == 256 * n
    && t.side.length == n * rtSide t.header && t.side.all (fun r => r.length == 256)

/-- Bytes of a rescale table: its 64-byte header, 4,096 bytes of entries a tile, and 512 bytes a side row (R118). -/
def tableSize (t : RTable) : Nat := 64 + rtColTiles t.header * (4096 + rtSide t.header * 512)

/-- Two tables are one table of a segment: they bear one number and serve a segment in common. -/
def sameTable (a b : RTable) : Bool := a.num == b.num && (a.seg.isNone || b.seg.isNone || a.seg == b.seg)

/-- A resident program of a partition names a table by its number (R120). -/
def Partition.namesTable (q : Partition) (n : Nat) : Bool :=
  q.programs.any (fun g => ((g.image.slots.zip (continuation false g.image.slots)).filter (fun w => !w.2 && dType w.1 == 2)).any (fun w =>
    sweepTable w.1 == n))

/-- An image would replace a resident table that a resident program names (R120). -/
def Partition.tableHeld (q : Partition) (l : List RTable) : Bool :=
  l.any (fun t => q.namesTable t.num && q.models.any (fun m => m.tables.any (sameTable t)))

/-- The models of a partition without the tables that an image replaces. -/
def tablesReplaced (l : List RTable) (m : Model) : Model := { m with tables := m.tables.filter (fun x => !l.any (sameTable x)) }

/-- Byte address and size of the region that a partition's models lie in: its model area, or the screen region (R173, R344). -/
def State.modelRegion (s : State) (p : Nat) : Nat × Nat :=
  if p == 15 then (2 ^ 28, s.screenMib * 2 ^ 20) else ((s.regionBases p).1, (s.part p).modelArea * 2 ^ 30)

/-- Bytes that an image places on its fullest segment: its weights, and its rescale tables that serve the segment. -/
def placedBytes (l : List (Nat × Nat × List Nat)) (tables : List RTable) : Nat :=
  let own (i : Nat) : Nat := sumNat ((tables.filter (fun t => t.seg.isNone || t.seg == some i)).map tableSize)
  ((l.map (·.1)).eraseDups.map (fun i => own i + sumNat ((l.filter (fun w => w.1 == i)).map (fun w => w.2.2.length)))).foldl max 0

/-- Bytes placed in the stacks. -/
def State.placeBytes (s : State) (base : Nat) (everywhere : Bool) (l : List (Nat × Nat × List Nat)) : State :=
  let place (i : Nat) (m : Memory) : Memory :=
    (l.filter (fun w => everywhere || w.1 == i)).foldl (fun m w => memWriteBytes m (base + w.2.1) w.2.2) m
  s.onSegs (fun i g => { g with stack := { g.stack with mem := place i g.stack.mem } })

/-- What names a model and keeps it from being removed (R344). -/
def State.modelNamed (s : State) (p : Nat) (m : Model) : Bool :=
  s.parts.any (fun q => q.targetModel == m.id || q.draftModel == m.id || q.policy.inClassifier == m.id || q.policy.outClassifier == m.id
      || q.policy.screenModel == m.id)
    || s.indexes.any (fun x => ixEncoder x.desc == m.id || ixRerank x.desc == m.id)
    || m.tables.any (fun t => (s.part p).namesTable t.num)

/-- A screen-locked policy names a model as its classifier (R264). -/
def State.classifierLocked (s : State) (id : Nat) : Bool :=
  s.parts.any (fun q => q.policy.lock && (q.policy.inClassifier == id || q.policy.outClassifier == id))

/-- A model removed (R342, R344). -/
def removeModel (p id : Nat) : LoadAct := fun _ s =>
  match (s.part p).model id with
  | some m =>
    if s.classifierLocked id then refuseLoad (abortCode 0xD 0) s
    else if s.modelNamed p m then refuseLoad (abortCode 0xB 0) s
    else acceptLoad (s.onPart p (fun q => { q with models := q.models.filter (fun x => x.id != id) }))
  | none => acceptLoad s

/-- A model made resident (R344). -/
def addModel (p : Nat) (img : SealedImage) (plain : ModelPlain) : LoadAct := fun _ s =>
  let m : Model := { id := mdId plain.desc, desc := plain.desc, bytes := placedBytes plain.weights plain.tables, tables := plain.tables,
                     digest := SealedImage_digest img }
  let r := s.modelRegion p
  if (s.anyModel (siId img.header)).isSome then refuseLoad (abortCode 0xB 0) s
  else if (s.part p).tableHeld plain.tables then refuseLoad (abortCode 0xB 0) s
  else if !modelDescStands (siId img.header) m || !plain.tables.all tableWhole || plain.weights.any (fun w => w.2.1 < r.1 || r.1 + r.2 < w.2.1 + w.2.2.length) then
    refuseLoad (loadRefused 0xFFFF) s
  else if r.2 < sumNat ((s.part p).models.map (·.bytes)) + m.bytes then refuseLoad (abortCode 0xC 0) s
  else
    let s := s.onPart p (fun q => { q with models := insertBy (fun a b => a.id < b.id) m (q.models.map (tablesReplaced plain.tables)) })
    acceptLoad (s.placeBytes 0 (p == 15) plain.weights)

/-- MODEL_LOAD (R343, R344). -/
def execModelLoad (cyc : Nat) (path : Path) (transfer part : Nat) (image : SealedImage) (plain : ModelPlain) (s : State) : Result :=
  s.load cyc path transfer (0x4000 + part * 0x10) 0x1E (sealedLoad 0 (abortCode 0xA 0) (some part) image
    (if siContent image.header == 0 then removeModel part (siId image.header) else addModel part image plain))

/-! Indexes. -/

/-- A retrieval plan uses an index (R233). -/
def State.indexBusy (s : State) (id : Nat) : Bool :=
  s.seqs.any (fun e => match e.2.plan with
    | some pl => pl.indexId == id && pl.endedAt.isNone
    | none => false)

/-- An index descriptor stands for a partition of n segments (R231, R232). -/
def indexDescStands (p n : Nat) (plain : IndexPlain) : Bool :=
  let d := plain.desc
  ixPart d == p && 1 ≤ ixDepth d && ixDepth d ≤ 16 && 0 < ixNlist d && ixNlist d % (256 * max 1 n) == 0
    && plain.maxCount ≤ ixMaxSub d && 16 ≤ ixRerankTokens d && ixRerankTokens d ≤ 512

/-- Bytes of a retrieval area before its LUT store and passage store (R232). -/
def State.indexRoom (s : State) (p : Nat) : Nat := (s.part p).retrievalArea * 2 ^ 30 - 80 * 2 ^ 20

/-- The other indexes of a partition: place and bytes. -/
def State.otherIndexes (s : State) (p id : Nat) : List (Nat × Nat) :=
  (s.indexes.filter (fun x => x.part == p && x.id != id)).map (fun x => (ixOffset x.desc * 4096, x.segBytes))

/-- A place is free for an index of some bytes. -/
def placeFree (room : Nat) (others : List (Nat × Nat)) (n at_ : Nat) : Bool :=
  at_ + n ≤ room && others.all (fun o => !overlaps o.1 o.2 at_ n)

/-- Some place is free for it: at the start of the area, or after another index. -/
def indexFits (room : Nat) (others : List (Nat × Nat)) (n : Nat) : Bool :=
  (0 :: others.map (fun o => ceilDiv (o.1 + o.2) 4096 * 4096)).any (placeFree room others n)

/-- Vectors on the segment at a place of a partition, over all of its indexes but one. -/
def State.segVectors (s : State) (p id place : Nat) : Nat :=
  sumNat ((s.indexes.filter (fun x => x.part == p && x.id != id)).map (fun x => x.segVectors.getD place 0))

/-- An index would put more than 600,000,000 vectors on one segment (R233). -/
def State.vectorsExceed (s : State) (p id : Nat) (plain : IndexPlain) : Bool :=
  (List.range (max 1 (s.partSegs p).length)).any (fun k => 600000000 < s.segVectors p id k + plain.segVectors.getD k 0)

/-- What refuses an index beyond its seal (R233). -/
def State.indexBarred (s : State) (p id : Nat) (plain : IndexPlain) : Bool :=
  let q := s.part p
  !indexDescStands p (s.partSegs p).length plain || ixId plain.desc != id
    || s.vectorsExceed p id plain
    || !indexFits (s.indexRoom p) (s.otherIndexes p id) plain.segBytes
    || (q.model (ixEncoder plain.desc)).isNone || (ixRerank plain.desc != 0xFFFF && (q.model (ixRerank plain.desc)).isNone)

/-- An index loaded, replaced or removed. AREA_OFFSET, which the block fills in at a place it does not state, comes with the
descriptor (R230, R233). -/
def loadIndex (p : Nat) (img : SealedImage) (plain : IndexPlain) : LoadAct := fun _ s =>
  let id := siId img.header
  let rest := s.indexes.filter (fun x => x.id != id)
  let x : Index := { id := id, part := p, desc := plain.desc, segVectors := plain.segVectors, segBytes := plain.segBytes,
                     digest := SealedImage_digest img }
  if s.indexBusy id then refuseLoad (loadRefused 0xFFFF) s
  else if siContent img.header == 0 || ixVectors plain.desc == 0 then acceptLoad { s with indexes := rest }
  else if s.indexBarred p id plain then refuseLoad (loadRefused 0xFFFF) s
  else if 16 ≤ rest.length then refuseLoad (abortCode 0xC 0) s
  else
    let t := { s with indexes := insertBy (fun a b => a.id < b.id) x rest }
    acceptLoad (t.placeBytes (t.indexBase x) false plain.content)

/-- The place that the descriptor names is free, where the index is placed at all. -/
def State.indexPlaced (s : State) (p : Nat) (img : SealedImage) (plain : IndexPlain) : Bool :=
  siContent img.header == 0 || ixVectors plain.desc == 0 || s.indexBarred p (siId img.header) plain
    || placeFree (s.indexRoom p) (s.otherIndexes p (siId img.header)) plain.segBytes (ixOffset plain.desc * 4096)

/-- INDEX_LOAD (R233). -/
def execIndexLoad (cyc : Nat) (path : Path) (transfer part : Nat) (image : SealedImage) (plain : IndexPlain) (s : State) : Result :=
  if s.indexPlaced part image plain then
    s.load cyc path transfer (0x4000 + part * 0x10) 0x1C (sealedLoad 1 (loadRefused 0xFFFF) none image (loadIndex part image plain))
  else .next s

/-! Rule sets. -/

/-- The match list from an index on ends with LAST (R266). -/
def listEnds (l : List Nat) (from_ : Nat) : Bool := (l.drop from_).any (bit 31)

/-- The tables of an automaton stand (R265, R266). -/
def automatonStands (p : RulePlain) : Bool :=
  let h := p.header
  1 ≤ rsStates h && 1 ≤ rsClasses h && rsClasses h ≤ 256 && rsPatterns h ≤ 16384 && rsStart h < rsStates h
    && p.classMap.length == (if rsKind h == 0 then 256 else rsVocab h) && p.classMap.all (fun c => c < rsClasses h)
    && p.trans.length == rsStates h * rsClasses h && p.patterns.length == rsPatterns h
    && p.trans.all (fun e => bits 31 16 e < rsStates h && (!bit 15 e || listEnds p.matchList (bits 14 0 e)))
    && p.matchList.all (fun e => bits 13 0 e < rsPatterns h)
    && p.patterns.all (fun e => bits 63 60 e ≤ 4 && 1 ≤ bits 47 43 e && bits 47 43 e ≤ 16)

/-- A verdict map stands (R271). -/
def mapStands (p : RulePlain) : Bool :=
  bits 127 120 p.mapHead ≤ 16 && (bits 119 116 p.mapHead == 0 || bits 119 116 p.mapHead == 4)
    && p.replacement.length == 16 && p.categories.length == 32 && p.categories.all (fun e => bits 31 28 e ≤ 4)

/-- Bytes of a rule set's plaintext (R265, R266, R271). -/
def ruleBytes (p : RulePlain) : Nat :=
  64 + (if rsKind p.header < 2 then tableBytes p else if rsKind p.header == 2 then 16 + 64 + 32 * 8 else 0)

/-- A rule set's plaintext stands (R265). -/
def ruleStands (id content : Nat) (p : RulePlain) : Bool :=
  let h := p.header
  rsMagic h == 0x534E && rsMajor h == 3 && rsKind h ≤ 3 && rsId h == id && rsBytes h == ruleBytes p && content == ruleBytes p
    && (rsKind h == 0 || rsDetok h == 0) && (rsKind h == 1 || rsVocab h == 0)
    && (if rsKind h < 2 then automatonStands p else if rsKind h == 2 then mapStands p else true)

/-- The tables of the slots, one replaced, in bytes (R265). -/
def State.tablesAfter (s : State) (slot : Nat) (p : RulePlain) : Nat :=
  sumNat ((List.range 8).map (fun k => if k == slot then tableBytes p else match s.slotImage k with
    | some r => tableBytes r.plain
    | none => 0))

/-- A screen-locked policy names a slot (R264). -/
def State.slotLocked (s : State) (slot : Nat) : Bool :=
  s.parts.any (fun q => q.policy.lock && (q.policy.inSets.testBit slot || q.policy.outSets.testBit slot || q.policy.verdictMap == slot))

/-- An image suits every policy that attaches its slot (R265, R268). -/
def State.slotFits (s : State) (slot : Nat) (r : RuleSet) : Bool :=
  (List.range 15).all (fun p =>
    let q := (s.part p).policy
    (!(q.inSets.testBit slot || q.outSets.testBit slot) || slotSuits (s.screenVocab p) (some r))
      && (q.verdictMap != slot || rsKind r.plain.header == 2))

/-- The locks that an UNLOCK image clears (R264, R265). -/
def State.unlock (s : State) (mask : Nat) : State :=
  let clear (p : Partition) : Partition := { p with policy := { p.policy with lock := false } }
  { s with parts := s.parts.zipIdx.map (fun (e : Partition × Nat) => if e.2 < 15 && mask.testBit e.2 then clear e.1 else e.1) }

/-- A slot emptied: no stream steps in it any more (R342). -/
def State.emptySlot (s : State) (slot : Nat) : State :=
  let leave (q : Sequence) : Sequence := { q with autos := q.autos.filter (fun a => a.slot != slot) }
  let s := { s with screen := { s.screen with inForce := aErase slot s.screen.inForce, loaded := aErase slot s.screen.loaded },
                    seqs := s.seqs.map (fun (e : Nat × Sequence) => (e.1, leave e.2)) }
  s.onSegs (fun _ g => { g with snare := { queue := g.snare.queue.filter (fun j => j.slot != slot),
                                            lanes := g.snare.lanes.filter (fun l => l.2.slot != slot) } })

/-- The slots whose rule set has an identifier. -/
def State.slotsOf (s : State) (id : Nat) : List Nat :=
  (List.range 8).filter (fun k => match s.slotImage k with
    | some r => rsId r.plain.header == id
    | none => false)

/-- A rule set removed (R264, R342). -/
def removeRuleset (id : Nat) : LoadAct := fun _ s =>
  if (s.slotsOf id).any s.slotLocked then refuseLoad (abortCode 0xD 0) s
  else acceptLoad ((s.slotsOf id).foldl (fun t k => t.emptySlot k) s)

/-- A rule set loaded into its slot, to come into force later, or an UNLOCK image acted on (R264, R265). -/
def addRuleset (img : SealedImage) (p : RulePlain) : LoadAct := fun _ s =>
  let slot := rsSlot p.header
  let r : RuleSet := { plain := p, digest := SealedImage_digest img, since := s.time.beat }
  if rsKind p.header != 3 && s.slotLocked slot then refuseLoad (abortCode 0xD 0) s
  else if !ruleStands (siId img.header) (siContent img.header) p then refuseLoad (loadRefused 0xFFFF) s
  else if rsKind p.header == 3 then acceptLoad (s.unlock (rsUnlock p.header))
  else if 4 * 2 ^ 20 < s.tablesAfter slot p || !s.slotFits slot r then refuseLoad (loadRefused 0xFFFF) s
  else acceptLoad { s with screen := { s.screen with loaded := aSet slot r s.screen.loaded } }

/-- RULESET_LOAD (R264, R265). -/
def execRulesetLoad (cyc : Nat) (path : Path) (transfer : Nat) (image : SealedImage) (plain : RulePlain) (s : State) : Result :=
  s.load cyc path transfer 0x5000 0x01 (sealedLoad 2 (abortCode 0xA 0) none image
    (if siContent image.header == 0 then removeRuleset (siId image.header) else addRuleset image plain))

/-- No lane of any segment steps a stream in a slot (R265). -/
def State.slotStill (s : State) (slot : Nat) : Bool := s.segs.all (fun g => g.snare.lanes.all (fun l => l.2.slot != slot))

/-- Streams restart in a new rule set from its START state at their next unit (R265). -/
def restartAutos (slot start : Nat) (q : Sequence) : Sequence :=
  { q with autos := q.autos.map (fun a => if a.slot == slot then { a with state := start } else a) }

/-- RULESET_INSTALL (R265): the image loaded comes into force, at the first beat edge after its load at which its slot is still. -/
def execRulesetInstall (slot : Nat) (s : State) : Result :=
  match aGet slot s.screen.loaded with
  | some r =>
    onlyIf (s.mgrUp && s.atEdge && r.since < s.time.beat && s.slotStill slot)
      { s with screen := { s.screen with inForce := aSet slot r s.screen.inForce, loaded := aErase slot s.screen.loaded },
               seqs := s.seqs.map (fun (e : Nat × Sequence) => (e.1, restartAutos slot (rsStart r.plain.header) e.2)) } s
  | none => .next s

/-! Detokenisers. -/

/-- A detokeniser's plaintext stands (R269). -/
def detokStands (id : Nat) (p : DetokPlain) : Bool :=
  let h := p.header
  bits 511 496 h == 0x4454 && bits 495 480 h == id && bits 479 462 h == p.entries.length && bits 461 430 h == p.pool.length
    && p.entries.all (fun e => bits 7 0 e ≤ 48 && bits 31 8 e + bits 7 0 e ≤ p.pool.length)

/-- A resident model, or an attached rule set, names a detokeniser (R269). -/
def State.detokNamed (s : State) (id : Nat) : Bool :=
  s.parts.any (fun q => q.models.any (fun m => m.detok == id))
    || (List.range 8).any (fun k =>
      (match s.slotImage k with
       | some r => rsKind r.plain.header == 0 && rsDetok r.plain.header == id
       | none => false)
        && s.parts.any (fun q => q.policy.inSets.testBit k || q.policy.outSets.testBit k))

/-- A detokeniser loaded, replaced or removed (R269). -/
def loadDetok (img : SealedImage) (p : DetokPlain) : LoadAct := fun _ s =>
  let id := siId img.header
  let rest := s.screen.detoks.filter (fun d => d.id != id)
  let held := (s.detok id).isSome
  let d : Detok := { id := id, vocab := p.entries.length, entries := p.entries, pool := p.pool,
                     digest := SealedImage_digest img }
  if siContent img.header == 0 then
    if held && s.detokNamed id then refuseLoad (abortCode 0xB 0) s else acceptLoad { s with screen := { s.screen with detoks := rest } }
  else if 2 ^ 24 < siContent img.header || 4 ≤ rest.length then refuseLoad (abortCode 0xC 0) s
  else if !detokStands id p || siContent img.header != 64 + 4 * p.entries.length + p.pool.length then refuseLoad (loadRefused 0xFFFF) s
  else if held && s.detokNamed id then refuseLoad (abortCode 0xB 0) s
  else acceptLoad { s with screen := { s.screen with detoks := insertBy (fun a b => a.id < b.id) d rest } }

/-- DETOK_LOAD (R269). -/
def execDetokLoad (cyc : Nat) (path : Path) (transfer : Nat) (image : SealedImage) (plain : DetokPlain) (s : State) : Result :=
  s.load cyc path transfer 0x5000 0x03 (sealedLoad 3 (abortCode 0xA 0) none image (loadDetok image plain))

end Sys2Proof.Machine
end

