-- ==== Sys2Proof/Machine/Trust.lean ====
section
/-! DEFINITION. The Trust Unit (R328 to R349), MCTP control and the I3C targets (R310, R412), the SPDM responder (R335 to R338), and
provisioning (R329, R419). Keys, digests and signatures are the free functions of Config; what arrives signed or sealed comes with the
outcome of its check as an operand (log entry 5). -/

namespace Sys2Proof

/-- The endpoint carries MCTP (R309, R310). -/
def Endpoint.mctp : Endpoint → Bool
  | .pcie => true
  | .i3c _ => true
  | _ => false

end Sys2Proof

namespace Sys2Proof.Machine

/-- What a write of a write-only entry does: the state after it, or an abort code. -/
abbrev WriteAct := State → State × Option Nat

/-! Lifecycle (R328 to R330). -/

/-- The state that the LIFECYCLE fuses give: the number of groups with at least 3 of their 4 fuses blown (R328, R419). -/
def sensedState (fuses : Nat) : Lifecycle :=
  match ((List.range 3).filter (fun k => 3 ≤ (maskBits 4 (fuses / 16 ^ k)).length)).length with
  | 0 => .blank
  | 1 => .provisioned
  | 2 => .secured
  | _ => .retired

/-- A die whose first `n` LIFECYCLE groups are blown, and whose state is sensed anew (R328, R419). -/
def blown (n : Nat) (t : SegTrust) : SegTrust :=
  let f := t.lifeFuses ||| (16 ^ n - 1)
  { t with lifeFuses := f, lifecycle := sensedState f }

/-- A segment that a move to SECURED takes. -/
def securedSegment (g : Segment) : Segment := { g with trust := blown 2 g.trust }

/-- A segment at the move to RETIRED: its work ends as a reset ends it and its Trust Unit zeroises its keys; what the always-on domain
and the fuses hold stands (R330). -/
def retiredSegment (g : Segment) : Segment :=
  let r := resetSegment true g
  { r with inReset := false,
           trust := { blown 3 r.trust with identity := none, identityCert := [], chain := [], imageKey := none, stackKeys := [],
                                           dimCounter := [] } }

/-- The roles that stand when the block is retired: its manager, and what splits it from a far half. -/
def Roles.retired (r : Roles) : Roles :=
  { manager := r.manager, farStandby := r.farStandby, splitState := r.splitState, farHalf := r.farHalf, isSecond := r.isSecond }

/-- The move to RETIRED (R330): every step, admission and fetch ends as a reset ends it, and every key is erased. A half beyond a waist
cut is out of the manager's reach, and the other block of split mode is a block of its own. -/
def State.retire (s : State) : State :=
  let t := s.warmReset
  { t with segs := s.segs.mapIdx (fun i g => if s.roles.farHalf.contains i then g else retiredSegment g), objs := { s.objs with staged := [] },
           trust := {}, roles := s.roles.retired, other := s.other, kept := s.kept,
           power := { s.power with hush := 0, hushAsked := none } }

/-- A write of LIFECYCLE_ADVANCE (R329): a later state than the present one, SECURED or RETIRED, and not from BLANK, which provisioning
alone leaves. DESIGN CHOICE (log entry 40): without the programming enable that the fuse port needs (R419) the write is refused with
LOCKED. -/
def lifecycleWrite (value : Nat) : WriteAct := fun s =>
  if value != 2 && value != 3 || value ≤ lifecycleCode s.lifecycle then (s, some (abortCode 0x10 0))
  else if s.lifecycle == .blank || !s.cfg.progEnable then (s, some (abortCode 0xD 0))
  else if value == 2 then (s.onSegs (fun i g => if s.roles.farHalf.contains i then g else securedSegment g), none)
  else (s.retire, none)

/-! Rotations (R340, R346). -/

/-- The next generation: 1 to 255, then 1 again (R340, R346). -/
def nextGen (n : Nat) : Nat := if 255 ≤ n then 1 else n + 1

/-- Keys of a partition after a rotation of its envelope key. -/
def rotatedEnv (key : Nat) (k : EnvKey) : EnvKey :=
  { k with curId := nextGen k.curId, prevId := k.curId, cur := key, prev := k.cur }

/-- Keys of a partition after a rotation of its dim key: RECORD_ID starts again with the epoch (R194, R346). -/
def rotatedDim (key : Nat) (k : EnvKey) : EnvKey :=
  { k with curEpoch := nextGen k.curEpoch, prevEpoch := k.curEpoch, dimCur := key, dimPrev := k.dimCur, recordId := 0 }

/-- The envelope key of a partition rotated; the new key is mirrored (R332, R340). -/
def State.rotateEnv (s : State) (p : Nat) : State :=
  { s.toStandby with free := s.free + 1,
                     trust := { s.trust with envKeys := modifyAt (rotatedEnv (Config.freshKey s.free)) p s.trust.envKeys } }

/-- The dim key of a partition rotated: every segment's nonce counter starts again, and the new key is mirrored (R194, R332, R346). -/
def State.rotateDim (s : State) (p : Nat) : State :=
  let t := s.toStandby.onSegs (fun _ g => { g with trust := { g.trust with dimCounter := aErase p g.trust.dimCounter } })
  { t with free := s.free + 1,
           trust := { s.trust with envKeys := modifyAt (rotatedDim (Config.freshKey s.free)) p s.trust.envKeys } }

/-- A write of ENVELOPE_KEY_ROTATE: bit p rotates partition p, bit 15 is ignored (R352). -/
def envRotateWrite (mask : Nat) : WriteAct := fun s => ((maskBits 15 mask).foldl State.rotateEnv s, none)

/-- A write of DIM_KEY_ROTATE (R346, R352). -/
def dimRotateWrite (mask : Nat) : WriteAct := fun s => ((maskBits 15 mask).foldl State.rotateDim s, none)

/-- A segment's nonce counter has reached 2^48 or RECORD_ID has reached 2^32 − 1 (R346). -/
def State.epochSpent (s : State) (p : Nat) : Bool :=
  s.segs.any (fun g => 2 ^ 48 ≤ (aGet p g.trust.dimCounter).getD 0) || 2 ^ 32 - 1 ≤ (s.trust.envKeys.getD p {}).recordId

/-- DIM_EPOCH_EXHAUSTED (R346). -/
def execDimEpochExhausted (part : Nat) (s : State) : Result :=
  onlyIf (part < 15 && s.epochSpent part) (s.rotateDim part) s

/-! Archive keys (R349, R352). -/

/-- Fetches under a key slot are in flight. -/
def State.slotInFlight (s : State) (slot : Nat) : Bool :=
  s.glob.regions.any (fun r => r.keySlot == slot && s.regionBusy r.region)

/-- A slot written: at once, or when the fetches under it have ended; the key is mirrored (R332, R349). -/
def State.writeArchive (s : State) (e : List Nat) : State :=
  let slot := e.headD 0 % 256
  let key := ofBytesLe (e.drop 8)
  let t := s.trust
  let s := s.toStandby
  if s.slotInFlight slot then { s with trust := { t with archivePending := aSet slot key t.archivePending } }
  else { s with trust := { t with archive := putArchive slot key t.archive, archivePending := aErase slot t.archivePending } }

/-- The load of ARCHIVE_KEYS: entries of 40 bytes, refused on a malformed one (R352). -/
def loadArchiveKeys (entries : List (List Nat)) : LoadAct := fun t s =>
  if t.principal != .officer then refuseLoad (abortCode 2 0) s
  else if entries.any (fun e => e.length != 40) || t.total != 40 * entries.length then refuseLoad (abortCode 0x10 0) s
  else acceptLoad (entries.foldl State.writeArchive s)

/-- ARCHIVE_KEYS (R349). -/
def execArchiveKeys (cyc : Nat) (path : Path) (transfer : Nat) (entries : List (List Nat)) (s : State) : Result :=
  s.load cyc path transfer 0x7000 0x06 (loadArchiveKeys entries)

/-- ARCHIVE_KEY_INSTALL (R349): the fetches under a slot written meanwhile have ended. -/
def execArchiveKeyInstall (slot : Nat) (s : State) : Result :=
  match aGet slot s.trust.archivePending with
  | some key => onlyIf (!s.slotInFlight slot)
      { s with trust := { s.trust with archive := putArchive slot key s.trust.archive, archivePending := aErase slot s.trust.archivePending } } s
  | none => .next s

/-! MCTP control and I3C (R310, R412). -/

/-- An MCTP endpoint can answer: that of a segment's I3C target always, the one of the PCIe path while the manager answers. -/
def State.mctpUp (s : State) : Endpoint → Bool
  | .pcie => s.mgrAwake
  | .i3c k => s.hasSeg k && !s.inSecond k
  | _ => false

/-- The MCTP endpoint ID of an endpoint, 0 before one is set. -/
def State.eidOf (s : State) : Endpoint → Nat
  | .i3c k => (s.seg k).trust.eid
  | e => (s.ep e).eid

/-- An endpoint's ID assigned. -/
def State.setEid (s : State) (e : Endpoint) (eid : Nat) : State := match e with
  | .i3c k => s.onSeg k (fun g => { g with trust := { g.trust with eid := eid % 256 } })
  | e => s.onEp e (fun x => { x with eid := eid % 256 })

/-- An MCTP control response: the values the manual gives, then the contents its standard gives (log entry 18). -/
def State.mctpReply (s : State) (e : Endpoint) (n : Nat) (given : List Nat) : State := s.send e (given ++ Config.mctpContents n)

/-- SET_ENDPOINT_ID (R310). -/
def execSetEndpointId (ep : Endpoint) (eid : Nat) (s : State) : Result :=
  s.inBlockOf (s.farPath ep) (fun s =>
    onlyIf (s.mctpUp ep) ((s.setEid ep eid).mctpReply ep 1 [eid % 256]) s)

/-- GET_ENDPOINT_ID (R310). -/
def execGetEndpointId (ep : Endpoint) (s : State) : Result :=
  s.inBlockOf (s.farPath ep) (fun s =>
    onlyIf (s.mctpUp ep) (s.mctpReply ep 2 [s.eidOf ep]) s)

/-- GET_MCTP_VERSION_SUPPORT (R310). -/
def execGetMctpVersionSupport (ep : Endpoint) (msgType : Nat) (s : State) : Result :=
  s.inBlockOf (s.farPath ep) (fun s =>
    onlyIf (s.mctpUp ep) (s.mctpReply ep (256 + msgType % 256) []) s)

/-- GET_MESSAGE_TYPE_SUPPORT (R310): object access travels as type 0x7F. -/
def execGetMessageTypeSupport (ep : Endpoint) (s : State) : Result :=
  s.inBlockOf (s.farPath ep) (fun s =>
    onlyIf (s.mctpUp ep) (s.mctpReply ep 4 [0x7F]) s)

/-- GET_VENDOR_DEFINED_MESSAGE_SUPPORT (R310): the IANA enterprise number reported at 0x1018.01. -/
def execGetVendorDefinedMessageSupport (ep : Endpoint) (selector : Nat) (s : State) : Result :=
  s.inBlockOf (s.farPath ep) (fun s =>
    onlyIf (s.mctpUp ep) (s.mctpReply ep (512 + selector % 256) [0x5A52]) s)

/-- An I3C target given its dynamic address. -/
def addressed (addr : Nat) (g : Segment) : Segment := { g with trust := { g.trust with i3cAddr := some (addr % 128) } }

/-- ENTDAA (R412): a target without a dynamic address takes one. -/
def execEntdaa (seg addr : Nat) (s : State) : Result :=
  s.inBlockOf (s.inSecond seg) (fun s =>
    onlyIf (s.hasSeg seg && !s.inSecond seg && (s.seg seg).trust.i3cAddr.isNone) (s.onSeg seg (addressed addr)) s)

/-- SETDASA (R412): the target of the fused static address, 0 for none, takes a dynamic one. -/
def execSetdasa (seg static addr : Nat) (s : State) : Result :=
  s.inBlockOf (s.inSecond seg) (fun s =>
    let t := (s.seg seg).trust
    onlyIf (s.hasSeg seg && !s.inSecond seg && t.i3cAddr.isNone && t.i3cStatic != 0 && static == t.i3cStatic) (s.onSeg seg (addressed addr)) s)

/-- The Provisional ID of a segment's I3C target (R412; log entry 40). -/
def State.provisionalId (s : State) (i : Nat) : Nat :=
  packMsb [(15, (s.seg i).trust.mipi), (21, Config.unstated 43 i), (5, i), (7, (s.seg i).trust.serial)]

/-- A segment's I3C target has raised an in-band interrupt that the controller has not answered by a read: an MCTP message is ready to be
read, or a GONG record was latched (R385, R412). -/
def State.inBandInterrupt (s : State) (i : Nat) : Bool := (s.seg i).trust.ibi.isSome

/-- The IDCODE of a segment's test port (R418). -/
def State.idcode (s : State) (i : Nat) : Nat :=
  packMsb [(4, (s.seg i).trust.dieRev), (16, 0x4B44), (11, (s.seg i).trust.jedec), (1, 1)]

/-! The SPDM responder (R335 to R338). -/

/-- The segment whose Trust Unit answers SPDM on a path: the manager, or the segment of an I3C target without a route to a live
manager (R335). -/
def State.responder (s : State) (e : Endpoint) : Nat := match e with
  | .i3c k => if s.reaches_ e then s.mgr else k
  | _ => s.mgr

/-- An I3C target answers under its own identity: no live manager can be reached, and it is not that of a manager that runs. -/
def State.alone (s : State) (e : Endpoint) : Bool := !s.reaches_ e && !(e == .i3c s.mgr && s.mgrAwake)

/-- SPDM requests are answered on a path: the manager's responder is open, or the target answers alone. -/
def State.spdmUp (s : State) (e : Endpoint) : Bool :=
  !s.farPath e && if s.alone e then (match e with
    | .i3c k => s.hasSeg k
    | _ => false) && s.unretired
  else s.mgrAwake && s.trust.spdmOpen

/-- How far version, capabilities and algorithms are negotiated on a path. -/
def State.phaseOf (s : State) (e : Endpoint) : Nat :=
  ((s.trust.spdmPhase.find? (fun x => x.1 == e)).map (·.2)).getD 0

/-- The negotiation on a path moved on. -/
def State.setPhase (s : State) (e : Endpoint) (n : Nat) : State :=
  { s with trust := { s.trust with spdmPhase := (e, n) :: s.trust.spdmPhase.filter (fun x => x.1 != e) } }

/-- A response given: the request answered, numbered 1 to 12 in the order of R335 and 0 for an error response, its values, and the
contents that the standard gives (log entry 18). -/
def State.spdmReply (s : State) (e : Endpoint) (session : Option Nat) (code : Nat) (given : List Nat) : State :=
  let r : SpdmReply := { ep := e, session := session, code := code, body := given ++ Config.spdmContents code }
  { s with trust := { s.trust with spdmOut := r :: s.trust.spdmOut } }

/-- A request that is answered from a phase of the negotiation on, else by an error response. -/
def State.spdm (s : State) (e : Endpoint) (ok : Bool) (act : State → State) : Result :=
  onlyIf (s.spdmUp e) (if ok then act s else s.spdmReply e none 0 []) s

/-- The identity key of the responder on a path. -/
def State.identityOf (s : State) (e : Endpoint) : Option Nat := (s.seg (s.responder e)).trust.identity

/-- The version the responder supports: SPDM 1.3 (R335), major and minor. -/
def spdmVersion : List Nat := [1, 3]

/-- The capabilities of the responder (R335), numbered in the rule's order: CERT_CAP, CHAL_CAP, MEAS_CAP with signature, MEAS_FRESH_CAP,
KEY_EX_CAP, MUT_AUTH_CAP, ENCRYPT_CAP, MAC_CAP, HBEAT_CAP. -/
def spdmCapabilities : List Nat := [1, 2, 3, 4, 5, 6, 7, 8, 9]

/-- The algorithms of the responder (R335), numbered in the rule's order: ECDSA P-384, SHA-384, the secp384r1 group, AES-256-GCM, the SPDM
key schedule. -/
def spdmAlgorithms : List Nat := [1, 2, 3, 4, 5]

/-- GET_VERSION (R335): it starts the negotiation on its path. -/
def execGetVersion (ep : Endpoint) (s : State) : Result :=
  s.inBlockOf (s.farPath ep) (fun s =>
    s.spdm ep true (fun s => (s.setPhase ep 1).spdmReply ep none 1 spdmVersion))

/-- GET_CAPABILITIES (R335). -/
def execGetCapabilities (ep : Endpoint) (s : State) : Result :=
  s.inBlockOf (s.farPath ep) (fun s =>
    s.spdm ep (s.phaseOf ep == 1) (fun s => (s.setPhase ep 2).spdmReply ep none 2 spdmCapabilities))

/-- NEGOTIATE_ALGORITHMS (R335): the block supports one suite; an offer without it is refused. -/
def execNegotiateAlgorithms (ep : Endpoint) (offered : Bool) (s : State) : Result :=
  s.inBlockOf (s.farPath ep) (fun s =>
    s.spdm ep (s.phaseOf ep == 2 && offered) (fun s => (s.setPhase ep 3).spdmReply ep none 3 spdmAlgorithms))

/-- The certificate chain of slot 0 of a responder: root and intermediate where its die holds them, and its identity certificate
(R331). -/
def State.chainOf (s : State) (e : Endpoint) : List Nat :=
  (s.seg (s.responder e)).trust.chain ++ (s.seg (s.responder e)).trust.identityCert

/-- A request that needs the identity of the responder and the algorithms negotiated. -/
def State.spdmSigned (s : State) (e : Endpoint) (ok : Bool) (act : Nat → State → State) : Result :=
  match s.identityOf e with
  | some key => s.spdm e (s.phaseOf e == 3 && ok) (act key)
  | none => s.spdm e false (fun s => s)

/-- GET_DIGESTS (R335). -/
def execGetDigests (ep : Endpoint) (s : State) : Result :=
  s.inBlockOf (s.farPath ep) (fun s =>
    s.spdmSigned ep true (fun _ s => s.spdmReply ep none 4 [Config.sha384 (s.chainOf ep)]))

/-- GET_CERTIFICATE (R335): slot 0 only. -/
def execGetCertificate (ep : Endpoint) (slot : Nat) (s : State) : Result :=
  s.inBlockOf (s.farPath ep) (fun s =>
    s.spdmSigned ep (slot == 0) (fun _ s => s.spdmReply ep none 5 (s.chainOf ep)))

/-- CHALLENGE (R335): signed by the identity key over the requester's nonce; slot 0 only. -/
def execChallenge (ep : Endpoint) (slot nonce : Nat) (s : State) : Result :=
  s.inBlockOf (s.farPath ep) (fun s =>
    s.spdmSigned ep (slot == 0) (fun key s => s.spdmReply ep none 6 [Config.sign key (nonce :: s.chainOf ep)]))

/-! Measurements (R336, R337). -/

/-- A number of a list item and its image digest, as the lists of R336 hold them. -/
def measured (id digest : Nat) : List Nat := bytesLe 2 id ++ (bytesLe 48 digest).reverse

/-- The test port is open (R328). -/
def Lifecycle.testOpen (l : Lifecycle) : Bool := l == .blank || l == .provisioned

/-- Block 3: version, segments, lifecycle, test port and span role. -/
def State.measureState (s : State) (i : Nat) : List Nat :=
  let t := (s.seg i).trust
  bytesLe 4 t.version ++ [s.blockSegments, lifecycleCode t.lifecycle, flag t.lifecycle.testOpen, s.glob.spanRole]

/-- Block 5: masks and models of the generation partitions, which alone have those entries (R306), then every entry of the screen
policies. -/
def State.measurePolicy (s : State) : List Nat :=
  (s.parts.take 15).flatMap (fun p => bytesLe 4 p.segMask ++ bytesLe 2 p.targetModel ++ bytesLe 2 p.draftModel)
    ++ (List.range 15).flatMap (fun p => (objPolicy (s.part p).policy).flatMap (·.data))

/-- Block 7: rule sets in force, detokeniser tables, and SCREEN_LOCK of partitions 0 to 14. -/
def State.measureScreen (s : State) : List Nat :=
  (List.range 8).flatMap (fun k => match aGet k s.screen.inForce with
    | some r => measured (rsId r.plain.header) r.digest
    | none => measured 0 0)
    ++ (sortBy (fun (a b : Detok) => a.id < b.id) s.screen.detoks).flatMap (fun d => measured d.id d.digest)
    ++ (List.range 15).map (fun p => flag (s.part p).policy.lock)

/-- The value of a measurement block, none where there is no such block; a public key as an uncompressed SEC1 point (R336). -/
def State.measurement (s : State) (i block : Nat) : Option (List Nat) :=
  let hash (l : List Nat) : Option (List Nat) := some [Config.sha384 l]
  match block with
  | 1 => some [(s.seg i).trust.fwDigest]
  | 2 => hash ((List.range s.segs.length).flatMap (fun j =>
      if s.serving j then (bytesLe 48 (s.seg j).trust.fwDigest).reverse else []))
  | 3 => hash (s.measureState i)
  | 4 => hash (s.parts.flatMap (fun p =>
      (sortBy (fun (a b : Kernel) => a.id < b.id) p.kernels).flatMap (fun k => measured k.id k.digest)))
  | 5 => hash s.measurePolicy
  | 6 => hash ((sortBy (fun (a b : Model) => a.id < b.id) (s.parts.flatMap (·.models))).flatMap (fun m => measured m.id m.digest))
  | 7 => hash s.measureScreen
  | 8 => hash ((sortBy (fun (a b : Index) => a.id < b.id) s.indexes).flatMap (fun x => measured x.id x.digest))
  | 9 => hash (s.glob.ownerKeys.flatMap ownerBytes ++ s.glob.spanTrust.flatMap trustBytes ++ s.trust.archive.map (·.1))
  | 31 => some (bytesLe 8 s.time.beat ++ bytesLe 8 s.objs.commitNo)
  | n =>
    if 16 ≤ n && n ≤ 30 then
      let k := s.trust.envKeys.getD (n - 16) {}
      some (k.curId :: sec1 (publicKey k.cur))
    else none

/-- The measurement blocks a responder has: those of R336, or blocks 1 and 3 of a target that answers alone (R335). -/
def State.measuredBlocks (s : State) (e : Endpoint) : List Nat :=
  if s.alone e then [1, 3] else (List.range 9).map (· + 1) ++ (List.range 16).map (· + 16)

/-- The values of the blocks a request names: 0 asks how many there are, 255 asks for all of them. -/
def State.measurements (s : State) (e : Endpoint) (block : Nat) : Option (List Nat) :=
  let have_ := s.measuredBlocks e
  let i := s.responder e
  if block == 0 then some [have_.length]
  else if block == 255 then some (have_.flatMap (fun n => n :: (s.measurement i n).getD []))
  else if have_.contains block then s.measurement i block
  else none

/-- A measurement response: its blocks, and the signature over the requester's nonce where one is asked (R337). -/
def State.measureReply (s : State) (e : Endpoint) (block : Nat) (sign : Bool) (nonce key : Nat) : State :=
  match s.measurements e block with
  | some v => s.spdmReply e none 7 (if sign then v ++ [Config.sign key (nonce :: v)] else v)
  | none => s.spdmReply e none 0 []

/-- GET_MEASUREMENTS (R336, R337): built at its stamp. -/
def execGetMeasurements (ep : Endpoint) (block : Nat) (sign : Bool) (nonce : Nat) (s : State) : Result :=
  s.inBlockOf (s.farPath ep) (fun s =>
    s.spdmSigned ep true (fun key s => (s.given (s.stampFor 0)).measureReply ep block sign nonce key))

/-! Secured sessions (R335, R338). -/

/-- A secured session of a path. -/
def State.spdmSession (s : State) (e : Endpoint) (id : Nat) : Option SpdmSession :=
  s.trust.sessions.find? (fun x => x.id == id && x.ep == e)

/-- A secured session removed. -/
def State.dropSession (s : State) (e : Endpoint) (id : Nat) : State :=
  { s with trust := { s.trust with sessions := s.trust.sessions.filter (fun x => !(x.id == id && x.ep == e)) } }

/-- A secured session changed. -/
def State.onSession (s : State) (e : Endpoint) (id : Nat) (f : SpdmSession → SpdmSession) : State :=
  { s with trust := { s.trust with sessions := s.trust.sessions.map (fun x => if x.id == id && x.ep == e then f x else x) } }

/-- KEY_EXCHANGE (R335, R338): the session opened runs under OFFICER where the requester's chain ends in a provisioned root. -/
def execKeyExchange (ep : Endpoint) (session : Nat) (mutualRoot : Option Nat) (s : State) : Result :=
  s.inBlockOf (s.farPath ep) (fun s =>
    let officer := !s.alone ep && (match mutualRoot with
      | some r => (s.seg s.mgr).trust.officerRoots.contains r
      | none => false)
    s.spdmSigned ep (s.spdmSession ep session).isNone (fun key s =>
      let x : SpdmSession := { id := session, ep := ep, officer := officer, lastHb := s.time.beat }
      ({ s with trust := { s.trust with sessions := s.trust.sessions ++ [x] } }).spdmReply ep none 8 [Config.sign key [session]]))

/-- FINISH (R335): the handshake completes, or the session it opened is given up. -/
def execFinish (ep : Endpoint) (session : Nat) (ok : Bool) (s : State) : Result :=
  s.inBlockOf (s.farPath ep) (fun s =>
    match s.spdmSession ep session with
    | some x =>
      if x.established then s.spdm ep false (fun s => s)
      else if ok then
        s.spdm ep true (fun s => (s.onSession ep session (fun x => { x with established := true })).spdmReply ep (some session) 9 [])
      else s.spdm ep true (fun s => (s.dropSession ep session).spdmReply ep none 0 [])
    | none => s.spdm ep false (fun s => s))

/-- A request inside an established secured session. -/
def State.inSession (s : State) (e : Endpoint) (id : Nat) (act : SpdmSession → State → State) : Result :=
  match s.spdmSession e id with
  | some x => s.spdm e x.established (act x)
  | none => s.spdm e false (fun s => s)

/-- SPDM_HEARTBEAT (R335). -/
def execSpdmHeartbeat (ep : Endpoint) (session : Nat) (s : State) : Result :=
  s.inBlockOf (s.farPath ep) (fun s =>
    s.inSession ep session (fun _ s =>
      (s.onSession ep session (fun x => { x with lastHb := s.time.beat })).spdmReply ep (some session) 10 []))

/-- KEY_UPDATE (R335). -/
def execKeyUpdate (ep : Endpoint) (session : Nat) (s : State) : Result :=
  s.inBlockOf (s.farPath ep) (fun s =>
    s.inSession ep session (fun _ s =>
      (s.onSession ep session (fun x => { x with keyGen := x.keyGen + 1 })).spdmReply ep (some session) 11 []))

/-- What was done under OFFICER on a path and not yet committed ends with its session (R338). -/
def State.officerEnds (s : State) (e : Endpoint) : State :=
  let t := s.onEp e (fun x => { x with transfers := x.transfers.filter (fun t => t.principal != .officer) })
  t.unstage .officer

/-- END_SESSION (R335, R338). -/
def execEndSession (ep : Endpoint) (session : Nat) (s : State) : Result :=
  s.inBlockOf (s.farPath ep) (fun s =>
    s.inSession ep session (fun x s =>
      let t := (s.dropSession ep session).spdmReply ep (some session) 12 []
      if x.officer then t.officerEnds ep else t))

/-! Provisioning (R329, R419). -/

/-- What provisioning leaves on a segment's die: its PUF is enrolled, its fuses are blown, the first LIFECYCLE group among them, and its
identity certificate is written to the store of 8,192 bytes; on the manager and standby dies the provisioning chain, the wrapped image key and up to two officer root hashes
as well (R329, R419). -/
def provisioned (mgrDie : Bool) (d : ProvData) (g : Segment) : Segment :=
  let t := g.trust
  let t := { blown 1 t with pufEnrolled := true, pufHelper := d.pufHelper % 2 ^ 4096, seed := d.seed % 2 ^ 256,
                            licensee := d.licensee % 2 ^ 32, dieRev := d.dieRev % 2 ^ 32, jedec := d.jedec % 2 ^ 11, mipi := d.mipi % 2 ^ 15,
                            serial := d.serial % 2 ^ 64, identityCert := d.cert.take 8192, i3cStatic := d.staticAddr % 128 }
  { g with trust := if mgrDie then { t with chain := d.chain.take (8192 - t.identityCert.length), imageKey := some (d.imageKey % 2 ^ 1024),
                                            officerRoots := (d.officerRoots.map (· % 2 ^ 384)).take 2 } else t }

/-- A die is the manager's or the standby's: that of the segment which R3 names, where no standby is named (R3, R329). -/
def State.mgrDie (s : State) (i : Nat) : Bool :=
  i == s.mgr || (s.cfg.kind.hasStandby && i == s.roles.standby.getD s.cfg.kind.halfA)

/-- PROVISIONING (R329): from BLANK only, with the programming enable asserted (R419). -/
def execProvisioning (seg : Nat) (data : ProvData) (s : State) : Result :=
  s.inBlockOf (s.inSecond seg) (fun s =>
    onlyIf (s.hasSeg seg && data.enable && (s.seg seg).trust.lifecycle == .blank)
      (s.onSeg seg (provisioned (s.mgrDie seg) data)) s)

end Sys2Proof.Machine
end

