-- ==== Sys2Proof/Machine/Fence.lean ====
section
/-! DEFINITION. Fencing and takeover (R363 to R369, R291), split mode (R350, R371, R372) and the rejoin (R373). The writes through which
the host commands them are in Expedited.lean. -/

namespace Sys2Proof.Machine

/-! Fencing. -/

/-- An array whose work in flight is discarded. -/
def idleArray (a : ArrayS) : ArrayS := { a with bank0 := {}, bank1 := {}, reg0 := {}, reg1 := {}, finishing := [], prefetch := [] }

/-- A Link Hub whose work in flight is discarded. -/
def idleHub (h : Hub) : Hub := { h with slots := [], eMax := [], escaped := [], tx := [], waiting := [], rerouting := [] }

/-- A segment that discards its share of every step in flight and abandons its scan groups and snare streams; its stack stands
(R364). -/
def idleSegment (g : Segment) : Segment :=
  { g with steps := [], allocs := [], kernels := [], ma0 := idleArray g.ma0, ma1 := idleArray g.ma1, hub := idleHub g.hub,
           scanQueue := [], scanGroup := none, lutUsed := [], passageUsed := 0, snare := {} }

/-- A segment that fences: idle, its queues in HOLD, its notice queue owned by the host and the I3C endpoint (R364). -/
def fencedSegment (reason : Nat) (g : Segment) : Segment :=
  let g := holdQueues {} true (idleSegment g)
  { g with state := .fenced, fenceReason := reason, nq := { g.nq with owner := true } }

/-- The segment that mirrors the manager, in the far half after a waist cut. -/
def Roles.mirrorSeg (r : Roles) : Option Nat := r.standby.or r.farStandby

/-- Segments that the standby's CONFIRM reaches: the joined segments of the manager's half other than the manager; none across a cut
(R366, R371). -/
def State.confirmTo (s : State) : List Nat :=
  if s.roles.farHalf.isEmpty then
    (s.halfOf s.mgr).filter (fun i => i != s.mgr && ((s.seg i).state == .serving || (s.seg i).state == .fenced))
  else []

/-- The standby fences: it sends CONFIRM, and whether its mirror was current then stands (R366). -/
def State.standbyFences (s : State) : State :=
  let now := if s.roles.standby.isSome then s.mirror.current else s.mirror.currentAtFence
  let k := s.roles.mirrorSeg.getD s.mgr
  let t := s.confirmTo.foldl (fun u i => u.control k i) s
  { t with roles := { t.roles with confirm := { asked := s.confirmTo } }, mirror := { t.mirror with currentAtFence := now } }

/-- FENCE (R364): the heartbeat age of a segment other than the manager reaches 40 bt. -/
def execFence (seg : Nat) (s : State) : Result :=
  let g := s.seg seg
  let t := (s.onSeg seg (fencedSegment 0x01)).raiseFenced seg 0x01 s.edge
  onlyIf (seg != s.mgr && g.state == .serving && g.lastHb + 40 ≤ s.time.beat && s.power.hush == 0 && !s.inSecond seg)
    (if s.roles.mirrorSeg == some seg then t.standbyFences else t) s

/-- Every open transfer of an endpoint ended with UNREACHABLE. -/
def State.endTransfers (s : State) (x : EndpointS) : State :=
  x.transfers.foldl (fun t r => (t.closeTransfer x.ep r.id).send x.ep (abortWords r.head (abortCode 0xE 0))) s

/-- A port whose host ring writes stop: only those in flight go on (R365). -/
def stopRings (p : Port) : Port :=
  { p with waiting := p.waiting.filter (fun r => !r.what.ofRing), retry := p.retry.filter (fun e => !e.2.what.ofRing) }

/-- The manager fences itself: admission and host ring writes stop, and open transfers end with UNREACHABLE (R365). -/
def State.fenceManager (s : State) : State :=
  let t := (s.objs.eps.foldl State.endTransfers s).onSegs (fun _ g => { g with port := stopRings g.port })
  let shut (g : Segment) : Segment := { holdQueues {} true g with state := .fenced, fenceReason := 0x03 }
  let t := (t.raiseFenced t.mgr 0x03 t.edge).onSeg t.mgr shut
  let t := t.endpointMode true
  { t with roles := { t.roles with selfFenced := true } }

/-- No acknowledgement from any other joined segment has reached the manager for 32 bt. -/
def State.isolated (s : State) : Bool :=
  let others := (List.range s.segs.length).filter (fun i => s.isJoined i && i != s.mgr)
  !others.isEmpty && others.all (fun i => (s.seg i).lastAck + 32 ≤ s.time.beat)

/-- MANAGER_SELF_FENCE (R365). -/
def execManagerSelfFence (s : State) : Result :=
  onlyIf (s.mgrUp && 2 ≤ s.segs.length && s.power.hush == 0 && s.isolated) s.fenceManager s

/-- CONFIRM (R366): a segment answers SILENT if its own heartbeat age is 36 bt or more, and ALIVE otherwise. -/
def execConfirm (seg : Nat) (s : State) : Result :=
  let c := s.roles.confirm
  let silent : Bool := (s.seg seg).lastHb + 36 ≤ s.time.beat
  onlyIf (c.asked.contains seg && s.segUp seg)
    { s.control seg (s.roles.mirrorSeg.getD s.mgr) with
      roles := { s.roles with confirm := { c with asked := c.asked.filter (· != seg), answers := c.answers ++ [(seg, silent)] } } } s

/-- An answer that reaches the standby. -/
def Confirm.take (c : Confirm) (seg : Nat) (silent : Bool) : Confirm :=
  let c := { c with answers := c.answers.filter (· != (seg, silent)) }
  if silent then { c with silent := insertNat seg c.silent } else { c with alive := insertNat seg c.alive }

/-- CONFIRM_ANSWER (R366). -/
def execConfirmAnswer (seg : Nat) (silent : Bool) (s : State) : Result :=
  onlyIf (s.roles.confirm.answers.contains (seg, silent))
    { s with roles := { s.roles with confirm := s.roles.confirm.take seg silent } } s

/-! Takeover (R367). -/

/-- The standby has confirmed that the manager is silent, over a mirror that was current (R366). -/
def State.mayTakeOver (s : State) : Bool :=
  s.roles.standby.isSome && !s.roles.confirm.silent.isEmpty && s.roles.confirm.alive.isEmpty && s.mirror.currentAtFence

/-- An entry as the new manager keeps it: a stale one is a tombstone, nothing moves, and its REFCOUNT is counted again (R367). -/
def keptEntry (stale : List Nat) (e : Nat × Handle) : Nat × Handle :=
  let h := { e.2 with refcount := 0, moving := none }
  (e.1, if stale.contains e.1 then { h with tier := .tombstone, dim := none, ownPages := 0, older := none, map := [], kv := [] } else h)

/-- The holds of R188 counted again from the kept entries. -/
def countHolds (l : List (Nat × Handle)) : List (Nat × Handle) :=
  l.map (fun (e : Nat × Handle) => (e.1, { e.2 with refcount := (l.filter (fun (x : Nat × Handle) => x.2.older == some e.1)).length }))

/-- The directory that a new manager keeps. -/
def keptHandles (stale : List Nat) (l : List (Nat × Handle)) : List (Nat × Handle) := countHolds (l.map (keptEntry stale))

/-- A ring after a takeover: SUB, CMP and STR rings are disabled, their contexts kept; an NTC ring stays in service past what the former
manager may have written (R367). -/
def recoveredRing (r : Ring) : Ring :=
  let r' := warmRing r
  if r.kind == 3 && r.enable then
    let at_ := (r.tail + r.entries) % 2 ^ 32
    { r' with enable := true, head := at_, tail := at_, words := r.words + r.entries, flags := [] }
  else r'

/-- The rings of the mirror after a takeover. -/
def recoveredRings (l : List (Nat × Ring)) : List (Nat × Ring) :=
  (l.map (fun e => (e.1, recoveredRing e.2))).filter (fun e => e.2 != ({} : Ring))

/-- Pages per segment that the kept entries of a partition hold. -/
def keptPages (p : Nat) (l : List (Nat × Handle)) : Nat :=
  sumNat ((l.filter (fun (e : Nat × Handle) => e.2.part == p)).map (fun (e : Nat × Handle) => e.2.ownPages))

/-- A partition after a takeover: its loops stopped, its queues empty, its pool the pages that no kept entry holds; what is resident
and committed stands (R367). -/
def recoveredPartition (l : List (Nat × Handle)) (p : Nat) (q : Partition) : Partition :=
  { q with lc := {}, be := {}, lcQueue := [], beQueue := [], poolFree := q.poolPages - keptPages p l, returning := [] }

/-- A management endpoint of a new manager, with the transfers that were open on it. -/
def freshEndpoint (x : EndpointS) : EndpointS := { EndpointS.of x.ep with transfers := x.transfers, eid := x.eid }

/-- The objects of a new manager: staged sets are lost (R322). -/
def recoveredObjects (o : Objects) : Objects := { o with staged := [], eps := o.eps.map freshEndpoint }

/-- The tables and engines of the block as a new manager takes them over from the mirror (R31, R367). -/
def State.recovered (s : State) (stale : List Nat) : State :=
  let l := keptHandles stale s.mirror.applied.handles
  let t := s.onSegs (fun _ g => idleSegment g)
  { t with
    seqs := [], handles := l, tenants := s.mirror.applied.tenants, rings := recoveredRings s.mirror.applied.rings,
    parts := s.parts.zipIdx.map (fun (e : Partition × Nat) => recoveredPartition l e.2 e.1),
    glob := { s.glob with mgmtRings := s.glob.mgmtRings % 2 ^ 31 }, objs := recoveredObjects s.objs,
    trust := { s.trust with sessions := [], spdmPhase := [], archivePending := [],
                            archive := s.trust.settledArchive },
    span := { linkUp := s.span.linkUp, nextId := s.span.nextId }, vectors := {} }

/-- A partition that owns a segment that is lost at a takeover is stopped; its sequences have ended with the table (R360, R367). -/
def State.stopOwned (s : State) (i : Nat) (e : Stamp) : State :=
  (List.range 15).foldl (fun t p =>
    if (t.part p).segMask.testBit i && (t.part p).stopped.isNone then
      (t.tombstoneAll p e).onPart p (fun q => { q with stopped := some .stepLost })
    else t) s

/-- DETAIL of MANAGER_TAKEOVER (R294). -/
def takeoverDetail (former new seqNo : Nat) : Nat := packMsb [(5, former), (5, new), (64, seqNo), (38, 0)]

/-- A record placed ahead of what a segment's queue holds: MANAGER_TAKEOVER is the first notice written when the NTC rings resume
(R367). Reads that have stalled take their words as they do of any push (R288). -/
def pushFirst (at_ : Stamp) (words : List Nat) (q : WordQ) : WordQ :=
  let t := qPushAll at_ words q
  let n := t.words.length - (words.length - q.stalled.length)
  { t with words := t.words.drop n ++ t.words.take n, pushed := none }

/-- The segment that becomes manager: it serves under its own heartbeats, and its notices are drained next (R367). -/
def newManager (b : Nat) (e : Stamp) (g : Segment) : Segment :=
  { g with state := .serving, fenceReason := 0, hbFrom := b, lastHb := e.beat, lastAck := e.beat, nq := { g.nq with owner := false } }

/-- MANAGER_TAKEOVER raised by the new manager, ahead of what its queue holds (R367). -/
def State.raiseTakeover (s : State) (a b : Nat) (e : Stamp) (seqNo : Nat) : State :=
  (s.onSeg b (newManager b e)).onNq b (pushFirst e (noticeWords 0x0D 0x0 0 0 e (takeoverDetail a b seqNo)))

/-- The standby acts at stamp T (R367). -/
def State.takeOver (s : State) (b : Nat) (stale : List Nat) (e : Stamp) : State :=
  let a := s.mgr
  let t := s.recovered stale
  let t := { t with
    roles := { manager := b, recovering := some (s.time.beat + 4000), announce := true },
    mirror := { nextSeq := s.mirror.applied.seqNo + 1 },
    time := { t.time with refState := if (s.seg b).refPresent then .locked else .holdover, offsetPs := 0, goodPps := 0, edgePhase := 3 },
    vectors := { t.vectors with drainLast := (b + s.segs.length - 1) % (max 1 s.segs.length) } }
  let t := (t.stopOwned a e).onSeg a (lostSegment 0x01)
  let t := ((t.raiseLost a 0x01 e).raiseTakeover a b e s.mirror.applied.seqNo).count (fun c => { c with
    takeovers := c.takeovers + 1, segmentsLost := c.segmentsLost + 1 })
  (t.objs.eps.foldl State.endTransfers t).endpointMode true

/-- The standby's confirmation has failed: it stays fenced (R366, R375). -/
def State.unconfirmed (s : State) (b : Nat) : State :=
  (s.onSeg b (fun g => { g with fenceReason := 0x02 })).raiseFenced b 0x02 s.edge

/-- TAKEOVER (R366, R367): at heartbeat age 48 bt. -/
def execTakeover (cyc : Nat) (stale : List Nat) (s : State) : Result :=
  match s.roles.mirrorSeg with
  | some b =>
    let g := s.seg b
    let e := s.stampFor cyc
    onlyIf (g.state == .fenced && g.fenceReason == 0x01 && g.lastHb + 48 ≤ s.time.beat && s.power.hush == 0)
      (if s.mayTakeOver then (s.given e).takeOver b stale e else s.unconfirmed b) s
  | none => .next s

/-- The queues of every segment that serves return to NORMAL, drained by the manager again (R291, R367). -/
def State.queuesNormal (s : State) (pick : Nat → Bool) : State :=
  s.onSegs (fun i g =>
    if pick i && g.state == .serving then
      let g := holdQueues s.now false g
      { g with nq := { g.nq with owner := false } }
    else g)

/-- RECOVERY_END (R367). -/
def execRecoveryEnd (s : State) : Result :=
  match s.roles.recovering with
  | some _ =>
    let t := ((s.queuesNormal (fun i => !s.roles.farHalf.contains i)).endpointMode false).settleReads
    .next { t with roles := { t.roles with recovering := none } }
  | none => .next s

/-! The standby. -/

/-- A segment may be named standby: it lies in the other half, has joined, is manager-capable, its port has trained and its reference
is present (R369). -/
def State.eligible (s : State) (i : Nat) : Bool :=
  s.inHalfB i != s.inHalfB s.mgr && s.serving i && s.cfg.mgrCapable.contains i && (s.seg i).port.trained && (s.seg i).refPresent

/-- The segment that R3 names as standby may still join (R393). -/
def State.firstStandbyComes (s : State) : Bool :=
  s.mgr == 0 && (let g := (s.seg s.cfg.kind.halfA).state; g == .joining || g == .held)

/-- A candidate is named and a full copy of the tables begins (R30, R369). -/
def State.nameStandby (s : State) (i : Nat) : State :=
  { s with roles := { s.roles with candidate := some i }, mirror := { s.mirror with copying := true, current := false } }

/-- STANDBY_NAMING (R369). -/
def execStandbyNaming (s : State) : Result :=
  match (List.range s.segs.length).find? s.eligible with
  | some i =>
    onlyIf (s.mgrUp && s.cfg.kind.hasStandby && s.roles.standby.isNone && s.roles.candidate.isNone
        && (s.roles.splitState == 0 || s.roles.splitState == 3) && !s.firstStandbyComes)
      (s.nameStandby i) s
  | none => .next s

/-! Split mode (R372). -/

/-- An entry of the second block: DIM becomes a tombstone, BOTH becomes BRIGHT with its dim record freed (R372). -/
def splitEntry (e : Nat × Handle) : Nat × Handle :=
  let h := e.2
  (e.1, match h.tier with
    | .dim => { h with tier := .tombstone, dim := none, kv := [] }
    | .both => { h with tier := .bright, dim := none }
    | _ => h)

/-- The masks of the second block: a partition that owns a segment outside the half is emptied (R372). -/
def splitMask (half : List Nat) (m : Nat) : Nat := if (maskBits 20 m).all half.contains then m else 0

/-- A partition of the second block: kept where its segments lie in the half, else emptied, with SEGMENT_MASK 0 (R361, R372). -/
def splitPartition (half : List Nat) (q : Partition) : Partition :=
  if splitMask half q.segMask == q.segMask then q
  else { restarted q with segMask := 0, targetModel := 0xFFFF, draftModel := 0xFFFF, layout := 0, poolPages := 0, poolFree := 0 }

/-- A segment of the half as it joins the second block: it serves, its queues in HOLD until the recovery ends (R367, R372). -/
def splitSegment (k : Nat) (e : Stamp) (g : Segment) : Segment :=
  if g.state == .fenced || g.state == .serving then
    { g with state := .serving, fenceReason := 0, hbFrom := k, hbWay := [], lastHb := e.beat, lastAck := e.beat }
  else g

/-- The keys of the second block: new envelope keys at generation 1 and dim keys at epoch 1; the block image key, archive keys and owner
keys are kept (R350). -/
def splitTrust (free : Nat) (t : Trust) : Trust := { t with envKeys := freshEnvKeys free }

/-- What the far standby holds of the tables, the configuration and the keys that are mirrored: they stand as the cut found them, since
nothing that the first block does later reaches it (R31, R322, R332, R370). -/
def State.asMirrored (s : State) : State := match s.kept with
  | some b =>
    { s with parts := b.parts, indexes := b.indexes, glob := b.glob, screen := b.screen, trust := b.trust,
             objs := { b.objs with eps := s.objs.eps } }
  | none => s

/-- The tables of the second block, as its manager takes them over from the mirror (R367, R372). -/
def State.splitTables (s : State) (half : List Nat) : State :=
  let s := s.asMirrored
  let t := s.recovered []
  let kept (p : Nat) : Bool := splitMask half (s.part p).segMask == (s.part p).segMask
  let l := countHolds ((t.handles.filter (fun x => kept x.2.part)).map splitEntry)
  let parts := (t.parts.map (splitPartition half)).mapIdx (fun p q => { q with poolFree := q.poolPages - keptPages p l })
  { t with
    handles := l, parts := parts, indexes := s.indexes.filter (fun x => kept x.part), glob := { t.glob with spanRole := 0 },
    objs := { t.objs with eps := t.objs.eps.map (fun x => { EndpointS.of x.ep with eid := x.eid }) },
    trust := splitTrust s.free t.trust, mirror := {} }

/-- The fenced standby of the far half becomes manager of a second block, whose turn begins (R372). It acts as at a takeover. -/
def State.startSecond (s : State) (k : Nat) (e : Stamp) : State :=
  let half := s.halfOf k
  let first := { s with roles := { s.roles with splitState := 2 } }
  let t := s.splitTables half
  let t := { t with
    other := some first.block, kept := none,
    roles := { manager := k, isSecond := true, splitState := 2, farHalf := s.otherHalf k, recovering := some (s.time.beat + 4000),
               announce := true },
    time := { t.time with refState := if (s.seg k).refPresent then .locked else .holdover, offsetPs := 0, goodPps := 0, edgePhase := 3 },
    vectors := { drainLast := (k + s.segs.length - 1) % (max 1 s.segs.length) }, free := s.free + 40 }
  let t := t.onSegs (fun i g => if half.contains i then splitSegment k e g else g)
  ((t.raiseTakeover s.mgr k e s.mirror.applied.seqNo).count (fun c => { c with takeovers := c.takeovers + 1 })).endpointMode true

/-- The segment of an I3C target, none for another path. -/
def targetOf : Endpoint → Option Nat
  | .i3c k => some k
  | _ => none

/-- A write of 1 to FENCE_ACTION: accepted at the fenced standby's target, of a mirror that was current when it fenced and a port that
has trained, under BMC or OFFICER; else LOCKED (R372). Of a standby that fenced without a waist cut the rule says no more: its half is
cut off first, at the same stamp (log entry 35). -/
def splitWrite (ep : Endpoint) (who : Principal) (e : Stamp) : WriteAct := fun s =>
  match targetOf ep with
  | some k =>
    if s.roles.mirrorSeg == some k && (s.seg k).state == .fenced && s.mirror.currentAtFence && (s.seg k).port.trained && who != .driver then
      let current := s.mirror.currentAtFence
      let t := if s.roles.splitState == 0 then s.waistCut e else s
      ({ t with mirror := { t.mirror with currentAtFence := current } }.startSecond k e, none)
    else (s, some (abortCode 0xD 0))
  | none => (s, some (abortCode 0xD 0))

/-! The rejoin (R373). -/

/-- The fenced far half prepares for the rejoin: its segments make a warm reset and wait fenced (R373). -/
def State.prepareFar (s : State) (e : Stamp) : State :=
  ({ s with roles := { s.roles with splitState := 1 }, mirror := { s.mirror with currentAtFence := false } } : State).farPrepared
    s.roles.farHalf e

/-- The second block prepares: it ends every live sequence with FENCED, and is over once their records are written (R373). -/
def State.prepareSecond (s : State) (e : Stamp) : State :=
  ({ s with roles := { s.roles with ending := true } } : State).endLive false e

/-- A write of 2 to FENCE_ACTION: through the fenced standby's target, or through any path to the manager of the second block; else
LOCKED (R373). -/
def rejoinPrepareWrite (ep : Endpoint) (e : Stamp) : WriteAct := fun s =>
  let standby := match targetOf ep with
    | some k => s.roles.farStandby == some k && (s.seg k).state == .fenced && s.roles.splitState == 1
    | none => false
  if s.roles.isSecond then (s.prepareSecond e, none)
  else if standby && s.other.isNone then (s.prepareFar e, none)
  else (s, some (abortCode 0xD 0))

/-- A module returned to service, its link to be trained (R145, R373). -/
def returnModule (m : ModuleS) : ModuleS := { m with failed := false, reason := 0, told := false, up := false, authed := false, retraining := false }

/-- A write of 1 to REJOIN: the waist modules return to service and train; the write completes when one has trained, or after 2,000
bt (R373). -/
def rejoinWrite (ep : Endpoint) (transfer : Nat) : WriteAct := fun s =>
  if !s.roles.isSecond && (s.roles.splitState == 1 || s.roles.splitState == 2) then
    let back (t : State) (i : Nat) : State := (t.onModule i .south returnModule).onModule (i + 5) .north returnModule
    let t := s.waistSegs.foldl back s
    ({ t with roles := { t.roles with rejoinBy := some (s.time.beat + 2000), rejoinFor := some (ep, transfer) } }, none)
  else (s, some (abortCode 0xD 0))

/-- The write of REJOIN completes: it is answered (R373). -/
def State.rejoinAck (s : State) : State := match s.roles.rejoinFor with
  | some x =>
    ({ s with roles := { s.roles with rejoinFor := none } } : State).send x.1 (ackWords { transfer := x.2, index := 0x2000, sub := 0x0E } 0)
  | none => s

/-- An effect at the waist, run in the first block, which returns its modules to service (R373). -/
def atFirst (f : State → Result) (s : State) : Result := s.inBlockOf (s.roles.isSecond && s.other.isSome) f

/-- LINK_TRAINED (R347, R408): a link at less than its full rate counts as a failed retraining, and a peer that fails
authentication is not brought up and is reported. -/
def execLinkTrained (seg : Nat) (dir : Dir) (fullRate : Bool) (auth : LinkAuth) (s : State) : Result :=
  (if s.atWaist seg dir then atFirst else id) (fun s =>
  match neighbour s.segs.length seg dir with
  | some j =>
    let m := (s.seg seg).hub.module dir
    let t := s.trainLink seg j dir
    onlyIf (!s.linkFailed seg dir && !m.up && !m.retraining && !(s.seg seg).inReset && !(s.seg j).inReset && s.power.hush != 1)
      (if !fullRate then s.moduleFailed seg dir 0x10 s.edge
       else if !s.linkAuthentic seg j auth then s.unauthentic seg dir s.edge
       else if s.atWaist seg dir && s.roles.rejoinBy.isSome then t.waistTrained.rejoinAck
       else t) s
  | none => .next s) s

/-- REJOIN_TRAIN_TIMEOUT (R373): no waist link has trained within 2,000 bt of REJOIN; the waist modules are out of service again,
with a new WAIST_DOWN. -/
def execRejoinTrainTimeout : State → Result := atFirst (fun s =>
  match s.roles.rejoinBy with
  | some b =>
    let again (i : Nat) (t : State) : State :=
      (t.onModule i .south (failModule 0x10 true)).onModule (i + 5) .north (failModule 0x10 true)
    let t := s.waistSegs.foldl (fun t i => again i t) s
    let t := { t with roles := { t.roles with rejoinBy := none } }
    onlyIf (s.mgrUp && b ≤ s.time.beat) (t.raise t.mgr 0x0B 0x0 0 0 t.edge t.waistDetail).rejoinAck s
  | none => .next s)

end Sys2Proof.Machine
end

