-- ==== Sys2Proof/Machine/Supply.lean ====
section
/-! DEFINITION. Supplies, amber and the GONG (R380 to R385, R415, R416), the margin loop (R376, R377) and the windows of the stack's
PHY (R407). -/

namespace Sys2Proof.Machine

/-! Sources. -/

/-- Droops of a core rail in 0.1 % units: amber at or above the first, crimson at or above the second, clear below the third (R380,
R397). -/
def railAmberAt : Nat := 50

/-- As `railAmberAt`, for crimson. -/
def railCrimsonAt : Nat := 100

/-- As `railAmberAt`, for the clear level. -/
def railClearBelow : Nat := 40

/-- The stamp of a detector edge or a reading: when it arrives (R381). -/
def State.arrival (s : State) (cyc : Nat) : Stamp := ⟨s.time.beat, cyc % 5000⟩

/-- A level's time above its clear level, after a reading (R382). -/
def aboveSince (above : Bool) (now : Stamp) (was : Option Stamp) : Option Stamp := if above then some (was.getD now) else none

/-- A level has stayed above its clear level for CLEAR_BT beats at an edge (R382). -/
def clearRun (clearBt : Nat) (edge : Stamp) (since : Option Stamp) : Bool := match since with
  | some a => !before edge (plusBeats a clearBt)
  | none => false

/-- The feed is in amber, for the block or for a segment that treats it as stale (R381, R416). -/
def State.feedInAmber (s : State) : Bool := s.power.feedAmber || s.segs.any (fun g => g.supply.feedStale)

/-- A segment throttles while a source that concerns it is in amber (R381, R382). -/
def throttleOf (feedAmber : Bool) (u : SupplyS) : SupplyS := { u with throttled := u.railAmber || feedAmber || u.feedStale }

/-- Every segment's throttle, by the sources in amber. -/
def State.throttle (s : State) : State := s.onSegs (fun _ g => { g with supply := throttleOf s.power.feedAmber g.supply })

/-- DETAIL of SUPPLY_AMBER and SUPPLY_CLEAR (R294). -/
def supplyDetail (feed : Bool) (reading : Nat) : Nat := packMsb [(8, flag feed), (16, reading), (88, 0)]

/-- SUPPLY_AMBER or SUPPLY_CLEAR of the feed, raised by the manager (R381, R382). -/
def State.raiseFeed (s : State) (code reading : Nat) (e : Stamp) : State :=
  if s.power.inReset then s else s.raise s.mgr code 0x0 0 0 e (supplyDetail true reading)

/-- SUPPLY_AMBER or SUPPLY_CLEAR of a core rail, raised by its segment (R381, R382). -/
def State.raiseRail (s : State) (seg code reading : Nat) (e : Stamp) : State :=
  if (s.seg seg).inReset then s else s.raise seg code 0x1 seg 0 e (supplyDetail false reading)

/-- An entry into amber is counted (R397). -/
def State.countAmber (s : State) : State := s.count (fun c => { c with amberEntries := c.amberEntries + 1 })

/-! The feed. -/

/-- A feed reading noted, by every segment (R380, R382, R416). -/
def State.noteFeed (s : State) (reading : Nat) (e : Stamp) : State :=
  let t := s.onSegs (fun _ g => { g with supply := { g.supply with feedAt := some e } })
  { t with power := { s.power with feed := reading, feedAbove := aboveSince (s.glob.feedClear < reading) e s.power.feedAbove } }

/-- The feed enters amber: every segment throttles (R381). -/
def State.feedEntersAmber (s : State) (reading : Nat) (e : Stamp) : State :=
  let was := s.feedInAmber
  let t := ({ s with power := { s.power with feedAmber := true } } : State).throttle
  if was then t else (t.raiseFeed 0x05 reading e).countAmber

/-- FEED_READING (R380 to R385, R415). -/
def execFeedReading (cyc reading : Nat) (s : State) : Result :=
  let v := reading % 65536
  let e := s.arrival cyc
  let t := s.noteFeed v e
  .next (if v ≤ s.glob.feedCrimson && !s.power.gongOut then t.gong (gongRecord 0x02 0x0 0 v e)
    else if v ≤ s.glob.feedAmber && !s.power.feedAmber then t.feedEntersAmber v e
    else t)

/-- A segment treats the feed as stale (R416). -/
def staleSegment (g : Segment) : Segment := { g with supply := { g.supply with feedStale := true, throttled := true } }

/-- A segment has received no feed reading for 50 µs, ten beats (R416). -/
def noFeed (now : Stamp) (u : SupplyS) : Bool := match u.feedAt with
  | some a => !before now (plusBeats a 10)
  | none => true

/-- FEED_STALE (R416): the segment enters amber, or stays in it. -/
def execFeedStale (cyc seg : Nat) (s : State) : Result :=
  let e := s.arrival cyc
  let was := s.feedInAmber
  let t := (s.onSeg seg staleSegment).count (fun c => { c with feedStale := c.feedStale + 1 })
  let t := { t with power := { t.power with feedAbove := none } }
  let t := if was then t else t.countAmber
  onlyIf (s.segUp seg && !(s.seg seg).supply.feedStale && noFeed e (s.seg seg).supply) (t.raise seg 0x05 0x0 0 0 e (supplyDetail true 0xFFFF)) s

/-! Core rails. -/

/-- A rail's level noted (R380, R382). -/
def noteRail (droop : Nat) (e : Stamp) (u : SupplyS) : SupplyS :=
  { u with droop := droop, railAbove := aboveSince (droop < railClearBelow) e u.railAbove }

/-- A rail enters amber: its segment throttles (R381). -/
def railEnters (u : SupplyS) : SupplyS := { u with railAmber := true, throttled := true, railEntries := u.railEntries + 1 }

/-- RAIL_DROOP_EDGE (R380 to R385). -/
def execRailDroopEdge (cyc seg droop : Nat) (s : State) : Result :=
  let v := droop % 65536
  let e := s.arrival cyc
  let t := s.onSeg seg (fun g => { g with supply := noteRail v e g.supply })
  let amber := t.onSeg seg (fun g => { g with supply := railEnters g.supply })
  onlyIf (s.hasSeg seg)
    (if railCrimsonAt ≤ v && !s.power.gongOut then t.gong (gongRecord 0x01 0x1 seg v e)
     else if railAmberAt ≤ v && !(s.seg seg).supply.railAmber then (amber.raiseRail seg 0x05 v e).countAmber
     else t) s

/-! Clearing. -/

/-- The feed has cleared: its amber and every stale mark end (R382, R416). -/
def State.feedClears (s : State) : State :=
  let t := s.onSegs (fun _ g => { g with supply := { g.supply with feedStale := false } })
  ({ t with power := { t.power with feedAmber := false } } : State).throttle

/-- A rail has cleared (R382). -/
def railClears (feedAmber : Bool) (u : SupplyS) : SupplyS := throttleOf feedAmber { u with railAmber := false }

/-- SUPPLY_CLEAR (R382). -/
def execSupplyClear (source : Source) (s : State) : Result :=
  match source with
  | .feed =>
    onlyIf (s.feedInAmber && clearRun s.glob.clearBt s.edge s.power.feedAbove)
      (s.feedClears.raiseFeed 0x06 s.power.feed s.edge) s
  | .rail i =>
    let u := (s.seg i).supply
    onlyIf (u.railAmber && clearRun s.glob.clearBt s.edge u.railAbove)
      ((s.onSeg i (fun g => { g with supply := railClears s.power.feedAmber g.supply })).raiseRail i 0x06 u.droop s.edge) s

/-! The margin loop. -/

/-- A segment whose measurement found the margin below its threshold, while a voltage request or a clock step is allowed. -/
def requestVoltage (h : Health) : Health := { h with vcoreMv := h.vcoreMv + 5, vreqOut := true }

/-- A clock step of 25 MHz due at the next beat edge. -/
def scheduleStep (h : Health) : Health := { h with stepDown := true }

/-- DETAIL of MARGIN_REPLAN (R294). -/
def replanDetail (margin : Int) (clock plan : Nat) : Nat := packMsb [(16, unsigned 16 margin), (16, clock), (16, plan), (64, 0)]

/-- The first action that the limits allow (R377). A step of the loop waits for VREQ_ACK (R415). -/
def State.trimMargin (s : State) (seg : Nat) (margin : Int) : State :=
  let h := (s.seg seg).health
  if h.vreqOut then s
  else if h.vcoreMv + 5 ≤ s.glob.vcoreMax then s.onSeg seg (fun g => { g with health := requestVoltage g.health })
  else if s.glob.planClock + 25 ≤ h.clockMhz then s.onSeg seg (fun g => { g with health := scheduleStep g.health })
  else s.raise seg 0x08 0x1 seg 0 s.edge (replanDetail margin h.clockMhz s.glob.planClock)

/-- A margin published (R376). -/
def marginMeasured (margin : Int) (h : Health) : Health := { h with marginPs := margin, remeasure := false }

/-- MARGIN_MEASUREMENT (R376, R377, R383): discarded, and due again, while the segment's rail is in amber. -/
def execMarginMeasurement (seg : Nat) (marginPs : Int) (s : State) : Result :=
  let g := s.seg seg
  let t := s.onSeg seg (fun g => { g with health := marginMeasured marginPs g.health })
  let due := s.time.beat % 2 ^ 20 == 0 || g.health.remeasure
  onlyIf (s.segUp seg && due)
    (if g.supply.railAmber then s.onSeg seg (fun g => { g with health := { g.health with remeasure := true } })
     else if marginPs < (s.glob.marginFloor : Int) then t.loseAny seg 0x06 s.edge
     else if marginPs < (s.glob.marginThreshold : Int) then t.trimMargin seg marginPs
     else t) s

/-- The arithmetic clock stepped down, in the fault record too (R377). -/
def steppedClock (h : Health) : Health :=
  { h with clockMhz := h.clockMhz - 25, recordMhz := h.recordMhz - 25, stepDown := false }

/-- CLOCK_STEP (R377): at a beat edge, and not while the segment's rail is in amber (R383). A step that a planning clock raised in
between no longer allows is not made, and the third action of R377 is left (R67). -/
def execClockStep (seg : Nat) (s : State) : Result :=
  let g := s.seg seg
  let h := g.health
  let stepped := s.onSeg seg (fun g => { g with health := steppedClock g.health })
  let dropped := s.onSeg seg (fun g => { g with health := { g.health with stepDown := false } })
  onlyIf (s.segUp seg && h.stepDown && !g.supply.railAmber)
    (if s.glob.planClock + 25 ≤ h.clockMhz then stepped
     else dropped.raise seg 0x08 0x1 seg 0 s.edge (replanDetail h.marginPs h.clockMhz s.glob.planClock)) s

/-- VREQ_ACK (R415): the regulator has settled at the last request. -/
def execVreqAck (seg : Nat) (s : State) : Result :=
  onlyIf (s.segUp seg) (s.onSeg seg (fun g => { g with health := { g.health with vreqOut := false } })) s

/-! The stack's PHY. -/

/-- A PHY window may be granted: at most one every 2^12 bt (R407). -/
def phyFree (beat : Nat) (last : Option Nat) : Bool := match last with
  | some b => b + 2 ^ 12 ≤ beat
  | none => true

/-- PHY_UPDATE_REQUEST (R407): granted by the Stack Controller, which notes the window it gave. A stack in self-refresh has none
(R406). -/
def execPhyUpdateRequest (seg : Nat) (_master : Bool) (s : State) : Result :=
  onlyIf (s.segUp seg && s.power.hush != 1 && phyFree s.time.beat (s.seg seg).stack.phyWindow)
    (s.onSeg seg (fun g => { g with stack := { g.stack with phyWindow := some s.time.beat } })) s

end Sys2Proof.Machine
end

