-- ==== Sys2Proof/Machine/Bringup.lean ====
section
/-! DEFINITION. Reset inputs (R387, R388, R400) and bring-up: self-test, training, reduced service, joining and full service (R389 to
R393, R406). -/

namespace Sys2Proof.Machine

/-! Reset inputs. -/

/-- A reset input asserted on a segment. -/
def holdInput (k : ResetInput) (g : Segment) : Segment := { g with resetIn := if g.resetIn.contains k then g.resetIn else g.resetIn ++ [k] }

/-- The block after the power-on reset of its manager's segment: the beat is to be acquired anew (R388). -/
def State.powerOn (s : State) : State := { s.coldReset with time := {}, power := {} }

/-- A segment after a reset of its own: one that was lost stays lost, until a reset of the block or a rejoin (R359, R386). -/
def resetAlone (f : Segment → Segment) (g : Segment) : Segment :=
  if g.state == .lost then { f g with state := .lost, lostReason := g.lostReason, inReset := true } else f g

/-- A segment other than the manager leaves the block by a reset of its own: what needs it ends as at a loss (R387, R400). -/
def State.segResets (s : State) (i : Nat) (f : Segment → Segment) : State :=
  let e := s.stampFor 0
  let t := if (s.seg i).state == .serving then (s.given e).segsLeave [i] .stepLost e else s
  (t.dropStandby i).onSeg i (resetAlone f)

/-- POWER_ON_RESET (R387, R388, R400). -/
def execPowerOnReset (seg : Nat) (s : State) : Result :=
  s.inBlockOf (s.inSecond seg) (fun s =>
    onlyIf (s.hasSeg seg)
      (if seg == s.mgr then s.powerOn.onSeg seg powerOnSegment
       else if s.power.inReset then s.onSeg seg powerOnSegment
       else s.segResets seg powerOnSegment) s)

/-- COLD_RESET (R387, R400): on any segment, a cold reset of the whole block. -/
def execColdReset (seg : Nat) (s : State) : Result :=
  s.inBlockOf (s.inSecond seg) (fun s =>
    onlyIf (s.hasSeg seg) (s.coldReset.onSeg seg (holdInput .cold)) s)

/-- A segment in a warm reset of its own. -/
def warmSegment (g : Segment) : Segment := holdInput .warm (resetSegment true g)

/-- WARM_RESET (R387, R400): of the block on the manager, of the segment alone elsewhere; without effect beside a cold reset. -/
def execWarmReset (seg : Nat) (s : State) : Result :=
  s.inBlockOf (s.inSecond seg) (fun s =>
    onlyIf (s.hasSeg seg)
      (if s.power.inReset then s.onSeg seg (holdInput .warm)
       else if seg == s.mgr then s.warmReset.onSeg seg (holdInput .warm)
       else s.segResets seg warmSegment) s)

/-- An input holds the whole block in reset: the manager's, or a cold reset input on any segment (R400). -/
def State.blockHeld (s : State) : Bool :=
  !(s.seg s.mgr).resetIn.isEmpty || s.segs.any (fun g => g.resetIn.contains .cold)

/-- A single segment leaves reset while the block serves. -/
def State.segReleased (s : State) (i : Nat) : State :=
  (s.onSeg i (releaseSegment s.time.beat i)).stackKeysAt i

/-- RESET_RELEASE (R390, R400). -/
def execResetRelease (input : ResetInput) (seg : Nat) (s : State) : Result :=
  s.inBlockOf (s.inSecond seg) (fun s =>
    let t := s.onSeg seg (fun g => { g with resetIn := g.resetIn.filter (· != input) })
    onlyIf (s.hasSeg seg && (s.seg seg).resetIn.contains input)
      (if s.power.inReset then (if t.blockHeld || s.power.gongOut then t else t.bringUp)
       else if (t.seg seg).resetIn.isEmpty && (t.seg seg).state == .held then t.segReleased seg
       else t) s)

/-- A rail has stayed above its clear level for CLEAR_BT beats, or never fell to it (R384). -/
def railClear (clearBt : Nat) (edge : Stamp) (u : SupplyS) : Bool :=
  u.droop < railClearBelow && (u.railAbove.isNone || clearRun clearBt edge u.railAbove)

/-- A segment's core rail can be read: its always-on domain, which holds the detector, is not in its power-on reset. DESIGN CHOICE (log
entry 37): R384 does not say which rails cannot be read. -/
def railReadable (g : Segment) : Bool := !g.resetIn.contains .aoPor

/-- A segment's rail lets the block leave the reset of a GONG (R384). -/
def railReady (clearBt : Nat) (edge : Stamp) (g : Segment) : Bool := !railReadable g || railClear clearBt edge g.supply

/-- GONG_RESET_RELEASE (R384, R400): GONG_OUT stays high until the block leaves reset, which a reset input still asserted holds off. -/
def execGongResetRelease (s : State) : Result :=
  let ready := clearRun s.glob.clearBt s.edge s.power.feedAbove && s.segs.all (railReady s.glob.clearBt s.edge)
  onlyIf (s.power.inReset && s.power.gongOut && ready && !s.blockHeld) s.bringUp s

/-! Self-test and training. -/

/-- The columns of one array that a self-test found failed. -/
def columnsOf (a : Arr) (l : List (Arr × Nat)) : List Nat := (l.filter (fun e => e.1 == a && e.2 < 264)).map (·.2)

/-- An array after its self-test: the remap table of the fault record stands, and the columns newly found failed are remapped (R93,
R97, R389). -/
def testArray (cols : List Nat) (a : ArrayS) : ArrayS :=
  let a := { a with faults := cols.foldl (fun l c => insertNat c l) a.faults }
  { a.faults.foldl remapColumn a with state := .held, pendingRemap := [] }

/-- A segment that has passed its self-test (R393). -/
def testedSegment (cols : List (Arr × Nat)) (g : Segment) : Segment :=
  { g with selfTested := true, ma0 := testArray (columnsOf .ma0 cols) g.ma0, ma1 := testArray (columnsOf .ma1 cols) g.ma1 }

/-- A segment has yet to join (R373). -/
def State.farWaits (s : State) : Bool := s.segs.any (fun g => g.state == .joining)

/-- A rejoin is over when the last segment has joined or been reported lost (R373, R379). -/
def State.rejoined (s : State) : State :=
  if s.roles.splitState == 3 && !s.farWaits then { s with roles := { s.roles with splitState := 0 } } else s

/-- A segment fails at bring-up or at a rejoin: reported lost with reason SELF_TEST (R393, R406). -/
def State.bringUpFails (s : State) (cyc i : Nat) : State :=
  let e := s.stampFor cyc
  ((s.given e).loseAny i 0x0A e).rejoined

/-- The manager's self-test ends stage 1: its SPDM responder opens (R390). -/
def State.stageTwo (s : State) : State :=
  { s with power := { s.power with stage := 2 }, trust := { s.trust with spdmOpen := true } }

/-- SELF_TEST_COMPLETE (R390, R393). -/
def execSelfTestComplete (cyc seg : Nat) (ok : Bool) (columns : List (Arr × Nat)) (s : State) : Result :=
  let t := s.onSeg seg (testedSegment columns)
  onlyIf (s.segUp seg && (s.seg seg).state == .joining && !(s.seg seg).selfTested)
    (if !ok then s.bringUpFails cyc seg else if seg == s.mgr then t.stageTwo else t) s

/-- STACK_TRAINING_COMPLETE (R390, R406). -/
def execStackTrainingComplete (cyc seg : Nat) (ok : Bool) (s : State) : Result :=
  onlyIf (s.segUp seg && (s.seg seg).state == .joining && !(s.seg seg).stack.trained && (seg != s.mgr || s.power.stage == 2))
    (if !ok then s.bringUpFails cyc seg else s.onSeg seg (fun g => { g with stack := { g.stack with trained := true } })) s

/-! Reduced service. -/

/-- Every failed column of an array has a spare (R93, R94). -/
def arrayWhole (a : ArrayS) : Bool := a.faults.all (fun c => 256 ≤ c || a.remap.any (fun e => e.valid && e.logical == c))

/-- The state in which an array enters service: columns marked failed since its self-test are remapped first (R93). -/
def arrayEnters (a : ArrayS) : ArrayS :=
  let a := if a.pendingRemap.isEmpty then a else remapAll a
  { a with state := if arrayWhole a then .serving else .failed }

/-- A segment that joins at a beat: its queues return to NORMAL and it takes heartbeats (R291, R393). -/
def joined (mgr beat : Nat) (g : Segment) : Segment :=
  let g := holdQueues ⟨beat, 0⟩ false g
  { g with state := .serving, lastHb := beat, lastAck := beat, hbFrom := mgr, nq := { g.nq with owner := false } }

/-- The manager's segment in reduced service: 1.6 GHz, and MA1 held (R67, R391). -/
def reducedSegment (g : Segment) : Segment :=
  { g with health := { g.health with clockMhz := 1600 }, ma0 := arrayEnters g.ma0, ma1 := { g.ma1 with state := .held } }

/-- Resident programs under a clock (R69, R391). -/
def State.programsAt (s : State) (f : Program → Program) : State :=
  { s with parts := s.parts.map (fun p => { p with programs := p.programs.map f }) }

/-- REDUCED_SERVICE_OPEN (R390, R391): at the end of stage 2, once the beat has been acquired. -/
def execReducedServiceOpen (s : State) : Result :=
  let m := s.seg s.mgr
  let t := s.onSeg s.mgr (fun g => reducedSegment (joined s.mgr s.time.beat g))
  let t := { t with power := { t.power with stage := 3 } }
  onlyIf (s.mgrAwake && s.power.stage == 2 && m.selfTested && m.stack.trained && s.time.acquired)
    ((t.programsAt (rescale 1600)).endpointMode false).settleReads s

/-! Joining. -/

/-- The bytes of a stack's screen region come from the manager's (R362, R393). -/
def takeScreen (screenMib : Nat) (src : Memory) (g : Segment) : Segment :=
  let lo := 2 ^ 28
  let hi := 2 ^ 28 + screenMib * 2 ^ 20
  let m := g.stack.mem
  { g with stack := { g.stack with
    mem := m.filter (fun c => c.1 < lo) ++ src.filter (fun c => lo ≤ c.1 && c.1 < hi) ++ m.filter (fun c => hi ≤ c.1) } }

/-- A segment has done what joining asks of it, but for the manager's comparison (R393). -/
def State.readyToJoin (s : State) (i : Nat) : Bool :=
  let g := s.seg i
  s.segUp i && g.state == .joining && g.selfTested && g.stack.trained && !g.trust.testHeld && s.hasJoinedLink i

/-- The segment that R3 names becomes the standby's candidate as it joins at bring-up (R30, R393). -/
def State.standbyJoins (s : State) (i : Nat) : Bool :=
  s.cfg.kind.hasStandby && s.mgr == 0 && i == s.cfg.kind.halfA && s.roles.splitState == 0 && s.roles.standby.isNone
    && s.roles.candidate.isNone

/-- An array that enters service failed is reported (R94, R374); both failed lose the segment. -/
def State.reportArrays (s : State) (i : Nat) (e : Stamp) : State :=
  let f (t : State) (a : Arr) : State :=
    if ((t.seg i).array a).state == .failed then t.raiseLost i (arrayReason a) e else t
  let t := [Arr.ma0, Arr.ma1].foldl f s
  if (t.seg i).ma0.state == .failed && (t.seg i).ma1.state == .failed then t.loseAny i bothArraysFailed e else t

/-- A segment joins (R393): it takes part in screen steps from here on, and the last of a far half ends the rejoin (R373). -/
def State.join (s : State) (i : Nat) : State :=
  let enter (g : Segment) : Segment :=
    let g := takeScreen s.screenMib (s.seg s.mgr).stack.mem (joined s.mgr s.time.beat g)
    { g with ma0 := arrayEnters g.ma0, ma1 := arrayEnters g.ma1 }
  let t := s.onSeg i enter
  let t := if s.standbyJoins i then t.nameStandby i else t
  t.settleReads.rejoined.reportArrays i s.edge

/-- A freeze of the screen partition takes place now: its loop's freeze is due at the present edge. While no loop runs there is none to
wait for, and a segment joins at once (DESIGN CHOICE, log entry 37). -/
def State.screenFreeze (s : State) : Bool :=
  if (s.part 15).lc.running then s.freezeDue 15 .lc else (s.stepOf 15 .lc).isNone

/-- SEGMENT_JOIN (R10, R330, R393): at a freeze of the screen partition; a segment of another version or lifecycle state is reported
lost. -/
def execSegmentJoin (seg : Nat) (s : State) : Result :=
  let g := s.seg seg
  let m := s.seg s.mgr
  onlyIf (s.mgrUp && seg != s.mgr && s.readyToJoin seg && s.screenFreeze)
    (if g.trust.version != m.trust.version then s.loseSegment seg 0x08 s.edge
     else if g.trust.lifecycle != m.trust.lifecycle then s.loseSegment seg 0x09 s.edge
     else s.join seg) s

/-- JOIN_DEADLINE (R393). -/
def execJoinDeadline (seg : Nat) (s : State) : Result :=
  let g := s.seg seg
  onlyIf (s.mgrUp && s.segUp seg && seg != s.mgr && g.state == .joining && g.joinDeadline ≤ s.time.beat) (s.bringUpFails 0 seg) s

/-! Full service. -/

/-- A program's worst-case time against the planning clock (R69). -/
def planned (clock : Nat) (g : Program) : Program :=
  { g with wcet := if clock < g.image.clock then rescaledWcet clock g.image else g.image.wcet }

/-- The manager's segment in full service: the clock of its fault record, and MA1 (R393). -/
def fullSegment (g : Segment) : Segment :=
  { g with health := { g.health with clockMhz := g.health.recordMhz }, ma1 := if g.ma1.state == .held then arrayEnters g.ma1 else g.ma1 }

/-- FULL_SERVICE (R390, R393): every configured segment has joined or been reported lost. -/
def execFullService (s : State) : Result :=
  let t := s.onSeg s.mgr fullSegment
  let t := { t with power := { t.power with stage := 4 } }
  onlyIf (s.mgrUp && s.power.stage == 3 && s.segs.all (fun g => g.state != .joining && g.state != .held))
    ((t.programsAt (planned s.glob.planClock)).reportArrays s.mgr s.edge) s

end Sys2Proof.Machine
end

