-- ==== Sys2Proof/Machine/Hush.lean ====
section
/-! DEFINITION. Hush: entry, wake and what they do to segments (R394 to R396). The writes of HUSH_CONTROL that ask for them are
acts of the object dictionary. -/

namespace Sys2Proof.Machine

/-- A module power-gated in hush: its link is to be trained anew (R394, R396). -/
def gateModule (m : ModuleS) : ModuleS := { m with up := false, authed := false, retraining := false, key := none }

/-- A Link Hub power-gated in hush. -/
def gateHub (h : Hub) : Hub :=
  { h with north := gateModule h.north, east := gateModule h.east, south := gateModule h.south, west := gateModule h.west }

/-- An array power-gated in hush: its weight registers and its prefetch buffer are empty at wake (R97, R396). -/
def gateArray (a : ArrayS) : ArrayS := { a with reg0 := {}, reg1 := {}, prefetch := [] }

/-- A segment at hush entry: gated, its heartbeat age frozen, its Beat Unit on its own reference if it has one (R395). -/
def hushSegment (beat : Nat) (g : Segment) : Segment :=
  { g with frozenAge := some (beat - g.lastHb), ownRef := g.refPresent, hub := gateHub g.hub, ma0 := gateArray g.ma0, ma1 := gateArray g.ma1 }

/-- The block is free of work (R394): no loop, no step, no plan, and no request, token or record that waits. -/
def State.workless (s : State) : Bool :=
  let idle (p : Partition) : Bool :=
    !p.lc.running && !p.be.running && p.lc.step.isNone && p.be.step.isNone && p.lcQueue.isEmpty && p.beQueue.isEmpty
  let still (q : Sequence) : Bool := q.plan.isNone && q.hold.isEmpty && q.backTokens.isEmpty && q.results.isEmpty
  s.parts.all idle && s.seqs.all (fun e => still e.2) && s.rings.all (fun e => e.2.backlogCount == 0)

/-- Hush may be asked for (R394). -/
def State.mayHush (s : State) : Bool := s.power.stage == 4 && s.roles.splitState == 0 && s.power.hush == 0 && s.workless

/-- HUSH_ENTRY (R394, R395). -/
def execHushEntry (s : State) : Result :=
  match s.power.hushAsked with
  | some b =>
    let t := s.onSegs (fun _ g => hushSegment s.time.beat g)
    onlyIf (s.mgrUp && b < s.time.beat) { t with power := { t.power with hush := 1, hushAsked := none } } s
  | none => .next s

/-- A segment at wake: its heartbeat age runs on, and every segment acknowledges anew (R395). -/
def wakeSegment (beat : Nat) (g : Segment) : Segment := match g.frozenAge with
  | some a => { g with frozenAge := none, lastHb := beat - a, lastAck := beat }
  | none => g

/-- The links between serving segments that have not trained, each named by its north or west end. -/
def State.untrained (s : State) : List (Nat × Dir) :=
  s.servingSegs.flatMap (fun i => ([Dir.east, Dir.south].filter (fun d => match neighbour s.segs.length i d with
    | some j => s.serving j && !s.linkFailed i d && !s.linkUp i d
    | none => false)).map (fun d => (i, d)))

/-- WAKE_COMPLETE (R396): at beat edge b + 50, from which what was committed in hush is in force (R395); a link that has not trained by then counts as failing its retraining (R145). -/
def execWakeComplete (s : State) : Result :=
  let t := s.onSegs (fun _ g => wakeSegment s.time.beat g)
  let t := { t with power := { t.power with hush := 0 }, prior := none }
  onlyIf (s.power.hush == 2 && s.power.wakeAt ≤ s.time.beat)
    (t.untrained.foldl (fun u x => u.moduleFailed x.1 x.2 0x10 s.edge) t) s

end Sys2Proof.Machine
end

