-- ==== Sys2Proof/Machine/Expedited.lean ====
section
/-! DEFINITION. Expedited writes of the object dictionary: WRITE_EXPEDITED (R315), and the write-only entries of 1 to 4 bytes that act at
the write, each with a command of its own: COMMIT and DISCARD (R320 to R323), LIFECYCLE_ADVANCE and the key rotations (R329, R340, R346),
FENCE_ACTION and REJOIN (R372, R373), HUSH_CONTROL (R394, R396) and RESET_CONTROL (R387). -/

namespace Sys2Proof.Machine

/-- A write's effect, and the words that answer it, none where it is answered later or not at all. -/
abbrev Answered := State × Option (List Nat)

/-- A write that ACK or an abort code answers. -/
def answered (h : OamHead) (r : State × Option Nat) : Answered := match r.2 with
  | none => (r.1, some (ackWords h 0))
  | some code => (r.1, some (abortWords h code))

/-- A write refused with an abort class. -/
def refused (h : OamHead) (class_ : Nat) (s : State) : Answered := (s, some (abortWords h (abortCode class_ 0)))

/-- A write of COMMIT: 1 commits the principal's staging set, 0 discards it; any other value is refused (R321, R323). An empty set
leaves nothing to commit, and takes no number. -/
def State.commitWrite (s : State) (who : Principal) (h : OamHead) (v : Nat) (e : Stamp) : Answered :=
  let set := s.stagedBy who
  if v == 0 then (s.unstage who, some (ackWords h 0))
  else if v != 1 then refused h 0x10 s
  else if set.isEmpty then (s, some (ackWords h (commitAck 0 s.objs.commitNo)))
  else
    let t := (s.commitSet who set e).unstage who
    (t, some (ackWords h (commitAck (s.draft set).log.length t.objs.commitNo)))

/-- A write of HUSH_CONTROL (R394, R396). -/
def State.hushWrite (s : State) (h : OamHead) (v : Nat) (e : Stamp) : Answered :=
  if v == 1 then
    if s.mayHush then ({ s with power := { s.power with hushAsked := some e.beat } }, some (ackWords h 0)) else refused h 0xB s
  else if v == 2 then (s.wakeEvent e.beat, some (ackWords h 0))
  else refused h 0x10 s

/-- A write of RESET_CONTROL: acted on at its stamp, and no ACK is sent (R387). -/
def State.resetWrite (s : State) (h : OamHead) (v : Nat) : Answered :=
  if v == 1 then (s.warmRestart, none) else if v == 2 then (s.coldRestart, none) else refused h 0x10 s

/-- A write of FENCE_ACTION (R372, R373). -/
def State.fenceWrite (s : State) (ep : Endpoint) (who : Principal) (h : OamHead) (v : Nat) (e : Stamp) : Answered :=
  if v == 1 then answered h (splitWrite ep who e s)
  else if v == 2 then answered h (rejoinPrepareWrite ep e s)
  else refused h 0x10 s

/-- A write of REJOIN, which is answered when it completes (R373). -/
def State.rejoinAsked (s : State) (ep : Endpoint) (h : OamHead) (v : Nat) : Answered :=
  if v != 1 then refused h 0x10 s
  else
    let r := rejoinWrite ep h.transfer s
    match r.2 with
    | none => (r.1, none)
    | some code => (s, some (abortWords h code))

/-- A write-only entry of 1 to 4 bytes acts at the write (R323). -/
def State.actWrite (s : State) (p : Path) (h : OamHead) (v : Nat) (e : Stamp) : Answered :=
  let who := s.principal p
  match h.index, h.sub with
  | 0x1100, 0x01 => s.commitWrite who h v e
  | 0x2000, 0x0D => s.fenceWrite p.ep who h v e
  | 0x2000, 0x0E => s.rejoinAsked p.ep h v
  | 0x2200, 0x30 => s.hushWrite h v e
  | 0x2200, 0x31 => s.resetWrite h v
  | 0x7000, 0x02 => answered h (lifecycleWrite v s)
  | 0x7000, 0x03 => answered h (envRotateWrite v s)
  | 0x7000, 0x04 => answered h (dimRotateWrite v s)
  | _, _ => refused h 1 s

/-- The answer to a write, if it has one now. -/
def State.answerWrite (p : Path) (r : Answered) : State := match r.2 with
  | some words => r.1.send p.ep words
  | none => r.1

/-- The effect of an expedited write whose entry may be written: it is staged, or acts (R315, R320, R323). -/
def State.writeEntryNow (s : State) (p : Path) (h : OamHead) (data : Nat) (o : Obj) (e : Stamp) : Answered :=
  let v := data % 2 ^ (8 * (h.size + 1))
  if o.shape.size.isNone then refused h 5 s
  else if sizeBroken o h.index h.sub (h.size + 1) then refused h 4 s
  else if o.access == .rws then (s.stage (s.principal p) h.index h.sub (bytesLe (h.size + 1) v), some (ackWords h 0))
  else s.actWrite p h v e

/-- A WRITE_EXPEDITED as it is answered, at its stamp (R315, R318). -/
def State.doWrite (s : State) (p : Path) (h : OamHead) (data : Nat) (e : Stamp) : State :=
  let s := (s.replaceTransfer p.ep h.transfer).given e
  match s.writeBar (s.principal p) h.index h.sub, s.object (s.principal p) h.index h.sub with
  | none, some o => State.answerWrite p (s.writeEntryNow p h data o e)
  | some code, _ => s.send p.ep (abortWords h code)
  | none, none => s

/-- A write that an I3C target takes itself, without a route to a live manager: FENCE_ACTION at a fenced standby's target (R372,
R373). -/
def State.takesAlone (s : State) (p : Path) (h : OamHead) : Bool :=
  h.index == 0x2000 && h.sub == 0x0D && (match p.ep with
    | .i3c k => s.roles.mirrorSeg == some k && (s.seg k).state == .fenced
    | _ => false)

/-- An expedited write on a path of the block. -/
def expeditedHere (cyc : Nat) (p : Path) (h : OamHead) (data : Nat) (s : State) : Result :=
  let w := [oamWord 2 h, data % 2 ^ 32]
  let act (t : State) : State := t.doWrite p h (data % 2 ^ 32) (t.stampFor cyc)
  if s.takesAlone p h then onlyIf (s.arrives p w) (act (s.takeIn p.ep w)) s else s.answerMsg p h w act

/-- An expedited write on a path; one at an I3C target of the other block of split mode is that block's (R372). -/
def State.expedited (s : State) (cyc : Nat) (p : Path) (h : OamHead) (data : Nat) : Result :=
  s.inBlockOf (s.farPath p.ep) (expeditedHere cyc p h data)

/-- The head of an expedited write of one entry, with SIZE as coded. -/
def entryHead (transfer index sub size : Nat) : OamHead := { transfer := transfer, index := index, sub := sub, size := size }

/-- WRITE_EXPEDITED (R315). -/
def execWriteExpedited (cyc : Nat) (path : Path) (head : OamHead) (data : Nat) (s : State) : Result := s.expedited cyc path head data

/-- COMMIT (R321, R322): a write of 1 to COMMIT. -/
def execCommit (cyc : Nat) (path : Path) (transfer : Nat) (s : State) : Result := s.expedited cyc path (entryHead transfer 0x1100 0x01 0) 1

/-- DISCARD (R321): a write of 0 to COMMIT. -/
def execDiscard (cyc : Nat) (path : Path) (transfer : Nat) (s : State) : Result := s.expedited cyc path (entryHead transfer 0x1100 0x01 0) 0

/-- LIFECYCLE_ADVANCE (R329). -/
def execLifecycleAdvance (cyc : Nat) (path : Path) (transfer value : Nat) (s : State) : Result :=
  s.expedited cyc path (entryHead transfer 0x7000 0x02 0) value

/-- ENVELOPE_KEY_ROTATE (R340). -/
def execEnvelopeKeyRotate (cyc : Nat) (path : Path) (transfer mask : Nat) (s : State) : Result :=
  s.expedited cyc path (entryHead transfer 0x7000 0x03 1) mask

/-- DIM_KEY_ROTATE (R346). -/
def execDimKeyRotate (cyc : Nat) (path : Path) (transfer mask : Nat) (s : State) : Result :=
  s.expedited cyc path (entryHead transfer 0x7000 0x04 1) mask

/-- SPLIT_MODE (R372): a write of 1 to FENCE_ACTION. -/
def execSplitMode (cyc : Nat) (path : Path) (transfer : Nat) (s : State) : Result :=
  s.expedited cyc path (entryHead transfer 0x2000 0x0D 0) 1

/-- REJOIN_PREPARE (R373): a write of 2 to FENCE_ACTION. -/
def execRejoinPrepare (cyc : Nat) (path : Path) (transfer : Nat) (s : State) : Result :=
  s.expedited cyc path (entryHead transfer 0x2000 0x0D 0) 2

/-- REJOIN (R373). -/
def execRejoin (cyc : Nat) (path : Path) (transfer : Nat) (s : State) : Result := s.expedited cyc path (entryHead transfer 0x2000 0x0E 0) 1

/-- HUSH_ENTER (R394): a write of 1 to HUSH_CONTROL. -/
def execHushEnter (cyc : Nat) (path : Path) (transfer : Nat) (s : State) : Result :=
  s.expedited cyc path (entryHead transfer 0x2200 0x30 0) 1

/-- WAKE (R396): a write of 2 to HUSH_CONTROL. -/
def execWake (cyc : Nat) (path : Path) (transfer : Nat) (s : State) : Result := s.expedited cyc path (entryHead transfer 0x2200 0x30 0) 2

/-- RESET_WARM (R387): a write of 1 to RESET_CONTROL. -/
def execResetWarm (cyc : Nat) (path : Path) (s : State) : Result := s.expedited cyc path (entryHead 0 0x2200 0x31 0) 1

/-- RESET_COLD (R387): a write of 2 to RESET_CONTROL. -/
def execResetCold (cyc : Nat) (path : Path) (s : State) : Result := s.expedited cyc path (entryHead 0 0x2200 0x31 0) 2

end Sys2Proof.Machine
end

