-- ==== Sys2Proof/Machine/Faults.lean ====
section
/-! DEFINITION. Errors that the block detects and what they cost (R353 to R357): counted, discarded steps, lost holders, stopped
partitions and stack channels that leave service. Which sequences and entries hold a failed page their block maps and records say. -/

namespace Sys2Proof.Machine

/-! Counting. -/

/-- An uncorrectable error counted in UNCORRECTED_ERRORS (R379). -/
def State.uncorrectable (s : State) (seg : Nat) : State :=
  s.onSeg seg (fun g => { g with health := { g.health with uncorrected := g.health.uncorrected + 1 } })

/-- A corrected read of a channel noted beside those of the last 2^20 bt (R357). -/
def countCorrected (beat channel : Nat) (l : List (Nat × List Nat)) : List (Nat × List Nat) :=
  aSet channel (((aGet channel l).getD []).filter (fun b => beat ≤ b + 2 ^ 20) ++ [beat]) l

/-- A segment after a correctable error, of a stack channel or of another source. -/
def corrected (beat : Nat) (channel : Option Nat) (g : Segment) : Segment :=
  let g := { g with health := { g.health with corrected := g.health.corrected + 1 } }
  match channel with
  | some c => { g with stack := { g.stack with corrected := countCorrected beat (c % 32) g.stack.corrected } }
  | none => g

/-- CORRECTABLE_ERROR (R353): counted, and nothing else. -/
def execCorrectableError (seg : Nat) (channel : Option Nat) (s : State) : Result :=
  onlyIf (s.segUp seg) (s.onSeg seg (corrected s.time.beat channel)) s

/-! Data-path errors (R354, R355). -/

/-- The step whose allocation holds a unit of staging SRAM. -/
def Segment.allocStep (g : Segment) (unit : Nat) : Option (Nat × Cls) :=
  (g.allocs.find? (fun a => a.base ≤ unit && unit < a.base + a.units)).map (fun a => (a.part, a.cls))

/-- An error that affects a step, or names none and is counted only. -/
def State.stepError (s : State) (cyc seg : Nat) (step : Option (Nat × Cls)) : State :=
  match step with
  | some x => s.dataPathError cyc seg x.1 x.2
  | none => s.uncorrectable seg

/-- The record of a scan group whose queries end: OUTCOME DISCARDED; the launch fields that a step record has and a scan group has not
are unstated (R228, R257, log entry 23). -/
def State.groupRecord (s : State) (e : Stamp) (members : List Nat) : State :=
  let q := (s.live (members.headD 0)).getD {}
  let p := (q.plan.getD {}).part
  let w (k : Nat) : Nat := Config.unstated (6 + k) s.free
  let r := stepRecord p q.req.cls .discarded (w 0 % 2 ^ 16) (w 1 % 2 ^ 32) (w 2 % 2 ^ 64) e members.length 0
  ({ s with free := s.free + 1 }).sendStepRecord p r

/-- An uncorrectable error in a scan group on a segment: every query of the group ends with STEP_LOST (R257). -/
def State.scanLaneError (s : State) (cyc seg : Nat) : State :=
  let t := s.uncorrectable seg
  match (s.seg seg).scanGroup with
  | some g =>
    let act := g.members.filter (fun k => !g.inactive.contains k)
    let e := s.stampFor cyc
    let t := (t.given e).groupRecord e act
    act.foldl (fun u k => u.endSeq k .stepLost e) t
  | none => t

/-- UNCORRECTABLE_DATA_ERROR (R354). -/
def execUncorrectableDataError (cyc seg : Nat) (source : DataSource) (s : State) : Result :=
  onlyIf (s.segUp seg) (match source with
    | .array p c => s.dataPathError cyc seg p c
    | .step p c => s.dataPathError cyc seg p c
    | .staging unit => s.stepError cyc seg ((s.seg seg).allocStep unit)
    | .scanLane => s.scanLaneError cyc seg
    | .nameless => s.uncorrectable seg) s

/-! Control errors (R353). -/

/-- A segment with an uncorrectable control error is lost, or the manager is. -/
def State.controlError (s : State) (seg : Nat) (e : Stamp) : State := (s.uncorrectable seg).loseAny seg 0x03 e

/-- UNCORRECTABLE_CONTROL_ERROR (R353). -/
def execUncorrectableControlError (cyc seg : Nat) (s : State) : Result :=
  let e := s.stampFor cyc
  onlyIf (s.segUp seg && (s.seg seg).state != .lost) ((s.given e).controlError seg e) s

/-! Stack errors (R356). -/

/-- A directory entry that loses its bright copy: BOTH becomes DIM, BRIGHT becomes a tombstone (R356). -/
def State.loseBright (s : State) (e : Stamp) (slot : Nat) : State :=
  let put (t : State) (p n : Nat) : State := t.returnPages p n e
  match s.entry slot with
  | some h =>
    if h.tier == .both then (s.freeBright slot put).onEntry slot (fun h => { h with tier := .dim })
    else if h.tier == .bright then s.tombstone slot put
    else s
  | none => s

/-- The holders of a failed page or table page lose it (R356). -/
def State.holdersLose (s : State) (e : Stamp) (seqs entries : List Nat) : State :=
  let t := seqs.foldl (fun t k => t.endSeq k .stepLost e) s
  entries.foldl (fun t k => t.loseBright e k) t

/-- The live sequences and directory entries of a segment's partition of whose caches something holds. -/
def State.cachesWhere (s : State) (seg : Nat) (has : Nat → CacheRef → Bool) : List Nat × List Nat :=
  match s.ownerOf seg with
  | some p =>
    ((s.seqs.filter (fun e => e.2.req.part == p && !e.2.pagesBack && has p (.seq e.1))).map (·.1),
     (s.handles.filter (fun e => e.2.part == p && has p (.entry e.1))).map (·.1))
  | none => ([], [])

/-- A cache's block records name a page on a segment. -/
def State.holdsPage (s : State) (seg : Nat) (page : Nat → Bool) (c : CacheRef) : Bool :=
  (s.mapOf c).any (fun x => x.2.pages.any (fun u => u.seg == seg && page u.page))

/-- A cache's block maps or block records lie in a table page of a segment (R175). -/
def State.holdsTable (s : State) (seg : Nat) (page : Nat → Bool) (p : Nat) (c : CacheRef) : Bool :=
  let draft := match s.cacheOf c with | some x => x.2.2.1 | none => false
  (s.rootValid c && (page (s.mapPage p seg c false) || (draft && page (s.mapPage p seg c true))))
    || (s.mapOf c).any (fun x => x.2.records.any (fun r => r.1 == seg && page r.2.2))

/-- What the loss of a unit does, by its region (R356). An error of the block reserve is an uncorrectable control error, counted once with
the error of the read. -/
def State.regionLost (s : State) (seg : Nat) (e : Stamp) : StackRegion → State
  | .pagePool page =>
    let l := s.cachesWhere seg (fun _ c => s.holdsPage seg (· == page) c)
    s.holdersLose e l.1 l.2
  | .tablePool page =>
    let l := s.cachesWhere seg (s.holdsTable seg (· == page))
    s.holdersLose e l.1 l.2
  | .modelArea => match s.ownerOf seg with
    | some p => s.stopPartition p .stepLost e
    | none => s
  | .retrievalArea => match s.ownerOf seg with
    | some p => s.stopPartition p .stepLost e
    | none => s
  | .screenRegion => s.onSeg seg (fun g => { g with stack := { g.stack with screenCopy := true } })
  | .blockReserve => s.loseAny seg 0x03 e

/-- Pages taken out of a list of pages on their way back. -/
def takeReturning : Nat → List (Nat × Stamp) → List (Nat × Stamp)
  | _, [] => []
  | n, r :: rest => if r.1 ≤ n then takeReturning (n - r.1) rest else (r.1 - n, r.2) :: rest

/-- A pool made smaller: its free pages go first, then those on their way back (R174). -/
def shrunk (n : Nat) (p : Partition) : Partition :=
  let d := p.poolPages - n
  { p with poolPages := n, poolFree := p.poolFree - d, returning := takeReturning (d - p.poolFree) p.returning }

/-- The pool of a segment's partition follows what is mapped out. -/
def State.repool (s : State) (seg : Nat) : State :=
  match s.ownerOf seg with
  | some p =>
    let n := s.poolOf p
    if n < (s.part p).poolPages then s.onPart p (shrunk n) else s
  | none => s

/-- A page, or a unit of the table pool, counts in PAGES_MAPPED_OUT (R356). -/
def regionCounts : StackRegion → Bool
  | .pagePool _ => true
  | .tablePool _ => true
  | _ => false

/-- The page frames of a segment's pool that replace units elsewhere: the top ones that no cache holds (R356, R357). -/
def State.topPages (s : State) (seg n : Nat) : List Nat :=
  match s.ownerOf seg with
  | some p =>
    let used := s.usedPages p seg
    (((List.range (s.part p).layout).reverse).filter (fun k => (s.seg seg).stack.gives k && !used.contains k)).take n
  | none => []

/-- A unit mapped out: a page leaves the pool, or a page frame replaces the unit (R356). -/
def State.mapOut (s : State) (seg addr : Nat) (region : StackRegion) : State :=
  let gone : List Nat := match region with
    | .pagePool page => [page]
    | _ => s.topPages seg 1
  s.onSeg seg (fun g =>
    { g with stack := { g.stack with
               mappedOut := (match region with | .pagePool _ => g.stack.mappedOut | _ => insertNat addr g.stack.mappedOut),
               taken := gone.foldl (fun l k => insertNat k l) g.stack.taken },
             cnt := { g.cnt with pagesOut := g.cnt.pagesOut + flag (regionCounts region) } })

/-- Where a failed unit lies: the channel that R174 gives it, and its address, of a page its offset in the channel's share; an interleaved
unit lies in its region (R173, R174). -/
def State.unitAt (s : State) (seg channel addr : Nat) (region : StackRegion) : Bool :=
  let p := s.ownerOf seg
  let b := s.regionBases (p.getD 0)
  let within (lo hi : Nat) : Bool := channel == stackChannel addr && lo ≤ addr && addr < hi
  match region with
  | .pagePool page => p.isSome && page < (s.part (p.getD 0)).layout && pagePlace page == (channel, addr)
  | .tablePool page =>
    p.isSome && 0 < page && page < (s.part (p.getD 0)).tablePages && addr / 4096 == b.2.2 / 4096 + page && channel == stackChannel addr
  | .modelArea => p.isSome && within b.1 b.2.1
  | .retrievalArea => p.isSome && within b.2.1 b.2.2
  | .screenRegion => within (2 ^ 28) (2 ^ 28 + s.screenMib * 2 ^ 20)
  | .blockReserve => within 0 (2 ^ 28)

/-- An uncorrectable read of a channel noted; a second within 2^20 bt of the first fails the channel (R357). -/
def noteUncorr (beat channel : Nat) (k : StackS) : StackS :=
  let second : Bool := match aGet channel k.lastUncorr with
    | some b => beat ≤ b + 2 ^ 20
    | none => false
  { k with lastUncorr := aSet channel beat k.lastUncorr, failing := if second then insertNat channel k.failing else k.failing }

/-- STACK_READ_ERROR (R354, R356): the step that issued the access is discarded, and the unit is mapped out with the effects of its
region. -/
def execStackReadError (cyc seg channel addr : Nat) (step : Option (Nat × Cls)) (region : StackRegion) (s : State) : Result :=
  let t := s.stepError cyc seg step
  let e := t.stampFor cyc
  let t := (t.onSeg seg (fun g => { g with stack := noteUncorr s.time.beat channel g.stack })).mapOut seg addr region
  onlyIf (s.segUp seg && s.unitAt seg channel addr region && (s.seg seg).state != .lost)
    (((t.given e).repool seg).regionLost seg e region) s

/-- SCREEN_REGION_RESTORED (R356). -/
def execScreenRegionRestored (seg : Nat) (s : State) : Result :=
  onlyIf (s.segUp seg && (s.seg seg).stack.screenCopy)
    (s.onSeg seg (fun g => { g with stack := { g.stack with screenCopy := false } })) s

/-! Channels out of service (R357). -/

/-- A channel is out of service, or on its way out. -/
def StackS.out (k : StackS) (c : Nat) : Bool := k.retired.contains c || k.failed.contains c || k.retiring.contains c

/-- Corrected reads of a channel above CHANNEL_RETIRE_COUNT within 2^20 bt; a count of 0 never retires one (R357, R379). -/
def State.worn (s : State) (seg channel : Nat) : Bool :=
  s.glob.retireCount != 0 && (match aGet channel (s.seg seg).stack.corrected with
    | some l => s.glob.retireCount < l.length
    | none => false)

/-- Pages that a segment's partition has in use in one channel's share (R174). -/
def State.channelPages (s : State) (seg channel : Nat) : List Nat :=
  match s.ownerOf seg with
  | some p => ((s.usedPages p seg).filter (fun k => k % 32 == channel)).eraseDups
  | none => []

/-- The copy of a page of a retiring channel begins, to a free page of another channel (R357). -/
def State.beginCopy (seg : Nat) (s : State) (page : Nat) : State :=
  let new := s.freePage ((s.ownerOf seg).getD 0) seg [] [3, seg, page, s.time.beat]
  s.onSeg seg (fun g => { g with stack := { g.stack with copies := g.stack.copies ++ [{ old := page, new := new }] } })

/-- CHANNEL_RETIRE (R357): its units and pages begin to move. -/
def execChannelRetire (seg channel : Nat) (s : State) : Result :=
  let start (k : StackS) : StackS := { k with retiring := insertNat channel k.retiring }
  let t := s.onSeg seg (fun g => { g with stack := start g.stack })
  onlyIf (s.segUp seg && channel < 32 && s.worn seg channel && !(s.seg seg).stack.out channel)
    ((s.channelPages seg channel).foldl (State.beginCopy seg) t) s

/-- Pages of a segment's pool in one channel share (R174). -/
def State.sharePages (s : State) (seg : Nat) : Nat := match s.ownerOf seg with
  | some p => (s.part p).layout / 32
  | none => 0

/-- A channel out: its share leaves the pool with the frames given to its relocated units (R174, R357). -/
def channelOut (failed : Bool) (channel : Nat) (relocated : List Nat) (pages : Nat) (g : Segment) : Segment :=
  let k := g.stack
  { g with
    stack := { k with
      retiring := k.retiring.filter (· != channel), failing := k.failing.filter (· != channel),
      failed := if failed then insertNat channel k.failed else k.failed,
      retired := if failed then k.retired else insertNat channel k.retired,
      copies := k.copies.filter (fun c => c.old % 32 != channel),
      taken := relocated.foldl (fun l x => insertNat x l) k.taken },
    cnt := { g.cnt with pagesOut := g.cnt.pagesOut + pages } }

/-- Taking a fifth channel out makes the segment lost (R357, R359). -/
def State.fifthChannel (s : State) (seg : Nat) (e : Stamp) : State :=
  if 4 < (s.seg seg).deadChannels then s.loseAny seg 0x04 e else s

/-- CHANNEL_RETIRE_COMPLETE (R357): every unit and page has moved, so that no block record names a page of the channel; no work is
lost. -/
def execChannelRetireComplete (seg channel relocated : Nat) (s : State) : Result :=
  let t := (s.onSeg seg (channelOut false channel (s.topPages seg relocated) (s.sharePages seg))).repool seg
  onlyIf (s.segUp seg && (s.seg seg).stack.retiring.contains channel && (s.channelPages seg channel).isEmpty)
    ((t.raiseLost seg (0x60 + channel) t.edge).fifthChannel seg t.edge) s

/-- The caches that lose a page or a table page with a channel (R174, R356, R357). -/
def State.channelLost (s : State) (seg channel : Nat) (e : Stamp) : State :=
  let base := match s.ownerOf seg with
    | some p => (s.regionBases p).2.2 / 4096
    | none => 0
  let l := s.cachesWhere seg (fun p c => s.holdsPage seg (fun k => k % 32 == channel) c
    || s.holdsTable seg (fun k => (base + k) % 32 == channel) p c)
  s.holdersLose e l.1 l.2

/-- CHANNEL_FAIL (R357): it failed training, or showed a second uncorrectable read; its pages and table pages, and the interleaved regions
whose units in it held contents, are treated at once. -/
def execChannelFail (cyc seg channel relocated : Nat) (regions : List StackRegion) (s : State) : Result :=
  let k := (s.seg seg).stack
  let e := s.stampFor cyc
  let t := (((s.given e).onSeg seg (channelOut true channel (s.topPages seg relocated) (s.sharePages seg))).repool seg).channelLost seg
    channel e
  let t := regions.foldl (fun t r => t.regionLost seg e r) (t.raiseLost seg (0x40 + channel) e)
  onlyIf (s.segUp seg && channel < 32 && !k.failed.contains channel && !k.retired.contains channel && (k.failing.contains channel || !k.trained))
    (t.fifthChannel seg e) s

end Sys2Proof.Machine
end

