-- ==== Sys2Proof/Machine/Span.lean ====
section
/-! DEFINITION. Span sessions and their datagrams (R11, R149 to R154, R348, R410), span queries (R246 to R248) and passages fetched from
workers (R251). A datagram that reaches a command below has passed its frame checks and its tag; one that has not is
SPAN_DATAGRAM_DROP. -/

namespace Sys2Proof.Machine

/-! Sessions. -/

/-- The span port is served: the manager serves the host (R26). -/
def State.spanUp (s : State) : Bool := s.mgrServes

/-- The block is a span manager, a span worker (R34). -/
def State.isSpanManager (s : State) : Bool := s.glob.spanRole == 1

/-- The block is a span worker. -/
def State.isWorker (s : State) : Bool := s.glob.spanRole == 2

/-- A MAC stream is up (R410). -/
def Span.up (p : Span) (k : Nat) : Bool := p.linkUp.getD (k % 4) false

/-- The stream session i leaves on: i mod 4, or the next one up in cyclic order (R152). -/
def Span.streamOf (p : Span) (id : Nat) : Nat :=
  (((List.range 4).map (fun k => (id + k) % 4)).find? p.up).getD (id % 4)

/-- Every session that is not closed placed on its stream. -/
def State.moveStreams (s : State) : State :=
  { s with span := { s.span with sessions := s.span.sessions.map (fun x => { x with stream := s.span.streamOf x.id }) } }

/-- A datagram dropped, counted and not acknowledged (R151). -/
def State.dropDatagram (s : State) : State := s.count (fun c => { c with datagramDrops := c.datagramDrops + 1 })

/-- The SHA-384 hash of the identity key that a hello carries (R348). -/
def helloHash (h : SpanHello) : Nat := Config.sha384 (sec1 h.identity)

/-- A SPAN_TRUST entry admits what a hello shows: one of its manager hashes, its firmware digest, and a signature that verifies
(R348). -/
def State.trusts (s : State) (peer : Nat) (h : SpanHello) : Bool :=
  h.sigOk && s.glob.spanTrust.any (fun t =>
    t.index == peer && t.firmware == h.fwDigest && (t.manager == helloHash h || t.standby == helloHash h))

/-- A failure of authentication counted (R348). -/
def State.spanAuthFail (s : State) : State := s.count (fun c => { c with spanAuthFails := c.spanAuthFails + 1 })

/-- Bytes 0 to 279 of the payload of SESSION_OPEN and SESSION_ACCEPT (R348): nonce, ephemeral public key, manager identity public key,
firmware digest, rsvd. -/
def helloBytes (nonce ephemeral identity digest : Nat) : List Nat :=
  bytesBe 32 nonce ++ sec1 ephemeral ++ sec1 identity ++ bytesBe 48 digest ++ List.replicate 6 0

/-- The payload of this block's SESSION_OPEN or SESSION_ACCEPT, under a span header: it ends with the signature of the manager's
identity key over what it signs of the other side, the header and the bytes before it (R348). -/
def State.helloPayload (s : State) (nonce secret : Nat) (first head : List Nat) : List Nat :=
  let id := (s.seg s.mgr).trust.identity.getD 0
  let body := helloBytes nonce (publicKey secret) (publicKey id)
    (Config.sha384 (((s.measurement s.mgr 1).getD []) ++ ((s.measurement s.mgr 2).getD [])))
  body ++ bytesBe 96 (Config.sign id (first ++ head ++ body))

/-- What the signature of a SESSION_OPEN covers, as the peer that received it repeats it (R348). -/
def openSigned (hd : SpanHeader) (h : SpanHello) : List Nat :=
  bytesLe 24 (spanHead hd.minor 0x01 hd.block hd.session hd.seq hd.ack hd.length hd.records)
    ++ helloBytes h.nonce h.ephemeral h.identity h.fwDigest

/-- The keys of both directions of a session (R348): derived from the shared secret, the two nonces, open first, and SESSION, the
direction byte last. -/
def spanKeys (isManager : Bool) (peerEphemeral openNonce acceptNonce : Nat) (x : SpanSession) : SpanSession :=
  let key := spanKey (Config.derivedKey [x.secret, peerEphemeral]) openNonce acceptNonce x.id
  { x with txKey := some (key (flag (!isManager))), rxKey := some (key (flag isManager)), secret := 0 }

/-- Closed sessions that no plan still waits for are forgotten. -/
def State.tidySessions (s : State) : State :=
  let wanted (x : SpanSession) : Bool := s.seqs.any (fun e => match e.2.plan with
    | some pl => pl.asked.contains x.id
    | none => false)
  { s with span := { s.span with sessions := s.span.sessions.filter (fun x => x.phase != .closed || wanted x) } }

/-- The span manager opens a session with a peer: SESSION_OPEN is its first datagram (R150, R348). -/
def State.openSpan (s : State) (peer : Nat) : State :=
  let s := s.tidySessions
  let id := s.span.nextId
  let x : SpanSession :=
    { peer := peer, id := id, phase := .opening, minor := 2, stream := s.span.streamOf id,
      addr := (aGet peer s.glob.spanPeers).getD 0, nonce := Config.nonce s.free, secret := Config.freshKey s.free }
  let t := { s with span := { s.span with sessions := s.span.sessions ++ [x], nextId := (id + 1) % 2 ^ 32 }, free := s.free + 1 }
  t.spanPost id 0x01 376 0 (s.helloPayload x.nonce x.secret [])

/-- Queries of a session that a worker still serves, with their live sequences. -/
def State.workerSeqs (s : State) (id : Nat) : List Nat :=
  (s.seqs.filter (fun e => match e.2.req.spanQuery with
    | some tag => s.span.queries.any (fun q => q.tag == tag && q.session == id)
    | none => false)).map (·.1)

/-- Passages asked for that are given up or acknowledged: their store space is free again (R251). -/
def State.freeAnswers (s : State) (f : SpanAsk → Bool) : State :=
  let t := (s.span.asks.filter f).foldl (fun (t : State) a =>
    t.onSeg a.seg (fun g => { g with passageUsed := g.passageUsed - a.bytes })) s
  { t with span := { t.span with asks := t.span.asks.filter (fun a => !f a) } }

/-- A worker discards its work in progress for a session (R152). -/
def State.discardQueries (s : State) (id : Nat) : State :=
  let t := (s.workerSeqs id).foldl (fun t k =>
    let u := (t.unbind k).leaveScan k
    { u with seqs := aErase k u.seqs }) s
  let u := t.freeAnswers (fun a => a.session == id)
  { u with span := { u.span with queries := u.span.queries.filter (fun q => q.session != id) } }

/-- A session closed at this end: nothing more is to be sent again, and its keys are gone (R332). -/
def closedSession (x : SpanSession) : SpanSession :=
  { x with phase := .closed, unacked := [], noAdvance := 0, txKey := none, rxKey := none, secret := 0 }

/-- A session has ended (R152): a worker discards its work; a span manager counts it and expects no further results. -/
def State.spanEnds (s : State) (id : Nat) : State :=
  let t := (s.onSpan id closedSession).discardQueries id
  if s.isSpanManager then t.count (fun c => { c with spanLost := c.spanLost + 1 }) else t

/-! Receiving (R150 to R152). -/

/-- An ACK covers the datagrams up to it. -/
def ackedTo (ack : Nat) (x : SpanSession) : SpanSession :=
  let n := (ack + 1) % 2 ^ 32
  if x.acked < n && n ≤ x.txSeq then
    { x with acked := n, noAdvance := 0, unacked := x.unacked.filter (fun e => n ≤ e.1) }
  else x

/-- The in-order mark moved over what has already been delivered. -/
def rxAdvance : Nat → Nat → List Nat → Nat × List Nat
  | 0, next, seen => (next, seen)
  | fuel + 1, next, seen => if seen.contains next then rxAdvance fuel (next + 1) (seen.filter (· != next)) else (next, seen)

/-- A SEQ delivered. -/
def delivered (seq : Nat) (x : SpanSession) : SpanSession :=
  let t := rxAdvance (x.rxSeen.length + 1) x.rxNext (insertNat seq x.rxSeen)
  { x with rxNext := t.1 % 2 ^ 32, rxSeen := t.2 }

/-- A SEQ has been delivered before. -/
def SpanSession.had (x : SpanSession) (seq : Nat) : Bool := seq < x.rxNext || x.rxSeen.contains seq

/-- An ACK datagram sent: it takes no SEQ of its own and is not sent again (log entry 32). -/
def State.spanAcks (s : State) (id : Nat) : State :=
  match s.spanSession id with
  | some x =>
    s.emit (s.datagram x 0x08 x.txSeq 0 0 (fun _ => []))
  | none => s

/-- The header's LENGTH and RECORDS are those of the payload (R150). -/
def spanFits (hd : SpanHeader) (length records : Nat) : Bool := hd.length == length && hd.records == records

/-- An ACK of a session taken: the passages whose answers it covers leave the store (R152, R251). -/
def State.takeAck (s : State) (id ack : Nat) : State :=
  let t := s.onSpan id (ackedTo ack)
  match t.spanSession id with
  | some x => t.freeAnswers (fun a => a.session == id && a.sent.any (· < x.acked))
  | none => t

/-- A datagram of a session in a phase: its ACK counts, a SEQ already delivered is dropped, and another is delivered, acted on and
acknowledged; the repetition draws no new ACK (DESIGN CHOICE, log entry 32). A datagram of an unknown session is dropped and counted (R151,
R152). -/
def State.spanTake (s : State) (phase : SpanPhase) (hd : SpanHeader) (act : State → State) : State :=
  match s.spanSession hd.session with
  | some x =>
    let t := s.takeAck hd.session hd.ack
    if x.phase == .closed || x.peer != hd.block then s.dropDatagram
    else if x.phase == .opened && x.had hd.seq then t
    else if x.phase != phase then s.dropDatagram
    else if x.had hd.seq then t
    else (act (t.onSpan hd.session (delivered hd.seq))).spanAcks hd.session
  | none => s.dropDatagram

/-- A datagram of some records as the span port takes it; one whose header does not fit its payload is dropped and counted as those of R151
are (R150; DESIGN CHOICE, log entry 32). -/
def State.spanDatagram (s : State) (hd : SpanHeader) (length records : Nat) (act : State → State) : Result :=
  onlyIf s.spanUp (if spanFits hd length records then s.spanTake .opened hd act else s.dropDatagram) s

/-- A SESSION_REFUSE sent without a session, to the address its SESSION_OPEN came from (R151). -/
def State.refuseSession (s : State) (hd : SpanHeader) (reason : Nat) : State :=
  s.emit (s.datagram { id := hd.session, addr := hd.source, minor := 2, stream := s.span.streamOf hd.session } 0x03 0 1 0 (fun _ => [reason]))

/-- A worker accepts a span manager: the session opens at the lower MINOR (R152, R348). -/
def State.acceptSession (s : State) (hd : SpanHeader) (h : SpanHello) : State :=
  let x : SpanSession := delivered hd.seq
    { peer := 0, id := hd.session, phase := .opened, minor := min 2 hd.minor, stream := s.span.streamOf hd.session, addr := hd.source,
      nonce := Config.nonce s.free, secret := Config.freshKey s.free }
  let t := s.tidySessions
  let t := { t with span := { t.span with sessions := t.span.sessions ++ [x] }, free := s.free + 1 }
  (t.spanPost hd.session 0x02 376 0 (s.helloPayload x.nonce x.secret (openSigned hd h))).onSpan hd.session
    (spanKeys false h.ephemeral h.nonce x.nonce)

/-- What a worker answers a SESSION_OPEN (R11, R34, R152, R348): one of its present session again is a repetition. -/
def State.answerOpen (s : State) (hd : SpanHeader) (h : SpanHello) : State :=
  if (s.spanSession hd.session).isSome then s
  else if hd.major != 3 then s.refuseSession hd 1
  else if s.span.sessions.any (fun x => x.phase != .closed) then s.refuseSession hd 2
  else if s.trusts 0 h then s.acceptSession hd h
  else s.spanAuthFail.refuseSession hd 3

/-- SESSION_OPEN (R348). -/
def execSessionOpen (hd : SpanHeader) (hello : SpanHello) (s : State) : Result :=
  onlyIf s.spanUp (if s.isWorker && hd.block == 0 && hd.length == 376 then s.answerOpen hd hello else s.dropDatagram) s

/-- A SESSION_ACCEPT checked: the session opens, or is closed and tried again after 200,000 bt (R348). -/
def State.checkAccept (s : State) (hd : SpanHeader) (h : SpanHello) : State :=
  if s.trusts hd.block h then
    s.onSpan hd.session (fun x => spanKeys true h.ephemeral x.nonce h.nonce { x with phase := .opened, minor := min 2 hd.minor })
  else ((s.spanAuthFail.spanSend hd.session 0x09 0 []).onSpan hd.session
    (fun x => { closedSession x with retryAt := some (s.time.beat + 200000) }))

/-- SESSION_ACCEPT (R348). -/
def execSessionAccept (hd : SpanHeader) (hello : SpanHello) (s : State) : Result :=
  onlyIf s.spanUp
    (if s.isSpanManager && hd.length == 376 then s.spanTake .opening hd (fun t => t.checkAccept hd hello) else s.dropDatagram) s

/-- SESSION_REFUSE (R151): the session it answers does not open, whatever its reason; one for a session that is not opening is dropped and
counted (DESIGN CHOICE, log entry 32). -/
def execSessionRefuse (hd : SpanHeader) (_reason : Nat) (s : State) : Result :=
  let known := s.isSpanManager && (match s.spanSession hd.session with
    | some x => x.phase == .opening && x.peer == hd.block
    | none => false)
  onlyIf s.spanUp (if known then s.onSpan hd.session closedSession else s.dropDatagram) s

/-- SPAN_ACK (R152). -/
def execSpanAck (hd : SpanHeader) (s : State) : Result :=
  let known : Bool := match s.spanSession hd.session with
    | some x => x.phase == .opened && x.peer == hd.block
    | none => false
  onlyIf s.spanUp (if known then s.takeAck hd.session hd.ack else s.dropDatagram) s

/-- CLOSE (R151, R152). -/
def execClose (hd : SpanHeader) (s : State) : Result :=
  let known : Bool := match s.spanSession hd.session with
    | some x => x.phase != .closed && x.peer == hd.block
    | none => false
  onlyIf s.spanUp (if known then s.spanEnds hd.session else s.dropDatagram) s

/-- The IPv6 source of a received frame is one the port accepts: a peer of SPAN_PEERS, or, on a worker, its span manager's address, which is
the source of the session it holds; a worker without a session takes the first that writes to it for its span manager (R411, log entry
32). -/
def State.sourceStands (s : State) (source : Nat) : Bool :=
  s.glob.spanPeers.any (fun x => x.2 == source) || (s.isWorker && s.span.sessions.all (fun x => x.phase == .closed || x.addr == source))

/-- The UDP checksum of a received frame verifies (R149, R411). -/
def checksumStands (f : RxFrame) : Bool := f.checksum == udpChecksumOf f.source f.dest f.srcPort f.port f.data

/-- A received frame is accepted (R411). -/
def State.frameAccepted (s : State) (f : RxFrame) : Bool :=
  !f.rxErr && f.mac == s.glob.localMac && f.etherType == 0x86DD && f.next == 17 && f.dest == s.glob.localIp && !f.extension
    && s.sourceStands f.source && f.port == s.glob.spanPort && checksumStands f

/-- SPAN_DATAGRAM_DROP (R151, R411): a frame that is not accepted is counted in SPAN_FRAME_DROPS before R151 applies; of one that is, the
datagram is dropped and counted in SPAN_DATAGRAM_DROPS. -/
def execSpanDatagramDrop (frame : RxFrame) (s : State) : Result :=
  onlyIf s.spanUp (if s.frameAccepted frame then s.dropDatagram else s.count (fun c => { c with frameDrops := c.frameDrops + 1 })) s

/-! Sending again, keys, renewal and links. -/

/-- A datagram sent again as it was sent first. -/
def State.sendAgain (s : State) (x : SpanSession) (seq : Nat) : State :=
  let t := s.onSpan x.id (fun y => { y with
    noAdvance := y.noAdvance + 1, unacked := y.unacked.map (fun e => if e.1 == seq then (seq, s.time.beat) else e) })
  match s.span.out.find? (fun m => m.session == x.id && m.seq == seq && m.type != 0x08) with
  | some m => t.emit { m with stream := x.stream }
  | none => t

/-- SPAN_RETRANSMIT (R152): after 8 retransmissions in a row without an ACK advancing the session ends. -/
def execSpanRetransmit (session seq : Nat) (s : State) : Result :=
  match s.spanSession session with
  | some x =>
    let due := x.unacked.any (fun e => e.1 == seq && e.2 + s.glob.spanRetx ≤ s.time.beat)
    onlyIf (s.spanUp && due) (if 8 ≤ x.noAdvance then s.spanEnds session else s.sendAgain x seq) s
  | none => .next s

/-- SPAN_SESSION_REKEY (R348): a direction takes its next key every 2^28 datagrams. -/
def execSpanSessionRekey (session : Nat) (tx : Bool) (s : State) : Result :=
  match s.spanSession session with
  | some x =>
    let n := if tx then x.txSeq else x.rxNext
    let g := if tx then x.txGen else x.rxGen
    onlyIf (x.phase == .opened && (g + 1) * 2 ^ 28 ≤ n)
      (s.onSpan session (fun x =>
        if tx then { x with txGen := x.txGen + 1, txKey := x.txKey.map nextSpanKey }
        else { x with rxGen := x.rxGen + 1, rxKey := x.rxKey.map nextSpanKey })) s
  | none => .next s

/-- SPAN_SESSION_RENEW (R152, R348): the span manager closes a session and opens a new one, before either SEQ reaches 2^31. -/
def execSpanSessionRenew (session : Nat) (s : State) : Result :=
  match s.spanSession session with
  | some x =>
    onlyIf (s.spanUp && s.isSpanManager && x.phase == .opened && x.txSeq < 2 ^ 31 && x.rxNext < 2 ^ 31)
      (((s.spanSend session 0x09 0 []).onSpan session closedSession).openSpan x.peer) s
  | none => .next s

/-- A session with a peer may be opened now: none is open or opening, and none rejected waits for its beat. -/
def State.mayOpen (s : State) (peer : Nat) : Bool :=
  (s.span.sessions.filter (fun x => x.peer == peer)).all (fun x =>
    x.phase == .closed && (match x.retryAt with
      | some b => b ≤ s.time.beat
      | none => true))

/-- SPAN_SESSION_RETRY (R348): a listed worker without a session is tried, again or for the first time (log entry 32). -/
def execSpanSessionRetry (peer : Nat) (s : State) : Result :=
  let clear (x : SpanSession) : SpanSession := if x.peer == peer then { x with retryAt := none } else x
  onlyIf (s.spanUp && s.isSpanManager && s.glob.spanPeers.any (fun e => e.1 == peer) && s.mayOpen peer)
    (({ s with span := { s.span with sessions := s.span.sessions.map clear } } : State).openSpan peer) s

/-- A stream's link as SP_LINK_UP shows it, and the sessions on their streams (R152, R410). -/
def State.setLink (s : State) (stream : Nat) (up : Bool) : State :=
  ({ s with span := { s.span with linkUp := modifyAt (fun _ => up) stream s.span.linkUp } } : State).moveStreams

/-- SPAN_LINK_DOWN (R410): the frame in progress is abandoned; its datagram is sent again under R152. -/
def execSpanLinkDown (stream : Nat) (s : State) : Result := onlyIf (stream < 4) (s.setLink stream false) s

/-- SPAN_LINK_UP (R410). -/
def execSpanLinkUp (stream : Nat) (s : State) : Result := onlyIf (stream < 4) (s.setLink stream true) s

/-! Landing windows (R153, R154). -/

/-- The open window that a record names, where it takes the record whole on its segment; one on a segment that is not serving takes none, and
the record is counted in SPAN_WINDOW_DROPS (R153; DESIGN CHOICE, log entry 32). -/
def State.windowFor (s : State) (destSeg window offset : Nat) : Option Window :=
  s.glob.spanWindows.find? (fun w => w.id == window && w.seg == destSeg && offset + 512 ≤ 256 * w.size && s.serving destSeg)

/-- One KLF record: decoded by R136 with SCALE and written into its window, or dropped and counted (R153). -/
def State.takeRecord (s : State) (r : KlfRecord) : State :=
  match s.windowFor r.destSeg r.window r.offset with
  | some w => s.onSeg r.destSeg (fun g =>
      { g with staging := memWriteBytes g.staging (256 * w.base + r.offset) ((chunkBytes r.scale r.frame).take 512) })
  | none => s.count (fun c => { c with windowDrops := c.windowDrops + 1 })

/-- Bytes of a KLF record (R130, R131, R153). -/
def klfBytes (r : KlfRecord) : Nat := 24 + (if r.frame.esc then 512 else 256)

/-- KLF_DATA (R153): the records of a datagram in their order. -/
def execKlfData (gram : Datagram KlfRecord) (frame : Frame) (scale : F32) (destSeg window offset : Nat) (s : State) : Result :=
  let recs := { frame := frame, scale := scale, destSeg := destSeg, window := window, offset := offset : KlfRecord } :: gram.more
  s.spanDatagram gram.head (sumNat (recs.map klfBytes)) recs.length (fun t => recs.foldl State.takeRecord t)

/-- SPAN_WINDOW_REMOVE (R154): a record is written whole in its command, so none is being written into the window (log entry 11). -/
def execSpanWindowRemove (window : Nat) (s : State) : Result :=
  onlyIf (s.span.removing.any (fun w => w.id == window))
    { s with span := { s.span with removing := s.span.removing.filter (fun w => w.id != window) } } s

/-! Queries (R246 to R248). -/

/-- A worker's empty answer: COUNT 0, LAST 1. -/
def State.emptyHeap (s : State) (session tag : Nat) : State := s.spanSendAll session 0x05 (heapRecords 512 tag 1 0 [])

/-- The index that a query names in SPAN_PARTITION, with its DIM. -/
def State.spanIndex (s : State) (indexId dim : Nat) : Option Index :=
  if s.glob.spanPartition == 0xFF then none
  else s.indexes.find? (fun x => x.id == indexId && x.part == s.glob.spanPartition && ixDim x.desc == dim)

/-- The live sequence that serves a query: it waits for the coarse stage of the LC loop of SPAN_PARTITION, is charged to no tenant and
is not screened. -/
def spanSequence (p : Nat) (e : Stamp) (tag indexId nprobe scanK : Nat) (vector : List BF16) : Sequence :=
  let r : Retr := { indexId := indexId, nprobe := nprobe, scanK := scanK, resultOnly := true, useVector := true, vector := vector }
  { req := { part := p, cls := .lc, retr := some r, arrived := e, spanQuery := some tag }, admitAt := e, screenSeg := 31, released := true,
    plan := some { stage := .waitE, part := p, indexId := indexId } }

/-- A query taken by a worker (R246). -/
def State.serveQuery (s : State) (session : Nat) (r : QueryRec) : State :=
  match s.spanIndex r.indexId r.dim, s.freeIndex with
  | some x, some k =>
    let p := s.glob.spanPartition
    let np := clampNat 1 (ixNlist x.desc) r.nprobe
    let scanK := clampNat 1 1024 r.scanK
    let q : SpanQuery := { tag := r.tag, session := session, indexId := r.indexId, nprobe := np, scanK := scanK, part := p,
                           vector := r.vector, deadline := r.deadline }
    { s with seqs := aSet k (spanSequence p s.edge r.tag r.indexId np scanK r.vector) s.seqs,
             span := { s.span with queries := s.span.queries ++ [q] } }
  | _, _ => s.emptyHeap session r.tag

/-- Bytes of a QUERY record (R246). -/
def queryBytes (r : QueryRec) : Nat := 32 + 2 * r.vector.length

/-- QUERY (R246). -/
def execQuery (gram : Datagram QueryRec) (deadline tag indexId nprobe scanK dim : Nat) (vector : List BF16) (s : State) : Result :=
  let recs := { deadline := deadline, tag := tag, indexId := indexId, nprobe := nprobe, scanK := scanK, dim := dim, vector := vector
                : QueryRec } :: gram.more
  s.spanDatagram gram.head (sumNat (recs.map queryBytes)) recs.length (fun t =>
    if t.isWorker then recs.foldl (fun u r => u.serveQuery gram.head.session r) t else t)

/-- A plan still takes results of a session: it asked it, its merge has not begun and its deadline has not passed (R248). What arrives
after the session's LAST, before the merge, still counts: datagrams are delivered as they arrive (R152). -/
def takesResults (beat session : Nat) (pl : Plan) : Bool :=
  pl.asked.contains session && beat ≤ pl.deadline && (pl.stage == .probe || pl.stage == .scan || pl.stage == .spanWait)

/-- Entries of a worker's list taken into a plan, and its end noted. -/
def addResults (session : Nat) (entries : List (Nat × F32)) (last : Bool) (pl : Plan) : Plan :=
  { pl with spanList := pl.spanList ++ entries.map (fun e => (session, e.1, e.2)),
            ended := if last then insertNat session pl.ended else pl.ended }

/-- The effect of a HEAP_RESULT record: its entries join the query's, or arrive late, are dropped and counted (R247, R248). FIRST orders
them in the worker's list; the merge orders them by score whatever their order. -/
def State.takeHeap (s : State) (session : Nat) (r : HeapRec) : State :=
  let late := s.count (fun c => { c with spanLate := c.spanLate + r.entries.length })
  match s.tagged r.tag with
  | some k =>
    match s.planOf k with
    | some pl => if takesResults s.time.beat session pl then s.onPlan k (addResults session r.entries r.last) else late
    | none => late
  | none => late

/-- HEAP_RESULT (R247). -/
def execHeapResult (gram : Datagram HeapRec) (tag first : Nat) (entries : List (Nat × F32)) (last : Bool) (s : State) : Result :=
  let recs := { tag := tag, first := first, entries := entries, last := last : HeapRec } :: gram.more
  s.spanDatagram gram.head (sumNat (recs.map (fun r => 16 + 16 * r.entries.length))) recs.length (fun t =>
    if t.isSpanManager then recs.foldl (fun u r => u.takeHeap gram.head.session r) t else t)

/-! Passages of workers (R251). -/

/-- A worker begins to fetch a passage that a span manager asks for: the directory entry is read, or the passage is refused. -/
def State.servePassage (s : State) (session ref tag : Nat) : State :=
  match s.region ref with
  | some g =>
    if g.passages ≤ bits 55 0 ref then s.refusePassage session ref tag
    else
      let id := s.span.nextTag
      let seg := if s.glob.spanPartition < 15 then s.placeSeg s.glob.spanPartition (bits 55 0 ref) else s.mgr
      let a : SpanAsk := { id := id, session := session, ref := ref, tag := tag, seg := seg }
      let t := { s with span := { s.span with asks := s.span.asks ++ [a], nextTag := nextTagAfter id } }
      t.scanRead seg s.glob.spanPartition (g.dirBase + 16 * bits 55 0 ref) 16 (.askDirectory id)
  | none => s.refusePassage session ref tag

/-- The place of the candidate of a plan that was asked of a worker. -/
def askedPlace (session ref : Nat) (pl : Plan) : Option Nat :=
  (pl.cands.zipIdx.find? (fun (c : Cand × Nat) => c.1.ref == ref && c.1.worker == some session && c.1.state == .asked)).map (·.2)

/-- A piece of a passage reaches the span manager: the candidate is dropped, kept waiting, or stored when its pieces are all there.
One still incomplete at DEADLINE_BEAT + SPAN_WAIT_BT is dropped, whatever comes then (R251). -/
def State.takePiece (s : State) (session ref tag offset : Nat) (tokens : List Nat) (last failed : Bool) : State :=
  match s.tagged tag with
  | some k =>
    match s.planOf k, s.live k with
    | some pl, some q =>
      match askedPlace session ref pl with
      | some i =>
        if failed || (s.askOver pl && (pl.cands.getD i {}).passage.isNone) then (s.dropCand k i).fetchDone k
        else
          let t := s.onCand k i (fun c => { c with pieces := c.pieces ++ [(offset, tokens, last)] })
          match t.planOf k with
          | some pl' => t.askedEnds k i pl' q (pl'.cands.getD i {})
          | none => t
      | none => s
    | _, _ => s
  | none => s

/-- Bytes of a CANDIDATE_REF record (R251). -/
def candBytes : CandRef → Nat
  | .ask _ _ => 16
  | .piece _ _ _ tokens _ _ => 16 + 4 * tokens.length

/-- One CANDIDATE_REF record (R251). -/
def State.takeCandRef (s : State) (session : Nat) : CandRef → State
  | .ask ref tag => if s.isWorker then s.servePassage session ref tag else s
  | .piece ref tag offset tokens last failed =>
    if s.isSpanManager then s.takePiece session ref tag offset tokens last failed else s

/-- CANDIDATE_REF (R251). -/
def execCandidateRef (hd : SpanHeader) (rec : CandRef) (more : List CandRef) (s : State) : Result :=
  let recs := rec :: more
  s.spanDatagram hd (sumNat (recs.map candBytes)) recs.length (fun t => recs.foldl (fun u r => u.takeCandRef hd.session r) t)

end Sys2Proof.Machine
end

