-- ==== Sys2Proof/Machine/Ports.lean ====
section
/-! DEFINITION. The Keard Native Port: responses of the initiator channel (R403 to R405), host accesses to the aperture (R17, R33, R95,
R292, R297, R301, R311, R401, R402, R420, R421), and the test port (R92, R95, R145, R291, R328). -/

namespace Sys2Proof.Machine

/-! Responses of the initiator channel. -/

/-- A port changed. -/
def State.onPort (s : State) (i : Nat) (f : Port → Port) : State := s.onSeg i (fun g => { g with port := f g.port })

/-- The request with a tag, of a direction, all of whose data has been sent (R403). -/
def outstanding (tag : Nat) (write : Bool) (p : Port) : Option DmaReq :=
  p.issued.find? (fun r => r.tag == tag && r.write == write && (!write || r.sent == r.beats))

/-- A request is answered: its tag is free. -/
def closeReq (tag : Nat) (p : Port) : Port := { p with issued := p.issued.filter (fun r => r.tag != tag) }

/-- The request that carries on a use beyond a 4 KiB boundary (R403). -/
def nextReq (r : DmaReq) : DmaReq := dmaReq r.write (r.addr + r.off + r.len) r.more r.cls r.what (r.data / 2 ^ (8 * r.len))

/-- What is left of a use joins the queue of its port. -/
def State.carryOn (s : State) (seg : Nat) (r : DmaReq) : State :=
  s.onPort seg (fun p => Port.pump { p with waiting := p.waiting ++ [nextReq r] })

/-- A dim write has failed: its record is freed and the cache stays on the bright tier alone (R405). -/
def State.dimWriteFails (s : State) (c : CacheRef) : State := match c with
  | .entry k => s.onEntry k (fun h => { h with dim := none, moving := none })
  | .seq k => s.onLive k (fun q => { q with dim := none, moving := none })

/-- A write has become visible (R404). -/
def State.writeLands (s : State) (u : DmaUse) : State := match u with
  | .ringRecord n idx => s.entryVisible n idx
  | .writeBack n raise covers => s.writeBackVisible n raise covers
  | _ => s

/-- An indirect transfer's DMA request has failed (R317, R405). -/
def State.indirectFails (s : State) (e : Endpoint) (k : Nat) : State := s.onTransfer e k (fun t => { t with failed := true })

/-- The outcome of a write that failed (R405). -/
def State.writeFails (s : State) (cyc seg : Nat) (r : DmaReq) : State := match r.what with
  | .dimWrite c => s.dimWriteFails c
  | .indirect e k => s.indirectFails e k
  | .transfer i p c _ => s.dataPathError cyc i p c
  | _ => s.ringWriteFailed seg r

/-- DMA_WRITE_RESPONSE (R403 to R405). -/
def execDmaWriteResponse (at_ : SegAt) (tag : Nat) (error : Bool) (s : State) : Result :=
  match outstanding tag true (s.seg at_.seg).port with
  | some r =>
    let t := (s.onPort at_.seg (closeReq tag)).onCycle at_.cyc
    .next (if error then (t.writeFails at_.cyc at_.seg r).count (fun c => { c with dmaWriteErrors := c.dmaWriteErrors + 1 })
      else if 0 < r.more then t.carryOn at_.seg r
      else t.writeLands r.what)
  | none => .next s

/-- A candidate's read has failed (R251, R405). -/
def State.passageFails (s : State) (tag place : Nat) : State :=
  match s.tagged tag with
  | some k =>
    match s.planOf k with
    | some pl => if (pl.cands.getD place {}).state == .waiting then (s.dropCand k place).fetchDone k else s
    | none => s
  | none => s

/-- A read for a passage that a span manager has asked for has failed (R251, R405). -/
def State.askFails (s : State) (id : Nat) : State :=
  match s.span.asks.find? (fun a => a.id == id && a.sent.isNone) with
  | some a => (s.askDone a).refusePassage a.session a.ref a.tag
  | none => s

/-- The outcome of a read that failed (R405). -/
def State.readFails (s : State) (cyc : Nat) (u : DmaUse) : State := match u with
  | .dimFetch c =>
    if s.moveOf c == some .fetch then
      let e := s.stampFor cyc
      (s.given e).readBackFails c e
    else s
  | .directory tag place => s.passageFails tag place
  | .passage tag place => s.passageFails tag place
  | .askDirectory id => s.askFails id
  | .askPassage id => s.askFails id
  | .indirect e k => s.indirectFails e k
  | .transfer i p c _ => s.dataPathError cyc i p c
  | _ => s

/-- A directory entry has been read: the record it names is asked for: a 64-byte header, 4 bytes a token, and a 16-byte tag (R249 to
R251). -/
def State.readRecord (s : State) (seg part ref entry : Nat) (what : DmaUse) : State :=
  match s.region ref with
  | some g => s.scanRead seg part (g.dataBase + 4096 * bits 127 88 entry) (80 + 4 * (bits 87 76 entry + 1)) what
  | none => s

/-- The directory entry of a candidate has been read. -/
def State.candEntry (s : State) (tag place entry : Nat) : State :=
  match s.tagged tag with
  | some k =>
    match s.planOf k with
    | some pl =>
      (s.onCand k place (fun c => { c with entry := some entry })).readRecord (s.placeSeg pl.part place) pl.part
        (pl.cands.getD place {}).ref entry (.passage tag place)
    | none => s
  | none => s

/-- The directory entry of a passage that a span manager has asked for has been read. -/
def State.askEntry (s : State) (id entry : Nat) : State :=
  let upd (a : SpanAsk) : SpanAsk := if a.id == id then { a with entry := some entry } else a
  match s.span.asks.find? (fun a => a.id == id && a.sent.isNone) with
  | some a =>
    ({ s with span := { s.span with asks := s.span.asks.map upd } } : State).readRecord a.seg s.glob.spanPartition a.ref entry (.askPassage id)
  | none => s

/-- DMA_READ_COMPLETE (R403, R405): what was read reaches the block with the command that ends its use; of a directory entry, here. -/
def execDmaReadComplete (cyc seg tag : Nat) (error : Bool) (data : List Nat) (s : State) : Result :=
  match outstanding tag false (s.seg seg).port with
  | some r =>
    let t := s.onPort seg (closeReq tag)
    .next (if error then (t.readFails cyc r.what).count (fun c => { c with dmaReadErrors := c.dmaReadErrors + 1 })
      else if 0 < r.more then t.carryOn seg r
      else match r.what with
        | .directory tag place => t.candEntry tag place (ofBytesLe (data.take 16))
        | .askDirectory id => t.askEntry id (ofBytesLe (data.take 16))
        | _ => t)
  | none => .next s

/-- One credit returned (R403); a port that exchanges credits has trained. -/
def addCredit (writeData : Bool) (p : Port) : Port :=
  let p := { p with trained := true }
  Port.pump (if writeData then { p with wdCredit := p.wdCredit + 1 } else { p with reqCredit := p.reqCredit + 1 })

/-- INITIATOR_CREDIT_RETURN (R403). -/
def execInitiatorCreditReturn (seg : Nat) (writeData : Bool) (s : State) : Result :=
  onlyIf (s.segUp seg && (s.seg seg).port.connected) (s.onPort seg (addCredit writeData)) s

/-! Stalled reads. -/

/-- The host read that has stalled longest on a queue has stood for HOLD_LIMIT_BT: the stamp at which it ends. -/
def State.stallOver (s : State) (q : WordQ) : Option Stamp :=
  match q.stalled with
  | x :: _ => if x.since.beat + s.glob.holdLimit ≤ s.time.beat then some (plusBeats x.since s.glob.holdLimit) else none
  | [] => none

/-- HOLD_READ_TIMEOUT (R288): of a segment's notice queue, or of the object window's queue 2 through the manager. -/
def execHoldReadTimeout (seg : Nat) (s : State) : Result :=
  match s.stallOver (s.seg seg).nq with
  | some a => .next (s.onNq seg (qTimeout a))
  | none => match s.stallOver (s.outQueue .window) with
    | some a => onlyIf (seg == s.mgr) (s.putOut .window (qTimeout a (s.outQueue .window))) s
    | none => .next s

/-! Registers of a queue. -/

/-- QSTATUS (R290, R292). -/
def qStatusWord (owner : Bool) (q : WordQ) : Nat :=
  packMsb [(5, 0), (11, q.depth), (36, 0), (1, flag owner), (1, flag q.lostLatched), (1, flag q.underrun), (1, flag q.highLatched),
    (1, flag q.lowLatched), (1, flag (q.high ≤ q.depth)), (1, flag (q.depth ≤ q.low)), (1, flag q.lastEor), (1, flag q.lastTorn),
    (1, flag q.lastPoison), (1, flag q.lastUnderrun), (1, flag q.lastTimeout)]

/-- QCONTROL (R292): FLUSH reads 0. -/
def qControlWord (q : WordQ) : Nat := packMsb [(5, 0), (11, q.high), (5, 0), (11, q.low), (30, 0), (1, 0), (1, flag q.hold)]

/-- QCOUNT (R292). -/
def qCountWord (q : WordQ) : Nat := packMsb [(32, q.lost), (8, q.poisonRead), (12, q.highCross), (12, q.lowCross)]

/-- A read of a queue's registers other than QDATA. -/
def qRegister (owner : Bool) (off : Nat) (q : WordQ) : Nat := match off with
  | 0x08 => qStatusWord owner q
  | 0x10 => qControlWord q
  | 0x18 => qCountWord q
  | _ => 0

/-- A write of a queue's registers: QSTATUS clears, QCONTROL sets, the others are read-only. -/
def qRegisterWrite (at_ : Stamp) (off word : Nat) (q : WordQ) : WordQ := match off with
  | 0x08 => qClear at_ word q
  | 0x10 => qControl at_ word q
  | _ => q

/-! Registers of an array (R95 to R98). -/

/-- One entry of a column remap register (R97). -/
def remapField (e : RemapEntry) : Nat := packMsb [(1, flag e.valid), (1, flag e.bad), (6, 0), (8, e.logical)]

/-- COL_REMAP_0 or COL_REMAP_1: four entries, the first in the low bits (R97). -/
def remapWord (from_ : Nat) (a : ArrayS) : Nat :=
  packMsb ([3, 2, 1, 0].map (fun k => (16, remapField (a.remap.getD (from_ + k) {}))))

/-- COL_FAULT_k (R95). -/
def faultWord (k : Nat) (a : ArrayS) : Nat :=
  sumNat ((a.faults.filter (fun c => 64 * k ≤ c && c < 64 * (k + 1))).map (fun c => 2 ^ (c - 64 * k)))

/-- ARRAY_STATUS (R96); COLS_FAILED stays at 255 where more columns are marked failed (DESIGN CHOICE, log entry 46). -/
def State.arrayStatus (s : State) (a : ArrayS) : Nat :=
  let free := (a.remap.filter (fun e => !e.valid && !e.bad)).length
  let bad := (a.remap.filter (fun e => e.bad)).length
  packMsb [(32, 0), (4, free), (4, bad), (8, min 255 a.faults.length), (12, 0), (1, flag a.bank1.holder.isSome),
    (1, flag a.bank0.holder.isSome), (2, s.arrayStateOf a)]

/-- A read of an array's registers. -/
def State.arrayRegister (s : State) (off : Nat) (a : ArrayS) : Nat := match off with
  | 0x00 => s.arrayStatus a
  | 0x08 => remapWord 0 a
  | 0x10 => remapWord 4 a
  | 0x20 => faultWord 0 a
  | 0x28 => faultWord 1 a
  | 0x30 => faultWord 2 a
  | 0x38 => faultWord 3 a
  | 0x40 => faultWord 4 a
  | 0x80 => a.passCount % 2 ^ 64
  | 0x88 => a.rowCount % 2 ^ 64
  | 0x90 => a.loadStall % 2 ^ 64
  | 0x98 => a.beRestart % 2 ^ 64
  | 0xA0 => a.residueErrors % 2 ^ 64
  | _ => 0

/-! Global registers and ring contexts. -/

/-- G_STATUS (R421). -/
def State.gStatus (s : State) : Nat :=
  packMsb [(32, 0), (5, s.mgr), (5, s.roles.standby.getD 31), (3, s.power.stage), (3, s.roles.splitState), (2, s.power.hush),
    (2, lifecycleCode s.lifecycle), (1, flag (s.glob.spanRole != 0 && s.span.sessions.any (fun x => x.phase == .opened))), (11, 0)]

/-- A read of the global control range (R420): step doorbells and reserved offsets read 0. -/
def State.gRegister (s : State) (cyc off : Nat) : Nat := match off with
  | 0x00 => (s.seg s.mgr).trust.version
  | 0x08 => 0x4B440000 + s.blockSegments
  | 0x10 => s.gStatus
  | 0x18 => (s.stampFor cyc).beat
  | _ => 0

/-- Word w of a ring context (R297). -/
def ringWord (beat w : Nat) (r : Ring) : Nat := match w with
  | 15 => r.base
  | 14 => r.indexWb
  | 13 => packMsb [(2, r.kind), (1, flag r.enable), (1, flag r.evEnable), (5, r.sizeLog2), (11, r.vector), (12, r.tenant),
      (1, flag r.anyTenant), (15, 0), (16, r.modBt)]
  | 12 => packMsb [(16, r.pauseBt), (16, r.kindMask), (16, r.partMask), (16, 0)]
  | 11 => packMsb [(32, r.high), (32, r.low)]
  | 10 => packMsb [(32, r.head), (32, r.tail)]
  | 9 => packMsb [(32, r.highCross), (32, r.lowCross)]
  | 8 => packMsb [(32, r.lost), (32, r.backlogCount)]
  | 7 => packMsb [(1, flag r.highLatched), (1, flag r.lowLatched), (1, flag (r.high ≤ r.depth)), (1, flag (r.depth ≤ r.low)),
      (1, flag r.lostLatched), (1, flag r.dbError), (1, flag ((r.kind == 1 || r.kind == 2) && (r.pausing || r.overdue beat))), (25, 0), (32, r.dbErrors)]
  | _ => 0

/-! Accesses to the aperture. -/

/-- Where an address lies (R95, R298, R297, R301, R311, R420). -/
inductive Place where
  | global (off : Nat)
  | doorbell (ring : Nat)
  | context (ring word : Nat)
  | window (off : Nat)
  | segment (seg off : Nat)
  | reserved
  deriving DecidableEq, Repr

/-- The place of a byte address of the aperture. -/
def placeAt (addr : Nat) : Place :=
  if addr < 0x100000 then .global addr
  else if addr < 0x120000 then .doorbell ((addr - 0x100000) / 8)
  else if addr < 0x200000 then .reserved
  else if addr < 0x400000 then .context ((addr - 0x200000) / 128) (addr % 128 / 8)
  else if addr < 0x500000 then .window (addr - 0x400000)
  else if addr < 0x1000000 then .reserved
  else .segment ((addr - 0x1000000) / 0x400000) ((addr - 0x1000000) % 0x400000)

/-- A place that the active manager serves (R33). -/
def Place.isGlobal : Place → Bool
  | .segment _ _ => false
  | .reserved => false
  | _ => true

/-- A write of the object window (R311). -/
def State.windowWrite (s : State) (off word : Nat) : State := match off with
  | 0x00 => s.putIn .window (qPush s.now word false (s.inQueue .window))
  | 0x08 => s.putIn .window (qPush s.now word true (s.inQueue .window))
  | 0x10 => s.putIn .window (qClear s.now word (s.inQueue .window))
  | _ => if 0x100 ≤ off && off < 0x120 then s.putOut .window (qRegisterWrite s.now (off - 0x100) word (s.outQueue .window)) else s

/-- A step doorbell (R301). -/
def State.stepDoorbell (s : State) (cyc p word : Nat) : State :=
  let c : Cls := if bit 59 word then .be else .lc
  let r := if bits 63 60 word == 1 then execLaunch cyc p c (bits 47 32 word) (bits 31 16 word) s
    else if bits 63 60 word == 2 then execStop cyc p c s
    else execStepDoorbellReservedOp cyc p (bits 63 60 word) c (bits 47 32 word) s
  match r with
  | .next t => t
  | _ => s

/-- A ring doorbell (R298), a PRODUCE in hush a wake event (R396). -/
def State.ringDoorbell (s : State) (cyc n word : Nat) : State :=
  if s.takesDoorbell n then
    let t := s.doorbell cyc n (bits 63 60 word) (bits 31 0 word)
    if bits 63 60 word == 1 && (s.ring n).isSub then t.wakeEvent (s.stampFor cyc).beat else t
  else s

/-- A write to a place, served where it lies. -/
def State.writePlace (s : State) (cyc word : Nat) (x : Place) : State := match x with
  | .global off => if 0x1000 ≤ off && off < 0x1080 then s.stepDoorbell cyc ((off - 0x1000) / 8) word else s
  | .doorbell n => s.ringDoorbell cyc n word
  | .context n w => if s.takesContext n then s.contextWrite n w word else s
  | .window off => if s.mgrUp then s.windowWrite off word else s
  | .segment i off => if 0x30000 ≤ off && off < 0x30020 then s.onNq i (qRegisterWrite s.now (off - 0x30000) word) else s
  | .reserved => s

/-- What a read of a place delivers, for a place whose read changes nothing. -/
def State.readPlace (s : State) (cyc : Nat) (x : Place) : Nat := match x with
  | .global off => s.gRegister cyc off
  | .context n w => ringWord s.time.beat w (s.ring n)
  | .window off =>
    if off == 0x10 then qStatusWord true (qTick s.now (s.inQueue .window))
    else if 0x100 ≤ off && off < 0x120 then qRegister true (off - 0x100) (qTick s.now (s.outQueue .window))
    else 0
  | .segment i off =>
    let g := s.seg i
    if 0x20000 ≤ off && off < 0x21000 then s.arrayRegister (off - 0x20000) g.ma0
    else if 0x21000 ≤ off && off < 0x22000 then s.arrayRegister (off - 0x21000) g.ma1
    else if 0x30000 ≤ off && off < 0x30020 then qRegister g.nq.owner (off - 0x30000) (qTick s.now g.nq)
    else 0
  | _ => 0

/-- A read of queue 2's data register: a stall on an empty queue in HOLD, else a pop (R288, R311). -/
def State.readWindow (s : State) (port : Nat) : State :=
  let q := s.outQueue .window
  if q.stalls s.now then s.putOut .window (qStall s.now port (s.seg port).port.reqTag q)
  else
    let t := qRead s.now q
    (s.putOut .window (qLast t.1 false t.2)).respond port 0 t.1.data

/-- An access served: its effect, and its answer on the port it came by (R401, R402). -/
def State.serveAccess (s : State) (cyc port : Nat) (isWrite : Bool) (word : Nat) (x : Place) : State :=
  if isWrite then (s.writePlace cyc word x).respond port 0 0
  else if x == .window 0x100 && s.mgrUp then s.readWindow port
  else match x with
    | .segment i 0x30000 => s.readQdata port i
    | _ => s.respond port 0 (s.readPlace cyc x)

/-- A segment's port answers FENCED for the places of the manager (R364, R365, R402). -/
def State.portFenced (s : State) (port : Nat) : Bool :=
  (s.seg port).state == .fenced || (port == s.mgr && s.roles.selfFenced)

/-- The block has the place: a segment window of an absent segment is reserved. -/
def State.placeExists (s : State) (x : Place) : Bool := match x with
  | .segment i _ => s.hasSeg i
  | .reserved => false
  | _ => true

/-- A route leads from a port's segment to the manager, or to another segment's window (R33, R402). -/
def State.routed (s : State) (port : Nat) (x : Place) : Bool := match x with
  | .segment i _ => i == port || (s.segUp i && (aGet i s.meshDist).isSome == (aGet port s.meshDist).isSome)
  | _ => s.mgrAwake && (port == s.mgr || s.routesTo port)

/-- The segment at which an access is served (R33). -/
def State.servedAt (s : State) : Place → Nat
  | .segment i _ => i
  | _ => s.mgr

/-- An access forwarded on the control channel to the segment that serves it, and its answer on the way back (R25, R33). -/
def State.forward (s : State) (port : Nat) (x : Place) : State :=
  if s.servedAt x == port then s else (s.control port (s.servedAt x)).control (s.servedAt x) port

/-- A host access that the target channel of a port has accepted (R33, R401, R402). -/
def State.hostAccess (s : State) (cyc port addr : Nat) (isWrite : Bool) (word : Nat) : State :=
  let x := placeAt (addr % 2 ^ 28)
  let s := ((s.onPort port (fun p => { p with trained := true })).onCycle cyc).closeCycles
  if addr % 8 != 0 then s.respond port 1 0
  else if x.isGlobal && s.portFenced port then s.respond port 2 0
  else if !s.placeExists x then s.respond port 0 0
  else if s.routed port x then (s.forward port x).serveAccess cyc port isWrite (word % 2 ^ 64) x
  else s.respond port 3 0

/-- A port of the block takes a request: its segment is out of reset, the integrator connected it (R33), and it can accept one of this
tag (R401). -/
def State.portOpen (s : State) (by_ : PortTag) : Bool :=
  s.segUp by_.port && (s.seg by_.port).port.connected && s.takesReq by_.port by_.tag

/-- A request of the host on a port: accepted and served, where the port takes it. -/
def State.hostRequest (s : State) (cyc : Nat) (by_ : PortTag) (addr : Nat) (isWrite : Bool) (word : Nat) : State :=
  s.atBlock by_.port (fun s =>
    if s.portOpen by_ then (s.acceptReq by_.port by_.tag).hostAccess cyc by_.port addr isWrite word else s)

/-- REGISTER_WRITE (R17): applied, or ignored where the register is reserved or read-only. -/
def execRegisterWrite (cyc : Nat) (by_ : PortTag) (addr word : Nat) (s : State) : Result := .next (s.hostRequest cyc by_ addr true word)

/-- FORWARDED_ACCESS (R33): an access served where its address lies, after forwarding where that is not the port's own segment. -/
def execForwardedAccess (cyc : Nat) (by_ : PortTag) (addr : Nat) (isWrite : Bool) (word : Nat) (s : State) : Result :=
  .next (s.hostRequest cyc by_ addr isWrite word)

/-! The test port. -/

/-- The test port is open to a segment: BLANK or PROVISIONED (R328). -/
def State.testOpen (s : State) (i : Nat) : Bool :=
  s.hasSeg i && ((s.seg i).trust.lifecycle == .blank || (s.seg i).trust.lifecycle == .provisioned)

/-- A segment held by the test port: its queues in HOLD (R291). -/
def testHold (held : Bool) (g : Segment) : Segment := { g with trust := { g.trust with testHeld := held } }

/-- The test port takes hold of a segment: its queues stand in HOLD, and with the manager's segment those of its endpoints (R291). -/
def State.holdSegment (s : State) (seg : Nat) : State :=
  let t := s.onSeg seg (fun g => holdQueues s.now true (testHold true g))
  if seg == s.mgr then t.endpointMode true else t

/-- The queues of a segment that the test port lets go return to NORMAL, unless the segment has yet to join, is fenced, or awaits the
end of a recovery. -/
def State.letGo (s : State) (seg : Nat) : State :=
  let free := (s.seg seg).state == .serving && s.roles.recovering.isNone && !(seg == s.mgr && s.roles.selfFenced)
  let t := s.onSeg seg (testHold false)
  if free then
    let t := t.onSeg seg (holdQueues s.now false)
    (if seg == s.mgr then t.endpointMode false else t).settleReads
  else t

/-- TEST_PORT_HOLD (R291, R379). -/
def execTestPortHold (seg : Nat) (s : State) : Result :=
  onlyIf (s.testOpen seg && !(s.seg seg).trust.testHeld) (s.holdSegment seg) s

/-- TEST_PORT_RELEASE (R291). -/
def execTestPortRelease (seg : Nat) (s : State) : Result :=
  onlyIf (s.hasSeg seg && (s.seg seg).trust.testHeld) (s.letGo seg) s

/-- One remap entry as the test port writes it (R97). -/
def remapOf (w k : Nat) : RemapEntry :=
  let f := w / 2 ^ (16 * k) % 2 ^ 16
  { valid := bit 15 f, bad := bit 14 f, logical := bits 7 0 f }

/-- Four remap entries written from one register (R97). That no two valid entries name one logical column is left to the writer:
what a write that breaks it does the spec does not say. DESIGN CHOICE (log entry 46): the register takes it as it comes, and the
lowest such entry serves the column. -/
def writeRemap (from_ w : Nat) (a : ArrayS) : ArrayS :=
  { a with remap := (a.remap.zipIdx).map (fun (e : RemapEntry × Nat) =>
      if from_ ≤ e.2 && e.2 < from_ + 4 then remapOf w (e.2 - from_) else e.1) }

/-- A fault register written: columns newly marked failed are to be remapped (R92, R93, R95). -/
def writeFaults (k w : Nat) (a : ArrayS) : ArrayS :=
  let here (c : Nat) : Bool := 64 * k ≤ c && c < 64 * (k + 1)
  let set := (maskBits 64 w).map (64 * k + ·) |>.filter (· < 264)
  let a := { a with faults := a.faults.filter (fun c => !here c || set.contains c),
                    pendingRemap := a.pendingRemap.filter (fun c => !here c || set.contains c) }
  let a := { a with state := if a.state == .draining && a.pendingRemap.isEmpty then .serving else a.state }
  set.foldl (fun a c => markColumn c a) a

/-- What the test port writes (R92, R95, R145). -/
def State.testWrite (s : State) (seg : Nat) : TestWrite → State
  | .colRemap0 a w => s.onSeg seg (fun g => g.onArray a (writeRemap 0 w))
  | .colRemap1 a w => s.onSeg seg (fun g => g.onArray a (writeRemap 4 w))
  | .colFault a k w => if k < 5 then s.onSeg seg (fun g => g.onArray a (writeFaults k w)) else s
  | .moduleFailed d inLink inBack =>
    if ((s.seg seg).hub.module d).failed then s
    else match neighbour s.segs.length seg d with
      | some j => (s.loseInLink 0 seg j d inLink inBack).moduleFailed seg d 0x12 s.edge
      | none => s.moduleFailed seg d 0x12 s.edge

/-- TEST_PORT_WRITE (R95, R145, R328). -/
def execTestPortWrite (seg : Nat) (write : TestWrite) (s : State) : Result := onlyIf (s.testOpen seg) (s.testWrite seg write) s

end Sys2Proof.Machine
end

