-- ==== Sys2Proof/Machine/Dispatch.lean ====
section
/-! DEFINITION. The dispatcher: one arm for each command, a direct call of its meaning. -/

namespace Sys2Proof.Machine

/-- The effect of a command on everything but the queue. -/
def exec (i : Instr) (s : State) : Host.Outcome State Fault Refusal :=
  match i with
  | .beatEdge slewPs temps => Sys2Proof.Machine.execBeatEdge slewPs temps s
  | .ppsEdge seg tod inTime offsetNs => Sys2Proof.Machine.execPpsEdge seg tod inTime offsetNs s
  | .refLost seg cause => Sys2Proof.Machine.execRefLost seg cause s
  | .refRestored offsetNs => Sys2Proof.Machine.execRefRestored offsetNs s
  | .refConverged => Sys2Proof.Machine.execRefConverged s
  | .beatSourceChange seg skewNs => Sys2Proof.Machine.execBeatSourceChange seg skewNs s
  | .tokenRefill => Sys2Proof.Machine.execTokenRefill s
  | .heartbeat => Sys2Proof.Machine.execHeartbeat s
  | .heartbeatReceive seg stampBeat => Sys2Proof.Machine.execHeartbeatReceive seg stampBeat s
  | .heartbeatAckTimeout cyc seg => Sys2Proof.Machine.execHeartbeatAckTimeout cyc seg s
  | .mirrorDeltaApply seqNo => Sys2Proof.Machine.execMirrorDeltaApply seqNo s
  | .mirrorCopyComplete => Sys2Proof.Machine.execMirrorCopyComplete s
  | .launch cyc part cls program repeats => Sys2Proof.Machine.execLaunch cyc part cls program repeats s
  | .stop cyc part cls => Sys2Proof.Machine.execStop cyc part cls s
  | .stepDoorbellReservedOp cyc part op cls program => Sys2Proof.Machine.execStepDoorbellReservedOp cyc part op cls program s
  | .freeze part cls => Sys2Proof.Machine.execFreeze part cls s
  | .stepLaunch part cls => Sys2Proof.Machine.execStepLaunch part cls s
  | .descriptorIssue seg part cls slot => Sys2Proof.Machine.execDescriptorIssue seg part cls slot s
  | .passArm seg arr stall => Sys2Proof.Machine.execPassArm seg arr stall s
  | .tileLoadComplete seg arr part cls slot => Sys2Proof.Machine.execTileLoadComplete seg arr part cls slot s
  | .statisticsPass seg part cls slot => Sys2Proof.Machine.execStatisticsPass seg part cls slot s
  | .sweepComplete seg part cls slot => Sys2Proof.Machine.execSweepComplete seg part cls slot s
  | .stagingAllocate seg part cls units base => Sys2Proof.Machine.execStagingAllocate seg part cls units base s
  | .abandonReport cyc part => Sys2Proof.Machine.execAbandonReport cyc part s
  | .abandonComplete part => Sys2Proof.Machine.execAbandonComplete part s
  | .kernelStart seg part cls slot => Sys2Proof.Machine.execKernelStart seg part cls slot s
  | .kernelComplete seg part cls slot issueCycles work => Sys2Proof.Machine.execKernelComplete seg part cls slot issueCycles work s
  | .kernelFault cyc seg part cls slot cause => Sys2Proof.Machine.execKernelFault cyc seg part cls slot cause s
  | .kernelBoundExceeded seg part cls slot => Sys2Proof.Machine.execKernelBoundExceeded seg part cls slot s
  | .klfFrameReceive seg frame => Sys2Proof.Machine.execKlfFrameReceive seg frame s
  | .transferComplete seg part cls slot hostData => Sys2Proof.Machine.execTransferComplete seg part cls slot hostData s
  | .hubClearReport seg part cls => Sys2Proof.Machine.execHubClearReport seg part cls s
  | .commitDescriptorReached seg part cls reports => Sys2Proof.Machine.execCommitDescriptorReached seg part cls reports s
  | .draftLevel part cls level rows => Sys2Proof.Machine.execDraftLevel part cls level rows s
  | .managerDraw part cls rows => Sys2Proof.Machine.execManagerDraw part cls rows s
  | .compactionComplete seg part cls => Sys2Proof.Machine.execCompactionComplete seg part cls s
  | .commitPoint cyc part cls => Sys2Proof.Machine.execCommitPoint cyc part cls s
  | .stepHang part cls => Sys2Proof.Machine.execStepHang part cls s
  | .groupClose seq => Sys2Proof.Machine.execGroupClose seq s
  | .subRequest cyc ring rec env => Sys2Proof.Machine.execSubRequest cyc ring rec env s
  | .cancel cyc ring rec => Sys2Proof.Machine.execCancel cyc ring rec s
  | .subReservedKind cyc ring rec => Sys2Proof.Machine.execSubReservedKind cyc ring rec s
  | .admission part cls => Sys2Proof.Machine.execAdmission part cls s
  | .joinWaitExpiry part => Sys2Proof.Machine.execJoinWaitExpiry part s
  | .resumption part => Sys2Proof.Machine.execResumption part s
  | .completionRecordWrite seq => Sys2Proof.Machine.execCompletionRecordWrite seq s
  | .dimWriteComplete cache => Sys2Proof.Machine.execDimWriteComplete cache s
  | .dimFetchComplete read => Sys2Proof.Machine.execDimFetchComplete read s
  | .dimReadBackFail cyc cache => Sys2Proof.Machine.execDimReadBackFail cyc cache s
  | .probeListReceive seg seq => Sys2Proof.Machine.execProbeListReceive seg seq s
  | .scanGroupStart seg => Sys2Proof.Machine.execScanGroupStart seg s
  | .scanGroupEnd seg stalls => Sys2Proof.Machine.execScanGroupEnd seg stalls s
  | .scanHeapMerge seq => Sys2Proof.Machine.execScanHeapMerge seq s
  | .spanMerge seq => Sys2Proof.Machine.execSpanMerge seq s
  | .passageFetchComplete owner place result => Sys2Proof.Machine.execPassageFetchComplete owner place result s
  | .handOver seq => Sys2Proof.Machine.execHandOver seq s
  | .rulesetLoad cyc path transfer image plain => Sys2Proof.Machine.execRulesetLoad cyc path transfer image plain s
  | .rulesetInstall slot => Sys2Proof.Machine.execRulesetInstall slot s
  | .detokLoad cyc path transfer image plain => Sys2Proof.Machine.execDetokLoad cyc path transfer image plain s
  | .snareStreamStart seg => Sys2Proof.Machine.execSnareStreamStart seg s
  | .snareMatchReport seq => Sys2Proof.Machine.execSnareMatchReport seq s
  | .snareLaneError seg lane => Sys2Proof.Machine.execSnareLaneError seg lane s
  | .release cyc => Sys2Proof.Machine.execRelease cyc s
  | .lateRelease cyc => Sys2Proof.Machine.execLateRelease cyc s
  | .qdataRead at_ => Sys2Proof.Machine.execQdataRead at_ s
  | .holdReadTimeout seg => Sys2Proof.Machine.execHoldReadTimeout seg s
  | .qcontrolWrite at_ word => Sys2Proof.Machine.execQcontrolWrite at_ word s
  | .queueFlush at_ => Sys2Proof.Machine.execQueueFlush at_ s
  | .qstatusClear at_ word => Sys2Proof.Machine.execQstatusClear at_ word s
  | .noticeDrain at_ => Sys2Proof.Machine.execNoticeDrain at_ s
  | .produce cyc ring index => Sys2Proof.Machine.execProduce cyc ring index s
  | .consume cyc ring index => Sys2Proof.Machine.execConsume cyc ring index s
  | .ringFlush cyc ring => Sys2Proof.Machine.execRingFlush cyc ring s
  | .doorbellReservedOp cyc ring op index => Sys2Proof.Machine.execDoorbellReservedOp cyc ring op index s
  | .ringEnable ring word => Sys2Proof.Machine.execRingEnable ring word s
  | .ringDisable ring word => Sys2Proof.Machine.execRingDisable ring word s
  | .ringContextWrite ring wordNo word => Sys2Proof.Machine.execRingContextWrite ring wordNo word s
  | .indexWriteback ring => Sys2Proof.Machine.execIndexWriteback ring s
  | .modIntervalEnd ring => Sys2Proof.Machine.execModIntervalEnd ring s
  | .eventVectorTransfer => Sys2Proof.Machine.execEventVectorTransfer s
  | .ringBacklogWrite ring => Sys2Proof.Machine.execRingBacklogWrite ring s
  | .ringPause seq => Sys2Proof.Machine.execRingPause seq s
  | .ringWriteRetry seg tag => Sys2Proof.Machine.execRingWriteRetry seg tag s
  | .registerWrite cyc by_ addr word => Sys2Proof.Machine.execRegisterWrite cyc by_ addr word s
  | .forwardedAccess cyc by_ addr isWrite word => Sys2Proof.Machine.execForwardedAccess cyc by_ addr isWrite word s
  | .owPush put => Sys2Proof.Machine.execOwPush put s
  | .owPushLast put => Sys2Proof.Machine.execOwPushLast put s
  | .read cyc path head buffer room => Sys2Proof.Machine.execRead cyc path head buffer room s
  | .writeExpedited cyc path head data => Sys2Proof.Machine.execWriteExpedited cyc path head data s
  | .writeInitiate cyc path head total source => Sys2Proof.Machine.execWriteInitiate cyc path head total source s
  | .segment cyc path head offset data => Sys2Proof.Machine.execSegment cyc path head offset data s
  | .segmentRequest cyc path head => Sys2Proof.Machine.execSegmentRequest cyc path head s
  | .abort cyc path head code => Sys2Proof.Machine.execAbort cyc path head code s
  | .oamReservedCmd by_ head => Sys2Proof.Machine.execOamReservedCmd by_ head s
  | .oamDiscard by_ head headIntact => Sys2Proof.Machine.execOamDiscard by_ head headIntact s
  | .transferTimeout ep transfer => Sys2Proof.Machine.execTransferTimeout ep transfer s
  | .indirectTransferComplete cyc ep transfer error data => Sys2Proof.Machine.execIndirectTransferComplete cyc ep transfer error data s
  | .commit cyc path transfer => Sys2Proof.Machine.execCommit cyc path transfer s
  | .discard cyc path transfer => Sys2Proof.Machine.execDiscard cyc path transfer s
  | .programLoad cyc path transfer part image => Sys2Proof.Machine.execProgramLoad cyc path transfer part image s
  | .streamTable cyc path transfer part entries => Sys2Proof.Machine.execStreamTable cyc path transfer part entries s
  | .kernelLoad cyc path transfer part image => Sys2Proof.Machine.execKernelLoad cyc path transfer part image s
  | .indexLoad cyc path transfer part image plain => Sys2Proof.Machine.execIndexLoad cyc path transfer part image plain s
  | .modelLoad cyc path transfer part image plain => Sys2Proof.Machine.execModelLoad cyc path transfer part image plain s
  | .lifecycleAdvance cyc path transfer value => Sys2Proof.Machine.execLifecycleAdvance cyc path transfer value s
  | .envelopeKeyRotate cyc path transfer mask => Sys2Proof.Machine.execEnvelopeKeyRotate cyc path transfer mask s
  | .dimKeyRotate cyc path transfer mask => Sys2Proof.Machine.execDimKeyRotate cyc path transfer mask s
  | .dimEpochExhausted part => Sys2Proof.Machine.execDimEpochExhausted part s
  | .archiveKeys cyc path transfer entries => Sys2Proof.Machine.execArchiveKeys cyc path transfer entries s
  | .archiveKeyInstall slot => Sys2Proof.Machine.execArchiveKeyInstall slot s
  | .splitMode cyc path transfer => Sys2Proof.Machine.execSplitMode cyc path transfer s
  | .rejoinPrepare cyc path transfer => Sys2Proof.Machine.execRejoinPrepare cyc path transfer s
  | .rejoin cyc path transfer => Sys2Proof.Machine.execRejoin cyc path transfer s
  | .rejoinTrainTimeout => Sys2Proof.Machine.execRejoinTrainTimeout s
  | .hushEnter cyc path transfer => Sys2Proof.Machine.execHushEnter cyc path transfer s
  | .hushEntry => Sys2Proof.Machine.execHushEntry s
  | .wake cyc path transfer => Sys2Proof.Machine.execWake cyc path transfer s
  | .wakeComplete => Sys2Proof.Machine.execWakeComplete s
  | .resetWarm cyc path => Sys2Proof.Machine.execResetWarm cyc path s
  | .resetCold cyc path => Sys2Proof.Machine.execResetCold cyc path s
  | .powerOnReset seg => Sys2Proof.Machine.execPowerOnReset seg s
  | .coldReset seg => Sys2Proof.Machine.execColdReset seg s
  | .warmReset seg => Sys2Proof.Machine.execWarmReset seg s
  | .setEndpointId ep eid => Sys2Proof.Machine.execSetEndpointId ep eid s
  | .getEndpointId ep => Sys2Proof.Machine.execGetEndpointId ep s
  | .getMctpVersionSupport ep msgType => Sys2Proof.Machine.execGetMctpVersionSupport ep msgType s
  | .getMessageTypeSupport ep => Sys2Proof.Machine.execGetMessageTypeSupport ep s
  | .getVendorDefinedMessageSupport ep selector => Sys2Proof.Machine.execGetVendorDefinedMessageSupport ep selector s
  | .entdaa seg addr => Sys2Proof.Machine.execEntdaa seg addr s
  | .setdasa seg static addr => Sys2Proof.Machine.execSetdasa seg static addr s
  | .getVersion ep => Sys2Proof.Machine.execGetVersion ep s
  | .getCapabilities ep => Sys2Proof.Machine.execGetCapabilities ep s
  | .negotiateAlgorithms ep offered => Sys2Proof.Machine.execNegotiateAlgorithms ep offered s
  | .getDigests ep => Sys2Proof.Machine.execGetDigests ep s
  | .getCertificate ep slot => Sys2Proof.Machine.execGetCertificate ep slot s
  | .challenge ep slot nonce => Sys2Proof.Machine.execChallenge ep slot nonce s
  | .getMeasurements ep block sign nonce => Sys2Proof.Machine.execGetMeasurements ep block sign nonce s
  | .keyExchange ep session mutualRoot => Sys2Proof.Machine.execKeyExchange ep session mutualRoot s
  | .finish ep session ok => Sys2Proof.Machine.execFinish ep session ok s
  | .spdmHeartbeat ep session => Sys2Proof.Machine.execSpdmHeartbeat ep session s
  | .keyUpdate ep session => Sys2Proof.Machine.execKeyUpdate ep session s
  | .endSession ep session => Sys2Proof.Machine.execEndSession ep session s
  | .provisioning seg data => Sys2Proof.Machine.execProvisioning seg data s
  | .correctableError seg channel => Sys2Proof.Machine.execCorrectableError seg channel s
  | .uncorrectableDataError cyc seg source => Sys2Proof.Machine.execUncorrectableDataError cyc seg source s
  | .uncorrectableControlError cyc seg => Sys2Proof.Machine.execUncorrectableControlError cyc seg s
  | .stackReadError cyc seg channel addr step region => Sys2Proof.Machine.execStackReadError cyc seg channel addr step region s
  | .screenRegionRestored seg => Sys2Proof.Machine.execScreenRegionRestored seg s
  | .channelRetire seg channel => Sys2Proof.Machine.execChannelRetire seg channel s
  | .channelRetireComplete seg channel relocated => Sys2Proof.Machine.execChannelRetireComplete seg channel relocated s
  | .channelFail cyc seg channel relocated regions => Sys2Proof.Machine.execChannelFail cyc seg channel relocated regions s
  | .residueMismatch cyc seg arr column part cls => Sys2Proof.Machine.execResidueMismatch cyc seg arr column part cls s
  | .columnRemap cyc seg arr => Sys2Proof.Machine.execColumnRemap cyc seg arr s
  | .linkDown seg dir => Sys2Proof.Machine.execLinkDown seg dir s
  | .linkRetrainingEnd cyc seg dir outcome => Sys2Proof.Machine.execLinkRetrainingEnd cyc seg dir outcome s
  | .linkTagFailure cyc seg dir failure => Sys2Proof.Machine.execLinkTagFailure cyc seg dir failure s
  | .detourInstall cyc => Sys2Proof.Machine.execDetourInstall cyc s
  | .linkRekey seg dir => Sys2Proof.Machine.execLinkRekey seg dir s
  | .linkTrained seg dir fullRate auth => Sys2Proof.Machine.execLinkTrained seg dir fullRate auth s
  | .sessionOpen hd hello => Sys2Proof.Machine.execSessionOpen hd hello s
  | .sessionAccept hd hello => Sys2Proof.Machine.execSessionAccept hd hello s
  | .sessionRefuse hd reason => Sys2Proof.Machine.execSessionRefuse hd reason s
  | .query gram deadline tag indexId nprobe scanK dim vector => Sys2Proof.Machine.execQuery gram deadline tag indexId nprobe scanK dim vector s
  | .heapResult gram tag first entries last => Sys2Proof.Machine.execHeapResult gram tag first entries last s
  | .candidateRef hd rec more => Sys2Proof.Machine.execCandidateRef hd rec more s
  | .klfData gram frame scale destSeg window offset => Sys2Proof.Machine.execKlfData gram frame scale destSeg window offset s
  | .spanAck hd => Sys2Proof.Machine.execSpanAck hd s
  | .close hd => Sys2Proof.Machine.execClose hd s
  | .spanDatagramDrop frame => Sys2Proof.Machine.execSpanDatagramDrop frame s
  | .spanRetransmit session seq => Sys2Proof.Machine.execSpanRetransmit session seq s
  | .spanSessionRekey session tx => Sys2Proof.Machine.execSpanSessionRekey session tx s
  | .spanSessionRenew session => Sys2Proof.Machine.execSpanSessionRenew session s
  | .spanSessionRetry peer => Sys2Proof.Machine.execSpanSessionRetry peer s
  | .spanLinkDown stream => Sys2Proof.Machine.execSpanLinkDown stream s
  | .spanWindowRemove window => Sys2Proof.Machine.execSpanWindowRemove window s
  | .fence seg => Sys2Proof.Machine.execFence seg s
  | .managerSelfFence => Sys2Proof.Machine.execManagerSelfFence s
  | .confirm seg => Sys2Proof.Machine.execConfirm seg s
  | .confirmAnswer seg silent => Sys2Proof.Machine.execConfirmAnswer seg silent s
  | .takeover cyc stale => Sys2Proof.Machine.execTakeover cyc stale s
  | .recoveryEnd => Sys2Proof.Machine.execRecoveryEnd s
  | .standbyNaming => Sys2Proof.Machine.execStandbyNaming s
  | .marginMeasurement seg marginPs => Sys2Proof.Machine.execMarginMeasurement seg marginPs s
  | .clockStep seg => Sys2Proof.Machine.execClockStep seg s
  | .vreqAck seg => Sys2Proof.Machine.execVreqAck seg s
  | .feedReading cyc reading => Sys2Proof.Machine.execFeedReading cyc reading s
  | .railDroopEdge cyc seg droop => Sys2Proof.Machine.execRailDroopEdge cyc seg droop s
  | .supplyClear source => Sys2Proof.Machine.execSupplyClear source s
  | .feedStale cyc seg => Sys2Proof.Machine.execFeedStale cyc seg s
  | .gongResetRelease => Sys2Proof.Machine.execGongResetRelease s
  | .reducedServiceOpen => Sys2Proof.Machine.execReducedServiceOpen s
  | .segmentJoin seg => Sys2Proof.Machine.execSegmentJoin seg s
  | .joinDeadline seg => Sys2Proof.Machine.execJoinDeadline seg s
  | .fullService => Sys2Proof.Machine.execFullService s
  | .dmaWriteResponse at_ tag error => Sys2Proof.Machine.execDmaWriteResponse at_ tag error s
  | .dmaReadComplete cyc seg tag error data => Sys2Proof.Machine.execDmaReadComplete cyc seg tag error data s
  | .initiatorCreditReturn seg writeData => Sys2Proof.Machine.execInitiatorCreditReturn seg writeData s
  | .spanLinkUp stream => Sys2Proof.Machine.execSpanLinkUp stream s
  | .resetRelease input seg => Sys2Proof.Machine.execResetRelease input seg s
  | .selfTestComplete cyc seg ok columns => Sys2Proof.Machine.execSelfTestComplete cyc seg ok columns s
  | .stackTrainingComplete cyc seg ok => Sys2Proof.Machine.execStackTrainingComplete cyc seg ok s
  | .partialBlockCopyComplete seq => Sys2Proof.Machine.execPartialBlockCopyComplete seq s
  | .snareStreamEnd seg lane => Sys2Proof.Machine.execSnareStreamEnd seg lane s
  | .testPortHold seg => Sys2Proof.Machine.execTestPortHold seg s
  | .testPortRelease seg => Sys2Proof.Machine.execTestPortRelease seg s
  | .testPortWrite seg write => Sys2Proof.Machine.execTestPortWrite seg write s
  | .phyUpdateRequest seg master => Sys2Proof.Machine.execPhyUpdateRequest seg master s

end Sys2Proof.Machine
end

