-- ==== Sys2Proof/WellFormed.lean ====
section
/-! DEFINITION. Well-formed commands: each operand within the width or range that the spec gives its field. A command that reaches the
block is well formed; what the block does with one that is not is its meaning's own affair. -/

namespace Sys2Proof

/-- A segment number: 0 to 19 (R3). -/
def segOk (n : Nat) : Bool := n < 20

/-- A partition number: 0 to 15 (R38). -/
def partOk (n : Nat) : Bool := n < 16

/-- A control cycle within a beat: 0 to 4,999 (R47). -/
def cycOk (n : Nat) : Bool := n < 5000

/-- A ring number: 0 to 16,383 (R28). -/
def ringOk (n : Nat) : Bool := n < 16384

/-- A live sequence index: 0 to 32,767 (R28). -/
def seqOk (n : Nat) : Bool := n < 32768

/-- A field of 4 bits: an OP, or a word of a ring context (R297, R298). -/
def opOk (n : Nat) : Bool := n < 16

/-- A field of 8 bits. -/
def byteOk (n : Nat) : Bool := n < 2 ^ 8

/-- A field of 16 bits: program, index and descriptor slot numbers, readings. -/
def halfOk (n : Nat) : Bool := n < 2 ^ 16

/-- A field of 32 bits: ring indexes, offsets, abort codes, session numbers. -/
def indexOk (n : Nat) : Bool := n < 2 ^ 32

/-- A word of 64 bits. -/
def wordOk (n : Nat) : Bool := n < 2 ^ 64

/-- A SUB record of 64 bytes (R300). -/
def recordOk (n : Nat) : Bool := n < 2 ^ 512

/-- A byte address of the aperture: 28 bits (R401). -/
def apertureOk (n : Nat) : Bool := n < 2 ^ 28

/-- A byte address of a stack (R406). -/
def stackAddrOk (n : Nat) : Bool := n < 72 * 2 ^ 30

/-- The bytes of a transfer: up to 2^40 (R307). -/
def sizeOk (n : Nat) : Bool := n ≤ 2 ^ 40

/-- 256-byte units of staging SRAM: up to 393,216 (R102). -/
def unitsOk (n : Nat) : Bool := n ≤ 393216

/-- A place in a candidate list: 0 to 1,023 (R245). -/
def placeOk (n : Nat) : Bool := n < 1024

/-- A stack channel: 0 to 31 (R406). -/
def channelOk (n : Nat) : Bool := n < 32

/-- A stack channel, where the event has one. -/
def optChannelOk : Option Nat → Bool
  | some n => channelOk n
  | none => true

/-- A physical column: 0 to 263 (R95). -/
def columnOk (n : Nat) : Bool := n < 264

/-- A Snare Engine lane: 0 to 63 (R267). -/
def laneOk (n : Nat) : Bool := n < 64

/-- A screening table slot or a certificate slot: 0 to 7 (R265, R335). -/
def screenSlotOk (n : Nat) : Bool := n < 8

/-- An I3C address: 7 bits (R412). -/
def addrOk (n : Nat) : Bool := n < 128

/-- A peer of a span: 0 to 63 (R34). -/
def peerOk (n : Nat) : Bool := n < 64

/-- A MAC stream of the span port: 0 to 3 (R410). -/
def streamOk (n : Nat) : Bool := n < 4

/-- A challenge nonce of 256 bits (R335). -/
def nonceOk (n : Nat) : Bool := n < 2 ^ 256

/-- Bytes. -/
def bytesOk (l : List Nat) : Bool := l.all (fun b => b < 256)

/-- Slots of the Handle Directory: 8,192 sets of 15 ways (R185). -/
def staleOk (l : List Nat) : Bool := l.all (fun k => k < 122880)

/-- A junction reading of each segment, 16 bits signed (R397). -/
def tempsOk (l : List Int) : Bool := l.length ≤ 20 && l.all (fun t => -32768 ≤ t && t < 32768)

/-- A cache: a directory slot or a live sequence. -/
def cacheOk : CacheRef → Bool
  | .entry slot => slot < 122880
  | .seq idx => seqOk idx

/-- A supply source of an existing segment (R380). -/
def sourceOk : Source → Bool
  | .rail seg => segOk seg
  | .feed => true

/-- A management path: the target of an existing segment, or one of the others (R309). -/
def epOk : Endpoint → Bool
  | .i3c seg => segOk seg
  | _ => true

/-- A message path. -/
def pathOk (p : Path) : Bool := epOk p.ep

/-- The fields of an object access message's header within their widths (R313). -/
def headOk (h : OamHead) : Bool :=
  h.transfer < 2 ^ 8 && h.index < 2 ^ 16 && h.sub < 2 ^ 8 && h.count < 2 ^ 6 && h.size < 4

/-- The fields of a KLF frame within their widths (R130). -/
def frameOk (f : Frame) : Bool :=
  segOk f.src && f.dest < 32 && f.slot < 2 ^ 16 && f.stream < 2 ^ 16 && f.chunk < 2 ^ 20 && -8 ≤ f.exp && f.exp < 8 && f.redop < 4 && f.passTag < 2 ^ 8

/-- The fields of a span header within their widths (R150). -/
def spanOk (h : SpanHeader) : Bool :=
  h.major < 2 ^ 8 && h.minor < 2 ^ 8 && h.block < 64 && h.session < 2 ^ 32 && h.seq < 2 ^ 32 && h.ack < 2 ^ 32
    && h.length < 2 ^ 16 && h.records < 2 ^ 8 && h.source < 2 ^ 128

/-- QUERY records within the widths of their fields (R246). -/
def queriesOk (l : List QueryRec) : Bool :=
  l.all (fun r => wordOk r.deadline && indexOk r.tag && halfOk r.indexId && halfOk r.nprobe && halfOk r.scanK && halfOk r.dim)

/-- HEAP_RESULT records within the widths of their fields (R247). -/
def heapsOk (l : List HeapRec) : Bool := l.all (fun r => indexOk r.tag && halfOk r.first)

/-- CANDIDATE_REF records within the widths of their fields (R251). -/
def refsOk (l : List CandRef) : Bool := l.all (fun r => match r with
  | .ask ref tag => wordOk ref && indexOk tag
  | .piece ref tag offset _ _ _ => wordOk ref && indexOk tag && indexOk offset)

/-- KLF records of a span datagram within the widths of their fields (R153). -/
def klfsOk (l : List KlfRecord) : Bool := l.all (fun r => frameOk r.frame && segOk r.destSeg && halfOk r.window && indexOk r.offset)

/-- Traffic of a link. -/
def trafficOk : LinkTraffic → Bool
  | .klf frame => frameOk frame
  | .other steps => steps.all (fun x => partOk x.1)

/-- What a passage fetch serves: the plan of a live sequence, or a span manager's request. -/
def ownerOk : FetchFor → Bool
  | .cand seq => seqOk seq
  | .ask id => indexOk id

/-- What a completed kernel has read of host memory is bytes. -/
def doneOk (d : KernelDone) : Bool := bytesOk d.host

/-- What a scan group reports within the widths of its counters. -/
def stallsOk (x : ScanStalls) : Bool := wordOk x.heldCycles && indexOk x.idleCodes && wordOk x.windowBytes

/-- A cycle of the beat and a segment of the block. -/
def segAtOk (a : SegAt) : Bool := cycOk a.cyc && segOk a.seg

/-- A cycle of the beat and a 64-bit word. -/
def wordAtOk (a : WordAt) : Bool := cycOk a.cyc && wordOk a.word

/-- A cycle of the beat and a message path. -/
def pathAtOk (a : PathAt) : Bool := cycOk a.cyc && pathOk a.path

/-- A tag of a request, of which 64 may be outstanding (R401): 6 bits. -/
def tagOk (n : Nat) : Bool := n < 64

/-- A request on a segment's own target channel. -/
def reqAtOk (a : ReqAt) : Bool := cycOk a.cyc && segOk a.seg && tagOk a.tag

/-- The port and tag of a request of the host. -/
def portTagOk (a : PortTag) : Bool := segOk a.port && tagOk a.tag

/-- Time-of-day words as the pins present them: 64 bits each (R414). -/
def todsOk (l : List TodWord) : Bool := l.all (fun w => wordOk w.sec && wordOk w.sinceNs && wordOk w.untilNs)

/-- The headers of a dim record: 64 bytes each (R193). -/
def dimReadOk (r : DimRead) : Bool := cacheOk r.cache && recordOk r.header && r.frames.all recordOk

/-- A P-384 public key by its coordinates. -/
def publicKeyOk (n : Nat) : Bool := n < 2 ^ 768

/-- What a sealing context was set up with: an encapsulated key of 97 bytes, and an info of bytes (R333). -/
def hpkeOk (x : HpkeSeal) : Bool := x.suite.all halfOk && byteOk x.mode && x.enc < 2 ^ 776 && publicKeyOk x.sender && bytesOk x.info

/-- A request envelope: a header of 16 bytes, and additional data of bytes (R339). -/
def envelopeOk (e : Envelope) : Bool := e.header < 2 ^ 128 && hpkeOk e.hpke && bytesOk e.aad

/-- A chunk of a sealed image (R342). -/
def chunkOk (c : SealedChunk) : Bool := bytesOk c.nonce && c.nonce.length == 12 && bytesOk c.aad && c.bytes ≤ 1048576

/-- A sealed image: a header of 64 bytes, and chunks (R342). -/
def sealedOk (x : SealedImage) : Bool :=
  recordOk x.header && sizeOk x.bytes && publicKeyOk x.ownerKey && hpkeOk x.hpke && x.chunks.all chunkOk && bytesOk x.content

/-- What the ends of a link show: a SERIAL and a segment (R347). -/
def linkAuthOk (a : LinkAuth) : Bool := wordOk a.near.serial && segOk a.near.segment && wordOk a.far.serial && segOk a.far.segment

/-- The payload of a SESSION_OPEN or SESSION_ACCEPT (R348). -/
def helloOk (h : SpanHello) : Bool := h.nonce < 2 ^ 256 && publicKeyOk h.ephemeral && publicKeyOk h.identity && h.fwDigest < 2 ^ 384

/-- A received frame: MAC, EtherType, IPv6 and UDP fields (R411). -/
def rxFrameOk (f : RxFrame) : Bool :=
  f.mac < 2 ^ 48 && halfOk f.etherType && byteOk f.next && f.source < 2 ^ 128 && f.dest < 2 ^ 128 && halfOk f.srcPort && halfOk f.port
    && halfOk f.checksum && bytesOk f.data

/-- What the test port writes (R92, R95). -/
def testWriteOk : TestWrite → Bool
  | .colRemap0 _ word => wordOk word
  | .colRemap1 _ word => wordOk word
  | .colFault _ k word => k < 5 && wordOk word
  | .moduleFailed _ inLink inBack => indexOk inLink && indexOk inBack

/-- A stack region, with its page (R173). -/
def regionOk : StackRegion → Bool
  | .pagePool page => indexOk page
  | .tablePool page => indexOk page
  | _ => true

/-- Stack regions. -/
def regionsOk (l : List StackRegion) : Bool := l.all regionOk

/-- What a retraining ends with: what the ends show, or the frames that it loses. -/
def retrainOk : Retraining → Bool
  | .good auth => linkAuthOk auth
  | .failed inLink inBack => indexOk inLink && indexOk inBack

/-- The frame that failed its tag, and the frames in the link. -/
def failureOk (f : TagFailure) : Bool := trafficOk f.traffic && indexOk f.inLink && indexOk f.inBack

/-- A datagram of QUERY records. -/
def queryGramOk (g : Datagram QueryRec) : Bool := spanOk g.head && queriesOk g.more

/-- A datagram of HEAP_RESULT records. -/
def heapGramOk (g : Datagram HeapRec) : Bool := spanOk g.head && heapsOk g.more

/-- A datagram of KLF records. -/
def klfGramOk (g : Datagram KlfRecord) : Bool := spanOk g.head && klfsOk g.more

/-- A CANDIDATE_REF record. -/
def refOk (r : CandRef) : Bool := refsOk [r]

/-- What provisioning blows within the widths of its fields (R325, R329). -/
def provOk (d : ProvData) : Bool :=
  d.licensee < 2 ^ 32 && d.dieRev < 2 ^ 32 && d.jedec < 2 ^ 11 && d.mipi < 2 ^ 15 && wordOk d.serial && addrOk d.staticAddr
    && bytesOk d.cert && bytesOk d.chain && d.cert.length + d.chain.length ≤ 8192

/-- The operands of a command lie within the widths and ranges of their fields. -/
def Instr.wf (i : Instr) : Bool :=
  match i with
  | .beatEdge _ temps => tempsOk temps
  | .ppsEdge seg tod _ _ => segOk seg && todsOk tod
  | .refLost seg _ => segOk seg
  | .refRestored _ => true
  | .refConverged => true
  | .beatSourceChange seg _ => segOk seg
  | .tokenRefill => true
  | .heartbeat => true
  | .heartbeatReceive seg stampBeat => segOk seg && wordOk stampBeat
  | .heartbeatAckTimeout cyc seg => cycOk cyc && segOk seg
  | .mirrorDeltaApply seqNo => wordOk seqNo
  | .mirrorCopyComplete => true
  | .launch cyc part _ program repeats => cycOk cyc && partOk part && halfOk program && halfOk repeats
  | .stop cyc part _ => cycOk cyc && partOk part
  | .stepDoorbellReservedOp cyc part op _ program => cycOk cyc && partOk part && opOk op && halfOk program
  | .freeze part _ => partOk part
  | .stepLaunch part _ => partOk part
  | .descriptorIssue seg part _ slot => segOk seg && partOk part && halfOk slot
  | .passArm seg _ stall => segOk seg && wordOk stall
  | .tileLoadComplete seg _ part _ slot => segOk seg && partOk part && halfOk slot
  | .statisticsPass seg part _ slot => segOk seg && partOk part && halfOk slot
  | .sweepComplete seg part _ slot => segOk seg && partOk part && halfOk slot
  | .stagingAllocate seg part _ units base => segOk seg && partOk part && unitsOk units && unitsOk base
  | .abandonReport cyc part => cycOk cyc && partOk part
  | .abandonComplete part => partOk part
  | .kernelStart seg part _ slot => segOk seg && partOk part && halfOk slot
  | .kernelComplete seg part _ slot issueCycles work => segOk seg && partOk part && halfOk slot && wordOk issueCycles && doneOk work
  | .kernelFault cyc seg part _ slot _ => cycOk cyc && segOk seg && partOk part && halfOk slot
  | .kernelBoundExceeded seg part _ slot => segOk seg && partOk part && halfOk slot
  | .klfFrameReceive seg frame => segOk seg && frameOk frame
  | .transferComplete seg part _ slot hostData => segOk seg && partOk part && halfOk slot && bytesOk hostData
  | .hubClearReport seg part _ => segOk seg && partOk part
  | .commitDescriptorReached seg part _ _ => segOk seg && partOk part
  | .draftLevel part _ level _ => partOk part && byteOk level
  | .managerDraw part _ _ => partOk part
  | .compactionComplete seg part _ => segOk seg && partOk part
  | .commitPoint cyc part _ => cycOk cyc && partOk part
  | .stepHang part _ => partOk part
  | .groupClose seq => seqOk seq
  | .subRequest cyc ring rec env => cycOk cyc && ringOk ring && recordOk rec && envelopeOk env
  | .cancel cyc ring rec => cycOk cyc && ringOk ring && recordOk rec
  | .subReservedKind cyc ring rec => cycOk cyc && ringOk ring && recordOk rec
  | .admission part _ => partOk part
  | .joinWaitExpiry part => partOk part
  | .resumption part => partOk part
  | .completionRecordWrite seq => seqOk seq
  | .dimWriteComplete cache => cacheOk cache
  | .dimFetchComplete dim => dimReadOk dim
  | .dimReadBackFail cyc cache => cycOk cyc && cacheOk cache
  | .probeListReceive seg seq => segOk seg && seqOk seq
  | .scanGroupStart seg => segOk seg
  | .scanGroupEnd seg stalls => segOk seg && stallsOk stalls
  | .scanHeapMerge seq => seqOk seq
  | .spanMerge seq => seqOk seq
  | .passageFetchComplete owner place _ => ownerOk owner && placeOk place
  | .handOver seq => seqOk seq
  | .rulesetLoad cyc path transfer image _ => cycOk cyc && pathOk path && byteOk transfer && sealedOk image
  | .rulesetInstall slot => screenSlotOk slot
  | .detokLoad cyc path transfer image _ => cycOk cyc && pathOk path && byteOk transfer && sealedOk image
  | .snareStreamStart seg => segOk seg
  | .snareMatchReport seq => seqOk seq
  | .snareLaneError seg lane => segOk seg && laneOk lane
  | .release cyc => cycOk cyc
  | .lateRelease cyc => cycOk cyc
  | .qdataRead at_ => reqAtOk at_
  | .holdReadTimeout seg => segOk seg
  | .qcontrolWrite at_ word => reqAtOk at_ && wordOk word
  | .queueFlush at_ => reqAtOk at_
  | .qstatusClear at_ word => reqAtOk at_ && wordOk word
  | .noticeDrain at_ => segAtOk at_
  | .produce cyc ring index => cycOk cyc && ringOk ring && indexOk index
  | .consume cyc ring index => cycOk cyc && ringOk ring && indexOk index
  | .ringFlush cyc ring => cycOk cyc && ringOk ring
  | .doorbellReservedOp cyc ring op index => cycOk cyc && ringOk ring && opOk op && indexOk index
  | .ringEnable ring word => ringOk ring && wordOk word
  | .ringDisable ring word => ringOk ring && wordOk word
  | .ringContextWrite ring wordNo word => ringOk ring && opOk wordNo && wordOk word
  | .indexWriteback ring => ringOk ring
  | .modIntervalEnd ring => ringOk ring
  | .eventVectorTransfer => true
  | .ringBacklogWrite ring => ringOk ring
  | .ringPause seq => seqOk seq
  | .ringWriteRetry seg tag => segOk seg && byteOk tag
  | .registerWrite cyc by_ addr word => cycOk cyc && portTagOk by_ && apertureOk addr && wordOk word
  | .forwardedAccess cyc by_ addr _ word => cycOk cyc && portTagOk by_ && apertureOk addr && wordOk word
  | .owPush put => wordAtOk put
  | .owPushLast put => wordAtOk put
  | .read cyc path head buffer room => cycOk cyc && pathOk path && headOk head && wordOk buffer && wordOk room
  | .writeExpedited cyc path head data => cycOk cyc && pathOk path && headOk head && indexOk data
  | .writeInitiate cyc path head total source => cycOk cyc && pathOk path && headOk head && sizeOk total && wordOk source
  | .segment cyc path head offset data => cycOk cyc && pathOk path && headOk head && indexOk offset && bytesOk data
  | .segmentRequest cyc path head => cycOk cyc && pathOk path && headOk head
  | .abort cyc path head code => cycOk cyc && pathOk path && headOk head && indexOk code
  | .oamReservedCmd by_ head => pathAtOk by_ && headOk head
  | .oamDiscard by_ head _ => pathAtOk by_ && headOk head
  | .transferTimeout ep transfer => epOk ep && byteOk transfer
  | .indirectTransferComplete cyc ep transfer _ data => cycOk cyc && epOk ep && byteOk transfer && bytesOk data
  | .commit cyc path transfer => cycOk cyc && pathOk path && byteOk transfer
  | .discard cyc path transfer => cycOk cyc && pathOk path && byteOk transfer
  | .programLoad cyc path transfer part _ => cycOk cyc && pathOk path && byteOk transfer && partOk part
  | .streamTable cyc path transfer part _ => cycOk cyc && pathOk path && byteOk transfer && partOk part
  | .kernelLoad cyc path transfer part _ => cycOk cyc && pathOk path && byteOk transfer && partOk part
  | .indexLoad cyc path transfer part image _ => cycOk cyc && pathOk path && byteOk transfer && partOk part && sealedOk image
  | .modelLoad cyc path transfer part image _ => cycOk cyc && pathOk path && byteOk transfer && partOk part && sealedOk image
  | .lifecycleAdvance cyc path transfer value => cycOk cyc && pathOk path && byteOk transfer && byteOk value
  | .envelopeKeyRotate cyc path transfer mask => cycOk cyc && pathOk path && byteOk transfer && halfOk mask
  | .dimKeyRotate cyc path transfer mask => cycOk cyc && pathOk path && byteOk transfer && halfOk mask
  | .dimEpochExhausted part => partOk part
  | .archiveKeys cyc path transfer _ => cycOk cyc && pathOk path && byteOk transfer
  | .archiveKeyInstall slot => byteOk slot
  | .splitMode cyc path transfer => cycOk cyc && pathOk path && byteOk transfer
  | .rejoinPrepare cyc path transfer => cycOk cyc && pathOk path && byteOk transfer
  | .rejoin cyc path transfer => cycOk cyc && pathOk path && byteOk transfer
  | .rejoinTrainTimeout => true
  | .hushEnter cyc path transfer => cycOk cyc && pathOk path && byteOk transfer
  | .hushEntry => true
  | .wake cyc path transfer => cycOk cyc && pathOk path && byteOk transfer
  | .wakeComplete => true
  | .resetWarm cyc path => cycOk cyc && pathOk path
  | .resetCold cyc path => cycOk cyc && pathOk path
  | .powerOnReset seg => segOk seg
  | .coldReset seg => segOk seg
  | .warmReset seg => segOk seg
  | .setEndpointId ep eid => epOk ep && byteOk eid
  | .getEndpointId ep => epOk ep
  | .getMctpVersionSupport ep msgType => epOk ep && byteOk msgType
  | .getMessageTypeSupport ep => epOk ep
  | .getVendorDefinedMessageSupport ep selector => epOk ep && byteOk selector
  | .entdaa seg addr => segOk seg && addrOk addr
  | .setdasa seg static addr => segOk seg && addrOk static && addrOk addr
  | .getVersion ep => epOk ep
  | .getCapabilities ep => epOk ep
  | .negotiateAlgorithms ep _ => epOk ep
  | .getDigests ep => epOk ep
  | .getCertificate ep slot => epOk ep && screenSlotOk slot
  | .challenge ep slot nonce => epOk ep && screenSlotOk slot && nonceOk nonce
  | .getMeasurements ep block _ nonce => epOk ep && byteOk block && nonceOk nonce
  | .keyExchange ep session _ => epOk ep && indexOk session
  | .finish ep session _ => epOk ep && indexOk session
  | .spdmHeartbeat ep session => epOk ep && indexOk session
  | .keyUpdate ep session => epOk ep && indexOk session
  | .endSession ep session => epOk ep && indexOk session
  | .provisioning seg data => segOk seg && provOk data
  | .correctableError seg channel => segOk seg && optChannelOk channel
  | .uncorrectableDataError cyc seg _ => cycOk cyc && segOk seg
  | .uncorrectableControlError cyc seg => cycOk cyc && segOk seg
  | .stackReadError cyc seg channel addr _ region => cycOk cyc && segOk seg && channelOk channel && stackAddrOk addr && regionOk region
  | .screenRegionRestored seg => segOk seg
  | .channelRetire seg channel => segOk seg && channelOk channel
  | .channelRetireComplete seg channel relocated => segOk seg && channelOk channel && unitsOk relocated
  | .channelFail cyc seg channel relocated regions => cycOk cyc && segOk seg && channelOk channel && unitsOk relocated && regionsOk regions
  | .residueMismatch cyc seg _ column part _ => cycOk cyc && segOk seg && columnOk column && partOk part
  | .columnRemap cyc seg _ => cycOk cyc && segOk seg
  | .linkDown seg _ => segOk seg
  | .linkRetrainingEnd cyc seg _ outcome => cycOk cyc && segOk seg && retrainOk outcome
  | .linkTagFailure cyc seg _ failure => cycOk cyc && segOk seg && failureOk failure
  | .detourInstall cyc => cycOk cyc
  | .linkRekey seg _ => segOk seg
  | .linkTrained seg _ _ auth => segOk seg && linkAuthOk auth
  | .sessionOpen hd hello => spanOk hd && helloOk hello
  | .sessionAccept hd hello => spanOk hd && helloOk hello
  | .sessionRefuse hd reason => spanOk hd && byteOk reason
  | .query gram deadline tag indexId nprobe scanK dim _ => queryGramOk gram && wordOk deadline && indexOk tag && halfOk indexId && halfOk nprobe && halfOk scanK && halfOk dim
  | .heapResult gram tag first _ _ => heapGramOk gram && indexOk tag && halfOk first
  | .candidateRef hd rec more => spanOk hd && refOk rec && refsOk more
  | .klfData gram frame _ destSeg window offset => klfGramOk gram && frameOk frame && segOk destSeg && halfOk window && indexOk offset
  | .spanAck hd => spanOk hd
  | .close hd => spanOk hd
  | .spanDatagramDrop frame => rxFrameOk frame
  | .spanRetransmit session seq => indexOk session && indexOk seq
  | .spanSessionRekey session _ => indexOk session
  | .spanSessionRenew session => indexOk session
  | .spanSessionRetry peer => peerOk peer
  | .spanLinkDown stream => streamOk stream
  | .spanWindowRemove window => halfOk window
  | .fence seg => segOk seg
  | .managerSelfFence => true
  | .confirm seg => segOk seg
  | .confirmAnswer seg _ => segOk seg
  | .takeover cyc stale => cycOk cyc && staleOk stale
  | .recoveryEnd => true
  | .standbyNaming => true
  | .marginMeasurement seg _ => segOk seg
  | .clockStep seg => segOk seg
  | .vreqAck seg => segOk seg
  | .feedReading cyc reading => cycOk cyc && halfOk reading
  | .railDroopEdge cyc seg droop => cycOk cyc && segOk seg && halfOk droop
  | .supplyClear source => sourceOk source
  | .feedStale cyc seg => cycOk cyc && segOk seg
  | .gongResetRelease => true
  | .reducedServiceOpen => true
  | .segmentJoin seg => segOk seg
  | .joinDeadline seg => segOk seg
  | .fullService => true
  | .dmaWriteResponse at_ tag _ => segAtOk at_ && byteOk tag
  | .dmaReadComplete cyc seg tag _ data => cycOk cyc && segOk seg && byteOk tag && bytesOk data
  | .initiatorCreditReturn seg _ => segOk seg
  | .spanLinkUp stream => streamOk stream
  | .resetRelease _ seg => segOk seg
  | .selfTestComplete cyc seg _ _ => cycOk cyc && segOk seg
  | .stackTrainingComplete cyc seg _ => cycOk cyc && segOk seg
  | .partialBlockCopyComplete seq => seqOk seq
  | .snareStreamEnd seg lane => segOk seg && laneOk lane
  | .testPortHold seg => segOk seg
  | .testPortRelease seg => segOk seg
  | .testPortWrite seg put => segOk seg && testWriteOk put
  | .phyUpdateRequest seg _ => segOk seg

end Sys2Proof
end

