-- ==== Sys2Proof/Safety.lean ====
section
/-! DEFINITION. What counts as a safe step and a sound state, in the terms that the statements use. -/

namespace Sys2Proof.Machine

/-- An outcome is a next state. -/
def answers (r : Result) : Prop := ∃ t, r = .next t

/-- A step that neither faults nor refuses. -/
def State.stepsSafely (s : State) : Prop := answers (step s)

/-- The memories of a segment are in canonical form. -/
def Segment.memOk (g : Segment) : Bool := Memory.wf g.staging && Memory.wf g.stack.mem

/-- Every memory of the block is in canonical form, in split mode as each of the two blocks holds it. -/
def State.memOk (s : State) : Bool := s.segs.all Segment.memOk && s.other.all (fun b => b.segs.all Segment.memOk)

/-- Two marks of a queue in their ranges (R292). -/
def marksOk (cap high low : Nat) : Bool := 1 ≤ high && high ≤ cap && low < high

/-- A word queue within its capacity, before its last push too, and its marks in their ranges, those that come into force next included
(R283, R292). -/
def WordQ.ok (q : WordQ) : Bool :=
  q.words.length ≤ q.cap && marksOk q.cap q.high q.low && q.pushed.all (fun m => m.words.length ≤ q.cap)
    && q.newMarks.all (fun m => marksOk q.cap m.2.1 m.2.2)

/-- A port within its limits: at most 256 requests of its own outstanding (R403), and at most 64 of the host's (R401). -/
def Port.ok (p : Port) : Bool := p.issued.length ≤ 256 && p.busy.length ≤ 64

/-- The word queues and the port of a segment are within their limits. -/
def Segment.queuesOk (g : Segment) : Bool := g.nq.ok && g.i3cIn.ok && g.i3cOut.ok && g.port.ok

/-- The word queues and the ports of a block, in split mode of each of the two, are within their limits. -/
def State.queuesOk (s : State) : Bool :=
  s.segs.all Segment.queuesOk && s.objs.eps.all (fun e => e.inq.ok && e.outq.ok)
    && s.other.all (fun b => b.segs.all Segment.queuesOk && b.objs.eps.all (fun e => e.inq.ok && e.outq.ok))

/-- No bind of a step in flight of a generation partition names a sequence that has ended (R220), and no live sequence index is listed
twice. -/
def bindsStand (parts : List Partition) (seqs : List (Nat × Sequence)) : Prop :=
  (seqs.map (·.1)).Nodup ∧ ∀ p c st, p < 15 → ((parts.getD p {}).loop c).step = some st → ∀ b ∈ st.binds, ∀ q, aGet b.seq seqs = some q →
    q.ended = none

/-- As `bindsStand`, of a block and in split mode of each of the two. -/
def State.bindsStand (s : State) : Prop :=
  Machine.bindsStand s.parts s.seqs ∧ ∀ b, s.other = some b → Machine.bindsStand b.parts b.seqs

/-- No queue and no ring owes a latching of a cycle that is over (R289, R290). -/
def State.owesNothing (s : State) : Bool :=
  s.segs.all (fun g => g.i3cIn.owe.isEmpty && g.i3cOut.owe.isEmpty)
    && s.objs.eps.all (fun e => e.inq.owe.isEmpty && e.outq.owe.isEmpty) && s.rings.all (fun r => r.2.cyc.isNone)

/-- Every segment but one stands as it was. -/
def othersKept (i : Nat) (s t : State) : Prop := ∀ j, j ≠ i → t.seg j = s.seg j

/-- A segment stands but for what its die-to-die modules count of the frames they have sent (R148). -/
def framesSent (g h : Segment) : Prop :=
  h = { g with hub := { g.hub with north := h.hub.north, east := h.hub.east, south := h.hub.south, west := h.hub.west } } ∧
    ∀ d, h.hub.module d = { g.hub.module d with txFrames := (h.hub.module d).txFrames, nonce := (h.hub.module d).nonce }

/-- Every segment but the listed ones stands, its modules' frame counts apart. -/
def othersSent (l : List Nat) (s t : State) : Prop := ∀ j, j ∉ l → framesSent (s.seg j) (t.seg j)

/-- A segment stands but for its target channel: the last request and response, and the tags still outstanding (R401, R402). -/
def answersOnly (g h : Segment) : Prop :=
  h = { g with port := { g.port with reqTag := h.port.reqTag, rspTag := h.port.rspTag, rspStatus := h.port.rspStatus, rspData := h.port.rspData, busy := h.port.busy } }

/-- Every segment but one stands, answers on target channels apart: a stalled read is answered on the port it came by (R288). -/
def othersAnswered (i : Nat) (s t : State) : Prop := ∀ j, j ≠ i → answersOnly (s.seg j) (t.seg j)

/-- Every segment but one stands, but for stalled reads that have ended and their answers on target channels (R288, R291). -/
def othersSettled (i : Nat) (s t : State) : Prop :=
  ∀ j, j ≠ i → answersOnly { s.seg j with nq := { (s.seg j).nq with stalled := (t.seg j).nq.stalled, answers := (t.seg j).nq.answers } } (t.seg j)

/-- A queue takes no push in a control cycle (R289). -/
def WordQ.quietAt (q : WordQ) (a : Stamp) : Prop := ∀ m, q.pushed = some m → m.stamp ≠ a

/-- What the always-on domain of a segment holds stands: its Beat Unit's reference, its I3C target, what its fuses say, and the GONG
record (R388). -/
def alwaysOnKept (g h : Segment) : Prop :=
  h.ownRef = g.ownRef ∧ h.refPresent = g.refPresent ∧ h.refLost = g.refLost ∧ h.goodPps = g.goodPps ∧ h.lastHb = g.lastHb ∧ h.trust.i3cAddr = g.trust.i3cAddr ∧
    h.trust.i3cStatic = g.trust.i3cStatic ∧ h.trust.eid = g.trust.eid ∧ h.trust.lifecycle = g.trust.lifecycle ∧
    h.trust.pufEnrolled = g.trust.pufEnrolled ∧ h.trust.identityCert = g.trust.identityCert ∧ h.supply.gong = g.supply.gong

/-! What has come on a path of the object dictionary. -/

/-- An expedited write stands next on a path that reaches a live manager, and its TRANSFER names no open transfer. -/
def State.writeComes (s : State) (p : Path) (h : OamHead) (data : Nat) : Prop :=
  s.arrives p [oamWord 2 h, data % 2 ^ 32] = true ∧ s.reaches_ p.ep = true ∧ s.takesAlone p h = false ∧
    s.transfer p.ep h.transfer = none

/-- The state in which an expedited write has been taken from its path, at its stamp. -/
def State.writeTaken (s : State) (cyc : Nat) (p : Path) (h : OamHead) (data : Nat) : State :=
  let u := s.takeIn p.ep [oamWord 2 h, data % 2 ^ 32]
  (u.forget p.ep h.transfer).given (u.stampFor cyc)

/-- A transfer of a path of the block, whose bytes are all there, waits for its load, and the manager loads. -/
def State.loadComes (s : State) (p : Path) (id index sub : Nat) (t : Transfer) : Prop :=
  s.farPath p.ep = false ∧ s.transfer p.ep id = some t ∧ s.mgrUp = true ∧ s.power.hush = 0 ∧ t.whole = true ∧ t.index = index ∧ t.sub = sub

/-- The state in which a load acts: at its stamp, its transfer closed. -/
def State.loadTaken (s : State) (cyc : Nat) (p : Path) (id : Nat) : State := (s.given (s.stampFor cyc)).closeTransfer p.ep id

/-! What has come on a span session. -/

/-- A datagram stands on an open session of its peer, with a SEQ not delivered before. -/
def State.spanComes (s : State) (hd : SpanHeader) : Prop :=
  s.spanUp = true ∧ ∃ x, s.spanSession hd.session = some x ∧ x.phase = .opened ∧ x.peer = hd.block ∧ x.had hd.seq = false

/-- The state in which a datagram's ACK has counted and its SEQ is delivered. -/
def State.spanTaken (s : State) (hd : SpanHeader) : State :=
  (s.takeAck hd.session hd.ack).onSpan hd.session (delivered hd.seq)

/-- The ACK that ends a transfer. -/
def doneWords (t : Transfer) : List Nat := ackWords { t.head with toggle := t.toggle } 0

end Sys2Proof.Machine
end

