-- ==== Sys2Proof/Certificates/Slice0/Obligations.lean ====
section
/-! DEFINITION. The statements for the provers: what the spec's rules say the block does, command by command, and what every step
keeps. A clause for a command gives the state it answers, or what that state holds and what it leaves alone. A part of the state
that a clause's last equation does not name is as it was. -/

open Sys2Proof Sys2Proof.Machine

/-! The machine as a whole. -/

/-- A step with a command waiting answers what the command at the front of the queue does to the state with the rest of the queue. With
no command waiting it answers the state as it is (the model's choice, log entry 13). -/
def Obligations.StepRunsFrontCommand : Prop :=
  (∀ (s : State) (c : Instr) (rest : List Instr), s.pending = c :: rest → step s = exec c { s with pending := rest }) ∧
  (∀ s : State, s.pending = [] → step s = .next s)

/-! Beats, reference, heartbeats and the mirror. -/

/-- A beat edge of a whole block with no segment at its trip temperature answers a state whose beat counter stands one higher (R39) and in
which, outside hush, the values committed are in force, while in hush those replaced stay in force until the wake edge (R322, R395). The offset from the reference stands while the beat is locked, and
moves by at most 2 ppm of 5 µs in holdover (R41). Tenants, committed entries, roles and the queue stand; of the supplies, BRINGUP_STAGE
alone passes from 0 to 1 outside reset (the model's choice, log entry 37). Where no queue and no ring owes a latching of a cycle that is
over, each array's screen credit rises by a cycle for every 16 of its clock, the parts of 16 carried over, up to 4,096 (R63; that it
accrues at the beat edges is the model's choice, log entry 30); each segment's temperature is its new reading, the old one where none is
given; nothing else of a segment changes but its port and its trust fields, of which nothing is said here; rings and the dictionary's
machinery stand. In split mode a beat edge is that of the block whose turn it was not, and the other block is set aside as it stands (the
model's choice, log entry 35). A token refill that is due answers a state in which each valid entry whose level is at most 256 × BURST has
the level min(level + 256 × RATE, 256 × BURST), each valid entry above 256 × BURST keeps its level, and every other entry stands (R222);
the edge goes on to its next phase, and nothing else changes but sequences, of which nothing is said here. -/
def Obligations.BeatEdges : Prop :=
  (∀ (s : State) (slewPs : Int) (temps : List Int), s.other = none → s.roles.ending = false →
    (∀ i < s.segs.length, temps.getD i (s.seg i).health.tempC < (s.glob.thermalTrip : Int)) →
    ∃ t, exec (.beatEdge slewPs temps) s = .next t ∧
      t.time.beat = s.time.beat + 1 ∧ t.prior = (if s.power.hush = 0 then none else s.prior) ∧
      (s.time.refState = .locked → t.time.offsetPs = s.time.offsetPs) ∧
      (s.time.refState = .holdover → (t.time.offsetPs - s.time.offsetPs).natAbs ≤ 10) ∧
      t.tenants = s.tenants ∧ t.glob = s.glob ∧ t.roles = s.roles ∧ t.pending = s.pending ∧
      t.power = { s.power with stage := if s.power.stage = 0 ∧ s.power.inReset = false then 1 else s.power.stage } ∧
      (s.owesNothing = true → t.rings = s.rings ∧ t.objs = s.objs ∧ ∀ i, s.hasSeg i = true → t.seg i = { s.seg i with
        ma0 := { (s.seg i).ma0 with
          credit := min 4096 ((s.seg i).ma0.credit + (((s.seg i).ma0.creditPart + (s.seg i).health.clockMhz * 5) / 16 : Nat)),
          creditPart := ((s.seg i).ma0.creditPart + (s.seg i).health.clockMhz * 5) % 16 },
        ma1 := { (s.seg i).ma1 with
          credit := min 4096 ((s.seg i).ma1.credit + (((s.seg i).ma1.creditPart + (s.seg i).health.clockMhz * 5) / 16 : Nat)),
          creditPart := ((s.seg i).ma1.creditPart + (s.seg i).health.clockMhz * 5) % 16 },
        health := { (s.seg i).health with tempC := temps.getD i (s.seg i).health.tempC },
        port := (t.seg i).port, trust := (t.seg i).trust })) ∧
  (∀ (s : State) (slewPs : Int) (temps : List Int) (b : Block), s.other = some b → b.roles.ending = false →
    (∀ i < b.segs.length, temps.getD i (b.segs.getD i {}).health.tempC < (b.glob.thermalTrip : Int)) →
    ∃ t, exec (.beatEdge slewPs temps) s = .next t ∧ t.time.beat = b.time.beat + 1 ∧ t.other = some s.block ∧ t.roles = b.roles ∧
      t.glob = b.glob ∧ t.tenants = b.tenants ∧ t.pending = s.pending) ∧
  (∀ s : State, s.prior = none → s.mgrAwake = true → s.time.edgePhase = 0 → s.time.beat % 16384 = 0 →
    ∃ t, exec .tokenRefill s = .next t ∧
      (∀ k v, aGet k s.tenants = some v → v.valid = true → v.level ≤ 256 * (v.burst : Int) →
        aGet k t.tenants = some { v with level := min (v.level + 256 * (v.rate : Int)) (256 * (v.burst : Int)) }) ∧
      (∀ k v, aGet k s.tenants = some v → v.valid = true → 256 * (v.burst : Int) < v.level → aGet k t.tenants = some v) ∧
      (∀ k v, aGet k s.tenants = some v → v.valid = false → aGet k t.tenants = some v) ∧
      t.time = { s.time with edgePhase := 1 } ∧
      t = { s with tenants := t.tenants, time := t.time, seqs := t.seqs })

/-- Pulses per second, each taken PPS_DELAY_NS earlier than it reaches the pin, with the time-of-day word that stood with TOD_VALID high for
the 1 µs before it (R414): the first one of the manager that carries a time of day loads the counter with TAI seconds × 200,000 and locks the
beat (R39); one of the manager after acquisition counts toward the reference's return if it is good, or sets that count to 0, and leaves
the counter (R42); at another segment a good pulse makes the reference present where it was not lost or where it is the second in a row,
a bad one changes nothing but the count of pulses (R41, R42). REF_LOST: the segment's reference is lost; the manager's, outside holdover,
takes the block into holdover and raises REF_HOLDOVER with scope BLOCK and state 0 (R41). REF_RESTORED after two good pulses: the beat
converges from the offset measured (R42). REF_CONVERGED at offset zero: the beat is locked and the manager raises REF_HOLDOVER with state
1 (R42). BEAT_SOURCE_CHANGE: a segment whose reference is present within the skew limit takes it, one whose reference is lost or beyond
the limit leaves it, and each raises REF_HOLDOVER with scope SEGMENT (R40). -/
def Obligations.TimeReference : Prop :=
  ((∀ (s : State) (words : List TodWord) (tod : Nat) (inTime : Bool) (off : Int), s.hasSeg s.mgr = true → s.time.acquired = false →
    todTaken words = some tod →
    ∃ t, exec (.ppsEdge s.mgr words inTime off) s = .next t ∧ t.time.beat = tod * 200000 ∧ t.time.acquired = true ∧
      t.time.refState = .locked ∧ t.time.offsetPs = 0 ∧ (t.seg s.mgr).refPresent = true ∧
      t = { s with time := t.time, segs := t.segs, prior := none }) ∧
  (∀ (s : State) (words : List TodWord) (inTime : Bool) (off : Int), s.time.acquired = true →
    ∃ t, exec (.ppsEdge s.mgr words inTime off) s = .next t ∧
      t.time = { s.time with
        goodPps := if ppsGood s.time.beat (todTaken words) inTime (off - (s.glob.ppsDelay : Int)) then s.time.goodPps + 1 else 0 } ∧
      othersKept s.mgr s t ∧ t = { s with time := t.time, segs := t.segs }) ∧
  (∀ (s : State) (seg : Nat) (words : List TodWord) (good inTime : Bool) (off : Int), s.hasSeg seg = true → seg ≠ s.mgr →
    good = ppsGood s.time.beat (todTaken words) inTime (off - (s.glob.ppsDelay : Int)) →
    ∃ t, exec (.ppsEdge seg words inTime off) s = .next t ∧
      (good = false →
        t.seg seg = { s.seg seg with goodPps := 0 }) ∧
      (good = true → ((s.seg seg).refLost = false ∨ 1 ≤ (s.seg seg).goodPps) →
        t.seg seg = { s.seg seg with goodPps := (s.seg seg).goodPps + 1, refPresent := true, refLost := false }) ∧
      (good = true → (s.seg seg).refLost = true → (s.seg seg).goodPps = 0 →
        t.seg seg = { s.seg seg with goodPps := 1 }) ∧
      othersKept seg s t ∧ t = { s with segs := t.segs })) ∧
  ((∀ (s : State) (cause : RefLoss), s.time.refState ≠ .holdover → s.mgrAwake = true →
    exec (.refLost s.mgr cause) s = .next
      (({ s.onSeg s.mgr (fun g => { g with refPresent := false, refLost := true, goodPps := 0 }) with
          time := { s.time with refState := .holdover, goodPps := 0 } }).raise s.mgr 0x09 0x0 0 0 s.edge
        (holdoverDetail 0 (s.time.offsetPs / 1000)))) ∧
  (∀ (s : State) (seg : Nat) (cause : RefLoss), (seg ≠ s.mgr ∨ s.time.refState = .holdover) →
    exec (.refLost seg cause) s = .next (s.onSeg seg (fun g => { g with refPresent := false, refLost := true, goodPps := 0 }))) ∧
  (∀ (s : State) (off : Int), s.time.refState = .holdover → 2 ≤ s.time.goodPps →
    exec (.refRestored off) s = .next
      ({ s with time := { s.time with refState := .converging, offsetPs := off * 1000 } }.onSeg s.mgr
        (fun g => { g with refPresent := true, refLost := false }))) ∧
  (∀ s : State, s.time.refState = .converging → s.time.offsetPs = 0 →
    exec .refConverged s = .next
      ({ s with time := { s.time with refState := .locked } }.raise s.mgr 0x09 0x0 0 0 s.edge (holdoverDetail 1 0))) ∧
  (∀ (s : State) (seg : Nat) (skew : Int), s.segUp seg = true → seg ≠ s.mgr → s.power.hush ≠ 1 → (s.seg seg).refPresent = true →
    (s.seg seg).ownRef = false → skew.natAbs ≤ s.glob.skewNs →
    exec (.beatSourceChange seg skew) s = .next
      ((s.onSeg seg (fun g => { g with ownRef := true })).raise seg 0x09 0x1 seg 0 s.edge (holdoverDetail 0 skew))) ∧
  (∀ (s : State) (seg : Nat) (skew : Int), s.segUp seg = true → seg ≠ s.mgr → s.power.hush ≠ 1 → (s.seg seg).ownRef = true →
    ((s.seg seg).refPresent = false ∨ s.glob.skewNs < skew.natAbs) →
    exec (.beatSourceChange seg skew) s = .next
      ((s.onSeg seg (fun g => { g with ownRef := false })).raise seg 0x09 0x1 seg 0 s.edge (holdoverDetail 1 skew))))

/-- HEARTBEAT, every 4 bt: the manager's own age starts anew and a heartbeat with the beat's stamp is on its way to every other segment
(R29). HEARTBEAT_RECEIVE of a heartbeat on its way: a joined segment notes its stamp and acknowledges it (R363); a segment fenced by the
silence of another manager is joined again, fenced for a rejoin it stays fenced (R364, R367). HEARTBEAT_ACK_TIMEOUT: a joined segment, serving
or fenced, that has not acknowledged for 40 bt is lost with reason 0x01, and is counted (R359). MIRROR_DELTA_APPLY: the standby applies the delta
that follows the last one applied; on a gap it asks for a full copy and its mirror is not current (R30). MIRROR_COPY_COMPLETE: the mirror
is the tables as they stand, and a candidate is the standby (R30, R369). Heartbeats and answers pass the mesh as frames that its
modules count; of segments that a step names otherwise nothing else changes. -/
def Obligations.HeartbeatsAndMirror : Prop :=
  ((∀ s : State, s.hasSeg s.mgr = true → s.mgrUp = true → s.power.hush = 0 → s.time.beat % 4 = 0 →
    ∃ t, exec .heartbeat s = .next t ∧
      framesSent { s.seg s.mgr with lastHb := s.time.beat, lastAck := s.time.beat } (t.seg s.mgr) ∧
      (∀ i, s.hasSeg i = true → i ≠ s.mgr → s.time.beat ∈ (t.seg i).hbWay ∧
        framesSent { s.seg i with hbWay := (t.seg i).hbWay } (t.seg i)) ∧
      t = { s with segs := t.segs }) ∧
  (∀ (s : State) (seg b : Nat), s.hasSeg seg = true → s.mgrUp = true → s.power.hush = 0 → seg ≠ s.mgr → seg ∉ s.roles.farHalf →
    (s.seg seg).state = .serving → b ∈ (s.seg seg).hbWay →
    ∃ t, exec (.heartbeatReceive seg b) s = .next t ∧
      framesSent { s.seg seg with lastHb := max (s.seg seg).lastHb b, hbFrom := s.mgr, lastAck := s.time.beat,
                                  hbWay := (s.seg seg).hbWay.filter (fun x => b < x) } (t.seg seg) ∧
      othersSent [seg] s t ∧ t = { s with segs := t.segs }) ∧
  (∀ (s : State) (seg b : Nat), s.mgrUp = true → s.power.hush = 0 → seg ≠ s.mgr → seg ∉ s.roles.farHalf → s.hasSeg seg = true →
    (s.seg seg).state = .fenced → b ∈ (s.seg seg).hbWay → (s.seg seg).hbFrom ≠ s.mgr →
    ∃ t, exec (.heartbeatReceive seg b) s = .next t ∧
      ((s.seg seg).fenceReason ≠ 0x05 → (t.seg seg).state = .serving ∧ (t.seg seg).hbFrom = s.mgr ∧ (t.seg seg).lastAck = s.time.beat ∧
        (s.roles.recovering ≠ none → (t.seg seg).nq = (s.seg seg).nq)) ∧
      ((s.seg seg).fenceReason = 0x05 → (t.seg seg).state = .fenced ∧ (t.seg seg).fenceReason = 0x05 ∧ (t.seg seg).nq = (s.seg seg).nq)) ∧
  (∀ (s : State) (cyc seg : Nat), s.mgrUp = true → s.power.hush = 0 → seg ≠ s.mgr → s.isJoined seg = true →
    (s.seg seg).lastAck + 40 ≤ s.time.beat →
    ∃ t, exec (.heartbeatAckTimeout cyc seg) s = .next t ∧ (t.seg seg).state = .lost ∧ (t.seg seg).lostReason = 0x01 ∧
      t.cnt.segmentsLost = s.cnt.segmentsLost + 1 ∧ t.glob = s.glob ∧ t.pending = s.pending)) ∧
  ((∀ (s : State) (d : Delta), s.roles.standby.isSome = true → s.mirror.copying = false →
    s.mirror.unacked.find? (fun x => x.seqNo == d.seqNo) = some d → d.seqNo = s.mirror.applied.seqNo + 1 →
    ∃ t, exec (.mirrorDeltaApply d.seqNo) s = .next t ∧ t.mirror = { s.mirror with
      applied := d, unacked := s.mirror.unacked.filter (fun x => x.seqNo != d.seqNo) } ∧
      othersSent [] s t ∧ t = { s with mirror := t.mirror, segs := t.segs }) ∧
  (∀ (s : State) (d : Delta), s.roles.standby.isSome = true → s.mirror.copying = false →
    s.mirror.unacked.find? (fun x => x.seqNo == d.seqNo) = some d → s.mirror.applied.seqNo + 1 < d.seqNo →
    ∃ t, exec (.mirrorDeltaApply d.seqNo) s = .next t ∧ t.mirror = { s.mirror with copying := true, current := false } ∧
      othersSent [] s t ∧ t = { s with mirror := t.mirror, segs := t.segs }) ∧
  (∀ s : State, s.mgrUp = true → s.mirror.copying = true →
    ∃ t, exec .mirrorCopyComplete s = .next t ∧ t.mirror.current = true ∧ t.mirror.copying = false ∧ t.mirror.unacked = [] ∧
      t.mirror.applied.handles = s.handles ∧ t.mirror.applied.tenants = s.tenants ∧ t.mirror.applied.rings = s.rings ∧
      (∀ i, s.roles.candidate = some i → t.roles.standby = some i) ∧ (s.roles.candidate = none → t.roles.standby = s.roles.standby) ∧
      t = { s with mirror := t.mirror, roles := { s.roles with standby := t.roles.standby, candidate := none } }))

/-! Serving loops and steps. -/

/-- LAUNCH of a resident program of the loop's class, in full service, on a loop that does not run, of a partition that is not stopped and
whose segments have joined: the loop runs, and first freezes at the first beat edge after the doorbell's stamp (R45, R301). LAUNCH while
the loop runs, into a stopped partition, or of a program that is not resident or of the other class writes a step record with OUTCOME
REFUSED and status CLAMPED, and so does a reserved OP (R18, R301). STOP marks a running loop to end at its next freeze; on a loop that
does not run it only takes its stamp (R301). STAGING_ALLOCATE of an LC step, with the beat's
committed values in force, within its STAGING_64K and its partition's floor and at free units, grants the units with nothing taken of the shared region (R65, R66), and the valid bits of those units are cleared (R102). -/
def Obligations.StepDoorbells : Prop :=
  ((∀ (s : State) (cyc p : Nat) (c : Cls) (prog rep : Nat) (g : Program), s.mgrUp = true → s.unretired = true → p < 15 →
    (s.part p).programs.find? (fun x => x.id == prog) = some g → g.image.cls = c → ((s.part p).loop c).running = false →
    (s.part p).stopped = none → (∀ i ∈ maskBits 20 (s.part p).segMask, s.serving i = true) → 4 ≤ s.power.stage →
    s.power.hush = 0 →
    exec (.launch cyc p c prog rep) s = .next ((s.given (s.stampFor cyc)).onLoop p c (fun l =>
      { l with running := true, programId := prog, remaining := if rep % 65536 = 0 then none else some (rep % 65536),
               stopping := false, freezeAt := max l.freezeAt ((s.stampFor cyc).beat + 1) }))) ∧
  (∀ (s : State) (cyc p : Nat) (c : Cls) (prog rep : Nat), s.mgrUp = true → s.unretired = true → p < 16 →
    (((s.part p).loop c).running = true ∨ (s.part p).stopped ≠ none ∨
      ∀ g, (s.part p).programs.find? (fun x => x.id == prog) = some g → g.image.cls ≠ c) →
    exec (.launch cyc p c prog rep) s = .next ((s.given (s.stampFor cyc)).sendStepRecord p
      (stepRecord p c .refused (prog % 65536) 0 0 (s.stampFor cyc) 0 0))) ∧
  (∀ (s : State) (cyc p op : Nat) (c : Cls) (prog : Nat), s.mgrUp = true → s.unretired = true → p < 16 → op % 16 ≠ 1 → op % 16 ≠ 2 →
    exec (.stepDoorbellReservedOp cyc p op c prog) s = .next ((s.given (s.stampFor cyc)).sendStepRecord p
      (stepRecord p c .refused (prog % 65536) 0 0 (s.stampFor cyc) 0 0))) ∧
  (∀ (s : State) (cyc p : Nat) (c : Cls), s.mgrUp = true → s.unretired = true → p < 16 → ((s.part p).loop c).running = true →
    exec (.stop cyc p c) s = .next ((s.given (s.stampFor cyc)).onLoop p c (fun l => { l with stopping := true }))) ∧
  (∀ (s : State) (cyc p : Nat) (c : Cls), s.mgrUp = true → s.unretired = true → p < 16 → ((s.part p).loop c).running = false →
    exec (.stop cyc p c) s = .next (s.given (s.stampFor cyc)))) ∧
  (∀ (s : State) (i p : Nat) (units base : Nat) (x : SegStep), s.prior = none → (s.seg i).stepHere p .lc = some x → (s.seg i).state = .serving →
    x.launched = true → x.abandoning = false → x.committed = false → 0 < units → s.withinStaging i p .lc units = true →
    units + (s.seg i).floorUsed p ≤ s.floorUnits p → (s.seg i).sharedUsed ≤ s.sharedUnits i →
    (s.seg i).unitsFree units base = true →
    exec (.stagingAllocate i p .lc units base) s = .next (s.onSeg i (fun g => { g with
      allocs := g.allocs ++ [{ part := p, cls := .lc, base := base, units := units, shared := 0 }],
      validBits := g.validBits.filter (fun u => u < base || base + units ≤ u) })))

/-- FREEZE of a running loop whose edge has come, with the committed values of the beat in force: the step of launch beat L, the next beat,
is in flight under the next launch number with the loop's program, not launched, not abandoned and with no report; a repeat is counted
(R46, R50); tenants, rings, indexes, committed entries, the dictionary, roles, supplies, vectors, screening tables, mirror and span stand,
and of segments, pools, sequences, entries, keys and counters nothing is said. FREEZE of a loop that a
STOP has reached ends the loop (R301). STEP_LAUNCH at edge L: the step is launched at the manager and on every segment that holds a part
of it, and nothing else changes (R46). -/
def Obligations.FreezeAndLaunch : Prop :=
  (∀ (s : State) (p : Nat) (c : Cls) (g : Program), s.prior = none → s.freezeDue p c = true → p < s.parts.length →
    (s.part p).programs.find? (fun x => x.id == ((s.part p).loop c).programId) = some g → ((s.part p).loop c).stopping = false →
    ∃ t st, exec (.freeze p c) s = .next t ∧ t.stepOf p c = some st ∧ st.prog = g ∧ st.launch = s.time.beat + 1 ∧
      st.launchNo = s.time.launchNo ∧ st.launched = false ∧ st.abandoned = none ∧ st.reports = [] ∧
      t.time.launchNo = (s.time.launchNo + 1) % 2 ^ 32 ∧
      ((t.part p).loop c).remaining = ((s.part p).loop c).remaining.map (· - 1) ∧
      t.time.beat = s.time.beat ∧ t.tenants = s.tenants ∧ t.rings = s.rings ∧ t.indexes = s.indexes ∧ t.glob = s.glob ∧
      t.objs = s.objs ∧ t.roles = s.roles ∧ t.power = s.power ∧ t.vectors = s.vectors ∧ t.cfg = s.cfg ∧ t.screen = s.screen ∧
      t.mirror = s.mirror ∧ t.span = s.span ∧ t.pending = s.pending) ∧
  (∀ (s : State) (p : Nat) (c : Cls) (g : Program), s.prior = none → s.freezeDue p c = true →
    (s.part p).programs.find? (fun x => x.id == ((s.part p).loop c).programId) = some g → ((s.part p).loop c).stopping = true →
    exec (.freeze p c) s = .next ({ s with time := { s.time with edgeRank := freezeRank p c } }.onLoop p c (fun l =>
      { l with running := false, stopping := false, remaining := none }))) ∧
  (∀ (s : State) (p : Nat) (c : Cls) (st : StepS), s.stepOf p c = some st → st.launched = false → st.launch ≤ s.time.beat →
    ∃ t, exec (.stepLaunch p c) s = .next t ∧ t.stepOf p c = some { st with launched := true } ∧
      (∀ i, t.seg i = { s.seg i with steps := (s.seg i).steps.map (fun x =>
        if x.part = p ∧ x.cls = c then { x with launched := true } else x) }) ∧
      t = { s with parts := t.parts, segs := t.segs })

/-- COMMIT_DESCRIPTOR_REACHED on a segment where every earlier descriptor has completed (R59), of a step whose scores are whole where its
reports are (R270): the segment's part is over and its report is with the manager, binds and other segments' parts as they were.
HUB_CLEAR_REPORT of a hub without frames of the loop's streams: the loop no longer waits for it (R144). STEP_HANG at launch +
WCET_BT × HANG_FACTOR, of partitions 0 to 14: the step is gone, its bound sequences that have not ended end with STEP_LOST at the stamp
of that edge with their committed lengths and nothing held back, an LC loop may freeze again from the next edge and a BE loop halts (R71).
ABANDON_REPORT of a BE step that a segment has abandoned: the abandonment carries the report's stamp, no sequence's committed length
changes, the step's binds are gone and its loop halts (R66). ABANDON_COMPLETE: the step is gone and a step record with OUTCOME ABANDONED
carries the stamp of the abandonment (R66). -/
def Obligations.StepEnds : Prop :=
  ((∀ (s : State) (i p : Nat) (c : Cls) (reports : List StageReport) (st : StepS) (x : SegStep), s.stepOf p c = some st →
    st.abandoned = none → (s.seg i).stepHere p c = some x → (s.seg i).state = .serving → x.launched = true →
    x.abandoning = false → x.committed = false → allDone st.prog.image x = true → s.reportsWhole i p st reports = true →
    ∃ t st', exec (.commitDescriptorReached i p c reports) s = .next t ∧ t.stepOf p c = some st' ∧
      i ∈ st'.reports ∧ (∀ j, j ∈ st.reports → j ∈ st'.reports) ∧ st'.stage = st.stage ++ reports ∧
      st'.binds = st.binds ∧ (t.seg i).stepHere p c = some { x with committed := true } ∧
      framesSent { s.seg i with steps := (t.seg i).steps } (t.seg i) ∧ othersSent [i] s t ∧
      t = { s with parts := t.parts, segs := t.segs }) ∧
  (∀ (s : State) (i p : Nat) (c : Cls), p < 16 → i ∈ ((s.part p).loop c).clearing → s.hubClear i p c = true →
    ∃ t, exec (.hubClearReport i p c) s = .next t ∧ othersSent [] s t ∧
      t = { s.onLoop p c (fun l => { l with clearing := l.clearing.filter (· != i) }) with segs := t.segs })) ∧
  (∀ (s : State) (p : Nat) (c : Cls) (st : StepS), s.prior = none → s.mgrUp = true → p < 15 → s.stepOf p c = some st → st.abandoned = none →
    st.launch + st.prog.wcet * s.glob.hangFactor ≤ s.time.beat →
    ∃ t, exec (.stepHang p c) s = .next t ∧ t.stepOf p c = none ∧
      ((t.part p).loop c).freezeAt = st.launch + st.prog.wcet * s.glob.hangFactor + 1 ∧
      (c = .be → ((t.part p).loop c).running = false) ∧
      (∀ b ∈ st.binds, ∀ q, s.live b.seq = some q → q.ended = none →
        ∃ q', t.live b.seq = some q' ∧ q'.ended = some (.stepLost, ⟨st.launch + st.prog.wcet * s.glob.hangFactor, 0⟩) ∧
          q'.committed = q.committed ∧ q'.hold = []) ∧
      t.time.beat = s.time.beat ∧ t.glob = s.glob ∧ t.objs = s.objs ∧ t.roles = s.roles ∧ t.power = s.power ∧ t.pending = s.pending) ∧
  ((∀ (s : State) (cyc p : Nat) (st : StepS), s.mgrUp = true → s.stepOf p .be = some st → st.abandoned = none →
    (∃ i x, i < s.segs.length ∧ (s.seg i).stepHere p .be = some x ∧ x.abandoning = true) →
    ∃ t st', exec (.abandonReport cyc p) s = .next t ∧ t.stepOf p .be = some st' ∧ st'.abandoned = some (s.stampFor cyc) ∧
      st'.binds = [] ∧ ((t.part p).loop .be).running = false ∧
      (∀ b ∈ st.binds, ∀ q, s.live b.seq = some q → ∃ q', t.live b.seq = some q' ∧ q'.committed = q.committed) ∧
      t.glob = s.glob ∧ t.objs = s.objs ∧ t.rings = s.rings ∧ t.tenants = s.tenants ∧ t.roles = s.roles ∧ t.pending = s.pending) ∧
  (∀ (s : State) (p : Nat) (st : StepS) (e : Stamp), s.mgrUp = true → s.stepOf p .be = some st → st.abandoned = some e →
    exec (.abandonComplete p) s = .next ((s.onLoop p .be (fun l => { l with step := none })).sendStepRecord p
      (stepRecord p .be .abandoned st.prog.id st.launchNo st.launch e st.bound 0))))

/-! Descriptors, arrays, kernels and link transport. -/

/-- DESCRIPTOR_ISSUE of a descriptor whose unit is free in program order and whose AFTER, where it names one, has completed (R54): a
sweep, a kernel and a local transfer whose bytes lie in range are marked issued, and nothing else changes; a transfer from or to host
memory also asks for its DMA (R58); a KLF transfer of kind 2 with chunks to send marks its stream in use (R134) and changes nothing but
segments and streams. TRANSFER_COMPLETE of an issued transfer that has done all its work (R129): its slot is done. From host memory,
staging SRAM holds the host's bytes at DST_ADDR; from the stack (kind 0) the bytes of staging SRAM at DST_ADDR are those of the stack at
SRC_ADDR, and the others stand; to the stack (kind 1) the same the other way round; every other kind leaves both memories (R58). -/
def Obligations.DescriptorsAndTransfers : Prop :=
  ((∀ (s : State) (i p : Nat) (c : Cls) (slot : Nat) (st : StepS) (x : SegStep), s.stepOf p c = some st →
    (s.seg i).stepHere p c = some x → (s.seg i).runs p c = true → mayIssue (s.seg i) st.prog.image x slot = true →
    (dType (st.prog.image.slot slot) = 2 ∨ dType (st.prog.image.slot slot) = 3 ∨ (dType (st.prog.image.slot slot) = 4 ∧
      xferKind (st.prog.image.slot slot) ≤ 1 ∧ xferFault i (st.prog.image.slot slot) (st.prog.image.slot (slot + 1)) = none)) →
    exec (.descriptorIssue i p c slot) s = .next (s.onSegStep i p c (fun y => { y with issued := insertNat slot y.issued }))) ∧
  (∀ (s : State) (i p : Nat) (c : Cls) (slot w w2 : Nat) (st : StepS) (x : SegStep), s.stepOf p c = some st →
    (s.seg i).stepHere p c = some x → (s.seg i).runs p c = true → mayIssue (s.seg i) st.prog.image x slot = true →
    w = st.prog.image.slot slot → w2 = st.prog.image.slot (slot + 1) → dType w = 4 → xferKind w = 4 → xferFault i w w2 = none →
    exec (.descriptorIssue i p c slot) s = .next ((s.onSegStep i p c (fun y => { y with issued := insertNat slot y.issued })).dma i
      (dmaReq false (xferSrc w2) (xferLen w * 64) (dmaClass c) (.transfer i p c slot) 0))) ∧
  (∀ (s : State) (i p : Nat) (c : Cls) (slot w w2 : Nat) (st : StepS) (x : SegStep), s.stepOf p c = some st →
    (s.seg i).stepHere p c = some x → (s.seg i).runs p c = true → mayIssue (s.seg i) st.prog.image x slot = true →
    w = st.prog.image.slot slot → w2 = st.prog.image.slot (slot + 1) → dType w = 4 → xferKind w = 5 → xferFault i w w2 = none →
    exec (.descriptorIssue i p c slot) s = .next ((s.onSegStep i p c (fun y => { y with issued := insertNat slot y.issued })).dma i
      (dmaReq true (xferDst w2) (xferLen w * 64) (dmaClass c) (.transfer i p c slot)
        (ofBytesLe (memReadBytes (memPart (s.seg i).staging (xferSrc w2) (xferLen w * 64)) 0 (xferLen w * 64)))))) ∧
  (∀ (s : State) (i p : Nat) (c : Cls) (slot : Nat) (st : StepS) (x : SegStep), s.stepOf p c = some st →
    (s.seg i).stepHere p c = some x → (s.seg i).runs p c = true → mayIssue (s.seg i) st.prog.image x slot = true →
    dType (st.prog.image.slot slot) = 4 → xferKind (st.prog.image.slot slot) = 2 → 0 < chunksOf (st.prog.image.slot slot) →
    xferFault i (st.prog.image.slot slot) (st.prog.image.slot (slot + 1)) = none →
    ∃ t, exec (.descriptorIssue i p c slot) s = .next t ∧
      (∀ y ∈ (t.part (streamPart (xferStream (st.prog.image.slot slot)))).streams,
        y.id = xferStream (st.prog.image.slot slot) → y.used = true) ∧
      t = { s with segs := t.segs, parts := t.parts })) ∧
  ((∀ (s : State) (i p : Nat) (c : Cls) (slot w w2 : Nat) (st : StepS) (x : SegStep) (data : List Nat),
    s.stepOf p c = some st → (s.seg i).stepHere p c = some x → (s.seg i).runs p c = true → slot ∈ x.issued → slot ∉ x.done →
    w = st.prog.image.slot slot → w2 = st.prog.image.slot (slot + 1) → dType w = 4 → (xferKind w = 4 → data.length = xferLen w * 64) →
    s.transferDone i p c st.prog.image (slot, w, w2) = true →
    ∃ t, exec (.transferComplete i p c slot data) s = .next t ∧
      (∃ y, (t.seg i).stepHere p c = some y ∧ slot ∈ y.done) ∧
      (xferKind w = 4 → (t.seg i).staging = memWriteBytes (s.seg i).staging (xferDst w2) data) ∧
      (xferKind w ≠ 0 → xferKind w ≠ 4 → (t.seg i).staging = (s.seg i).staging) ∧
      (xferKind w ≠ 1 → (t.seg i).stack = (s.seg i).stack) ∧
      t.seg i = { s.seg i with staging := (t.seg i).staging, steps := (t.seg i).steps,
                               stack := { (s.seg i).stack with mem := (t.seg i).stack.mem } } ∧
      othersKept i s t ∧ t = { s with segs := t.segs }) ∧
  (∀ (s : State) (i p : Nat) (c : Cls) (slot w w2 : Nat) (st : StepS) (x : SegStep),
    s.stepOf p c = some st → (s.seg i).stepHere p c = some x → (s.seg i).runs p c = true → slot ∈ x.issued → slot ∉ x.done →
    w = st.prog.image.slot slot → w2 = st.prog.image.slot (slot + 1) → dType w = 4 → xferKind w ≤ 1 →
    s.dmaPending (.transfer i p c slot) = false → (s.seg i).staging.wf = true → (s.seg i).stack.mem.wf = true →
    ∃ t, exec (.transferComplete i p c slot []) s = .next t ∧
      (xferKind w = 0 → ∀ a, memRead (t.seg i).staging a =
        if xferDst w2 ≤ a ∧ a < xferDst w2 + xferLen w * 64 then memRead (s.seg i).stack.mem (xferSrc w2 + (a - xferDst w2))
        else memRead (s.seg i).staging a) ∧
      (xferKind w = 1 → ∀ a, memRead (t.seg i).stack.mem a =
        if xferDst w2 ≤ a ∧ a < xferDst w2 + xferLen w * 64 then memRead (s.seg i).staging (xferSrc w2 + (a - xferDst w2))
        else memRead (s.seg i).stack.mem a)))

/-- The pass an array issues next (R63): while its screen credit is positive and a screen pass is ready, a screen pass; a pass of a
best-effort step of another partition only where no pass of a latency-critical one is ready; a screen pass without credit only where no
pass of either is ready, and where any pass is ready one is issued. PASS_ARM with no pass ready only retires sweeps without an unmasked
row (R84). PASS_ARM of the pass chosen, whose rows lie in staging SRAM (R78, R83, R86, R95): the array turns to the other stationary
register, the pass's bank belongs to its sweep, passes, rows and the stall cycles given are counted, and a screen pass takes its cycles
of the credit, two a row where R124 or R381 has two. Each row's accumulators hold the tree sums of its codes and of the weights in the
physical column that serves the channel, written by the first pass and added to by later ones within ±(2^31 − 1) (R56, R75, R78, R117); a
row's scale entry is formed from its record by the first pass, kept by later ones, and takes the sum of the codes fed (R109, R111); an
outlier channel is fed the zero point (R110). Staging SRAM, the stack and everything outside the segment stand. -/
def Obligations.Passes : Prop :=
  ((∀ (s : State) (i : Nat) (a : Arr) (r : PassRef) (x : SegStep) (q : PassRef), s.choosePass i a = some r →
    0 < ((s.seg i).array a).credit → x ∈ (s.seg i).sources → x.part = 15 → s.nextPass i a x = some q →
    passReady (s.seg i) ((s.seg i).array a) q = true → r.ref.part = 15) ∧
  (∀ (s : State) (i : Nat) (a : Arr) (r : PassRef) (x : SegStep) (q : PassRef), s.choosePass i a = some r →
    r.ref.part ≠ 15 → r.ref.cls = .be → x ∈ (s.seg i).sources → x.part ≠ 15 → x.cls = .lc → s.nextPass i a x = some q →
    passReady (s.seg i) ((s.seg i).array a) q = false) ∧
  (∀ (s : State) (i : Nat) (a : Arr) (r : PassRef) (x : SegStep) (q : PassRef), s.choosePass i a = some r →
    r.ref.part = 15 → ((s.seg i).array a).credit ≤ 0 → x ∈ (s.seg i).sources → x.part ≠ 15 → s.nextPass i a x = some q →
    passReady (s.seg i) ((s.seg i).array a) q = false) ∧
  (∀ (s : State) (i : Nat) (a : Arr) (x : SegStep) (q : PassRef), x ∈ (s.seg i).sources → s.nextPass i a x = some q →
    passReady (s.seg i) ((s.seg i).array a) q = true → ∃ r, s.choosePass i a = some r)) ∧
  (∀ (s : State) (i : Nat) (a : Arr) (stall : Nat), (s.seg i).arrayRuns a = true → (s.retireEmpty i a).choosePass i a = none →
    exec (.passArm i a stall) s = .next (s.retireEmpty i a)) ∧
  (∀ (s u : State) (i : Nat) (a : Arr) (stall : Nat) (r : PassRef), (s.seg i).arrayRuns a = true → u = s.retireEmpty i a →
    s.hasSeg i = true → u.choosePass i a = some r → rowOutside r = none →
    ∃ t, exec (.passArm i a stall) s = .next t ∧
      ((t.seg i).array a).tag = !((u.seg i).array a).tag ∧
      (((t.seg i).array a).bank (sweepBank r.sweep)).holder = some r.ref ∧
      ((t.seg i).array a).passCount = ((u.seg i).array a).passCount + 1 ∧
      ((t.seg i).array a).rowCount = ((u.seg i).array a).rowCount + r.rows.length ∧
      ((t.seg i).array a).loadStall = ((u.seg i).array a).loadStall + stall ∧
      ((t.seg i).array a).credit = ((u.seg i).array a).credit -
        (if r.ref.part = 15 then (passCycles (s.seg i).supply.throttled r r.rows.length : Int) else 0) ∧
      (∀ (row : Nat × RowEntry) (e0 : RowScale) (code : Nat → Int), row ∈ r.rows →
        e0 = (if r.k = 0 then (rowScale (sweepAfmt r.sweep) (readStats (s.seg i).staging row.2.addr)).1
          else (aGet row.1 (((u.seg i).array a).bank (sweepBank r.sweep)).scales).getD {}) →
        (∀ d, code d = if 256 ≤ d then 0
          else if 256 * passDepth r.pass + d ∈ r.chans then e0.za
          else codeOf (sweepAfmt r.sweep) e0 ((rowSlice (s.seg i).staging row.2.addr (passDepth r.pass)).getD d 0)) →
        (∀ ch < 256, ((aGet row.1 (((t.seg i).array a).bank (sweepBank r.sweep)).acc).getD []).getD ch 0 =
          clampInt (-2147483647) 2147483647
            ((if r.k = 0 then 0 else ((aGet row.1 (((u.seg i).array a).bank (sweepBank r.sweep)).acc).getD []).getD ch 0) +
              (((((u.seg i).array a).reg (!((u.seg i).array a).tag)).weights.filter
                (fun w => w.1 == physColumn ((u.seg i).array a).remap ch)).map (fun w => code w.2.1 * w.2.2)).sum)) ∧
        (∃ e, aGet row.1 (((t.seg i).array a).bank (sweepBank r.sweep)).scales = some e ∧ e.s = e0.s ∧ e.r = e0.r ∧ e.za = e0.za ∧
          e.codeSum = e0.codeSum + ((List.range 256).map code).sum)) ∧
      t.seg i = { u.seg i with ma0 := (t.seg i).ma0, ma1 := (t.seg i).ma1, steps := (t.seg i).steps, cnt := (t.seg i).cnt } ∧
      (t.seg i).staging = (s.seg i).staging ∧ (t.seg i).stack = (s.seg i).stack ∧
      othersKept i s t ∧ t = { s with segs := t.segs })

/-- TILE_LOAD_COMPLETE of the tile that the step loads next on an array, with its bytes in range (R87): it lies in the register that the
running pass does not use, its weights in the physical columns of the remap table (R86, R90, R97), taken from the prefetch buffer, the
stack or staging SRAM (R91); the register in use and the pass tag stand. STATISTICS_PASS before a sweep's first pass (R105): the valid
bit of every unmasked row is set; a row with a current record keeps it, and bytes of staging SRAM outside the rows' records stand. -/
def Obligations.TilesAndStatistics : Prop :=
  (∀ (s : State) (i : Nat) (a : Arr) (p : Nat) (c : Cls) (x : SegStep) (r : PassRef), (s.seg i).stepHere p c = some x →
    (s.seg i).runs p c = true → s.nextLoad i a x = some r → (s.seg i).arrayRuns a = true →
    passTile r.pass * 64 + tileBytes (sweepWfmt r.sweep) ≤ (if passFromStack r.pass then stackBytes else stagingBytes) →
    ∃ t, exec (.tileLoadComplete i a p c (r.ref.slot + 1 + r.k)) s = .next t ∧
      (((t.seg i).array a).reg (!((s.seg i).array a).tag)).tile = some (r.ref, r.k) ∧
      (((t.seg i).array a).reg (!((s.seg i).array a).tag)).weights =
        placeWeights ((s.seg i).array a).remap (tileCodes (sweepWfmt r.sweep) ((s.seg i).tileOf a r))
          (((s.seg i).array a).reg (!((s.seg i).array a).tag)).weights ∧
      ((t.seg i).array a).reg ((s.seg i).array a).tag = ((s.seg i).array a).reg ((s.seg i).array a).tag ∧
      ((t.seg i).array a).tag = ((s.seg i).array a).tag ∧ (t.seg i).array (otherArr a) = (s.seg i).array (otherArr a) ∧
      t.seg i = { s.seg i with ma0 := (t.seg i).ma0, ma1 := (t.seg i).ma1 } ∧ othersKept i s t ∧ t = { s with segs := t.segs }) ∧
  (∀ (s : State) (i p : Nat) (c : Cls) (slot : Nat) (st : StepS) (x : SegStep), s.stepOf p c = some st →
    (s.seg i).stepHere p c = some x → (s.seg i).runs p c = true → slot ∈ x.issued → slot ∉ x.done →
    dType (st.prog.image.slot slot) = 2 → (aGet slot x.passNext).getD 0 = 0 →
    ∃ t, exec (.statisticsPass i p c slot) s = .next t ∧
      (∀ row ∈ (passOf st.prog.image x slot).rows, headerUnit row.2.addr ∈ (t.seg i).validBits) ∧
      ((∀ row ∈ (passOf st.prog.image x slot).rows, statsCurrent (s.seg i).validBits (s.seg i).staging x.launchNo row.2.addr = true) →
        t = s) ∧
      (∀ b, (∀ row ∈ (passOf st.prog.image x slot).rows,
          b < headerUnit row.2.addr * 256 + 240 ∨ headerUnit row.2.addr * 256 + 256 ≤ b) →
        memRead (t.seg i).staging b = memRead (s.seg i).staging b) ∧
      t.seg i = { s.seg i with staging := (t.seg i).staging, validBits := (t.seg i).validBits, cnt := (t.seg i).cnt } ∧
      othersKept i s t ∧ t = { s with segs := t.segs })

/-- SWEEP_COMPLETE of the sweep whose passes have all been issued and whose sums stand first in its array's pipeline, with the rows fed in
range of staging SRAM (R78, R89): its slot is done, the array is done with it, and bytes of staging SRAM change only in the output slice
of a row fed, in that row's scale word and in its statistics record (R100, R103). The outputs, where the rows of the table's pitch do
not overlap and no cancel dropped the row (R121, R123): a poisoned row gives NaN, a channel of scale zero its bias, any other the
corrected sum times row scale and channel scale, plus bias and side sum, through the activation; written as BF16 or FP32, or as INT8 codes
of two groups with their scales in the row's header unit (R124, R125). With FUSE_RS the row's record is that of the values written, merged
into a current one (R103). -/
def Obligations.SweepCompleted : Prop :=
  (∀ (s : State) (i p : Nat) (c : Cls) (slot pitch : Nat) (a : Arr) (st : StepS) (x : SegStep) (r : PassRef) (b : AccBank),
    s.stepOf p c = some st → (s.seg i).stepHere p c = some x → (s.seg i).runs p c = true →
    r = passOf st.prog.image x slot → dType r.sweep = 2 → r.k = sweepPasses r.sweep → slot ∉ x.done → a = (s.seg i).sweepRuns r.sweep →
    b = ((s.seg i).array a).finishing.headD {} → b.holder = some r.ref →
    pitch = (match s.rtable i p (sweepTable r.sweep) with | some y => rtPitch y.header | none => 0) →
    (∀ j ∈ b.fed, (outUnit r.sweep pitch j + outUnits (sweepOutfmt r.sweep)) * 256 ≤ stagingBytes) →
    ∃ t, exec (.sweepComplete i p c slot) s = .next t ∧
      (((t.seg i).array a).bank (sweepBank r.sweep)).holder ≠ some r.ref ∧
      ((t.seg i).array a).finishing = ((s.seg i).array a).finishing.filter (fun y => y.holder != some r.ref) ∧
      (∃ y, (t.seg i).stepHere p c = some y ∧ slot ∈ y.done) ∧
      (∀ n, (∀ j ∈ b.fed, (n < outUnit r.sweep pitch j * 256 ∨ (outUnit r.sweep pitch j + outUnits (sweepOutfmt r.sweep)) * 256 ≤ n) ∧
          (n < headerUnit (sweepOut r.sweep + j * pitch) * 256 + 4 * sweepColTile r.sweep ∨
            headerUnit (sweepOut r.sweep + j * pitch) * 256 + 4 * sweepColTile r.sweep + 4 ≤ n) ∧
          (n < headerUnit (sweepOut r.sweep + j * pitch) * 256 + 240 ∨
            headerUnit (sweepOut r.sweep + j * pitch) * 256 + 256 ≤ n)) →
        memRead (t.seg i).staging n = memRead (s.seg i).staging n) ∧
      t.seg i = { s.seg i with ma0 := (t.seg i).ma0, ma1 := (t.seg i).ma1, staging := (t.seg i).staging,
                               validBits := (t.seg i).validBits, steps := (t.seg i).steps, cnt := (t.seg i).cnt } ∧
      othersKept i s t ∧ t = { s with segs := t.segs }) ∧
  (∀ (s t : State) (i p : Nat) (c : Cls) (slot pitch j start : Nat) (a : Arr) (st : StepS) (x : SegStep) (r : PassRef) (b : AccBank)
    (e : RowScale) (v : Nat → F32),
    s.stepOf p c = some st → (s.seg i).stepHere p c = some x → (s.seg i).runs p c = true →
    r = passOf st.prog.image x slot → dType r.sweep = 2 → r.k = sweepPasses r.sweep → slot ∉ x.done → a = (s.seg i).sweepRuns r.sweep →
    b = ((s.seg i).array a).finishing.headD {} → b.holder = some r.ref →
    pitch = (match s.rtable i p (sweepTable r.sweep) with | some y => rtPitch y.header | none => 0) →
    (∀ k ∈ b.fed, (outUnit r.sweep pitch k + outUnits (sweepOutfmt r.sweep)) * 256 ≤ stagingBytes) →
    1 + (sweepColTile r.sweep + 1) * outUnits (sweepOutfmt r.sweep) ≤ pitch → sweepColTile r.sweep < 60 →
    (s.seg i).staging.wf = true → b.fed.Nodup → j ∈ b.fed → j ∉ (x.rowLists.getD (sweepRowList r.sweep) {}).drop →
    e = (aGet j b.scales).getD {} → start = sweepOut r.sweep + j * pitch →
    (∀ ch, v ch = if e.poison then f32Nan
      else if f32Eq (reScale (b.table.getD ch 0)) 0 then activate (sweepAct r.sweep) (f32Of (f32Read (reBias (b.table.getD ch 0))))
      else activate (sweepAct r.sweep) (f32Add (f32Add (f32Mul (f32Mul (f32OfInt
          (((aGet j b.acc).getD []).getD ch 0 - (if sweepWfmt r.sweep = 2 then reZw (b.table.getD ch 0) else 0) * e.codeSum
            - e.za * reColsum (b.table.getD ch 0)
            + 256 * (sweepPasses r.sweep : Int) * e.za * (if sweepWfmt r.sweep = 2 then reZw (b.table.getD ch 0) else 0)))
          e.s) (reScale (b.table.getD ch 0))) (reBias (b.table.getD ch 0))) (sideSum e b.side ch r.chans.length))) →
    exec (.sweepComplete i p c slot) s = .next t →
      (sweepOutfmt r.sweep = 0 → ∀ ch < 256,
        memReadWord (t.seg i).staging (outUnit r.sweep pitch j * 256 + 2 * ch) 2 = (bf16Of (v ch)).toNat) ∧
      (sweepOutfmt r.sweep = 2 → ∀ ch < 256,
        memReadWord (t.seg i).staging (outUnit r.sweep pitch j * 256 + 4 * ch) 4 = (v ch).toNat) ∧
      (sweepOutfmt r.sweep = 1 → (sweepFuse r.sweep = false) →
        (∀ ch < 128,
          memReadWord (t.seg i).staging (outUnit r.sweep pitch j * 256 + ch) 1 =
            unsigned 8 ((quantGroup ((List.range 128).map v)).2.1.getD ch 0) ∧
          memReadWord (t.seg i).staging (outUnit r.sweep pitch j * 256 + 128 + ch) 1 =
            unsigned 8 ((quantGroup ((List.range 128).map (fun n => v (128 + n)))).2.1.getD ch 0)) ∧
        memReadWord (t.seg i).staging (headerUnit start * 256 + 4 * sweepColTile r.sweep) 4 =
          (quantGroup ((List.range 128).map v)).1.toNat + (quantGroup ((List.range 128).map (fun n => v (128 + n)))).1.toNat * 65536) ∧
      (sweepOutfmt r.sweep = 0 → sweepFuse r.sweep = true → b.table.length = 256 →
        readStats (t.seg i).staging start =
          mergeStats (statsCurrent (s.seg i).validBits (s.seg i).staging r.launchNo start) (readStats (s.seg i).staging start)
            { gatherStats r.launchNo ((List.range 256).map (fun ch => (bf16Of (v ch), reExcl (b.table.getD ch 0)))) with
              range := (List.range 256).any (fun ch => f32IsInf (f32OfBf16 (bf16Of (v ch)))) || e.range } ∧
        headerUnit start ∈ (t.seg i).validBits))

/-- KERNEL_START of an issued kernel whose earlier kernels have started, with thread slots free for it (R160, R161): it runs on them,
with its header's match noted (R163), and the next core follows. KERNEL_COMPLETE of a kernel whose header matched, with work that reaches
only what the kernel may touch and the rows that its argument block states (R163, R164): its thread slots are free, its slot is done and
its cycles are counted; nothing changes outside segments, and what the kernel did on its inputs is what it does on them again (R166; that
it is found by a first run is log entry 8). Where the work is one run of bytes of its allocation, as many bytes as it says stand there
anew, a function of the inputs alone, and nothing else of staging SRAM changes. KERNEL_BOUND_EXCEEDED:
the kernel keeps running and is counted once (R165). KERNEL_FAULT, for another cause than the header or for a header that did not match:
the fault and the data-path error are counted and the step is discarded (R164, R355). -/
def Obligations.Kernels : Prop :=
  ((∀ (s : State) (i p : Nat) (c : Cls) (slot : Nat) (st : StepS) (x : SegStep), s.stepOf p c = some st →
    (s.seg i).stepHere p c = some x → (s.seg i).runs p c = true → slot ∈ x.issued → slot ∉ x.done →
    dType (st.prog.image.slot slot) = 3 → (s.seg i).kernelRun p c slot = none → earlierStarted st.prog.image (s.seg i) x slot = true →
    kernelThreads (st.prog.image.slot slot) ≤ (s.seg i).threadsFree p →
    exec (.kernelStart i p c slot) s = .next (s.onSeg i (fun g =>
      { g with kernels := g.kernels ++ [{ part := p, cls := c, slot := slot, threads := kernelThreads (st.prog.image.slot slot),
                                          firstCore := g.nextCore,
                                          headerBad := s.headerBadAt i p c (st.prog.image.slot slot) }],
               nextCore := (g.nextCore + kernelThreads (st.prog.image.slot slot)) % 64 }))) ∧
  (∀ (s : State) (i p : Nat) (c : Cls) (slot cycles : Nat) (work : List KernelWork) (host : List Nat) (k : KernelRun) (im : Kernel)
    (st : StepS) (x : SegStep), s.runningKernel i p c slot = some (k, im, st) → (s.seg i).stepHere p c = some x → k.headerBad = false →
    (∀ w ∈ work, s.reaches i p c st.prog.image slot x w = true) →
    s.codeAgrees (s.kernelInputs i p c (st.prog.image.slot slot) im x host) work = true →
    (workRows work).length = outRows (s.seg i).staging (st.prog.image.slot slot) →
    ∃ t, exec (.kernelComplete i p c slot cycles ⟨work, host⟩) s = .next t ∧
      (t.seg i).kernels = (s.seg i).kernels.filter (fun y => !(y.part == p && y.cls == c && y.slot == slot)) ∧
      (t.seg i).cnt.issueCycles = (s.seg i).cnt.issueCycles + cycles ∧
      (∃ y, (t.seg i).stepHere p c = some y ∧ slot ∈ y.done) ∧
      (∀ addr n, work = [.bytes addr n] → ∃ data, data.length = n ∧
        data = writtenBytes (s.kernelInputs i p c (st.prog.image.slot slot) im x host) 0 addr n ∧
        (t.seg i).staging = memWriteBytes (s.seg i).staging addr data ∧ othersKept i s t) ∧
      (∀ w, t.codeAgrees (s.kernelInputs i p c (st.prog.image.slot slot) im x host) w = true → w = work) ∧
      t = { s with segs := t.segs, code := t.code })) ∧
  ((∀ (s : State) (i p : Nat) (c : Cls) (slot : Nat) (k : KernelRun) (im : Kernel) (st : StepS),
    s.runningKernel i p c slot = some (k, im, st) → k.exceeded = false →
    ∃ t, exec (.kernelBoundExceeded i p c slot) s = .next t ∧
      (t.seg i).kernels = (s.seg i).kernels.map (fun y => if y = k then { y with exceeded := true } else y) ∧
      (t.seg i).cnt = { (s.seg i).cnt with boundExceeded := (s.seg i).cnt.boundExceeded + 1 } ∧
      t.seg i = { s.seg i with kernels := (t.seg i).kernels, cnt := (t.seg i).cnt } ∧ othersKept i s t ∧ t = { s with segs := t.segs }) ∧
  (∀ (s : State) (i p : Nat) (c : Cls) (slot : Nat) (k : KernelRun) (im : Kernel) (st : StepS) (cyc : Nat) (cause : KernelCause),
    s.runningKernel i p c slot = some (k, im, st) → (cause ≠ .header ∨ k.headerBad = true) → st.abandoned = none →
    ∃ t, exec (.kernelFault cyc i p c slot cause) s = .next t ∧ t.stepOf p c = none ∧
      (t.seg i).cnt.kernelFaults = (s.seg i).cnt.kernelFaults + 1 ∧
      (t.seg i).health.uncorrected = (s.seg i).health.uncorrected + 1 ∧
      t.cnt.stepsDiscarded = s.cnt.stepsDiscarded + 1 ∧ t.glob = s.glob ∧ t.objs = s.objs ∧ t.roles = s.roles ∧ t.pending = s.pending))

/-! Drafting, drawing, compaction and the commit point. -/

/-- With TEMPERATURE 0 child i of a tree node takes the i-th of the distinct candidates of the draft row, and a child for which none remains
carries no token (R217). The kept set of a row is the shortest non-empty leading run of the candidates whose cumulative p reaches TOP_P,
or all of them where none does (R213). -/
def Obligations.DraftAndTree : Prop :=
  (∀ (g : GenParams) (len : Nat) (q : List (Nat × F32)) (kids : List BoundNode) (i : Nat) (k : BoundNode), g.greedy = true →
    (q.map (·.1)).Nodup → kids[i]? = some k →
    ∃ k', (draftChildren g len q kids)[i]? = some k' ∧ k'.token = (q[i]?).map (·.1) ∧ k'.node = k.node ∧ k'.parent = k.parent) ∧
  (∀ (topP : F32) (l : List (Nat × F32)), ∃ n ≤ l.length, keptRun topP 0 l = l.take n ∧
    (∀ m, 0 < m → m < n → f32Le topP (f32Sum ((l.take m).map (·.2))) = false) ∧
    (n < l.length → f32Le topP (f32Sum ((l.take n).map (·.2))) = true))

/-- DRAFT_LEVEL of the next level of a verifying step, with the draft rows of the level's nodes that carry a token, at least one: each tree's
children of that level are drafted, and the step has one level more (R217). MANAGER_DRAW of a launched step that draws, every
participating segment having reported, its levels drafted where it verifies, with the rows of its nodes: the step is drawn, and its binds
hold their accepted paths and output tokens (R47, R213, R218); a bind of a step that does not verify has one token, drawn from its root's
target row. Only the step and counters change. -/
def Obligations.DraftAndDraw : Prop :=
  (∀ (s : State) (p : Nat) (c : Cls) (level : Nat) (rows : List LogitRow) (st : StepS) (m : Model), s.mgrUp = true →
    s.stepOf p c = some st → (s.part p).draft = some m → st.verifies = true → st.drawn = false → level = st.levels →
    (∃ b ∈ st.binds, b.hasTree = true ∧ levelNodes level b ≠ []) →
    (∀ b ∈ st.binds, b.hasTree = true → rowsOk m.vocab (s.partSegs p).length rows b.seq (levelNodes level b) = true) →
    ∃ t st', exec (.draftLevel p c level rows) s = .next t ∧ t.stepOf p c = some st' ∧ st'.levels = st.levels + 1 ∧
      st'.binds = st.binds.map (s.draftBind m (s.partSegs p).length level rows) ∧ st'.drawn = false ∧
      t = { s with parts := t.parts, cnt := t.cnt }) ∧
  (∀ (s : State) (p : Nat) (c : Cls) (rows : List LogitRow) (st : StepS) (m : Model), s.mgrUp = true →
    s.stepOf p c = some st → (s.part p).target = some m → st.launched = true → st.abandoned = none → st.prog.image.draw = true →
    (st.prog.image.verify = true → st.levelsDue ≤ st.levels) → st.roots = true → st.drawn = false → s.allReported p st = true →
    (∀ b ∈ st.binds, rowsOk m.vocab (s.partSegs p).length rows b.seq (drawNodes b) = true) →
    ∃ t st', exec (.managerDraw p c rows) s = .next t ∧ t.stepOf p c = some st' ∧ st'.drawn = true ∧
      st'.binds = s.drawBinds m (s.partSegs p).length st.prog.image.verify rows st.binds ∧
      (st.prog.image.verify = false → ∀ (i : Nat) (b : Sys2Proof.Machine.Bind) (q : Sequence), st.binds[i]? = some b → s.live b.seq = some q → b.nodes ≠ [] →
        ∃ b' : Sys2Proof.Machine.Bind, st'.binds[i]? = some b' ∧ b'.seq = b.seq ∧ b'.path = [] ∧
          b'.drawn = [drawToken q.req.params (targetDist m (s.partSegs p).length q rows b.seq 0) (q.committed + 1)]) ∧
      t = { s with parts := t.parts, cnt := t.cnt })

/-- Compaction along a rising path copies the entry of each of the path's nodes to its place after the root, none being overwritten before it
is read; entries of positions up to the root's and of other segments stand (R182). COMPACTION_COMPLETE of a segment of a drawn verifying
step: the keys and values that the segment's part of the step has written for each bound sequence are compacted along its path, nothing
else of the step there changes, no sequence changes, and the segment counts as compacted; of the segment nothing else changes but its
counters. -/
def Obligations.Compaction : Prop :=
  (∀ (i len : Nat) (path : List Nat) (kv : List KvEntry), path.Pairwise (· < ·) → (∀ n ∈ path, 1 ≤ n) →
    kv.Pairwise (fun a b => sameSlot a b = false) →
    (∀ (j n : Nat) (e : KvEntry), path[j]? = some n → e ∈ kv → e.seg = i → e.pos = len + n →
      { e with pos := len + (j + 1) } ∈ compactPath i len path kv) ∧
    (∀ e ∈ kv, e.pos ≤ len → e ∈ compactPath i len path kv) ∧
    (∀ e ∈ kv, e.seg ≠ i → e ∈ compactPath i len path kv)) ∧
  (∀ (s : State) (i p : Nat) (c : Cls) (st : StepS), s.mgrUp = true → s.stepOf p c = some st → st.prog.image.verify = true →
    st.drawn = true → i ∈ s.compactSegs p st.prog.image → i ∉ st.compacted →
    ∃ t, exec (.compactionComplete i p c) s = .next t ∧ t.stepOf p c = some { st with compacted := insertNat i st.compacted } ∧
      (∀ x, (s.seg i).stepHere p c = some x → (t.seg i).stepHere p c = some { x with
        bound := x.bound.map (fun (b : SegBind) => { b with
          kv := compactPath i b.len (((st.binds.find? (fun y => y.seq == b.seq)).map (·.path)).getD []) b.kv }) }) ∧
      t.seg i = { s.seg i with steps := (t.seg i).steps, cnt := (t.seg i).cnt } ∧ othersKept i s t ∧
      t = { s with parts := t.parts, segs := t.segs })

/-- COMMIT_POINT of a step of partitions 0 to 14 that every segment has reported and whose draw and compaction have ended, with the beat's
committed values in force (R47): the step is over, its loop's next freeze falls no earlier than the next beat edge (R50), and one more
mirror delta is numbered (R30). Under ADVANCE, a bind of prefill alone takes its sequence's committed length to the chunk's end and adds no output;
a bind of a root alone, with its tree, takes it up by the path's length and one and adds the tokens drawn to the outputs, under HOLD also
to the hold buffer with the commit stamp and the partition's D_OUT_BT beats to go. Where no bind is of a retrieval stage, the output
charge of a step under ADVANCE and HOLD is 256 for each token drawn of each tenant's sequences, and a step without HOLD charges nothing
(R222). Under SCALES, the carried scale of a stream on which the step coded a chunk, with no table load waiting for it, is multiplied by
two to the largest exponent reported, held within the normal numbers, and its escape run rises, at most to 3, with an escape that was not
forced and is 0 without; any other stream, and every stream without SCALES, keeps both (R137, R138). Committed object values, indexes, roles, supplies and the queue stand; of segments, rings and entries nothing is said here. A
step not launched, abandoned, not reported by a segment, not drawn where it draws, or not compacted by every segment of its partition
where it verifies (R182), has no commit point: nothing changes (R49). -/
def Obligations.CommitEffects : Prop :=
  (∀ (s : State) (cyc p : Nat) (c : Cls) (st : StepS) (e : Stamp), s.prior = none → s.mgrUp = true → p < 15 → s.stepOf p c = some st →
    s.commitReady p st = true → e = s.stampFor cyc → (st.binds.map (·.seq)).Nodup →
    ∃ t, exec (.commitPoint cyc p c) s = .next t ∧ t.stepOf p c = none ∧ ((t.part p).loop c).freezeAt = e.beat + 1 ∧
      t.mirror.nextSeq = s.mirror.nextSeq + 1 ∧
      (st.prog.image.advance = true → ∀ b ∈ st.binds, ∀ q, s.live b.seq = some q → b.stageE = false → b.rerank = [] →
        0 < b.prefill → b.nodes = [] →
        ∃ q', t.live b.seq = some q' ∧ q'.committed = b.prefillFrom + b.prefill ∧ q'.outputs = q.outputs) ∧
      (st.prog.image.advance = true → ∀ b ∈ st.binds, ∀ q, s.live b.seq = some q → b.stageE = false → b.rerank = [] →
        b.prefill = 0 → b.nodes ≠ [] →
        ∃ q', t.live b.seq = some q' ∧ q'.committed = q.committed + b.path.length + 1 ∧ q'.outputs = q.outputs ++ b.drawn ∧
          (st.prog.image.hold = true → ∃ new, q'.hold = q.hold ++ new ∧ new.map (·.token) = b.drawn ∧
            ∀ h ∈ new, h.commit = e ∧ h.due = plusBeats e (s.part q.req.part).policy.dOut)) ∧
      ((∀ b ∈ st.binds, b.stageE = false ∧ b.rerank = []) → ∀ k, (t.tenant k).level = (s.tenant k).level -
        (if st.prog.image.advance && st.prog.image.hold then
          ((st.binds.filter (fun b => !b.nodes.isEmpty && ((s.live b.seq).any (fun q => q.req.tenant == k)))).map
            (fun b => 256 * (b.drawn.length : Int))).sum
        else 0)) ∧
      (∀ x ∈ (s.part p).streams, x.reset = false → ∃ y ∈ (t.part p).streams, y.id = x.id ∧
        (∀ m, aGet x.id st.eMax = some m → st.prog.image.scales = true →
          y.s = (if f32IsInf (f32Mul x.s (pow2 m)) then 0x7F7FFFFF else if f32Lt (f32Mul x.s (pow2 m)) 0x00800000 then 0x00800000
            else f32Mul x.s (pow2 m)) ∧
          y.run = (if x.id ∈ st.escaped then min 3 (x.run + 1) else 0)) ∧
        ((aGet x.id st.eMax = none ∨ st.prog.image.scales = false) → y.s = x.s ∧ y.run = x.run)) ∧
      t.time.beat = s.time.beat ∧ t.glob = s.glob ∧ t.objs = s.objs ∧ t.indexes = s.indexes ∧ t.roles = s.roles ∧
      t.power = s.power ∧ t.pending = s.pending) ∧
  (∀ (s : State) (cyc p : Nat) (c : Cls) (st : StepS), s.prior = none → s.stepOf p c = some st →
    (st.launched = false ∨ st.abandoned ≠ none ∨ (∃ i ∈ s.stepSegs p st.prog.image, i ∉ st.reports) ∨
      (st.prog.image.draw = true ∧ st.roots = true ∧ st.drawn = false) ∨
      (st.prog.image.verify = true ∧ st.prog.image.draw = true ∧ st.roots = true ∧
        ∃ i < s.segs.length, i ∈ s.partSegs p ∧ i ∉ st.compacted)) →
    exec (.commitPoint cyc p c) s = .next s)

/-! Requests: submission, admission, cancels, resumptions, completion. -/

/-- A SUB record is taken when its ring's turn has come (R300); takeSub passes HEAD over it. SUB_REQUEST that names an enabled CMP ring,
passes the checks of R300, and whose envelope opens with a sound body, puts a request with the record's fields at the end of the
admission queue of its partition and class (R207, R208), and nothing else changes. One that fails a check is answered CLAMPED and
counted; one whose envelope does not open is answered SEAL_FAIL and counted (R340). A record of a reserved kind is answered CLAMPED and
counted. A record that names no enabled CMP ring is dropped and counted by its ring, whatever its kind. CANCEL (R221): of a live request
whose end instant is not reached, it ends CANCELLED at the cancel's stamp with nothing held back, each token held is refunded 256 to its
tenant (R220, R222) and no other tenant's bucket changes, and the cancel is answered OK; of a
waiting one, it leaves its queue, ends CANCELLED, and the cancel is answered OK; of any other the cancel is answered ALREADY_DONE and
nothing ends; a cancel that fails its checks is answered CLAMPED and counted. -/
def Obligations.SubmissionAndCancels : Prop :=
  ((∀ (s u : State) (cyc n : Nat) (rec : SubRecord) (env : Envelope), s.subReady n = true → srKind rec = 0x30 →
    u = (s.given (s.stampFor cyc)).takeSub n → s.ringIs (srCmp rec) 1 = true → s.requestClamped (s.ring n) rec = false →
    env.readError = false → u.envelopeOpens rec env = true → u.bodyFault (srPart rec) env = false → srPart rec < u.parts.length →
    ∃ t q, exec (.subRequest cyc n rec env) s = .next t ∧ q.part = srPart rec ∧ q.cls = srCls rec ∧ q.tenant = srTenant rec ∧
      q.reqId = srId rec ∧ q.cmpRing = srCmp rec ∧ q.strRing = srStr rec ∧ q.arrived = s.stampFor cyc ∧
      (t.part (srPart rec)).queue (srCls rec) = (u.part (srPart rec)).queue (srCls rec) ++ [q] ∧
      t = { u with parts := t.parts, free := u.free + 1 }) ∧
  (∀ (s u : State) (cyc n : Nat) (rec : SubRecord) (env : Envelope), s.subReady n = true → srKind rec = 0x30 →
    u = (s.given (s.stampFor cyc)).takeSub n → s.ringIs (srCmp rec) 1 = true → s.requestClamped (s.ring n) rec = true →
    exec (.subRequest cyc n rec env) s = .next ((u.answer (recordRequest rec (s.stampFor cyc)) .clamped false (s.stampFor cyc)).count
      (fun c => { c with subClamped := c.subClamped + 1 }))) ∧
  (∀ (s u : State) (cyc n : Nat) (rec : SubRecord) (env : Envelope), s.subReady n = true → srKind rec = 0x30 →
    u = (s.given (s.stampFor cyc)).takeSub n → s.ringIs (srCmp rec) 1 = true → s.requestClamped (s.ring n) rec = false →
    env.readError = false → u.envelopeOpens rec env = false →
    exec (.subRequest cyc n rec env) s = .next ((u.failRequest (recordRequest rec (s.stampFor cyc)) .sealFail (s.stampFor cyc)).count
      (fun c => { c with envFails := c.envFails + 1 }))) ∧
  (∀ (s u : State) (cyc n : Nat) (rec : SubRecord) (env : Envelope), s.subReady n = true →
    u = (s.given (s.stampFor cyc)).takeSub n → s.ringIs (srCmp rec) 1 = false →
    (srKind rec = 0x30 → exec (.subRequest cyc n rec env) s = .next (u.ringLoses n)) ∧
    (srKind rec = 0x31 → exec (.cancel cyc n rec) s = .next (u.ringLoses n)) ∧
    (srKind rec ≠ 0x30 → srKind rec ≠ 0x31 → exec (.subReservedKind cyc n rec) s = .next (u.ringLoses n))) ∧
  (∀ (s u : State) (cyc n : Nat) (rec : SubRecord), s.subReady n = true → srKind rec ≠ 0x30 → srKind rec ≠ 0x31 →
    u = (s.given (s.stampFor cyc)).takeSub n → s.ringIs (srCmp rec) 1 = true →
    exec (.subReservedKind cyc n rec) s = .next ((u.answer (recordRequest rec (s.stampFor cyc)) .clamped false (s.stampFor cyc)).count
      (fun c => { c with subClamped := c.subClamped + 1 })))) ∧
  ((∀ (s u : State) (cyc n k : Nat) (rec : SubRecord) (q : Sequence), s.subReady n = true → srKind rec = 0x31 →
    u = (s.given (s.stampFor cyc)).takeSub n → s.ringIs (srCmp rec) 1 = true → cancelClamped (s.ring n) rec = false →
    u.cancelQueued (srTenant rec) (srId rec) = none → u.cancelLive (srTenant rec) (srId rec) = some k → u.live k = some q →
    q.ended = none →
    ∃ t q', exec (.cancel cyc n rec) s = .next t ∧
      t = ((u.count (fun c => { c with cancels := c.cancels + 1 })).endSeq k .cancelled (s.stampFor cyc)).cancelAnswer
        (recordRequest rec (s.stampFor cyc)) .ok (s.stampFor cyc) ∧
      t.live k = some q' ∧ q'.ended = some (.cancelled, s.stampFor cyc) ∧ q'.hold = [] ∧
      (t.tenant q.req.tenant).level = (s.tenant q.req.tenant).level + 256 * (q.hold.length : Int) ∧
      (∀ j, j ≠ q.req.tenant → t.tenant j = s.tenant j) ∧ t.glob = s.glob ∧ t.objs = s.objs ∧ t.roles = s.roles ∧ t.pending = s.pending) ∧
  (∀ (s u : State) (cyc n : Nat) (rec : SubRecord) (q : Request), s.subReady n = true → srKind rec = 0x31 →
    u = (s.given (s.stampFor cyc)).takeSub n → s.ringIs (srCmp rec) 1 = true → cancelClamped (s.ring n) rec = false →
    u.cancelQueued (srTenant rec) (srId rec) = some q →
    ∃ t, exec (.cancel cyc n rec) s = .next t ∧
      t = (((u.count (fun c => { c with cancels := c.cancels + 1 })).unqueue q).failRequest q .cancelled (s.stampFor cyc)).cancelAnswer
        (recordRequest rec (s.stampFor cyc)) .ok (s.stampFor cyc) ∧
      (∀ r ∈ (t.part q.part).lcQueue ++ (t.part q.part).beQueue, ¬(r.tenant = srTenant rec ∧ r.reqId = srId rec)) ∧
      t.tenants = s.tenants ∧ t.glob = s.glob ∧ t.objs = s.objs ∧ t.pending = s.pending) ∧
  (∀ (s u : State) (cyc n : Nat) (rec : SubRecord), s.subReady n = true → srKind rec = 0x31 →
    u = (s.given (s.stampFor cyc)).takeSub n → s.ringIs (srCmp rec) 1 = true → cancelClamped (s.ring n) rec = false →
    u.cancelQueued (srTenant rec) (srId rec) = none → u.cancelLive (srTenant rec) (srId rec) = none →
    ∃ t, exec (.cancel cyc n rec) s = .next t ∧
      t = (u.count (fun c => { c with cancelsLate := c.cancelsLate + 1 })).cancelAnswer
        (recordRequest rec (s.stampFor cyc)) .alreadyDone (s.stampFor cyc) ∧ t.parts = s.parts ∧
      t.tenants = s.tenants ∧ (∀ k, (t.live k).bind (·.ended) = (s.live k).bind (·.ended)) ∧ t.pending = s.pending) ∧
  (∀ (s u : State) (cyc n : Nat) (rec : SubRecord), s.subReady n = true → srKind rec = 0x31 →
    u = (s.given (s.stampFor cyc)).takeSub n → s.ringIs (srCmp rec) 1 = true → cancelClamped (s.ring n) rec = true →
    exec (.cancel cyc n rec) s = .next ((u.answer (recordRequest rec (s.stampFor cyc)) .clamped true (s.stampFor cyc)).count
      (fun c => { c with subClamped := c.subClamped + 1 }))))

/-- In a partition that is not stopped, the checks of an admission turn come in the order of R208: the tenant's entry and mask and a level
above 0 (BUDGET), then a handle that names an entry (BAD_HANDLE), then the prompt, and a token to generate, within the context (LENGTH).
ADMISSION of the request whose turn it is, with the beat's committed values in force, where a check fails: the request leaves its queue,
and no tenant is charged and no directory entry changes. -/
def Obligations.AdmissionOrder : Prop :=
  (∀ (s : State) (r : Request), (s.part r.part).stopped = none →
    ((s.tenant r.tenant).valid = false ∨ (s.tenant r.tenant).partitions.testBit r.part = false ∨ (s.tenant r.tenant).level ≤ 0) →
    s.admissionChecks r = .error .budget) ∧
  (∀ (s : State) (r : Request), (s.part r.part).stopped = none → (s.tenant r.tenant).valid = true →
    (s.tenant r.tenant).partitions.testBit r.part = true → 0 < (s.tenant r.tenant).level → r.params.handle ≠ 0 →
    s.findHandle r.params.handle r.part r.tenant = none → s.admissionChecks r = .error .badHandle) ∧
  (∀ (s : State) (r : Request) (m : Model), (s.part r.part).stopped = none → (s.tenant r.tenant).valid = true →
    (s.tenant r.tenant).partitions.testBit r.part = true → 0 < (s.tenant r.tenant).level → r.params.handle = 0 → r.retr = none →
    (s.part r.part).target = some m → m.contextMax < r.prompt.length + (if 0 < r.params.maxTokens then 1 else 0) →
    s.admissionChecks r = .error .length) ∧
  (∀ (s : State) (p : Nat) (c : Cls) (r : Request) (st : Status), s.prior = none → p < 15 → s.edgeAt 2 = true → s.turnOf p c = some r →
    (c = .lc ∨ s.turnOf p .lc = none) → s.admissionChecks r = .error st →
    ∃ t, exec (.admission p c) s = .next t ∧ t.tenants = s.tenants ∧ t.handles = s.handles ∧
      (∀ x ∈ (t.part r.part).queue r.cls, ¬(x.tenant = r.tenant ∧ x.reqId = r.reqId)))

/-- With the beat's committed values in force. ADMISSION of a request without a handle and without retrieval that passes its checks, with
its pages and the decode reserve free: it takes the lowest free live sequence index, its pages leave the pool, its tenant is charged
INPUT_WEIGHT for each prompt token, and its input verdict is due by inputDue from its admission stamp (R199, R208, R209, R273).
JOIN_WAIT_EXPIRY: the head of an LC queue that has waited JOIN_WAIT_BT leaves it and is counted in NO_PAGES, nothing being charged (R200).
RESUMPTION, once an edge's admissions are done, of the sequence that resumes next: one whose cache is still bright drops its dim
record, one on the dim tier alone takes its pages and is fetched; neither is paused any longer by budget or pages (R196, R197, R201). -/
def Obligations.AdmissionOutcomes : Prop :=
  (∀ (s : State) (p k : Nat) (c : Cls) (r : Request) (j : Join), s.prior = none → p < 15 → r.part = p → p < s.parts.length → s.edgeAt 2 = true →
    s.turnOf p c = some r → (c = .lc ∨ s.turnOf p .lc = none) → s.admissionChecks r = .ok j → j.entry = none → j.fetch = 0 →
    r.retr = none → j.pages + (s.part p).decodeReserve ≤ (s.part p).poolFree → s.freeIndex = some k →
    ∃ t q, exec (.admission p c) s = .next t ∧ t.live k = some q ∧ q.req = r ∧ q.admitAt = s.stampFor 0 ∧ q.ended = none ∧
      q.committed = j.start ∧ q.released = false ∧ q.inDue = inputDue (s.part p).policy.dIn (screenedTokens r).length (s.stampFor 0) ∧
      (t.part p).poolFree = (s.part p).poolFree - j.pages ∧
      (t.tenant r.tenant).level =
        (s.tenant r.tenant).level - (((s.tenant r.tenant).inputWeight * (screenedTokens r).length : Nat) : Int) ∧
      t.time.edgePhase = 2 ∧ t.time.beat = s.time.beat ∧
      t.handles = s.handles ∧ t.rings = s.rings ∧ t.glob = s.glob ∧ t.objs = s.objs ∧ t.roles = s.roles ∧ t.pending = s.pending) ∧
  (∀ (s : State) (p b : Nat) (r : Request) (rest : List Request), s.prior = none → s.mgrUp = true → p < 15 → (s.part p).lcQueue = r :: rest →
    r.part = p → r.waitFrom = some b → b + (s.part p).joinWait ≤ s.time.beat →
    s.takesTurns p = true →
    ∃ t, exec (.joinWaitExpiry p) s = .next t ∧ t.cnt.noPages = s.cnt.noPages + 1 ∧ t.tenants = s.tenants ∧ t.handles = s.handles ∧
      (∀ x ∈ (t.part p).lcQueue, ¬(x.tenant = r.tenant ∧ x.reqId = r.reqId)) ∧ t.glob = s.glob ∧ t.pending = s.pending) ∧
  ((∀ (s : State) (p k : Nat) (q : Sequence), s.prior = none → p < 15 → s.edgeAt 3 = true → s.resumeNext p = some k → s.live k = some q →
    q.tier ≠ .dim →
    ∃ t, exec (.resumption p) s = .next t ∧ t.live k = some { q with
        pausedBudget := none, pausedPages := none, resumable := false, tier := .bright, dim := none } ∧
      (∀ j, j ≠ k → t.live j = s.live j) ∧ (t.part p).poolFree = (s.part p).poolFree ∧
      t = { s with time := t.time, parts := t.parts, seqs := t.seqs }) ∧
  (∀ (s : State) (p k : Nat) (q : Sequence), s.prior = none → p < 15 → p < s.parts.length → s.edgeAt 3 = true → s.resumeNext p = some k →
    s.live k = some q → q.tier = .dim → q.req.part = p →
    ∃ t q', exec (.resumption p) s = .next t ∧ t.live k = some q' ∧ q'.moving = some .fetch ∧ q'.pausedBudget = none ∧
      q'.pausedPages = none ∧ q'.committed = q.committed ∧
      (t.part p).poolFree = (s.part p).poolFree - s.brightNeed q ∧ t.tenants = s.tenants ∧ t.rings = s.rings ∧ t.pending = s.pending))

/-- HAND_OVER at a beat edge after the packing has ended, with the beat's committed values in force and room for the blocks it needs beside
the decode reserve (R255): the packed content is the sequence's packed prompt, its blocks' pages leave the pool, its tokens are charged
INPUT_WEIGHT each, and the plan is over. -/
def Obligations.HandOver : Prop :=
  ∀ (s : State) (k n : Nat) (q : Sequence) (pl : Plan), s.prior = none → s.live k = some q → q.plan = some pl → s.edgeAt 2 = true →
    packedBefore s.time.beat pl = true → q.ended = none → q.tier = .bright → q.moving = none →
    n = (handOverBlocks q pl).length * (s.part q.req.part).setPages q.speculate →
    (n = 0 ∨ n + (s.part q.req.part).decodeReserve ≤ (s.part q.req.part).poolFree) →
    ∃ t q', exec (.handOver k) s = .next t ∧ t.live k = some q' ∧ q'.packed = some pl.packed ∧ q'.awaitHandOver = false ∧
      q'.plan = none ∧ q'.inputTokens = q.inputTokens + pl.packed.length ∧ (∀ b ∈ handOverBlocks q pl, b ∈ q'.ownBlocks) ∧
      (t.part q.req.part).poolFree = (s.part q.req.part).poolFree - n ∧
      (t.tenant q.req.tenant).level =
        (s.tenant q.req.tenant).level - (((s.tenant q.req.tenant).inputWeight * pl.packed.length : Nat) : Int) ∧
      t.handles = s.handles ∧ t.glob = s.glob ∧ t.objs = s.objs ∧ t.roles = s.roles ∧ t.pending = s.pending

/-- COMPLETION_RECORD_WRITE of a sequence that has ended, with its held tokens gone, its pages back and its records covered by a write-back
(R219, R302): its completion record goes to its CMP ring, and it counts as recorded; where that ring is no enabled CMP ring, or the
sequence serves another block's query, there is no record and the live sequence index is free. While it has not ended, holds tokens, has
pages not back or records not covered, nothing changes. -/
def Obligations.CompletionRecords : Prop :=
  (∀ (s : State) (k : Nat) (q : Sequence), s.mgrUp = true → s.live k = some q → q.completes = true → q.inputMark = none →
    q.req.spanQuery = none → (s.ring q.req.cmpRing).enable = true → (s.ring q.req.cmpRing).kind = 1 →
    exec (.completionRecordWrite k) s = .next ((s.onLive k (fun q => { q with recorded := true })).sendRecord q.req.cmpRing
      { kind := .completion k, data := completionRecord q })) ∧
  (∀ (s : State) (k : Nat) (q : Sequence), s.mgrUp = true → s.live k = some q → q.completes = true → q.inputMark = none →
    (q.req.spanQuery ≠ none ∨ (s.ring q.req.cmpRing).enable = false ∨ (s.ring q.req.cmpRing).kind ≠ 1) →
    exec (.completionRecordWrite k) s = .next { s with seqs := aErase k s.seqs }) ∧
  (∀ (s : State) (k : Nat) (q : Sequence), s.live k = some q →
    (q.ended = none ∨ q.hold ≠ [] ∨ q.pagesBack = false ∨ q.backlog ≠ [] ∨ 0 < q.unwritten) →
    exec (.completionRecordWrite k) s = .next s)

/-- DIM_WRITE_COMPLETE, its requests answered: an entry is on both tiers, and so is a sequence, but one whose pages reclaim asked for is on
the dim tier alone and its pages return (R196, R200); a write that still waits for its step's commit point does not complete. DIM_FETCH_
COMPLETE, its requests answered and every frame read back that of the record: an entry is on both tiers, its LAST_TOKEN restored, a
sequence on the bright one with its record freed (R193, R196, R197); under an epoch whose key the block does not hold, or with a record
header of another magic, version, partition or record, it fails as a read-back does (R195). PARTIAL_BLOCK_COPY_COMPLETE: the keys and values of the entry's partial block are the sequence's
own, and the copy is no longer awaited (R187). DIM_READ_BACK_FAIL (R195): it is counted; the entry is gone and every sequence that uses it ends with SEAL_FAIL, or the
sequence itself does. -/
def Obligations.TierMovements : Prop :=
  ((∀ (s : State) (k : Nat) (h : Handle) (drop : Bool), s.mgrUp = true → s.entry k = some h → h.moving = some (.write drop) →
    s.dmaPending (.dimWrite (.entry k)) = false →
    exec (.dimWriteComplete (.entry k)) s = .next (s.onEntry k (fun h => { h with tier := .both, moving := none }))) ∧
  (∀ (s : State) (k : Nat) (q : Sequence), s.mgrUp = true → s.live k = some q → q.moving = some (.write false) →
    s.dmaPending (.dimWrite (.seq k)) = false → q.dimAsked = false →
    exec (.dimWriteComplete (.seq k)) s = .next (s.onLive k (fun q => { q with tier := .both, moving := none }))) ∧
  (∀ (s : State) (k : Nat) (q : Sequence), s.mgrUp = true → s.live k = some q → q.moving = some (.write true) →
    s.dmaPending (.dimWrite (.seq k)) = false → q.dimAsked = false →
    exec (.dimWriteComplete (.seq k)) s = .next ((s.returnPages q.req.part (s.seqPages q) s.edge).onLive k
      (fun q => { q with tier := .dim, moving := none, ownBlocks := [], map := q.map.filter (fun x => x.2.shared) }))) ∧
  (∀ (s : State) (k : Nat) (q : Sequence), s.live k = some q → q.dimAsked = true → exec (.dimWriteComplete (.seq k)) s = .next s) ∧
  (∀ (s : State) (r : DimRead), s.mgrUp = true → s.moveOf r.cache = some .fetch → s.dmaPending (.dimFetch r.cache) = false →
    (s.epochHeld r.cache = false ∨ bits 511 496 r.header ≠ 0x4B52 ∨ bits 495 488 r.header ≠ 3 ∨
      (∀ x, s.cacheOf r.cache = some x → bits 487 484 r.header ≠ x.1) ∨ s.readBackStands r = false) →
    exec (.dimFetchComplete r) s = .next (s.readBackFails r.cache s.edge)) ∧
  (∀ (s : State) (k : Nat) (h : Handle) (r : DimRead), s.mgrUp = true → s.entry k = some h → h.moving = some .fetch →
    s.dmaPending (.dimFetch (.entry k)) = false → r.cache = .entry k → s.readBackStands r = true →
    exec (.dimFetchComplete r) s = .next (s.onEntry k (fun h =>
      { h with tier := .both, moving := none, lastToken := bits 477 460 r.header }))) ∧
  (∀ (s : State) (k : Nat) (q : Sequence) (r : DimRead), s.mgrUp = true → s.live k = some q → q.moving = some .fetch →
    s.dmaPending (.dimFetch (.seq k)) = false → r.cache = .seq k → s.readBackStands r = true →
    exec (.dimFetchComplete r) s = .next (s.onLive k (fun q => { q with tier := .bright, moving := none, dim := none }))) ∧
  (∀ (s : State) (k : Nat) (q : Sequence), s.mgrUp = true → s.live k = some q → q.copyPending = true → s.entryBright q = true →
    exec (.partialBlockCopyComplete k) s = .next (s.onLive k (fun q => { q with
      kv := ((s.entryKv q).filter (fun e => q.start / 64 * 64 ≤ e.pos && e.pos < q.start)).foldl (fun l e => putKv e l) q.kv,
      copyPending := false })))) ∧
  (∀ (s : State) (cyc k : Nat) (h : Handle), s.mgrUp = true → s.entry k = some h → h.moving = some .fetch →
    ∃ t, exec (.dimReadBackFail cyc (.entry k)) s = .next t ∧ t.entry k = none ∧ t.cnt.dimSealFails = s.cnt.dimSealFails + 1 ∧
      (∀ i q, s.live i = some q → q.entry = some k → q.ended = none →
        ∃ q', t.live i = some q' ∧ q'.ended = some (.sealFail, s.stampFor cyc)) ∧
      t.glob = s.glob ∧ t.objs = s.objs ∧ t.roles = s.roles ∧ t.rings = s.rings ∧ t.pending = s.pending) ∧
  (∀ (s : State) (cyc k : Nat) (q : Sequence), s.mgrUp = true → s.live k = some q → q.moving = some .fetch → q.ended = none →
    ∃ t q', exec (.dimReadBackFail cyc (.seq k)) s = .next t ∧ t.live k = some q' ∧ q'.ended = some (.sealFail, s.stampFor cyc) ∧
      t.cnt.dimSealFails = s.cnt.dimSealFails + 1 ∧ t.glob = s.glob ∧ t.objs = s.objs ∧ t.roles = s.roles ∧ t.pending = s.pending)

/-! Queues, notices and rings. -/

/-- Host accesses to a segment's notice queue in a control cycle. QDATA_READ where no word was pushed in the cycle delivers the oldest word and its flags under the request's
tag; it reads 0 while the manager owns the queue; of an empty NORMAL queue it gives the last value with UNDERRUN; of an empty queue in
HOLD it stalls behind the reads that have stalled before (R288, R292, R402). With a push of the same cycle, both succeed on a queue that held words, and nothing is lost; an empty queue in HOLD
gives the pushed word, one in NORMAL underruns and keeps it (R289). HOLD_READ_TIMEOUT, HOLD_LIMIT_BT after the stall of the
read that has stalled longest: the last value goes to the port and tag the read came by, with UNDERRUN and HOLD_TIMEOUT (R288). QCONTROL_
WRITE flushes if asked, sets the mode, and takes both marks into their ranges for the cycle after (R292); QUEUE_FLUSH empties the queue
and counts no loss, and a word pushed in its cycle is the first word after it, torn (R287). QSTATUS_CLEAR clears latched bits where 1 is
written, unless a mark is crossed in the same cycle, whose bit stays (R290). NOTICE_DRAIN of the segment whose turn it is, with no
notice of its own latchings owed and no push in the cycle (R295): where no NTC ring exists a whole record leaves the queue, and is counted
in NOTICES_UNROUTED; a record of four words that one ring with room admits becomes four entries of it, being written. A push on any queue
with no pop in its cycle and no stalled read (R284, R285): with room the word stands last; on a full queue the oldest word is lost, the
count rises and saturates, and where the lost word did not end its record the next oldest carries TORN, its POISON as before. -/
def Obligations.NoticeQueues : Prop :=
  ((∀ (s u : State) (cyc i tag : Nat) (w : QWord) (rest : List QWord), s.segUp i = true → s.takesReq i tag = true → u = s.onCycle cyc →
    (s.seg i).nq.owner = true → (s.seg i).nq.words = w :: rest → (s.seg i).nq.quietAt u.now → (s.seg i).nq.answers = [] →
    ∃ t, exec (.qdataRead ⟨cyc, i, tag⟩) s = .next t ∧ (t.seg i).port.rspTag = tag ∧ (t.seg i).port.rspStatus = 0 ∧
      (t.seg i).port.rspData = w.data ∧ (t.seg i).port.busy = (s.seg i).port.busy ∧
      (t.seg i).nq.words = rest ∧ (t.seg i).nq.lastEor = w.eor ∧ (t.seg i).nq.lastTorn = w.torn ∧
      (t.seg i).nq.lastPoison = w.poison ∧ (t.seg i).nq.lastUnderrun = false ∧
      answersOnly { s.seg i with nq := (t.seg i).nq } (t.seg i) ∧ othersAnswered i s t ∧ t = { u with segs := t.segs }) ∧
  (∀ (s : State) (cyc i tag : Nat), s.segUp i = true → s.takesReq i tag = true → (s.seg i).nq.owner = false →
    exec (.qdataRead ⟨cyc, i, tag⟩) s = .next (((s.onCycle cyc).acceptReq i tag).respond i 0 0)) ∧
  (∀ (s u : State) (cyc i tag : Nat), s.segUp i = true → s.takesReq i tag = true → u = s.onCycle cyc → (s.seg i).nq.owner = true →
    (s.seg i).nq.words = [] → (s.seg i).nq.hold = false → (s.seg i).nq.quietAt u.now → (s.seg i).nq.answers = [] →
    ∃ t, exec (.qdataRead ⟨cyc, i, tag⟩) s = .next t ∧ (t.seg i).port.rspTag = tag ∧ (t.seg i).port.rspStatus = 0 ∧
      (t.seg i).port.rspData = (s.seg i).nq.lastData ∧
      (t.seg i).nq.words = [] ∧ (t.seg i).nq.underrun = true ∧ (t.seg i).nq.lastUnderrun = true ∧ (t.seg i).nq.lastTimeout = false ∧
      answersOnly { s.seg i with nq := (t.seg i).nq } (t.seg i) ∧ othersAnswered i s t ∧ t = { u with segs := t.segs }) ∧
  (∀ (s u : State) (cyc i tag : Nat), s.segUp i = true → s.takesReq i tag = true → u = s.onCycle cyc → (s.seg i).nq.owner = true →
    (s.seg i).nq.words = [] → (s.seg i).nq.hold = true → (s.seg i).nq.answers = [] → (s.seg i).nq.quietAt u.now →
    exec (.qdataRead ⟨cyc, i, tag⟩) s = .next ((u.acceptReq i tag).onSeg i (fun g => { g with nq := { g.nq with
      stalled := g.nq.stalled ++ [{ since := u.now, port := i, tag := tag }] } }))) ∧
  (∀ (s u : State) (cyc i tag : Nat) (m : PushMark), s.segUp i = true → s.takesReq i tag = true → u = s.onCycle cyc →
    (s.seg i).nq.owner = true → (s.seg i).nq.pushed = some m → m.stamp = u.now → (s.seg i).nq.answers = [] →
    ∃ t, exec (.qdataRead ⟨cyc, i, tag⟩) s = .next t ∧ (t.seg i).port.rspTag = tag ∧ (t.seg i).port.rspStatus = 0 ∧
      (∀ w rest, m.words = w :: rest → (t.seg i).port.rspData = w.data ∧ (t.seg i).nq.words = rest ++ [m.word] ∧
        (t.seg i).nq.lost = m.lost ∧ (t.seg i).nq.lastUnderrun = false) ∧
      (m.words = [] → (s.seg i).nq.hold = true → (t.seg i).port.rspData = m.word.data ∧ (t.seg i).nq.words = [] ∧
        (t.seg i).nq.lastUnderrun = false) ∧
      (m.words = [] → (s.seg i).nq.hold = false → (t.seg i).port.rspData = (s.seg i).nq.lastData ∧ (t.seg i).nq.words = [m.word] ∧
        (t.seg i).nq.lastUnderrun = true) ∧
      answersOnly { s.seg i with nq := (t.seg i).nq } (t.seg i) ∧ othersAnswered i s t ∧ t = { u with segs := t.segs }) ∧
  (∀ (s : State) (i : Nat) (x : StalledRead) (rest : List StalledRead), (s.seg i).nq.stalled = x :: rest → (s.seg i).nq.answers = [] →
    x.since.beat + s.glob.holdLimit ≤ s.time.beat →
    ∃ t, exec (.holdReadTimeout i) s = .next t ∧ (t.seg i).nq.stalled = rest ∧ (t.seg i).nq.underrun = true ∧
      (t.seg i).nq.lastTimeout = true ∧ (t.seg i).nq.lastUnderrun = true ∧ (t.seg i).nq.words = (s.seg i).nq.words ∧
      (s.hasSeg x.port = true → x.tag ∈ (s.seg x.port).port.busy → (t.seg x.port).port.rspTag = x.tag ∧
        (t.seg x.port).port.rspStatus = 0 ∧ (t.seg x.port).port.rspData = (s.seg i).nq.lastData ∧ x.tag ∉ (t.seg x.port).port.busy) ∧
      answersOnly { s.seg i with nq := (t.seg i).nq } (t.seg i) ∧ othersAnswered i s t ∧ t = { s with segs := t.segs }) ∧
  (∀ (s u : State) (cyc i tag word : Nat), s.segUp i = true → s.takesReq i tag = true → u = s.onCycle cyc → 1 ≤ (s.seg i).nq.cap →
    (s.seg i).nq.quietAt u.now → ((s.seg i).nq.stalled = [] ∨ (s.seg i).nq.words = []) →
    ∃ t h l, exec (.qcontrolWrite ⟨cyc, i, tag⟩ word) s = .next t ∧ (t.seg i).nq.hold = bit 0 word ∧
      (t.seg i).nq.newMarks = some (u.now, h, l) ∧ h = clampNat 1 (s.seg i).nq.cap (bits 58 48 word) ∧ l < h ∧
      (bits 42 32 word < h → bits 42 32 word < (s.seg i).nq.cap → l = bits 42 32 word) ∧
      ((s.seg i).nq.newMarks = none → (t.seg i).nq.high = (s.seg i).nq.high ∧ (t.seg i).nq.low = (s.seg i).nq.low) ∧
      (t.seg i).nq.words = (if bit 1 word then [] else (s.seg i).nq.words) ∧
      answersOnly { s.seg i with nq := (t.seg i).nq } (t.seg i) ∧ othersAnswered i s t ∧ t = { u with segs := t.segs }) ∧
  (∀ (s u : State) (cyc i tag : Nat), s.segUp i = true → s.takesReq i tag = true → u = s.onCycle cyc →
    ∃ t, exec (.queueFlush ⟨cyc, i, tag⟩) s = .next t ∧
      ((s.seg i).nq.quietAt u.now → (t.seg i).nq.words = [] ∧ (t.seg i).nq.tornNext = true ∧ (t.seg i).nq.lost = (s.seg i).nq.lost) ∧
      (∀ m, (s.seg i).nq.pushed = some m → m.stamp = u.now → ∃ w, (t.seg i).nq.words = [w] ∧ w.data = m.word.data ∧ w.torn = true ∧
        w.poison = false ∧ (t.seg i).nq.tornNext = false ∧ (t.seg i).nq.lost = m.lost) ∧
      answersOnly { s.seg i with nq := (t.seg i).nq } (t.seg i) ∧ othersAnswered i s t ∧ t = { u with segs := t.segs }) ∧
  (∀ (s u : State) (cyc i tag word : Nat), s.segUp i = true → s.takesReq i tag = true → u = s.onCycle cyc →
    ∃ t, exec (.qstatusClear ⟨cyc, i, tag⟩ word) s = .next t ∧
      (t.seg i).nq.lostLatched = ((s.seg i).nq.lostLatched && !bit 10 word) ∧
      (t.seg i).nq.underrun = ((s.seg i).nq.underrun && !bit 9 word) ∧
      ((∀ m, (s.seg i).nq.highAt = some m → m.stamp ≠ u.now) →
        (t.seg i).nq.highLatched = ((s.seg i).nq.highLatched && !bit 8 word)) ∧
      ((∀ m, (s.seg i).nq.lowAt = some m → m.stamp ≠ u.now) →
        (t.seg i).nq.lowLatched = ((s.seg i).nq.lowLatched && !bit 7 word)) ∧
      (∀ m, (s.seg i).nq.highAt = some m → m.stamp = u.now → (t.seg i).nq.highLatched = (s.seg i).nq.highLatched) ∧
      (∀ m, (s.seg i).nq.lowAt = some m → m.stamp = u.now → (t.seg i).nq.lowLatched = (s.seg i).nq.lowLatched) ∧
      (t.seg i).nq.words = (s.seg i).nq.words ∧
      answersOnly { s.seg i with nq := (t.seg i).nq } (t.seg i) ∧ othersAnswered i s t ∧ t = { u with segs := t.segs })) ∧
  ((∀ (s u : State) (cyc i : Nat), s.mgrUp = true → s.roles.recovering = none → s.roles.announce = false → s.owesNothing = true →
    u = s.onCycle cyc → u.drainTurn = some i → (s.seg i).nq.owe = [] → (s.seg i).nq.quietAt u.now → (s.seg i).nq.answers = [] →
    (∀ e ∈ s.rings, e.2.kind ≠ 3) →
    ∃ t, exec (.noticeDrain ⟨cyc, i⟩) s = .next t ∧
      (t.seg i).nq.words = ((s.seg i).nq.words.dropWhile (fun w => !w.eor)).drop 1 ∧
      t.cnt = { s.cnt with unrouted := s.cnt.unrouted + 1 } ∧ t.vectors = { s.vectors with drainLast := i } ∧
      t.seg i = { s.seg i with nq := (t.seg i).nq } ∧ othersKept i s t ∧
      t = { u with segs := t.segs, cnt := t.cnt, vectors := t.vectors }) ∧
  (∀ (s u : State) (cyc i n : Nat) (w0 w1 w2 w3 : QWord) (rest : List QWord), s.mgrUp = true → s.roles.recovering = none →
    s.roles.announce = false → s.owesNothing = true → u = s.onCycle cyc → u.drainTurn = some i → (s.seg i).nq.owe = [] →
    (s.seg i).nq.quietAt u.now → (s.seg i).nq.words = w0 :: w1 :: w2 :: w3 :: rest → w0.eor = false → w1.eor = false →
    w2.eor = false → w3.eor = true → s.admitting w0.data = [n] →
    (s.ring n).depth + (s.ring n).writing.length + 4 ≤ (s.ring n).entries →
    ∃ t, exec (.noticeDrain ⟨cyc, i⟩) s = .next t ∧ (t.seg i).nq.words = rest ∧ (t.ring n).words = (s.ring n).words + 4 ∧
      (t.ring n).writing.length = (s.ring n).writing.length + 4 ∧ (t.ring n).head = (s.ring n).head ∧ (t.ring n).tail = (s.ring n).tail ∧
      (∀ m, m ≠ n → t.ring m = s.ring m) ∧ t.cnt = s.cnt ∧ t.vectors = { s.vectors with drainLast := i } ∧
      t = { u with segs := t.segs, rings := t.rings, vectors := t.vectors })) ∧
  (∀ (a : Stamp) (q : WordQ) (d : Nat) (eor : Bool) (w : QWord), q.stalled = [] → (∀ m, q.popped = some m → m.stamp ≠ a) →
    w = { data := d % 2 ^ 64, eor := eor, torn := q.tornNext, p := parityOf (d % 2 ^ 64) eor q.tornNext } →
    (q.words.length < q.cap → (qPush a d eor q).words = q.words ++ [w] ∧ (qPush a d eor q).lost = q.lost ∧
      (qPush a d eor q).lostLatched = q.lostLatched) ∧
    (q.cap ≤ q.words.length → (qPush a d eor q).lost = min (q.lost + 1) (2 ^ 32 - 1) ∧ (qPush a d eor q).lostLatched = true ∧
      (∀ o rest, q.words = o :: rest → o.eor = true → (qPush a d eor q).words = rest ++ [w]) ∧
      (∀ o x rest, q.words = o :: x :: rest → o.eor = false →
        ∃ y, (qPush a d eor q).words = y :: (rest ++ [w]) ∧ y.data = x.data ∧ y.eor = x.eor ∧ y.torn = true ∧ y.poison = x.poison)))

/-- Ring doorbells (R298): a valid PRODUCE moves TAIL; a CONSUME within the depth moves HEAD; a CONSUME behind the HEAD of an NTC ring, within
its size, has no effect; RING_FLUSH empties an enabled NTC ring; a reserved OP, an invalid CONSUME or PRODUCE, and a FLUSH of another
kind of ring or of a disabled one are ignored, counted in DOORBELL_ERRORS and set DB_ERROR. In hush a PRODUCE is a wake event, 50 beats from its stamp's (R396). Other rings stand, and of segments only the manager's queue
and answers may change. Ring contexts (R297, R298): enabling a ring whose BASE, INDEX_WB and SIZE_LOG2 stand sets HEAD, TAIL and its
counters to 0; one whose fields do not stand is not enabled, and DB_ERROR is set; a ring in use is not disabled, with DB_ERROR set, and
one not in use is; what an index move of an earlier cycle still owed is raised first. Any other context write writes its word as
ringWrite says: BASE takes writes only while ENABLE is 0, a write of ENABLE 1 to an enabled ring resets nothing and applies the fields
not gated, and the words of indexes and counters take none. -/
def Obligations.Rings : Prop :=
  ((∀ (s : State) (cyc n index : Nat), s.takesDoorbell n = true → doorbellOk 1 index (s.ring n) = true →
    ∃ t, exec (.produce cyc n index) s = .next t ∧ (t.ring n).tail = index % 2 ^ 32 ∧ (t.ring n).head = (s.ring n).head % 2 ^ 32 ∧
      (t.ring n).dbErrors = (s.ring n).dbErrors ∧ (∀ m, m ≠ n → t.ring m = s.ring m) ∧
      t.power = (if s.power.hush = 1 then { s.power with hush := 2, wakeAt := (s.stampFor cyc).beat + 50 } else s.power) ∧
      answersOnly { s.seg s.mgr with nq := (t.seg s.mgr).nq } (t.seg s.mgr) ∧ othersAnswered s.mgr s t ∧
      t = { s with rings := t.rings, segs := t.segs, time := t.time, power := t.power }) ∧
  (∀ (s : State) (cyc n index : Nat), s.takesDoorbell n = true → (s.ring n).enable = true → (s.ring n).kind ≠ 0 →
    (index % 2 ^ 32 + 2 ^ 32 - (s.ring n).head) % 2 ^ 32 ≤ (s.ring n).depth →
    ∃ t, exec (.consume cyc n index) s = .next t ∧ (t.ring n).head = index % 2 ^ 32 ∧ (t.ring n).tail = (s.ring n).tail % 2 ^ 32 ∧
      (t.ring n).dbErrors = (s.ring n).dbErrors ∧ (∀ m, m ≠ n → t.ring m = s.ring m) ∧
      answersOnly { s.seg s.mgr with nq := (t.seg s.mgr).nq } (t.seg s.mgr) ∧ othersAnswered s.mgr s t ∧
      t = { s with rings := t.rings, segs := t.segs, time := t.time }) ∧
  (∀ (s : State) (cyc n index : Nat), s.takesDoorbell n = true → (s.ring n).enable = true → (s.ring n).kind = 3 →
    (s.ring n).depth < (index % 2 ^ 32 + 2 ^ 32 - (s.ring n).head) % 2 ^ 32 →
    ((s.ring n).head + 2 ^ 32 - index % 2 ^ 32) % 2 ^ 32 ≤ (s.ring n).entries →
    exec (.consume cyc n index) s = .next (s.given (s.stampFor cyc))) ∧
  (∀ (s : State) (cyc n : Nat), s.takesDoorbell n = true → (s.ring n).enable = true → (s.ring n).kind = 3 →
    ∃ t, exec (.ringFlush cyc n) s = .next t ∧ (t.ring n).head = (s.ring n).tail % 2 ^ 32 ∧ (t.ring n).tail = (s.ring n).tail % 2 ^ 32 ∧
      (t.ring n).tornNext = true ∧ (∀ m, m ≠ n → t.ring m = s.ring m) ∧
      answersOnly { s.seg s.mgr with nq := (t.seg s.mgr).nq } (t.seg s.mgr) ∧ othersAnswered s.mgr s t ∧
      t = { s with rings := t.rings, segs := t.segs, time := t.time }) ∧
  (∀ (s : State) (cyc n op index : Nat), s.takesDoorbell n = true → (op % 16 = 0 ∨ 4 ≤ op % 16) →
    exec (.doorbellReservedOp cyc n op index) s = .next ((s.given (s.stampFor cyc)).onRing n (fun r =>
      { r with dbErrors := (r.dbErrors + 1) % 2 ^ 32, dbError := true }))) ∧
  (∀ (s : State) (cyc n index : Nat), s.takesDoorbell n = true → doorbellOk 2 index (s.ring n) = false →
    exec (.consume cyc n index) s = .next ((s.given (s.stampFor cyc)).onRing n (fun r =>
      { r with dbErrors := (r.dbErrors + 1) % 2 ^ 32, dbError := true }))) ∧
  (∀ (s : State) (cyc n index : Nat), s.takesDoorbell n = true →
    ((s.ring n).enable = false ∨ (s.ring n).kind ≠ 0 ∨
      (s.ring n).entries - (s.ring n).depth < (index % 2 ^ 32 + 2 ^ 32 - (s.ring n).tail) % 2 ^ 32) →
    ((s.ring n).enable = false ∨ (s.ring n).kind ≠ 0 ∨ s.power.hush ≠ 1) →
    exec (.produce cyc n index) s = .next ((s.given (s.stampFor cyc)).onRing n (fun r =>
      { r with dbErrors := (r.dbErrors + 1) % 2 ^ 32, dbError := true }))) ∧
  (∀ (s : State) (cyc n : Nat), s.takesDoorbell n = true → ((s.ring n).enable = false ∨ (s.ring n).kind ≠ 3) →
    exec (.ringFlush cyc n) s = .next ((s.given (s.stampFor cyc)).onRing n (fun r =>
      { r with dbErrors := (r.dbErrors + 1) % 2 ^ 32, dbError := true })))) ∧
  ((∀ (s : State) (n word : Nat), s.takesContext n = true → (s.ring n).enable = false → bit 61 word = true →
    (s.ring n).base % 4096 = 0 → (s.ring n).indexWb % 8 = 0 → 6 ≤ bits 59 55 word → bits 59 55 word ≤ 20 →
    ∃ t, exec (.ringEnable n word) s = .next t ∧ (t.ring n).enable = true ∧ (t.ring n).kind = bits 63 62 word ∧
      (t.ring n).sizeLog2 = bits 59 55 word ∧ (t.ring n).base = (s.ring n).base ∧ (t.ring n).head = 0 ∧ (t.ring n).tail = 0 ∧
      (t.ring n).lost = 0 ∧ (t.ring n).dbErrors = 0 ∧ (t.ring n).highCross = 0 ∧ (t.ring n).lowCross = 0 ∧ (t.ring n).backlog = [] ∧
      (∀ m, m ≠ n → t.ring m = s.ring m) ∧ answersOnly { s.seg s.mgr with nq := (t.seg s.mgr).nq } (t.seg s.mgr) ∧
      othersAnswered s.mgr s t ∧ t = { s with rings := t.rings, segs := t.segs }) ∧
  (∀ (s : State) (n word : Nat), s.takesContext n = true → (s.ring n).enable = false → bit 61 word = true →
    ((s.ring n).base % 4096 ≠ 0 ∨ (s.ring n).indexWb % 8 ≠ 0 ∨ bits 59 55 word < 6 ∨ 20 < bits 59 55 word) →
    ∃ t, exec (.ringEnable n word) s = .next t ∧ t.ring n = { s.ring n with
        dbError := true, cyc := none, wbDue := (t.ring n).wbDue, raiseDue := (t.ring n).raiseDue } ∧
      (∀ m, m ≠ n → t.ring m = s.ring m) ∧ answersOnly { s.seg s.mgr with nq := (t.seg s.mgr).nq } (t.seg s.mgr) ∧
      othersAnswered s.mgr s t ∧ t = { s with rings := t.rings, segs := t.segs }) ∧
  (∀ (s : State) (n word : Nat), s.takesContext n = true → (s.ring n).enable = true → bit 61 word = false → s.ringInUse n = false →
    ∃ t, exec (.ringDisable n word) s = .next t ∧ (t.ring n).enable = false ∧ (t.ring n).base = (s.ring n).base ∧
      (t.ring n).head = (s.ring n).head ∧ (t.ring n).tail = (s.ring n).tail ∧ (∀ m, m ≠ n → t.ring m = s.ring m) ∧
      answersOnly { s.seg s.mgr with nq := (t.seg s.mgr).nq } (t.seg s.mgr) ∧ othersAnswered s.mgr s t ∧
      t = { s with rings := t.rings, segs := t.segs }) ∧
  (∀ (s : State) (n word : Nat), s.takesContext n = true → (s.ring n).enable = true → bit 61 word = false → s.ringInUse n = true →
    ∃ t, exec (.ringDisable n word) s = .next t ∧ t.ring n = { s.ring n with
        dbError := true, cyc := none, wbDue := (t.ring n).wbDue, raiseDue := (t.ring n).raiseDue } ∧
      (∀ m, m ≠ n → t.ring m = s.ring m) ∧ answersOnly { s.seg s.mgr with nq := (t.seg s.mgr).nq } (t.seg s.mgr) ∧
      othersAnswered s.mgr s t ∧ t = { s with rings := t.rings, segs := t.segs }) ∧
  (∀ (s : State) (n k word : Nat), s.takesContext n = true → k < 16 → (k = 13 → bit 61 word = (s.ring n).enable) →
    exec (.ringContextWrite n k word) s = .next ((s.ringTurn n).onRing n (ringWrite s.now k word))) ∧
  (∀ (a : Stamp) (r : Ring) (word : Nat), ringWrite a 15 word r = (if r.enable then r else { r with base := word % 2 ^ 64 }) ∧
    (r.enable = true → ringWrite a 13 word r =
      { r with evEnable := bit 60 word, vector := bits 54 44 word, modBt := bits 15 0 word }) ∧
    ringWrite a 12 word r =
      { r with pauseBt := clampNat 20 60000 (bits 63 48 word), kindMask := bits 47 32 word, partMask := bits 31 16 word } ∧
    (∀ k, k = 8 ∨ k = 9 ∨ k = 10 → ringWrite a k word r = r)))

/-- What rings do of themselves: an index write-back carries HEAD and TAIL as they stand, and asks one DMA write, once an earlier one has
its response (R299, R404); raises held back
make one pulse at the end of their interval; the vector that comes first in ascending number after the last one sent is sent (R417);
backlogged records are written in order while the ring has room (R302); a sequence whose oldest unwritten token has waited PAUSE_BT
pauses, its ring PAUSING (R303); a failed write is asked again of its channel from the next beat on, and a record's entry counts as being
written again (R405); a manager that has fenced itself asks no write of a host ring again (R365). -/
def Obligations.RingServices : Prop :=
  (∀ (s u : State) (n : Nat), u = s.closeRing n → s.mgrUp = true → (u.ring n).enable = true → (u.ring n).wbDue = true →
    s.tornPending n = false → s.backPending n = false → s.hasSeg (s.dmaSeg s.mgr) = true →
    ∃ t, exec (.indexWriteback n) s = .next t ∧ t.ring n = { u.ring n with wbDue := false, raiseDue := false, toCover := [] } ∧
      (∃ r ∈ (t.seg (s.dmaSeg s.mgr)).port.waiting ++ (t.seg (s.dmaSeg s.mgr)).port.issued,
        r.what = .writeBack n (u.ring n).raiseDue (u.ring n).toCover ∧ r.data = (s.ring n).head * 2 ^ 32 + (s.ring n).tail) ∧
      (∀ m, m ≠ n → t.ring m = s.ring m) ∧ othersKept (s.dmaSeg s.mgr) u t ∧ t = { u with rings := t.rings, segs := t.segs }) ∧
  (∀ (s : State) (n : Nat), s.backPending n = true → exec (.indexWriteback n) s = .next s) ∧
  (∀ (s : State) (n b : Nat), s.mgrUp = true → (s.ring n).heldRaise = true → (s.ring n).lastPulse = some b →
    b + (s.ring n).modBt ≤ s.time.beat →
    ∃ t, exec (.modIntervalEnd n) s = .next t ∧ t.ring n = { s.ring n with heldRaise := false, lastPulse := some s.time.beat } ∧
      t.vectors = { s.vectors with pending := insertNat (s.ring n).vector s.vectors.pending } ∧ (∀ m, m ≠ n → t.ring m = s.ring m) ∧
      t = { s with rings := t.rings, vectors := t.vectors }) ∧
  (∀ s : State, s.mgrUp = true → s.vectors.pending ≠ [] →
    ∃ t k, exec .eventVectorTransfer s = .next t ∧ k ∈ s.vectors.pending ∧
      t.vectors = { s.vectors with pending := s.vectors.pending.filter (· != k), lastSent := k, sent := s.vectors.sent + 1 } ∧
      (s.vectors.pending.Pairwise (· < ·) → ∀ j ∈ s.vectors.pending,
        (s.vectors.lastSent < j → s.vectors.lastSent < k ∧ k ≤ j) ∧ (k ≤ s.vectors.lastSent → k ≤ j)) ∧ t = { s with vectors := t.vectors }) ∧
  (∀ (s : State) (n k : Nat), s.mgrUp = true → (s.ring n).enable = true → (s.ring n).backlog ≠ [] → (s.ring n).hasRoom = true →
    k = (s.ring n).entries - ((s.ring n).depth + (s.ring n).writing.length) →
    ∃ t, exec (.ringBacklogWrite n) s = .next t ∧ (t.ring n).backlog = (s.ring n).backlog.drop k ∧
      (t.ring n).writing.length = (s.ring n).writing.length + min k (s.ring n).backlog.length ∧
      (t.ring n).head = (s.ring n).head ∧ (t.ring n).tail = (s.ring n).tail ∧ (∀ m, m ≠ n → t.ring m = s.ring m) ∧
      t = { s with rings := t.rings, segs := t.segs, seqs := t.seqs }) ∧
  (∀ (s : State) (k : Nat) (q : Sequence) (b : TokBack) (rest : List TokBack), s.mgrUp = true → s.live k = some q →
    q.backTokens = b :: rest → b.due.beat + (s.ring q.req.strRing).pauseBt ≤ s.time.beat → q.pausedRing = false →
    ∃ t, exec (.ringPause k) s = .next t ∧ t.live k = some { q with pausedRing := true } ∧ (∀ j, j ≠ k → t.live j = s.live j) ∧
      t.ring q.req.strRing = { s.ring q.req.strRing with pausing := true } ∧ (∀ m, m ≠ q.req.strRing → t.ring m = s.ring m) ∧
      t.cnt = { s.cnt with ringPauses := s.cnt.ringPauses + 1 } ∧ t = { s with seqs := t.seqs, rings := t.rings, cnt := t.cnt }) ∧
  (∀ (s : State) (i tag b : Nat) (r : DmaReq), failedWrite s.time.beat tag (s.seg i).port = some (b, r) →
    (r.what.ofRing = true → s.mgrAwake = true) →
    ∃ t, exec (.ringWriteRetry i tag) s = .next t ∧ (t.seg i).port.retry = (s.seg i).port.retry.filter (· != (b, r)) ∧
      (∃ x ∈ (t.seg i).port.waiting ++ (t.seg i).port.issued, x.what = r.what ∧ x.data = r.data) ∧
      (∀ n idx, r.what = .ringRecord n idx →
        (t.ring n).writing = (s.ring n).writing.map (fun w => if w.idx = idx then { w with failed := false } else w) ∧
        (∀ m, m ≠ n → t.ring m = s.ring m)) ∧
      ((∀ n idx, r.what ≠ .ringRecord n idx) → t.rings = s.rings) ∧ othersKept i s t ∧ t = { s with segs := t.segs, rings := t.rings }) ∧
  (∀ (s : State) (i tag b : Nat) (r : DmaReq), failedWrite s.time.beat tag (s.seg i).port = some (b, r) → r.what.ofRing = true →
    s.mgrAwake = false → exec (.ringWriteRetry i tag) s = .next s)

/-! Screening and retrieval. -/

/-- GROUP_CLOSE, with the beat's committed values in force, of a sequence with an open group whose oldest token came before the edge and is G
beats old: its open groups close at the edge (R274). SNARE_STREAM_START: the lowest free lane that the stream at the queue's head may take
has it (R267). SNARE_STREAM_END: the stream stands at the end of what the sequence has, and its lane is free; nothing held and no end of
the sequence changes. A stream that waits or steps already is queued no second time. SNARE_LANE_ERROR: the error, which names no step, is
counted (R354), and the stream restarts from its first unit on the lowest other free lane, or, with none free, at the head of its kind in
the queue, and is counted (R281). SNARE_MATCH_REPORT: each match of the output streams is noted at the held tokens that its span
covers, and every output stream is reported as far as it has been stepped (R275). -/
def Obligations.SnareStreams : Prop :=
  (∀ (s : State) (k : Nat) (q : Sequence) (g : Group), s.prior = none → s.mgrUp = true → s.live k = some q → g ∈ q.groups → g.closed = none →
    before g.first s.edge = true → g.first.beat + ((s.part q.req.part).policy.dOut - s.screenMin) ≤ s.time.beat →
    exec (.groupClose k) s = .next (s.onLive k (fun q =>
      { q with groups := q.groups.map (fun g => if g.closed.isNone then { g with closed := some s.edge } else g) }))) ∧
  (∀ (s : State) (i k : Nat) (j : SnareJob) (rest : List SnareJob), s.serving i = true → (s.seg i).stack.screenCopy = false →
    (s.seg i).snare.queue = j :: rest → k < 64 → j.avoid ≠ some k → (∀ l ∈ (s.seg i).snare.lanes, l.1 ≠ k) →
    (∀ m < k, j.avoid = some m ∨ ∃ l ∈ (s.seg i).snare.lanes, l.1 = m) →
    exec (.snareStreamStart i) s = .next (s.onSeg i (fun g =>
      { g with snare := { g.snare with queue := rest, lanes := aSet k j g.snare.lanes } }))) ∧
  (∀ (s : State) (i lane n : Nat) (j : SnareJob) (q : Sequence) (r : RuleSet) (a : Auto), aGet lane (s.seg i).snare.lanes = some j →
    s.live j.seq = some q → s.ruleSet j.slot = some r → q.autos.find? (fun a => a.slot == j.slot && a.out == j.out) = some a →
    n = (if j.out then s.outputUnits q r.plain else s.inputUnits q.req r.plain).length →
    ∃ t q', exec (.snareStreamEnd i lane) s = .next t ∧ (t.seg i).snare.lanes = aErase lane (s.seg i).snare.lanes ∧
      (t.seg i).snare.queue = (s.seg i).snare.queue ∧ t.live j.seq = some q' ∧
      (∀ b ∈ q'.autos, b.slot = j.slot → b.out = j.out → b.next = n) ∧ q'.hold = q.hold ∧ q'.ended = q.ended ∧
      t.seg i = { s.seg i with snare := (t.seg i).snare, cnt := (t.seg i).cnt } ∧ othersKept i s t ∧
      (∀ m, m ≠ j.seq → t.live m = s.live m) ∧ t = { s with segs := t.segs, seqs := t.seqs }) ∧
  (∀ (s : State) (i lane k : Nat) (j : SnareJob), aGet lane (s.seg i).snare.lanes = some j → k < 64 → k ≠ lane →
    (∀ l ∈ (s.seg i).snare.lanes, l.1 ≠ k) → (∀ m < k, m = lane ∨ ∃ l ∈ (s.seg i).snare.lanes, l.1 = m) →
    ∃ t, exec (.snareLaneError i lane) s = .next t ∧ 
      (t.seg i).snare.lanes = aSet k { j with avoid := some lane } (aErase lane (s.seg i).snare.lanes) ∧
      (t.seg i).snare.queue = (s.seg i).snare.queue ∧ (t.seg i).cnt = { (s.seg i).cnt with snareRestarts := (s.seg i).cnt.snareRestarts + 1 } ∧
      (∀ q', t.live j.seq = some q' → ∀ b ∈ q'.autos, b.slot = j.slot → b.out = j.out → b.next = 0 ∧ b.found = []) ∧
      (t.seg i).health = { (s.seg i).health with uncorrected := (s.seg i).health.uncorrected + 1 } ∧
      t.seg i = { s.seg i with snare := (t.seg i).snare, cnt := (t.seg i).cnt, health := (t.seg i).health } ∧ othersKept i s t ∧
      t = { s with segs := t.segs, seqs := t.seqs }) ∧
  (∀ (s : State) (i lane : Nat) (j : SnareJob), aGet lane (s.seg i).snare.lanes = some j →
    (∀ m < 64, m = lane ∨ ∃ l ∈ (s.seg i).snare.lanes, l.1 = m) →
    ∃ t, exec (.snareLaneError i lane) s = .next t ∧ (t.seg i).snare.lanes = aErase lane (s.seg i).snare.lanes ∧
      (j.out = true → (t.seg i).snare.queue = { j with avoid := some lane } :: (s.seg i).snare.queue) ∧
      (j.out = false → (t.seg i).snare.queue = (s.seg i).snare.queue.filter (·.out) ++ [{ j with avoid := some lane }] ++
        (s.seg i).snare.queue.filter (fun x => !x.out)) ∧
      (t.seg i).health = { (s.seg i).health with uncorrected := (s.seg i).health.uncorrected + 1 } ∧
      (t.seg i).cnt = { (s.seg i).cnt with snareRestarts := (s.seg i).cnt.snareRestarts + 1 } ∧
      othersKept i s t ∧ t = { s with segs := t.segs, seqs := t.seqs }) ∧
  (∀ (j x : SnareJob) (n : Snare), (x ∈ n.queue ∨ ∃ lane, (lane, x) ∈ n.lanes) → x.seq = j.seq → x.slot = j.slot → x.out = j.out →
    queueJob j n = n) ∧
  (∀ (s : State) (k : Nat) (q : Sequence), s.mgrUp = true → s.live k = some q →
    ∃ t q', exec (.snareMatchReport k) s = .next t ∧ t.live k = some q' ∧ q'.hold.map (·.idx) = q.hold.map (·.idx) ∧
      q'.hold.map (·.token) = q.hold.map (·.token) ∧ (∀ a ∈ q'.autos, a.out = true → a.found = [] ∧ a.reported = a.next) ∧
      (∀ a ∈ q.autos, a.out = true → ∀ m ∈ a.found, ∀ h ∈ q.hold, h.idx ≤ m.1 → m.1 < h.idx + m.2.1 →
        ∃ h' ∈ q'.hold, h'.idx = h.idx ∧ m.2.2 ∈ h'.found) ∧
      (∀ m, m ≠ k → t.live m = s.live m) ∧ t = { s with seqs := t.seqs, cnt := t.cnt })

/-- RELEASE of the earliest release stamp that has come, which is one sequence's (R279). Its input verdict: not ready, it is late and counted
(R280); ready and no BLOCK, of a request without a plan that generates, it is released with its MARK, and counted (R272, R273); a BLOCK
ends the request with SCREEN_BLOCK at that stamp with nothing held back; a request for results alone whose plan is over ends with OK, and
up to 4 references go to its STR ring, where that has room, as one result record with their scores (R256). Its held tokens, all that are due being ready and none late: those
due leave the hold buffer and count as delivered, none being stopped (R276); up to 18 of them, none redacted and no input mark to carry, go
to its STR ring, where that has room and nothing waits, as one stream record with its clear fields and its entries sealed (R227); a STOP on the first of them ends the sequence with
SCREEN_STOP at that stamp (R277). LATE_RELEASE with one late input verdict ready and no token late: it is released, and the beats by which it was late are
counted (R280). That a record is sealed by an AES-256-GCM of the model's is log entry 5. -/
def Obligations.Releases : Prop :=
  (∀ (s : State) (cyc k : Nat) (a : Stamp) (q : Sequence), s.mgrUp = true → (s.seqs.map (·.1)).Nodup →
    s.nextDue ⟨s.time.beat, cyc % 5000⟩ = some a → s.live k = some q → q.released = false → q.ended = none → q.verdict.late = false →
    q.inDue = a → (∀ e ∈ s.seqs, ∀ h ∈ e.2.hold, h.late = true ∨ h.due ≠ a) →
    (∀ e ∈ s.seqs, e.1 ≠ k → e.2.released = true ∨ e.2.ended.isSome = true ∨ e.2.verdict.late = true ∨ e.2.inDue ≠ a) →
    (s.inputReady q = false → ∃ t, exec (.release cyc) s = .next t ∧
      t.live k = some { q with verdict := { q.verdict with late := true } } ∧ t.cnt = { s.cnt with lateIn := s.cnt.lateIn + 1 } ∧
      (∀ m, m ≠ k → t.live m = s.live m) ∧ t = { s with seqs := t.seqs, cnt := t.cnt, time := t.time }) ∧
    (s.inputReady q = true → (s.inputVerdict q).1 ≠ 3 → q.plan = none → q.req.params.maxTokens ≠ 0 →
      ∃ t, exec (.release cyc) s = .next t ∧ t.live k = some { q with
          released := true, inputMark := if (s.inputVerdict q).1 = 1 then some (s.inputVerdict q).2 else none } ∧
        t.cnt.inputVerdicts = s.cnt.inputVerdicts + 1 ∧ (∀ m, m ≠ k → t.live m = s.live m) ∧
        t = { s with seqs := t.seqs, cnt := t.cnt, time := t.time }) ∧
    (∀ (pl : Plan) (r : Retr) (es : List Cand) (g : Ring), s.inputReady q = true → (s.inputVerdict q).1 ≠ 3 → q.plan = some pl →
      q.req.retr = some r → r.resultOnly = true → pl.endedAt.isSome = true → q.results = [] → es = (rerankOrder pl.cands).take r.resultN →
      1 ≤ es.length → es.length ≤ 4 → g = s.ring q.req.strRing → g.enable = true → g.kind = 2 → g.backlog = [] → g.hasRoom = true →
      ∃ t q' b clear box, exec (.release cyc) s = .next t ∧ t.live k = some q' ∧ q'.ended = some (.ok, a) ∧
        (t.ring q.req.strRing).writing = g.writing ++ [b] ∧
        clear = packMsb [(8, 0x11), (16, 0), (1, 0), (7, 0), (64, q.req.reqId), (64, a.beat), (32, q.recordSeq), (64, 0)] ∧
        box = Config.gcmSeal q.req.streamKey (nonceBytes (q.recordSeq % 2 ^ 32)) clear
          (packMsb [(8, es.length), (16, 0), (104, 0), (512, packEntries 128 4 (es.map (fun (x : Cand) =>
            packMsb [(64, x.ref), (32, (x.rescore.getD x.score).toNat), (1, flag x.rescore.isSome), (31, 0)])))]) ∧
        b.data = packMsb [(256, clear), (640, box.1), (128, box.2)]) ∧
    (s.inputReady q = true → (s.inputVerdict q).1 = 3 → ∃ t q', exec (.release cyc) s = .next t ∧ t.live k = some q' ∧
      q'.ended = some (.screenBlock, a) ∧ q'.hold = [] ∧ t.cnt.inputBlocks = s.cnt.inputBlocks + 1 ∧
      t.cnt.inputVerdicts = s.cnt.inputVerdicts + 1 ∧ t.glob = s.glob ∧ t.objs = s.objs ∧ t.rings = s.rings ∧ t.pending = s.pending)) ∧
  (∀ (s : State) (cyc k : Nat) (a : Stamp) (q : Sequence), s.mgrUp = true → (s.seqs.map (·.1)).Nodup →
    s.nextDue ⟨s.time.beat, cyc % 5000⟩ = some a → s.live k = some q → (q.hold.map (·.idx)).Nodup →
    (∀ e ∈ s.seqs, e.2.released = true ∨ e.2.ended.isSome = true ∨ e.2.verdict.late = true ∨ e.2.inDue ≠ a) →
    (∀ e ∈ s.seqs, e.1 ≠ k → ∀ h ∈ e.2.hold, h.late = true ∨ h.due ≠ a) → (∀ h ∈ q.hold, h.late = false) →
    (∀ h ∈ q.hold, h.due = a → s.heldReady q h = true) → (∃ h ∈ q.hold, h.due = a) →
    ((∀ h ∈ q.hold, h.due = a → worst h.found ≠ 3) → ∃ t q', exec (.release cyc) s = .next t ∧ t.live k = some q' ∧
      q'.hold = q.hold.filter (fun h => h.due != a) ∧
      q'.delivered = q.delivered + (q.hold.filter (fun h => h.due == a)).length ∧ q'.ended = q.ended ∧ q'.outputs = q.outputs ∧
      t.cnt.lateOut = s.cnt.lateOut ∧ t.tenants = s.tenants ∧ t.handles = s.handles ∧ t.parts = s.parts ∧ t.glob = s.glob ∧
      t.pending = s.pending) ∧
    (∀ (due : List Held) (g : Ring), due = q.hold.filter (fun h => h.due == a) → (∀ h ∈ due, worst h.found ≤ 1) → q.inputMark = none →
      due.length ≤ 18 → q.backlog = [] → g = s.ring q.req.strRing → g.enable = true → g.kind = 2 → g.backlog = [] → g.hasRoom = true →
      ∃ t b clear box, exec (.release cyc) s = .next t ∧ (t.ring q.req.strRing).writing = g.writing ++ [b] ∧
        clear = packMsb [(8, 0x10), (16, 0), (1, 0), (7, 0), (64, q.req.reqId), (64, a.beat), (32, q.recordSeq), (64, 0)] ∧
        box = Config.gcmSeal q.req.streamKey (nonceBytes (q.recordSeq % 2 ^ 32)) clear
          (packMsb [(8, due.length), (8, 0), (576, packEntries 32 18 (due.map (fun h =>
            packMsb [(1, flag (worst h.found == 1)), (1, 0), (12, if worst h.found = 1 then markTag h.found else 0), (18, h.token)]))),
            (48, 0)]) ∧
        b.data = packMsb [(256, clear), (640, box.1), (128, box.2)]) ∧
    (∀ h rest, q.hold = h :: rest → h.due = a → worst h.found = 3 → q.ended = none →
      ∃ t q', exec (.release cyc) s = .next t ∧ t.live k = some q' ∧ q'.ended = some (.screenStop, a) ∧ q'.hold = [] ∧
        t.cnt.outputStops = s.cnt.outputStops + 1 ∧ t.glob = s.glob ∧ t.objs = s.objs ∧ t.pending = s.pending)) ∧
  (∀ (s : State) (cyc k : Nat) (q : Sequence), s.mgrUp = true → (s.seqs.map (·.1)).Nodup → s.live k = some q → q.released = false →
    q.ended = none → q.verdict.late = true → s.inputReady q = true → (s.inputVerdict q).1 ≠ 3 → q.plan = none →
    q.req.params.maxTokens ≠ 0 → (∀ e ∈ s.seqs, ∀ h ∈ e.2.hold, h.late = false) →
    (∀ e ∈ s.seqs, e.1 ≠ k → e.2.verdict.late = false ∨ e.2.released = true ∨ e.2.ended.isSome = true ∨ s.inputReady e.2 = false) →
    ∃ t, exec (.lateRelease cyc) s = .next t ∧ t.live k = some { q with
        released := true, inputMark := if (s.inputVerdict q).1 = 1 then some (s.inputVerdict q).2 else none } ∧
      t.cnt.inputVerdicts = s.cnt.inputVerdicts + 1 ∧
      t.cnt.lateBeats = s.cnt.lateBeats + ((s.stampFor cyc).beat - q.inDue.beat) ∧ (∀ m, m ≠ k → t.live m = s.live m) ∧
      t = { s with seqs := t.seqs, cnt := t.cnt, time := t.time })

/-- PROBE_LIST_RECEIVE: the segment queues the query, and with the last segment the plan goes on to its scan (R240, R241).
SCAN_GROUP_START: the first eight queries of the queue form the group (R241), and its table loads count toward the window's share
(R244; which window an event falls in is log entry 45). SCAN_GROUP_END: each active member's heap of the segment is with its plan, and
the stall cycles and the group are counted (R244, R245). SCAN_HEAP_MERGE, every segment having reported: the SCAN_K best
are the candidates; with workers asked the span merge follows. SPAN_MERGE at its deadline: the merged list is the candidates', and a plan
for results alone that re-ranks none is done, its verdict not being released (R248). PASSAGE_FETCH_COMPLETE of a candidate whose reads are
over, while another is still fetched: a record that stands, of tokens in the vocabulary that fit the store, is stored; a DMA error, a tag
failure or a record that does not stand drops the candidate and is counted (R251). Of a passage that a worker was asked for: it takes its
place in the passage store and is answered in pieces, or as dropped where a record cannot be read or does not stand (R251; how long it
stays in the store is log entry 32). -/
def Obligations.RetrievalStages : Prop :=
  (∀ (s : State) (i k : Nat) (pl : Plan), s.planOf k = some pl → pl.stage = .probe → i ∈ s.partSegs pl.part → i ∉ pl.probed →
    s.serving i = true →
    ∃ t pl', exec (.probeListReceive i k) s = .next t ∧ t.planOf k = some pl' ∧ i ∈ pl'.probed ∧
      (pl'.stage = .scan ↔ ∀ j ∈ s.partSegs pl.part, j = i ∨ j ∈ pl.probed) ∧ k ∈ (t.seg i).scanQueue ∧
      t.seg i = { s.seg i with scanQueue := (t.seg i).scanQueue } ∧ othersKept i s t ∧ t = { s with segs := t.segs, seqs := t.seqs }) ∧
  (∀ (s : State) (i : Nat), s.serving i = true → (s.seg i).scanGroup = none → (s.seg i).scanQueue ≠ [] →
    ∃ t b, exec (.scanGroupStart i) s = .next t ∧
      (t.seg i).scanGroup = some { members := (s.seg i).scanQueue.take 8, beyond := b, inactive := [] } ∧
      (t.seg i).scanQueue = (s.seg i).scanQueue.drop 8 ∧
      ((∀ k ∈ (s.seg i).scanQueue.take 8, (s.planOf k).isSome = true) → (t.seg i).scanWin = s.scanWindow i ∧
        (t.seg i).scanSpent = s.scanUsed i (tableLoadBytes * min 8 (s.seg i).scanQueue.length)) ∧
      t.seg i = { s.seg i with scanGroup := (t.seg i).scanGroup, scanQueue := (t.seg i).scanQueue, scanWin := (t.seg i).scanWin,
                               scanSpent := (t.seg i).scanSpent } ∧ othersKept i s t ∧ t = { s with segs := t.segs }) ∧
  (∀ (s : State) (i window held idle : Nat) (g : ScanGroup), s.serving i = true → (s.seg i).scanGroup = some g →
    ∃ t, exec (.scanGroupEnd i ⟨window, held, idle⟩) s = .next t ∧ (t.seg i).scanGroup = none ∧
      (t.seg i).cnt.scanHeld = (s.seg i).cnt.scanHeld + held ∧ t.cnt = { s.cnt with scanGroups := s.cnt.scanGroups + 1 } ∧
      (∀ k ∈ g.members, k ∉ g.inactive → ∀ pl, s.planOf k = some pl →
        ∃ pl', t.planOf k = some pl' ∧ aGet i pl'.segLists = some (s.segHeap i k)) ∧
      t.seg i = { s.seg i with scanGroup := none, cnt := (t.seg i).cnt, lutUsed := (t.seg i).lutUsed, scanWin := (t.seg i).scanWin,
                               scanSpent := (t.seg i).scanSpent } ∧ othersKept i s t ∧
      t = { s with segs := t.segs, seqs := t.seqs, cnt := t.cnt }) ∧
  (∀ (s : State) (k : Nat) (pl : Plan) (r : Retr), s.mgrUp = true → s.planOf k = some pl → s.retrOf k = some r → pl.stage = .scan →
    (∀ i ∈ s.partSegs pl.part, (aGet i pl.segLists).isSome = true) → pl.asked ≠ [] →
    ∃ t, exec (.scanHeapMerge k) s = .next t ∧ t.planOf k = some { pl with
        cands := mergedCands r.scanK pl.lutScale pl.segLists, segLists := [], stage := .spanWait } ∧
      (∀ m, m ≠ k → t.live m = s.live m) ∧ t = { s with seqs := t.seqs }) ∧
  (∀ (s : State) (k : Nat) (pl : Plan) (r : Retr) (q : Sequence), s.mgrUp = true → s.live k = some q → q.plan = some pl →
    q.req.retr = some r → pl.stage = .spanWait → pl.deadline ≤ s.time.beat → q.req.spanQuery = none → r.resultOnly = true →
    r.rerankN = 0 → q.released = false →
    ∃ t pl', exec (.spanMerge k) s = .next t ∧ t.planOf k = some pl' ∧ pl'.stage = .done ∧ pl'.spanList = [] ∧
      pl'.cands.map (·.ref) = (s.spanMerged r.scanK pl).map (·.ref) ∧ pl'.cands.map (·.score) = (s.spanMerged r.scanK pl).map (·.score) ∧
      (∀ m, m ≠ k → t.live m = s.live m) ∧ t = { s with seqs := t.seqs, segs := t.segs, time := t.time }) ∧
  (∀ (s : State) (k place j : Nat) (pl : Plan) (r : Retr) (q : Sequence) (c d : Cand) (tokens : List Nat) (header : Nat), s.mgrUp = true →
    s.live k = some q → q.plan = some pl → q.req.retr = some r → pl.stage = .fetch → pl.cands[place]? = some c → c.state = .waiting →
    place < fetchCount r → s.passagePending pl.tag place = false → j ≠ place → j < fetchCount r → pl.cands[j]? = some d → d.state = .waiting →
    (∀ g e, s.region c.ref = some g → c.entry = some e → s.recordStands g c.ref e header tokens = true →
      (∀ w ∈ tokens, w < s.passageVocab q pl) → s.storeFits (s.placeSeg pl.part place) (4 * tokens.length) = true →
      s.hasSeg (s.placeSeg pl.part place) = true →
      ∃ t pl', exec (.passageFetchComplete (.cand k) place (.opened header tokens)) s = .next t ∧ t.planOf k = some pl' ∧
        pl'.cands[place]? = some { c with state := .stored, tokens := tokens } ∧ pl'.stage = .fetch ∧
        (t.seg (s.placeSeg pl.part place)).passageUsed = (s.seg (s.placeSeg pl.part place)).passageUsed + 4 * tokens.length ∧
        t = { s with seqs := t.seqs, segs := t.segs }) ∧
    (∀ result : FetchResult, (result = .dmaError ∨ result = .tagFail ∨ (result = .opened header tokens ∧
        ∀ g e, s.region c.ref = some g → c.entry = some e → s.recordStands g c.ref e header tokens = false)) →
      ∃ t pl', exec (.passageFetchComplete (.cand k) place result) s = .next t ∧ t.planOf k = some pl' ∧
        pl'.cands[place]? = some { c with state := .dropped } ∧ t.cnt = { s.cnt with fetchFails := s.cnt.fetchFails + 1 } ∧
        t = { s with seqs := t.seqs, cnt := t.cnt })) ∧
  (∀ (s : State) (id : Nat) (a : SpanAsk), s.span.asks.find? (fun x => x.id == id && x.sent.isNone) = some a →
    s.dmaPending (.askDirectory id) = false → s.dmaPending (.askPassage id) = false →
    (∀ g e header tokens, s.region a.ref = some g → a.entry = some e → s.recordStands g a.ref e header tokens = true →
      (∀ v, s.workerVocab = some v → ∀ w ∈ tokens, w < v) → s.storeFits a.seg (4 * tokens.length) = true →
      s.hasSeg a.seg = true →
      ∃ t seq, exec (.passageFetchComplete (.ask id) 0 (.opened header tokens)) s = .next t ∧
        (t.seg a.seg).passageUsed = (s.seg a.seg).passageUsed + 4 * tokens.length ∧
        t.span.asks = s.span.asks.map (fun (x : SpanAsk) => if x.id == a.id then { x with sent := some seq, bytes := 4 * tokens.length } else x) ∧
        t = { (s.onSeg a.seg (fun g => { g with passageUsed := g.passageUsed + 4 * tokens.length })).spanSendAll a.session 0x06
            (pieceRecords a.ref a.tag (pieceTokens s.glob.spanMtu) (tokens.length + 1) 0 tokens) with span := t.span }) ∧
    (∀ result : FetchResult, (result = .dmaError ∨ result = .tagFail ∨ ∃ header tokens, result = .opened header tokens ∧
        ∀ g e, s.region a.ref = some g → a.entry = some e → s.recordStands g a.ref e header tokens = false) →
      exec (.passageFetchComplete (.ask id) 0 result) s = .next ((s.askDone a).refusePassage a.session a.ref a.tag)))

/-! Object access. -/

/-- READ (R308, R315 to R318), where u is the state in which the message has been taken from its path and no transfer, open or ended, has
its TRANSFER. A read that the dictionary bars answers its abort code. An entry of up to 4 bytes answers with its value. A longer one
opens a transfer and answers its length. An INDIRECT one at the object window or the ring pair opens a transfer whose bytes the manager
writes to the buffer, one at another path answers ACCESS, and one into a buffer smaller than the value answers LENGTH. Where no live
manager can be reached, a target answers UNREACHABLE but for reads of its own copies (R310). SEGMENT_REQUEST: the next 48 bytes of the
transfer with the request's TOGGLE, the transfer being over with the last of them; a repeat of the TOGGLE last accepted is answered again
with the bytes sent last, and a repeat of the last one of an ended transfer with its last answer; a request that names no transfer, or one
of another principal, answers TRANSFER (R316, R318, R338). -/
def Obligations.ObjectReads : Prop :=
  ((∀ (s u : State) (cyc : Nat) (p : Path) (h : OamHead) (b room code : Nat), s.arrives p (readWords h b room) = true →
    s.reaches_ p.ep = true → u = (s.takeIn p.ep (readWords h b room)).forget p.ep h.transfer → u.transfer p.ep h.transfer = none →
    u.readBar (u.principal p) h.index h.sub = some code →
    exec (.read cyc p h b room) s = .next (u.send p.ep (abortWords h code))) ∧
  (∀ (s u : State) (cyc : Nat) (p : Path) (h : OamHead) (b room : Nat) (o : Obj) (v : List Nat),
    s.arrives p (readWords h b room) = true → (s.reaches_ p.ep = true ∨ s.servedAlone p.ep h.index = true) →
    u = (s.takeIn p.ep (readWords h b room)).forget p.ep h.transfer → u.transfer p.ep h.transfer = none →
    u.readBar (u.principal p) h.index h.sub = none → u.object (u.principal p) h.index h.sub = some o →
    v = u.readValue (u.principal p) h → (u.ep p.ep).transfers.length < 4 →
    (h.indirect = false → o.shape.expedited = true → exec (.read cyc p h b room) s = .next (u.send p.ep (expeditedWords h v))) ∧
    (h.indirect = false → o.shape.expedited = false → v ≠ [] →
      exec (.read cyc p h b room) s = .next ((u.onEp p.ep (fun x => { x with transfers := x.transfers ++
        [{ id := h.transfer, index := h.index, sub := h.sub, principal := u.principal p, data := v, total := v.length,
           alone := !u.reaches_ p.ep, lastBeat := u.time.beat }] })).send p.ep (initiateWords h false v.length))) ∧
    (h.indirect = true → (p.ep = .window ∨ p.ep = .ringPair) → v ≠ [] → v.length ≤ room →
      exec (.read cyc p h b room) s = .next ((u.onEp p.ep (fun x => { x with transfers := x.transfers ++
        [{ id := h.transfer, index := h.index, sub := h.sub, principal := u.principal p, data := v, total := v.length,
           alone := !u.reaches_ p.ep, indirect := some b, lastBeat := u.time.beat }] })).dma u.mgr
        (dmaReq true b v.length 3 (.indirect p.ep h.transfer) (ofBytesLe v)))) ∧
    (h.indirect = true → p.ep ≠ .window → p.ep ≠ .ringPair →
      exec (.read cyc p h b room) s = .next (u.send p.ep (abortWords h (abortCode 2 0)))) ∧
    (h.indirect = true → (p.ep = .window ∨ p.ep = .ringPair) → room < v.length →
      exec (.read cyc p h b room) s = .next (u.send p.ep (abortWords h (abortCode 4 0))))) ∧
  (∀ (s : State) (cyc : Nat) (p : Path) (h : OamHead) (b room : Nat), s.arrives p (readWords h b room) = true →
    s.reaches_ p.ep = false → s.servedAlone p.ep h.index = false →
    exec (.read cyc p h b room) s = .next ((s.takeIn p.ep (readWords h b room)).send p.ep (abortWords h (abortCode 0xE 0))))) ∧
  (∀ (s u : State) (cyc : Nat) (p : Path) (h : OamHead), s.arrives p (requestWords h) = true →
    (s.reaches_ p.ep = true ∨ s.ofAlone p.ep h = true) → u = s.takeIn p.ep (requestWords h) →
    (∀ (t : Transfer) (data : List Nat), u.transfer p.ep h.transfer = some t → t.principal = u.principal p → t.write = false → t.indirect = none → h.toggle = t.toggle →
      data = (t.data.drop t.moved).take 48 →
      (t.moved + data.length < t.total →
        exec (.segmentRequest cyc p h) s = .next ((u.onTransfer p.ep t.id (fun x => { x with
          moved := t.moved + data.length, toggle := !x.toggle, lastBeat := u.time.beat })).send p.ep
          (segmentWords h h.toggle false t.moved data))) ∧
      (t.total ≤ t.moved + data.length →
        exec (.segmentRequest cyc p h) s = .next (u.finish p.ep t h.toggle (segmentWords h h.toggle true t.moved data)))) ∧
    (∀ (t : Transfer) (n : Nat), u.transfer p.ep h.transfer = some t → t.principal = u.principal p → t.write = false → t.indirect = none → h.toggle ≠ t.toggle →
      t.moved = 48 * (n + 1) →
      exec (.segmentRequest cyc p h) s = .next ((u.onTransfer p.ep t.id (fun x => { x with lastBeat := u.time.beat })).send p.ep
        (segmentWords h h.toggle false (48 * n) ((t.data.drop (48 * n)).take 48)))) ∧
    (∀ d : DoneTransfer, u.transferOf p h.transfer = none →
      (u.ep p.ep).ended.find? (fun d => d.id == h.transfer && d.principal == u.principal p && d.write == false && d.toggle == h.toggle) = some d →
      exec (.segmentRequest cyc p h) s = .next (u.send p.ep d.reply)) ∧
    ((u.transfer p.ep h.transfer).all (fun t => t.principal != u.principal p) = true →
      (∀ d ∈ (u.ep p.ep).ended, d.id ≠ h.transfer ∨ d.principal ≠ u.principal p) →
      exec (.segmentRequest cyc p h) s = .next (u.send p.ep (abortWords h (abortCode 6 0)))))

/-- WRITE_EXPEDITED (R308, R315, R320), where u is the state in which the write has been taken from its path at its stamp: a barred write
answers its abort code; a staged entry of the size that SIZE gives is staged and acknowledged; a SIZE that is not the entry's answers
LENGTH. WRITE_INITIATE of an entry that is transferred segmented opens a transfer and is acknowledged (R316); an INDIRECT one at the
object window or the ring pair opens a transfer whose bytes the manager fetches from the source, and one at another path answers ACCESS
(R317). SEGMENT, in byte order: its bytes are added and it is acknowledged with its TOGGLE; the one that carries LAST stages the whole
value of a staged entry and ends the transfer, and of a load point leaves the load to be performed; a total that differs from the bytes
sent answers LENGTH; a repeat of the TOGGLE last accepted is acknowledged again and adds nothing, and one of the last SEGMENT of an ended
transfer is answered as that was; one that names no transfer, or one of another principal, answers TRANSFER (R316, R318, R338). -/
def Obligations.ObjectWrites : Prop :=
  ((∀ (s u : State) (cyc : Nat) (p : Path) (h : OamHead) (data code : Nat), s.writeComes p h data → u = s.writeTaken cyc p h data →
    u.writeBar (u.principal p) h.index h.sub = some code →
    exec (.writeExpedited cyc p h data) s = .next (u.send p.ep (abortWords h code))) ∧
  (∀ (s u : State) (cyc : Nat) (p : Path) (h : OamHead) (data : Nat) (o : Obj), s.writeComes p h data →
    u = s.writeTaken cyc p h data → u.writeBar (u.principal p) h.index h.sub = none →
    u.object (u.principal p) h.index h.sub = some o →
    (o.access = .rws → o.shape.size = some (h.size + 1) →
      exec (.writeExpedited cyc p h data) s = .next ((u.stage (u.principal p) h.index h.sub
        (bytesLe (h.size + 1) (data % 2 ^ 32 % 2 ^ (8 * (h.size + 1))))).send p.ep (ackWords h 0))) ∧
    (∀ n, o.shape.size = some n → n ≠ h.size + 1 →
      exec (.writeExpedited cyc p h data) s = .next (u.send p.ep (abortWords h (abortCode 4 0)))))) ∧
  (∀ (s u : State) (cyc : Nat) (p : Path) (h : OamHead) (total source : Nat) (o : Obj),
    s.arrives p (writeInitWords h total source) = true → s.reaches_ p.ep = true →
    u = (s.takeIn p.ep (writeInitWords h total source)).forget p.ep h.transfer →
    u.transfer p.ep h.transfer = none → u.writeBar (u.principal p) h.index h.sub = none →
    u.object (u.principal p) h.index h.sub = some o → o.shape.expedited = false → u.power.hush = 0 → (u.ep p.ep).transfers.length < 4 →
    (h.indirect = false → total % 2 ^ 64 ≤ 2 ^ 24 →
      exec (.writeInitiate cyc p h total source) s = .next ((u.onEp p.ep (fun x => { x with transfers := x.transfers ++
        [{ id := h.transfer, index := h.index, sub := h.sub, write := true, principal := u.principal p, total := total % 2 ^ 64,
           lastBeat := u.time.beat }] })).send p.ep (ackWords h 0))) ∧
    (h.indirect = true → (p.ep = .window ∨ p.ep = .ringPair) → total % 2 ^ 64 ≤ 2 ^ 40 → total % 2 ^ 64 ≠ 0 →
      exec (.writeInitiate cyc p h total source) s = .next ((u.onEp p.ep (fun x => { x with transfers := x.transfers ++
        [{ id := h.transfer, index := h.index, sub := h.sub, write := true, principal := u.principal p, total := total % 2 ^ 64,
           indirect := some (source % 2 ^ 64), lastBeat := u.time.beat }] })).dma u.mgr
        (dmaReq false (source % 2 ^ 64) (total % 2 ^ 64) 3 (.indirect p.ep h.transfer) 0))) ∧
    (h.indirect = true → p.ep ≠ .window → p.ep ≠ .ringPair →
      exec (.writeInitiate cyc p h total source) s = .next (u.send p.ep (abortWords h (abortCode 2 0))))) ∧
  (∀ (s u : State) (cyc : Nat) (p : Path) (h : OamHead) (offset : Nat) (data : List Nat), s.arrives p (clientSegment h offset data) = true →
    s.reaches_ p.ep = true → h.count = data.length → 1 ≤ data.length → data.length ≤ 48 →
    u = (if h.last then (s.takeIn p.ep (clientSegment h offset data)).given ((s.takeIn p.ep (clientSegment h offset data)).stampFor cyc)
         else s.takeIn p.ep (clientSegment h offset data)) →
    (∀ t : Transfer, u.transfer p.ep h.transfer = some t → t.principal = u.principal p → t.write = true → t.indirect = none → t.whole = false → h.toggle = t.toggle →
      offset % 2 ^ 32 = t.moved → t.moved + data.length ≤ t.total →
      (h.last = false → exec (.segment cyc p h offset data) s = .next ((u.onTransfer p.ep t.id (fun x => { x with
          data := t.data ++ data, moved := t.moved + data.length, toggle := !t.toggle, lastBeat := u.time.beat })).send p.ep
          (ackWords h 0))) ∧
      (∀ o, h.last = true → t.moved + data.length = t.total → u.object t.principal t.index t.sub = some o →
        sizeBroken o t.index t.sub t.total = false →
        (o.access = .rws → exec (.segment cyc p h offset data) s = .next ((u.stage t.principal t.index t.sub (t.data ++ data)).finish
            p.ep t h.toggle (ackWords { t.head with toggle := h.toggle } 0))) ∧
        (o.access ≠ .rws → exec (.segment cyc p h offset data) s = .next (u.onTransfer p.ep t.id (fun x => { x with
            whole := true, toggle := h.toggle, moved := t.total, data := t.data ++ data })))) ∧
      (∀ o, h.last = true → t.moved + data.length ≠ t.total → u.object t.principal t.index t.sub = some o →
        exec (.segment cyc p h offset data) s = .next (u.finish p.ep t h.toggle (abortWords t.head (abortCode 4 0))))) ∧
    (∀ t : Transfer, u.transfer p.ep h.transfer = some t → t.principal = u.principal p → t.write = true → t.indirect = none → t.whole = false → h.toggle ≠ t.toggle →
      t.moved ≠ 0 → exec (.segment cyc p h offset data) s = .next
        ((u.onTransfer p.ep t.id (fun x => { x with lastBeat := u.time.beat })).send p.ep (ackWords h 0))) ∧
    (∀ d : DoneTransfer, u.transferOf p h.transfer = none →
      (u.ep p.ep).ended.find? (fun d => d.id == h.transfer && d.principal == u.principal p && d.write == true && d.toggle == h.toggle) = some d →
      exec (.segment cyc p h offset data) s = .next (u.send p.ep d.reply)) ∧
    ((u.transfer p.ep h.transfer).all (fun t => t.principal != u.principal p) = true →
      (∀ d ∈ (u.ep p.ep).ended, d.id ≠ h.transfer ∨ d.principal ≠ u.principal p) →
      exec (.segment cyc p h offset data) s = .next (u.send p.ep (abortWords h (abortCode 6 0)))))

/-- ABORT on a path that reaches a live manager closes its transfer, unanswered, and leaves another principal's (R318, R338); where none can be reached it answers UNREACHABLE,
but for a read that the target serves itself, which it closes (R310). OAM_RESERVED_CMD: a CMD that a client may not send answers COMMAND,
and OAM_DISCARD: a message whose length or words do not stand is counted and answers COMMAND where its header stood; both answer
UNREACHABLE where no live manager can be reached (R310, R313, R314). TRANSFER_TIMEOUT: a transfer idle for 4,000 beats is closed and
answers TIMEOUT (R318). INDIRECT_TRANSFER_COMPLETE: a transfer whose DMA failed answers DMA; a read answers READ_INITIATE with LAST 1;
the bytes fetched of a staged entry are staged and acknowledged; those of a load point are left to its load (R317). OW_PUSH and
OW_PUSH_LAST into a window queue 1 that is not full, of which no read is stalled: the word stands last in it, with EOR 0 and 1 (R311). -/
def Obligations.ObjectEnds : Prop :=
  ((∀ (s u : State) (cyc : Nat) (p : Path) (h : OamHead) (code : Nat), s.arrives p [oamWord 7 h, code % 2 ^ 32] = true →
    u = s.takeIn p.ep [oamWord 7 h, code % 2 ^ 32] →
    ((s.reaches_ p.ep = true ∨ s.ofAlone p.ep h = true) →
      ((∀ t, u.transfer p.ep h.transfer = some t → t.principal = u.principal p) →
        exec (.abort cyc p h code) s = .next ((u.closeTransfer p.ep h.transfer).forget p.ep h.transfer)) ∧
      ((∃ t, u.transfer p.ep h.transfer = some t ∧ t.principal ≠ u.principal p) → exec (.abort cyc p h code) s = .next u)) ∧
    (s.reaches_ p.ep = false → s.ofAlone p.ep h = false →
      exec (.abort cyc p h code) s = .next (u.send p.ep (abortWords h (abortCode 0xE 0))))) ∧
  (∀ (s u : State) (cyc : Nat) (p : Path) (h : OamHead), s.pathOpen p.ep = true → s.epTurn p.ep = true → s.pathStands p = true →
    (p.ep ≠ .window ∨ s.barredNext h = true) → u = (s.onCycle cyc).takeIn p.ep [oamWord 0 h] →
    exec (.oamReservedCmd ⟨cyc, p⟩ h) s = .next (u.send p.ep (abortWords h (if u.reaches_ p.ep then abortCode 5 0 else abortCode 0xE 0)))) ∧
  (∀ (s u : State) (cyc : Nat) (p : Path) (h : OamHead) (good : Bool), s.pathOpen p.ep = true → s.epTurn p.ep = true →
    s.pathStands p = true → (p.ep ≠ .window ∨ s.discardNext h good = true) →
    u = ((s.onCycle cyc).takeIn p.ep [oamWord 0 h]).count (fun c => { c with oamDiscards := c.oamDiscards + 1 }) →
    exec (.oamDiscard ⟨cyc, p⟩ h good) s = .next (if good then
      u.send p.ep (abortWords h (if u.reaches_ p.ep then abortCode 5 0 else abortCode 0xE 0)) else u))) ∧
  ((∀ (s : State) (e : Endpoint) (id : Nat) (t : Transfer), s.farPath e = false → (s.mgrUp = true ∨ t.alone = true) →
    s.transfer e id = some t → t.indirect = none → t.whole = false → t.lastBeat + 4000 ≤ s.time.beat →
    exec (.transferTimeout e id) s = .next ((s.closeTransfer e id).send e (abortWords t.head (abortCode 8 0)))) ∧
  (∀ (s u : State) (cyc : Nat) (e : Endpoint) (id : Nat) (t : Transfer) (data : List Nat), s.farPath e = false → s.mgrUp = true →
    s.transfer e id = some t → t.indirect.isSome = true → t.whole = false → s.indirectBusy e id = false →
    u = s.given (s.stampFor cyc) →
    (t.failed = true → exec (.indirectTransferComplete cyc e id true data) s = .next
      ((u.closeTransfer e t.id).send e (abortWords t.head (abortCode 0xF 0)))) ∧
    (t.failed = false → t.write = false → exec (.indirectTransferComplete cyc e id false data) s = .next
      ((u.closeTransfer e t.id).send e (initiateWords t.head true t.total))) ∧
    (∀ o, t.failed = false → t.write = true → s.object t.principal t.index t.sub = some o →
      u.object t.principal t.index t.sub = some o → sizeBroken o t.index t.sub t.total = false →
      (o.access = .rws → data.length = t.total → exec (.indirectTransferComplete cyc e id false data) s = .next
        ((u.stage t.principal t.index t.sub data).finish e t false (ackWords { t.head with toggle := false } 0))) ∧
      (o.access = .wo → exec (.indirectTransferComplete cyc e id false data) s = .next (u.onTransfer e t.id (fun x => { x with
        whole := true, toggle := false, moved := t.total, data := [] })))))) ∧
  (∀ (s : State) (cyc word : Nat), s.mgrUp = true → (s.inQueue .window).stalled = [] →
    (s.inQueue .window).words.length < (s.inQueue .window).cap →
    (∃ t w, exec (.owPush ⟨cyc, word⟩) s = .next t ∧ (t.inQueue .window).words = (s.inQueue .window).words ++ [w] ∧
      w.data = word % 2 ^ 64 ∧ w.eor = false ∧ w.poison = false ∧ t = { s with objs := t.objs, segs := t.segs, rings := t.rings, time := t.time }) ∧
    (∃ t w, exec (.owPushLast ⟨cyc, word⟩) s = .next t ∧ (t.inQueue .window).words = (s.inQueue .window).words ++ [w] ∧
      w.data = word % 2 ^ 64 ∧ w.eor = true ∧ w.poison = false ∧ t = { s with objs := t.objs, segs := t.segs, rings := t.rings, time := t.time }))

/-! Loads. -/

/-- PROGRAM_LOAD, where u is the state in which the load acts: a program that stands is made resident while fewer than 64 are, or put in
the place of the resident program of its identifier, and is acknowledged; one that does not stand is refused with the detail that
`programFault` gives, its first failing slot or 0xFFFF; a replacement of another class while the partition's loop runs it is refused IN_USE (R51). STREAM_TABLE that stands: each entry's
stream of which none was in use takes its scale, at once and for its reset; a stream no entry names stands (R133, R134). KERNEL_LOAD: a
kernel that verifies, of a new identifier and within the store, is made resident; one whose signature does not verify is refused
SIGNATURE (R159). An acknowledgement goes out again for each repeat of the last SEGMENT (R316). -/
def Obligations.PartitionLoads : Prop :=
  (∀ (s u : State) (cyc : Nat) (path : Path) (id p : Nat) (img : ProgramImage) (t : Transfer),
    s.loadComes path id (0x4000 + p * 0x10) 0x08 t → u = s.loadTaken cyc path id →
    (u.programFault p t.total img = none → (u.part p).program img.id = none → (u.part p).programs.length < 64 →
      exec (.programLoad cyc path id p img) s = .next ((u.onPart p (fun q => { q with programs := q.programs ++
        [{ id := img.id, image := img, wcet := u.loadedWcet img }] })).finishLoad path.ep t (doneWords t))) ∧
    (∀ old, u.programFault p t.total img = none → (u.part p).program img.id = some old →
      (((u.part p).runs img.id = false ∨ old.image.cls = img.cls) → p ≠ 15 →
        exec (.programLoad cyc path id p img) s = .next ((u.onPart p (fun q => { q with programs := q.programs.map (fun x =>
          if x.id == img.id then { id := img.id, image := img, wcet := u.loadedWcet img } else x) })).finishLoad path.ep t
          (doneWords t))) ∧
      ((u.part p).runs img.id = true → old.image.cls ≠ img.cls →
        exec (.programLoad cyc path id p img) s = .next (u.finishLoad path.ep t (abortWords t.head (abortCode 0xB 0))))) ∧
    (∀ d, u.programFault p t.total img = some d →
      exec (.programLoad cyc path id p img) s = .next (u.finishLoad path.ep t (abortWords t.head (abortCode 9 d))))) ∧
  (∀ (s u : State) (cyc : Nat) (path : Path) (id p : Nat) (entries : List Nat) (t : Transfer),
    s.loadComes path id (0x4000 + p * 0x10) 0x09 t → u = s.loadTaken cyc path id → p < s.parts.length →
    t.total = 8 * entries.length → entries.length ≤ 4096 → streamTableStands p entries = true →
    ∃ v : State, exec (.streamTable cyc path id p entries) s = .next (v.finishLoad path.ep t (doneWords t)) ∧
      (∀ e ∈ entries, (∀ x ∈ (s.part p).streams, x.id = teStream e → x.used = false) →
        ∃ x ∈ (v.part p).streams, x.id = teStream e ∧ x.init = BitVec.ofNat 32 e ∧ x.s = BitVec.ofNat 32 e) ∧
      (∀ x ∈ (s.part p).streams, (∀ e ∈ entries, teStream e ≠ x.id) → x ∈ (v.part p).streams) ∧
      v.part p = { u.part p with streams := (v.part p).streams } ∧ v = { u with parts := v.parts }) ∧
  (∀ (s u : State) (cyc : Nat) (path : Path) (id p : Nat) (img : KernelImage) (t : Transfer),
    s.loadComes path id (0x4000 + p * 0x10) 0x0B t → u = s.loadTaken cyc path id →
    (img.sigOk = true → (u.part p).kernel img.id = none → (u.part p).kernels.length < 256 →
      sumNat ((u.part p).kernels.map (fun x => kib x.bytes)) + kib img.bytes ≤ storeKib p →
      exec (.kernelLoad cyc path id p img) s = .next ((u.onPart p (fun q =>
        { q with kernels := insertBy (fun a b => a.id < b.id)
                   { id := img.id, abi := img.abi, bytes := img.bytes, digest := Config.sha384 img.content } q.kernels })).finishLoad path.ep t (doneWords t))) ∧
    (img.sigOk = false → exec (.kernelLoad cyc path id p img) s = .next (u.finishLoad path.ep t (abortWords t.head (abortCode 0xA 0)))))

/-- Loads of sealed images in a lifecycle state that takes them (R328), where u is the state in which the load acts. MODEL_LOAD: an image
whose seal does not stand is refused SIGNATURE and counted (R343); one that stands, of a new identifier, naming no table that a resident
program names, with whole tables, in the partition's region and within its room, becomes resident with its tables, and no byte of a stack
changes outside its weights (R118, R120, R203, R344). INDEX_LOAD at a place that is free: an image whose seal does not stand is refused
LOAD_REFUSED and counted; one that stands is the one index of its identifier (R233). RULESET_LOAD of a kind other than UNLOCK: into a
locked slot it is refused LOCKED; one that stands, suits the policies and fits the tables waits in its slot from its beat on (R264, R265).
RULESET_INSTALL at a later beat edge at which no lane steps a stream of the slot: the set is in force, streams of the slot go on from its
START state, and other slots stand (R265). DETOK_LOAD of a new identifier that stands while fewer than four others are: it becomes
resident (R269). An image's seal stands only in the HPKE suite of KEM 0x0011, KDF 0x0002 and AEAD 0x0002 and in mode auth, and an
envelope opens only in that suite and in mode base (R333). -/
def Obligations.SealedLoads : Prop :=
  (∀ (s u : State) (cyc : Nat) (path : Path) (id p : Nat) (img : SealedImage) (plain : ModelPlain) (t : Transfer) (m : Model),
    s.loadComes path id (0x4000 + p * 0x10) 0x1E t → u = s.loadTaken cyc path id → u.lifecycle ≠ .blank → u.lifecycle ≠ .retired →
    (u.sealStands 0 (some p) t.total img = false →
      exec (.modelLoad cyc path id p img plain) s = .next ((u.count (fun c => { c with imageFails := c.imageFails + 1 })).finishLoad
        path.ep t (abortWords t.head (abortCode 0xA 0)))) ∧
    (u.sealStands 0 (some p) t.total img = true → siContent img.header ≠ 0 → u.anyModel (siId img.header) = none →
      (u.part p).tableHeld plain.tables = false → plain.tables.all tableWhole = true →
      m = { id := mdId plain.desc, desc := plain.desc, bytes := placedBytes plain.weights plain.tables, tables := plain.tables,
            digest := SealedImage_digest img } → modelDescStands (siId img.header) m = true →
      (∀ w ∈ plain.weights, (u.modelRegion p).1 ≤ w.2.1 ∧ w.2.1 + w.2.2.length ≤ (u.modelRegion p).1 + (u.modelRegion p).2) →
      sumNat ((u.part p).models.map (·.bytes)) + m.bytes ≤ (u.modelRegion p).2 → p < u.parts.length →
      ∃ v : State, exec (.modelLoad cyc path id p img plain) s = .next (v.finishLoad path.ep t (doneWords t)) ∧ m ∈ (v.part p).models ∧
        (∀ i a, (∀ w ∈ plain.weights, (w.1 = i ∨ p = 15) → a < w.2.1 ∨ w.2.1 + w.2.2.length ≤ a) →
          memRead (v.seg i).stack.mem a = memRead (u.seg i).stack.mem a) ∧
        v = { u with parts := v.parts, segs := v.segs })) ∧
  (∀ (s u : State) (cyc : Nat) (path : Path) (id p : Nat) (img : SealedImage) (plain : IndexPlain) (t : Transfer),
    s.loadComes path id (0x4000 + p * 0x10) 0x1C t → u = s.loadTaken cyc path id → u.lifecycle ≠ .blank → u.lifecycle ≠ .retired →
    s.indexPlaced p img plain = true →
    (u.sealStands 1 none t.total img = false →
      exec (.indexLoad cyc path id p img plain) s = .next ((u.count (fun c => { c with imageFails := c.imageFails + 1 })).finishLoad path.ep t (abortWords t.head (abortCode 9 0xFFFF)))) ∧
    (u.sealStands 1 none t.total img = true → u.indexBusy (siId img.header) = false → siContent img.header ≠ 0 →
      ixVectors plain.desc ≠ 0 → u.indexBarred p (siId img.header) plain = false →
      (u.indexes.filter (fun x => x.id != siId img.header)).length < 16 →
      ∃ (v : State) (x : Index), exec (.indexLoad cyc path id p img plain) s = .next (v.finishLoad path.ep t (doneWords t)) ∧ x ∈ v.indexes ∧
        x.id = siId img.header ∧ x.part = p ∧ x.desc = plain.desc ∧ (∀ y ∈ v.indexes, y.id = siId img.header → y = x) ∧
        v = { u with indexes := v.indexes, segs := v.segs })) ∧
  (∀ (s u : State) (cyc : Nat) (path : Path) (id : Nat) (img : SealedImage) (plain : RulePlain) (t : Transfer),
    s.loadComes path id 0x5000 0x01 t → u = s.loadTaken cyc path id → u.lifecycle ≠ .blank → u.lifecycle ≠ .retired →
    u.sealStands 2 none t.total img = true → siContent img.header ≠ 0 → rsKind plain.header ≠ 3 →
    (u.slotLocked (rsSlot plain.header) = true →
      exec (.rulesetLoad cyc path id img plain) s = .next (u.finishLoad path.ep t (abortWords t.head (abortCode 0xD 0)))) ∧
    (∀ r : RuleSet, u.slotLocked (rsSlot plain.header) = false → ruleStands (siId img.header) (siContent img.header) plain = true →
      u.tablesAfter (rsSlot plain.header) plain ≤ 4 * 2 ^ 20 →
      r = { plain := plain, digest := SealedImage_digest img, since := u.time.beat } → u.slotFits (rsSlot plain.header) r = true →
      exec (.rulesetLoad cyc path id img plain) s = .next (State.finishLoad { u with screen := { u.screen with
        loaded := aSet (rsSlot plain.header) r u.screen.loaded } } path.ep t (doneWords t)))) ∧
  (∀ (s : State) (k : Nat) (r : RuleSet), s.mgrUp = true → s.atEdge = true → aGet k s.screen.loaded = some r → r.since < s.time.beat →
    (∀ g ∈ s.segs, ∀ l ∈ g.snare.lanes, l.2.slot ≠ k) →
    ∃ t, exec (.rulesetInstall k) s = .next t ∧ t.ruleSet k = some r ∧ aGet k t.screen.loaded = none ∧
      (∀ j, j ≠ k → t.ruleSet j = s.ruleSet j) ∧
      (∀ m q, t.live m = some q → ∀ a ∈ q.autos, a.slot = k → a.state = rsStart r.plain.header) ∧
      t = { s with screen := t.screen, seqs := t.seqs }) ∧
  (∀ (s u : State) (cyc : Nat) (path : Path) (id : Nat) (img : SealedImage) (plain : DetokPlain) (t : Transfer),
    s.loadComes path id 0x5000 0x03 t → u = s.loadTaken cyc path id → u.lifecycle ≠ .blank → u.lifecycle ≠ .retired →
    u.sealStands 3 none t.total img = true → siContent img.header = 64 + 4 * plain.entries.length + plain.pool.length →
    siContent img.header ≤ 2 ^ 24 → (u.screen.detoks.filter (fun d => d.id != siId img.header)).length < 4 →
    detokStands (siId img.header) plain = true → u.detok (siId img.header) = none →
    ∃ (v : State) (d : Detok), exec (.detokLoad cyc path id img plain) s = .next (v.finishLoad path.ep t (doneWords t)) ∧ v.detok (siId img.header) = some d ∧
      d.entries = plain.entries ∧ d.pool = plain.pool ∧ v = { u with screen := v.screen }) ∧
  (∀ (s : State) (kind total : Nat) (p : Option Nat) (img : SealedImage), s.sealStands kind p total img = true →
    img.hpke.suite = [0x0011, 0x0002, 0x0002] ∧ img.hpke.mode = 2) ∧
  (∀ (s : State) (rec : SubRecord) (env : Envelope), s.envelopeOpens rec env = true →
    env.hpke.suite = [0x0011, 0x0002, 0x0002] ∧ env.hpke.mode = 0)

/-! Commits, lifecycle, keys, hush. -/

/-- COMMIT of a staging set that is not empty takes it, takes the next number and leaves the other principals' sets (R321); of a set
whose one entry is a PASS_TARGET default, the value in force is the nearest one within its bounds (R73). An empty set takes no number.
DISCARD clears the set and changes nothing else. From a commit to the next beat edge, `prior` holds the values that it replaced (R322).
Meanwhile a token refill, a freeze, a hang, an allocation of staging SRAM, a commit point, an admission, a hand-over, the end of a join
wait, a resumption and the closing of a group read the values of `prior`: in two states that differ in nothing but the values committed
since, their effect is one and the same, in each with that state's committed values put back, so that the committed entries stand. -/
def Obligations.Commits : Prop :=
  (∀ (s u : State) (cyc id : Nat) (p : Path), s.writeComes p (entryHead id 0x1100 0x01 0) 1 →
    u = s.writeTaken cyc p (entryHead id 0x1100 0x01 0) 1 → s.unretired = true →
    (s.stagedBy (s.principal p) ≠ [] → ∃ t, exec (.commit cyc p id) s = .next t ∧ t.objs.commitNo = s.objs.commitNo + 1 ∧
      t.prior = some s.replaced ∧
      t.stagedBy (s.principal p) = [] ∧ (∀ w, w ≠ s.principal p → t.stagedBy w = s.stagedBy w) ∧ t.seqs = s.seqs ∧
      t.time.beat = s.time.beat ∧ t.roles = s.roles ∧ t.pending = s.pending) ∧
    (∀ v, v < 2 ^ 16 → s.stagedBy (s.principal p) = [(0x2000, 0x03, bytesLe 2 v)] →
      ∃ t, exec (.commit cyc p id) s = .next t ∧ t.glob.passDefault = clampNat 64 4096 v) ∧
    (s.stagedBy (s.principal p) = [] → exec (.commit cyc p id) s = .next (u.send p.ep
      (ackWords (entryHead id 0x1100 0x01 0) (commitAck 0 u.objs.commitNo))))) ∧
  (∀ (s u : State) (pr : Prior) (c : Instr), s.prior = some pr → u.prior = some pr → u.inForce pr = s.inForce pr →
    (c = .tokenRefill ∨ (∃ i p k n b, c = .stagingAllocate i p k n b) ∨ (∃ p k, c = .freeze p k) ∨ (∃ p k, c = .stepHang p k) ∨ (∃ cyc p k, c = .commitPoint cyc p k) ∨
      (∃ p k, c = .admission p k) ∨ (∃ n, c = .handOver n) ∨ (∃ p, c = .joinWaitExpiry p) ∨ (∃ p, c = .resumption p) ∨
      ∃ n, c = .groupClose n) →
    ∃ v, exec c s = .next (s.putBack v) ∧ exec c u = .next (u.putBack v) ∧ (s.putBack v).glob = s.glob ∧
      ∀ i < v.parts.length, withEntries (s.part i) ((s.putBack v).part i) = (s.putBack v).part i) ∧
  (∀ (s u : State) (cyc id : Nat) (p : Path), s.writeComes p (entryHead id 0x1100 0x01 0) 0 →
    u = s.writeTaken cyc p (entryHead id 0x1100 0x01 0) 0 → s.unretired = true →
    exec (.discard cyc p id) s = .next (State.send { u with objs := { u.objs with
      staged := u.objs.staged.filter (fun e => e.1 != s.principal p) } } p.ep (ackWords (entryHead id 0x1100 0x01 0) 0)))

/-- The Trust Unit's writes, under OFFICER. LIFECYCLE_ADVANCE to a value that is no later state, or none to advance to, answers VALUE
(R319, R329), and LOCKED from BLANK or without the programming enable (the model's choice, log entry 40); with that enable, from PROVISIONED
to SECURED, on every segment in the manager's reach, with the block's keys and work standing; to RETIRED, with the identity, image and
stack keys of every such segment, the envelope and dim keys and the archive keys erased and every sequence gone, the other block of split
mode standing (R330). ENVELOPE_KEY_ROTATE
makes the next generation of each partition named, the one before kept (R340); DIM_KEY_ROTATE the next epoch, record numbers and nonce
counters starting again (R346); partitions not named stand. DIM_EPOCH_EXHAUSTED rotates the dim key of a partition whose counters are
spent (R346). ARCHIVE_KEYS writes its slots (R352), refused ACCESS to a principal other than OFFICER (R349). ARCHIVE_KEY_INSTALL: a slot written while
fetches under it were in flight takes its key once they have ended, an all-zero key emptying it (R349). -/
def Obligations.TrustWrites : Prop :=
  (∀ (s u : State) (cyc id v : Nat) (p : Path), s.writeComes p (entryHead id 0x7000 0x02 0) v →
    u = s.writeTaken cyc p (entryHead id 0x7000 0x02 0) v → s.principal p = .officer → s.unretired = true → v < 256 →
    ((v < 2 ∨ 3 < v ∨ v ≤ lifecycleCode s.lifecycle) →
      exec (.lifecycleAdvance cyc p id v) s = .next (u.send p.ep (abortWords (entryHead id 0x7000 0x02 0) (abortCode 0x10 0)))) ∧
    ((v = 2 ∨ v = 3) → lifecycleCode s.lifecycle < v → (s.lifecycle = .blank ∨ s.cfg.progEnable = false) →
      exec (.lifecycleAdvance cyc p id v) s = .next (u.send p.ep (abortWords (entryHead id 0x7000 0x02 0) (abortCode 0xD 0)))) ∧
    (s.lifecycle = .provisioned → s.cfg.progEnable = true → v = 2 → ∃ t, exec (.lifecycleAdvance cyc p id v) s = .next t ∧
      (∀ i, s.hasSeg i = true → i ∉ s.roles.farHalf → sensedState (s.seg i).trust.lifeFuses = .provisioned →
        (t.seg i).trust.lifecycle = .secured) ∧
      (∀ i, i ∈ s.roles.farHalf → (t.seg i).trust.lifecycle = (s.seg i).trust.lifecycle) ∧ t.seqs = s.seqs ∧ t.parts = s.parts ∧ t.handles = s.handles ∧
      t.trust = s.trust) ∧
    (lifecycleCode s.lifecycle < 3 → s.lifecycle ≠ .blank → s.cfg.progEnable = true → v = 3 → ∃ t, exec (.lifecycleAdvance cyc p id v) s = .next t ∧
      (∀ i, s.hasSeg i = true → i ∉ s.roles.farHalf → (t.seg i).trust.lifecycle = .retired ∧ (t.seg i).trust.identity = none ∧
        (t.seg i).trust.stackKeys = [] ∧ (t.seg i).trust.imageKey = none ∧ (t.seg i).trust.chain = []) ∧ t.trust.envKeys = ({} : Trust).envKeys ∧ t.trust.archive = [] ∧
      t.seqs = [] ∧ t.other = s.other)) ∧
  (∀ (s u : State) (cyc id m : Nat) (p : Path), s.writeComes p (entryHead id 0x7000 0x03 1) m →
    u = s.writeTaken cyc p (entryHead id 0x7000 0x03 1) m → s.principal p = .officer → s.unretired = true → m < 2 ^ 16 →
    ∃ t, exec (.envelopeKeyRotate cyc p id m) s = .next t ∧ t.trust.envKeys.length = s.trust.envKeys.length ∧
      (∀ q k, q < 15 → s.trust.envKeys[q]? = some k → m.testBit q = true →
        ∃ k', t.trust.envKeys[q]? = some k' ∧ k'.curId = nextGen k.curId ∧ k'.prevId = k.curId ∧ k'.prev = k.cur ∧
          k'.curEpoch = k.curEpoch ∧ k'.dimCur = k.dimCur) ∧
      (∀ q, (15 ≤ q ∨ m.testBit q = false) → t.trust.envKeys[q]? = s.trust.envKeys[q]?) ∧
      t.trust = { s.trust with envKeys := t.trust.envKeys } ∧ t.seqs = s.seqs ∧ t.parts = s.parts ∧ t.handles = s.handles) ∧
  (∀ (s u : State) (cyc id m : Nat) (p : Path), s.writeComes p (entryHead id 0x7000 0x04 1) m →
    u = s.writeTaken cyc p (entryHead id 0x7000 0x04 1) m → s.principal p = .officer → s.unretired = true → m < 2 ^ 16 →
    ∃ t, exec (.dimKeyRotate cyc p id m) s = .next t ∧ t.trust.envKeys.length = s.trust.envKeys.length ∧
      (∀ q k, q < 15 → s.trust.envKeys[q]? = some k → m.testBit q = true →
        (∃ k', t.trust.envKeys[q]? = some k' ∧ k'.curEpoch = nextGen k.curEpoch ∧ k'.prevEpoch = k.curEpoch ∧ k'.dimPrev = k.dimCur ∧
          k'.recordId = 0 ∧ k'.curId = k.curId ∧ k'.cur = k.cur) ∧ ∀ i, aGet q (t.seg i).trust.dimCounter = none) ∧
      (∀ q, (15 ≤ q ∨ m.testBit q = false) → t.trust.envKeys[q]? = s.trust.envKeys[q]?) ∧
      t.trust = { s.trust with envKeys := t.trust.envKeys } ∧ t.seqs = s.seqs ∧ t.parts = s.parts ∧ t.handles = s.handles) ∧
  (∀ (s : State) (q : Nat) (k : EnvKey), q < 15 → s.epochSpent q = true → s.trust.envKeys[q]? = some k →
    ∃ t k', exec (.dimEpochExhausted q) s = .next t ∧ t.trust.envKeys[q]? = some k' ∧ k'.curEpoch = nextGen k.curEpoch ∧
      k'.prevEpoch = k.curEpoch ∧ k'.dimPrev = k.dimCur ∧ k'.recordId = 0 ∧ (∀ i, aGet q (t.seg i).trust.dimCounter = none) ∧
      t = { s with trust := t.trust, segs := t.segs, free := s.free + 1 }) ∧
  (∀ (s u : State) (cyc : Nat) (path : Path) (id : Nat) (entries : List (List Nat)) (t : Transfer),
    s.loadComes path id 0x7000 0x06 t → u = s.loadTaken cyc path id →
    (t.principal ≠ .officer → exec (.archiveKeys cyc path id entries) s = .next (u.finishLoad path.ep t (abortWords t.head (abortCode 2 0)))) ∧
    (t.principal = .officer → (∀ e ∈ entries, e.length = 40) → t.total = 40 * entries.length →
      exec (.archiveKeys cyc path id entries) s = .next ((entries.foldl State.writeArchive u).finishLoad path.ep t (doneWords t)))) ∧
  (∀ (s : State) (slot key : Nat), aGet slot s.trust.archivePending = some key → s.slotInFlight slot = false →
    ∃ t, exec (.archiveKeyInstall slot) s = .next t ∧ aGet slot t.trust.archive = (if key = 0 then none else some key) ∧
      aGet slot t.trust.archivePending = none ∧ (∀ j, j ≠ slot → aGet j t.trust.archive = aGet j s.trust.archive) ∧
      t = { s with trust := t.trust })

/-- HUSH_ENTER while the block may not hush answers IN_USE (0x000B), else it is asked for, at the beat of its stamp, and acknowledged (R394).
HUSH_ENTRY at a later beat edge:
the block is in hush, every module gated and its link not authenticated, each segment's heartbeat age held, stacks and staging SRAM
standing (R394, R395). WAKE in hush: the block wakes 50 beats after its stamp's beat; outside hush it changes nothing; each is acknowledged (R396).
WAKE_COMPLETE at that beat, every link between serving segments having trained: hush is over, and each segment's heartbeat age runs on
from what it was (R395, R396); the values committed in hush are in force from then on (R395). -/
def Obligations.Hush : Prop :=
  (∀ (s u : State) (cyc id : Nat) (p : Path), s.writeComes p (entryHead id 0x2200 0x30 0) 1 →
    u = s.writeTaken cyc p (entryHead id 0x2200 0x30 0) 1 → s.unretired = true →
    (u.mayHush = true → exec (.hushEnter cyc p id) s = .next (State.send { u with power := { u.power with
      hushAsked := some u.time.now.beat } } p.ep (ackWords (entryHead id 0x2200 0x30 0) 0))) ∧
    (u.mayHush = false → exec (.hushEnter cyc p id) s = .next (u.send p.ep
      (abortWords (entryHead id 0x2200 0x30 0) (abortCode 0xB 0))))) ∧
  (∀ (s : State) (b : Nat), s.mgrUp = true → s.power.hushAsked = some b → b < s.time.beat →
    ∃ t, exec .hushEntry s = .next t ∧ t.power = { s.power with hush := 1, hushAsked := none } ∧
      (∀ i d, s.hasSeg i = true → ((t.seg i).hub.module d).up = false ∧ ((t.seg i).hub.module d).authed = false) ∧
      (∀ i, s.hasSeg i = true → (t.seg i).frozenAge = some (s.time.beat - (s.seg i).lastHb) ∧ (t.seg i).stack = (s.seg i).stack ∧
        (t.seg i).staging = (s.seg i).staging) ∧ t = { s with segs := t.segs, power := t.power }) ∧
  (∀ (s u : State) (cyc id : Nat) (p : Path), s.writeComes p (entryHead id 0x2200 0x30 0) 2 →
    u = s.writeTaken cyc p (entryHead id 0x2200 0x30 0) 2 → s.unretired = true →
    exec (.wake cyc p id) s = .next (State.send (if s.power.hush = 1 then
        { u with power := { u.power with hush := 2, wakeAt := u.time.now.beat + 50 } } else u) p.ep
      (ackWords (entryHead id 0x2200 0x30 0) 0))) ∧
  (∀ s : State, s.power.hush = 2 → s.power.wakeAt ≤ s.time.beat → s.untrained = [] →
    exec .wakeComplete s = .next { s with prior := none, power := { s.power with hush := 0 }, segs := s.segs.map (fun g => match g.frozenAge with
      | some a => { g with frozenAge := none, lastHb := s.time.beat - a, lastAck := s.time.beat }
      | none => g) })

/-! Resets and bring-up. -/

/-- RESET_CONTROL: 1 is a warm reset of the block, with no ACK, after which bring-up is at stage 0: work is gone, tenants, committed
entries, rule sets, envelope keys, stack contents, lifecycle states and column remap tables stand, rings are disabled, the beat runs on;
2 is a cold reset: tenants, rings, committed entries and stack contents are gone too, and the envelope and dim keys of a keyed block are
made anew at generation and epoch 1 (R332, R387, R388, R389). POWER_ON_RESET at the manager: the block is held in reset, the beat is to be
acquired anew, and no module counts as failed (R145, R388); at another segment, of that segment, which leaves the block as a lost one
does (R387, R400). COLD_RESET at any segment holds the whole block in reset. WARM_RESET at the manager holds the block in a warm reset; at
another segment, of that segment alone, a lost one staying lost (R359); in a block in reset it only holds its input (R400). In split mode
each segment is reset from what its own block holds of it, and the block comes up as one (the model's choice, log entry 35). -/
def Obligations.Resets : Prop :=
  (∀ (s : State) (cyc : Nat) (p : Path), s.writeComes p (entryHead 0 0x2200 0x31 0) 1 → s.unretired = true →
    s.power.coldBoot = false →
    ∃ t, exec (.resetWarm cyc p) s = .next t ∧ t.power.stage = 0 ∧ t.power.inReset = false ∧ t.seqs = [] ∧ t.handles = [] ∧
      t.tenants = s.tenants ∧ t.glob = s.glob ∧ t.screen = s.screen ∧ t.trust.envKeys = s.trust.envKeys ∧
      t.time.beat = s.time.beat ∧ (∀ e ∈ t.rings, e.2.enable = false) ∧
      (∀ i, (t.seg i).stack.mem = (s.segOf i).stack.mem ∧ (t.seg i).staging = [] ∧
        (t.seg i).trust.lifecycle = (s.segOf i).trust.lifecycle ∧ (t.seg i).ma0.remap = (s.segOf i).ma0.remap) ∧
      t.other = none ∧ t.pending = s.pending) ∧
  (∀ (s : State) (cyc : Nat) (p : Path), s.writeComes p (entryHead 0 0x2200 0x31 0) 2 → s.unretired = true →
    ∃ t, exec (.resetCold cyc p) s = .next t ∧ t.power.stage = 0 ∧ t.power.inReset = false ∧ t.seqs = [] ∧ t.handles = [] ∧
      t.tenants = [] ∧ t.rings = [] ∧ t.glob = {} ∧ t.time.beat = s.time.beat ∧
      (((s.segOf 0).trust.lifecycle = .provisioned ∨ (s.segOf 0).trust.lifecycle = .secured) →
        ∀ q < 15, ∃ k, t.trust.envKeys[q]? = some k ∧ k.curId = 1 ∧ k.curEpoch = 1 ∧ k.prevId = 0 ∧ k.prevEpoch = 0) ∧
      (∀ i, (t.seg i).stack.mem = [] ∧ (t.seg i).staging = [] ∧ (t.seg i).trust.lifecycle = (s.segOf i).trust.lifecycle ∧
        (t.seg i).ma0.remap = (s.segOf i).ma0.remap) ∧ t.pending = s.pending) ∧
  (∀ s : State, s.hasSeg s.mgr = true → s.inSecond s.mgr = false →
    ∃ t, exec (.powerOnReset s.mgr) s = .next t ∧ t.power.inReset = true ∧ t.power.coldBoot = true ∧ t.time.acquired = false ∧
      t.seqs = [] ∧ t.handles = [] ∧ t.tenants = [] ∧ t.rings = [] ∧ t.cfg = s.cfg ∧ (∀ i, (t.seg i).stack.mem = []) ∧
      (t.seg s.mgr).resetIn = [.aoPor] ∧ (t.seg s.mgr).trust.lifecycle = (s.segOf s.mgr).trust.lifecycle ∧
      (t.seg s.mgr).supply = {} ∧ (t.seg s.mgr).hub.north.failed = false ∧ t.pending = s.pending) ∧
  (∀ (s : State) (i : Nat), s.hasSeg i = true → s.inSecond i = false → i ≠ s.mgr → s.power.inReset = true →
    exec (.powerOnReset i) s = .next (s.onSeg i powerOnSegment)) ∧
  (∀ (s : State) (i : Nat), s.hasSeg i = true → s.inSecond i = false → i ≠ s.mgr → s.power.inReset = false →
    ((s.seg i).state ≠ .serving → (s.seg i).state ≠ .lost →
      exec (.powerOnReset i) s = .next ((s.dropStandby i).onSeg i powerOnSegment) ∧
      exec (.warmReset i) s = .next ((s.dropStandby i).onSeg i warmSegment)) ∧
    ((s.seg i).state = .lost → ∃ t v,
      exec (.powerOnReset i) s = .next t ∧ exec (.warmReset i) s = .next v ∧
      (t.seg i).state = .lost ∧ (t.seg i).lostReason = (s.seg i).lostReason ∧ (t.seg i).resetIn = [.aoPor] ∧
      (v.seg i).state = .lost ∧ (v.seg i).lostReason = (s.seg i).lostReason ∧ ResetInput.warm ∈ (v.seg i).resetIn ∧
      othersKept i s t ∧ othersKept i s v) ∧
    ((s.seg i).state = .serving →
      exec (.powerOnReset i) s = .next
        ((((s.given (s.stampFor 0)).segsLeave [i] .stepLost (s.stampFor 0)).dropStandby i).onSeg i (resetAlone powerOnSegment)) ∧
      exec (.warmReset i) s = .next
        ((((s.given (s.stampFor 0)).segsLeave [i] .stepLost (s.stampFor 0)).dropStandby i).onSeg i (resetAlone warmSegment)))) ∧
  (∀ (s : State) (i : Nat), s.hasSeg i = true → s.inSecond i = false →
    ∃ t, exec (.coldReset i) s = .next t ∧ t.power.inReset = true ∧ t.power.coldBoot = true ∧ ResetInput.cold ∈ (t.seg i).resetIn ∧
      t.time.beat = s.time.beat ∧ t.seqs = [] ∧ t.handles = [] ∧ t.tenants = [] ∧ t.rings = [] ∧ t.trust.envKeys = ({} : Trust).envKeys ∧
      (∀ j, (t.seg j).stack.mem = [] ∧ (t.seg j).trust.lifecycle = (s.segOf j).trust.lifecycle) ∧ t.pending = s.pending) ∧
  (∀ s : State, s.hasSeg s.mgr = true → s.inSecond s.mgr = false → s.power.inReset = false →
    ∃ t, exec (.warmReset s.mgr) s = .next t ∧ t.power.inReset = true ∧ ResetInput.warm ∈ (t.seg s.mgr).resetIn ∧
      t.time.beat = s.time.beat ∧ t.seqs = [] ∧ t.handles = [] ∧ t.tenants = s.tenants ∧ t.glob = s.glob ∧
      t.trust.envKeys = s.trust.envKeys ∧ (∀ e ∈ t.rings, e.2.enable = false) ∧
      (∀ j, (t.seg j).stack.mem = (s.segOf j).stack.mem ∧ (t.seg j).trust.lifecycle = (s.segOf j).trust.lifecycle) ∧
      t.pending = s.pending) ∧
  (∀ (s : State) (i : Nat), s.hasSeg i = true → s.inSecond i = false → s.power.inReset = true →
    exec (.warmReset i) s = .next (s.onSeg i (holdInput .warm)))

/-- RESET_RELEASE of a block in reset: while an input or GONG_OUT still holds it, the input is noted as released; else the block leaves
reset at stage 0, each segment that no input of its own holds joins within 2,000,000 beats (R393), and after a cold boot a keyed block's envelope and dim keys are
at generation and epoch 1 (R332, R390, R400). Of a block out of reset: a segment held by its last input joins so; any other release is
noted. GONG_RESET_RELEASE, the feed and each rail that can be read having stayed above their clear levels, with no input asserted:
GONG_OUT falls and bring-up is at stage 0; while an input holds the block in reset GONG_OUT stays high (R384, R400; that the rail of a
segment in its power-on reset cannot be read is the model's choice, log entry 37). -/
def Obligations.ResetReleases : Prop :=
  (∀ (s u : State) (i : Nat) (k : ResetInput), s.hasSeg i = true → s.inSecond i = false → s.power.inReset = true → k ∈ (s.seg i).resetIn →
    u = s.onSeg i (fun g => { g with resetIn := g.resetIn.filter (· != k) }) →
    ((u.blockHeld = true ∨ s.power.gongOut = true) → exec (.resetRelease k i) s = .next u) ∧
    (u.blockHeld = false → s.power.gongOut = false →
      ∃ t, exec (.resetRelease k i) s = .next t ∧ t.power = { s.power with inReset := false, coldBoot := false, stage := 0 } ∧
        (∀ j, s.hasSeg j = true → ((u.seg j).resetIn = [] → (t.seg j).state = .joining ∧ (t.seg j).inReset = false ∧
            (t.seg j).joinDeadline = s.time.beat + 2000000) ∧
          ((u.seg j).resetIn ≠ [] → (t.seg j).state = (s.seg j).state ∧ (t.seg j).inReset = (s.seg j).inReset)) ∧
        (s.power.coldBoot = false → t.trust = s.trust) ∧
        (s.power.coldBoot = true → (s.lifecycle = .provisioned ∨ s.lifecycle = .secured) →
          ∀ q < 15, ∃ e, t.trust.envKeys[q]? = some e ∧ e.curId = 1 ∧ e.curEpoch = 1) ∧
        t = { s with segs := t.segs, power := t.power, trust := t.trust, free := t.free })) ∧
  (∀ (s u : State) (i : Nat) (k : ResetInput), s.hasSeg i = true → s.inSecond i = false → s.power.inReset = false → k ∈ (s.seg i).resetIn →
    u = s.onSeg i (fun g => { g with resetIn := g.resetIn.filter (· != k) }) →
    (((u.seg i).resetIn ≠ [] ∨ (s.seg i).state ≠ .held) → exec (.resetRelease k i) s = .next u) ∧
    ((u.seg i).resetIn = [] → (s.seg i).state = .held →
      ∃ t, exec (.resetRelease k i) s = .next t ∧ (t.seg i).state = .joining ∧ (t.seg i).inReset = false ∧
        (t.seg i).joinDeadline = s.time.beat + 2000000 ∧ othersKept i s t ∧ t = { s with segs := t.segs, free := t.free })) ∧
  (∀ s : State, s.power.inReset = true → s.power.gongOut = true → clearRun s.glob.clearBt s.edge s.power.feedAbove = true →
    (∀ g ∈ s.segs, ResetInput.aoPor ∈ g.resetIn ∨ railClear s.glob.clearBt s.edge g.supply = true) →
    (s.blockHeld = true → exec .gongResetRelease s = .next s) ∧
    (s.blockHeld = false → ∃ t, exec .gongResetRelease s = .next t ∧
      t.power = { s.power with inReset := false, gongOut := false, coldBoot := false, stage := 0 } ∧
      t = { s with segs := t.segs, power := t.power, trust := t.trust, free := t.free }))

/-- SELF_TEST_COMPLETE that passed: the manager's opens its SPDM responder and is stage 2; another segment's marks its failed columns
(R390, R393), all of them served by spares where enough are free (R93). STACK_TRAINING_COMPLETE that passed: the stack has trained (R406). Either that failed, and JOIN_DEADLINE: the segment is lost with
reason 0x0A (R374, R393). REDUCED_SERVICE_OPEN once the manager has passed both and the beat is acquired: stage 3, the manager serves at
1,600 MHz with MA1 held (R391). SEGMENT_JOIN: of another version or another lifecycle state the segment is lost with reason 0x08 or 0x09;
it acts at a freeze of the
screen partition, and at once while no screen loop runs (the model's choice, log entry 37); else it joins, and serves with its queues in
NORMAL and its arrays, being whole, in service (R10, R291, R330, R393). FULL_SERVICE when no segment
has yet to join: stage 4, the manager at the clock of its fault record with MA1 in service (R390, R393). -/
def Obligations.BringUp : Prop :=
  (∀ (s : State) (cyc i : Nat) (cols : List (Arr × Nat)), s.segUp i = true → (s.seg i).state = .joining → (s.seg i).selfTested = false →
    (i = s.mgr → ∃ t, exec (.selfTestComplete cyc i true cols) s = .next t ∧ t.power = { s.power with stage := 2 } ∧
      t.trust = { s.trust with spdmOpen := true } ∧ (t.seg i).selfTested = true ∧ othersKept i s t ∧
      t = { s with segs := t.segs, power := t.power, trust := t.trust }) ∧
    (i ≠ s.mgr → ∃ t, exec (.selfTestComplete cyc i true cols) s = .next t ∧
      t.seg i = { s.seg i with selfTested := true, ma0 := (t.seg i).ma0, ma1 := (t.seg i).ma1 } ∧
      (∀ c < 256, (Arr.ma0, c) ∈ cols → c ∈ (t.seg i).ma0.faults) ∧ (∀ c ∈ (s.seg i).ma0.faults, c ∈ (t.seg i).ma0.faults) ∧
      othersKept i s t ∧ t = { s with segs := t.segs })) ∧
  (∀ (s : State) (cyc i : Nat), s.segUp i = true → (s.seg i).state = .joining → (s.seg i).stack.trained = false →
    (i = s.mgr → s.power.stage = 2) →
    exec (.stackTrainingComplete cyc i true) s = .next (s.onSeg i (fun g => { g with stack := { g.stack with trained := true } }))) ∧
  (∀ (s : State) (cyc i : Nat) (cols : List (Arr × Nat)), s.segUp i = true → (s.seg i).state = .joining →
    ((s.seg i).selfTested = false → exec (.selfTestComplete cyc i false cols) s = .next
      (((s.given (s.stampFor cyc)).loseAny i 0x0A (s.stampFor cyc)).rejoined)) ∧
    ((s.seg i).stack.trained = false → (i = s.mgr → s.power.stage = 2) → exec (.stackTrainingComplete cyc i false) s = .next
      (((s.given (s.stampFor cyc)).loseAny i 0x0A (s.stampFor cyc)).rejoined)) ∧
    (i ≠ s.mgr → s.mgrUp = true → (s.seg i).joinDeadline ≤ s.time.beat → exec (.joinDeadline i) s = .next
      (((s.given (s.stampFor 0)).loseSegment i 0x0A (s.stampFor 0)).rejoined))) ∧
  (∀ s : State, s.hasSeg s.mgr = true → s.mgrAwake = true → s.power.stage = 2 → (s.seg s.mgr).selfTested = true →
    (s.seg s.mgr).stack.trained = true → s.time.acquired = true →
    ∃ t, exec .reducedServiceOpen s = .next t ∧ t.power = { s.power with stage := 3 } ∧ (t.seg s.mgr).state = .serving ∧
      (t.seg s.mgr).health.clockMhz = 1600 ∧ (t.seg s.mgr).ma1.state = .held ∧ (t.seg s.mgr).lastHb = s.time.beat ∧
      othersSettled s.mgr s t ∧ t.parts.length = s.parts.length ∧
      t = { s with segs := t.segs, parts := t.parts, objs := t.objs, power := t.power }) ∧
  (∀ (s : State) (i : Nat), s.mgrUp = true → i ≠ s.mgr → s.readyToJoin i = true → s.screenFreeze = true →
    ((s.seg i).trust.version ≠ (s.seg s.mgr).trust.version → exec (.segmentJoin i) s = .next (s.loseSegment i 0x08 s.edge)) ∧
    ((s.seg i).trust.version = (s.seg s.mgr).trust.version → (s.seg i).trust.lifecycle ≠ s.lifecycle →
      exec (.segmentJoin i) s = .next (s.loseSegment i 0x09 s.edge)) ∧
    ((s.seg i).trust.version = (s.seg s.mgr).trust.version → (s.seg i).trust.lifecycle = s.lifecycle →
      exec (.segmentJoin i) s = .next (s.join i) ∧ (arrayWhole (s.seg i).ma0 = true → arrayWhole (s.seg i).ma1 = true →
      (s.seg i).ma0.pendingRemap = [] → (s.seg i).ma1.pendingRemap = [] →
      ∃ t, exec (.segmentJoin i) s = .next t ∧ (t.seg i).state = .serving ∧ (t.seg i).lastHb = s.time.beat ∧
        (t.seg i).hbFrom = s.mgr ∧ (t.seg i).ma0.state = .serving ∧ (t.seg i).ma1.state = .serving ∧ (t.seg i).nq.hold = false ∧
        othersSettled i s t ∧ t = { s with segs := t.segs, roles := t.roles, mirror := t.mirror, objs := t.objs }))) ∧
  (∀ s : State, s.hasSeg s.mgr = true → s.mgrUp = true → s.power.stage = 3 →
    (∀ g ∈ s.segs, g.state ≠ .joining ∧ g.state ≠ .held) → arrayWhole (s.seg s.mgr).ma1 = true → (s.seg s.mgr).ma1.pendingRemap = [] →
    (s.seg s.mgr).ma0.state = .serving →
    (s.seg s.mgr).ma1.state = .held →
    ∃ t, exec .fullService s = .next t ∧ t.power = { s.power with stage := 4 } ∧
      (t.seg s.mgr).health.clockMhz = (s.seg s.mgr).health.recordMhz ∧ (t.seg s.mgr).ma1.state = .serving ∧
      othersKept s.mgr s t ∧ t = { s with segs := t.segs, parts := t.parts, power := t.power })

/-! Identity: MCTP, I3C, provisioning, SPDM. -/

/-- MCTP control at an endpoint that is up (R310): its ID is set and read back, object access is message type 0x7F, and the enterprise
number is that of 0x1018.01; the rest of each answer is a free value, its contents being the standard's (log entry 18). ENTDAA gives a
target without a dynamic address one, and SETDASA one whose fused static address it names, no other (R412). PROVISIONING of a BLANK die
with the programming enable asserted blows its first LIFECYCLE group, which makes it PROVISIONED, enrols its PUF, blows its seed, serial,
static address and the numbers of its maker, and writes its identity certificate; on the dies of the manager and the standby it writes the
provisioning chain, the wrapped image key and up to two officer roots as well, all within the store's 8,192 bytes; without the enable, and
of another die, it has no effect (R329, R419). -/
def Obligations.Identities : Prop :=
  (∀ (s : State) (ep : Endpoint) (n : Nat), s.mctpUp ep = true →
    (∃ t, exec (.setEndpointId ep n) s = .next t ∧ t = (s.setEid ep n).mctpReply ep 1 [n % 256] ∧ t.eidOf ep = n % 256 ∧
      t.trust = s.trust ∧ t.seqs = s.seqs ∧ t.roles = s.roles ∧ t.pending = s.pending) ∧
    exec (.getEndpointId ep) s = .next (s.send ep (s.eidOf ep :: Config.mctpContents 2)) ∧
    exec (.getMctpVersionSupport ep n) s = .next (s.send ep (Config.mctpContents (256 + n % 256))) ∧
    exec (.getMessageTypeSupport ep) s = .next (s.send ep (0x7F :: Config.mctpContents 4)) ∧
    exec (.getVendorDefinedMessageSupport ep n) s = .next (s.send ep (0x5A52 :: Config.mctpContents (512 + n % 256)))) ∧
  (∀ (s : State) (i a b : Nat), s.hasSeg i = true → s.inSecond i = false → (s.seg i).trust.i3cAddr = none →
    (∃ t, exec (.entdaa i a) s = .next t ∧ (t.seg i).trust = { (s.seg i).trust with i3cAddr := some (a % 128) } ∧ othersKept i s t ∧
      t = { s with segs := t.segs }) ∧
    ((s.seg i).trust.i3cStatic = b → b ≠ 0 → ∃ t, exec (.setdasa i b a) s = .next t ∧
      (t.seg i).trust = { (s.seg i).trust with i3cAddr := some (a % 128) } ∧ othersKept i s t ∧ t = { s with segs := t.segs }) ∧
    ((s.seg i).trust.i3cStatic ≠ b → exec (.setdasa i b a) s = .next s)) ∧
  (∀ (s : State) (i : Nat) (d : ProvData), s.hasSeg i = true → s.inSecond i = false → (s.seg i).trust.lifecycle = .blank →
    d.enable = true →
    ∃ t, exec (.provisioning i d) s = .next t ∧ (t.seg i).trust = { (s.seg i).trust with
        lifecycle := (t.seg i).trust.lifecycle, lifeFuses := (s.seg i).trust.lifeFuses ||| 15,
        licensee := d.licensee % 2 ^ 32, dieRev := d.dieRev % 2 ^ 32, jedec := d.jedec % 2 ^ 11, mipi := d.mipi % 2 ^ 15, pufEnrolled := true, pufHelper := d.pufHelper % 2 ^ 4096, seed := d.seed % 2 ^ 256,
        serial := d.serial % 2 ^ 64, identityCert := d.cert.take 8192, i3cStatic := d.staticAddr % 128, chain := (t.seg i).trust.chain,
        imageKey := (t.seg i).trust.imageKey, officerRoots := (t.seg i).trust.officerRoots } ∧
      (sensedState (s.seg i).trust.lifeFuses = .blank → (t.seg i).trust.lifecycle = .provisioned) ∧
      (s.mgrDie i = true → (t.seg i).trust.chain = d.chain.take (8192 - (d.cert.take 8192).length) ∧ (t.seg i).trust.imageKey = some (d.imageKey % 2 ^ 1024) ∧
        (t.seg i).trust.officerRoots = (d.officerRoots.map (· % 2 ^ 384)).take 2) ∧
      (s.mgrDie i = false → (t.seg i).trust.chain = (s.seg i).trust.chain ∧ (t.seg i).trust.imageKey = (s.seg i).trust.imageKey ∧
        (t.seg i).trust.officerRoots = (s.seg i).trust.officerRoots) ∧ othersKept i s t ∧ t = { s with segs := t.segs }) ∧
  (∀ (s : State) (i : Nat) (d : ProvData), s.hasSeg i = true → s.inSecond i = false →
    ((s.seg i).trust.lifecycle ≠ .blank ∨ d.enable = false) → exec (.provisioning i d) s = .next s)

/-- SPDM on a path whose responder is open (R335 to R338). GET_VERSION starts the negotiation; GET_CAPABILITIES and NEGOTIATE_ALGORITHMS
take it on in that order and answer the version 1.3, the nine
capabilities and the five algorithms of R335, numbered in its order; out of order or without the one suite they answer an error. Once negotiated, and with an identity key,
GET_DIGESTS, GET_CERTIFICATE, CHALLENGE and GET_MEASUREMENTS answer from the responder's certificate chain, key and measurements, of slot 0
alone; measurement 1 is the firmware digest, and a target that answers alone has blocks 1 and 3 only. KEY_EXCHANGE opens a session, under
OFFICER only when the chain shown ends in a root that the manager's die was provisioned with. FINISH establishes it or gives it up;
SPDM_HEARTBEAT and KEY_UPDATE act on an established one; END_SESSION removes it, and with one under OFFICER what was staged or opened
under OFFICER on its path. -/
def Obligations.Spdm : Prop :=
  (∀ (s : State) (ep : Endpoint), s.spdmUp ep = true →
    exec (.getVersion ep) s = .next ((s.setPhase ep 1).spdmReply ep none 1 [1, 3]) ∧
    (s.phaseOf ep = 1 → exec (.getCapabilities ep) s = .next ((s.setPhase ep 2).spdmReply ep none 2 [1, 2, 3, 4, 5, 6, 7, 8, 9])) ∧
    (s.phaseOf ep ≠ 1 → exec (.getCapabilities ep) s = .next (s.spdmReply ep none 0 [])) ∧
    (s.phaseOf ep = 2 → exec (.negotiateAlgorithms ep true) s = .next ((s.setPhase ep 3).spdmReply ep none 3 [1, 2, 3, 4, 5])) ∧
    exec (.negotiateAlgorithms ep false) s = .next (s.spdmReply ep none 0 []) ∧
    (s.setPhase ep 3).phaseOf ep = 3) ∧
  (∀ (s : State) (ep : Endpoint) (key nonce block slot : Nat) (sign : Bool), s.spdmUp ep = true → s.phaseOf ep = 3 →
    (s.seg (s.responder ep)).trust.identity = some key →
    exec (.getDigests ep) s = .next (s.spdmReply ep none 4 [Config.sha384 (s.chainOf ep)]) ∧
    exec (.getCertificate ep 0) s = .next (s.spdmReply ep none 5 (s.chainOf ep)) ∧
    exec (.challenge ep 0 nonce) s = .next (s.spdmReply ep none 6 [Config.sign key (nonce :: s.chainOf ep)]) ∧
    (slot ≠ 0 → exec (.getCertificate ep slot) s = .next (s.spdmReply ep none 0 []) ∧
      exec (.challenge ep slot nonce) s = .next (s.spdmReply ep none 0 [])) ∧
    exec (.getMeasurements ep block sign nonce) s = .next ((s.given (s.stampFor 0)).measureReply ep block sign nonce key) ∧
    (s.alone ep = false → ∀ v, s.measurement (s.responder ep) 1 = some v →
      exec (.getMeasurements ep 1 false nonce) s = .next ((s.given (s.stampFor 0)).spdmReply ep none 7 v) ∧
      v = [(s.seg (s.responder ep)).trust.fwDigest]) ∧
    (s.alone ep = true → block ≠ 0 → block ≠ 1 → block ≠ 3 → block ≠ 255 →
      exec (.getMeasurements ep block sign nonce) s = .next ((s.given (s.stampFor 0)).spdmReply ep none 0 []))) ∧
  (∀ (s : State) (ep : Endpoint) (key id : Nat) (root : Option Nat), s.spdmUp ep = true → s.phaseOf ep = 3 →
    (s.seg (s.responder ep)).trust.identity = some key → s.spdmSession ep id = none →
    ∃ t x, exec (.keyExchange ep id root) s = .next t ∧ t.trust.sessions = s.trust.sessions ++ [x] ∧ x.id = id ∧ x.ep = ep ∧
      x.established = false ∧ (x.officer = true ↔ s.alone ep = false ∧ ∃ r, root = some r ∧ r ∈ (s.seg s.mgr).trust.officerRoots) ∧
      t = { s with trust := { s.trust with sessions := t.trust.sessions, spdmOut := t.trust.spdmOut } }) ∧
  (∀ (s : State) (ep : Endpoint) (id : Nat) (x : SpdmSession), s.spdmUp ep = true → s.spdmSession ep id = some x →
    (x.established = false → exec (.finish ep id true) s = .next
        ((s.onSession ep id (fun x => { x with established := true })).spdmReply ep (some id) 9 []) ∧
      exec (.finish ep id false) s = .next ((s.dropSession ep id).spdmReply ep none 0 [])) ∧
    (x.established = true →
      exec (.spdmHeartbeat ep id) s = .next
        ((s.onSession ep id (fun x => { x with lastHb := s.time.beat })).spdmReply ep (some id) 10 []) ∧
      exec (.keyUpdate ep id) s = .next
        ((s.onSession ep id (fun x => { x with keyGen := x.keyGen + 1 })).spdmReply ep (some id) 11 []) ∧
      ∃ t, exec (.endSession ep id) s = .next t ∧ t.spdmSession ep id = none ∧
        (x.officer = true → t.stagedBy .officer = [] ∧ ∀ e ∈ (t.ep ep).transfers, e.principal ≠ .officer) ∧
        (x.officer = false → t.objs = s.objs) ∧ t = { s with objs := t.objs, segs := t.segs, trust := t.trust }))

/-! Errors. -/

/-- CORRECTABLE_ERROR: counted, per channel where it is a stack's, and nothing else (R353). UNCORRECTABLE_DATA_ERROR that names no step in
flight: counted, and nothing else; one that names a step in flight that was not abandoned, by the array, the step or the allocation it
struck, discards the step at one stamp, and a BE loop halts (R354, R355); one in a scan lane ends the queries of the lane's group with
STEP_LOST (R257). UNCORRECTABLE_CONTROL_ERROR: the segment is lost with reason 0x03, or the manager is, which falls silent in a block with a standby and is
the cause of a GONG in one without (R353). -/
def Obligations.ErrorsByClass : Prop :=
  (∀ (s : State) (i : Nat) (c : Option Nat), s.segUp i = true →
    ∃ t, exec (.correctableError i c) s = .next t ∧ (t.seg i).health = { (s.seg i).health with corrected := (s.seg i).health.corrected + 1 } ∧
      t.seg i = { s.seg i with health := (t.seg i).health, stack := { (s.seg i).stack with corrected := (t.seg i).stack.corrected } } ∧
      (c = none → (t.seg i).stack = (s.seg i).stack) ∧ othersKept i s t ∧ t = { s with segs := t.segs }) ∧
  (∀ (s : State) (cyc i p : Nat) (c : Cls) (src : DataSource), s.segUp i = true →
    (src = .nameless ∨ (src = .array p c ∧ s.stepOf p c = none) ∨ (src = .step p c ∧ s.stepOf p c = none) ∨
      (∃ u, src = .staging u ∧ (s.seg i).allocStep u = none) ∨ (src = .scanLane ∧ (s.seg i).scanGroup = none)) →
    exec (.uncorrectableDataError cyc i src) s = .next (s.uncorrectable i) ∧
    ((s.uncorrectable i).seg i).health.uncorrected = (s.seg i).health.uncorrected + 1 ∧ othersKept i s (s.uncorrectable i)) ∧
  (∀ (s : State) (cyc i p : Nat) (c : Cls) (src : DataSource) (st : StepS), s.segUp i = true → s.stepOf p c = some st →
    st.abandoned = none →
    (src = .array p c ∨ src = .step p c ∨ ∃ u, src = .staging u ∧ (s.seg i).allocStep u = some (p, c)) →
    ∃ t, exec (.uncorrectableDataError cyc i src) s = .next t ∧
      t = ((s.uncorrectable i).given (s.stampFor cyc)).discardStep p c .discarded .stepLost (s.stampFor cyc) ∧
      t.stepOf p c = none ∧ t.cnt.stepsDiscarded = s.cnt.stepsDiscarded + 1 ∧
      (c = .be → ((t.part p).loop c).running = false)) ∧
  (∀ (s : State) (cyc i : Nat) (g : ScanGroup), s.segUp i = true → (s.seg i).scanGroup = some g →
    exec (.uncorrectableDataError cyc i .scanLane) s = .next
      ((g.members.filter (fun k => !g.inactive.contains k)).foldl (fun u k => u.endSeq k .stepLost (s.stampFor cyc))
        (((s.uncorrectable i).given (s.stampFor cyc)).groupRecord (s.stampFor cyc)
          (g.members.filter (fun k => !g.inactive.contains k))))) ∧
  (∀ (s : State) (cyc i : Nat), s.segUp i = true → (s.seg i).state ≠ .lost →
    (i ≠ s.mgr → exec (.uncorrectableControlError cyc i) s = .next
      (((s.given (s.stampFor cyc)).uncorrectable i).loseSegment i 0x03 (s.stampFor cyc))) ∧
    (i = s.mgr → s.cfg.kind.hasStandby = true → exec (.uncorrectableControlError cyc i) s = .next
      ({ (s.given (s.stampFor cyc)).uncorrectable i with roles := { s.roles with managerSilent := true } })) ∧
    (i = s.mgr → s.cfg.kind.hasStandby = false → exec (.uncorrectableControlError cyc i) s = .next
      (((s.given (s.stampFor cyc)).uncorrectable i).gong (gongRecord 0x03 0x0 0 0 (s.stampFor cyc)))))

/-- STACK_READ_ERROR at a unit's place, by channel and address (R173, R174): the step that issued the access is discarded, the unit is mapped
out and the error noted on its channel, and its region's loss is acted on (R354, R356); without a step, in the screen region of a segment of
no partition, nothing else changes; a unit of which the channel is not that of the address has no effect. A second on
a channel within 2^20 beats marks it as failing (R357). A bright copy lost leaves an entry in BOTH in DIM and one in DIM as it is; the model
area's loss stops the partition (R356). SCREEN_REGION_RESTORED: the copy is whole again. CHANNEL_RETIRE: a channel whose corrected reads
of the last 2^20 beats are above the count starts to retire, and the copy of each of its pages in use begins; one at or below it does not; at
a freeze of a loop its pages are replaced by their copies, and one written since is copied again; CHANNEL_RETIRE_COMPLETE, no page in use
lying in the channel: it is retired and reported with reason 0x60 + channel, without loss of work; before that it has no effect; CHANNEL_FAIL of a failing or untrained one: it is failed and reported with 0x40 + channel, and the losses
of its regions are acted on; a fifth channel out loses the segment with reason 0x04 (R357, R374). -/
def Obligations.StackChannels : Prop :=
  (∀ (s : State) (cyc i ch addr : Nat), s.segUp i = true → ch < 32 → (s.seg i).state ≠ .lost → s.ownerOf i = none →
    s.unitAt i ch addr .screenRegion = true →
    ∃ t, exec (.stackReadError cyc i ch addr none .screenRegion) s = .next t ∧
      t.seg i = { s.seg i with
        stack := { (noteUncorr s.time.beat ch (s.seg i).stack) with
          mappedOut := insertNat addr (s.seg i).stack.mappedOut, screenCopy := true },
        health := { (s.seg i).health with uncorrected := (s.seg i).health.uncorrected + 1 } } ∧
      (∀ b, aGet ch (s.seg i).stack.lastUncorr = some b → s.time.beat ≤ b + 2 ^ 20 → ch ∈ (t.seg i).stack.failing) ∧
      othersKept i s t ∧ t = { s with segs := t.segs, time := t.time }) ∧
  (∀ (s u : State) (cyc i ch addr : Nat) (st : Option (Nat × Cls)) (r : StackRegion), s.segUp i = true → ch < 32 →
    (s.seg i).state ≠ .lost → u = s.stepError cyc i st →
    (s.unitAt i ch addr r = true → exec (.stackReadError cyc i ch addr st r) s = .next
      (((((u.onSeg i (fun g => { g with stack := noteUncorr s.time.beat ch g.stack })).mapOut i addr r).given
        (u.stampFor cyc)).repool i).regionLost i (u.stampFor cyc) r)) ∧
    (s.unitAt i ch addr r = false → exec (.stackReadError cyc i ch addr st r) s = .next s)) ∧
  (∀ (s : State) (i ch n addr : Nat), (s.unitAt i ch addr (.pagePool n) = true → ch = n % 32 ∧ addr = n / 32 * 16896) ∧
    (s.unitAt i ch addr .modelArea = true ∨ s.unitAt i ch addr .retrievalArea = true ∨ s.unitAt i ch addr .screenRegion = true ∨
      s.unitAt i ch addr .blockReserve = true → ch = addr / 4096 % 32)) ∧
  (∀ (s : State) (i p n : Nat) (h : Handle) (e : Stamp), s.entry n = some h → h.part = p →
    (h.tier = .both → ∃ h', (s.loseBright e n).entry n = some h' ∧ h'.tier = .dim) ∧
    (h.tier = .dim → s.loseBright e n = s) ∧
    (s.ownerOf i = some p → s.regionLost i e .modelArea = s.stopPartition p .stepLost e)) ∧
  (∀ (s : State) (i : Nat), s.segUp i = true → (s.seg i).stack.screenCopy = true →
    exec (.screenRegionRestored i) s = .next (s.onSeg i (fun g => { g with stack := { g.stack with screenCopy := false } }))) ∧
  (∀ (s : State) (i ch : Nat) (l : List Nat), s.segUp i = true → ch < 32 → s.glob.retireCount ≠ 0 →
    aGet ch (s.seg i).stack.corrected = some l → (s.seg i).stack.out ch = false →
    (s.glob.retireCount < l.length → ∃ t, exec (.channelRetire i ch) s = .next t ∧ ch ∈ (t.seg i).stack.retiring ∧
      (t.seg i).stack.copies.map (·.old) = (s.seg i).stack.copies.map (·.old) ++ s.channelPages i ch ∧
      t.seg i = { s.seg i with stack := { (s.seg i).stack with retiring := (t.seg i).stack.retiring, copies := (t.seg i).stack.copies } } ∧
      othersKept i s t ∧ t = { s with segs := t.segs }) ∧
    (l.length ≤ s.glob.retireCount → exec (.channelRetire i ch) s = .next s)) ∧
  (∀ (s : State) (p i : Nat) (c : Cls) (x : PageCopy), i ∈ s.partSegs p → x ∈ (s.seg i).stack.copies → x.old ∈ s.loopPages p c i →
    (x.written = true → { x with written := false } ∈ ((s.replaceCopies p c).seg i).stack.copies) ∧
    (x.written = false → (∀ y ∈ (s.seg i).stack.copies, y.new ≠ x.old) → ∀ e ∈ (s.replaceCopies p c).seqs, ∀ m ∈ e.2.map,
      ∀ u ∈ m.2.pages, u.seg = i → u.page ≠ x.old)) ∧
  (∀ (s u : State) (i ch n : Nat), s.segUp i = true → ch ∈ (s.seg i).stack.retiring →
    (s.channelPages i ch ≠ [] → exec (.channelRetireComplete i ch n) s = .next s) ∧ (s.channelPages i ch = [] →
    u = (s.onSeg i (channelOut false ch (s.topPages i n) (s.sharePages i))).repool i →
    ((u.seg i).deadChannels ≤ 4 → ∃ t, exec (.channelRetireComplete i ch n) s = .next t ∧ t = u.raiseLost i (0x60 + ch) s.edge ∧
      ch ∈ (t.seg i).stack.retired ∧ ch ∉ (t.seg i).stack.retiring ∧ t.seqs = s.seqs ∧ t.handles = s.handles) ∧
    (4 < (u.seg i).deadChannels → exec (.channelRetireComplete i ch n) s = .next
      ((u.raiseLost i (0x60 + ch) s.edge).loseAny i 0x04 s.edge)))) ∧
  (∀ (s u w : State) (cyc i ch n : Nat) (rs : List StackRegion), s.segUp i = true → ch < 32 → ch ∉ (s.seg i).stack.failed →
    ch ∉ (s.seg i).stack.retired → (ch ∈ (s.seg i).stack.failing ∨ (s.seg i).stack.trained = false) →
    w = ((s.given (s.stampFor cyc)).onSeg i (channelOut true ch (s.topPages i n) (s.sharePages i))).repool i →
    u = w.channelLost i ch (s.stampFor cyc) →
    exec (.channelFail cyc i ch n rs) s = .next
      ((rs.foldl (fun t r => t.regionLost i (s.stampFor cyc) r) (u.raiseLost i (0x40 + ch) (s.stampFor cyc))).fifthChannel i
        (s.stampFor cyc)) ∧ ch ∈ (w.seg i).stack.failed)

/-- RESIDUE_MISMATCH: counted, a second of its column within 2^20 beats marking the column failed, and a first leaving the fault map as it
is (the model's choice, log entry 46); the step it names, if in flight, is discarded (R92, R354). COLUMN_REMAP once the pipeline has drained,
of one column that leaves a logical column without service, of a serving, draining or held array: the lowest free spare serves that column, a failed spare being marked
SPARE_BAD, and both weight registers hold no tile (R93); with no spare left the array is failed and reported (R94). -/
def Obligations.ArrayColumns : Prop :=
  (∀ (s : State) (cyc i c p : Nat) (a : Arr) (k : Cls), s.segUp i = true → s.serving i = true → c < 264 →
    ((s.seg i).array a).state ≠ .failed → s.stepOf p k = none →
    ∃ t, exec (.residueMismatch cyc i a c p k) s = .next t ∧
      ((t.seg i).array a).residueErrors = ((s.seg i).array a).residueErrors + 1 ∧
      (∀ b, aGet c ((s.seg i).array a).lastResidue = some b → s.time.beat ≤ b + 2 ^ 20 → c ∈ ((t.seg i).array a).faults) ∧
      (aGet c ((s.seg i).array a).lastResidue = none → ((t.seg i).array a).faults = ((s.seg i).array a).faults) ∧
      (t.seg i).array (otherArr a) = (s.seg i).array (otherArr a) ∧
      (t.seg i).health.uncorrected = (s.seg i).health.uncorrected + 1 ∧ othersKept i s t ∧ t = { s with segs := t.segs }) ∧
  (∀ (s : State) (cyc i c p : Nat) (a : Arr) (k : Cls) (st : StepS), s.segUp i = true → s.serving i = true → c < 264 →
    ((s.seg i).array a).state ≠ .failed → s.stepOf p k = some st → st.abandoned = none →
    ∃ t, exec (.residueMismatch cyc i a c p k) s = .next t ∧ t.stepOf p k = none ∧ t.cnt.stepsDiscarded = s.cnt.stepsDiscarded + 1 ∧
      t = ((((s.uncorrectable i).given (s.stampFor cyc)).discardStep p k .discarded .stepLost (s.stampFor cyc)).onSeg i
        (fun g => g.onArray a (residueAt c s.time.beat)))) ∧
  (∀ (s : State) (cyc i c l n : Nat) (a : Arr) (x : ArrayS), s.segUp i = true → x = (s.seg i).array a → x.pendingRemap = [c] →
    x.finishing = [] → x.state ≠ .failed → columnServed x c = some l → freeSpare (spareBad c x).remap = some n →
    ∃ t, exec (.columnRemap cyc i a) s = .next t ∧ ((t.seg i).array a).state = (if x.state = .draining then .serving else x.state) ∧ ((t.seg i).array a).pendingRemap = [] ∧
      ((t.seg i).array a).reg0.tile = none ∧ ((t.seg i).array a).reg1.tile = none ∧
      (n < x.remap.length → (((t.seg i).array a).remap.getD n {}).valid = true ∧ (((t.seg i).array a).remap.getD n {}).logical = l) ∧
      (∀ m, m ≠ n → ((t.seg i).array a).remap.getD m {} = (spareBad c x).remap.getD m {}) ∧
      (t.seg i).array (otherArr a) = (s.seg i).array (otherArr a) ∧ othersKept i s t ∧ t = { s with segs := t.segs }) ∧
  (∀ (s : State) (cyc i c l : Nat) (a : Arr) (x : ArrayS), s.segUp i = true → x = (s.seg i).array a → x.pendingRemap = [c] →
    x.finishing = [] → x.state ≠ .failed → columnServed x c = some l → freeSpare (spareBad c x).remap = none →
    exec (.columnRemap cyc i a) s = .next
      (((s.onSeg i (fun g => g.onArray a remapAll)).given (s.stampFor cyc)).arrayFailed i a (s.stampFor cyc)) ∧
    (remapAll x).state = .failed)

/-! Links. -/

/-- LINK_DOWN: the modules at both ends retrain, and the link carries nothing (R145). LINK_RETRAINING_END of a good retraining whose
two ends authenticate each other: both carry frames, each under a key of its direction at generation 0 from a secret and nonces drawn anew; of
one where an end does not accept the other's certificate, SERIAL, segment or signature, or has no identity key: the module is marked failed and
reported with reason 0x11 (R145, R148, R347); of a failed one: the frames
that were in the link are lost and the module is marked failed, with nothing in the link at both ends, and the detour tables are to be
computed anew (R145, R147). LINK_TAG_FAILURE of a frame of no step in flight, the module's first: the frame is gone, the failure counted on the segment
in TAG_FAILS and UNCORRECTED_ERRORS, and staging SRAM stands; a second within 2^20 beats marks the module failed (R145). KLF_FRAME_RECEIVE:
a frame for another segment is sent on whatever its PASS_TAG; one for this segment arrives; one for whose lane there is no credit stays
where it is (R142, R144, R146); one whose PASS_TAG is not that of the step in flight in the loop that owns its stream is dropped and counted
in STALE_FRAME_DROPS (R144). A chunk is coded with the smallest exponent that holds its largest scaled magnitude; one of zeros alone at −8
without underrange; one with a NaN or an infinity escapes by force; one too large escapes under ESC_OK and is clamped and counted in SAT
without (R135). An element decodes to its code times the scale, times two to the exponent (R136). A combining slot in integer mode holds exact
sums or maxima whatever the order of arrival, and a chunk that escaped or has another exponent turns it to FP32 (R140). A complete sum is
shifted by the least count that brings it within 127, or coded anew beyond exponent 7; maxima are sent with their exponent (R141). -/
def Obligations.LinkFrames : Prop :=
  ((∀ (s : State) (i j : Nat) (d : Dir), s.linkUp i d = true → neighbour s.segs.length i d = some j →
    ∃ t, exec (.linkDown i d) s = .next t ∧
      (t.seg i).hub.module d = { (s.seg i).hub.module d with up := false, authed := false, retraining := true } ∧
      (t.seg j).hub.module (opposite d) = { (s.seg j).hub.module (opposite d) with up := false, authed := false, retraining := true } ∧
      (∀ k, k ≠ i → k ≠ j → t.seg k = s.seg k) ∧ t.linkUp i d = false ∧ t = { s with segs := t.segs }) ∧
  (∀ (s : State) (cyc i j n m : Nat) (d : Dir), s.hasSeg i = true → neighbour s.segs.length i d = some j →
    ((s.seg i).hub.module d).retraining = true → ((s.seg i).hub.module d).failed = false →
    (∀ auth, s.linkAuthentic i j auth = true → ∃ t, exec (.linkRetrainingEnd cyc i d (.good auth)) s = .next t ∧
      (t.seg i).hub.module d = trainModule (trainedKey s.free i d) ((s.seg i).hub.module d) ∧
      ((t.seg i).hub.module d).up = true ∧ ((t.seg i).hub.module d).authed = true ∧ ((t.seg i).hub.module d).retraining = false ∧
      ((t.seg i).hub.module d).key = some (linkKey (Config.freshKey s.free) (Config.nonce s.free) (Config.nonce (s.free + 1))
        (directionId i d 0)) ∧
      (t.seg j).hub.module (opposite d) = trainModule (trainedKey s.free j (opposite d)) ((s.seg j).hub.module (opposite d)) ∧
      (∀ k, k ≠ i → k ≠ j → t.seg k = s.seg k) ∧ t = { s with segs := t.segs, free := s.free + 2 }) ∧
    (∀ auth, s.linkAuthentic i j auth = false → exec (.linkRetrainingEnd cyc i d (.good auth)) s = .next
      (((s.given (s.stampFor cyc)).moduleFailed i d 0x11 (s.stampFor cyc)).raiseLink (s.stampFor cyc) (i, d))) ∧
    (∀ auth, s.linkAuthentic i j auth = true ↔ (s.seg i).trust.identity ≠ none ∧ (s.seg j).trust.identity ≠ none ∧
      auth.near = ⟨true, (s.seg j).trust.serial, i, true⟩ ∧ auth.far = ⟨true, (s.seg i).trust.serial, j, true⟩) ∧
    exec (.linkRetrainingEnd cyc i d (.failed n m)) s = .next
      (((s.given (s.stampFor cyc)).loseInLink cyc i j d n m).moduleFailed i d 0x10 (s.stampFor cyc)) ∧
    (s.waistSegs = [] → ∃ t, exec (.linkRetrainingEnd cyc i d (.failed 0 0)) s = .next t ∧ ((t.seg i).hub.module d).failed = true ∧
      ((t.seg j).hub.module (opposite d)).failed = true ∧ ((t.seg i).hub.module d).up = false ∧
      (∀ k, s.hasSeg k = true → (t.seg k).hub.detour = false) ∧ t = { s with segs := t.segs, time := t.time })) ∧
  (∀ (s : State) (cyc i j n m : Nat) (d : Dir) (e : TxFrame) (f : Frame), s.hasSeg i = true → neighbour s.segs.length i d = some j →
    s.inbound i f = some (j, opposite d, e) →
    s.stepOf (streamPart f.stream) (streamCls f.stream) = none → ((s.seg i).hub.module d).tagFailBeat = none →
    ∃ t, exec (.linkTagFailure cyc i d ⟨.klf f, n, m⟩) s = .next t ∧ (t.seg i).cnt.tagFails = (s.seg i).cnt.tagFails + 1 ∧
      (t.seg i).health.uncorrected = (s.seg i).health.uncorrected + 1 ∧ (t.seg j).hub.tx = (s.seg j).hub.tx.erase e ∧
      (t.seg i).staging = (s.seg i).staging ∧ ((t.seg i).hub.module d).tagFailBeat = some s.time.beat ∧
      (t.seg i).hub.tx = (s.seg i).hub.tx ∧ t = { s with segs := t.segs }) ∧
  (∀ (s : State) (cyc i j n m : Nat) (d : Dir) (l : List (Nat × Cls)), s.hasSeg i = true → neighbour s.segs.length i d = some j →
    s.linkUp i d = true → (∀ x ∈ l, s.stepOf x.1 x.2 = none) → ((s.seg i).hub.module d).tagFailBeat = none →
    ∃ t, exec (.linkTagFailure cyc i d ⟨.other l, n, m⟩) s = .next t ∧ (t.seg i).cnt.tagFails = (s.seg i).cnt.tagFails + 1 ∧
      (t.seg i).health.uncorrected = (s.seg i).health.uncorrected + 1 ∧ ((t.seg i).hub.module d).tagFailBeat = some s.time.beat ∧
      (∀ k, (t.seg k).hub.tx = (s.seg k).hub.tx ∧ (t.seg k).staging = (s.seg k).staging) ∧ t = { s with segs := t.segs }) ∧
  (∀ (s u : State) (cyc i j b n m : Nat) (d : Dir) (e : TxFrame) (f : Frame), neighbour s.segs.length i d = some j →
    s.inbound i f = some (j, opposite d, e) → ((s.seg i).hub.module d).tagFailBeat = some b → s.time.beat ≤ b + 2 ^ 20 →
    u = (((s.takeFrame j (opposite d) e).onModule i d (fun m => { m with tagFailBeat := some s.time.beat })).segCount i
      (fun n => { n with tagFails := n.tagFails + 1 })).frameError cyc i f →
    exec (.linkTagFailure cyc i d ⟨.klf f, n, m⟩) s = .next
      (((u.given (u.stampFor cyc)).loseInLink cyc i j d n m).moduleFailed i d 0x11 (u.stampFor cyc))) ∧
  (∀ (s : State) (i j : Nat) (d : Dir) (e : TxFrame) (f : Frame), s.inbound i f = some (j, d, e) →
    ((s.seg i).hub.credit (opposite d) e.detour = false → exec (.klfFrameReceive i f) s = .next s) ∧
    ((s.seg i).hub.credit (opposite d) e.detour = true → f.dest ≠ i → ∃ t, exec (.klfFrameReceive i f) s = .next t ∧
      t = (s.takeFrame j d e).sendFrame i e.detour (some (opposite d, e.detour)) f ∧
      (∀ k, (t.seg k).staging = (s.seg k).staging ∧ (t.seg k).stack = (s.seg k).stack ∧ (t.seg k).cnt = (s.seg k).cnt)) ∧
    ((s.seg i).hub.credit (opposite d) e.detour = true → f.dest = i →
      exec (.klfFrameReceive i f) s = .next ((s.takeFrame j d e).arrive i (some (opposite d, e.detour)) f)))) ∧
  (∀ (s : State) (i j : Nat) (d : Dir) (e : TxFrame) (f : Frame) (x : SegStep) (st : StepS), s.hasSeg i = true →
    s.inbound i f = some (j, d, e) → f.dest = i → j ≠ i → (s.seg i).hub.credit (opposite d) e.detour = true →
    s.stepOf (streamPart f.stream) (streamCls f.stream) = some st →
    (s.seg i).stepHere (streamPart f.stream) (streamCls f.stream) = some x → st.launchNo % 256 ≠ f.passTag →
    (s.seg i).hub.waiting = [] →
    ∃ t, exec (.klfFrameReceive i f) s = .next t ∧ (t.seg i).cnt.staleDrops = (s.seg i).cnt.staleDrops + 1 ∧
      (t.seg i).staging = (s.seg i).staging ∧ (t.seg i).hub.slots = (s.seg i).hub.slots ∧
      (t.seg j).hub.tx = (s.seg j).hub.tx.erase e ∧ t = { s with segs := t.segs }) ∧
  ((∀ (sc : F32) (escOk : Bool) (x : List F32),
    ((∃ v ∈ x, f32IsNan v = true ∨ f32IsInf v = true) →
      klfCode sc escOk x = { e := 7, esc := true, forced := true, raw := x.map bf16Of }) ∧
    ((∀ v ∈ x, f32IsNan v = false ∧ f32IsInf v = false) →
      (f32Eq (absMax x) 0 = true → klfCode sc escOk x = { e := -8, codes := x.map (fun _ => 0) }) ∧
      ∀ (r : F32) (holds : Nat → Bool) (code : Int → F32 → Int), f32Eq (absMax x) 0 = false → r = f32Div f32One sc →
        (∀ n, holds n = f32Le (f32Mul (absMax x) r) (f32Mul f127 (pow2 ((n : Int) - 8)))) →
        (∀ e v, code e v = f32Rne (f32Mul (f32Mul v r) (pow2 (-e)))) →
        (∀ n, n < 16 → holds n = true → (∀ m, m < n → holds m = false) →
          (klfCode sc escOk x).esc = false ∧ (klfCode sc escOk x).e = (n : Int) - 8 ∧
          (klfCode sc escOk x).codes = x.map (fun v => clampInt (-127) 127 (code ((n : Int) - 8) v)) ∧
          ((klfCode sc escOk x).under = true ↔ n = 0 ∧ ∀ q ∈ (klfCode sc escOk x).codes, q.natAbs < 8)) ∧
        ((∀ n, n < 16 → holds n = false) →
          (escOk = true → klfCode sc escOk x = { e := 7, esc := true, raw := x.map bf16Of }) ∧
          (escOk = false → (klfCode sc escOk x).esc = false ∧ (klfCode sc escOk x).e = 7 ∧
            (klfCode sc escOk x).codes = x.map (fun v => clampInt (-127) 127 (code 7 v)) ∧
            (klfCode sc escOk x).sat = min 255 (x.filter (fun v => 127 < (code 7 v).natAbs)).length)))) ∧
  (∀ (sc : F32) (f : Frame), (f.esc = false → ∀ n : Nat, (decodeChunk sc f)[n]? =
      (f.codes[n]?).map (fun q => f32Mul (f32Mul (f32OfInt q) sc) (pow2 f.exp))) ∧
    (f.esc = true → decodeChunk sc f = f.raw.map f32OfBf16)) ∧
  (∀ (sc : F32) (sum : Bool) (f g : Frame) (k : CombSlot), k.got ≠ [] → k.fp = false → f.esc = false → f.exp = k.e →
    ((combine sc sum f k).fp = false ∧ (combine sc sum f k).e = k.e ∧ ∀ n : Nat, (combine sc sum f k).ints[n]? =
      (match k.ints[n]?, f.codes[n]? with
        | some a, some b => some (if sum then a + b else max a b)
        | _, _ => none)) ∧
    (g.esc = false → g.exp = k.e → (combine sc sum g (combine sc sum f k)).ints = (combine sc sum f (combine sc sum g k)).ints) ∧
    ((g.esc = true ∨ g.exp ≠ k.e) → (combine sc sum g k).fp = true ∧ ∀ n : Nat, (combine sc true g k).floats[n]? =
      (match k.ints[n]?, (decodeChunk sc g)[n]? with
        | some a, some b => some (f32Add (f32Mul (f32Mul (f32OfInt a) sc) (pow2 k.e)) b)
        | _, _ => none))) ∧
  (∀ (sc : F32) (escOk : Bool) (e : Int) (v : List Int) (m n : Nat), m = v.foldl (fun a x => max a x.natAbs) 0 → n ≤ 16 →
    rneShift (m : Int) n ≤ 127 → (∀ j, j < n → 127 < rneShift (m : Int) j) →
    (e + (n : Int) ≤ 7 → (codeInts sc escOk true e v).e = e + (n : Int) ∧
      (codeInts sc escOk true e v).codes = v.map (fun x => rneShift x n) ∧ (codeInts sc escOk true e v).sat = 0) ∧
    (7 < e + (n : Int) → codeInts sc escOk true e v = klfCode sc escOk (v.map (fun q => f32Mul (f32Mul (f32OfInt q) sc) (pow2 e)))) ∧
    (codeInts sc escOk false e v).e = e ∧ (codeInts sc escOk false e v).codes = v))

/-- DETOUR_INSTALL after a failure: the manager sends the tables to every segment, raises SEGMENT_LOST with scope LINK for each failed module not yet
told, each segment sends on what waited for the tables, and segments that no healthy route reaches are lost with reason 0x02 (R147).
LINK_REKEY after 2^32 frames of a direction: its key and generation move on, its counter starts again, and no frame is lost (R148, R347).
LINK_TRAINED at full rate with a peer that is authentic, outside a rejoin: both ends carry frames under new keys; at less than full rate the module is
marked failed with reason 0x10; with a peer that is not authentic it is marked failed and reported with reason 0x11 (R347, R408). -/
def Obligations.LinkService : Prop :=
  (∀ (s u v : State) (cyc : Nat), s.mgrUp = true → (∃ i d, s.hasSeg i = true ∧ ((s.seg i).hub.module d).failed = true) →
    (∃ i, s.hasSeg i = true ∧ (s.seg i).hub.detour = false) →
    v = s.untold.foldl (fun t x => t.raiseLink (s.stampFor cyc) x)
      ((s.given (s.stampFor cyc)).controlAll ((List.range s.segs.length).filter (· != s.mgr))) →
    u = (List.range v.segs.length).foldl State.reroute v →
    exec (.detourInstall cyc) s = .next (u.unreached.foldl (fun t i => t.loseSegment i 0x02 (s.stampFor cyc)) u)) ∧
  (∀ (s : State) (i : Nat) (d : Dir), s.hasSeg i = true → s.linkUp i d = true → 2 ^ 32 ≤ ((s.seg i).hub.module d).txFrames →
    ∃ t, exec (.linkRekey i d) s = .next t ∧
      ((t.seg i).hub.module d).keyGen = (((s.seg i).hub.module d).keyGen + 1) % 512 ∧ ((t.seg i).hub.module d).txFrames = 0 ∧
      (∀ k, ((s.seg i).hub.module d).key = some k → ((t.seg i).hub.module d).key = some (nextLinkKey k)) ∧
      (t.seg i).hub.tx = (s.seg i).hub.tx ∧ (∀ d', d' ≠ d → (t.seg i).hub.module d' = (s.seg i).hub.module d') ∧ othersKept i s t ∧
      t = { s with segs := t.segs }) ∧
  (∀ (s : State) (i j : Nat) (d : Dir), s.hasSeg i = true → neighbour s.segs.length i d = some j →
    (s.atWaist i d = false ∨ s.other = none) → s.linkFailed i d = false →
    ((s.seg i).hub.module d).up = false → ((s.seg i).hub.module d).retraining = false → (s.seg i).inReset = false →
    (s.seg j).inReset = false → s.power.hush ≠ 1 →
    (∀ auth, s.linkAuthentic i j auth = true → s.roles.rejoinBy = none → ∃ t, exec (.linkTrained i d true auth) s = .next t ∧ t.linkUp i d = true ∧
      ((t.seg i).hub.module d).keyGen = 0 ∧ ((t.seg i).hub.module d).txFrames = 0 ∧
      ((t.seg i).hub.module d).key = some (trainedKey s.free i d) ∧ ((t.seg j).hub.module (opposite d)).key = some (trainedKey s.free j (opposite d)) ∧
      (∀ k, k ≠ i → k ≠ j → t.seg k = s.seg k) ∧ t = { s with segs := t.segs, free := s.free + 2 }) ∧
    (∀ auth, exec (.linkTrained i d false auth) s = .next (s.moduleFailed i d 0x10 s.edge)) ∧
    ∀ auth, s.linkAuthentic i j auth = false → exec (.linkTrained i d true auth) s = .next ((s.moduleFailed i d 0x11 s.edge).raiseLink s.edge (i, d)))

/-! The span. -/

/-- SESSION_OPEN at a worker from the span manager (R11, R34, R150 to R152, R348): of another major version it is refused with reason 1,
while a session is held with reason 2, with a hello that fails its checks with reason 3; the first of a trusted span manager opens the
session at the lower MINOR under keys of both directions, and is answered by SESSION_ACCEPT with SEQ 0; one of the present session again
has no effect; at another block, or with another length, it is dropped and counted. SESSION_ACCEPT at the span manager: the session opens
at the lower MINOR under its keys; with a hello that fails its checks it is closed, and its next try is 200,000 beats on. SESSION_REFUSE
closes the session. SPAN_ACK frees the datagrams that it newly covers, with the passages whose answers it covers (R251), and one that covers none anew
frees none; CLOSE ends the session. SPAN_DATAGRAM_DROP counts in SPAN_FRAME_DROPS a frame that the port does not accept, by its MAC, EtherType,
next header, addresses, port and checksum, and in SPAN_DATAGRAM_DROPS the datagram of one that it does (R411). SPAN_RETRANSMIT of a datagram overdue: it is sent again, or, after 8 without an ACK, the session ends.
SPAN_SESSION_REKEY after 2^28 datagrams: the direction's key and generation move on. SPAN_SESSION_RENEW: the session is closed and a new
one with the peer opened. SPAN_SESSION_RETRY of a listed peer without a session: one is opened. That a repeated SESSION_OPEN has no effect,
that a renewal is one close and one open, that the first opening is a try like those that follow, and the address a worker accepts before it
holds a session, are the model's (log entry 32). -/
def Obligations.SpanSessions : Prop :=
  ((∀ (s : State) (hd : SpanHeader) (h : SpanHello), s.spanUp = true → s.isWorker = true → hd.block = 0 → hd.length = 376 →
    (s.spanSession hd.session ≠ none → exec (.sessionOpen hd h) s = .next s) ∧
    (s.spanSession hd.session = none →
      (hd.major ≠ 3 → exec (.sessionOpen hd h) s = .next (s.refuseSession hd 1)) ∧
      (hd.major = 3 → (∃ x ∈ s.span.sessions, x.phase ≠ .closed) → exec (.sessionOpen hd h) s = .next (s.refuseSession hd 2)) ∧
      (hd.major = 3 → (∀ x ∈ s.span.sessions, x.phase = .closed) →
        (s.trusts 0 h = false → exec (.sessionOpen hd h) s = .next (s.spanAuthFail.refuseSession hd 3)) ∧
        (s.trusts 0 h = true → ∃ t x, exec (.sessionOpen hd h) s = .next t ∧ t.spanSession hd.session = some x ∧ x.phase = .opened ∧
          x.peer = 0 ∧ x.minor = min 2 hd.minor ∧ x.txSeq = 1 ∧ x.addr = hd.source ∧ x.txKey.isSome = true ∧ x.rxKey.isSome = true ∧
          (∃ m ∈ t.span.out, m.type = 0x02 ∧ m.session = hd.session ∧ m.seq = 0) ∧ t.free = s.free + 1 ∧
          t = { s with span := t.span, free := t.free })))) ∧
  (∀ (s : State) (hd : SpanHeader) (h : SpanHello), s.spanUp = true → (s.isWorker = false ∨ hd.block ≠ 0 ∨ hd.length ≠ 376) →
    exec (.sessionOpen hd h) s = .next s.dropDatagram) ∧
  (∀ (s u : State) (hd : SpanHeader) (h : SpanHello) (x : SpanSession), s.spanUp = true → s.isSpanManager = true →
    s.spanSession hd.session = some x → x.phase = .opening → x.peer = hd.block → x.had hd.seq = false → u = s.spanTaken hd →
    (hd.length = 376 → s.trusts hd.block h = true → exec (.sessionAccept hd h) s = .next
      ((u.onSpan hd.session (fun x => spanKeys true h.ephemeral x.nonce h.nonce { x with phase := .opened, minor := min 2 hd.minor })).spanAcks
        hd.session)) ∧
    (hd.length = 376 → s.trusts hd.block h = false → exec (.sessionAccept hd h) s = .next
      (((u.spanAuthFail.spanSend hd.session 0x09 0 []).onSpan hd.session
        (fun x => { closedSession x with retryAt := some (s.time.beat + 200000) })).spanAcks hd.session)) ∧
    (∀ r, exec (.sessionRefuse hd r) s = .next (s.onSpan hd.session closedSession)))) ∧
  ((∀ (s : State) (hd : SpanHeader) (x : SpanSession), s.spanUp = true → s.spanSession hd.session = some x → x.phase = .opened →
    x.peer = hd.block →
    (∃ t y, exec (.spanAck hd) s = .next t ∧ t.spanSession hd.session = some y ∧
      (x.acked < (hd.ack + 1) % 2 ^ 32 → (hd.ack + 1) % 2 ^ 32 ≤ x.txSeq →
        y = { x with acked := (hd.ack + 1) % 2 ^ 32, noAdvance := 0, unacked := x.unacked.filter (fun e => (hd.ack + 1) % 2 ^ 32 ≤ e.1) }) ∧
      ((hd.ack + 1) % 2 ^ 32 ≤ x.acked → y = x) ∧
      t.span.asks = s.span.asks.filter (fun a => !(a.session == hd.session && a.sent.any (· < y.acked))) ∧
      (∀ i, t.seg i = { s.seg i with passageUsed := (t.seg i).passageUsed }) ∧
      (t.span.asks = s.span.asks → t.segs = s.segs) ∧
      t = { s with span := { s.span with sessions := t.span.sessions, asks := t.span.asks }, segs := t.segs }) ∧
    exec (.close hd) s = .next (s.spanEnds hd.session)) ∧
  (∀ (s : State) (f : RxFrame), s.spanUp = true →
    (s.frameAccepted f = false → exec (.spanDatagramDrop f) s = .next (s.count (fun c => { c with frameDrops := c.frameDrops + 1 }))) ∧
    (s.frameAccepted f = true → exec (.spanDatagramDrop f) s = .next (s.count (fun c => { c with datagramDrops := c.datagramDrops + 1 }))) ∧
    (s.frameAccepted f = true ↔ f.rxErr = false ∧ f.mac = s.glob.localMac ∧ f.etherType = 0x86DD ∧ f.next = 17 ∧ f.dest = s.glob.localIp ∧
      f.extension = false ∧ f.port = s.glob.spanPort ∧ f.checksum = udpChecksumOf f.source f.dest f.srcPort f.port f.data ∧
      ((∃ x ∈ s.glob.spanPeers, x.2 = f.source) ∨
        (s.isWorker = true ∧ ∀ x ∈ s.span.sessions, x.phase = .closed ∨ x.addr = f.source)))) ∧
  (∀ (s : State) (id seq b : Nat) (x : SpanSession), s.spanUp = true → s.spanSession id = some x → (seq, b) ∈ x.unacked →
    b + s.glob.spanRetx ≤ s.time.beat →
    (8 ≤ x.noAdvance → exec (.spanRetransmit id seq) s = .next (s.spanEnds id)) ∧
    (x.noAdvance < 8 → exec (.spanRetransmit id seq) s = .next (s.sendAgain x seq))) ∧
  (∀ (s : State) (id : Nat) (x : SpanSession), s.spanSession id = some x → x.phase = .opened →
    ((x.txGen + 1) * 2 ^ 28 ≤ x.txSeq → exec (.spanSessionRekey id true) s = .next
      (s.onSpan id (fun x => { x with txGen := x.txGen + 1, txKey := x.txKey.map nextSpanKey }))) ∧
    ((x.rxGen + 1) * 2 ^ 28 ≤ x.rxNext → exec (.spanSessionRekey id false) s = .next
      (s.onSpan id (fun x => { x with rxGen := x.rxGen + 1, rxKey := x.rxKey.map nextSpanKey }))) ∧
    (s.spanUp = true → s.isSpanManager = true → x.txSeq < 2 ^ 31 → x.rxNext < 2 ^ 31 →
      exec (.spanSessionRenew id) s = .next (((s.spanSend id 0x09 0 []).onSpan id closedSession).openSpan x.peer))) ∧
  (∀ (s : State) (peer a : Nat), s.spanUp = true → s.isSpanManager = true → (peer, a) ∈ s.glob.spanPeers → s.mayOpen peer = true →
    ∃ t x, exec (.spanSessionRetry peer) s = .next t ∧ x ∈ t.span.sessions ∧ x.peer = peer ∧ x.phase = .opening ∧ x.id = s.span.nextId ∧
      t.span.nextId = (s.span.nextId + 1) % 2 ^ 32 ∧ t = { s with span := t.span, free := s.free + 1 }))

/-- Datagrams of an open session whose LENGTH and RECORDS fit their records, delivered for the first time and acknowledged (R150 to R152):
QUERY at a worker takes each of its records, HEAP_RESULT each at a span manager, CANDIDATE_REF and KLF_DATA each of theirs. A datagram
already delivered only brings its ACK, and draws none anew; one that does not fit, and one of an unknown session, is dropped and counted
(of the former the model's choice, log entry 32). A query on an index that
the worker has becomes a sequence of it, with NPROBE and SCAN_K clamped, else an empty list answers it (R246). A list joins a plan that
takes results of the session, else its entries are late and counted (R247, R248). A passage asked for, in range, is fetched (R251). KLF data is written
into its window and nowhere else, or dropped and counted (R153). SPAN_WINDOW_REMOVE: a window closed earlier is gone (R154). SPAN_LINK_UP and
SPAN_LINK_DOWN: the stream is as it says, and while a stream is up every session is on one that is (R152, R410). -/
def Obligations.SpanTraffic : Prop :=
  ((∀ (s u : State) (hd : SpanHeader) (q : QueryRec) (qs : List QueryRec) (h : HeapRec) (hs : List HeapRec) (c : CandRef) (cs : List CandRef)
    (k : KlfRecord) (ks : List KlfRecord),
    s.spanComes hd → u = s.spanTaken hd →
    (s.isWorker = true → spanFits hd (sumNat ((q :: qs).map queryBytes)) (qs.length + 1) = true →
      exec (.query ⟨hd, qs⟩ q.deadline q.tag q.indexId q.nprobe q.scanK q.dim q.vector) s = .next
        (((q :: qs).foldl (fun v r => v.serveQuery hd.session r) u).spanAcks hd.session)) ∧
    (s.isSpanManager = true → spanFits hd (sumNat ((h :: hs).map (fun r => 16 + 16 * r.entries.length))) (hs.length + 1) = true →
      exec (.heapResult ⟨hd, hs⟩ h.tag h.first h.entries h.last) s = .next
        (((h :: hs).foldl (fun v r => v.takeHeap hd.session r) u).spanAcks hd.session)) ∧
    (spanFits hd (sumNat ((c :: cs).map candBytes)) (cs.length + 1) = true →
      exec (.candidateRef hd c cs) s = .next (((c :: cs).foldl (fun v r => v.takeCandRef hd.session r) u).spanAcks hd.session)) ∧
    (spanFits hd (sumNat ((k :: ks).map klfBytes)) (ks.length + 1) = true →
      exec (.klfData ⟨hd, ks⟩ k.frame k.scale k.destSeg k.window k.offset) s = .next
        (((k :: ks).foldl State.takeRecord u).spanAcks hd.session)) ∧
    (spanFits hd (sumNat ((k :: ks).map klfBytes)) (ks.length + 1) = false →
      exec (.klfData ⟨hd, ks⟩ k.frame k.scale k.destSeg k.window k.offset) s = .next s.dropDatagram)) ∧
  (∀ (s : State) (hd : SpanHeader) (k : KlfRecord) (ks : List KlfRecord), s.spanUp = true → spanFits hd (sumNat ((k :: ks).map klfBytes)) (ks.length + 1) = true →
    (∀ x, s.spanSession hd.session = some x → x.phase = .opened → x.peer = hd.block → x.had hd.seq = true →
      exec (.klfData ⟨hd, ks⟩ k.frame k.scale k.destSeg k.window k.offset) s =
        .next (s.takeAck hd.session hd.ack)) ∧
    (s.spanSession hd.session = none →
      exec (.klfData ⟨hd, ks⟩ k.frame k.scale k.destSeg k.window k.offset) s = .next s.dropDatagram))) ∧
  ((∀ (s : State) (hd : SpanHeader) (r : QueryRec), s.spanComes hd → s.isWorker = true → spanFits hd (queryBytes r) 1 = true →
    (s.spanIndex r.indexId r.dim = none →
      exec (.query ⟨hd, []⟩ r.deadline r.tag r.indexId r.nprobe r.scanK r.dim r.vector) s = .next
      (((s.spanTaken hd).emptyHeap hd.session r.tag).spanAcks hd.session)) ∧
    (∀ x n, s.spanIndex r.indexId r.dim = some x → s.freeIndex = some n → ∃ t q y,
      exec (.query ⟨hd, []⟩ r.deadline r.tag r.indexId r.nprobe r.scanK r.dim r.vector) s = .next t ∧ t.live n = some q ∧ q.req.spanQuery = some r.tag ∧
      q.req.part = s.glob.spanPartition ∧ q.req.cls = .lc ∧
      t.span.queries = s.span.queries ++ [y] ∧ y.tag = r.tag ∧ y.session = hd.session ∧ y.indexId = r.indexId ∧
      y.nprobe = clampNat 1 (ixNlist x.desc) r.nprobe ∧ y.scanK = clampNat 1 1024 r.scanK ∧ y.vector = r.vector ∧ y.deadline = r.deadline ∧
      t = { s with seqs := t.seqs, span := t.span, segs := (s.spanTaken hd).segs })) ∧
  (∀ (s u : State) (hd : SpanHeader) (r : HeapRec), s.spanComes hd → u = s.spanTaken hd → s.isSpanManager = true →
    spanFits hd (16 + 16 * r.entries.length) 1 = true →
    (∀ k pl, s.tagged r.tag = some k → s.planOf k = some pl → takesResults s.time.beat hd.session pl = true →
      exec (.heapResult ⟨hd, []⟩ r.tag r.first r.entries r.last) s = .next ((u.onPlan k (addResults hd.session r.entries r.last)).spanAcks hd.session)) ∧
    ((s.tagged r.tag = none ∨
        ∃ k pl, s.tagged r.tag = some k ∧ s.planOf k = some pl ∧ takesResults s.time.beat hd.session pl = false) →
      exec (.heapResult ⟨hd, []⟩ r.tag r.first r.entries r.last) s = .next
        ((u.count (fun c => { c with spanLate := c.spanLate + r.entries.length })).spanAcks hd.session))) ∧
  (∀ (s : State) (hd : SpanHeader) (ref tag : Nat) (g : Region), s.spanComes hd → s.isWorker = true → spanFits hd 16 1 = true →
    s.region ref = some g → bits 55 0 ref < g.passages →
    ∃ t a, exec (.candidateRef hd (.ask ref tag) []) s = .next t ∧ t.span.asks = (s.spanTaken hd).span.asks ++ [a] ∧ a.session = hd.session ∧ a.ref = ref ∧
      a.tag = tag ∧ t = { s with span := t.span, segs := t.segs }) ∧
  (∀ (s : State) (hd : SpanHeader) (r : KlfRecord), s.spanComes hd → spanFits hd (klfBytes r) 1 = true →
    (s.windowFor r.destSeg r.window r.offset = none → ∃ t,
      exec (.klfData ⟨hd, []⟩ r.frame r.scale r.destSeg r.window r.offset) s = .next t ∧ t.segs = (s.spanTaken hd).segs ∧
      t.cnt.windowDrops = s.cnt.windowDrops + 1 ∧ t = { s with span := t.span, cnt := t.cnt, segs := t.segs }) ∧
    (∀ x, s.windowFor r.destSeg r.window r.offset = some x → ∃ t,
      exec (.klfData ⟨hd, []⟩ r.frame r.scale r.destSeg r.window r.offset) s = .next t ∧
      (t.seg r.destSeg).staging = memWriteBytes (s.seg r.destSeg).staging (256 * x.base + r.offset) ((chunkBytes r.scale r.frame).take 512) ∧
      (∀ a, (a < 256 * x.base + r.offset ∨ 256 * x.base + r.offset + 512 ≤ a) →
        memRead (t.seg r.destSeg).staging a = memRead (s.seg r.destSeg).staging a) ∧
      t.seg r.destSeg = { (s.spanTaken hd).seg r.destSeg with staging := (t.seg r.destSeg).staging } ∧
      othersKept r.destSeg (s.spanTaken hd) t ∧
      t = { s with span := t.span, segs := t.segs }))) ∧
  (∀ (s : State) (w : Nat), (∃ x ∈ s.span.removing, x.id = w) →
    exec (.spanWindowRemove w) s = .next
      { s with span := { s.span with removing := s.span.removing.filter (fun x => x.id != w) } }) ∧
  (∀ (s : State) (k : Nat) (up : Bool), k < 4 →
    ∃ t, exec (if up then .spanLinkUp k else .spanLinkDown k) s = .next t ∧
      (k < s.span.linkUp.length → t.span.linkUp[k]? = some up) ∧ (∀ j, j ≠ k → t.span.linkUp[j]? = s.span.linkUp[j]?) ∧
      (∀ x ∈ t.span.sessions, (∃ j, j < 4 ∧ t.span.up j = true) → t.span.up x.stream = true) ∧
      t.span.sessions.map (·.id) = s.span.sessions.map (·.id) ∧ t = { s with span := t.span })

/-! Fencing, takeover and split. -/

/-- Silence (R363 to R367, R369): a segment without heartbeats for 40 beats fences, its work in flight discarded and its stack kept, its
queues in HOLD and its notice queue owned by the host. A manager without acknowledgements for 32 beats fences itself, with its endpoints'
queues, and no host ring write waits any longer at a port. The standby asks the others over the control channel; each answers SILENT at a heartbeat age of 36 beats or more, else ALIVE. At age 48 it takes over only
when some answer is SILENT, none is ALIVE and its mirror was current when it fenced; else it stays fenced. The new manager keeps the
tenants as last mirrored and no live sequence, stops every step, has MANAGER_TAKEOVER first in its notice queue where no read waits for its
words, and recovers at most 4,000 beats; with RECOVERY_END the queues of the
serving segments that the test port does not hold are NORMAL again. STANDBY_NAMING: the first eligible segment is copied to. A read
stalled on a queue may be answered, on the port it came by, where one of these ends it. -/
def Obligations.Silence : Prop :=
  (∀ (s : State) (i : Nat), i ≠ s.mgr → (s.seg i).state = .serving → (s.seg i).lastHb + 40 ≤ s.time.beat → s.power.hush = 0 →
    s.inSecond i = false →
    ∃ t, exec (.fence i) s = .next t ∧ (t.seg i).state = .fenced ∧ (t.seg i).fenceReason = 0x01 ∧ (t.seg i).steps = [] ∧
      (t.seg i).allocs = [] ∧ (t.seg i).kernels = [] ∧ (t.seg i).nq.hold = true ∧ (t.seg i).nq.owner = true ∧
      (t.seg i).i3cIn.hold = true ∧ (t.seg i).i3cOut.hold = true ∧ (t.seg i).stack = (s.seg i).stack ∧
      (t.seg i).staging = (s.seg i).staging ∧ (t.seg i).trust = (s.seg i).trust ∧
      (∀ j, j ≠ i → ∃ g, answersOnly (s.seg j) g ∧ framesSent g (t.seg j)) ∧
      (s.roles.mirrorSeg ≠ some i → t.roles = s.roles ∧ t.mirror = s.mirror ∧ othersAnswered i s t) ∧
      (s.roles.standby = some i → t.roles.confirm = { asked := s.confirmTo } ∧ t.mirror.currentAtFence = s.mirror.current) ∧
      t = { s with segs := t.segs, roles := t.roles, mirror := t.mirror }) ∧
  ((∀ s : State, s.hasSeg s.mgr = true → s.mgrUp = true → 2 ≤ s.segs.length → s.power.hush = 0 → s.isolated = true →
    (∀ x ∈ s.objs.eps, x.transfers = []) →
    ∃ t, exec .managerSelfFence s = .next t ∧ t.roles = { s.roles with selfFenced := true } ∧ (t.seg s.mgr).state = .fenced ∧
      (t.seg s.mgr).fenceReason = 0x03 ∧ (t.seg s.mgr).nq.hold = true ∧ (t.seg s.mgr).stack = (s.seg s.mgr).stack ∧
      (∀ x ∈ t.objs.eps, x.inq.hold = true ∧ x.outq.hold = true) ∧
      (∀ j, j ≠ s.mgr → answersOnly { s.seg j with port := stopRings (s.seg j).port } (t.seg j)) ∧
      (∀ j, (∀ r ∈ (t.seg j).port.waiting, r.what.ofRing = false) ∧ ∀ e ∈ (t.seg j).port.retry, e.2.what.ofRing = false) ∧
      t = { s with segs := t.segs, roles := t.roles, objs := t.objs }) ∧
  (∀ s : State, s.mgrUp = true → 2 ≤ s.segs.length → s.power.hush = 0 → s.isolated = true →
    exec .managerSelfFence s = .next s.fenceManager)) ∧
  ((∀ (s : State) (i : Nat), i ∈ s.roles.confirm.asked → s.segUp i = true →
    exec (.confirm i) s = .next { s.control i (s.roles.mirrorSeg.getD s.mgr) with roles := { s.roles with confirm := { s.roles.confirm with
      asked := s.roles.confirm.asked.filter (· != i),
      answers := s.roles.confirm.answers ++ [(i, decide ((s.seg i).lastHb + 36 ≤ s.time.beat))] } } }) ∧
  (∀ (s : State) (i : Nat) (silent : Bool), (i, silent) ∈ s.roles.confirm.answers →
    ∃ t, exec (.confirmAnswer i silent) s = .next t ∧ (silent = true → i ∈ t.roles.confirm.silent ∧
        t.roles.confirm.alive = s.roles.confirm.alive) ∧
      (silent = false → i ∈ t.roles.confirm.alive ∧ t.roles.confirm.silent = s.roles.confirm.silent) ∧
      t.roles = { s.roles with confirm := t.roles.confirm } ∧ t = { s with roles := t.roles })) ∧
  (∀ (s : State) (cyc b : Nat) (stale : List Nat), s.roles.mirrorSeg = some b → (s.seg b).state = .fenced → (s.seg b).fenceReason = 0x01 →
    (s.seg b).lastHb + 48 ≤ s.time.beat → s.power.hush = 0 →
    (s.mayTakeOver = true → s.hasSeg b = true → b ≠ s.mgr → (∀ x ∈ s.objs.eps, x.transfers = []) → ∃ t, exec (.takeover cyc stale) s = .next t ∧
      t.roles = { manager := b, recovering := some (s.time.beat + 4000), announce := true } ∧ t.seqs = [] ∧ t.tenants = s.mirror.applied.tenants ∧
      t.objs.staged = [] ∧ (t.seg b).state = .serving ∧ (t.seg b).hbFrom = b ∧ (t.seg s.mgr).state = (if s.hasSeg s.mgr then .lost else .held) ∧
      t.cnt.takeovers = s.cnt.takeovers + 1 ∧
      ((s.seg b).nq.stalled = [] → 4 ≤ (s.seg b).nq.cap → ((t.seg b).nq.words.take 4).map (·.data) =
        (noticeWords 0x0D 0x0 0 0 (s.stampFor cyc) (takeoverDetail s.mgr b s.mirror.applied.seqNo)).map (· % 2 ^ 64)) ∧ t.time.beat = s.time.beat ∧ (∀ q c, t.stepOf q c = none)) ∧
    (s.mayTakeOver = false → exec (.takeover cyc stale) s = .next (s.unconfirmed b)) ∧
    (s.mayTakeOver = true → exec (.takeover cyc stale) s = .next ((s.given (s.stampFor cyc)).takeOver b stale (s.stampFor cyc)))) ∧
  (∀ (s : State) (b : Nat), s.roles.recovering = some b →
    ∃ t, exec .recoveryEnd s = .next t ∧ t.roles = { s.roles with recovering := none } ∧
      (∀ i, i ∉ s.roles.farHalf → (s.seg i).state = .serving → (s.seg i).trust.testHeld = false →
        (t.seg i).nq.hold = false ∧ (t.seg i).nq.owner = false ∧ (t.seg i).state = .serving) ∧
      (∀ i, (i ∈ s.roles.farHalf ∨ (s.seg i).state ≠ .serving) →
        answersOnly { s.seg i with nq := { (s.seg i).nq with answers := (t.seg i).nq.answers } } (t.seg i)) ∧
      t = { s with segs := t.segs, roles := t.roles, objs := t.objs }) ∧
  (∀ (s : State) (i : Nat), s.mgrUp = true → s.cfg.kind.hasStandby = true → s.roles.standby = none → s.roles.candidate = none →
    (s.roles.splitState = 0 ∨ s.roles.splitState = 3) → s.firstStandbyComes = false → s.eligible i = true →
    (∀ j, j < i → s.eligible j = false) →
    exec .standbyNaming s = .next { s with roles := { s.roles with candidate := some i },
                                           mirror := { s.mirror with copying := true, current := false } })

/-- Split mode and the rejoin (R371 to R373): a write of 1 to FENCE_ACTION through the target of the fenced standby, whose mirror was
current and whose port has trained, makes it manager of a second block of its half: it keeps the tenants as last mirrored, no live
sequence, no entry with a dim record and, of the partitions as its mirror holds them, none with a segment outside the half, it has new keys,
and it recovers at most 4,000 beats; the first block goes on with its own tables. A standby that fenced without a waist cut has its half cut
off first (the model's choice, log entry 35). Else the write is LOCKED. That the two blocks take turns at beat edges,
and that a host's access or message goes to the block of its segment, is the model's choice (log entry 35). A write of 2 prepares
the half for the rejoin: a fenced half makes a warm reset and waits fenced with reason REJOIN; a second block first ends every live
sequence, and is over when their records are written. A write of 1 to REJOIN at the first block's manager returns the waist modules to
service; the rejoin ends when a link trains, whereupon the far half's segments, the lost ones with them, join again, or after 2,000 beats,
with the modules failed again. A second block that was not prepared ends its sequences first, those that rest on a dim record with
SEAL_FAIL, and its dim records are counted as failed (R350; that they end first is the model's choice, log entry 35). -/
def Obligations.SplitAndRejoin : Prop :=
  ((∀ (s u m : State) (cyc id k : Nat) (p : Path), p.ep = .i3c k → s.arrives p [oamWord 2 (entryHead id 0x2000 0x0D 0), 1] = true →
    s.roles.mirrorSeg = some k → s.transfer (.i3c k) id = none → s.unretired = true →
    u = s.writeTaken cyc p (entryHead id 0x2000 0x0D 0) 1 → m = u.asMirrored →
    ((s.seg k).state = .fenced → s.mirror.currentAtFence = true → (s.seg k).port.trained = true → s.roles.splitState ≠ 0 →
      ∃ t, exec (.splitMode cyc p id) s = .next t ∧
        t = (u.startSecond k u.time.now).send (.i3c k) (ackWords (entryHead id 0x2000 0x0D 0) 0) ∧
        t.roles = { manager := k, isSecond := true, splitState := 2, farHalf := s.otherHalf k,
                    recovering := some (s.time.beat + 4000), announce := true } ∧
        t.seqs = [] ∧ t.tenants = s.mirror.applied.tenants ∧ t.glob.spanRole = 0 ∧
        (∀ e ∈ t.handles, e.2.tier ≠ .dim ∧ e.2.tier ≠ .both) ∧
        (∀ q, (∃ i ∈ maskBits 20 (m.part q).segMask, i ∉ s.halfOf k) → (t.part q).segMask = 0) ∧
        (∀ q, (∀ i ∈ maskBits 20 (m.part q).segMask, i ∈ s.halfOf k) → (t.part q).segMask = (m.part q).segMask) ∧
        (∀ q, q < 15 → ∃ x, t.trust.envKeys[q]? = some x ∧ x.curId = 1 ∧ x.curEpoch = 1) ∧
        (∀ i ∈ s.halfOf k, (s.seg i).state = .fenced → (t.seg i).state = .serving ∧ (t.seg i).hbFrom = k) ∧
        (∃ b, t.other = some b ∧ b.seqs = s.seqs ∧ b.tenants = s.tenants ∧ b.handles = s.handles ∧ b.parts = s.parts ∧
          b.roles = { s.roles with splitState := 2 } ∧ b.segs = u.segs)) ∧
    ((s.seg k).state = .fenced → s.mirror.currentAtFence = true → (s.seg k).port.trained = true → s.roles.splitState = 0 →
      exec (.splitMode cyc p id) s = .next (((fun (v : State) => { v with mirror := { v.mirror with currentAtFence := true } })
        (u.waistCut u.time.now)).startSecond k u.time.now |>.send (.i3c k) (ackWords (entryHead id 0x2000 0x0D 0) 0))) ∧
    (((s.seg k).state = .fenced ∨ s.reaches_ (.i3c k) = true) →
      ((s.seg k).state ≠ .fenced ∨ s.mirror.currentAtFence = false ∨ (s.seg k).port.trained = false) →
      exec (.splitMode cyc p id) s = .next
        (u.send (.i3c k) (abortWords (entryHead id 0x2000 0x0D 0) (abortCode 0xD 0))))) ∧
  (∀ (s : State) (b : Block) (i cyc w g : Nat), s.other = some b → s.inSecond i = true → s.turn.inSecond i = false →
    exec (.qdataRead ⟨cyc, i, g⟩) s = s.inBlockOf true (exec (.qdataRead ⟨cyc, i, g⟩)) ∧
    exec (.qcontrolWrite ⟨cyc, i, g⟩ w) s = s.inBlockOf true (exec (.qcontrolWrite ⟨cyc, i, g⟩ w)) ∧
    exec (.queueFlush ⟨cyc, i, g⟩) s = s.inBlockOf true (exec (.queueFlush ⟨cyc, i, g⟩)) ∧
    exec (.qstatusClear ⟨cyc, i, g⟩ w) s = s.inBlockOf true (exec (.qstatusClear ⟨cyc, i, g⟩ w)) ∧
    (∀ (p : Path) (h : OamHead) (x y : Nat), p.ep = .i3c i →
      exec (.read cyc p h x y) s = s.inBlockOf true (exec (.read cyc p h x y)) ∧
      exec (.writeExpedited cyc p h x) s = s.inBlockOf true (exec (.writeExpedited cyc p h x)) ∧
      exec (.segmentRequest cyc p h) s = s.inBlockOf true (exec (.segmentRequest cyc p h))))) ∧
  ((∀ (s u : State) (cyc id k : Nat) (p : Path), p.ep = .i3c k → s.arrives p [oamWord 2 (entryHead id 0x2000 0x0D 0), 2] = true →
    s.roles.farStandby = some k → s.roles.mirrorSeg = some k → (s.seg k).state = .fenced → s.roles.splitState = 1 →
    s.roles.isSecond = false → s.other = none →
    s.transfer (.i3c k) id = none → s.unretired = true → u = s.writeTaken cyc p (entryHead id 0x2000 0x0D 0) 2 →
    ∃ t, exec (.rejoinPrepare cyc p id) s = .next t ∧
      t = (u.prepareFar u.time.now).send (.i3c k) (ackWords (entryHead id 0x2000 0x0D 0) 0) ∧ t.roles.splitState = 1 ∧
      (∀ i ∈ s.roles.farHalf, s.hasSeg i = true → (s.seg i).state ≠ .lost → (t.seg i).state = .fenced ∧ (t.seg i).fenceReason = 0x05 ∧
        (t.seg i).stack.mem = (s.seg i).stack.mem ∧ (t.seg i).staging = [])) ∧
  (∀ (s u : State) (cyc id : Nat) (p : Path), s.writeComes p (entryHead id 0x2000 0x0D 0) 2 →
    u = s.writeTaken cyc p (entryHead id 0x2000 0x0D 0) 2 → s.unretired = true →
    (s.roles.isSecond = true → ∃ t, exec (.rejoinPrepare cyc p id) s = .next t ∧
      t = (u.prepareSecond u.time.now).send p.ep (ackWords (entryHead id 0x2000 0x0D 0) 0) ∧
      t.roles = { s.roles with ending := true } ∧ (∀ n q, t.live n = some q → q.ended.isSome = true)) ∧
    (s.roles.isSecond = false → s.roles.farStandby = none → exec (.rejoinPrepare cyc p id) s = .next
      (u.send p.ep (abortWords (entryHead id 0x2000 0x0D 0) (abortCode 0xD 0))))) ∧
  (∀ (s : State) (slew : Int) (temps : List Int) (b : Block), s.other = some b → b.roles.ending = true → b.seqs = [] →
    b.segs.length = s.segs.length → (∀ i < s.segs.length, i < temps.length ∧ temps.getD i 0 < (s.glob.thermalTrip : Int)) →
    ∃ t, exec (.beatEdge slew temps) s = .next t ∧ t.other = none ∧
      (s.roles.waistUp = false → t.roles = { s.roles with splitState := 1 } ∧
        ∀ i ∈ s.roles.farHalf, s.hasSeg i = true → (b.segs.getD i {}).state ≠ .lost →
          (t.seg i).state = .fenced ∧ (t.seg i).fenceReason = 0x05) ∧
      (s.roles.waistUp = true →
        t.roles = { s.roles with farHalf := [], splitState := 3, rejoinBy := none, waistUp := false, farStandby := none } ∧
        ∀ i ∈ s.roles.farHalf, s.hasSeg i = true → (t.seg i).state = .joining))) ∧
  ((∀ (s u : State) (cyc id : Nat) (p : Path), s.writeComes p (entryHead id 0x2000 0x0E 0) 1 →
    u = s.writeTaken cyc p (entryHead id 0x2000 0x0E 0) 1 → s.unretired = true →
    (s.roles.isSecond = false → (s.roles.splitState = 1 ∨ s.roles.splitState = 2) → ∃ t, exec (.rejoin cyc p id) s = .next t ∧
      t.roles = { s.roles with rejoinBy := some (s.time.beat + 2000), rejoinFor := some (p.ep, id) } ∧
      (∀ i ∈ s.waistSegs, s.hasSeg i = true → ((t.seg i).hub.module .south).failed = false) ∧ t.seqs = s.seqs ∧ t.parts = s.parts) ∧
    ((s.roles.isSecond = true ∨ (s.roles.splitState ≠ 1 ∧ s.roles.splitState ≠ 2)) → exec (.rejoin cyc p id) s = .next
      (u.send p.ep (abortWords (entryHead id 0x2000 0x0E 0) (abortCode 0xD 0))))) ∧
  (∀ (s : State) (i : Nat) (d : Dir) (j : Nat) (auth : LinkAuth), (s.roles.isSecond = false ∨ s.other = none) →
    neighbour s.segs.length i d = some j → s.atWaist i d = true → s.linkAuthentic i j auth = true →
    s.roles.rejoinBy.isSome = true → s.linkFailed i d = false → ((s.seg i).hub.module d).up = false →
    ((s.seg i).hub.module d).retraining = false → (s.seg i).inReset = false → (s.seg j).inReset = false → s.power.hush ≠ 1 →
    ∃ t, exec (.linkTrained i d true auth) s = .next t ∧ t = (s.trainLink i j d).waistTrained.rejoinAck ∧
      (s.other = none →
        t.roles = { s.roles with farHalf := [], splitState := 3, rejoinBy := none, waistUp := false, farStandby := none, rejoinFor := none } ∧
        ∀ n ∈ s.roles.farHalf, s.hasSeg n = true → (t.seg n).state = .joining) ∧
      (∀ b, s.other = some b → t.roles = { s.roles with rejoinBy := none, waistUp := true, rejoinFor := none } ∧
        t.cnt.dimSealFails = s.cnt.dimSealFails + b.dimRecords ∧
        ∃ b', t.other = some b' ∧ b'.roles.ending = true ∧
          ∀ n q, aGet n b.seqs = some q → q.ended = none → ∀ q', aGet n b'.seqs = some q' → q'.ended.isSome = true)) ∧
  (∀ (s : State) (b : Nat), (s.roles.isSecond = false ∨ s.other = none) → s.mgrUp = true → s.roles.rejoinBy = some b →
    b ≤ s.time.beat →
    ∃ t, exec .rejoinTrainTimeout s = .next t ∧ t.roles = { s.roles with rejoinBy := none, rejoinFor := none } ∧
      (∀ i ∈ s.waistSegs, s.hasSeg i = true → ((t.seg i).hub.module .south).failed = true ∧ ((t.seg i).hub.module .south).up = false) ∧
      t.seqs = s.seqs ∧ t.parts = s.parts ∧ t.handles = s.handles ∧ t.tenants = s.tenants ∧
      (s.roles.rejoinFor = none → t = { s with segs := t.segs, roles := t.roles })))

/-! Supplies, margin and the stack's PHY. -/

/-- Supplies (R380 to R385, R416): every segment notes when a feed reading came. A feed or rail at its amber level throttles what it feeds, is
counted once and, out of reset, raises SUPPLY_AMBER once; at crimson it is a GONG: every segment latches the record and the block enters a
cold reset; CLEAR_BT beats above the clear level end amber, with SUPPLY_CLEAR; a segment without a reading for ten beats holds the feed
stale and raises SUPPLY_AMBER with the reading 0xFFFF, one with a later reading does not. A read stalled on the notice queue that a notice goes to is answered on the port it came by. -/
def Obligations.Supplies : Prop :=
  (∀ (s : State) (cyc v : Nat), v < 2 ^ 16 →
    (v ≤ s.glob.feedCrimson → s.power.gongOut = false → ∃ t, exec (.feedReading cyc v) s = .next t ∧
      t.power.gongLast = gongRecord 0x02 0x0 0 v (s.arrival cyc) ∧ t.power.gongOut = true ∧ t.power.inReset = true ∧ t.seqs = [] ∧
      t.handles = [] ∧ (∀ i, s.hasSeg i = true → (t.seg i).supply.gong = some t.power.gongLast) ∧ t.time.beat = s.time.beat) ∧
    (s.glob.feedCrimson < v → v ≤ s.glob.feedAmber → s.feedInAmber = false → s.power.inReset = false →
      ∃ (u t : State), exec (.feedReading cyc v) s = .next t ∧ u.power.feedAmber = true ∧ u.power.feed = v ∧
        (∀ i, s.hasSeg i = true → (u.seg i).supply.throttled = true ∧ (u.seg i).supply.feedAt = some (s.arrival cyc) ∧
          u.seg i = { s.seg i with supply := (u.seg i).supply }) ∧ u = { s with segs := u.segs, power := u.power } ∧
        t = (u.raise s.mgr 0x05 0x0 0 0 (s.arrival cyc) (supplyDetail true v)).count
          (fun c => { c with amberEntries := c.amberEntries + 1 })) ∧
    (s.glob.feedCrimson < v → (s.power.feedAmber = true ∨ s.glob.feedAmber < v) →
      ∃ t, exec (.feedReading cyc v) s = .next t ∧ t.power.feed = v ∧ (s.glob.feedClear < v → s.power.feedAbove = none →
          t.power.feedAbove = some (s.arrival cyc)) ∧ (v ≤ s.glob.feedClear → t.power.feedAbove = none) ∧
        (∀ i, s.hasSeg i = true → t.seg i = { s.seg i with supply := { (s.seg i).supply with feedAt := some (s.arrival cyc) } }) ∧
        t = { s with segs := t.segs, power := { s.power with feed := t.power.feed, feedAbove := t.power.feedAbove } })) ∧
  (∀ (s : State) (cyc i v : Nat), s.hasSeg i = true → v < 2 ^ 16 →
    (100 ≤ v → s.power.gongOut = false → ∃ t, exec (.railDroopEdge cyc i v) s = .next t ∧
      t.power.gongLast = gongRecord 0x01 0x1 i v (s.arrival cyc) ∧ t.power.inReset = true ∧ t.seqs = [] ∧
      (∀ j, s.hasSeg j = true → (t.seg j).supply.gong = some t.power.gongLast)) ∧
    (50 ≤ v → v < 100 → (s.seg i).supply.railAmber = false → ∃ t, exec (.railDroopEdge cyc i v) s = .next t ∧
      (t.seg i).supply.railAmber = true ∧ (t.seg i).supply.throttled = true ∧ (t.seg i).supply.railAbove = none ∧
      (t.seg i).supply.railEntries = (s.seg i).supply.railEntries + 1 ∧ t.cnt.amberEntries = s.cnt.amberEntries + 1 ∧
      ((s.seg i).inReset = false → ∃ u : State, u = s.onSeg i (fun g => { g with supply := (u.seg i).supply }) ∧
        t = (u.raise i 0x05 0x1 i 0 (s.arrival cyc) (supplyDetail false v)).count (fun c => { c with amberEntries := c.amberEntries + 1 })) ∧
      othersAnswered i s t ∧ t = { s with segs := t.segs, cnt := t.cnt }) ∧
    ((v < 50 ∨ v < 100 ∧ (s.seg i).supply.railAmber = true) → ∃ t, exec (.railDroopEdge cyc i v) s = .next t ∧ (t.seg i).supply = noteRail v (s.arrival cyc) (s.seg i).supply ∧
      othersKept i s t ∧ t = { s with segs := t.segs })) ∧
  (∀ s : State, s.feedInAmber = true → clearRun s.glob.clearBt s.edge s.power.feedAbove = true →
    ∃ t, exec (.supplyClear .feed) s = .next t ∧ t.power = { s.power with feedAmber := false } ∧
      (∀ i, s.hasSeg i = true → (t.seg i).supply.feedStale = false ∧ (t.seg i).supply.throttled = (s.seg i).supply.railAmber) ∧
      (s.power.inReset = false → t = s.feedClears.raise s.mgr 0x06 0x0 0 0 s.edge (supplyDetail true s.power.feed)) ∧
      t = { s with segs := t.segs, power := t.power }) ∧
  (∀ (s : State) (i : Nat), (s.seg i).supply.railAmber = true → clearRun s.glob.clearBt s.edge (s.seg i).supply.railAbove = true →
    ∃ t, exec (.supplyClear (.rail i)) s = .next t ∧ (t.seg i).supply.railAmber = false ∧
      (t.seg i).supply.throttled = (s.power.feedAmber || (s.seg i).supply.feedStale) ∧
      ((s.seg i).inReset = false → ∃ u : State, u = s.onSeg i (fun g => { g with supply := (u.seg i).supply }) ∧
        t = u.raise i 0x06 0x1 i 0 s.edge (supplyDetail false (s.seg i).supply.droop)) ∧ othersAnswered i s t ∧ t = { s with segs := t.segs }) ∧
  (∀ (s : State) (cyc i : Nat), s.segUp i = true → (s.seg i).supply.feedStale = false →
    (∀ a, (s.seg i).supply.feedAt = some a → before (s.arrival cyc) (plusBeats a 10) = true → exec (.feedStale cyc i) s = .next s) ∧
    ((∀ a, (s.seg i).supply.feedAt = some a → before (s.arrival cyc) (plusBeats a 10) = false) →
    ∃ t, exec (.feedStale cyc i) s = .next t ∧ (t.seg i).supply.feedStale = true ∧ (t.seg i).supply.throttled = true ∧
      t.cnt.feedStale = s.cnt.feedStale + 1 ∧
      t.cnt.amberEntries = s.cnt.amberEntries + (if s.feedInAmber then 0 else 1) ∧
      (∃ u : State, u = { s with segs := u.segs, power := u.power, cnt := u.cnt } ∧ t = u.raise i 0x05 0x0 0 0 (s.arrival cyc) (supplyDetail true 0xFFFF)) ∧
      t.power = { s.power with feedAbove := none } ∧ othersAnswered i s t ∧ t = { s with segs := t.segs, power := t.power, cnt := t.cnt }))

/-- The margin loop and the PHY (R376, R377, R383, R407, R415): a margin below its threshold asks for 5 mV, at the limit for a clock step of
25 MHz, at the planning clock raises MARGIN_REPLAN; below the floor the segment is lost; in amber the measurement is discarded and due
again. A clock step lowers the clock by 25 MHz; one that would leave the planning clock, raised in between, is not made, and raises
MARGIN_REPLAN (R67). A PHY window is granted at most once in 2^12 beats. -/
def Obligations.MarginAndPhy : Prop :=
  (∀ (s u : State) (i : Nat) (m : Int), s.segUp i = true → (s.time.beat % 2 ^ 20 = 0 ∨ (s.seg i).health.remeasure = true) →
    u = s.onSeg i (fun g => { g with health := { g.health with marginPs := m, remeasure := false } }) →
    ((s.seg i).supply.railAmber = true → exec (.marginMeasurement i m) s = .next
      (s.onSeg i (fun g => { g with health := { g.health with remeasure := true } }))) ∧
    ((s.seg i).supply.railAmber = false → (s.glob.marginThreshold : Int) ≤ m → (s.glob.marginFloor : Int) ≤ m →
      exec (.marginMeasurement i m) s = .next u) ∧
    ((s.seg i).supply.railAmber = false → m < (s.glob.marginFloor : Int) →
      exec (.marginMeasurement i m) s = .next (u.loseAny i 0x06 s.edge)) ∧
    ((s.seg i).supply.railAmber = false → m < (s.glob.marginThreshold : Int) → (s.glob.marginFloor : Int) ≤ m →
      ((s.seg i).health.vreqOut = true → exec (.marginMeasurement i m) s = .next u) ∧
      ((s.seg i).health.vreqOut = false →
        ((s.seg i).health.vcoreMv + 5 ≤ s.glob.vcoreMax → exec (.marginMeasurement i m) s = .next
          (u.onSeg i (fun g => { g with health := { g.health with vcoreMv := g.health.vcoreMv + 5, vreqOut := true } }))) ∧
        (s.glob.vcoreMax < (s.seg i).health.vcoreMv + 5 → s.glob.planClock + 25 ≤ (s.seg i).health.clockMhz →
          exec (.marginMeasurement i m) s = .next (u.onSeg i (fun g => { g with health := { g.health with stepDown := true } }))) ∧
        (s.glob.vcoreMax < (s.seg i).health.vcoreMv + 5 → (s.seg i).health.clockMhz < s.glob.planClock + 25 →
          exec (.marginMeasurement i m) s = .next
            (u.raise i 0x08 0x1 i 0 s.edge (replanDetail m (s.seg i).health.clockMhz s.glob.planClock)))))) ∧
  (∀ (s : State) (i : Nat), s.segUp i = true → (s.seg i).health.stepDown = true → (s.seg i).supply.railAmber = false →
    (s.glob.planClock + 25 ≤ (s.seg i).health.clockMhz → ∃ t, exec (.clockStep i) s = .next t ∧ (t.seg i).health = { (s.seg i).health with
        clockMhz := (s.seg i).health.clockMhz - 25, recordMhz := (s.seg i).health.recordMhz - 25, stepDown := false } ∧
      t.seg i = { s.seg i with health := (t.seg i).health } ∧ othersKept i s t ∧ t = { s with segs := t.segs }) ∧
    ((s.seg i).health.clockMhz < s.glob.planClock + 25 → exec (.clockStep i) s = .next
      ((s.onSeg i (fun g => { g with health := { g.health with stepDown := false } })).raise i 0x08 0x1 i 0 s.edge
        (replanDetail (s.seg i).health.marginPs (s.seg i).health.clockMhz s.glob.planClock)))) ∧
  (∀ (s : State) (i : Nat), s.segUp i = true →
    exec (.vreqAck i) s = .next (s.onSeg i (fun g => { g with health := { g.health with vreqOut := false } }))) ∧
  (∀ (s : State) (i : Nat) (m : Bool), s.segUp i = true → s.power.hush ≠ 1 →
    (((s.seg i).stack.phyWindow = none ∨ ∃ b, (s.seg i).stack.phyWindow = some b ∧ b + 2 ^ 12 ≤ s.time.beat) →
      exec (.phyUpdateRequest i m) s = .next (s.onSeg i (fun g => { g with stack := { g.stack with phyWindow := some s.time.beat } }))) ∧
    (∀ b, (s.seg i).stack.phyWindow = some b → s.time.beat < b + 2 ^ 12 → exec (.phyUpdateRequest i m) s = .next s))

/-! The native port and the test port. -/

/-- Host accesses (R17, R33, R364, R401, R402), each of a tag that the port does not hold, of 64 at most: misaligned ALIGN, the manager's places on a fenced port FENCED, without a route NO_ROUTE; a
reserved address answers 0; what is served is served where it lies, forwarded there and answered on the control channel where that is
not the port's own segment, and a write of a read-only or reserved global register changes nothing else. In split mode an access at a
port of the other block is that block's (R372; that the blocks take turns is the model's choice, log entry 35). The order in which the
statuses are tried is the model's reading (log entry 39). A request whose tag is outstanding, or beyond the 64th, is not accepted. -/
def Obligations.HostAccesses : Prop :=
  (∀ (s u v : State) (cyc port tag addr word : Nat) (w : Bool) (c : Instr), s.portOpen ⟨port, tag⟩ = true → s.inSecond port = false → addr < 2 ^ 28 → word < 2 ^ 64 →
    u = ((s.onSeg port (fun g => { g with port := { g.port with
      reqTag := tag, busy := g.port.busy ++ [tag], trained := true } })).onCycle cyc).closeCycles → v = u.forward port (placeAt addr) →
    (c = .forwardedAccess cyc ⟨port, tag⟩ addr w word ∨ (c = .registerWrite cyc ⟨port, tag⟩ addr word ∧ w = true)) →
    (addr % 8 ≠ 0 → exec c s = .next (u.respond port 1 0)) ∧
    (addr % 8 = 0 → (placeAt addr).isGlobal = true → s.portFenced port = true → exec c s = .next (u.respond port 2 0)) ∧
    (addr % 8 = 0 → placeAt addr = .reserved → exec c s = .next (u.respond port 0 0)) ∧
    (∀ i off, addr % 8 = 0 → placeAt addr = .segment i off → s.hasSeg i = false → exec c s = .next (u.respond port 0 0)) ∧
    (addr % 8 = 0 → ((placeAt addr).isGlobal = false ∨ s.portFenced port = false) → s.placeExists (placeAt addr) = true →
      (s.routed port (placeAt addr) = false → exec c s = .next (u.respond port 3 0)) ∧
      (s.routed port (placeAt addr) = true →
        exec c s = .next (v.serveAccess cyc port w word (placeAt addr)) ∧ (∀ i, framesSent (u.seg i) (v.seg i)) ∧
        (∀ off, placeAt addr = .global off → w = true → (off < 0x1000 ∨ 0x1080 ≤ off) → exec c s = .next (v.respond port 0 0)) ∧
        (placeAt addr = .global 0x10 → w = false → exec c s = .next (v.respond port 0 v.gStatus)) ∧
        (placeAt addr = .global 0x18 → w = false → exec c s = .next (v.respond port 0 (v.stampFor cyc).beat))))) ∧
  (∀ (s : State) (cyc port tag addr word : Nat) (w : Bool), s.inSecond port = false →
    (tag ∈ (s.seg port).port.busy ∨ 64 ≤ (s.seg port).port.busy.length) →
    exec (.forwardedAccess cyc ⟨port, tag⟩ addr w word) s = .next s ∧ exec (.registerWrite cyc ⟨port, tag⟩ addr word) s = .next s) ∧
  (∀ (s : State) (cyc port tag addr word : Nat) (w : Bool) (c : Instr), s.inSecond port = true → s.turn.inSecond port = false →
    (c = .forwardedAccess cyc ⟨port, tag⟩ addr w word ∨ c = .registerWrite cyc ⟨port, tag⟩ addr word) →
    exec c s = s.inBlockOf true (exec c))

/-- The initiator channel (R403 to R405): a response frees its tag; an error is counted, and nothing of the read is used; what is left
beyond a 4 KiB boundary is asked for next; a directory entry that has been read leads to the record that it names; a returned credit adds one and lets what waits go out. -/
def Obligations.InitiatorChannel : Prop :=
  (∀ (s u : State) (cyc i tag : Nat) (r : DmaReq), outstanding tag true (s.seg i).port = some r →
    u = (s.onSeg i (fun g => { g with port := closeReq tag g.port })).onCycle cyc →
    (0 < r.more → exec (.dmaWriteResponse ⟨cyc, i⟩ tag false) s = .next (u.carryOn i r)) ∧
    (r.more = 0 → exec (.dmaWriteResponse ⟨cyc, i⟩ tag false) s = .next (u.writeLands r.what)) ∧
    exec (.dmaWriteResponse ⟨cyc, i⟩ tag true) s = .next ((u.writeFails cyc i r).count
      (fun c => { c with dmaWriteErrors := c.dmaWriteErrors + 1 })) ∧
    (∀ x ∈ (u.seg i).port.issued, x.tag ≠ tag)) ∧
  (∀ (s u : State) (cyc i tag : Nat) (data : List Nat) (r : DmaReq), outstanding tag false (s.seg i).port = some r →
    u = s.onSeg i (fun g => { g with port := closeReq tag g.port }) →
    (0 < r.more → exec (.dmaReadComplete cyc i tag false data) s = .next (u.carryOn i r)) ∧
    (r.more = 0 → (∀ k p, r.what ≠ .directory k p) → (∀ k, r.what ≠ .askDirectory k) →
      exec (.dmaReadComplete cyc i tag false data) s = .next u) ∧
    (∀ k p, r.more = 0 → r.what = .directory k p → exec (.dmaReadComplete cyc i tag false data) s = .next
      (u.candEntry k p (ofBytesLe (data.take 16)))) ∧
    (∀ k, r.more = 0 → r.what = .askDirectory k → exec (.dmaReadComplete cyc i tag false data) s = .next
      (u.askEntry k (ofBytesLe (data.take 16)))) ∧
    exec (.dmaReadComplete cyc i tag true data) s = .next ((u.readFails cyc r.what).count
      (fun c => { c with dmaReadErrors := c.dmaReadErrors + 1 })) ∧
    (∀ e k, r.what = .indirect e k → ∀ x ∈ ((u.readFails cyc r.what).ep e).transfers, x.id = k → x.failed = true)) ∧
  (∀ (s : State) (i : Nat) (wd : Bool), s.segUp i = true → (s.seg i).port.connected = true →
    exec (.initiatorCreditReturn i wd) s = .next (s.onSeg i (fun g => { g with port := addCredit wd g.port })) ∧
    ((s.seg i).port.waiting = [] → (s.seg i).port.issued = [] → (s.seg i).port.retry = [] →
      (addCredit wd (s.seg i).port).wdCredit = (s.seg i).port.wdCredit + (if wd then 1 else 0) ∧
      (addCredit wd (s.seg i).port).reqCredit = (s.seg i).port.reqCredit + (if wd then 0 else 1)))

/-- The test port (R92, R95, R97, R145, R291, R328): it acts on a segment in BLANK or PROVISIONED only; a segment it holds has its queues in
HOLD, the manager's with those of its endpoints, and one it lets go that serves has them in NORMAL again, reads stalled on them answered;
it writes remap and fault registers and marks modules failed, the frames then in the link being lost (R147). -/
def Obligations.TestPort : Prop :=
  (∀ (s : State) (i : Nat), s.testOpen i = true → (s.seg i).trust.testHeld = false →
    ∃ t, exec (.testPortHold i) s = .next t ∧ (t.seg i).trust = { (s.seg i).trust with testHeld := true } ∧ (t.seg i).nq.hold = true ∧
      (t.seg i).i3cIn.hold = true ∧ (t.seg i).i3cOut.hold = true ∧ (t.seg i).nq.words = (s.seg i).nq.words ∧
      (t.seg i).state = (s.seg i).state ∧ (i = s.mgr → ∀ x ∈ t.objs.eps, x.inq.hold = true ∧ x.outq.hold = true) ∧
      (i ≠ s.mgr → t.objs = s.objs) ∧ othersKept i s t ∧ t = { s with segs := t.segs, objs := t.objs }) ∧
  (∀ (s : State) (i : Nat), s.hasSeg i = true → (s.seg i).trust.testHeld = true →
    ∃ t, exec (.testPortRelease i) s = .next t ∧ (t.seg i).trust = { (s.seg i).trust with testHeld := false } ∧
      ((s.seg i).state = .serving → s.roles.recovering = none → (i ≠ s.mgr ∨ s.roles.selfFenced = false) →
        (t.seg i).nq.hold = false ∧ (t.seg i).i3cIn.hold = false ∧ (t.seg i).i3cOut.hold = false) ∧
      (((s.seg i).state ≠ .serving ∨ s.roles.recovering ≠ none ∨ (i = s.mgr ∧ s.roles.selfFenced = true)) →
        t = s.onSeg i (fun g => { g with trust := { g.trust with testHeld := false } })) ∧
      othersSettled i s t ∧ t = { s with segs := t.segs, objs := t.objs }) ∧
  (∀ (s : State) (i : Nat) (x : TestWrite), s.hasSeg i = true → ((s.seg i).trust.lifecycle = .secured ∨ (s.seg i).trust.lifecycle = .retired) →
    exec (.testPortHold i) s = .next s ∧ exec (.testPortWrite i x) s = .next s) ∧
  (∀ (s : State) (i k w : Nat) (a : Arr), s.testOpen i = true → ((s.seg i).array a).remap.length = 8 → w < 2 ^ 64 → k < 4 →
    (∃ t, exec (.testPortWrite i (.colRemap0 a w)) s = .next t ∧
      ((t.seg i).array a).remap[k]? = some (remapOf w k) ∧ ((t.seg i).array a).remap[k + 4]? = ((s.seg i).array a).remap[k + 4]? ∧
      othersKept i s t ∧ t = { s with segs := t.segs }) ∧
    (∃ t, exec (.testPortWrite i (.colRemap1 a w)) s = .next t ∧
      ((t.seg i).array a).remap[k + 4]? = some (remapOf w k) ∧ ((t.seg i).array a).remap[k]? = ((s.seg i).array a).remap[k]? ∧
      othersKept i s t ∧ t = { s with segs := t.segs }) ∧
    (∀ k, k < 5 → ∃ t, exec (.testPortWrite i (.colFault a k w)) s = .next t ∧
      (∀ b, b < 64 → 64 * k + b < 264 → (64 * k + b ∈ ((t.seg i).array a).faults ↔ w.testBit b = true)) ∧
      (∀ c, (c < 64 * k ∨ 64 * (k + 1) ≤ c) → (c ∈ ((t.seg i).array a).faults ↔ c ∈ ((s.seg i).array a).faults)) ∧
      othersKept i s t ∧ t = { s with segs := t.segs })) ∧
  (∀ (s : State) (i : Nat) (d : Dir), s.testOpen i = true → ((s.seg i).hub.module d).failed = false →
    (∀ j n m, neighbour s.segs.length i d = some j → exec (.testPortWrite i (.moduleFailed d n m)) s = .next
      ((s.loseInLink 0 i j d n m).moduleFailed i d 0x12 s.edge)) ∧
    (neighbour s.segs.length i d = none → ∀ n m, exec (.testPortWrite i (.moduleFailed d n m)) s = .next
      (s.moduleFailed i d 0x12 s.edge)))

/-! Rules of the block as a whole. -/

/-- A push of a word with EOR raises one record event and a push without it raises none (R286), whatever the queue holds, also where it
overflows or a stalled read takes the word; so each complete record raises exactly one. -/
def Obligations.RecordEvents : Prop :=
  (∀ (a : Stamp) (q : WordQ) (d : Nat), (qPush a d true q).recordEvents = q.recordEvents + 1 ∧
    (qPush a d false q).recordEvents = q.recordEvents) ∧
  (∀ (a : Stamp) (q : WordQ) (l : List Nat), l ≠ [] → (qPushAll a l q).recordEvents = q.recordEvents + 1)

/-- Each segment has an always-on domain, which only a power-on resets (R388): after a cold or warm reset, of the block or of segments, by
register, by input, by a GONG or for a rejoin, it stands in every segment, as the block that the segment belongs to holds it (in split
mode the model's choice, log entry 35), and the beat runs on without a repeated or skipped value; after a power-on of the manager's segment the beat is acquired anew, and the domain of
a segment powered on is at its reset values. -/
def Obligations.AlwaysOnDomain : Prop :=
  (∀ (s : State) (i : Nat), s.hasSeg i = true → s.inSecond i = false →
    (∃ t, exec (.coldReset i) s = .next t ∧ t.time.beat = s.time.beat ∧ t.time.acquired = s.time.acquired ∧
      ∀ j, alwaysOnKept (s.segOf j) (t.segOf j)) ∧
    (∃ t, exec (.warmReset i) s = .next t ∧ t.time.beat = s.time.beat ∧ t.time.acquired = s.time.acquired ∧
      ∀ j, alwaysOnKept (s.segOf j) (t.segOf j))) ∧
  (∀ (s : State) (cyc v : Nat) (p : Path), (v = 1 ∨ v = 2) → s.writeComes p (entryHead 0 0x2200 0x31 0) v → s.unretired = true →
    ∃ t, exec (if v = 1 then .resetWarm cyc p else .resetCold cyc p) s = .next t ∧ t.time.beat = s.time.beat ∧
      t.time.acquired = s.time.acquired ∧ ∀ j, alwaysOnKept (s.segOf j) (t.segOf j)) ∧
  (∀ (s : State) (cyc id k : Nat) (p : Path), p.ep = .i3c k → s.arrives p [oamWord 2 (entryHead id 0x2000 0x0D 0), 2] = true →
    s.roles.farStandby = some k → s.roles.mirrorSeg = some k → (s.seg k).state = .fenced → s.roles.splitState = 1 →
    s.roles.isSecond = false → s.other = none →
    s.transfer (.i3c k) id = none → s.unretired = true →
    ∃ t, exec (.rejoinPrepare cyc p id) s = .next t ∧ t.time.beat = s.time.beat ∧ t.time.acquired = s.time.acquired ∧
      ∀ j, alwaysOnKept (s.seg j) (t.seg j)) ∧
  (∀ (s : State) (slew : Int) (temps : List Int) (b : Block), s.other = some b → b.roles.ending = true → b.seqs = [] →
    b.segs.length = s.segs.length → (∀ j < s.segs.length, j ∈ b.roles.farHalf ↔ j ∉ s.roles.farHalf) →
    (∀ i < s.segs.length, i < temps.length ∧ temps.getD i 0 < (s.glob.thermalTrip : Int)) →
    ∃ t, exec (.beatEdge slew temps) s = .next t ∧ t.time.beat = s.time.beat + 1 ∧ t.time.acquired = s.time.acquired ∧
      ∀ j, alwaysOnKept (s.segOf j) (t.segOf j)) ∧
  (∀ (s : State) (cyc v : Nat), v < 2 ^ 16 → v ≤ s.glob.feedCrimson → s.power.gongOut = false →
    ∃ t, exec (.feedReading cyc v) s = .next t ∧ t.time.beat = s.time.beat ∧ t.time.acquired = s.time.acquired ∧
      ∀ j, s.hasSeg j = true → alwaysOnKept { s.segOf j with supply := (t.seg j).supply } (t.seg j)) ∧
  (∀ (s : State) (i : Nat), s.hasSeg i = true → s.inSecond i = false → ∃ t, exec (.powerOnReset i) s = .next t ∧
    (i = s.mgr → t.time.acquired = false) ∧ (i ≠ s.mgr → t.time.beat = s.time.beat) ∧
    (t.seg i).ownRef = false ∧ (t.seg i).refPresent = false ∧ (t.seg i).trust.i3cAddr = none ∧ (t.seg i).trust.eid = 0 ∧
    (t.seg i).supply.gong = none ∧ (t.seg i).trust.lifecycle = (s.seg i).trust.lifecycle)

/-! Invariants. -/

/-- Every step keeps the canonical form of every memory: staging SRAM and stack of every segment, as each of the two blocks of split mode
holds it. -/
def Obligations.StepKeepsMemory : Prop :=
  ∀ s t : State, s.memOk = true → step s = .next t → t.memOk = true

/-- Every step keeps what the configuration fixes: the kind of the block, its segments, its manager-capable dies and its 16 partitions, in
each of the two blocks of split mode; and it takes exactly the front command from the queue. Every step keeps the word queues within
their depths and their marks in order, and the requests of each port within 256 issued and 64 accepted (R283, R292, R401, R403); and, where
live sequence indexes are distinct, no bind of a step in flight of a generation partition names a sequence that has ended (R220). -/
def Obligations.StepKeepsShape : Prop :=
  (∀ s t : State, (∀ b, s.other = some b → b.segs.length = s.segs.length) → step s = .next t →
    t.segs.length = s.segs.length ∧ (∀ b, t.other = some b → b.segs.length = t.segs.length) ∧
    (s.parts.length = 16 → (∀ b, s.other = some b → b.parts.length = 16) →
      t.parts.length = 16 ∧ ∀ b, t.other = some b → b.parts.length = 16) ∧
    t.cfg.kind = s.cfg.kind ∧ t.cfg.mgrCapable = s.cfg.mgrCapable ∧ t.pending = s.pending.drop 1) ∧
  (∀ s t : State, s.queuesOk = true → step s = .next t → t.queuesOk = true) ∧
  (∀ s t : State, s.bindsStand → step s = .next t → t.bindsStand)

/-- After reset every memory is in canonical form and lists nothing, the block of 20 segments has 16 partitions, no live sequence, no
directory entry, no tenant and no ring context, is one block, held in reset with no beat acquired, its word queues and ports are within
their limits, no step binds a sequence, and its queue is empty (R387, R388, R400; that the block is a KD-20 is the model's choice, log
entry 1, and so are the values of fields for which the spec gives none, log entries 2 and 12). -/
def Obligations.ResetLeaves : Prop :=
  State.reset.memOk = true ∧ State.reset.queuesOk = true ∧ State.reset.bindsStand ∧ State.reset.segs.length = 20 ∧ State.reset.parts.length = 16 ∧ State.reset.seqs = [] ∧ State.reset.handles = [] ∧
    State.reset.tenants = [] ∧ State.reset.rings = [] ∧ State.reset.time.acquired = false ∧ State.reset.power.inReset = true ∧
    State.reset.power.coldBoot = true ∧ State.reset.other = none ∧ State.reset.pending = [] ∧
    (∀ i, i < 20 → (State.reset.seg i).state = .held ∧ (State.reset.seg i).inReset = true ∧ (State.reset.seg i).resetIn = [.aoPor] ∧
      (State.reset.seg i).stack.mem = [] ∧ (State.reset.seg i).staging = [])
end

