-- ==== Sys2Proof/Laws/State.lean ====
section
/-! SUPPORT. What each update of the state leaves alone, field by field, and what it reads back: no later proof unfolds a record
update. -/

namespace Sys2Proof.Machine

/-! Lists changed at one place. -/

@[simp] theorem length_modifyAt {α : Type} (f : α → α) (n : Nat) (l : List α) : (modifyAt f n l).length = l.length := by
  induction l generalizing n with
  | nil => cases n <;> rfl
  | cons a r ih => cases n <;> simp [modifyAt, ih]

theorem getD_modifyAt_ne {α : Type} (f : α → α) (d : α) {n m : Nat} (l : List α) (h : m ≠ n) :
    (modifyAt f n l).getD m d = l.getD m d := by
  induction l generalizing n m with
  | nil => cases n <;> rfl
  | cons a r ih =>
    cases n with
    | zero => cases m with
      | zero => exact absurd rfl h
      | succ m => rfl
    | succ n => cases m with
      | zero => rfl
      | succ m => simpa [modifyAt] using ih (by omega)

theorem getD_modifyAt_eq {α : Type} (f : α → α) (d : α) {n : Nat} (l : List α) (h : n < l.length) :
    (modifyAt f n l).getD n d = f (l.getD n d) := by
  induction l generalizing n with
  | nil => exact absurd h (Nat.not_lt_zero _)
  | cons a r ih =>
    cases n with
    | zero => rfl
    | succ n => simpa [modifyAt] using ih (by simpa using h)

theorem modifyAt_congr {α : Type} (f g : α → α) (d : α) (n : Nat) (l : List α)
    (h : f (l.getD n d) = g (l.getD n d)) : modifyAt f n l = modifyAt g n l := by
  induction l generalizing n with
  | nil => cases n <;> rfl
  | cons a r ih =>
    cases n with
    | zero => simp only [modifyAt]; congr 1
    | succ n => simp only [modifyAt]; rw [ih n (by simpa using h)]

theorem modifyAt_modifyAt {α : Type} (f g : α → α) (n : Nat) (l : List α) :
    modifyAt f n (modifyAt g n l) = modifyAt (fun a => f (g a)) n l := by
  induction l generalizing n with
  | nil => cases n <;> rfl
  | cons a r ih => cases n <;> simp [modifyAt, ih]

/-! Tables kept as lists of a key and a value. -/

@[simp] theorem aGet_aSet_eq {α : Type} (k : Nat) (v : α) (l : List (Nat × α)) : aGet k (aSet k v l) = some v := by
  induction l with
  | nil => simp [aSet, aGet]
  | cons e r ih =>
    simp only [aSet]
    split
    · simp [aGet]
    · split
      · simp [aGet]
      · rename_i h2; simp only [aGet, h2]; exact ih

theorem aGet_aSet_ne {α : Type} {k j : Nat} (v : α) (l : List (Nat × α)) (h : j ≠ k) : aGet j (aSet k v l) = aGet j l := by
  induction l with
  | nil => simp [aSet, aGet, Ne.symm h]
  | cons e r ih =>
    simp only [aSet]
    split
    · simp [aGet, Ne.symm h]
    · split
      · rename_i h2
        have : e.1 = k := by simpa using h2
        simp [aGet, this, Ne.symm h]
      · simp only [aGet]; split
        · rfl
        · exact ih

@[simp] theorem aGet_aErase_eq {α : Type} (k : Nat) (l : List (Nat × α)) : aGet k (aErase k l) = none := by
  induction l with
  | nil => rfl
  | cons e r ih =>
    by_cases h : e.1 = k
    · simpa [aErase, h] using ih
    · simpa [aErase, h, aGet] using ih

theorem aGet_aErase_ne {α : Type} {k j : Nat} (l : List (Nat × α)) (h : j ≠ k) : aGet j (aErase k l) = aGet j l := by
  induction l with
  | nil => rfl
  | cons e r ih =>
    by_cases h2 : e.1 = k
    · have : e.1 ≠ j := by omega
      simpa [aErase, h2, aGet, this, Ne.symm h] using ih
    · simp only [aErase, List.filter_cons, bne_iff_ne, ne_eq, h2, not_false_eq_true, if_true, aGet]
      split
      · rfl
      · exact ih

theorem aGet_map {α : Type} (f : α → α) (k : Nat) (l : List (Nat × α)) :
    aGet k (l.map (fun e => (e.1, f e.2))) = (aGet k l).map f := by
  induction l with
  | nil => rfl
  | cons e r ih =>
    simp only [List.map_cons, aGet]
    split
    · rfl
    · exact ih

/-! The fields that an update leaves alone. -/

@[simp] theorem State.onSeg_cfg (s : State) (i : Nat) (f : Segment → Segment) : (s.onSeg i f).cfg = s.cfg := rfl
@[simp] theorem State.onSeg_time (s : State) (i : Nat) (f : Segment → Segment) : (s.onSeg i f).time = s.time := rfl
@[simp] theorem State.onSeg_parts (s : State) (i : Nat) (f : Segment → Segment) : (s.onSeg i f).parts = s.parts := rfl
@[simp] theorem State.onSeg_rings (s : State) (i : Nat) (f : Segment → Segment) : (s.onSeg i f).rings = s.rings := rfl
@[simp] theorem State.onSeg_tenants (s : State) (i : Nat) (f : Segment → Segment) : (s.onSeg i f).tenants = s.tenants := rfl
@[simp] theorem State.onSeg_handles (s : State) (i : Nat) (f : Segment → Segment) : (s.onSeg i f).handles = s.handles := rfl
@[simp] theorem State.onSeg_seqs (s : State) (i : Nat) (f : Segment → Segment) : (s.onSeg i f).seqs = s.seqs := rfl
@[simp] theorem State.onSeg_indexes (s : State) (i : Nat) (f : Segment → Segment) : (s.onSeg i f).indexes = s.indexes := rfl
@[simp] theorem State.onSeg_glob (s : State) (i : Nat) (f : Segment → Segment) : (s.onSeg i f).glob = s.glob := rfl
@[simp] theorem State.onSeg_prior (s : State) (i : Nat) (f : Segment → Segment) : (s.onSeg i f).prior = s.prior := rfl
@[simp] theorem State.onSeg_screen (s : State) (i : Nat) (f : Segment → Segment) : (s.onSeg i f).screen = s.screen := rfl
@[simp] theorem State.onSeg_objs (s : State) (i : Nat) (f : Segment → Segment) : (s.onSeg i f).objs = s.objs := rfl
@[simp] theorem State.onSeg_trust (s : State) (i : Nat) (f : Segment → Segment) : (s.onSeg i f).trust = s.trust := rfl
@[simp] theorem State.onSeg_span (s : State) (i : Nat) (f : Segment → Segment) : (s.onSeg i f).span = s.span := rfl
@[simp] theorem State.onSeg_mirror (s : State) (i : Nat) (f : Segment → Segment) : (s.onSeg i f).mirror = s.mirror := rfl
@[simp] theorem State.onSeg_roles (s : State) (i : Nat) (f : Segment → Segment) : (s.onSeg i f).roles = s.roles := rfl
@[simp] theorem State.onSeg_other (s : State) (i : Nat) (f : Segment → Segment) : (s.onSeg i f).other = s.other := rfl
@[simp] theorem State.onSeg_kept (s : State) (i : Nat) (f : Segment → Segment) : (s.onSeg i f).kept = s.kept := rfl
@[simp] theorem State.onSeg_power (s : State) (i : Nat) (f : Segment → Segment) : (s.onSeg i f).power = s.power := rfl
@[simp] theorem State.onSeg_vectors (s : State) (i : Nat) (f : Segment → Segment) : (s.onSeg i f).vectors = s.vectors := rfl
@[simp] theorem State.onSeg_cnt (s : State) (i : Nat) (f : Segment → Segment) : (s.onSeg i f).cnt = s.cnt := rfl
@[simp] theorem State.onSeg_free (s : State) (i : Nat) (f : Segment → Segment) : (s.onSeg i f).free = s.free := rfl
@[simp] theorem State.onSeg_code (s : State) (i : Nat) (f : Segment → Segment) : (s.onSeg i f).code = s.code := rfl
@[simp] theorem State.onSeg_pending (s : State) (i : Nat) (f : Segment → Segment) : (s.onSeg i f).pending = s.pending := rfl

@[simp] theorem State.onSegs_cfg (s : State) (f : Nat → Segment → Segment) : (s.onSegs f).cfg = s.cfg := rfl
@[simp] theorem State.onSegs_time (s : State) (f : Nat → Segment → Segment) : (s.onSegs f).time = s.time := rfl
@[simp] theorem State.onSegs_parts (s : State) (f : Nat → Segment → Segment) : (s.onSegs f).parts = s.parts := rfl
@[simp] theorem State.onSegs_rings (s : State) (f : Nat → Segment → Segment) : (s.onSegs f).rings = s.rings := rfl
@[simp] theorem State.onSegs_tenants (s : State) (f : Nat → Segment → Segment) : (s.onSegs f).tenants = s.tenants := rfl
@[simp] theorem State.onSegs_handles (s : State) (f : Nat → Segment → Segment) : (s.onSegs f).handles = s.handles := rfl
@[simp] theorem State.onSegs_seqs (s : State) (f : Nat → Segment → Segment) : (s.onSegs f).seqs = s.seqs := rfl
@[simp] theorem State.onSegs_indexes (s : State) (f : Nat → Segment → Segment) : (s.onSegs f).indexes = s.indexes := rfl
@[simp] theorem State.onSegs_glob (s : State) (f : Nat → Segment → Segment) : (s.onSegs f).glob = s.glob := rfl
@[simp] theorem State.onSegs_prior (s : State) (f : Nat → Segment → Segment) : (s.onSegs f).prior = s.prior := rfl
@[simp] theorem State.onSegs_screen (s : State) (f : Nat → Segment → Segment) : (s.onSegs f).screen = s.screen := rfl
@[simp] theorem State.onSegs_objs (s : State) (f : Nat → Segment → Segment) : (s.onSegs f).objs = s.objs := rfl
@[simp] theorem State.onSegs_trust (s : State) (f : Nat → Segment → Segment) : (s.onSegs f).trust = s.trust := rfl
@[simp] theorem State.onSegs_span (s : State) (f : Nat → Segment → Segment) : (s.onSegs f).span = s.span := rfl
@[simp] theorem State.onSegs_mirror (s : State) (f : Nat → Segment → Segment) : (s.onSegs f).mirror = s.mirror := rfl
@[simp] theorem State.onSegs_roles (s : State) (f : Nat → Segment → Segment) : (s.onSegs f).roles = s.roles := rfl
@[simp] theorem State.onSegs_other (s : State) (f : Nat → Segment → Segment) : (s.onSegs f).other = s.other := rfl
@[simp] theorem State.onSegs_kept (s : State) (f : Nat → Segment → Segment) : (s.onSegs f).kept = s.kept := rfl
@[simp] theorem State.onSegs_power (s : State) (f : Nat → Segment → Segment) : (s.onSegs f).power = s.power := rfl
@[simp] theorem State.onSegs_vectors (s : State) (f : Nat → Segment → Segment) : (s.onSegs f).vectors = s.vectors := rfl
@[simp] theorem State.onSegs_cnt (s : State) (f : Nat → Segment → Segment) : (s.onSegs f).cnt = s.cnt := rfl
@[simp] theorem State.onSegs_free (s : State) (f : Nat → Segment → Segment) : (s.onSegs f).free = s.free := rfl
@[simp] theorem State.onSegs_code (s : State) (f : Nat → Segment → Segment) : (s.onSegs f).code = s.code := rfl
@[simp] theorem State.onSegs_pending (s : State) (f : Nat → Segment → Segment) : (s.onSegs f).pending = s.pending := rfl

@[simp] theorem State.onPart_cfg (s : State) (p : Nat) (f : Partition → Partition) : (s.onPart p f).cfg = s.cfg := rfl
@[simp] theorem State.onPart_time (s : State) (p : Nat) (f : Partition → Partition) : (s.onPart p f).time = s.time := rfl
@[simp] theorem State.onPart_segs (s : State) (p : Nat) (f : Partition → Partition) : (s.onPart p f).segs = s.segs := rfl
@[simp] theorem State.onPart_rings (s : State) (p : Nat) (f : Partition → Partition) : (s.onPart p f).rings = s.rings := rfl
@[simp] theorem State.onPart_tenants (s : State) (p : Nat) (f : Partition → Partition) : (s.onPart p f).tenants = s.tenants := rfl
@[simp] theorem State.onPart_handles (s : State) (p : Nat) (f : Partition → Partition) : (s.onPart p f).handles = s.handles := rfl
@[simp] theorem State.onPart_seqs (s : State) (p : Nat) (f : Partition → Partition) : (s.onPart p f).seqs = s.seqs := rfl
@[simp] theorem State.onPart_indexes (s : State) (p : Nat) (f : Partition → Partition) : (s.onPart p f).indexes = s.indexes := rfl
@[simp] theorem State.onPart_glob (s : State) (p : Nat) (f : Partition → Partition) : (s.onPart p f).glob = s.glob := rfl
@[simp] theorem State.onPart_prior (s : State) (p : Nat) (f : Partition → Partition) : (s.onPart p f).prior = s.prior := rfl
@[simp] theorem State.onPart_screen (s : State) (p : Nat) (f : Partition → Partition) : (s.onPart p f).screen = s.screen := rfl
@[simp] theorem State.onPart_objs (s : State) (p : Nat) (f : Partition → Partition) : (s.onPart p f).objs = s.objs := rfl
@[simp] theorem State.onPart_trust (s : State) (p : Nat) (f : Partition → Partition) : (s.onPart p f).trust = s.trust := rfl
@[simp] theorem State.onPart_span (s : State) (p : Nat) (f : Partition → Partition) : (s.onPart p f).span = s.span := rfl
@[simp] theorem State.onPart_mirror (s : State) (p : Nat) (f : Partition → Partition) : (s.onPart p f).mirror = s.mirror := rfl
@[simp] theorem State.onPart_roles (s : State) (p : Nat) (f : Partition → Partition) : (s.onPart p f).roles = s.roles := rfl
@[simp] theorem State.onPart_other (s : State) (p : Nat) (f : Partition → Partition) : (s.onPart p f).other = s.other := rfl
@[simp] theorem State.onPart_kept (s : State) (p : Nat) (f : Partition → Partition) : (s.onPart p f).kept = s.kept := rfl
@[simp] theorem State.onPart_power (s : State) (p : Nat) (f : Partition → Partition) : (s.onPart p f).power = s.power := rfl
@[simp] theorem State.onPart_vectors (s : State) (p : Nat) (f : Partition → Partition) : (s.onPart p f).vectors = s.vectors := rfl
@[simp] theorem State.onPart_cnt (s : State) (p : Nat) (f : Partition → Partition) : (s.onPart p f).cnt = s.cnt := rfl
@[simp] theorem State.onPart_free (s : State) (p : Nat) (f : Partition → Partition) : (s.onPart p f).free = s.free := rfl
@[simp] theorem State.onPart_code (s : State) (p : Nat) (f : Partition → Partition) : (s.onPart p f).code = s.code := rfl
@[simp] theorem State.onPart_pending (s : State) (p : Nat) (f : Partition → Partition) : (s.onPart p f).pending = s.pending := rfl

@[simp] theorem State.onLoop_cfg (s : State) (p : Nat) (c : Cls) (f : Loop → Loop) : (s.onLoop p c f).cfg = s.cfg := rfl
@[simp] theorem State.onLoop_time (s : State) (p : Nat) (c : Cls) (f : Loop → Loop) : (s.onLoop p c f).time = s.time := rfl
@[simp] theorem State.onLoop_segs (s : State) (p : Nat) (c : Cls) (f : Loop → Loop) : (s.onLoop p c f).segs = s.segs := rfl
@[simp] theorem State.onLoop_rings (s : State) (p : Nat) (c : Cls) (f : Loop → Loop) : (s.onLoop p c f).rings = s.rings := rfl
@[simp] theorem State.onLoop_tenants (s : State) (p : Nat) (c : Cls) (f : Loop → Loop) : (s.onLoop p c f).tenants = s.tenants := rfl
@[simp] theorem State.onLoop_handles (s : State) (p : Nat) (c : Cls) (f : Loop → Loop) : (s.onLoop p c f).handles = s.handles := rfl
@[simp] theorem State.onLoop_seqs (s : State) (p : Nat) (c : Cls) (f : Loop → Loop) : (s.onLoop p c f).seqs = s.seqs := rfl
@[simp] theorem State.onLoop_indexes (s : State) (p : Nat) (c : Cls) (f : Loop → Loop) : (s.onLoop p c f).indexes = s.indexes := rfl
@[simp] theorem State.onLoop_glob (s : State) (p : Nat) (c : Cls) (f : Loop → Loop) : (s.onLoop p c f).glob = s.glob := rfl
@[simp] theorem State.onLoop_prior (s : State) (p : Nat) (c : Cls) (f : Loop → Loop) : (s.onLoop p c f).prior = s.prior := rfl
@[simp] theorem State.onLoop_screen (s : State) (p : Nat) (c : Cls) (f : Loop → Loop) : (s.onLoop p c f).screen = s.screen := rfl
@[simp] theorem State.onLoop_objs (s : State) (p : Nat) (c : Cls) (f : Loop → Loop) : (s.onLoop p c f).objs = s.objs := rfl
@[simp] theorem State.onLoop_trust (s : State) (p : Nat) (c : Cls) (f : Loop → Loop) : (s.onLoop p c f).trust = s.trust := rfl
@[simp] theorem State.onLoop_span (s : State) (p : Nat) (c : Cls) (f : Loop → Loop) : (s.onLoop p c f).span = s.span := rfl
@[simp] theorem State.onLoop_mirror (s : State) (p : Nat) (c : Cls) (f : Loop → Loop) : (s.onLoop p c f).mirror = s.mirror := rfl
@[simp] theorem State.onLoop_roles (s : State) (p : Nat) (c : Cls) (f : Loop → Loop) : (s.onLoop p c f).roles = s.roles := rfl
@[simp] theorem State.onLoop_other (s : State) (p : Nat) (c : Cls) (f : Loop → Loop) : (s.onLoop p c f).other = s.other := rfl
@[simp] theorem State.onLoop_kept (s : State) (p : Nat) (c : Cls) (f : Loop → Loop) : (s.onLoop p c f).kept = s.kept := rfl
@[simp] theorem State.onLoop_power (s : State) (p : Nat) (c : Cls) (f : Loop → Loop) : (s.onLoop p c f).power = s.power := rfl
@[simp] theorem State.onLoop_vectors (s : State) (p : Nat) (c : Cls) (f : Loop → Loop) : (s.onLoop p c f).vectors = s.vectors := rfl
@[simp] theorem State.onLoop_cnt (s : State) (p : Nat) (c : Cls) (f : Loop → Loop) : (s.onLoop p c f).cnt = s.cnt := rfl
@[simp] theorem State.onLoop_free (s : State) (p : Nat) (c : Cls) (f : Loop → Loop) : (s.onLoop p c f).free = s.free := rfl
@[simp] theorem State.onLoop_code (s : State) (p : Nat) (c : Cls) (f : Loop → Loop) : (s.onLoop p c f).code = s.code := rfl
@[simp] theorem State.onLoop_pending (s : State) (p : Nat) (c : Cls) (f : Loop → Loop) : (s.onLoop p c f).pending = s.pending := rfl

@[simp] theorem State.onStep_cfg (s : State) (p : Nat) (c : Cls) (f : StepS → StepS) : (s.onStep p c f).cfg = s.cfg := rfl
@[simp] theorem State.onStep_time (s : State) (p : Nat) (c : Cls) (f : StepS → StepS) : (s.onStep p c f).time = s.time := rfl
@[simp] theorem State.onStep_segs (s : State) (p : Nat) (c : Cls) (f : StepS → StepS) : (s.onStep p c f).segs = s.segs := rfl
@[simp] theorem State.onStep_rings (s : State) (p : Nat) (c : Cls) (f : StepS → StepS) : (s.onStep p c f).rings = s.rings := rfl
@[simp] theorem State.onStep_tenants (s : State) (p : Nat) (c : Cls) (f : StepS → StepS) : (s.onStep p c f).tenants = s.tenants := rfl
@[simp] theorem State.onStep_handles (s : State) (p : Nat) (c : Cls) (f : StepS → StepS) : (s.onStep p c f).handles = s.handles := rfl
@[simp] theorem State.onStep_seqs (s : State) (p : Nat) (c : Cls) (f : StepS → StepS) : (s.onStep p c f).seqs = s.seqs := rfl
@[simp] theorem State.onStep_indexes (s : State) (p : Nat) (c : Cls) (f : StepS → StepS) : (s.onStep p c f).indexes = s.indexes := rfl
@[simp] theorem State.onStep_glob (s : State) (p : Nat) (c : Cls) (f : StepS → StepS) : (s.onStep p c f).glob = s.glob := rfl
@[simp] theorem State.onStep_prior (s : State) (p : Nat) (c : Cls) (f : StepS → StepS) : (s.onStep p c f).prior = s.prior := rfl
@[simp] theorem State.onStep_screen (s : State) (p : Nat) (c : Cls) (f : StepS → StepS) : (s.onStep p c f).screen = s.screen := rfl
@[simp] theorem State.onStep_objs (s : State) (p : Nat) (c : Cls) (f : StepS → StepS) : (s.onStep p c f).objs = s.objs := rfl
@[simp] theorem State.onStep_trust (s : State) (p : Nat) (c : Cls) (f : StepS → StepS) : (s.onStep p c f).trust = s.trust := rfl
@[simp] theorem State.onStep_span (s : State) (p : Nat) (c : Cls) (f : StepS → StepS) : (s.onStep p c f).span = s.span := rfl
@[simp] theorem State.onStep_mirror (s : State) (p : Nat) (c : Cls) (f : StepS → StepS) : (s.onStep p c f).mirror = s.mirror := rfl
@[simp] theorem State.onStep_roles (s : State) (p : Nat) (c : Cls) (f : StepS → StepS) : (s.onStep p c f).roles = s.roles := rfl
@[simp] theorem State.onStep_other (s : State) (p : Nat) (c : Cls) (f : StepS → StepS) : (s.onStep p c f).other = s.other := rfl
@[simp] theorem State.onStep_kept (s : State) (p : Nat) (c : Cls) (f : StepS → StepS) : (s.onStep p c f).kept = s.kept := rfl
@[simp] theorem State.onStep_power (s : State) (p : Nat) (c : Cls) (f : StepS → StepS) : (s.onStep p c f).power = s.power := rfl
@[simp] theorem State.onStep_vectors (s : State) (p : Nat) (c : Cls) (f : StepS → StepS) : (s.onStep p c f).vectors = s.vectors := rfl
@[simp] theorem State.onStep_cnt (s : State) (p : Nat) (c : Cls) (f : StepS → StepS) : (s.onStep p c f).cnt = s.cnt := rfl
@[simp] theorem State.onStep_free (s : State) (p : Nat) (c : Cls) (f : StepS → StepS) : (s.onStep p c f).free = s.free := rfl
@[simp] theorem State.onStep_code (s : State) (p : Nat) (c : Cls) (f : StepS → StepS) : (s.onStep p c f).code = s.code := rfl
@[simp] theorem State.onStep_pending (s : State) (p : Nat) (c : Cls) (f : StepS → StepS) : (s.onStep p c f).pending = s.pending := rfl

@[simp] theorem State.onTenant_cfg (s : State) (t : Nat) (f : Tenant → Tenant) : (s.onTenant t f).cfg = s.cfg := rfl
@[simp] theorem State.onTenant_time (s : State) (t : Nat) (f : Tenant → Tenant) : (s.onTenant t f).time = s.time := rfl
@[simp] theorem State.onTenant_segs (s : State) (t : Nat) (f : Tenant → Tenant) : (s.onTenant t f).segs = s.segs := rfl
@[simp] theorem State.onTenant_parts (s : State) (t : Nat) (f : Tenant → Tenant) : (s.onTenant t f).parts = s.parts := rfl
@[simp] theorem State.onTenant_rings (s : State) (t : Nat) (f : Tenant → Tenant) : (s.onTenant t f).rings = s.rings := rfl
@[simp] theorem State.onTenant_handles (s : State) (t : Nat) (f : Tenant → Tenant) : (s.onTenant t f).handles = s.handles := rfl
@[simp] theorem State.onTenant_seqs (s : State) (t : Nat) (f : Tenant → Tenant) : (s.onTenant t f).seqs = s.seqs := rfl
@[simp] theorem State.onTenant_indexes (s : State) (t : Nat) (f : Tenant → Tenant) : (s.onTenant t f).indexes = s.indexes := rfl
@[simp] theorem State.onTenant_glob (s : State) (t : Nat) (f : Tenant → Tenant) : (s.onTenant t f).glob = s.glob := rfl
@[simp] theorem State.onTenant_prior (s : State) (t : Nat) (f : Tenant → Tenant) : (s.onTenant t f).prior = s.prior := rfl
@[simp] theorem State.onTenant_screen (s : State) (t : Nat) (f : Tenant → Tenant) : (s.onTenant t f).screen = s.screen := rfl
@[simp] theorem State.onTenant_objs (s : State) (t : Nat) (f : Tenant → Tenant) : (s.onTenant t f).objs = s.objs := rfl
@[simp] theorem State.onTenant_trust (s : State) (t : Nat) (f : Tenant → Tenant) : (s.onTenant t f).trust = s.trust := rfl
@[simp] theorem State.onTenant_span (s : State) (t : Nat) (f : Tenant → Tenant) : (s.onTenant t f).span = s.span := rfl
@[simp] theorem State.onTenant_mirror (s : State) (t : Nat) (f : Tenant → Tenant) : (s.onTenant t f).mirror = s.mirror := rfl
@[simp] theorem State.onTenant_roles (s : State) (t : Nat) (f : Tenant → Tenant) : (s.onTenant t f).roles = s.roles := rfl
@[simp] theorem State.onTenant_other (s : State) (t : Nat) (f : Tenant → Tenant) : (s.onTenant t f).other = s.other := rfl
@[simp] theorem State.onTenant_kept (s : State) (t : Nat) (f : Tenant → Tenant) : (s.onTenant t f).kept = s.kept := rfl
@[simp] theorem State.onTenant_power (s : State) (t : Nat) (f : Tenant → Tenant) : (s.onTenant t f).power = s.power := rfl
@[simp] theorem State.onTenant_vectors (s : State) (t : Nat) (f : Tenant → Tenant) : (s.onTenant t f).vectors = s.vectors := rfl
@[simp] theorem State.onTenant_cnt (s : State) (t : Nat) (f : Tenant → Tenant) : (s.onTenant t f).cnt = s.cnt := rfl
@[simp] theorem State.onTenant_free (s : State) (t : Nat) (f : Tenant → Tenant) : (s.onTenant t f).free = s.free := rfl
@[simp] theorem State.onTenant_code (s : State) (t : Nat) (f : Tenant → Tenant) : (s.onTenant t f).code = s.code := rfl
@[simp] theorem State.onTenant_pending (s : State) (t : Nat) (f : Tenant → Tenant) : (s.onTenant t f).pending = s.pending := rfl

@[simp] theorem State.setRing_cfg (s : State) (n : Nat) (r : Ring) : (s.setRing n r).cfg = s.cfg := rfl
@[simp] theorem State.setRing_time (s : State) (n : Nat) (r : Ring) : (s.setRing n r).time = s.time := rfl
@[simp] theorem State.setRing_segs (s : State) (n : Nat) (r : Ring) : (s.setRing n r).segs = s.segs := rfl
@[simp] theorem State.setRing_parts (s : State) (n : Nat) (r : Ring) : (s.setRing n r).parts = s.parts := rfl
@[simp] theorem State.setRing_tenants (s : State) (n : Nat) (r : Ring) : (s.setRing n r).tenants = s.tenants := rfl
@[simp] theorem State.setRing_handles (s : State) (n : Nat) (r : Ring) : (s.setRing n r).handles = s.handles := rfl
@[simp] theorem State.setRing_seqs (s : State) (n : Nat) (r : Ring) : (s.setRing n r).seqs = s.seqs := rfl
@[simp] theorem State.setRing_indexes (s : State) (n : Nat) (r : Ring) : (s.setRing n r).indexes = s.indexes := rfl
@[simp] theorem State.setRing_glob (s : State) (n : Nat) (r : Ring) : (s.setRing n r).glob = s.glob := rfl
@[simp] theorem State.setRing_prior (s : State) (n : Nat) (r : Ring) : (s.setRing n r).prior = s.prior := rfl
@[simp] theorem State.setRing_screen (s : State) (n : Nat) (r : Ring) : (s.setRing n r).screen = s.screen := rfl
@[simp] theorem State.setRing_objs (s : State) (n : Nat) (r : Ring) : (s.setRing n r).objs = s.objs := rfl
@[simp] theorem State.setRing_trust (s : State) (n : Nat) (r : Ring) : (s.setRing n r).trust = s.trust := rfl
@[simp] theorem State.setRing_span (s : State) (n : Nat) (r : Ring) : (s.setRing n r).span = s.span := rfl
@[simp] theorem State.setRing_mirror (s : State) (n : Nat) (r : Ring) : (s.setRing n r).mirror = s.mirror := rfl
@[simp] theorem State.setRing_roles (s : State) (n : Nat) (r : Ring) : (s.setRing n r).roles = s.roles := rfl
@[simp] theorem State.setRing_other (s : State) (n : Nat) (r : Ring) : (s.setRing n r).other = s.other := rfl
@[simp] theorem State.setRing_kept (s : State) (n : Nat) (r : Ring) : (s.setRing n r).kept = s.kept := rfl
@[simp] theorem State.setRing_power (s : State) (n : Nat) (r : Ring) : (s.setRing n r).power = s.power := rfl
@[simp] theorem State.setRing_vectors (s : State) (n : Nat) (r : Ring) : (s.setRing n r).vectors = s.vectors := rfl
@[simp] theorem State.setRing_cnt (s : State) (n : Nat) (r : Ring) : (s.setRing n r).cnt = s.cnt := rfl
@[simp] theorem State.setRing_free (s : State) (n : Nat) (r : Ring) : (s.setRing n r).free = s.free := rfl
@[simp] theorem State.setRing_code (s : State) (n : Nat) (r : Ring) : (s.setRing n r).code = s.code := rfl
@[simp] theorem State.setRing_pending (s : State) (n : Nat) (r : Ring) : (s.setRing n r).pending = s.pending := rfl

@[simp] theorem State.onRing_cfg (s : State) (n : Nat) (f : Ring → Ring) : (s.onRing n f).cfg = s.cfg := rfl
@[simp] theorem State.onRing_time (s : State) (n : Nat) (f : Ring → Ring) : (s.onRing n f).time = s.time := rfl
@[simp] theorem State.onRing_segs (s : State) (n : Nat) (f : Ring → Ring) : (s.onRing n f).segs = s.segs := rfl
@[simp] theorem State.onRing_parts (s : State) (n : Nat) (f : Ring → Ring) : (s.onRing n f).parts = s.parts := rfl
@[simp] theorem State.onRing_tenants (s : State) (n : Nat) (f : Ring → Ring) : (s.onRing n f).tenants = s.tenants := rfl
@[simp] theorem State.onRing_handles (s : State) (n : Nat) (f : Ring → Ring) : (s.onRing n f).handles = s.handles := rfl
@[simp] theorem State.onRing_seqs (s : State) (n : Nat) (f : Ring → Ring) : (s.onRing n f).seqs = s.seqs := rfl
@[simp] theorem State.onRing_indexes (s : State) (n : Nat) (f : Ring → Ring) : (s.onRing n f).indexes = s.indexes := rfl
@[simp] theorem State.onRing_glob (s : State) (n : Nat) (f : Ring → Ring) : (s.onRing n f).glob = s.glob := rfl
@[simp] theorem State.onRing_prior (s : State) (n : Nat) (f : Ring → Ring) : (s.onRing n f).prior = s.prior := rfl
@[simp] theorem State.onRing_screen (s : State) (n : Nat) (f : Ring → Ring) : (s.onRing n f).screen = s.screen := rfl
@[simp] theorem State.onRing_objs (s : State) (n : Nat) (f : Ring → Ring) : (s.onRing n f).objs = s.objs := rfl
@[simp] theorem State.onRing_trust (s : State) (n : Nat) (f : Ring → Ring) : (s.onRing n f).trust = s.trust := rfl
@[simp] theorem State.onRing_span (s : State) (n : Nat) (f : Ring → Ring) : (s.onRing n f).span = s.span := rfl
@[simp] theorem State.onRing_mirror (s : State) (n : Nat) (f : Ring → Ring) : (s.onRing n f).mirror = s.mirror := rfl
@[simp] theorem State.onRing_roles (s : State) (n : Nat) (f : Ring → Ring) : (s.onRing n f).roles = s.roles := rfl
@[simp] theorem State.onRing_other (s : State) (n : Nat) (f : Ring → Ring) : (s.onRing n f).other = s.other := rfl
@[simp] theorem State.onRing_kept (s : State) (n : Nat) (f : Ring → Ring) : (s.onRing n f).kept = s.kept := rfl
@[simp] theorem State.onRing_power (s : State) (n : Nat) (f : Ring → Ring) : (s.onRing n f).power = s.power := rfl
@[simp] theorem State.onRing_vectors (s : State) (n : Nat) (f : Ring → Ring) : (s.onRing n f).vectors = s.vectors := rfl
@[simp] theorem State.onRing_cnt (s : State) (n : Nat) (f : Ring → Ring) : (s.onRing n f).cnt = s.cnt := rfl
@[simp] theorem State.onRing_free (s : State) (n : Nat) (f : Ring → Ring) : (s.onRing n f).free = s.free := rfl
@[simp] theorem State.onRing_code (s : State) (n : Nat) (f : Ring → Ring) : (s.onRing n f).code = s.code := rfl
@[simp] theorem State.onRing_pending (s : State) (n : Nat) (f : Ring → Ring) : (s.onRing n f).pending = s.pending := rfl

@[simp] theorem State.onEntry_cfg (s : State) (k : Nat) (f : Handle → Handle) : (s.onEntry k f).cfg = s.cfg := by unfold State.onEntry; split <;> rfl
@[simp] theorem State.onEntry_time (s : State) (k : Nat) (f : Handle → Handle) : (s.onEntry k f).time = s.time := by unfold State.onEntry; split <;> rfl
@[simp] theorem State.onEntry_segs (s : State) (k : Nat) (f : Handle → Handle) : (s.onEntry k f).segs = s.segs := by unfold State.onEntry; split <;> rfl
@[simp] theorem State.onEntry_parts (s : State) (k : Nat) (f : Handle → Handle) : (s.onEntry k f).parts = s.parts := by unfold State.onEntry; split <;> rfl
@[simp] theorem State.onEntry_rings (s : State) (k : Nat) (f : Handle → Handle) : (s.onEntry k f).rings = s.rings := by unfold State.onEntry; split <;> rfl
@[simp] theorem State.onEntry_tenants (s : State) (k : Nat) (f : Handle → Handle) : (s.onEntry k f).tenants = s.tenants := by unfold State.onEntry; split <;> rfl
@[simp] theorem State.onEntry_seqs (s : State) (k : Nat) (f : Handle → Handle) : (s.onEntry k f).seqs = s.seqs := by unfold State.onEntry; split <;> rfl
@[simp] theorem State.onEntry_indexes (s : State) (k : Nat) (f : Handle → Handle) : (s.onEntry k f).indexes = s.indexes := by unfold State.onEntry; split <;> rfl
@[simp] theorem State.onEntry_glob (s : State) (k : Nat) (f : Handle → Handle) : (s.onEntry k f).glob = s.glob := by unfold State.onEntry; split <;> rfl
@[simp] theorem State.onEntry_prior (s : State) (k : Nat) (f : Handle → Handle) : (s.onEntry k f).prior = s.prior := by unfold State.onEntry; split <;> rfl
@[simp] theorem State.onEntry_screen (s : State) (k : Nat) (f : Handle → Handle) : (s.onEntry k f).screen = s.screen := by unfold State.onEntry; split <;> rfl
@[simp] theorem State.onEntry_objs (s : State) (k : Nat) (f : Handle → Handle) : (s.onEntry k f).objs = s.objs := by unfold State.onEntry; split <;> rfl
@[simp] theorem State.onEntry_trust (s : State) (k : Nat) (f : Handle → Handle) : (s.onEntry k f).trust = s.trust := by unfold State.onEntry; split <;> rfl
@[simp] theorem State.onEntry_span (s : State) (k : Nat) (f : Handle → Handle) : (s.onEntry k f).span = s.span := by unfold State.onEntry; split <;> rfl
@[simp] theorem State.onEntry_mirror (s : State) (k : Nat) (f : Handle → Handle) : (s.onEntry k f).mirror = s.mirror := by unfold State.onEntry; split <;> rfl
@[simp] theorem State.onEntry_roles (s : State) (k : Nat) (f : Handle → Handle) : (s.onEntry k f).roles = s.roles := by unfold State.onEntry; split <;> rfl
@[simp] theorem State.onEntry_other (s : State) (k : Nat) (f : Handle → Handle) : (s.onEntry k f).other = s.other := by unfold State.onEntry; split <;> rfl
@[simp] theorem State.onEntry_kept (s : State) (k : Nat) (f : Handle → Handle) : (s.onEntry k f).kept = s.kept := by unfold State.onEntry; split <;> rfl
@[simp] theorem State.onEntry_power (s : State) (k : Nat) (f : Handle → Handle) : (s.onEntry k f).power = s.power := by unfold State.onEntry; split <;> rfl
@[simp] theorem State.onEntry_vectors (s : State) (k : Nat) (f : Handle → Handle) : (s.onEntry k f).vectors = s.vectors := by unfold State.onEntry; split <;> rfl
@[simp] theorem State.onEntry_cnt (s : State) (k : Nat) (f : Handle → Handle) : (s.onEntry k f).cnt = s.cnt := by unfold State.onEntry; split <;> rfl
@[simp] theorem State.onEntry_free (s : State) (k : Nat) (f : Handle → Handle) : (s.onEntry k f).free = s.free := by unfold State.onEntry; split <;> rfl
@[simp] theorem State.onEntry_code (s : State) (k : Nat) (f : Handle → Handle) : (s.onEntry k f).code = s.code := by unfold State.onEntry; split <;> rfl
@[simp] theorem State.onEntry_pending (s : State) (k : Nat) (f : Handle → Handle) : (s.onEntry k f).pending = s.pending := by unfold State.onEntry; split <;> rfl

@[simp] theorem State.onLive_cfg (s : State) (k : Nat) (f : Sequence → Sequence) : (s.onLive k f).cfg = s.cfg := by unfold State.onLive; split <;> rfl
@[simp] theorem State.onLive_time (s : State) (k : Nat) (f : Sequence → Sequence) : (s.onLive k f).time = s.time := by unfold State.onLive; split <;> rfl
@[simp] theorem State.onLive_segs (s : State) (k : Nat) (f : Sequence → Sequence) : (s.onLive k f).segs = s.segs := by unfold State.onLive; split <;> rfl
@[simp] theorem State.onLive_parts (s : State) (k : Nat) (f : Sequence → Sequence) : (s.onLive k f).parts = s.parts := by unfold State.onLive; split <;> rfl
@[simp] theorem State.onLive_rings (s : State) (k : Nat) (f : Sequence → Sequence) : (s.onLive k f).rings = s.rings := by unfold State.onLive; split <;> rfl
@[simp] theorem State.onLive_tenants (s : State) (k : Nat) (f : Sequence → Sequence) : (s.onLive k f).tenants = s.tenants := by unfold State.onLive; split <;> rfl
@[simp] theorem State.onLive_handles (s : State) (k : Nat) (f : Sequence → Sequence) : (s.onLive k f).handles = s.handles := by unfold State.onLive; split <;> rfl
@[simp] theorem State.onLive_indexes (s : State) (k : Nat) (f : Sequence → Sequence) : (s.onLive k f).indexes = s.indexes := by unfold State.onLive; split <;> rfl
@[simp] theorem State.onLive_glob (s : State) (k : Nat) (f : Sequence → Sequence) : (s.onLive k f).glob = s.glob := by unfold State.onLive; split <;> rfl
@[simp] theorem State.onLive_prior (s : State) (k : Nat) (f : Sequence → Sequence) : (s.onLive k f).prior = s.prior := by unfold State.onLive; split <;> rfl
@[simp] theorem State.onLive_screen (s : State) (k : Nat) (f : Sequence → Sequence) : (s.onLive k f).screen = s.screen := by unfold State.onLive; split <;> rfl
@[simp] theorem State.onLive_objs (s : State) (k : Nat) (f : Sequence → Sequence) : (s.onLive k f).objs = s.objs := by unfold State.onLive; split <;> rfl
@[simp] theorem State.onLive_trust (s : State) (k : Nat) (f : Sequence → Sequence) : (s.onLive k f).trust = s.trust := by unfold State.onLive; split <;> rfl
@[simp] theorem State.onLive_span (s : State) (k : Nat) (f : Sequence → Sequence) : (s.onLive k f).span = s.span := by unfold State.onLive; split <;> rfl
@[simp] theorem State.onLive_mirror (s : State) (k : Nat) (f : Sequence → Sequence) : (s.onLive k f).mirror = s.mirror := by unfold State.onLive; split <;> rfl
@[simp] theorem State.onLive_roles (s : State) (k : Nat) (f : Sequence → Sequence) : (s.onLive k f).roles = s.roles := by unfold State.onLive; split <;> rfl
@[simp] theorem State.onLive_other (s : State) (k : Nat) (f : Sequence → Sequence) : (s.onLive k f).other = s.other := by unfold State.onLive; split <;> rfl
@[simp] theorem State.onLive_kept (s : State) (k : Nat) (f : Sequence → Sequence) : (s.onLive k f).kept = s.kept := by unfold State.onLive; split <;> rfl
@[simp] theorem State.onLive_power (s : State) (k : Nat) (f : Sequence → Sequence) : (s.onLive k f).power = s.power := by unfold State.onLive; split <;> rfl
@[simp] theorem State.onLive_vectors (s : State) (k : Nat) (f : Sequence → Sequence) : (s.onLive k f).vectors = s.vectors := by unfold State.onLive; split <;> rfl
@[simp] theorem State.onLive_cnt (s : State) (k : Nat) (f : Sequence → Sequence) : (s.onLive k f).cnt = s.cnt := by unfold State.onLive; split <;> rfl
@[simp] theorem State.onLive_free (s : State) (k : Nat) (f : Sequence → Sequence) : (s.onLive k f).free = s.free := by unfold State.onLive; split <;> rfl
@[simp] theorem State.onLive_code (s : State) (k : Nat) (f : Sequence → Sequence) : (s.onLive k f).code = s.code := by unfold State.onLive; split <;> rfl
@[simp] theorem State.onLive_pending (s : State) (k : Nat) (f : Sequence → Sequence) : (s.onLive k f).pending = s.pending := by unfold State.onLive; split <;> rfl

@[simp] theorem State.count_cfg (s : State) (f : Counters → Counters) : (s.count f).cfg = s.cfg := rfl
@[simp] theorem State.count_time (s : State) (f : Counters → Counters) : (s.count f).time = s.time := rfl
@[simp] theorem State.count_segs (s : State) (f : Counters → Counters) : (s.count f).segs = s.segs := rfl
@[simp] theorem State.count_parts (s : State) (f : Counters → Counters) : (s.count f).parts = s.parts := rfl
@[simp] theorem State.count_rings (s : State) (f : Counters → Counters) : (s.count f).rings = s.rings := rfl
@[simp] theorem State.count_tenants (s : State) (f : Counters → Counters) : (s.count f).tenants = s.tenants := rfl
@[simp] theorem State.count_handles (s : State) (f : Counters → Counters) : (s.count f).handles = s.handles := rfl
@[simp] theorem State.count_seqs (s : State) (f : Counters → Counters) : (s.count f).seqs = s.seqs := rfl
@[simp] theorem State.count_indexes (s : State) (f : Counters → Counters) : (s.count f).indexes = s.indexes := rfl
@[simp] theorem State.count_glob (s : State) (f : Counters → Counters) : (s.count f).glob = s.glob := rfl
@[simp] theorem State.count_prior (s : State) (f : Counters → Counters) : (s.count f).prior = s.prior := rfl
@[simp] theorem State.count_screen (s : State) (f : Counters → Counters) : (s.count f).screen = s.screen := rfl
@[simp] theorem State.count_objs (s : State) (f : Counters → Counters) : (s.count f).objs = s.objs := rfl
@[simp] theorem State.count_trust (s : State) (f : Counters → Counters) : (s.count f).trust = s.trust := rfl
@[simp] theorem State.count_span (s : State) (f : Counters → Counters) : (s.count f).span = s.span := rfl
@[simp] theorem State.count_mirror (s : State) (f : Counters → Counters) : (s.count f).mirror = s.mirror := rfl
@[simp] theorem State.count_roles (s : State) (f : Counters → Counters) : (s.count f).roles = s.roles := rfl
@[simp] theorem State.count_other (s : State) (f : Counters → Counters) : (s.count f).other = s.other := rfl
@[simp] theorem State.count_kept (s : State) (f : Counters → Counters) : (s.count f).kept = s.kept := rfl
@[simp] theorem State.count_power (s : State) (f : Counters → Counters) : (s.count f).power = s.power := rfl
@[simp] theorem State.count_vectors (s : State) (f : Counters → Counters) : (s.count f).vectors = s.vectors := rfl
@[simp] theorem State.count_free (s : State) (f : Counters → Counters) : (s.count f).free = s.free := rfl
@[simp] theorem State.count_code (s : State) (f : Counters → Counters) : (s.count f).code = s.code := rfl
@[simp] theorem State.count_pending (s : State) (f : Counters → Counters) : (s.count f).pending = s.pending := rfl

@[simp] theorem State.segCount_cfg (s : State) (i : Nat) (f : SegCount → SegCount) : (s.segCount i f).cfg = s.cfg := rfl
@[simp] theorem State.segCount_time (s : State) (i : Nat) (f : SegCount → SegCount) : (s.segCount i f).time = s.time := rfl
@[simp] theorem State.segCount_parts (s : State) (i : Nat) (f : SegCount → SegCount) : (s.segCount i f).parts = s.parts := rfl
@[simp] theorem State.segCount_rings (s : State) (i : Nat) (f : SegCount → SegCount) : (s.segCount i f).rings = s.rings := rfl
@[simp] theorem State.segCount_tenants (s : State) (i : Nat) (f : SegCount → SegCount) : (s.segCount i f).tenants = s.tenants := rfl
@[simp] theorem State.segCount_handles (s : State) (i : Nat) (f : SegCount → SegCount) : (s.segCount i f).handles = s.handles := rfl
@[simp] theorem State.segCount_seqs (s : State) (i : Nat) (f : SegCount → SegCount) : (s.segCount i f).seqs = s.seqs := rfl
@[simp] theorem State.segCount_indexes (s : State) (i : Nat) (f : SegCount → SegCount) : (s.segCount i f).indexes = s.indexes := rfl
@[simp] theorem State.segCount_glob (s : State) (i : Nat) (f : SegCount → SegCount) : (s.segCount i f).glob = s.glob := rfl
@[simp] theorem State.segCount_prior (s : State) (i : Nat) (f : SegCount → SegCount) : (s.segCount i f).prior = s.prior := rfl
@[simp] theorem State.segCount_screen (s : State) (i : Nat) (f : SegCount → SegCount) : (s.segCount i f).screen = s.screen := rfl
@[simp] theorem State.segCount_objs (s : State) (i : Nat) (f : SegCount → SegCount) : (s.segCount i f).objs = s.objs := rfl
@[simp] theorem State.segCount_trust (s : State) (i : Nat) (f : SegCount → SegCount) : (s.segCount i f).trust = s.trust := rfl
@[simp] theorem State.segCount_span (s : State) (i : Nat) (f : SegCount → SegCount) : (s.segCount i f).span = s.span := rfl
@[simp] theorem State.segCount_mirror (s : State) (i : Nat) (f : SegCount → SegCount) : (s.segCount i f).mirror = s.mirror := rfl
@[simp] theorem State.segCount_roles (s : State) (i : Nat) (f : SegCount → SegCount) : (s.segCount i f).roles = s.roles := rfl
@[simp] theorem State.segCount_other (s : State) (i : Nat) (f : SegCount → SegCount) : (s.segCount i f).other = s.other := rfl
@[simp] theorem State.segCount_kept (s : State) (i : Nat) (f : SegCount → SegCount) : (s.segCount i f).kept = s.kept := rfl
@[simp] theorem State.segCount_power (s : State) (i : Nat) (f : SegCount → SegCount) : (s.segCount i f).power = s.power := rfl
@[simp] theorem State.segCount_vectors (s : State) (i : Nat) (f : SegCount → SegCount) : (s.segCount i f).vectors = s.vectors := rfl
@[simp] theorem State.segCount_cnt (s : State) (i : Nat) (f : SegCount → SegCount) : (s.segCount i f).cnt = s.cnt := rfl
@[simp] theorem State.segCount_free (s : State) (i : Nat) (f : SegCount → SegCount) : (s.segCount i f).free = s.free := rfl
@[simp] theorem State.segCount_code (s : State) (i : Nat) (f : SegCount → SegCount) : (s.segCount i f).code = s.code := rfl
@[simp] theorem State.segCount_pending (s : State) (i : Nat) (f : SegCount → SegCount) : (s.segCount i f).pending = s.pending := rfl

@[simp] theorem State.given_cfg (s : State) (a : Stamp) : (s.given a).cfg = s.cfg := rfl
@[simp] theorem State.given_segs (s : State) (a : Stamp) : (s.given a).segs = s.segs := rfl
@[simp] theorem State.given_parts (s : State) (a : Stamp) : (s.given a).parts = s.parts := rfl
@[simp] theorem State.given_rings (s : State) (a : Stamp) : (s.given a).rings = s.rings := rfl
@[simp] theorem State.given_tenants (s : State) (a : Stamp) : (s.given a).tenants = s.tenants := rfl
@[simp] theorem State.given_handles (s : State) (a : Stamp) : (s.given a).handles = s.handles := rfl
@[simp] theorem State.given_seqs (s : State) (a : Stamp) : (s.given a).seqs = s.seqs := rfl
@[simp] theorem State.given_indexes (s : State) (a : Stamp) : (s.given a).indexes = s.indexes := rfl
@[simp] theorem State.given_glob (s : State) (a : Stamp) : (s.given a).glob = s.glob := rfl
@[simp] theorem State.given_prior (s : State) (a : Stamp) : (s.given a).prior = s.prior := rfl
@[simp] theorem State.given_screen (s : State) (a : Stamp) : (s.given a).screen = s.screen := rfl
@[simp] theorem State.given_objs (s : State) (a : Stamp) : (s.given a).objs = s.objs := rfl
@[simp] theorem State.given_trust (s : State) (a : Stamp) : (s.given a).trust = s.trust := rfl
@[simp] theorem State.given_span (s : State) (a : Stamp) : (s.given a).span = s.span := rfl
@[simp] theorem State.given_mirror (s : State) (a : Stamp) : (s.given a).mirror = s.mirror := rfl
@[simp] theorem State.given_roles (s : State) (a : Stamp) : (s.given a).roles = s.roles := rfl
@[simp] theorem State.given_other (s : State) (a : Stamp) : (s.given a).other = s.other := rfl
@[simp] theorem State.given_kept (s : State) (a : Stamp) : (s.given a).kept = s.kept := rfl
@[simp] theorem State.given_power (s : State) (a : Stamp) : (s.given a).power = s.power := rfl
@[simp] theorem State.given_vectors (s : State) (a : Stamp) : (s.given a).vectors = s.vectors := rfl
@[simp] theorem State.given_cnt (s : State) (a : Stamp) : (s.given a).cnt = s.cnt := rfl
@[simp] theorem State.given_free (s : State) (a : Stamp) : (s.given a).free = s.free := rfl
@[simp] theorem State.given_code (s : State) (a : Stamp) : (s.given a).code = s.code := rfl
@[simp] theorem State.given_pending (s : State) (a : Stamp) : (s.given a).pending = s.pending := rfl

@[simp] theorem State.onCycle_cfg (s : State) (cyc : Nat) : (s.onCycle cyc).cfg = s.cfg := rfl
@[simp] theorem State.onCycle_segs (s : State) (cyc : Nat) : (s.onCycle cyc).segs = s.segs := rfl
@[simp] theorem State.onCycle_parts (s : State) (cyc : Nat) : (s.onCycle cyc).parts = s.parts := rfl
@[simp] theorem State.onCycle_rings (s : State) (cyc : Nat) : (s.onCycle cyc).rings = s.rings := rfl
@[simp] theorem State.onCycle_tenants (s : State) (cyc : Nat) : (s.onCycle cyc).tenants = s.tenants := rfl
@[simp] theorem State.onCycle_handles (s : State) (cyc : Nat) : (s.onCycle cyc).handles = s.handles := rfl
@[simp] theorem State.onCycle_seqs (s : State) (cyc : Nat) : (s.onCycle cyc).seqs = s.seqs := rfl
@[simp] theorem State.onCycle_indexes (s : State) (cyc : Nat) : (s.onCycle cyc).indexes = s.indexes := rfl
@[simp] theorem State.onCycle_glob (s : State) (cyc : Nat) : (s.onCycle cyc).glob = s.glob := rfl
@[simp] theorem State.onCycle_prior (s : State) (cyc : Nat) : (s.onCycle cyc).prior = s.prior := rfl
@[simp] theorem State.onCycle_screen (s : State) (cyc : Nat) : (s.onCycle cyc).screen = s.screen := rfl
@[simp] theorem State.onCycle_objs (s : State) (cyc : Nat) : (s.onCycle cyc).objs = s.objs := rfl
@[simp] theorem State.onCycle_trust (s : State) (cyc : Nat) : (s.onCycle cyc).trust = s.trust := rfl
@[simp] theorem State.onCycle_span (s : State) (cyc : Nat) : (s.onCycle cyc).span = s.span := rfl
@[simp] theorem State.onCycle_mirror (s : State) (cyc : Nat) : (s.onCycle cyc).mirror = s.mirror := rfl
@[simp] theorem State.onCycle_roles (s : State) (cyc : Nat) : (s.onCycle cyc).roles = s.roles := rfl
@[simp] theorem State.onCycle_other (s : State) (cyc : Nat) : (s.onCycle cyc).other = s.other := rfl
@[simp] theorem State.onCycle_kept (s : State) (cyc : Nat) : (s.onCycle cyc).kept = s.kept := rfl
@[simp] theorem State.onCycle_power (s : State) (cyc : Nat) : (s.onCycle cyc).power = s.power := rfl
@[simp] theorem State.onCycle_vectors (s : State) (cyc : Nat) : (s.onCycle cyc).vectors = s.vectors := rfl
@[simp] theorem State.onCycle_cnt (s : State) (cyc : Nat) : (s.onCycle cyc).cnt = s.cnt := rfl
@[simp] theorem State.onCycle_free (s : State) (cyc : Nat) : (s.onCycle cyc).free = s.free := rfl
@[simp] theorem State.onCycle_code (s : State) (cyc : Nat) : (s.onCycle cyc).code = s.code := rfl
@[simp] theorem State.onCycle_pending (s : State) (cyc : Nat) : (s.onCycle cyc).pending = s.pending := rfl

@[simp] theorem State.dma_cfg (s : State) (seg : Nat) (r : DmaReq) : (s.dma seg r).cfg = s.cfg := rfl
@[simp] theorem State.dma_time (s : State) (seg : Nat) (r : DmaReq) : (s.dma seg r).time = s.time := rfl
@[simp] theorem State.dma_parts (s : State) (seg : Nat) (r : DmaReq) : (s.dma seg r).parts = s.parts := rfl
@[simp] theorem State.dma_rings (s : State) (seg : Nat) (r : DmaReq) : (s.dma seg r).rings = s.rings := rfl
@[simp] theorem State.dma_tenants (s : State) (seg : Nat) (r : DmaReq) : (s.dma seg r).tenants = s.tenants := rfl
@[simp] theorem State.dma_handles (s : State) (seg : Nat) (r : DmaReq) : (s.dma seg r).handles = s.handles := rfl
@[simp] theorem State.dma_seqs (s : State) (seg : Nat) (r : DmaReq) : (s.dma seg r).seqs = s.seqs := rfl
@[simp] theorem State.dma_indexes (s : State) (seg : Nat) (r : DmaReq) : (s.dma seg r).indexes = s.indexes := rfl
@[simp] theorem State.dma_glob (s : State) (seg : Nat) (r : DmaReq) : (s.dma seg r).glob = s.glob := rfl
@[simp] theorem State.dma_prior (s : State) (seg : Nat) (r : DmaReq) : (s.dma seg r).prior = s.prior := rfl
@[simp] theorem State.dma_screen (s : State) (seg : Nat) (r : DmaReq) : (s.dma seg r).screen = s.screen := rfl
@[simp] theorem State.dma_objs (s : State) (seg : Nat) (r : DmaReq) : (s.dma seg r).objs = s.objs := rfl
@[simp] theorem State.dma_trust (s : State) (seg : Nat) (r : DmaReq) : (s.dma seg r).trust = s.trust := rfl
@[simp] theorem State.dma_span (s : State) (seg : Nat) (r : DmaReq) : (s.dma seg r).span = s.span := rfl
@[simp] theorem State.dma_mirror (s : State) (seg : Nat) (r : DmaReq) : (s.dma seg r).mirror = s.mirror := rfl
@[simp] theorem State.dma_roles (s : State) (seg : Nat) (r : DmaReq) : (s.dma seg r).roles = s.roles := rfl
@[simp] theorem State.dma_other (s : State) (seg : Nat) (r : DmaReq) : (s.dma seg r).other = s.other := rfl
@[simp] theorem State.dma_kept (s : State) (seg : Nat) (r : DmaReq) : (s.dma seg r).kept = s.kept := rfl
@[simp] theorem State.dma_power (s : State) (seg : Nat) (r : DmaReq) : (s.dma seg r).power = s.power := rfl
@[simp] theorem State.dma_vectors (s : State) (seg : Nat) (r : DmaReq) : (s.dma seg r).vectors = s.vectors := rfl
@[simp] theorem State.dma_cnt (s : State) (seg : Nat) (r : DmaReq) : (s.dma seg r).cnt = s.cnt := rfl
@[simp] theorem State.dma_free (s : State) (seg : Nat) (r : DmaReq) : (s.dma seg r).free = s.free := rfl
@[simp] theorem State.dma_code (s : State) (seg : Nat) (r : DmaReq) : (s.dma seg r).code = s.code := rfl
@[simp] theorem State.dma_pending (s : State) (seg : Nat) (r : DmaReq) : (s.dma seg r).pending = s.pending := rfl

@[simp] theorem State.pulse_cfg (s : State) (v : Nat) : (s.pulse v).cfg = s.cfg := rfl
@[simp] theorem State.pulse_time (s : State) (v : Nat) : (s.pulse v).time = s.time := rfl
@[simp] theorem State.pulse_segs (s : State) (v : Nat) : (s.pulse v).segs = s.segs := rfl
@[simp] theorem State.pulse_parts (s : State) (v : Nat) : (s.pulse v).parts = s.parts := rfl
@[simp] theorem State.pulse_rings (s : State) (v : Nat) : (s.pulse v).rings = s.rings := rfl
@[simp] theorem State.pulse_tenants (s : State) (v : Nat) : (s.pulse v).tenants = s.tenants := rfl
@[simp] theorem State.pulse_handles (s : State) (v : Nat) : (s.pulse v).handles = s.handles := rfl
@[simp] theorem State.pulse_seqs (s : State) (v : Nat) : (s.pulse v).seqs = s.seqs := rfl
@[simp] theorem State.pulse_indexes (s : State) (v : Nat) : (s.pulse v).indexes = s.indexes := rfl
@[simp] theorem State.pulse_glob (s : State) (v : Nat) : (s.pulse v).glob = s.glob := rfl
@[simp] theorem State.pulse_prior (s : State) (v : Nat) : (s.pulse v).prior = s.prior := rfl
@[simp] theorem State.pulse_screen (s : State) (v : Nat) : (s.pulse v).screen = s.screen := rfl
@[simp] theorem State.pulse_objs (s : State) (v : Nat) : (s.pulse v).objs = s.objs := rfl
@[simp] theorem State.pulse_trust (s : State) (v : Nat) : (s.pulse v).trust = s.trust := rfl
@[simp] theorem State.pulse_span (s : State) (v : Nat) : (s.pulse v).span = s.span := rfl
@[simp] theorem State.pulse_mirror (s : State) (v : Nat) : (s.pulse v).mirror = s.mirror := rfl
@[simp] theorem State.pulse_roles (s : State) (v : Nat) : (s.pulse v).roles = s.roles := rfl
@[simp] theorem State.pulse_other (s : State) (v : Nat) : (s.pulse v).other = s.other := rfl
@[simp] theorem State.pulse_kept (s : State) (v : Nat) : (s.pulse v).kept = s.kept := rfl
@[simp] theorem State.pulse_power (s : State) (v : Nat) : (s.pulse v).power = s.power := rfl
@[simp] theorem State.pulse_cnt (s : State) (v : Nat) : (s.pulse v).cnt = s.cnt := rfl
@[simp] theorem State.pulse_free (s : State) (v : Nat) : (s.pulse v).free = s.free := rfl
@[simp] theorem State.pulse_code (s : State) (v : Nat) : (s.pulse v).code = s.code := rfl
@[simp] theorem State.pulse_pending (s : State) (v : Nat) : (s.pulse v).pending = s.pending := rfl

@[simp] theorem State.respondTo_cfg (s : State) (i tag status data : Nat) : (s.respondTo i tag status data).cfg = s.cfg := by unfold State.respondTo; split <;> rfl
@[simp] theorem State.respondTo_time (s : State) (i tag status data : Nat) : (s.respondTo i tag status data).time = s.time := by unfold State.respondTo; split <;> rfl
@[simp] theorem State.respondTo_parts (s : State) (i tag status data : Nat) : (s.respondTo i tag status data).parts = s.parts := by unfold State.respondTo; split <;> rfl
@[simp] theorem State.respondTo_rings (s : State) (i tag status data : Nat) : (s.respondTo i tag status data).rings = s.rings := by unfold State.respondTo; split <;> rfl
@[simp] theorem State.respondTo_tenants (s : State) (i tag status data : Nat) : (s.respondTo i tag status data).tenants = s.tenants := by unfold State.respondTo; split <;> rfl
@[simp] theorem State.respondTo_handles (s : State) (i tag status data : Nat) : (s.respondTo i tag status data).handles = s.handles := by unfold State.respondTo; split <;> rfl
@[simp] theorem State.respondTo_seqs (s : State) (i tag status data : Nat) : (s.respondTo i tag status data).seqs = s.seqs := by unfold State.respondTo; split <;> rfl
@[simp] theorem State.respondTo_indexes (s : State) (i tag status data : Nat) : (s.respondTo i tag status data).indexes = s.indexes := by unfold State.respondTo; split <;> rfl
@[simp] theorem State.respondTo_glob (s : State) (i tag status data : Nat) : (s.respondTo i tag status data).glob = s.glob := by unfold State.respondTo; split <;> rfl
@[simp] theorem State.respondTo_prior (s : State) (i tag status data : Nat) : (s.respondTo i tag status data).prior = s.prior := by unfold State.respondTo; split <;> rfl
@[simp] theorem State.respondTo_screen (s : State) (i tag status data : Nat) : (s.respondTo i tag status data).screen = s.screen := by unfold State.respondTo; split <;> rfl
@[simp] theorem State.respondTo_objs (s : State) (i tag status data : Nat) : (s.respondTo i tag status data).objs = s.objs := by unfold State.respondTo; split <;> rfl
@[simp] theorem State.respondTo_trust (s : State) (i tag status data : Nat) : (s.respondTo i tag status data).trust = s.trust := by unfold State.respondTo; split <;> rfl
@[simp] theorem State.respondTo_span (s : State) (i tag status data : Nat) : (s.respondTo i tag status data).span = s.span := by unfold State.respondTo; split <;> rfl
@[simp] theorem State.respondTo_mirror (s : State) (i tag status data : Nat) : (s.respondTo i tag status data).mirror = s.mirror := by unfold State.respondTo; split <;> rfl
@[simp] theorem State.respondTo_roles (s : State) (i tag status data : Nat) : (s.respondTo i tag status data).roles = s.roles := by unfold State.respondTo; split <;> rfl
@[simp] theorem State.respondTo_other (s : State) (i tag status data : Nat) : (s.respondTo i tag status data).other = s.other := by unfold State.respondTo; split <;> rfl
@[simp] theorem State.respondTo_kept (s : State) (i tag status data : Nat) : (s.respondTo i tag status data).kept = s.kept := by unfold State.respondTo; split <;> rfl
@[simp] theorem State.respondTo_power (s : State) (i tag status data : Nat) : (s.respondTo i tag status data).power = s.power := by unfold State.respondTo; split <;> rfl
@[simp] theorem State.respondTo_vectors (s : State) (i tag status data : Nat) : (s.respondTo i tag status data).vectors = s.vectors := by unfold State.respondTo; split <;> rfl
@[simp] theorem State.respondTo_cnt (s : State) (i tag status data : Nat) : (s.respondTo i tag status data).cnt = s.cnt := by unfold State.respondTo; split <;> rfl
@[simp] theorem State.respondTo_free (s : State) (i tag status data : Nat) : (s.respondTo i tag status data).free = s.free := by unfold State.respondTo; split <;> rfl
@[simp] theorem State.respondTo_code (s : State) (i tag status data : Nat) : (s.respondTo i tag status data).code = s.code := by unfold State.respondTo; split <;> rfl
@[simp] theorem State.respondTo_pending (s : State) (i tag status data : Nat) : (s.respondTo i tag status data).pending = s.pending := by unfold State.respondTo; split <;> rfl

@[simp] theorem State.respond_cfg (s : State) (i status data : Nat) : (s.respond i status data).cfg = s.cfg := State.respondTo_cfg _ _ _ _ _
@[simp] theorem State.respond_time (s : State) (i status data : Nat) : (s.respond i status data).time = s.time := State.respondTo_time _ _ _ _ _
@[simp] theorem State.respond_parts (s : State) (i status data : Nat) : (s.respond i status data).parts = s.parts := State.respondTo_parts _ _ _ _ _
@[simp] theorem State.respond_rings (s : State) (i status data : Nat) : (s.respond i status data).rings = s.rings := State.respondTo_rings _ _ _ _ _
@[simp] theorem State.respond_tenants (s : State) (i status data : Nat) : (s.respond i status data).tenants = s.tenants := State.respondTo_tenants _ _ _ _ _
@[simp] theorem State.respond_handles (s : State) (i status data : Nat) : (s.respond i status data).handles = s.handles := State.respondTo_handles _ _ _ _ _
@[simp] theorem State.respond_seqs (s : State) (i status data : Nat) : (s.respond i status data).seqs = s.seqs := State.respondTo_seqs _ _ _ _ _
@[simp] theorem State.respond_indexes (s : State) (i status data : Nat) : (s.respond i status data).indexes = s.indexes := State.respondTo_indexes _ _ _ _ _
@[simp] theorem State.respond_glob (s : State) (i status data : Nat) : (s.respond i status data).glob = s.glob := State.respondTo_glob _ _ _ _ _
@[simp] theorem State.respond_prior (s : State) (i status data : Nat) : (s.respond i status data).prior = s.prior := State.respondTo_prior _ _ _ _ _
@[simp] theorem State.respond_screen (s : State) (i status data : Nat) : (s.respond i status data).screen = s.screen := State.respondTo_screen _ _ _ _ _
@[simp] theorem State.respond_objs (s : State) (i status data : Nat) : (s.respond i status data).objs = s.objs := State.respondTo_objs _ _ _ _ _
@[simp] theorem State.respond_trust (s : State) (i status data : Nat) : (s.respond i status data).trust = s.trust := State.respondTo_trust _ _ _ _ _
@[simp] theorem State.respond_span (s : State) (i status data : Nat) : (s.respond i status data).span = s.span := State.respondTo_span _ _ _ _ _
@[simp] theorem State.respond_mirror (s : State) (i status data : Nat) : (s.respond i status data).mirror = s.mirror := State.respondTo_mirror _ _ _ _ _
@[simp] theorem State.respond_roles (s : State) (i status data : Nat) : (s.respond i status data).roles = s.roles := State.respondTo_roles _ _ _ _ _
@[simp] theorem State.respond_other (s : State) (i status data : Nat) : (s.respond i status data).other = s.other := State.respondTo_other _ _ _ _ _
@[simp] theorem State.respond_kept (s : State) (i status data : Nat) : (s.respond i status data).kept = s.kept := State.respondTo_kept _ _ _ _ _
@[simp] theorem State.respond_power (s : State) (i status data : Nat) : (s.respond i status data).power = s.power := State.respondTo_power _ _ _ _ _
@[simp] theorem State.respond_vectors (s : State) (i status data : Nat) : (s.respond i status data).vectors = s.vectors := State.respondTo_vectors _ _ _ _ _
@[simp] theorem State.respond_cnt (s : State) (i status data : Nat) : (s.respond i status data).cnt = s.cnt := State.respondTo_cnt _ _ _ _ _
@[simp] theorem State.respond_free (s : State) (i status data : Nat) : (s.respond i status data).free = s.free := State.respondTo_free _ _ _ _ _
@[simp] theorem State.respond_code (s : State) (i status data : Nat) : (s.respond i status data).code = s.code := State.respondTo_code _ _ _ _ _
@[simp] theorem State.respond_pending (s : State) (i status data : Nat) : (s.respond i status data).pending = s.pending := State.respondTo_pending _ _ _ _ _

@[simp] theorem State.answerReads_cfg (s : State) (l : List ReadAnswer) : (s.answerReads l).cfg = s.cfg := by
  induction l generalizing s with
  | nil => rfl
  | cons a l ih => exact (ih _).trans (State.respondTo_cfg _ _ _ _ _)
@[simp] theorem State.answerReads_time (s : State) (l : List ReadAnswer) : (s.answerReads l).time = s.time := by
  induction l generalizing s with
  | nil => rfl
  | cons a l ih => exact (ih _).trans (State.respondTo_time _ _ _ _ _)
@[simp] theorem State.answerReads_parts (s : State) (l : List ReadAnswer) : (s.answerReads l).parts = s.parts := by
  induction l generalizing s with
  | nil => rfl
  | cons a l ih => exact (ih _).trans (State.respondTo_parts _ _ _ _ _)
@[simp] theorem State.answerReads_rings (s : State) (l : List ReadAnswer) : (s.answerReads l).rings = s.rings := by
  induction l generalizing s with
  | nil => rfl
  | cons a l ih => exact (ih _).trans (State.respondTo_rings _ _ _ _ _)
@[simp] theorem State.answerReads_tenants (s : State) (l : List ReadAnswer) : (s.answerReads l).tenants = s.tenants := by
  induction l generalizing s with
  | nil => rfl
  | cons a l ih => exact (ih _).trans (State.respondTo_tenants _ _ _ _ _)
@[simp] theorem State.answerReads_handles (s : State) (l : List ReadAnswer) : (s.answerReads l).handles = s.handles := by
  induction l generalizing s with
  | nil => rfl
  | cons a l ih => exact (ih _).trans (State.respondTo_handles _ _ _ _ _)
@[simp] theorem State.answerReads_seqs (s : State) (l : List ReadAnswer) : (s.answerReads l).seqs = s.seqs := by
  induction l generalizing s with
  | nil => rfl
  | cons a l ih => exact (ih _).trans (State.respondTo_seqs _ _ _ _ _)
@[simp] theorem State.answerReads_indexes (s : State) (l : List ReadAnswer) : (s.answerReads l).indexes = s.indexes := by
  induction l generalizing s with
  | nil => rfl
  | cons a l ih => exact (ih _).trans (State.respondTo_indexes _ _ _ _ _)
@[simp] theorem State.answerReads_glob (s : State) (l : List ReadAnswer) : (s.answerReads l).glob = s.glob := by
  induction l generalizing s with
  | nil => rfl
  | cons a l ih => exact (ih _).trans (State.respondTo_glob _ _ _ _ _)
@[simp] theorem State.answerReads_prior (s : State) (l : List ReadAnswer) : (s.answerReads l).prior = s.prior := by
  induction l generalizing s with
  | nil => rfl
  | cons a l ih => exact (ih _).trans (State.respondTo_prior _ _ _ _ _)
@[simp] theorem State.answerReads_screen (s : State) (l : List ReadAnswer) : (s.answerReads l).screen = s.screen := by
  induction l generalizing s with
  | nil => rfl
  | cons a l ih => exact (ih _).trans (State.respondTo_screen _ _ _ _ _)
@[simp] theorem State.answerReads_objs (s : State) (l : List ReadAnswer) : (s.answerReads l).objs = s.objs := by
  induction l generalizing s with
  | nil => rfl
  | cons a l ih => exact (ih _).trans (State.respondTo_objs _ _ _ _ _)
@[simp] theorem State.answerReads_trust (s : State) (l : List ReadAnswer) : (s.answerReads l).trust = s.trust := by
  induction l generalizing s with
  | nil => rfl
  | cons a l ih => exact (ih _).trans (State.respondTo_trust _ _ _ _ _)
@[simp] theorem State.answerReads_span (s : State) (l : List ReadAnswer) : (s.answerReads l).span = s.span := by
  induction l generalizing s with
  | nil => rfl
  | cons a l ih => exact (ih _).trans (State.respondTo_span _ _ _ _ _)
@[simp] theorem State.answerReads_mirror (s : State) (l : List ReadAnswer) : (s.answerReads l).mirror = s.mirror := by
  induction l generalizing s with
  | nil => rfl
  | cons a l ih => exact (ih _).trans (State.respondTo_mirror _ _ _ _ _)
@[simp] theorem State.answerReads_roles (s : State) (l : List ReadAnswer) : (s.answerReads l).roles = s.roles := by
  induction l generalizing s with
  | nil => rfl
  | cons a l ih => exact (ih _).trans (State.respondTo_roles _ _ _ _ _)
@[simp] theorem State.answerReads_other (s : State) (l : List ReadAnswer) : (s.answerReads l).other = s.other := by
  induction l generalizing s with
  | nil => rfl
  | cons a l ih => exact (ih _).trans (State.respondTo_other _ _ _ _ _)
@[simp] theorem State.answerReads_kept (s : State) (l : List ReadAnswer) : (s.answerReads l).kept = s.kept := by
  induction l generalizing s with
  | nil => rfl
  | cons a l ih => exact (ih _).trans (State.respondTo_kept _ _ _ _ _)
@[simp] theorem State.answerReads_power (s : State) (l : List ReadAnswer) : (s.answerReads l).power = s.power := by
  induction l generalizing s with
  | nil => rfl
  | cons a l ih => exact (ih _).trans (State.respondTo_power _ _ _ _ _)
@[simp] theorem State.answerReads_vectors (s : State) (l : List ReadAnswer) : (s.answerReads l).vectors = s.vectors := by
  induction l generalizing s with
  | nil => rfl
  | cons a l ih => exact (ih _).trans (State.respondTo_vectors _ _ _ _ _)
@[simp] theorem State.answerReads_cnt (s : State) (l : List ReadAnswer) : (s.answerReads l).cnt = s.cnt := by
  induction l generalizing s with
  | nil => rfl
  | cons a l ih => exact (ih _).trans (State.respondTo_cnt _ _ _ _ _)
@[simp] theorem State.answerReads_free (s : State) (l : List ReadAnswer) : (s.answerReads l).free = s.free := by
  induction l generalizing s with
  | nil => rfl
  | cons a l ih => exact (ih _).trans (State.respondTo_free _ _ _ _ _)
@[simp] theorem State.answerReads_code (s : State) (l : List ReadAnswer) : (s.answerReads l).code = s.code := by
  induction l generalizing s with
  | nil => rfl
  | cons a l ih => exact (ih _).trans (State.respondTo_code _ _ _ _ _)
@[simp] theorem State.answerReads_pending (s : State) (l : List ReadAnswer) : (s.answerReads l).pending = s.pending := by
  induction l generalizing s with
  | nil => rfl
  | cons a l ih => exact (ih _).trans (State.respondTo_pending _ _ _ _ _)

@[simp] theorem State.onNq_cfg (s : State) (i : Nat) (f : WordQ → WordQ) : (s.onNq i f).cfg = s.cfg := State.answerReads_cfg _ _
@[simp] theorem State.onNq_time (s : State) (i : Nat) (f : WordQ → WordQ) : (s.onNq i f).time = s.time := State.answerReads_time _ _
@[simp] theorem State.onNq_parts (s : State) (i : Nat) (f : WordQ → WordQ) : (s.onNq i f).parts = s.parts := State.answerReads_parts _ _
@[simp] theorem State.onNq_rings (s : State) (i : Nat) (f : WordQ → WordQ) : (s.onNq i f).rings = s.rings := State.answerReads_rings _ _
@[simp] theorem State.onNq_tenants (s : State) (i : Nat) (f : WordQ → WordQ) : (s.onNq i f).tenants = s.tenants := State.answerReads_tenants _ _
@[simp] theorem State.onNq_handles (s : State) (i : Nat) (f : WordQ → WordQ) : (s.onNq i f).handles = s.handles := State.answerReads_handles _ _
@[simp] theorem State.onNq_seqs (s : State) (i : Nat) (f : WordQ → WordQ) : (s.onNq i f).seqs = s.seqs := State.answerReads_seqs _ _
@[simp] theorem State.onNq_indexes (s : State) (i : Nat) (f : WordQ → WordQ) : (s.onNq i f).indexes = s.indexes := State.answerReads_indexes _ _
@[simp] theorem State.onNq_glob (s : State) (i : Nat) (f : WordQ → WordQ) : (s.onNq i f).glob = s.glob := State.answerReads_glob _ _
@[simp] theorem State.onNq_prior (s : State) (i : Nat) (f : WordQ → WordQ) : (s.onNq i f).prior = s.prior := State.answerReads_prior _ _
@[simp] theorem State.onNq_screen (s : State) (i : Nat) (f : WordQ → WordQ) : (s.onNq i f).screen = s.screen := State.answerReads_screen _ _
@[simp] theorem State.onNq_objs (s : State) (i : Nat) (f : WordQ → WordQ) : (s.onNq i f).objs = s.objs := State.answerReads_objs _ _
@[simp] theorem State.onNq_trust (s : State) (i : Nat) (f : WordQ → WordQ) : (s.onNq i f).trust = s.trust := State.answerReads_trust _ _
@[simp] theorem State.onNq_span (s : State) (i : Nat) (f : WordQ → WordQ) : (s.onNq i f).span = s.span := State.answerReads_span _ _
@[simp] theorem State.onNq_mirror (s : State) (i : Nat) (f : WordQ → WordQ) : (s.onNq i f).mirror = s.mirror := State.answerReads_mirror _ _
@[simp] theorem State.onNq_roles (s : State) (i : Nat) (f : WordQ → WordQ) : (s.onNq i f).roles = s.roles := State.answerReads_roles _ _
@[simp] theorem State.onNq_other (s : State) (i : Nat) (f : WordQ → WordQ) : (s.onNq i f).other = s.other := State.answerReads_other _ _
@[simp] theorem State.onNq_kept (s : State) (i : Nat) (f : WordQ → WordQ) : (s.onNq i f).kept = s.kept := State.answerReads_kept _ _
@[simp] theorem State.onNq_power (s : State) (i : Nat) (f : WordQ → WordQ) : (s.onNq i f).power = s.power := State.answerReads_power _ _
@[simp] theorem State.onNq_vectors (s : State) (i : Nat) (f : WordQ → WordQ) : (s.onNq i f).vectors = s.vectors := State.answerReads_vectors _ _
@[simp] theorem State.onNq_cnt (s : State) (i : Nat) (f : WordQ → WordQ) : (s.onNq i f).cnt = s.cnt := State.answerReads_cnt _ _
@[simp] theorem State.onNq_free (s : State) (i : Nat) (f : WordQ → WordQ) : (s.onNq i f).free = s.free := State.answerReads_free _ _
@[simp] theorem State.onNq_code (s : State) (i : Nat) (f : WordQ → WordQ) : (s.onNq i f).code = s.code := State.answerReads_code _ _
@[simp] theorem State.onNq_pending (s : State) (i : Nat) (f : WordQ → WordQ) : (s.onNq i f).pending = s.pending := State.answerReads_pending _ _

@[simp] theorem State.raise_cfg (s : State) (src code scope seg part : Nat) (stamp : Stamp) (detail : Nat) : (s.raise src code scope seg part stamp detail).cfg = s.cfg := State.onNq_cfg _ _ _
@[simp] theorem State.raise_time (s : State) (src code scope seg part : Nat) (stamp : Stamp) (detail : Nat) : (s.raise src code scope seg part stamp detail).time = s.time := State.onNq_time _ _ _
@[simp] theorem State.raise_parts (s : State) (src code scope seg part : Nat) (stamp : Stamp) (detail : Nat) : (s.raise src code scope seg part stamp detail).parts = s.parts := State.onNq_parts _ _ _
@[simp] theorem State.raise_rings (s : State) (src code scope seg part : Nat) (stamp : Stamp) (detail : Nat) : (s.raise src code scope seg part stamp detail).rings = s.rings := State.onNq_rings _ _ _
@[simp] theorem State.raise_tenants (s : State) (src code scope seg part : Nat) (stamp : Stamp) (detail : Nat) : (s.raise src code scope seg part stamp detail).tenants = s.tenants := State.onNq_tenants _ _ _
@[simp] theorem State.raise_handles (s : State) (src code scope seg part : Nat) (stamp : Stamp) (detail : Nat) : (s.raise src code scope seg part stamp detail).handles = s.handles := State.onNq_handles _ _ _
@[simp] theorem State.raise_seqs (s : State) (src code scope seg part : Nat) (stamp : Stamp) (detail : Nat) : (s.raise src code scope seg part stamp detail).seqs = s.seqs := State.onNq_seqs _ _ _
@[simp] theorem State.raise_indexes (s : State) (src code scope seg part : Nat) (stamp : Stamp) (detail : Nat) : (s.raise src code scope seg part stamp detail).indexes = s.indexes := State.onNq_indexes _ _ _
@[simp] theorem State.raise_glob (s : State) (src code scope seg part : Nat) (stamp : Stamp) (detail : Nat) : (s.raise src code scope seg part stamp detail).glob = s.glob := State.onNq_glob _ _ _
@[simp] theorem State.raise_prior (s : State) (src code scope seg part : Nat) (stamp : Stamp) (detail : Nat) : (s.raise src code scope seg part stamp detail).prior = s.prior := State.onNq_prior _ _ _
@[simp] theorem State.raise_screen (s : State) (src code scope seg part : Nat) (stamp : Stamp) (detail : Nat) : (s.raise src code scope seg part stamp detail).screen = s.screen := State.onNq_screen _ _ _
@[simp] theorem State.raise_objs (s : State) (src code scope seg part : Nat) (stamp : Stamp) (detail : Nat) : (s.raise src code scope seg part stamp detail).objs = s.objs := State.onNq_objs _ _ _
@[simp] theorem State.raise_trust (s : State) (src code scope seg part : Nat) (stamp : Stamp) (detail : Nat) : (s.raise src code scope seg part stamp detail).trust = s.trust := State.onNq_trust _ _ _
@[simp] theorem State.raise_span (s : State) (src code scope seg part : Nat) (stamp : Stamp) (detail : Nat) : (s.raise src code scope seg part stamp detail).span = s.span := State.onNq_span _ _ _
@[simp] theorem State.raise_mirror (s : State) (src code scope seg part : Nat) (stamp : Stamp) (detail : Nat) : (s.raise src code scope seg part stamp detail).mirror = s.mirror := State.onNq_mirror _ _ _
@[simp] theorem State.raise_roles (s : State) (src code scope seg part : Nat) (stamp : Stamp) (detail : Nat) : (s.raise src code scope seg part stamp detail).roles = s.roles := State.onNq_roles _ _ _
@[simp] theorem State.raise_other (s : State) (src code scope seg part : Nat) (stamp : Stamp) (detail : Nat) : (s.raise src code scope seg part stamp detail).other = s.other := State.onNq_other _ _ _
@[simp] theorem State.raise_kept (s : State) (src code scope seg part : Nat) (stamp : Stamp) (detail : Nat) : (s.raise src code scope seg part stamp detail).kept = s.kept := State.onNq_kept _ _ _
@[simp] theorem State.raise_power (s : State) (src code scope seg part : Nat) (stamp : Stamp) (detail : Nat) : (s.raise src code scope seg part stamp detail).power = s.power := State.onNq_power _ _ _
@[simp] theorem State.raise_vectors (s : State) (src code scope seg part : Nat) (stamp : Stamp) (detail : Nat) : (s.raise src code scope seg part stamp detail).vectors = s.vectors := State.onNq_vectors _ _ _
@[simp] theorem State.raise_cnt (s : State) (src code scope seg part : Nat) (stamp : Stamp) (detail : Nat) : (s.raise src code scope seg part stamp detail).cnt = s.cnt := State.onNq_cnt _ _ _
@[simp] theorem State.raise_free (s : State) (src code scope seg part : Nat) (stamp : Stamp) (detail : Nat) : (s.raise src code scope seg part stamp detail).free = s.free := State.onNq_free _ _ _
@[simp] theorem State.raise_code (s : State) (src code scope seg part : Nat) (stamp : Stamp) (detail : Nat) : (s.raise src code scope seg part stamp detail).code = s.code := State.onNq_code _ _ _
@[simp] theorem State.raise_pending (s : State) (src code scope seg part : Nat) (stamp : Stamp) (detail : Nat) : (s.raise src code scope seg part stamp detail).pending = s.pending := State.onNq_pending _ _ _

@[simp] theorem State.withPending_cfg (s : State) (l : List Instr) : (s.withPending l).cfg = s.cfg := rfl
@[simp] theorem State.withPending_time (s : State) (l : List Instr) : (s.withPending l).time = s.time := rfl
@[simp] theorem State.withPending_segs (s : State) (l : List Instr) : (s.withPending l).segs = s.segs := rfl
@[simp] theorem State.withPending_parts (s : State) (l : List Instr) : (s.withPending l).parts = s.parts := rfl
@[simp] theorem State.withPending_rings (s : State) (l : List Instr) : (s.withPending l).rings = s.rings := rfl
@[simp] theorem State.withPending_tenants (s : State) (l : List Instr) : (s.withPending l).tenants = s.tenants := rfl
@[simp] theorem State.withPending_handles (s : State) (l : List Instr) : (s.withPending l).handles = s.handles := rfl
@[simp] theorem State.withPending_seqs (s : State) (l : List Instr) : (s.withPending l).seqs = s.seqs := rfl
@[simp] theorem State.withPending_indexes (s : State) (l : List Instr) : (s.withPending l).indexes = s.indexes := rfl
@[simp] theorem State.withPending_glob (s : State) (l : List Instr) : (s.withPending l).glob = s.glob := rfl
@[simp] theorem State.withPending_prior (s : State) (l : List Instr) : (s.withPending l).prior = s.prior := rfl
@[simp] theorem State.withPending_screen (s : State) (l : List Instr) : (s.withPending l).screen = s.screen := rfl
@[simp] theorem State.withPending_objs (s : State) (l : List Instr) : (s.withPending l).objs = s.objs := rfl
@[simp] theorem State.withPending_trust (s : State) (l : List Instr) : (s.withPending l).trust = s.trust := rfl
@[simp] theorem State.withPending_span (s : State) (l : List Instr) : (s.withPending l).span = s.span := rfl
@[simp] theorem State.withPending_mirror (s : State) (l : List Instr) : (s.withPending l).mirror = s.mirror := rfl
@[simp] theorem State.withPending_roles (s : State) (l : List Instr) : (s.withPending l).roles = s.roles := rfl
@[simp] theorem State.withPending_other (s : State) (l : List Instr) : (s.withPending l).other = s.other := rfl
@[simp] theorem State.withPending_kept (s : State) (l : List Instr) : (s.withPending l).kept = s.kept := rfl
@[simp] theorem State.withPending_power (s : State) (l : List Instr) : (s.withPending l).power = s.power := rfl
@[simp] theorem State.withPending_vectors (s : State) (l : List Instr) : (s.withPending l).vectors = s.vectors := rfl
@[simp] theorem State.withPending_cnt (s : State) (l : List Instr) : (s.withPending l).cnt = s.cnt := rfl
@[simp] theorem State.withPending_free (s : State) (l : List Instr) : (s.withPending l).free = s.free := rfl
@[simp] theorem State.withPending_code (s : State) (l : List Instr) : (s.withPending l).code = s.code := rfl

/-! Parts read back. -/

@[simp] theorem State.onSeg_length (s : State) (i : Nat) (f : Segment → Segment) : (s.onSeg i f).segs.length = s.segs.length :=
  length_modifyAt _ _ _

@[simp] theorem State.onSegs_length (s : State) (f : Nat → Segment → Segment) : (s.onSegs f).segs.length = s.segs.length := by
  simp [State.onSegs]

@[simp] theorem State.onPart_length (s : State) (p : Nat) (f : Partition → Partition) :
    (s.onPart p f).parts.length = s.parts.length := length_modifyAt _ _ _

theorem State.seg_onSeg_ne (s : State) (f : Segment → Segment) {i j : Nat} (h : j ≠ i) : (s.onSeg i f).seg j = s.seg j :=
  getD_modifyAt_ne _ _ _ h

theorem State.seg_onSeg_eq (s : State) (f : Segment → Segment) {i : Nat} (h : s.hasSeg i = true) :
    (s.onSeg i f).seg i = f (s.seg i) := getD_modifyAt_eq _ _ _ (by simpa [State.hasSeg] using h)

theorem State.onSeg_congr (s : State) (i : Nat) (f g : Segment → Segment) (h : f (s.seg i) = g (s.seg i)) :
    s.onSeg i f = s.onSeg i g := by
  unfold State.onSeg
  rw [modifyAt_congr f g {} i s.segs h]

theorem State.onSeg_onSeg (s : State) (i : Nat) (f g : Segment → Segment) :
    (s.onSeg i f).onSeg i g = s.onSeg i (fun a => g (f a)) := by
  unfold State.onSeg
  simp only [modifyAt_modifyAt]

theorem State.part_onPart_ne (s : State) (f : Partition → Partition) {p q : Nat} (h : q ≠ p) : (s.onPart p f).part q = s.part q :=
  getD_modifyAt_ne _ _ _ h

theorem State.part_onPart_eq (s : State) (f : Partition → Partition) {p : Nat} (h : p < s.parts.length) :
    (s.onPart p f).part p = f (s.part p) := getD_modifyAt_eq _ _ _ h

theorem State.live_onLive_eq (s : State) (k : Nat) (f : Sequence → Sequence) (q : Sequence) (h : s.live k = some q) :
    (s.onLive k f).live k = some (f q) := by
  simp only [State.onLive, h]
  exact aGet_aSet_eq _ _ _

theorem State.live_onLive_ne (s : State) (f : Sequence → Sequence) {k j : Nat} (h : j ≠ k) :
    (s.onLive k f).live j = s.live j := by
  unfold State.onLive
  split
  · exact aGet_aSet_ne _ _ h
  · rfl

theorem State.entry_onEntry_eq (s : State) (k : Nat) (f : Handle → Handle) (h : Handle) (e : s.entry k = some h) :
    (s.onEntry k f).entry k = some (f h) := by
  simp only [State.onEntry, e]
  exact aGet_aSet_eq _ _ _

theorem State.entry_onEntry_ne (s : State) (f : Handle → Handle) {k j : Nat} (h : j ≠ k) :
    (s.onEntry k f).entry j = s.entry j := by
  unfold State.onEntry
  split
  · exact aGet_aSet_ne _ _ h
  · rfl

theorem State.ring_setRing_eq (s : State) (n : Nat) (r : Ring) : (s.setRing n r).ring n = r := by
  unfold State.setRing State.ring
  by_cases h : r = {} <;> simp [h]

theorem State.ring_setRing_ne (s : State) (r : Ring) {n m : Nat} (h : m ≠ n) : (s.setRing n r).ring m = s.ring m := by
  unfold State.setRing State.ring
  by_cases h2 : r = {} <;> simp [h2, aGet_aErase_ne _ h, aGet_aSet_ne _ _ h]

theorem State.tenant_onTenant_eq (s : State) (t : Nat) (f : Tenant → Tenant) : (s.onTenant t f).tenant t = f (s.tenant t) := by
  by_cases h : f (s.tenant t) = {}
  · simp only [State.onTenant, h, beq_self_eq_true, if_true]
    exact congrArg (fun o => o.getD ({} : Tenant)) (aGet_aErase_eq t s.tenants)
  · simp only [State.onTenant, beq_iff_eq, h, if_false]
    exact congrArg (fun o => o.getD ({} : Tenant)) (aGet_aSet_eq t (f (s.tenant t)) s.tenants)

theorem State.tenant_onTenant_ne (s : State) (f : Tenant → Tenant) {t u : Nat} (h : u ≠ t) :
    (s.onTenant t f).tenant u = s.tenant u := by
  unfold State.onTenant State.tenant
  by_cases h2 : f ((aGet t s.tenants).getD {}) = {} <;> simp [h2, aGet_aErase_ne _ h, aGet_aSet_ne _ _ h]

/-! What a field of the whole state decides. -/

@[simp] theorem State.mgr_of_onSeg (s : State) (i : Nat) (f : Segment → Segment) : (s.onSeg i f).mgr = s.mgr := rfl

@[simp] theorem State.edge_of_onSeg (s : State) (i : Nat) (f : Segment → Segment) : (s.onSeg i f).edge = s.edge := rfl

@[simp] theorem State.mgrAwake_of_onSeg (s : State) (i : Nat) (f : Segment → Segment) : (s.onSeg i f).mgrAwake = s.mgrAwake := rfl

@[simp] theorem State.mgrUp_of_onSeg (s : State) (i : Nat) (f : Segment → Segment) : (s.onSeg i f).mgrUp = s.mgrUp := rfl

/-- A guarded effect always answers a next state. -/
theorem onlyIf_next (c : Bool) (t s : State) : ∃ u, onlyIf c t s = .next u := ⟨_, rfl⟩

theorem onlyIf_true (t s : State) : onlyIf true t s = .next t := rfl

theorem onlyIf_false (t s : State) : onlyIf false t s = .next s := rfl

end Sys2Proof.Machine
end

