-- ==== Sys2Proof/Laws/Memory.lean ====
section
/-! SUPPORT. Laws of tables and memories: the canonical form that every operation keeps, and reads after writes. -/

namespace Sys2Proof.Machine

/-! Tables with rising keys. -/

theorem aSorted_iff {α : Type} (l : List (Nat × α)) : aSorted l = true ↔ l.Pairwise (fun a b => a.1 < b.1) := by
  induction l with
  | nil => simp [aSorted]
  | cons a l ih =>
    cases l with
    | nil => simp [aSorted]
    | cons b l =>
      rw [aSorted, Bool.and_eq_true, ih, List.pairwise_cons (a := a), decide_eq_true_iff]
      constructor
      · rintro ⟨hab, hl⟩
        refine ⟨?_, hl⟩
        intro c hc
        rcases List.mem_cons.1 hc with rfl | hc
        · exact hab
        · exact Nat.lt_trans hab ((List.pairwise_cons.1 hl).1 c hc)
      · rintro ⟨ha, hl⟩
        exact ⟨ha b List.mem_cons_self, hl⟩

theorem mem_aSet {α : Type} {k : Nat} {v : α} {l : List (Nat × α)} {e : Nat × α} (h : e ∈ aSet k v l) : e = (k, v) ∨ e ∈ l := by
  induction l with
  | nil => simpa [aSet] using h
  | cons a l ih =>
    rw [aSet] at h
    split at h
    · rcases List.mem_cons.1 h with h | h
      · exact .inl h
      · exact .inr h
    · split at h
      · rcases List.mem_cons.1 h with h | h
        · exact .inl h
        · exact .inr (List.mem_cons_of_mem _ h)
      · rcases List.mem_cons.1 h with h | h
        · exact .inr (h ▸ List.mem_cons_self)
        · exact (ih h).imp id (List.mem_cons_of_mem _)

theorem aSorted_aSet {α : Type} (k : Nat) (v : α) (l : List (Nat × α)) (h : aSorted l = true) : aSorted (aSet k v l) = true := by
  rw [aSorted_iff] at h ⊢
  induction l with
  | nil => simp [aSet]
  | cons a l ih =>
    have hl := List.pairwise_cons.1 h
    rw [aSet]
    split
    · rename_i hk
      refine List.pairwise_cons.2 ⟨fun c hc => ?_, h⟩
      rcases List.mem_cons.1 hc with rfl | hc
      · exact hk
      · exact Nat.lt_trans hk (hl.1 c hc)
    · split
      · rename_i hk
        exact List.pairwise_cons.2 ⟨fun c hc => (beq_iff_eq.1 hk) ▸ hl.1 c hc, hl.2⟩
      · rename_i hk hne
        refine List.pairwise_cons.2 ⟨fun c hc => ?_, ih hl.2⟩
        rcases mem_aSet hc with rfl | hc
        · have : a.1 ≠ k := fun h => hne (beq_iff_eq.2 h)
          show a.1 < k
          omega
        · exact hl.1 c hc

theorem aSorted_filter {α : Type} (p : Nat × α → Bool) (l : List (Nat × α)) (h : aSorted l = true) : aSorted (l.filter p) = true := by
  rw [aSorted_iff] at h ⊢
  exact h.sublist List.filter_sublist

/-! Memories. -/

theorem wf_nil : Memory.wf [] = true := rfl

theorem wf_iff (m : Memory) : Memory.wf m = true ↔ aSorted m = true ∧ ∀ c ∈ m, c.2 ≠ emptyByte := by
  simp [Memory.wf]

/-- A write keeps the canonical form. -/
theorem wf_memWrite (m : Memory) (a : Nat) (b : BitVec 8) (h : Memory.wf m = true) : Memory.wf (memWrite m a b) = true := by
  rw [wf_iff] at h ⊢
  rw [memWrite]
  split
  · exact ⟨aSorted_filter _ m h.1, fun c hc => h.2 c (List.mem_filter.1 hc).1⟩
  · rename_i hb
    refine ⟨aSorted_aSet a b m h.1, fun c hc => ?_⟩
    rcases mem_aSet hc with rfl | hc
    · exact fun he => hb (beq_iff_eq.2 he)
    · exact h.2 c hc

/-- A write of several bytes keeps the canonical form. -/
theorem wf_memWriteBytes (l : List Nat) (m : Memory) (a : Nat) (h : Memory.wf m = true) : Memory.wf (memWriteBytes m a l) = true := by
  induction l generalizing m a with
  | nil => exact h
  | cons b l ih => exact ih _ _ (wf_memWrite m a _ h)

/-- A part of a memory is in canonical form. -/
theorem wf_filter (p : Host.Cell → Bool) (m : Memory) (h : Memory.wf m = true) : Memory.wf (m.filter p) = true := by
  rw [wf_iff] at h ⊢
  exact ⟨aSorted_filter p m h.1, fun c hc => h.2 c (List.mem_filter.1 hc).1⟩

/-- Two memories one above the other are one memory in canonical form. -/
theorem wf_append (l m : Memory) (hl : Memory.wf l = true) (hm : Memory.wf m = true) (h : ∀ a ∈ l, ∀ b ∈ m, a.1 < b.1) :
    Memory.wf (l ++ m) = true := by
  rw [wf_iff, aSorted_iff] at hl hm ⊢
  refine ⟨List.pairwise_append.2 ⟨hl.1, hm.1, h⟩, fun c hc => ?_⟩
  rcases List.mem_append.1 hc with hc | hc
  · exact hl.2 c hc
  · exact hm.2 c hc

/-- A part of a memory taken out at its base is in canonical form. -/
theorem wf_memPart (m : Memory) (base n : Nat) (h : Memory.wf m = true) : Memory.wf (memPart m base n) = true := by
  have hf := wf_filter (fun c => base ≤ c.1 && c.1 < base + n) m h
  have hin : ∀ c ∈ m.filter (fun c => base ≤ c.1 && c.1 < base + n), base ≤ c.1 := by
    intro c hc
    have := (List.mem_filter.1 hc).2
    simp only [Bool.and_eq_true, decide_eq_true_iff] at this
    exact this.1
  rw [wf_iff, aSorted_iff] at hf ⊢
  rw [memPart]
  refine ⟨?_, fun c hc => ?_⟩
  · rw [List.pairwise_map]
    refine hf.1.imp_of_mem (fun {a b} ha hb hab => ?_)
    have := hin a ha
    have := hin b hb
    omega
  · obtain ⟨d, hd, rfl⟩ := List.mem_map.1 hc
    exact hf.2 d hd

/-- A fold of single writes keeps the canonical form. -/
theorem wf_foldl_memWrite {α : Type} (f : α → Nat) (g : α → BitVec 8) (l : List α) (m : Memory) (h : Memory.wf m = true) :
    Memory.wf (l.foldl (fun m x => memWrite m (f x) (g x)) m) = true := by
  induction l generalizing m with
  | nil => exact h
  | cons x l ih => exact ih _ (wf_memWrite m _ _ h)

/-- A fold of writes of several bytes keeps the canonical form. -/
theorem wf_foldl_memWriteBytes {α : Type} (f : α → Nat) (g : α → List Nat) (l : List α) (m : Memory) (h : Memory.wf m = true) :
    Memory.wf (l.foldl (fun m x => memWriteBytes m (f x) (g x)) m) = true := by
  induction l generalizing m with
  | nil => exact h
  | cons x l ih => exact ih _ (wf_memWriteBytes _ m _ h)

/-- A byte reads as written. -/
theorem memRead_memWrite_same (m : Memory) (a : Nat) (b : BitVec 8) : memRead (memWrite m a b) a = b := by
  rw [memRead, memWrite]
  split
  · rename_i hb
    rw [aGet_aErase_eq]
    exact (beq_iff_eq.1 hb).symm
  · rw [aGet_aSet_eq]
    rfl

/-- A write leaves every other byte. -/
theorem memRead_memWrite_other (m : Memory) {a x : Nat} (b : BitVec 8) (h : x ≠ a) : memRead (memWrite m a b) x = memRead m x := by
  rw [memRead, memRead, memWrite]
  split
  · rw [aGet_aErase_ne m h]
  · rw [aGet_aSet_ne b m h]

/-- A write of several bytes leaves every byte outside them. -/
theorem memRead_memWriteBytes_outside (l : List Nat) (m : Memory) (a x : Nat) (h : x < a ∨ a + l.length ≤ x) :
    memRead (memWriteBytes m a l) x = memRead m x := by
  induction l generalizing m a with
  | nil => rfl
  | cons b l ih =>
    rw [List.length_cons] at h
    rw [memWriteBytes, ih _ _ (by omega), memRead_memWrite_other m _ (by omega)]

/-- Each byte written at rising addresses reads as its value. -/
theorem memRead_memWriteBytes_inside (l : List Nat) (m : Memory) (a i : Nat) (h : i < l.length) :
    memRead (memWriteBytes m a l) (a + i) = BitVec.ofNat 8 l[i] := by
  induction l generalizing m a i with
  | nil => exact absurd h (Nat.not_lt_zero i)
  | cons b l ih =>
    rw [memWriteBytes]
    cases i with
    | zero => rw [memRead_memWriteBytes_outside l _ _ _ (by omega), Nat.add_zero, memRead_memWrite_same]; rfl
    | succ i =>
      have := ih (memWrite m a (BitVec.ofNat 8 b)) (a + 1) i (by simpa using h)
      rw [show a + (i + 1) = a + 1 + i by omega, this]
      rfl

/-- The memories of State.reset are in canonical form. -/
theorem reset_memOk : State.reset.memOk = true := by decide

end Sys2Proof.Machine
end

