-- ==== Sys2Proof/Laws/Ops.lean ====
section
/-! SUPPORT. What the shared operations can do: the parts of the state that each leaves alone, and what queues, ports and rings keep. -/

namespace Sys2Proof.Machine

/-! A guarded update that leaves a part of the state alone. -/

theorem ite_field {α : Type} (f : State → α) (c : Prop) [Decidable c] (t s : State) (h : f t = f s) :
    f (if c then t else s) = f s := by
  split
  · exact h
  · rfl

theorem ite_field_not {α : Type} (f : State → α) (c : Prop) [Decidable c] (t s : State) (h : f t = f s) :
    f (if c then s else t) = f s := by
  split
  · rfl
  · exact h

/-! Operations that change one segment only. -/

/-- An answered request changes the port of its segment only (R401, R402). -/
theorem State.respondTo_frame (s : State) (i tag status data : Nat) : ∃ G, s.respondTo i tag status data = { s with segs := G } := by
  unfold State.respondTo
  split
  · exact ⟨s.segs, rfl⟩
  · exact ⟨_, rfl⟩

/-- Two updates of segments, one after another. -/
theorem State.segs_trans {s t u : State} (h : ∃ G, t = { s with segs := G }) (k : ∃ G, u = { t with segs := G }) :
    ∃ G, u = { s with segs := G } := by
  obtain ⟨_, rfl⟩ := h
  obtain ⟨G, rfl⟩ := k
  exact ⟨G, rfl⟩

theorem State.answerReads_frame (s : State) (l : List ReadAnswer) : ∃ G, s.answerReads l = { s with segs := G } := by
  induction l generalizing s with
  | nil => exact ⟨s.segs, rfl⟩
  | cons a l ih => exact State.segs_trans (s.respondTo_frame _ _ _ _) (ih _)

theorem State.onNq_frame (s : State) (i : Nat) (f : WordQ → WordQ) : ∃ G, s.onNq i f = { s with segs := G } :=
  State.segs_trans ⟨_, rfl⟩ (State.answerReads_frame _ _)

/-- A notice changes segments only: its queue, and the ports of reads that stood stalled on it (R288, R295). -/
theorem State.raise_frame (s : State) (src code scope seg part : Nat) (e : Stamp) (d : Nat) :
    ∃ G, s.raise src code scope seg part e d = { s with segs := G } := State.onNq_frame _ _ _

/-- The request just accepted is the one answered. -/
theorem State.respond_def (s : State) (i status data : Nat) : s.respond i status data =
    s.respondTo i (s.seg i).port.reqTag status data := rfl

theorem State.dma_def (s : State) (seg : Nat) (r : DmaReq) : s.dma seg r =
    s.onSeg (s.dmaSeg seg) (fun g => { g with port := Port.pump { g.port with waiting := g.port.waiting ++ [r] } }) := rfl


/-! Rings. Each lemma names the parts that its operation may change; every other part stands. -/

theorem State.setRing_frame (s : State) (n : Nat) (r : Ring) : ∃ R, s.setRing n r = { s with rings := R } := ⟨_, rfl⟩

theorem State.onLive_frame (s : State) (k : Nat) (f : Sequence → Sequence) : ∃ Q, s.onLive k f = { s with seqs := Q } := by
  unfold State.onLive
  split
  · exact ⟨_, rfl⟩
  · exact ⟨_, rfl⟩

theorem State.raiseVector_frame (s : State) (n : Nat) : ∃ R V, s.raiseVector n = { s with rings := R, vectors := V } := by
  unfold State.raiseVector
  dsimp only
  split
  · exact ⟨_, _, rfl⟩
  · split
    · split
      · exact ⟨_, _, rfl⟩
      · exact ⟨_, _, rfl⟩
    · exact ⟨_, _, rfl⟩

theorem State.ringLatched_frame (s : State) (n : Nat) (e : QEvent) : ∃ R G, s.ringLatched n e = { s with rings := R, segs := G } := by
  obtain ⟨G, h⟩ := State.raise_frame s s.mgr (e.notice n).1 0x6 0 0 e.stamp (e.notice n).2
  unfold State.ringLatched
  rw [h]
  exact ⟨_, _, rfl⟩

/-- Two updates of ring contexts and segments, one after another. -/
theorem State.ringSegs_trans {s t u : State} (h : ∃ R G, t = { s with rings := R, segs := G })
    (k : ∃ R G, u = { t with rings := R, segs := G }) : ∃ R G, u = { s with rings := R, segs := G } := by
  obtain ⟨_, _, rfl⟩ := h
  obtain ⟨R, G, rfl⟩ := k
  exact ⟨R, G, rfl⟩

theorem State.ringSegs_ite {s t u : State} (c : Prop) [Decidable c] (h : ∃ R G, t = { s with rings := R, segs := G })
    (k : ∃ R G, u = { s with rings := R, segs := G }) : ∃ R G, (if c then t else u) = { s with rings := R, segs := G } := by
  split
  · exact h
  · exact k

theorem State.ringSegs_setRing (s : State) (n : Nat) (r : Ring) : ∃ R G, s.setRing n r = { s with rings := R, segs := G } := ⟨_, _, rfl⟩

theorem State.ringSegs_refl (s : State) : ∃ R G, s = { s with rings := R, segs := G } := ⟨s.rings, s.segs, rfl⟩

/-- A cycle that is over raises its latchings as notices (R290). -/
theorem State.closeRing_frame (s : State) (n : Nat) : ∃ R G, s.closeRing n = { s with rings := R, segs := G } := by
  have latch (l : List QEvent) (t : State) (h : ∃ R G, t = { s with rings := R, segs := G }) :
      ∃ R G, l.foldl (fun t e => t.ringLatched n e) t = { s with rings := R, segs := G } := by
    induction l generalizing t with
    | nil => exact h
    | cons e l ih => exact ih _ (State.ringSegs_trans h (State.ringLatched_frame _ _ _))
  unfold State.closeRing
  split
  · exact latch _ _ (State.ringSegs_setRing _ _ _)
  · exact State.ringSegs_refl s

/-- Moving HEAD and TAIL of a ring changes ring contexts, and segments by the notices it raises (R290, R296). -/
theorem State.moveRing_frame (s : State) (n h t : Nat) : ∃ R G, s.moveRing n h t = { s with rings := R, segs := G } := by
  unfold State.moveRing State.ringTurn
  exact State.ringSegs_trans (State.ringSegs_ite _ (State.ringSegs_refl s) (State.closeRing_frame s n)) (State.ringSegs_setRing _ _ _)

theorem State.blockMoves_frame (s : State) (n h t : Nat) : ∃ R G, s.blockMoves n h t = { s with rings := R, segs := G } :=
  State.ringSegs_trans (State.moveRing_frame s n h t) (State.ringSegs_setRing _ _ _)

theorem State.ringLoses_frame (s : State) (n : Nat) : ∃ R G, s.ringLoses n = { s with rings := R, segs := G } := by
  unfold State.ringLoses
  exact State.ringSegs_trans (State.ringSegs_setRing _ _ _) (State.ringSegs_ite _ (State.ringSegs_refl _) (State.ringLatched_frame _ _ _))

/-! Records. -/

theorem State.makeRecord_frame (s : State) (b : BackRec) : ∃ Q, (s.makeRecord b).2 = { s with seqs := Q } := by
  unfold State.makeRecord
  split
  · split
    · exact State.onLive_frame _ _ _
    · exact ⟨_, rfl⟩
  · split
    · exact State.onLive_frame _ _ _
    · exact ⟨_, rfl⟩
  · exact ⟨_, rfl⟩

/-- Writing an entry changes ring contexts, the port that carries its write, and the sequence whose record it is (R302). -/
theorem State.writeEntry_frame (s : State) (n : Nat) (b : BackRec) :
    ∃ R G Q, s.writeEntry n b = { s with rings := R, segs := G, seqs := Q } := by
  obtain ⟨Q, h⟩ := s.makeRecord_frame b
  unfold State.writeEntry
  dsimp only
  rw [h]
  exact ⟨_, _, _, rfl⟩

theorem State.sendRecord_frame (s : State) (n : Nat) (b : BackRec) :
    ∃ R G Q, s.sendRecord n b = { s with rings := R, segs := G, seqs := Q } := by
  unfold State.sendRecord
  dsimp only
  split
  · split
    · exact s.writeEntry_frame n _
    · exact ⟨_, _, _, rfl⟩
  · exact ⟨_, _, _, rfl⟩


/-! Word queues. -/

/-- What neither a push nor a pop changes: capacity, mode and owner. -/
def sameShape (q r : WordQ) : Prop := r.cap = q.cap ∧ r.hold = q.hold ∧ r.owner = q.owner

/-- The crossings of a cycle leave the words, record events and stalled reads (R290). -/
theorem qCross_keeps (a : Stamp) (n : Nat) (q : WordQ) : sameShape q (qCross a n q) ∧ (qCross a n q).words = q.words ∧
    (qCross a n q).recordEvents = q.recordEvents ∧ (qCross a n q).stalled = q.stalled := by
  unfold qCross; dsimp only; split <;> split <;> exact ⟨⟨rfl, rfl, rfl⟩, rfl, rfl, rfl⟩

/-- Marks that come into force leave all else (R292). -/
theorem qTick_keeps (a : Stamp) (q : WordQ) : sameShape q (qTick a q) ∧ (qTick a q).words = q.words ∧
    (qTick a q).recordEvents = q.recordEvents := by
  unfold qTick
  split
  · split <;> exact ⟨⟨rfl, rfl, rfl⟩, rfl, rfl⟩
  · exact ⟨⟨rfl, rfl, rfl⟩, rfl, rfl⟩

theorem length_tearOldest (l : List QWord) : (tearOldest l).length = l.length := by
  cases l <;> rfl

/-- The oldest word gives its place to a pushed one: no queue grows by it (R285). -/
theorem qOverwrite_length (a : Stamp) (w : QWord) (q : WordQ) (h : q.words.length ≤ q.cap) (hc : 1 ≤ q.cap) :
    (qOverwrite a w q).words.length ≤ q.cap := by
  have hd : (q.words.drop 1).length ≤ q.cap - 1 := by simp only [List.length_drop]; omega
  simp only [qOverwrite, List.length_append, List.length_cons, List.length_nil]
  split
  · omega
  · rw [length_tearOldest]; omega

/-- A push that stands alone in its cycle. -/
theorem qPushAlone_keeps (a : Stamp) (w : QWord) (q : WordQ) :
    sameShape q (qPushAlone a w q) ∧ (qPushAlone a w q).recordEvents = q.recordEvents := by
  unfold qPushAlone
  dsimp only
  split
  · exact ⟨(qCross_keeps _ _ _).1, (qCross_keeps _ _ _).2.2.1⟩
  · exact ⟨⟨rfl, rfl, rfl⟩, rfl⟩

theorem qPushAlone_length (a : Stamp) (w : QWord) (q : WordQ) (h : q.words.length ≤ q.cap) (hc : 1 ≤ q.cap) :
    (qPushAlone a w q).words.length ≤ q.cap := by
  unfold qPushAlone
  dsimp only
  split
  · rename_i hlt
    rw [(qCross_keeps _ _ _).2.1]
    simp only [WordQ.depth] at hlt
    simp only [List.length_append, List.length_cons, List.length_nil]
    omega
  · exact qOverwrite_length a w q h hc

/-- A push leaves the capacity, mode and owner, and counts one record event with EOR (R286). -/
theorem qPush_keeps (a : Stamp) (d : Nat) (eor : Bool) (q : WordQ) :
    sameShape q (qPush a d eor q) ∧ (qPush a d eor q).recordEvents = q.recordEvents + flag eor := by
  obtain ⟨⟨h1, h2, h3⟩, -, h4⟩ := qTick_keeps a q
  unfold sameShape
  rw [← h1, ← h2, ← h3, ← h4]
  unfold qPush
  dsimp only
  split
  · exact ⟨⟨rfl, rfl, rfl⟩, rfl⟩
  · split
    · split
      · exact ⟨⟨rfl, rfl, rfl⟩, rfl⟩
      · exact qPushAlone_keeps _ _ _
    · exact qPushAlone_keeps _ _ _

/-- A queue never holds more words than its capacity, if it did not before (R283, R285). -/
theorem qPush_length (a : Stamp) (d : Nat) (eor : Bool) (q : WordQ) (h : q.words.length ≤ q.cap) (hc : 1 ≤ q.cap) :
    (qPush a d eor q).words.length ≤ (qPush a d eor q).cap := by
  obtain ⟨⟨h1, -⟩, hw, -⟩ := qTick_keeps a q
  rw [(qPush_keeps a d eor q).1.1, ← h1]
  rw [← hw, ← h1] at h
  rw [← h1] at hc
  unfold qPush
  dsimp only
  split
  · exact h
  · split
    · split
      · rename_i hlt
        simp only [qPushBack, List.length_append, List.length_cons, List.length_nil]
        exact of_decide_eq_true (Bool.and_eq_true_iff.mp hlt).2
      · exact qPushAlone_length a _ _ h hc
    · exact qPushAlone_length a _ _ h hc

/-- A pop leaves the capacity, mode and owner, and takes the oldest word. -/
theorem qPop_keeps (a : Stamp) (q : WordQ) : sameShape q (qPop a q).2 ∧ (qPop a q).2.words = q.words.drop 1 := by
  obtain ⟨⟨h1, h2, h3⟩, hw, -⟩ := qTick_keeps a q
  unfold sameShape
  rw [← h1, ← h2, ← h3, ← hw]
  unfold qPop
  dsimp only
  split
  · rename_i w rest hq
    refine ⟨(qCross_keeps _ _ _).1, ?_⟩
    rw [hq]
    exact (qCross_keeps _ _ _).2.1
  · rename_i hq
    exact ⟨⟨rfl, rfl, rfl⟩, by rw [hq]; exact hq⟩

/-! Ports. -/

theorem length_sendBeats (k : Nat) (l : List DmaReq) : (sendBeats k l).2.length = l.length := by
  induction l generalizing k with
  | nil => rfl
  | cons r l ih =>
    unfold sendBeats
    split
    · simp [ih]
    · simp [ih]

theorem issueAll_bound (l : List DmaReq) (p : Port) (h : p.issued.length ≤ 256) : (issueAll l p).issued.length ≤ 256 := by
  induction l generalizing p with
  | nil => exact h
  | cons r l ih =>
    unfold issueAll
    split
    · rename_i hc
      simp only [Bool.and_eq_true, decide_eq_true_iff] at hc
      refine ih _ ?_
      simp only [List.length_append, List.length_cons, List.length_nil]
      omega
    · exact h

/-- At most 256 requests are outstanding on a port (R403). -/
theorem pump_bound (p : Port) (h : p.issued.length ≤ 256) : (Port.pump p).issued.length ≤ 256 := by
  unfold Port.pump
  dsimp only
  rw [length_sendBeats]
  exact issueAll_bound _ _ h

/-! Stamps. -/

theorem not_before_self (a : Stamp) : before a a = false := by simp [before]

/-- The later of two stamps is before neither. -/
theorem laterOf_ge (a b : Stamp) : before (laterOf a b) a = false ∧ before (laterOf a b) b = false := by
  unfold laterOf
  split
  · rename_i h
    refine ⟨?_, not_before_self b⟩
    simp only [before, Bool.or_eq_true, Bool.and_eq_true, decide_eq_true_iff, beq_iff_eq] at h
    simp only [before, Bool.or_eq_false_iff, Bool.and_eq_false_iff, decide_eq_false_iff_not, beq_eq_false_iff_ne]
    omega
  · rename_i h
    exact ⟨not_before_self a, by simpa using h⟩

@[simp] theorem State.given_beat (s : State) (a : Stamp) : (s.given a).time.beat = s.time.beat := rfl


/-! The two blocks of split mode: a whole block is its own, and two turns are none (R372). -/

theorem State.turn_whole (s : State) (h : s.other = none) : s.turn = s := by simp [State.turn, h]

theorem State.turn_turn (s : State) : s.turn.turn = s := by
  obtain ⟨o, h⟩ : ∃ o, s.other = o := ⟨_, rfl⟩
  cases o with
  | none => rw [State.turn_whole s h, State.turn_whole s h]
  | some b =>
    have e : s.turn = { s.withBlock b with other := some s.block } := by simp only [State.turn, h]
    rw [e]
    cases s
    cases h
    rfl

theorem State.allSegs_whole (s : State) (h : s.other = none) : s.allSegs = s.segs := by simp [State.allSegs, h]

theorem State.segOf_whole (s : State) (i : Nat) (h : s.other = none) : s.segOf i = s.seg i := by
  simp [State.segOf, State.seg, State.allSegs_whole s h]

theorem State.inSecond_whole (s : State) (i : Nat) (h : s.other = none) : s.inSecond i = false := by simp [State.inSecond, h]

theorem State.farPath_whole (s : State) (e : Endpoint) (h : s.other = none) : s.farPath e = false := by
  cases e with
  | i3c k => exact State.inSecond_whole s k h
  | _ => rfl

@[simp] theorem State.inBlockOf_here (s : State) (f : State → Result) : s.inBlockOf false f = f s := rfl

theorem State.atBlock_here (s : State) (i : Nat) (f : State → State) (h : s.inSecond i = false) : s.atBlock i f = f s := by
  simp [State.atBlock, h]

/-- With no commit since the last beat edge the values in force are the committed ones (R322). -/
theorem underForce_settled (f : State → Result) (s : State) (h : s.prior = none) : underForce f s = f s := by simp [underForce, h]


end Sys2Proof.Machine
end

