-- ==== Sys2Proof/Tests/Slice0.lean ====
section
/-! SUPPORT. Tests. Each command of the block refuses an ill-formed operand; and for each statement a witness: states and operands that
meet the hypotheses of its clauses, one after another, and what the model answers there. Expected values are the manual's. -/

namespace Sys2Proof.Tests

open Sys2Proof Sys2Proof.Machine

set_option Elab.async false

/-! Small states. -/

/-- The configuration of a block of one segment. -/
def cfg1 : BlockCfg := { kind := .kd1, mgrCapable := [0], connected := [0] }

/-- A segment in service on a secured die, its stack trained. -/
def seg1 : Segment :=
  { state := .serving, inReset := false, resetIn := [], selfTested := true, refPresent := true, lastHb := 1000, lastAck := 1000,
    ma0 := { state := .serving }, ma1 := { state := .serving }, stack := { trained := true },
    port := { connected := true, trained := true },
    trust := { lifecycle := .secured, identity := some 7, pufEnrolled := true, identityCert := [1], imageKey := some 3, officerRoots := [5] } }

/-- A block of n segments in full service at beat 1,000. -/
def blk (kind : KdKind) : State :=
  { cfg := { kind := kind, mgrCapable := [0], connected := [0] },
    time := { beat := 1000, acquired := true, refState := .locked, last := ⟨999, 0⟩ },
    segs := List.replicate kind.segments seg1,
    trust := { spdmOpen := true },
    power := { inReset := false, coldBoot := false, stage := 4 } }

/-- The block of one segment. -/
def one : State := blk .kd1

/-- The block of five segments. -/
def five : State := blk .kd5

/-- The block of ten segments: two halves of five, its standby segment 5. -/
def ten : State := { blk .kd10 with roles := { standby := some 5 }, mirror := { current := true } }

/-- A next state with a property. -/
def gives (r : Result) (f : State → Bool) : Bool := match r with
  | .next t => f t
  | _ => false

/-- Two answers agree. -/
def same (r q : Result) : Bool := match r, q with
  | .next t, .next u => t == u
  | _, _ => false

/-! Beats, loops and steps. -/

theorem wit_StepRunsFrontCommand :
    ({ one with pending := [.vreqAck 0] } : State).pending = .vreqAck 0 :: [] ∧
    same (step { one with pending := [.vreqAck 0] }) (exec (.vreqAck 0) one) = true ∧ same (step one) (.next one) = true := by
  decide +kernel

/-- Holdover drifts by at most 2 ppm of a beat of 5 µs: 10 ps; the refill is 256 × RATE, capped at 256 × BURST. -/
def refillAt : State :=
  { one with time := { one.time with beat := 16384, edgePhase := 0 },
             tenants := [(1, { valid := true, rate := 2, burst := 3, level := 300 }), (2, { rate := 9, burst := 3, level := 5 }),
                         (3, { valid := true, rate := 2, burst := 3, level := 769 }), (4, { valid := true, rate := 2, burst := 3, level := 768 })] }

/-- Two halves of ten segments in split mode, the second block under segment 5, its tables a copy of those of `ten`. -/
def halves : State :=
  { ten with roles := { splitState := 2, farHalf := [5, 6, 7, 8, 9] },
             other := some ({ ten with roles := { manager := 5, isSecond := true, splitState := 2, farHalf := [0, 1, 2, 3, 4] } } : State).block }

theorem wit_BeatEdges :
    (one.other = none ∧ one.roles.ending = false ∧
      ∀ i < one.segs.length, ([] : List Int).getD i (one.seg i).health.tempC < (one.glob.thermalTrip : Int)) ∧
    gives (exec (.beatEdge 0 []) one) (fun t => t.time.beat == 1001 && t.time.offsetPs == 0) = true ∧
    gives (exec (.beatEdge 10 []) { one with time := { one.time with refState := .holdover } }) (fun t => t.time.offsetPs == 10) = true ∧
    gives (exec (.beatEdge 0 []) { one with prior := some {} }) (fun t => t.prior.isNone) = true ∧
    gives (exec (.beatEdge 0 []) { one with prior := some {}, power := { one.power with hush := 2 } }) (fun t => t.prior.isSome) = true ∧
    gives (exec (.beatEdge 0 []) { one with power := { one.power with stage := 0 } }) (fun t => t.power.stage == 1) = true ∧
    (∃ b, halves.other = some b ∧ b.roles.ending = false ∧
      ∀ i < b.segs.length, ([] : List Int).getD i (b.segs.getD i {}).health.tempC < (b.glob.thermalTrip : Int)) ∧
    gives (exec (.beatEdge 0 []) halves) (fun t => t.time.beat == 1001 && t.mgr == 5 && t.other == some halves.block) = true ∧
    (refillAt.prior = none ∧ refillAt.mgrAwake = true ∧ refillAt.time.edgePhase = 0 ∧ refillAt.time.beat % 16384 = 0) ∧
    gives (exec .tokenRefill refillAt) (fun t => (t.tenant 1).level == 768 && (t.tenant 2).level == 5 && (t.tenant 3).level == 769
      && (t.tenant 4).level == 768 && t.time.edgePhase == 1) = true := by
  refine ⟨?_, ?_, ?_, ?_, ?_, ?_, ⟨_, rfl, ?_⟩, ?_⟩ <;> decide +kernel

/-- Screen credit at 1,900 MHz: 9,500 cycles a beat make 593 and 12 parts of 16, and a second beat 594 and 8 (R63). -/
theorem test_credit_parts :
    let a := accrue 1900 { credit := 0 }
    (a.credit = 593 ∧ a.creditPart = 12) ∧ ((accrue 1900 a).credit = 1187 ∧ (accrue 1900 a).creditPart = 8) := by decide +kernel

theorem wit_TimeReference :
    (({ one with time := {} } : State).time.acquired = false ∧ one.hasSeg one.mgr = true) ∧
    gives (exec (.ppsEdge 0 [⟨4, 999, 0⟩, ⟨3, 1999, 999⟩] true 0) { one with time := {} }) (fun t => t.time.beat == 600000 && t.time.acquired) = true ∧
    one.time.acquired = true ∧ gives (exec (.ppsEdge 0 [] true 0) one) (fun t => t.time.beat == 1000) = true ∧
    (1 ≠ five.mgr ∧ five.hasSeg 1 = true) ∧ gives (exec (.ppsEdge 1 [] true 0) five) (fun t => t.time == five.time) = true ∧
    (ppsGood 1000 none false 0 = false ∧ ppsGood 1000 none true 20 = true) ∧
    (todTaken [⟨4, 999, 0⟩, ⟨3, 1999, 999⟩] = some 3 ∧ todTaken [⟨4, 1000, 0⟩, ⟨3, 1999, 999⟩] = some 4) ∧
    gives (exec (.ppsEdge 0 [] true 120) { one with glob := { one.glob with ppsDelay := 100 } }) (fun t => t.time.goodPps == 1) = true ∧
    gives (exec (.ppsEdge 0 [] true 121) { one with glob := { one.glob with ppsDelay := 100 } }) (fun t => t.time.goodPps == 0) = true ∧
    gives (exec (.ppsEdge 1 [] true 0) (five.onSeg 1 (fun g => { g with refPresent := false, refLost := true })))
      (fun t => !(t.seg 1).refPresent && (t.seg 1).goodPps == 1) = true ∧
    gives (exec (.ppsEdge 1 [] true 0) (five.onSeg 1 (fun g => { g with refPresent := false, refLost := true, goodPps := 1 })))
      (fun t => (t.seg 1).refPresent && !(t.seg 1).refLost) = true ∧
    (one.time.refState ≠ .holdover ∧ one.mgrAwake = true) ∧
    gives (exec (.refLost 0 .edgesMissing) one) (fun t => t.time.refState == .holdover && (t.seg 0).nq.depth == 4) = true ∧
    gives (exec (.refLost 1 .edgesMissing) five) (fun t => t.time == five.time && (t.seg 1).refLost) = true ∧
    gives (exec (.refRestored 3) { one with time := { one.time with refState := .holdover, goodPps := 2 } })
      (fun t => t.time.refState == .converging && t.time.offsetPs == 3000 && t.time.beat == 1000) = true ∧
    gives (exec .refConverged { one with time := { one.time with refState := .converging } }) (fun t => t.time.refState == .locked) = true ∧
    (five.segUp 1 = true ∧ five.power.hush ≠ 1 ∧ (five.seg 1).refPresent = true ∧ (five.seg 1).ownRef = false ∧
      (2 : Int).natAbs ≤ five.glob.skewNs) ∧
    gives (exec (.beatSourceChange 1 2) five) (fun t => (t.seg 1).ownRef && (t.seg 1).nq.depth == 4) = true ∧
    gives (exec (.beatSourceChange 1 (five.glob.skewNs + 1)) (five.onSeg 1 (fun g => { g with ownRef := true })))
      (fun t => !(t.seg 1).ownRef) = true := by
  decide +kernel

/-- A block whose standby has a delta to apply. -/
def deltaAt (n : Nat) : State := { ten with mirror := { ten.mirror with unacked := [{ seqNo := n }], applied := { seqNo := 4 } } }

/-- Five segments with a heartbeat of beat 1,000 on its way to segment 1. -/
def beating (f : Segment → Segment) : State := five.onSeg 1 (fun g => f { g with lastHb := 996, hbWay := [1000] })

theorem wit_HeartbeatsAndMirror :
    (five.hasSeg five.mgr = true ∧ five.mgrUp = true ∧ five.power.hush = 0 ∧ five.time.beat % 4 = 0) ∧
    gives (exec .heartbeat five) (fun t => (t.seg 0).lastHb == 1000 && (t.seg 0).hbWay.isEmpty && (t.seg 4).hbWay == [1000]) = true ∧
    (((beating id).seg 1).state = .serving ∧ 1000 ∈ ((beating id).seg 1).hbWay ∧ 1 ∉ (beating id).roles.farHalf) ∧
    gives (exec (.heartbeatReceive 1 1000) (beating id)) (fun t => (t.seg 1).lastHb == 1000 && (t.seg 1).hbWay.isEmpty) = true ∧
    same (exec (.heartbeatReceive 1 1000) five) (.next five) = true ∧
    gives (exec (.heartbeatReceive 1 1000) (beating (fun g => { g with state := .fenced, hbFrom := 2, fenceReason := 1 })))
      (fun t => (t.seg 1).state == .serving && (t.seg 1).hbFrom == 0) = true ∧
    gives (exec (.heartbeatReceive 1 1000) (beating (fun g => { g with state := .fenced, hbFrom := 2, fenceReason := 5 })))
      (fun t => (t.seg 1).state == .fenced) = true ∧
    gives (exec (.heartbeatAckTimeout 0 1) (five.onSeg 1 (fun g => { g with state := .fenced, lastAck := 960 })))
      (fun t => (t.seg 1).state == .lost && (t.seg 1).lostReason == 1) = true ∧
    (five.isJoined 1 = true ∧ ((five.onSeg 1 (fun g => { g with lastAck := 960 })).seg 1).lastAck + 40 ≤ five.time.beat) ∧
    gives (exec (.heartbeatAckTimeout 0 1) (five.onSeg 1 (fun g => { g with lastAck := 960 })))
      (fun t => (t.seg 1).state == .lost && (t.seg 1).lostReason == 1 && t.cnt.segmentsLost == 1) = true ∧
    (ten.roles.standby.isSome = true ∧ (deltaAt 5).mirror.copying = false ∧
      (deltaAt 5).mirror.unacked.find? (fun x => x.seqNo == 5) = some { seqNo := 5 }) ∧
    gives (exec (.mirrorDeltaApply 5) (deltaAt 5)) (fun t => t.mirror.applied.seqNo == 5 && t.mirror.unacked.isEmpty) = true ∧
    gives (exec (.mirrorDeltaApply 6) (deltaAt 6)) (fun t => t.mirror.copying && !t.mirror.current) = true ∧
    gives (exec .mirrorCopyComplete { ten with mirror := { ten.mirror with copying := true } })
      (fun t => t.mirror.current && !t.mirror.copying) = true := by
  decide +kernel

/-- A header of a step program of partition 0: its class, descriptors and the slot of its commit descriptor. -/
def progHeader (cls slots cd : Nat) : Nat :=
  packMsb [(16, 0x4B53), (8, 3), (8, 2), (16, 5), (4, 0), (1, cls), (3, 0), (20, 1), (16, 1900), (16, 10), (12, 64), (13, 64), (13, 16),
    (6, 0), (16, slots), (24, 0), (32, 0), (32, cd)]

/-- A commit descriptor that verifies nothing and reports. -/
def commitSlot : Nat := packMsb [(4, 5), (124, 0)]

/-- A program of a commit descriptor alone. -/
def shortProgram (id : Nat) (c : Cls) : Program :=
  { id := id, image := { header := progHeader (clsBit c) 1 0, slots := [commitSlot] }, wcet := 10 }

/-- A block of one segment whose partition 0 holds a program of each class, its loops ready. -/
def loops : State :=
  one.onPart 0 (fun p => { p with segMask := 1, lcFloor := 4, poolPages := 100, poolFree := 100,
                                  programs := [shortProgram 5 .lc, shortProgram 6 .be] })

/-- The same with a loop running. -/
def running (c : Cls) : State :=
  loops.onLoop 0 c (fun l => { l with running := true, programId := if c = .lc then 5 else 6, remaining := some 3 })

/-- A step of a loop that has launched on the segment. -/
def inStep (c : Cls) : State :=
  let st : StepS := { prog := shortProgram (if c = .lc then 5 else 6) c, launchNo := 9, launch := 990, launched := true }
  ((running c).onLoop 0 c (fun l => { l with step := some st })).onSeg 0 (fun g =>
    { g with steps := [{ part := 0, cls := c, launchNo := 9, launched := true }] })

theorem wit_StepDoorbells :
    (loops.mgrUp = true ∧ loops.unretired = true ∧ (loops.part 0).programs.find? (fun x => x.id == 5) = some (shortProgram 5 .lc) ∧
      (shortProgram 5 .lc).image.cls = .lc ∧ ((loops.part 0).loop .lc).running = false ∧ (loops.part 0).stopped = none ∧
      (∀ i ∈ maskBits 20 (loops.part 0).segMask, loops.serving i = true) ∧ 4 ≤ loops.power.stage ∧ loops.power.hush = 0) ∧
    same (exec (.launch 4999 0 .lc 5 65535) loops) (.next ((loops.given ⟨1000, 4999⟩).onLoop 0 .lc (fun l =>
      { l with running := true, programId := 5, remaining := some 65535, stopping := false, freezeAt := 1001 }))) = true ∧
    (((running .lc).part 0).loop .lc).running = true ∧ (running .lc).unretired = true ∧ (running .lc).mgrUp = true ∧
    same (exec (.launch 0 0 .lc 5 0) (running .lc)) (.next (((running .lc).given ⟨1000, 0⟩).sendStepRecord 0
      (stepRecord 0 .lc .refused 5 0 0 ⟨1000, 0⟩ 0 0))) = true ∧
    same (exec (.launch 0 0 .lc 6 0) loops) (.next ((loops.given ⟨1000, 0⟩).sendStepRecord 0
      (stepRecord 0 .lc .refused 6 0 0 ⟨1000, 0⟩ 0 0))) = true ∧
    same (exec (.stepDoorbellReservedOp 0 0 3 .lc 5) loops) (.next ((loops.given ⟨1000, 0⟩).sendStepRecord 0
      (stepRecord 0 .lc .refused 5 0 0 ⟨1000, 0⟩ 0 0))) = true ∧
    gives (exec (.stop 7 0 .lc) (running .lc)) (fun t => ((t.part 0).loop .lc).stopping) = true ∧
    same (exec (.stop 7 0 .lc) loops) (.next (loops.given ⟨1000, 7⟩)) = true ∧
    ((inStep .lc).prior = none ∧ (((inStep .lc).seg 0).stepHere 0 .lc).isSome = true ∧ (inStep .lc).withinStaging 0 0 .lc 16384 = true ∧
      (inStep .lc).withinStaging 0 0 .lc 16385 = false ∧ 16384 + ((inStep .lc).seg 0).floorUsed 0 ≤ (inStep .lc).floorUnits 0 ∧
      ((inStep .lc).seg 0).sharedUsed ≤ (inStep .lc).sharedUnits 0 ∧ ((inStep .lc).seg 0).unitsFree 16384 0 = true) ∧
    gives (exec (.stagingAllocate 0 0 .lc 16384 0) (inStep .lc))
      (fun t => (t.seg 0).allocs == [{ part := 0, cls := .lc, base := 0, units := 16384, shared := 0 }]) = true := by
  decide +kernel

/-- The second part of a beat edge, in which freezes fall. -/
def atFreeze (s : State) : State := { s with time := { s.time with edgePhase := 1, launchNo := 2 ^ 32 - 1 } }

theorem wit_FreezeAndLaunch :
    ((atFreeze (running .lc)).prior = none ∧ (atFreeze (running .lc)).freezeDue 0 .lc = true ∧ 0 < (atFreeze (running .lc)).parts.length ∧
      ((atFreeze (running .lc)).part 0).programs.find? (fun x => x.id == 5) = some (shortProgram 5 .lc)) ∧
    gives (exec (.freeze 0 .lc) (atFreeze (running .lc))) (fun t => match t.stepOf 0 .lc with
      | some st => st.launch == 1001 && st.launchNo == 2 ^ 32 - 1 && !st.launched && t.time.launchNo == 0
          && ((t.part 0).loop .lc).remaining == some 2
      | none => false) = true ∧
    gives (exec (.freeze 0 .lc) (atFreeze ((running .lc).onLoop 0 .lc (fun l => { l with stopping := true }))))
      (fun t => !((t.part 0).loop .lc).running && (t.stepOf 0 .lc).isNone) = true ∧
    gives (exec (.stepLaunch 0 .lc) ((inStep .lc).onStep 0 .lc (fun st => { st with launched := false, launch := 1000 })))
      (fun t => ((t.stepOf 0 .lc).map (·.launched)) == some true) = true := by
  decide +kernel

theorem wit_StepEnds :
    (((inStep .lc).stepOf 0 .lc).isSome = true ∧ ((inStep .lc).seg 0).stepHere 0 .lc = some { part := 0, cls := .lc, launchNo := 9, launched := true } ∧
      allDone (shortProgram 5 .lc).image { part := 0, cls := .lc, launchNo := 9, launched := true } = true ∧
      (inStep .lc).reportsWhole 0 0 { prog := shortProgram 5 .lc, launchNo := 9, launch := 990, launched := true } [] = true) ∧
    gives (exec (.commitDescriptorReached 0 0 .lc []) (inStep .lc)) (fun t => ((t.stepOf 0 .lc).map (·.reports)) == some [0]) = true ∧
    (loops.onLoop 0 .lc (fun l => { l with clearing := [0] })).hubClear 0 0 .lc = true ∧
    gives (exec (.hubClearReport 0 0 .lc) (loops.onLoop 0 .lc (fun l => { l with clearing := [0] })))
      (fun t => ((t.part 0).loop .lc).clearing.isEmpty) = true ∧
    (990 + 10 * 1 ≤ (inStep .lc).time.beat ∧ (inStep .lc).prior = none ∧ (inStep .lc).mgrUp = true) ∧
    gives (exec (.stepHang 0 .lc) { inStep .lc with glob := { (inStep .lc).glob with hangFactor := 1 } })
      (fun t => (t.stepOf 0 .lc).isNone && ((t.part 0).loop .lc).freezeAt == 1001) = true ∧
    gives (exec (.stepHang 0 .be) { inStep .be with glob := { (inStep .be).glob with hangFactor := 1 } })
      (fun t => (t.stepOf 0 .be).isNone && !((t.part 0).loop .be).running) = true ∧
    gives (exec (.abandonReport 3 0) ((inStep .be).onSeg 0 (fun g => { g with steps := g.steps.map (fun x => { x with abandoning := true }) })))
      (fun t => ((t.stepOf 0 .be).map (·.abandoned)) == some (some ⟨1000, 3⟩) && !((t.part 0).loop .be).running) = true ∧
    gives (exec (.abandonComplete 0) ((inStep .be).onStep 0 .be (fun st => { st with abandoned := some ⟨1000, 3⟩ })))
      (fun t => (t.stepOf 0 .be).isNone) = true := by
  decide +kernel

/-! Descriptors, arrays, kernels. -/

/-- A program of one sweep of one pass, a kernel, a local copy from the stack, a host read and a KLF broadcast. -/
def workProgram : Program :=
  { id := 5, wcet := 10, image :=
    { header := progHeader 0 10 9
      slots := [packMsb [(4, 2), (1, 0), (1, 0), (2, 1), (1, 0), (2, 0), (4, 0), (1, 1), (10, 1), (12, 0), (16, 0), (16, 0), (6, 63), (23, 64),
                         (13, 0), (16, 0xFFFF)],
                packMsb [(4, 1), (12, 0), (1, 1), (31, 2 ^ 24), (16, 0), (64, 0)],
                packMsb [(4, 3), (16, 3), (13, 8), (21, 4), (10, 1), (32, 100), (16, 0xFFFF), (16, 0)],
                packMsb [(4, 4), (4, 0), (8, 0), (16, 0), (16, 0xFFFF), (16, 0), (32, 1), (32, 0)], packMsb [(64, 2 ^ 30), (64, 8192)],
                packMsb [(4, 4), (4, 4), (8, 0), (16, 0), (16, 0xFFFF), (16, 0), (32, 1), (32, 0)], packMsb [(64, 4096), (64, 8192)],
                packMsb [(4, 4), (4, 2), (8, 0), (16, 1), (16, 0xFFFF), (16, 0), (32, 8), (32, 0)], packMsb [(64, 4096), (64, 16384)],
                commitSlot] } }

/-- A step of that program that has launched, its part on the segment as given. -/
def work (x : SegStep) (g : Segment → Segment) : State :=
  let st : StepS := { prog := workProgram, launchNo := 9, launch := 990, launched := true }
  let s := loops.onPart 0 (fun p => { p with programs := [workProgram], kernels := [{ id := 3, abi := 1 }], streams := [{ id := 1 }] })
  (s.onLoop 0 .lc (fun l => { l with running := true, programId := 5, step := some st })).onSeg 0 (fun h => g
    { h with steps := [x], stack := { h.stack with mem := [(2 ^ 30, 5), (2 ^ 30 + 1, 7)] } })

/-- The segment's part of that step: its row list has one row at unit 17, the others masked. -/
def part0 : SegStep :=
  { launchNo := 9, launched := true, rowLists := [{ entries := [{}, { masked := false, addr := 17 }] }] }

theorem wit_DescriptorsAndTransfers :
    (((work part0 id).stepOf 0 .lc).isSome = true ∧ ((work part0 id).seg 0).stepHere 0 .lc = some part0 ∧
      ((work part0 id).seg 0).runs 0 .lc = true ∧ mayIssue ((work part0 id).seg 0) workProgram.image part0 0 = true ∧ mayIssue ((work part0 id).seg 0) workProgram.image part0 2 = true ∧
      mayIssue ((work part0 id).seg 0) workProgram.image part0 3 = true ∧ mayIssue ((work part0 id).seg 0) workProgram.image part0 7 = true ∧ mayIssue ((work part0 id).seg 0) workProgram.image part0 5 = false ∧
      (workProgram.image.slots.map dType) = [2, 1, 3, 4, 0, 4, 0, 4, 0, 5] ∧
      xferFault 0 (workProgram.image.slot 3) (workProgram.image.slot 4) = none ∧
      xferFault 0 (workProgram.image.slot 5) (workProgram.image.slot 6) = none ∧
      xferFault 0 (workProgram.image.slot 7) (workProgram.image.slot 8) = none ∧ 0 < chunksOf (workProgram.image.slot 7)) ∧
    gives (exec (.descriptorIssue 0 0 .lc 0) (work part0 id)) (fun t => (t.seg 0).steps == [{ part0 with issued := [0] }]) = true ∧
    gives (exec (.descriptorIssue 0 0 .lc 3) (work part0 id)) (fun t => (t.seg 0).staging == []) = true ∧
    (mayIssue ((work { part0 with issued := [3], done := [3] } id).seg 0) workProgram.image { part0 with issued := [3], done := [3] } 5 = true ∧
      xferKind (workProgram.image.slot 5) = 4) ∧
    gives (exec (.descriptorIssue 0 0 .lc 5) (work { part0 with issued := [3], done := [3] } id)) (fun t =>
      (t.seg 0).port.waiting.map (fun r => (r.write, r.addr, r.beats)) == [(false, 4096, 1)]) = true ∧
    gives (exec (.descriptorIssue 0 0 .lc 7) (work part0 id)) (fun t => (t.part 0).streams.all (·.used)) = true ∧
    ((work { part0 with issued := [5] } id).dmaPending (.transfer 0 0 .lc 5) = false ∧
      (work { part0 with issued := [5] } id).transferDone 0 0 .lc workProgram.image (5, workProgram.image.slot 5, workProgram.image.slot 6) = true ∧
      (work { part0 with issued := [3] } id).transferDone 0 0 .lc workProgram.image (3, workProgram.image.slot 3, workProgram.image.slot 4) = true ∧
      ((work part0 id).seg 0).staging.wf = true ∧ ((work part0 id).seg 0).stack.mem.wf = true ∧ (List.replicate 64 9).length = xferLen (workProgram.image.slot 5) * 64) ∧
    gives (exec (.transferComplete 0 0 .lc 5 (List.replicate 64 9)) (work { part0 with issued := [5] } id)) (fun t =>
      memRead (t.seg 0).staging 8192 == 9 && memRead (t.seg 0).staging 8255 == 9 && memRead (t.seg 0).staging 8256 == 0) = true ∧
    gives (exec (.transferComplete 0 0 .lc 3 []) (work { part0 with issued := [3] } id)) (fun t =>
      (t.seg 0).staging == [(8192, 5), (8193, 7)] && (t.seg 0).steps == [{ part0 with issued := [3], done := [3] }]) = true := by
  decide +kernel

/-- A segment ready to take the pass: its tile is in the free register and its row has a current record. -/
def armed (g : Segment) : Segment :=
  { g with ma0 := { g.ma0 with reg1 := { tile := some ({ slot := 0 }, 0) } }, validBits := [16],
           staging := writeStats [] 17 { tag := 9 } }

/-- Two steps with a sweep issued on one array: that of partition 0 and another, whose tile lies in the free register. -/
def twoSteps (p : Nat) (c : Cls) : State :=
  let st : StepS := { prog := workProgram, launchNo := 9, launch := 990, launched := true }
  let x : SegStep := { part0 with part := p, cls := c, issued := [0] }
  (work { part0 with issued := [0] } (fun g => { armed g with
    steps := g.steps ++ [x], ma0 := { g.ma0 with credit := 1, reg1 := { tile := some ({ part := p, cls := c, slot := 0 }, 0) } } })).onLoop p c
    (fun l => { l with running := true, programId := 5, step := some st })

theorem wit_Passes :
    ((((twoSteps 15 .lc).onSeg 0 (fun g => { g with ma0 := { g.ma0 with credit := 0 } })).choosePass 0 .ma0).map (·.ref.part)) = some 15 ∧
    ((((twoSteps 15 .lc).choosePass 0 .ma0).map (·.ref.part)) = some 15 ∧ 0 < (((twoSteps 15 .lc).seg 0).array .ma0).credit ∧
      (((twoSteps 15 .lc).seg 0).sources.any (fun x => x.part == 15 && (match (twoSteps 15 .lc).nextPass 0 .ma0 x with
        | some q => passReady ((twoSteps 15 .lc).seg 0) (((twoSteps 15 .lc).seg 0).array .ma0) q
        | none => false))) = true) ∧
    ((((twoSteps 1 .be).choosePass 0 .ma0).map (fun r => (r.ref.part, r.ref.cls))) = some (1, .be) ∧
      (((twoSteps 1 .be).seg 0).sources.any (fun x => x.part == 0 && x.cls == .lc && (match (twoSteps 1 .be).nextPass 0 .ma0 x with
        | some q => !passReady ((twoSteps 1 .be).seg 0) (((twoSteps 1 .be).seg 0).array .ma0) q
        | none => false))) = true) ∧
    ((work { part0 with issued := [0] } armed).choosePass 0 .ma0).isSome = true ∧
    (((work { part0 with issued := [0] } armed).seg 0).arrayRuns .ma0 = true ∧
      ((work { part0 with issued := [0] } armed).retireEmpty 0 .ma0).choosePass 0 .ma0 =
        some { ref := { slot := 0 }, k := 0, launchNo := 9, sweep := workProgram.image.slot 0, pass := workProgram.image.slot 1,
               rows := [(1, { masked := false, addr := 17 })], chans := [] }) ∧
    gives (exec (.passArm 0 .ma0 3) (work { part0 with issued := [0] } armed)) (fun t =>
      (t.seg 0).ma0.tag && (t.seg 0).ma0.passCount == 1 && (t.seg 0).ma0.rowCount == 1 && (t.seg 0).ma0.loadStall == 3
        && (t.seg 0).ma0.bank0.holder == some { slot := 0 }
        && ((aGet 1 (t.seg 0).ma0.bank0.acc).getD []).length == 256) = true := by
  decide +kernel

theorem wit_TilesAndStatistics :
    ((work { part0 with issued := [0] } id).nextLoad 0 .ma0 { part0 with issued := [0] }).isSome = true ∧
    (passTile (workProgram.image.slot 1) * 64 + tileBytes 1 = 2 ^ 30 + 32768 ∧ 2 ^ 30 + 32768 ≤ stackBytes) ∧
    gives (exec (.tileLoadComplete 0 .ma0 0 .lc 1) (work { part0 with issued := [0] } id)) (fun t =>
      (t.seg 0).ma0.reg1.tile == some ({ slot := 0 }, 0) && (t.seg 0).ma0.reg1.weights == [(0, 0, 5), (0, 1, 0), (0, 2, 7), (0, 3, 0)]) = true ∧
    ((aGet 0 part0.passNext).getD 0 = 0) ∧
    gives (exec (.statisticsPass 0 0 .lc 0) (work { part0 with issued := [0] } id)) (fun t => (t.seg 0).validBits == [16]) = true := by
  decide +kernel

/-- A segment whose sweep has had its pass. -/
def fedBank (g : Segment) : Segment :=
  { g with ma0 := { g.ma0 with finishing := [{ holder := some { slot := 0 }, fed := [1], acc := [(1, List.replicate 256 0)] }] } }

/-- A bank whose row 1 holds the sum 5 in every column, with row scale and channel scales 1.0. -/
def bankFive : AccBank :=
  { holder := some { slot := 0 }, fed := [1], acc := [(1, List.replicate 256 5)], scales := [(1, { s := 0x3F800000 })],
    table := List.replicate 256 (0x3F800000 * 2 ^ 64) }

/-- A segment whose sweep has had its pass, with that bank. -/
def fiveBank (g : Segment) : Segment := { g with ma0 := { g.ma0 with finishing := [bankFive] } }

/-- The step whose sweep has had its pass, with a rescale table of pitch 2. -/
def tabled : State :=
  (work { part0 with issued := [0], passNext := [(0, 1)] } fiveBank).onPart 0 (fun p =>
    { p with models := [{ tables := [{ num := 0, header := 2 ^ 57 }] }] })

theorem wit_SweepCompleted :
    ((passOf workProgram.image { part0 with issued := [0], passNext := [(0, 1)] } 0).k = sweepPasses (workProgram.image.slot 0) ∧
      ((work { part0 with issued := [0], passNext := [(0, 1)] } fedBank).seg 0).sweepRuns (workProgram.image.slot 0) = .ma0 ∧
      (outUnit (workProgram.image.slot 0) 0 1 + outUnits (sweepOutfmt (workProgram.image.slot 0))) * 256 ≤ stagingBytes) ∧
    gives (exec (.sweepComplete 0 0 .lc 0) (work { part0 with issued := [0], passNext := [(0, 1)] } fedBank)) (fun t =>
      (t.seg 0).ma0.finishing == [] && (t.seg 0).steps.all (fun x => x.done == [0])) = true ∧
    ((tabled.rtable 0 0 0).map (fun y => rtPitch y.header) = some 2 ∧ outUnit (workProgram.image.slot 0) 2 1 = 66 ∧
      (tabled.seg 0).staging.wf = true ∧ (1 : Nat) ∉ (part0.rowLists.getD 0 {}).drop ∧ sweepOutfmt (workProgram.image.slot 0) = 0 ∧
      sweepFuse (workProgram.image.slot 0) = true) ∧
    gives (exec (.sweepComplete 0 0 .lc 0) tabled) (fun t =>
      memReadWord (t.seg 0).staging (66 * 256) 2 == 0x40A0 && memReadWord (t.seg 0).staging (66 * 256 + 510) 2 == 0x40A0
        && (readStats (t.seg 0).staging 66).absmax == 0x40A00000 && (t.seg 0).validBits.contains (headerUnit 66)) = true := by
  decide +kernel

/-- A segment that runs the kernel, its argument header in staging SRAM and an allocation of its step. -/
def kernelOn (g : Segment) : Segment :=
  { g with kernels := [{ slot := 2, threads := 8 }], allocs := [{ base := 0, units := 8 }],
           staging := memWriteBytes [] (4 * 64) (bytesLe 16 (packMsb [(16, 0x4B41), (8, 1), (104, 0)])) }

theorem wit_Kernels :
    (earlierStarted workProgram.image ((work { part0 with issued := [2] } id).seg 0) part0 2 = true ∧
      kernelThreads (workProgram.image.slot 2) = 8 ∧ ((work { part0 with issued := [2] } id).seg 0).threadsFree 0 = 3840) ∧
    gives (exec (.kernelStart 0 0 .lc 2) (work { part0 with issued := [2] } id)) (fun t => (t.seg 0).kernels == [{ slot := 2, threads := 8, headerBad := true }]) = true ∧
    (outRows ((work { part0 with issued := [2] } kernelOn).seg 0).staging (workProgram.image.slot 2) = 0 ∧
      (work { part0 with issued := [2] } kernelOn).reaches 0 0 .lc workProgram.image 2 { part0 with issued := [2] } (.bytes 2040 8) = true ∧
      (work { part0 with issued := [2] } kernelOn).reaches 0 0 .lc workProgram.image 2 { part0 with issued := [2] } (.bytes 2041 4) = false ∧
      (work { part0 with issued := [2] } kernelOn).reaches 0 0 .lc workProgram.image 2 { part0 with issued := [2] } (.bytes 2044 8) = false) ∧
    (((work { part0 with issued := [2] } kernelOn).runningKernel 0 0 .lc 2).isSome = true ∧
      headerOk { id := 3, abi := 1 } ((work { part0 with issued := [2] } kernelOn).seg 0).staging (workProgram.image.slot 2) = true ∧
      (work { part0 with issued := [2] } kernelOn).headerBadAt 0 0 .lc (workProgram.image.slot 2) = false ∧
      ((work { part0 with issued := [2] } kernelOn).seg 0).inAlloc 0 .lc 2044 4 = true) ∧
    gives (exec (.kernelComplete 0 0 .lc 2 77 ⟨[.bytes 2040 8], []⟩) (work { part0 with issued := [2] } kernelOn)) (fun t =>
      (t.seg 0).kernels == [] && (t.seg 0).cnt.issueCycles == 77) = true ∧
    gives (exec (.kernelBoundExceeded 0 0 .lc 2) (work { part0 with issued := [2] } kernelOn)) (fun t =>
      (t.seg 0).kernels == [{ slot := 2, threads := 8, exceeded := true }] && (t.seg 0).cnt.boundExceeded == 1) = true ∧
    gives (exec (.kernelFault 0 0 0 .lc 2 .unaligned) (work { part0 with issued := [2] } kernelOn)) (fun t =>
      (t.stepOf 0 .lc).isNone && (t.seg 0).cnt.kernelFaults == 1 && t.cnt.stepsDiscarded == 1) = true := by
  decide +kernel

/-! Drafting, drawing, compaction, commit points. -/

/-- A greedy request's parameters. -/
def greedy : GenParams := { maxTokens := 5 }

theorem wit_DraftAndTree :
    (greedy.greedy = true ∧ (([(7, 5), (9, 4)] : List (Nat × F32)).map (·.1)).Nodup ∧
      [({ node := 1, depth := 1 } : BoundNode), { node := 2, depth := 1, child := 1 }][1]? = some { node := 2, depth := 1, child := 1 }) ∧
    (draftChildren greedy 3 [(7, 5), (9, 4)] [{ node := 1, depth := 1 }, { node := 2, depth := 1, child := 1 }, { node := 3, depth := 1, child := 2 }]).map
      (·.token) = [some 7, some 9, none] ∧
    keptRun 0x3F000000 0 [(1, 0x3F000000), (2, 0x3E800000), (3, 0x3E800000)] = [(1, 0x3F000000)] ∧
    keptRun 0x3F400000 0 [(1, 0x3F000000), (2, 0x3E800000), (3, 0x3E800000)] = [(1, 0x3F000000), (2, 0x3E800000)] := by
  decide +kernel

/-- A model of 4 tokens, the last the end of a sequence, of two layers and one KV head. -/
def tiny : Model := { id := 7, desc := packMsb [(16, 7), (18, 4), (18, 3), (17, 1000), (8, 2), (5, 1), (16, 0), (30, 0)] }

/-- A commit descriptor: VERIFY, DRAW, HOLD, ADVANCE. -/
def commitWord (verify : Nat) : Nat := packMsb [(4, 5), (1, verify), (1, 1), (1, 1), (1, 1), (120, 0)]

/-- A generation program of a commit descriptor alone. -/
def genProgram (verify : Nat) : Program :=
  { id := 5, image := { header := progHeader 0 1 0, slots := [commitWord verify] }, wcet := 10 }

/-- A step in flight of that program that binds sequence 0. -/
def genStep (verify : Nat) (b : Sys2Proof.Machine.Bind) (f : StepS → StepS) : State :=
  let st : StepS := { prog := genProgram verify, launchNo := 9, launch := 990, launched := true, reports := [0], binds := [b], bound := 1 }
  let s := loops.onPart 0 (fun p => { p with models := [tiny, { tiny with id := 8 }], targetModel := 7, draftModel := 8 })
  { s.onLoop 0 .lc (fun l => { l with running := true, programId := 5, step := some (f st) }) with
    seqs := [(0, { req := { reqId := 42, tenant := 1, params := greedy, prompt := [1, 2] }, committed := 2, lastToken := 2, ownBlocks := [0],
                   released := true, kv := [{ pos := 2, slot := 1 }, { pos := 3, slot := 1, vScale := 3 }, { pos := 4, slot := 1, vScale := 4 },
                                            { pos := 5, slot := 1, vScale := 5 }] })] }

/-- The logits of a row that favours a token. -/
def favours (node tok : Nat) : LogitRow :=
  { node := node, shards := [(List.range 4).map (fun i => if i = tok then 0x41000000 else 0x3F800000)] }

/-- A root bound with three children of one level. -/
def rootOf (kids : Nat) : List BoundNode :=
  { token := some 2 } :: (List.range kids).map (fun i => { node := i + 1, depth := 1, child := i })

theorem wit_DraftAndDraw :
    ((genStep 1 { nodes := rootOf 2 } id).mgrUp = true ∧ ((genStep 1 { nodes := rootOf 2 } id).part 0).draft = some { tiny with id := 8 } ∧
      ((genStep 1 { nodes := rootOf 2 } id).stepOf 0 .lc).any (fun st => st.verifies && !st.drawn && st.levels == 0
        && st.binds.all (fun b => b.hasTree && 0 < treeDepth b.nodes && rowsOk 4 1 [favours 0 1] b.seq (levelNodes 0 b))) = true ∧
      ((genStep 1 { nodes := rootOf 2 } id).partSegs 0).length = 1) ∧
    gives (exec (.draftLevel 0 .lc 0 [favours 0 1]) (genStep 1 { nodes := rootOf 2 } id)) (fun t => (t.stepOf 0 .lc).any (fun st =>
      st.levels == 1 && st.binds.map (fun b => b.nodes.map (·.token)) == [[some 2, some 1, some 0]])) = true ∧
    (((genStep 0 { nodes := rootOf 0 } id).part 0).target = some tiny ∧
      ((genStep 0 { nodes := rootOf 0 } id).stepOf 0 .lc).any (fun st => st.launched && st.abandoned.isNone && st.prog.image.draw
        && !st.prog.image.verify && st.roots && !st.drawn && (genStep 0 { nodes := rootOf 0 } id).allReported 0 st
        && st.binds.all (fun b => rowsOk 4 1 [favours 0 1] b.seq (drawNodes b) && b.nodes != [])) = true) ∧
    gives (exec (.managerDraw 0 .lc [favours 0 1]) (genStep 0 { nodes := rootOf 0 } id)) (fun t => (t.stepOf 0 .lc).any (fun st =>
      st.drawn && st.binds.map (·.drawn) == [[1]] && st.binds.map (·.path) == [[]])) = true := by
  decide +kernel

/-- A verifying step that has drawn the path of node 3. -/
def drawnStep : State :=
  (genStep 1 { nodes := rootOf 3, path := [3], drawn := [1, 0] } (fun st => { st with drawn := true, levels := 1 })).onSeg 0 (fun g =>
    { g with steps := [{ launchNo := 9, launched := true,
                         bound := [{ len := 2, kv := [{ pos := 2, slot := 1 }, { pos := 3, slot := 1, vScale := 3 },
                                                      { pos := 5, slot := 1, vScale := 5 }] }] }] })

theorem wit_Compaction :
    (([2, 3] : List Nat).Pairwise (· < ·) ∧ (∀ n ∈ [2, 3], 1 ≤ n) ∧
      ((List.range 4).map (fun i => ({ pos := 2 + i } : KvEntry))).Pairwise (fun a b => sameSlot a b = false)) ∧
    ((compactPath 0 2 [2, 3] [{ pos := 3, vScale := 3 }, { pos := 4, vScale := 4 }, { pos := 5, vScale := 5 }]).all (fun e =>
      (e.pos != 3 || e.vScale == 4) && (e.pos != 4 || e.vScale == 5))) = true ∧
    (drawnStep.mgrUp = true ∧ (drawnStep.stepOf 0 .lc).any (fun st => st.prog.image.verify && st.drawn
      && (drawnStep.compactSegs 0 st.prog.image).contains 0 && !st.compacted.contains 0) = true) ∧
    gives (exec (.compactionComplete 0 0 .lc) drawnStep) (fun t =>
      ((t.seg 0).stepHere 0 .lc).map (fun x => x.bound.map (fun b => b.kv.filter (fun e => e.pos == 3))) ==
        some [[{ pos := 3, slot := 1, vScale := 5 }]] && (t.live 0).map (·.kv) == (drawnStep.live 0).map (·.kv) && (t.stepOf 0 .lc).map (·.compacted) == some [0]) = true := by
  decide +kernel

/-- A step that has drawn one token for its root. -/
def drewOne : State := genStep 0 { nodes := rootOf 0, drawn := [1] } (fun st => { st with drawn := true })

/-- A step with a prefill chunk. -/
def prefilled : State := genStep 0 { prefillFrom := 2, prefill := 7 } id

/-- A step that reports carried scales: on stream 1 it coded chunks with 2 as the largest exponent and one escape, on stream 2 none. -/
def scaled : State :=
  let prog : Program := { id := 5, image := { header := progHeader 0 1 0, slots := [packMsb [(4, 5), (4, 0), (1, 1), (119, 0)]] }, wcet := 10 }
  (genStep 0 { prefillFrom := 2, prefill := 7 } (fun st => { st with prog := prog, eMax := [(1, 2)], escaped := [1] })).onPart 0 (fun p =>
    { p with streams := [{ id := 1, run := 3 }, { id := 2, run := 1 }] })

theorem wit_CommitEffects :
    (drewOne.mgrUp = true ∧ (drewOne.stepOf 0 .lc).any (fun st => drewOne.commitReady 0 st && st.prog.image.advance && st.prog.image.hold) = true ∧
      drewOne.stampFor 7 = ⟨1000, 7⟩) ∧
    gives (exec (.commitPoint 7 0 .lc) drewOne) (fun t => (t.stepOf 0 .lc).isNone && ((t.part 0).loop .lc).freezeAt == 1001
      && (t.live 0).any (fun q => q.committed == 3 && q.outputs == [1] && q.hold.map (fun h => (h.token, h.commit, h.due)) == [(1, ⟨1000, 7⟩, ⟨1400, 7⟩)])
      && t.mirror.nextSeq == 2 && (t.tenant 1).level == -256) = true ∧
    (scaled.stepOf 0 .lc).any (fun st => scaled.commitReady 0 st && st.prog.image.scales) = true ∧
    gives (exec (.commitPoint 7 0 .lc) scaled) (fun t => (t.part 0).streams.map (fun x => (x.id, x.s, x.run)) ==
      [(1, 0x40800000, 3), (2, 0x3F800000, 1)]) = true ∧
    ((genStep 0 { nodes := rootOf 0 } id).stepOf 0 .lc).any (fun st => (genStep 0 { nodes := rootOf 0 } id).commitReady 0 st) = false ∧
    (prefilled.stepOf 0 .lc).any (fun st => prefilled.commitReady 0 st) = true ∧
    gives (exec (.commitPoint 7 0 .lc) prefilled) (fun t => (t.live 0).any (fun q => q.committed == 9 && q.outputs == [])) = true ∧
    same (exec (.commitPoint 7 0 .lc) (genStep 0 { nodes := rootOf 0 } id)) (.next (genStep 0 { nodes := rootOf 0 } id)) = true ∧
    same (exec (.commitPoint 7 0 .lc) (genStep 0 {} (fun st => { st with reports := [] }))) (.next (genStep 0 {} (fun st => { st with reports := [] }))) = true := by
  decide +kernel

/-! Requests. -/

/-- A ring context of a kind, enabled. -/
def ringOf (kind : Nat) : Ring := { enable := true, kind := kind, anyTenant := true, base := 4096 * kind, indexWb := 8 * kind + 64, evEnable := true }

/-- A block that serves partition 0 for tenant 1, with a SUB ring 1 that holds a record, a CMP ring 2 and an STR ring 3. -/
def serving : State :=
  let s := loops.onPart 0 (fun p => { p with models := [tiny], targetModel := 7, poolPages := 10000, poolFree := 10000 })
  let s := s.onTenant 1 (fun t => { t with valid := true, rate := 100, burst := 1000, partitions := 1, level := 1000 })
  let s := ((s.setRing 1 { ringOf 0 with tail := 1 }).setRing 2 (ringOf 1)).setRing 3 (ringOf 2)
  { s with trust := { s.trust with envKeys := { curId := 1, cur := 77, curEpoch := 1, dimCur := 78 } :: List.replicate 15 {} } }

/-- A SUB record. -/
def recordOf (kind id cmp : Nat) : Nat :=
  packMsb [(8, kind), (4, 0), (1, 0), (3, 0), (12, 1), (4, 0), (64, id), (14, cmp), (14, 3), (4, 0), (64, 64), (32, 269), (288, 0)]

/-- The header of an envelope of tenant 1 to partition 0 under key 1. -/
def envHead : Nat := packMsb [(16, 0x4B45), (8, 3), (4, 0), (4, 0), (8, 1), (12, 1), (76, 0)]

/-- An envelope with a prompt of three tokens, 5 tokens at most, greedy, sealed to the partition's key 77. -/
def envelope : Envelope :=
  { header := envHead, hpke := { suite := [0x11, 2, 2], key := 77, info := bytesLe 16 envHead }, aad := bytesLe 16 envHead, intact := true,
    bodyBytes := 140, prompt := [1, 2, 0],
    bodyHeader := packMsb [(16, 0x4B51), (8, 3), (8, 1), (32, 5), (32, 0), (32, 0x3F800000), (32, 0x3F800000), (32, 0), (32, 0), (64, 1), (64, 0),
      (64, 0), (40, 0), (32, 3), (32, 0), (4, 0), (6, 0), (1, 0), (1, 0), (1, 0), (1, 0), (1, 0), (489, 0)] }

/-- A request that waits. -/
def queued : Request := { tenant := 1, reqId := 42, cmpRing := 2, strRing := 3, prompt := [1, 2, 0], params := greedy }

/-- A live sequence of that request. -/
def liveSeq : Sequence :=
  { req := queued, committed := 2, lastToken := 2, ownBlocks := [0], released := true, admitAt := ⟨900, 0⟩ }

/-- The block with that request waiting in the LC queue. -/
def waitingIn : State := serving.onPart 0 (fun p => { p with lcQueue := [queued] })

/-- The block with that sequence live. -/
def liveIn (q : Sequence) : State := { serving with seqs := [(0, q)] }

theorem wit_SubmissionAndCancels :
    (serving.subReady 1 = true ∧ srKind (recordOf 0x30 42 2) = 0x30 ∧ serving.ringIs (srCmp (recordOf 0x30 42 2)) 1 = true ∧
      serving.requestClamped (serving.ring 1) (recordOf 0x30 42 2) = false ∧ envelope.readError = false ∧
      ((serving.given (serving.stampFor 5)).takeSub 1).envelopeOpens (recordOf 0x30 42 2) envelope = true ∧
      ((serving.given (serving.stampFor 5)).takeSub 1).bodyFault 0 envelope = false ∧ 0 < serving.parts.length) ∧
    gives (exec (.subRequest 5 1 (recordOf 0x30 42 2) envelope) serving) (fun t => ((t.part 0).queue .lc).map (fun q =>
      (q.reqId, q.arrived, q.prompt, q.params.maxTokens)) == [(42, ⟨1000, 5⟩, [1, 2, 0], 5)] && (t.ring 1).head == 1) = true ∧
    serving.requestClamped (serving.ring 1) (recordOf 0x30 0 2) = true ∧
    ((serving.given (serving.stampFor 5)).takeSub 1).envelopeOpens (recordOf 0x30 42 2) { envelope with intact := false } = false ∧
    ((serving.given (serving.stampFor 5)).takeSub 1).envelopeOpens (recordOf 0x30 42 2) { envelope with bodyBytes := 139 } = false ∧
    bodyOpens { envelope with hpke := { envelope.hpke with key := 78 } } 77 = false ∧
    bodyOpens { envelope with hpke := { envelope.hpke with mode := 2 } } 77 = false ∧
    bodyOpens { envelope with hpke := { envelope.hpke with suite := [0x10, 2, 2] } } 77 = false ∧
    gives (exec (.subRequest 5 1 (recordOf 0x30 42 2) { envelope with intact := false }) serving) (fun t =>
      t.cnt.envFails == 1 && (t.ring 2).writing.length == 1 && ((t.part 0).queue .lc).isEmpty) = true ∧
    cancelClamped (serving.ring 1) (recordOf 0x31 0 2) = true ∧
    gives (exec (.cancel 5 1 (recordOf 0x31 0 2)) serving) (fun t => t.cnt.subClamped == 1 && t.cnt.cancels == 0) = true ∧
    gives (exec (.subRequest 5 1 (recordOf 0x30 0 2) envelope) serving) (fun t => t.cnt.subClamped == 1 && (t.ring 2).writing.length == 1) = true ∧
    gives (exec (.cancel 5 1 (recordOf 0x31 42 3)) serving) (fun t => (t.ring 1).lost == 1) = true ∧
    gives (exec (.subReservedKind 5 1 (recordOf 0x32 42 3)) serving) (fun t => (t.ring 1).lost == 1) = true ∧
    serving.ringIs (srCmp (recordOf 0x30 42 3)) 1 = false ∧
    gives (exec (.subRequest 5 1 (recordOf 0x30 42 3) envelope) serving) (fun t => (t.ring 1).lost == 1 && t.cnt.subClamped == 0) = true ∧
    (srKind (recordOf 0x32 42 2) ≠ 0x30 ∧ srKind (recordOf 0x32 42 2) ≠ 0x31) ∧
    gives (exec (.subReservedKind 5 1 (recordOf 0x32 42 2)) serving) (fun t => t.cnt.subClamped == 1) = true ∧
    (srKind (recordOf 0x31 42 2) = 0x31 ∧ cancelClamped (serving.ring 1) (recordOf 0x31 42 2) = false ∧
      (liveIn liveSeq).cancelQueued 1 42 = none ∧ (liveIn liveSeq).cancelLive 1 42 = some 0 ∧ (liveIn liveSeq).subReady 1 = true) ∧
    gives (exec (.cancel 5 1 (recordOf 0x31 42 2)) (liveIn liveSeq)) (fun t => (t.live 0).any (fun q => q.ended == some (.cancelled, ⟨1000, 5⟩))
      && t.cnt.cancels == 1) = true ∧
    gives (exec (.cancel 5 1 (recordOf 0x31 42 2)) (liveIn { liveSeq with hold := [{ token := 7 }] })) (fun t =>
      (t.live 0).any (·.hold.isEmpty) && (t.tenant 1).level == 1256) = true ∧
    (waitingIn.cancelQueued 1 42 = some queued ∧ waitingIn.subReady 1 = true) ∧
    gives (exec (.cancel 5 1 (recordOf 0x31 42 2)) waitingIn) (fun t => (t.part 0).lcQueue.isEmpty && t.cnt.cancels == 1) = true ∧
    (serving.cancelQueued 1 42 = none ∧ serving.cancelLive 1 42 = none) ∧
    gives (exec (.cancel 5 1 (recordOf 0x31 42 2)) serving) (fun t => t.cnt.cancelsLate == 1 && t.cnt.cancels == 0) = true := by
  decide +kernel

/-- The part of a beat edge in which admission turns fall. -/
def atAdmission (s : State) : State := { s with time := { s.time with edgePhase := 2 } }

/-- An admission check's answer. -/
def refusedWith (r : Except Status Join) (st : Status) : Bool := match r with
  | .error x => x == st
  | .ok _ => false

theorem wit_AdmissionOrder :
    (serving.prior = none ∧ (serving.part 0).stopped = none ∧ (serving.tenant 2).valid = false) ∧
    refusedWith (serving.admissionChecks { queued with tenant := 2 }) .budget = true ∧
    refusedWith ((serving.onTenant 1 (fun t => { t with level := 0, partitions := 1 })).admissionChecks
      { queued with params := { greedy with handle := 9 } }) .budget = true ∧
    ((serving.tenant 1).valid = true ∧ (serving.tenant 1).partitions.testBit 0 = true ∧ 0 < (serving.tenant 1).level ∧
      serving.findHandle 9 0 1 = none) ∧
    refusedWith (serving.admissionChecks { queued with params := { greedy with handle := 9 } }) .badHandle = true ∧
    ((serving.part 0).target = some tiny ∧ tiny.contextMax < (List.replicate 1000 1).length + 1) ∧
    refusedWith (serving.admissionChecks { queued with prompt := List.replicate 1000 1 }) .length = true ∧
    ((atAdmission waitingIn).edgeAt 2 = true ∧ (atAdmission waitingIn).turnOf 0 .lc = some queued) ∧
    gives (exec (.admission 0 .lc) ((atAdmission waitingIn).onTenant 1 (fun t => { t with level := -3 }))) (fun t =>
      (t.part 0).lcQueue.isEmpty && (t.tenant 1).level == -3 && t.cnt.budgetRefusals == 1 && (t.ring 2).writing.length == 1) = true := by
  decide +kernel

/-- A paused sequence. -/
def pausedSeq (tier : Tier) : Sequence :=
  { liveSeq with tier := tier, pausedBudget := some ⟨990, 0⟩, resumable := true,
                 dim := some { recordId := 1, addr := 16, units := 1, epoch := 1, length := 2 } }

theorem wit_AdmissionOutcomes :
    (match (atAdmission waitingIn).admissionChecks queued with
      | .ok j => j.entry == none && j.fetch == 0 && decide (0 < j.pages) && decide (j.pages + (waitingIn.part 0).decodeReserve ≤ (waitingIn.part 0).poolFree)
      | .error _ => false) = true ∧ waitingIn.freeIndex = some 0 ∧
    gives (exec (.admission 0 .lc) (atAdmission waitingIn)) (fun t => (t.live 0).any (fun q => q.req == queued && q.admitAt == ⟨1000, 0⟩
      && q.inDue == ⟨2600, 0⟩) && (t.part 0).poolFree == 10000 - 2 && (t.tenant 1).level == 1000 - 3 * 64 && (t.part 0).lcQueue.isEmpty) = true ∧
    (serving.takesTurns 0 = true ∧ serving.mgrUp = true ∧ serving.prior = none ∧ 600 + (serving.part 0).joinWait ≤ serving.time.beat) ∧
    gives (exec (.joinWaitExpiry 0) (serving.onPart 0 (fun p => { p with lcQueue := [{ queued with waitFrom := some 600 }] }))) (fun t =>
      t.cnt.noPages == 1 && (t.part 0).lcQueue.isEmpty) = true ∧
    ((atAdmission (liveIn (pausedSeq .both))).resumeNext 0 = some 0 ∧ (atAdmission (liveIn (pausedSeq .both))).edgeAt 3 = true) ∧
    gives (exec (.resumption 0) (atAdmission (liveIn (pausedSeq .both)))) (fun t => (t.live 0).any (fun q =>
      q.tier == .bright && q.dim == none && q.pausedBudget == none)) = true ∧
    (atAdmission (liveIn (pausedSeq .dim))).resumeNext 0 = some 0 ∧
    gives (exec (.resumption 0) (atAdmission (liveIn (pausedSeq .dim)))) (fun t => (t.live 0).any (fun q =>
      q.moving == some .fetch && q.pausedBudget == none) && (t.part 0).poolFree == 10000 - 2) = true := by
  decide +kernel

/-- A plan that has packed a prompt. -/
def packedPlan : Plan := { stage := .packed, packed := [1, 1, 2], endedAt := some ⟨998, 0⟩ }

theorem wit_HandOver :
    ((atAdmission (liveIn { liveSeq with plan := some packedPlan })).edgeAt 2 = true ∧ packedBefore 1000 packedPlan = true ∧
      liveSeq.ended = none ∧ liveSeq.tier = .bright ∧ liveSeq.moving = none ∧ handOverBlocks { liveSeq with plan := some packedPlan } packedPlan = []) ∧
    gives (exec (.handOver 0) (atAdmission (liveIn { liveSeq with plan := some packedPlan, awaitHandOver := true }))) (fun t =>
      (t.live 0).any (fun q => q.packed == some [1, 1, 2] && q.plan.isNone && !q.awaitHandOver) && (t.tenant 1).level == 1000 - 3 * 64) = true := by
  decide +kernel

/-- A sequence whose completion record is due. -/
def overSeq : Sequence := { liveSeq with ended := some (.ok, ⟨999, 9⟩), pagesBack := true, ownBlocks := [] }

theorem wit_CompletionRecords :
    (overSeq.completes = true ∧ overSeq.inputMark = none ∧ (serving.ring 2).enable = true ∧ (serving.ring 2).kind = 1) ∧
    gives (exec (.completionRecordWrite 0) (liveIn overSeq)) (fun t => (t.ring 2).writing.length == 1 && (t.live 0).any (·.recorded)) = true ∧
    gives (exec (.completionRecordWrite 0) ((liveIn overSeq).setRing 2 {})) (fun t => t.seqs.isEmpty) = true ∧
    same (exec (.completionRecordWrite 0) (liveIn { overSeq with unwritten := 1 })) (.next (liveIn { overSeq with unwritten := 1 })) = true := by
  decide +kernel

/-- A directory entry. -/
def entryIn (m : Option DimMove) : State :=
  { liveIn { liveSeq with entry := some 30, start := 3, copyPending := true } with
    handles := [(30, { handle := 77, tenant := 1, prefixLen := 3, dim := some { recordId := 6, epoch := 1, length := 3 },
                       tier := if m = some .fetch then .dim else .bright, moving := m, kv := [{ pos := 1, vScale := 9 }] })] }

/-- What a fetch of a cache reads back: the record header of record id with LAST_TOKEN 3, and the frames of its one block. -/
def fetchedAs (c : CacheRef) (id epoch : Nat) : DimRead :=
  { cache := c, header := packMsb [(16, 0x4B52), (8, 3), (4, 0), (6, 0), (18, 3), (12, 0), (32, id), (416, 0)],
    frames := (List.range tiny.blockPages).map (fun k => frameHeader epoch 0 0 false id 0 k (70 + k)) }

/-- The sequence on the dim tier alone, its record fetched. -/
def fetching (epoch : Nat) : State :=
  liveIn { liveSeq with tier := .dim, moving := some .fetch, dim := some { recordId := 4, epoch := epoch, length := 2 } }

theorem wit_TierMovements :
    ((entryIn (some (.write false))).entry 30).any (fun h => h.moving == some (.write false)) = true ∧
    gives (exec (.dimWriteComplete (.entry 30)) (entryIn (some (.write false)))) (fun t => (t.entry 30).any (fun h => h.tier == .both && h.moving.isNone)) = true ∧
    gives (exec (.dimWriteComplete (.seq 0)) (liveIn { liveSeq with moving := some (.write false) })) (fun t =>
      (t.live 0).any (fun q => q.tier == .both && q.moving.isNone)) = true ∧
    gives (exec (.dimWriteComplete (.seq 0)) (liveIn { liveSeq with moving := some (.write true) })) (fun t =>
      (t.live 0).any (fun q => q.tier == .dim && q.moving.isNone && q.ownBlocks.isEmpty)) = true ∧
    same (exec (.dimWriteComplete (.seq 0)) (liveIn { liveSeq with moving := some (.write true), dimAsked := true }))
      (.next (liveIn { liveSeq with moving := some (.write true), dimAsked := true })) = true ∧
    ((entryIn (some .fetch)).readBackStands (fetchedAs (.entry 30) 6 1) = true ∧ (entryIn (some .fetch)).dmaPending (.dimFetch (.entry 30)) = false ∧
      (fetching 1).readBackStands (fetchedAs (.seq 0) 4 1) = true) ∧
    ((fetching 2).epochHeld (.seq 0) = false ∧ (fetching 2).moveOf (.seq 0) = some .fetch ∧
      (fetching 1).readBackStands (fetchedAs (.seq 0) 5 1) = false ∧ (fetching 1).readBackStands { fetchedAs (.seq 0) 4 1 with frames := [] } = false) ∧
    gives (exec (.dimFetchComplete (fetchedAs (.seq 0) 4 2)) (fetching 2))
      (fun t => (t.live 0).any (fun q => q.ended == some (.sealFail, ⟨1000, 0⟩))) = true ∧
    gives (exec (.dimFetchComplete (fetchedAs (.seq 0) 5 1)) (fetching 1))
      (fun t => (t.live 0).any (fun q => q.ended == some (.sealFail, ⟨1000, 0⟩))) = true ∧
    gives (exec (.dimReadBackFail 4 (.seq 0)) (fetching 1))
      (fun t => (t.live 0).any (fun q => q.ended == some (.sealFail, ⟨1000, 4⟩)) && t.cnt.dimSealFails == 1) = true ∧
    gives (exec (.dimFetchComplete (fetchedAs (.entry 30) 6 1)) (entryIn (some .fetch))) (fun t => (t.entry 30).any (fun h =>
      h.tier == .both && h.moving.isNone && h.lastToken == 3)) = true ∧
    gives (exec (.dimFetchComplete (fetchedAs (.seq 0) 4 1)) (fetching 1)) (fun t =>
      (t.live 0).any (fun q => q.tier == .bright && q.moving.isNone && q.dim.isNone)) = true ∧
    (entryIn none).entryBright { liveSeq with entry := some 30 } = true ∧
    gives (exec (.partialBlockCopyComplete 0) (entryIn none)) (fun t =>
      (t.live 0).any (fun q => q.kv == [{ pos := 1, vScale := 9 }] && !q.copyPending)) = true ∧
    gives (exec (.dimReadBackFail 4 (.entry 30)) (entryIn (some .fetch))) (fun t => (t.entry 30).isNone
      && (t.live 0).any (fun q => q.ended == some (.sealFail, ⟨1000, 4⟩))) = true := by
  decide +kernel

/-! Queues and rings. -/

/-- A segment notice queue that the host owns, in NORMAL. -/
def hostQ : WordQ := { hold := false, owner := true, lastData := 88 }

/-- The block of one segment with a notice queue. -/
def withQ (q : WordQ) : State := one.onSeg 0 (fun g => { g with nq := q })

/-- What a queue was before a push in cycle 7 of beat 1,000. -/
def markOf (words : List QWord) : PushMark := { stamp := ⟨1000, 7⟩, word := { data := 5, eor := true, p := true }, words := words }

theorem wit_NoticeQueues :
    ((withQ hostQ).segUp 0 = true ∧ hostQ.owner = true ∧ hostQ.hold = false ∧ 1 ≤ hostQ.cap ∧ hostQ.stalled = [] ∧ hostQ.answers = [] ∧ (withQ hostQ).takesReq 0 3 = true ∧
      hostQ.pushed = none ∧ ((withQ hostQ).onCycle 7).now = ⟨1000, 7⟩) ∧
    gives (exec (.qdataRead ⟨7, 0, 3⟩) (withQ { hostQ with words := [{ data := 5, eor := true, p := true }, { data := 6 }] })) (fun t =>
      (t.seg 0).port.rspData == 5 && (t.seg 0).nq.words == [{ data := 6 }] && (t.seg 0).nq.lastEor) = true ∧
    same (exec (.qdataRead ⟨7, 0, 3⟩) (withQ { hostQ with owner := false })) (.next ((((withQ { hostQ with owner := false }).onCycle 7).acceptReq 0 3).respond 0 0 0)) = true ∧
    gives (exec (.qdataRead ⟨7, 0, 3⟩) (withQ hostQ)) (fun t => (t.seg 0).port.rspData == 88 && (t.seg 0).nq.underrun && (t.seg 0).nq.lastUnderrun) = true ∧
    gives (exec (.qdataRead ⟨7, 0, 3⟩) (withQ { hostQ with hold := true })) (fun t => (t.seg 0).nq.stalled == [⟨⟨1000, 7⟩, 0, 3⟩]
      && (t.seg 0).port.busy == [3]) = true ∧
    gives (exec (.qdataRead ⟨7, 0, 3⟩) (withQ { hostQ with hold := true, stalled := [⟨⟨1000, 6⟩, 0, 2⟩] })) (fun t =>
      (t.seg 0).nq.stalled == [⟨⟨1000, 6⟩, 0, 2⟩, ⟨⟨1000, 7⟩, 0, 3⟩]) = true ∧
    gives (exec (.qdataRead ⟨7, 0, 3⟩) (withQ { hostQ with words := [{ data := 4 }, { data := 5, eor := true, p := true }], pushed := some (markOf [{ data := 4 }]) }))
      (fun t => (t.seg 0).port.rspData == 4 && (t.seg 0).nq.words == [{ data := 5, eor := true, p := true }]) = true ∧
    gives (exec (.qdataRead ⟨7, 0, 3⟩) (withQ { hostQ with hold := true, words := [{ data := 5, eor := true, p := true }], pushed := some (markOf []) }))
      (fun t => (t.seg 0).port.rspData == 5 && (t.seg 0).nq.words.isEmpty) = true ∧
    gives (exec (.qdataRead ⟨7, 0, 3⟩) (withQ { hostQ with words := [{ data := 5, eor := true, p := true }], pushed := some (markOf []) }))
      (fun t => (t.seg 0).port.rspData == 88 && (t.seg 0).nq.words.length == 1 && (t.seg 0).nq.lastUnderrun) = true ∧
    (800 + (withQ hostQ).glob.holdLimit ≤ (withQ hostQ).time.beat) ∧
    gives (exec (.holdReadTimeout 0) ((withQ { hostQ with hold := true, stalled := [⟨⟨800, 9⟩, 0, 2⟩, ⟨⟨999, 0⟩, 0, 5⟩] }).onSeg 0 (fun g =>
        { g with port := { g.port with busy := [2, 5] } }))) (fun t =>
      (t.seg 0).nq.stalled == [⟨⟨999, 0⟩, 0, 5⟩] && (t.seg 0).port.rspTag == 2 && (t.seg 0).port.busy == [5] && (t.seg 0).nq.lastTimeout && (t.seg 0).port.rspData == 88) = true ∧
    gives (exec (.qcontrolWrite ⟨7, 0, 3⟩ (packMsb [(5, 0), (11, 2000), (5, 0), (11, 1023), (32, 3)])) (withQ { hostQ with words := [{ data := 5 }] })) (fun t =>
      (t.seg 0).nq.hold && (t.seg 0).nq.words.isEmpty && (t.seg 0).nq.newMarks == some (⟨1000, 7⟩, 1024, 1023)
        && (t.seg 0).nq.high == 768) = true ∧
    gives (exec (.qcontrolWrite ⟨7, 0, 3⟩ (packMsb [(5, 0), (11, 0), (5, 0), (11, 7), (32, 0)])) (withQ { hostQ with hold := true })) (fun t =>
      !(t.seg 0).nq.hold && (t.seg 0).nq.newMarks == some (⟨1000, 7⟩, 1, 0)) = true ∧
    gives (exec (.queueFlush ⟨7, 0, 3⟩) (withQ { hostQ with words := [{ data := 5 }], lost := 2 })) (fun t =>
      (t.seg 0).nq.words.isEmpty && (t.seg 0).nq.tornNext && (t.seg 0).nq.lost == 2) = true ∧
    gives (exec (.queueFlush ⟨7, 0, 3⟩) (withQ
        { hostQ with words := [{ data := 4 }, { data := 5, eor := true, p := true }], pushed := some (markOf [{ data := 4 }]) })) (fun t =>
      (t.seg 0).nq.words.map (fun w => (w.data, w.torn)) == [(5, true)] && !(t.seg 0).nq.tornNext) = true ∧
    gives (exec (.qstatusClear ⟨7, 0, 3⟩ 0x500) (withQ { hostQ with lostLatched := true, underrun := true, highLatched := true, lowLatched := true })) (fun t =>
      !(t.seg 0).nq.lostLatched && (t.seg 0).nq.underrun && !(t.seg 0).nq.highLatched && (t.seg 0).nq.lowLatched) = true ∧
    gives (exec (.qstatusClear ⟨7, 0, 3⟩ 0x500) (withQ { hostQ with highLatched := true, highAt := some { stamp := ⟨1000, 7⟩, raised := true } })) (fun t =>
      (t.seg 0).nq.highLatched) = true := by
  decide +kernel

/-- A push on a full queue of two words: the oldest is lost, and where it did not end its record the next is torn (R285). -/
theorem wit_NoticeQueues_pushed :
    (qPush ⟨1000, 7⟩ 9 true { cap := 2, words := [{ data := 1 }, { data := 2, eor := true, p := true }] }).words.map
      (fun w => (w.data, w.eor, w.torn)) = [(2, true, true), (9, true, false)] ∧
    (qPush ⟨1000, 7⟩ 9 true { cap := 2, words := [{ data := 1, eor := true }, { data := 2 }], lost := 2 ^ 32 - 1 }).lost = 2 ^ 32 - 1 ∧
    (qPush ⟨1000, 7⟩ 9 true { cap := 2, words := [{ data := 1, eor := true }, { data := 2 }] }).words.map (fun w => (w.data, w.torn)) =
      [(2, false), (9, false)] ∧
    (qPush ⟨1000, 7⟩ 9 true { cap := 2, words := [{ data := 1 }] }).words.length = 2 ∧
    (qPush ⟨1000, 7⟩ 9 true { cap := 2, words := [{ data := 1 }] }).lost = 0 := by
  decide +kernel

/-- Four words of a notice of code 4 and scope BLOCK, as a queue holds them. -/
def noticeQ : WordQ :=
  { hold := false, words := [{ data := packMsb [(8, 0), (8, 4), (4, 1), (44, 0)] }, {}, {}, { eor := true }, { data := 9 }] }

/-- An NTC ring that admits every code. -/
def ntcRing : Ring := { ringOf 3 with kindMask := 0xFFFF, partMask := 0xFFFF }

theorem wit_NoticeQueues_drained :
    ((withQ noticeQ).mgrUp = true ∧ (withQ noticeQ).roles.recovering = none ∧ ((withQ noticeQ).onCycle 7).drainTurn = some 0 ∧ noticeQ.owe = [] ∧
      (withQ noticeQ).owesNothing = true ∧ (withQ noticeQ).roles.announce = false ∧ noticeQ.answers = [] ∧
      noticeQ.hasRecord = true ∧ (withQ noticeQ).rings = []) ∧
    gives (exec (.noticeDrain ⟨7, 0⟩) (withQ noticeQ)) (fun t => (t.seg 0).nq.words == [{ data := 9 }] && t.cnt.unrouted == 1) = true ∧
    (((withQ noticeQ).setRing 6 ntcRing).admitting (packMsb [(8, 0), (8, 4), (4, 1), (44, 0)]) = [6] ∧
      (((withQ noticeQ).setRing 6 ntcRing).onCycle 7).drainTurn = some 0 ∧ ntcRing.depth + ntcRing.writing.length + 4 ≤ ntcRing.entries) ∧
    gives (exec (.noticeDrain ⟨7, 0⟩) ((withQ noticeQ).setRing 6 ntcRing)) (fun t => (t.seg 0).nq.words == [{ data := 9 }]
      && (t.ring 6).words == 4 && (t.ring 6).writing.length == 4 && t.cnt.unrouted == 0) = true := by
  decide +kernel

/-- The block of one segment with a ring 2. -/
def withRing (r : Ring) : State := one.setRing 2 r

theorem wit_Rings :
    ((withRing (ringOf 0)).takesDoorbell 2 = true ∧ doorbellOk 1 64 (ringOf 0) = true ∧ doorbellOk 1 65 (ringOf 0) = false) ∧
    gives (exec (.produce 3 2 64) (withRing (ringOf 0))) (fun t => (t.ring 2).tail == 64 && (t.ring 2).dbErrors == 0) = true ∧
    gives (exec (.produce 3 2 64) { withRing (ringOf 0) with power := { one.power with hush := 1 } }) (fun t =>
      t.power.hush == 2 && t.power.wakeAt == 1050 && (t.ring 2).tail == 64) = true ∧
    ((5 + 2 ^ 32 - 2) % 2 ^ 32 ≤ ({ ringOf 1 with head := 2, tail := 5 } : Ring).depth) ∧
    gives (exec (.consume 3 2 5) (withRing { ringOf 1 with head := 2, tail := 5 })) (fun t => (t.ring 2).head == 5 && (t.ring 2).tail == 5) = true ∧
    (({ ringOf 3 with head := 5, tail := 7 } : Ring).depth < (4 + 2 ^ 32 - 5) % 2 ^ 32 ∧ (5 + 2 ^ 32 - 4) % 2 ^ 32 ≤ (ringOf 3).entries) ∧
    same (exec (.consume 3 2 4) (withRing { ringOf 3 with head := 5, tail := 7 }))
      (.next ((withRing { ringOf 3 with head := 5, tail := 7 }).given ⟨1000, 3⟩)) = true ∧
    gives (exec (.ringFlush 3 2) (withRing { ringOf 3 with tail := 5 })) (fun t => (t.ring 2).head == 5 && (t.ring 2).tornNext) = true ∧
    gives (exec (.doorbellReservedOp 3 2 16 0) (withRing (ringOf 0))) (fun t => (t.ring 2).dbErrors == 1 && (t.ring 2).dbError) = true ∧
    doorbellOk 2 6 { ringOf 1 with head := 2, tail := 5 } = false ∧
    gives (exec (.consume 3 2 6) (withRing { ringOf 1 with head := 2, tail := 5 })) (fun t => (t.ring 2).dbErrors == 1 && (t.ring 2).head == 2) = true ∧
    gives (exec (.produce 3 2 65) (withRing (ringOf 0))) (fun t => (t.ring 2).dbErrors == 1 && (t.ring 2).tail == 0) = true ∧
    gives (exec (.ringFlush 3 2) (withRing { ringOf 1 with tail := 5 })) (fun t => (t.ring 2).dbErrors == 1 && (t.ring 2).head == 0) = true ∧
    gives (exec (.ringFlush 3 2) (withRing { ringOf 3 with enable := false })) (fun t => (t.ring 2).dbErrors == 1) = true ∧
    gives (exec (.ringContextWrite 2 13 (packMsb [(2, 1), (1, 1), (1, 0), (5, 20), (11, 9), (28, 0), (16, 5)])) (withRing { ringOf 1 with head := 3 }))
      (fun t => (t.ring 2).head == 3 && (t.ring 2).vector == 9 && (t.ring 2).modBt == 5 && (t.ring 2).sizeLog2 == (ringOf 1).sizeLog2) = true ∧
    ((withRing {}).takesContext 2 = true ∧ bits 59 55 (packMsb [(2, 1), (1, 1), (1, 1), (5, 20), (55, 0)]) = 20) ∧
    gives (exec (.ringEnable 2 (packMsb [(2, 1), (1, 1), (1, 1), (5, 20), (55, 0)])) (withRing { head := 3 })) (fun t =>
      (t.ring 2).enable && (t.ring 2).kind == 1 && (t.ring 2).sizeLog2 == 20 && (t.ring 2).head == 0) = true ∧
    gives (exec (.ringEnable 2 (packMsb [(2, 1), (1, 1), (1, 1), (5, 21), (55, 0)])) (withRing {})) (fun t =>
      !(t.ring 2).enable && (t.ring 2).dbError) = true ∧
    (withRing (ringOf 1)).ringInUse 2 = false ∧
    gives (exec (.ringDisable 2 0) (withRing (ringOf 1))) (fun t => !(t.ring 2).enable) = true ∧
    (serving.onPart 0 (fun p => { p with lcQueue := [queued] })).ringInUse 2 = true ∧
    gives (exec (.ringDisable 2 0) waitingIn) (fun t => (t.ring 2).enable && (t.ring 2).dbError) = true ∧
    gives (exec (.ringContextWrite 2 15 4096) (withRing {})) (fun t => (t.ring 2).base == 4096) = true ∧
    gives (exec (.ringContextWrite 2 15 8192) (withRing (ringOf 1))) (fun t => (t.ring 2).base == 4096) = true ∧
    gives (exec (.ringContextWrite 2 12 (packMsb [(16, 65535), (16, 3), (16, 1), (16, 0)])) (withRing {})) (fun t =>
      (t.ring 2).pauseBt == 60000 && (t.ring 2).kindMask == 3 && (t.ring 2).partMask == 1) = true ∧
    gives (exec (.ringContextWrite 2 9 77) (withRing (ringOf 1))) (fun t => t.rings == (withRing (ringOf 1)).rings) = true := by
  decide +kernel

/-- The block of one segment with a ring 2 and credits to spare at its port. -/
def wired (r : Ring) : State := (withRing r).onSeg 0 (fun g => { g with port := { g.port with reqCredit := 8, wdCredit := 64 } })

/-- A failed write of entry 3 of ring 2, from an earlier beat. -/
def failedReq : DmaReq := { tag := 4, write := true, addr := 4288, beats := 1, what := .ringRecord 2 3, len := 64 }

theorem wit_RingServices :
    ((wired { ringOf 1 with wbDue := true, raiseDue := true, toCover := [{ kind := .answer }] }).tornPending 2 = false ∧
      (wired (ringOf 1)).dmaSeg (wired (ringOf 1)).mgr = 0 ∧ (wired (ringOf 1)).hasSeg 0 = true) ∧
    gives (exec (.indexWriteback 2) (wired { ringOf 1 with wbDue := true, raiseDue := true, toCover := [{ kind := .answer }], tail := 3 })) (fun t =>
      !(t.ring 2).wbDue && ((t.seg 0).port.issued.map (fun r => (r.what, r.data))) == [(.writeBack 2 true [{ kind := .answer }], 3)]) = true ∧
    same (exec (.indexWriteback 2) ((wired { ringOf 1 with wbDue := true }).onSeg 0 (fun g =>
        { g with port := { g.port with issued := [{ what := .writeBack 2 false [] }] } })))
      (.next ((wired { ringOf 1 with wbDue := true }).onSeg 0 (fun g => { g with port := { g.port with issued := [{ what := .writeBack 2 false [] }] } }))) = true ∧
    gives (exec (.modIntervalEnd 2) (wired { ringOf 1 with heldRaise := true, lastPulse := some 980, modBt := 20, vector := 7 })) (fun t =>
      t.vectors.pending == [7] && (t.ring 2).lastPulse == some 1000) = true ∧
    gives (exec .eventVectorTransfer { one with vectors := { pending := [3, 9], lastSent := 5 } }) (fun t =>
      t.vectors.lastSent == 9 && t.vectors.pending == [3]) = true ∧
    (({ ringOf 1 with backlog := [{ kind := .answer }] } : Ring).hasRoom = true) ∧
    gives (exec (.ringBacklogWrite 2) (wired { ringOf 1 with backlog := [{ kind := .answer, data := 5 }], tail := 63 })) (fun t =>
      (t.ring 2).backlog.isEmpty && (t.ring 2).writing.length == 1) = true ∧
    gives (exec (.ringPause 0) ({ liveSeq with backlog := [{ due := ⟨900, 0⟩ }] } |> liveIn |> (fun s => s.setRing 3 { ringOf 2 with pauseBt := 100 }))) (fun t =>
      (t.live 0).any (·.pausedRing) && (t.ring 3).pausing && t.cnt.ringPauses == 1) = true ∧
    failedWrite 1000 4 { one.segs.headD {} with port := { retry := [(999, failedReq)] } }.port = some (999, failedReq) ∧
    gives (exec (.ringWriteRetry 0 4) ((wired { ringOf 1 with writing := [{ kind := .answer, idx := 3, failed := true }] }).onSeg 0 (fun g =>
      { g with port := { g.port with retry := [(999, failedReq)] } }))) (fun t => (t.seg 0).port.retry.isEmpty
      && (t.ring 2).writing == [{ kind := .answer, idx := 3 }] && ((t.seg 0).port.issued.map (·.what)) == [.ringRecord 2 3]) = true ∧
    same (exec (.ringWriteRetry 0 4) ({ one with roles := { one.roles with selfFenced := true } }.onSeg 0 (fun g =>
        { g with port := { g.port with retry := [(999, failedReq)] } })))
      (.next ({ one with roles := { one.roles with selfFenced := true } }.onSeg 0 (fun g =>
        { g with port := { g.port with retry := [(999, failedReq)] } }))) = true := by
  decide +kernel

/-! Screening. -/

/-- A TOKEN rule set in slot 2, of one state and no match. -/
def tokenRules : RuleSet := { plain := { header := 1 * 2 ^ 484 } }

/-- A sequence with an output stream on that rule set, that has given three tokens. -/
def screenedSeq : Sequence :=
  { liveSeq with outputs := [1, 2, 0], autos := [{ slot := 2, out := true, next := 1, found := [(1, 2, { act := 2 })] }],
                 hold := [{ token := 1, idx := 0, due := ⟨1001, 0⟩ }, { token := 2, idx := 1, due := ⟨1001, 0⟩ }],
                 groups := [{ id := 1, first := ⟨600, 0⟩ }] }

/-- The block with that sequence, its stream on a lane or in the queue. -/
def snaring (n : Snare) : State :=
  let s := (liveIn screenedSeq).onSeg 0 (fun g => { g with snare := n })
  { s with screen := { s.screen with inForce := [(2, tokenRules)] } }

/-- The stream of that sequence. -/
def snareJob : SnareJob := { seq := 0, slot := 2, out := true }

/-- Every lane of the segment is busy. -/
def fullSnare : State := snaring { lanes := (List.range 64).map (fun m => (m, snareJob)) }

theorem wit_SnareStreams :
    ((snaring {}).mgrUp = true ∧ before ⟨600, 0⟩ (snaring {}).edge = true ∧
      600 + (((snaring {}).part 0).policy.dOut - (snaring {}).screenMin) ≤ (snaring {}).time.beat) ∧
    gives (exec (.groupClose 0) (snaring {})) (fun t => (t.live 0).any (fun q => q.groups.map (·.closed) == [some ⟨1000, 0⟩])) = true ∧
    ((snaring { queue := [snareJob] }).serving 0 = true ∧ ((snaring { queue := [snareJob] }).seg 0).stack.screenCopy = false) ∧
    gives (exec (.snareStreamStart 0) (snaring { queue := [snareJob], lanes := [(0, { seq := 9 })] })) (fun t =>
      (t.seg 0).snare.lanes == [(0, { seq := 9 }), (1, snareJob)] && (t.seg 0).snare.queue.isEmpty) = true ∧
    ((snaring {}).ruleSet 2 = some tokenRules ∧ ((snaring {}).outputUnits screenedSeq tokenRules.plain).length = 3) ∧
    gives (exec (.snareStreamEnd 0 5) (snaring { lanes := [(5, snareJob)] })) (fun t => (t.seg 0).snare.lanes.isEmpty
      && (t.live 0).any (fun q => q.autos.map (·.next) == [3])) = true ∧
    gives (exec (.snareLaneError 0 0) (snaring { lanes := [(0, snareJob)] })) (fun t =>
      (t.seg 0).snare.lanes == [(1, { snareJob with avoid := some 0 })]
      && (t.live 0).any (fun q => q.autos.map (·.next) == [0]) && (t.seg 0).cnt.snareRestarts == 1
      && (t.seg 0).health.uncorrected == 1) = true ∧
    queueJob snareJob { queue := [{ snareJob with avoid := some 0 }] } = { queue := [{ snareJob with avoid := some 0 }] } ∧
    queueJob snareJob { lanes := [(4, { snareJob with avoid := some 0 })] } = { lanes := [(4, { snareJob with avoid := some 0 })] } ∧
    gives (exec (.snareStreamStart 0) (snaring { queue := [{ snareJob with avoid := some 0 }] })) (fun t =>
      (t.seg 0).snare.lanes == [(1, { snareJob with avoid := some 0 })]) = true ∧
    (∀ m < 64, m = 5 ∨ ∃ l ∈ (fullSnare.seg 0).snare.lanes, l.1 = m) ∧
    gives (exec (.snareLaneError 0 5) fullSnare) (fun t => (t.seg 0).snare.lanes.length == 63
      && (t.seg 0).snare.queue == [{ snareJob with avoid := some 5 }]) = true ∧
    gives (exec (.snareLaneError 0 5) (snaring
        { lanes := (List.range 64).map (fun m => (m, { snareJob with out := false })), queue := [{ seq := 7, out := true }, { seq := 8 }] })) (fun t =>
      (t.seg 0).snare.queue.map (fun j => (j.seq, j.out)) == [(7, true), (0, false), (8, false)]) = true ∧
    gives (exec (.snareMatchReport 0) (snaring {})) (fun t => (t.live 0).any (fun q =>
      q.hold.map (fun h => h.found.map (·.act)) == [[2], [2]] && q.autos.map (·.reported) == [1])) = true := by
  decide +kernel

/-- A sequence whose input verdict is due. -/
def dueInput : Sequence := { liveSeq with released := false, inDue := ⟨1000, 3⟩ }

/-- A sequence whose input has not been classified. -/
def unclassified : State := (liveIn dueInput).onPart 0 (fun p => { p with policy := { p.policy with inClassifier := 5 } })

/-- A sequence with two tokens due, of the severities given. -/
def dueTokens (a b : Nat) : Sequence :=
  { liveSeq with hold := [{ token := 1, idx := 0, due := ⟨1000, 3⟩, found := [{ act := a }] },
                          { token := 2, idx := 1, due := ⟨1000, 3⟩, found := [{ act := b }] }, { token := 0, idx := 2, due := ⟨1001, 0⟩ }] }

/-- A sequence for results alone whose plan is over with two candidates, its input verdict due. -/
def resultSeq : Sequence :=
  { dueInput with req := { queued with params := { greedy with maxTokens := 0 },
                                       retr := some { indexId := 4, scanK := 5, resultN := 5, resultOnly := true } },
                  plan := some { stage := .done, cands := [{ ref := 5, score := 9 }, { ref := 6, score := 8 }], endedAt := some ⟨998, 0⟩ } }

theorem wit_Releases :
    ((liveIn dueInput).nextDue ⟨1000, 10 % 5000⟩ = some ⟨1000, 3⟩ ∧ (liveIn dueInput).inputReady dueInput = true ∧
      ((liveIn dueInput).inputVerdict dueInput).1 = 0 ∧ dueInput.plan = none ∧ dueInput.req.params.maxTokens ≠ 0) ∧
    gives (exec (.release 10) (liveIn dueInput)) (fun t => (t.live 0).any (·.released) && t.cnt.inputVerdicts == 1) = true ∧
    unclassified.inputReady dueInput = false ∧
    gives (exec (.release 10) unclassified) (fun t => (t.live 0).any (fun q => q.verdict.late && !q.released) && t.cnt.lateIn == 1) = true ∧
    ((liveIn dueInput).inputVerdict { dueInput with verdict := { found := [{ act := 3 }] } }).1 = 3 ∧
    gives (exec (.release 10) (liveIn { dueInput with verdict := { found := [{ act := 3 }] } })) (fun t =>
      (t.live 0).any (fun q => q.ended == some (.screenBlock, ⟨1000, 3⟩)) && t.cnt.inputBlocks == 1) = true ∧
    ((liveIn (dueTokens 0 2)).nextDue ⟨1000, 10 % 5000⟩ = some ⟨1000, 3⟩ ∧
      (dueTokens 0 2).hold.all (fun h => h.due != ⟨1000, 3⟩ || (liveIn (dueTokens 0 2)).heldReady (dueTokens 0 2) h) = true) ∧
    gives (exec (.release 10) (liveIn (dueTokens 0 2))) (fun t => (t.live 0).any (fun q => q.delivered == 2 && q.hold.map (·.idx) == [2])
      && t.cnt.redacted == 1) = true ∧
    ((dueTokens 0 1).hold.all (fun h => worst h.found ≤ 1) = true ∧ ((liveIn (dueTokens 0 1)).ring 3).hasRoom = true ∧
      ((liveIn (dueTokens 0 1)).ring 3).kind = 2 ∧ (dueTokens 0 1).inputMark = none ∧ (dueTokens 0 1).backlog = []) ∧
    gives (exec (.release 10) (liveIn (dueTokens 0 1))) (fun t => (t.live 0).any (fun q => q.delivered == 2 && q.hold.length == 1)
      && (t.ring 3).writing.length == 1) = true ∧
    gives (exec (.release 10) (liveIn resultSeq)) (fun t => (t.live 0).any (fun q => q.ended == some (.ok, ⟨1000, 3⟩))
      && (t.ring 3).writing.length == 1) = true ∧
    gives (exec (.release 10) (liveIn (dueTokens 3 0))) (fun t => (t.live 0).any (fun q => q.ended == some (.screenStop, ⟨1000, 3⟩)
      && q.hold.isEmpty) && t.cnt.outputStops == 1) = true ∧
    gives (exec (.lateRelease 10) (liveIn { dueInput with inDue := ⟨990, 0⟩, verdict := { late := true } })) (fun t =>
      (t.live 0).any (·.released) && t.cnt.lateBeats == 10) = true := by
  decide +kernel

/-! Retrieval. -/

/-- A retrieval request. -/
def retrReq : Request := { queued with retr := some { indexId := 4, scanK := 5, rerankN := 0, packMax := 2 } }

/-- A sequence with a plan in a stage. -/
def planSeq (pl : Plan) : Sequence := { liveSeq with req := retrReq, plan := some { pl with indexId := 4 } }

/-- The block with that sequence. -/
def planning (pl : Plan) (g : Segment → Segment) : State := (liveIn (planSeq pl)).onSeg 0 g

/-- Passage 3 of region 1, its directory entry of two tokens, and the header of its record (R249, R250). -/
def passageRef : Nat := 1 * 2 ^ 56 + 3

@[inherit_doc passageRef]
def passageEntry : Nat := 1 * 2 ^ 76

@[inherit_doc passageRef]
def passageHeader : Nat := 0x4B54 * 2 ^ 496 + 1 * 2 ^ 488 + 3 * 2 ^ 432 + 1 * 2 ^ 420

/-- A plan with two candidates to fetch, the first with its directory entry. -/
def fetchPlan : Plan :=
  { stage := .fetch, cands := [{ ref := passageRef, score := 9, entry := some passageEntry }, { ref := 2, score := 8 }] }

/-- The block with that plan, its region and the region's key. -/
def archived : State :=
  let s := planning fetchPlan id
  { s with glob := { s.glob with regions := [{ region := 1, keySlot := 4 }], spanPartition := 0 }, trust := { s.trust with archive := [(4, 9)] } }

/-- What a span manager asks of this worker. -/
def spanAsk : SpanAsk := { id := 6, session := 2, ref := passageRef, entry := some passageEntry }

@[inherit_doc spanAsk]
def workerAsked : State := { archived with span := { asks := [spanAsk] } }

/-- A plan that waits for workers, of a request for results only. -/
def mergePlan : Sequence :=
  { planSeq { stage := .spanWait, cands := [{ ref := 1, score := 0x3F800000 }], spanList := [(77, 2, 0x40000000)], asked := [77], deadline := 1000 } with
    released := false, req := { retrReq with retr := some { indexId := 4, scanK := 5, resultOnly := true } } }

theorem wit_RetrievalStages :
    ((planning { stage := .probe } id).partSegs 0 = [0] ∧ (planning { stage := .probe } id).serving 0 = true) ∧
    gives (exec (.probeListReceive 0 0) (planning { stage := .probe } id)) (fun t => (t.planOf 0).any (fun pl => pl.stage == .scan && pl.probed == [0])
      && (t.seg 0).scanQueue == [0]) = true ∧
    gives (exec (.scanGroupStart 0) (planning {} (fun g => { g with scanQueue := List.range 9 }))) (fun t =>
      (t.seg 0).scanGroup.map (·.members) == some (List.range 8) && (t.seg 0).scanQueue == [8]) = true ∧
    gives (exec (.scanGroupStart 0) (planning {} (fun g => { g with scanQueue := [0] }))) (fun t =>
      (t.seg 0).scanGroup.map (·.members) == some [0] && (t.seg 0).scanWin == (planning {} id).scanWindow 0
        && (t.seg 0).scanSpent == tableLoadBytes) = true ∧
    gives (exec (.scanGroupEnd 0 ⟨40, 70, 0⟩) (planning { stage := .scan } (fun g => { g with scanGroup := some { members := [0] } }))) (fun t =>
      (t.planOf 0).any (fun pl => (aGet 0 pl.segLists).isSome) && (t.seg 0).scanGroup.isNone && (t.seg 0).cnt.scanHeld == 70) = true ∧
    gives (exec (.scanHeapMerge 0) (planning { stage := .scan, asked := [77], lutScale := 0x40000000, segLists := [(0, [{ score := 3, ref := 8 }, { score := 5, ref := 6 }])] } id))
      (fun t => (t.planOf 0).any (fun pl => pl.stage == .spanWait && pl.cands.map (fun c => (c.ref, c.score)) == [(6, 0x41200000), (8, 0x40C00000)])) = true ∧
    gives (exec (.spanMerge 0) (liveIn mergePlan)) (fun t => (t.planOf 0).any (fun pl => pl.stage == .done && pl.cands.map (·.ref) == [2, 1])) = true ∧
    (archived.passagePending 0 0 = false ∧ (0 < fetchCount ({ packMax := 2 } : Retr) ∧ 1 < fetchCount ({ packMax := 2 } : Retr)) ∧
      archived.region passageRef = some { region := 1, keySlot := 4 } ∧
      archived.recordStands { region := 1, keySlot := 4 } passageRef passageEntry passageHeader [1, 2] = true ∧
      ([1, 2].all (fun w => w < archived.passageVocab (planSeq fetchPlan) fetchPlan) = true) ∧
      archived.storeFits (archived.placeSeg 0 0) 8 = true ∧ archived.hasSeg (archived.placeSeg 0 0) = true ∧ archived.placeSeg 0 0 = 0) ∧
    gives (exec (.passageFetchComplete (.cand 0) 0 (.opened passageHeader [1, 2])) archived) (fun t => (t.planOf 0).any (fun pl => pl.stage == .fetch
      && pl.cands.map (·.state) == [.stored, .waiting]) && (t.seg 0).passageUsed == 8) = true ∧
    archived.recordStands { region := 1, keySlot := 4 } passageRef passageEntry passageHeader [1, 2, 1] = false ∧
    ([.dmaError, .tagFail, .opened passageHeader [1, 2, 1]].all (fun r =>
      gives (exec (.passageFetchComplete (.cand 0) 0 r) archived) (fun t => (t.planOf 0).any (fun pl =>
        pl.cands.map (·.state) == [.dropped, .waiting]) && t.cnt.fetchFails == 1)) = true) ∧
    (workerAsked.span.asks.find? (fun x => x.id == 6 && x.sent.isNone) = some spanAsk ∧ workerAsked.dmaPending (.askDirectory 6) = false ∧
      workerAsked.dmaPending (.askPassage 6) = false ∧ workerAsked.storeFits 0 8 = true ∧ workerAsked.workerVocab = some 4) ∧
    gives (exec (.passageFetchComplete (.ask 6) 0 (.opened passageHeader [1, 2])) workerAsked) (fun t =>
      t.span.asks.map (fun a => (a.sent.isSome, a.bytes)) == [(true, 8)] && (t.seg 0).passageUsed == 8 && t.cnt.fetchFails == 0) = true ∧
    gives (exec (.passageFetchComplete (.ask 6) 0 .tagFail) workerAsked) (fun t => t.span.asks.isEmpty && t.cnt.fetchFails == 1) = true := by
  decide +kernel

/-! Object access. -/

/-- The path of the management controller, and the officer's. -/
def bmc : Path := { ep := .pcie }
/-- A secured session of an officer. -/
def officer : Path := { ep := .pcie, session := some 3 }

/-- A block whose officer session stands. -/
def managed (s : State) : State :=
  { s with trust := { s.trust with sessions := [{ id := 3, ep := .pcie, officer := true, established := true }] } }

/-- The block of one segment with that session. -/
def mgd : State := managed one

/-- The words of the answer that stands in the outbound queue. -/
def said (t : State) : List Nat := (t.outQueue .pcie).words.map (·.data)

/-- A block with an open transfer of the controller. -/
def moving (t : Transfer) : State := mgd.onEp .pcie (fun x => { x with transfers := [t] })

/-- A read of 60 bytes, of which some have moved. -/
def readOf (moved : Nat) : Transfer := { id := 4, index := 0x2000, sub := 5, principal := .bmc, data := List.range 60, total := 60, moved := moved, toggle := moved != 0 }

/-- A message that stands in queue 1 of the window. -/
def inWindow (words : List Nat) (s : State) : State :=
  s.onEp .window (fun x => { x with inq := { x.inq with words := words.dropLast.map (fun w => { data := w, p := parityOf w false false }) ++
    [{ data := words.getLastD 0, eor := true, p := parityOf (words.getLastD 0) true false }] } })

/-- The words of a queue. -/
def dataOf (q : WordQ) : List Nat := q.words.map (·.data)

/-- The window's path. -/
def win : Path := { ep := .window }

/-- The header of an indirect read, and of one of a single-word entry. -/
def indHead : OamHead := { transfer := 4, index := 0x1100, sub := 2, indirect := true }

/-- The block whose segment 2 is lost to its manager, and the path of that segment's target. -/
def apart : State := five.onSeg 2 (fun g => { g with state := .lost })

@[inherit_doc apart]
def lonely : Path := { ep := .i3c 2 }

/-- That target's own read of a longer entry. -/
def aloneRead : State := apart.onEp (.i3c 2) (fun x => { x with transfers := [{ id := 4, index := 0x1009, principal := .bmc, data := List.range 60, total := 60, alone := true }] })

/-- The read of a transfer that has ended, with its last answer. -/
def endedOf (write : Bool) : DoneTransfer := { id := 4, write := write, principal := .bmc, toggle := true, reply := [7, 8] }

@[inherit_doc endedOf]
def endedState (write : Bool) : State := mgd.onEp .pcie (fun x => { x with ended := [endedOf write] })

theorem wit_IndirectReads :
    ((inWindow (readWords indHead 4096 8) mgd).arrives win (readWords indHead 4096 8) = true ∧
      (mgd.object .driver 0x1100 2).any (fun o => o.data != []) = true) ∧
    gives (exec (.read 0 win indHead 4096 8) (inWindow (readWords indHead 4096 8) mgd)) (fun t =>
      (t.transfer .window 4).any (fun x => !x.write && x.total == 8 && x.indirect == some 4096)
        && (t.inQueue .window).words.isEmpty && !(t.outQueue .window).hasRecord) = true ∧
    gives (exec (.read 0 win indHead 4096 7) (inWindow (readWords indHead 4096 7) mgd)) (fun t =>
      (t.transfer .window 4).isNone && dataOf (t.outQueue .window) == abortWords indHead (abortCode 4 0)) = true ∧
    mgd.arrives bmc (readWords indHead 4096 8) = true ∧
    gives (exec (.read 0 bmc indHead 4096 8) mgd) (fun t => said t == abortWords indHead (abortCode 2 0)) = true := by
  decide +kernel

theorem wit_OwnCopies :
    (apart.reaches_ lonely.ep = false ∧ apart.servedAlone lonely.ep 0x1018 = true ∧ apart.arrives lonely (readWords { index := 0x1018, sub := 1 } 0 0) = true) ∧
    gives (exec (.read 0 lonely { index := 0x1018, sub := 0 } 0 0) apart) (fun t => dataOf (t.seg 2).i3cOut == [oamWord 8 { index := 0x1018 }, 0] ||
      (dataOf (t.seg 2).i3cOut).length == 2) = true ∧
    aloneRead.ofAlone lonely.ep { transfer := 4 } = true ∧
    gives (exec (.segmentRequest 0 lonely { transfer := 4, index := 0x1009 }) aloneRead) (fun t =>
      dataOf (t.seg 2).i3cOut == segmentWords { transfer := 4, index := 0x1009 } false false 0 (List.range 48)) = true ∧
    gives (exec (.abort 0 lonely { transfer := 4 } 9) aloneRead) (fun t => (t.transfer lonely.ep 4).isNone && dataOf (t.seg 2).i3cOut == []) = true ∧
    ((apart.pathOpen lonely.ep = true ∧ apart.epTurn lonely.ep = true ∧ apart.pathStands lonely = true) ∧
      apart.ofAlone lonely.ep { transfer := 4 } = false ∧ apart.arrives lonely [oamWord 7 { transfer := 4 }, 9] = true) ∧
    gives (exec (.abort 0 lonely { transfer := 4 } 9) apart) (fun t => dataOf (t.seg 2).i3cOut == abortWords { transfer := 4 } (abortCode 0xE 0)) = true ∧
    gives (exec (.oamReservedCmd ⟨5, lonely⟩ { transfer := 4 }) apart) (fun t => dataOf (t.seg 2).i3cOut == abortWords { transfer := 4 } (abortCode 0xE 0)) = true ∧
    gives (exec (.oamDiscard ⟨5, lonely⟩ { transfer := 4 } true) apart) (fun t => dataOf (t.seg 2).i3cOut == abortWords { transfer := 4 } (abortCode 0xE 0)) = true := by
  decide +kernel

theorem wit_RepeatedReads :
    (moving (readOf 48)).arrives bmc (requestWords { transfer := 4, index := 0x2000, sub := 5 }) = true ∧
    gives (exec (.segmentRequest 0 bmc { transfer := 4, index := 0x2000, sub := 5 }) (moving (readOf 48))) (fun t =>
      (t.transfer .pcie 4).any (fun x => x.moved == 48 && x.toggle && x.lastBeat == 1000)
        && said t == segmentWords { transfer := 4, index := 0x2000, sub := 5 } false false 0 (List.range 48)) = true ∧
    ((endedState false).ep .pcie).ended.find? (fun d => d.id == 4 && d.write == false && d.toggle == true) = some (endedOf false) ∧
    gives (exec (.segmentRequest 0 bmc { transfer := 4, index := 0x2000, sub := 5, toggle := true }) (endedState false)) (fun t => said t == [7, 8]) = true ∧
    gives (exec (.segmentRequest 0 bmc { transfer := 5 }) (endedState false)) (fun t => said t == abortWords { transfer := 5 } (abortCode 6 0)) = true := by
  decide +kernel

theorem wit_ObjectReads :
    (mgd.arrives bmc (readWords { index := 0x7000, sub := 1 } 0 0) = true ∧ mgd.reaches_ bmc.ep = true ∧
      (mgd.takeIn .pcie (readWords { index := 0x7000, sub := 1 } 0 0)).readBar .bmc 0x7000 1 = some (abortCode 2 0)) ∧
    gives (exec (.read 0 bmc { index := 0x7000, sub := 1 } 0 0) mgd) (fun t => said t == abortWords { index := 0x7000, sub := 1 } (abortCode 2 0)) = true ∧
    (mgd.readBar .bmc 0x2000 3 = none ∧ (mgd.object .bmc 0x2000 3).any (fun o => o.shape.expedited) = true) ∧
    gives (exec (.read 0 bmc { transfer := 4, index := 0x2000, sub := 3 } 0 0) mgd) (fun t =>
      said t == [packMsb [(4, 8), (4, 0), (8, 4), (16, 0x2000), (8, 3), (6, 0), (2, 1), (16, 0)], 1024]) = true ∧
    (mgd.object .bmc 0x1100 2).any (fun o => !o.shape.expedited && o.data != []) = true ∧
    gives (exec (.read 0 bmc { transfer := 4, index := 0x1100, sub := 2 } 0 0) mgd) (fun t => (t.transfer .pcie 4).any (fun x => !x.write && x.total == 8)
      && said t == initiateWords { transfer := 4, index := 0x1100, sub := 2 } false 8) = true ∧
    ((five.onSeg 2 (fun g => { g with state := .lost })).reaches_ (.i3c 2) = false) ∧
    gives (exec (.read 0 { ep := .i3c 2 } { index := 0x2000, sub := 3 } 0 0) (five.onSeg 2 (fun g => { g with state := .lost }))) (fun t =>
      (t.seg 2).i3cOut.words.map (·.data) == abortWords { index := 0x2000, sub := 3 } (abortCode 0xE 0)) = true ∧
    (moving (readOf 0)).arrives bmc (requestWords { transfer := 4, index := 0x2000, sub := 5 }) = true ∧
    gives (exec (.segmentRequest 0 bmc { transfer := 4, index := 0x2000, sub := 5 }) (moving (readOf 0))) (fun t =>
      (t.transfer .pcie 4).any (fun x => x.moved == 48 && x.toggle) && (said t).length == 8) = true ∧
    gives (exec (.segmentRequest 0 bmc { transfer := 4, index := 0x2000, sub := 5, toggle := true }) (moving (readOf 48))) (fun t =>
      (t.transfer .pcie 4).isNone && said t == segmentWords { transfer := 4, index := 0x2000, sub := 5 } true true 48 (List.range' 48 12)) = true := by
  decide +kernel

/-- A write of SPAN_PEERS, of which some have come. -/
def writeOf (moved total : Nat) : Transfer :=
  { id := 4, index := 0x2000, sub := 9, write := true, principal := .bmc, total := total, moved := moved, data := List.range moved, toggle := false }

theorem wit_ObjectWrites :
    (mgd.arrives bmc [oamWord 2 { index := 0x7000, sub := 2 }, 2] = true ∧ mgd.takesAlone bmc { index := 0x7000, sub := 2 } = false ∧
      (mgd.writeBar .bmc 0x7000 2).isSome = true) ∧
    gives (exec (.writeExpedited 5 bmc { index := 0x7000, sub := 2 } 2) mgd) (fun t => said t == abortWords { index := 0x7000, sub := 2 } (abortCode 2 0)) = true ∧
    (mgd.writeBar .bmc 0x2000 3 = none ∧ (mgd.object .bmc 0x2000 3).any (fun o => o.access == .rws && o.shape.size == some 2) = true) ∧
    gives (exec (.writeExpedited 5 bmc { index := 0x2000, sub := 3, size := 1 } 0x20140) mgd) (fun t => t.stagedBy .bmc == [(0x2000, 3, [0x40, 1])]) = true ∧
    ((mgd.object .bmc 0x2000 9).any (fun o => !o.shape.expedited && o.access == .rws) = true ∧ mgd.writeBar .bmc 0x2000 9 = none) ∧
    gives (exec (.writeInitiate 5 bmc { transfer := 4, index := 0x2000, sub := 9 } 24 0) mgd) (fun t => (t.transfer .pcie 4).any (fun x => x.write && x.total == 24)) = true ∧
    (moving (writeOf 0 24)).arrives bmc (clientSegment { transfer := 4, index := 0x2000, sub := 9, count := 20 } 0 (List.range 20)) = true ∧
    gives (exec (.segment 5 bmc { transfer := 4, index := 0x2000, sub := 9, count := 20 } 0 (List.range 20)) (moving (writeOf 0 24))) (fun t =>
      (t.transfer .pcie 4).any (fun x => x.moved == 20 && x.toggle && x.data == List.range 20)) = true ∧
    ((mgd.object .bmc 0x2000 9).any (fun o => !sizeBroken o 0x2000 9 24) = true) ∧
    gives (exec (.segment 5 bmc { transfer := 4, index := 0x2000, sub := 9, count := 4, last := true } 20 [20, 21, 22, 23]) (moving (writeOf 20 24))) (fun t =>
      (t.transfer .pcie 4).isNone && t.stagedBy .bmc == [(0x2000, 9, plainStaged 0x2000 9 (List.range 24))]) = true := by
  decide +kernel

theorem wit_WriteCorners :
    ((mgd.object .bmc 0x2000 3).any (fun o => o.shape.size == some 2) = true) ∧
    gives (exec (.writeExpedited 5 bmc { index := 0x2000, sub := 3, size := 3 } 5) mgd) (fun t =>
      said t == abortWords { index := 0x2000, sub := 3, size := 3 } (abortCode 4 0)) = true ∧
    (inWindow (writeInitWords { transfer := 4, index := 0x2000, sub := 9, indirect := true } 24 4096) mgd).arrives win
      (writeInitWords { transfer := 4, index := 0x2000, sub := 9, indirect := true } 24 4096) = true ∧
    gives (exec (.writeInitiate 5 win { transfer := 4, index := 0x2000, sub := 9, indirect := true } 24 4096)
      (inWindow (writeInitWords { transfer := 4, index := 0x2000, sub := 9, indirect := true } 24 4096) mgd)) (fun t =>
      (t.transfer .window 4).any (fun x => x.write && x.total == 24 && x.indirect == some 4096)) = true ∧
    gives (exec (.writeInitiate 5 bmc { transfer := 4, index := 0x2000, sub := 9, indirect := true } 24 4096) mgd) (fun t =>
      said t == abortWords { transfer := 4, index := 0x2000, sub := 9, indirect := true } (abortCode 2 0)) = true ∧
    gives (exec (.segment 5 bmc { transfer := 4, index := 0x4000, sub := 8, count := 4, last := true } 20 [20, 21, 22, 23])
      (moving { writeOf 20 24 with index := 0x4000, sub := 8 })) (fun t =>
      (t.transfer .pcie 4).any (fun x => x.whole && x.moved == 24 && x.data == List.range 24) && said t == []) = true ∧
    gives (exec (.segment 5 bmc { transfer := 4, index := 0x2000, sub := 9, count := 3, last := true } 20 [20, 21, 22]) (moving (writeOf 20 24))) (fun t =>
      (t.transfer .pcie 4).isNone && t.stagedBy .bmc == [] && said t == abortWords { transfer := 4, index := 0x2000, sub := 9 } (abortCode 4 0)) = true ∧
    gives (exec (.segment 5 bmc { transfer := 4, index := 0x2000, sub := 9, count := 20, toggle := true } 0 (List.range 20)) (moving (writeOf 20 24))) (fun t =>
      (t.transfer .pcie 4).any (fun x => x.moved == 20 && !x.toggle)
        && said t == ackWords { transfer := 4, index := 0x2000, sub := 9, count := 20, toggle := true } 0) = true ∧
    gives (exec (.segment 5 bmc { transfer := 4, count := 1, toggle := true } 0 [1]) (endedState true)) (fun t => said t == [7, 8]) = true ∧
    gives (exec (.segment 5 bmc { transfer := 5, count := 1 } 0 [1]) (endedState true)) (fun t => said t == abortWords { transfer := 5, count := 1 } (abortCode 6 0)) = true := by
  decide +kernel

theorem wit_ObjectEnds :
    (moving (readOf 0)).arrives bmc [oamWord 7 { transfer := 4 }, 9] = true ∧
    gives (exec (.abort 0 bmc { transfer := 4 } 9) (moving (readOf 0))) (fun t => (t.transfer .pcie 4).isNone && said t == []) = true ∧
    (mgd.pathOpen bmc.ep = true ∧ mgd.pathStands bmc = true ∧ bmc.ep ≠ .window) ∧
    gives (exec (.oamReservedCmd ⟨5, bmc⟩ { transfer := 4 }) mgd) (fun t => said t == abortWords { transfer := 4 } (abortCode 5 0)) = true ∧
    gives (exec (.oamDiscard ⟨5, bmc⟩ { transfer := 4 } false) mgd) (fun t => t.cnt.oamDiscards == 1 && said t == []) = true ∧
    gives (exec (.oamDiscard ⟨5, bmc⟩ { transfer := 4 } true) mgd) (fun t => t.cnt.oamDiscards == 1 && said t == abortWords { transfer := 4 } (abortCode 5 0)) = true ∧
    ((readOf 0).lastBeat + 4000 ≤ ({ mgd with time := { mgd.time with beat := 4000 } } : State).time.beat) ∧
    gives (exec (.transferTimeout .pcie 4) { moving (readOf 0) with time := { mgd.time with beat := 4000 } }) (fun t =>
      (t.transfer .pcie 4).isNone && said t == abortWords { transfer := 4, index := 0x2000, sub := 5 } (abortCode 8 0)) = true ∧
    (moving { readOf 0 with indirect := some 64 }).indirectBusy .pcie 4 = false ∧
    gives (exec (.indirectTransferComplete 5 .pcie 4 true []) (moving { readOf 0 with indirect := some 64, failed := true })) (fun t =>
      (t.transfer .pcie 4).isNone && said t == abortWords { transfer := 4, index := 0x2000, sub := 5 } (abortCode 0xF 0)) = true ∧
    gives (exec (.indirectTransferComplete 5 .pcie 4 false []) (moving { readOf 0 with indirect := some 64 })) (fun t =>
      said t == initiateWords { transfer := 4, index := 0x2000, sub := 5 } true 60) = true ∧
    ((mgd.inQueue .window).stalled = [] ∧ (mgd.inQueue .window).words.length < (mgd.inQueue .window).cap) ∧
    gives (exec (.owPush ⟨5, 77⟩) mgd) (fun t => (t.inQueue .window).words.map (fun w => (w.data, w.eor, w.poison)) == [(77, false, false)]) = true ∧
    gives (exec (.owPushLast ⟨5, 78⟩) mgd) (fun t => (t.inQueue .window).words.map (fun w => (w.data, w.eor, w.poison)) == [(78, true, false)]) = true := by
  decide +kernel

/-! Loads. -/

/-- A block that serves partition 0, with a whole transfer of an entry. -/
def loading (index sub total : Nat) : State :=
  (managed serving).onEp .pcie (fun x => { x with transfers := [{ id := 4, index := index, sub := sub, write := true, whole := true, total := total }] })

/-- A program with the CRC of its bytes. -/
def withCrc (p : ProgramImage) : ProgramImage := { p with header := p.header + crc32c p.image }

/-- The check value of CRC-32C: that of the digits 1 to 9. -/
theorem test_crc32c : crc32c [49, 50, 51, 52, 53, 54, 55, 56, 57] = 0xE3069283 := by decide +kernel

/-- A step program as delivered: partition 0, LC, segment 0, a commit descriptor. -/
def deliver (mask : Nat) : ProgramImage :=
  withCrc { header := packMsb [(16, 0x4B53), (8, 3), (8, 2), (16, 9), (4, 0), (1, 0), (3, 0), (20, mask), (16, 1900), (16, 10), (12, 1), (13, 64), (13, 16),
      (6, 0), (16, 1), (24, 0), (32, 48), (32, 0)], slots := [commitSlot] }

/-- Entries of a stream table: STREAM, RESET and initial scale. -/
def streamEntry1 (id reset scale : Nat) : Nat := packMsb [(16, id), (15, 0), (1, reset), (32, scale)]

theorem wit_PartitionLoads :
    ((loading 0x4000 8 48).transfer .pcie 4).isSome = true ∧ (loading 0x4000 8 48).mgrUp = true ∧ (loading 0x4000 8 48).power.hush = 0 ∧
    (((loading 0x4000 8 48).loadTaken 5 bmc 4).programFault 0 48 (deliver 1) = none ∧
      (((loading 0x4000 8 48).loadTaken 5 bmc 4).part 0).program 9 = none) ∧
    gives (exec (.programLoad 5 bmc 4 0 (deliver 1)) (loading 0x4000 8 48)) (fun t => ((t.part 0).program 9).any (fun g => g.wcet == 10)
      && said t == [oamWord 6 { transfer := 4, index := 0x4000, sub := 8 }, 0]) = true ∧
    ((loading 0x4000 8 48).loadTaken 5 bmc 4).programFault 0 48 (deliver 2) = some 0xFFFF ∧
    gives (exec (.programLoad 5 bmc 4 0 (deliver 2)) (loading 0x4000 8 48)) (fun t => ((t.part 0).program 9).isNone
      && said t == abortWords { transfer := 4, index := 0x4000, sub := 8 } 0x9FFFF) = true ∧
    streamTableStands 0 [streamEntry1 5 0 0x40000000, streamEntry1 6 0 0x3F000000] = true ∧
    gives (exec (.streamTable 5 bmc 4 0 [streamEntry1 5 0 0x40000000, streamEntry1 6 0 0x3F000000]) (loading 0x4000 9 16)) (fun t =>
      (t.part 0).streams.map (fun x => (x.id, x.s, x.init)) == [(5, 0x40000000, 0x40000000), (6, 0x3F000000, 0x3F000000)]) = true ∧
    gives (exec (.kernelLoad 5 bmc 4 0 { id := 3, abi := 1, bytes := 2048, sigOk := true }) (loading 0x4000 0xB 2048)) (fun t =>
      (t.part 0).kernels.map (fun k => (k.id, k.abi, k.bytes)) == [(3, 1, 2048)]) = true ∧
    gives (exec (.kernelLoad 5 bmc 4 0 { id := 3, abi := 1, bytes := 2048 }) (loading 0x4000 0xB 2048)) (fun t =>
      (t.part 0).kernels.isEmpty && said t == abortWords { transfer := 4, index := 0x4000, sub := 0xB } 0xA0000) = true := by
  decide +kernel

/-- The header of a sealed image of a kind for partition 0, of some bytes of content. -/
def imageHeader (kind id content : Nat) : Nat :=
  packMsb [(16, 0x4B4D), (8, 3), (4, kind), (4, 0), (16, id), (48, 0), (32, ceilDiv content 1048576), (64, content), (320, 0)]

/-- That image, sealed by the owner of key 55 to the block's image key 3. -/
def sealedImage (kind id content : Nat) : SealedImage :=
  let h := imageHeader kind id content
  { header := h, bytes := 320 + content + 16 * ceilDiv content 1048576, ownerKey := 55,
    hpke := { suite := hpkeSuite, mode := 2, key := 3, sender := 55, info := bytesLe 64 h },
    chunks := (List.range (ceilDiv content 1048576)).map (fun i =>
      { label := label imageLabel, nonce := bytesLe 4 0 ++ bytesBe 8 i, aad := bytesLe 64 h ++ bytesLe 8 i, bytes := min 1048576 (content - 1048576 * i),
        intact := true }) }

/-- A block that takes images of the owner. -/
def owned (index sub : Nat) (img : SealedImage) : State :=
  let s := loading index sub img.bytes
  { s with glob := { s.glob with ownerKeys := [(imageOwnerHash img, 15)] } }

/-- The same block, which has no such owner. -/
def unowned (s : State) : State := { s with glob := { s.glob with ownerKeys := [] } }

/-- The seal of that image stands where its parts do, whatever the hash of the owner's key. -/
theorem seal_stands {s : State} {kind total : Nat} {part : Option Nat} {img : SealedImage}
    (h : (bits 511 496 img.header == 0x4B4D && bits 495 488 img.header == 3 && siKind img.header == kind && (part.isNone || part == some (siPart img.header))
      && siChunks img.header == ceilDiv (siContent img.header) 1048576 && img.bytes == 320 + siContent img.header + 16 * siChunks img.header
      && img.bytes == total && imageOpens img (siContent img.header) (s.seg s.roles.manager).trust.imageKey
      && img.chunks.length == siChunks img.header && Nat.testBit 15 kind) = true)
    (ho : s.glob.ownerKeys = [(imageOwnerHash img, 15)]) : s.sealStands kind part total img = true := by
  simp only [State.sealStands, ho, List.any_cons, List.any_nil, beq_self_eq_true, Bool.true_and, Bool.or_false]
  exact h

/-- A load of an image whose seal stands is the load of what it holds. -/
theorem sealed_load {s : State} {cyc id index sub kind code : Nat} {p : Path} {part : Option Nat} {img : SealedImage} {act : LoadAct} {t : Transfer}
    (hf : s.farPath p.ep = false) (ht : s.transfer p.ep id = some t) (hl : (s.loadTaken cyc p id).lifecycle = .secured)
    (hs : (s.loadTaken cyc p id).sealStands kind part t.total img = true) :
    s.load cyc p id index sub (sealedLoad kind code part img act) = s.load cyc p id index sub act := by
  have e : sealedLoad kind code part img act t (s.loadTaken cyc p id) = act t (s.loadTaken cyc p id) := by
    simp [sealedLoad, hl, hs]
  unfold State.loadTaken at e
  simp [State.load, State.inBlockOf, hf, ht, e]

/-- A model as delivered: its descriptor and two bytes of segment 0's stack. -/
def modelPlain : ModelPlain := { desc := packMsb [(16, 9), (18, 4), (18, 3), (17, 1000), (8, 2), (5, 1), (16, 0), (30, 0)], weights := [(0, 2 ^ 28 + 2 ^ 30, [6, 7])] }

/-- An empty verdict map. -/
def mapPlain : RulePlain :=
  { header := packMsb [(16, 0x534E), (8, 3), (4, 2), (3, 1), (1, 0), (16, 9), (16, 0), (18, 0), (16, 0), (9, 0), (15, 0), (16, 0), (15, 0), (7, 0), (32, 400),
      (320, 0)], replacement := List.replicate 16 0, categories := List.replicate 32 0 }

/-- An index: 256 lists of depth 1, its encoder model 7. -/
def indexPlain : IndexPlain :=
  { desc := packMsb [(16, 9), (4, 0), (4, 0), (16, 7), (16, 0xFFFF), (8, 1), (24, 256), (24, 100), (40, 50), (16, 60), (10, 64), (30, 0), (304, 0)], maxCount := 50,
    segVectors := [50], segBytes := 4096, content := [(0, 0, [6, 7])] }

/-- A block whose partition 0 has a retrieval area. -/
def withArea (s : State) : State := s.onPart 0 (fun p => { p with retrievalArea := 1 })

/-- A detokeniser of two tokens. -/
def detokPlain : DetokPlain := { header := packMsb [(16, 0x4454), (16, 9), (18, 2), (32, 3), (430, 0)], entries := [1, 0x102], pool := [65, 66, 67] }

/-- A block with that sealed model to load, and what the load performs. -/
def modelIn : State := owned 0x4000 0x1E (sealedImage 0 9 2)

@[inherit_doc modelIn]
theorem modelIn_load : exec (.modelLoad 5 bmc 4 0 (sealedImage 0 9 2) modelPlain) modelIn =
    modelIn.load 5 bmc 4 (0x4000 + 0 * 0x10) 0x1E (addModel 0 (sealedImage 0 9 2) modelPlain) := by
  show execModelLoad 5 bmc 4 0 (sealedImage 0 9 2) modelPlain modelIn = _
  unfold execModelLoad
  rw [if_neg (by decide +kernel), sealed_load (by decide +kernel) rfl (by decide +kernel) (seal_stands (by decide +kernel) rfl)]

/-- A block with a sealed index to load, and what the load performs. -/
def indexIn : State := withArea (owned 0x4000 0x1C (sealedImage 1 9 512))

@[inherit_doc indexIn]
theorem indexIn_load : exec (.indexLoad 5 bmc 4 0 (sealedImage 1 9 512) indexPlain) indexIn =
    indexIn.load 5 bmc 4 (0x4000 + 0 * 0x10) 0x1C (loadIndex 0 (sealedImage 1 9 512) indexPlain) := by
  show execIndexLoad 5 bmc 4 0 (sealedImage 1 9 512) indexPlain indexIn = _
  unfold execIndexLoad
  rw [if_pos (by decide +kernel), sealed_load (by decide +kernel) rfl (by decide +kernel) (seal_stands (by decide +kernel) rfl)]

/-- A block with a sealed rule set to load, and what the load performs. -/
def rulesIn : State := owned 0x5000 1 (sealedImage 2 9 400)

/-- The same, whose slot a locked partition names. -/
def rulesLocked : State := rulesIn.onPart 3 (fun p => { p with policy := { p.policy with lock := true, verdictMap := 1 } })

@[inherit_doc rulesIn]
theorem rulesIn_load : exec (.rulesetLoad 5 bmc 4 (sealedImage 2 9 400) mapPlain) rulesIn =
    rulesIn.load 5 bmc 4 0x5000 1 (addRuleset (sealedImage 2 9 400) mapPlain) := by
  show execRulesetLoad 5 bmc 4 (sealedImage 2 9 400) mapPlain rulesIn = _
  unfold execRulesetLoad
  rw [if_neg (by decide +kernel), sealed_load (by decide +kernel) rfl (by decide +kernel) (seal_stands (by decide +kernel) rfl)]

@[inherit_doc rulesLocked]
theorem rulesLocked_load : exec (.rulesetLoad 5 bmc 4 (sealedImage 2 9 400) mapPlain) rulesLocked =
    rulesLocked.load 5 bmc 4 0x5000 1 (addRuleset (sealedImage 2 9 400) mapPlain) := by
  show execRulesetLoad 5 bmc 4 (sealedImage 2 9 400) mapPlain rulesLocked = _
  unfold execRulesetLoad
  rw [if_neg (by decide +kernel), sealed_load (by decide +kernel) rfl (by decide +kernel) (seal_stands (by decide +kernel) rfl)]

/-- A block with a sealed detokeniser to load, and what the load performs. -/
def detokIn : State := owned 0x5000 3 (sealedImage 3 9 75)

@[inherit_doc detokIn]
theorem detokIn_load : exec (.detokLoad 5 bmc 4 (sealedImage 3 9 75) detokPlain) detokIn =
    detokIn.load 5 bmc 4 0x5000 3 (loadDetok (sealedImage 3 9 75) detokPlain) := by
  show execDetokLoad 5 bmc 4 (sealedImage 3 9 75) detokPlain detokIn = _
  unfold execDetokLoad
  rw [sealed_load (by decide +kernel) rfl (by decide +kernel) (seal_stands (by decide +kernel) rfl)]

theorem wit_SealedLoads :
    (modelIn.lifecycle = .secured ∧ modelDescStands 9 { id := 9, desc := modelPlain.desc } = true ∧
      modelIn.modelRegion 0 = (2 ^ 28 + 2 ^ 30, 2 ^ 32)) ∧
    gives (exec (.modelLoad 5 bmc 4 0 (sealedImage 0 9 2) modelPlain) modelIn) (fun t =>
      ((t.part 0).model 9).any (fun m => m.bytes == 2) && memRead (t.seg 0).stack.mem (2 ^ 28 + 2 ^ 30 + 1) == 7) = true ∧
    (unowned modelIn).sealStands 0 (some 0) (sealedImage 0 9 2).bytes (sealedImage 0 9 2) = false ∧
    gives (exec (.modelLoad 5 bmc 4 0 (sealedImage 0 9 2) modelPlain) (unowned modelIn)) (fun t =>
      ((t.part 0).model 9).isNone && t.cnt.imageFails == 1) = true ∧
    (indexIn.indexPlaced 0 (sealedImage 1 9 512) indexPlain = true ∧ indexIn.indexBarred 0 9 indexPlain = false ∧ ixVectors indexPlain.desc ≠ 0) ∧
    gives (exec (.indexLoad 5 bmc 4 0 (sealedImage 1 9 512) indexPlain) indexIn) (fun t => t.indexes.map (fun x => (x.id, x.part)) == [(9, 0)]) = true ∧
    gives (exec (.indexLoad 5 bmc 4 0 (sealedImage 1 9 512) indexPlain) (unowned indexIn)) (fun t =>
      t.indexes.isEmpty && said t == abortWords { transfer := 4, index := 0x4000, sub := 0x1C } 0x9FFFF) = true := by
  rw [modelIn_load, indexIn_load]; decide +kernel

/-- The envelope of an image is of its own suite, mode, keys, info and chunks (R333, R342). -/
theorem test_image_parts :
    imageOpens (sealedImage 0 9 (2 ^ 20 + 5)) (2 ^ 20 + 5) (some 3) = true ∧ imageOpens (sealedImage 0 9 2) 2 (some 4) = false ∧
    imageOpens (sealedImage 0 9 2) 2 none = false ∧
    imageOpens { sealedImage 0 9 2 with hpke := { (sealedImage 0 9 2).hpke with mode := 0 } } 2 (some 3) = false ∧
    imageOpens { sealedImage 0 9 2 with ownerKey := 56 } 2 (some 3) = false ∧
    chunkNonce (2 ^ 64 - 1) = [0, 0, 0, 0, 255, 255, 255, 255, 255, 255, 255, 255] := by
  decide +kernel

theorem wit_SealedLoads_sets :
    (ruleStands 9 400 mapPlain = true ∧ rsSlot mapPlain.header = 1 ∧ rulesIn.slotLocked 1 = false ∧ rulesLocked.slotLocked 1 = true ∧
      rulesIn.tablesAfter 1 mapPlain ≤ 4 * 2 ^ 20 ∧ rulesIn.slotFits 1 { plain := mapPlain } = true) ∧
    gives (exec (.rulesetLoad 5 bmc 4 (sealedImage 2 9 400) mapPlain) rulesIn) (fun t => (aGet 1 t.screen.loaded).isSome && (t.ruleSet 1).isNone) = true ∧
    gives (exec (.rulesetLoad 5 bmc 4 (sealedImage 2 9 400) mapPlain) rulesLocked) (fun t =>
      (aGet 1 t.screen.loaded).isNone && said t == abortWords { transfer := 4, index := 0x5000, sub := 1 } 0xD0000) = true ∧
    gives (exec (.rulesetInstall 1) { one with screen := { one.screen with loaded := [(1, { plain := mapPlain })] } }) (fun t =>
      t.ruleSet 1 == some { plain := mapPlain } && t.screen.loaded.isEmpty) = true ∧
    (detokStands 9 detokPlain = true ∧ siContent (sealedImage 3 9 75).header = 64 + 4 * 2 + 3) ∧
    gives (exec (.detokLoad 5 bmc 4 (sealedImage 3 9 75) detokPlain) detokIn) (fun t =>
      (t.detok 9).any (fun d => d.entries == [1, 0x102] && d.pool == [65, 66, 67])) = true := by
  rw [rulesIn_load, rulesLocked_load, detokIn_load]; decide +kernel

/-! Commits, lifecycle and keys, hush. -/

/-- A block with staged writes of the controller and of the driver. -/
def stagedWith (l : List (Nat × Nat × List Nat)) : State :=
  { mgd with objs := { mgd.objs with staged := l.map (fun e => (.bmc, e)) ++ [(.driver, 0x2000, 4, [9])] } }

/-- What a write of 1 byte to a write-only entry brings. -/
def takesWrite (s : State) (p : Path) (index sub size v : Nat) : Bool :=
  s.arrives p [oamWord 2 (entryHead 4 index sub size), v % 2 ^ 32] && s.reaches_ p.ep && !s.takesAlone p (entryHead 4 index sub size)
    && (s.transfer p.ep 4).isNone && s.unretired

theorem wit_Commits :
    takesWrite (stagedWith [(0x2000, 3, [0, 0x20])]) bmc 0x1100 1 0 1 = true ∧
    gives (exec (.commit 5 bmc 4) (stagedWith [(0x2000, 3, [0, 0x20])])) (fun t => t.objs.commitNo == 1 && t.stagedBy .bmc == []
      && t.stagedBy .driver == [(0x2000, 4, [9])] && t.glob.passDefault == 4096 && said t == [oamWord 6 { transfer := 4, index := 0x1100, sub := 1 }, 2 ^ 48 + 1]) = true ∧
    gives (exec (.commit 5 bmc 4) (stagedWith [(0x2000, 3, [100, 0])])) (fun t => t.glob.passDefault == 100 && t.glob.hangFactor == 4) = true ∧
    gives (exec (.commit 5 bmc 4) (stagedWith [])) (fun t => t.objs.commitNo == 0 && said t == [oamWord 6 { transfer := 4, index := 0x1100, sub := 1 }, 0]) = true ∧
    takesWrite (stagedWith [(0x2000, 3, [0, 0x20])]) bmc 0x1100 1 0 0 = true ∧
    gives (exec (.discard 5 bmc 4) (stagedWith [(0x2000, 3, [0, 0x20])])) (fun t => t.objs.commitNo == 0 && t.stagedBy .bmc == []
      && t.stagedBy .driver == [(0x2000, 4, [9])] && t.glob.passDefault == 1024) = true := by
  decide +kernel

/-- The block between a commit and the beat edge that brings its values into force: PASS_TARGET was 1,024 and is 100. -/
def betweenEdges : State := { one with glob := { one.glob with passDefault := 100 }, prior := some one.replaced }

/-- The same block with another value committed in the same beat. -/
def otherwise : State := { betweenEdges with glob := { betweenEdges.glob with passDefault := 200 } }

theorem wit_BetweenEdges :
    (betweenEdges.prior = some one.replaced ∧ otherwise.prior = some one.replaced ∧
      otherwise.inForce one.replaced = betweenEdges.inForce one.replaced) ∧
    [Instr.stagingAllocate 0 0 .lc 1 0, Instr.tokenRefill, .freeze 0 .lc, .stepHang 0 .lc, .commitPoint 0 0 .lc, .admission 0 .lc, .handOver 0, .joinWaitExpiry 0, .resumption 0,
      .groupClose 0].all (fun c => gives (exec c betweenEdges) (fun t => t.glob.passDefault == 100)
        && gives (exec c otherwise) (fun t => t.glob.passDefault == 200)) = true ∧
    gives (exec (.beatEdge 0 []) betweenEdges) (fun t => t.prior.isNone && t.glob.passDefault == 100) = true := by
  decide +kernel

/-- A managed block in a lifecycle state, its partitions holding first keys. -/
def aged (l : Lifecycle) : State :=
  let s := managed (five.onSegs (fun _ g =>
    { g with trust := { g.trust with lifecycle := l, lifeFuses := 16 ^ lifecycleCode l - 1, stackKeys := [(16, 5)], dimCounter := [(2, 2 ^ 48)] } }))
  { s with cfg := { s.cfg with progEnable := true }, trust := { s.trust with envKeys := List.replicate 15 { curId := 255, cur := 7, curEpoch := 1, dimCur := 8, recordId := 5 } ++ [{}] } }

theorem wit_TrustWrites :
    (takesWrite (aged .provisioned) officer 0x7000 2 0 2 = true ∧ (aged .provisioned).principal officer = .officer) ∧
    gives (exec (.lifecycleAdvance 5 officer 4 1) (aged .provisioned)) (fun t => said t == abortWords { transfer := 4, index := 0x7000, sub := 2 } 0x100000) = true ∧
    ((aged .provisioned).cfg.progEnable = true ∧ (aged .provisioned).lifecycle = .provisioned ∧
      (aged .provisioned).segs.all (fun g => sensedState g.trust.lifeFuses == .provisioned) = true) ∧
    gives (exec (.lifecycleAdvance 5 officer 4 2) { aged .provisioned with cfg := { five.cfg with progEnable := false } }) (fun t =>
      said t == abortWords { transfer := 4, index := 0x7000, sub := 2 } 0xD0000) = true ∧
    gives (exec (.lifecycleAdvance 5 officer 4 2) (aged .blank)) (fun t =>
      said t == abortWords { transfer := 4, index := 0x7000, sub := 2 } 0xD0000) = true ∧
    gives (exec (.lifecycleAdvance 5 officer 4 2) (aged .provisioned)) (fun t => t.segs.all (fun g => g.trust.lifecycle == .secured)) = true ∧
    gives (exec (.lifecycleAdvance 5 officer 4 3) (aged .secured)) (fun t => t.segs.all (fun g => g.trust.lifecycle == .retired && g.trust.stackKeys == [])
      && t.trust.envKeys == ({} : Trust).envKeys && t.segs.all (fun g => g.trust.imageKey.isNone && g.trust.chain == [] && g.trust.identity.isNone)) = true ∧
    takesWrite (aged .secured) officer 0x7000 3 1 4 = true ∧
    gives (exec (.envelopeKeyRotate 5 officer 4 0x8004) (aged .secured)) (fun t => t.trust.envKeys.map (fun k => (k.curId, k.prevId, k.curEpoch)) ==
      [(255, 0, 1), (255, 0, 1), (1, 255, 1)] ++ List.replicate 12 (255, 0, 1) ++ [(0, 0, 0)]) = true ∧
    gives (exec (.dimKeyRotate 5 officer 4 4) (aged .secured)) (fun t => (t.trust.envKeys.getD 2 {}).curEpoch == 2 && (t.trust.envKeys.getD 2 {}).dimPrev == 8
      && (t.trust.envKeys.getD 2 {}).recordId == 0 && t.segs.all (fun g => g.trust.dimCounter == [])) = true ∧
    (aged .secured).epochSpent 2 = true ∧
    gives (exec (.dimEpochExhausted 2) (aged .secured)) (fun t => (t.trust.envKeys.getD 2 {}).curEpoch == 2 && (t.trust.envKeys.getD 1 {}).curEpoch == 1) = true ∧
    gives (exec (.archiveKeys 5 bmc 4 [9 :: List.replicate 39 1]) (loading 0x7000 6 40)) (fun t => t.trust.archive == []) = true ∧
    gives (exec (.archiveKeys 5 bmc 4 [9 :: List.replicate 39 1]) ((loading 0x7000 6 40).onTransfer .pcie 4 (fun x => { x with principal := .officer })))
      (fun t => (aGet 9 t.trust.archive).isSome) = true ∧
    ({ one with trust := { one.trust with archivePending := [(9, 77)] } } : State).slotInFlight 9 = false ∧
    gives (exec (.archiveKeyInstall 9) { one with trust := { one.trust with archivePending := [(9, 77)], archive := [(8, 66)] } }) (fun t =>
      t.trust.archive == [(8, 66), (9, 77)] && t.trust.archivePending == []) = true ∧
    gives (exec (.archiveKeyInstall 9) { one with trust := { one.trust with archivePending := [(9, 0)], archive := [(9, 66)] } }) (fun t =>
      t.trust.archive == []) = true := by
  decide +kernel

/-- A block in a phase of hush. -/
def inHush (n : Nat) : State := { mgd with power := { mgd.power with hush := n, wakeAt := 1000 } }

theorem wit_Hush :
    (takesWrite mgd bmc 0x2200 0x30 0 1 = true ∧ mgd.mayHush = true ∧ (managed (running .lc)).mayHush = false) ∧
    gives (exec (.hushEnter 5 bmc 4) mgd) (fun t => t.power.hushAsked == some 1000 && t.power.hush == 0) = true ∧
    gives (exec (.hushEnter 5 bmc 4) (managed (running .lc))) (fun t => t.power.hushAsked.isNone
      && said t == abortWords { transfer := 4, index := 0x2200, sub := 0x30 } 0xB0000) = true ∧
    gives (exec (.hushEnter 0 bmc 4) { mgd with time := { mgd.time with last := ⟨1000, 4999⟩ } }) (fun t => t.power.hushAsked == some 1001) = true ∧
    gives (exec (.wake 0 bmc 4) { inHush 1 with time := { mgd.time with last := ⟨1000, 4999⟩ } }) (fun t => t.power.wakeAt == 1051) = true ∧
    gives (exec .hushEntry { mgd with power := { mgd.power with hushAsked := some 999 } }) (fun t => t.power.hush == 1
      && (t.seg 0).frozenAge == some 0 && !(t.seg 0).hub.east.up) = true ∧
    gives (exec (.wake 5 bmc 4) (inHush 1)) (fun t => t.power.hush == 2 && t.power.wakeAt == 1050) = true ∧
    gives (exec (.wake 5 bmc 4) mgd) (fun t => t.power.hush == 0) = true ∧
    (inHush 2).untrained = [] ∧
    gives (exec .wakeComplete ((inHush 2).onSeg 0 (fun g => { g with frozenAge := some 3 }))) (fun t => t.power.hush == 0
      && (t.seg 0).lastHb == 997 && (t.seg 0).frozenAge.isNone) = true := by
  decide +kernel

/-! Resets and bring-up. -/

/-- What a warm reset keeps and loses in a block with a sequence live. -/
def busy : State := managed (liveIn liveSeq)

theorem wit_Resets :
    (takesWrite busy { ep := .pcie } 0x2200 0x31 0 1 = true ∧ busy.power.coldBoot = false) ∧
    gives (exec (.resetWarm 5 bmc) busy) (fun t => t.power.stage == 0 && t.seqs == [] && (t.tenant 1).valid && !(t.ring 2).enable
      && t.trust.envKeys == busy.trust.envKeys && t.time.beat == 1000 && (t.seg 0).state == .joining) = true ∧
    gives (exec (.resetCold 5 bmc) busy) (fun t => t.tenants == [] && t.rings == [] && t.seqs == []
      && (t.trust.envKeys.take 15).all (fun k => k.curId == 1 && k.curEpoch == 1)) = true ∧
    gives (exec (.powerOnReset 0) busy) (fun t => t.power.inReset && t.power.coldBoot && (t.seg 0).resetIn == [.aoPor]
      && !t.time.acquired && (t.seg 0).trust.lifecycle == .secured) = true ∧
    gives (exec (.powerOnReset 2) { five with power := { five.power with inReset := true } }) (fun t => (t.seg 2).resetIn == [.aoPor]) = true ∧
    ((five.seg 2).state = .serving ∧ five.power.inReset = false ∧ 2 ≠ five.mgr) ∧
    gives (exec (.powerOnReset 2) five) (fun t => (t.seg 2).resetIn == [.aoPor] && (t.seg 2).state == .held && !t.power.inReset) = true ∧
    gives (exec (.warmReset 2) five) (fun t => (t.seg 2).resetIn == [.warm] && (t.seg 2).state == .held && !t.power.inReset) = true ∧
    gives (exec (.warmReset 2) (five.onSeg 2 (fun g => { g with state := .joining }))) (fun t => (t.seg 2).resetIn == [.warm]) = true ∧
    gives (exec (.powerOnReset 2) (five.onSeg 2 (fun g => { g with state := .lost, lostReason := 7 }))) (fun t =>
      (t.seg 2).state == .lost && (t.seg 2).lostReason == 7 && (t.seg 2).resetIn == [.aoPor]) = true ∧
    gives (exec (.warmReset 2) (five.onSeg 2 (fun g => { g with state := .lost, lostReason := 7 }))) (fun t =>
      (t.seg 2).state == .lost && (t.seg 2).lostReason == 7 && (t.seg 2).resetIn == [.warm]) = true ∧
    gives (exec (.coldReset 3) five) (fun t => t.power.inReset && t.power.coldBoot && (t.seg 3).resetIn == [.cold] && t.time.beat == 1000) = true ∧
    gives (exec (.warmReset 0) busy) (fun t => t.power.inReset && !t.power.coldBoot && (t.seg 0).resetIn == [.warm] && (t.tenant 1).valid) = true ∧
    gives (exec (.warmReset 1) { five with power := { five.power with inReset := true } }) (fun t => (t.seg 1).resetIn == [.warm]) = true := by
  decide +kernel

theorem wit_SplitResets :
    (halves.inSecond 0 = false ∧ halves.inSecond 6 = true ∧ halves.hasSeg halves.mgr = true) ∧
    gives (exec (.resetWarm 5 bmc) (managed halves)) (fun t => t.other.isNone && t.power.stage == 0 && t.mgr == 0
      && t.segs.all (fun g => g.state == .joining)) = true ∧
    gives (exec (.coldReset 6) halves) (fun t => t.power.inReset && (t.segOf 6).resetIn == [.cold]) = true ∧
    gives (exec (.warmReset 6) halves) (fun t => !t.power.inReset && (t.segOf 6).resetIn == [.warm] && (t.segOf 6).state == .held) = true := by
  decide +kernel

/-- A block of five segments held in a cold reset by an input of segment 3. -/
def heldCold : State := (five.coldReset).onSeg 3 (holdInput .cold)

theorem wit_ResetReleases :
    ((heldCold.onSeg 3 (fun g => { g with resetIn := [] })).blockHeld = false ∧ heldCold.power.gongOut = false) ∧
    gives (exec (.resetRelease .cold 3) heldCold) (fun t => !t.power.inReset && t.segs.all (fun g => g.state == .joining && g.joinDeadline == 2001000)
      && (t.trust.envKeys.take 15).all (fun k => k.curId == 1)) = true ∧
    gives (exec (.resetRelease .cold 3) (heldCold.onSeg 4 (holdInput .cold))) (fun t => t.power.inReset && (t.seg 3).resetIn == []) = true ∧
    gives (exec (.resetRelease .warm 2) (five.onSeg 2 warmSegment)) (fun t => (t.seg 2).state == .joining && (t.seg 2).joinDeadline == 2001000
      && (t.seg 1).state == .serving) = true ∧
    gives (exec (.resetRelease .warm 2) ((five.onSeg 2 warmSegment).onSeg 2 (holdInput .aoPor))) (fun t => (t.seg 2).state == .held
      && (t.seg 2).resetIn == [.aoPor]) = true ∧
    (clearRun 20 one.edge (some ⟨900, 0⟩) = true ∧ one.segs.all (fun g => railClear 20 one.edge g.supply) = true ∧ one.blockHeld = false ∧
      heldCold.blockHeld = true) ∧
    gives (exec .gongResetRelease { one with power := { one.power with inReset := true, gongOut := true, feedAbove := some ⟨900, 0⟩, gongLast := 7 } }) (fun t =>
      !t.power.gongOut && !t.power.inReset && t.power.gongLast == 7) = true ∧
    gives (exec .gongResetRelease { heldCold with power := { heldCold.power with gongOut := true, feedAbove := some ⟨900, 0⟩ } }) (fun t =>
      t.power.gongOut && t.power.inReset) = true := by
  decide +kernel

/-- A block of five segments just out of reset, in a stage; its links are up. -/
def risingAt (stage : Nat) : State :=
  let linked (m : ModuleS) : ModuleS := { m with up := true, authed := true }
  let wired (h : Hub) : Hub := { h with north := linked h.north, east := linked h.east, south := linked h.south, west := linked h.west }
  let s := five.onSegs (fun _ g => { g with state := .joining, selfTested := false, stack := {}, ma0 := {}, ma1 := {}, hub := wired g.hub })
  { s with power := { s.power with stage := stage }, trust := { s.trust with spdmOpen := false } }

/-- The manager's segment tested and trained. -/
def mgrReady (s : State) : State := s.onSeg 0 (fun g => { g with selfTested := true, stack := { g.stack with trained := true } })

/-- A block whose manager serves, its segment 1 ready to join. -/
def joinReady (version : Nat) (l : Lifecycle) : State :=
  ((risingAt 3).onSeg 0 (fun g => { g with state := .serving, selfTested := true, ma0 := { g.ma0 with state := .serving } })).onSeg 1 (fun g =>
    { g with selfTested := true, stack := { g.stack with trained := true }, trust := { g.trust with version := version, lifecycle := l } })

theorem wit_BringUp :
    ((risingAt 1).segUp 0 = true ∧ ((risingAt 1).seg 0).state = .joining ∧ ((risingAt 1).seg 0).selfTested = false) ∧
    gives (exec (.selfTestComplete 5 0 true []) (risingAt 1)) (fun t => t.power.stage == 2 && t.trust.spdmOpen && (t.seg 0).selfTested) = true ∧
    gives (exec (.selfTestComplete 5 1 true [(.ma0, 7)]) (risingAt 1)) (fun t => (t.seg 1).ma0.faults == [7]
      && (t.seg 1).ma0.remap.any (fun e => e.valid && e.logical == 7) && t.power.stage == 1) = true ∧
    gives (exec (.stackTrainingComplete 5 0 true) (risingAt 2)) (fun t => (t.seg 0).stack.trained) = true ∧
    gives (exec (.selfTestComplete 5 1 false []) (joinReady 0x00030200 .secured)) (fun t => t == joinReady 0x00030200 .secured) = true ∧
    gives (exec (.selfTestComplete 5 2 false []) (joinReady 0x00030200 .secured)) (fun t => (t.seg 2).state == .lost && (t.seg 2).lostReason == 0x0A) = true ∧
    gives (exec (.stackTrainingComplete 5 2 false) (joinReady 0x00030200 .secured)) (fun t => (t.seg 2).state == .lost && (t.seg 2).lostReason == 0x0A) = true ∧
    gives (exec (.joinDeadline 3) (joinReady 0x00030200 .secured)) (fun t => (t.seg 3).state == .lost && (t.seg 3).lostReason == 0x0A) = true ∧
    ((mgrReady (risingAt 2)).mgrAwake = true ∧ (mgrReady (risingAt 2)).time.acquired = true) ∧
    gives (exec .reducedServiceOpen (mgrReady (risingAt 2))) (fun t => t.power.stage == 3 && (t.seg 0).state == .serving
      && (t.seg 0).health.clockMhz == 1600 && (t.seg 0).ma1.state == .held && (t.seg 0).ma0.state == .serving) = true ∧
    ((joinReady 0x00030200 .secured).readyToJoin 1 = true ∧ (joinReady 0x00030200 .secured).stepOf 15 .lc = none ∧ (joinReady 0x00030200 .secured).screenFreeze = true ∧ (joinReady 0x00030200 .secured).mgrUp = true) ∧
    gives (exec (.segmentJoin 1) (joinReady 0x00030200 .secured)) (fun t => (t.seg 1).state == .serving && (t.seg 1).ma1.state == .serving
      && !(t.seg 1).nq.hold && (t.seg 1).hbFrom == 0) = true ∧
    gives (exec (.segmentJoin 1) (joinReady 0x00030201 .secured)) (fun t => (t.seg 1).lostReason == 0x08) = true ∧
    gives (exec (.segmentJoin 1) (joinReady 0x00030200 .provisioned)) (fun t => (t.seg 1).lostReason == 0x09) = true ∧
    gives (exec .fullService { one.onSeg 0 (fun g => { g with ma1 := {}, health := { g.health with clockMhz := 1600, recordMhz := 1900 } }) with
        power := { one.power with stage := 3 } }) (fun t => t.power.stage == 4 && (t.seg 0).health.clockMhz == 1900 && (t.seg 0).ma1.state == .serving) = true := by
  decide +kernel

/-! Identity. -/

/-- A block with the SPDM negotiation of the controller's path in a phase. -/
def negotiated (n : Nat) : State := { one with trust := { one.trust with spdmPhase := [(.pcie, n)] } }

/-- The last response's request number. -/
def lastReply (t : State) : Option Nat := t.trust.spdmOut.head?.map (·.code)

theorem wit_Identities :
    (one.mctpUp .pcie = true ∧ one.mctpUp (.i3c 0) = true) ∧
    ((one.setEid (.i3c 0) 300).eidOf (.i3c 0) = 44 ∧ (one.setEid .pcie 8).eidOf .pcie = 8 ∧ (one.setEid .pcie 8).eidOf (.i3c 0) = 0) ∧
    [Instr.setEndpointId .pcie 8, .getEndpointId .pcie, .getMctpVersionSupport .pcie 0x7F, .getMessageTypeSupport .pcie,
      .getVendorDefinedMessageSupport .pcie 0].all (fun c => gives (exec c one) (fun _ => true)) = true ∧
    (one.seg 0).trust.i3cAddr = none ∧
    gives (exec (.entdaa 0 0x88) one) (fun t => (t.seg 0).trust.i3cAddr == some 8) = true ∧
    gives (exec (.setdasa 0 9 8) (one.onSeg 0 (fun g => { g with trust := { g.trust with i3cStatic := 9 } }))) (fun t =>
      (t.seg 0).trust.i3cAddr == some 8) = true ∧
    same (exec (.setdasa 0 9 8) one) (.next one) = true ∧
    gives (exec (.provisioning 0 { serial := 77, staticAddr := 200, seed := 6, cert := [4], chain := [9], imageKey := 3, officerRoots := [1, 2, 3] }) (aged .blank)) (fun t =>
      (t.seg 0).trust.lifecycle == .provisioned && (t.seg 1).trust.lifecycle == .blank && (t.seg 0).trust.serial == 77
        && (t.seg 0).trust.officerRoots == [1, 2] && (t.seg 0).trust.i3cStatic == 72 && (t.seg 0).trust.seed == 6 && (t.seg 0).trust.chain == [9]
        && (t.seg 0).trust.imageKey == some 3 && (t.seg 0).trust.identityCert == [4] && (t.seg 0).trust.pufEnrolled) = true ∧
    gives (exec (.provisioning 1 { serial := 77, chain := [9], officerRoots := [1] }) (aged .blank)) (fun t =>
      (t.seg 1).trust.officerRoots == [5] && (t.seg 1).trust.chain == [] && (t.seg 1).trust.serial == 77) = true ∧
    same (exec (.provisioning 0 {}) one) (.next one) = true ∧
    same (exec (.provisioning 0 { serial := 77, enable := false }) (aged .blank)) (.next (aged .blank)) = true ∧
    gives (exec (.provisioning 0 { cert := List.replicate 20 1, chain := List.replicate 8180 2 }) (aged .blank)) (fun t =>
      (t.seg 0).trust.chain.length == 8172 && (t.seg 0).trust.lifeFuses == 15) = true ∧
    (sensedState 0x7 = .provisioned ∧ sensedState 0x3 = .blank ∧ sensedState 0xEE = .secured ∧ sensedState 0xFFF = .retired) ∧
    one.idcode 0 = 0x04B44001 ∧ one.inBandInterrupt 0 = false := by
  decide +kernel

/-- A block with a session of an officer, handshake complete or not. -/
def inSession (e : Bool) : State :=
  let s := negotiated 3
  let x : SpdmSession := { id := 6, ep := .pcie, officer := true, established := e }
  { s with trust := { s.trust with sessions := [x] }, objs := { s.objs with staged := [(.officer, 0x2000, 3, [0, 1])] } }

theorem wit_Spdm :
    (one.spdmUp .pcie = true ∧ one.alone .pcie = false) ∧
    gives (exec (.getVersion .pcie) one) (fun t => t.phaseOf .pcie == 1 && lastReply t == some 1) = true ∧
    gives (exec (.getCapabilities .pcie) (negotiated 1)) (fun t => t.phaseOf .pcie == 2 && lastReply t == some 2) = true ∧
    gives (exec (.getCapabilities .pcie) (negotiated 2)) (fun t => t.phaseOf .pcie == 2 && lastReply t == some 0) = true ∧
    gives (exec (.negotiateAlgorithms .pcie true) (negotiated 2)) (fun t => t.phaseOf .pcie == 3 && lastReply t == some 3) = true ∧
    gives (exec (.negotiateAlgorithms .pcie false) (negotiated 2)) (fun t => lastReply t == some 0) = true ∧
    ((negotiated 3).phaseOf .pcie = 3 ∧ ((negotiated 3).seg ((negotiated 3).responder .pcie)).trust.identity = some 7) ∧
    gives (exec (.getDigests .pcie) (negotiated 3)) (fun t => lastReply t == some 4) = true ∧
    gives (exec (.getCertificate .pcie 0) (negotiated 3)) (fun t => lastReply t == some 5) = true ∧
    gives (exec (.getCertificate .pcie 1) (negotiated 3)) (fun t => lastReply t == some 0) = true ∧
    gives (exec (.challenge .pcie 0 99) (negotiated 3)) (fun t => lastReply t == some 6) = true ∧
    gives (exec (.challenge .pcie 1 99) (negotiated 3)) (fun t => lastReply t == some 0) = true ∧
    gives (exec (.getMeasurements .pcie 1 false 99) (negotiated 3)) (fun t => lastReply t == some 7) = true ∧
    gives (exec (.getMeasurements .pcie 40 false 99) (negotiated 3)) (fun t => lastReply t == some 0) = true ∧
    ((negotiated 3).onSeg 0 (fun g => { g with state := .lost })).alone (.i3c 0) = false ∧
    gives (exec (.keyExchange .pcie 6 (some 5)) (negotiated 3)) (fun t => t.trust.sessions.map (fun x => (x.id, x.officer, x.established)) == [(6, true, false)]) = true ∧
    gives (exec (.keyExchange .pcie 6 (some 4)) (negotiated 3)) (fun t => t.trust.sessions.map (·.officer) == [false]) = true ∧
    ((inSession false).spdmSession .pcie 6).isSome = true ∧
    gives (exec (.finish .pcie 6 true) (inSession false)) (fun t => (t.spdmSession .pcie 6).any (·.established) && lastReply t == some 9) = true ∧
    gives (exec (.finish .pcie 6 false) (inSession false)) (fun t => (t.spdmSession .pcie 6).isNone && lastReply t == some 0) = true ∧
    gives (exec (.spdmHeartbeat .pcie 6) (inSession true)) (fun t => (t.spdmSession .pcie 6).any (fun x => x.lastHb == 1000)) = true ∧
    gives (exec (.keyUpdate .pcie 6) (inSession true)) (fun t => (t.spdmSession .pcie 6).any (fun x => x.keyGen == 1)) = true ∧
    gives (exec (.endSession .pcie 6) (inSession true)) (fun t => (t.spdmSession .pcie 6).isNone && t.stagedBy .officer == []) = true := by
  decide +kernel

/-! Errors. -/

/-- The staging SRAM of the segment holds an allocation of the step in flight. -/
def allocated (c : Cls) : State := (inStep c).onSeg 0 (fun g => { g with allocs := [{ part := 0, cls := c, base := 10, units := 4 }] })

/-- A scan group of one live query. -/
def scanning : State := (liveIn (planSeq {})).onSeg 0 (fun g => { g with scanGroup := some { members := [0, 3], inactive := [3] } })

theorem wit_ErrorsByClass :
    one.segUp 0 = true ∧
    gives (exec (.correctableError 0 none) one) (fun t => t == one.onSeg 0 (fun g => { g with health := { g.health with corrected := 1 } })) = true ∧
    gives (exec (.correctableError 0 (some 3)) one) (fun t => (t.seg 0).stack.corrected == [(3, [1000])]) = true ∧
    (one.stepOf 0 .lc).isNone = true ∧
    [DataSource.nameless, .array 0 .lc, .step 0 .be, .staging 11, .scanLane].all (fun d =>
      gives (exec (.uncorrectableDataError 5 0 d) one) (fun t => (t.seg 0).health.uncorrected == 1 && t.cnt.stepsDiscarded == 0)) = true ∧
    ((inStep .be).stepOf 0 .be).any (fun st => st.abandoned.isNone) = true ∧
    gives (exec (.uncorrectableDataError 5 0 (.array 0 .be)) (inStep .be)) (fun t => (t.stepOf 0 .be).isNone && t.cnt.stepsDiscarded == 1
      && !((t.part 0).loop .be).running) = true ∧
    gives (exec (.uncorrectableDataError 5 0 (.step 0 .lc)) (inStep .lc)) (fun t => (t.stepOf 0 .lc).isNone && t.cnt.stepsDiscarded == 1
      && ((t.part 0).loop .lc).running) = true ∧
    ((allocated .lc).seg 0).allocStep 13 = some (0, .lc) ∧ ((allocated .lc).seg 0).allocStep 14 = none ∧
    gives (exec (.uncorrectableDataError 5 0 (.staging 13)) (allocated .lc)) (fun t => t.cnt.stepsDiscarded == 1) = true ∧
    (scanning.seg 0).scanGroup.isSome = true ∧
    gives (exec (.uncorrectableDataError 5 0 .scanLane) scanning) (fun t => match t.live 0 with
      | some q => q.ended == some (.stepLost, ⟨1000, 5⟩) && (t.seg 0).health.uncorrected == 1 | none => false) = true ∧
    gives (exec (.uncorrectableControlError 5 2) five) (fun t => (t.seg 2).state == .lost && (t.seg 2).lostReason == 0x03) = true ∧
    ten.cfg.kind.hasStandby = true ∧ one.cfg.kind.hasStandby = false ∧
    gives (exec (.uncorrectableControlError 5 0) ten) (fun t => t.roles.managerSilent && (t.seg 0).state == .serving) = true ∧
    gives (exec (.uncorrectableControlError 5 0) one) (fun t => t.power.gongOut && t.power.inReset) = true := by
  decide +kernel

/-- A segment whose channel 3 is in a state. -/
def channelIn (f : StackS → StackS) : State := one.onSeg 0 (fun g => { g with stack := f g.stack })

/-- The place of a page of channel 3, and an address of its channel in a region of the stack. -/
def screenAt : Nat := 2 ^ 28 + 3 * 4096

@[inherit_doc screenAt]
def modelAt : Nat := 2 ^ 28 + 2 ^ 30 + 3 * 4096

/-- A directory entry of partition 0 in a tier, with page 35 of segment 0. -/
def entryAt (tier : Tier) : State :=
  { serving.onPart 0 (fun p => { p with layout := 320 }) with
    handles := [(0, { handle := 9, tenant := 1, part := 0, tier := tier, map := [(0, { pages := [{ seg := 0, page := 35 }] })] })] }

/-- A step in flight of a partition that has a pool. -/
def pooled : State := (allocated .lc).onPart 0 (fun p => { p with layout := 320 })

/-- The entry's page on a channel that has had a number of corrected reads. -/
def wornAt (n : Nat) : State :=
  (entryAt .bright).onSeg 0 (fun g => { g with stack := { g.stack with corrected := [(3, List.replicate n 900)] } })

/-- The page of that entry copied to page 4. -/
def copied (written : Bool) : State :=
  (entryAt .bright).onSeg 0 (fun g => { g with stack := { g.stack with retiring := [3], copies := [{ old := 35, new := 4, written := written }] } })

theorem wit_StackChannels :
    (one.segUp 0 = true ∧ (one.seg 0).state ≠ .lost ∧ one.ownerOf 0 = none ∧ serving.ownerOf 0 = some 0 ∧
      one.unitAt 0 3 screenAt .screenRegion = true ∧ one.unitAt 0 4 screenAt .screenRegion = false ∧
      pooled.unitAt 0 3 16896 (.pagePool 35) = true ∧ serving.unitAt 0 3 modelAt .modelArea = true ∧
      one.unitAt 0 3 (2 ^ 28 - 1) .screenRegion = false) ∧
    gives (exec (.stackReadError 5 0 3 screenAt none .screenRegion) one) (fun t => (t.seg 0).stack.mappedOut == [screenAt]
      && (t.seg 0).stack.screenCopy && (t.seg 0).stack.failing.isEmpty && (t.seg 0).stack.lastUncorr == [(3, 1000)]
      && (t.seg 0).health.uncorrected == 1) = true ∧
    same (exec (.stackReadError 5 0 4 screenAt none .screenRegion) one) (.next one) = true ∧
    gives (exec (.stackReadError 5 0 3 screenAt none .screenRegion) (channelIn (fun k => { k with lastUncorr := [(3, 1000)] }))) (fun t =>
      (t.seg 0).stack.failing == [3]) = true ∧
    gives (exec (.stackReadError 5 0 3 16896 (some (0, .lc)) (.pagePool 35)) pooled) (fun t => t.cnt.stepsDiscarded == 1
      && (t.seg 0).cnt.pagesOut == 1 && (t.seg 0).stack.taken == [35]) = true ∧
    gives (exec (.stackReadError 5 0 3 modelAt none .modelArea) serving) (fun t => (t.part 0).stopped.isSome) = true ∧
    gives (exec (.stackReadError 5 0 3 16896 none (.pagePool 35)) (entryAt .both)) (fun t => ((t.entry 0).getD {}).tier == .dim) = true ∧
    gives (exec (.stackReadError 5 0 3 16896 none (.pagePool 35)) (entryAt .dim)) (fun t => ((t.entry 0).getD {}).tier == .dim) = true ∧
    gives (exec (.stackReadError 5 0 3 16896 none (.pagePool 35)) (entryAt .bright)) (fun t => ((t.entry 0).getD {}).tier == .tombstone) = true ∧
    ((entryAt .both).entry 0).any (fun h => h.tier == .both && h.part == 0) = true ∧
    gives (exec (.screenRegionRestored 0) (channelIn (fun k => { k with screenCopy := true }))) (fun t => t == one) = true ∧
    (one.glob.retireCount = 1024 ∧ (wornAt 1025).ownerOf 0 = some 0) ∧
    gives (exec (.channelRetire 0 3) (wornAt 1025)) (fun t => (t.seg 0).stack.retiring == [3]
      && (t.seg 0).stack.copies.map (·.old) == [35]) = true ∧
    same (exec (.channelRetire 0 3) (wornAt 1024)) (.next (wornAt 1024)) = true ∧
    ((copied false).partSegs 0 = [0] ∧ 35 ∈ (copied false).loopPages 0 .be 0) ∧
    ((copied false).replaceCopies 0 .be).handles.map (fun e => e.2.map.map (fun x => x.2.pages.map (·.page))) = [[[4]]] ∧
    (((copied true).replaceCopies 0 .be).seg 0).stack.copies = [{ old := 35, new := 4 }] ∧
    same (exec (.channelRetireComplete 0 3 7) (copied false)) (.next (copied false)) = true ∧
    gives (exec (.channelRetireComplete 0 3 7) (channelIn (fun k => { k with retiring := [3] }))) (fun t => (t.seg 0).stack.retired == [3]
      && (t.seg 0).stack.retiring.isEmpty && (t.seg 0).state == .serving) = true ∧
    gives (exec (.channelRetireComplete 0 3 7) (channelIn (fun k => { k with retiring := [3], failed := [9], retired := [4, 5, 6] }))) (fun t =>
      t.power.gongOut) = true ∧
    gives (exec (.channelFail 5 0 3 7 []) (channelIn (fun k => { k with failing := [3] }))) (fun t => (t.seg 0).stack.failed == [3]
      && (t.seg 0).stack.failing == []) = true ∧
    gives (exec (.channelFail 5 0 3 7 [.screenRegion]) (channelIn (fun k => { k with trained := false }))) (fun t => (t.seg 0).stack.failed == [3]
      && (t.seg 0).stack.screenCopy) = true := by
  decide +kernel

/-- An array 0 in a state. -/
def arrayIn (f : ArrayS → ArrayS) : State := one.onSeg 0 (fun g => { g with ma0 := f g.ma0 })

/-- Remap entries all in use. -/
def usedUp : List RemapEntry := (List.range 8).map (fun k => { valid := true, logical := 40 + k })

theorem wit_ArrayColumns :
    (one.serving 0 = true ∧ ((one.seg 0).array .ma0).state ≠ .failed ∧ one.stepOf 0 .lc = none) ∧
    gives (exec (.residueMismatch 5 0 .ma0 263 0 .lc) one) (fun t => (t.seg 0).ma0.residueErrors == 1 && (t.seg 0).ma0.faults == []
      && (t.seg 0).ma0.lastResidue == [(263, 1000)] && (t.seg 0).health.uncorrected == 1) = true ∧
    gives (exec (.residueMismatch 5 0 .ma0 7 0 .lc) (arrayIn (fun a => { a with lastResidue := [(7, 990)] }))) (fun t => (t.seg 0).ma0.faults == [7]) = true ∧
    ((inStep .lc).serving 0 = true ∧ (((inStep .lc).seg 0).array .ma0).state ≠ .failed) ∧
    gives (exec (.residueMismatch 5 0 .ma0 7 0 .lc) (inStep .lc)) (fun t => (t.stepOf 0 .lc).isNone && t.cnt.stepsDiscarded == 1) = true ∧
    freeSpare (List.replicate 8 {}) = some 0 ∧ freeSpare usedUp = none ∧
    gives (exec (.columnRemap 5 0 .ma0) (arrayIn (fun a => { a with state := .draining, pendingRemap := [255] }))) (fun t =>
      (t.seg 0).ma0.state == .serving && (t.seg 0).ma0.remap.head? == some { valid := true, logical := 255 }) = true ∧
    gives (exec (.columnRemap 5 0 .ma0) (arrayIn (fun a => { a with state := .draining, pendingRemap := [7], remap := usedUp }))) (fun t =>
      (t.seg 0).ma0.state == .failed) = true ∧
    gives (exec (.columnRemap 5 0 .ma0) (arrayIn (fun a => { a with state := .held, pendingRemap := [255] }))) (fun t =>
      (t.seg 0).ma0.state == .held && (t.seg 0).ma0.remap.head? == some { valid := true, logical := 255 }) = true := by
  decide +kernel

/-! Links and the span. -/

/-- A block whose links have all trained, a module of segment 1 changed. -/
def meshed (kind : KdKind) (f : Hub → Hub) : State :=
  let linked (m : ModuleS) : ModuleS := { m with up := true, authed := true, key := some 5 }
  let wired (h : Hub) : Hub := { h with north := linked h.north, east := linked h.east, south := linked h.south, west := linked h.west }
  ((blk kind).onSegs (fun _ g => { g with hub := wired g.hub })).onSeg 1 (fun g => { g with hub := f g.hub })

/-- The mesh of five segments. -/
def mesh : State := meshed .kd5 id

/-- A frame on its way from segment 2 to another. -/
def flying (dest : Nat) : Frame := { src := 2, dest := dest, stream := 4, passTag := 9 }

/-- The mesh with that frame at the west module of segment 2. -/
def carrying (dest : Nat) (f : Hub → Hub) : State :=
  (meshed .kd5 f).onSeg 2 (fun g => { g with hub := { g.hub with tx := [{ dir := .west, frame := flying dest }] } })

/-- The same while the loop that owns the frame's stream runs a later launch on segment 1. -/
def stepping (dest : Nat) : State :=
  let s := (carrying dest id).onSeg 1 (fun g => { g with steps := [{ launchNo := 10, launched := true }] })
  s.onLoop 0 .lc (fun l => { l with running := true, step := some { prog := shortProgram 5 .lc, launchNo := 10, launched := true } })

/-- A hub whose east side's plain lane holds one frame more than its buffer takes. -/
def fullHub : Hub := { waiting := List.replicate (Config.linkBuffer + 1) { came := some (.east, false) } }

/-- It gives no credit, and a frame for it stays at its sender. -/
theorem wit_noCredit :
    (fullHub.credit .east false = false ∧ ((carrying 3 (fun h => { h with waiting := fullHub.waiting })).seg 1).hub.credit .east false = false) ∧
    (carrying 3 (fun h => { h with waiting := fullHub.waiting })).inbound 1 (flying 3) =
      some (2, .west, { dir := .west, frame := flying 3 }) := by
  refine ⟨⟨?_, ?_⟩, ?_⟩
  · simp [fullHub, Hub.credit, Hub.bufferUsed]
  · show (Hub.credit { (_ : Hub) with waiting := fullHub.waiting } .east false) = false
    simp [fullHub, Hub.credit, Hub.bufferUsed]
    omega
  · rfl

theorem wit_LostInLink :
    ((meshed .kd5 (fun h => { h with east := { retraining := true } })).waistSegs = []) ∧
    gives (exec (.linkRetrainingEnd 5 1 .east (.failed 0 1)) ((carrying 3 id).onSeg 1 (fun g => { g with hub := { g.hub with east := { retraining := true } } })))
      (fun t => (t.seg 2).hub.tx == [] && (t.seg 1).hub.east.failed && (t.seg 2).hub.west.failed) = true ∧
    (mesh.linkUp 1 .east = true ∧ mesh.stepOf 0 .lc = none) ∧
    gives (exec (.linkTagFailure 5 1 .east ⟨.other [(0, .lc)], 0, 0⟩) mesh) (fun t => (t.seg 1).cnt.tagFails == 1
      && (t.seg 1).hub.east.tagFailBeat == some 1000 && (t.seg 1).health.uncorrected == 1) = true := by
  decide +kernel

/-- What the ends of the link from segment 1 to segment 2 show each other. -/
def shown : LinkAuth := { near := { chains := true, segment := 1, signed := true }, far := { chains := true, segment := 2, signed := true } }

/-- The same of a certificate of another SERIAL. -/
def forged : LinkAuth := { shown with far := { shown.far with serial := 1 } }

theorem wit_LinkFrames :
    (mesh.linkUp 1 .east = true ∧ neighbour mesh.segs.length 1 .east = some 2 ∧ mesh.waistSegs = [] ∧ (meshed .kd10 id).waistSegs = [0, 1, 2, 3, 4]) ∧
    gives (exec (.linkDown 1 .east) mesh) (fun t => t.linkUp 2 .west == false && (t.seg 2).hub.west.retraining && (t.seg 3).hub.west.up) = true ∧
    gives (exec (.linkRetrainingEnd 5 1 .east (.good shown)) (meshed .kd5 (fun h => { h with east := { retraining := true } }))) (fun t =>
      t.linkUp 1 .east && t.free == mesh.free + 2) = true ∧
    (mesh.linkAuthentic 1 2 shown = true ∧ mesh.linkAuthentic 1 2 forged = false ∧
      (mesh.onSeg 2 (fun g => { g with trust := { g.trust with identity := none } })).linkAuthentic 1 2 shown = false) ∧
    gives (exec (.linkRetrainingEnd 5 1 .east (.good forged)) (meshed .kd5 (fun h => { h with east := { retraining := true } }))) (fun t =>
      (t.seg 1).hub.east.failed && (t.seg 1).hub.east.reason == 0x11) = true ∧
    gives (exec (.linkRetrainingEnd 5 1 .east (.failed 0 0)) (meshed .kd5 (fun h => { h with east := { retraining := true } }))) (fun t =>
      (t.seg 1).hub.east.failed && (t.seg 2).hub.west.failed && (t.seg 2).hub.west.told && !(t.seg 1).hub.east.told && (t.seg 1).hub.east.reason == 0x10) = true ∧
    (carrying 3 id).inbound 1 (flying 3) = some (2, .west, { dir := .west, frame := flying 3 }) ∧ opposite .east = .west ∧
    ((carrying 3 id).stepOf (streamPart 4) (streamCls 4)).isNone = true ∧
    gives (exec (.linkTagFailure 5 1 .east ⟨.klf (flying 3), 0, 0⟩) (carrying 3 id)) (fun t => (t.seg 1).cnt.tagFails == 1 && (t.seg 2).hub.tx == []
      && (t.seg 1).hub.east.tagFailBeat == some 1000 && (t.seg 1).hub.east.up && (t.seg 1).health.uncorrected == 1) = true ∧
    gives (exec (.linkTagFailure 5 1 .east ⟨.klf (flying 3), 0, 0⟩) (carrying 3 (fun h => { h with east := { h.east with tagFailBeat := some 990 } }))) (fun t =>
      (t.seg 1).hub.east.failed && (t.seg 1).hub.east.reason == 0x11 && (t.seg 1).cnt.tagFails == 1) = true ∧
    gives (exec (.klfFrameReceive 1 (flying 0)) (carrying 0 id)) (fun t => (t.seg 1).hub.tx == [{ dir := .west, came := some (.east, false), frame := flying 0 }] && (t.seg 2).hub.tx == []) = true ∧
    gives (exec (.klfFrameReceive 1 (flying 1)) (carrying 1 id)) (fun t => (t.seg 1).hub.tx == [] && (t.seg 2).hub.tx == []
      && (t.seg 1).cnt.staleDrops == 1) = true ∧
    ((stepping 1).stepOf 0 .lc).any (fun st => st.launchNo == 10) = true ∧ (((stepping 1).seg 1).stepHere 0 .lc).isSome = true ∧
    gives (exec (.klfFrameReceive 1 (flying 1)) (stepping 1)) (fun t => (t.seg 1).cnt.staleDrops == 1 && (t.seg 2).hub.tx == []) = true := by
  decide +kernel

/-- Chunk codes by hand from R135 and R141: 2 under scale 1 is held by 127 * 2^-5, so its code is 64; zeros are no underrange; 2^20 is held
by no exponent; a sum of 300 shifts by two, and past exponent 7 is coded anew. -/
theorem wit_LinkFrames_codes :
    klfCode f32One true [f32OfInt 2, f32OfInt (-1)] = { e := -5, codes := [64, -32] } ∧
    klfCode f32One true [0, 0] = { e := -8, codes := [0, 0] } ∧
    klfCode f32One true [f32Inf true] = { e := 7, esc := true, forced := true, raw := [0xFF80] } ∧
    klfCode f32One true [f32OfInt (2 ^ 20)] = { e := 7, esc := true, raw := [0x4980] } ∧
    klfCode f32One false [f32OfInt (2 ^ 20), f32One] = { e := 7, codes := [127, 0], sat := 1 } ∧
    decodeChunk f32One { exp := 1, codes := [3] } = [f32OfInt 6] ∧ decodeChunk f32One { esc := true, raw := [0x3F80] } = [f32One] ∧
    (let k : CombSlot := { got := [1], e := 1, ints := [100, -5] }
     (combine f32One true { exp := 1, codes := [100, 2] } k).ints = [200, -3] ∧ (combine f32One false { exp := 1, codes := [7, 2] } k).ints = [100, 2] ∧
     (combine f32One true { exp := 2, codes := [1, 1] } k).floats = [f32OfInt 204, f32OfInt (-6)] ∧
     (combine f32One true { esc := true, raw := [0x3F80, 0] } k).floats = [f32OfInt 201, f32OfInt (-10)]) ∧
    codeInts f32One true true 0 [300, -2] = { e := 2, codes := [75, 0] } ∧ codeInts f32One true false 3 [5, 6] = { e := 3, codes := [5, 6] } ∧
    codeInts f32One false true 7 [300] = { e := 7, codes := [127], sat := 1 } := by
  decide +kernel

/-- A link between segments 1 and 2 that has failed, not yet reported, in a block of five or ten. -/
def cutEast (kind : KdKind) : State := (meshed kind id).moduleFailed 1 .east 0x10 ⟨1000, 0⟩

theorem wit_LinkService :
    ((cutEast .kd5).mgrUp = true ∧ ((cutEast .kd5).seg 1).hub.east.failed = true ∧ ((cutEast .kd5).seg 0).hub.detour = false) ∧
    gives (exec (.detourInstall 5) (cutEast .kd10)) (fun t => t.segs.all (fun g => g.hub.detour && g.state == .serving) && (t.seg 1).hub.east.told) = true ∧
    gives (exec (.detourInstall 5) (cutEast .kd5)) (fun t => t.segs.map (·.state) == [.serving, .serving, .lost, .lost, .lost]
      && (t.seg 4).lostReason == 0x02) = true ∧
    ((meshed .kd5 (fun h => { h with east := { h.east with txFrames := 2 ^ 32 } })).linkUp 1 .east = true) ∧
    gives (exec (.linkRekey 1 .east) (meshed .kd5 (fun h => { h with east := { h.east with txFrames := 2 ^ 32, keyGen := 511 } }))) (fun t =>
      (t.seg 1).hub.east.keyGen == 0 && (t.seg 1).hub.east.txFrames == 0) = true ∧
    (five.linkFailed 1 .east = false ∧ (five.seg 1).hub.east.up = false ∧ (five.seg 1).hub.east.retraining = false ∧ five.power.hush ≠ 1) ∧
    gives (exec (.linkTrained 1 .east true shown) five) (fun t => t.linkUp 1 .east && t.free == five.free + 2) = true ∧
    gives (exec (.linkTrained 1 .east false shown) five) (fun t => (t.seg 1).hub.east.reason == 0x10 && (t.seg 2).hub.west.failed) = true ∧
    gives (exec (.linkTrained 1 .east true forged) five) (fun t => (t.seg 1).hub.east.reason == 0x11 && (t.seg 1).hub.east.told) = true := by
  decide +kernel

/-- A hello that a block of the span trusts: that of identity key 77. -/
def hello : SpanHello := { identity := 77, fwDigest := 13, sigOk := true }

/-- A block in a span role, with one peer it trusts, its links up but stream 0. -/
def spanning (role : Nat) (l : List SpanSession) : State :=
  let trust : List TrustEntry := [{ index := if role = 1 then 3 else 0, manager := 11, standby := helloHash hello, firmware := 13 }]
  { one with glob := { one.glob with spanRole := role, spanPeers := [(3, 9)], spanTrust := trust },
             span := { one.span with linkUp := [false, true, true, true], sessions := l } }

/-- A session with a peer in a phase. -/
def talk (peer : Nat) (p : SpanPhase) : SpanSession := { peer := peer, id := 7, phase := p, minor := 2, txSeq := 4, unacked := [(1, 900), (3, 990)] }

/-- A datagram of that session. -/
def gram (peer : Nat) : SpanHeader := { block := peer, session := 7, seq := 0, ack := 2 }

/-- A SESSION_OPEN or SESSION_ACCEPT of its full length, from a source address. -/
def opening (peer : Nat) : SpanHeader := { gram peer with length := 376, source := 99 }

/-- A datagram of that session with records of some bytes. -/
def filled (peer bytes : Nat) : SpanHeader := { gram peer with length := bytes, records := 1 }

/-- The phase of session 7. -/
def phaseIn (t : State) (p : SpanPhase) : Bool := (t.spanSession 7).any (fun x => x.phase == p)

/-- A frame that the span port of a block accepts. -/
def goodFrame (s : State) : RxFrame :=
  { mac := s.glob.localMac, etherType := 0x86DD, next := 17, source := 9, dest := s.glob.localIp, srcPort := 5, port := s.glob.spanPort,
    checksum := udpChecksumOf 9 s.glob.localIp 5 s.glob.spanPort [1, 2, 3], data := [1, 2, 3] }

/-- A hello of the standby that a SPAN_TRUST entry names. -/
theorem trusted {s : State} {peer : Nat} {h : SpanHello}
    (hs : s.glob.spanTrust = [{ index := peer, manager := 11, standby := helloHash h, firmware := h.fwDigest }]) (ho : h.sigOk = true) :
    s.trusts peer h = true := by
  simp [State.trusts, hs, ho]

/-- A SESSION_OPEN of a trusted span manager that meets a worker without a session. -/
theorem open_trusted {s : State} {hd : SpanHeader} {h : SpanHello} (hu : s.spanUp = true) (hw : s.isWorker = true) (hb : hd.block = 0)
    (hl : hd.length = 376) (hn : s.spanSession hd.session = none) (hm : hd.major = 3) (hs : s.span.sessions = []) (ht : s.trusts 0 h = true) :
    exec (.sessionOpen hd h) s = .next (s.acceptSession hd h) := by
  show execSessionOpen hd h s = _
  simp [execSessionOpen, onlyIf, State.answerOpen, hu, hw, hb, hl, hn, hm, hs, ht]

/-- A SESSION_ACCEPT of a trusted worker that meets its session. -/
theorem accept_trusted {s : State} {hd : SpanHeader} {h : SpanHello} {x : SpanSession} (hu : s.spanUp = true) (hw : s.isSpanManager = true)
    (hl : hd.length = 376) (hn : s.spanSession hd.session = some x) (hp : x.phase = .opening) (hb : x.peer = hd.block) (hh : x.had hd.seq = false)
    (ht : (s.spanTaken hd).trusts hd.block h = true) :
    exec (.sessionAccept hd h) s = .next (((s.spanTaken hd).onSpan hd.session
      (fun x => spanKeys true h.ephemeral x.nonce h.nonce { x with phase := .opened, minor := min 2 hd.minor })).spanAcks hd.session) := by
  unfold State.spanTaken at ht
  show execSessionAccept hd h s = _
  simp [execSessionAccept, onlyIf, State.spanTake, State.checkAccept, State.spanTaken, hu, hw, hl, hn, hp, hb, hh, ht]

theorem wit_SpanSessions_opened :
    ((spanning 2 []).trusts 0 hello = true ∧ (spanning 1 []).trusts 3 hello = true) ∧
    gives (exec (.sessionOpen { opening 0 with minor := 0 } hello) (spanning 2 [])) (fun t => phaseIn t .opened && (t.spanSession 7).any (fun x =>
      x.minor == 0 && x.txSeq == 1 && x.stream == 3 && x.addr == 99 && x.txKey.isSome && x.rxKey.isSome)
        && t.span.out.map (fun m => (m.type, m.session, m.seq)) == [(2, 7, 0)]) = true ∧
    gives (exec (.sessionAccept (opening 3) hello) (spanning 1 [talk 3 .opening])) (fun t => phaseIn t .opened) = true := by
  rw [open_trusted (s := spanning 2 []) (hd := { opening 0 with minor := 0 }) (h := hello) (by decide +kernel) (by decide +kernel) rfl rfl rfl rfl
      rfl (trusted rfl rfl),
    accept_trusted (s := spanning 1 [talk 3 .opening]) (hd := opening 3) (h := hello) (x := talk 3 .opening) (by decide +kernel) (by decide +kernel)
      rfl rfl rfl rfl (by decide +kernel) (trusted rfl rfl)]
  refine ⟨⟨trusted rfl rfl, trusted rfl rfl⟩, ?_⟩
  decide +kernel

theorem wit_SpanSessions_again :
    exec (.sessionOpen (opening 0) hello) (spanning 2 [talk 0 .opened]) = .next (spanning 2 [talk 0 .opened]) := rfl

theorem wit_SpanSessions :
    ((spanning 2 []).spanUp = true ∧ (spanning 2 []).isWorker = true ∧ (spanning 2 []).trusts 0 {} = false) ∧
    gives (exec (.sessionOpen { opening 0 with major := 2 } hello) (spanning 2 [])) (fun t => t.span.out.map (fun m => (m.type, m.body)) == [(3, [1])]) = true ∧
    gives (exec (.sessionOpen { opening 0 with session := 8 } hello) (spanning 2 [talk 0 .opened])) (fun t =>
      t.span.out.map (fun m => (m.type, m.body)) == [(3, [2])]) = true ∧
    gives (exec (.sessionOpen (opening 0) {}) (spanning 2 [])) (fun t => t.span.out.map (fun m => (m.type, m.body)) == [(3, [3])] && t.cnt.spanAuthFails == 1) = true ∧
    gives (exec (.sessionOpen (gram 0) hello) (spanning 2 [])) (fun t => t.cnt.datagramDrops == 1 && t.span.sessions == []) = true ∧
    gives (exec (.sessionOpen (opening 3) hello) (spanning 2 [])) (fun t => t.cnt.datagramDrops == 1) = true ∧
    gives (exec (.sessionOpen (opening 0) hello) (spanning 1 [])) (fun t => t.cnt.datagramDrops == 1) = true ∧
    ((spanning 1 [talk 3 .opening]).isSpanManager = true ∧ (talk 3 .opening).had 0 = false) ∧
    gives (exec (.sessionAccept (opening 3) {}) (spanning 1 [talk 3 .opening])) (fun t => phaseIn t .closed && t.cnt.spanAuthFails == 1
      && (t.spanSession 7).any (fun x => x.retryAt == some 201000)) = true ∧
    gives (exec (.sessionRefuse (gram 3) 3) (spanning 1 [talk 3 .opening])) (fun t => phaseIn t .closed) = true ∧
    gives (exec (.spanAck (gram 3)) (spanning 1 [talk 3 .opened])) (fun t => (t.spanSession 7).any (fun x => x.acked == 3 && x.unacked == [(3, 990)])) = true ∧
    gives (exec (.spanAck { gram 3 with ack := 2 ^ 32 - 1 }) (spanning 1 [talk 3 .opened])) (fun t => t.spanSession 7 == some (talk 3 .opened)) = true ∧
    gives (exec (.close (gram 3)) (spanning 1 [talk 3 .opened])) (fun t => phaseIn t .closed && t.cnt.spanLost == 1) = true ∧
    ((spanning 2 []).frameAccepted (goodFrame (spanning 2 [])) = true ∧
      (spanning 1 []).frameAccepted { goodFrame (spanning 1 []) with source := 10, checksum := 0 } = false ∧
      (spanning 1 []).sourceStands 10 = false ∧ (spanning 2 []).sourceStands 10 = true ∧ (spanning 2 [talk 0 .opened]).sourceStands 10 = false) ∧
    [{ goodFrame (spanning 2 []) with rxErr := true }, { goodFrame (spanning 2 []) with mac := 1 }, { goodFrame (spanning 2 []) with etherType := 0x800 },
      { goodFrame (spanning 2 []) with next := 6 }, { goodFrame (spanning 2 []) with dest := 1 }, { goodFrame (spanning 2 []) with extension := true },
      { goodFrame (spanning 2 []) with port := 1 }, { goodFrame (spanning 2 []) with data := [1] }].all (fun f =>
        gives (exec (.spanDatagramDrop f) (spanning 2 [])) (fun t => t.cnt.frameDrops == 1 && t.cnt.datagramDrops == 0)) = true ∧
    gives (exec (.spanDatagramDrop (goodFrame (spanning 2 []))) (spanning 2 [])) (fun t => t.cnt.datagramDrops == 1 && t.cnt.frameDrops == 0) = true ∧
    gives (exec (.spanAck (gram 3)) { spanning 1 [talk 3 .opened] with span := { (spanning 1 [talk 3 .opened]).span with
        asks := [{ id := 1, session := 7, sent := some 2, bytes := 8 }, { id := 2, session := 7, sent := some 3, bytes := 8 }] } })
      (fun t => t.span.asks.map (·.id) == [2]) = true ∧    ((spanning 1 []).glob.spanRetx = 40) ∧
    gives (exec (.spanRetransmit 7 1) (spanning 1 [talk 3 .opened])) (fun t => (t.spanSession 7).any (fun x => x.noAdvance == 1 && x.unacked == [(1, 1000), (3, 990)])) = true ∧
    gives (exec (.spanRetransmit 7 1) (spanning 1 [{ talk 3 .opened with noAdvance := 8 }])) (fun t => phaseIn t .closed && t.cnt.spanLost == 1) = true ∧
    gives (exec (.spanSessionRekey 7 true) (spanning 1 [{ talk 3 .opened with txSeq := 2 ^ 28 }])) (fun t => (t.spanSession 7).any (fun x => x.txGen == 1)) = true ∧
    gives (exec (.spanSessionRekey 7 false) (spanning 1 [{ talk 3 .opened with rxNext := 2 ^ 28 }])) (fun t => (t.spanSession 7).any (fun x => x.rxGen == 1)) = true ∧
    gives (exec (.spanSessionRenew 7) (spanning 1 [talk 3 .opened])) (fun t => (t.spanSession 1).any (fun x => x.phase == .opening && x.peer == 3)) = true ∧
    ((spanning 1 []).mayOpen 3 = true) ∧
    gives (exec (.spanSessionRetry 3) (spanning 1 [])) (fun t => t.span.sessions.map (fun x => (x.id, x.peer)) == [(1, 3)] && t.span.nextId == 2) = true := by
  decide +kernel

/-- A plan that asked session 7 and still takes its results. -/
def askedPlan : Plan := { tag := 6, stage := .spanWait, asked := [7], deadline := 1000, cands := [{ ref := 4, worker := some 7, state := .asked }] }

/-- A span manager with a query whose plan is as given. -/
def asking (pl : Plan) : State :=
  let s := planning pl id
  { s with glob := (spanning 1 []).glob, span := (spanning 1 [talk 3 .opened]).span }

/-- A worker whose span partition 0 has an index of dimension 64 and 16 lists. -/
def worker : State :=
  let s := { spanning 2 [talk 0 .opened] with indexes := [{ id := 4, part := 0, desc := indexPlain.desc }] }
  { s with glob := { s.glob with spanPartition := 0 } }

/-- The same with a landing window of 1,024 bytes. -/
def windowed : State :=
  { worker with glob := { worker.glob with spanWindows := [{ id := 2, seg := 0, base := 5, size := 4 }] } }

/-- A QUERY datagram of a header, a first record and others. -/
def ofQuery (hd : SpanHeader) (r : QueryRec) (more : List QueryRec) : Instr :=
  .query ⟨hd, more⟩ r.deadline r.tag r.indexId r.nprobe r.scanK r.dim r.vector

/-- A HEAP_RESULT datagram of a header, a first record and others. -/
def ofHeap (hd : SpanHeader) (r : HeapRec) (more : List HeapRec) : Instr := .heapResult ⟨hd, more⟩ r.tag r.first r.entries r.last

/-- A KLF_DATA datagram of a header and one record. -/
def ofKlf (hd : SpanHeader) (r : KlfRecord) : Instr := .klfData ⟨hd, []⟩ r.frame r.scale r.destSeg r.window r.offset

/-- A query on an index of the worker's, of no vector. -/
def lostQuery : QueryRec := { deadline := 5000, tag := 30, indexId := 4, nprobe := 1, scanK := 10 }

/-- The worker with a region of ten passages. -/
def archive2 : State := { worker with glob := { worker.glob with regions := [{ region := 1, keySlot := 4, passages := 10 }] } }

theorem wit_SpanTraffic :
    (worker.spanUp = true ∧ (worker.spanSession 7).any (fun x => x.phase == .opened && x.peer == 0 && !x.had 0) = true ∧
      (worker.spanIndex 4 (ixDim indexPlain.desc)).isSome = true ∧ worker.spanIndex 4 1 = none ∧ worker.freeIndex = some 0) ∧
    gives (exec (ofQuery (filled 0 32) { lostQuery with dim := 1 } []) worker) (fun t => t.span.queries == [] && t.span.out.map (·.type) == [5, 8]) = true ∧
    gives (exec (ofQuery (filled 0 36) { lostQuery with nprobe := 0, scanK := 5000, dim := ixDim indexPlain.desc, vector := [1, 2] } []) worker) (fun t =>
      t.span.queries.map (fun q => (q.tag, q.nprobe, q.scanK)) == [(30, 1, 1024)] && (t.live 0).any (fun q => q.req.spanQuery == some 30)) = true ∧
    gives (exec (ofQuery (filled 0 33) lostQuery []) worker) (fun t => t.cnt.datagramDrops == 1) = true ∧
    ((asking askedPlan).isSpanManager = true ∧ (asking askedPlan).planOf 0 = some { askedPlan with indexId := 4 } ∧
      (asking askedPlan).tagged 6 = some 0 ∧ (asking askedPlan).tagged 5 = none ∧ takesResults 1000 7 askedPlan = true) ∧
    gives (exec (ofHeap (filled 3 32) { tag := 6, entries := [(9, 4)], last := true } []) (asking askedPlan)) (fun t =>
      (t.planOf 0).any (fun pl => pl.spanList == [(7, 9, 4)] && pl.ended == [7])) = true ∧
    gives (exec (ofHeap { filled 3 64 with records := 2 } { tag := 6, entries := [(9, 4)], last := true } [{ tag := 6, entries := [(8, 5)] }])
      (asking askedPlan)) (fun t => (t.planOf 0).any (fun pl => pl.spanList == [(7, 9, 4), (7, 8, 5)])) = true ∧
    gives (exec (ofHeap (filled 3 32) { tag := 6, entries := [(9, 4)], last := true } []) (asking { askedPlan with deadline := 999 })) (fun t =>
      t.cnt.spanLate == 1) = true ∧
    gives (exec (ofHeap (filled 3 32) { tag := 5, entries := [(9, 4)], last := true } []) (asking askedPlan)) (fun t => t.cnt.spanLate == 1) = true ∧
    (archive2.spanUp = true ∧ archive2.isWorker = true ∧ (archive2.region passageRef).any (fun g => bits 55 0 passageRef < g.passages) = true) ∧
    gives (exec (.candidateRef (filled 0 16) (.ask passageRef 30) []) archive2) (fun t =>
      t.span.asks.map (fun a => (a.session, a.ref, a.tag)) == [(7, passageRef, 30)]) = true ∧
    gives (exec (.candidateRef (filled 0 16) (.ask 4 30) []) worker) (fun t => t.cnt.fetchFails == 1 && t.span.out.map (·.type) == [6, 8]) = true ∧
    gives (exec (.candidateRef (filled 3 16) (.piece 4 6 0 [] true true) []) (asking { askedPlan with stage := .fetch })) (fun t => (t.planOf 0).any (fun pl =>
      pl.cands.all (fun c => c.state == .dropped))) = true ∧
    (windowed.windowFor 0 2 512).isSome = true ∧ windowed.windowFor 0 2 513 = none ∧
    gives (exec (ofKlf (filled 0 280) { frame := { codes := List.replicate 256 3 }, scale := 0x3F800000, window := 2, offset := 512 }) windowed) (fun t =>
      t.cnt.windowDrops == 0 && (memRead (t.seg 0).staging 1792 != 0 || memRead (t.seg 0).staging 1793 != 0)) = true ∧
    gives (exec (ofKlf (filled 0 280) { window := 2, offset := 513 }) windowed) (fun t => t.cnt.windowDrops == 1 && (t.seg 0).staging == []) = true ∧
    gives (exec (ofKlf (filled 0 281) { window := 2, offset := 512 }) windowed) (fun t => t.cnt.datagramDrops == 1 && t.span.out == []) = true ∧
    gives (exec (ofKlf { filled 0 280 with session := 8 } { window := 2, offset := 512 }) windowed) (fun t => t.cnt.datagramDrops == 1) = true ∧
    gives (exec (ofKlf { filled 3 280 with seq := 0 } { window := 2 }) (spanning 1 [{ talk 3 .opened with rxNext := 1 }])) (fun t =>
      (t.spanSession 7).any (fun x => x.acked == 3) && t.cnt.windowDrops == 0 && t.cnt.datagramDrops == 0) = true ∧
    gives (exec (.spanWindowRemove 2) { one with span := { one.span with removing := [{ id := 2 }] } }) (fun t => t.span.removing == []) = true ∧
    gives (exec (.spanLinkUp 0) (spanning 1 [talk 3 .opened])) (fun t => t.span.linkUp == [true, true, true, true]) = true ∧
    gives (exec (.spanLinkDown 3) (spanning 1 [talk 3 .opened])) (fun t => t.span.linkUp == [false, true, true, false]
      && (t.spanSession 7).any (fun x => x.stream == 1)) = true := by
  decide +kernel

/-! Fencing, takeover and split. -/

/-- The block of ten with a segment whose last heartbeat came some beats ago. -/
def quiet (i n : Nat) : State := ten.onSeg i (fun g => { g with lastHb := 1000 - n })

/-- The block of ten whose standby has fenced and confirmed the silence of segment 0, at heartbeat age 48. -/
def confirmed (current : Bool) : State :=
  let m : Delta := { seqNo := 8, tenants := [(4, { valid := true })] }
  let s := (quiet 5 48).onSeg 5 (fencedSegment 0x01)
  { s with roles := { s.roles with confirm := { silent := [1, 2], asked := [3] } },
           mirror := { s.mirror with applied := m, currentAtFence := current }, seqs := [(0, liveSeq)] }

/-- The block of ten recovering. -/
def recoveringTen : State :=
  { ten.onSeg 2 (holdQueues ⟨1000, 0⟩ true) with roles := { ten.roles with recovering := some 5000 } }

theorem wit_Silence :
    (ten.mgr = 0 ∧ (ten.seg 5).state = .serving ∧ (quiet 5 40).power.hush = 0 ∧ (quiet 5 40).inSecond 5 = false) ∧
    gives (exec (.fence 4) (quiet 4 40)) (fun t => (t.seg 4).state == .fenced && (t.seg 4).fenceReason == 1 && (t.seg 4).nq.hold && (t.seg 4).nq.owner
      && t.roles == ten.roles) = true ∧
    gives (exec (.fence 5) (quiet 5 40)) (fun t => t.mirror.currentAtFence && t.roles.confirm.asked == [1, 2, 3, 4]) = true ∧
    same (exec (.fence 5) (quiet 5 39)) (.next (quiet 5 39)) = true ∧
    ((ten.onSegs (fun i g => if i = 0 then g else { g with lastAck := 968 })).isolated = true ∧ ten.isolated = false ∧ (∀ x ∈ ten.objs.eps, x.transfers = [])) ∧
    gives (exec .managerSelfFence (ten.onSegs (fun i g => if i = 0 then g else { g with lastAck := 968 }))) (fun t => t.roles.selfFenced
      && (t.seg 0).state == .fenced && (t.seg 0).fenceReason == 3) = true ∧
    ((confirmed true).segUp 3 = true ∧ 3 ∈ (confirmed true).roles.confirm.asked) ∧
    gives (exec (.confirm 3) (confirmed true)) (fun t => t.roles.confirm.answers == [(3, false)] && t.roles.confirm.asked == []) = true ∧
    gives (exec (.confirm 3) { confirmed true with segs := (meshed .kd10 id).segs }) (fun t =>
      (t.seg 3).hub.west.txFrames + (t.seg 3).hub.south.txFrames == 1) = true ∧
    gives (exec .managerSelfFence ((ten.onSegs (fun i g => if i = 0 then g else { g with lastAck := 968 })).onSeg 0 (fun g => { g with port := { g.port with
        waiting := [{ what := .ringRecord 0 0 }, { what := .passage 0 0 }], retry := [(5, { what := .writeBack 0 false [] })] } })))
      (fun t => (t.seg 0).port.waiting.map (·.what) == [.passage 0 0] && (t.seg 0).port.retry == []) = true ∧
    gives (exec (.confirmAnswer 3 true) { ten with roles := { ten.roles with confirm := { answers := [(3, true)] } } }) (fun t =>
      t.roles.confirm.silent == [3] && t.roles.confirm.answers == []) = true ∧
    gives (exec (.confirmAnswer 3 false) { ten with roles := { ten.roles with confirm := { answers := [(3, false)] } } }) (fun t =>
      t.roles.confirm.alive == [3]) = true ∧
    ((confirmed true).roles.mirrorSeg = some 5 ∧ (confirmed true).mayTakeOver = true ∧ (confirmed false).mayTakeOver = false ∧
      ((confirmed true).seg 5).state = .fenced ∧ ((confirmed true).seg 5).fenceReason = 0x01 ∧ ((confirmed true).seg 5).lastHb = 952) ∧
    gives (exec (.takeover 7 []) (confirmed true)) (fun t => t.roles.manager == 5 && t.roles.recovering == some 5000 && t.seqs == []
      && (t.seg 0).state == .lost && (t.seg 5).state == .serving && t.tenants.map (·.1) == [4] && t.cnt.takeovers == 1) = true ∧
    (((confirmed true).seg 5).nq.stalled = [] ∧ 4 ≤ ((confirmed true).seg 5).nq.cap) ∧
    gives (exec (.takeover 7 []) ((confirmed true).onSeg 5 (fun g => { g with nq := { g.nq with words := [{ data := 3, eor := true }] } }))) (fun t =>
      ((t.seg 5).nq.words.take 4).map (·.data) == noticeWords 0x0D 0 0 0 ⟨1000, 7⟩ (takeoverDetail 0 5 8)) = true ∧
    gives (exec (.takeover 7 []) (confirmed false)) (fun t => t.roles.manager == 0 && (t.seg 5).state == .fenced && (t.seg 5).fenceReason == 2) = true ∧
    gives (exec .recoveryEnd recoveringTen) (fun t => t.roles.recovering == none && !(t.seg 2).nq.hold && (t.seg 2).nq.owner == false) = true ∧
    gives (exec .recoveryEnd (recoveringTen.onSeg 2 (fun g => { g with trust := { g.trust with testHeld := true } }))) (fun t =>
      t.roles.recovering == none && (t.seg 2).nq.hold) = true ∧
    gives (exec .recoveryEnd (recoveringTen.onSeg 2 (fun g => { g with state := .fenced }))) (fun t => (t.seg 2).nq.hold) = true ∧
    gives (exec .standbyNaming { ten with roles := {}, cfg := { ten.cfg with mgrCapable := [0, 5, 7] } }) (fun t =>
      t.roles.candidate == some 5 && t.mirror.copying) = true ∧
    ({ ten with roles := {}, cfg := { ten.cfg with mgrCapable := [0, 5, 7] } }.firstStandbyComes = false) := by
  decide +kernel

/-- The block of ten cut at the waist, its far standby fenced. -/
def cutTen (current : Bool) : State :=
  let s := ten.onSegs (fun i g => if 5 ≤ i then fencedSegment 0x01 g else { g with hub := { g.hub with south := { g.hub.south with failed := true } } })
  { s with roles := { s.roles with standby := none, farStandby := some 5, splitState := 1, farHalf := [5, 6, 7, 8, 9] },
           mirror := { s.mirror with currentAtFence := current, applied := { seqNo := 8, tenants := [(4, { valid := true })] } } }

/-- What the ends of the waist link from segment 3 to segment 8 show each other. -/
def across : LinkAuth := { near := { chains := true, segment := 3, signed := true }, far := { chains := true, segment := 8, signed := true } }

/-- A path through a segment's own target. -/
def target (k : Nat) : Path := { ep := .i3c k }

/-- A second block in its turn, with a live sequence. -/
def secondTurn : State := { managed halves.turn with seqs := [(0, liveSeq)] }

/-- Two blocks of which the second, not in its turn, ends. -/
def endingHalves : State := { halves with other := halves.other.map (fun b => { b with roles := { b.roles with ending := true } }) }

/-- The block of ten whose standby has fenced by silence alone, no waist cut recorded. -/
def standing : State :=
  let s := ten.onSeg 5 (fencedSegment 0x01)
  { s with mirror := { s.mirror with currentAtFence := true } }

/-- Two blocks about to rejoin, the second, not prepared, with a live sequence and a dim record. -/
def rejoiningHalves : State :=
  let s := { halves with segs := halves.segs.map (fun (g : Segment) => { g with hub := {} }), roles := { halves.roles with rejoinBy := some 2000 } }
  { s with other := s.other.map (fun (b : Block) => { b with segs := s.segs, seqs := [(0, liveSeq)], handles := [(3, { tier := .dim, dim := some {} })] }) }

theorem wit_SplitAndRejoin :
    ((cutTen true).arrives (target 5) [oamWord 2 (entryHead 4 0x2000 0x0D 0), 1] = true ∧ (cutTen true).transfer (.i3c 5) 4 = none ∧
      (cutTen true).unretired = true) ∧
    gives (exec (.splitMode 5 (target 5) 4) (cutTen true)) (fun t => t.roles.splitState == 2 && (t.seg 9).state == .serving && (t.seg 9).hbFrom == 5
      && t.mgr == 5 && t.roles.isSecond && t.roles.recovering == some 5000 && t.tenants.map (·.1) == [4]
      && t.other.any (fun b => b.roles.manager == 0 && b.roles.splitState == 2 && b.tenants == (cutTen true).tenants)) = true ∧
    gives (exec (.splitMode 5 (target 5) 4) (cutTen false)) (fun t => t.roles.splitState == 1 && t.other.isNone && (t.seg 9).state == .fenced) = true ∧
    gives (exec (.splitMode 5 (target 5) 4) standing) (fun t => t.roles.splitState == 2 && t.mgr == 5 && (t.seg 6).state == .serving
      && t.other.any (fun b => b.roles.manager == 0 && b.roles.farHalf == [5, 6, 7, 8, 9])) = true ∧
    gives (exec (.rejoinPrepare 5 (target 5) 4) (cutTen true)) (fun t => (t.seg 7).state == .fenced && (t.seg 7).fenceReason == 5) = true ∧
    (halves.inSecond 6 = true ∧ halves.turn.inSecond 6 = false ∧ halves.other.isSome = true) ∧
    gives (exec (.queueFlush ⟨5, 6, 0⟩) halves) (fun t => t.mgr == 0 && t.other.isSome) = true ∧
    (takesWrite secondTurn bmc 0x2000 0x0D 0 2 = true ∧ secondTurn.roles.isSecond = true) ∧
    gives (exec (.rejoinPrepare 5 bmc 4) secondTurn) (fun t => t.roles.ending && (t.live 0).any (fun q => q.ended.isSome)) = true ∧
    gives (exec (.rejoinPrepare 5 bmc 4) (managed one)) (fun t => said t == abortWords (entryHead 4 0x2000 0x0D 0) (abortCode 0xD 0)) = true ∧
    (∃ b, endingHalves.other = some b ∧ b.roles.ending = true ∧ b.seqs = [] ∧ b.segs.length = endingHalves.segs.length ∧
      ∀ i < endingHalves.segs.length, i < (List.replicate 10 (25 : Int)).length ∧
        (List.replicate 10 (25 : Int)).getD i 0 < (endingHalves.glob.thermalTrip : Int)) ∧
    gives (exec (.beatEdge 0 (List.replicate 10 25)) endingHalves) (fun t => t.other.isNone && t.roles.splitState == 1
      && (t.seg 7).state == .fenced && (t.seg 7).fenceReason == 5 && (t.seg 2).state == .serving) = true ∧
    gives (exec (.beatEdge 0 (List.replicate 10 25)) { endingHalves with roles := { endingHalves.roles with waistUp := true } }) (fun t =>
      t.other.isNone && t.roles.splitState == 3 && t.roles.farHalf == [] && (t.seg 7).state == .joining && (t.seg 2).state == .serving) = true ∧
    takesWrite (managed (cutTen true)) bmc 0x2000 0x0E 0 1 = true ∧
    gives (exec (.rejoin 5 bmc 4) (managed (cutTen true))) (fun t => t.roles.rejoinBy == some 3000 && t.roles.rejoinFor == some (.pcie, 4)
      && (t.seg 3).hub.south.failed == false && said t == []) = true ∧
    gives (exec (.rejoin 5 bmc 4) (managed ten)) (fun t => t.roles.rejoinBy == none && said t != []) = true ∧
    gives (exec .rejoinTrainTimeout { cutTen true with roles := { (cutTen true).roles with rejoinBy := some 1000, rejoinFor := some (.pcie, 4) } }) (fun t =>
      t.roles.rejoinBy == none && t.roles.rejoinFor == none && (t.seg 3).hub.south.failed && (t.seg 8).hub.north.failed && said t != []) = true ∧
    gives (exec (.linkTrained 3 .south true across) { (cutTen true).onSegs (fun _ g => { g with hub := {} }) with
        roles := { (cutTen true).roles with rejoinBy := some 2000 } }) (fun t => t.roles.splitState == 3 && t.roles.farHalf == [] && (t.seg 8).state == .joining) = true ∧
    gives (exec (.linkTrained 3 .south true across) rejoiningHalves) (fun t => t.roles.splitState == 2 && t.roles.rejoinBy == none && t.roles.waistUp
      && t.cnt.dimSealFails == 1 && t.other.any (fun b => b.roles.ending && b.seqs.all (fun e => e.2.ended.isSome))) = true := by
  refine ⟨?_, ?_, ?_, ?_, ?_, ?_, ?_, ?_, ?_, ?_, ⟨_, rfl, ?_⟩, ?_⟩ <;> decide +kernel

/-! Supplies, margin and the stack's PHY. -/

/-- The block of five with its feed in amber, above its clear level since beat 900. -/
def amberFeed : State := { five with power := { five.power with feedAmber := true, feed := 4650, feedAbove := some ⟨900, 0⟩ } }

/-- The block of five with the rail of segment 2 in amber, above its clear level since beat 900. -/
def amberRail : State := five.onSeg 2 (fun g => { g with supply := { railAmber := true, throttled := true, railAbove := some ⟨900, 0⟩ } })

/-- The notice record that stands in the notice queue of a segment. -/
def noticed (t : State) (i : Nat) : List Nat := (t.seg i).nq.words.map (·.data)

/-- Notices (R293, R294, R380 to R382, R416): their codes, scope, segment and reading. -/
theorem wit_Supplies_notices :
    gives (exec (.feedReading 7 4600) five) (fun t => noticed t 0 == noticeWords 0x05 0 0 0 ⟨1000, 7⟩ (supplyDetail true 4600)
      && (t.seg 3).supply.feedAt == some ⟨1000, 7⟩) = true ∧
    gives (exec (.railDroopEdge 7 2 50) five) (fun t => noticed t 2 == noticeWords 0x05 1 2 0 ⟨1000, 7⟩ (supplyDetail false 50)) = true ∧
    five.power.inReset = false ∧
    gives (exec (.supplyClear .feed) amberFeed) (fun t => noticed t 0 == noticeWords 0x06 0 0 0 amberFeed.edge (supplyDetail true 4650)) = true ∧
    gives (exec (.supplyClear (.rail 2)) amberRail) (fun t => noticed t 2 == noticeWords 0x06 1 2 0 amberRail.edge (supplyDetail false 0)) = true ∧
    gives (exec (.feedStale 7 3) five) (fun t => noticed t 3 == noticeWords 0x05 0 0 0 ⟨1000, 7⟩ (supplyDetail true 0xFFFF)) = true ∧
    (before ⟨1000, 7⟩ (plusBeats ⟨990, 8⟩ 10) = true ∧ before ⟨1000, 7⟩ (plusBeats ⟨990, 7⟩ 10) = false) ∧
    gives (exec (.feedStale 7 3) (five.onSeg 3 (fun g => { g with supply := { g.supply with feedAt := some ⟨990, 8⟩ } }))) (fun t => t.cnt.feedStale == 0) = true ∧
    gives (exec (.feedStale 7 3) (five.onSeg 3 (fun g => { g with supply := { g.supply with feedAt := some ⟨990, 7⟩ } }))) (fun t => t.cnt.feedStale == 1) = true := by
  decide +kernel

theorem wit_Supplies :
    (five.glob.feedCrimson = 4200 ∧ five.glob.feedAmber = 4600 ∧ five.glob.feedClear = 4700 ∧ five.power.gongOut = false ∧ five.feedInAmber = false) ∧
    gives (exec (.feedReading 7 4200) five) (fun t => t.power.gongOut && t.power.inReset && t.segs.all (fun g => g.supply.gong == some t.power.gongLast)
      && t.time.beat == 1000) = true ∧
    gives (exec (.feedReading 7 4600) five) (fun t => t.power.feedAmber && t.segs.all (fun g => g.supply.throttled) && t.cnt.amberEntries == 1
      && !t.power.inReset) = true ∧
    gives (exec (.feedReading 7 4601) five) (fun t => !t.power.feedAmber && t.power.feed == 4601 && t.power.feedAbove == none) = true ∧
    gives (exec (.feedReading 7 4701) amberFeed) (fun t => t.power.feedAbove == some ⟨900, 0⟩) = true ∧
    gives (exec (.feedReading 7 4701) five) (fun t => t.power.feedAbove == some ⟨1000, 7⟩) = true ∧
    gives (exec (.feedReading 7 4700) amberFeed) (fun t => t.power.feedAbove == none && t.power.feedAmber) = true ∧
    gives (exec (.railDroopEdge 7 2 100) five) (fun t => t.power.gongOut && t.power.inReset) = true ∧
    gives (exec (.railDroopEdge 7 2 50) five) (fun t => (t.seg 2).supply.railAmber && (t.seg 2).supply.throttled && (t.seg 2).supply.railEntries == 1
      && t.cnt.amberEntries == 1 && !(t.seg 3).supply.throttled) = true ∧
    gives (exec (.railDroopEdge 7 2 49) five) (fun t => !(t.seg 2).supply.railAmber && (t.seg 2).supply.railAbove == none) = true ∧
    gives (exec (.railDroopEdge 7 2 99) amberRail) (fun t => (t.seg 2).supply.railEntries == 0 && (t.seg 2).supply.droop == 99) = true ∧
    (clearRun amberFeed.glob.clearBt amberFeed.edge amberFeed.power.feedAbove = true ∧ clearRun 20 ⟨1000, 0⟩ (some ⟨980, 0⟩) = true ∧
      clearRun 20 ⟨1000, 0⟩ (some ⟨980, 1⟩) = false) ∧
    gives (exec (.supplyClear .feed) amberFeed) (fun t => !t.power.feedAmber && t.segs.all (fun g => !g.supply.throttled)) = true ∧
    gives (exec (.supplyClear (.rail 2)) amberRail) (fun t => !(t.seg 2).supply.railAmber && !(t.seg 2).supply.throttled) = true ∧
    gives (exec (.feedStale 7 3) five) (fun t => (t.seg 3).supply.feedStale && (t.seg 3).supply.throttled && t.cnt.feedStale == 1 && t.cnt.amberEntries == 1
      && !(t.seg 2).supply.throttled) = true ∧
    gives (exec (.feedStale 7 3) amberFeed) (fun t => t.cnt.feedStale == 1 && t.cnt.amberEntries == 0 && t.power.feedAbove == none) = true := by
  decide +kernel

/-- The block of five with a measurement due on segment 2, its health as given. -/
def measuring (f : Health → Health) : State := five.onSeg 2 (fun g => { g with health := f { g.health with remeasure := true } })

theorem wit_MarginAndPhy :
    (five.glob.marginThreshold = 40 ∧ five.glob.marginFloor = 10 ∧ five.glob.vcoreMax = 800 ∧ five.glob.planClock = 1900) ∧
    gives (exec (.marginMeasurement 2 40) (measuring id)) (fun t => (t.seg 2).health.marginPs == 40 && (t.seg 2).health.vcoreMv == 750) = true ∧
    gives (exec (.marginMeasurement 2 40) { five with time := { five.time with beat := 2 ^ 20 } }) (fun t => (t.seg 2).health.marginPs == 40) = true ∧
    gives (exec (.marginMeasurement 2 5) ((measuring id).onSeg 2 (fun g => { g with supply := { railAmber := true } }))) (fun t =>
      (t.seg 2).health.marginPs == 0 && (t.seg 2).health.remeasure && (t.seg 2).state == .serving) = true ∧
    gives (exec (.marginMeasurement 2 9) (measuring id)) (fun t => (t.seg 2).state == .lost && (t.seg 2).lostReason == 0x06) = true ∧
    gives (exec (.marginMeasurement 2 10) (measuring id)) (fun t => (t.seg 2).health.vcoreMv == 755 && (t.seg 2).health.vreqOut) = true ∧
    gives (exec (.marginMeasurement 2 39) (measuring (fun h => { h with vreqOut := true }))) (fun t => (t.seg 2).health.vcoreMv == 750) = true ∧
    gives (exec (.marginMeasurement 2 39) (measuring (fun h => { h with vcoreMv := 796 }))) (fun t => (t.seg 2).health.stepDown) = true ∧
    gives (exec (.marginMeasurement 2 39) (measuring (fun h => { h with vcoreMv := 795 }))) (fun t => (t.seg 2).health.vcoreMv == 800) = true ∧
    gives (exec (.marginMeasurement 2 39) (measuring (fun h => { h with vcoreMv := 796, clockMhz := 1924 }))) (fun t => !(t.seg 2).health.stepDown) = true ∧
    gives (exec (.clockStep 2) (measuring (fun h => { h with stepDown := true }))) (fun t => (t.seg 2).health.clockMhz == 1975 && (t.seg 2).health.recordMhz == 1975) = true ∧
    gives (exec (.clockStep 2) (measuring (fun h => { h with stepDown := true, clockMhz := 1924 }))) (fun t => (t.seg 2).health.clockMhz == 1924
      && !(t.seg 2).health.stepDown && noticed t 2 == noticeWords 0x08 1 2 0 five.edge (replanDetail (five.seg 2).health.marginPs 1924 1900)) = true ∧
    gives (exec (.vreqAck 2) (measuring (fun h => { h with vreqOut := true }))) (fun t => !(t.seg 2).health.vreqOut) = true ∧
    gives (exec (.phyUpdateRequest 2 true) five) (fun t => (t.seg 2).stack.phyWindow == some 1000) = true ∧
    same (exec (.phyUpdateRequest 2 false) (five.onSeg 2 (fun g => { g with stack := { g.stack with phyWindow := some 990 } })))
      (.next (five.onSeg 2 (fun g => { g with stack := { g.stack with phyWindow := some 990 } }))) = true := by
  decide +kernel

/-! The native port and the test port. -/

/-- A port that waits for the answer of a request. -/
def issuing (r : DmaReq) : State := (liveIn liveSeq).onSeg 0 (fun g => { g with port := { g.port with issued := [r] } })

/-- The answer on the port of segment 0. -/
def replied (t : State) : Nat × Nat := ((t.seg 0).port.rspStatus, (t.seg 0).port.rspData)

theorem wit_HostAccesses :
    (one.portOpen ⟨0, 0⟩ = true ∧ placeAt 0x10 = .global 0x10 ∧ placeAt 0x150000 = .reserved ∧ placeAt 0x1430000 = .segment 1 0x30000 ∧ one.hasSeg 1 = false) ∧
    gives (exec (.forwardedAccess 7 ⟨0, 0⟩ 0x14 false 0) one) (fun t => replied t == (1, 0)) = true ∧
    ((one.onSeg 0 (fun g => { g with state := .fenced })).portFenced 0 = true) ∧
    gives (exec (.forwardedAccess 7 ⟨0, 0⟩ 0x10 false 0) (one.onSeg 0 (fun g => { g with state := .fenced }))) (fun t => replied t == (2, 0)) = true ∧
    gives (exec (.registerWrite 7 ⟨0, 0⟩ 0x150000 5) one) (fun t => replied t == (0, 0) && t.parts == one.parts) = true ∧
    gives (exec (.forwardedAccess 7 ⟨0, 0⟩ 0x1430000 false 0) one) (fun t => replied t == (0, 0)) = true ∧
    gives (exec (.forwardedAccess 7 ⟨0, 0⟩ 0x18 false 0) one) (fun t => replied t == (0, 1000)) = true ∧
    gives (exec (.forwardedAccess 7 ⟨0, 0⟩ 8 false 0) five) (fun t => replied t == (0, 0x4B440005)) = true ∧
    gives (exec (.registerWrite 7 ⟨0, 0⟩ 0x10 5) one) (fun t => replied t == (0, 0) && t.parts == one.parts) = true ∧
    ((one.routed 0 (.global 0x10) = true) ∧ ({ one with roles := { one.roles with managerSilent := true } }.routed 0 (.global 0x10) = false)) ∧
    gives (exec (.forwardedAccess 7 ⟨0, 0⟩ 0x10 false 0) { one with roles := { one.roles with managerSilent := true } }) (fun t => replied t == (3, 0)) = true ∧
    gives (exec (.registerWrite 7 ⟨0, 0⟩ 0x1008 (1 * 2 ^ 60 + 5 * 2 ^ 32 + 3 * 2 ^ 16)) loops) (fun t => ((t.part 0).loop .lc).running == false) = true ∧
    gives (exec (.registerWrite 7 ⟨0, 0⟩ 0x1000 (1 * 2 ^ 60 + 5 * 2 ^ 32 + 3 * 2 ^ 16)) loops) (fun t => ((t.part 0).loop .lc).running
      && ((t.part 0).loop .lc).remaining == some 3) = true := by
  decide +kernel

theorem wit_HostAccesses_tags :
    ((one.seg 0).port.busy = [] ∧ one.takesReq 0 3 = true ∧ (one.onSeg 0 (fun g => { g with port := { g.port with busy := [3] } })).takesReq 0 3 = false ∧
      (one.onSeg 0 (fun g => { g with port := { g.port with busy := [3] } })).takesReq 0 4 = true) ∧
    gives (exec (.forwardedAccess 7 ⟨0, 3⟩ 0x18 false 0) one) (fun t => (t.seg 0).port.rspTag == 3 && (t.seg 0).port.busy == [] && replied t == (0, 1000)) = true ∧
    gives (exec (.forwardedAccess 7 ⟨0, 3⟩ 0x18 false 0) (one.onSeg 0 (fun g => { g with port := { g.port with busy := [3] } }))) (fun t =>
      replied t == (0, 0) && (t.seg 0).port.busy == [3]) = true ∧
    gives (exec (.forwardedAccess 7 ⟨0, 64⟩ 0x18 false 0) (one.onSeg 0 (fun g => { g with port := { g.port with busy := List.range 64 } }))) (fun t =>
      replied t == (0, 0) && (t.seg 0).port.busy.length == 64) = true ∧
    gives (exec (.forwardedAccess 7 ⟨2, 0⟩ 0x18 false 0) { mesh with segs := (mesh.onSeg 2 (fun g => { g with port := { g.port with connected := true } })).segs })
      (fun t => (t.seg 2).hub.west.txFrames == 1 && (t.seg 1).hub.west.txFrames == 1 && (t.seg 0).hub.east.txFrames == 1 && (t.seg 2).port.rspData == 1000) = true := by
  decide +kernel

theorem wit_FarPorts :
    (halves.inSecond 6 = true ∧ halves.turn.inSecond 6 = false ∧ halves.portOpen ⟨0, 0⟩ = true) ∧
    gives (exec (.forwardedAccess 7 ⟨6, 0⟩ 0x18 false 0) (halves.turn.onSeg 6 (fun g => { g with port := { g.port with connected := true } })).turn)
      (fun t => t.mgr == 0 && t.other.any (fun b => (b.segs.getD 6 {}).port.rspStatus == 0 && (b.segs.getD 6 {}).port.rspData == 1000)) = true ∧
    gives (exec (.forwardedAccess 7 ⟨3, 0⟩ 0x18 false 0) { five with cfg := { five.cfg with connected := [0, 3] } }) (fun t =>
      (t.seg 3).port.rspStatus == 0 && (t.seg 3).port.rspData == 1000) = true := by
  decide +kernel

theorem wit_InitiatorChannel :
    (outstanding 4 true ((issuing { failedReq with sent := 1 }).seg 0).port = some { failedReq with sent := 1 } ∧
      outstanding 4 true ((issuing failedReq).seg 0).port = none) ∧
    gives (exec (.dmaWriteResponse ⟨7, 0⟩ 4 false) (issuing { failedReq with sent := 1, more := 64 })) (fun t => (t.seg 0).port.issued == []
      && (t.seg 0).port.waiting.map (fun r => (r.addr, r.len)) == [(4352, 64)]) = true ∧
    gives (exec (.dmaWriteResponse ⟨7, 0⟩ 4 false) (issuing { failedReq with sent := 1 })) (fun t => (t.seg 0).port.issued == [] && t.cnt.dmaWriteErrors == 0) = true ∧
    gives (exec (.dmaWriteResponse ⟨7, 0⟩ 4 true) (issuing { failedReq with sent := 1 })) (fun t => t.cnt.dmaWriteErrors == 1) = true ∧
    gives (exec (.dmaReadComplete 7 0 4 false []) (issuing { tag := 4, more := 64, len := 64, what := .passage 0 0 })) (fun t =>
      (t.seg 0).port.waiting.length == 1) = true ∧
    gives (exec (.dmaReadComplete 7 0 4 false []) (issuing { tag := 4, what := .passage 0 0 })) (fun t => (t.seg 0).port.issued == []) = true ∧
    gives (exec (.dmaReadComplete 7 0 4 false (List.replicate 16 0)) (issuing { tag := 4, what := .directory 0 0 })) (fun t => (t.seg 0).port.issued == []) = true ∧
    gives (exec (.dmaReadComplete 7 0 4 true []) ((issuing { tag := 4, what := .indirect .pcie 9 }).onEp .pcie (fun x => { x with transfers := [{ id := 9 }] })))
      (fun t => t.cnt.dmaReadErrors == 1 && (t.ep .pcie).transfers.all (·.failed)) = true ∧
    gives (exec (.initiatorCreditReturn 0 true) one) (fun t => (t.seg 0).port.wdCredit == 1 && (t.seg 0).port.reqCredit == 0) = true ∧
    gives (exec (.initiatorCreditReturn 0 false) one) (fun t => (t.seg 0).port.reqCredit == 1) = true := by
  decide +kernel

/-- A request that a port has issued. -/
def asked (s : State) (what : DmaUse) : State := s.onSeg 0 (fun g => { g with port := { g.port with issued := [{ tag := 4, what := what }] } })

/-- Two frames at the east module of a segment that the test port may open. -/
def linking : State :=
  (aged .provisioned).onSeg 1 (fun g => { g with hub := { g.hub with
    tx := [{ dir := .east, frame := { flying 2 with src := 1 } }, { dir := .east, frame := { flying 3 with src := 1 } }] } })

/-- A block whose plan of number 5 has two candidates to fetch. -/
def tagged5 : State :=
  let s := planning { fetchPlan with tag := 5, cands := [{ ref := passageRef, score := 9 }, { ref := 2, score := 8 }] } id
  { s with glob := { s.glob with regions := [{ region := 1, keySlot := 4 }] } }

/-- The bytes of the directory entry of a passage. -/
def entryData : List Nat := List.replicate 9 0 ++ [16] ++ List.replicate 6 0

theorem wit_InitiatorChannel_records :
    gives (exec (.dmaReadComplete 7 0 4 false entryData) (asked tagged5 (.directory 5 0))) (fun t =>
      (t.seg 0).port.waiting.map (fun r => (r.what, r.len)) == [(.passage 5 0, 88)]
        && (t.planOf 0).any (fun pl => pl.cands.map (·.entry) == [some passageEntry, none])) = true ∧
    gives (exec (.dmaReadComplete 7 0 4 false entryData) (asked workerAsked (.askDirectory 6))) (fun t =>
      (t.seg 0).port.waiting.map (fun r => (r.what, r.len)) == [(.askPassage 6, 88)]) = true ∧
    gives (exec (.dmaReadComplete 7 0 4 true []) (asked tagged5 (.directory 5 0))) (fun t => t.cnt.dmaReadErrors == 1
      && (t.planOf 0).any (fun pl => pl.cands.map (·.state) == [.dropped, .waiting])) = true := by
  decide +kernel

theorem wit_TestPort :
    ((aged .blank).testOpen 0 = true ∧ ((aged .blank).seg 0).trust.testHeld = false ∧ (((aged .blank).seg 0).array .ma0).remap.length = 8) ∧
    gives (exec (.testPortHold 0) (aged .blank)) (fun t => (t.seg 0).trust.testHeld && (t.seg 0).nq.hold && (t.seg 0).i3cIn.hold) = true ∧
    gives (exec (.testPortRelease 0) ((aged .blank).onSeg 0 (fun g => holdQueues ⟨1000, 0⟩ true (testHold true g)))) (fun t => !(t.seg 0).trust.testHeld
      && !(t.seg 0).nq.hold) = true ∧
    gives (exec (.testPortRelease 0) ((aged .blank).onSeg 0 (fun g => { holdQueues ⟨1000, 0⟩ true (testHold true g) with state := .joining }))) (fun t =>
      !(t.seg 0).trust.testHeld && (t.seg 0).nq.hold) = true ∧
    gives (exec (.testPortHold 0) ((aged .blank).onEp .pcie (fun x => { x with inq := { x.inq with hold := false }, outq := { x.outq with hold := false } })))
      (fun t => t.objs.eps.length == 3 && t.objs.eps.all (fun x => x.inq.hold && x.outq.hold)) = true ∧
    same (exec (.testPortHold 0) one) (.next one) = true ∧ same (exec (.testPortWrite 0 (.moduleFailed .east 0 0)) one) (.next one) = true ∧
    gives (exec (.testPortWrite 0 (.colRemap0 .ma0 (0x8007 + 0x4000 * 2 ^ 48))) (aged .blank)) (fun t =>
      (t.seg 0).ma0.remap == [{ valid := true, logical := 7 }, {}, {}, { bad := true }, {}, {}, {}, {}]) = true ∧
    gives (exec (.testPortWrite 0 (.colRemap1 .ma1 0x80FF)) (aged .blank)) (fun t => (t.seg 0).ma1.remap[4]? == some { valid := true, logical := 255 }) = true ∧
    gives (exec (.testPortWrite 0 (.colFault .ma0 4 (2 ^ 7 + 2 ^ 8))) (aged .blank)) (fun t => (t.seg 0).ma0.faults == [263]) = true ∧
    gives (exec (.testPortWrite 1 (.moduleFailed .east 0 0)) (aged .provisioned)) (fun t => (t.seg 1).hub.east.failed && (t.seg 1).hub.east.reason == 0x12
      && (t.seg 2).hub.west.failed) = true ∧
    ((linking.seg 1).hub.tx.length = 2 ∧ linking.testOpen 1 = true ∧ neighbour linking.segs.length 1 .east = some 2) ∧
    gives (exec (.testPortWrite 1 (.moduleFailed .east 1 0)) linking) (fun t => (t.seg 1).hub.tx == []
      && (t.seg 1).hub.rerouting.map (fun r => r.frame.dest) == [3] && (t.seg 2).health.uncorrected == 1) = true := by
  decide +kernel

/-! Whole-block statements. -/

theorem wit_RecordEvents : (qPush ⟨9, 0⟩ 5 true ({} : WordQ)).recordEvents = 1 ∧
    (qPush ⟨9, 0⟩ 5 false ({} : WordQ)).recordEvents = 0 ∧ (qPushAll ⟨9, 0⟩ [1, 2, 3] ({} : WordQ)).recordEvents = 1 := by decide +kernel

theorem wit_AlwaysOnDomain :
    (five.hasSeg 3 = true ∧ five.unretired = true ∧ takesWrite mgd bmc 0x2200 0x31 0 1 = true) ∧
    gives (exec (.coldReset 3) five) (fun t => t.time.beat == 1000 && t.time.acquired) = true ∧
    gives (exec (.warmReset 3) five) (fun t => t.time.beat == 1000) = true ∧
    gives (exec (.resetWarm 5 bmc) mgd) (fun t => t.time.beat == 1000) = true ∧
    gives (exec (.resetCold 5 bmc) mgd) (fun t => t.time.beat == 1000) = true ∧
    gives (exec (.feedReading 7 100) five) (fun t => t.time.beat == 1000 && t.power.gongOut) = true ∧
    gives (exec (.powerOnReset 0) five) (fun t => !t.time.acquired) = true ∧
    gives (exec (.powerOnReset 2) five) (fun t => t.time.beat == 1000 && t.time.acquired) = true := by
  decide +kernel

theorem wit_StepKeepsMemory : State.reset.memOk = true ∧ gives (step State.reset) (fun t => t.memOk) = true ∧
    (work part0 id).memOk = true ∧ halves.memOk = true ∧ gives (step halves) (fun t => t.memOk) = true := by decide +kernel

theorem wit_StepKeepsShape : State.reset.parts.length = 16 ∧
    gives (step { five with pending := [.vreqAck 2, .clockStep 2] }) (fun t => t.segs.length == 5 && t.pending == [.clockStep 2]) = true ∧
    (∀ b, halves.other = some b → b.segs.length = halves.segs.length ∧ b.parts.length = 16) := by
  refine ⟨?_, ?_, fun b h => ?_⟩
  · decide +kernel
  · decide +kernel
  · cases Option.some.inj h
    decide +kernel

/-- Each of the two blocks names the other's half. -/
theorem wit_FarHalves : ∀ b, endingHalves.other = some b → ∀ j < endingHalves.segs.length,
    j ∈ b.roles.farHalf ↔ j ∉ endingHalves.roles.farHalf := by
  intro b h
  cases Option.some.inj h
  decide +kernel

/-- Word queues and ports within their limits, at reset and after a step; one past a limit is none such. -/
theorem wit_StepKeepsShape_queues :
    State.reset.queuesOk = true ∧ (work part0 id).queuesOk = true ∧ gives (step { five with pending := [.vreqAck 2] }) (fun t => t.queuesOk) = true ∧
    WordQ.ok { cap := 1, words := [{}, {}], high := 1, low := 0 } = false ∧ Port.ok { busy := List.range 65 } = false := by
  decide +kernel

/-- A step in flight that binds a live sequence, and reset. -/
theorem wit_StepKeepsShape_binds :
    State.reset.bindsStand ∧ (genStep 1 { nodes := rootOf 2 } id).bindsStand ∧
    ((genStep 1 { nodes := rootOf 2 } id).stepOf 0 .lc).any (fun st => st.binds.map (·.seq) == [0]) = true := by
  refine ⟨⟨⟨List.nodup_nil, fun p c st hp h b hb q hq => ?_⟩, fun b h => ?_⟩,
    ⟨⟨by decide +kernel, fun p c st hp h b hb q hq => ?_⟩, fun b h => ?_⟩, by decide +kernel⟩
  · cases hq
  · cases h
  · by_cases hb0 : b.seq = 0
    · rw [hb0] at hq
      cases Option.some.inj hq
      rfl
    · have hn : aGet b.seq (genStep 1 { nodes := rootOf 2 } id).seqs = none := by
        show aGet b.seq [(0, _)] = none
        simp [aGet, Ne.symm hb0]
      rw [hn] at hq
      cases hq
  · cases h

/-! Well-formed commands: a term that each check refuses, and the boundary that it admits. -/

theorem test_wf_positions :
    [Instr.fence 20, .heartbeatReceive 20 0, .launch 5000 0 .lc 1 0, .launch 0 16 .lc 1 0, .produce 0 16384 0, .ringPause 32768,
     .stepDoorbellReservedOp 0 0 16 .lc 1, .draftLevel 0 .lc 256 [], .launch 0 0 .lc 65536 0, .produce 0 1 (2 ^ 32), .owPush ⟨0, (2 ^ 64)⟩,
     .owPushLast ⟨5000, 0⟩, .qdataRead ⟨5000, 0, 0⟩, .qdataRead ⟨0, 0, 64⟩, .dmaWriteResponse ⟨0, 0⟩ 256 false, .cancel 0 1 (2 ^ 512), .registerWrite 0 ⟨0, 0⟩ (2 ^ 28) 0, .registerWrite 0 ⟨20, 0⟩ 0 0, .registerWrite 0 ⟨0, 64⟩ 0 0, .stackReadError 0 0 0 (72 * 2 ^ 30) none .screenRegion].all (fun c => !c.wf) = true ∧
    [Instr.fence 19, .heartbeatReceive 19 0, .launch 4999 15 .lc 65535 65535, .produce 0 16383 (2 ^ 32 - 1), .ringPause 32767,
     .stepDoorbellReservedOp 0 0 15 .lc 1, .draftLevel 0 .lc 255 [], .owPush ⟨0, (2 ^ 64 - 1)⟩, .cancel 0 1 (2 ^ 512 - 1),
     .registerWrite 0 ⟨19, 63⟩ (2 ^ 28 - 1) 0, .stackReadError 0 0 31 (72 * 2 ^ 30 - 1) none .screenRegion].all (fun c => c.wf) = true := by decide +kernel

theorem test_wf_ranges :
    [Instr.writeInitiate 0 bmc {} (2 ^ 40 + 1) 0, .stagingAllocate 0 0 .lc 393217 0, .passageFetchComplete (.cand 0) 1024 .dmaError, .passageFetchComplete (.ask (2 ^ 32)) 0 .dmaError,
     .channelRetire 0 32, .correctableError 0 (some 32), .residueMismatch 0 0 .ma0 264 0 .lc, .snareLaneError 0 64, .rulesetInstall 8,
     .entdaa 0 128, .spanSessionRetry 64, .spanLinkDown 4, .challenge .pcie 0 (2 ^ 256), .dmaReadComplete 0 0 0 false [256],
     .takeover 0 [122880], .beatEdge 0 [32768], .beatEdge 0 (List.replicate 21 25), .dimWriteComplete (.entry 122880),
     .dimWriteComplete (.seq 32768), .supplyClear (.rail 20), .getDigests (.i3c 20), .commit 0 { ep := .i3c 20 } 0].all (fun c => !c.wf) = true ∧
    [Instr.writeInitiate 0 bmc {} (2 ^ 40) 0, .stagingAllocate 0 0 .lc 393216 0, .passageFetchComplete (.cand 0) 1023 .dmaError, .passageFetchComplete (.ask 5) 0 .dmaError,
     .channelRetire 0 31, .correctableError 0 none, .residueMismatch 0 0 .ma0 263 0 .lc, .snareLaneError 0 63, .rulesetInstall 7,
     .entdaa 0 127, .spanSessionRetry 63, .spanLinkDown 3, .takeover 0 [122879], .beatEdge 0 [-32768],
     .supplyClear .feed, .getDigests (.i3c 19), .commit 0 bmc 255].all (fun c => c.wf) = true := by decide +kernel

theorem test_wf_packed :
    [Instr.kernelComplete 0 0 .lc 0 0 ⟨[], [256]⟩, .scanGroupEnd 0 ⟨2 ^ 64, 0, 0⟩, .oamDiscard ⟨5000, bmc⟩ {} true, .linkTagFailure 0 0 .east ⟨.other [], 2 ^ 32, 0⟩].all
      (fun c => !c.wf) = true ∧
    [Instr.kernelComplete 0 0 .lc 0 0 ⟨[], [255]⟩, .scanGroupEnd 0 ⟨2 ^ 64 - 1, 0, 0⟩, .oamDiscard ⟨4999, bmc⟩ {} true, .linkTagFailure 0 0 .east ⟨.other [], 2 ^ 32 - 1, 0⟩].all
      (fun c => c.wf) = true := by decide +kernel

theorem test_wf_headers :
    [Instr.read 0 bmc { transfer := 256 } 0 0, .read 0 bmc { index := 65536 } 0 0, .read 0 bmc { sub := 256 } 0 0, .abort 0 bmc { count := 64 } 0,
     .abort 0 bmc { size := 4 } 0, .abort 0 bmc {} (2 ^ 32), .klfFrameReceive 0 { src := 20 }, .klfFrameReceive 0 { dest := 32 },
     .klfFrameReceive 0 { stream := 65536 }, .klfFrameReceive 0 { chunk := 2 ^ 20 }, .klfFrameReceive 0 { exp := 8 },
     .klfFrameReceive 0 { exp := -9 }, .klfFrameReceive 0 { redop := 4 }, .klfFrameReceive 0 { passTag := 256 }, .close { major := 256 },
     .close { minor := 256 }, .close { block := 64 }, .close { session := 2 ^ 32 }, .close { seq := 2 ^ 32 }, .close { ack := 2 ^ 32 }].all
      (fun c => !c.wf) = true ∧
    [Instr.read 0 bmc {} 0 0, .abort 0 bmc {} 0, .klfFrameReceive 0 { exp := -8 }, .close {}].all (fun c => c.wf) = true := by decide +kernel

theorem test_wf_records :
    [ofQuery {} { deadline := 2 ^ 64 } [], ofQuery {} { tag := 2 ^ 32 } [], ofQuery {} {} [{ nprobe := 65536 }], ofQuery {} { dim := 65536 } [],
     ofHeap {} { tag := 2 ^ 32 } [], ofHeap {} { first := 65536 } [], .candidateRef {} (.ask (2 ^ 64) 0) [],
     .candidateRef {} (.piece 0 0 (2 ^ 32) [] true true) [], ofKlf {} { destSeg := 20 }, ofKlf {} { window := 65536 },
     ofKlf {} { frame := { exp := 8 } }, ofKlf { records := 256 } {}, ofKlf { length := 65536 } {}, ofKlf { source := 2 ^ 128 } {},
     .linkTagFailure 0 0 .east ⟨.klf { slot := 65536 }, 0, 0⟩, .linkTagFailure 0 0 .east ⟨.other [(16, .lc)], 0, 0⟩,
     .linkRetrainingEnd 0 0 .east (.failed (2 ^ 32) 0), .provisioning 0 { serial := 2 ^ 64 }, .provisioning 0 { staticAddr := 128 },
     .provisioning 0 { cert := [256] }, .provisioning 0 { chain := [256] }].all (fun c => !c.wf) = true ∧
    [ofQuery {} { deadline := 2 ^ 64 - 1, tag := 2 ^ 32 - 1, nprobe := 65535 } [], ofHeap {} { tag := 2 ^ 32 - 1, first := 65535 } [],
     .candidateRef {} (.ask (2 ^ 64 - 1) 0) [.piece 0 0 7 [] true true], ofKlf {} { destSeg := 19, window := 65535 },
     .linkTagFailure 0 0 .east ⟨.klf { slot := 65535 }, 0, 0⟩, .linkTagFailure 0 0 .east ⟨.other [(15, .lc)], 0, 0⟩,
     .linkRetrainingEnd 0 0 .east (.failed (2 ^ 32 - 1) 0), .provisioning 0 { serial := 2 ^ 64 - 1, staticAddr := 127, cert := [255] }].all
      (fun c => c.wf) = true := by decide +kernel

/-- A request and an image load of a delivered envelope and image, to try the checks of what they are sealed with. -/
def sealedWith (x : HpkeSeal) : Instr := .subRequest 0 0 0 { hpke := x }

@[inherit_doc sealedWith]
def imageOf (x : SealedImage) : Instr := .rulesetLoad 0 bmc 4 x default

theorem test_wf_sealed :
    [sealedWith { suite := [65536] }, sealedWith { mode := 256 }, sealedWith { enc := 2 ^ 776 }, sealedWith { sender := 2 ^ 768 },
     sealedWith { info := [256] }, .subRequest 0 0 0 { header := 2 ^ 128 }, .subRequest 0 0 0 { aad := [256] }, imageOf { ownerKey := 2 ^ 768 },
     imageOf { chunks := [{ nonce := [] }] }, imageOf { chunks := [{ nonce := List.replicate 12 0, bytes := 1048577 }] }, imageOf { content := [256] },
     .sessionOpen {} { ephemeral := 2 ^ 768 }, .sessionOpen {} { nonce := 2 ^ 256 }, .sessionAccept {} { fwDigest := 2 ^ 384 },
     .linkTrained 0 .east true { near := { segment := 20 } }, .linkTrained 0 .east true { far := { serial := 2 ^ 64 } },
     .linkRetrainingEnd 0 0 .east (.good { far := { segment := 20 } })].all (fun c => !c.wf) = true ∧
    [sealedWith { suite := [65535], mode := 255, enc := 2 ^ 776 - 1, sender := 2 ^ 768 - 1, info := [255] }, imageOf { ownerKey := 2 ^ 768 - 1 },
     imageOf { chunks := [{ nonce := List.replicate 12 255, bytes := 1048576 }] }, .sessionOpen {} { ephemeral := 2 ^ 768 - 1, nonce := 2 ^ 256 - 1 },
     .sessionAccept {} { fwDigest := 2 ^ 384 - 1 }, .linkTrained 0 .east true { near := { segment := 19, serial := 2 ^ 64 - 1 } }].all (fun c => c.wf) = true := by
  decide +kernel

theorem test_wf_inputs :
    [.ppsEdge 0 [{ sec := 2 ^ 64 }] true 0, .ppsEdge 0 [{ sinceNs := 2 ^ 64 }] true 0, .dimFetchComplete { header := 2 ^ 512 },
     .dimFetchComplete { frames := [2 ^ 512] }, .dimFetchComplete { cache := .seq 32768 }, .spanDatagramDrop { mac := 2 ^ 48 },
     .spanDatagramDrop { etherType := 65536 }, .spanDatagramDrop { next := 256 }, .spanDatagramDrop { source := 2 ^ 128 },
     .spanDatagramDrop { port := 65536 }, .spanDatagramDrop { checksum := 65536 }, .spanDatagramDrop { data := [256] },
     .testPortWrite 0 (.colFault .ma0 5 0), .testPortWrite 0 (.moduleFailed .east (2 ^ 32) 0), .stackReadError 0 0 0 0 none (.pagePool (2 ^ 32)),
     .provisioning 0 { licensee := 2 ^ 32 }, .provisioning 0 { dieRev := 2 ^ 32 }, .provisioning 0 { jedec := 2 ^ 11 }, .provisioning 0 { mipi := 2 ^ 15 },
     .provisioning 0 { cert := List.replicate 4096 0, chain := List.replicate 4097 0 }].all (fun c : Instr => !c.wf) = true ∧
    [.ppsEdge 0 [{ sec := 2 ^ 64 - 1, untilNs := 5 }] true 0, .dimFetchComplete { header := 2 ^ 512 - 1, frames := [2 ^ 512 - 1] },
     .spanDatagramDrop { mac := 2 ^ 48 - 1, etherType := 65535, next := 255, port := 65535, data := [255] }, .testPortWrite 0 (.colFault .ma0 4 0),
     .testPortWrite 0 (.moduleFailed .east (2 ^ 32 - 1) 0), .stackReadError 0 0 0 0 none (.tablePool (2 ^ 32 - 1)),
     .provisioning 0 { licensee := 2 ^ 32 - 1, jedec := 2 ^ 11 - 1, mipi := 2 ^ 15 - 1 }].all (fun c : Instr => c.wf) = true := by
  decide +kernel

end Sys2Proof.Tests
end

section
/-! Record events of a queue (R286): counted by the EOR bit of each pushed word alone. -/

namespace Sys2Proof.Proofs

open Sys2Proof Sys2Proof.Machine

/-- A push that ends a record counts its event (R286). -/
@[simp] theorem recordEvents_qPush_true (a : Stamp) (d : Nat) (q : WordQ) :
    (qPush a d true q).recordEvents = q.recordEvents + 1 :=
  (qPush_keeps a d true q).2

/-- A push inside a record counts none (R286). -/
@[simp] theorem recordEvents_qPush_false (a : Stamp) (d : Nat) (q : WordQ) :
    (qPush a d false q).recordEvents = q.recordEvents :=
  (qPush_keeps a d false q).2

/-- The words of a record are pushed without EOR up to the last, which has it: the event is that of the last word. -/
theorem recordEvents_qPushAll (a : Stamp) (q : WordQ) (l : List Nat) (hl : l ≠ []) :
    (qPushAll a l q).recordEvents = q.recordEvents + 1 := by
  induction l generalizing q with
  | nil => exact absurd rfl hl
  | cons w rest ih =>
    cases rest with
    | nil => exact recordEvents_qPush_true a w q
    | cons v rest =>
      calc (qPushAll a (w :: v :: rest) q).recordEvents
        _ = (qPushAll a (v :: rest) (qPush a w false q)).recordEvents := rfl
        _ = (qPush a w false q).recordEvents + 1 := ih _ (List.cons_ne_nil v rest)
        _ = q.recordEvents + 1 := by rw [recordEvents_qPush_false]

/-- Settles O56: `qPush_keeps` counts the EOR bit of a word in every branch of a push, and a record has EOR on its last word only. -/
theorem recordEvents : Obligations.RecordEvents :=
  ⟨fun a q d => ⟨recordEvents_qPush_true a d q, recordEvents_qPush_false a d q⟩, recordEvents_qPushAll⟩

end Sys2Proof.Proofs
end

section
/-! Loads of sealed images (R118, R120, R203, R233, R264, R265, R269, R328, R342 to R344): one rule for the frame of every load, one for
the seal, and one for what each load does with an image that stands. -/

namespace Sys2Proof.Proofs

open Sys2Proof Sys2Proof.Machine

/-! Lists kept sorted, and one entry a key. -/

theorem mem_insertBy {α : Type} {above : α → α → Bool} {x y : α} {l : List α} : y ∈ insertBy above x l ↔ y = x ∨ y ∈ l := by
  induction l with
  | nil => simp [insertBy]
  | cons a l ih =>
    rw [insertBy]
    split
    · simp
    · simp [ih, or_left_comm]

/-- An entry placed where those of its key have been taken out is the one entry of its key. -/
theorem eq_of_mem_insertBy_filter {α : Type} (key : α → Nat) {above : α → α → Bool} {x y : α} {l : List α}
    (hy : y ∈ insertBy above x (l.filter (fun z => key z != key x))) (hk : key y = key x) : y = x := by
  rcases mem_insertBy.1 hy with rfl | hm
  · rfl
  · exact absurd hk (by simpa using (List.mem_filter.1 hm).2)

theorem find?_insertBy_filter {α : Type} (key : α → Nat) (above : α → α → Bool) (x : α) (l : List α) :
    (insertBy above x (l.filter (fun z => key z != key x))).find? (fun z => key z == key x) = some x := by
  obtain ⟨y, hy⟩ := Option.isSome_iff_exists.1 <| (List.find?_isSome (p := fun z => key z == key x)).2
    ⟨x, mem_insertBy.2 (.inl rfl), beq_self_eq_true (key x)⟩
  have hk := List.find?_some hy
  rw [hy, eq_of_mem_insertBy_filter key (List.mem_of_find?_eq_some hy) (beq_iff_eq.1 hk)]

/-! The frame of every load (R316, R323). -/

section Load

variable {s u v : State} {cyc id index sub : Nat} {p : Path} {t : Transfer} {act : LoadAct}

/-- A load that is done answers ACK. -/
theorem load_of_accepts (hc : s.loadComes p id index sub t) (hu : u = s.loadTaken cyc p id) (ha : act t u = acceptLoad v) :
    s.load cyc p id index sub act = .next (v.finishLoad p.ep t (doneWords t)) := by
  obtain ⟨hfar, htr, hup, hhush, hwhole, hindex, hsub⟩ := hc
  rw [hu, State.loadTaken] at ha
  simp [State.load, State.inBlockOf, hfar, htr, hup, hhush, hwhole, hindex, hsub, ha, acceptLoad, onlyIf, doneWords]

/-- A load that is refused answers ABORT. -/
theorem load_of_refuses {code : Nat} (hc : s.loadComes p id index sub t) (hu : u = s.loadTaken cyc p id)
    (ha : act t u = refuseLoad code v) : s.load cyc p id index sub act = .next (v.finishLoad p.ep t (abortWords t.head code)) := by
  obtain ⟨hfar, htr, hup, hhush, hwhole, hindex, hsub⟩ := hc
  rw [hu, State.loadTaken] at ha
  simp [State.load, State.inBlockOf, hfar, htr, hup, hhush, hwhole, hindex, hsub, ha, refuseLoad, onlyIf]

end Load

/-! The seal (R328, R333, R343). -/

section Seal

variable {u : State} {kind code : Nat} {part : Option Nat} {img : SealedImage} {act : LoadAct} {t : Transfer}

theorem sealedLoad_stands (hb : u.lifecycle ≠ .blank) (hr : u.lifecycle ≠ .retired) (hs : u.sealStands kind part t.total img = true) :
    sealedLoad kind code part img act t u = act t u := by
  simp [sealedLoad, hb, hr, hs]

theorem sealedLoad_fails (hb : u.lifecycle ≠ .blank) (hr : u.lifecycle ≠ .retired) (hs : u.sealStands kind part t.total img = false) :
    sealedLoad kind code part img act t u = refuseLoad code (u.count (fun c => { c with imageFails := c.imageFails + 1 })) := by
  simp [sealedLoad, hb, hr, hs]

end Seal

/-- A context that suits is of the block's suite and of the mode asked for (R333). -/
theorem sealSuits_suite_mode {x : HpkeSeal} {mode sender : Nat} {key : Option Nat} {info : List Nat}
    (h : sealSuits x mode key sender info = true) : x.suite = hpkeSuite ∧ x.mode = mode := by
  simp only [sealSuits, Bool.and_eq_true, beq_iff_eq] at h
  obtain ⟨⟨⟨⟨hsuite, hmode⟩, -⟩, -⟩, -⟩ := h
  exact ⟨hsuite, hmode⟩

theorem imageOpens_of_sealStands {s : State} {kind total : Nat} {part : Option Nat} {img : SealedImage}
    (h : s.sealStands kind part total img = true) :
    imageOpens img (siContent img.header) (s.seg s.roles.manager).trust.imageKey = true := by
  simp only [State.sealStands, Bool.and_eq_true] at h
  obtain ⟨⟨⟨-, hopens⟩, -⟩, -⟩ := h
  exact hopens

/-- Images are sealed in mode auth (R333, R342). -/
theorem sealStands_suite_mode {s : State} {kind total : Nat} {part : Option Nat} {img : SealedImage}
    (h : s.sealStands kind part total img = true) : img.hpke.suite = hpkeSuite ∧ img.hpke.mode = modeAuth :=
  sealSuits_suite_mode (Bool.and_eq_true_iff.1 (imageOpens_of_sealStands h)).1

/-- Envelopes are sealed in mode base (R333, R339). -/
theorem envelopeOpens_suite_mode {s : State} {rec : SubRecord} {env : Envelope} (h : s.envelopeOpens rec env = true) :
    env.hpke.suite = hpkeSuite ∧ env.hpke.mode = modeBase := by
  have hbody := (Bool.and_eq_true_iff.1 h).2
  simp only [bodyOpens, Bool.and_eq_true] at hbody
  obtain ⟨⟨hsuits, -⟩, -⟩ := hbody
  exact sealSuits_suite_mode hsuits

/-! Bytes placed in the stacks. -/

theorem memRead_foldl_memWriteBytes_outside {α : Type} (f : α → Nat) (g : α → List Nat) (l : List α) (m : Memory) (a : Nat)
    (h : ∀ x ∈ l, a < f x ∨ f x + (g x).length ≤ a) :
    memRead (l.foldl (fun m x => memWriteBytes m (f x) (g x)) m) a = memRead m a := by
  induction l generalizing m with
  | nil => rfl
  | cons x l ih =>
    rw [List.foldl_cons, ih _ (fun y hy => h y (List.mem_cons_of_mem x hy)),
      memRead_memWriteBytes_outside _ _ _ _ (h x List.mem_cons_self)]

theorem seg_onSegs (s : State) (f : Nat → Segment → Segment) {i : Nat} (h : i < s.segs.length) : (s.onSegs f).seg i = f i (s.seg i) := by
  simp [State.seg, State.onSegs, h]

theorem seg_onSegs_absent (s : State) (f : Nat → Segment → Segment) {i : Nat} (h : s.segs.length ≤ i) :
    (s.onSegs f).seg i = s.seg i := by
  simp [State.seg, State.onSegs, h]

/-- Placing bytes leaves every byte of a stack outside those placed in it. -/
theorem memRead_placeBytes_outside (s : State) (base : Nat) (everywhere : Bool) (l : List (Nat × Nat × List Nat)) (i a : Nat)
    (h : ∀ w ∈ l, (everywhere || w.1 == i) = true → a < base + w.2.1 ∨ base + w.2.1 + w.2.2.length ≤ a) :
    memRead ((s.placeBytes base everywhere l).seg i).stack.mem a = memRead (s.seg i).stack.mem a := by
  unfold State.placeBytes
  rcases Nat.lt_or_ge i s.segs.length with hi | hi
  · rw [seg_onSegs s _ hi]
    refine memRead_foldl_memWriteBytes_outside (fun w : Nat × Nat × List Nat => base + w.2.1) (·.2.2) _ _ _ (fun w hw => ?_)
    obtain ⟨hmem, hplace⟩ := List.mem_filter.1 hw
    exact h w hmem hplace
  · rw [seg_onSegs_absent s _ hi]

/-! Models (R344). -/

/-- The model that an image makes resident. -/
def imageModel (img : SealedImage) (plain : ModelPlain) : Model :=
  { id := mdId plain.desc, desc := plain.desc, bytes := placedBytes plain.weights plain.tables, tables := plain.tables,
    digest := SealedImage_digest img }

/-- The state in which that model is resident in a partition, its weights not yet placed. -/
def withModel (u : State) (p : Nat) (img : SealedImage) (plain : ModelPlain) : State :=
  u.onPart p (fun q => { q with models := insertBy (fun a b => a.id < b.id) (imageModel img plain) (q.models.map (tablesReplaced plain.tables)) })

theorem imageModel_mem_withModel {u : State} {p : Nat} (img : SealedImage) (plain : ModelPlain) (hp : p < u.parts.length) :
    imageModel img plain ∈ ((withModel u p img plain).part p).models := by
  rw [withModel, State.part_onPart_eq u _ hp]
  exact mem_insertBy.2 (.inl rfl)

theorem addModel_accepts {u : State} {p : Nat} {img : SealedImage} {plain : ModelPlain} (t : Transfer)
    (hnew : u.anyModel (siId img.header) = none) (hheld : (u.part p).tableHeld plain.tables = false)
    (hwhole : plain.tables.all tableWhole = true) (hdesc : modelDescStands (siId img.header) (imageModel img plain) = true)
    (hregion : ∀ w ∈ plain.weights, (u.modelRegion p).1 ≤ w.2.1 ∧ w.2.1 + w.2.2.length ≤ (u.modelRegion p).1 + (u.modelRegion p).2)
    (hroom : sumNat ((u.part p).models.map (·.bytes)) + (imageModel img plain).bytes ≤ (u.modelRegion p).2) :
    addModel p img plain t u = acceptLoad ((withModel u p img plain).placeBytes 0 (p == 15) plain.weights) := by
  have hin : plain.weights.any (fun w => w.2.1 < (u.modelRegion p).1 ||
      (u.modelRegion p).1 + (u.modelRegion p).2 < w.2.1 + w.2.2.length) = false :=
    List.any_eq_false.2 fun w hw => by simpa using hregion w hw
  unfold imageModel at hdesc hroom
  simp only [addModel, hnew, hheld, hwhole, hdesc, hin, Nat.not_lt.2 hroom, Option.isSome_none, Bool.not_true, Bool.or_false,
    Bool.false_eq_true, if_false]
  rfl

/-! Indexes (R233). -/

/-- The index that an image makes resident. -/
def imageIndex (p : Nat) (img : SealedImage) (plain : IndexPlain) : Index :=
  { id := siId img.header, part := p, desc := plain.desc, segVectors := plain.segVectors, segBytes := plain.segBytes,
    digest := SealedImage_digest img }

/-- The state in which that index takes the place of any of its identifier, its content not yet placed. -/
def withIndex (u : State) (p : Nat) (img : SealedImage) (plain : IndexPlain) : State :=
  { u with indexes := insertBy (fun a b => a.id < b.id) (imageIndex p img plain) (u.indexes.filter (fun x => x.id != siId img.header)) }

theorem loadIndex_accepts {u : State} {p : Nat} {img : SealedImage} {plain : IndexPlain} (t : Transfer)
    (hbusy : u.indexBusy (siId img.header) = false) (hcontent : siContent img.header ≠ 0) (hvectors : ixVectors plain.desc ≠ 0)
    (hbarred : u.indexBarred p (siId img.header) plain = false)
    (hroom : (u.indexes.filter (fun x => x.id != siId img.header)).length < 16) :
    loadIndex p img plain t u = acceptLoad ((withIndex u p img plain).placeBytes
      ((withIndex u p img plain).indexBase (imageIndex p img plain)) false plain.content) := by
  simp only [loadIndex, hbusy, hbarred, beq_false_of_ne hcontent, beq_false_of_ne hvectors, Nat.not_le.2 hroom, Bool.or_self,
    Bool.false_eq_true, if_false]
  rfl

/-- At a place that is free an index load is the load of a sealed image. -/
theorem execIndexLoad_placed {s : State} {p : Nat} {img : SealedImage} {plain : IndexPlain} (cyc : Nat) (path : Path) (id : Nat)
    (h : s.indexPlaced p img plain = true) : execIndexLoad cyc path id p img plain s =
      s.load cyc path id (0x4000 + p * 0x10) 0x1C (sealedLoad 1 (loadRefused 0xFFFF) none img (loadIndex p img plain)) :=
  if_pos h

/-! Rule sets (R264, R265). -/

theorem addRuleset_locked {u : State} {img : SealedImage} {plain : RulePlain} (t : Transfer) (hkind : rsKind plain.header ≠ 3)
    (hlocked : u.slotLocked (rsSlot plain.header) = true) : addRuleset img plain t u = refuseLoad (abortCode 0xD 0) u := by
  simp [addRuleset, hkind, hlocked]

theorem addRuleset_accepts {u : State} {img : SealedImage} {plain : RulePlain} {r : RuleSet} (t : Transfer)
    (hr : r = { plain := plain, digest := SealedImage_digest img, since := u.time.beat }) (hkind : rsKind plain.header ≠ 3)
    (hlocked : u.slotLocked (rsSlot plain.header) = false) (hstands : ruleStands (siId img.header) (siContent img.header) plain = true)
    (htables : u.tablesAfter (rsSlot plain.header) plain ≤ 4 * 2 ^ 20) (hfits : u.slotFits (rsSlot plain.header) r = true) :
    addRuleset img plain t u = acceptLoad { u with screen := { u.screen with
      loaded := aSet (rsSlot plain.header) r u.screen.loaded } } := by
  subst hr
  simp only [addRuleset, hlocked, hstands, hfits, beq_false_of_ne hkind, Nat.not_lt.2 htables, Bool.and_false, Bool.not_true,
    Bool.or_false, decide_false, Bool.false_eq_true, if_false]

/-- The state in which a loaded rule set has come into force. -/
def installed (s : State) (k : Nat) (r : RuleSet) : State :=
  { s with screen := { s.screen with inForce := aSet k r s.screen.inForce, loaded := aErase k s.screen.loaded },
           seqs := s.seqs.map (fun (e : Nat × Sequence) => (e.1, restartAutos k (rsStart r.plain.header) e.2)) }

theorem slotStill_of_lanes {s : State} {k : Nat} (h : ∀ g ∈ s.segs, ∀ l ∈ g.snare.lanes, l.2.slot ≠ k) : s.slotStill k = true :=
  List.all_eq_true.2 fun g hg => List.all_eq_true.2 fun l hl => bne_iff_ne.2 (h g hg l hl)

theorem execRulesetInstall_installs {s : State} {k : Nat} {r : RuleSet} (hup : s.mgrUp = true) (hedge : s.atEdge = true)
    (hloaded : aGet k s.screen.loaded = some r) (hsince : r.since < s.time.beat) (hstill : s.slotStill k = true) :
    execRulesetInstall k s = .next (installed s k r) := by
  simp only [execRulesetInstall, hloaded, hup, hedge, hsince, hstill, decide_true, Bool.and_true]
  exact onlyIf_true _ s

/-- The streams of a slot stand in the START state once their sequence restarts them (R265). -/
theorem state_of_mem_restartAutos {k start : Nat} {q : Sequence} {a : Auto} (ha : a ∈ (restartAutos k start q).autos)
    (hk : a.slot = k) : a.state = start := by
  obtain ⟨b, -, rfl⟩ := List.mem_map.1 ha
  by_cases hb : b.slot = k
  · simp [hb]
  · exact absurd hk (by simp [hb])

theorem state_of_live_installed {s : State} {k m : Nat} {r : RuleSet} {q : Sequence} (hq : (installed s k r).live m = some q)
    {a : Auto} (ha : a ∈ q.autos) (hk : a.slot = k) : a.state = rsStart r.plain.header := by
  rw [State.live, installed, aGet_map, Option.map_eq_some_iff] at hq
  obtain ⟨q, -, rfl⟩ := hq
  exact state_of_mem_restartAutos ha hk

/-! Detokenisers (R269). -/

/-- The detokeniser that an image makes resident. -/
def imageDetok (img : SealedImage) (plain : DetokPlain) : Detok :=
  { id := siId img.header, vocab := plain.entries.length, entries := plain.entries, pool := plain.pool, digest := SealedImage_digest img }

/-- The state in which that detokeniser takes the place of any of its identifier. -/
def withDetok (u : State) (img : SealedImage) (plain : DetokPlain) : State :=
  { u with screen := { u.screen with
      detoks := insertBy (fun a b => a.id < b.id) (imageDetok img plain) (u.screen.detoks.filter (fun d => d.id != siId img.header)) } }

theorem detok_withDetok (u : State) (img : SealedImage) (plain : DetokPlain) :
    (withDetok u img plain).detok (siId img.header) = some (imageDetok img plain) :=
  find?_insertBy_filter Detok.id _ (imageDetok img plain) _

theorem loadDetok_accepts {u : State} {img : SealedImage} {plain : DetokPlain} (t : Transfer)
    (hcontent : siContent img.header = 64 + 4 * plain.entries.length + plain.pool.length) (hsize : siContent img.header ≤ 2 ^ 24)
    (hroom : (u.screen.detoks.filter (fun d => d.id != siId img.header)).length < 4)
    (hstands : detokStands (siId img.header) plain = true) (hnew : u.detok (siId img.header) = none) :
    loadDetok img plain t u = acceptLoad (withDetok u img plain) := by
  have hne : siContent img.header ≠ 0 := by omega
  have hbytes : (siContent img.header != 64 + 4 * plain.entries.length + plain.pool.length) = false := bne_eq_false_iff_eq.2 hcontent
  simp only [loadDetok, hstands, hnew, hbytes, beq_false_of_ne hne, Nat.not_lt.2 hsize, Nat.not_le.2 hroom, Option.isSome_none,
    Bool.not_true, Bool.or_self, Bool.false_and, Bool.false_eq_true, decide_false, if_false]
  rfl

/-- Settles O33: a load answers by its frame (`load_of_accepts`, `load_of_refuses`), which passes the seal (`sealedLoad_stands`,
`sealedLoad_fails`) and then performs what the image holds; each clause puts its three rules together. -/
theorem sealedLoads : Obligations.SealedLoads := by
  refine ⟨?models, ?indexes, ?rulesets, ?install, ?detoks, fun _ _ _ _ _ => sealStands_suite_mode, fun _ _ _ => envelopeOpens_suite_mode⟩
  case models =>
    intro s u cyc path id p img plain t m hc hu hb hr
    refine ⟨fun hs => load_of_refuses hc hu (sealedLoad_fails hb hr hs), fun hs hcontent hnew hheld hwhole hm hdesc hregion hroom hp => ?_⟩
    subst hm
    refine ⟨(withModel u p img plain).placeBytes 0 (p == 15) plain.weights, load_of_accepts hc hu ?_,
      imageModel_mem_withModel img plain hp, fun i a ha => ?_, rfl⟩
    · rw [sealedLoad_stands hb hr hs, if_neg (by simpa using hcontent)]
      exact addModel_accepts t hnew hheld hwhole hdesc hregion hroom
    · refine memRead_placeBytes_outside (withModel u p img plain) 0 _ _ i a (fun w hw hplace => ?_)
      rw [Nat.zero_add]
      exact ha w hw (by simpa [or_comm] using hplace)
  case indexes =>
    intro s u cyc path id p img plain t hc hu hb hr hplaced
    have hload := execIndexLoad_placed cyc path id hplaced
    refine ⟨fun hs => hload.trans (load_of_refuses hc hu (sealedLoad_fails hb hr hs)), fun hs hbusy hcontent hvectors hbarred hroom => ?_⟩
    refine ⟨_, imageIndex p img plain, hload.trans (load_of_accepts hc hu ((sealedLoad_stands hb hr hs).trans
      (loadIndex_accepts t hbusy hcontent hvectors hbarred hroom))), mem_insertBy.2 (.inl rfl), rfl, rfl, rfl, fun y hy hid => ?_, rfl⟩
    exact eq_of_mem_insertBy_filter Index.id (x := imageIndex p img plain) hy hid
  case rulesets =>
    intro s u cyc path id img plain t hc hu hb hr hs hcontent hkind
    have hact : sealedLoad 2 (abortCode 0xA 0) none img
        (if siContent img.header == 0 then removeRuleset (siId img.header) else addRuleset img plain) t u = addRuleset img plain t u := by
      rw [sealedLoad_stands hb hr hs, if_neg (by simpa using hcontent)]
    exact ⟨fun hlocked => load_of_refuses hc hu (hact.trans (addRuleset_locked t hkind hlocked)),
      fun r hlocked hstands htables hrule hfits =>
        load_of_accepts hc hu (hact.trans (addRuleset_accepts t hrule hkind hlocked hstands htables hfits))⟩
  case install =>
    intro s k r hup hedge hloaded hsince hlanes
    refine ⟨installed s k r, execRulesetInstall_installs hup hedge hloaded hsince (slotStill_of_lanes hlanes),
      aGet_aSet_eq _ _ _, aGet_aErase_eq _ _, fun j hj => aGet_aSet_ne _ _ hj, fun m q hq a ha hk => ?_, rfl⟩
    exact state_of_live_installed hq ha hk
  case detoks =>
    intro s u cyc path id img plain t hc hu hb hr hs hcontent hsize hroom hstands hnew
    exact ⟨withDetok u img plain, imageDetok img plain, load_of_accepts hc hu ((sealedLoad_stands hb hr hs).trans
      (loadDetok_accepts t hcontent hsize hroom hstands hnew)), detok_withDetok u img plain, rfl, rfl, rfl⟩

end Sys2Proof.Proofs
end
section
/-! The step on the queue of commands, and what reset leaves. -/

namespace Sys2Proof.Proofs

open Sys2Proof Sys2Proof.Machine

/-- Settles O1: a step is the dispatcher on the rest of the queue, or the state as it is. -/
theorem stepRunsFrontCommand : Obligations.StepRunsFrontCommand :=
  ⟨fun s c rest h => by rw [step, h]; rfl, fun s h => by rw [step, h]⟩

theorem reset_queuesOk : State.reset.queuesOk = true := by decide

/-- No sequence lives and no step is in flight after reset, so no bind can fail to stand. -/
theorem reset_bindsStand : State.reset.bindsStand := by
  refine ⟨⟨List.nodup_nil, fun p c st _ _ b _ q hq => ?_⟩, fun b hb => ?_⟩
  · cases hq
  · cases hb

/-- Settles O60: memory, queues and binds by their own lemmas, the 20 segments by evaluation, every other field as reset writes it. -/
theorem resetLeaves : Obligations.ResetLeaves :=
  ⟨reset_memOk, reset_queuesOk, reset_bindsStand, by decide, by decide, rfl, rfl, rfl, rfl, rfl, rfl, rfl, rfl, rfl, by decide⟩

end Sys2Proof.Proofs
end
section
/-! Refutation of the kept shape: the second block of split mode takes its partitions from the standby's copy of the tables, and no
hypothesis says that this copy lists 16 of them. -/

namespace Sys2Proof.Proofs

open Sys2Proof Sys2Proof.Machine

/-- A fenced standby after a waist cut whose copy of the tables lists no partition; a write of 1 to FENCE_ACTION waits. -/
def cutWithoutParts : State :=
  { segs := [{ state := .fenced, port := { trained := true } }], parts := List.replicate 16 {},
    roles := { standby := some 0, splitState := 1 }, mirror := { currentAtFence := true }, kept := some { parts := [] },
    pending := [.splitMode 0 { ep := .i3c 0 } 0] }

/-- The step answers a state of `n` partitions. -/
def answersParts (n : Nat) : Result → Bool
  | .next t => t.parts.length == n
  | _ => false

theorem exists_of_answersParts {n : Nat} {r : Result} (h : answersParts n r = true) : ∃ t, r = .next t ∧ t.parts.length = n := by
  cases r with
  | next t => exact ⟨t, rfl, by simpa [answersParts] using h⟩
  | _ => cases h

set_option maxRecDepth 5000 in
theorem cutWithoutParts_splits : answersParts 0 (step cutWithoutParts) = true := by decide +kernel

/-- Refutes O59: the block that SPLIT_MODE makes of a standby whose copy of the tables lists no partition has none (R371), although the
block before it had 16. -/
theorem not_stepKeepsShape : ¬ Obligations.StepKeepsShape := by
  intro h
  obtain ⟨t, ht, hparts⟩ := exists_of_answersParts cutWithoutParts_splits
  have hnone : ∀ b, cutWithoutParts.other = some b → b.parts.length = 16 := fun b hb => nomatch hb
  obtain ⟨_, _, hkept, _⟩ := h.1 cutWithoutParts t (fun b hb => nomatch hb) ht
  have h16 := (hkept rfl hnone).1
  omega

end Sys2Proof.Proofs
end
section
/-! What a notice and a control cycle that is over change: queues, the ports of stalled reads, rings and the endpoints' queues. -/

namespace Sys2Proof.Proofs

open Sys2Proof Sys2Proof.Machine

/-- A segment stands but for its notice queue and the answers on its target channel. -/
def noticed (g h : Segment) : Prop := answersOnly { g with nq := h.nq } h

/-- A block stands but for notice queues and answers on target channels. -/
def noticesOnly (s t : State) : Prop :=
  t = { s with segs := t.segs } ∧ t.segs.length = s.segs.length ∧ ∀ i, noticed (s.seg i) (t.seg i)

theorem answersOnly_refl (g : Segment) : answersOnly g g := rfl

theorem answersOnly_trans {g h k : Segment} (a : answersOnly g h) (b : answersOnly h k) : answersOnly g k := by
  unfold answersOnly at *
  rw [b, a]

theorem noticed.refl (g : Segment) : noticed g g := rfl

theorem noticed.trans {g h k : Segment} (a : noticed g h) (b : noticed h k) : noticed g k := by
  unfold noticed answersOnly at *
  rw [b, a]

theorem noticed_of_answersOnly {g h : Segment} (a : answersOnly g h) : noticed g h := by
  unfold noticed answersOnly at *
  rw [a]

theorem noticesOnly.refl (s : State) : noticesOnly s s := ⟨rfl, rfl, fun _ => rfl⟩

theorem noticesOnly.trans {s t u : State} (a : noticesOnly s t) (b : noticesOnly t u) : noticesOnly s u := by
  obtain ⟨ha, la, na⟩ := a
  obtain ⟨hb, lb, nb⟩ := b
  exact ⟨by rw [hb, ha], lb.trans la, fun i => (na i).trans (nb i)⟩

theorem othersAnswered_trans {i : Nat} {s t u : State} (a : othersAnswered i s t) (b : othersAnswered i t u) : othersAnswered i s u :=
  fun j hj => answersOnly_trans (a j hj) (b j hj)

/-- A segment written at one place is there what was written, where it exists. -/
theorem seg_onSeg (s : State) (i j : Nat) (f : Segment → Segment) :
    (s.onSeg i f).seg j = s.seg j ∨ (j = i ∧ (s.onSeg i f).seg j = f (s.seg j)) := by
  by_cases h : j = i
  · subst h
    by_cases hs : s.hasSeg j = true
    · exact .inr ⟨rfl, s.seg_onSeg_eq f hs⟩
    · have hlen : s.segs.length ≤ j := by simpa [State.hasSeg] using hs
      left
      simp [State.seg, State.onSeg, List.getD_eq_getElem?_getD, hlen]
  · exact .inl (s.seg_onSeg_ne f h)

theorem seg_onSeg_of {P : Segment → Segment → Prop} (s : State) (i : Nat) (f : Segment → Segment) (hr : ∀ g, P g g)
    (hf : P (s.seg i) (f (s.seg i))) (j : Nat) : P (s.seg j) ((s.onSeg i f).seg j) := by
  rcases seg_onSeg s i j f with h | ⟨rfl, h⟩
  · rw [h]; exact hr _
  · rw [h]; exact hf

theorem answersOnly_respondTo (s : State) (i tag status data j : Nat) :
    answersOnly (s.seg j) ((s.respondTo i tag status data).seg j) := by
  unfold State.respondTo
  split
  · rfl
  · refine seg_onSeg_of s i _ answersOnly_refl ?_ j
    rfl

theorem length_respondTo (s : State) (i tag status data : Nat) : (s.respondTo i tag status data).segs.length = s.segs.length := by
  unfold State.respondTo
  split
  · rfl
  · exact s.onSeg_length _ _

theorem noticesOnly_respondTo (s : State) (i tag status data : Nat) : noticesOnly s (s.respondTo i tag status data) := by
  obtain ⟨G, h⟩ := s.respondTo_frame i tag status data
  exact ⟨by rw [h], length_respondTo _ _ _ _ _, fun j => noticed_of_answersOnly (answersOnly_respondTo s i tag status data j)⟩

theorem answersOnly_answerReads (s : State) (l : List ReadAnswer) (j : Nat) : answersOnly (s.seg j) ((s.answerReads l).seg j) := by
  induction l generalizing s with
  | nil => exact answersOnly_refl _
  | cons a l ih => exact answersOnly_trans (answersOnly_respondTo s _ _ _ _ j) (ih _)

theorem noticesOnly_answerReads (s : State) (l : List ReadAnswer) : noticesOnly s (s.answerReads l) := by
  induction l generalizing s with
  | nil => exact .refl _
  | cons a l ih => exact (noticesOnly_respondTo s _ _ _ _).trans (ih _)

theorem noticesOnly_onNq (s : State) (i : Nat) (f : WordQ → WordQ) : noticesOnly s (s.onNq i f) := by
  refine noticesOnly.trans ⟨rfl, s.onSeg_length _ _, ?_⟩ (noticesOnly_answerReads _ _)
  exact seg_onSeg_of s i _ noticed.refl rfl

theorem othersAnswered_onNq (s : State) (i : Nat) (f : WordQ → WordQ) : othersAnswered i s (s.onNq i f) := fun j hj => by
  rw [← s.seg_onSeg_ne (fun g => { g with nq := { f g.nq with answers := [] } }) hj]
  exact answersOnly_answerReads _ _ j

theorem noticesOnly_raise (s : State) (src code scope seg part : Nat) (e : Stamp) (d : Nat) :
    noticesOnly s (s.raise src code scope seg part e d) := noticesOnly_onNq s _ _

theorem othersAnswered_raise (s : State) (src code scope seg part : Nat) (e : Stamp) (d : Nat) :
    othersAnswered src s (s.raise src code scope seg part e d) := othersAnswered_onNq s _ _

theorem noticesOnly_raiseQueue (s : State) (src object : Nat) (owe : List QEvent) : noticesOnly s (s.raiseQueue src object owe) := by
  unfold State.raiseQueue
  induction s.overBy owe generalizing s with
  | nil => exact .refl _
  | cons e l ih => exact (noticesOnly_raise s _ _ _ _ _ _ _).trans (ih _)

/-- A segment stands but for its queues and the answers on its target channel. -/
def queued (g h : Segment) : Prop := noticed { g with i3cIn := h.i3cIn, i3cOut := h.i3cOut } h

/-- A block stands but for queues, answers on target channels, the endpoints' queues and rings. -/
def queuesOnly (s t : State) : Prop :=
  (∃ E, t = { s with segs := t.segs, rings := t.rings, objs := { s.objs with eps := E } }) ∧
    t.segs.length = s.segs.length ∧ ∀ i, queued (s.seg i) (t.seg i)

theorem queued.refl (g : Segment) : queued g g := rfl

theorem queued.trans {g h k : Segment} (a : queued g h) (b : queued h k) : queued g k := by
  unfold queued noticed answersOnly at *
  rw [b, a]

theorem queued_of_noticed {g h : Segment} (a : noticed g h) : queued g h := by
  unfold queued noticed answersOnly at *
  rw [a]

theorem queuesOnly.refl (s : State) : queuesOnly s s := ⟨⟨s.objs.eps, rfl⟩, rfl, fun _ => rfl⟩

theorem queuesOnly.trans {s t u : State} (a : queuesOnly s t) (b : queuesOnly t u) : queuesOnly s u := by
  obtain ⟨⟨E, ha⟩, la, na⟩ := a
  obtain ⟨⟨F, hb⟩, lb, nb⟩ := b
  exact ⟨⟨F, by rw [hb, ha]⟩, lb.trans la, fun i => (na i).trans (nb i)⟩

theorem queuesOnly_of_notices {s t : State} (h : noticesOnly s t) : queuesOnly s t := by
  obtain ⟨h, l, n⟩ := h
  exact ⟨⟨s.objs.eps, by rw [h]⟩, l, fun i => queued_of_noticed (n i)⟩

theorem queuesOnly_onRing (s : State) (n : Nat) (f : Ring → Ring) : queuesOnly s (s.onRing n f) := ⟨⟨s.objs.eps, rfl⟩, rfl, fun _ => rfl⟩

theorem queuesOnly_onEp (s : State) (e : Endpoint) (f : EndpointS → EndpointS) : queuesOnly s (s.onEp e f) := ⟨⟨_, rfl⟩, rfl, fun _ => rfl⟩

theorem queuesOnly_onSeg {s : State} {i : Nat} {f : Segment → Segment} (hf : queued (s.seg i) (f (s.seg i))) : queuesOnly s (s.onSeg i f) :=
  ⟨⟨s.objs.eps, rfl⟩, s.onSeg_length _ _, seg_onSeg_of s i f queued.refl hf⟩

theorem queuesOnly_putIn (s : State) (e : Endpoint) (q : WordQ) : queuesOnly s (s.putIn e q) := by
  unfold State.putIn
  refine queuesOnly.trans ?_ (queuesOnly_of_notices (noticesOnly_raiseQueue _ _ _ _))
  cases e with
  | i3c k => exact queuesOnly_onSeg rfl
  | _ => exact queuesOnly_onEp s _ _

theorem queuesOnly_putOut (s : State) (e : Endpoint) (q : WordQ) : queuesOnly s (s.putOut e q) := by
  unfold State.putOut
  refine queuesOnly.trans ?_ (queuesOnly_of_notices ((noticesOnly_raiseQueue _ _ _ _).trans (noticesOnly_answerReads _ _)))
  cases e with
  | i3c k => exact queuesOnly_onSeg rfl
  | _ => exact queuesOnly_onEp s _ _

theorem queuesOnly_foldl {α : Type} (f : State → α → State) (hf : ∀ t a, queuesOnly t (f t a)) (l : List α) (s : State) :
    queuesOnly s (l.foldl f s) := by
  induction l generalizing s with
  | nil => exact .refl _
  | cons a l ih => exact (hf s a).trans (ih _)

theorem queuesOnly_ringLatched (s : State) (n : Nat) (e : QEvent) : queuesOnly s (s.ringLatched n e) :=
  (queuesOnly_of_notices (noticesOnly_raise s _ _ _ _ _ _ _)).trans (queuesOnly_onRing _ _ _)

theorem queuesOnly_closeRing (s : State) (n : Nat) : queuesOnly s (s.closeRing n) := by
  unfold State.closeRing
  split
  · exact (queuesOnly_onRing s _ _).trans (queuesOnly_foldl _ (fun t e => queuesOnly_ringLatched t n e) _ _)
  · exact .refl _

theorem queuesOnly_closeCycles (s : State) : queuesOnly s s.closeCycles := by
  unfold State.closeCycles State.closeRings
  exact (queuesOnly_foldl _ (fun t e => (queuesOnly_putIn t e _).trans (queuesOnly_putOut _ e _)) _ _).trans
    (queuesOnly_foldl _ (fun t e => queuesOnly_closeRing t _) _ _)

theorem queuesOnly_ite {s t u : State} (c : Prop) [Decidable c] (ht : queuesOnly s t) (hu : queuesOnly s u) :
    queuesOnly s (if c then t else u) := by
  split
  · exact ht
  · exact hu

theorem queuesOnly_onSegs {s : State} {f : Nat → Segment → Segment} (hf : ∀ i g, queued g (f i g)) : queuesOnly s (s.onSegs f) := by
  refine ⟨⟨s.objs.eps, rfl⟩, s.onSegs_length _, fun i => ?_⟩
  by_cases hi : i < s.segs.length
  · rw [show (s.onSegs f).seg i = f i (s.seg i) by simp [State.seg, State.onSegs, hi]]
    exact hf i _
  · rw [show (s.onSegs f).seg i = s.seg i by simp [State.seg, State.onSegs, Nat.le_of_not_lt hi]]
    exact .refl _

theorem queuesOnly_eps (s : State) (E : List EndpointS) : queuesOnly s { s with objs := { s.objs with eps := E } } :=
  ⟨⟨E, rfl⟩, rfl, fun _ => rfl⟩

/-- Stalled reads that have ended are answered (R288, R291). -/
theorem queuesOnly_settleReads (s : State) : queuesOnly s s.settleReads := by
  unfold State.settleReads
  refine queuesOnly.trans (queuesOnly.trans (queuesOnly_ite _ ?_ (.refl s)) (queuesOnly_ite _ (queuesOnly_eps _ _) (.refl _)))
    (queuesOnly_of_notices (noticesOnly_answerReads _ _))
  exact queuesOnly_onSegs fun _ _ => rfl

theorem closeCycles_of_owesNothing {s : State} (h : s.owesNothing = true) : s.closeCycles = s := by
  simp only [State.owesNothing, Bool.and_eq_true, List.all_eq_true, List.isEmpty_iff, Option.isNone_iff_eq_none] at h
  obtain ⟨⟨hsegs, heps⟩, hrings⟩ := h
  have hseg (i : Nat) : (s.seg i).i3cIn.owe = [] ∧ (s.seg i).i3cOut.owe = [] := by
    rcases lt_or_ge i s.segs.length with hi | hi
    · exact hsegs _ (by simp [State.seg, List.getD_eq_getElem?_getD, hi])
    · rw [State.seg, List.getD_eq_default _ _ hi]; exact ⟨rfl, rfl⟩
  have howing : s.owing = [] := by
    simp only [State.owing, List.append_eq_nil_iff, List.map_eq_nil_iff, List.filter_eq_nil_iff]
    exact ⟨fun x hx => by simp [heps x hx], fun i _ => by simp [hseg i]⟩
  simp only [State.closeCycles, howing, List.foldl_nil, State.closeRings]
  rw [List.filter_eq_nil_iff.2 fun r hr => by simp [hrings r hr]]
  rfl

end Sys2Proof.Proofs
end
section
/-! What the movements of cached keys and values change: directory entries, sequences, partitions, keys, and of segments their ports and
their trust fields (R191 to R198). -/

namespace Sys2Proof.Proofs

open Sys2Proof Sys2Proof.Machine

/-- A segment stands but for its port and its trust fields. -/
def portTrustOnly (g h : Segment) : Prop := h = { g with port := h.port, trust := h.trust }

/-- A block stands but for what the movements of caches change. -/
def cachesOnly (s t : State) : Prop :=
  t = { s with segs := t.segs, handles := t.handles, seqs := t.seqs, parts := t.parts, trust := t.trust, cnt := t.cnt } ∧
    t.segs.length = s.segs.length ∧ ∀ i, portTrustOnly (s.seg i) (t.seg i)

theorem portTrustOnly.refl (g : Segment) : portTrustOnly g g := rfl

theorem portTrustOnly.trans {g h k : Segment} (a : portTrustOnly g h) (b : portTrustOnly h k) : portTrustOnly g k := by
  unfold portTrustOnly at *
  rw [b, a]

theorem cachesOnly.refl (s : State) : cachesOnly s s := ⟨rfl, rfl, fun _ => rfl⟩

theorem cachesOnly.trans {s t u : State} (a : cachesOnly s t) (b : cachesOnly t u) : cachesOnly s u := by
  obtain ⟨ha, la, na⟩ := a
  obtain ⟨hb, lb, nb⟩ := b
  exact ⟨by rw [hb, ha], lb.trans la, fun i => (na i).trans (nb i)⟩

theorem cachesOnly_foldl {α : Type} (f : State → α → State) (hf : ∀ t a, cachesOnly t (f t a)) (l : List α) (s : State) :
    cachesOnly s (l.foldl f s) := by
  induction l generalizing s with
  | nil => exact .refl _
  | cons a l ih => exact (hf s a).trans (ih _)

theorem cachesOnly_ite {s t u : State} (c : Prop) [Decidable c] (ht : cachesOnly s t) (hu : cachesOnly s u) :
    cachesOnly s (if c then t else u) := by
  split
  · exact ht
  · exact hu

/-- A change that a condition leaves out. -/
theorem cachesOnly_then {s t u : State} (c : Prop) [Decidable c] (ht : cachesOnly s t) (hu : cachesOnly t u) :
    cachesOnly s (if c then t else u) := cachesOnly_ite c ht (ht.trans hu)

theorem cachesOnly_onSeg {s : State} {i : Nat} {f : Segment → Segment} (hf : portTrustOnly (s.seg i) (f (s.seg i))) :
    cachesOnly s (s.onSeg i f) := ⟨rfl, s.onSeg_length _ _, seg_onSeg_of s i f portTrustOnly.refl hf⟩

theorem cachesOnly_onEntry (s : State) (k : Nat) (f : Handle → Handle) : cachesOnly s (s.onEntry k f) := by
  unfold State.onEntry
  split
  · exact ⟨rfl, rfl, fun _ => rfl⟩
  · exact .refl _

theorem cachesOnly_onLive (s : State) (k : Nat) (f : Sequence → Sequence) : cachesOnly s (s.onLive k f) := by
  unfold State.onLive
  split
  · exact ⟨rfl, rfl, fun _ => rfl⟩
  · exact .refl _

theorem cachesOnly_onPart (s : State) (p : Nat) (f : Partition → Partition) : cachesOnly s (s.onPart p f) := ⟨rfl, rfl, fun _ => rfl⟩

theorem cachesOnly_count (s : State) (f : Counters → Counters) : cachesOnly s (s.count f) := ⟨rfl, rfl, fun _ => rfl⟩

theorem cachesOnly_dma (s : State) (i : Nat) (r : DmaReq) : cachesOnly s (s.dma i r) := cachesOnly_onSeg rfl

theorem cachesOnly_setDim (s : State) (c : CacheRef) (d : Option DimRec) (m : Option DimMove) : cachesOnly s (s.setDim c d m) := by
  cases c with
  | entry k => exact cachesOnly_onEntry _ _ _
  | seq k => exact cachesOnly_onLive _ _ _

theorem cachesOnly_dimCounts (s : State) (p frames : Nat) : cachesOnly s (s.dimCounts p frames) := by
  unfold State.dimCounts
  exact cachesOnly.trans ⟨rfl, rfl, fun _ => rfl⟩ (cachesOnly_foldl _ (fun t i => cachesOnly_onSeg (by rfl)) _ _)

theorem cachesOnly_dimWriteTo (s : State) (c : CacheRef) (d : DimRec) (drop : Bool) : cachesOnly s (s.dimWriteTo c d drop) := by
  unfold State.dimWriteTo
  split
  · exact cachesOnly_then _ (((cachesOnly_setDim s c _ _).trans (cachesOnly_dimCounts _ _ _)).trans (cachesOnly_dma _ _ _))
      (cachesOnly_foldl _ (fun t x => cachesOnly_dma t _ _) _ _)
  · exact .refl _

theorem cachesOnly_beginDimWrite (s : State) (c : CacheRef) : cachesOnly s (s.beginDimWrite c) := by
  unfold State.beginDimWrite
  split
  · exact cachesOnly_dimWriteTo _ _ _ _
  · exact cachesOnly_count _ _

theorem cachesOnly_releaseEntry (s : State) (k : Nat) : cachesOnly s (s.releaseEntry k) := by
  unfold State.releaseEntry
  split
  · exact cachesOnly_ite _ ((cachesOnly_onEntry _ _ _).trans (cachesOnly_beginDimWrite _ _)) (cachesOnly_onEntry _ _ _)
  · exact .refl _

theorem cachesOnly_freeBright {put : State → Nat → Nat → State} (hput : ∀ s p n, cachesOnly s (put s p n)) (s : State) (k : Nat) :
    cachesOnly s (s.freeBright k put) := by
  unfold State.freeBright
  split
  · dsimp only
    split
    · exact ((cachesOnly_onEntry s k _).trans (hput _ _ _)).trans (cachesOnly_releaseEntry _ _)
    · exact (cachesOnly_onEntry s k _).trans (hput _ _ _)
  · exact .refl _

theorem cachesOnly_tombstone {put : State → Nat → Nat → State} (hput : ∀ s p n, cachesOnly s (put s p n)) (s : State) (k : Nat) :
    cachesOnly s (s.tombstone k put) := (cachesOnly_freeBright hput s k).trans (cachesOnly_onEntry _ _ _)

theorem cachesOnly_returnPages (s : State) (i n : Nat) (e : Stamp) : cachesOnly s (s.returnPages i n e) :=
  cachesOnly_ite _ (.refl s) (cachesOnly_onPart s i _)

/-- The sweep of a set changes caches, and moves on to the next set. -/
theorem sweepSet_caches (s : State) : ∃ t, cachesOnly s t ∧
    s.sweepSet = { t with time := { t.time with sweepSet := (s.time.sweepSet + 1) % 8192 } } := by
  refine ⟨_, cachesOnly_foldl _ (fun t k => ?_) (setSlots s.time.sweepSet) s, rfl⟩
  split
  · exact cachesOnly_ite _ (cachesOnly_tombstone (fun u p n => cachesOnly_returnPages u p n u.edge) t k) (.refl t)
  · exact .refl t

end Sys2Proof.Proofs
end
section
/-! The beat edge and the refill of token buckets (R39, R63, R222). -/

namespace Sys2Proof.Proofs

open Sys2Proof Sys2Proof.Machine

/-- What the manager's own work of a beat edge changes: caches, sequences and the set that the sweep comes to next. -/
theorem managerEdge_caches (s : State) : ∃ t n Q, cachesOnly s t ∧
    s.managerEdge = { t with time := { t.time with sweepSet := n }, seqs := Q } := by
  have hsettle : cachesOnly s ((List.range 16).foldl (fun t p => t.settle p) s) :=
    cachesOnly_foldl _ (fun t p => cachesOnly_onPart t p _) _ _
  obtain ⟨t, ht, hsweep⟩ := sweepSet_caches ((List.range 16).foldl (fun t p => t.settle p) s)
  unfold State.managerEdge
  split
  · dsimp only
    rw [hsweep]
    split
    · exact ⟨t, _, t.seqs, hsettle.trans ht, rfl⟩
    · exact ⟨t, _, _, hsettle.trans ht, rfl⟩
  · exact ⟨s, s.time.sweepSet, s.seqs, .refl s, rfl⟩

/-- The state at a beat edge before its segments and its manager work: the next beat, the cycles before it closed. -/
noncomputable def edgeStart (slewPs : Int) (s : State) : State :=
  ({ s with time := nextBeat s.glob.slewPpm slewPs s.time, prior := if s.power.hush == 0 then none else s.prior } : State).closeCycles

/-- The state at a beat edge once its segments have worked. -/
noncomputable def edgeSegs (slewPs : Int) (temps : List Int) (s : State) : State :=
  let u := (edgeStart slewPs s).stageOne.onSegs (edgeSegment temps)
  let n := (u.segs.filter (fun g => g.supply.throttled)).length
  u.count (fun c => { c with throttleBeats := c.throttleBeats + n })

/-- The state at a beat edge once its segments and its manager have worked. -/
noncomputable def edgeWork (slewPs : Int) (temps : List Int) (s : State) : State := (edgeSegs slewPs temps s).managerEdge

theorem execBeatEdge_eq (slewPs : Int) (temps : List Int) (s : State) : execBeatEdge slewPs temps s =
    .next ((edgeWork slewPs temps s.turn.secondEnds).tooHot.foldl (fun t i => t.loseAny i 0x07 t.edge)
      (edgeWork slewPs temps s.turn.secondEnds)) := rfl

theorem secondEnds_of_not_ending {s : State} (h : s.roles.ending = false) : s.secondEnds = s := by simp [State.secondEnds, h]

/-- BRINGUP_STAGE after a beat edge (log entry 37). -/
noncomputable def edgeStage (p : SupplyG) : SupplyG := { p with stage := if p.stage = 0 ∧ p.inReset = false then 1 else p.stage }

theorem stageOne_eq (s : State) : s.stageOne = { s with power := edgeStage s.power } := by
  unfold State.stageOne edgeStage
  by_cases h : s.power.stage = 0 ∧ s.power.inReset = false
  · simp [h]
  · simp [h]

/-- A state at a beat edge with queues, rings, caches and segments as another state has them. -/
noncomputable def edgeFrom (slewPs : Int) (s u : State) : State :=
  { s with
    time := { nextBeat s.glob.slewPpm slewPs s.time with sweepSet := u.time.sweepSet }
    prior := if s.power.hush == 0 then none else s.prior
    power := edgeStage s.power
    segs := u.segs
    rings := u.rings
    objs := { s.objs with eps := u.objs.eps }
    handles := u.handles
    parts := u.parts
    trust := u.trust
    cnt := u.cnt
    seqs := u.seqs }

theorem edgeFrom_of {slewPs : Int} {s x : State} {n S R E H P T C Q} (h : x = { s with
    time := { nextBeat s.glob.slewPpm slewPs s.time with sweepSet := n }, prior := if s.power.hush == 0 then none else s.prior,
    power := edgeStage s.power, segs := S, rings := R, objs := { s.objs with eps := E }, handles := H, parts := P, trust := T, cnt := C,
    seqs := Q }) : x = edgeFrom slewPs s x := by
  subst h
  rfl

/-- A beat edge changes the beat, the supplies' stage, queues, rings, caches and the segments. -/
theorem edgeWork_fields (slewPs : Int) (temps : List Int) (s : State) :
    edgeWork slewPs temps s = edgeFrom slewPs s (edgeWork slewPs temps s) := by
  obtain ⟨⟨E, hstart⟩, -, -⟩ := queuesOnly_closeCycles
    ({ s with time := nextBeat s.glob.slewPpm slewPs s.time, prior := if s.power.hush == 0 then none else s.prior } : State)
  obtain ⟨t, n, Q, ⟨ht, -, -⟩, hwork⟩ := managerEdge_caches (edgeSegs slewPs temps s)
  apply edgeFrom_of
  refine hwork.trans ?_
  rw [ht, edgeSegs, stageOne_eq, edgeStart, hstart]
  rfl

theorem edgeStart_queues (slewPs : Int) (s : State) : (edgeStart slewPs s).segs.length = s.segs.length ∧
    ∀ i, queued (s.seg i) ((edgeStart slewPs s).seg i) := (queuesOnly_closeCycles _).2

theorem seg_count (s : State) (f : Counters → Counters) (i : Nat) : (s.count f).seg i = s.seg i := rfl

/-- What a beat edge does in a segment, its port and its trust fields apart, once the cycles before it are closed. -/
theorem edgeWork_seg (slewPs : Int) (temps : List Int) (s : State) :
    (edgeWork slewPs temps s).segs.length = s.segs.length ∧ ∀ i, i < s.segs.length →
      portTrustOnly (edgeSegment temps i ((edgeStart slewPs s).seg i)) ((edgeWork slewPs temps s).seg i) := by
  obtain ⟨t, n, Q, ⟨-, hlen, hseg⟩, hwork⟩ := managerEdge_caches (edgeSegs slewPs temps s)
  have hsame : ((edgeStart slewPs s).stageOne).segs = (edgeStart slewPs s).segs := by rw [stageOne_eq]
  have hlen' : t.segs.length = s.segs.length :=
    hlen.trans ((State.onSegs_length _ _).trans ((congrArg List.length hsame).trans (edgeStart_queues slewPs s).1))
  rw [edgeWork, hwork]
  refine ⟨hlen', fun i hi => ?_⟩
  change portTrustOnly _ (t.seg i)
  have hat := seg_onSegs ((edgeStart slewPs s).stageOne) (edgeSegment temps) (i := i)
    (by rw [hsame, (edgeStart_queues slewPs s).1]; exact hi)
  rw [show (edgeStart slewPs s).seg i = (edgeStart slewPs s).stageOne.seg i by rw [State.seg, State.seg, hsame], ← hat]
  have hport := hseg i
  rw [edgeSegs, seg_count] at hport
  exact hport

/-- The junction reading of a segment after a beat edge (R386). -/
theorem edgeWork_tempC (slewPs : Int) (temps : List Int) {s : State} {i : Nat} (hi : i < s.segs.length) :
    ((edgeWork slewPs temps s).seg i).health.tempC = temps.getD i (s.seg i).health.tempC := by
  have hq := (edgeStart_queues slewPs s).2 i
  have hp := (edgeWork_seg slewPs temps s).2 i hi
  unfold queued noticed answersOnly at hq
  unfold portTrustOnly at hp
  rw [hp, hq]
  rfl

theorem edgeWork_glob (slewPs : Int) (temps : List Int) (s : State) : (edgeWork slewPs temps s).glob = s.glob := by
  rw [edgeWork_fields]
  rfl

/-- A beat edge at which no segment has reached its trip temperature loses none (R386). -/
theorem execBeatEdge_cool {slewPs : Int} {temps : List Int} {s u : State} (hu : s.turn = u) (hending : u.roles.ending = false)
    (hcool : ∀ i < u.segs.length, temps.getD i (u.seg i).health.tempC < (u.glob.thermalTrip : Int)) :
    exec (.beatEdge slewPs temps) s = .next (edgeWork slewPs temps u) := by
  have hnone : (edgeWork slewPs temps u).tooHot = [] := by
    refine List.filter_eq_nil_iff.2 fun i hi => ?_
    rw [List.mem_range, (edgeWork_seg slewPs temps u).1] at hi
    rw [edgeWork_tempC slewPs temps hi, edgeWork_glob]
    simpa using fun _ => hcool i hi
  show execBeatEdge slewPs temps s = _
  rw [execBeatEdge_eq, hu, secondEnds_of_not_ending hending, hnone]
  rfl

theorem edgeStart_of_owesNothing (slewPs : Int) {s : State} (h : s.owesNothing = true) : edgeStart slewPs s =
    { s with time := nextBeat s.glob.slewPpm slewPs s.time, prior := if s.power.hush == 0 then none else s.prior } :=
  closeCycles_of_owesNothing h

/-- Where no cycle before it owes a latching, the manager's work of an edge leaves rings and the dictionary. -/
theorem edgeWork_quiet (slewPs : Int) (temps : List Int) {s : State} (h : s.owesNothing = true) :
    (edgeWork slewPs temps s).rings = s.rings ∧ (edgeWork slewPs temps s).objs = s.objs ∧ ∀ i, i < s.segs.length →
      portTrustOnly (edgeSegment temps i (s.seg i)) ((edgeWork slewPs temps s).seg i) := by
  have hseg := (edgeWork_seg slewPs temps s).2
  have hfields : (edgeWork slewPs temps s).rings = s.rings ∧ (edgeWork slewPs temps s).objs = s.objs := by
    obtain ⟨t, n, Q, ⟨ht, -, -⟩, hwork⟩ := managerEdge_caches (edgeSegs slewPs temps s)
    rw [edgeWork, hwork, ht, edgeSegs, stageOne_eq, edgeStart_of_owesNothing slewPs h]
    exact ⟨rfl, rfl⟩
  rw [edgeStart_of_owesNothing slewPs h] at hseg
  exact ⟨hfields.1, hfields.2, hseg⟩

/-- In holdover a beat moves the offset by at most 2 ppm of 5 µs (R41). -/
theorem offsetAfter_holdover (slewPpm : Nat) (slew off : Int) : (offsetAfter .holdover slewPpm slew off - off).natAbs ≤ 10 := by
  simp only [offsetAfter, clampInt, add_sub_cancel_left]
  split
  · decide
  · split
    · decide
    · omega

/-- A token refill due fills each valid bucket and goes on to the edge's next phase (R222). -/
theorem execTokenRefill_due {s : State} (hp : s.prior = none) (hm : s.mgrAwake = true) (he : s.time.edgePhase = 0)
    (hb : s.time.beat % 16384 = 0) : ∃ Q, exec .tokenRefill s = .next { s with
      tenants := s.tenants.map (fun (e : Nat × Tenant) => (e.1, refilled e.2)), time := { s.time with edgePhase := 1 }, seqs := Q } := by
  refine ⟨({ s with tenants := s.tenants.map (fun (e : Nat × Tenant) => (e.1, refilled e.2)) } : State).markCandidates.seqs, ?_⟩
  show execTokenRefill s = _
  simp only [execTokenRefill, underForce_settled _ s hp, onlyIf, hm, he, refillDue, hb, beq_self_eq_true, Bool.and_self, if_true]
  rfl

/-- Settles O2: a beat edge is `edgeWork` on the block whose turn it is, of which `edgeWork_fields` and `edgeWork_seg` say what changes; a
refill maps each bucket. -/
theorem beatEdges : Obligations.BeatEdges := by
  refine ⟨?whole, ?split, ?refill⟩
  case whole =>
    intro s slewPs temps hwhole hending hcool
    have hfields := edgeWork_fields slewPs temps s
    have hquiet := edgeWork_quiet slewPs temps (s := s)
    have hexec := execBeatEdge_cool (slewPs := slewPs) (s.turn_whole hwhole) hending hcool
    generalize edgeWork slewPs temps s = x at hfields hquiet hexec
    refine ⟨x, hexec, ?_⟩
    refine ⟨by rw [hfields]; rfl, by rw [hfields]; simp [edgeFrom], fun hl => ?_, fun hh => ?_, by rw [hfields]; rfl, by rw [hfields]; rfl,
      by rw [hfields]; rfl, by rw [hfields]; rfl, by rw [hfields]; rfl, fun ho => ?_⟩
    · rw [hfields]; simp [edgeFrom, nextBeat, offsetAfter, hl]
    · rw [hfields]
      simpa [edgeFrom, nextBeat, hh] using offsetAfter_holdover s.glob.slewPpm slewPs s.time.offsetPs
    · obtain ⟨hrings, hobjs, hseg⟩ := hquiet ho
      exact ⟨hrings, hobjs, fun i hi => hseg i (by simpa [State.hasSeg] using hi)⟩
  case split =>
    intro s slewPs temps b hb hending hcool
    have hturn : s.turn = { s.withBlock b with other := some s.block } := by simp [State.turn, hb]
    have hfields := edgeWork_fields slewPs temps { s.withBlock b with other := some s.block }
    refine ⟨_, execBeatEdge_cool hturn hending hcool, ?_⟩
    rw [hfields]
    exact ⟨rfl, rfl, rfl, rfl, rfl, rfl⟩
  case refill =>
    intro s hp hm he hb
    obtain ⟨Q, hrefill⟩ := execTokenRefill_due hp hm he hb
    have hget {k : Nat} {v : Tenant} (h : aGet k s.tenants = some v) :
        aGet k (s.tenants.map (fun (e : Nat × Tenant) => (e.1, refilled e.2))) = some (refilled v) := by rw [aGet_map, h]; rfl
    refine ⟨_, hrefill, fun k v h hv hl => ?_, fun k v h hv hl => ?_, fun k v h hv => ?_, rfl, rfl⟩
    · rw [hget h, refilled, if_pos hv]
      congr 2
      exact max_eq_right (le_min (le_add_of_nonneg_right (by positivity)) hl)
    · rw [hget h, refilled, if_pos hv]
      congr 2
      rw [max_eq_left ((min_le_right _ _).trans hl.le)]
    · rw [hget h, refilled, if_neg (by simp [hv])]

end Sys2Proof.Proofs
end
section
/-! Pulses per second, holdover and sources of the beat (R39 to R42). -/

namespace Sys2Proof.Proofs

open Sys2Proof Sys2Proof.Machine

/-- A pulse that does not load the counter marks its segment, and at the manager counts toward the reference's return. -/
theorem execPpsEdge_counts {s : State} {seg : Nat} {words : List TodWord} {inTime : Bool} {off : Int} {good : Bool}
    (hload : (seg == s.mgr && !s.time.acquired && (todTaken words).isSome) = false)
    (hgood : good = ppsGood s.time.beat (todTaken words) inTime (off - (s.glob.ppsDelay : Int))) :
    exec (.ppsEdge seg words inTime off) s = .next
      (if seg == s.mgr then { s.onSeg seg (markPps false good) with time := countPps good s.time } else s.onSeg seg (markPps false good)) := by
  show execPpsEdge seg words inTime off s = _
  simp only [execPpsEdge, hload, Bool.false_or, ← hgood, Bool.false_eq_true, if_false]
  rfl

/-- A bad pulse only sets the count of pulses to 0 (R41). -/
theorem markPps_bad (g : Segment) : markPps false false g = { g with goodPps := 0 } := by simp [markPps]

/-- A good pulse brings back a reference that was not lost, or whose pulse before was good too (R41, R42). -/
theorem markPps_good {g : Segment} (h : g.refLost = false ∨ 1 ≤ g.goodPps) :
    markPps false true g = { g with goodPps := g.goodPps + 1, refPresent := true, refLost := false } := by
  rcases h with h | h <;> simp [markPps, h]

theorem markPps_first {g : Segment} (hl : g.refLost = true) (hn : g.goodPps = 0) : markPps false true g = { g with goodPps := 1 } := by
  simp [markPps, hl, hn]

/-- The first pulse of the manager with a time of day loads the counter (R39). -/
theorem execPpsEdge_loads {s : State} {words : List TodWord} {tod : Nat} (inTime : Bool) (off : Int) (ha : s.time.acquired = false)
    (ht : todTaken words = some tod) : exec (.ppsEdge s.mgr words inTime off) s = .next
      { (s.onSeg s.mgr (markPps true true)).onSegs (fun _ g => skipBeats s.time.beat (tod * 200000) g) with
        time := loadBeat tod s.time, prior := none } := by
  show execPpsEdge s.mgr words inTime off s = _
  simp [execPpsEdge, ha, ht]

/-- A change of its source that a segment's reference asks for is made and told (R40). -/
theorem execBeatSourceChange_changes {s : State} {seg : Nat} {skew : Int} (own : Bool) (hup : s.segUp seg = true) (hseg : seg ≠ s.mgr)
    (hhush : s.power.hush ≠ 1) (hown : ownSource (s.seg seg).refPresent s.glob.skewNs skew = own) (hchange : own ≠ (s.seg seg).ownRef) :
    exec (.beatSourceChange seg skew) s = .next
      ((s.onSeg seg (fun g => { g with ownRef := own })).raise seg 0x09 0x1 seg 0 s.edge (holdoverDetail (flag (!own)) skew)) := by
  show execBeatSourceChange seg skew s = _
  simp only [execBeatSourceChange, onlyIf, hup, hown, bne_iff_ne.2 hseg, bne_iff_ne.2 hhush, bne_iff_ne.2 hchange, Bool.and_self, if_true]

/-- Settles O3: a pulse loads the counter or counts (`execPpsEdge_loads`, `execPpsEdge_counts`), each mark of a segment by its case; the
reference commands are their guards taken. -/
theorem timeReference : Obligations.TimeReference := by
  refine ⟨⟨?load, ?manager, ?segment⟩, ?lost, ?lostElsewhere, ?restored, ?converged, ?taken, ?left⟩
  case load =>
    intro s words tod inTime off hs ha ht
    refine ⟨_, execPpsEdge_loads inTime off ha ht, rfl, rfl, rfl, rfl, ?_, rfl⟩
    have hlen : s.mgr < (s.onSeg s.mgr (markPps true true)).segs.length := by simpa [State.hasSeg] using hs
    have hseg := seg_onSegs (s.onSeg s.mgr (markPps true true)) (fun _ g => skipBeats s.time.beat (tod * 200000) g) hlen
    rw [s.seg_onSeg_eq _ hs] at hseg
    refine (congrArg Segment.refPresent hseg).trans ?_
    simp [skipBeats, markPps]
  case manager =>
    intro s words inTime off ha
    refine ⟨_, execPpsEdge_counts (by simp [ha]) rfl, ?_⟩
    rw [if_pos (beq_self_eq_true s.mgr)]
    exact ⟨rfl, fun j hj => s.seg_onSeg_ne _ hj, rfl⟩
  case segment =>
    intro s seg words good inTime off hs hseg hgood
    refine ⟨_, execPpsEdge_counts (by simp [hseg]) hgood, ?_⟩
    rw [if_neg (by simpa using hseg), s.seg_onSeg_eq _ hs]
    refine ⟨fun h => ?_, fun h hback => ?_, fun h hl hn => ?_, fun j hj => s.seg_onSeg_ne _ hj, rfl⟩
    · rw [h, markPps_bad]
    · rw [h, markPps_good hback]
    · rw [h, markPps_first hl hn]
  case lost =>
    intro s cause hr hm
    show execRefLost s.mgr cause s = _
    simp only [execRefLost, beq_self_eq_true, bne_iff_ne.2 hr, hm, Bool.and_self, if_true]
    rfl
  case lostElsewhere =>
    intro s seg cause h
    show execRefLost seg cause s = _
    rcases h with h | h <;> simp [execRefLost, h]
  case restored =>
    intro s off hr hp
    show execRefRestored off s = _
    simp [execRefRestored, onlyIf, hr, hp]
  case converged =>
    intro s hr ho
    show execRefConverged s = _
    simp [execRefConverged, onlyIf, hr, ho]
  case taken =>
    intro s seg skew hup hseg hhush hp ho hk
    exact execBeatSourceChange_changes true hup hseg hhush (by simp [ownSource, hp, hk]) (by simp [ho])
  case left =>
    intro s seg skew hup hseg hhush ho hk
    exact execBeatSourceChange_changes false hup hseg hhush (by rcases hk with hk | hk <;> simp [ownSource, hk]) (by simp [ho])

end Sys2Proof.Proofs
end
section
/-! What the end of work changes: sequences, steps, queues of requests, pages and records; and of segments the parts that hold work. -/

namespace Sys2Proof.Proofs

open Sys2Proof Sys2Proof.Machine

-- `mono` starts many tasks; run at once in every lemma they exhaust the thread stacks.
set_option Elab.async false

/-- A segment stands but for the parts that hold work. -/
def workSeg (g h : Segment) : Prop :=
  h = { g with ma0 := h.ma0, ma1 := h.ma1, allocs := h.allocs, steps := h.steps, kernels := h.kernels, hub := h.hub,
               scanQueue := h.scanQueue, scanGroup := h.scanGroup, lutUsed := h.lutUsed, passageUsed := h.passageUsed,
               snare := h.snare, stack := h.stack, port := h.port, trust := { g.trust with dimCounter := h.trust.dimCounter }, cnt := h.cnt }

/-- The counters stand but for those of lost steps, lost records and full dim pools. -/
def workCounts (c d : Counters) : Prop :=
  d = { c with dimFull := d.dimFull, stepRecLost := d.stepRecLost, stepsDiscarded := d.stepsDiscarded }

/-- A block stands but for its work. -/
def workOnly (s t : State) : Prop :=
  t = { s with segs := t.segs, parts := t.parts, rings := t.rings, tenants := t.tenants, handles := t.handles, seqs := t.seqs,
               trust := t.trust, cnt := t.cnt } ∧
    t.segs.length = s.segs.length ∧ (∀ i, workSeg (s.seg i) (t.seg i)) ∧ workCounts s.cnt t.cnt

theorem workSeg.refl (g : Segment) : workSeg g g := rfl

theorem workSeg.trans {g h k : Segment} (a : workSeg g h) (b : workSeg h k) : workSeg g k := by
  unfold workSeg at *
  rw [b, a]

theorem workCounts.trans {c d e : Counters} (a : workCounts c d) (b : workCounts d e) : workCounts c e := by
  unfold workCounts at *
  rw [b, a]

theorem workOnly.refl (s : State) : workOnly s s := ⟨rfl, rfl, fun _ => rfl, rfl⟩

variable {a s t : State}

theorem workOnly.trans {u : State} (h : workOnly s t) (k : workOnly t u) : workOnly s u := by
  obtain ⟨hs, hl, hg, hc⟩ := h
  obtain ⟨ks, kl, kg, kc⟩ := k
  exact ⟨by rw [ks, hs], kl.trans hl, fun i => (hg i).trans (kg i), hc.trans kc⟩

@[mono] theorem workOnly_ite {c : Prop} [Decidable c] (h : workOnly a s) (k : workOnly a t) : workOnly a (if c then s else t) := by
  split
  · exact h
  · exact k

@[mono] theorem workOnly_foldl {α : Type} {f : State → α → State} {l : List α} (hf : ∀ t x, workOnly a t → workOnly a (f t x))
    (h : workOnly a s) : workOnly a (l.foldl f s) := by
  induction l generalizing s with
  | nil => exact h
  | cons x l ih => exact ih (hf _ x h)

theorem workOnly_fields (h : workOnly a s) {parts rings tenants handles seqs trust} :
    workOnly a { s with parts := parts, rings := rings, tenants := tenants, handles := handles, seqs := seqs, trust := trust } :=
  h.trans ⟨rfl, rfl, fun _ => rfl, rfl⟩

theorem workOnly_onSeg (h : workOnly a s) (i : Nat) {f : Segment → Segment} (hf : ∀ g, workSeg g (f g)) : workOnly a (s.onSeg i f) :=
  h.trans ⟨rfl, s.onSeg_length _ _, seg_onSeg_of s i f workSeg.refl (hf _), rfl⟩

theorem workOnly_onSegs (h : workOnly a s) {f : Nat → Segment → Segment} (hf : ∀ i g, workSeg g (f i g)) : workOnly a (s.onSegs f) := by
  refine h.trans ⟨rfl, s.onSegs_length _, fun i => ?_, rfl⟩
  by_cases hi : i < s.segs.length
  · have hat : (s.onSegs f).seg i = f i (s.seg i) := by simp [State.seg, State.onSegs, hi]
    rw [hat]
    exact hf i _
  · have hat : (s.onSegs f).seg i = s.seg i := by simp [State.seg, State.onSegs, Nat.le_of_not_lt hi]
    rw [hat]
    exact .refl _

theorem workOnly_count (h : workOnly a s) {f : Counters → Counters} (hf : ∀ c, workCounts c (f c)) : workOnly a (s.count f) :=
  h.trans ⟨rfl, rfl, fun _ => rfl, hf _⟩

@[mono] theorem workOnly_onLive (h : workOnly a s) (k : Nat) (f : Sequence → Sequence) : workOnly a (s.onLive k f) := by
  unfold State.onLive
  split
  · exact workOnly_fields h
  · exact h

@[mono] theorem workOnly_onEntry (h : workOnly a s) (k : Nat) (f : Handle → Handle) : workOnly a (s.onEntry k f) := by
  unfold State.onEntry
  split
  · exact workOnly_fields h
  · exact h

@[mono] theorem workOnly_onPart (h : workOnly a s) (p : Nat) (f : Partition → Partition) : workOnly a (s.onPart p f) := workOnly_fields h

@[mono] theorem workOnly_onLoop (h : workOnly a s) (p : Nat) (c : Cls) (f : Loop → Loop) : workOnly a (s.onLoop p c f) := workOnly_fields h

@[mono] theorem workOnly_onTenant (h : workOnly a s) (k : Nat) (f : Tenant → Tenant) : workOnly a (s.onTenant k f) := workOnly_fields h

@[mono] theorem workOnly_setRing (h : workOnly a s) (n : Nat) (r : Ring) : workOnly a (s.setRing n r) := workOnly_fields h

@[mono] theorem workOnly_dma {a s : State} (h : workOnly a s) (seg : Nat) (r : DmaReq) :
    workOnly a (s.dma seg r) := by
  unfold State.dma
  refine workOnly_onSeg ?_ _ (fun _ => rfl)
  exact h

@[mono] theorem workOnly_makeRecord {a s : State} (h : workOnly a s) (b : BackRec) :
    workOnly a (s.makeRecord b).2 := by
  unfold State.makeRecord
  split
  · split
    · mono
    · exact h
  · split
    · mono
    · exact h
  · exact h

@[mono] theorem workOnly_writeEntry {a s : State} (h : workOnly a s) (n : Nat) (b : BackRec) :
    workOnly a (s.writeEntry n b) := by
  unfold State.writeEntry
  mono

@[mono] theorem workOnly_sendRecord {a s : State} (h : workOnly a s) (n : Nat) (b : BackRec) :
    workOnly a (s.sendRecord n b) := by
  unfold State.sendRecord
  mono

@[mono] theorem workOnly_returnPages {a s : State} (h : workOnly a s) (i : Nat) (n : Nat) (stamp : Stamp) :
    workOnly a (s.returnPages i n stamp) := by
  unfold State.returnPages
  mono

@[mono] theorem workOnly_onMap {a s : State} (h : workOnly a s) (c : CacheRef) (f : List (Nat × BlockRef) → List (Nat × BlockRef)) :
    workOnly a (s.onMap c f) := by
  unfold State.onMap
  split <;> mono

@[mono] theorem workOnly_dropBlocks {a s : State} (h : workOnly a s) (c : CacheRef) (gone : Nat → Bool) :
    workOnly a (s.dropBlocks c gone) := by
  unfold State.dropBlocks
  mono

@[mono] theorem workOnly_setDim {a s : State} (h : workOnly a s) (c : CacheRef) (d : Option DimRec) (m : Option DimMove) :
    workOnly a (s.setDim c d m) := by
  unfold State.setDim
  split <;> mono

@[mono] theorem workOnly_dimCounts {a s : State} (h : workOnly a s) (p : Nat) (frames : Nat) :
    workOnly a (s.dimCounts p frames) := by
  unfold State.dimCounts
  mono
  · intro t x h
    refine workOnly_onSeg ?_ _ (fun _ => rfl)
    exact h
  · refine workOnly_fields ?_
    exact h

@[mono] theorem workOnly_dimWriteTo {a s : State} (h : workOnly a s) (c : CacheRef) (d : DimRec) (drop : Bool) :
    workOnly a (s.dimWriteTo c d drop) := by
  unfold State.dimWriteTo
  split
  · mono
    intro t x h
    mono
  · exact h

@[mono] theorem workOnly_beginDimWrite {a s : State} (h : workOnly a s) (c : CacheRef) :
    workOnly a (s.beginDimWrite c) := by
  unfold State.beginDimWrite
  split
  · mono
  · refine workOnly_count ?_ (fun _ => rfl)
    exact h

@[mono] theorem workOnly_releaseEntry {a s : State} (h : workOnly a s) (slot : Nat) :
    workOnly a (s.releaseEntry slot) := by
  unfold State.releaseEntry
  split
  · mono
  · exact h

@[mono] theorem workOnly_freeBright {a s : State} (h : workOnly a s) (slot : Nat) {put : State → Nat → Nat → State}
    (hput : ∀ t p n, workOnly a t → workOnly a (put t p n)) : workOnly a (s.freeBright slot put) := by
  unfold State.freeBright
  split
  next e he =>
    have freed := hput _ e.part e.ownPages (workOnly_onEntry h slot (fun h => { h with ownPages := 0, older := none, map := [] }))
    dsimp only
    split
    · exact workOnly_releaseEntry freed _
    · exact freed
  · exact h

@[mono] theorem workOnly_tombstone {a s : State} (h : workOnly a s) (slot : Nat) {put : State → Nat → Nat → State}
    (hput : ∀ t p n, workOnly a t → workOnly a (put t p n)) : workOnly a (s.tombstone slot put) :=
  workOnly_onEntry (workOnly_freeBright h slot hput) _ _

@[mono] theorem workOnly_charge {a s : State} (h : workOnly a s) (t : Nat) (amount : ℤ) :
    workOnly a (s.charge t amount) := by
  unfold State.charge
  mono

@[mono] theorem workOnly_unbind {a s : State} (h : workOnly a s) (k : Nat) :
    workOnly a (s.unbind k) := by
  unfold State.unbind
  dsimp only
  refine workOnly_onSegs ?_ (fun _ _ => rfl)
  refine workOnly_fields ?_
  exact h

@[mono] theorem workOnly_freePassages {a s : State} (h : workOnly a s) (pl : Plan) :
    workOnly a (s.freePassages pl) := by
  unfold State.freePassages
  mono
  intro t x h
  refine workOnly_onSeg ?_ _ (fun _ => rfl)
  exact h

@[mono] theorem workOnly_leaveScan {a s : State} (h : workOnly a s) (k : Nat) :
    workOnly a (s.leaveScan k) := by
  unfold State.leaveScan
  refine workOnly_onSegs ?_ (fun _ _ => rfl)
  exact h

@[mono] theorem workOnly_dropPlan {a s : State} (h : workOnly a s) (k : Nat) :
    workOnly a (s.dropPlan k) := by
  unfold State.dropPlan
  split
  · split
    · mono
    · exact h
  · exact h

@[mono] theorem workOnly_discardHeld {a s : State} (h : workOnly a s) (k : Nat) :
    workOnly a (s.discardHeld k) := by
  unfold State.discardHeld
  split
  · mono
  · exact h

@[mono] theorem workOnly_pagesReturn {a s : State} (h : workOnly a s) (k : Nat) (stamp : Stamp) :
    workOnly a (s.pagesReturn k stamp) := by
  unfold State.pagesReturn
  split
  · mono
    split <;> split <;> mono
  · exact h

@[mono] theorem workOnly_endSeq {a s : State} (h : workOnly a s) (k : Nat) (st : Status) (e : Stamp) :
    workOnly a (s.endSeq k st e) := by
  unfold State.endSeq
  split
  · mono
    · refine workOnly_onSegs ?_ (fun _ _ => rfl)
      mono
    · refine workOnly_onSegs ?_ (fun _ _ => rfl)
      mono
  · exact h

@[mono] theorem workOnly_failRequest {a s : State} (h : workOnly a s) (r : Request) (st : Status) (e : Stamp) :
    workOnly a (s.failRequest r st e) := by
  unfold State.failRequest
  mono

@[mono] theorem workOnly_sendStepRecord {a s : State} (h : workOnly a s) (p : Nat) (data : Nat) :
    workOnly a (s.sendStepRecord p data) := by
  unfold State.sendStepRecord
  mono
  refine workOnly_count ?_ (fun _ => rfl)
  exact h

@[mono] theorem workOnly_recordStep {a s : State} (h : workOnly a s) (p : Nat) (c : Cls) (o : StepEnd) (e : Stamp) (tokens : Nat) (st : StepS) :
    workOnly a (s.recordStep p c o e tokens st) := by
  unfold State.recordStep
  mono

@[mono] theorem workOnly_endTransfersOn {a s : State} (h : workOnly a s) (on : Nat → Bool) (p : Nat) (c : Cls) :
    workOnly a (s.endTransfersOn on p c) := by
  unfold State.endTransfersOn
  refine workOnly_onSegs ?_ (fun _ _ => rfl)
  exact h

@[mono] theorem workOnly_unreserve {a s : State} (h : workOnly a s) (stamp : Stamp) (b : Machine.Bind) :
    workOnly a (s.unreserve stamp b) := by
  unfold State.unreserve
  split
  · mono
  · exact h

@[mono] theorem workOnly_endedBack {a s : State} (h : workOnly a s) (p : Nat) (c : Cls) (stamp : Stamp) :
    workOnly a (s.endedBack p c stamp) := by
  unfold State.endedBack
  mono
  intro t x h
  mono

theorem workSeg_dropStepHere (p : Nat) (c : Cls) (streams : List Nat) (g : Segment) :
    workSeg g (dropStepHere p c streams (undoStack p c g)) := by
  unfold undoStack
  split <;> rfl

@[mono] theorem workOnly_clearStep {a s : State} (h : workOnly a s) (p : Nat) (c : Cls) (stamp : Stamp) :
    workOnly a (s.clearStep p c stamp) := by
  unfold State.clearStep
  split
  · mono
    · exact workOnly_onSegs (by mono; exact fun t b h => workOnly_onLive (workOnly_unreserve h _ _) _ _) (fun _ => workSeg_dropStepHere _ _ _)
  · exact h

@[mono] theorem workOnly_haltBe {a s : State} (h : workOnly a s) (p : Nat) (c : Cls) :
    workOnly a (s.haltBe p c) := by
  unfold State.haltBe
  mono

@[mono] theorem workOnly_discardStep {a s : State} (h : workOnly a s) (p : Nat) (c : Cls) (o : StepEnd) (status : Status) (stamp : Stamp) :
    workOnly a (s.discardStep p c o status stamp) := by
  unfold State.discardStep
  split
  · split
    · mono
    · mono
      · refine workOnly_count ?_ (fun _ => rfl)
        mono
      · intro t x h
        mono
      · refine workOnly_count ?_ (fun _ => rfl)
        mono
  · exact h

@[mono] theorem workOnly_tombstoneAll {a s : State} (h : workOnly a s) (p : Nat) (stamp : Stamp) :
    workOnly a (s.tombstoneAll p stamp) := by
  unfold State.tombstoneAll
  mono
  intro t x h
  mono
  intro x0 x1 x2 h
  mono

@[mono] theorem workOnly_endWhere {a s : State} (h : workOnly a s) (pick : Sequence → Bool) (status : Status) (stamp : Stamp) :
    workOnly a (s.endWhere pick status stamp) := by
  unfold State.endWhere
  mono
  intro t x h
  mono

@[mono] theorem workOnly_failQueued {a s : State} (h : workOnly a s) (p : Nat) (status : Status) (stamp : Stamp) :
    workOnly a (s.failQueued p status stamp) := by
  unfold State.failQueued
  mono
  intro t x h
  mono

@[mono] theorem workOnly_stopPartition {a s : State} (h : workOnly a s) (p : Nat) (status : Status) (stamp : Stamp) :
    workOnly a (s.stopPartition p status stamp) := by
  unfold State.stopPartition
  mono

@[mono] theorem workOnly_unscreened {a s : State} (h : workOnly a s) (out : List Nat) :
    workOnly a (s.unscreened out) := by
  unfold State.unscreened
  mono
  intro t x h
  mono

@[mono] theorem workOnly_segsLeave {a s : State} (h : workOnly a s) (out : List Nat) (status : Status) (stamp : Stamp) :
    workOnly a (s.segsLeave out status stamp) := by
  unfold State.segsLeave
  mono
  · intro t x h
    mono
  · intro t x h
    mono
    intro t x h
    mono

end Sys2Proof.Proofs
end
section
/-! What a message on the control channel changes: the frame counts of the modules it passes (R148). -/

namespace Sys2Proof.Proofs

open Sys2Proof Sys2Proof.Machine

/-- A block stands but for the frame counts of its modules. -/
def sentOnly (s t : State) : Prop :=
  t = { s with segs := t.segs } ∧ t.segs.length = s.segs.length ∧ ∀ i, framesSent (s.seg i) (t.seg i)

theorem framesSent_refl (g : Segment) : framesSent g g := ⟨rfl, fun _ => rfl⟩

theorem framesSent_trans {g h k : Segment} (a : framesSent g h) (b : framesSent h k) : framesSent g k := by
  obtain ⟨ha, ma⟩ := a
  obtain ⟨hb, mb⟩ := b
  exact ⟨by rw [hb, ha], fun d => by rw [mb d, ma d]⟩

/-- A frame that leaves a module is counted in it. -/
theorem framesSent_onModule (g : Segment) (i : Nat) (d : Dir) : framesSent g { g with hub := g.hub.onModule d (frameLeaves i d) } := by
  refine ⟨by cases d <;> rfl, fun e => ?_⟩
  cases d <;> cases e <;> rfl

theorem sentOnly.refl (s : State) : sentOnly s s := ⟨rfl, rfl, fun _ => framesSent_refl _⟩

theorem sentOnly.trans {s t u : State} (a : sentOnly s t) (b : sentOnly t u) : sentOnly s u := by
  obtain ⟨ha, la, na⟩ := a
  obtain ⟨hb, lb, nb⟩ := b
  exact ⟨by rw [hb, ha], lb.trans la, fun i => framesSent_trans (na i) (nb i)⟩

theorem sentOnly_foldl {α : Type} {f : State → α → State} (hf : ∀ t x, sentOnly t (f t x)) (l : List α) (s : State) :
    sentOnly s (l.foldl f s) := by
  induction l generalizing s with
  | nil => exact .refl s
  | cons x l ih => exact (hf s x).trans (ih _)

theorem sentOnly_hop (s : State) (i j : Nat) : sentOnly s (s.hop i j) := by
  unfold State.hop
  split
  · split
    · exact ⟨rfl, s.onSeg_length _ _, seg_onSeg_of s i _ framesSent_refl (framesSent_onModule _ _ _)⟩
    · exact .refl s
  · exact .refl s

/-- A message on the control channel passes the mesh as frames (R28, R148). -/
theorem sentOnly_control (s : State) (i d : Nat) : sentOnly s (s.control i d) := by
  unfold State.control
  exact sentOnly_foldl (fun t (x : Nat × Nat) => sentOnly_hop t x.1 x.2) _ s

theorem sentOnly_controlAll (s : State) (l : List Nat) : sentOnly s (s.controlAll l) :=
  sentOnly_foldl (fun t _ => sentOnly_control t _ _) l s

theorem framesSent_control (s : State) (i d j : Nat) : framesSent (s.seg j) ((s.control i d).seg j) := (sentOnly_control s i d).2.2 j

theorem control_eq (s : State) (i d : Nat) : s.control i d = { s with segs := (s.control i d).segs } := (sentOnly_control s i d).1

/-- A change that leaves frame counts alone, after frames have been sent, is that change before them, but for the counts. -/
theorem framesSent_map {f : Segment → Segment} {g h : Segment} (hs : framesSent g h)
    (hf : ∀ g : Segment, ∀ x : Hub, f { g with hub := x } = { f g with hub := x }) : framesSent (f g) (f h) := by
  obtain ⟨hh, hm⟩ := hs
  have same : f g = { f g with hub := g.hub } := hf g g.hub
  refine ⟨?_, fun d => ?_⟩
  · rw [hh, hf]; rw [same]
  · rw [hh, hf]
    have := hm d
    rw [hh] at this
    rw [same]
    exact this

end Sys2Proof.Proofs
end
section
/-! Heartbeats and the standby's mirror (R29, R30, R359, R363). -/

namespace Sys2Proof.Proofs

open Sys2Proof Sys2Proof.Machine

/-- A heartbeat sent is on its way. -/
theorem mem_hbWay_sendHeartbeat (beat : Nat) (g : Segment) : beat ∈ (sendHeartbeat beat g).hbWay := by
  simp only [sendHeartbeat]
  rw [List.drop_append_of_le_length (by split <;> omega)]
  simp

theorem sendHeartbeat_eq (beat : Nat) (g : Segment) : sendHeartbeat beat g = { g with hbWay := (sendHeartbeat beat g).hbWay } := rfl

/-- What HEARTBEAT does in a segment (R29). -/
noncomputable def heartbeatSent (s : State) (i : Nat) (g : Segment) : Segment :=
  if i == s.mgr then { g with lastHb := s.time.beat, lastAck := s.time.beat } else sendHeartbeat s.time.beat g

theorem execHeartbeat_sends {s : State} (hup : s.mgrUp = true) (hhush : s.power.hush = 0) (hb : s.time.beat % 4 = 0) :
    ∃ t, exec .heartbeat s = .next t ∧ t = { s with segs := t.segs } ∧
      ∀ i, i < s.segs.length → framesSent (heartbeatSent s i (s.seg i)) (t.seg i) := by
  obtain ⟨hframe, -, hseg⟩ := sentOnly_controlAll (s.onSegs (heartbeatSent s)) ((List.range s.segs.length).filter (· != s.mgr))
  refine ⟨_, ?_, hframe, fun i hi => ?_⟩
  · show execHeartbeat s = _
    simp only [execHeartbeat, onlyIf, hup, hhush, hb, beq_self_eq_true, Bool.and_self, if_true]
    rfl
  · rw [← seg_onSegs s (heartbeatSent s) hi]
    exact hseg i

/-- A heartbeat that reaches a segment is taken after the answer has left (R363). -/
theorem execHeartbeatReceive_takes {s : State} {seg b : Nat} (hs : s.hasSeg seg = true) (hup : s.mgrUp = true) (hhush : s.power.hush = 0)
    (hseg : seg ≠ s.mgr) (hfar : seg ∉ s.roles.farHalf) (hstate : (s.seg seg).state = .serving ∨ (s.seg seg).state = .fenced)
    (hb : b ∈ (s.seg seg).hbWay) : exec (.heartbeatReceive seg b) s = .next
      (if (s.seg seg).state == .fenced && (heartbeatTaken s.mgr b s.time.beat (s.seg seg)).state == .serving && s.roles.recovering.isNone then
        ((s.control seg s.mgr).onSeg seg (fun g => unfencedQueues s.now (heartbeatTaken s.mgr b s.time.beat g))).settleReads
      else (s.control seg s.mgr).onSeg seg (heartbeatTaken s.mgr b s.time.beat)) := by
  have hjoined : s.isJoined seg = true := by
    rcases hstate with h | h <;> simp [State.isJoined, hs, h, hfar]
  show execHeartbeatReceive seg b s = _
  simp only [execHeartbeatReceive, onlyIf, hup, bne_iff_ne.2 hseg, hjoined, List.contains_iff_mem.2 hb, hhush, beq_self_eq_true, Bool.and_self,
    if_true]

theorem framesSent_heartbeatTaken {g h : Segment} (mgr b now : Nat) (hs : framesSent g h) :
    framesSent (heartbeatTaken mgr b now g) (heartbeatTaken mgr b now h) := framesSent_map hs fun _ _ => rfl

/-- A serving segment notes the heartbeat's stamp and its own answer (R363). -/
theorem heartbeatTaken_serving {g : Segment} (mgr b now : Nat) (h : g.state = .serving) : heartbeatTaken mgr b now g =
    { g with lastHb := max g.lastHb b, hbFrom := mgr, lastAck := now, hbWay := g.hbWay.filter (fun x => b < x) } := by
  simp [heartbeatTaken, h]

/-- A segment fenced by the silence of another manager is freed (R364, R367). -/
theorem heartbeatTaken_freed {g : Segment} {mgr : Nat} (b now : Nat) (h : g.state = .fenced) (hfrom : g.hbFrom ≠ mgr)
    (hr : g.fenceReason ≠ 0x05) : heartbeatTaken mgr b now g =
    { g with lastHb := max g.lastHb b, hbFrom := mgr, state := .serving, hbWay := g.hbWay.filter (fun x => b < x), fenceReason := 0,
             lastAck := now } := by
  simp [heartbeatTaken, h, hfrom, hr]

/-- A segment fenced for a rejoin stays fenced. -/
theorem heartbeatTaken_rejoin {g : Segment} (mgr b now : Nat) (h : g.state = .fenced) (hr : g.fenceReason = 0x05) :
    heartbeatTaken mgr b now g = { g with lastHb := max g.lastHb b, hbWay := g.hbWay.filter (fun x => b < x), lastAck := now } := by
  simp [heartbeatTaken, h, hr]

theorem dropStandby_eq (s : State) (i : Nat) :
    s.dropStandby i = { s with roles := (s.dropStandby i).roles, mirror := (s.dropStandby i).mirror } := by
  unfold State.dropStandby
  split
  · rfl
  · split <;> rfl

theorem noticesOnly_raiseLost (s : State) (i reason : Nat) (e : Stamp) : noticesOnly s (s.raiseLost i reason e) := noticesOnly_raise _ _ _ _ _ _ _ _

/-- A segment that is lost: its work ends, it is reset, and the manager tells and counts it (R359). -/
theorem loseSegment_lost (s : State) {i : Nat} (reason : Nat) (e : Stamp) (hs : s.hasSeg i = true) :
    ((s.loseSegment i reason e).seg i).state = .lost ∧ ((s.loseSegment i reason e).seg i).lostReason = reason ∧
      (s.loseSegment i reason e).cnt.segmentsLost = s.cnt.segmentsLost + 1 ∧ (s.loseSegment i reason e).glob = s.glob ∧
      (s.loseSegment i reason e).pending = s.pending := by
  obtain ⟨hleave, hlen, -, hcnt⟩ := workOnly_segsLeave (.refl s) [i] .stepLost e
  unfold State.loseSegment
  dsimp only
  generalize s.segsLeave [i] .stepLost e = u at *
  have hlost : (((u.onSeg i (lostSegment reason)).dropStandby i).seg i) = lostSegment reason (u.seg i) := by
    rw [dropStandby_eq]
    exact u.seg_onSeg_eq _ (by simpa [State.hasSeg, hlen] using hs)
  have hdrop := dropStandby_eq (u.onSeg i (lostSegment reason)) i
  generalize (u.onSeg i (lostSegment reason)).dropStandby i = v at *
  obtain ⟨hraise, -, hseg⟩ := noticesOnly_raiseLost v i reason e
  generalize v.raiseLost i reason e = w at *
  have hw := hseg i
  rw [hlost] at hw
  refine ⟨congrArg Segment.state hw, congrArg Segment.lostReason hw, ?_, ?_, ?_⟩
  · show w.cnt.segmentsLost + 1 = _
    rw [hraise, hdrop]
    have hc : u.cnt.segmentsLost = s.cnt.segmentsLost := by rw [hcnt]
    exact congrArg (· + 1) hc
  · show w.glob = _
    rw [hraise, hdrop]
    exact (congrArg State.glob hleave :)
  · show w.pending = _
    rw [hraise, hdrop]
    exact (congrArg State.pending hleave :)

/-- A delta that reaches the standby is taken, and answered on the control channel (R30). -/
theorem execMirrorDeltaApply_takes {s : State} {d : Delta} (hstandby : s.roles.standby.isSome = true)
    (hd : s.mirror.unacked.find? (fun x => x.seqNo == d.seqNo) = some d) :
    ∃ t, exec (.mirrorDeltaApply d.seqNo) s = .next t ∧ t.mirror = applyDelta d s.mirror ∧ othersSent [] s t ∧
      t = { s with mirror := t.mirror, segs := t.segs } := by
  obtain ⟨i, hi⟩ := Option.isSome_iff_exists.1 hstandby
  obtain ⟨hframe, -, hseg⟩ := sentOnly_control s i s.mgr
  refine ⟨{ s.control i s.mgr with mirror := applyDelta d s.mirror }, ?_, rfl, fun j _ => hseg j, by rw [hframe]⟩
  show execMirrorDeltaApply d.seqNo s = _
  simp only [execMirrorDeltaApply, hd, hi]

/-- The state once a full copy of the tables has reached the standby, and a candidate has become it (R30, R369). -/
noncomputable def copied (s : State) : State :=
  { s with
    mirror := { s.mirror with applied := s.tables (s.mirror.nextSeq - 1), unacked := [], current := true, copying := false },
    roles := { s.roles with standby := s.roles.candidate.or s.roles.standby, candidate := none } }

/-- Settles O4: heartbeats and deltas pass the mesh (`sentOnly_control`), and each segment takes a heartbeat by its state. -/
theorem heartbeatsAndMirror : Obligations.HeartbeatsAndMirror := by
  refine ⟨⟨?sent, ?taken, ?fenced, ?silent⟩, ?applied, ?gap, ?copied⟩
  case sent =>
    intro s hs hup hhush hb
    obtain ⟨t, ht, hframe, hseg⟩ := execHeartbeat_sends hup hhush hb
    refine ⟨t, ht, ?_, fun i hi hne => ?_, hframe⟩
    · have := hseg s.mgr (by simpa [State.hasSeg] using hs)
      rwa [heartbeatSent, if_pos (beq_self_eq_true s.mgr)] at this
    · have := hseg i (by simpa [State.hasSeg] using hi)
      rw [heartbeatSent, if_neg (by simpa using hne), sendHeartbeat_eq] at this
      obtain ⟨h, hm⟩ := this
      have hway : (t.seg i).hbWay = (sendHeartbeat s.time.beat (s.seg i)).hbWay := by rw [h]
      refine ⟨hway ▸ mem_hbWay_sendHeartbeat _ _, ?_, hm⟩
      rw [hway]
      exact h
  case taken =>
    intro s seg b hs hup hhush hseg hfar hstate hb
    refine ⟨_, execHeartbeatReceive_takes hs hup hhush hseg hfar (.inl hstate) hb, ?_⟩
    rw [if_neg (by simp [hstate])]
    obtain ⟨hframe, hlen, hsent⟩ := sentOnly_control s seg s.mgr
    refine ⟨?_, fun j hj => ?_, by rw [hframe]; rfl⟩
    · rw [State.seg_onSeg_eq _ _ (by simpa [State.hasSeg, hlen] using hs), ← heartbeatTaken_serving _ _ _ hstate]
      exact framesSent_heartbeatTaken _ _ _ (hsent seg)
    · rw [State.seg_onSeg_ne _ _ (by simpa using hj)]
      exact hsent j
  case fenced =>
    intro s seg b hup hhush hseg hfar hs hstate hb hfrom
    obtain ⟨hframe, hlen, hsent⟩ := sentOnly_control s seg s.mgr
    have hs' : (s.control seg s.mgr).hasSeg seg = true := by simpa [State.hasSeg, hlen] using hs
    have htaken := framesSent_heartbeatTaken s.mgr b s.time.beat (hsent seg)
    refine ⟨_, execHeartbeatReceive_takes hs hup hhush hseg hfar (.inr hstate) hb, fun hr => ?_, fun hr => ?_⟩
    · rw [heartbeatTaken_freed b _ hstate hfrom hr] at htaken ⊢
      obtain ⟨htaken, -⟩ := htaken
      by_cases hrec : s.roles.recovering = none
      · rw [if_pos (by simp [hstate, hrec])]
        obtain ⟨-, -, hq⟩ := queuesOnly_settleReads
          ((s.control seg s.mgr).onSeg seg (fun g => unfencedQueues s.now (heartbeatTaken s.mgr b s.time.beat g)))
        have := hq seg
        rw [State.seg_onSeg_eq _ _ hs', htaken] at this
        exact ⟨congrArg Segment.state this, congrArg Segment.hbFrom this, congrArg Segment.lastAck this, fun h => absurd hrec h⟩
      · rw [if_neg (by simp [hrec]), State.seg_onSeg_eq _ _ hs', htaken]
        exact ⟨rfl, rfl, rfl, fun _ => rfl⟩
    · rw [heartbeatTaken_rejoin _ b _ hstate hr] at htaken ⊢
      obtain ⟨htaken, -⟩ := htaken
      rw [if_neg (by simp [hstate]), State.seg_onSeg_eq _ _ hs', htaken]
      exact ⟨hstate, hr, rfl⟩
  case silent =>
    intro s cyc seg hup hhush hseg hjoined hage
    have hs : s.hasSeg seg = true := by
      simp only [State.isJoined, Bool.and_eq_true] at hjoined
      exact hjoined.1.1
    refine ⟨(s.given (s.stampFor cyc)).loseSegment seg 0x01 (s.stampFor cyc), ?_, loseSegment_lost _ 0x01 _ hs⟩
    show execHeartbeatAckTimeout cyc seg s = _
    simp only [execHeartbeatAckTimeout, onlyIf, hup, hjoined, bne_iff_ne.2 hseg, hage, hhush, beq_self_eq_true, decide_true, Bool.and_self,
      if_true]
  case applied =>
    intro s d hstandby hcopying hd hnext
    obtain ⟨t, ht, hmirror, hrest⟩ := execMirrorDeltaApply_takes hstandby hd
    refine ⟨t, ht, ?_, hrest⟩
    simp [hmirror, applyDelta, hcopying, hnext]
  case gap =>
    intro s d hstandby hcopying hd hgap
    obtain ⟨t, ht, hmirror, hrest⟩ := execMirrorDeltaApply_takes hstandby hd
    refine ⟨t, ht, ?_, hrest⟩
    rw [hmirror, applyDelta, if_neg (by simp [hcopying]), if_neg (by simp; omega), if_pos (by omega)]
  case copied =>
    intro s hup hcopying
    refine ⟨copied s, ?_, rfl, rfl, rfl, rfl, rfl, rfl, fun i hi => ?_, fun hn => ?_, rfl⟩
    · show execMirrorCopyComplete s = _
      simp only [execMirrorCopyComplete, onlyIf, hup, hcopying, Bool.and_self, if_true]
      rfl
    · simp [copied, hi]
    · simp [copied, hn]

end Sys2Proof.Proofs
end
section
/-! Step doorbells and grants of staging SRAM (R45, R65, R66, R301). -/

namespace Sys2Proof.Proofs

open Sys2Proof Sys2Proof.Machine

/-- A place written with what it holds. -/
theorem modifyAt_same {α : Type} (f : α → α) (d : α) (n : Nat) (l : List α) (h : f (l.getD n d) = l.getD n d) : modifyAt f n l = l := by
  induction l generalizing n with
  | nil => cases n <;> rfl
  | cons a r ih =>
    cases n with
    | zero => exact congrArg (· :: r) h
    | succ n => exact congrArg (a :: ·) (ih n (by simpa using h))

theorem onPart_same {s : State} {p : Nat} {f : Partition → Partition} (h : f (s.part p) = s.part p) : s.onPart p f = s := by
  rw [State.onPart, modifyAt_same f {} p s.parts h]

theorem onSeg_same {s : State} {i : Nat} {f : Segment → Segment} (h : f (s.seg i) = s.seg i) : s.onSeg i f = s := by
  rw [State.onSeg, modifyAt_same f {} i s.segs h]

theorem onPart_congr (s : State) (p : Nat) {f g : Partition → Partition} (h : f (s.part p) = g (s.part p)) :
    s.onPart p f = s.onPart p g := by
  rw [State.onPart, State.onPart, modifyAt_congr f g {} p s.parts h]

/-- Loops changed alike where they stand are changed alike. -/
theorem onLoop_congr (s : State) (p : Nat) (c : Cls) {f g : Loop → Loop} (h : f ((s.part p).loop c) = g ((s.part p).loop c)) :
    s.onLoop p c f = s.onLoop p c g := by
  refine onPart_congr s p ?_
  cases c
  · exact congrArg (fun l => { s.part p with lc := l }) h
  · exact congrArg (fun l => { s.part p with be := l }) h

theorem onLoop_same {s : State} {p : Nat} {c : Cls} {f : Loop → Loop} (h : f ((s.part p).loop c) = (s.part p).loop c) :
    s.onLoop p c f = s := by
  refine onPart_same ?_
  cases c
  · exact congrArg (fun l => { s.part p with lc := l }) h
  · exact congrArg (fun l => { s.part p with be := l }) h

/-- A doorbell of a partition that the manager takes acts (R301). -/
theorem doorbell_taken {s : State} {p : Nat} (t : State) (hup : s.mgrUp = true) (hun : s.unretired = true) (hp : p < 16) :
    onlyIf (s.mgrUp && s.unretired && p < 16) t s = .next t := by
  simp [onlyIf, hup, hun, hp]

/-- A loop that does not run is not marked to end. -/
theorem stop_idle {l : Loop} (h : l.running = false) : { l with stopping := l.stopping || l.running } = l := by
  cases l
  simp_all

theorem launchOk_of {s : State} {p : Nat} {c : Cls} {prog : Nat} {g : Program} (hp : p < 15)
    (hg : (s.part p).programs.find? (fun x => x.id == prog) = some g) (hc : g.image.cls = c) (hr : ((s.part p).loop c).running = false)
    (hs : (s.part p).stopped = none) (hj : ∀ i ∈ maskBits 20 (s.part p).segMask, s.serving i = true) (hstage : 4 ≤ s.power.stage) :
    s.launchOk p c prog = true := by
  have hjoined : s.maskJoined p = true := List.all_eq_true.2 hj
  simp [State.launchOk, Partition.program, hg, hc, hr, hs, hjoined, Nat.ne_of_lt hp, hstage]

/-- A loop that runs, a stopped partition, and a program that is not resident or of the other class launch nothing (R301). -/
theorem launchOk_refused {s : State} {p : Nat} {c : Cls} {prog : Nat}
    (h : ((s.part p).loop c).running = true ∨ (s.part p).stopped ≠ none ∨
      ∀ g, (s.part p).programs.find? (fun x => x.id == prog) = some g → g.image.cls ≠ c) : s.launchOk p c prog = false := by
  cases hg : (s.part p).programs.find? (fun x => x.id == prog) with
  | none => simp only [State.launchOk, Partition.program, hg]
  | some g =>
    simp only [State.launchOk, Partition.program, hg]
    rcases h with h | h | h
    · simp [h]
    · simp [Option.isNone_iff_eq_none, h]
    · simp [h g hg]

/-- A latency-critical allocation within its floor takes nothing of the shared region (R65). -/
theorem needShared_floor {s : State} {i p units : Nat} (h : units + (s.seg i).floorUsed p ≤ s.floorUnits p) :
    s.needShared i p .lc units = 0 := by
  simp only [State.needShared]
  omega

/-- Settles O5: each doorbell is its guard taken, `launchOk` deciding LAUNCH; a grant within the floor needs nothing shared. -/
theorem stepDoorbells : Obligations.StepDoorbells := by
  refine ⟨⟨?launches, ?refused, ?reserved, ?stops, ?idle⟩, ?grants⟩
  case launches =>
    intro s cyc p c prog rep g hup hun hp hg hc hr hs hj hstage hhush
    refine (doorbell_taken _ hup hun (by omega)).trans (congrArg _ ?_)
    rw [launchOk_of hp hg hc hr hs hj hstage, if_pos rfl]
    refine onLoop_congr _ p c ?_
    simp [launched, SupplyG.heldUntil, hhush]
  case refused =>
    intro s cyc p c prog rep hup hun hp h
    refine (doorbell_taken _ hup hun hp).trans (congrArg _ ?_)
    rw [launchOk_refused h]
    rfl
  case reserved =>
    intro s cyc p op c prog hup hun hp h1 h2
    show execStepDoorbellReservedOp cyc p op c prog s = _
    simp only [execStepDoorbellReservedOp, onlyIf, hup, hun, hp, bne_iff_ne.2 h1, bne_iff_ne.2 h2, decide_true, Bool.and_self, if_true]
    rfl
  case stops =>
    intro s cyc p c hup hun hp hr
    refine (doorbell_taken _ hup hun hp).trans (congrArg _ (onLoop_congr _ p c ?_))
    have : (((s.given (s.stampFor cyc)).part p).loop c).running = true := hr
    simp [this]
  case idle =>
    intro s cyc p c hup hun hp hr
    exact (doorbell_taken _ hup hun hp).trans (congrArg _ (onLoop_same (stop_idle hr)))
  case grants =>
    intro s i p units base x hprior hx hstate hl ha hc hunits hwithin hfloor hshared hfree
    have hruns : (s.seg i).runs p .lc = true := by simp [Segment.runs, hx, hl, ha, hc, hstate]
    have hneed := needShared_floor hfloor
    have hfits : s.allocFits i p .lc units = true := by simp [State.allocFits, hneed, hshared]
    show execStagingAllocate i p .lc units base s = _
    simp [execStagingAllocate, underForce_settled _ s hprior, onlyIf, hruns, hunits, hwithin, hfits, hfree, State.grant, hneed]

end Sys2Proof.Proofs
end
section
/-! What taking, giving back and moving pages changes: pools, sequences, entries, keys, and of segments their ports, nonce counters and page
copies (R191 to R201, R357). -/

namespace Sys2Proof.Proofs

open Sys2Proof Sys2Proof.Machine

-- `mono` starts many tasks; run at once in every lemma they exhaust the thread stacks.
set_option Elab.async false

/-- A segment stands but for its port, its nonce counters, the copies of retired pages and the queries that hold its tables. -/
def pagesSeg (g h : Segment) : Prop :=
  h = { g with lutUsed := h.lutUsed, port := h.port, trust := { g.trust with dimCounter := h.trust.dimCounter }, stack := { g.stack with copies := h.stack.copies } }

/-- A partition stands but for its pool of pages. -/
def pagesPart (p q : Partition) : Prop := q = { p with poolFree := q.poolFree, returning := q.returning }

/-- A block stands but for its pages and what holds them. -/
def pagesOnly (s t : State) : Prop :=
  t = { s with segs := t.segs, handles := t.handles, seqs := t.seqs, parts := t.parts, trust := t.trust, cnt := t.cnt } ∧
    t.segs.length = s.segs.length ∧ (∀ i, pagesSeg (s.seg i) (t.seg i)) ∧
    t.parts.length = s.parts.length ∧ ∀ p, pagesPart (s.part p) (t.part p)

theorem pagesSeg.refl (g : Segment) : pagesSeg g g := rfl

theorem pagesSeg.trans {g h k : Segment} (a : pagesSeg g h) (b : pagesSeg h k) : pagesSeg g k := by
  unfold pagesSeg at *
  rw [b, a]

theorem pagesPart.refl (p : Partition) : pagesPart p p := rfl

theorem pagesPart.trans {p q r : Partition} (a : pagesPart p q) (b : pagesPart q r) : pagesPart p r := by
  unfold pagesPart at *
  rw [b, a]

theorem pagesOnly.refl (s : State) : pagesOnly s s := ⟨rfl, rfl, fun _ => rfl, rfl, fun _ => rfl⟩

variable {a s t : State}

theorem pagesOnly.trans {u : State} (h : pagesOnly s t) (k : pagesOnly t u) : pagesOnly s u := by
  obtain ⟨hs, hl, hg, hp, hq⟩ := h
  obtain ⟨ks, kl, kg, kp, kq⟩ := k
  exact ⟨by rw [ks, hs], kl.trans hl, fun i => (hg i).trans (kg i), kp.trans hp, fun p => (hq p).trans (kq p)⟩

@[mono] theorem pagesOnly_ite {c : Prop} [Decidable c] (h : pagesOnly a s) (k : pagesOnly a t) : pagesOnly a (if c then s else t) := by
  split
  · exact h
  · exact k

@[mono] theorem pagesOnly_ite_snd {α : Type} {c : Prop} [Decidable c] {r r' : α × State} (h : pagesOnly a r.2) (k : pagesOnly a r'.2) :
    pagesOnly a (if c then r else r').2 := by
  split
  · exact h
  · exact k

@[mono] theorem pagesOnly_foldl {α : Type} {f : State → α → State} {l : List α} (hf : ∀ t x, pagesOnly a t → pagesOnly a (f t x))
    (h : pagesOnly a s) : pagesOnly a (l.foldl f s) := by
  induction l generalizing s with
  | nil => exact h
  | cons x l ih => exact ih (hf _ x h)

@[mono] theorem pagesOnly_foldl_snd {α β : Type} {f : β × State → α → β × State} {l : List α} {r : β × State}
    (hf : ∀ t x, pagesOnly a t.2 → pagesOnly a (f t x).2) (h : pagesOnly a r.2) : pagesOnly a (l.foldl f r).2 := by
  induction l generalizing r with
  | nil => exact h
  | cons x l ih => exact ih (hf _ x h)

theorem pagesOnly_fields (h : pagesOnly a s) {handles seqs trust cnt} :
    pagesOnly a { s with handles := handles, seqs := seqs, trust := trust, cnt := cnt } :=
  h.trans ⟨rfl, rfl, fun _ => rfl, rfl, fun _ => rfl⟩

theorem pagesOnly_onSeg (h : pagesOnly a s) (i : Nat) {f : Segment → Segment} (hf : ∀ g, pagesSeg g (f g)) : pagesOnly a (s.onSeg i f) :=
  h.trans ⟨rfl, s.onSeg_length _ _, seg_onSeg_of s i f pagesSeg.refl (hf _), rfl, fun _ => rfl⟩

/-- A partition written at one place is there what was written, where it exists. -/
theorem part_onPart (s : State) (p q : Nat) (f : Partition → Partition) :
    (s.onPart p f).part q = s.part q ∨ (q = p ∧ (s.onPart p f).part q = f (s.part q)) := by
  by_cases h : q = p
  · subst h
    by_cases hs : q < s.parts.length
    · exact .inr ⟨rfl, s.part_onPart_eq f hs⟩
    · left
      simp [State.part, State.onPart, List.getD_eq_getElem?_getD, Nat.le_of_not_lt hs]
  · exact .inl (s.part_onPart_ne f h)

theorem pagesOnly_onPart (h : pagesOnly a s) (p : Nat) {f : Partition → Partition} (hf : ∀ q, pagesPart q (f q)) :
    pagesOnly a (s.onPart p f) := by
  refine h.trans ⟨rfl, rfl, fun _ => rfl, s.onPart_length _ _, fun q => ?_⟩
  rcases part_onPart s p q f with e | ⟨rfl, e⟩
  · rw [e]; exact .refl _
  · rw [e]; exact hf _

@[mono] theorem pagesOnly_count (h : pagesOnly a s) (f : Counters → Counters) : pagesOnly a (s.count f) := pagesOnly_fields h

@[mono] theorem pagesOnly_onLive (h : pagesOnly a s) (k : Nat) (f : Sequence → Sequence) : pagesOnly a (s.onLive k f) := by
  unfold State.onLive
  split
  · exact pagesOnly_fields h
  · exact h

@[mono] theorem pagesOnly_onEntry (h : pagesOnly a s) (k : Nat) (f : Handle → Handle) : pagesOnly a (s.onEntry k f) := by
  unfold State.onEntry
  split
  · exact pagesOnly_fields h
  · exact h

@[mono] theorem pagesOnly_dma {a s : State} (h : pagesOnly a s) (seg : Nat) (r : DmaReq) :
    pagesOnly a (s.dma seg r) := by
  unfold State.dma
  refine pagesOnly_onSeg ?_ _ (fun _ => rfl)
  exact h

@[mono] theorem pagesOnly_freeNow {a s : State} (h : pagesOnly a s) (i : Nat) (n : Nat) :
    pagesOnly a (s.freeNow i n) := by
  unfold State.freeNow
  refine pagesOnly_onPart ?_ _ (fun _ => rfl)
  exact h

@[mono] theorem pagesOnly_takePages {a s : State} (h : pagesOnly a s) (i : Nat) (n : Nat) :
    pagesOnly a (s.takePages i n) := by
  unfold State.takePages
  refine pagesOnly_onPart ?_ _ (fun _ => rfl)
  exact h

@[mono] theorem pagesOnly_onMap {a s : State} (h : pagesOnly a s) (c : CacheRef) (f : List (Nat × BlockRef) → List (Nat × BlockRef)) :
    pagesOnly a (s.onMap c f) := by
  unfold State.onMap
  split <;> mono

@[mono] theorem pagesOnly_giveBlocks {a s : State} (h : pagesOnly a s) (c : CacheRef) (blocks : List Nat) :
    pagesOnly a (s.giveBlocks c blocks) := by
  unfold State.giveBlocks
  split
  · mono
    intro t x h
    mono
  · exact h

@[mono] theorem pagesOnly_onRefs {a s : State} (h : pagesOnly a s) (f : BlockRef → BlockRef) :
    pagesOnly a (s.onRefs f) := by
  unfold State.onRefs
  refine pagesOnly_fields ?_
  exact h

@[mono] theorem pagesOnly_replaceCopies {a s : State} (h : pagesOnly a s) (p : Nat) (c : Cls) :
    pagesOnly a (s.replaceCopies p c) := by
  unfold State.replaceCopies
  mono
  intro t x h
  mono
  dsimp only
  refine pagesOnly_onSeg ?_ _ (fun _ => rfl)
  mono

@[mono] theorem pagesOnly_setDim {a s : State} (h : pagesOnly a s) (c : CacheRef) (d : Option DimRec) (m : Option DimMove) :
    pagesOnly a (s.setDim c d m) := by
  unfold State.setDim
  split <;> mono

@[mono] theorem pagesOnly_dimCounts {a s : State} (h : pagesOnly a s) (p : Nat) (frames : Nat) :
    pagesOnly a (s.dimCounts p frames) := by
  unfold State.dimCounts
  mono
  · intro t x h
    refine pagesOnly_onSeg ?_ _ (fun _ => rfl)
    exact h
  · refine pagesOnly_fields ?_
    exact h

@[mono] theorem pagesOnly_dimWriteTo {a s : State} (h : pagesOnly a s) (c : CacheRef) (d : DimRec) (drop : Bool) :
    pagesOnly a (s.dimWriteTo c d drop) := by
  unfold State.dimWriteTo
  split
  · mono
    intro t x h
    mono
  · exact h

@[mono] theorem pagesOnly_beginDimWrite {a s : State} (h : pagesOnly a s) (c : CacheRef) :
    pagesOnly a (s.beginDimWrite c) := by
  unfold State.beginDimWrite
  split <;> mono

@[mono] theorem pagesOnly_releaseEntry {a s : State} (h : pagesOnly a s) (slot : Nat) :
    pagesOnly a (s.releaseEntry slot) := by
  unfold State.releaseEntry
  split
  · mono
  · exact h

@[mono] theorem pagesOnly_freeBright {a s : State} (h : pagesOnly a s) (slot : Nat) {put : State → Nat → Nat → State}
    (hput : ∀ t p n, pagesOnly a t → pagesOnly a (put t p n)) : pagesOnly a (s.freeBright slot put) := by
  unfold State.freeBright
  split
  next e he =>
    have freed := hput _ e.part e.ownPages (pagesOnly_onEntry h slot (fun h => { h with ownPages := 0, older := none, map := [] }))
    dsimp only
    split
    · exact pagesOnly_releaseEntry freed _
    · exact freed
  · exact h

@[mono] theorem pagesOnly_tombstone {a s : State} (h : pagesOnly a s) (slot : Nat) {put : State → Nat → Nat → State}
    (hput : ∀ t p n, pagesOnly a t → pagesOnly a (put t p n)) : pagesOnly a (s.tombstone slot put) :=
  pagesOnly_onEntry (pagesOnly_freeBright h slot hput) _ _

@[mono] theorem pagesOnly_reclaimWhile {a s : State} (h : pagesOnly a s) (i demand : Nat) (next : State → Option Nat)
    {take : State → Nat → State} (htake : ∀ t k, pagesOnly a t → pagesOnly a (take t k)) (fuel : Nat) :
    pagesOnly a (State.reclaimWhile i demand next take fuel s) := by
  induction fuel generalizing s with
  | zero => exact h
  | succ fuel ih =>
    unfold State.reclaimWhile
    split
    · exact h
    · split
      · exact ih (htake _ _ h)
      · exact h

@[mono] theorem pagesOnly_reclaimExpired {a s : State} (h : pagesOnly a s) (i : Nat) (demand : Nat) :
    pagesOnly a (s.reclaimExpired i demand) := by
  unfold State.reclaimExpired
  mono
  intro t x h
  mono
  intro x0 x1 x2 h
  mono

@[mono] theorem pagesOnly_reclaimEntries {a s : State} (h : pagesOnly a s) (i : Nat) (demand : Nat) :
    pagesOnly a (s.reclaimEntries i demand) := by
  unfold State.reclaimEntries
  mono
  intro t x h
  mono
  intro x0 x1 x2 h
  mono

@[mono] theorem pagesOnly_dropSeqBright {a s : State} (h : pagesOnly a s) (k : Nat) :
    pagesOnly a (s.dropSeqBright k) := by
  unfold State.dropSeqBright
  split
  · mono
  · exact h

@[mono] theorem pagesOnly_reclaimPaused {a s : State} (h : pagesOnly a s) (i : Nat) (demand : Nat) :
    pagesOnly a (s.reclaimPaused i demand) := by
  unfold State.reclaimPaused
  mono
  intro t x h
  mono

@[mono] theorem pagesOnly_pausePages {a s : State} (h : pagesOnly a s) (bound : List Nat) (k : Nat) :
    pagesOnly a (s.pausePages bound k) := by
  unfold State.pausePages
  split
  · mono
    split <;> mono
  · exact h

@[mono] theorem pagesOnly_reclaimBe {a s : State} (h : pagesOnly a s) (bound : List Nat) (i : Nat) (demand : Nat) :
    pagesOnly a (s.reclaimBe bound i demand) := by
  unfold State.reclaimBe
  mono
  intro t x h
  mono

@[mono] theorem pagesOnly_reclaim {a s : State} (h : pagesOnly a s) (bound : List Nat) (i : Nat) (demand : Nat) :
    pagesOnly a (s.reclaim bound i demand) := by
  unfold State.reclaim
  mono

@[mono] theorem pagesOnly_pauseBudget {a s : State} (h : pagesOnly a s) (k : Nat) :
    pagesOnly a (s.pauseBudget k) := by
  unfold State.pauseBudget
  split
  · mono
  · exact h

@[mono] theorem pagesOnly_pauseBudgets {a s : State} (h : pagesOnly a s) (p : Nat) (c : Cls) :
    pagesOnly a (s.pauseBudgets p c) := by
  unfold State.pauseBudgets
  mono
  intro t x h
  mono

@[mono] theorem pagesOnly_reserveSets {a s : State} (h : pagesOnly a s) (p : Nat) (sets : Nat) (pages : Nat) (a' : FreezeAcc) :
    pagesOnly a (s.reserveSets p sets pages a').2 := by
  unfold State.reserveSets
  mono

@[mono] theorem pagesOnly_reserveSave {a s : State} (h : pagesOnly a s) (p : Nat) (k : Nat) (rows : Nat) (q : Sequence) (a' : FreezeAcc) :
    pagesOnly a (s.reserveSave p k rows q a').2 := by
  unfold State.reserveSave
  mono

@[mono] theorem pagesOnly_bindRoot {a : State} {acc : FreezeAcc × State} (h : pagesOnly a acc.2) (p : Nat) (rows : Nat) (launchNo : Nat) (verify : Bool) (k : Nat) :
    pagesOnly a (State.bindRoot p rows launchNo verify acc k).2 := by
  unfold State.bindRoot
  dsimp only
  split
  · mono
  · exact h

@[mono] theorem pagesOnly_bindPrefill {a : State} {acc : FreezeAcc × State} (h : pagesOnly a acc.2) (p : Nat) (rows : Nat) (k : Nat) :
    pagesOnly a (State.bindPrefill p rows acc k).2 := by
  unfold State.bindPrefill
  dsimp only
  split
  · mono
  · exact h

@[mono] theorem pagesOnly_bindSave {a : State} {acc : FreezeAcc × State} (h : pagesOnly a acc.2) (p : Nat) (k : Nat) :
    pagesOnly a (State.bindSave p acc k).2 := by
  unfold State.bindSave
  split
  · mono
  · exact h

@[mono] theorem pagesOnly_bindStageE {a : State} {acc : FreezeAcc × State} (h : pagesOnly a acc.2) (p : Nat) (img : ProgramImage) (k : Nat) :
    pagesOnly a (State.bindStageE p img acc k).2 := by
  unfold State.bindStageE
  dsimp only
  split
  · mono
    intro t x h
    refine pagesOnly_onSeg ?_ _ (fun _ => rfl)
    exact h
  · exact h

@[mono] theorem pagesOnly_bindStageR {a : State} {acc : FreezeAcc × State} (h : pagesOnly a acc.2) (p : Nat) (img : ProgramImage) (k : Nat) :
    pagesOnly a (State.bindStageR p img acc k).2 := by
  unfold State.bindStageR
  dsimp only
  split
  · split
    · mono
    · exact h
  · exact h

@[mono] theorem pagesOnly_bindGroup {a : State} {acc : FreezeAcc × State} (h : pagesOnly a acc.2) (cap : Nat) (w : Nat × Machine.Group) :
    pagesOnly a (State.bindGroup cap acc w).2 := by
  unfold State.bindGroup
  split
  · mono
  · exact h

@[mono] theorem pagesOnly_bindChunk {a : State} {acc : FreezeAcc × State} (h : pagesOnly a acc.2) (cap : Nat) (w : Nat × Sequence) :
    pagesOnly a (State.bindChunk cap acc w).2 := by
  unfold State.bindChunk
  mono

@[mono] theorem pagesOnly_bindAll {a s : State} (h : pagesOnly a s) (p : Nat) (c : Cls) (img : ProgramImage) :
    pagesOnly a (s.bindAll p c img).2 := by
  unfold State.bindAll
  mono
  · intro t x h
    mono
  · intro t x h
    mono
  · intro t x h
    mono
  · intro t x h
    mono
  · intro t x h
    mono

@[mono] theorem pagesOnly_bindScreen {a s : State} (h : pagesOnly a s) (img : ProgramImage) :
    pagesOnly a (s.bindScreen img).2 := by
  unfold State.bindScreen
  mono
  · intro t x h
    mono
  · intro t x h
    mono

end Sys2Proof.Proofs
end
section
/-! Freezes and launches (R46, R50). -/

namespace Sys2Proof.Proofs

open Sys2Proof Sys2Proof.Machine

-- `mono` starts many tasks; run at once in every lemma they exhaust the thread stacks.
set_option Elab.async false

theorem loop_onLoop_eq (s : State) {p : Nat} (c : Cls) (f : Loop → Loop) (h : p < s.parts.length) :
    ((s.onLoop p c f).part p).loop c = f ((s.part p).loop c) := by
  rw [State.onLoop, State.part_onPart_eq s _ h]
  cases c <;> rfl

theorem loop_of_pagesPart {p q : Partition} (h : pagesPart p q) (c : Cls) : q.loop c = p.loop c := by
  unfold pagesPart at h
  rw [h]
  cases c <;> rfl

/-- A launch sent puts the loop's step in flight and takes the launch number (R46, R50). -/
theorem sendLaunch_sends (s : State) {p : Nat} (c : Cls) (g : Program) (a : FreezeAcc) (h : p < s.parts.length) :
    (∃ st, (s.sendLaunch p c g a).stepOf p c = some st ∧ st.prog = g ∧ st.launch = s.time.beat + 1 ∧ st.launchNo = s.time.launchNo ∧
      st.launched = false ∧ st.abandoned = none ∧ st.reports = []) ∧
    (((s.sendLaunch p c g a).part p).loop c).remaining = ((s.part p).loop c).remaining.map (· - 1) ∧
    s.sendLaunch p c g a = { s with
      time := { s.time with launchNo := (s.time.launchNo + 1) % 2 ^ 32 }, segs := (s.sendLaunch p c g a).segs,
      parts := (s.sendLaunch p c g a).parts } := by
  obtain ⟨G, hG⟩ : ∃ G, s.controlAll (s.stepSegs p g.image) = { s with segs := G } := ⟨_, (sentOnly_controlAll s _).1⟩
  simp only [State.sendLaunch, hG]
  exact ⟨⟨_, congrArg Loop.step (loop_onLoop_eq _ c _ h), rfl, rfl, rfl, rfl, rfl, rfl⟩, congrArg Loop.remaining (loop_onLoop_eq _ c _ h), rfl⟩

/-- What a freeze binds, and the state in which it has bound it. -/
noncomputable def boundAt (s : State) (p : Nat) (c : Cls) (g : Program) : FreezeAcc × State :=
  let s := s.replaceCopies p c
  let s := if p == 15 then s else s.pauseBudgets p c
  if p == 15 then s.bindScreen g.image else s.bindAll p c g.image

theorem freeze_eq (s : State) (p : Nat) (c : Cls) (g : Program) :
    s.freeze p c g = (boundAt s p c g).2.sendLaunch p c g (boundAt s p c g).1 := rfl

/-- Binding takes pages and moves caches, and no more. -/
theorem pagesOnly_boundAt (s : State) (p : Nat) (c : Cls) (g : Program) : pagesOnly s (boundAt s p c g).2 := by
  have h := pagesOnly.refl s
  unfold boundAt
  mono

/-- The edge rank of a freeze is noted (R46). -/
noncomputable def frozenAt (s : State) (p : Nat) (c : Cls) : State := { s with time := { s.time with edgeRank := freezeRank p c } }

theorem execFreeze_due {s : State} {p : Nat} {c : Cls} {g : Program} (hprior : s.prior = none) (hdue : s.freezeDue p c = true)
    (hg : (s.part p).programs.find? (fun x => x.id == ((s.part p).loop c).programId) = some g) : exec (.freeze p c) s = .next
      (if ((s.part p).loop c).stopping then (frozenAt s p c).onLoop p c stoppedLoop else (frozenAt s p c).freeze p c g) := by
  have hprog : (s.part p).program ((s.part p).loop c).programId = some g := hg
  show execFreeze p c s = _
  simp only [execFreeze, underForce_settled _ s hprior, hprog, onlyIf, hdue, if_true]
  rfl

/-- A segment's part of a step, launched (R46). -/
noncomputable def launchHere (p : Nat) (c : Cls) (t : SegStep) : SegStep := if t.part == p && t.cls == c then { t with launched := true } else t

/-- The step launched, at the manager and on every segment that holds a part of it (R46). -/
noncomputable def launchedAt (s : State) (p : Nat) (c : Cls) : State :=
  (s.onStep p c (fun st => { st with launched := true })).onSegs (fun _ g => { g with steps := g.steps.map (launchHere p c) })

/-- A loop with a step in flight is one of the block's. -/
theorem lt_of_stepOf {s : State} {p : Nat} {c : Cls} {st : StepS} (h : s.stepOf p c = some st) : p < s.parts.length := by
  by_contra hp
  have hnone : s.part p = {} := List.getD_eq_default _ _ (by omega)
  rw [State.stepOf, hnone] at h
  cases c <;> cases h

/-- Settles O6: binding changes pages only (`pagesOnly_boundAt`), and sending the launch puts the step in flight (`sendLaunch_sends`). -/
theorem freezeAndLaunch : Obligations.FreezeAndLaunch := by
  refine ⟨?freezes, ?ends, ?launches⟩
  case freezes =>
    intro s p c g hprior hdue hp hg hstop
    obtain ⟨hbound, -, -, hlen, hpart⟩ := pagesOnly_boundAt (frozenAt s p c) p c g
    have hexec := execFreeze_due hprior hdue hg
    rw [hstop, if_neg Bool.false_ne_true, freeze_eq] at hexec
    generalize boundAt (frozenAt s p c) p c g = r at *
    obtain ⟨⟨st, hst, hprog, hlaunch, hno, hrest⟩, hrem, hsend⟩ := sendLaunch_sends r.2 c g r.1 (p := p) (by rw [hlen]; exact hp)
    have htime : r.2.time = (frozenAt s p c).time := by rw [hbound]
    refine ⟨_, st, hexec, hst, hprog, ?_, ?_, hrest.1, hrest.2.1, hrest.2.2, ?_⟩
    · rw [hlaunch, htime]; rfl
    · rw [hno, htime]; rfl
    · rw [hrem, loop_of_pagesPart (hpart p), hsend, hbound]
      exact ⟨rfl, rfl, rfl, rfl, rfl, rfl, rfl, rfl, rfl, rfl, rfl, rfl, rfl, rfl, rfl, rfl⟩
  case ends =>
    intro s p c g hprior hdue hg hstop
    rw [execFreeze_due hprior hdue hg, hstop, if_pos rfl]
    rfl
  case launches =>
    intro s p c st hst hl hbeat
    have hexec : exec (.stepLaunch p c) s = .next (launchedAt s p c) := by
      show execStepLaunch p c s = _
      simp only [execStepLaunch, hst, onlyIf, hl, hbeat, decide_true, Bool.not_false, Bool.and_self, if_true]
      rfl
    refine ⟨_, hexec, ?_, fun i => ?_, rfl⟩
    · have := congrArg Loop.step (loop_onLoop_eq s c (fun l => { l with step := l.step.map (fun st => { st with launched := true }) })
        (lt_of_stepOf hst))
      refine Eq.trans this ?_
      rw [show ((s.part p).loop c).step = some st from hst]
      rfl
    · have hgo : launchHere p c = fun x => if x.part = p ∧ x.cls = c then { x with launched := true } else x := by
        funext x
        simp [launchHere]
      rw [← hgo]
      rcases lt_or_ge i s.segs.length with hi | hi
      · exact seg_onSegs _ _ hi
      · refine Eq.trans (b := s.seg i) (seg_onSegs_absent (s.onStep p c _) _ hi) ?_
        show s.seg i = { s.seg i with steps := (s.seg i).steps.map (launchHere p c) }
        rw [State.seg, List.getD_eq_default _ _ hi]
        rfl

end Sys2Proof.Proofs
end
section
/-! What the end of work leaves of sequences: committed lengths, held tokens and ends (R219, R220). -/

namespace Sys2Proof.Proofs

open Sys2Proof Sys2Proof.Machine

-- `mono` starts many tasks; run at once in every lemma they exhaust the thread stacks.
set_option Elab.async false

/-- A sequence keeps its committed length, its end and its held tokens. -/
def seqKept (q r : Sequence) : Prop := r.committed = q.committed ∧ r.ended = q.ended ∧ r.hold = q.hold

/-- Every live sequence is live and keeps its committed length, its end and its held tokens. -/
def seqsKept (s t : State) : Prop := ∀ k q, s.live k = some q → ∃ r, t.live k = some r ∧ seqKept q r

theorem seqKept.refl (q : Sequence) : seqKept q q := ⟨rfl, rfl, rfl⟩

theorem seqKept.trans {q r u : Sequence} (a : seqKept q r) (b : seqKept r u) : seqKept q u :=
  ⟨b.1.trans a.1, b.2.1.trans a.2.1, b.2.2.trans a.2.2⟩

theorem seqsKept.refl (s : State) : seqsKept s s := fun _ q h => ⟨q, h, .refl q⟩

variable {a s t : State}

theorem seqsKept.trans {u : State} (h : seqsKept s t) (k : seqsKept t u) : seqsKept s u := fun n q hq => by
  obtain ⟨r, hr, hqr⟩ := h n q hq
  obtain ⟨v, hv, hrv⟩ := k n r hr
  exact ⟨v, hv, hqr.trans hrv⟩

@[mono] theorem seqsKept_ite {c : Prop} [Decidable c] (h : seqsKept a s) (k : seqsKept a t) : seqsKept a (if c then s else t) := by
  split
  · exact h
  · exact k

@[mono] theorem seqsKept_foldl {α : Type} {f : State → α → State} {l : List α} (hf : ∀ t x, seqsKept a t → seqsKept a (f t x))
    (h : seqsKept a s) : seqsKept a (l.foldl f s) := by
  induction l generalizing s with
  | nil => exact h
  | cons x l ih => exact ih (hf _ x h)

theorem seqsKept_fields (h : seqsKept a s) {cfg time segs parts rings tenants handles indexes glob prior screen objs trust span mirror roles other kept power
    vectors cnt free code pending} : seqsKept a { s with
      cfg := cfg, time := time, segs := segs, parts := parts, rings := rings, tenants := tenants, handles := handles, indexes := indexes,
      glob := glob, prior := prior, screen := screen, objs := objs, trust := trust, span := span, mirror := mirror, roles := roles,
      other := other, kept := kept, power := power, vectors := vectors, cnt := cnt, free := free, code := code, pending := pending } := h

@[mono] theorem seqsKept_onSeg (h : seqsKept a s) (i : Nat) (f : Segment → Segment) : seqsKept a (s.onSeg i f) := h

@[mono] theorem seqsKept_onSegs (h : seqsKept a s) (f : Nat → Segment → Segment) : seqsKept a (s.onSegs f) := h

@[mono] theorem seqsKept_onPart (h : seqsKept a s) (p : Nat) (f : Partition → Partition) : seqsKept a (s.onPart p f) := h

@[mono] theorem seqsKept_onLoop (h : seqsKept a s) (p : Nat) (c : Cls) (f : Loop → Loop) : seqsKept a (s.onLoop p c f) := h

@[mono] theorem seqsKept_onTenant (h : seqsKept a s) (k : Nat) (f : Tenant → Tenant) : seqsKept a (s.onTenant k f) := h

@[mono] theorem seqsKept_setRing (h : seqsKept a s) (n : Nat) (r : Ring) : seqsKept a (s.setRing n r) := h

@[mono] theorem seqsKept_count (h : seqsKept a s) (f : Counters → Counters) : seqsKept a (s.count f) := h

@[mono] theorem seqsKept_onEntry (h : seqsKept a s) (k : Nat) (f : Handle → Handle) : seqsKept a (s.onEntry k f) := by
  unfold State.onEntry
  split <;> exact h

/-- A sequence after a change of one, where it is live. -/
theorem live_onLive (s : State) (k j : Nat) (f : Sequence → Sequence) {q : Sequence} (hq : s.live j = some q) :
    (s.onLive k f).live j = some q ∨ (j = k ∧ (s.onLive k f).live j = some (f q)) := by
  by_cases h : j = k
  · subst h
    exact .inr ⟨rfl, s.live_onLive_eq j f q hq⟩
  · exact .inl ((s.live_onLive_ne f h).trans hq)

theorem seqsKept_onLive_at (h : seqsKept a s) (k : Nat) {f : Sequence → Sequence} (hf : ∀ q, s.live k = some q → seqKept q (f q)) :
    seqsKept a (s.onLive k f) :=
  h.trans fun j q hq => by
    rcases live_onLive s k j f hq with e | ⟨rfl, e⟩
    · exact ⟨q, e, .refl q⟩
    · exact ⟨f q, e, hf q hq⟩

theorem seqsKept_onLive (h : seqsKept a s) (k : Nat) {f : Sequence → Sequence} (hf : ∀ q, seqKept q (f q)) : seqsKept a (s.onLive k f) :=
  seqsKept_onLive_at h k fun q _ => hf q

theorem seqKept_standBack (screen : Bool) (b : Bind) (q : Sequence) : seqKept q (standBack screen b q) := by
  unfold standBack
  split <;> exact ⟨rfl, rfl, rfl⟩

@[mono] theorem seqsKept_dma {a s : State} (h : seqsKept a s) (seg : Nat) (r : DmaReq) :
    seqsKept a (s.dma seg r) := h

@[mono] theorem seqsKept_makeRecord {a s : State} (h : seqsKept a s) (b : BackRec) : seqsKept a (s.makeRecord b).2 := by
  unfold State.makeRecord
  split
  · split
    next q hq =>
      refine seqsKept_onLive_at h _ fun r hr => ?_
      obtain rfl := Option.some.inj (hq.symm.trans hr)
      exact ⟨rfl, rfl, rfl⟩
    next => exact h
  · split
    next q hq =>
      refine seqsKept_onLive_at h _ fun r hr => ?_
      obtain rfl := Option.some.inj (hq.symm.trans hr)
      exact ⟨rfl, rfl, rfl⟩
    next => exact h
  · exact h

@[mono] theorem seqsKept_writeEntry {a s : State} (h : seqsKept a s) (n : Nat) (b : BackRec) :
    seqsKept a (s.writeEntry n b) := by
  unfold State.writeEntry
  exact seqsKept_dma (seqsKept_setRing (seqsKept_makeRecord h _) _ _) _ _

@[mono] theorem seqsKept_sendRecord {a s : State} (h : seqsKept a s) (n : Nat) (b : BackRec) :
    seqsKept a (s.sendRecord n b) := by
  unfold State.sendRecord
  exact seqsKept_ite (seqsKept_ite (seqsKept_writeEntry h _ _) (seqsKept_setRing h _ _)) h

@[mono] theorem seqsKept_returnPages {a s : State} (h : seqsKept a s) (i : Nat) (n : Nat) (stamp : Stamp) :
    seqsKept a (s.returnPages i n stamp) := by
  unfold State.returnPages
  exact seqsKept_ite h (seqsKept_onPart h _ _)

@[mono] theorem seqsKept_onMap {a s : State} (h : seqsKept a s) (c : CacheRef) (f : List (Nat × BlockRef) → List (Nat × BlockRef)) :
    seqsKept a (s.onMap c f) := by
  unfold State.onMap
  split
  · refine seqsKept_onLive ?_ _ (fun _ => ⟨rfl, rfl, rfl⟩)
    exact h
  · exact seqsKept_onEntry h _ _

@[mono] theorem seqsKept_dropBlocks {a s : State} (h : seqsKept a s) (c : CacheRef) (gone : Nat → Bool) :
    seqsKept a (s.dropBlocks c gone) := by
  unfold State.dropBlocks
  exact seqsKept_onMap h _ _

@[mono] theorem seqsKept_setDim {a s : State} (h : seqsKept a s) (c : CacheRef) (d : Option DimRec) (m : Option DimMove) :
    seqsKept a (s.setDim c d m) := by
  unfold State.setDim
  split
  · exact seqsKept_onEntry h _ _
  · refine seqsKept_onLive ?_ _ (fun _ => ⟨rfl, rfl, rfl⟩)
    exact h

@[mono] theorem seqsKept_dimCounts {a s : State} (h : seqsKept a s) (p : Nat) (frames : Nat) :
    seqsKept a (s.dimCounts p frames) := by
  unfold State.dimCounts
  refine seqsKept_foldl ?_ ?_
  · exact fun _ _ h => h
  · exact h

@[mono] theorem seqsKept_dimWriteTo {a s : State} (h : seqsKept a s) (c : CacheRef) (d : DimRec) (drop : Bool) :
    seqsKept a (s.dimWriteTo c d drop) := by
  unfold State.dimWriteTo
  split
  · refine seqsKept_ite (seqsKept_dma (seqsKept_dimCounts (seqsKept_setDim h _ _ _) _ _) _ _) (seqsKept_foldl ?_ (seqsKept_dma (seqsKept_dimCounts (seqsKept_setDim h _ _ _) _ _) _ _))
    exact fun _ _ h => h
  · exact h

@[mono] theorem seqsKept_beginDimWrite {a s : State} (h : seqsKept a s) (c : CacheRef) :
    seqsKept a (s.beginDimWrite c) := by
  unfold State.beginDimWrite
  split
  · exact seqsKept_dimWriteTo h _ _ _
  · exact h

@[mono] theorem seqsKept_releaseEntry {a s : State} (h : seqsKept a s) (slot : Nat) :
    seqsKept a (s.releaseEntry slot) := by
  unfold State.releaseEntry
  split
  · exact seqsKept_ite (seqsKept_beginDimWrite (seqsKept_onEntry h _ _) _) (seqsKept_onEntry h _ _)
  · exact h

@[mono] theorem seqsKept_charge {a s : State} (h : seqsKept a s) (t : Nat) (amount : ℤ) :
    seqsKept a (s.charge t amount) := h

@[mono] theorem seqsKept_unbind {a s : State} (h : seqsKept a s) (k : Nat) :
    seqsKept a (s.unbind k) := h

@[mono] theorem seqsKept_freePassages {a s : State} (h : seqsKept a s) (pl : Plan) :
    seqsKept a (s.freePassages pl) := by
  unfold State.freePassages
  refine seqsKept_foldl ?_ h
  exact fun _ _ h => h

@[mono] theorem seqsKept_leaveScan {a s : State} (h : seqsKept a s) (k : Nat) :
    seqsKept a (s.leaveScan k) := h

@[mono] theorem seqsKept_dropPlan {a s : State} (h : seqsKept a s) (k : Nat) :
    seqsKept a (s.dropPlan k) := by
  unfold State.dropPlan
  split
  · split
    · refine seqsKept_onLive ?_ _ (fun _ => ⟨rfl, rfl, rfl⟩)
      exact seqsKept_leaveScan (seqsKept_freePassages h _) _
    · exact h
  · exact h

@[mono] theorem seqsKept_pagesReturn {a s : State} (h : seqsKept a s) (k : Nat) (stamp : Stamp) :
    seqsKept a (s.pagesReturn k stamp) := by
  unfold State.pagesReturn
  split
  · refine seqsKept_ite h ?_
    split
    · split
      · refine seqsKept_releaseEntry (seqsKept_releaseEntry ?_ _) _
        refine seqsKept_onLive ?_ _ (fun _ => ⟨rfl, rfl, rfl⟩)
        exact seqsKept_returnPages h _ _ _
      · refine seqsKept_releaseEntry ?_ _
        refine seqsKept_onLive ?_ _ (fun _ => ⟨rfl, rfl, rfl⟩)
        exact seqsKept_returnPages h _ _ _
    · split
      · refine seqsKept_releaseEntry ?_ _
        refine seqsKept_onLive ?_ _ (fun _ => ⟨rfl, rfl, rfl⟩)
        exact seqsKept_returnPages h _ _ _
      · dsimp only
        refine seqsKept_onLive ?_ _ (fun _ => ⟨rfl, rfl, rfl⟩)
        exact seqsKept_returnPages h _ _ _
  · exact h

@[mono] theorem seqsKept_failRequest {a s : State} (h : seqsKept a s) (r : Request) (st : Status) (e : Stamp) :
    seqsKept a (s.failRequest r st e) := by
  unfold State.failRequest
  exact seqsKept_sendRecord h _ _

@[mono] theorem seqsKept_sendStepRecord {a s : State} (h : seqsKept a s) (p : Nat) (data : Nat) :
    seqsKept a (s.sendStepRecord p data) := by
  unfold State.sendStepRecord
  exact seqsKept_ite (seqsKept_sendRecord h _ _) (seqsKept_count h _)

@[mono] theorem seqsKept_recordStep {a s : State} (h : seqsKept a s) (p : Nat) (c : Cls) (o : StepEnd) (e : Stamp) (tokens : Nat) (st : StepS) :
    seqsKept a (s.recordStep p c o e tokens st) := by
  unfold State.recordStep
  exact seqsKept_sendStepRecord h _ _

@[mono] theorem seqsKept_endTransfersOn {a s : State} (h : seqsKept a s) (on : Nat → Bool) (p : Nat) (c : Cls) :
    seqsKept a (s.endTransfersOn on p c) := h

@[mono] theorem seqsKept_unreserve {a s : State} (h : seqsKept a s) (stamp : Stamp) (b : Machine.Bind) :
    seqsKept a (s.unreserve stamp b) := by
  unfold State.unreserve
  split
  · dsimp only
    refine seqsKept_onLive ?_ _ (fun _ => ⟨rfl, rfl, rfl⟩)
    exact seqsKept_dropBlocks (seqsKept_returnPages h _ _ _) _ _
  · exact h

@[mono] theorem seqsKept_endedBack {a s : State} (h : seqsKept a s) (p : Nat) (c : Cls) (stamp : Stamp) :
    seqsKept a (s.endedBack p c stamp) := by
  unfold State.endedBack
  refine seqsKept_foldl ?_ h
  intro t x h
  exact seqsKept_pagesReturn h _ _

@[mono] theorem seqsKept_clearStep {a s : State} (h : seqsKept a s) (p : Nat) (c : Cls) (stamp : Stamp) :
    seqsKept a (s.clearStep p c stamp) := by
  unfold State.clearStep
  split
  next st hst =>
    exact seqsKept_endedBack (seqsKept_onLoop (seqsKept_endTransfersOn (seqsKept_onSegs (seqsKept_foldl
      (fun t b h => seqsKept_onLive (seqsKept_unreserve h stamp b) b.seq (seqKept_standBack _ b)) h) _) _ _ _) _ _ _) _ _ _
  next => exact h

@[mono] theorem seqsKept_haltBe {a s : State} (h : seqsKept a s) (p : Nat) (c : Cls) :
    seqsKept a (s.haltBe p c) := by
  unfold State.haltBe
  exact seqsKept_ite (seqsKept_onLoop h _ _ _) h

@[mono] theorem seqsKept_onModule {a s : State} (h : seqsKept a s) (i : Nat) (d : Dir) (f : ModuleS → ModuleS) :
    seqsKept a (s.onModule i d f) := h

@[mono] theorem seqsKept_hop {a s : State} (h : seqsKept a s) (i : Nat) (j : Nat) :
    seqsKept a (s.hop i j) := by
  unfold State.hop
  split
  · exact seqsKept_ite (seqsKept_onModule h _ _ _) h
  · exact h

@[mono] theorem seqsKept_control {a s : State} (h : seqsKept a s) (i : Nat) (d : Nat) :
    seqsKept a (s.control i d) := by
  unfold State.control
  refine seqsKept_foldl ?_ h
  intro t x h
  exact seqsKept_hop h _ _

@[mono] theorem seqsKept_controlAll {a s : State} (h : seqsKept a s) (l : List Nat) :
    seqsKept a (s.controlAll l) := by
  unfold State.controlAll
  refine seqsKept_foldl ?_ h
  intro t x h
  exact seqsKept_control h _ _

@[mono] theorem seqsKept_abandonMessages {a s : State} (h : seqsKept a s) (p : Nat) :
    seqsKept a (s.abandonMessages p) := by
  unfold State.abandonMessages
  refine seqsKept_foldl ?_ h
  intro t x h
  exact seqsKept_control h _ _

end Sys2Proof.Proofs
end
section
/-! What the end of a sequence leaves of the loops: all but the binds of their steps in flight (R45, R220). -/

namespace Sys2Proof.Proofs

open Sys2Proof Sys2Proof.Machine

-- `mono` starts many tasks; run at once in every lemma they exhaust the thread stacks.
set_option Elab.async false

/-- The two loops of a partition. -/
noncomputable def bothLoops (q : Partition) : Loop × Loop := (q.lc, q.be)

theorem loop_of_bothLoops {p q : Partition} (h : bothLoops q = bothLoops p) (c : Cls) : q.loop c = p.loop c := by
  obtain ⟨hl, hb⟩ := Prod.mk.inj h
  cases c
  · exact hl
  · exact hb

/-- A loop stands but for its step in flight, and it has none where it had none. -/
def loopStill (l m : Loop) : Prop := m = { l with step := m.step } ∧ (l.step = none → m.step = none)

/-- Every loop stands but for its step in flight. -/
def loopsStill (s t : State) : Prop := t.parts.length = s.parts.length ∧ ∀ p c, loopStill ((s.part p).loop c) ((t.part p).loop c)

theorem loopStill.refl (l : Loop) : loopStill l l := ⟨rfl, id⟩

theorem loopStill.trans {l m n : Loop} (h : loopStill l m) (k : loopStill m n) : loopStill l n := by
  obtain ⟨h, hn⟩ := h
  obtain ⟨k, kn⟩ := k
  exact ⟨by rw [k, h], fun e => kn (hn e)⟩

theorem loopsStill.refl (s : State) : loopsStill s s := ⟨rfl, fun _ _ => .refl _⟩

variable {a s t : State}

theorem loopsStill.trans {u : State} (h : loopsStill s t) (k : loopsStill t u) : loopsStill s u :=
  ⟨k.1.trans h.1, fun p c => (h.2 p c).trans (k.2 p c)⟩

@[mono] theorem loopsStill_ite {c : Prop} [Decidable c] (h : loopsStill a s) (k : loopsStill a t) : loopsStill a (if c then s else t) := by
  split
  · exact h
  · exact k

@[mono] theorem loopsStill_foldl {α : Type} {f : State → α → State} {l : List α} (hf : ∀ t x, loopsStill a t → loopsStill a (f t x))
    (h : loopsStill a s) : loopsStill a (l.foldl f s) := by
  induction l generalizing s with
  | nil => exact h
  | cons x l ih => exact ih (hf _ x h)

theorem loopsStill_fields (h : loopsStill a s) {cfg time segs rings tenants handles seqs indexes glob prior screen objs trust span mirror roles other kept
    power vectors cnt free code pending} : loopsStill a { s with
      cfg := cfg, time := time, segs := segs, rings := rings, tenants := tenants, handles := handles, seqs := seqs, indexes := indexes,
      glob := glob, prior := prior, screen := screen, objs := objs, trust := trust, span := span, mirror := mirror, roles := roles,
      other := other, kept := kept, power := power, vectors := vectors, cnt := cnt, free := free, code := code, pending := pending } := h

@[mono] theorem loopsStill_onSeg (h : loopsStill a s) (i : Nat) (f : Segment → Segment) : loopsStill a (s.onSeg i f) := h

@[mono] theorem loopsStill_onSegs (h : loopsStill a s) (f : Nat → Segment → Segment) : loopsStill a (s.onSegs f) := h

theorem loopsStill_onPart (h : loopsStill a s) (p : Nat) {f : Partition → Partition} (hf : ∀ q, bothLoops (f q) = bothLoops q) :
    loopsStill a (s.onPart p f) := by
  refine h.trans ⟨s.onPart_length _ _, fun q c => ?_⟩
  rcases part_onPart s p q f with e | ⟨_, e⟩
  · rw [e]; exact .refl _
  · rw [e, loop_of_bothLoops (hf _)]; exact .refl _

@[mono] theorem loopsStill_onTenant (h : loopsStill a s) (k : Nat) (f : Tenant → Tenant) : loopsStill a (s.onTenant k f) := h

@[mono] theorem loopsStill_setRing (h : loopsStill a s) (n : Nat) (r : Ring) : loopsStill a (s.setRing n r) := h

@[mono] theorem loopsStill_count (h : loopsStill a s) (f : Counters → Counters) : loopsStill a (s.count f) := h

@[mono] theorem loopsStill_onEntry (h : loopsStill a s) (k : Nat) (f : Handle → Handle) : loopsStill a (s.onEntry k f) := by
  unfold State.onEntry
  split <;> exact h

theorem loopsStill_onLive (h : loopsStill a s) (k : Nat) (f : Sequence → Sequence) : loopsStill a (s.onLive k f) := by
  unfold State.onLive
  split <;> exact h

@[mono] theorem loopsStill_dma {a s : State} (h : loopsStill a s) (seg : Nat) (r : DmaReq) :
    loopsStill a (s.dma seg r) := h

@[mono] theorem loopsStill_makeRecord {a s : State} (h : loopsStill a s) (b : BackRec) :
    loopsStill a (s.makeRecord b).2 := by
  unfold State.makeRecord
  split
  · split
    · dsimp only
      refine loopsStill_onLive ?_ _ _
      exact h
    · exact h
  · split
    · dsimp only
      refine loopsStill_onLive ?_ _ _
      exact h
    · exact h
  · exact h

@[mono] theorem loopsStill_writeEntry {a s : State} (h : loopsStill a s) (n : Nat) (b : BackRec) :
    loopsStill a (s.writeEntry n b) := by
  unfold State.writeEntry
  exact loopsStill_dma (loopsStill_setRing (loopsStill_makeRecord h _) _ _) _ _

@[mono] theorem loopsStill_sendRecord {a s : State} (h : loopsStill a s) (n : Nat) (b : BackRec) :
    loopsStill a (s.sendRecord n b) := by
  unfold State.sendRecord
  exact loopsStill_ite (loopsStill_ite (loopsStill_writeEntry h _ _) (loopsStill_setRing h _ _)) h

@[mono] theorem loopsStill_returnPages {a s : State} (h : loopsStill a s) (i : Nat) (n : Nat) (stamp : Stamp) :
    loopsStill a (s.returnPages i n stamp) := by
  unfold State.returnPages
  refine loopsStill_ite h ?_
  refine loopsStill_onPart ?_ _ (fun _ => rfl)
  exact h

@[mono] theorem loopsStill_onMap {a s : State} (h : loopsStill a s) (c : CacheRef) (f : List (Nat × BlockRef) → List (Nat × BlockRef)) :
    loopsStill a (s.onMap c f) := by
  unfold State.onMap
  split
  · refine loopsStill_onLive ?_ _ _
    exact h
  · exact loopsStill_onEntry h _ _

@[mono] theorem loopsStill_dropBlocks {a s : State} (h : loopsStill a s) (c : CacheRef) (gone : Nat → Bool) :
    loopsStill a (s.dropBlocks c gone) := by
  unfold State.dropBlocks
  exact loopsStill_onMap h _ _

@[mono] theorem loopsStill_setDim {a s : State} (h : loopsStill a s) (c : CacheRef) (d : Option DimRec) (m : Option DimMove) :
    loopsStill a (s.setDim c d m) := by
  unfold State.setDim
  split
  · exact loopsStill_onEntry h _ _
  · refine loopsStill_onLive ?_ _ _
    exact h

@[mono] theorem loopsStill_dimCounts {a s : State} (h : loopsStill a s) (p : Nat) (frames : Nat) :
    loopsStill a (s.dimCounts p frames) := by
  unfold State.dimCounts
  refine loopsStill_foldl ?_ ?_
  · exact fun _ _ h => h
  · exact h

@[mono] theorem loopsStill_dimWriteTo {a s : State} (h : loopsStill a s) (c : CacheRef) (d : DimRec) (drop : Bool) :
    loopsStill a (s.dimWriteTo c d drop) := by
  unfold State.dimWriteTo
  split
  · refine loopsStill_ite (loopsStill_dma (loopsStill_dimCounts (loopsStill_setDim h _ _ _) _ _) _ _) (loopsStill_foldl ?_ (loopsStill_dma (loopsStill_dimCounts (loopsStill_setDim h _ _ _) _ _) _ _))
    exact fun _ _ h => h
  · exact h

@[mono] theorem loopsStill_beginDimWrite {a s : State} (h : loopsStill a s) (c : CacheRef) :
    loopsStill a (s.beginDimWrite c) := by
  unfold State.beginDimWrite
  split
  · exact loopsStill_dimWriteTo h _ _ _
  · exact h

@[mono] theorem loopsStill_releaseEntry {a s : State} (h : loopsStill a s) (slot : Nat) :
    loopsStill a (s.releaseEntry slot) := by
  unfold State.releaseEntry
  split
  · exact loopsStill_ite (loopsStill_beginDimWrite (loopsStill_onEntry h _ _) _) (loopsStill_onEntry h _ _)
  · exact h

@[mono] theorem loopsStill_charge {a s : State} (h : loopsStill a s) (t : Nat) (amount : ℤ) :
    loopsStill a (s.charge t amount) := h

theorem loopStill_unbindLoop (k : Nat) (l : Loop) : loopStill l (unbindLoop k l) := by
  refine ⟨rfl, fun h => ?_⟩
  rw [unbindLoop, h]
  rfl

@[mono] theorem loopsStill_unbind {a s : State} (h : loopsStill a s) (k : Nat) : loopsStill a (s.unbind k) := by
  refine h.trans ⟨List.length_map _, fun p c => ?_⟩
  have hpart : (s.unbind k).part p = { s.part p with lc := unbindLoop k (s.part p).lc, be := unbindLoop k (s.part p).be } := by
    rcases lt_or_ge p s.parts.length with hp | hp
    · simp [State.unbind, State.part, hp]
    · simp [State.unbind, State.part, hp, unbindLoop]
  rw [hpart]
  cases c <;> exact loopStill_unbindLoop _ _

@[mono] theorem loopsStill_freePassages {a s : State} (h : loopsStill a s) (pl : Plan) :
    loopsStill a (s.freePassages pl) := by
  unfold State.freePassages
  refine loopsStill_foldl ?_ h
  exact fun _ _ h => h

@[mono] theorem loopsStill_leaveScan {a s : State} (h : loopsStill a s) (k : Nat) :
    loopsStill a (s.leaveScan k) := h

@[mono] theorem loopsStill_dropPlan {a s : State} (h : loopsStill a s) (k : Nat) :
    loopsStill a (s.dropPlan k) := by
  unfold State.dropPlan
  split
  · split
    · refine loopsStill_onLive ?_ _ _
      exact loopsStill_leaveScan (loopsStill_freePassages h _) _
    · exact h
  · exact h

@[mono] theorem loopsStill_discardHeld {a s : State} (h : loopsStill a s) (k : Nat) :
    loopsStill a (s.discardHeld k) := by
  unfold State.discardHeld
  split
  · refine loopsStill_onLive ?_ _ _
    exact h
  · exact h

@[mono] theorem loopsStill_pagesReturn {a s : State} (h : loopsStill a s) (k : Nat) (stamp : Stamp) :
    loopsStill a (s.pagesReturn k stamp) := by
  unfold State.pagesReturn
  split
  · refine loopsStill_ite h ?_
    split
    · split
      · refine loopsStill_releaseEntry (loopsStill_releaseEntry ?_ _) _
        refine loopsStill_onLive ?_ _ _
        exact loopsStill_returnPages h _ _ _
      · refine loopsStill_releaseEntry ?_ _
        refine loopsStill_onLive ?_ _ _
        exact loopsStill_returnPages h _ _ _
    · split
      · refine loopsStill_releaseEntry ?_ _
        refine loopsStill_onLive ?_ _ _
        exact loopsStill_returnPages h _ _ _
      · dsimp only
        refine loopsStill_onLive ?_ _ _
        exact loopsStill_returnPages h _ _ _
  · exact h

@[mono] theorem loopsStill_endSeq {a s : State} (h : loopsStill a s) (k : Nat) (st : Status) (e : Stamp) :
    loopsStill a (s.endSeq k st e) := by
  unfold State.endSeq
  split
  · refine loopsStill_ite h (loopsStill_ite (loopsStill_onSegs ?_ _) (loopsStill_pagesReturn (loopsStill_onSegs ?_ _) _ _))
    · refine loopsStill_onLive ?_ _ _
      exact loopsStill_discardHeld (loopsStill_dropPlan (loopsStill_unbind h _) _) _
    · refine loopsStill_onLive ?_ _ _
      exact loopsStill_discardHeld (loopsStill_dropPlan (loopsStill_unbind h _) _) _
  · exact h

@[mono] theorem loopsStill_sendStepRecord {a s : State} (h : loopsStill a s) (p : Nat) (data : Nat) :
    loopsStill a (s.sendStepRecord p data) := by
  unfold State.sendStepRecord
  exact loopsStill_ite (loopsStill_sendRecord h _ _) (loopsStill_count h _)

@[mono] theorem loopsStill_recordStep {a s : State} (h : loopsStill a s) (p : Nat) (c : Cls) (o : StepEnd) (e : Stamp) (tokens : Nat) (st : StepS) :
    loopsStill a (s.recordStep p c o e tokens st) := by
  unfold State.recordStep
  exact loopsStill_sendStepRecord h _ _

@[mono] theorem loopsStill_endTransfersOn {a s : State} (h : loopsStill a s) (on : Nat → Bool) (p : Nat) (c : Cls) :
    loopsStill a (s.endTransfersOn on p c) := h

@[mono] theorem loopsStill_unreserve {a s : State} (h : loopsStill a s) (stamp : Stamp) (b : Machine.Bind) :
    loopsStill a (s.unreserve stamp b) := by
  unfold State.unreserve
  split
  · dsimp only
    refine loopsStill_onLive ?_ _ _
    exact loopsStill_dropBlocks (loopsStill_returnPages h _ _ _) _ _
  · exact h

@[mono] theorem loopsStill_endedBack {a s : State} (h : loopsStill a s) (p : Nat) (c : Cls) (stamp : Stamp) :
    loopsStill a (s.endedBack p c stamp) := by
  unfold State.endedBack
  refine loopsStill_foldl ?_ h
  intro t x h
  exact loopsStill_pagesReturn h _ _

@[mono] theorem loopsStill_onModule {a s : State} (h : loopsStill a s) (i : Nat) (d : Dir) (f : ModuleS → ModuleS) :
    loopsStill a (s.onModule i d f) := h

@[mono] theorem loopsStill_hop {a s : State} (h : loopsStill a s) (i : Nat) (j : Nat) :
    loopsStill a (s.hop i j) := by
  unfold State.hop
  split
  · exact loopsStill_ite (loopsStill_onModule h _ _ _) h
  · exact h

@[mono] theorem loopsStill_control {a s : State} (h : loopsStill a s) (i : Nat) (d : Nat) :
    loopsStill a (s.control i d) := by
  unfold State.control
  refine loopsStill_foldl ?_ h
  intro t x h
  exact loopsStill_hop h _ _

@[mono] theorem loopsStill_controlAll {a s : State} (h : loopsStill a s) (l : List Nat) :
    loopsStill a (s.controlAll l) := by
  unfold State.controlAll
  refine loopsStill_foldl ?_ h
  intro t x h
  exact loopsStill_control h _ _

end Sys2Proof.Proofs
end


section
/-! The end of a sequence, and of a step (R66, R71, R219, R220). -/

namespace Sys2Proof.Proofs

open Sys2Proof Sys2Proof.Machine

/-- A sequence that has ended is not ended again (R220). -/
theorem endSeq_of_ended {s : State} {k : Nat} {q : Sequence} (hq : s.live k = some q) (h : q.ended.isSome = true) (st : Status) (e : Stamp) :
    s.endSeq k st e = s := by
  simp only [State.endSeq, hq, h, if_true]

/-- What is held of a sequence is dropped (R220). -/
theorem live_discardHeld {s : State} {k : Nat} {q : Sequence} (hq : s.live k = some q) :
    (s.discardHeld k).live k = some { q with hold := [], groups := [] } := by
  simp only [State.discardHeld, hq]
  exact (s.charge q.req.tenant _).live_onLive_eq k _ q hq

theorem seqsKept_beforeEnd (s : State) (k : Nat) : seqsKept s ((s.unbind k).dropPlan k) := seqsKept_dropPlan (seqsKept_unbind (.refl s) k) k

/-- The fields of a sequence that ends (R220). -/
noncomputable def endFields (st : Status) (e : Stamp) (q : Sequence) : Sequence :=
  { q with ended := some (st, e), handleResult := endedResult q, saved := true, autos := [], pausedBudget := none, pausedPages := none,
           pausedRing := q.pausedRing && !q.backTokens.isEmpty }

/-- The state in which a sequence has ended, before its pages go back. -/
noncomputable def endedAt (s : State) (k : Nat) (st : Status) (e : Stamp) : State :=
  ((((s.unbind k).dropPlan k).discardHeld k).onLive k (endFields st e)).onSegs (fun _ g => { g with snare := { g.snare with
    queue := g.snare.queue.filter (fun j => j.seq != k), lanes := g.snare.lanes.filter (fun j => j.2.seq != k) } })

theorem endSeq_eq {s : State} {k : Nat} {q : Sequence} (hq : s.live k = some q) (h : q.ended = none) (st : Status) (e : Stamp) :
    s.endSeq k st e = if (endedAt s k st e).inFlight q.req.part q.req.cls then endedAt s k st e else (endedAt s k st e).pagesReturn k e := by
  simp only [State.endSeq, hq, h, Option.isSome_none, Bool.false_eq_true, if_false]
  rfl

/-- A sequence that ends does so at its stamp, with its committed length and nothing held back (R220). -/
theorem endSeq_ends {s : State} {k : Nat} {q : Sequence} (hq : s.live k = some q) (h : q.ended = none) (st : Status) (e : Stamp) :
    ∃ r, (s.endSeq k st e).live k = some r ∧ r.ended = some (st, e) ∧ r.committed = q.committed ∧ r.hold = [] := by
  obtain ⟨q₁, hq₁, hc, -, -⟩ := seqsKept_beforeEnd s k k q hq
  have hend : (endedAt s k st e).live k = some (endFields st e { q₁ with hold := [], groups := [] }) :=
    State.live_onLive_eq _ _ _ _ (live_discardHeld hq₁)
  have hkept : seqsKept (endedAt s k st e) (s.endSeq k st e) := by
    rw [endSeq_eq hq h]
    exact seqsKept_ite (.refl _) (seqsKept_pagesReturn (.refl _) k e)
  obtain ⟨r, hr, hcom, hended, hhold⟩ := hkept k _ hend
  exact ⟨r, hr, hended, hcom.trans hc, hhold⟩

/-- The end of a sequence leaves what others have committed, their ends and their held tokens. -/
theorem endSeq_other {s : State} {k j : Nat} {q : Sequence} (hj : j ≠ k) (hq : s.live j = some q) (st : Status) (e : Stamp) :
    ∃ r, (s.endSeq k st e).live j = some r ∧ seqKept q r := by
  cases hk : s.live k with
  | none => exact ⟨q, by simp only [State.endSeq, hk]; exact hq, .refl q⟩
  | some p =>
    cases hp : p.ended with
    | some x => exact ⟨q, by rw [endSeq_of_ended hk (by rw [hp]; rfl)]; exact hq, .refl q⟩
    | none =>
      obtain ⟨q₁, hq₁, hkept⟩ := seqsKept_beforeEnd s k j q hq
      have hheld : (((s.unbind k).dropPlan k).discardHeld k).live j = some q₁ := by
        unfold State.discardHeld
        split
        · exact (State.live_onLive_ne _ _ hj).trans hq₁
        · exact hq₁
      have hend : (endedAt s k st e).live j = some q₁ := (State.live_onLive_ne _ (endFields st e) hj).trans hheld
      have hback : seqsKept (endedAt s k st e) (s.endSeq k st e) := by
        rw [endSeq_eq hk hp]
        exact seqsKept_ite (.refl _) (seqsKept_pagesReturn (.refl _) k e)
      obtain ⟨r, hr, hqr⟩ := hback j q₁ hend
      exact ⟨r, hr, hkept.trans hqr⟩

/-- The ends of a list of sequences keep every committed length, and one that has ended. -/
theorem foldl_endSeq_kept (st : Status) (e : Stamp) (l : List Nat) {s : State} {k : Nat} {q : Sequence} (hq : s.live k = some q) :
    ∃ r, (l.foldl (fun t k => t.endSeq k st e) s).live k = some r ∧ r.committed = q.committed ∧
      (q.ended.isSome = true → r.ended = q.ended ∧ r.hold = q.hold) := by
  induction l generalizing s q with
  | nil => exact ⟨q, hq, rfl, fun _ => ⟨rfl, rfl⟩⟩
  | cons j l ih =>
    by_cases hj : k = j
    · subst hj
      cases hend : q.ended with
      | some x =>
        obtain ⟨r, hr, hc, hk⟩ := ih (s := s.endSeq k st e) (q := q) (by rw [endSeq_of_ended hq (by rw [hend]; rfl)]; exact hq)
        exact ⟨r, hr, hc, fun _ => by rw [hend] at hk; exact hk rfl⟩
      | none =>
        obtain ⟨r₁, hr₁, -, hc₁, -⟩ := endSeq_ends hq hend st e
        obtain ⟨r, hr, hc, -⟩ := ih hr₁
        exact ⟨r, hr, hc.trans hc₁, nofun⟩
    · obtain ⟨r₁, hr₁, hc₁, he₁, hh₁⟩ := endSeq_other hj hq st e
      obtain ⟨r, hr, hc, hk⟩ := ih hr₁
      refine ⟨r, hr, hc.trans hc₁, fun h => ?_⟩
      rw [he₁, hh₁] at hk
      exact hk h

/-- Each listed sequence that has not ended ends at the stamp, with nothing held back. -/
theorem foldl_endSeq_ends (st : Status) (e : Stamp) (l : List Nat) {s : State} {k : Nat} {q : Sequence} (hq : s.live k = some q)
    (h : q.ended = none) (hk : k ∈ l) :
    ∃ r, (l.foldl (fun t k => t.endSeq k st e) s).live k = some r ∧ r.ended = some (st, e) ∧ r.committed = q.committed ∧ r.hold = [] := by
  induction l generalizing s q with
  | nil => cases hk
  | cons j l ih =>
    by_cases hj : k = j
    · subst hj
      obtain ⟨r₁, hr₁, he₁, hc₁, hh₁⟩ := endSeq_ends hq h st e
      obtain ⟨r, hr, hc, hkept⟩ := foldl_endSeq_kept st e l hr₁
      obtain ⟨he, hh⟩ := hkept (by rw [he₁]; rfl)
      exact ⟨r, hr, he.trans he₁, hc.trans hc₁, hh.trans hh₁⟩
    · obtain ⟨r₁, hr₁, hc₁, he₁, -⟩ := endSeq_other hj hq st e
      obtain ⟨r, hr, he, hc, hh⟩ := ih hr₁ (he₁.trans h) ((List.mem_cons.1 hk).resolve_left hj)
      exact ⟨r, hr, he, hc.trans hc₁, hh⟩

end Sys2Proof.Proofs
end
section
/-! What the clearing of a step leaves alone: rings and tenants. -/

namespace Sys2Proof.Proofs

open Sys2Proof Sys2Proof.Machine

-- `mono` starts many tasks; run at once in every lemma they exhaust the thread stacks.
set_option Elab.async false

/-- Rings and tenants stand. -/
def ledgersKept (s t : State) : Prop := t.rings = s.rings ∧ t.tenants = s.tenants

variable {a s t : State}

theorem ledgersKept.refl (s : State) : ledgersKept s s := ⟨rfl, rfl⟩

@[mono] theorem ledgersKept_ite {c : Prop} [Decidable c] (h : ledgersKept a s) (k : ledgersKept a t) : ledgersKept a (if c then s else t) := by
  split
  · exact h
  · exact k

@[mono] theorem ledgersKept_foldl {α : Type} {f : State → α → State} {l : List α} (hf : ∀ t x, ledgersKept a t → ledgersKept a (f t x))
    (h : ledgersKept a s) : ledgersKept a (l.foldl f s) := by
  induction l generalizing s with
  | nil => exact h
  | cons x l ih => exact ih (hf _ x h)

theorem ledgersKept_fields (h : ledgersKept a s) {time segs parts handles seqs trust cnt} : ledgersKept a { s with
      time := time, segs := segs, parts := parts, handles := handles, seqs := seqs, trust := trust, cnt := cnt } := h

@[mono] theorem ledgersKept_onSeg (h : ledgersKept a s) (i : Nat) (f : Segment → Segment) : ledgersKept a (s.onSeg i f) := h

@[mono] theorem ledgersKept_onSegs (h : ledgersKept a s) (f : Nat → Segment → Segment) : ledgersKept a (s.onSegs f) := h

@[mono] theorem ledgersKept_onPart (h : ledgersKept a s) (p : Nat) (f : Partition → Partition) : ledgersKept a (s.onPart p f) := h

@[mono] theorem ledgersKept_onLoop (h : ledgersKept a s) (p : Nat) (c : Cls) (f : Loop → Loop) : ledgersKept a (s.onLoop p c f) := h

@[mono] theorem ledgersKept_count (h : ledgersKept a s) (f : Counters → Counters) : ledgersKept a (s.count f) := h

@[mono] theorem ledgersKept_onEntry (h : ledgersKept a s) (k : Nat) (f : Handle → Handle) : ledgersKept a (s.onEntry k f) := by
  unfold State.onEntry
  split <;> exact h

@[mono] theorem ledgersKept_onLive (h : ledgersKept a s) (k : Nat) (f : Sequence → Sequence) : ledgersKept a (s.onLive k f) := by
  unfold State.onLive
  split <;> exact h

@[mono] theorem ledgersKept_dma {a s : State} (h : ledgersKept a s) (seg : Nat) (r : DmaReq) :
    ledgersKept a (s.dma seg r) := h

@[mono] theorem ledgersKept_returnPages {a s : State} (h : ledgersKept a s) (i : Nat) (n : Nat) (stamp : Stamp) :
    ledgersKept a (s.returnPages i n stamp) := by
  unfold State.returnPages
  exact ledgersKept_ite h (ledgersKept_onPart h _ _)

@[mono] theorem ledgersKept_onMap {a s : State} (h : ledgersKept a s) (c : CacheRef) (f : List (Nat × BlockRef) → List (Nat × BlockRef)) :
    ledgersKept a (s.onMap c f) := by
  unfold State.onMap
  split
  · refine ledgersKept_onLive ?_ _ _
    exact h
  · exact ledgersKept_onEntry h _ _

@[mono] theorem ledgersKept_dropBlocks {a s : State} (h : ledgersKept a s) (c : CacheRef) (gone : Nat → Bool) :
    ledgersKept a (s.dropBlocks c gone) := by
  unfold State.dropBlocks
  exact ledgersKept_onMap h _ _

@[mono] theorem ledgersKept_setDim {a s : State} (h : ledgersKept a s) (c : CacheRef) (d : Option DimRec) (m : Option DimMove) :
    ledgersKept a (s.setDim c d m) := by
  unfold State.setDim
  split
  · exact ledgersKept_onEntry h _ _
  · refine ledgersKept_onLive ?_ _ _
    exact h

@[mono] theorem ledgersKept_dimCounts {a s : State} (h : ledgersKept a s) (p : Nat) (frames : Nat) :
    ledgersKept a (s.dimCounts p frames) := by
  unfold State.dimCounts
  refine ledgersKept_foldl ?_ ?_
  · exact fun _ _ h => h
  · exact h

@[mono] theorem ledgersKept_dimWriteTo {a s : State} (h : ledgersKept a s) (c : CacheRef) (d : DimRec) (drop : Bool) :
    ledgersKept a (s.dimWriteTo c d drop) := by
  unfold State.dimWriteTo
  split
  · refine ledgersKept_ite (ledgersKept_dma (ledgersKept_dimCounts (ledgersKept_setDim h _ _ _) _ _) _ _) (ledgersKept_foldl ?_ (ledgersKept_dma (ledgersKept_dimCounts (ledgersKept_setDim h _ _ _) _ _) _ _))
    exact fun _ _ h => h
  · exact h

@[mono] theorem ledgersKept_beginDimWrite {a s : State} (h : ledgersKept a s) (c : CacheRef) :
    ledgersKept a (s.beginDimWrite c) := by
  unfold State.beginDimWrite
  split
  · exact ledgersKept_dimWriteTo h _ _ _
  · exact h

@[mono] theorem ledgersKept_releaseEntry {a s : State} (h : ledgersKept a s) (slot : Nat) :
    ledgersKept a (s.releaseEntry slot) := by
  unfold State.releaseEntry
  split
  · exact ledgersKept_ite (ledgersKept_beginDimWrite (ledgersKept_onEntry h _ _) _) (ledgersKept_onEntry h _ _)
  · exact h

@[mono] theorem ledgersKept_pagesReturn {a s : State} (h : ledgersKept a s) (k : Nat) (stamp : Stamp) :
    ledgersKept a (s.pagesReturn k stamp) := by
  unfold State.pagesReturn
  split
  · refine ledgersKept_ite h ?_
    split
    · split
      · exact ledgersKept_releaseEntry (ledgersKept_releaseEntry (ledgersKept_onLive (ledgersKept_returnPages h _ _ _) _ _) _) _
      · exact ledgersKept_releaseEntry (ledgersKept_onLive (ledgersKept_returnPages h _ _ _) _ _) _
    · split
      · exact ledgersKept_releaseEntry (ledgersKept_onLive (ledgersKept_returnPages h _ _ _) _ _) _
      · exact ledgersKept_onLive (ledgersKept_returnPages h _ _ _) _ _
  · exact h

@[mono] theorem ledgersKept_endTransfersOn {a s : State} (h : ledgersKept a s) (on : Nat → Bool) (p : Nat) (c : Cls) :
    ledgersKept a (s.endTransfersOn on p c) := h

@[mono] theorem ledgersKept_unreserve {a s : State} (h : ledgersKept a s) (stamp : Stamp) (b : Machine.Bind) :
    ledgersKept a (s.unreserve stamp b) := by
  unfold State.unreserve
  split
  · exact ledgersKept_onLive (ledgersKept_dropBlocks (ledgersKept_returnPages h _ _ _) _ _) _ _
  · exact h

@[mono] theorem ledgersKept_endedBack {a s : State} (h : ledgersKept a s) (p : Nat) (c : Cls) (stamp : Stamp) :
    ledgersKept a (s.endedBack p c stamp) := by
  unfold State.endedBack
  refine ledgersKept_foldl ?_ h
  intro t x h
  exact ledgersKept_pagesReturn h _ _

@[mono] theorem ledgersKept_clearStep {a s : State} (h : ledgersKept a s) (p : Nat) (c : Cls) (stamp : Stamp) :
    ledgersKept a (s.clearStep p c stamp) := by
  unfold State.clearStep
  split
  · refine ledgersKept_endedBack (ledgersKept_onLoop (ledgersKept_endTransfersOn (ledgersKept_onSegs (ledgersKept_foldl ?_ h) _) _ _ _) _ _ _) _ _ _
    intro t x h
    refine ledgersKept_onLive ?_ _ _
    exact ledgersKept_unreserve h _ _
  · exact h

end Sys2Proof.Proofs
end
section
/-! Commit descriptors, hub clears, hung and abandoned steps (R59, R66, R71, R144). -/

namespace Sys2Proof.Proofs

open Sys2Proof Sys2Proof.Machine

theorem mem_insertNat {x y : Nat} {l : List Nat} : y ∈ insertNat x l ↔ y = x ∨ y ∈ l := by
  induction l with
  | nil => simp [insertNat]
  | cons a l ih =>
    unfold insertNat
    split
    · simp
    · split
      next h => simp [beq_iff_eq.1 h]
      next => rw [List.mem_cons, ih, List.mem_cons]; tauto

/-- A step given up before its end: its binds stand back, its loop is free from the next edge, and its record is written. -/
noncomputable def stepCleared (s : State) (p : Nat) (c : Cls) (o : StepEnd) (e : Stamp) (st : StepS) : State :=
  let s := ((s.clearStep p c e).haltBe p c).recordStep p c o e 0 st
  if o == .discarded then s.count (fun k => { k with stepsDiscarded := k.stepsDiscarded + 1 }) else s

theorem discardStep_eq {s : State} {p : Nat} {c : Cls} {st : StepS} (hst : s.stepOf p c = some st) (ha : st.abandoned = none) (hp : p ≠ 15)
    (o : StepEnd) (status : Status) (e : Stamp) : s.discardStep p c o status e =
      (st.binds.map (·.seq)).foldl (fun t k => t.endSeq k status e) (stepCleared s p c o e st) := by
  simp only [State.discardStep, hst, ha, beq_false_of_ne hp, Bool.false_eq_true, if_false]
  rfl

theorem seqsKept_stepCleared (s : State) (p : Nat) (c : Cls) (o : StepEnd) (e : Stamp) (st : StepS) : seqsKept s (stepCleared s p c o e st) := by
  have h := seqsKept_recordStep (seqsKept_haltBe (seqsKept_clearStep (.refl s) p c e) p c) p c o e 0 st
  exact seqsKept_ite (seqsKept_count h _) h

/-- A step is cleared around the write of its loop. -/
theorem clearStep_around {s : State} {p : Nat} {c : Cls} {st : StepS} (hst : s.stepOf p c = some st) (e : Stamp) :
    ∃ v segs, loopsStill s v ∧ s.clearStep p c e = (v.onLoop p c (loopAfter e segs)).endedBack p c e := by
  simp only [State.clearStep, hst]
  exact ⟨_, _, loopsStill_endTransfersOn (loopsStill_onSegs (loopsStill_foldl
    (fun t b h => loopsStill_onLive (loopsStill_unreserve h e b) b.seq (standBack (p == 15) b)) (.refl s)) _) _ _ _, rfl⟩

/-- A loop whose step is cleared has none, and may freeze again from the edge after the stamp. -/
theorem clearStep_loop {s : State} {p : Nat} {c : Cls} {st : StepS} (hst : s.stepOf p c = some st) (e : Stamp) :
    p < (s.clearStep p c e).parts.length ∧ (((s.clearStep p c e).part p).loop c).step = none ∧
      (((s.clearStep p c e).part p).loop c).freezeAt = e.beat + 1 := by
  obtain ⟨v, segs, ⟨hlen, -⟩, hclear⟩ := clearStep_around hst e
  obtain ⟨blen, bloop⟩ := loopsStill_endedBack (.refl (v.onLoop p c (loopAfter e segs))) p c e
  have hp : p < v.parts.length := hlen ▸ lt_of_stepOf hst
  have hloop := bloop p c
  rw [loop_onLoop_eq v c _ hp] at hloop
  rw [hclear]
  refine ⟨?_, hloop.2 rfl, ?_⟩
  · rw [blen, State.onLoop, State.onPart_length]
    exact hp
  · rw [hloop.1]
    rfl

theorem haltBe_loop {s : State} {p : Nat} {c : Cls} (hp : p < s.parts.length) :
    ((s.haltBe p c).part p).loop c = { (s.part p).loop c with running := ((s.part p).loop c).running && c != .be } := by
  unfold State.haltBe
  cases c
  · simp only [bne, Bool.and_true, show (Cls.lc == Cls.be) = false from rfl, Bool.not_false, Bool.false_eq_true, if_false]
  · exact (loop_onLoop_eq s .be _ hp).trans (by simp)

/-- The loop of a step given up has none, may freeze again from the edge after the stamp, and halts where it is best effort. -/
theorem stepCleared_loop {s : State} {p : Nat} {c : Cls} {st : StepS} (hst : s.stepOf p c = some st) (o : StepEnd) (e : Stamp) :
    (((stepCleared s p c o e st).part p).loop c).step = none ∧ (((stepCleared s p c o e st).part p).loop c).freezeAt = e.beat + 1 ∧
      (c = .be → (((stepCleared s p c o e st).part p).loop c).running = false) := by
  obtain ⟨hp, hnone, hfree⟩ := clearStep_loop hst e
  have hrec := loopsStill_recordStep (.refl ((s.clearStep p c e).haltBe p c)) p c o e 0 st
  obtain ⟨-, hstill⟩ : loopsStill ((s.clearStep p c e).haltBe p c) (stepCleared s p c o e st) := loopsStill_ite (loopsStill_count hrec _) hrec
  have hloop := hstill p c
  rw [haltBe_loop hp] at hloop
  refine ⟨hloop.2 hnone, ?_, fun hc => ?_⟩
  · rw [hloop.1]; exact hfree
  · rw [hloop.1, hc]; simp

/-- A segment's part of a step is over (R59). -/
noncomputable def stepOver (t : SegStep) : SegStep := { t with committed := true }

/-- A segment that holds a part of a step is one of the block's. -/
theorem hasSeg_of_stepHere {s : State} {i p : Nat} {c : Cls} {x : SegStep} (h : (s.seg i).stepHere p c = some x) : s.hasSeg i = true := by
  by_contra hn
  have hnone : s.seg i = {} := List.getD_eq_default _ _ (by simpa [State.hasSeg] using hn)
  rw [hnone] at h
  cases h

/-- A segment's part of a step, changed in place. -/
theorem stepHere_onStep {g : Segment} {p : Nat} {c : Cls} {f : SegStep → SegStep} {x : SegStep} (h : g.stepHere p c = some x)
    (hf : ∀ {t}, (f t).part = t.part ∧ (f t).cls = t.cls) : (g.onStep p c f).stepHere p c = some (f x) := by
  unfold Segment.stepHere Segment.onStep at *
  dsimp only
  generalize g.steps = l at *
  induction l with
  | nil => cases h
  | cons a l ih =>
    have hsame : ((f a).part == p && (f a).cls == c) = (a.part == p && a.cls == c) := by rw [(hf (t := a)).1, (hf (t := a)).2]
    cases ha : (a.part == p && a.cls == c) with
    | true =>
      simp only [List.find?_cons, ha] at h
      obtain rfl := Option.some.inj h
      simp only [List.map_cons, ha, if_true, List.find?_cons, hsame]
    | false =>
      simp only [List.find?_cons, ha] at h
      simp only [List.map_cons, ha, Bool.false_eq_true, if_false, List.find?_cons]
      exact ih h

theorem abandonSeen_of {s : State} {p : Nat} (h : ∃ i x, i < s.segs.length ∧ (s.seg i).stepHere p .be = some x ∧ x.abandoning = true) :
    s.abandonSeen p = true := by
  obtain ⟨i, x, hi, hx, ha⟩ := h
  refine List.any_eq_true.2 ⟨s.seg i, ?_, by rw [hx]; exact ha⟩
  rw [State.seg, List.getD_eq_getElem _ _ hi]
  exact List.getElem_mem hi

/-- Settles O7: commits and abandonments send frames and write one loop; a step given up clears its loop (`stepCleared_loop`) and ends its
sequences (`foldl_endSeq_ends`). -/
theorem stepEnds : Obligations.StepEnds := by
  refine ⟨⟨?commits, ?clears⟩, ?hangs, ?abandons, ?completes⟩
  case commits =>
    intro s i p c reports st x hst ha hx hserving hl hab hcom hdone hwhole
    have hruns : (s.seg i).runs p c = true := by simp [Segment.runs, hx, hl, hab, hcom, hserving]
    have hexec : exec (.commitDescriptorReached i p c reports) s = .next (((s.control i s.mgr).onSegStep i p c stepOver).onStep p c
        (takeReport i (programStreams st.prog.image) (s.seg i).hub reports)) := by
      show execCommitDescriptorReached i p c reports s = _
      simp only [execCommitDescriptorReached, hst, hx, onlyIf, hruns, ha, hdone, hwhole, Option.isNone_none, Bool.and_self, if_true]
      rfl
    obtain ⟨G, hG⟩ : ∃ G, s.control i s.mgr = { s with segs := G } := ⟨_, control_eq s i s.mgr⟩
    have hsent (j : Nat) := framesSent_control s i s.mgr j
    have hlen := (sentOnly_control s i s.mgr).2.1
    rw [hG] at hexec hsent hlen
    have hi : ({ s with segs := G } : State).hasSeg i = true := by
      have := hasSeg_of_stepHere hx
      simpa [State.hasSeg, hlen] using this
    have hat : (({ s with segs := G } : State).onSegStep i p c stepOver).seg i = (({ s with segs := G } : State).seg i).onStep p c stepOver :=
      State.seg_onSeg_eq _ _ hi
    have hover := framesSent_map (f := fun g => g.onStep p c stepOver) (hsent i) (fun _ _ => rfl)
    have hsteps : ((({ s with segs := G } : State).seg i).onStep p c stepOver).steps = ((s.seg i).onStep p c stepOver).steps := by
      rw [hover.1]
    refine ⟨_, takeReport i (programStreams st.prog.image) (s.seg i).hub reports st, hexec, ?_, mem_insertNat.2 (.inl rfl),
      fun j hj => mem_insertNat.2 (.inr hj), rfl, rfl, ?_, ?_, fun j hj => ?_, rfl⟩
    · refine (congrArg Loop.step (loop_onLoop_eq _ c _ (lt_of_stepOf hst :))).trans ?_
      exact congrArg (Option.map (takeReport i (programStreams st.prog.image) (s.seg i).hub reports)) hst
    · refine Eq.trans (b := ((s.seg i).onStep p c stepOver).stepHere p c) ?_ (stepHere_onStep hx ⟨rfl, rfl⟩)
      exact (congrArg (fun g : Segment => g.stepHere p c) hat).trans (congrArg (fun l : List SegStep => l.find? _) hsteps)
    · refine cast (congrArg₂ framesSent ?_ hat.symm) hover
      exact congrArg (fun l => { s.seg i with steps := l }) ((congrArg Segment.steps hat).trans hsteps).symm
    · refine cast (congrArg (framesSent (s.seg j)) ?_) (hsent j)
      exact (State.seg_onSeg_ne _ _ (by simpa using hj)).symm
  case clears =>
    intro s i p c hp hi hclear
    refine ⟨(s.control i s.mgr).onLoop p c (fun l => { l with clearing := l.clearing.filter (· != i) }), ?_, ?_, ?_⟩
    · show execHubClearReport i p c s = _
      simp only [execHubClearReport, onlyIf, hp, List.contains_iff_mem.2 hi, hclear, decide_true, Bool.and_self, if_true]
    · exact fun j _ => framesSent_control s i s.mgr j
    · rw [control_eq s i s.mgr]
      rfl
  case hangs =>
    intro s p c st hprior hup hp hst ha hedge
    have hst' : (s.given ⟨s.hangEdge st, 0⟩).stepOf p c = some st := hst
    have hexec : exec (.stepHang p c) s = .next ((s.given ⟨s.hangEdge st, 0⟩).discardStep p c .hung .stepLost ⟨s.hangEdge st, 0⟩) := by
      show execStepHang p c s = _
      have hdue : s.hangEdge st ≤ s.time.beat := hedge
      simp only [execStepHang, underForce_settled _ s hprior, hst, onlyIf, hup, ha, hdue, Option.isNone_none, decide_true, Bool.and_self,
        if_true]
    have hwork := (workOnly_discardStep (.refl (s.given ⟨s.hangEdge st, 0⟩)) p c .hung .stepLost ⟨s.hangEdge st, 0⟩).1
    rw [discardStep_eq hst' ha (by omega)] at hexec hwork
    obtain ⟨hnone, hfree, hhalt⟩ := stepCleared_loop hst' .hung ⟨s.hangEdge st, 0⟩
    obtain ⟨-, hstill⟩ := loopsStill_foldl (l := st.binds.map (·.seq)) (fun t k h => loopsStill_endSeq h k .stepLost ⟨s.hangEdge st, 0⟩)
      (.refl (stepCleared (s.given ⟨s.hangEdge st, 0⟩) p c .hung ⟨s.hangEdge st, 0⟩ st))
    have hloop := hstill p c
    refine ⟨_, hexec, hloop.2 hnone, ?_, fun hc => ?_, fun b hb q hq hend => ?_, ?_⟩
    · rw [hloop.1]; exact hfree
    · rw [hloop.1]; exact hhalt hc
    · obtain ⟨q₁, hq₁, hc₁, he₁, -⟩ := seqsKept_stepCleared (s.given ⟨s.hangEdge st, 0⟩) p c .hung ⟨s.hangEdge st, 0⟩ st b.seq q hq
      obtain ⟨r, hr, he, hc, hh⟩ := foldl_endSeq_ends .stepLost ⟨s.hangEdge st, 0⟩ (st.binds.map (·.seq)) hq₁ (he₁.trans hend)
        (List.mem_map_of_mem hb)
      exact ⟨r, hr, he, hc.trans hc₁, hh⟩
    · rw [hwork]
      exact ⟨rfl, rfl, rfl, rfl, rfl, rfl⟩
  case abandons =>
    intro s cyc p st hup hst ha hseen
    have hsent := (sentOnly_foldl (fun t i => sentOnly_control t i t.mgr)
      ((List.range s.segs.length).filter (fun i => match (s.seg i).stepHere p .be with | some t => t.abandoning | none => false))
      (s.given (s.stampFor cyc))).trans (sentOnly_controlAll _ (s.stepSegs p st.prog.image))
    have hexec : exec (.abandonReport cyc p) s = .next
        ((((((s.given (s.stampFor cyc)).abandonMessages p).controlAll (s.stepSegs p st.prog.image)).clearStep p .be (s.stampFor cyc)).onLoop p .be
          (fun l => { l with running := false, step := some { st with abandoned := some (s.stampFor cyc), binds := [] } }))) := by
      show execAbandonReport cyc p s = _
      simp only [execAbandonReport, hst, onlyIf, hup, abandonSeen_of hseen, ha, Option.isNone_none, Bool.and_self, if_true]
    obtain ⟨G, hG⟩ : ∃ G, ((s.given (s.stampFor cyc)).abandonMessages p).controlAll (s.stepSegs p st.prog.image) =
        { s.given (s.stampFor cyc) with segs := G } := ⟨_, hsent.1⟩
    rw [hG] at hexec
    have hst' : ({ s.given (s.stampFor cyc) with segs := G } : State).stepOf p .be = some st := hst
    obtain ⟨hp, -, -⟩ := clearStep_loop hst' (s.stampFor cyc)
    have hkept := seqsKept_clearStep (.refl { s.given (s.stampFor cyc) with segs := G }) p .be (s.stampFor cyc)
    have hwork := (workOnly_clearStep (.refl { s.given (s.stampFor cyc) with segs := G }) p .be (s.stampFor cyc)).1
    obtain ⟨hrings, htenants⟩ := ledgersKept_clearStep (.refl { s.given (s.stampFor cyc) with segs := G }) p .be (s.stampFor cyc)
    generalize ({ s.given (s.stampFor cyc) with segs := G } : State).clearStep p .be (s.stampFor cyc) = u at *
    have hloop := loop_onLoop_eq u .be (fun l => { l with
      running := false, step := some { st with abandoned := some (s.stampFor cyc), binds := [] } }) hp
    refine ⟨_, _, hexec, congrArg Loop.step hloop, rfl, rfl, congrArg Loop.running hloop, fun b hb q hq => ?_, ?_⟩
    · obtain ⟨r, hr, hc, -⟩ := hkept b.seq q hq
      exact ⟨r, hr, hc⟩
    · refine ⟨?_, ?_, hrings, htenants, ?_, ?_⟩
      · exact (congrArg State.glob hwork :)
      · exact (congrArg State.objs hwork :)
      · exact (congrArg State.roles hwork :)
      · exact (congrArg State.pending hwork :)
  case completes =>
    intro s p st e hup hst ha
    show execAbandonComplete p s = _
    simp only [execAbandonComplete, hst, ha, onlyIf, hup, if_true]
    rfl

end Sys2Proof.Proofs
end
section
/-! Canonical memories: what keeps every staging SRAM and stack in canonical form, for each operation of the model and each command. -/

namespace Sys2Proof.Proofs

open Sys2Proof Sys2Proof.Machine

-- `mono` starts many tasks; run at once in every lemma they exhaust the thread stacks.
set_option Elab.async false

/-- A command that answers leaves every memory in canonical form. -/
def keepsMem (r : Result) : Prop := ∀ t, r = .next t → t.memOk = true

variable {s t : State}

theorem memOk_iff : s.memOk = true ↔ (∀ g ∈ s.segs, g.memOk = true) ∧ ∀ b, s.other = some b → ∀ g ∈ b.segs, g.memOk = true := by
  cases h : s.other <;> simp [State.memOk, h]

@[mono] theorem keepsMem_next (h : t.memOk = true) : keepsMem (.next t) := by
  rintro _ ⟨⟩
  exact h

@[mono] theorem keepsMem_fault (f : Fault) : keepsMem (.fault f) := fun _ h => nomatch h

@[mono] theorem keepsMem_onlyIf {c : Bool} (ht : t.memOk = true) (h : s.memOk = true) : keepsMem (onlyIf c t s) := by
  rintro _ ⟨⟩
  split
  · exact ht
  · exact h

@[mono] theorem keepsMem_ite {r r' : Result} {c : Prop} [Decidable c] (h : keepsMem r) (h' : keepsMem r') :
    keepsMem (if c then r else r') := by
  split
  · exact h
  · exact h'

@[mono] theorem memOk_ite {c : Prop} [Decidable c] (h : s.memOk = true) (h' : t.memOk = true) :
    (if c then s else t).memOk = true := by
  split
  · exact h
  · exact h'

@[mono] theorem memOk_ite_snd {α : Type} {c : Prop} [Decidable c] {r r' : α × State} (h : r.2.memOk = true) (h' : r'.2.memOk = true) :
    (if c then r else r').2.memOk = true := by
  split
  · exact h
  · exact h'

@[mono] theorem memOk_foldl {α : Type} {f : State → α → State} {l : List α} (hf : ∀ t x, t.memOk = true → (f t x).memOk = true)
    (h : s.memOk = true) : (l.foldl f s).memOk = true := by
  induction l generalizing s with
  | nil => exact h
  | cons a l ih => exact ih (hf _ _ h)

/-- Only the segments, and the other block, hold memories. -/
theorem memOk_fields (h : s.memOk = true) {cfg time parts rings tenants handles seqs indexes glob prior screen objs trust span mirror roles kept power vectors cnt free code pending} :
    State.memOk { s with
      cfg := cfg, time := time, parts := parts, rings := rings, tenants := tenants, handles := handles, seqs := seqs, indexes := indexes,
      glob := glob, prior := prior, screen := screen, objs := objs, trust := trust, span := span, mirror := mirror, roles := roles,
      kept := kept, power := power, vectors := vectors, cnt := cnt, free := free, code := code, pending := pending } = true := h

/-- A memory as a list of segments holds it. -/
theorem memOk_getD {l : List Segment} (h : ∀ g ∈ l, g.memOk = true) {d : Segment} (hd : d.memOk = true) (i : Nat) :
    (l.getD i d).memOk = true := by
  rw [List.getD_eq_getElem?_getD]
  cases hi : l[i]? with
  | none => exact hd
  | some g => exact h g (List.mem_of_getElem? hi)

@[mono] theorem memOk_seg (h : s.memOk = true) (i : Nat) : (s.seg i).memOk = true := memOk_getD (memOk_iff.1 h).1 rfl i

theorem mem_modifyAt {α : Type} {f : α → α} {n : Nat} {l : List α} {x : α} (h : x ∈ modifyAt f n l) : x ∈ l ∨ ∃ y ∈ l, x = f y := by
  induction l generalizing n with
  | nil => cases n <;> simp [modifyAt] at h
  | cons a l ih =>
    cases n with
    | zero =>
      rcases List.mem_cons.1 h with rfl | h
      · exact .inr ⟨a, List.mem_cons_self, rfl⟩
      · exact .inl (List.mem_cons_of_mem a h)
    | succ n =>
      rcases List.mem_cons.1 h with rfl | h
      · exact .inl List.mem_cons_self
      · rcases ih h with h | ⟨y, hy, rfl⟩
        · exact .inl (List.mem_cons_of_mem a h)
        · exact .inr ⟨y, List.mem_cons_of_mem a hy, rfl⟩

@[mono] theorem memOk_onSeg {i : Nat} {f : Segment → Segment} (h : s.memOk = true)
    (hf : ∀ g : Segment, g.memOk = true → (f g).memOk = true) : (s.onSeg i f).memOk = true := by
  obtain ⟨hs, ho⟩ := memOk_iff.1 h
  refine memOk_iff.2 ⟨fun g hg => ?_, ho⟩
  rcases mem_modifyAt hg with hg | ⟨k, hk, rfl⟩
  · exact hs g hg
  · exact hf k (hs k hk)

@[mono] theorem memOk_onSegs {f : Nat → Segment → Segment} (h : s.memOk = true)
    (hf : ∀ (i : Nat) (g : Segment), g.memOk = true → (f i g).memOk = true) : (s.onSegs f).memOk = true := by
  obtain ⟨hs, ho⟩ := memOk_iff.1 h
  refine memOk_iff.2 ⟨fun g hg => ?_, ho⟩
  obtain ⟨p, hp, rfl⟩ := List.mem_map.1 hg
  exact hf p.2 p.1 (hs p.1 (List.fst_mem_of_mem_zipIdx hp))

variable {s t : State} {g : Segment}

/-! Memories. -/

theorem wf_ite {c : Prop} [Decidable c] {m m' : Memory} (h : Memory.wf m = true) (h' : Memory.wf m' = true) :
    Memory.wf (if c then m else m') = true := by
  split
  · exact h
  · exact h'

theorem wf_foldl {α : Type} {f : Memory → α → Memory} (hf : ∀ m x, Memory.wf m = true → Memory.wf (f m x) = true) (l : List α) (m : Memory)
    (h : Memory.wf m = true) : Memory.wf (l.foldl f m) = true := by
  induction l generalizing m with
  | nil => exact h
  | cons a l ih => exact ih _ (hf m a h)

/-! Segments. -/

theorem memOk_segment : g.memOk = true ↔ Memory.wf g.staging = true ∧ Memory.wf g.stack.mem = true := by
  simp [Segment.memOk]

theorem segMemOk_staging {m : Memory} (h : g.memOk = true) (hm : Memory.wf m = true) : Segment.memOk { g with staging := m } = true :=
  memOk_segment.2 ⟨hm, (memOk_segment.1 h).2⟩

/-- Only staging SRAM and the stack hold memories. -/
theorem segMemOk_fields (h : g.memOk = true) {state lostReason fenceReason lastHb lastAck frozenAge hbFrom ownRef refPresent refLost goodPps hbWay
    selfTested resetIn joinDeadline inReset ma0 ma1 validBits allocs steps kernels nextCore hub scanQueue scanGroup scanWin scanSpent lutUsed
    passageUsed snare health supply nq i3cIn i3cOut port trust cnt} :
    Segment.memOk { g with
      state := state, lostReason := lostReason, fenceReason := fenceReason, lastHb := lastHb, lastAck := lastAck, frozenAge := frozenAge,
      hbFrom := hbFrom, ownRef := ownRef, refPresent := refPresent, refLost := refLost, goodPps := goodPps, hbWay := hbWay,
      selfTested := selfTested, resetIn := resetIn, joinDeadline := joinDeadline, inReset := inReset, ma0 := ma0, ma1 := ma1,
      validBits := validBits, allocs := allocs, steps := steps, kernels := kernels, nextCore := nextCore, hub := hub,
      scanQueue := scanQueue, scanGroup := scanGroup, scanWin := scanWin, scanSpent := scanSpent, lutUsed := lutUsed,
      passageUsed := passageUsed, snare := snare, health := health, supply := supply, nq := nq, i3cIn := i3cIn, i3cOut := i3cOut,
      port := port, trust := trust, cnt := cnt } = true := h

@[mono] theorem segMemOk_withStack {m : Memory} (h : g.memOk = true) (hm : Memory.wf m = true) : (g.withStack m).memOk = true :=
  memOk_segment.2 ⟨(memOk_segment.1 h).1, hm⟩

@[mono] theorem segMemOk_ite {c : Prop} [Decidable c] {g' : Segment} (h : g.memOk = true) (h' : g'.memOk = true) :
    (if c then g else g').memOk = true := by
  split
  · exact h
  · exact h'

@[mono] theorem segMemOk_foldl {α : Type} {f : Segment → α → Segment} {l : List α} (hf : ∀ g x, g.memOk = true → (f g x).memOk = true)
    (h : g.memOk = true) : (l.foldl f g).memOk = true := by
  induction l generalizing g with
  | nil => exact h
  | cons a l ih => exact ih (hf _ _ h)

@[mono] theorem segMemOk_onArray (h : g.memOk = true) (a : Arr) (f : ArrayS → ArrayS) : (g.onArray a f).memOk = true := by
  cases a <;> exact h

@[mono] theorem segMemOk_onStep (h : g.memOk = true) (p : Nat) (c : Cls) (f : SegStep → SegStep) : (g.onStep p c f).memOk = true := h

/-- A run of bytes put back keeps the canonical form (R49). -/
theorem wf_putRun (m : Memory) (r : Nat × Nat × Memory) (h : Memory.wf m = true) : Memory.wf (putRun m r) = true :=
  wf_foldl_memWrite _ _ _ _ (wf_filter _ _ h)

@[mono] theorem segMemOk_undoStack (h : g.memOk = true) (p : Nat) (c : Cls) : (undoStack p c g).memOk = true := by
  unfold undoStack
  split
  · exact segMemOk_withStack h (wf_foldl wf_putRun _ _ (memOk_segment.1 h).2)
  · exact h

@[mono] theorem segMemOk_dropStepHere (h : g.memOk = true) (p : Nat) (c : Cls) (streams : List Nat) :
    (dropStepHere p c streams g).memOk = true := h

@[mono] theorem segMemOk_abandonHere (h : g.memOk = true) (p : Nat) (streams : List Nat) : (abandonHere p streams g).memOk = true := by
  unfold abandonHere
  split
  · exact segMemOk_undoStack h p .be
  · exact h

/-- A reset leaves staging SRAM empty, and the stack as it was or empty (R387). -/
@[mono] theorem segMemOk_resetSegment (h : g.memOk = true) (warm : Bool) : (resetSegment warm g).memOk = true := by
  cases warm
  · rfl
  · exact memOk_segment.2 ⟨wf_nil, (memOk_segment.1 h).2⟩

@[mono] theorem segMemOk_powerOnSegment (g : Segment) : (powerOnSegment g).memOk = true := rfl

@[mono] theorem segMemOk_freshStackKeys (h : g.memOk = true) (free : Nat) (parts : List Nat) (i : Nat) :
    (freshStackKeys free parts i g).memOk = true := by
  unfold freshStackKeys
  dsimp only
  split
  · exact h
  · exact h

theorem wf_writeTrees (binds : List Bind) (w : Nat) (m : Memory) (h : Memory.wf m = true) : Memory.wf (writeTrees binds w m) = true :=
  wf_ite h (wf_foldl (fun m _ h => wf_ite (wf_memWriteBytes _ m _ h) h) _ m h)

@[mono] theorem segMemOk_freezeTrees (h : g.memOk = true) (img : ProgramImage) (binds : List Bind) :
    (freezeTrees img binds g).memOk = true :=
  segMemOk_staging h (wf_foldl (fun m w => wf_writeTrees binds w m) _ _ (memOk_segment.1 h).1)

theorem wf_writeStats (m : Memory) (unit : Nat) (r : RowStats) (h : Memory.wf m = true) : Memory.wf (writeStats m unit r) = true :=
  wf_memWriteBytes _ m _ h

@[mono] theorem segMemOk_statsRow (h : g.memOk = true) (r : PassRef) (unit : Nat) : (statsRow r g unit).memOk = true := by
  unfold statsRow
  split
  · exact h
  · exact segMemOk_staging h (wf_writeStats _ _ _ (memOk_segment.1 h).1)

@[mono] theorem segMemOk_writeRow (h : g.memOk = true) (w pitch launchNo : Nat) (row : Nat × RowOut) :
    (writeRow w pitch launchNo g row).memOk = true := by
  obtain ⟨pos, slice, header, stats, odd, clamps⟩ := row
  have written := wf_memWriteBytes slice g.staging (outUnit w pitch pos * 256) (memOk_segment.1 h).1
  unfold writeRow
  cases header with
  | none =>
    dsimp only
    mono
    · exact segMemOk_staging h (wf_writeStats _ _ _ written)
    · exact segMemOk_staging h (wf_writeStats _ _ _ written)
    · exact segMemOk_staging h written
  | some x =>
    have scaled := wf_memWriteBytes (bytesLe 4 x) _ (headerUnit (sweepOut w + pos * pitch) * 256 + 4 * sweepColTile w) written
    dsimp only
    mono
    · exact segMemOk_staging h (wf_writeStats _ _ _ scaled)
    · exact segMemOk_staging h (wf_writeStats _ _ _ scaled)
    · exact segMemOk_staging h scaled

@[mono] theorem segMemOk_completeSweep (h : g.memOk = true) (arr : Arr) (r : PassRef) (pitch : Nat) (rows : List (Nat × RowOut)) :
    (completeSweep arr r pitch rows g).memOk = true := by
  have done : (((rows.foldl (writeRow r.sweep pitch r.launchNo) g).onArray arr (leaveArray r)).onStep r.ref.part r.ref.cls
      (sweepDone r.ref.slot)).memOk = true := by
    mono
    exact fun _ x h => segMemOk_writeRow h _ _ _ x
  exact done

@[mono] theorem segMemOk_recordRow (h : g.memOk = true) (launchNo unit : Nat) (excl : List Nat) (elems : List BF16) :
    (recordRow launchNo unit excl elems g).memOk = true :=
  segMemOk_staging h (wf_writeStats _ _ _ (memOk_segment.1 h).1)

@[mono] theorem segMemOk_writeElems (h : g.memOk = true) (launchNo unit : Nat) (excl : List Nat) (elems : List BF16) :
    (writeElems launchNo unit excl elems g).memOk = true :=
  segMemOk_recordRow (segMemOk_staging h (wf_memWriteBytes _ _ _ (memOk_segment.1 h).1)) _ _ _ _

@[mono] theorem segMemOk_writeStack (h : g.memOk = true) (p : Nat) (c : Cls) (a : Nat) (l : List Nat) :
    (writeStack p c a l g).memOk = true :=
  segMemOk_withStack (segMemOk_onStep h _ _ _) (wf_memWriteBytes _ _ _ (memOk_segment.1 h).2)

/-- A part of one memory put in place of what another holds there (R58). -/
theorem wf_moved (src dst : Memory) (a b n : Nat) (p : Host.Cell → Bool) (h : Memory.wf dst = true) :
    Memory.wf ((memPart src a n).foldl (fun m e => memWrite m (b + e.1) e.2) (dst.filter p)) = true :=
  wf_foldl_memWrite _ _ _ _ (wf_filter p dst h)

@[mono] theorem segMemOk_moveBytes (h : g.memOk = true) (w w2 : Nat) (l : List Nat) : (moveBytes w w2 l g).memOk = true := by
  obtain ⟨hs, hk⟩ := memOk_segment.1 h
  unfold moveBytes
  dsimp only
  split
  · exact segMemOk_staging h (wf_moved _ _ _ _ _ _ hs)
  · exact segMemOk_withStack h (wf_moved _ _ _ _ _ _ hk)
  · exact segMemOk_staging h (wf_memWriteBytes _ _ _ hs)
  · exact h

@[mono] theorem segMemOk_giveSegment (h : g.memOk = true) (screenMib p key : Nat) : (giveSegment screenMib p key g).memOk = true :=
  memOk_segment.2 ⟨(memOk_segment.1 h).1, wf_filter _ _ (memOk_segment.1 h).2⟩

/-- The screen region of one stack between the parts of another below and above it. -/
theorem wf_spliced (m src : Memory) (lo n : Nat) (hm : Memory.wf m = true) (hs : Memory.wf src = true) :
    Memory.wf (m.filter (fun c => c.1 < lo) ++ src.filter (fun c => lo ≤ c.1 && c.1 < lo + n) ++ m.filter (fun c => lo + n ≤ c.1)) = true := by
  refine wf_append _ _ (wf_append _ _ (wf_filter _ m hm) (wf_filter _ src hs) fun a ha b hb => ?_) (wf_filter _ m hm) fun a ha b hb => ?_
  · simp only [List.mem_filter, Bool.and_eq_true, decide_eq_true_eq] at ha hb
    omega
  · simp only [List.mem_append, List.mem_filter, Bool.and_eq_true, decide_eq_true_eq] at ha hb
    omega

@[mono] theorem segMemOk_takeScreen (h : g.memOk = true) (screenMib : Nat) {src : Memory} (hs : Memory.wf src = true) :
    (takeScreen screenMib src g).memOk = true :=
  memOk_segment.2 ⟨(memOk_segment.1 h).1, wf_spliced _ src _ _ (memOk_segment.1 h).2 hs⟩

@[mono] theorem segMemOk_restartHolder (h : g.memOk = true) (arr : Arr) (b : AccBank) : (restartHolder arr b g).memOk = true := by
  unfold restartHolder
  split
  · mono
  · exact h

@[mono] theorem segMemOk_retireSweep (h : g.memOk = true) (arr : Arr) (r : PassRef) : (retireSweep arr r g).memOk = true := by
  unfold retireSweep
  mono

@[mono] theorem segMemOk_failArray (h : g.memOk = true) (arr : Arr) : (failArray arr g).memOk = true := by
  unfold failArray
  mono
  intro g b hg
  split
  · mono
  · exact hg

@[mono] theorem segMemOk_preparedSegment (h : g.memOk = true) : (preparedSegment g).memOk = true := by
  unfold preparedSegment
  split
  · exact h
  · exact segMemOk_resetSegment h true

@[mono] theorem segMemOk_joinAgain (h : g.memOk = true) (beat i : Nat) : (joinAgain beat i g).memOk = true := by
  have back : (if g.state == .fenced && g.fenceReason == 0x05 then { g with fenceReason := 0 } else resetSegment true g).memOk = true := by
    split
    · exact h
    · exact segMemOk_resetSegment h true
  exact back

@[mono] theorem segMemOk_splitSegment (h : g.memOk = true) (k : Nat) (e : Stamp) : (splitSegment k e g).memOk = true := by
  unfold splitSegment
  split
  · exact h
  · exact h

@[mono] theorem segMemOk_resetAlone {f : Segment → Segment} (hf : (f g).memOk = true) : (resetAlone f g).memOk = true := by
  unfold resetAlone
  split
  · exact hf
  · exact hf

@[mono] theorem segMemOk_wakeSegment (h : g.memOk = true) (beat : Nat) : (wakeSegment beat g).memOk = true := by
  unfold wakeSegment
  split
  · exact h
  · exact h

@[mono] theorem segMemOk_corrected (h : g.memOk = true) (beat : Nat) (channel : Option Nat) : (corrected beat channel g).memOk = true := by
  cases channel <;> exact h

/-! A state with something beside it. -/

@[mono] theorem memOk_ite_fst {α : Type} {c : Prop} [Decidable c] {r r' : State × α} (h : r.1.memOk = true) (h' : r'.1.memOk = true) :
    (if c then r else r').1.memOk = true := by
  split
  · exact h
  · exact h'

@[mono] theorem memOk_ite_draft {c : Prop} [Decidable c] {d d' : Draft} (h : d.s.memOk = true) (h' : d'.s.memOk = true) :
    (if c then d else d').s.memOk = true := by
  split
  · exact h
  · exact h'

@[mono] theorem memOk_foldl_snd {α β : Type} {f : β × State → α → β × State} {l : List α} {r : β × State}
    (hf : ∀ r x, r.2.memOk = true → (f r x).2.memOk = true) (h : r.2.memOk = true) : (l.foldl f r).2.memOk = true := by
  induction l generalizing r with
  | nil => exact h
  | cons a l ih => exact ih (hf _ _ h)

@[mono] theorem memOk_foldl_draft {α : Type} {f : Draft → α → Draft} {l : List α} {d : Draft}
    (hf : ∀ d x, d.s.memOk = true → (f d x).s.memOk = true) (h : d.s.memOk = true) : (l.foldl f d).s.memOk = true := by
  induction l generalizing d with
  | nil => exact h
  | cons a l ih => exact ih (hf _ _ h)

/-! Fields that a commit sets. -/

/-- A draft changes committed entries, partitions, tenants, indexes and the windows of the span. -/
def drafted (a s : State) : Prop :=
  s = { a with glob := s.glob, parts := s.parts, tenants := s.tenants, indexes := s.indexes, span := s.span }

/-- Setting a field changes a committed entry or a partition, and the PASS_TARGET default only where it is that field. -/
def Field.setsEntry (index : Nat) (f : Field) : Prop := ∀ v s, drafted s (f.set v s) ∧
  (¬(index = 0x2000 ∧ f.sub = 3) → (f.set v s).glob.passDefault = s.glob.passDefault)

theorem setsEntry_partField (index p sub bytes : Nat) (first : Nat → Nat × Nat) (get : Partition → Nat) (set : Nat → Partition → Partition) :
    Field.setsEntry index (partField p sub bytes first get set) := fun _ _ => ⟨rfl, fun _ => rfl⟩

theorem setsEntry_globField (index sub bytes : Nat) (first : Nat → Nat × Nat) (get : Globals → Nat) {set : Nat → Globals → Globals}
    (h : ¬(index = 0x2000 ∧ sub = 3) → ∀ v g, (set v g).passDefault = g.passDefault) :
    Field.setsEntry index (globField sub bytes first get set) := fun v s => ⟨rfl, fun hne => h hne v s.glob⟩

theorem setsEntry_fieldsAt (segs index : Nat) : ∀ f ∈ fieldsAt segs index, Field.setsEntry index f := by
  unfold fieldsAt
  split
  · simp [fields2000, setsEntry_globField]
  · simp only [fields2100, List.forall_mem_cons]
    exact ⟨fun _ _ => ⟨rfl, fun _ => rfl⟩, fun _ _ => ⟨rfl, fun _ => rfl⟩, fun _ _ => ⟨rfl, fun _ => rfl⟩, nofun⟩
  · simp [fields2200, setsEntry_globField]
  · simp [fields2400, setsEntry_globField]
  · simp [fields5800, setsEntry_globField]
  · split
    · split
      next p _ =>
        have all : ∀ f ∈ partFieldsAll p, Field.setsEntry index f := by simp [partFieldsAll, setsEntry_partField]
        have own : ∀ f ∈ partFieldsOwn segs p, Field.setsEntry index f := by simp [partFieldsOwn, setsEntry_partField]
        intro f hf
        rcases List.mem_append.1 hf with hf | hf
        · exact all f hf
        · split at hf
          · exact own f hf
          · cases hf
      next => nofun
    · split
      · simp [policyFields, policyField, setsEntry_partField]
      · nofun

/-- Setting a field leaves the segments and the other block. -/
theorem inPlace_of_field {s : State} {index sub : Nat} {f : Field} (h : s.field index sub = some f) (v : Nat) (t : State) :
    (f.set v t).segs = t.segs ∧ (f.set v t).other = t.other := by
  have hd := (setsEntry_fieldsAt _ _ f (List.mem_of_find?_eq_some h) v t).1
  rw [hd]
  exact ⟨rfl, rfl⟩

theorem memOk_of_segs {s t : State} (h : s.memOk = true) (hs : t.segs = s.segs) (ho : t.other = s.other) : t.memOk = true := by
  rw [memOk_iff, hs, ho]
  exact memOk_iff.1 h

theorem memOk_fieldSet {s u : State} {index sub : Nat} {f : Field} (hf : u.field index sub = some f) (h : s.memOk = true) (v : Nat) :
    (f.set v s).memOk = true :=
  memOk_of_segs h (inPlace_of_field hf v s).1 (inPlace_of_field hf v s).2
/-! Split mode and the values in force. -/

@[mono] theorem memOk_turn (h : s.memOk = true) : s.turn.memOk = true := by
  obtain ⟨hs, ho⟩ := memOk_iff.1 h
  unfold State.turn
  split
  next b hb => exact memOk_iff.2 ⟨ho b hb, by rintro _ ⟨⟩; exact hs⟩
  next => exact h

@[mono] theorem keepsMem_inBlockOf {f : State → Result} {far : Bool} (h : s.memOk = true) (hf : ∀ t, t.memOk = true → keepsMem (f t)) :
    keepsMem (s.inBlockOf far f) := by
  unfold State.inBlockOf
  split
  · split
    next t ht => exact keepsMem_next (memOk_turn (hf _ (memOk_turn h) t ht))
    next hne => exact fun t ht => absurd ht (hne t)
  · exact hf s h

@[mono] theorem memOk_atBlock {f : State → State} (h : s.memOk = true) (i : Nat) (hf : ∀ t, t.memOk = true → (f t).memOk = true) :
    (s.atBlock i f).memOk = true := by
  unfold State.atBlock
  split
  · exact memOk_turn (hf _ (memOk_turn h))
  · exact hf s h

@[mono] theorem keepsMem_underForce {f : State → Result} (h : s.memOk = true) (hf : ∀ t, t.memOk = true → keepsMem (f t)) :
    keepsMem (underForce f s) := by
  unfold underForce
  split
  · exact hf s h
  · split
    next t ht => exact keepsMem_next (hf (s.inForce _) h t ht)
    next hne => exact fun t ht => absurd ht (hne t)

/-- Segments as the blocks that they belong to hold them. -/
theorem memOk_takeHalf {half : List Nat} {l m : List Segment} (hl : ∀ g ∈ l, g.memOk = true) (hm : ∀ g ∈ m, g.memOk = true) :
    ∀ g ∈ takeHalf half l m, g.memOk = true := by
  intro g hg
  obtain ⟨i, hi, rfl⟩ := List.mem_mapIdx.1 hg
  have own := hm _ (List.getElem_mem hi)
  split
  · exact memOk_getD hl own i
  · exact own

theorem memOk_allSegs (h : s.memOk = true) : ∀ g ∈ s.allSegs, g.memOk = true := by
  obtain ⟨hs, ho⟩ := memOk_iff.1 h
  unfold State.allSegs
  split
  next b hb => exact memOk_takeHalf (ho b hb) hs
  next => exact hs

/-- A block's reset resets every segment, in split mode as its own block holds it. -/
theorem memOk_resetSegs {u : State} (warm : Bool) (h : s.memOk = true) (hu : u.segs = s.allSegs.map (resetSegment warm)) (ho : u.other = none) :
    u.memOk = true := by
  refine memOk_iff.2 ⟨fun g hg => ?_, fun b hb => by rw [ho] at hb; cases hb⟩
  rw [hu] at hg
  obtain ⟨k, hk, rfl⟩ := List.mem_map.1 hg
  exact segMemOk_resetSegment (memOk_allSegs h k hk) warm

@[mono] theorem memOk_coldReset (h : s.memOk = true) : s.coldReset.memOk = true := memOk_resetSegs false h rfl rfl

@[mono] theorem memOk_warmReset (h : s.memOk = true) : s.warmReset.memOk = true := memOk_resetSegs true h rfl rfl

theorem memOk_onPart {s : State} (h : s.memOk = true) (p : Nat) (f : Partition → Partition) :
    (s.onPart p f).memOk = true := h

theorem memOk_onLoop {s : State} (h : s.memOk = true) (p : Nat) (c : Cls) (f : Loop → Loop) :
    (s.onLoop p c f).memOk = true := h

theorem memOk_onStep {s : State} (h : s.memOk = true) (p : Nat) (c : Cls) (f : StepS → StepS) :
    (s.onStep p c f).memOk = true := h

theorem memOk_onTenant {s : State} (h : s.memOk = true) (t : Nat) (f : Tenant → Tenant) :
    (s.onTenant t f).memOk = true := h

theorem memOk_setRing {s : State} (h : s.memOk = true) (n : Nat) (r : Ring) :
    (s.setRing n r).memOk = true := h

theorem memOk_onRing {s : State} (h : s.memOk = true) (n : Nat) (f : Ring → Ring) :
    (s.onRing n f).memOk = true := h

theorem memOk_onEntry {s : State} (h : s.memOk = true) (slot : Nat) (f : Handle → Handle) :
    (s.onEntry slot f).memOk = true := by
  unfold State.onEntry
  split <;> exact h

theorem memOk_onLive {s : State} (h : s.memOk = true) (i : Nat) (f : Sequence → Sequence) :
    (s.onLive i f).memOk = true := by
  unfold State.onLive
  split <;> exact h

theorem memOk_count {s : State} (h : s.memOk = true) (f : Counters → Counters) :
    (s.count f).memOk = true := h

theorem memOk_segCount {s : State} (h : s.memOk = true) (i : Nat) (f : SegCount → SegCount) :
    (s.segCount i f).memOk = true := by
  unfold State.segCount
  exact memOk_onSeg h (fun _ h => h)

theorem memOk_respondTo {s : State} (h : s.memOk = true) (i : Nat) (tag : Nat) (status : Nat) (data : Nat) :
    (s.respondTo i tag status data).memOk = true := by
  unfold State.respondTo
  exact memOk_ite h (memOk_onSeg h (fun _ h => h))

theorem memOk_respond {s : State} (h : s.memOk = true) (i : Nat) (status : Nat) (data : Nat) :
    (s.respond i status data).memOk = true := by
  unfold State.respond
  exact memOk_respondTo h _ _ _ _

theorem memOk_acceptReq {s : State} (h : s.memOk = true) (i : Nat) (tag : Nat) :
    (s.acceptReq i tag).memOk = true := by
  unfold State.acceptReq
  exact memOk_onSeg h (fun _ h => h)

theorem memOk_given {s : State} (h : s.memOk = true) (a' : Stamp) :
    (s.given a').memOk = true := h

theorem memOk_onCycle {s : State} (h : s.memOk = true) (cyc : Nat) :
    (s.onCycle cyc).memOk = true := h

theorem memOk_endpointMode {s : State} (h : s.memOk = true) (hold : Bool) :
    (s.endpointMode hold).memOk = true := h

theorem memOk_answerReads {s : State} (h : s.memOk = true) (l : List ReadAnswer) :
    (s.answerReads l).memOk = true := by
  unfold State.answerReads
  exact memOk_foldl (fun t x h => memOk_respondTo h _ _ _ _) h

theorem memOk_onNq {s : State} (h : s.memOk = true) (i : Nat) (f : WordQ → WordQ) :
    (s.onNq i f).memOk = true := by
  unfold State.onNq
  refine memOk_answerReads (memOk_onSeg h ?_) _
  exact fun _ h => h

theorem memOk_settleReads {s : State} (h : s.memOk = true) :
    s.settleReads.memOk = true := by
  unfold State.settleReads
  refine memOk_answerReads (memOk_ite ?_ (memOk_ite (memOk_onSegs h ?_) h)) _
  · refine memOk_fields ?_
    refine memOk_ite (memOk_onSegs h ?_) h
    exact fun _ _ h => h
  · exact fun _ _ h => h

theorem memOk_raise {s : State} (h : s.memOk = true) (src : Nat) (code : Nat) (scope : Nat) (seg : Nat) (part : Nat) (stamp : Stamp)
    (detail : Nat) :
    (s.raise src code scope seg part stamp detail).memOk = true := by
  unfold State.raise
  exact memOk_onNq h _ _

theorem memOk_raiseQueue {s : State} (h : s.memOk = true) (src : Nat) (object : Nat) (owe : List QEvent) :
    (s.raiseQueue src object owe).memOk = true := by
  unfold State.raiseQueue
  exact memOk_foldl (fun t x h => memOk_raise h _ _ _ _ _ _ _) h

theorem memOk_dma {s : State} (h : s.memOk = true) (seg : Nat) (r : DmaReq) :
    (s.dma seg r).memOk = true := by
  unfold State.dma
  exact memOk_onSeg h (fun _ h => h)

theorem memOk_ringLatched {s : State} (h : s.memOk = true) (n : Nat) (e : QEvent) :
    (s.ringLatched n e).memOk = true := by
  unfold State.ringLatched
  exact memOk_onRing (memOk_raise h _ _ _ _ _ _ _) _ _

theorem memOk_closeRing {s : State} (h : s.memOk = true) (n : Nat) :
    (s.closeRing n).memOk = true := by
  unfold State.closeRing
  split
  · exact memOk_foldl (fun t x h => memOk_ringLatched h _ _) (memOk_onRing h _ _)
  · exact h

theorem memOk_ringTurn {s : State} (h : s.memOk = true) (n : Nat) :
    (s.ringTurn n).memOk = true := by
  unfold State.ringTurn
  exact memOk_ite h (memOk_closeRing h _)

theorem memOk_moveRing {s : State} (h : s.memOk = true) (n : Nat) (head : Nat) (tail : Nat) :
    (s.moveRing n head tail).memOk = true := by
  unfold State.moveRing
  exact memOk_onRing (memOk_ringTurn h _) _ _

theorem memOk_closeRings {s : State} (h : s.memOk = true) :
    s.closeRings.memOk = true := by
  unfold State.closeRings
  exact memOk_foldl (fun t x h => memOk_closeRing h _) h

theorem memOk_blockMoves {s : State} (h : s.memOk = true) (n : Nat) (head : Nat) (tail : Nat) :
    (s.blockMoves n head tail).memOk = true := by
  unfold State.blockMoves
  exact memOk_onRing (memOk_moveRing h _ _ _) _ _

theorem memOk_ringLoses {s : State} (h : s.memOk = true) (n : Nat) :
    (s.ringLoses n).memOk = true := by
  unfold State.ringLoses
  exact memOk_ite (memOk_setRing h _ _) (memOk_ringLatched (memOk_setRing h _ _) _ _)

theorem memOk_makeRecord {s : State} (h : s.memOk = true) (b : BackRec) :
    (s.makeRecord b).2.memOk = true := by
  unfold State.makeRecord
  split
  · split
    · exact memOk_onLive h _ _
    · exact h
  · split
    · exact memOk_onLive h _ _
    · exact h
  · exact h

theorem memOk_writeEntry {s : State} (h : s.memOk = true) (n : Nat) (b : BackRec) :
    (s.writeEntry n b).memOk = true := by
  unfold State.writeEntry
  exact memOk_dma (memOk_setRing (memOk_makeRecord h _) _ _) _ _

theorem memOk_sendRecord {s : State} (h : s.memOk = true) (n : Nat) (b : BackRec) :
    (s.sendRecord n b).memOk = true := by
  unfold State.sendRecord
  exact memOk_ite (memOk_ite (memOk_writeEntry h _ _) (memOk_setRing h _ _)) h

theorem memOk_writeBacklog {s : State} (h : s.memOk = true) (n : Nat) (l : List BackRec) : (State.writeBacklog n l s).memOk = true := by
  induction l generalizing s with
  | nil => exact h
  | cons b l ih =>
    unfold State.writeBacklog
    split
    · exact ih (memOk_writeEntry h n b)
    · exact h

theorem memOk_ntcOverwrite {s : State} (h : s.memOk = true) (n : Nat) :
    (s.ntcOverwrite n).memOk = true := by
  unfold State.ntcOverwrite
  exact memOk_ite h (memOk_ite (memOk_ringLoses (memOk_blockMoves (memOk_setRing h _ _) _ _ _) _) (memOk_dma (memOk_ringLoses
      (memOk_blockMoves (memOk_setRing h _ _) _ _ _) _) _ _))

theorem memOk_ntcWord {s : State} (h : s.memOk = true) (n : Nat) (w : QRead) :
    (s.ntcWord n w).memOk = true := by
  unfold State.ntcWord
  exact memOk_writeEntry (memOk_setRing (memOk_ntcOverwrite h _) _ _) _ _

theorem memOk_pulse {s : State} (h : s.memOk = true) (v : Nat) :
    (s.pulse v).memOk = true := h

theorem memOk_raiseVector {s : State} (h : s.memOk = true) (n : Nat) :
    (s.raiseVector n).memOk = true := by
  unfold State.raiseVector
  refine memOk_ite h ?_
  split
  · exact memOk_ite (memOk_setRing h _ _) (memOk_pulse (memOk_setRing h _ _) _)
  · exact h

theorem memOk_returnPages {s : State} (h : s.memOk = true) (i : Nat) (n : Nat) (stamp : Stamp) :
    (s.returnPages i n stamp).memOk = true := by
  unfold State.returnPages
  exact memOk_ite h (memOk_onPart h _ _)

theorem memOk_freeNow {s : State} (h : s.memOk = true) (i : Nat) (n : Nat) :
    (s.freeNow i n).memOk = true := h

theorem memOk_takePages {s : State} (h : s.memOk = true) (i : Nat) (n : Nat) :
    (s.takePages i n).memOk = true := h

theorem memOk_onMap {s : State} (h : s.memOk = true) (c : CacheRef) (f : List (Nat × BlockRef) → List (Nat × BlockRef)) :
    (s.onMap c f).memOk = true := by
  unfold State.onMap
  split
  · exact memOk_onLive h _ _
  · exact memOk_onEntry h _ _

theorem memOk_giveBlocks {s : State} (h : s.memOk = true) (c : CacheRef) (blocks : List Nat) :
    (s.giveBlocks c blocks).memOk = true := by
  unfold State.giveBlocks
  split
  · exact memOk_foldl (fun t x h => memOk_onMap h _ _) h
  · exact h

theorem memOk_dropBlocks {s : State} (h : s.memOk = true) (c : CacheRef) (gone : Nat → Bool) :
    (s.dropBlocks c gone).memOk = true := by
  unfold State.dropBlocks
  exact memOk_onMap h _ _

theorem memOk_onRefs {s : State} (h : s.memOk = true) (f : BlockRef → BlockRef) :
    (s.onRefs f).memOk = true := h

theorem memOk_replaceCopies {s : State} (h : s.memOk = true) (p : Nat) (c : Cls) :
    (s.replaceCopies p c).memOk = true := by
  unfold State.replaceCopies
  exact memOk_foldl (fun t x h => memOk_ite h (memOk_onSeg (memOk_onRefs h _) (fun _ h => h))) h

theorem memOk_setDim {s : State} (h : s.memOk = true) (c : CacheRef) (d : Option DimRec) (m : Option DimMove) :
    (s.setDim c d m).memOk = true := by
  unfold State.setDim
  split
  · exact memOk_onEntry h _ _
  · exact memOk_onLive h _ _

theorem memOk_dimCounts {s : State} (h : s.memOk = true) (p : Nat) (frames : Nat) :
    (s.dimCounts p frames).memOk = true := by
  unfold State.dimCounts
  exact memOk_foldl (fun t x h => memOk_onSeg h (fun _ h => h)) h

theorem memOk_dimWriteTo {s : State} (h : s.memOk = true) (c : CacheRef) (d : DimRec) (drop : Bool) :
    (s.dimWriteTo c d drop).memOk = true := by
  unfold State.dimWriteTo
  split
  · exact memOk_ite (memOk_dma (memOk_dimCounts (memOk_setDim h _ _ _) _ _) _ _) (memOk_foldl (fun t x h => memOk_dma h _ _) (memOk_dma
        (memOk_dimCounts (memOk_setDim h _ _ _) _ _) _ _))
  · exact h

theorem memOk_beginDimWrite {s : State} (h : s.memOk = true) (c : CacheRef) :
    (s.beginDimWrite c).memOk = true := by
  unfold State.beginDimWrite
  split
  · exact memOk_dimWriteTo h _ _ _
  · exact h

theorem memOk_beginDimFetch {s : State} (h : s.memOk = true) (c : CacheRef) :
    (s.beginDimFetch c).memOk = true := by
  unfold State.beginDimFetch
  split
  · split
    · exact memOk_ite (memOk_dma (memOk_setDim h _ _ _) _ _) (memOk_foldl (fun t x h => memOk_dma h _ _) (memOk_dma (memOk_setDim h _ _
          _) _ _))
    · exact memOk_dma (memOk_setDim h _ _ _) _ _
  · split
    · exact memOk_ite (memOk_dma (memOk_setDim h _ _ _) _ _) (memOk_foldl (fun t x h => memOk_dma h _ _) (memOk_dma (memOk_setDim h _ _
          _) _ _))
    · exact memOk_dma (memOk_setDim h _ _ _) _ _

theorem memOk_releaseEntry {s : State} (h : s.memOk = true) (slot : Nat) :
    (s.releaseEntry slot).memOk = true := by
  unfold State.releaseEntry
  split
  · exact memOk_ite (memOk_beginDimWrite (memOk_onEntry h _ _) _) (memOk_onEntry h _ _)
  · exact h

theorem memOk_freeBright {s : State} (h : s.memOk = true) (slot : Nat) {put : State → Nat → Nat → State}
    (hput : ∀ t p n, t.memOk = true → (put t p n).memOk = true) : (s.freeBright slot put).memOk = true := by
  unfold State.freeBright
  split
  · have freed := hput _ (Option.getD (s.entry slot) {}).part (Option.getD (s.entry slot) {}).ownPages
      (memOk_onEntry h slot (fun h => { h with ownPages := 0, older := none, map := [] }))
    split
    · exact memOk_releaseEntry (hput _ _ _ (memOk_onEntry h _ _)) _
    · exact hput _ _ _ (memOk_onEntry h _ _)
  · exact h

theorem memOk_tombstone {s : State} (h : s.memOk = true) (slot : Nat) {put : State → Nat → Nat → State}
    (hput : ∀ t p n, t.memOk = true → (put t p n).memOk = true) : (s.tombstone slot put).memOk = true := by
  unfold State.tombstone
  exact memOk_onEntry (memOk_freeBright h _ hput) _ _

theorem memOk_sweepSet {s : State} (h : s.memOk = true) :
    s.sweepSet.memOk = true := by
  unfold State.sweepSet
  dsimp only
  refine memOk_fields ?_
  refine memOk_foldl ?_ h
  intro t x h
  split
  · exact memOk_ite (memOk_tombstone h _ (fun x0 x1 x2 h => memOk_returnPages h _ _ _)) h
  · exact h

theorem memOk_insertEntry {s : State} (h : s.memOk = true) (e : Handle) (stamp : Stamp) :
    (s.insertEntry e stamp).2.2.memOk = true := by
  unfold State.insertEntry
  split
  · dsimp only
    split
    · dsimp only
      exact memOk_fields (memOk_tombstone h _ (fun x0 x1 x2 h => memOk_returnPages h _ _ _))
    · exact h
  · split <;> exact h

theorem memOk_reclaimWhile {s : State} (h : s.memOk = true) (i demand : Nat) (next : State → Option Nat)
    {take : State → Nat → State} (htake : ∀ t k, t.memOk = true → (take t k).memOk = true) (fuel : Nat) :
    (State.reclaimWhile i demand next take fuel s).memOk = true := by
  induction fuel generalizing s with
  | zero => exact h
  | succ fuel ih =>
    unfold State.reclaimWhile
    split
    · exact h
    · split
      · exact ih (htake _ _ h)
      · exact h

theorem memOk_reclaimExpired {s : State} (h : s.memOk = true) (i : Nat) (demand : Nat) :
    (s.reclaimExpired i demand).memOk = true := by
  unfold State.reclaimExpired
  refine memOk_reclaimWhile h _ _ _ ?_ _
  intro t x h
  refine memOk_count (memOk_tombstone h _ ?_) _
  intro x0 x1 x2 h
  exact h

theorem memOk_reclaimEntries {s : State} (h : s.memOk = true) (i : Nat) (demand : Nat) :
    (s.reclaimEntries i demand).memOk = true := by
  unfold State.reclaimEntries
  refine memOk_reclaimWhile h _ _ _ ?_ _
  intro t x h
  refine memOk_count (memOk_onEntry (memOk_freeBright h _ ?_) _ _) _
  intro x0 x1 x2 h
  exact h

theorem memOk_dropSeqBright {s : State} (h : s.memOk = true) (k : Nat) :
    (s.dropSeqBright k).memOk = true := by
  unfold State.dropSeqBright
  split
  · exact memOk_onLive (memOk_freeNow h _ _) _ _
  · exact h

theorem memOk_reclaimPaused {s : State} (h : s.memOk = true) (i : Nat) (demand : Nat) :
    (s.reclaimPaused i demand).memOk = true := by
  unfold State.reclaimPaused
  exact memOk_foldl (fun t x h => memOk_ite h (memOk_count (memOk_dropSeqBright h _) _)) h

theorem memOk_pausePages {s : State} (h : s.memOk = true) (bound : List Nat) (k : Nat) :
    (s.pausePages bound k).memOk = true := by
  unfold State.pausePages
  split
  · refine memOk_ite (memOk_count (memOk_onLive (memOk_dropSeqBright h _) _ _) _) ?_
    split
    · exact memOk_ite (memOk_count (memOk_onLive h _ _) _) (memOk_count (memOk_onLive (memOk_dimWriteTo h _ _ _) _ _) _)
    · exact h
  · exact h

theorem memOk_reclaimBe {s : State} (h : s.memOk = true) (bound : List Nat) (i : Nat) (demand : Nat) :
    (s.reclaimBe bound i demand).memOk = true := by
  unfold State.reclaimBe
  exact memOk_foldl (fun t x h => memOk_ite h (memOk_pausePages h _ _)) h

theorem memOk_reclaim {s : State} (h : s.memOk = true) (bound : List Nat) (i : Nat) (demand : Nat) :
    (s.reclaim bound i demand).memOk = true := by
  unfold State.reclaim
  exact memOk_ite h (memOk_reclaimBe (memOk_reclaimPaused (memOk_reclaimEntries (memOk_reclaimExpired h _ _) _ _) _ _) _ _ _)

theorem memOk_charge {s : State} (h : s.memOk = true) (t : Nat) (amount : ℤ) :
    (s.charge t amount).memOk = true := h

theorem memOk_unbind {s : State} (h : s.memOk = true) (k : Nat) :
    (s.unbind k).memOk = true := by
  unfold State.unbind
  exact memOk_onSegs h (fun _ _ h => h)

theorem memOk_freePassages {s : State} (h : s.memOk = true) (pl : Plan) :
    (s.freePassages pl).memOk = true := by
  unfold State.freePassages
  exact memOk_foldl (fun t x h => memOk_onSeg h (fun _ h => h)) h

theorem memOk_leaveScan {s : State} (h : s.memOk = true) (k : Nat) :
    (s.leaveScan k).memOk = true := by
  unfold State.leaveScan
  exact memOk_onSegs h (fun _ _ h => h)

theorem memOk_dropPlan {s : State} (h : s.memOk = true) (k : Nat) :
    (s.dropPlan k).memOk = true := by
  unfold State.dropPlan
  split
  · split
    · exact memOk_onLive (memOk_leaveScan (memOk_freePassages h _) _) _ _
    · exact h
  · exact h

theorem memOk_discardHeld {s : State} (h : s.memOk = true) (k : Nat) :
    (s.discardHeld k).memOk = true := by
  unfold State.discardHeld
  split
  · exact memOk_onLive (memOk_charge h _ _) _ _
  · exact h

theorem memOk_pagesReturn {s : State} (h : s.memOk = true) (k : Nat) (stamp : Stamp) :
    (s.pagesReturn k stamp).memOk = true := by
  unfold State.pagesReturn
  split
  · refine memOk_ite h ?_
    split
    · split
      · exact memOk_releaseEntry (memOk_releaseEntry (memOk_onLive (memOk_returnPages h _ _ _) _ _) _) _
      · exact memOk_releaseEntry (memOk_onLive (memOk_returnPages h _ _ _) _ _) _
    · split
      · exact memOk_releaseEntry (memOk_onLive (memOk_returnPages h _ _ _) _ _) _
      · exact memOk_onLive (memOk_returnPages h _ _ _) _ _
  · exact h

theorem memOk_endSeq {s : State} (h : s.memOk = true) (k : Nat) (st : Status) (e : Stamp) :
    (s.endSeq k st e).memOk = true := by
  unfold State.endSeq
  split
  · refine memOk_ite h (memOk_ite (memOk_onSegs (memOk_onLive (memOk_discardHeld (memOk_dropPlan (memOk_unbind h _) _) _) _ _) ?_)
        (memOk_pagesReturn (memOk_onSegs (memOk_onLive (memOk_discardHeld (memOk_dropPlan (memOk_unbind h _) _) _) _ _) ?_) _ _)) <;>
        exact fun _ _ h => h
  · exact h

theorem memOk_failRequest {s : State} (h : s.memOk = true) (r : Request) (st : Status) (e : Stamp) :
    (s.failRequest r st e).memOk = true := by
  unfold State.failRequest
  exact memOk_sendRecord h _ _

theorem memOk_execCompletionRecordWrite {s : State} (h : s.memOk = true) (seq : Nat) :
    keepsMem (execCompletionRecordWrite seq s) := by
  unfold execCompletionRecordWrite
  split
  · exact keepsMem_onlyIf (memOk_ite (memOk_fields (memOk_ite (memOk_count h _) h)) (memOk_sendRecord (memOk_onLive (memOk_ite
        (memOk_count h _) h) _ _) _ _)) h
  · exact keepsMem_next h

theorem segMemOk_releaseSegment {g : Segment} (h : g.memOk = true) (beat : Nat) (i : Nat) :
    (releaseSegment beat i g).memOk = true := h

theorem memOk_coldKeys {s : State} (h : s.memOk = true) :
    s.coldKeys.memOk = true := by
  unfold State.coldKeys
  split
  · dsimp only
    exact memOk_fields (memOk_onSegs h (fun t x h => segMemOk_freshStackKeys h _ _ _))
  · dsimp only
    exact memOk_fields (memOk_onSegs h (fun t x h => segMemOk_freshStackKeys h _ _ _))

theorem memOk_stackKeysAt {s : State} (h : s.memOk = true) (i : Nat) :
    (s.stackKeysAt i).memOk = true := by
  unfold State.stackKeysAt
  refine memOk_ite ?_ h
  dsimp only
  exact memOk_fields (memOk_onSeg h (fun t h => segMemOk_freshStackKeys h _ _ _))

theorem memOk_bringUp {s : State} (h : s.memOk = true) :
    s.bringUp.memOk = true := by
  unfold State.bringUp
  dsimp only
  exact memOk_fields (memOk_ite (memOk_coldKeys (memOk_onSegs h (fun t x h => segMemOk_ite h (segMemOk_releaseSegment h _ _))))
      (memOk_onSegs h (fun t x h => segMemOk_ite h (segMemOk_releaseSegment h _ _))))

theorem memOk_coldRestart {s : State} (h : s.memOk = true) :
    s.coldRestart.memOk = true := by
  unfold State.coldRestart
  exact memOk_bringUp (memOk_coldReset h)

theorem memOk_warmRestart {s : State} (h : s.memOk = true) :
    s.warmRestart.memOk = true := by
  unfold State.warmRestart
  exact memOk_bringUp (memOk_warmReset h)

theorem memOk_sendStepRecord {s : State} (h : s.memOk = true) (p : Nat) (data : Nat) :
    (s.sendStepRecord p data).memOk = true := by
  unfold State.sendStepRecord
  exact memOk_ite (memOk_sendRecord h _ _) (memOk_count h _)

theorem memOk_recordStep {s : State} (h : s.memOk = true) (p : Nat) (c : Cls) (o : StepEnd) (e : Stamp) (tokens : Nat) (st : StepS) :
    (s.recordStep p c o e tokens st).memOk = true := by
  unfold State.recordStep
  exact memOk_sendStepRecord h _ _

theorem memOk_endTransfersOn {s : State} (h : s.memOk = true) (on : Nat → Bool) (p : Nat) (c : Cls) :
    (s.endTransfersOn on p c).memOk = true := by
  unfold State.endTransfersOn
  exact memOk_onSegs h (fun _ _ h => h)

theorem memOk_unreserve {s : State} (h : s.memOk = true) (stamp : Stamp) (b : Machine.Bind) :
    (s.unreserve stamp b).memOk = true := by
  unfold State.unreserve
  split
  · exact memOk_onLive (memOk_dropBlocks (memOk_returnPages h _ _ _) _ _) _ _
  · exact h

theorem memOk_endedBack {s : State} (h : s.memOk = true) (p : Nat) (c : Cls) (stamp : Stamp) :
    (s.endedBack p c stamp).memOk = true := by
  unfold State.endedBack
  exact memOk_foldl (fun t x h => memOk_pagesReturn h _ _) h

theorem memOk_clearStep {s : State} (h : s.memOk = true) (p : Nat) (c : Cls) (stamp : Stamp) :
    (s.clearStep p c stamp).memOk = true := by
  unfold State.clearStep
  split
  · exact memOk_endedBack (memOk_onLoop (memOk_endTransfersOn (memOk_onSegs (memOk_foldl (fun t x h => memOk_onLive (memOk_unreserve h
        _ _) _ _) h) (fun t x h => segMemOk_dropStepHere (segMemOk_undoStack h _ _) _ _ _)) _ _ _) _ _ _) _ _ _
  · exact h

theorem memOk_haltBe {s : State} (h : s.memOk = true) (p : Nat) (c : Cls) :
    (s.haltBe p c).memOk = true := by
  unfold State.haltBe
  exact memOk_ite (memOk_onLoop h _ _ _) h

theorem memOk_discardStep {s : State} (h : s.memOk = true) (p : Nat) (c : Cls) (o : StepEnd) (status : Status) (stamp : Stamp) :
    (s.discardStep p c o status stamp).memOk = true := by
  unfold State.discardStep
  split
  · split
    · exact memOk_recordStep (memOk_onLoop h _ _ _) _ _ _ _ _ _
    · split
      · exact memOk_ite (memOk_count (memOk_recordStep (memOk_haltBe (memOk_clearStep h _ _ _) _ _) _ _ _ _ _ _) _) (memOk_foldl (fun t
            x h => memOk_endSeq h _ _ _) (memOk_count (memOk_recordStep (memOk_haltBe (memOk_clearStep h _ _ _) _ _) _ _ _ _ _ _) _))
      · exact memOk_ite (memOk_recordStep (memOk_haltBe (memOk_clearStep h _ _ _) _ _) _ _ _ _ _ _) (memOk_foldl (fun t x h =>
            memOk_endSeq h _ _ _) (memOk_recordStep (memOk_haltBe (memOk_clearStep h _ _ _) _ _) _ _ _ _ _ _))
  · exact h

theorem memOk_dataPathError {s : State} (h : s.memOk = true) (cyc : Nat) (seg : Nat) (p : Nat) (c : Cls) :
    (s.dataPathError cyc seg p c).memOk = true := by
  unfold State.dataPathError
  split
  · refine memOk_ite (memOk_onSeg h ?_) (memOk_discardStep (memOk_given (memOk_onSeg h ?_) _) _ _ _ _ _) <;> exact fun _ h => h
  · exact memOk_onSeg h (fun _ h => h)

theorem memOk_tombstoneAll {s : State} (h : s.memOk = true) (p : Nat) (stamp : Stamp) :
    (s.tombstoneAll p stamp).memOk = true := by
  unfold State.tombstoneAll
  exact memOk_foldl (fun t x h => memOk_tombstone h _ (fun x0 x1 x2 h => memOk_returnPages h _ _ _)) h

theorem memOk_endWhere {s : State} (h : s.memOk = true) (pick : Sequence → Bool) (status : Status) (stamp : Stamp) :
    (s.endWhere pick status stamp).memOk = true := by
  unfold State.endWhere
  exact memOk_foldl (fun t x h => memOk_endSeq h _ _ _) h

theorem memOk_failQueued {s : State} (h : s.memOk = true) (p : Nat) (status : Status) (stamp : Stamp) :
    (s.failQueued p status stamp).memOk = true := by
  unfold State.failQueued
  exact memOk_onPart (memOk_foldl (fun t x h => memOk_failRequest h _ _ _) h) _ _

theorem memOk_stopPartition {s : State} (h : s.memOk = true) (p : Nat) (status : Status) (stamp : Stamp) :
    (s.stopPartition p status stamp).memOk = true := by
  unfold State.stopPartition
  exact memOk_onPart (memOk_tombstoneAll (memOk_endWhere (memOk_failQueued (memOk_onPart (memOk_discardStep (memOk_discardStep h _ _ _
      _ _) _ _ _ _ _) _ _) _ _ _) _ _ _) _ _) _ _

theorem memOk_unscreened {s : State} (h : s.memOk = true) (out : List Nat) :
    (s.unscreened out).memOk = true := by
  unfold State.unscreened
  exact memOk_foldl (fun t x h => memOk_discardHeld h _) h

theorem memOk_segsLeave {s : State} (h : s.memOk = true) (out : List Nat) (status : Status) (stamp : Stamp) :
    (s.segsLeave out status stamp).memOk = true := by
  unfold State.segsLeave
  exact memOk_endWhere (memOk_unscreened (memOk_foldl (fun t x h => memOk_ite (memOk_stopPartition h _ _ _) h) (memOk_foldl (fun t x h
      => memOk_foldl (fun t x h => memOk_ite (memOk_discardStep h _ _ _ _ _) h) h) h)) _) _ _ _

theorem memOk_raiseLost {s : State} (h : s.memOk = true) (i : Nat) (reason : Nat) (stamp : Stamp) :
    (s.raiseLost i reason stamp).memOk = true := by
  unfold State.raiseLost
  exact memOk_raise h _ _ _ _ _ _ _

theorem segMemOk_lostSegment {g : Segment} (h : g.memOk = true) (reason : Nat) :
    (lostSegment reason g).memOk = true := by
  unfold lostSegment
  dsimp only
  exact segMemOk_fields (segMemOk_resetSegment h _)

theorem memOk_dropStandby {s : State} (h : s.memOk = true) (i : Nat) :
    (s.dropStandby i).memOk = true := by
  unfold State.dropStandby
  refine memOk_ite ?_ (memOk_ite ?_ h) <;> exact h

theorem memOk_loseSegment {s : State} (h : s.memOk = true) (i : Nat) (reason : Nat) (stamp : Stamp) :
    (s.loseSegment i reason stamp).memOk = true := by
  unfold State.loseSegment
  exact memOk_count (memOk_raiseLost (memOk_dropStandby (memOk_onSeg (memOk_segsLeave h _ _ _) (fun t h => segMemOk_lostSegment h _))
      _) _ _ _) _

theorem memOk_gong {s : State} (h : s.memOk = true) (rec : Nat) :
    (s.gong rec).memOk = true := by
  unfold State.gong
  dsimp only
  refine memOk_fields ?_
  refine memOk_onSegs (memOk_coldReset h) ?_
  exact fun _ _ h => h

theorem memOk_loseManager {s : State} (h : s.memOk = true) (stamp : Stamp) :
    (s.loseManager stamp).memOk = true := by
  unfold State.loseManager
  exact memOk_ite h (memOk_gong h _)

theorem memOk_loseAny {s : State} (h : s.memOk = true) (i : Nat) (reason : Nat) (stamp : Stamp) :
    (s.loseAny i reason stamp).memOk = true := by
  unfold State.loseAny
  exact memOk_ite (memOk_loseManager h _) (memOk_loseSegment h _ _ _)

theorem memOk_onModule {s : State} (h : s.memOk = true) (i : Nat) (d : Dir) (f : ModuleS → ModuleS) :
    (s.onModule i d f).memOk = true := by
  unfold State.onModule
  exact memOk_onSeg h (fun _ h => h)

theorem memOk_onHub {s : State} (h : s.memOk = true) (i : Nat) (f : Hub → Hub) :
    (s.onHub i f).memOk = true := by
  unfold State.onHub
  exact memOk_onSeg h (fun _ h => h)

theorem memOk_hop {s : State} (h : s.memOk = true) (i : Nat) (j : Nat) :
    (s.hop i j).memOk = true := by
  unfold State.hop
  split
  · exact memOk_ite (memOk_onModule h _ _ _) h
  · exact h

theorem memOk_control {s : State} (h : s.memOk = true) (i : Nat) (d : Nat) :
    (s.control i d).memOk = true := by
  unfold State.control
  exact memOk_foldl (fun t x h => memOk_hop h _ _) h

theorem memOk_toStandby {s : State} (h : s.memOk = true) :
    s.toStandby.memOk = true := by
  unfold State.toStandby
  split
  · exact memOk_ite (memOk_control h _ _) h
  · exact h

theorem memOk_controlAll {s : State} (h : s.memOk = true) (l : List Nat) :
    (s.controlAll l).memOk = true := by
  unfold State.controlAll
  exact memOk_foldl (fun t x h => memOk_control h _ _) h

theorem memOk_readyStream {s : State} (h : s.memOk = true) (k : Nat) (slot : Nat) (out : Bool) :
    (s.readyStream k slot out).memOk = true := by
  unfold State.readyStream
  split
  · exact memOk_onSeg h (fun _ h => h)
  · exact h

theorem memOk_startStreams {s : State} (h : s.memOk = true) (k : Nat) (out : Bool) :
    (s.startStreams k out).memOk = true := by
  unfold State.startStreams
  split
  · dsimp only
    split
    · exact memOk_foldl (fun t x h => memOk_readyStream h _ _ _) (memOk_onLive h _ _)
    · exact memOk_onLive h _ _
  · exact h

theorem memOk_stepStream {s : State} (h : s.memOk = true) (seg : Nat) (j : SnareJob) :
    (s.stepStream seg j).memOk = true := by
  unfold State.stepStream
  split
  · split
    · exact memOk_segCount (memOk_onLive h _ _) _ _
    · exact h
  · exact h

theorem memOk_execGroupClose {s : State} (h : s.memOk = true) (seq : Nat) :
    keepsMem (execGroupClose seq s) := by
  unfold execGroupClose
  refine keepsMem_underForce h ?_
  intro t h
  split
  · exact keepsMem_onlyIf (memOk_onLive h _ _) h
  · exact keepsMem_next h

theorem memOk_execSnareStreamStart {s : State} (h : s.memOk = true) (seg : Nat) :
    keepsMem (execSnareStreamStart seg s) := by
  unfold execSnareStreamStart
  exact keepsMem_onlyIf (memOk_onSeg h (fun _ h => h)) h

theorem memOk_execSnareStreamEnd {s : State} (h : s.memOk = true) (seg : Nat) (lane : Nat) :
    keepsMem (execSnareStreamEnd seg lane s) := by
  unfold execSnareStreamEnd
  split
  · exact keepsMem_next (memOk_onSeg (memOk_stepStream h _ _) (fun _ h => h))
  · exact keepsMem_next h

theorem memOk_restartStream {s : State} (h : s.memOk = true) (j : SnareJob) :
    (s.restartStream j).memOk = true := by
  unfold State.restartStream
  exact memOk_onLive h _ _

theorem memOk_execSnareLaneError {s : State} (h : s.memOk = true) (seg : Nat) (lane : Nat) :
    keepsMem (execSnareLaneError seg lane s) := by
  unfold execSnareLaneError
  split
  · refine keepsMem_next (memOk_segCount (memOk_onSeg (memOk_restartStream h _) ?_) _ _)
    exact fun _ h => h
  · exact keepsMem_next h

theorem memOk_noteReady {s : State} (h : s.memOk = true) (k : Nat) :
    (s.noteReady k).memOk = true := by
  unfold State.noteReady
  exact memOk_onLive h _ _

theorem memOk_reportMatches {s : State} (h : s.memOk = true) (k : Nat) :
    (s.reportMatches k).memOk = true := by
  unfold State.reportMatches
  split
  · exact memOk_count (memOk_onLive h _ _) _
  · exact h

theorem memOk_execSnareMatchReport {s : State} (h : s.memOk = true) (seq : Nat) :
    keepsMem (execSnareMatchReport seq s) := by
  unfold execSnareMatchReport
  exact keepsMem_onlyIf (memOk_noteReady (memOk_reportMatches h _) _) h

theorem memOk_streamOut {s : State} (h : s.memOk = true) (k : Nat) (toks : List TokBack) :
    (s.streamOut k toks).memOk = true := by
  unfold State.streamOut
  split
  · exact memOk_ite h (memOk_foldl (fun t x h => memOk_sendRecord h _ _) (memOk_onLive h _ _))
  · exact h

theorem memOk_screenStops {s : State} (h : s.memOk = true) (k : Nat) (at_ : Stamp) :
    (s.screenStops k at_).memOk = true := by
  unfold State.screenStops
  split
  · exact memOk_ite (memOk_count (memOk_discardHeld h _) _) (memOk_count (memOk_endSeq h _ _ _) _)
  · exact h

theorem memOk_releaseTokens {s : State} (h : s.memOk = true) (k : Nat) (at_ : Stamp) (toks : List Held) :
    (s.releaseTokens k at_ toks).memOk = true := by
  unfold State.releaseTokens
  split
  · exact memOk_ite (memOk_screenStops (memOk_count (memOk_streamOut (memOk_onLive h _ _) _ _) _) _ _) (memOk_count (memOk_streamOut
        (memOk_onLive h _ _) _ _) _)
  · exact h

theorem memOk_planOverrun {s : State} (h : s.memOk = true) (q : Sequence) (pl : Plan) (at_ : Stamp) :
    (s.planOverrun q pl at_).memOk = true := by
  unfold State.planOverrun
  split
  · exact memOk_ite (memOk_count (memOk_raise h _ _ _ _ _ _ _) _) h
  · exact h

theorem memOk_releaseResults {s : State} (h : s.memOk = true) (k : Nat) (at_ : Stamp) :
    (s.releaseResults k at_).memOk = true := by
  unfold State.releaseResults
  split
  · split
    · exact memOk_ite h (memOk_endSeq (memOk_ite (memOk_foldl (fun t x h => memOk_sendRecord h _ _) (memOk_onLive (memOk_count
          (memOk_planOverrun h _ _ _) _) _ _)) (memOk_count (memOk_planOverrun h _ _ _) _)) _ _ _)
    · exact h
  · exact h

theorem memOk_endAtRelease {s : State} (h : s.memOk = true) (k : Nat) (at_ : Stamp) :
    (s.endAtRelease k at_).memOk = true := by
  unfold State.endAtRelease
  split
  · exact memOk_ite (memOk_endSeq h _ _ _) h
  · exact h

theorem memOk_releaseInput {s : State} (h : s.memOk = true) (k : Nat) (at_ : Stamp) :
    (s.releaseInput k at_).memOk = true := by
  unfold State.releaseInput
  split
  · exact memOk_ite (memOk_count (memOk_endSeq (memOk_onLive (memOk_count h _) _ _) _ _ _) _) (memOk_endAtRelease (memOk_releaseResults
        (memOk_onLive (memOk_count h _) _ _) _ _) _ _)
  · exact h

theorem memOk_inputAt {s : State} (h : s.memOk = true) (k : Nat) (at_ : Stamp) :
    (s.inputAt k at_).memOk = true := by
  unfold State.inputAt
  split
  · exact memOk_ite h (memOk_ite (memOk_releaseInput h _ _) (memOk_count (memOk_onLive h _ _) _))
  · exact h

theorem memOk_tokensAt {s : State} (h : s.memOk = true) (k : Nat) (at_ : Stamp) :
    (s.tokensAt k at_).memOk = true := by
  unfold State.tokensAt
  split
  · exact memOk_ite h (memOk_count (memOk_onLive (memOk_releaseTokens h _ _ _) _ _) _)
  · exact h

theorem memOk_releasesAt {s : State} (h : s.memOk = true) (at_ : Stamp) :
    (s.releasesAt at_).memOk = true := by
  unfold State.releasesAt
  exact memOk_given (memOk_foldl (fun t x h => memOk_tokensAt h _ _) (memOk_foldl (fun t x h => memOk_inputAt h _ _) h)) _

theorem memOk_execRelease {s : State} (h : s.memOk = true) (cyc : Nat) :
    keepsMem (execRelease cyc s) := by
  unfold execRelease
  split
  · exact keepsMem_onlyIf (memOk_releasesAt h _) h
  · exact keepsMem_next h

theorem memOk_lateInputAt {s : State} (h : s.memOk = true) (k : Nat) (at_ : Stamp) :
    (s.lateInputAt k at_).memOk = true := by
  unfold State.lateInputAt
  split
  · exact memOk_ite (memOk_releaseInput (memOk_count h _) _ _) h
  · exact h

theorem memOk_lateTokensAt {s : State} (h : s.memOk = true) (k : Nat) (at_ : Stamp) :
    (s.lateTokensAt k at_).memOk = true := by
  unfold State.lateTokensAt
  split
  · exact memOk_ite h (memOk_releaseTokens (memOk_count h _) _ _ _)
  · exact h

theorem memOk_execLateRelease {s : State} (h : s.memOk = true) (cyc : Nat) :
    keepsMem (execLateRelease cyc s) := by
  unfold execLateRelease
  exact keepsMem_onlyIf (memOk_given (memOk_foldl (fun t x h => memOk_lateTokensAt h _ _) (memOk_foldl (fun t x h => memOk_lateInputAt
      h _ _) h)) _) h

theorem memOk_refuseLaunch {s : State} (h : s.memOk = true) (p : Nat) (c : Cls) (program : Nat) (e : Stamp) :
    (s.refuseLaunch p c program e).memOk = true := by
  unfold State.refuseLaunch
  exact memOk_sendStepRecord h _ _

theorem memOk_execLaunch {s : State} (h : s.memOk = true) (cyc : Nat) (part : Nat) (cls : Cls) (program : Nat) (repeats : Nat) :
    keepsMem (execLaunch cyc part cls program repeats s) := by
  unfold execLaunch
  exact keepsMem_onlyIf (memOk_ite (memOk_onLoop (memOk_given h _) _ _ _) (memOk_refuseLaunch (memOk_given h _) _ _ _ _)) h

theorem memOk_execStop {s : State} (h : s.memOk = true) (cyc : Nat) (part : Nat) (cls : Cls) :
    keepsMem (execStop cyc part cls s) := by
  unfold execStop
  exact keepsMem_onlyIf (memOk_onLoop (memOk_given h _) _ _ _) h

theorem memOk_execStepDoorbellReservedOp {s : State} (h : s.memOk = true) (cyc : Nat) (part : Nat) (op : Nat) (cls : Cls) (program : Nat) :
    keepsMem (execStepDoorbellReservedOp cyc part op cls program s) := by
  unfold execStepDoorbellReservedOp
  exact keepsMem_onlyIf (memOk_refuseLaunch (memOk_given h _) _ _ _ _) h

theorem memOk_pauseBudget {s : State} (h : s.memOk = true) (k : Nat) :
    (s.pauseBudget k).memOk = true := by
  unfold State.pauseBudget
  split
  · exact memOk_ite (memOk_beginDimWrite (memOk_count (memOk_onLive h _ _) _) _) (memOk_count (memOk_onLive h _ _) _)
  · exact h

theorem memOk_pauseBudgets {s : State} (h : s.memOk = true) (p : Nat) (c : Cls) :
    (s.pauseBudgets p c).memOk = true := by
  unfold State.pauseBudgets
  exact memOk_foldl (fun t x h => memOk_pauseBudget h _) h

theorem memOk_reserveSets {s : State} (h : s.memOk = true) (p : Nat) (sets : Nat) (pages : Nat) (a' : FreezeAcc) :
    (s.reserveSets p sets pages a').2.memOk = true := by
  unfold State.reserveSets
  exact memOk_ite_snd h (memOk_ite_snd h (memOk_ite_snd (memOk_takePages (memOk_reclaim h _ _ _) _ _) (memOk_reclaim h _ _ _)))

theorem memOk_reserveSave {s : State} (h : s.memOk = true) (p : Nat) (k : Nat) (rows : Nat) (q : Sequence) (a' : FreezeAcc) :
    (s.reserveSave p k rows q a').2.memOk = true := by
  unfold State.reserveSave
  exact memOk_ite_snd (memOk_ite_snd (memOk_onLive (memOk_reserveSets h _ _ _ _) _ _) (memOk_reserveSets h _ _ _ _)) h

theorem memOk_bindRoot {acc : FreezeAcc × State} (h : acc.2.memOk = true) (p : Nat) (rows : Nat) (launchNo : Nat) (verify : Bool) (k :
    Nat) :
    (State.bindRoot p rows launchNo verify acc k).2.memOk = true := by
  unfold State.bindRoot
  dsimp only
  split
  · exact memOk_ite_snd h (memOk_ite_snd h (memOk_ite_snd (memOk_count h _) (memOk_ite_snd (memOk_count (memOk_reserveSets h _ _ _ _)
        _) (memOk_reserveSave (memOk_onLive (memOk_giveBlocks (memOk_reserveSets h _ _ _ _) _ _) _ _) _ _ _ _ _))))
  · exact h

theorem memOk_bindPrefill {acc : FreezeAcc × State} (h : acc.2.memOk = true) (p : Nat) (rows : Nat) (k : Nat) :
    (State.bindPrefill p rows acc k).2.memOk = true := by
  unfold State.bindPrefill
  dsimp only
  split
  · exact memOk_ite_snd h (memOk_reserveSave h _ _ _ _ _)
  · exact h

theorem memOk_bindSave {acc : FreezeAcc × State} (h : acc.2.memOk = true) (p : Nat) (k : Nat) :
    (State.bindSave p acc k).2.memOk = true := by
  unfold State.bindSave
  split
  · exact memOk_ite_snd h (memOk_reserveSave h _ _ _ _ _)
  · exact h

theorem memOk_bindStageE {acc : FreezeAcc × State} (h : acc.2.memOk = true) (p : Nat) (img : ProgramImage) (k : Nat) :
    (State.bindStageE p img acc k).2.memOk = true := by
  unfold State.bindStageE
  dsimp only
  split
  · refine memOk_ite_snd h (memOk_onLive (memOk_foldl ?_ h) _ _)
    intro t x h
    refine memOk_onSeg h ?_
    exact fun _ h => h
  · exact h

theorem memOk_bindStageR {acc : FreezeAcc × State} (h : acc.2.memOk = true) (p : Nat) (img : ProgramImage) (k : Nat) :
    (State.bindStageR p img acc k).2.memOk = true := by
  unfold State.bindStageR
  dsimp only
  split
  · split
    · exact memOk_ite_snd h (memOk_onLive h _ _)
    · exact h
  · exact h

theorem memOk_bindGroup {acc : FreezeAcc × State} (h : acc.2.memOk = true) (cap : Nat) (w : Nat × Machine.Group) :
    (State.bindGroup cap acc w).2.memOk = true := by
  unfold State.bindGroup
  split
  · exact memOk_ite_snd h (memOk_onLive h _ _)
  · exact h

theorem memOk_bindChunk {acc : FreezeAcc × State} (h : acc.2.memOk = true) (cap : Nat) (w : Nat × Sequence) :
    (State.bindChunk cap acc w).2.memOk = true := by
  unfold State.bindChunk
  exact memOk_ite_snd h (memOk_onLive h _ _)

theorem memOk_bindAll {s : State} (h : s.memOk = true) (p : Nat) (c : Cls) (img : ProgramImage) :
    (s.bindAll p c img).2.memOk = true := by
  unfold State.bindAll
  exact memOk_foldl_snd (fun t x h => memOk_bindStageR h _ _ _) (memOk_foldl_snd (fun t x h => memOk_bindStageE h _ _ _)
      (memOk_foldl_snd (fun t x h => memOk_bindSave h _ _) (memOk_foldl_snd (fun t x h => memOk_bindPrefill h _ _ _) (memOk_foldl_snd
      (fun t x h => memOk_bindRoot h _ _ _ _ _) h))))

theorem memOk_bindScreen {s : State} (h : s.memOk = true) (img : ProgramImage) :
    (s.bindScreen img).2.memOk = true := by
  unfold State.bindScreen
  exact memOk_foldl_snd (fun t x h => memOk_bindChunk h _ _) (memOk_foldl_snd (fun t x h => memOk_bindGroup h _ _) h)

theorem memOk_sendLaunch {s : State} (h : s.memOk = true) (p : Nat) (c : Cls) (g : Program) (a' : FreezeAcc) :
    (s.sendLaunch p c g a').memOk = true := by
  unfold State.sendLaunch
  split
  · dsimp only
    exact memOk_fields (memOk_onLoop (memOk_onSegs (memOk_controlAll h _) (fun t x h => segMemOk_ite (segMemOk_fields
        (segMemOk_freezeTrees h _ _)) h)) _ _ _)
  · dsimp only
    exact memOk_fields (memOk_onLoop (memOk_onSegs (memOk_controlAll h _) (fun t x h => segMemOk_ite (segMemOk_fields
        (segMemOk_freezeTrees h _ _)) h)) _ _ _)

theorem memOk_freeze {s : State} (h : s.memOk = true) (p : Nat) (c : Cls) (g : Program) :
    (s.freeze p c g).memOk = true := by
  unfold State.freeze
  exact memOk_sendLaunch (memOk_ite_snd (memOk_bindScreen (memOk_ite (memOk_replaceCopies h _ _) (memOk_pauseBudgets
      (memOk_replaceCopies h _ _) _ _)) _) (memOk_bindAll (memOk_ite (memOk_replaceCopies h _ _) (memOk_pauseBudgets
      (memOk_replaceCopies h _ _) _ _)) _ _ _)) _ _ _ _

theorem memOk_execFreeze {s : State} (h : s.memOk = true) (part : Nat) (cls : Cls) :
    keepsMem (execFreeze part cls s) := by
  unfold execFreeze
  refine keepsMem_underForce h ?_
  intro t h
  dsimp only
  split
  · refine keepsMem_onlyIf (memOk_ite (memOk_onLoop ?_ _ _ _) (memOk_freeze ?_ _ _ _)) h <;> exact h
  · exact keepsMem_next h

theorem memOk_execStepLaunch {s : State} (h : s.memOk = true) (part : Nat) (cls : Cls) :
    keepsMem (execStepLaunch part cls s) := by
  unfold execStepLaunch
  split
  · exact keepsMem_onlyIf (memOk_onSegs (memOk_onStep h _ _ _) (fun _ _ h => h)) h
  · exact keepsMem_next h

theorem segMemOk_keepRun {g : Segment} (h : g.memOk = true) (p : Nat) (c : Cls) (a' : Nat) (n : Nat) :
    (keepRun p c a' n g).memOk = true := h

theorem memOk_onSegStep {s : State} (h : s.memOk = true) (i : Nat) (p : Nat) (c : Cls) (f : SegStep → SegStep) :
    (s.onSegStep i p c f).memOk = true := by
  unfold State.onSegStep
  exact memOk_onSeg h (fun _ h => h)

theorem memOk_execCommitDescriptorReached {s : State} (h : s.memOk = true) (seg : Nat) (part : Nat) (cls : Cls) (reports : List
    StageReport) :
    keepsMem (execCommitDescriptorReached seg part cls reports s) := by
  unfold execCommitDescriptorReached
  dsimp only
  split
  · exact keepsMem_onlyIf (memOk_onStep (memOk_onSegStep (memOk_control h _ _) _ _ _ _) _ _ _) h
  · exact keepsMem_next h

theorem memOk_execHubClearReport {s : State} (h : s.memOk = true) (seg : Nat) (part : Nat) (cls : Cls) :
    keepsMem (execHubClearReport seg part cls s) := by
  unfold execHubClearReport
  exact keepsMem_onlyIf (memOk_onLoop (memOk_control h _ _) _ _ _) h

theorem memOk_execStepHang {s : State} (h : s.memOk = true) (part : Nat) (cls : Cls) :
    keepsMem (execStepHang part cls s) := by
  unfold execStepHang
  refine keepsMem_underForce h ?_
  intro t h
  split
  · exact keepsMem_onlyIf (memOk_discardStep (memOk_given h _) _ _ _ _ _) h
  · exact keepsMem_next h

theorem memOk_grant {s : State} (h : s.memOk = true) (seg : Nat) (p : Nat) (c : Cls) (units : Nat) (base : Nat) :
    (s.grant seg p c units base).memOk = true := by
  unfold State.grant
  exact memOk_onSeg h (fun _ h => h)

theorem memOk_abandonOn {s : State} (h : s.memOk = true) (seg : Nat) :
    (s.abandonOn seg).memOk = true := by
  unfold State.abandonOn
  split
  · split
    · exact memOk_endTransfersOn (memOk_onSeg h (fun t h => segMemOk_abandonHere h _ _)) _ _ _
    · exact h
  · exact h

theorem memOk_execStagingAllocate {s : State} (h : s.memOk = true) (seg : Nat) (part : Nat) (cls : Cls) (units : Nat) (base : Nat) :
    keepsMem (execStagingAllocate seg part cls units base s) := by
  unfold execStagingAllocate
  exact keepsMem_underForce h (fun t h => keepsMem_onlyIf (memOk_ite (memOk_grant (memOk_ite (memOk_abandonOn h _) h) _ _ _ _ _)
      (memOk_ite (memOk_abandonOn h _) h)) h)

theorem memOk_abandonMessages {s : State} (h : s.memOk = true) (p : Nat) :
    (s.abandonMessages p).memOk = true := by
  unfold State.abandonMessages
  exact memOk_foldl (fun t x h => memOk_control h _ _) h

theorem memOk_execAbandonReport {s : State} (h : s.memOk = true) (cyc : Nat) (part : Nat) :
    keepsMem (execAbandonReport cyc part s) := by
  unfold execAbandonReport
  split
  · exact keepsMem_onlyIf (memOk_onLoop (memOk_clearStep (memOk_controlAll (memOk_abandonMessages (memOk_given h _) _) _) _ _ _) _ _ _) h
  · exact keepsMem_next h

theorem memOk_execAbandonComplete {s : State} (h : s.memOk = true) (part : Nat) :
    keepsMem (execAbandonComplete part s) := by
  unfold execAbandonComplete
  split
  · split
    · exact keepsMem_onlyIf (memOk_recordStep (memOk_onLoop h _ _ _) _ _ _ _ _ _) h
    · exact keepsMem_next h
  · exact keepsMem_next h

theorem memOk_retireHead {s : State} (h : s.memOk = true) (seg : Nat) (arr : Arr) (p : Nat) (c : Cls) :
    (s.retireHead seg arr p c).memOk = true := by
  unfold State.retireHead
  split
  · split
    · exact memOk_ite (memOk_onSeg h (fun t h => segMemOk_retireSweep h _ _)) h
    · exact h
  · exact h

theorem memOk_retireEmpty {s : State} (h : s.memOk = true) (seg : Nat) (arr : Arr) :
    (s.retireEmpty seg arr).memOk = true := by
  unfold State.retireEmpty
  exact memOk_foldl (fun t x h => memOk_foldl (fun t x h => memOk_retireHead h _ _ _ _) h) h

theorem memOk_issuePass {s : State} (h : s.memOk = true) (seg : Nat) (arr : Arr) (r : PassRef) :
    (s.issuePass seg arr r).memOk = true := by
  unfold State.issuePass
  dsimp only
  exact memOk_onSeg h fun _ _ => segMemOk_fields (segMemOk_onStep (segMemOk_onArray (segMemOk_ite (segMemOk_restartHolder (memOk_seg h
      _) _ _) (memOk_seg h _)) _ _) _ _ _)

theorem memOk_execPassArm {s : State} (h : s.memOk = true) (seg : Nat) (arr : Arr) (stall : Nat) :
    keepsMem (execPassArm seg arr stall s) := by
  unfold execPassArm
  refine keepsMem_ite ?_ (keepsMem_next h)
  dsimp only
  split
  · split
    · exact keepsMem_fault _
    · exact keepsMem_next (memOk_onSeg (memOk_issuePass (memOk_retireEmpty h _ _) _ _ _) (fun t h => segMemOk_onArray h _ _))
  · exact keepsMem_next (memOk_retireEmpty h _ _)

theorem memOk_execTileLoadComplete {s : State} (h : s.memOk = true) (seg : Nat) (arr : Arr) (part : Nat) (cls : Cls) (slot : Nat) :
    keepsMem (execTileLoadComplete seg arr part cls slot s) := by
  unfold execTileLoadComplete
  dsimp only
  split
  · split
    · exact keepsMem_ite (keepsMem_next h) (keepsMem_ite (keepsMem_fault _) (keepsMem_ite (keepsMem_fault _) (keepsMem_next
          (memOk_onSeg h (fun t h => segMemOk_onArray h _ _)))))
    · exact keepsMem_next h
  · exact keepsMem_next h

theorem memOk_execStatisticsPass {s : State} (h : s.memOk = true) (seg : Nat) (part : Nat) (cls : Cls) (slot : Nat) :
    keepsMem (execStatisticsPass seg part cls slot s) := by
  unfold execStatisticsPass
  dsimp only
  split
  · exact keepsMem_onlyIf (memOk_onSeg h (fun t h => segMemOk_foldl (fun t x h => segMemOk_statsRow h _ _) h)) h
  · exact keepsMem_next h

theorem memOk_execSweepComplete {s : State} (h : s.memOk = true) (seg : Nat) (part : Nat) (cls : Cls) (slot : Nat) :
    keepsMem (execSweepComplete seg part cls slot s) := by
  unfold execSweepComplete
  dsimp only
  split
  · refine keepsMem_ite ?_ (keepsMem_next h)
    split
    · exact keepsMem_fault _
    · exact keepsMem_next (memOk_onSeg h (fun t h => segMemOk_completeSweep h _ _ _ _))
  · exact keepsMem_next h

theorem memOk_execResidueMismatch {s : State} (h : s.memOk = true) (cyc : Nat) (seg : Nat) (arr : Arr) (column : Nat) (part : Nat) (cls
    : Cls) :
    keepsMem (execResidueMismatch cyc seg arr column part cls s) := by
  unfold execResidueMismatch
  exact keepsMem_onlyIf (memOk_onSeg (memOk_dataPathError h _ _ _ _) (fun t h => segMemOk_onArray h _ _)) h

theorem memOk_arrayFailed {s : State} (h : s.memOk = true) (seg : Nat) (arr : Arr) (e : Stamp) :
    (s.arrayFailed seg arr e).memOk = true := by
  unfold State.arrayFailed
  exact memOk_ite (memOk_loseAny (memOk_raiseLost (memOk_onSeg h (fun t h => segMemOk_failArray h _)) _ _ _) _ _ _) (memOk_raiseLost
      (memOk_onSeg h (fun t h => segMemOk_failArray h _)) _ _ _)

theorem memOk_execColumnRemap {s : State} (h : s.memOk = true) (cyc : Nat) (seg : Nat) (arr : Arr) :
    keepsMem (execColumnRemap cyc seg arr s) := by
  unfold execColumnRemap
  exact keepsMem_onlyIf (memOk_ite (memOk_arrayFailed (memOk_given (memOk_onSeg h (fun t h => segMemOk_onArray h _ _)) _) _ _ _)
      (memOk_onSeg h (fun t h => segMemOk_onArray h _ _))) h

theorem memOk_raiseFenced {s : State} (h : s.memOk = true) (i : Nat) (reason : Nat) (e : Stamp) :
    (s.raiseFenced i reason e).memOk = true := by
  unfold State.raiseFenced
  exact memOk_raise h _ _ _ _ _ _ _

theorem memOk_farPrepared {s : State} (h : s.memOk = true) (far : List Nat) (e : Stamp) :
    (s.farPrepared far e).memOk = true := by
  unfold State.farPrepared
  exact memOk_foldl (fun t x h => memOk_raiseFenced h _ _ _) (memOk_onSegs h (fun t x h => segMemOk_ite (segMemOk_preparedSegment h) h))

theorem memOk_rejoinFar {s : State} (h : s.memOk = true) :
    s.rejoinFar.memOk = true := by
  unfold State.rejoinFar
  dsimp only
  exact memOk_fields (memOk_foldl (fun t x h => memOk_stackKeysAt h _) (memOk_onSegs h (fun t x h => segMemOk_ite (segMemOk_joinAgain h
      _ _) h)))

theorem memOk_endLive {s : State} (h : s.memOk = true) (rejoins : Bool) (e : Stamp) :
    (s.endLive rejoins e).memOk = true := by
  unfold State.endLive
  exact memOk_foldl (fun t x h => memOk_ite (memOk_endSeq h _ _ _) h) h

/-- A whole block whose segments' memories are canonical. -/
theorem memOk_of_whole {t : State} (hs : ∀ g ∈ t.segs, g.memOk = true) (ho : t.other = none) : t.memOk = true :=
  memOk_iff.2 ⟨hs, fun b hb => by rw [ho] at hb; cases hb⟩

/-- The block of split mode that has ended, whole again, before its half is prepared. -/
theorem memOk_wholeAgain {s : State} (h : s.memOk = true) {b : Block} (hb : s.other = some b) (roles : Roles) (mirror : Mirror) :
    State.memOk { s.withBlock b with other := none, segs := takeHalf b.roles.farHalf s.segs b.segs, roles := roles, mirror := mirror }
        = true :=
  memOk_of_whole (memOk_takeHalf (memOk_iff.1 h).1 ((memOk_iff.1 h).2 b hb)) rfl

theorem memOk_endSecond {s : State} (h : s.memOk = true) : s.endSecond.memOk = true := by
  unfold State.endSecond
  split
  next b hb =>
    have prepared := memOk_farPrepared (memOk_wholeAgain h hb { b.roles with splitState := 1 } { b.mirror with currentAtFence := false })
      b.roles.farHalf ⟨b.time.beat, 0⟩
    exact memOk_ite (memOk_rejoinFar prepared) prepared
  next => exact h

theorem memOk_waistTrained {s : State} (h : s.memOk = true) : s.waistTrained.memOk = true := by
  unfold State.waistTrained
  split
  next b hb =>
    obtain ⟨hs, ho⟩ := memOk_iff.1 (memOk_turn (memOk_endLive (memOk_turn h) true s.turn.edge))
    refine memOk_iff.2 ⟨hs, fun x hx => ?_⟩
    obtain ⟨y, hy, rfl⟩ := Option.map_eq_some_iff.1 hx
    exact ho y hy
  next => exact memOk_rejoinFar h

theorem memOk_secondEnds {s : State} (h : s.memOk = true) : s.secondEnds.memOk = true := by
  unfold State.secondEnds
  exact memOk_ite (memOk_ite (memOk_endSecond (memOk_endLive h _ _)) (memOk_endLive h _ _)) h

theorem memOk_onEp {s : State} (h : s.memOk = true) (e : Endpoint) (f : EndpointS → EndpointS) :
    (s.onEp e f).memOk = true := h

theorem memOk_putIn {s : State} (h : s.memOk = true) (e : Endpoint) (q : WordQ) :
    (s.putIn e q).memOk = true := by
  unfold State.putIn
  refine memOk_raiseQueue ?_ _ _ _
  split
  · exact memOk_onSeg h (fun _ h => h)
  · exact h

theorem memOk_putOut {s : State} (h : s.memOk = true) (e : Endpoint) (q : WordQ) :
    (s.putOut e q).memOk = true := by
  unfold State.putOut
  refine memOk_answerReads (memOk_raiseQueue ?_ _ _ _) _
  split
  · exact memOk_onSeg h (fun _ h => h)
  · exact h

theorem memOk_closeCycles {s : State} (h : s.memOk = true) :
    s.closeCycles.memOk = true := by
  unfold State.closeCycles
  exact memOk_closeRings (memOk_foldl (fun t x h => memOk_putOut (memOk_putIn h _ _) _ _) h)

theorem memOk_readQdata {s : State} (h : s.memOk = true) (port : Nat) (i : Nat) :
    (s.readQdata port i).memOk = true := by
  unfold State.readQdata
  exact memOk_ite (memOk_respond h _ _ _) (memOk_ite (memOk_onNq h _ _) (memOk_respond (memOk_onNq h _ _) _ _ _))

theorem keepsMem_onRequest {s : State} (h : s.memOk = true) (at_ : ReqAt) {f : State → State}
    (hf : ∀ t, t.memOk = true → (f t).memOk = true) : keepsMem (s.onRequest at_ f) := by
  unfold State.onRequest
  exact keepsMem_inBlockOf h (fun t ht => keepsMem_onlyIf (hf _ (memOk_acceptReq (memOk_onCycle ht _) _ _)) ht)

theorem memOk_execQdataRead {s : State} (h : s.memOk = true) (at_ : ReqAt) : keepsMem (execQdataRead at_ s) :=
  keepsMem_onRequest h at_ fun _ ht => memOk_readQdata ht _ _

theorem memOk_execQcontrolWrite {s : State} (h : s.memOk = true) (at_ : ReqAt) (word : Nat) : keepsMem (execQcontrolWrite at_ word s) :=
  keepsMem_onRequest h at_ fun _ ht => memOk_respond (memOk_onNq ht _ _) _ _ _

theorem memOk_execQueueFlush {s : State} (h : s.memOk = true) (at_ : ReqAt) : keepsMem (execQueueFlush at_ s) :=
  keepsMem_onRequest h at_ fun _ ht => memOk_respond (memOk_onNq ht _ _) _ _ _

theorem memOk_execQstatusClear {s : State} (h : s.memOk = true) (at_ : ReqAt) (word : Nat) : keepsMem (execQstatusClear at_ word s) :=
  keepsMem_onRequest h at_ fun _ ht => memOk_respond (memOk_onNq ht _ _) _ _ _

theorem memOk_route {s : State} (h : s.memOk = true) (rec : List QRead) :
    (s.route rec).memOk = true := by
  unfold State.route
  exact memOk_ite (memOk_count h _) (memOk_foldl (fun t x h => memOk_foldl (fun t x h => memOk_ntcWord h _ _) h) h)

theorem memOk_drainOwed {s : State} (h : s.memOk = true) (i : Nat) (l : List QEvent) : (State.drainOwed i l s).memOk = true := by
  induction l generalizing s with
  | nil => exact h
  | cons e l ih =>
    unfold State.drainOwed
    split
    · exact ih (memOk_route (memOk_onNq h _ _) _)
    · exact h

theorem memOk_sendNext {s : State} (h : s.memOk = true) (i : Nat) :
    (s.sendNext i).memOk = true := by
  unfold State.sendNext
  exact memOk_route (memOk_onNq h _ _) _

theorem memOk_drainOne {s : State} (h : s.memOk = true) (i : Nat) :
    (s.drainOne i).memOk = true := by
  unfold State.drainOne
  exact memOk_ite (memOk_sendNext h _) h

theorem memOk_drainAt {s : State} (h : s.memOk = true) (i : Nat) :
    (s.drainAt i).memOk = true := by
  unfold State.drainAt
  refine memOk_ite ?_ (memOk_drainOne (memOk_drainOwed h _ _) _)
  dsimp only
  exact memOk_fields (memOk_sendNext h _)

theorem memOk_execNoticeDrain {s : State} (h : s.memOk = true) (at_ : SegAt) :
    keepsMem (execNoticeDrain at_ s) := by
  unfold execNoticeDrain
  refine keepsMem_onlyIf ?_ h
  dsimp only
  exact memOk_fields (memOk_drainAt (memOk_closeCycles (memOk_onCycle h _)) _)

theorem memOk_markCandidates {s : State} (h : s.memOk = true) :
    s.markCandidates.memOk = true := h

theorem memOk_managerEdge {s : State} (h : s.memOk = true) :
    s.managerEdge.memOk = true := by
  unfold State.managerEdge
  refine memOk_ite (memOk_ite (memOk_sweepSet (memOk_foldl ?_ h)) (memOk_markCandidates (memOk_sweepSet (memOk_foldl ?_ h)))) h <;>
      exact fun _ _ h => h

theorem memOk_stageOne {s : State} (h : s.memOk = true) :
    s.stageOne.memOk = true := by
  unfold State.stageOne
  exact memOk_ite h h

theorem memOk_execBeatEdge {s : State} (h : s.memOk = true) (slewPs : ℤ) (temps : List ℤ) :
    keepsMem (execBeatEdge slewPs temps s) := by
  unfold execBeatEdge
  refine keepsMem_next (memOk_foldl ?_ (memOk_managerEdge (memOk_count (memOk_onSegs (memOk_stageOne (memOk_closeCycles ?_)) ?_) _)))
  · intro t x h
    exact memOk_loseAny h _ _ _
  · refine memOk_fields ?_
    exact memOk_secondEnds (memOk_turn h)
  · exact fun _ _ h => h

theorem memOk_execPpsEdge {s : State} (h : s.memOk = true) (seg : Nat) (tod : List TodWord) (inTime : Bool) (offsetNs : ℤ) :
    keepsMem (execPpsEdge seg tod inTime offsetNs s) := by
  unfold execPpsEdge
  refine keepsMem_ite (keepsMem_next ?_) (keepsMem_next (memOk_ite ?_ (memOk_onSeg h ?_)))
  · refine memOk_fields ?_
    refine memOk_onSegs (memOk_onSeg h ?_) ?_
    · exact fun _ h => h
    · exact fun _ _ h => h
  · refine memOk_fields ?_
    refine memOk_onSeg h ?_
    exact fun _ h => h
  · exact fun _ h => h

theorem memOk_execRefLost {s : State} (h : s.memOk = true) (seg : Nat) (_cause : RefLoss) :
    keepsMem (execRefLost seg _cause s) := by
  unfold execRefLost
  refine keepsMem_next (memOk_ite (memOk_raise ?_ _ _ _ _ _ _ _) (memOk_onSeg h ?_))
  · refine memOk_fields ?_
    refine memOk_onSeg h ?_
    exact fun _ h => h
  · exact fun _ h => h

theorem memOk_execRefRestored {s : State} (h : s.memOk = true) (offsetNs : ℤ) :
    keepsMem (execRefRestored offsetNs s) := by
  unfold execRefRestored
  exact keepsMem_onlyIf (memOk_onSeg h (fun _ h => h)) h

theorem memOk_execRefConverged {s : State} (h : s.memOk = true) :
    keepsMem (execRefConverged s) := by
  unfold execRefConverged
  refine keepsMem_onlyIf (memOk_raise ?_ _ _ _ _ _ _ _) h
  exact h

theorem memOk_execBeatSourceChange {s : State} (h : s.memOk = true) (seg : Nat) (skewNs : ℤ) :
    keepsMem (execBeatSourceChange seg skewNs s) := by
  unfold execBeatSourceChange
  refine keepsMem_onlyIf (memOk_raise (memOk_onSeg h ?_) _ _ _ _ _ _ _) h
  exact fun _ h => h

theorem memOk_execTokenRefill {s : State} (h : s.memOk = true) :
    keepsMem (execTokenRefill s) := by
  unfold execTokenRefill
  exact keepsMem_underForce h (fun t h => keepsMem_onlyIf (memOk_markCandidates h) h)

theorem segMemOk_sendHeartbeat {g : Segment} (h : g.memOk = true) (beat : Nat) :
    (sendHeartbeat beat g).memOk = true := h

theorem memOk_execHeartbeat {s : State} (h : s.memOk = true) :
    keepsMem (execHeartbeat s) := by
  unfold execHeartbeat
  refine keepsMem_onlyIf (memOk_controlAll (memOk_onSegs h ?_) _) h
  intro t x h
  refine segMemOk_ite ?_ (segMemOk_sendHeartbeat h _)
  exact h

theorem memOk_execHeartbeatReceive {s : State} (h : s.memOk = true) (seg : Nat) (stampBeat : Nat) :
    keepsMem (execHeartbeatReceive seg stampBeat s) := by
  unfold execHeartbeatReceive
  refine keepsMem_onlyIf (memOk_ite (memOk_settleReads (memOk_onSeg (memOk_control h _ _) ?_)) (memOk_onSeg (memOk_control h _ _) ?_))
      h <;> exact fun _ h => h

theorem memOk_execHeartbeatAckTimeout {s : State} (h : s.memOk = true) (cyc : Nat) (seg : Nat) :
    keepsMem (execHeartbeatAckTimeout cyc seg s) := by
  unfold execHeartbeatAckTimeout
  exact keepsMem_onlyIf (memOk_loseSegment (memOk_given h _) _ _ _) h

theorem memOk_mirrorCommit {s : State} (h : s.memOk = true) :
    s.mirrorCommit.memOk = true := by
  unfold State.mirrorCommit
  split
  · dsimp only
    exact memOk_fields (memOk_control h _ _)
  · exact h

theorem memOk_execMirrorDeltaApply {s : State} (h : s.memOk = true) (seqNo : Nat) :
    keepsMem (execMirrorDeltaApply seqNo s) := by
  unfold execMirrorDeltaApply
  split
  · split
    · refine keepsMem_next ?_
      dsimp only
      exact memOk_fields (memOk_control h _ _)
    · exact keepsMem_next h
  · exact keepsMem_next h

theorem memOk_execMirrorCopyComplete {s : State} (h : s.memOk = true) :
    keepsMem (execMirrorCopyComplete s) := by
  unfold execMirrorCopyComplete
  exact keepsMem_onlyIf h h

theorem memOk_onSpan {s : State} (h : s.memOk = true) (id : Nat) (f : SpanSession → SpanSession) :
    (s.onSpan id f).memOk = true := h

theorem memOk_spanPost {s : State} (h : s.memOk = true) (id : Nat) (type : Nat) (length : Nat) (records : Nat) (payload : List Nat →
    List Nat) :
    (s.spanPost id type length records payload).memOk = true := by
  unfold State.spanPost
  split <;> exact h

theorem memOk_spanSend {s : State} (h : s.memOk = true) (id : Nat) (type : Nat) (records : Nat) (body : List Nat) :
    (s.spanSend id type records body).memOk = true := by
  unfold State.spanSend
  exact memOk_spanPost h _ _ _ _ _

theorem memOk_spanSendAll {s : State} (h : s.memOk = true) (id : Nat) (type : Nat) (records : List (List Nat)) :
    (s.spanSendAll id type records).memOk = true := by
  unfold State.spanSendAll
  exact memOk_foldl (fun t x h => memOk_spanSend h _ _ _ _) h

theorem memOk_execKernelStart {s : State} (h : s.memOk = true) (seg : Nat) (part : Nat) (cls : Cls) (slot : Nat) :
    keepsMem (execKernelStart seg part cls slot s) := by
  unfold execKernelStart
  dsimp only
  split
  · exact keepsMem_ite (keepsMem_next (memOk_ite (memOk_onSeg (memOk_ite (memOk_abandonOn h _) h) (fun _ h => h)) (memOk_ite
        (memOk_abandonOn h _) h))) (keepsMem_next h)
  · exact keepsMem_next h

theorem memOk_kernelWork {s : State} (h : s.memOk = true) (seg p : Nat) (c : Cls) (use : DmaUse) (launchNo : Nat) (excl : List Nat)
    (t : SegStep) (inputs : List Nat) (w : KernelWork) : (s.kernelWork seg p c use launchNo excl t inputs w).memOk = true := by
  unfold State.kernelWork
  split
  · refine memOk_onSeg h ?_
    exact fun g h => segMemOk_staging h (wf_memWriteBytes _ _ _ (memOk_segment.1 h).1)
  · refine memOk_onSeg h ?_
    exact fun g h => segMemOk_writeStack h _ _ _ _
  · exact memOk_dma h _ _
  · refine memOk_onSeg h ?_
    exact fun g h => segMemOk_writeElems h _ _ _ _
  · refine memOk_onSeg h ?_
    exact fun g h => segMemOk_recordRow h _ _ _ _
  · split
    · refine memOk_onSeg h ?_
      exact fun g h => segMemOk_writeElems h _ _ _ _
    · exact h
  · split
    · refine memOk_segCount (memOk_onSeg (memOk_onSegStep h _ _ _ _) ?_) _ _
      exact fun g h => h
    · exact h

theorem memOk_kernelDone {s : State} (h : s.memOk = true) (seg : Nat) (part : Nat) (cls : Cls) (slot : Nat) (k : Kernel) (st : StepS)
    (h' : SegStep) (work : List KernelWork) (host : List Nat) :
    (s.kernelDone seg part cls slot k st h' work host).memOk = true := by
  unfold State.kernelDone
  exact memOk_foldl (fun t x h => memOk_kernelWork h _ _ _ _ _ _ _ _ _) h

theorem memOk_execKernelComplete {s : State} (h : s.memOk = true) (seg : Nat) (part : Nat) (cls : Cls) (slot : Nat) (issueCycles : Nat)
    (work : KernelDone) :
    keepsMem (execKernelComplete seg part cls slot issueCycles work s) := by
  unfold execKernelComplete
  split
  · refine keepsMem_onlyIf (memOk_segCount (memOk_onSeg ?_ ?_) _ _) h
    · refine memOk_fields ?_
      exact memOk_kernelDone h _ _ _ _ _ _ _ _ _
    · exact fun _ h => h
  · exact keepsMem_next h

theorem memOk_execKernelFault {s : State} (h : s.memOk = true) (cyc : Nat) (seg : Nat) (part : Nat) (cls : Cls) (slot : Nat) (cause :
    KernelCause) :
    keepsMem (execKernelFault cyc seg part cls slot cause s) := by
  unfold execKernelFault
  split
  · refine keepsMem_onlyIf (memOk_dataPathError (memOk_segCount (memOk_onSeg h ?_) _ _) _ _ _ _) h
    exact fun _ h => h
  · exact keepsMem_next h

theorem memOk_execKernelBoundExceeded {s : State} (h : s.memOk = true) (seg : Nat) (part : Nat) (cls : Cls) (slot : Nat) :
    keepsMem (execKernelBoundExceeded seg part cls slot s) := by
  unfold execKernelBoundExceeded
  split
  · refine keepsMem_onlyIf (memOk_segCount (memOk_onSeg h ?_) _ _) h
    exact fun _ h => h
  · exact keepsMem_next h

theorem memOk_holdFrame {s : State} (h : s.memOk = true) (i : Nat) (came : Option (Dir × Bool)) (f : Frame) :
    (s.holdFrame i came f).memOk = true := by
  unfold State.holdFrame
  exact memOk_onHub h _ _

theorem memOk_queueFrame {s : State} (h : s.memOk = true) (i : Nat) (d : Dir) (detour : Bool) (came : Option (Dir × Bool)) (f : Frame) :
    (s.queueFrame i d detour came f).memOk = true := by
  unfold State.queueFrame
  exact memOk_onHub h _ _

theorem memOk_sendFrame {s : State} (h : s.memOk = true) (i : Nat) (detour : Bool) (came : Option (Dir × Bool)) (f : Frame) :
    (s.sendFrame i detour came f).memOk = true := by
  unfold State.sendFrame
  refine memOk_ite (memOk_ite ?_ (memOk_holdFrame h _ _ _)) (memOk_ite (memOk_holdFrame h _ _ _) (memOk_queueFrame h _ _ _ _ _))
  split
  · split
    · exact memOk_queueFrame h _ _ _ _ _
    · exact h
  · exact h

theorem memOk_coded {s : State} (h : s.memOk = true) (seg : Nat) (stream : Nat) (c : Coded) :
    (s.coded seg stream c).memOk = true := by
  unfold State.coded
  exact memOk_segCount (memOk_onHub h _ _) _ _

theorem memOk_landChunk {s : State} (h : s.memOk = true) (seg slot src w2 : Nat) (f : Frame) :
    (s.landChunk seg slot src w2 f).memOk = true := by
  unfold State.landChunk
  exact memOk_onSegStep (memOk_onSeg h (fun g h => segMemOk_staging h (wf_memWriteBytes _ _ _ (memOk_segment.1 h).1))) _ _ _ _

theorem memOk_sendDown {s : State} (h : s.memOk = true) (seg : Nat) (children : List Nat) (f : Frame) :
    (s.sendDown seg children f).memOk = true := by
  unfold State.sendDown
  exact memOk_foldl (fun t x h => memOk_sendFrame h _ _ _ _) h

theorem memOk_finishSlot {s : State} (h : s.memOk = true) (seg : Nat) (img : ProgramImage) (launchNo : Nat) (t : Nat × Nat × Nat) (k :
    CombSlot) :
    (s.finishSlot seg img launchNo t k).memOk = true := by
  unfold State.finishSlot
  split
  · dsimp only
    split
    · exact memOk_sendFrame (memOk_onHub (memOk_coded h _ _ _) _ _) _ _ _ _
    · exact memOk_ite (memOk_sendDown (memOk_landChunk (memOk_onHub (memOk_coded h _ _ _) _ _) _ _ _ _ _) _ _ _) (memOk_landChunk
          (memOk_onHub (memOk_coded h _ _ _) _ _) _ _ _ _ _)
  · dsimp only
    split
    · exact memOk_sendFrame (memOk_onHub (memOk_coded h _ _ _) _ _) _ _ _ _
    · exact memOk_ite (memOk_sendDown (memOk_landChunk (memOk_onHub (memOk_coded h _ _ _) _ _) _ _ _ _ _) _ _ _) (memOk_landChunk
          (memOk_onHub (memOk_coded h _ _ _) _ _) _ _ _ _ _)

theorem memOk_offer {s : State} (h : s.memOk = true) (seg : Nat) (img : ProgramImage) (launchNo : Nat) (t : Nat × Nat × Nat) (came :
    Option (Dir × Bool)) (f : Frame) :
    (s.offer seg img launchNo t came f).memOk = true := by
  unfold State.offer
  exact memOk_ite (memOk_onHub h _ _) (memOk_ite (memOk_finishSlot (memOk_segCount (memOk_onHub h _ _) _ _) _ _ _ _ _) (memOk_segCount
      (memOk_onHub h _ _) _ _))

theorem memOk_accept {s : State} (h : s.memOk = true) (seg : Nat) (came : Option (Dir × Bool)) (f : Frame) :
    (s.accept seg came f).memOk = true := by
  unfold State.accept
  split
  · dsimp only
    split
    · refine memOk_ite (memOk_segCount h _ _) ?_
      split
      · exact memOk_sendDown (memOk_landChunk h _ _ _ _ _) _ _ _
      · exact memOk_segCount h _ _
    · exact memOk_segCount h _ _
  · dsimp only
    split
    · refine memOk_ite (memOk_segCount h _ _) ?_
      split
      · exact memOk_ite (memOk_offer h _ _ _ _ _ _) (memOk_landChunk h _ _ _ _ _)
      · exact memOk_segCount h _ _
    · exact memOk_segCount h _ _

theorem memOk_drainWaiting {s : State} (h : s.memOk = true) (seg n : Nat) : (State.drainWaiting seg n s).memOk = true := by
  induction n generalizing s with
  | zero => exact h
  | succ n ih =>
    unfold State.drainWaiting
    dsimp only
    split
    · exact h
    · exact ih (memOk_foldl (fun t x h => memOk_accept h _ _ _) (memOk_onHub h _ _))

theorem memOk_slotsFreed {s : State} (h : s.memOk = true) (seg : Nat) :
    (s.slotsFreed seg).memOk = true := by
  unfold State.slotsFreed
  exact memOk_drainWaiting h _ _

theorem memOk_spanRecords {s : State} (h : s.memOk = true) (w : Nat) (w2 : Nat) (l : List Frame) :
    (s.spanRecords w w2 l).memOk = true := by
  unfold State.spanRecords
  split
  · exact memOk_spanSendAll h _ _ _
  · exact h

theorem memOk_arrive {s : State} (h : s.memOk = true) (seg : Nat) (came : Option (Dir × Bool)) (f : Frame) :
    (s.arrive seg came f).memOk = true := by
  unfold State.arrive
  split
  · split
    · split
      · dsimp only
        split
        · exact memOk_spanRecords h _ _ _
        · exact memOk_slotsFreed (memOk_accept h _ _ _) _
      · dsimp only
        split
        · exact memOk_accept h _ _ _
        · exact memOk_slotsFreed (memOk_accept h _ _ _) _
    · exact memOk_slotsFreed (memOk_accept h _ _ _) _
  · exact memOk_slotsFreed (memOk_accept h _ _ _) _

theorem memOk_sendChunk {s : State} (h : s.memOk = true) (seg : Nat) (st : StepS) (x : Nat × Nat × Nat) (i : Nat) :
    (s.sendChunk seg st x i).memOk = true := by
  unfold State.sendChunk
  exact memOk_ite (memOk_offer (memOk_coded h _ _ _) _ _ _ _ _ _) (memOk_ite (memOk_sendFrame (memOk_coded h _ _ _) _ _ _ _)
      (memOk_foldl (fun t x h => memOk_ite (memOk_landChunk h _ _ _ _ _) (memOk_sendFrame h _ _ _ _)) (memOk_coded h _ _ _)))

theorem memOk_sendSpan {s : State} (h : s.memOk = true) (seg : Nat) (st : StepS) (x : Nat × Nat × Nat) :
    (s.sendSpan seg st x).memOk = true := by
  unfold State.sendSpan
  exact memOk_spanRecords (memOk_foldl (fun t x h => memOk_coded h _ _ _) h) _ _ _

theorem memOk_useStream {s : State} (h : s.memOk = true) (n : Nat) :
    (s.useStream n).memOk = true := h

theorem memOk_startTransfer {s : State} (h : s.memOk = true) (seg : Nat) (p : Nat) (c : Cls) (st : StepS) (x : Nat × Nat × Nat) :
    (s.startTransfer seg p c st x).memOk = true := by
  unfold State.startTransfer
  exact memOk_ite (memOk_dma h _ _) (memOk_ite (memOk_dma h _ _) (memOk_ite (memOk_ite (memOk_sendSpan (memOk_useStream h _) _ _ _)
      (memOk_slotsFreed (memOk_foldl (fun t x h => memOk_sendChunk h _ _ _ _) (memOk_useStream h _)) _)) h))

theorem memOk_execDescriptorIssue {s : State} (h : s.memOk = true) (seg : Nat) (part : Nat) (cls : Cls) (slot : Nat) :
    keepsMem (execDescriptorIssue seg part cls slot s) := by
  unfold execDescriptorIssue
  dsimp only
  split
  · refine keepsMem_ite (keepsMem_ite ?_ (keepsMem_next (memOk_onSegStep h _ _ _ _))) (keepsMem_next h)
    split
    · exact keepsMem_fault _
    · exact keepsMem_next (memOk_startTransfer (memOk_onSegStep h _ _ _ _) _ _ _ _ _)
  · exact keepsMem_next h

theorem memOk_takeFrame {s : State} (h : s.memOk = true) (j : Nat) (d : Dir) (t : TxFrame) :
    (s.takeFrame j d t).memOk = true := by
  unfold State.takeFrame
  exact memOk_onHub h _ _

theorem memOk_takeWaiting {s : State} (h : s.memOk = true) (seg : Nat) (f : Frame) :
    (s.takeWaiting seg f).memOk = true := by
  unfold State.takeWaiting
  dsimp only
  split
  · exact memOk_ite (memOk_slotsFreed (memOk_accept (memOk_onHub h _ _) _ _ _) _) h
  · exact h

theorem memOk_execKlfFrameReceive {s : State} (h : s.memOk = true) (seg : Nat) (frame : Frame) :
    keepsMem (execKlfFrameReceive seg frame s) := by
  unfold execKlfFrameReceive
  split
  · exact keepsMem_onlyIf (memOk_ite (memOk_arrive (memOk_takeFrame h _ _ _) _ _ _) (memOk_sendFrame (memOk_takeFrame h _ _ _) _ _ _ _)) h
  · exact keepsMem_next (memOk_takeWaiting h _ _)

theorem memOk_execTransferComplete {s : State} (h : s.memOk = true) (seg : Nat) (part : Nat) (cls : Cls) (slot : Nat) (hostData : List
    Nat) :
    keepsMem (execTransferComplete seg part cls slot hostData s) := by
  unfold execTransferComplete
  dsimp only
  split
  · exact keepsMem_onlyIf (memOk_onSeg h (fun t h => segMemOk_onStep (segMemOk_moveBytes (segMemOk_ite (segMemOk_keepRun h _ _ _ _) h)
        _ _ _) _ _ _)) h
  · exact keepsMem_next h

theorem memOk_waistCut {s : State} (h : s.memOk = true) (e : Stamp) :
    (s.waistCut e).memOk = true := by
  unfold State.waistCut
  refine memOk_count (memOk_raise ?_ _ _ _ _ _ _ _) _
  refine memOk_fields ?_
  refine memOk_segsLeave (memOk_raise ?_ _ _ _ _ _ _ _) _ _ _
  exact h

theorem memOk_trainLink {s : State} (h : s.memOk = true) (seg : Nat) (j : Nat) (d : Dir) :
    (s.trainLink seg j d).memOk = true := by
  unfold State.trainLink
  dsimp only
  exact memOk_fields (memOk_onModule (memOk_onModule h _ _ _) _ _ _)

theorem memOk_moduleFailed {s : State} (h : s.memOk = true) (i : Nat) (d : Dir) (reason : Nat) (e : Stamp) :
    (s.moduleFailed i d reason e).memOk = true := by
  unfold State.moduleFailed
  refine memOk_ite (memOk_waistCut (memOk_onSegs ?_ ?_) _) (memOk_onSegs ?_ ?_)
  · split
    · exact memOk_onHub (memOk_onHub h _ _) _ _
    · exact memOk_onHub h _ _
  · exact fun _ _ h => h
  · split
    · exact memOk_onHub (memOk_onHub h _ _) _ _
    · exact memOk_onHub h _ _
  · exact fun _ _ h => h

theorem memOk_execLinkDown {s : State} (h : s.memOk = true) (seg : Nat) (dir : Dir) :
    keepsMem (execLinkDown seg dir s) := by
  unfold execLinkDown
  split
  · exact keepsMem_onlyIf (memOk_onModule (memOk_onModule h _ _ _) _ _ _) h
  · exact keepsMem_next h

theorem memOk_frameError {s : State} (h : s.memOk = true) (cyc : Nat) (seg : Nat) (f : Frame) :
    (s.frameError cyc seg f).memOk = true := by
  unfold State.frameError
  exact memOk_ite (memOk_dataPathError h _ _ _ _) (memOk_onSeg h (fun _ h => h))

theorem memOk_loseInLink {s : State} (h : s.memOk = true) (cyc : Nat) (seg : Nat) (j : Nat) (d : Dir) (out : Nat) (back : Nat) :
    (s.loseInLink cyc seg j d out back).memOk = true := by
  unfold State.loseInLink
  exact memOk_foldl (fun t x h => memOk_frameError h _ _ _) (memOk_foldl (fun t x h => memOk_frameError h _ _ _) (memOk_foldl (fun t x
      h => memOk_onHub h _ _) (memOk_foldl (fun t x h => memOk_onHub h _ _) h)))

theorem memOk_raiseLink {s : State} (h : s.memOk = true) (e : Stamp) (x : Nat × Dir) :
    (s.raiseLink e x).memOk = true := by
  unfold State.raiseLink
  exact memOk_onModule (memOk_raise h _ _ _ _ _ _ _) _ _ _

theorem memOk_unauthentic {s : State} (h : s.memOk = true) (seg : Nat) (dir : Dir) (e : Stamp) :
    (s.unauthentic seg dir e).memOk = true := by
  unfold State.unauthentic
  exact memOk_raiseLink (memOk_moduleFailed h _ _ _ _) _ _

theorem memOk_execLinkRetrainingEnd {s : State} (h : s.memOk = true) (cyc : Nat) (seg : Nat) (dir : Dir) (outcome : Retraining) :
    keepsMem (execLinkRetrainingEnd cyc seg dir outcome s) := by
  unfold execLinkRetrainingEnd
  split
  · refine keepsMem_onlyIf ?_ h
    split
    · exact memOk_ite (memOk_trainLink h _ _ _) (memOk_unauthentic (memOk_given h _) _ _ _)
    · exact memOk_moduleFailed (memOk_loseInLink (memOk_given h _) _ _ _ _ _ _) _ _ _ _
  · exact keepsMem_next h

theorem memOk_trafficError {s : State} (h : s.memOk = true) (cyc : Nat) (seg : Nat) (a' : LinkTraffic) :
    (s.trafficError cyc seg a').memOk = true := by
  unfold State.trafficError
  split
  · exact memOk_frameError h _ _ _
  · exact memOk_ite (memOk_onSeg h (fun _ h => h)) (memOk_foldl (fun t x h => memOk_dataPathError h _ _ _ _) h)

theorem memOk_failedFrame {s t : State} (h : s.memOk = true) {seg j : Nat} {d : Dir} {f : LinkTraffic} (ht : s.failedFrame seg j d f =
    some t) :
    t.memOk = true := by
  unfold State.failedFrame at ht
  split at ht
  · split at ht
    · split at ht
      · obtain rfl := Option.some.inj ht
        exact memOk_takeFrame h _ _ _
      · cases ht
    · cases ht
  · split at ht
    · obtain rfl := Option.some.inj ht
      exact memOk_onModule h _ _ _
    · cases ht

theorem memOk_execLinkTagFailure {s : State} (h : s.memOk = true) (cyc seg : Nat) (dir : Dir) (failure : TagFailure) :
    keepsMem (execLinkTagFailure cyc seg dir failure s) := by
  unfold execLinkTagFailure
  split
  · split
    next t ht =>
      have gone := memOk_failedFrame h ht
      exact keepsMem_next (memOk_ite (memOk_moduleFailed (memOk_loseInLink (memOk_given (memOk_trafficError (memOk_segCount
          (memOk_onModule gone _ _ _) _ _) _ _ _) _) _ _ _ _ _ _) _ _ _ _) (memOk_trafficError (memOk_segCount (memOk_onModule gone _ _
          _) _ _) _ _ _))
    next => exact keepsMem_next h
  · exact keepsMem_next h

theorem memOk_reroute {s : State} (h : s.memOk = true) (i : Nat) :
    (s.reroute i).memOk = true := by
  unfold State.reroute
  exact memOk_foldl (fun t x h => memOk_sendFrame h _ _ _ _) (memOk_onHub h _ _)

theorem memOk_execDetourInstall {s : State} (h : s.memOk = true) (cyc : Nat) :
    keepsMem (execDetourInstall cyc s) := by
  unfold execDetourInstall
  exact keepsMem_onlyIf (memOk_foldl (fun t x h => memOk_loseSegment h _ _ _) (memOk_foldl (fun t x h => memOk_reroute h _)
      (memOk_foldl (fun t x h => memOk_raiseLink h _ _) (memOk_controlAll (memOk_given h _) _)))) h

theorem memOk_execLinkRekey {s : State} (h : s.memOk = true) (seg : Nat) (dir : Dir) :
    keepsMem (execLinkRekey seg dir s) := by
  unfold execLinkRekey
  exact keepsMem_onlyIf (memOk_onModule h _ _ _) h

theorem memOk_note {d : Draft} (h : d.s.memOk = true) (index : Nat) (sub : Nat) (element : Nat) (reason : Nat) (written : Nat) :
    (d.note index sub element reason written).s.memOk = true := by
  unfold Draft.note
  exact memOk_ite_draft h h

theorem memOk_setTo {d : Draft} (h : d.s.memOk = true) (set : List (Nat × Nat × List Nat)) (index : Nat) (sub : Nat) (reason : Nat) (v
    : Nat) :
    (d.setTo set index sub reason v).s.memOk = true := by
  unfold Draft.setTo
  split
  next f hf =>
    have moved := memOk_fieldSet hf h v
    split
    · exact h
    · split <;> exact memOk_note moved _ _ _ _ _
  next => exact h

theorem memOk_keep {d : Draft} (h : d.s.memOk = true) (set : List (Nat × Nat × List Nat)) (old : State) (index : Nat) (sub : Nat)
    (reason : Nat) :
    (Draft.keep set old index sub reason d).s.memOk = true := by
  unfold Draft.keep
  split
  · exact memOk_setTo h _ _ _ _ _
  · exact h

theorem memOk_keepIf {d : Draft} (h : d.s.memOk = true) (c : Bool) (set : List (Nat × Nat × List Nat)) (old : State) (index : Nat) (sub
    : Nat) (reason : Nat) :
    (Draft.keepIf c set old index sub reason d).s.memOk = true := by
  unfold Draft.keepIf
  exact memOk_ite_draft (memOk_keep h _ _ _ _ _) h

theorem memOk_drops {d : Draft} (h : d.s.memOk = true) (index : Nat) (sub : Nat) (l : List Nat) :
    (Draft.drops index sub l d).s.memOk = true := by
  unfold Draft.drops
  exact memOk_foldl_draft (fun t x h => memOk_note h _ _ _ _ _) h

theorem memOk_peers {d : Draft} (h : d.s.memOk = true) (els : List (List Nat)) :
    (Draft.peers els d).s.memOk = true := by
  unfold Draft.peers
  refine memOk_drops ?_ _ _ _
  exact h

theorem memOk_windows {d : Draft} (h : d.s.memOk = true) (els : List (List Nat)) :
    (Draft.windows els d).s.memOk = true := by
  unfold Draft.windows
  refine memOk_drops ?_ _ _ _
  exact h

theorem memOk_localIp {d : Draft} (h : d.s.memOk = true) (els : List (List Nat)) :
    (Draft.localIp els d).s.memOk = true := by
  unfold Draft.localIp
  exact memOk_ite_draft (memOk_note h _ _ _ _ _) (memOk_ite_draft (memOk_note h _ _ _ _ _) h)

theorem memOk_trees {d : Draft} (h : d.s.memOk = true) (p : Nat) (els : List (List Nat)) :
    (Draft.trees p els d).s.memOk = true := by
  unfold Draft.trees
  exact memOk_foldl_draft (fun t x h => memOk_note h _ _ _ _ _) (memOk_onPart h _ _)

theorem memOk_dimPools {d : Draft} (h : d.s.memOk = true) (p : Nat) (els : List (List Nat)) :
    (Draft.dimPools p els d).s.memOk = true := by
  unfold Draft.dimPools
  refine memOk_foldl_draft (fun d x hd => memOk_note hd _ _ _ _ _) ?_
  exact memOk_drops (d := { d with s := d.s.onPart p _ }) (memOk_onPart h _ _) _ _ _

theorem memOk_packsKept {d : Draft} (h : d.s.memOk = true) (set : List (Nat × Nat × List Nat)) (p : Nat) :
    (Draft.packsKept set p d).s.memOk = true := by
  unfold Draft.packsKept
  exact memOk_ite_draft h (memOk_foldl_draft (fun t x h => memOk_note h _ _ _ _ _) (memOk_onPart h _ _))

theorem memOk_packs {d : Draft} (h : d.s.memOk = true) (p : Nat) (els : List (List Nat)) :
    (Draft.packs p els d).s.memOk = true := by
  unfold Draft.packs
  exact memOk_drops (d := { d with s := d.s.onPart p _ }) (memOk_onPart h _ _) _ _ _

theorem memOk_tenantTable {d : Draft} (h : d.s.memOk = true) (els : List (List Nat)) :
    (Draft.tenantTable els d).s.memOk = true := by
  unfold Draft.tenantTable
  refine memOk_foldl_draft (fun d x hd => ?_) h
  have filled := memOk_onTenant hd x.2 (fun _ => tenantFilled (d.s.tenant x.2) (tenantOf x.1 (d.s.tenant x.2)).1)
  exact memOk_ite_draft filled (memOk_note (d := { d with s := _ }) filled _ _ _ _ _)

theorem memOk_regions {d : Draft} (h : d.s.memOk = true) (els : List (List Nat)) :
    (Draft.regions els d).s.memOk = true := by
  unfold Draft.regions
  refine memOk_foldl_draft ?_ (memOk_drops ?_ _ _ _)
  · intro t x h
    exact memOk_note h _ _ _ _ _
  · exact h

theorem memOk_owners {d : Draft} (h : d.s.memOk = true) (els : List (List Nat)) :
    (Draft.owners els d).s.memOk = true := by
  unfold Draft.owners
  refine memOk_drops ?_ _ _ _
  exact h

theorem memOk_trusts {d : Draft} (h : d.s.memOk = true) (els : List (List Nat)) :
    (Draft.trusts els d).s.memOk = true := by
  unfold Draft.trusts
  refine memOk_drops ?_ _ _ _
  exact h

theorem memOk_domain {d : Draft} (h : d.s.memOk = true) (index : Nat) (sub : Nat) (data : List Nat) :
    (Draft.domain index sub data d).s.memOk = true := by
  unfold Draft.domain
  split
  · split
    · exact memOk_ite_draft (memOk_peers h _) (memOk_ite_draft (memOk_windows h _) (memOk_localIp h _))
    · exact memOk_ite_draft (memOk_tenantTable h _) (memOk_ite_draft (memOk_regions h _) (memOk_ite_draft (memOk_ite_draft
          (memOk_owners h _) (memOk_trusts h _)) (memOk_ite_draft (memOk_trees h _ _) (memOk_ite_draft (memOk_dimPools h _ _)
          (memOk_packs h _ _)))))
  · exact h

theorem memOk_first {d : Draft} (h : d.s.memOk = true) (e : Nat × Nat × List Nat) : (d.first e).s.memOk = true := by
  unfold Draft.first
  split
  next f hf =>
    have moved := memOk_fieldSet hf h (f.first (ofBytesLe e.2.2)).1
    dsimp only
    exact memOk_ite_draft moved (memOk_note moved _ _ _ _ _)
  next => exact h

theorem memOk_firstPass {s : State} (h : s.memOk = true) (set : List (Nat × Nat × List Nat)) :
    (firstPass set s).s.memOk = true := by
  unfold firstPass
  exact memOk_foldl_draft (fun t x h => memOk_first h _) h

theorem memOk_domains {d : Draft} (h : d.s.memOk = true) (set : List (Nat × Nat × List Nat)) (lo : Nat) (hi : Nat) :
    (Draft.domains set lo hi d).s.memOk = true := by
  unfold Draft.domains
  exact memOk_foldl_draft (fun t x h => memOk_ite_draft (memOk_domain h _ _ _) h) h

theorem memOk_relations2000 {d : Draft} (h : d.s.memOk = true) (set : List (Nat × Nat × List Nat)) (old : State) :
    (relations2000 set old d).s.memOk = true := by
  unfold relations2000
  exact memOk_keepIf (memOk_keepIf (memOk_keepIf h _ _ _ _ _ _) _ _ _ _ _ _) _ _ _ _ _ _

theorem memOk_relations2200 {d : Draft} (h : d.s.memOk = true) (set : List (Nat × Nat × List Nat)) :
    (relations2200 set d).s.memOk = true := by
  unfold relations2200
  exact memOk_setTo (memOk_setTo (memOk_setTo h _ _ _ _ _) _ _ _ _ _) _ _ _ _ _

theorem memOk_relations2400 {d : Draft} (h : d.s.memOk = true) (set : List (Nat × Nat × List Nat)) :
    (relations2400 set d).s.memOk = true := by
  unfold relations2400
  exact memOk_ite_draft (memOk_setTo h _ _ _ _ _) h

theorem memOk_restart {d : Draft} (h : d.s.memOk = true) (set : List (Nat × Nat × List Nat)) (old : State) (p : Nat) :
    (Draft.restart set old p d).s.memOk = true := by
  unfold Draft.restart
  refine memOk_ite_draft (memOk_ite_draft (memOk_ite_draft ?_ (memOk_setTo ?_ _ _ _ _ _)) (memOk_setTo (memOk_ite_draft ?_ (memOk_setTo
      ?_ _ _ _ _ _)) _ _ _ _ _)) h <;> exact h

theorem memOk_relationsMasks {d : Draft} (h : d.s.memOk = true) (set : List (Nat × Nat × List Nat)) (old : State) :
    (relationsMasks set old d).s.memOk = true := by
  unfold relationsMasks
  exact memOk_foldl_draft (fun t x h => memOk_restart h _ _ _) (memOk_foldl_draft (fun t x h => memOk_setTo h _ _ _ _ _)
      (memOk_foldl_draft (fun t x h => memOk_keepIf h _ _ _ _ _ _) h))

theorem memOk_relationsModels {d : Draft} (h : d.s.memOk = true) (set : List (Nat × Nat × List Nat)) (old : State) (p : Nat) :
    (relationsModels set old p d).s.memOk = true := by
  unfold relationsModels
  exact memOk_keepIf (memOk_keepIf (memOk_keepIf (memOk_ite_draft (memOk_setTo (memOk_keepIf (memOk_keepIf (memOk_ite_draft
      (memOk_setTo h _ _ _ _ _) h) _ _ _ _ _ _) _ _ _ _ _ _) _ _ _ _ _) (memOk_keepIf (memOk_keepIf (memOk_ite_draft (memOk_setTo h _ _
      _ _ _) h) _ _ _ _ _ _) _ _ _ _ _ _)) _ _ _ _ _ _) _ _ _ _ _ _) _ _ _ _ _ _

theorem memOk_relationsFloors {d : Draft} (h : d.s.memOk = true) (set : List (Nat × Nat × List Nat)) :
    (relationsFloors set d).s.memOk = true := by
  unfold relationsFloors
  exact memOk_foldl_draft (fun t x h => memOk_setTo h _ _ _ _ _) h

theorem memOk_relationsPart {d : Draft} (h : d.s.memOk = true) (set : List (Nat × Nat × List Nat)) (p : Nat) :
    (relationsPart set p d).s.memOk = true := by
  unfold relationsPart
  exact memOk_ite_draft (memOk_setTo (memOk_setTo h _ _ _ _ _) _ _ _ _ _) (memOk_setTo h _ _ _ _ _)

theorem memOk_setUnless {d : Draft} (h : d.s.memOk = true) (c : Prop) [Decidable c] (set : List (Nat × Nat × List Nat))
    (index sub reason v : Nat) : (if c then d else d.setTo set index sub reason v).s.memOk = true :=
  memOk_ite_draft h (memOk_setTo h _ _ _ _ _)

theorem memOk_keepWhen {d : Draft} (h : d.s.memOk = true) (c : Prop) [Decidable c] (set : List (Nat × Nat × List Nat)) (old : State)
    (index sub reason : Nat) : (if c then d.keep set old index sub reason else d).s.memOk = true :=
  memOk_ite_draft (memOk_keep h _ _ _ _ _) h

theorem memOk_relationsPolicy {d : Draft} (h : d.s.memOk = true) (set : List (Nat × Nat × List Nat)) (old : State) (p : Nat) :
    (relationsPolicy set old p d).s.memOk = true :=
  memOk_keepWhen (memOk_keepWhen (memOk_setUnless (memOk_setUnless (memOk_setUnless (memOk_setTo (memOk_setTo
    (memOk_setUnless h _ _ _ _ _ _) _ _ _ _ _) _ _ _ _ _) _ _ _ _ _ _) _ _ _ _ _ _) _ _ _ _ _ _) _ _ _ _ _ _) _ _ _ _ _ _

theorem memOk_lockedPolicy {d : Draft} (h : d.s.memOk = true) (set : List (Nat × Nat × List Nat)) (old : State) (p : Nat) :
    (lockedPolicy set old p d).s.memOk = true := by
  unfold lockedPolicy
  exact memOk_foldl_draft (fun t x h => memOk_keep h _ _ _ _ _) h

theorem memOk_relations5800 {d : Draft} (h : d.s.memOk = true) (set : List (Nat × Nat × List Nat)) :
    (relations5800 set d).s.memOk = true := by
  unfold relations5800
  exact memOk_ite_draft (memOk_setTo h _ _ _ _ _) h

theorem memOk_secondPass {d : Draft} (h : d.s.memOk = true) (set : List (Nat × Nat × List Nat)) (old : State) :
    (secondPass set old d).s.memOk = true := by
  unfold secondPass
  exact memOk_domains (memOk_relations5800 (memOk_foldl_draft (fun d p hd => memOk_ite_draft (memOk_lockedPolicy hd _ _ _)
      (memOk_relationsPolicy hd _ _ _)) (memOk_domains (memOk_foldl_draft (fun d p hd => memOk_packsKept hd _ _) (memOk_foldl_draft
      (fun d p hd => memOk_relationsPart hd _ _) (memOk_relationsFloors (memOk_foldl_draft (fun d p hd => memOk_relationsModels hd _ _
      _) (memOk_relationsMasks (memOk_relations2400 (memOk_relations2200 (memOk_domains (memOk_relations2000 h _ _) _ _ _) _) _) set
      old)) set))) set _ _)) set) set _ _

theorem memOk_layout {s : State} (h : s.memOk = true) (old : State) (p : Nat) :
    (old.layout s p).memOk = true := by
  unfold State.layout
  exact memOk_ite h (memOk_onPart (memOk_onPart (memOk_onPart h _ _) _ _) _ _)

theorem memOk_given_ {s : State} (h : s.memOk = true) (old : State) :
    (old.given_ s).memOk = true := by
  unfold State.given_
  refine memOk_foldl ?_ h
  intro t x h
  dsimp only
  exact memOk_fields (memOk_onSeg h (fun t h => segMemOk_giveSegment h _ _ _))

theorem memOk_replan {s : State} (h : s.memOk = true) (old : State) :
    (old.replan s).memOk = true := by
  unfold State.replan
  exact memOk_ite h h

theorem memOk_mirrorCommitted {s : State} (h : s.memOk = true) (old : State) :
    (old.mirrorCommitted s).memOk = true := by
  unfold State.mirrorCommitted
  split
  · refine memOk_ite h ?_
    dsimp only
    exact memOk_fields (memOk_toStandby h)
  · exact h

theorem memOk_unstage {s : State} (h : s.memOk = true) (who : Principal) :
    (s.unstage who).memOk = true := h

theorem memOk_draft {s : State} (h : s.memOk = true) (set : List (Nat × Nat × List Nat)) :
    (s.draft set).s.memOk = true := by
  unfold State.draft
  exact memOk_secondPass (memOk_firstPass h _) _ _

theorem memOk_commitSet {s : State} (h : s.memOk = true) (who : Principal) (set : List (Nat × Nat × List Nat)) (e : Stamp) :
    (s.commitSet who set e).memOk = true := by
  unfold State.commitSet
  refine memOk_ite ?_ (memOk_raise ?_ _ _ _ _ _ _ _)
  · dsimp only
    exact memOk_fields (memOk_mirrorCommitted (memOk_replan (memOk_given_ (memOk_foldl (fun t x h => memOk_layout h _ _) (memOk_fields
        (memOk_draft h _))) _) _) _)
  · dsimp only
    exact memOk_fields (memOk_mirrorCommitted (memOk_replan (memOk_given_ (memOk_foldl (fun t x h => memOk_layout h _ _) (memOk_fields
        (memOk_draft h _))) _) _) _)

theorem memOk_onPlan {s : State} (h : s.memOk = true) (k : Nat) (f : Plan → Plan) :
    (s.onPlan k f).memOk = true := by
  unfold State.onPlan
  exact memOk_onLive h _ _

theorem memOk_packPlan {s : State} (h : s.memOk = true) (k : Nat) :
    (s.packPlan k).memOk = true := by
  unfold State.packPlan
  split
  · split
    · exact memOk_ite (memOk_count (memOk_onPlan (memOk_freePassages h _) _ _) _) (memOk_onPlan (memOk_freePassages h _) _ _)
    · exact h
  · exact h

theorem memOk_endPlan {s : State} (h : s.memOk = true) (k : Nat) :
    (s.endPlan k).memOk = true := by
  unfold State.endPlan
  split
  · exact memOk_releaseResults (memOk_onPlan (memOk_freePassages (memOk_given h _) _) _ _) _ _
  · exact h

theorem memOk_afterRank {s : State} (h : s.memOk = true) (k : Nat) :
    (s.afterRank k).memOk = true := by
  unfold State.afterRank
  split
  · exact memOk_ite (memOk_endPlan h _) (memOk_packPlan h _)
  · exact h

theorem memOk_onCand {s : State} (h : s.memOk = true) (k : Nat) (place : Nat) (f : Cand → Cand) :
    (s.onCand k place f).memOk = true := by
  unfold State.onCand
  exact memOk_onPlan h _ _

theorem memOk_dropCand {s : State} (h : s.memOk = true) (k : Nat) (place : Nat) :
    (s.dropCand k place).memOk = true := by
  unfold State.dropCand
  exact memOk_count (memOk_onCand h _ _ _) _

theorem memOk_numberPlan {s : State} (h : s.memOk = true) (k : Nat) :
    (s.numberPlan k).memOk = true := by
  unfold State.numberPlan
  split
  · refine memOk_ite h ?_
    dsimp only
    exact memOk_fields (memOk_onPlan h _ _)
  · exact h

theorem memOk_scanCharge {s : State} (h : s.memOk = true) (seg : Nat) (bytes : Nat) :
    (s.scanCharge seg bytes).memOk = true := by
  unfold State.scanCharge
  exact memOk_onSeg h (fun _ h => h)

theorem memOk_scanRead {s : State} (h : s.memOk = true) (seg : Nat) (p : Nat) (addr : Nat) (bytes : Nat) (what : DmaUse) :
    (s.scanRead seg p addr bytes what).memOk = true := by
  unfold State.scanRead
  exact memOk_dma (memOk_scanCharge h _ _) _ _

theorem memOk_readDirectory {s : State} (h : s.memOk = true) (place : Nat) (pl : Plan) (g : Region) (ref : Nat) :
    (s.readDirectory place pl g ref).memOk = true := by
  unfold State.readDirectory
  exact memOk_scanRead h _ _ _ _ _

theorem memOk_fetchCand {s : State} (h : s.memOk = true) (k : Nat) (place : Nat) (pl : Plan) (c : Cand) :
    (s.fetchCand k place pl c).memOk = true := by
  unfold State.fetchCand
  split
  · exact memOk_ite (memOk_dropCand h _ _) (memOk_readDirectory h _ _ _ _)
  · split
    · exact memOk_onCand (memOk_spanSend h _ _ _ _) _ _ _
    · exact memOk_dropCand h _ _

theorem memOk_fetchDone {s : State} (h : s.memOk = true) (k : Nat) :
    (s.fetchDone k).memOk = true := by
  unfold State.fetchDone
  split
  · exact memOk_ite h (memOk_ite (memOk_onPlan h _ _) (memOk_afterRank h _))
  · exact h

theorem memOk_answerQuery {s : State} (h : s.memOk = true) (k : Nat) (tag : Nat) (cands : List Cand) :
    (s.answerQuery k tag cands).memOk = true := by
  unfold State.answerQuery
  split
  · dsimp only
    exact memOk_fields (memOk_spanSendAll h _ _ _)
  · exact h

theorem memOk_afterMerge {s : State} (h : s.memOk = true) (k : Nat) :
    (s.afterMerge k).memOk = true := by
  unfold State.afterMerge
  split
  · split
    · split
      · exact memOk_answerQuery h _ _ _
      · exact memOk_ite (memOk_endPlan h _) (memOk_fetchDone (memOk_foldl (fun t x h => memOk_fetchCand h _ _ _ _) (memOk_numberPlan
            (memOk_onPlan h _ _) _)) _)
    · exact h
  · exact h

theorem memOk_storePassage {s : State} (h : s.memOk = true) (k : Nat) (place : Nat) (pl : Plan) (q : Sequence) (tokens : List Nat) :
    (s.storePassage k place pl q tokens).memOk = true := by
  unfold State.storePassage
  refine memOk_ite (memOk_dropCand h _ _) (memOk_ite (memOk_onCand (memOk_onSeg h ?_) _ _ _) h)
  exact fun _ h => h

theorem memOk_fetched {s : State} (h : s.memOk = true) (k : Nat) (place : Nat) (pl : Plan) (q : Sequence) (c : Cand) (a' : FetchResult) :
    (s.fetched k place pl q c a').memOk = true := by
  unfold State.fetched
  split
  · split
    · exact memOk_ite (memOk_storePassage h _ _ _ _ _) (memOk_dropCand h _ _)
    · exact memOk_dropCand h _ _
  · exact memOk_dropCand h _ _
  · exact memOk_dropCand h _ _

theorem memOk_askedEnds {s : State} (h : s.memOk = true) (k : Nat) (place : Nat) (pl : Plan) (q : Sequence) (c : Cand) :
    (s.askedEnds k place pl q c).memOk = true := by
  unfold State.askedEnds
  split
  · exact memOk_fetchDone (memOk_storePassage h _ _ _ _ _) _
  · exact memOk_ite (memOk_fetchDone (memOk_dropCand h _ _) _) h

theorem memOk_candFetched {s : State} (h : s.memOk = true) (seq : Nat) (place : Nat) (result : FetchResult) :
    (s.candFetched seq place result).memOk = true := by
  unfold State.candFetched
  split
  · split
    · exact memOk_ite (memOk_fetchDone (memOk_fetched h _ _ _ _ _ _) _) (memOk_ite (memOk_askedEnds h _ _ _ _ _) h)
    · exact h
  · exact h

theorem memOk_refusePassage {s : State} (h : s.memOk = true) (session : Nat) (ref : Nat) (tag : Nat) :
    (s.refusePassage session ref tag).memOk = true := by
  unfold State.refusePassage
  exact memOk_spanSend (memOk_count h _) _ _ _ _

theorem memOk_askDone {s : State} (h : s.memOk = true) (a' : SpanAsk) :
    (s.askDone a').memOk = true := h

theorem memOk_answerPassage {s : State} (h : s.memOk = true) (a' : SpanAsk) (tokens : List Nat) :
    (s.answerPassage a' tokens).memOk = true := by
  unfold State.answerPassage
  dsimp only
  refine memOk_fields ?_
  refine memOk_spanSendAll (memOk_onSeg h ?_) _ _ _
  exact fun _ h => h

theorem memOk_askFetched {s : State} (h : s.memOk = true) (id : Nat) (result : FetchResult) :
    (s.askFetched id result).memOk = true := by
  unfold State.askFetched
  split
  · refine memOk_ite h ?_
    split
    · exact memOk_ite (memOk_refusePassage (memOk_askDone h _) _ _ _) (memOk_ite h (memOk_answerPassage h _ _))
    · exact memOk_refusePassage (memOk_askDone h _) _ _ _
  · exact h

theorem memOk_execPassageFetchComplete {s : State} (h : s.memOk = true) (owner : FetchFor) (place : Nat) (result : FetchResult) :
    keepsMem (execPassageFetchComplete owner place result s) := by
  unfold execPassageFetchComplete
  refine keepsMem_next ?_
  split
  · exact memOk_candFetched h _ _ _
  · exact memOk_askFetched h _ _

theorem memOk_probeArrives {s : State} (h : s.memOk = true) (seg : Nat) (k : Nat) (pl : Plan) :
    (s.probeArrives seg k pl).memOk = true := by
  unfold State.probeArrives
  exact memOk_onSeg (memOk_onPlan h _ _) (fun _ h => h)

theorem memOk_execProbeListReceive {s : State} (h : s.memOk = true) (seg : Nat) (seq : Nat) :
    keepsMem (execProbeListReceive seg seq s) := by
  unfold execProbeListReceive
  split
  · exact keepsMem_onlyIf (memOk_probeArrives h _ _ _) h
  · exact keepsMem_next h

theorem memOk_loadTable {s : State} (h : s.memOk = true) (seg : Nat) (k : Nat) :
    (s.loadTable seg k).memOk = true := by
  unfold State.loadTable
  split
  · exact memOk_onSeg (memOk_scanCharge h _ _) (fun _ h => h)
  · exact h

theorem memOk_execScanGroupStart {s : State} (h : s.memOk = true) (seg : Nat) :
    keepsMem (execScanGroupStart seg s) := by
  unfold execScanGroupStart
  exact keepsMem_onlyIf (memOk_foldl (fun t x h => memOk_loadTable h _ _) (memOk_onSeg h (fun _ h => h))) h

theorem memOk_heapOut {s : State} (h : s.memOk = true) (seg : Nat) (k : Nat) :
    (s.heapOut seg k).memOk = true := by
  unfold State.heapOut
  exact memOk_onSeg (memOk_onPlan h _ _) (fun _ h => h)

theorem memOk_execScanGroupEnd {s : State} (h : s.memOk = true) (seg : Nat) (stalls : ScanStalls) :
    keepsMem (execScanGroupEnd seg stalls s) := by
  unfold execScanGroupEnd
  split
  · refine keepsMem_onlyIf (memOk_count (memOk_segCount (memOk_onSeg (memOk_foldl ?_ (memOk_scanCharge h _ _)) ?_) _ _) _) h
    · intro t x h
      exact memOk_heapOut h _ _
    · exact fun _ h => h
  · exact keepsMem_next h

theorem memOk_execScanHeapMerge {s : State} (h : s.memOk = true) (seq : Nat) :
    keepsMem (execScanHeapMerge seq s) := by
  unfold execScanHeapMerge
  split
  · exact keepsMem_onlyIf (memOk_ite (memOk_afterMerge (memOk_onPlan h _ _) _) (memOk_onPlan h _ _)) h
  · exact keepsMem_next h

theorem memOk_execSpanMerge {s : State} (h : s.memOk = true) (seq : Nat) :
    keepsMem (execSpanMerge seq s) := by
  unfold execSpanMerge
  split
  · exact keepsMem_onlyIf (memOk_afterMerge (memOk_onPlan h _ _) _) h
  · exact keepsMem_next h

theorem memOk_askWorkers {s : State} (h : s.memOk = true) (k : Nat) (r : Retr) (vec : List BF16) :
    (s.askWorkers k r vec).memOk = true := by
  unfold State.askWorkers
  exact memOk_onPlan (memOk_foldl (fun t x h => memOk_spanSend h _ _ _ _) (memOk_numberPlan h _)) _ _

theorem memOk_poisonPlan {s : State} (h : s.memOk = true) (k : Nat) :
    (s.poisonPlan k).memOk = true := by
  unfold State.poisonPlan
  exact memOk_afterMerge (memOk_leaveScan (memOk_count h _) _) _

theorem memOk_commitStageE {s : State} (h : s.memOk = true) (e : Stamp) (reports : List StageReport) (k : Nat) :
    (s.commitStageE e reports k).memOk = true := by
  unfold State.commitStageE
  split
  · split
    · exact memOk_ite (memOk_poisonPlan h _) (memOk_ite (memOk_askWorkers (memOk_onPlan h _ _) _ _ _) (memOk_onPlan h _ _))
    · exact memOk_poisonPlan h _
  · exact h

theorem memOk_commitStageR {s : State} (h : s.memOk = true) (reports : List StageReport) (b : Machine.Bind) :
    (s.commitStageR reports b).memOk = true := by
  unfold State.commitStageR
  split
  · dsimp only
    split
    · exact memOk_ite (memOk_onPlan h _ _) (memOk_afterRank (memOk_onPlan h _ _) _)
    · exact memOk_onPlan h _ _
  · exact h

theorem memOk_commitStages {s : State} (h : s.memOk = true) (e : Stamp) (st : StepS) :
    (s.commitStages e st).memOk = true := by
  unfold State.commitStages
  exact memOk_foldl (fun t x h => memOk_ite (memOk_ite (memOk_commitStageE h _ _ _) h) (memOk_commitStageR (memOk_ite
      (memOk_commitStageE h _ _ _) h) _ _)) h

theorem memOk_execDraftLevel {s : State} (h : s.memOk = true) (part : Nat) (cls : Cls) (level : Nat) (rows : List LogitRow) :
    keepsMem (execDraftLevel part cls level rows s) := by
  unfold execDraftLevel
  split
  · exact keepsMem_onlyIf (memOk_count (memOk_onStep h _ _ _) _) h
  · exact keepsMem_next h

theorem memOk_execManagerDraw {s : State} (h : s.memOk = true) (part : Nat) (cls : Cls) (rows : List LogitRow) :
    keepsMem (execManagerDraw part cls rows s) := by
  unfold execManagerDraw
  split
  · exact keepsMem_onlyIf (memOk_count (memOk_onStep h _ _ _) _) h
  · exact keepsMem_next h

theorem memOk_execCompactionComplete {s : State} (h : s.memOk = true) (seg : Nat) (part : Nat) (cls : Cls) :
    keepsMem (execCompactionComplete seg part cls s) := by
  unfold execCompactionComplete
  split
  · exact keepsMem_onlyIf (memOk_segCount (memOk_onStep (memOk_onSegStep h _ _ _ _) _ _ _) _ _) h
  · exact keepsMem_next h

theorem memOk_raiseFor {s : State} (h : s.memOk = true) (k : Nat) (toks : List Nat) :
    (s.raiseFor k toks).memOk = true := by
  unfold State.raiseFor
  split
  · exact memOk_count (memOk_onLive h _ _) _
  · exact h

theorem memOk_penalisePrompt {s : State} (h : s.memOk = true) (k : Nat) (from_ : Nat) (n : Nat) :
    (s.penalisePrompt k from_ n).memOk = true := by
  unfold State.penalisePrompt
  split
  · exact memOk_ite (memOk_raiseFor h _ _) h
  · exact h

theorem memOk_commitPrefill {s : State} (h : s.memOk = true) (b : Machine.Bind) :
    (s.commitPrefill b).memOk = true := by
  unfold State.commitPrefill
  exact memOk_ite h (memOk_onLive (memOk_penalisePrompt h _ _ _) _ _)

theorem memOk_holdTokens {s : State} (h : s.memOk = true) (e : Stamp) (k : Nat) (toks : List Nat) :
    (s.holdTokens e k toks).memOk = true := by
  unfold State.holdTokens
  split
  · exact memOk_startStreams (memOk_charge (memOk_onLive h _ _) _ _) _ _
  · exact h

theorem memOk_leaveSteps {s : State} (h : s.memOk = true) (k : Nat) :
    (s.leaveSteps k).memOk = true := h

theorem memOk_commitRoot {s : State} (h : s.memOk = true) (e : Stamp) (hold : Bool) (b : Machine.Bind) :
    (s.commitRoot e hold b).memOk = true := by
  unfold State.commitRoot
  split
  · refine memOk_ite h ?_
    split
    · dsimp only
      split
      · exact memOk_onLive (memOk_leaveSteps (memOk_onLive (memOk_holdTokens (memOk_raiseFor (memOk_penalisePrompt h _ _ _) _ _) _ _ _)
            _ _) _) _ _
      · exact memOk_onLive (memOk_holdTokens (memOk_raiseFor (memOk_penalisePrompt h _ _ _) _ _) _ _ _) _ _
    · dsimp only
      split
      · exact memOk_onLive (memOk_leaveSteps (memOk_onLive (memOk_onLive (memOk_raiseFor (memOk_penalisePrompt h _ _ _) _ _) _ _) _ _)
            _) _ _
      · exact memOk_onLive (memOk_onLive (memOk_raiseFor (memOk_penalisePrompt h _ _ _) _ _) _ _) _ _
  · exact h

theorem memOk_trimBlocks {s : State} (h : s.memOk = true) (e : Stamp) (k : Nat) :
    (s.trimBlocks e k).memOk = true := by
  unfold State.trimBlocks
  split
  · exact memOk_onLive (memOk_dropBlocks (memOk_returnPages h _ _ _) _ _) _ _
  · exact h

theorem memOk_commitBind {s : State} (h : s.memOk = true) (e : Stamp) (hold : Bool) (b : Machine.Bind) :
    (s.commitBind e hold b).memOk = true := by
  unfold State.commitBind
  exact memOk_ite h (memOk_trimBlocks (memOk_commitRoot (memOk_commitPrefill h _) _ _ _) _ _)

theorem memOk_holdOlder {s : State} (h : s.memOk = true) (o : Option Nat) :
    (s.holdOlder o).memOk = true := by
  unfold State.holdOlder
  split
  · exact memOk_onEntry h _ _
  · exact h

theorem memOk_makeSave {s : State} (h : s.memOk = true) (e : Stamp) (k : Nat) :
    (s.makeSave e k).memOk = true := by
  unfold State.makeSave
  split
  · refine memOk_ite h ?_
    dsimp only
    split
    · exact memOk_onLive (memOk_giveBlocks (memOk_holdOlder (memOk_insertEntry h _ _) _) _ _) _ _
    · exact memOk_onLive (memOk_insertEntry h _ _) _ _
  · exact h

theorem memOk_makeKeep {s : State} (h : s.memOk = true) (e : Stamp) (k : Nat) :
    (s.makeKeep e k).memOk = true := by
  unfold State.makeKeep
  split
  · refine memOk_ite h ?_
    dsimp only
    split
    · exact memOk_beginDimWrite (memOk_onLive (memOk_holdOlder (memOk_insertEntry h _ _) _) _ _) _
    · exact memOk_onLive (memOk_insertEntry h _ _) _ _
  · exact h

theorem memOk_returnSave {s : State} (h : s.memOk = true) (e : Stamp) (k : Nat) :
    (s.returnSave e k).memOk = true := by
  unfold State.returnSave
  split
  · exact memOk_ite (memOk_onLive (memOk_returnPages h _ _ _) _ _) h
  · exact h

theorem memOk_startAsked {s : State} (h : s.memOk = true) (k : Nat) :
    (s.startAsked k).memOk = true := by
  unfold State.startAsked
  split
  · split
    · exact memOk_ite (memOk_dimWriteTo (memOk_onLive h _ _) _ _ _) h
    · exact h
  · exact h

theorem memOk_commitLoop {s : State} (h : s.memOk = true) (p : Nat) (c : Cls) (e : Stamp) :
    (s.commitLoop p c e).memOk = true := by
  unfold State.commitLoop
  exact memOk_endedBack (memOk_foldl (fun t x h => memOk_startAsked h _) (memOk_foldl (fun t x h => memOk_onLive (memOk_returnSave h _
      _) _ _) (memOk_foldl (fun t x h => memOk_makeKeep (memOk_makeSave h _ _) _ _) (memOk_foldl (fun t x h => memOk_onLive h _ _)
      h)))) _ _ _

theorem memOk_commitGroup {s : State} (h : s.memOk = true) (k : Nat) (gid : Nat) (scores : List F32) :
    (s.commitGroup k gid scores).memOk = true := by
  unfold State.commitGroup
  split
  · exact memOk_count (memOk_noteReady (memOk_onLive h _ _) _) _
  · exact h

theorem memOk_commitScreen {s : State} (h : s.memOk = true) (l : List StageReport) (b : Machine.Bind) :
    (s.commitScreen l b).memOk = true := by
  unfold State.commitScreen
  refine memOk_foldl ?_ ?_
  · intro t x h
    exact memOk_commitGroup h _ _ _
  · split
    · exact memOk_onLive h _ _
    · exact h

theorem memOk_raiseStale {s : State} (h : s.memOk = true) (p : Nat) (e : Stamp) (id : Nat) (x : F32) :
    (s.raiseStale p e id x).memOk = true := by
  unfold State.raiseStale
  exact memOk_raise h _ _ _ _ _ _ _

theorem memOk_commitScales {s : State} (h : s.memOk = true) (p : Nat) (e : Stamp) (st : StepS) :
    (s.commitScales p e st).memOk = true := by
  unfold State.commitScales
  exact memOk_foldl (fun t x h => memOk_raiseStale h _ _ _ _) (memOk_onPart h _ _)

theorem memOk_overrun {s : State} (h : s.memOk = true) (p : Nat) (e : Stamp) (st : StepS) :
    (s.overrun p e st).memOk = true := by
  unfold State.overrun
  exact memOk_ite (memOk_onPart (memOk_raise h _ _ _ _ _ _ _) _ _) h

theorem memOk_commitWork {s : State} (h : s.memOk = true) (p : Nat) (c : Cls) (e : Stamp) (st : StepS) :
    (s.commitWork p c e st).memOk = true := by
  unfold State.commitWork
  exact memOk_ite (memOk_foldl (fun t x h => memOk_commitScreen h _ _) h) (memOk_commitStages (memOk_commitLoop (memOk_ite (memOk_foldl
      (fun t x h => memOk_commitBind h _ _ _) h) h) _ _ _) _ _)

theorem memOk_stepLeaves {s : State} (h : s.memOk = true) (p : Nat) (c : Cls) (e : Stamp) (img : ProgramImage) :
    (s.stepLeaves p c e img).memOk = true := by
  unfold State.stepLeaves
  refine memOk_onLoop (memOk_onSegs (memOk_controlAll h _) ?_) _ _ _
  exact fun _ _ h => h

theorem memOk_mergeKv {s : State} (h : s.memOk = true) (p : Nat) (c : Cls) (st : StepS) :
    (s.mergeKv p c st).memOk = true := by
  unfold State.mergeKv
  exact memOk_foldl (fun t x h => memOk_onLive h _ _) h

theorem memOk_commit {s : State} (h : s.memOk = true) (p : Nat) (c : Cls) (e : Stamp) (st : StepS) :
    (s.commit p c e st).memOk = true := by
  unfold State.commit
  dsimp only
  split
  · exact memOk_recordStep (memOk_mirrorCommit (memOk_overrun (memOk_commitScales (memOk_commitWork (memOk_stepLeaves (memOk_mergeKv h
        _ _ _) _ _ _ _) _ _ _ _) _ _ _) _ _ _)) _ _ _ _ _ _
  · exact memOk_mirrorCommit (memOk_overrun (memOk_commitScales (memOk_commitWork (memOk_stepLeaves (memOk_mergeKv h _ _ _) _ _ _ _) _
        _ _ _) _ _ _) _ _ _)

theorem memOk_execCommitPoint {s : State} (h : s.memOk = true) (cyc : Nat) (part : Nat) (cls : Cls) :
    keepsMem (execCommitPoint cyc part cls s) := by
  unfold execCommitPoint
  refine keepsMem_underForce h ?_
  intro t h
  split
  · exact keepsMem_onlyIf (memOk_commit (memOk_given h _) _ _ _ _) h
  · exact keepsMem_next h

theorem memOk_takeSub {s : State} (h : s.memOk = true) (ring : Nat) :
    (s.takeSub ring).memOk = true := by
  unfold State.takeSub
  dsimp only
  exact memOk_fields (memOk_blockMoves h _ _ _)

theorem memOk_answer {s : State} (h : s.memOk = true) (r : Request) (st : Status) (cancel : Bool) (e : Stamp) :
    (s.answer r st cancel e).memOk = true := by
  unfold State.answer
  exact memOk_sendRecord h _ _

theorem memOk_subClamp {s : State} (h : s.memOk = true) (r : Request) (cancel : Bool) (e : Stamp) :
    (s.subClamp r cancel e).memOk = true := by
  unfold State.subClamp
  exact memOk_count (memOk_answer h _ _ _ _) _

theorem memOk_enqueue {s : State} (h : s.memOk = true) (r : Request) :
    (s.enqueue r).memOk = true := h

theorem memOk_openRequest {s : State} (h : s.memOk = true) (r : Request) (rec : SubRecord) (env : Envelope) (e : Stamp) :
    (s.openRequest r rec env e).memOk = true := by
  unfold State.openRequest
  refine memOk_ite (memOk_count (memOk_failRequest h _ _ _) _) (memOk_ite (memOk_count (memOk_failRequest h _ _ _) _) (memOk_ite
      (memOk_failRequest ?_ _ _ _) (memOk_enqueue ?_ _))) <;> exact h

theorem memOk_subChecked {s : State} (h : s.memOk = true) (ring : Nat) (rec : SubRecord) {go : State → State}
    (hgo : ∀ t, t.memOk = true → (go t).memOk = true) : (s.subChecked ring rec go).memOk = true :=
  memOk_ite (hgo _ (memOk_takeSub h ring)) (memOk_ringLoses (memOk_takeSub h ring) ring)

theorem memOk_execSubRequest {s : State} (h : s.memOk = true) (cyc : Nat) (ring : Nat) (rec : SubRecord) (env : Envelope) :
    keepsMem (execSubRequest cyc ring rec env s) := by
  unfold execSubRequest
  exact keepsMem_onlyIf (memOk_subChecked (memOk_given h _) _ _ (fun t h => memOk_ite (memOk_subClamp h _ _ _) (memOk_openRequest h _ _
      _ _))) h

theorem memOk_execSubReservedKind {s : State} (h : s.memOk = true) (cyc : Nat) (ring : Nat) (rec : SubRecord) :
    keepsMem (execSubReservedKind cyc ring rec s) := by
  unfold execSubReservedKind
  exact keepsMem_onlyIf (memOk_subChecked (memOk_given h _) _ _ (fun t h => memOk_subClamp h _ _ _)) h

theorem memOk_unqueue {s : State} (h : s.memOk = true) (r : Request) :
    (s.unqueue r).memOk = true := h

theorem memOk_cancelAnswer {s : State} (h : s.memOk = true) (r : Request) (st : Status) (e : Stamp) :
    (s.cancelAnswer r st e).memOk = true := by
  unfold State.cancelAnswer
  refine memOk_answer ?_ _ _ _ _
  exact h

theorem memOk_cancelRequest {s : State} (h : s.memOk = true) (r : Request) (e : Stamp) :
    (s.cancelRequest r e).memOk = true := by
  unfold State.cancelRequest
  split
  · exact memOk_cancelAnswer (memOk_failRequest (memOk_unqueue (memOk_count h _) _) _ _ _) _ _ _
  · split
    · exact memOk_cancelAnswer (memOk_endSeq (memOk_count h _) _ _ _) _ _ _
    · exact memOk_cancelAnswer (memOk_count h _) _ _ _

theorem memOk_execCancel {s : State} (h : s.memOk = true) (cyc : Nat) (ring : Nat) (rec : SubRecord) :
    keepsMem (execCancel cyc ring rec s) := by
  unfold execCancel
  exact keepsMem_onlyIf (memOk_subChecked (memOk_given h _) _ _ (fun t h => memOk_ite (memOk_subClamp h _ _ _) (memOk_cancelRequest h _
      _))) h

theorem memOk_joinPages {s : State} (h : s.memOk = true) (p : Nat) (demand : Nat) (entry : Option Nat) :
    (s.joinPages p demand entry).2.memOk = true := by
  unfold State.joinPages
  refine memOk_ite_snd h ?_
  split
  · exact memOk_onEntry (memOk_reclaim (memOk_onEntry h _ _) _ _ _) _ _
  · exact memOk_reclaim h _ _ _

theorem memOk_admitEntry {s : State} (h : s.memOk = true) (r : Request) (j : Join) :
    (s.admitEntry r j).memOk = true := by
  unfold State.admitEntry
  split
  · exact memOk_ite (memOk_beginDimFetch (memOk_giveBlocks (memOk_onEntry h _ _) _ _) _) (memOk_onEntry h _ _)
  · exact h

theorem memOk_inputCharge {s : State} (h : s.memOk = true) (r : Request) (n : Nat) :
    (s.inputCharge r n).memOk = true := h

theorem memOk_admitRequest {s : State} (h : s.memOk = true) (k : Nat) (r : Request) (j : Join) (a' : Stamp) :
    (s.admitRequest k r j a').memOk = true := by
  unfold State.admitRequest
  exact memOk_startStreams (memOk_ite (memOk_count (memOk_giveBlocks (memOk_fields (memOk_inputCharge (memOk_admitEntry
      (memOk_takePages h _ _) _ _) _ _)) _ _) _) (memOk_giveBlocks (memOk_fields (memOk_inputCharge (memOk_admitEntry (memOk_takePages
      h _ _) _ _) _ _)) _ _)) _ _

theorem memOk_onQueued {s : State} (h : s.memOk = true) (r : Request) (f : Request → Request) :
    (s.onQueued r f).memOk = true := h

theorem memOk_failTurn {s : State} (h : s.memOk = true) (r : Request) (st : Status) :
    (s.failTurn r st).memOk = true := by
  unfold State.failTurn
  exact memOk_ite (memOk_count (memOk_failRequest (memOk_unqueue (memOk_given h _) _) _ _ _) _) (memOk_ite (memOk_count
      (memOk_failRequest (memOk_unqueue (memOk_given h _) _) _ _ _) _) (memOk_failRequest (memOk_unqueue (memOk_given h _) _) _ _ _))

theorem memOk_shortTurn {s : State} (h : s.memOk = true) (r : Request) (need : Nat) :
    (s.shortTurn r need).memOk = true := by
  unfold State.shortTurn
  split
  · exact h
  · exact memOk_ite (memOk_onQueued h _ _) (memOk_failTurn h _ _)

theorem memOk_admitTurn {s : State} (h : s.memOk = true) (r : Request) :
    (s.admitTurn r).memOk = true := by
  unfold State.admitTurn
  split
  · exact memOk_failTurn h _ _
  · dsimp only
    split
    · exact memOk_admitRequest (memOk_unqueue (memOk_given (memOk_joinPages h _ _ _) _) _) _ _ _ _
    · exact memOk_shortTurn (memOk_joinPages h _ _ _) _ _

theorem memOk_toPhase {s : State} (h : s.memOk = true) (phase : Nat) :
    (s.toPhase phase).memOk = true := h

theorem memOk_execAdmission {s : State} (h : s.memOk = true) (part : Nat) (cls : Cls) :
    keepsMem (execAdmission part cls s) := by
  unfold execAdmission
  refine keepsMem_underForce h ?_
  intro t h
  split
  · exact keepsMem_onlyIf (memOk_admitTurn (memOk_toPhase h _) _) h
  · exact keepsMem_next h

theorem memOk_handOver {s : State} (h : s.memOk = true) (k : Nat) (q : Sequence) (pl : Plan) (blocks : List Nat) (e : Stamp) :
    (s.handOver k q pl blocks e).memOk = true := by
  unfold State.handOver
  exact memOk_onLive (memOk_giveBlocks (memOk_count (memOk_planOverrun (memOk_inputCharge (memOk_takePages h _ _) _ _) _ _ _) _) _ _) _ _

theorem memOk_handOverShort {s : State} (h : s.memOk = true) (k : Nat) (q : Sequence) (need : Nat) :
    (s.handOverShort k q need).memOk = true := by
  unfold State.handOverShort
  split
  · exact memOk_onPlan h _ _
  · exact memOk_ite (memOk_onPlan h _ _) (memOk_count (memOk_endSeq (memOk_given h _) _ _ _) _)

theorem memOk_execHandOver {s : State} (h : s.memOk = true) (seq : Nat) :
    keepsMem (execHandOver seq s) := by
  unfold execHandOver
  refine keepsMem_underForce h ?_
  intro t h
  split
  · split
    · exact keepsMem_onlyIf (memOk_ite (memOk_handOver (memOk_given (memOk_joinPages (memOk_toPhase h _) _ _ _) _) _ _ _ _ _)
          (memOk_handOverShort (memOk_joinPages (memOk_toPhase h _) _ _ _) _ _ _)) h
    · exact keepsMem_next h
  · exact keepsMem_next h

theorem memOk_execJoinWaitExpiry {s : State} (h : s.memOk = true) (part : Nat) :
    keepsMem (execJoinWaitExpiry part s) := by
  unfold execJoinWaitExpiry
  refine keepsMem_underForce h ?_
  intro t h
  split
  · split
    · exact keepsMem_onlyIf (memOk_failTurn h _ _) h
    · dsimp only
      split
      · exact keepsMem_onlyIf (memOk_failTurn h _ _) h
      · exact keepsMem_onlyIf (memOk_count (memOk_endSeq (memOk_given h _) _ _ _) _) h
      · exact keepsMem_next h
  · dsimp only
    split
    · exact keepsMem_onlyIf (memOk_failTurn h _ _) h
    · exact keepsMem_onlyIf (memOk_count (memOk_endSeq (memOk_given h _) _ _ _) _) h
    · exact keepsMem_next h

theorem memOk_resume {s : State} (h : s.memOk = true) (k : Nat) :
    (s.resume k).memOk = true := by
  unfold State.resume
  split
  · exact memOk_ite (memOk_beginDimFetch (memOk_giveBlocks (memOk_onLive (memOk_takePages h _ _) _ _) _ _) _) (memOk_onLive h _ _)
  · exact h

theorem memOk_execResumption {s : State} (h : s.memOk = true) (part : Nat) :
    keepsMem (execResumption part s) := by
  unfold execResumption
  refine keepsMem_underForce h ?_
  intro t h
  split
  · exact keepsMem_onlyIf (memOk_resume (memOk_toPhase h _) _) h
  · exact keepsMem_next h

theorem memOk_dropBright {s : State} (h : s.memOk = true) (k : Nat) (stamp : Stamp) :
    (s.dropBright k stamp).memOk = true := by
  unfold State.dropBright
  split
  · exact memOk_onLive (memOk_returnPages h _ _ _) _ _
  · exact h

theorem memOk_writeEnds {s : State} (h : s.memOk = true) (c : CacheRef) (drop : Bool) :
    (s.writeEnds c drop).memOk = true := by
  unfold State.writeEnds
  split
  · exact memOk_onEntry h _ _
  · exact memOk_ite (memOk_dropBright h _ _) (memOk_onLive h _ _)

theorem memOk_execDimWriteComplete {s : State} (h : s.memOk = true) (cache : CacheRef) :
    keepsMem (execDimWriteComplete cache s) := by
  unfold execDimWriteComplete
  split
  · exact keepsMem_onlyIf (memOk_writeEnds h _ _) h
  · exact keepsMem_next h

theorem memOk_fetchEnds {s : State} (h : s.memOk = true) (c : CacheRef) (header : Nat) :
    (s.fetchEnds c header).memOk = true := by
  unfold State.fetchEnds
  split
  · exact memOk_onEntry h _ _
  · exact memOk_onLive h _ _

theorem memOk_readBackFails {s : State} (h : s.memOk = true) (c : CacheRef) (e : Stamp) :
    (s.readBackFails c e).memOk = true := by
  unfold State.readBackFails
  split
  · dsimp only
    exact memOk_fields (memOk_foldl (fun t x h => memOk_endSeq h _ _ _) (memOk_onEntry (memOk_returnPages (memOk_count h _) _ _ _) _ _))
  · dsimp only
    split
    · exact memOk_endSeq (memOk_onLive (memOk_returnPages (memOk_count h _) _ _ _) _ _) _ _ _
    · exact h

theorem memOk_execDimFetchComplete {s : State} (h : s.memOk = true) (read : DimRead) :
    keepsMem (execDimFetchComplete read s) := by
  unfold execDimFetchComplete
  split
  · exact keepsMem_onlyIf (memOk_ite (memOk_fetchEnds h _ _) (memOk_readBackFails h _ _)) h
  · exact keepsMem_next h

theorem memOk_execDimReadBackFail {s : State} (h : s.memOk = true) (cyc : Nat) (cache : CacheRef) :
    keepsMem (execDimReadBackFail cyc cache s) := by
  unfold execDimReadBackFail
  split
  · exact keepsMem_onlyIf (memOk_readBackFails (memOk_given h _) _ _) h
  · exact keepsMem_next h

theorem memOk_copyPartial {s : State} (h : s.memOk = true) (k : Nat) :
    (s.copyPartial k).memOk = true := by
  unfold State.copyPartial
  split
  · exact memOk_onLive h _ _
  · exact h

theorem memOk_execPartialBlockCopyComplete {s : State} (h : s.memOk = true) (seq : Nat) :
    keepsMem (execPartialBlockCopyComplete seq s) := by
  unfold execPartialBlockCopyComplete
  split
  · exact keepsMem_onlyIf (memOk_copyPartial h _) h
  · exact keepsMem_next h

theorem memOk_doorbellActs {s : State} (h : s.memOk = true) (n : Nat) (op : Nat) (index : Nat) :
    (s.doorbellActs n op index).memOk = true := by
  unfold State.doorbellActs
  exact memOk_ite (memOk_moveRing h _ _ _) (memOk_ite (memOk_ite (memOk_onRing (memOk_moveRing h _ _ _) _ _) h) (memOk_onRing
      (memOk_moveRing h _ _ _) _ _))

theorem memOk_doorbell {s : State} (h : s.memOk = true) (cyc : Nat) (n : Nat) (op : Nat) (index : Nat) :
    (s.doorbell cyc n op index).memOk = true := by
  unfold State.doorbell
  exact memOk_ite (memOk_doorbellActs (memOk_given h _) _ _ _) (memOk_onRing (memOk_given h _) _ _)

theorem memOk_wakeEvent {s : State} (h : s.memOk = true) (b : Nat) :
    (s.wakeEvent b).memOk = true := by
  unfold State.wakeEvent
  exact memOk_ite h h

theorem memOk_execProduce {s : State} (h : s.memOk = true) (cyc : Nat) (ring : Nat) (index : Nat) :
    keepsMem (execProduce cyc ring index s) := by
  unfold execProduce
  exact keepsMem_onlyIf (memOk_ite (memOk_wakeEvent (memOk_doorbell h _ _ _ _) _) (memOk_doorbell h _ _ _ _)) h

theorem memOk_execConsume {s : State} (h : s.memOk = true) (cyc : Nat) (ring : Nat) (index : Nat) :
    keepsMem (execConsume cyc ring index s) := by
  unfold execConsume
  exact keepsMem_onlyIf (memOk_doorbell h _ _ _ _) h

theorem memOk_execRingFlush {s : State} (h : s.memOk = true) (cyc : Nat) (ring : Nat) :
    keepsMem (execRingFlush cyc ring s) := by
  unfold execRingFlush
  exact keepsMem_onlyIf (memOk_doorbell h _ _ _ _) h

theorem memOk_execDoorbellReservedOp {s : State} (h : s.memOk = true) (cyc : Nat) (ring : Nat) (op : Nat) (index : Nat) :
    keepsMem (execDoorbellReservedOp cyc ring op index s) := by
  unfold execDoorbellReservedOp
  exact keepsMem_onlyIf (memOk_doorbell h _ _ _ _) h

theorem memOk_disableRing {s : State} (h : s.memOk = true) (n : Nat) (word : Nat) :
    (s.disableRing n word).memOk = true := by
  unfold State.disableRing
  exact memOk_ite (memOk_onRing h _ _) (memOk_onRing h _ _)

theorem memOk_contextWrite {s : State} (h : s.memOk = true) (n : Nat) (wordNo : Nat) (word : Nat) :
    (s.contextWrite n wordNo word).memOk = true := by
  unfold State.contextWrite
  exact memOk_ite (memOk_onRing (memOk_closeRing h _) _ _) (memOk_ite (memOk_disableRing (memOk_closeRing h _) _ _) (memOk_onRing
      (memOk_ringTurn h _) _ _))

theorem memOk_execRingEnable {s : State} (h : s.memOk = true) (ring : Nat) (word : Nat) :
    keepsMem (execRingEnable ring word s) := by
  unfold execRingEnable
  exact keepsMem_onlyIf (memOk_contextWrite h _ _ _) h

theorem memOk_execRingDisable {s : State} (h : s.memOk = true) (ring : Nat) (word : Nat) :
    keepsMem (execRingDisable ring word s) := by
  unfold execRingDisable
  exact keepsMem_onlyIf (memOk_contextWrite h _ _ _) h

theorem memOk_execRingContextWrite {s : State} (h : s.memOk = true) (ring : Nat) (wordNo : Nat) (word : Nat) :
    keepsMem (execRingContextWrite ring wordNo word s) := by
  unfold execRingContextWrite
  exact keepsMem_onlyIf (memOk_contextWrite h _ _ _) h

theorem memOk_writeBack {s : State} (h : s.memOk = true) (n : Nat) :
    (s.writeBack n).memOk = true := by
  unfold State.writeBack
  exact memOk_dma (memOk_setRing h _ _) _ _

theorem memOk_execIndexWriteback {s : State} (h : s.memOk = true) (ring : Nat) :
    keepsMem (execIndexWriteback ring s) := by
  unfold execIndexWriteback
  exact keepsMem_onlyIf (memOk_writeBack (memOk_closeRing h _) _) h

theorem memOk_execModIntervalEnd {s : State} (h : s.memOk = true) (ring : Nat) :
    keepsMem (execModIntervalEnd ring s) := by
  unfold execModIntervalEnd
  exact keepsMem_onlyIf (memOk_pulse (memOk_setRing h _ _) _) h

theorem memOk_execEventVectorTransfer {s : State} (h : s.memOk = true) :
    keepsMem (execEventVectorTransfer s) := by
  unfold execEventVectorTransfer
  split
  · exact keepsMem_onlyIf h h
  · exact keepsMem_next h

theorem memOk_ringResumes {s : State} (h : s.memOk = true) (n : Nat) :
    (s.ringResumes n).memOk = true := by
  unfold State.ringResumes
  refine memOk_ite ?_ (memOk_onRing ?_ _ _) <;> exact h

theorem memOk_execRingBacklogWrite {s : State} (h : s.memOk = true) (ring : Nat) : keepsMem (execRingBacklogWrite ring s) :=
  keepsMem_onlyIf (memOk_ringResumes (memOk_writeBacklog h _ _) _) h

theorem memOk_execRingPause {s : State} (h : s.memOk = true) (seq : Nat) :
    keepsMem (execRingPause seq s) := by
  unfold execRingPause
  split
  · exact keepsMem_onlyIf (memOk_count (memOk_onRing (memOk_onLive h _ _) _ _) _) h
  · exact keepsMem_next h

theorem memOk_execRingWriteRetry {s : State} (h : s.memOk = true) (seg : Nat) (tag : Nat) :
    keepsMem (execRingWriteRetry seg tag s) := by
  unfold execRingWriteRetry
  split
  · refine keepsMem_ite (keepsMem_next h) ?_
    split
    · refine keepsMem_next (memOk_onRing (memOk_onSeg h ?_) _ _)
      exact fun _ h => h
    · refine keepsMem_next (memOk_onSeg h ?_)
      exact fun _ h => h
  · exact keepsMem_next h

theorem memOk_landed {s : State} (h : s.memOk = true) (n : Nat) (b : BackRec) :
    (s.landed n b).memOk = true := h

theorem memOk_recordDone {s : State} (h : s.memOk = true) (n : Nat) (b : BackRec) :
    (s.recordDone n b).memOk = true := by
  unfold State.recordDone
  split
  · exact h
  · exact memOk_ringResumes (memOk_onLive h _ _) _
  · exact memOk_onLive h _ _
  · exact h

theorem memOk_advanceTail {s : State} (h : s.memOk = true) (n : Nat) (l : List BackRec) : (State.advanceTail n l s).memOk = true := by
  induction l generalizing s with
  | nil => exact h
  | cons b l ih =>
    unfold State.advanceTail
    split
    · exact ih (memOk_landed (memOk_blockMoves h _ _ _) _ _)
    · exact h

theorem memOk_entryVisible {s : State} (h : s.memOk = true) (n : Nat) (idx : Nat) :
    (s.entryVisible n idx).memOk = true := by
  unfold State.entryVisible
  exact memOk_advanceTail (memOk_onRing h _ _) _ _

theorem memOk_writeBackVisible {s : State} (h : s.memOk = true) (n : Nat) (raise : Bool) (covers : List BackRec) :
    (s.writeBackVisible n raise covers).memOk = true := by
  unfold State.writeBackVisible
  exact memOk_ite (memOk_raiseVector (memOk_foldl (fun t x h => memOk_recordDone h _ _) (memOk_onRing h _ _)) _) (memOk_foldl (fun t x
      h => memOk_recordDone h _ _) (memOk_onRing h _ _))

theorem memOk_ringWriteFailed {s : State} (h : s.memOk = true) (seg : Nat) (r : DmaReq) :
    (s.ringWriteFailed seg r).memOk = true := by
  unfold State.ringWriteFailed
  split
  · refine memOk_onRing (memOk_onSeg h ?_) _ _
    exact fun _ h => h
  · refine memOk_onRing (memOk_onSeg h ?_) _ _
    exact fun _ h => h
  · refine memOk_onSeg h ?_
    exact fun _ h => h

theorem memOk_forwardMsg {s : State} (h : s.memOk = true) (out : Bool) (a' : Endpoint) :
    (s.forwardMsg out a').memOk = true := by
  unfold State.forwardMsg
  split
  · exact memOk_ite h (memOk_ite (memOk_control h _ _) (memOk_control h _ _))
  · exact h

theorem memOk_send {s : State} (h : s.memOk = true) (e : Endpoint) (words : List Nat) :
    (s.send e words).memOk = true := by
  unfold State.send
  split
  · exact memOk_sendRecord (memOk_putOut h _ _) _ _
  · exact memOk_onSeg (memOk_putOut (memOk_forwardMsg h _ _) _ _) (fun _ h => h)
  · exact memOk_putOut h _ _

theorem memOk_mediumReads {s : State} (h : s.memOk = true) (e : Endpoint) :
    (s.mediumReads e).memOk = true := by
  unfold State.mediumReads
  split
  · exact h
  · exact h
  · refine memOk_ite h ?_
    split
    · exact memOk_onSeg (memOk_putOut h _ _) (fun _ h => h)
    · exact memOk_putOut h _ _

theorem memOk_takeIn {s : State} (h : s.memOk = true) (e : Endpoint) (words : List Nat) :
    (s.takeIn e words).memOk = true := by
  unfold State.takeIn
  exact memOk_ite (memOk_blockMoves (memOk_putIn (memOk_ite (memOk_fields (memOk_forwardMsg (memOk_mediumReads h _) _ _))
      (memOk_forwardMsg (memOk_mediumReads h _) _ _)) _ _) _ _ _) (memOk_putIn (memOk_ite (memOk_fields (memOk_forwardMsg
      (memOk_mediumReads h _) _ _)) (memOk_forwardMsg (memOk_mediumReads h _) _ _)) _ _)

theorem memOk_answerMsg {s : State} (h : s.memOk = true) (p : Path) (hd : OamHead) (words : List Nat) {act : State → State}
    (hact : ∀ t, t.memOk = true → (act t).memOk = true) : keepsMem (s.answerMsg p hd words act) :=
  keepsMem_onlyIf (memOk_ite (hact _ (memOk_takeIn h _ _)) (memOk_send (memOk_takeIn h _ _) _ _)) h

theorem memOk_closeTransfer {s : State} (h : s.memOk = true) (e : Endpoint) (id : Nat) :
    (s.closeTransfer e id).memOk = true := h

theorem memOk_forget {s : State} (h : s.memOk = true) (e : Endpoint) (id : Nat) :
    (s.forget e id).memOk = true := by
  unfold State.forget
  exact memOk_ite (memOk_onEp h _ _) h

theorem memOk_finish {s : State} (h : s.memOk = true) (e : Endpoint) (t : Transfer) (toggle : Bool) (words : List Nat) :
    (s.finish e t toggle words).memOk = true := by
  unfold State.finish
  exact memOk_send (memOk_onEp (memOk_forget (memOk_closeTransfer h _ _) _ _) _ _) _ _

theorem memOk_finishLoad {s : State} (h : s.memOk = true) (e : Endpoint) (t : Transfer) (words : List Nat) :
    (s.finishLoad e t words).memOk = true := by
  unfold State.finishLoad
  exact memOk_foldl (fun t x h => memOk_send h _ _) (memOk_finish h _ _ _ _)

theorem memOk_answerEnded {s : State} (h : s.memOk = true) (p : Path) (h' : OamHead) (write : Bool) :
    (s.answerEnded p h' write).memOk = true := by
  unfold State.answerEnded
  split <;> exact memOk_send h _ _

theorem memOk_onTransfer {s : State} (h : s.memOk = true) (e : Endpoint) (id : Nat) (f : Transfer → Transfer) :
    (s.onTransfer e id f).memOk = true := h

theorem memOk_replaceTransfer {s : State} (h : s.memOk = true) (e : Endpoint) (id : Nat) :
    (s.replaceTransfer e id).memOk = true := by
  unfold State.replaceTransfer
  dsimp only
  split
  · exact memOk_send (memOk_closeTransfer (memOk_forget h _ _) _ _) _ _
  · exact memOk_forget h _ _

theorem memOk_openTransfer {s : State} (h : s.memOk = true) (e : Endpoint) (t : Transfer) {act : State → State}
    (hact : ∀ t, t.memOk = true → (act t).memOk = true) : (s.openTransfer e t act).memOk = true :=
  memOk_ite (memOk_send h _ _) (hact _ (memOk_onEp h _ _))

theorem memOk_readEntry {s : State} (h : s.memOk = true) (p : Path) (h' : OamHead) (buffer : Nat) (room : Nat) (o : Obj) :
    (s.readEntry p h' buffer room o).memOk = true := by
  unfold State.readEntry
  exact memOk_ite (memOk_ite (memOk_send h _ _) (memOk_ite (memOk_send h _ _) (memOk_openTransfer h _ _ (fun t h => memOk_ite h
      (memOk_dma h _ _))))) (memOk_ite (memOk_send h _ _) (memOk_ite (memOk_send h _ _) (memOk_openTransfer h _ _ (fun t h =>
      memOk_send h _ _))))

theorem memOk_doRead {s : State} (h : s.memOk = true) (p : Path) (h' : OamHead) (buffer : Nat) (room : Nat) :
    (s.doRead p h' buffer room).memOk = true := by
  unfold State.doRead
  dsimp only
  split
  · exact memOk_readEntry (memOk_replaceTransfer h _ _) _ _ _ _ _
  · exact memOk_send (memOk_replaceTransfer h _ _) _ _
  · exact memOk_replaceTransfer h _ _

theorem memOk_execRead {s : State} (h : s.memOk = true) (_cyc : Nat) (path : Path) (head : OamHead) (buffer : Nat) (room : Nat) :
    keepsMem (execRead _cyc path head buffer room s) := by
  unfold execRead
  exact keepsMem_inBlockOf h (fun t h => keepsMem_ite (keepsMem_onlyIf (memOk_doRead (memOk_takeIn h _ _) _ _ _ _) h) (memOk_answerMsg
      h _ _ _ (fun t h => memOk_doRead h _ _ _ _)))

theorem memOk_nextPiece {s : State} (h : s.memOk = true) (e : Endpoint) (h' : OamHead) (t : Transfer) :
    (s.nextPiece e h' t).memOk = true := by
  unfold State.nextPiece
  exact memOk_ite (memOk_ite (memOk_finish h _ _ _ _) (memOk_send (memOk_onTransfer h _ _ _) _ _)) (memOk_ite (memOk_send h _ _)
      (memOk_send (memOk_onTransfer h _ _ _) _ _))

theorem memOk_doRequest {s : State} (h : s.memOk = true) (p : Path) (h' : OamHead) :
    (s.doRequest p h').memOk = true := by
  unfold State.doRequest
  split
  · exact memOk_ite (memOk_send h _ _) (memOk_nextPiece h _ _ _)
  · exact memOk_answerEnded h _ _ _

theorem memOk_execSegmentRequest {s : State} (h : s.memOk = true) (_cyc : Nat) (path : Path) (head : OamHead) :
    keepsMem (execSegmentRequest _cyc path head s) := by
  unfold execSegmentRequest
  exact keepsMem_inBlockOf h (fun t h => keepsMem_ite (keepsMem_onlyIf (memOk_doRequest (memOk_takeIn h _ _) _ _) h) (memOk_answerMsg h
      _ _ _ (fun t h => memOk_doRequest h _ _)))

theorem memOk_stage {s : State} (h : s.memOk = true) (who : Principal) (index : Nat) (sub : Nat) (data : List Nat) :
    (s.stage who index sub data).memOk = true := h

theorem memOk_initWrite {s : State} (h : s.memOk = true) (p : Path) (h' : OamHead) (total : Nat) (source : Nat) (o : Obj) :
    (s.initWrite p h' total source o).memOk = true := by
  unfold State.initWrite
  exact memOk_ite (memOk_send h _ _) (memOk_ite (memOk_send h _ _) (memOk_ite (memOk_send h _ _) (memOk_ite (memOk_send h _ _)
      (memOk_ite (memOk_openTransfer h _ _ (fun t h => memOk_ite h (memOk_dma h _ _))) (memOk_openTransfer h _ _ (fun t h => memOk_send
      h _ _))))))

theorem memOk_execWriteInitiate {s : State} (h : s.memOk = true) (_cyc : Nat) (path : Path) (head : OamHead) (total : Nat) (source : Nat) :
    keepsMem (execWriteInitiate _cyc path head total source s) := by
  unfold execWriteInitiate
  refine keepsMem_inBlockOf h ?_
  intro t h
  refine memOk_answerMsg h _ _ _ ?_
  intro t h
  dsimp only
  split
  · exact memOk_initWrite (memOk_replaceTransfer h _ _) _ _ _ _ _
  · exact memOk_send (memOk_replaceTransfer h _ _) _ _
  · exact memOk_replaceTransfer h _ _

theorem memOk_finishWrite {s : State} (h : s.memOk = true) (e : Endpoint) (t : Transfer) (toggle : Bool) (len : Nat) (data : List Nat) :
    (s.finishWrite e t toggle len data).memOk = true := by
  unfold State.finishWrite
  split
  · exact memOk_ite (memOk_finish h _ _ _ _) (memOk_ite (memOk_finish (memOk_stage h _ _ _ _) _ _ _ _) (memOk_onTransfer h _ _ _))
  · exact memOk_finish h _ _ _ _

theorem memOk_takeSegment {s : State} (h : s.memOk = true) (e : Endpoint) (h' : OamHead) (offset : Nat) (data : List Nat) (t : Transfer) :
    (s.takeSegment e h' offset data t).memOk = true := by
  unfold State.takeSegment
  exact memOk_ite (memOk_send (memOk_closeTransfer h _ _) _ _) (memOk_ite (memOk_send (memOk_closeTransfer h _ _) _ _) (memOk_ite
      (memOk_finishWrite h _ _ _ _ _) (memOk_send (memOk_onTransfer h _ _ _) _ _)))

theorem memOk_doSegment {s : State} (h : s.memOk = true) (p : Path) (h' : OamHead) (offset : Nat) (data : List Nat) :
    (s.doSegment p h' offset data).memOk = true := by
  unfold State.doSegment
  split
  · exact memOk_ite (memOk_send h _ _) (memOk_ite (memOk_onTransfer h _ _ _) (memOk_ite (memOk_send h _ _) (memOk_ite
        (memOk_takeSegment h _ _ _ _ _) (memOk_ite (memOk_send h _ _) (memOk_send (memOk_onTransfer h _ _ _) _ _)))))
  · exact memOk_answerEnded h _ _ _

theorem memOk_execSegment {s : State} (h : s.memOk = true) (cyc : Nat) (path : Path) (head : OamHead) (offset : Nat) (data : List Nat) :
    keepsMem (execSegment cyc path head offset data s) := by
  unfold execSegment
  exact keepsMem_inBlockOf h (fun t h => keepsMem_ite (memOk_answerMsg h _ _ _ (fun t h => memOk_doSegment (memOk_ite (memOk_given h _)
      h) _ _ _ _)) (keepsMem_next h))

theorem memOk_indirectDone {s : State} (h : s.memOk = true) (e : Endpoint) (t : Transfer) (data : List Nat) :
    (s.indirectDone e t data).memOk = true := by
  unfold State.indirectDone
  exact memOk_ite (memOk_send (memOk_closeTransfer h _ _) _ _) (memOk_ite (memOk_finishWrite h _ _ _ _ _) (memOk_send
      (memOk_closeTransfer h _ _) _ _))

theorem memOk_execIndirectTransferComplete {s : State} (h : s.memOk = true) (cyc : Nat) (ep : Endpoint) (transfer : Nat) (error : Bool)
    (data : List Nat) :
    keepsMem (execIndirectTransferComplete cyc ep transfer error data s) := by
  unfold execIndirectTransferComplete
  refine keepsMem_inBlockOf h ?_
  intro t h
  split
  · exact keepsMem_onlyIf (memOk_indirectDone (memOk_given h _) _ _ _) h
  · exact keepsMem_next h

theorem memOk_abortOwn {s : State} (h : s.memOk = true) (p : Path) (id : Nat) :
    (s.abortOwn p id).memOk = true := by
  unfold State.abortOwn
  exact memOk_ite (memOk_forget (memOk_closeTransfer h _ _) _ _) h

theorem memOk_execAbort {s : State} (h : s.memOk = true) (_cyc : Nat) (path : Path) (head : OamHead) (code : Nat) :
    keepsMem (execAbort _cyc path head code s) := by
  unfold execAbort
  exact keepsMem_inBlockOf h (fun t h => keepsMem_ite (keepsMem_onlyIf (memOk_abortOwn (memOk_takeIn h _ _) _ _) h) (memOk_answerMsg h
      _ _ _ (fun t h => memOk_abortOwn h _ _)))

theorem memOk_answerBarred {s : State} (h : s.memOk = true) (e : Endpoint) (h' : OamHead) :
    (s.answerBarred e h').memOk = true := by
  unfold State.answerBarred
  exact memOk_send h _ _

theorem memOk_execOamReservedCmd {s : State} (h : s.memOk = true) (by_ : PathAt) (head : OamHead) :
    keepsMem (execOamReservedCmd by_ head s) := by
  unfold execOamReservedCmd
  exact keepsMem_inBlockOf h (fun t h => keepsMem_onlyIf (memOk_answerBarred (memOk_takeIn (memOk_onCycle h _) _ _) _ _) h)

theorem memOk_execOamDiscard {s : State} (h : s.memOk = true) (by_ : PathAt) (head : OamHead) (headIntact : Bool) :
    keepsMem (execOamDiscard by_ head headIntact s) := by
  unfold execOamDiscard
  exact keepsMem_inBlockOf h (fun t h => keepsMem_onlyIf (memOk_ite (memOk_answerBarred (memOk_count (memOk_takeIn (memOk_onCycle h _)
      _ _) _) _ _) (memOk_count (memOk_takeIn (memOk_onCycle h _) _ _) _)) h)

theorem memOk_execTransferTimeout {s : State} (h : s.memOk = true) (ep : Endpoint) (transfer : Nat) :
    keepsMem (execTransferTimeout ep transfer s) := by
  unfold execTransferTimeout
  refine keepsMem_inBlockOf h ?_
  intro t h
  split
  · exact keepsMem_onlyIf (memOk_send (memOk_closeTransfer h _ _) _ _) h
  · exact keepsMem_next h

theorem memOk_execOwPush {s : State} (h : s.memOk = true) (put : WordAt) :
    keepsMem (execOwPush put s) := by
  unfold execOwPush
  exact keepsMem_onlyIf (memOk_putIn (memOk_closeCycles (memOk_onCycle h _)) _ _) h

theorem memOk_execOwPushLast {s : State} (h : s.memOk = true) (put : WordAt) :
    keepsMem (execOwPushLast put s) := by
  unfold execOwPushLast
  exact keepsMem_onlyIf (memOk_putIn (memOk_closeCycles (memOk_onCycle h _)) _ _) h

theorem memOk_refuseLoad {s : State} (h : s.memOk = true) (code : Nat) :
    (refuseLoad code s).1.memOk = true := h

theorem memOk_acceptLoad {s : State} (h : s.memOk = true) :
    (acceptLoad s).1.memOk = true := h

theorem memOk_load {s : State} (h : s.memOk = true) (cyc : Nat) (p : Path) (id index sub : Nat) {act : LoadAct}
    (hact : ∀ t u, u.memOk = true → (act t u).1.memOk = true) : keepsMem (s.load cyc p id index sub act) := by
  unfold State.load
  refine keepsMem_inBlockOf h (fun u hu => ?_)
  split
  next t _ =>
    have taken : ((u.given (u.stampFor cyc)).closeTransfer p.ep id).memOk = true := memOk_closeTransfer (memOk_given hu _) _ _
    have done := memOk_ite_fst (c := (u.power.hush == 0) = true) (hact t _ taken) (memOk_refuseLoad taken (abortCode 7 0))
    refine keepsMem_onlyIf ?_ hu
    split
    · exact memOk_finishLoad done _ _ _
    · exact memOk_finishLoad done _ _ _
  next => exact keepsMem_next hu

theorem memOk_loadProgram {a'' : State} (h : a''.memOk = true) (p : Nat) (img : ProgramImage) (a' : Transfer) :
    (loadProgram p img a' a'').1.memOk = true := by
  unfold loadProgram
  split
  · exact h
  · dsimp only
    split
    · exact memOk_ite_fst (memOk_refuseLoad h _) (memOk_ite_fst (memOk_refuseLoad h _) (memOk_acceptLoad (memOk_onPart h _ _)))
    · exact memOk_ite_fst (memOk_refuseLoad h _) (memOk_acceptLoad (memOk_onPart h _ _))

theorem memOk_execProgramLoad {s : State} (h : s.memOk = true) (cyc : Nat) (path : Path) (transfer : Nat) (part : Nat) (image :
    ProgramImage) :
    keepsMem (execProgramLoad cyc path transfer part image s) := by
  unfold execProgramLoad
  exact memOk_load h _ _ _ _ _ (fun t x h => memOk_loadProgram h _ _ _)

theorem memOk_loadStreams {a'' : State} (h : a''.memOk = true) (p : Nat) (entries : List Nat) (a' : Transfer) :
    (loadStreams p entries a' a'').1.memOk = true := by
  unfold loadStreams
  exact memOk_ite_fst (memOk_refuseLoad h _) (memOk_ite_fst (memOk_refuseLoad h _) (memOk_acceptLoad (memOk_onPart h _ _)))

theorem memOk_execStreamTable {s : State} (h : s.memOk = true) (cyc : Nat) (path : Path) (transfer : Nat) (part : Nat) (entries : List
    Nat) :
    keepsMem (execStreamTable cyc path transfer part entries s) := by
  unfold execStreamTable
  exact memOk_load h _ _ _ _ _ (fun t x h => memOk_loadStreams h _ _ _)

theorem memOk_loadKernel {a'' : State} (h : a''.memOk = true) (p : Nat) (img : KernelImage) (a' : Transfer) :
    (loadKernel p img a' a'').1.memOk = true := by
  unfold loadKernel
  exact memOk_ite_fst (memOk_refuseLoad h _) (memOk_ite_fst (memOk_refuseLoad h _) (memOk_ite_fst (memOk_refuseLoad h _)
      (memOk_acceptLoad (memOk_onPart h _ _))))

theorem memOk_execKernelLoad {s : State} (h : s.memOk = true) (cyc : Nat) (path : Path) (transfer : Nat) (part : Nat) (image :
    KernelImage) :
    keepsMem (execKernelLoad cyc path transfer part image s) := by
  unfold execKernelLoad
  exact memOk_load h _ _ _ _ _ (fun t x h => memOk_loadKernel h _ _ _)

theorem memOk_sealedLoad {s : State} (h : s.memOk = true) (kind code : Nat) (part : Option Nat) (img : SealedImage) (t : Transfer) {act
    : LoadAct}
    (hact : ∀ u, u.memOk = true → (act t u).1.memOk = true) : (sealedLoad kind code part img act t s).1.memOk = true :=
  memOk_ite_fst (memOk_refuseLoad h _) (memOk_ite_fst (hact s h) (memOk_refuseLoad (memOk_count h _) _))

theorem memOk_placeBytes {s : State} (h : s.memOk = true) (base : Nat) (everywhere : Bool) (l : List (Nat × Nat × List Nat)) :
    (s.placeBytes base everywhere l).memOk = true :=
  memOk_onSegs h fun _ _ hg => segMemOk_withStack hg (wf_foldl (fun _ _ hm => wf_memWriteBytes _ _ _ hm) _ _ (memOk_segment.1 hg).2)

theorem memOk_removeModel {a'' : State} (h : a''.memOk = true) (p : Nat) (id : Nat) (a' : Transfer) :
    (removeModel p id a' a'').1.memOk = true := by
  unfold removeModel
  split
  · exact memOk_ite_fst (memOk_refuseLoad h _) (memOk_ite_fst (memOk_refuseLoad h _) (memOk_acceptLoad (memOk_onPart h _ _)))
  · exact h

theorem memOk_addModel {a'' : State} (h : a''.memOk = true) (p : Nat) (img : SealedImage) (plain : ModelPlain) (a' : Transfer) :
    (addModel p img plain a' a'').1.memOk = true := by
  unfold addModel
  exact memOk_ite_fst (memOk_refuseLoad h _) (memOk_ite_fst (memOk_refuseLoad h _) (memOk_ite_fst (memOk_refuseLoad h _) (memOk_ite_fst
      (memOk_refuseLoad h _) (memOk_acceptLoad (memOk_placeBytes (memOk_onPart h _ _) _ _ _)))))

theorem memOk_execModelLoad {s : State} (h : s.memOk = true) (cyc : Nat) (path : Path) (transfer : Nat) (part : Nat) (image :
    SealedImage) (plain : ModelPlain) :
    keepsMem (execModelLoad cyc path transfer part image plain s) := by
  unfold execModelLoad
  refine memOk_load h _ _ _ _ _ ?_
  intro t x h
  refine memOk_sealedLoad h _ _ _ _ _ ?_
  intro t h
  split
  · exact memOk_removeModel h _ _ _
  · exact memOk_addModel h _ _ _ _

theorem memOk_loadIndex {a'' : State} (h : a''.memOk = true) (p : Nat) (img : SealedImage) (plain : IndexPlain) (a' : Transfer) :
    (loadIndex p img plain a' a'').1.memOk = true := by
  unfold loadIndex
  refine memOk_ite_fst (memOk_refuseLoad h _) (memOk_ite_fst (memOk_acceptLoad ?_) (memOk_ite_fst (memOk_refuseLoad h _) (memOk_ite_fst
      (memOk_refuseLoad h _) (memOk_acceptLoad (memOk_placeBytes ?_ _ _ _))))) <;> exact h

theorem memOk_execIndexLoad {s : State} (h : s.memOk = true) (cyc : Nat) (path : Path) (transfer : Nat) (part : Nat) (image :
    SealedImage) (plain : IndexPlain) :
    keepsMem (execIndexLoad cyc path transfer part image plain s) := by
  unfold execIndexLoad
  exact keepsMem_ite (memOk_load h _ _ _ _ _ (fun t x h => memOk_sealedLoad h _ _ _ _ _ (fun t h => memOk_loadIndex h _ _ _ _)))
      (keepsMem_next h)

theorem memOk_unlock {s : State} (h : s.memOk = true) (mask : Nat) :
    (s.unlock mask).memOk = true := h

theorem memOk_emptySlot {s : State} (h : s.memOk = true) (slot : Nat) :
    (s.emptySlot slot).memOk = true := by
  unfold State.emptySlot
  exact memOk_onSegs h (fun _ _ h => h)

theorem memOk_removeRuleset {a'' : State} (h : a''.memOk = true) (id : Nat) (a' : Transfer) :
    (removeRuleset id a' a'').1.memOk = true := by
  unfold removeRuleset
  exact memOk_ite_fst (memOk_refuseLoad h _) (memOk_acceptLoad (memOk_foldl (fun t x h => memOk_emptySlot h _) h))

theorem memOk_addRuleset {a'' : State} (h : a''.memOk = true) (img : SealedImage) (p : RulePlain) (a' : Transfer) :
    (addRuleset img p a' a'').1.memOk = true := by
  unfold addRuleset
  exact memOk_ite_fst (memOk_refuseLoad h _) (memOk_ite_fst (memOk_refuseLoad h _) (memOk_ite_fst (memOk_acceptLoad (memOk_unlock h _))
      (memOk_ite_fst (memOk_refuseLoad h _) (memOk_acceptLoad h))))

theorem memOk_execRulesetLoad {s : State} (h : s.memOk = true) (cyc : Nat) (path : Path) (transfer : Nat) (image : SealedImage) (plain
    : RulePlain) :
    keepsMem (execRulesetLoad cyc path transfer image plain s) := by
  unfold execRulesetLoad
  refine memOk_load h _ _ _ _ _ ?_
  intro t x h
  refine memOk_sealedLoad h _ _ _ _ _ ?_
  intro t h
  split
  · exact memOk_removeRuleset h _ _
  · exact memOk_addRuleset h _ _ _

theorem memOk_execRulesetInstall {s : State} (h : s.memOk = true) (slot : Nat) :
    keepsMem (execRulesetInstall slot s) := by
  unfold execRulesetInstall
  split
  · exact keepsMem_onlyIf h h
  · exact keepsMem_next h

theorem memOk_loadDetok {a'' : State} (h : a''.memOk = true) (img : SealedImage) (p : DetokPlain) (a' : Transfer) :
    (loadDetok img p a' a'').1.memOk = true := by
  unfold loadDetok
  refine memOk_ite_fst (memOk_ite_fst (memOk_refuseLoad h _) (memOk_acceptLoad ?_)) (memOk_ite_fst (memOk_refuseLoad h _)
      (memOk_ite_fst (memOk_refuseLoad h _) (memOk_ite_fst (memOk_refuseLoad h _) (memOk_acceptLoad ?_)))) <;> exact h

theorem memOk_execDetokLoad {s : State} (h : s.memOk = true) (cyc : Nat) (path : Path) (transfer : Nat) (image : SealedImage) (plain :
    DetokPlain) :
    keepsMem (execDetokLoad cyc path transfer image plain s) := by
  unfold execDetokLoad
  exact memOk_load h _ _ _ _ _ (fun t x h => memOk_sealedLoad h _ _ _ _ _ (fun t h => memOk_loadDetok h _ _ _))

theorem segMemOk_securedSegment {g : Segment} (h : g.memOk = true) :
    (securedSegment g).memOk = true := h

theorem segMemOk_retiredSegment {g : Segment} (h : g.memOk = true) :
    (retiredSegment g).memOk = true := by
  unfold retiredSegment
  dsimp only
  exact segMemOk_fields (segMemOk_resetSegment h _)

theorem memOk_retire {s : State} (h : s.memOk = true) : s.retire.memOk = true := by
  obtain ⟨hs, ho⟩ := memOk_iff.1 h
  refine memOk_iff.2 ⟨fun g hg => ?_, ho⟩
  obtain ⟨i, hi, rfl⟩ := List.mem_mapIdx.1 hg
  split
  · exact hs _ (List.getElem_mem hi)
  · exact segMemOk_retiredSegment (hs _ (List.getElem_mem hi))

theorem memOk_lifecycleWrite {s : State} (h : s.memOk = true) (value : Nat) : (lifecycleWrite value s).1.memOk = true :=
  memOk_ite_fst h (memOk_ite_fst h (memOk_ite_fst (memOk_onSegs h fun _ _ hg => segMemOk_ite hg (segMemOk_securedSegment hg))
      (memOk_retire h)))

theorem memOk_rotateEnv {s : State} (h : s.memOk = true) (p : Nat) :
    (s.rotateEnv p).memOk = true := by
  unfold State.rotateEnv
  dsimp only
  exact memOk_fields (memOk_toStandby h)

theorem memOk_rotateDim {s : State} (h : s.memOk = true) (p : Nat) :
    (s.rotateDim p).memOk = true := by
  unfold State.rotateDim
  dsimp only
  refine memOk_fields ?_
  refine memOk_onSegs (memOk_toStandby h) ?_
  exact fun _ _ h => h

theorem memOk_envRotateWrite {a' : State} (h : a'.memOk = true) (mask : Nat) :
    (envRotateWrite mask a').1.memOk = true := by
  unfold envRotateWrite
  exact memOk_foldl (fun t x h => memOk_rotateEnv h _) h

theorem memOk_dimRotateWrite {a' : State} (h : a'.memOk = true) (mask : Nat) :
    (dimRotateWrite mask a').1.memOk = true := by
  unfold dimRotateWrite
  exact memOk_foldl (fun t x h => memOk_rotateDim h _) h

theorem memOk_execDimEpochExhausted {s : State} (h : s.memOk = true) (part : Nat) :
    keepsMem (execDimEpochExhausted part s) := by
  unfold execDimEpochExhausted
  exact keepsMem_onlyIf (memOk_rotateDim h _) h

theorem memOk_writeArchive {s : State} (h : s.memOk = true) (e : List Nat) :
    (s.writeArchive e).memOk = true := by
  unfold State.writeArchive
  exact memOk_ite (memOk_fields (memOk_toStandby h)) (memOk_fields (memOk_toStandby h))

theorem memOk_loadArchiveKeys {a'' : State} (h : a''.memOk = true) (entries : List (List Nat)) (a' : Transfer) :
    (loadArchiveKeys entries a' a'').1.memOk = true := by
  unfold loadArchiveKeys
  exact memOk_ite_fst (memOk_refuseLoad h _) (memOk_ite_fst (memOk_refuseLoad h _) (memOk_acceptLoad (memOk_foldl (fun t x h =>
      memOk_writeArchive h _) h)))

theorem memOk_execArchiveKeys {s : State} (h : s.memOk = true) (cyc : Nat) (path : Path) (transfer : Nat) (entries : List (List Nat)) :
    keepsMem (execArchiveKeys cyc path transfer entries s) := by
  unfold execArchiveKeys
  exact memOk_load h _ _ _ _ _ (fun t x h => memOk_loadArchiveKeys h _ _)

theorem memOk_execArchiveKeyInstall {s : State} (h : s.memOk = true) (slot : Nat) :
    keepsMem (execArchiveKeyInstall slot s) := by
  unfold execArchiveKeyInstall
  split
  · exact keepsMem_onlyIf h h
  · exact keepsMem_next h

theorem memOk_setEid {s : State} (h : s.memOk = true) (e : Endpoint) (eid : Nat) :
    (s.setEid e eid).memOk = true := by
  unfold State.setEid
  split
  · exact memOk_onSeg h (fun _ h => h)
  · exact h

theorem memOk_mctpReply {s : State} (h : s.memOk = true) (e : Endpoint) (n : Nat) (given : List Nat) :
    (s.mctpReply e n given).memOk = true := by
  unfold State.mctpReply
  exact memOk_send h _ _

theorem memOk_execSetEndpointId {s : State} (h : s.memOk = true) (ep : Endpoint) (eid : Nat) :
    keepsMem (execSetEndpointId ep eid s) := by
  unfold execSetEndpointId
  exact keepsMem_inBlockOf h (fun t h => keepsMem_onlyIf (memOk_mctpReply (memOk_setEid h _ _) _ _ _) h)

theorem memOk_execGetEndpointId {s : State} (h : s.memOk = true) (ep : Endpoint) :
    keepsMem (execGetEndpointId ep s) := by
  unfold execGetEndpointId
  exact keepsMem_inBlockOf h (fun t h => keepsMem_onlyIf (memOk_mctpReply h _ _ _) h)

theorem memOk_execGetMctpVersionSupport {s : State} (h : s.memOk = true) (ep : Endpoint) (msgType : Nat) :
    keepsMem (execGetMctpVersionSupport ep msgType s) := by
  unfold execGetMctpVersionSupport
  exact keepsMem_inBlockOf h (fun t h => keepsMem_onlyIf (memOk_mctpReply h _ _ _) h)

theorem memOk_execGetMessageTypeSupport {s : State} (h : s.memOk = true) (ep : Endpoint) :
    keepsMem (execGetMessageTypeSupport ep s) := by
  unfold execGetMessageTypeSupport
  exact keepsMem_inBlockOf h (fun t h => keepsMem_onlyIf (memOk_mctpReply h _ _ _) h)

theorem memOk_execGetVendorDefinedMessageSupport {s : State} (h : s.memOk = true) (ep : Endpoint) (selector : Nat) :
    keepsMem (execGetVendorDefinedMessageSupport ep selector s) := by
  unfold execGetVendorDefinedMessageSupport
  exact keepsMem_inBlockOf h (fun t h => keepsMem_onlyIf (memOk_mctpReply h _ _ _) h)

theorem memOk_execEntdaa {s : State} (h : s.memOk = true) (seg : Nat) (addr : Nat) :
    keepsMem (execEntdaa seg addr s) := by
  unfold execEntdaa
  exact keepsMem_inBlockOf h (fun t h => keepsMem_onlyIf (memOk_onSeg h (fun _ h => h)) h)

theorem memOk_execSetdasa {s : State} (h : s.memOk = true) (seg : Nat) (static : Nat) (addr : Nat) :
    keepsMem (execSetdasa seg static addr s) := by
  unfold execSetdasa
  exact keepsMem_inBlockOf h (fun t h => keepsMem_onlyIf (memOk_onSeg h (fun _ h => h)) h)

theorem memOk_spdmReply {s : State} (h : s.memOk = true) (e : Endpoint) (session : Option Nat) (code : Nat) (given : List Nat) :
    (s.spdmReply e session code given).memOk = true := h

theorem memOk_spdm {s : State} (h : s.memOk = true) (e : Endpoint) (ok : Bool) {act : State → State}
    (hact : ∀ t, t.memOk = true → (act t).memOk = true) : keepsMem (s.spdm e ok act) :=
  keepsMem_onlyIf (memOk_ite (hact s h) (memOk_spdmReply h _ _ _ _)) h

theorem memOk_execGetVersion {s : State} (h : s.memOk = true) (ep : Endpoint) :
    keepsMem (execGetVersion ep s) := by
  unfold execGetVersion
  exact keepsMem_inBlockOf h (fun t h => memOk_spdm h _ _ (fun _ h => h))

theorem memOk_execGetCapabilities {s : State} (h : s.memOk = true) (ep : Endpoint) :
    keepsMem (execGetCapabilities ep s) := by
  unfold execGetCapabilities
  exact keepsMem_inBlockOf h (fun t h => memOk_spdm h _ _ (fun _ h => h))

theorem memOk_execNegotiateAlgorithms {s : State} (h : s.memOk = true) (ep : Endpoint) (offered : Bool) :
    keepsMem (execNegotiateAlgorithms ep offered s) := by
  unfold execNegotiateAlgorithms
  exact keepsMem_inBlockOf h (fun t h => memOk_spdm h _ _ (fun _ h => h))

theorem memOk_spdmSigned {s : State} (h : s.memOk = true) (e : Endpoint) (ok : Bool) {act : Nat → State → State}
    (hact : ∀ k t, t.memOk = true → (act k t).memOk = true) : keepsMem (s.spdmSigned e ok act) := by
  unfold State.spdmSigned
  split
  · exact memOk_spdm h e _ (hact _)
  · exact memOk_spdm h e _ fun _ ht => ht

theorem memOk_execGetDigests {s : State} (h : s.memOk = true) (ep : Endpoint) :
    keepsMem (execGetDigests ep s) := by
  unfold execGetDigests
  exact keepsMem_inBlockOf h (fun t h => memOk_spdmSigned h _ _ (fun _ _ h => h))

theorem memOk_execGetCertificate {s : State} (h : s.memOk = true) (ep : Endpoint) (slot : Nat) :
    keepsMem (execGetCertificate ep slot s) := by
  unfold execGetCertificate
  exact keepsMem_inBlockOf h (fun t h => memOk_spdmSigned h _ _ (fun _ _ h => h))

theorem memOk_execChallenge {s : State} (h : s.memOk = true) (ep : Endpoint) (slot : Nat) (nonce : Nat) :
    keepsMem (execChallenge ep slot nonce s) := by
  unfold execChallenge
  exact keepsMem_inBlockOf h (fun t h => memOk_spdmSigned h _ _ (fun _ _ h => h))

theorem memOk_measureReply {s : State} (h : s.memOk = true) (e : Endpoint) (block : Nat) (sign : Bool) (nonce : Nat) (key : Nat) :
    (s.measureReply e block sign nonce key).memOk = true := by
  unfold State.measureReply
  split <;> exact h

theorem memOk_execGetMeasurements {s : State} (h : s.memOk = true) (ep : Endpoint) (block : Nat) (sign : Bool) (nonce : Nat) :
    keepsMem (execGetMeasurements ep block sign nonce s) := by
  unfold execGetMeasurements
  exact keepsMem_inBlockOf h (fun t h => memOk_spdmSigned h _ _ (fun t x h => memOk_measureReply (memOk_given h _) _ _ _ _ _))

theorem memOk_dropSession {s : State} (h : s.memOk = true) (e : Endpoint) (id : Nat) :
    (s.dropSession e id).memOk = true := h

theorem memOk_execKeyExchange {s : State} (h : s.memOk = true) (ep : Endpoint) (session : Nat) (mutualRoot : Option Nat) :
    keepsMem (execKeyExchange ep session mutualRoot s) := by
  unfold execKeyExchange
  exact keepsMem_inBlockOf h (fun t h => memOk_spdmSigned h _ _ (fun _ _ h => h))

theorem memOk_execFinish {s : State} (h : s.memOk = true) (ep : Endpoint) (session : Nat) (ok : Bool) :
    keepsMem (execFinish ep session ok s) := by
  unfold execFinish
  refine keepsMem_inBlockOf h ?_
  intro t h
  split
  · refine keepsMem_ite (memOk_spdm h _ _ ?_) (keepsMem_ite (memOk_spdm h _ _ ?_) (memOk_spdm h _ _ ?_)) <;> exact fun _ h => h
  · exact memOk_spdm h _ _ (fun _ h => h)

theorem memOk_inSession {s : State} (h : s.memOk = true) (e : Endpoint) (id : Nat) {act : SpdmSession → State → State}
    (hact : ∀ x t, t.memOk = true → (act x t).memOk = true) : keepsMem (s.inSession e id act) := by
  unfold State.inSession
  split
  · exact memOk_spdm h e _ (hact _)
  · exact memOk_spdm h e _ fun _ ht => ht

theorem memOk_execSpdmHeartbeat {s : State} (h : s.memOk = true) (ep : Endpoint) (session : Nat) :
    keepsMem (execSpdmHeartbeat ep session s) := by
  unfold execSpdmHeartbeat
  exact keepsMem_inBlockOf h (fun t h => memOk_inSession h _ _ (fun _ _ h => h))

theorem memOk_execKeyUpdate {s : State} (h : s.memOk = true) (ep : Endpoint) (session : Nat) :
    keepsMem (execKeyUpdate ep session s) := by
  unfold execKeyUpdate
  exact keepsMem_inBlockOf h (fun t h => memOk_inSession h _ _ (fun _ _ h => h))

theorem memOk_officerEnds {s : State} (h : s.memOk = true) (e : Endpoint) :
    (s.officerEnds e).memOk = true := h

theorem memOk_execEndSession {s : State} (h : s.memOk = true) (ep : Endpoint) (session : Nat) :
    keepsMem (execEndSession ep session s) := by
  unfold execEndSession
  exact keepsMem_inBlockOf h (fun t h => memOk_inSession h _ _ (fun t x h => memOk_ite (memOk_officerEnds (memOk_spdmReply
      (memOk_dropSession h _ _) _ _ _ _) _) (memOk_spdmReply (memOk_dropSession h _ _) _ _ _ _)))

theorem memOk_execProvisioning {s : State} (h : s.memOk = true) (seg : Nat) (data : ProvData) :
    keepsMem (execProvisioning seg data s) := by
  unfold execProvisioning
  exact keepsMem_inBlockOf h (fun t h => keepsMem_onlyIf (memOk_onSeg h (fun _ h => h)) h)

theorem memOk_standbyFences {s : State} (h : s.memOk = true) :
    s.standbyFences.memOk = true := by
  unfold State.standbyFences
  split
  · dsimp only
    exact memOk_fields (memOk_foldl (fun t x h => memOk_control h _ _) h)
  · dsimp only
    exact memOk_fields (memOk_foldl (fun t x h => memOk_control h _ _) h)

theorem memOk_execFence {s : State} (h : s.memOk = true) (seg : Nat) :
    keepsMem (execFence seg s) := by
  unfold execFence
  refine keepsMem_onlyIf (memOk_ite (memOk_standbyFences (memOk_raiseFenced (memOk_onSeg h ?_) _ _ _)) (memOk_raiseFenced (memOk_onSeg
      h ?_) _ _ _)) h <;> exact fun _ h => h

theorem memOk_endTransfers {s : State} (h : s.memOk = true) (x : EndpointS) :
    (s.endTransfers x).memOk = true := by
  unfold State.endTransfers
  exact memOk_foldl (fun t x h => memOk_send (memOk_closeTransfer h _ _) _ _) h

theorem memOk_fenceManager {s : State} (h : s.memOk = true) :
    s.fenceManager.memOk = true := by
  unfold State.fenceManager
  dsimp only
  refine memOk_fields ?_
  refine memOk_endpointMode (memOk_onSeg (memOk_raiseFenced (memOk_onSegs (memOk_foldl ?_ h) ?_) _ _ _) ?_) _
  · intro t x h
    exact memOk_endTransfers h _
  · exact fun _ _ h => h
  · exact fun _ h => h

theorem memOk_execManagerSelfFence {s : State} (h : s.memOk = true) :
    keepsMem (execManagerSelfFence s) := by
  unfold execManagerSelfFence
  exact keepsMem_onlyIf (memOk_fenceManager h) h

theorem memOk_execConfirm {s : State} (h : s.memOk = true) (seg : Nat) :
    keepsMem (execConfirm seg s) := by
  unfold execConfirm
  refine keepsMem_onlyIf ?_ h
  dsimp only
  exact memOk_fields (memOk_control h _ _)

theorem memOk_execConfirmAnswer {s : State} (h : s.memOk = true) (seg : Nat) (silent : Bool) :
    keepsMem (execConfirmAnswer seg silent s) := by
  unfold execConfirmAnswer
  exact keepsMem_onlyIf h h

theorem memOk_recovered {s : State} (h : s.memOk = true) (stale : List Nat) :
    (s.recovered stale).memOk = true := by
  unfold State.recovered
  dsimp only
  refine memOk_fields ?_
  refine memOk_onSegs h ?_
  exact fun _ _ h => h

theorem memOk_stopOwned {s : State} (h : s.memOk = true) (i : Nat) (e : Stamp) :
    (s.stopOwned i e).memOk = true := by
  unfold State.stopOwned
  exact memOk_foldl (fun t x h => memOk_ite (memOk_onPart (memOk_tombstoneAll h _ _) _ _) h) h

theorem memOk_raiseTakeover {s : State} (h : s.memOk = true) (a' : Nat) (b : Nat) (e : Stamp) (seqNo : Nat) :
    (s.raiseTakeover a' b e seqNo).memOk = true := by
  unfold State.raiseTakeover
  refine memOk_onNq (memOk_onSeg h ?_) _ _
  exact fun _ h => h

theorem memOk_takeOver {s : State} (h : s.memOk = true) (b : Nat) (stale : List Nat) (e : Stamp) :
    (s.takeOver b stale e).memOk = true := by
  unfold State.takeOver
  exact memOk_endpointMode (memOk_foldl (fun t x h => memOk_endTransfers h _) (memOk_count (memOk_raiseTakeover (memOk_raiseLost
      (memOk_onSeg (memOk_stopOwned (memOk_fields (memOk_recovered h _)) _ _) (fun t h => segMemOk_lostSegment h _)) _ _ _) _ _ _ _) _)) _

theorem memOk_unconfirmed {s : State} (h : s.memOk = true) (b : Nat) :
    (s.unconfirmed b).memOk = true := by
  unfold State.unconfirmed
  refine memOk_raiseFenced (memOk_onSeg h ?_) _ _ _
  exact fun _ h => h

theorem memOk_execTakeover {s : State} (h : s.memOk = true) (cyc : Nat) (stale : List Nat) :
    keepsMem (execTakeover cyc stale s) := by
  unfold execTakeover
  split
  · exact keepsMem_onlyIf (memOk_ite (memOk_takeOver (memOk_given h _) _ _ _) (memOk_unconfirmed h _)) h
  · exact keepsMem_next h

theorem memOk_queuesNormal {s : State} (h : s.memOk = true) (pick : Nat → Bool) :
    (s.queuesNormal pick).memOk = true := by
  unfold State.queuesNormal
  exact memOk_onSegs h (fun t x h => segMemOk_ite h h)

theorem memOk_execRecoveryEnd {s : State} (h : s.memOk = true) :
    keepsMem (execRecoveryEnd s) := by
  unfold execRecoveryEnd
  split
  · exact keepsMem_next (memOk_fields (memOk_settleReads (memOk_endpointMode (memOk_queuesNormal h _) _)))
  · exact keepsMem_next h

theorem memOk_nameStandby {s : State} (h : s.memOk = true) (i : Nat) :
    (s.nameStandby i).memOk = true := h

theorem memOk_execStandbyNaming {s : State} (h : s.memOk = true) :
    keepsMem (execStandbyNaming s) := by
  unfold execStandbyNaming
  split
  · exact keepsMem_onlyIf (memOk_nameStandby h _) h
  · exact keepsMem_next h

theorem memOk_asMirrored {s : State} (h : s.memOk = true) :
    s.asMirrored.memOk = true := by
  unfold State.asMirrored
  split <;> exact h

theorem memOk_splitTables {s : State} (h : s.memOk = true) (half : List Nat) :
    (s.splitTables half).memOk = true := by
  unfold State.splitTables
  dsimp only
  exact memOk_fields (memOk_recovered (memOk_asMirrored h) _)

theorem memOk_startSecond {s : State} (h : s.memOk = true) (k : Nat) (e : Stamp) : (s.startSecond k e).memOk = true := by
  unfold State.startSecond
  refine memOk_endpointMode (memOk_count (memOk_raiseTakeover (memOk_onSegs ?_ fun i g hg => segMemOk_ite (segMemOk_splitSegment hg k
      e) hg) _ _ _ _) _) _
  refine memOk_iff.2 ⟨(memOk_iff.1 (memOk_splitTables h (s.halfOf k))).1, fun b hb => ?_⟩
  obtain rfl := Option.some.inj hb
  exact (memOk_iff.1 h).1

theorem memOk_splitWrite {a' : State} (h : a'.memOk = true) (ep : Endpoint) (who : Principal) (e : Stamp) :
    (splitWrite ep who e a').1.memOk = true := by
  unfold splitWrite
  split
  · exact memOk_ite_fst (memOk_startSecond (memOk_fields (memOk_ite (memOk_waistCut h _) h)) _ _) h
  · exact h

theorem memOk_prepareFar {s : State} (h : s.memOk = true) (e : Stamp) :
    (s.prepareFar e).memOk = true := by
  unfold State.prepareFar
  refine memOk_farPrepared ?_ _ _
  exact h

theorem memOk_prepareSecond {s : State} (h : s.memOk = true) (e : Stamp) :
    (s.prepareSecond e).memOk = true := by
  unfold State.prepareSecond
  refine memOk_endLive ?_ _ _
  exact h

theorem memOk_rejoinPrepareWrite {a' : State} (h : a'.memOk = true) (ep : Endpoint) (e : Stamp) :
    (rejoinPrepareWrite ep e a').1.memOk = true := by
  unfold rejoinPrepareWrite
  exact memOk_ite_fst (memOk_prepareSecond h _) (memOk_ite_fst (memOk_prepareFar h _) h)

theorem memOk_rejoinWrite {a' : State} (h : a'.memOk = true) (ep : Endpoint) (transfer : Nat) :
    (rejoinWrite ep transfer a').1.memOk = true := by
  unfold rejoinWrite
  refine memOk_ite_fst ?_ h
  dsimp only
  exact memOk_fields (memOk_foldl (fun t x h => memOk_onModule (memOk_onModule h _ _ _) _ _ _) h)

theorem memOk_rejoinAck {s : State} (h : s.memOk = true) :
    s.rejoinAck.memOk = true := by
  unfold State.rejoinAck
  split
  · refine memOk_send ?_ _ _
    exact h
  · exact h

theorem keepsMem_atFirst {s : State} (h : s.memOk = true) {f : State → Result} (hf : ∀ t, t.memOk = true → keepsMem (f t)) : keepsMem
    (atFirst f s) :=
  keepsMem_inBlockOf h hf

/-- A link that trains (R347, R408), in the block it belongs to. -/
theorem memOk_execLinkTrained {s : State} (h : s.memOk = true) (seg : Nat) (dir : Dir) (fullRate : Bool) (auth : LinkAuth) :
    keepsMem (execLinkTrained seg dir fullRate auth s) := by
  unfold execLinkTrained
  have trains (t : State) (ht : t.memOk = true) : keepsMem (match neighbour t.segs.length seg dir with
      | some j =>
        onlyIf (!t.linkFailed seg dir && !((t.seg seg).hub.module dir).up && !((t.seg seg).hub.module dir).retraining &&
            !(t.seg seg).inReset && !(t.seg j).inReset && t.power.hush != 1)
          (if !fullRate then t.moduleFailed seg dir 0x10 t.edge
           else if !t.linkAuthentic seg j auth then t.unauthentic seg dir t.edge
           else if t.atWaist seg dir && t.roles.rejoinBy.isSome then (t.trainLink seg j dir).waistTrained.rejoinAck
           else t.trainLink seg j dir) t
      | none => .next t) := by
    split
    · exact keepsMem_onlyIf (memOk_ite (memOk_moduleFailed ht _ _ _ _) (memOk_ite (memOk_unauthentic ht _ _ _)
        (memOk_ite (memOk_rejoinAck (memOk_waistTrained (memOk_trainLink ht _ _ _))) (memOk_trainLink ht _ _ _)))) ht
    · exact keepsMem_next ht
  split
  · exact keepsMem_atFirst h trains
  · exact trains s h

theorem memOk_execRejoinTrainTimeout {s : State} (h : s.memOk = true) : keepsMem (execRejoinTrainTimeout s) := by
  refine keepsMem_atFirst h fun t ht => ?_
  split
  · exact keepsMem_onlyIf (memOk_rejoinAck (memOk_raise (memOk_fields (memOk_foldl (fun u i hu => memOk_onModule (memOk_onModule hu _ _
        _) _ _ _) ht)) _ _ _ _ _ _ _)) ht
  · exact keepsMem_next ht

theorem memOk_throttle {s : State} (h : s.memOk = true) :
    s.throttle.memOk = true := by
  unfold State.throttle
  exact memOk_onSegs h (fun _ _ h => h)

theorem memOk_raiseFeed {s : State} (h : s.memOk = true) (code : Nat) (reading : Nat) (e : Stamp) :
    (s.raiseFeed code reading e).memOk = true := by
  unfold State.raiseFeed
  exact memOk_ite h (memOk_raise h _ _ _ _ _ _ _)

theorem memOk_raiseRail {s : State} (h : s.memOk = true) (seg : Nat) (code : Nat) (reading : Nat) (e : Stamp) :
    (s.raiseRail seg code reading e).memOk = true := by
  unfold State.raiseRail
  exact memOk_ite h (memOk_raise h _ _ _ _ _ _ _)

theorem memOk_countAmber {s : State} (h : s.memOk = true) :
    s.countAmber.memOk = true := h

theorem memOk_noteFeed {s : State} (h : s.memOk = true) (reading : Nat) (e : Stamp) :
    (s.noteFeed reading e).memOk = true := by
  unfold State.noteFeed
  dsimp only
  refine memOk_fields ?_
  refine memOk_onSegs h ?_
  exact fun _ _ h => h

theorem memOk_feedEntersAmber {s : State} (h : s.memOk = true) (reading : Nat) (e : Stamp) :
    (s.feedEntersAmber reading e).memOk = true := by
  unfold State.feedEntersAmber
  refine memOk_ite (memOk_throttle ?_) (memOk_countAmber (memOk_raiseFeed (memOk_throttle ?_) _ _ _)) <;> exact h

theorem memOk_execFeedReading {s : State} (h : s.memOk = true) (cyc : Nat) (reading : Nat) :
    keepsMem (execFeedReading cyc reading s) := by
  unfold execFeedReading
  exact keepsMem_next (memOk_ite (memOk_gong (memOk_noteFeed h _ _) _) (memOk_ite (memOk_feedEntersAmber (memOk_noteFeed h _ _) _ _)
      (memOk_noteFeed h _ _)))

theorem segMemOk_staleSegment {g : Segment} (h : g.memOk = true) :
    (staleSegment g).memOk = true := h

theorem memOk_execFeedStale {s : State} (h : s.memOk = true) (cyc : Nat) (seg : Nat) :
    keepsMem (execFeedStale cyc seg s) := by
  have stale : ((s.onSeg seg staleSegment).count (fun c => { c with feedStale := c.feedStale + 1 })).memOk = true :=
    memOk_count (memOk_onSeg h fun _ hg => segMemOk_staleSegment hg) _
  unfold execFeedStale
  exact keepsMem_onlyIf (memOk_raise (memOk_ite (memOk_fields stale) (memOk_countAmber (memOk_fields stale))) _ _ _ _ _ _ _) h

theorem memOk_execRailDroopEdge {s : State} (h : s.memOk = true) (cyc : Nat) (seg : Nat) (droop : Nat) :
    keepsMem (execRailDroopEdge cyc seg droop s) := by
  unfold execRailDroopEdge
  dsimp only
  split
  · refine keepsMem_onlyIf (memOk_gong (memOk_onSeg h ?_) _) h
    exact fun _ h => h
  · refine keepsMem_onlyIf (memOk_ite (memOk_countAmber (memOk_raiseRail (memOk_onSeg (memOk_onSeg h ?_) ?_) _ _ _ _)) (memOk_onSeg h
        ?_)) h <;> exact fun _ h => h

theorem memOk_feedClears {s : State} (h : s.memOk = true) :
    s.feedClears.memOk = true := by
  unfold State.feedClears
  refine memOk_throttle ?_
  refine memOk_fields ?_
  refine memOk_onSegs h ?_
  exact fun _ _ h => h

theorem memOk_execSupplyClear {s : State} (h : s.memOk = true) (source : Source) :
    keepsMem (execSupplyClear source s) := by
  unfold execSupplyClear
  split
  · exact keepsMem_onlyIf (memOk_raiseFeed (memOk_feedClears h) _ _ _) h
  · refine keepsMem_onlyIf (memOk_raiseRail (memOk_onSeg h ?_) _ _ _ _) h
    exact fun _ h => h

theorem memOk_trimMargin {s : State} (h : s.memOk = true) (seg : Nat) (margin : ℤ) :
    (s.trimMargin seg margin).memOk = true := by
  unfold State.trimMargin
  refine memOk_ite h (memOk_ite (memOk_onSeg h ?_) (memOk_ite (memOk_onSeg h ?_) (memOk_raise h _ _ _ _ _ _ _))) <;> exact fun _ h => h

theorem memOk_execMarginMeasurement {s : State} (h : s.memOk = true) (seg : Nat) (marginPs : ℤ) :
    keepsMem (execMarginMeasurement seg marginPs s) := by
  unfold execMarginMeasurement
  split
  · refine keepsMem_onlyIf (memOk_ite (memOk_onSeg h ?_) (memOk_loseAny (memOk_onSeg h ?_) _ _ _)) h <;> exact fun _ h => h
  · refine keepsMem_onlyIf (memOk_ite (memOk_onSeg h ?_) (memOk_ite (memOk_trimMargin (memOk_onSeg h ?_) _ _) (memOk_onSeg h ?_))) h
        <;> exact fun _ h => h

theorem memOk_execClockStep {s : State} (h : s.memOk = true) (seg : Nat) :
    keepsMem (execClockStep seg s) := by
  unfold execClockStep
  refine keepsMem_onlyIf (memOk_ite (memOk_onSeg h ?_) (memOk_raise (memOk_onSeg h ?_) _ _ _ _ _ _ _)) h <;> exact fun _ h => h

theorem memOk_execVreqAck {s : State} (h : s.memOk = true) (seg : Nat) :
    keepsMem (execVreqAck seg s) := by
  unfold execVreqAck
  exact keepsMem_onlyIf (memOk_onSeg h (fun _ h => h)) h

theorem memOk_execPhyUpdateRequest {s : State} (h : s.memOk = true) (seg : Nat) (_master : Bool) :
    keepsMem (execPhyUpdateRequest seg _master s) := by
  unfold execPhyUpdateRequest
  exact keepsMem_onlyIf (memOk_onSeg h (fun _ h => h)) h

theorem segMemOk_holdInput {g : Segment} (h : g.memOk = true) (k : ResetInput) :
    (holdInput k g).memOk = true := h

theorem memOk_powerOn {s : State} (h : s.memOk = true) :
    s.powerOn.memOk = true := by
  unfold State.powerOn
  dsimp only
  exact memOk_fields (memOk_coldReset h)

theorem memOk_segResets {s : State} (h : s.memOk = true) (i : Nat) {f : Segment → Segment}
    (hf : ∀ g, g.memOk = true → (f g).memOk = true) : (s.segResets i f).memOk = true := by
  have left : (if (s.seg i).state == .serving then (s.given (s.stampFor 0)).segsLeave [i] .stepLost (s.stampFor 0) else s).memOk = true :=
    memOk_ite (memOk_segsLeave (memOk_given h _) _ _ _) h
  exact memOk_onSeg (memOk_dropStandby left i) fun _ hg => segMemOk_resetAlone (hf _ hg)

theorem memOk_execPowerOnReset {s : State} (h : s.memOk = true) (seg : Nat) :
    keepsMem (execPowerOnReset seg s) := by
  unfold execPowerOnReset
  exact keepsMem_inBlockOf h (fun t h => keepsMem_onlyIf (memOk_ite (memOk_onSeg (memOk_powerOn h) (fun t h => segMemOk_powerOnSegment
      _)) (memOk_ite (memOk_onSeg h (fun t h => segMemOk_powerOnSegment _)) (memOk_segResets h _ (fun t h => segMemOk_powerOnSegment
      _)))) h)

theorem memOk_execColdReset {s : State} (h : s.memOk = true) (seg : Nat) :
    keepsMem (execColdReset seg s) := by
  unfold execColdReset
  exact keepsMem_inBlockOf h (fun t h => keepsMem_onlyIf (memOk_onSeg (memOk_coldReset h) (fun _ h => h)) h)

theorem segMemOk_warmSegment {g : Segment} (h : g.memOk = true) :
    (warmSegment g).memOk = true := by
  unfold warmSegment
  exact segMemOk_holdInput (segMemOk_resetSegment h _) _

theorem memOk_execWarmReset {s : State} (h : s.memOk = true) (seg : Nat) :
    keepsMem (execWarmReset seg s) := by
  refine keepsMem_inBlockOf h fun t ht => ?_
  have held (u : State) (hu : u.memOk = true) : (u.onSeg seg (holdInput .warm)).memOk = true :=
    memOk_onSeg hu fun _ hg => segMemOk_holdInput hg _
  exact keepsMem_onlyIf (memOk_ite (held t ht) (memOk_ite (held _ (memOk_warmReset ht))
    (memOk_segResets ht seg fun _ hg => segMemOk_warmSegment hg))) ht

theorem memOk_segReleased {s : State} (h : s.memOk = true) (i : Nat) :
    (s.segReleased i).memOk = true := by
  unfold State.segReleased
  refine memOk_stackKeysAt (memOk_onSeg h ?_) _
  exact fun _ h => h

theorem memOk_execResetRelease {s : State} (h : s.memOk = true) (input : ResetInput) (seg : Nat) :
    keepsMem (execResetRelease input seg s) := by
  unfold execResetRelease
  refine keepsMem_inBlockOf h ?_
  intro t h
  split
  · refine keepsMem_onlyIf (memOk_ite (memOk_onSeg h ?_) (memOk_bringUp (memOk_onSeg h ?_))) h <;> exact fun _ h => h
  · refine keepsMem_onlyIf (memOk_ite (memOk_segReleased (memOk_onSeg h ?_) _) (memOk_onSeg h ?_)) h <;> exact fun _ h => h

theorem memOk_execGongResetRelease {s : State} (h : s.memOk = true) :
    keepsMem (execGongResetRelease s) := by
  unfold execGongResetRelease
  exact keepsMem_onlyIf (memOk_bringUp h) h

theorem memOk_rejoined {s : State} (h : s.memOk = true) :
    s.rejoined.memOk = true := by
  unfold State.rejoined
  exact memOk_ite h h

theorem memOk_bringUpFails {s : State} (h : s.memOk = true) (cyc : Nat) (i : Nat) :
    (s.bringUpFails cyc i).memOk = true := by
  unfold State.bringUpFails
  exact memOk_rejoined (memOk_loseAny (memOk_given h _) _ _ _)

theorem memOk_stageTwo {s : State} (h : s.memOk = true) :
    s.stageTwo.memOk = true := h

theorem memOk_execSelfTestComplete {s : State} (h : s.memOk = true) (cyc : Nat) (seg : Nat) (ok : Bool) (columns : List (Arr × Nat)) :
    keepsMem (execSelfTestComplete cyc seg ok columns s) := by
  unfold execSelfTestComplete
  refine keepsMem_onlyIf (memOk_ite (memOk_bringUpFails h _ _) (memOk_ite (memOk_stageTwo (memOk_onSeg h ?_)) (memOk_onSeg h ?_))) h
      <;> exact fun _ h => h

theorem memOk_execStackTrainingComplete {s : State} (h : s.memOk = true) (cyc : Nat) (seg : Nat) (ok : Bool) :
    keepsMem (execStackTrainingComplete cyc seg ok s) := by
  unfold execStackTrainingComplete
  exact keepsMem_onlyIf (memOk_ite (memOk_bringUpFails h _ _) (memOk_onSeg h (fun _ h => h))) h

theorem segMemOk_joined {g : Segment} (h : g.memOk = true) (mgr : Nat) (beat : Nat) :
    (joined mgr beat g).memOk = true := h

theorem memOk_programsAt {s : State} (h : s.memOk = true) (f : Program → Program) :
    (s.programsAt f).memOk = true := h

theorem memOk_execReducedServiceOpen {s : State} (h : s.memOk = true) :
    keepsMem (execReducedServiceOpen s) := by
  unfold execReducedServiceOpen
  refine keepsMem_onlyIf (memOk_settleReads (memOk_endpointMode (memOk_programsAt ?_ _) _)) h
  refine memOk_fields ?_
  refine memOk_onSeg h ?_
  exact fun _ h => h

theorem memOk_reportArrays {s : State} (h : s.memOk = true) (i : Nat) (e : Stamp) :
    (s.reportArrays i e).memOk = true := by
  unfold State.reportArrays
  exact memOk_ite (memOk_loseAny (memOk_foldl (fun t x h => memOk_ite (memOk_raiseLost h _ _ _) h) h) _ _ _) (memOk_foldl (fun t x h =>
      memOk_ite (memOk_raiseLost h _ _ _) h) h)

/-- A segment that joins takes the screen region of the manager's stack. -/
theorem memOk_entered {s : State} (h : s.memOk = true) (i : Nat) : (s.onSeg i (fun g =>
    { takeScreen s.screenMib (s.seg s.mgr).stack.mem (joined s.mgr s.time.beat g) with
      ma0 := arrayEnters (takeScreen s.screenMib (s.seg s.mgr).stack.mem (joined s.mgr s.time.beat g)).ma0,
      ma1 := arrayEnters (takeScreen s.screenMib (s.seg s.mgr).stack.mem (joined s.mgr s.time.beat g)).ma1 })).memOk = true :=
  memOk_onSeg h fun _ hg => segMemOk_fields (segMemOk_takeScreen (segMemOk_joined hg _ _) _ (memOk_segment.1 (memOk_seg h s.mgr)).2)

theorem memOk_join {s : State} (h : s.memOk = true) (i : Nat) : (s.join i).memOk = true := by
  have entered := memOk_entered h i
  unfold State.join
  exact memOk_reportArrays (memOk_rejoined (memOk_settleReads (memOk_ite (memOk_nameStandby entered i) entered))) _ _

theorem memOk_execSegmentJoin {s : State} (h : s.memOk = true) (seg : Nat) :
    keepsMem (execSegmentJoin seg s) := by
  unfold execSegmentJoin
  exact keepsMem_onlyIf (memOk_ite (memOk_loseSegment h _ _ _) (memOk_ite (memOk_loseSegment h _ _ _) (memOk_join h _))) h

theorem memOk_execJoinDeadline {s : State} (h : s.memOk = true) (seg : Nat) :
    keepsMem (execJoinDeadline seg s) := by
  unfold execJoinDeadline
  exact keepsMem_onlyIf (memOk_bringUpFails h _ _) h

theorem memOk_execFullService {s : State} (h : s.memOk = true) :
    keepsMem (execFullService s) := by
  unfold execFullService
  exact keepsMem_onlyIf (memOk_reportArrays (memOk_programsAt (memOk_fields (memOk_onSeg h (fun g hg => segMemOk_fields hg))) _) _ _) h

theorem memOk_execHushEntry {s : State} (h : s.memOk = true) :
    keepsMem (execHushEntry s) := by
  unfold execHushEntry
  split
  · refine keepsMem_onlyIf ?_ h
    refine memOk_fields ?_
    refine memOk_onSegs h ?_
    exact fun _ _ h => h
  · exact keepsMem_next h

theorem memOk_execWakeComplete {s : State} (h : s.memOk = true) :
    keepsMem (execWakeComplete s) := by
  unfold execWakeComplete
  exact keepsMem_onlyIf (memOk_foldl (fun t x h => memOk_moduleFailed h _ _ _ _) (memOk_fields (memOk_onSegs h (fun t x h =>
      segMemOk_wakeSegment h _)))) h

theorem memOk_answered {r : State × Option Nat} (h : r.1.memOk = true) (hd : OamHead) : (answered hd r).1.memOk = true := by
  unfold answered
  split <;> exact h

theorem memOk_refused {s : State} (h : s.memOk = true) (h' : OamHead) (class_ : Nat) :
    (refused h' class_ s).1.memOk = true := h

theorem memOk_commitWrite {s : State} (h : s.memOk = true) (who : Principal) (h' : OamHead) (v : Nat) (e : Stamp) :
    (s.commitWrite who h' v e).1.memOk = true := by
  unfold State.commitWrite
  exact memOk_ite_fst (memOk_unstage h _) (memOk_ite_fst (memOk_refused h _ _) (memOk_ite_fst h (memOk_unstage (memOk_commitSet h _ _
      _) _)))

theorem memOk_hushWrite {s : State} (h : s.memOk = true) (h' : OamHead) (v : Nat) (e : Stamp) :
    (s.hushWrite h' v e).1.memOk = true := by
  unfold State.hushWrite
  exact memOk_ite_fst (memOk_ite_fst h (memOk_refused h _ _)) (memOk_ite_fst (memOk_wakeEvent h _) (memOk_refused h _ _))

theorem memOk_resetWrite {s : State} (h : s.memOk = true) (h' : OamHead) (v : Nat) :
    (s.resetWrite h' v).1.memOk = true := by
  unfold State.resetWrite
  exact memOk_ite_fst (memOk_warmRestart h) (memOk_ite_fst (memOk_coldRestart h) (memOk_refused h _ _))

theorem memOk_fenceWrite {s : State} (h : s.memOk = true) (ep : Endpoint) (who : Principal) (hd : OamHead) (v : Nat) (e : Stamp) :
    (s.fenceWrite ep who hd v e).1.memOk = true :=
  memOk_ite_fst (memOk_answered (memOk_splitWrite h ep who e) hd)
    (memOk_ite_fst (memOk_answered (memOk_rejoinPrepareWrite h ep e) hd) (memOk_refused h hd _))

theorem memOk_rejoinAsked {s : State} (h : s.memOk = true) (ep : Endpoint) (h' : OamHead) (v : Nat) :
    (s.rejoinAsked ep h' v).1.memOk = true := by
  unfold State.rejoinAsked
  refine memOk_ite_fst (memOk_refused h _ _) ?_
  dsimp only
  split
  · exact memOk_rejoinWrite h _ _
  · exact h

theorem memOk_actWrite {s : State} (h : s.memOk = true) (p : Path) (hd : OamHead) (v : Nat) (e : Stamp) : (s.actWrite p hd v e).1.memOk
    = true := by
  unfold State.actWrite
  dsimp only
  split
  · exact memOk_commitWrite h _ _ _ _
  · exact memOk_fenceWrite h _ _ _ _ _
  · exact memOk_rejoinAsked h _ _ _
  · exact memOk_hushWrite h _ _ _
  · exact memOk_resetWrite h _ _
  · exact memOk_answered (memOk_lifecycleWrite h _) _
  · exact memOk_answered (memOk_envRotateWrite h _) _
  · exact memOk_answered (memOk_dimRotateWrite h _) _
  · exact memOk_refused h _ _

theorem memOk_answerWrite {r : Answered} (h : r.1.memOk = true) (p : Path) :
    (State.answerWrite p r).memOk = true := by
  unfold State.answerWrite
  split
  · exact memOk_send h _ _
  · exact h

theorem memOk_writeEntryNow {s : State} (h : s.memOk = true) (p : Path) (h' : OamHead) (data : Nat) (o : Obj) (e : Stamp) :
    (s.writeEntryNow p h' data o e).1.memOk = true := by
  unfold State.writeEntryNow
  exact memOk_ite_fst (memOk_refused h _ _) (memOk_ite_fst (memOk_refused h _ _) (memOk_ite_fst (memOk_stage h _ _ _ _) (memOk_actWrite
      h _ _ _ _)))

theorem memOk_doWrite {s : State} (h : s.memOk = true) (p : Path) (h' : OamHead) (data : Nat) (e : Stamp) :
    (s.doWrite p h' data e).memOk = true := by
  unfold State.doWrite
  dsimp only
  split
  · exact memOk_answerWrite (memOk_writeEntryNow (memOk_given (memOk_replaceTransfer h _ _) _) _ _ _ _ _) _
  · exact memOk_send (memOk_given (memOk_replaceTransfer h _ _) _) _ _
  · exact memOk_given (memOk_replaceTransfer h _ _) _

theorem memOk_expeditedHere {s : State} (h : s.memOk = true) (cyc : Nat) (p : Path) (h' : OamHead) (data : Nat) :
    keepsMem (expeditedHere cyc p h' data s) := by
  unfold expeditedHere
  exact keepsMem_ite (keepsMem_onlyIf (memOk_doWrite (memOk_takeIn h _ _) _ _ _ _) h) (memOk_answerMsg h _ _ _ (fun t h =>
      memOk_doWrite h _ _ _ _))

theorem memOk_expedited {s : State} (h : s.memOk = true) (cyc : Nat) (p : Path) (h' : OamHead) (data : Nat) :
    keepsMem (s.expedited cyc p h' data) := by
  unfold State.expedited
  exact keepsMem_inBlockOf h (fun t h => memOk_expeditedHere h _ _ _ _)

theorem memOk_execWriteExpedited {s : State} (h : s.memOk = true) (cyc : Nat) (path : Path) (head : OamHead) (data : Nat) :
    keepsMem (execWriteExpedited cyc path head data s) := by
  unfold execWriteExpedited
  exact memOk_expedited h _ _ _ _

theorem memOk_execCommit {s : State} (h : s.memOk = true) (cyc : Nat) (path : Path) (transfer : Nat) :
    keepsMem (execCommit cyc path transfer s) := by
  unfold execCommit
  exact memOk_expedited h _ _ _ _

theorem memOk_execDiscard {s : State} (h : s.memOk = true) (cyc : Nat) (path : Path) (transfer : Nat) :
    keepsMem (execDiscard cyc path transfer s) := by
  unfold execDiscard
  exact memOk_expedited h _ _ _ _

theorem memOk_execLifecycleAdvance {s : State} (h : s.memOk = true) (cyc : Nat) (path : Path) (transfer : Nat) (value : Nat) :
    keepsMem (execLifecycleAdvance cyc path transfer value s) := by
  unfold execLifecycleAdvance
  exact memOk_expedited h _ _ _ _

theorem memOk_execEnvelopeKeyRotate {s : State} (h : s.memOk = true) (cyc : Nat) (path : Path) (transfer : Nat) (mask : Nat) :
    keepsMem (execEnvelopeKeyRotate cyc path transfer mask s) := by
  unfold execEnvelopeKeyRotate
  exact memOk_expedited h _ _ _ _

theorem memOk_execDimKeyRotate {s : State} (h : s.memOk = true) (cyc : Nat) (path : Path) (transfer : Nat) (mask : Nat) :
    keepsMem (execDimKeyRotate cyc path transfer mask s) := by
  unfold execDimKeyRotate
  exact memOk_expedited h _ _ _ _

theorem memOk_execSplitMode {s : State} (h : s.memOk = true) (cyc : Nat) (path : Path) (transfer : Nat) :
    keepsMem (execSplitMode cyc path transfer s) := by
  unfold execSplitMode
  exact memOk_expedited h _ _ _ _

theorem memOk_execRejoinPrepare {s : State} (h : s.memOk = true) (cyc : Nat) (path : Path) (transfer : Nat) :
    keepsMem (execRejoinPrepare cyc path transfer s) := by
  unfold execRejoinPrepare
  exact memOk_expedited h _ _ _ _

theorem memOk_execRejoin {s : State} (h : s.memOk = true) (cyc : Nat) (path : Path) (transfer : Nat) :
    keepsMem (execRejoin cyc path transfer s) := by
  unfold execRejoin
  exact memOk_expedited h _ _ _ _

theorem memOk_execHushEnter {s : State} (h : s.memOk = true) (cyc : Nat) (path : Path) (transfer : Nat) :
    keepsMem (execHushEnter cyc path transfer s) := by
  unfold execHushEnter
  exact memOk_expedited h _ _ _ _

theorem memOk_execWake {s : State} (h : s.memOk = true) (cyc : Nat) (path : Path) (transfer : Nat) :
    keepsMem (execWake cyc path transfer s) := by
  unfold execWake
  exact memOk_expedited h _ _ _ _

theorem memOk_execResetWarm {s : State} (h : s.memOk = true) (cyc : Nat) (path : Path) :
    keepsMem (execResetWarm cyc path s) := by
  unfold execResetWarm
  exact memOk_expedited h _ _ _ _

theorem memOk_execResetCold {s : State} (h : s.memOk = true) (cyc : Nat) (path : Path) :
    keepsMem (execResetCold cyc path s) := by
  unfold execResetCold
  exact memOk_expedited h _ _ _ _

theorem memOk_uncorrectable {s : State} (h : s.memOk = true) (seg : Nat) :
    (s.uncorrectable seg).memOk = true := by
  unfold State.uncorrectable
  exact memOk_onSeg h (fun _ h => h)

theorem memOk_execCorrectableError {s : State} (h : s.memOk = true) (seg : Nat) (channel : Option Nat) :
    keepsMem (execCorrectableError seg channel s) := by
  unfold execCorrectableError
  exact keepsMem_onlyIf (memOk_onSeg h (fun t h => segMemOk_corrected h _ _)) h

theorem memOk_stepError {s : State} (h : s.memOk = true) (cyc : Nat) (seg : Nat) (step : Option (Nat × Cls)) :
    (s.stepError cyc seg step).memOk = true := by
  unfold State.stepError
  split
  · exact memOk_dataPathError h _ _ _ _
  · exact memOk_uncorrectable h _

theorem memOk_groupRecord {s : State} (h : s.memOk = true) (e : Stamp) (members : List Nat) :
    (s.groupRecord e members).memOk = true := by
  unfold State.groupRecord
  refine memOk_sendStepRecord ?_ _ _
  exact h

theorem memOk_scanLaneError {s : State} (h : s.memOk = true) (cyc : Nat) (seg : Nat) :
    (s.scanLaneError cyc seg).memOk = true := by
  unfold State.scanLaneError
  split
  · exact memOk_foldl (fun t x h => memOk_endSeq h _ _ _) (memOk_groupRecord (memOk_given (memOk_uncorrectable h _) _) _ _)
  · exact memOk_uncorrectable h _

theorem memOk_execUncorrectableDataError {s : State} (h : s.memOk = true) (cyc : Nat) (seg : Nat) (source : DataSource) :
    keepsMem (execUncorrectableDataError cyc seg source s) := by
  unfold execUncorrectableDataError
  refine keepsMem_onlyIf ?_ h
  split
  · exact memOk_dataPathError h _ _ _ _
  · exact memOk_dataPathError h _ _ _ _
  · exact memOk_stepError h _ _ _
  · exact memOk_scanLaneError h _ _
  · exact memOk_uncorrectable h _

theorem memOk_controlError {s : State} (h : s.memOk = true) (seg : Nat) (e : Stamp) :
    (s.controlError seg e).memOk = true := by
  unfold State.controlError
  exact memOk_loseAny (memOk_uncorrectable h _) _ _ _

theorem memOk_execUncorrectableControlError {s : State} (h : s.memOk = true) (cyc : Nat) (seg : Nat) :
    keepsMem (execUncorrectableControlError cyc seg s) := by
  unfold execUncorrectableControlError
  exact keepsMem_onlyIf (memOk_controlError (memOk_given h _) _ _) h

theorem memOk_loseBright {s : State} (h : s.memOk = true) (e : Stamp) (slot : Nat) :
    (s.loseBright e slot).memOk = true := by
  unfold State.loseBright
  split
  · exact memOk_ite (memOk_onEntry (memOk_freeBright h _ (fun x0 x1 x2 h => memOk_returnPages h _ _ _)) _ _) (memOk_ite
        (memOk_tombstone h _ (fun x0 x1 x2 h => memOk_returnPages h _ _ _)) h)
  · exact h

theorem memOk_holdersLose {s : State} (h : s.memOk = true) (e : Stamp) (seqs : List Nat) (entries : List Nat) :
    (s.holdersLose e seqs entries).memOk = true := by
  unfold State.holdersLose
  exact memOk_foldl (fun t x h => memOk_loseBright h _ _) (memOk_foldl (fun t x h => memOk_endSeq h _ _ _) h)

theorem memOk_regionLost {s : State} (h : s.memOk = true) (seg : Nat) (e : Stamp) (a' : StackRegion) :
    (s.regionLost seg e a').memOk = true := by
  unfold State.regionLost
  split
  · exact memOk_holdersLose h _ _ _
  · exact memOk_holdersLose h _ _ _
  · split
    · exact memOk_stopPartition h _ _ _
    · exact h
  · split
    · exact memOk_stopPartition h _ _ _
    · exact h
  · exact memOk_onSeg h (fun _ h => h)
  · exact memOk_loseAny h _ _ _

theorem memOk_repool {s : State} (h : s.memOk = true) (seg : Nat) :
    (s.repool seg).memOk = true := by
  unfold State.repool
  split
  · exact memOk_ite (memOk_onPart h _ _) h
  · exact h

theorem memOk_mapOut {s : State} (h : s.memOk = true) (seg : Nat) (addr : Nat) (region : StackRegion) :
    (s.mapOut seg addr region).memOk = true := by
  unfold State.mapOut
  exact memOk_onSeg h (fun _ h => h)

theorem memOk_execStackReadError {s : State} (h : s.memOk = true) (cyc : Nat) (seg : Nat) (channel : Nat) (addr : Nat) (step : Option
    (Nat × Cls)) (region : StackRegion) :
    keepsMem (execStackReadError cyc seg channel addr step region s) := by
  unfold execStackReadError
  refine keepsMem_onlyIf (memOk_regionLost (memOk_repool (memOk_given (memOk_mapOut (memOk_onSeg (memOk_stepError h _ _ _) ?_) _ _ _)
      _) _) _ _ _) h
  exact fun _ h => h

theorem memOk_execScreenRegionRestored {s : State} (h : s.memOk = true) (seg : Nat) :
    keepsMem (execScreenRegionRestored seg s) := by
  unfold execScreenRegionRestored
  exact keepsMem_onlyIf (memOk_onSeg h (fun _ h => h)) h

theorem memOk_beginCopy {s : State} (h : s.memOk = true) (seg : Nat) (page : Nat) :
    (State.beginCopy seg s page).memOk = true := by
  unfold State.beginCopy
  exact memOk_onSeg h (fun _ h => h)

theorem memOk_execChannelRetire {s : State} (h : s.memOk = true) (seg : Nat) (channel : Nat) :
    keepsMem (execChannelRetire seg channel s) := by
  unfold execChannelRetire
  exact keepsMem_onlyIf (memOk_foldl (fun t x h => memOk_beginCopy h _ _) (memOk_onSeg h (fun _ h => h))) h

theorem memOk_fifthChannel {s : State} (h : s.memOk = true) (seg : Nat) (e : Stamp) :
    (s.fifthChannel seg e).memOk = true := by
  unfold State.fifthChannel
  exact memOk_ite (memOk_loseAny h _ _ _) h

theorem memOk_execChannelRetireComplete {s : State} (h : s.memOk = true) (seg : Nat) (channel : Nat) (relocated : Nat) :
    keepsMem (execChannelRetireComplete seg channel relocated s) := by
  unfold execChannelRetireComplete
  refine keepsMem_onlyIf (memOk_fifthChannel (memOk_raiseLost (memOk_repool (memOk_onSeg h ?_) _) _ _ _) _ _) h
  exact fun _ h => h

theorem memOk_channelLost {s : State} (h : s.memOk = true) (seg : Nat) (channel : Nat) (e : Stamp) :
    (s.channelLost seg channel e).memOk = true := by
  unfold State.channelLost
  exact memOk_holdersLose h _ _ _

theorem memOk_execChannelFail {s : State} (h : s.memOk = true) (cyc : Nat) (seg : Nat) (channel : Nat) (relocated : Nat) (regions :
    List StackRegion) :
    keepsMem (execChannelFail cyc seg channel relocated regions s) := by
  unfold execChannelFail
  refine keepsMem_onlyIf (memOk_fifthChannel (memOk_foldl ?_ (memOk_raiseLost (memOk_channelLost (memOk_repool (memOk_onSeg
      (memOk_given h _) ?_) _) _ _ _) _ _ _)) _ _) h
  · intro t x h
    exact memOk_regionLost h _ _ _
  · exact fun _ h => h

theorem memOk_dropDatagram {s : State} (h : s.memOk = true) :
    s.dropDatagram.memOk = true := h

theorem memOk_spanAuthFail {s : State} (h : s.memOk = true) :
    s.spanAuthFail.memOk = true := h

theorem memOk_openSpan {s : State} (h : s.memOk = true) (peer : Nat) :
    (s.openSpan peer).memOk = true := by
  unfold State.openSpan
  refine memOk_spanPost ?_ _ _ _ _ _
  exact h

theorem memOk_freeAnswers {s : State} (h : s.memOk = true) (f : SpanAsk → Bool) :
    (s.freeAnswers f).memOk = true := by
  unfold State.freeAnswers
  dsimp only
  refine memOk_fields ?_
  refine memOk_foldl ?_ h
  intro t x h
  refine memOk_onSeg h ?_
  exact fun _ h => h

theorem memOk_discardQueries {s : State} (h : s.memOk = true) (id : Nat) :
    (s.discardQueries id).memOk = true := by
  unfold State.discardQueries
  dsimp only
  exact memOk_fields (memOk_freeAnswers (memOk_foldl (fun t x h => memOk_fields (memOk_leaveScan (memOk_unbind h _) _)) h) _)

theorem memOk_spanEnds {s : State} (h : s.memOk = true) (id : Nat) :
    (s.spanEnds id).memOk = true := by
  unfold State.spanEnds
  exact memOk_ite (memOk_count (memOk_discardQueries (memOk_onSpan h _ _) _) _) (memOk_discardQueries (memOk_onSpan h _ _) _)

theorem memOk_spanAcks {s : State} (h : s.memOk = true) (id : Nat) :
    (s.spanAcks id).memOk = true := by
  unfold State.spanAcks
  split <;> exact h

theorem memOk_takeAck {s : State} (h : s.memOk = true) (id : Nat) (ack : Nat) :
    (s.takeAck id ack).memOk = true := by
  unfold State.takeAck
  dsimp only
  split
  · exact memOk_freeAnswers (memOk_onSpan h _ _) _
  · exact h

theorem memOk_spanTake {s : State} (h : s.memOk = true) (phase : SpanPhase) (hd : SpanHeader) {act : State → State}
    (hact : ∀ t, t.memOk = true → (act t).memOk = true) : (s.spanTake phase hd act).memOk = true := by
  have took : ((s.takeAck hd.session hd.ack).onSpan hd.session (delivered hd.seq)).memOk = true := memOk_onSpan (memOk_takeAck h _ _) _ _
  have dropped := memOk_dropDatagram h
  have acked := memOk_takeAck h hd.session hd.ack
  unfold State.spanTake
  split
  · exact memOk_ite dropped (memOk_ite acked (memOk_ite dropped (memOk_ite acked (memOk_spanAcks (hact _ took) _))))
  · exact dropped

theorem memOk_spanDatagram {s : State} (h : s.memOk = true) (hd : SpanHeader) (length records : Nat) {act : State → State}
    (hact : ∀ t, t.memOk = true → (act t).memOk = true) : keepsMem (s.spanDatagram hd length records act) :=
  keepsMem_onlyIf (memOk_ite (memOk_spanTake h .opened hd hact) (memOk_dropDatagram h)) h

theorem memOk_refuseSession {s : State} (h : s.memOk = true) (hd : SpanHeader) (reason : Nat) :
    (s.refuseSession hd reason).memOk = true := h

theorem memOk_acceptSession {s : State} (h : s.memOk = true) (hd : SpanHeader) (h' : SpanHello) :
    (s.acceptSession hd h').memOk = true := by
  unfold State.acceptSession
  refine memOk_onSpan (memOk_spanPost ?_ _ _ _ _ _) _ _
  exact h

theorem memOk_answerOpen {s : State} (h : s.memOk = true) (hd : SpanHeader) (h' : SpanHello) :
    (s.answerOpen hd h').memOk = true := by
  unfold State.answerOpen
  exact memOk_ite h (memOk_ite (memOk_refuseSession h _ _) (memOk_ite (memOk_refuseSession h _ _) (memOk_ite (memOk_acceptSession h _
      _) (memOk_refuseSession (memOk_spanAuthFail h) _ _))))

theorem memOk_execSessionOpen {s : State} (h : s.memOk = true) (hd : SpanHeader) (hello : SpanHello) :
    keepsMem (execSessionOpen hd hello s) := by
  unfold execSessionOpen
  exact keepsMem_onlyIf (memOk_ite (memOk_answerOpen h _ _) (memOk_dropDatagram h)) h

theorem memOk_checkAccept {s : State} (h : s.memOk = true) (hd : SpanHeader) (h' : SpanHello) :
    (s.checkAccept hd h').memOk = true := by
  unfold State.checkAccept
  exact memOk_ite (memOk_onSpan h _ _) (memOk_onSpan (memOk_spanSend (memOk_spanAuthFail h) _ _ _ _) _ _)

theorem memOk_execSessionAccept {s : State} (h : s.memOk = true) (hd : SpanHeader) (hello : SpanHello) :
    keepsMem (execSessionAccept hd hello s) := by
  unfold execSessionAccept
  exact keepsMem_onlyIf (memOk_ite (memOk_spanTake h _ _ (fun t h => memOk_checkAccept h _ _)) (memOk_dropDatagram h)) h

theorem memOk_execSessionRefuse {s : State} (h : s.memOk = true) (hd : SpanHeader) (_reason : Nat) :
    keepsMem (execSessionRefuse hd _reason s) := by
  unfold execSessionRefuse
  exact keepsMem_onlyIf (memOk_ite (memOk_onSpan h _ _) (memOk_dropDatagram h)) h

theorem memOk_execSpanAck {s : State} (h : s.memOk = true) (hd : SpanHeader) :
    keepsMem (execSpanAck hd s) := by
  unfold execSpanAck
  exact keepsMem_onlyIf (memOk_ite (memOk_takeAck h _ _) (memOk_dropDatagram h)) h

theorem memOk_execClose {s : State} (h : s.memOk = true) (hd : SpanHeader) :
    keepsMem (execClose hd s) := by
  unfold execClose
  exact keepsMem_onlyIf (memOk_ite (memOk_spanEnds h _) (memOk_dropDatagram h)) h

theorem memOk_execSpanDatagramDrop {s : State} (h : s.memOk = true) (frame : RxFrame) :
    keepsMem (execSpanDatagramDrop frame s) := by
  unfold execSpanDatagramDrop
  exact keepsMem_onlyIf (memOk_ite (memOk_dropDatagram h) (memOk_count h _)) h

theorem memOk_sendAgain {s : State} (h : s.memOk = true) (x : SpanSession) (seq : Nat) :
    (s.sendAgain x seq).memOk = true := by
  unfold State.sendAgain
  split <;> exact h

theorem memOk_execSpanRetransmit {s : State} (h : s.memOk = true) (session : Nat) (seq : Nat) :
    keepsMem (execSpanRetransmit session seq s) := by
  unfold execSpanRetransmit
  split
  · exact keepsMem_onlyIf (memOk_ite (memOk_spanEnds h _) (memOk_sendAgain h _ _)) h
  · exact keepsMem_next h

theorem memOk_execSpanSessionRekey {s : State} (h : s.memOk = true) (session : Nat) (tx : Bool) :
    keepsMem (execSpanSessionRekey session tx s) := by
  unfold execSpanSessionRekey
  split
  · exact keepsMem_onlyIf (memOk_onSpan h _ _) h
  · exact keepsMem_next h

theorem memOk_execSpanSessionRenew {s : State} (h : s.memOk = true) (session : Nat) :
    keepsMem (execSpanSessionRenew session s) := by
  unfold execSpanSessionRenew
  split
  · exact keepsMem_onlyIf (memOk_openSpan (memOk_onSpan (memOk_spanSend h _ _ _ _) _ _) _) h
  · exact keepsMem_next h

theorem memOk_execSpanSessionRetry {s : State} (h : s.memOk = true) (peer : Nat) :
    keepsMem (execSpanSessionRetry peer s) := by
  unfold execSpanSessionRetry
  refine keepsMem_onlyIf (memOk_openSpan ?_ _) h
  exact h

theorem memOk_setLink {s : State} (h : s.memOk = true) (stream : Nat) (up : Bool) :
    (s.setLink stream up).memOk = true := h

theorem memOk_execSpanLinkDown {s : State} (h : s.memOk = true) (stream : Nat) :
    keepsMem (execSpanLinkDown stream s) := by
  unfold execSpanLinkDown
  exact keepsMem_onlyIf (memOk_setLink h _ _) h

theorem memOk_execSpanLinkUp {s : State} (h : s.memOk = true) (stream : Nat) :
    keepsMem (execSpanLinkUp stream s) := by
  unfold execSpanLinkUp
  exact keepsMem_onlyIf (memOk_setLink h _ _) h

theorem memOk_takeRecord {s : State} (h : s.memOk = true) (r : KlfRecord) : (s.takeRecord r).memOk = true := by
  unfold State.takeRecord
  split
  · exact memOk_onSeg h fun _ hg => segMemOk_staging hg (wf_memWriteBytes _ _ _ (memOk_segment.1 hg).1)
  · exact memOk_count h _

theorem memOk_execKlfData {s : State} (h : s.memOk = true) (gram : Datagram KlfRecord) (frame : Frame) (scale : F32) (destSeg : Nat)
    (window : Nat) (offset : Nat) :
    keepsMem (execKlfData gram frame scale destSeg window offset s) := by
  unfold execKlfData
  exact memOk_spanDatagram h _ _ _ fun t ht => memOk_foldl (fun u r hu => memOk_takeRecord hu r) ht

theorem memOk_execSpanWindowRemove {s : State} (h : s.memOk = true) (window : Nat) :
    keepsMem (execSpanWindowRemove window s) := by
  unfold execSpanWindowRemove
  exact keepsMem_onlyIf h h

theorem memOk_emptyHeap {s : State} (h : s.memOk = true) (session : Nat) (tag : Nat) :
    (s.emptyHeap session tag).memOk = true := by
  unfold State.emptyHeap
  exact memOk_spanSendAll h _ _ _

theorem memOk_serveQuery {s : State} (h : s.memOk = true) (session : Nat) (r : QueryRec) :
    (s.serveQuery session r).memOk = true := by
  unfold State.serveQuery
  split
  · exact h
  · exact memOk_emptyHeap h _ _

theorem memOk_execQuery {s : State} (h : s.memOk = true) (gram : Datagram QueryRec) (deadline : Nat) (tag : Nat) (indexId : Nat)
    (nprobe : Nat) (scanK : Nat) (dim : Nat) (vector : List BF16) :
    keepsMem (execQuery gram deadline tag indexId nprobe scanK dim vector s) := by
  unfold execQuery
  exact memOk_spanDatagram h _ _ _ fun t ht => memOk_ite (memOk_foldl (fun u r hu => memOk_serveQuery hu _ r) ht) ht

theorem memOk_takeHeap {s : State} (h : s.memOk = true) (session : Nat) (r : HeapRec) :
    (s.takeHeap session r).memOk = true := by
  unfold State.takeHeap
  split
  · split
    · exact memOk_ite (memOk_onPlan h _ _) (memOk_count h _)
    · exact h
  · exact h

theorem memOk_execHeapResult {s : State} (h : s.memOk = true) (gram : Datagram HeapRec) (tag : Nat) (first : Nat) (entries : List (Nat
    × F32)) (last : Bool) :
    keepsMem (execHeapResult gram tag first entries last s) := by
  unfold execHeapResult
  exact memOk_spanDatagram h _ _ _ fun t ht => memOk_ite (memOk_foldl (fun u r hu => memOk_takeHeap hu _ r) ht) ht

theorem memOk_servePassage {s : State} (h : s.memOk = true) (session : Nat) (ref : Nat) (tag : Nat) :
    (s.servePassage session ref tag).memOk = true := by
  unfold State.servePassage
  split
  · exact memOk_ite (memOk_refusePassage h _ _ _) (memOk_scanRead h _ _ _ _ _)
  · exact memOk_refusePassage h _ _ _

theorem memOk_takePiece {s : State} (h : s.memOk = true) (session : Nat) (ref : Nat) (tag : Nat) (offset : Nat) (tokens : List Nat)
    (last : Bool) (failed : Bool) :
    (s.takePiece session ref tag offset tokens last failed).memOk = true := by
  unfold State.takePiece
  split
  · split
    · split
      · refine memOk_ite (memOk_fetchDone (memOk_dropCand h _ _) _) ?_
        dsimp only
        split
        · exact memOk_askedEnds (memOk_onCand h _ _ _) _ _ _ _ _
        · exact memOk_onCand h _ _ _
      · exact h
    · exact h
  · exact h

theorem memOk_takeCandRef {s : State} (h : s.memOk = true) (session : Nat) (a' : CandRef) :
    (s.takeCandRef session a').memOk = true := by
  unfold State.takeCandRef
  split
  · exact memOk_ite (memOk_servePassage h _ _ _) h
  · exact memOk_ite (memOk_takePiece h _ _ _ _ _ _ _) h

theorem memOk_execCandidateRef {s : State} (h : s.memOk = true) (hd : SpanHeader) (rec : CandRef) (more : List CandRef) :
    keepsMem (execCandidateRef hd rec more s) := by
  unfold execCandidateRef
  exact memOk_spanDatagram h _ _ _ fun t ht => memOk_foldl (fun u r hu => memOk_takeCandRef hu _ r) ht

theorem memOk_onPort {s : State} (h : s.memOk = true) (i : Nat) (f : Port → Port) :
    (s.onPort i f).memOk = true := by
  unfold State.onPort
  exact memOk_onSeg h (fun _ h => h)

theorem memOk_carryOn {s : State} (h : s.memOk = true) (seg : Nat) (r : DmaReq) :
    (s.carryOn seg r).memOk = true := by
  unfold State.carryOn
  exact memOk_onPort h _ _

theorem memOk_dimWriteFails {s : State} (h : s.memOk = true) (c : CacheRef) :
    (s.dimWriteFails c).memOk = true := by
  unfold State.dimWriteFails
  split
  · exact memOk_onEntry h _ _
  · exact memOk_onLive h _ _

theorem memOk_writeLands {s : State} (h : s.memOk = true) (u : DmaUse) :
    (s.writeLands u).memOk = true := by
  unfold State.writeLands
  split
  · exact memOk_entryVisible h _ _
  · exact memOk_writeBackVisible h _ _ _
  · exact h

theorem memOk_writeFails {s : State} (h : s.memOk = true) (cyc : Nat) (seg : Nat) (r : DmaReq) :
    (s.writeFails cyc seg r).memOk = true := by
  unfold State.writeFails
  split
  · exact memOk_dimWriteFails h _
  · exact h
  · exact memOk_dataPathError h _ _ _ _
  · exact memOk_ringWriteFailed h _ _

theorem memOk_execDmaWriteResponse {s : State} (h : s.memOk = true) (at_ : SegAt) (tag : Nat) (error : Bool) :
    keepsMem (execDmaWriteResponse at_ tag error s) := by
  unfold execDmaWriteResponse
  split
  · exact keepsMem_next (memOk_ite (memOk_count (memOk_writeFails (memOk_onCycle (memOk_onPort h _ _) _) _ _ _) _) (memOk_ite
        (memOk_carryOn (memOk_onCycle (memOk_onPort h _ _) _) _ _) (memOk_writeLands (memOk_onCycle (memOk_onPort h _ _) _) _)))
  · exact keepsMem_next h

theorem memOk_passageFails {s : State} (h : s.memOk = true) (tag : Nat) (place : Nat) :
    (s.passageFails tag place).memOk = true := by
  unfold State.passageFails
  split
  · split
    · exact memOk_ite (memOk_fetchDone (memOk_dropCand h _ _) _) h
    · exact h
  · exact h

theorem memOk_askFails {s : State} (h : s.memOk = true) (id : Nat) :
    (s.askFails id).memOk = true := by
  unfold State.askFails
  split
  · exact memOk_refusePassage (memOk_askDone h _) _ _ _
  · exact h

theorem memOk_readFails {s : State} (h : s.memOk = true) (cyc : Nat) (u : DmaUse) :
    (s.readFails cyc u).memOk = true := by
  unfold State.readFails
  split
  · exact memOk_ite (memOk_readBackFails (memOk_given h _) _ _) h
  · exact memOk_passageFails h _ _
  · exact memOk_passageFails h _ _
  · exact memOk_askFails h _
  · exact memOk_askFails h _
  · exact h
  · exact memOk_dataPathError h _ _ _ _
  · exact h

theorem memOk_readRecord {s : State} (h : s.memOk = true) (seg : Nat) (part : Nat) (ref : Nat) (entry : Nat) (what : DmaUse) :
    (s.readRecord seg part ref entry what).memOk = true := by
  unfold State.readRecord
  split
  · exact memOk_scanRead h _ _ _ _ _
  · exact h

theorem memOk_candEntry {s : State} (h : s.memOk = true) (tag : Nat) (place : Nat) (entry : Nat) :
    (s.candEntry tag place entry).memOk = true := by
  unfold State.candEntry
  split
  · split
    · exact memOk_readRecord (memOk_onCand h _ _ _) _ _ _ _ _
    · exact h
  · exact h

theorem memOk_askEntry {s : State} (h : s.memOk = true) (id : Nat) (entry : Nat) :
    (s.askEntry id entry).memOk = true := by
  unfold State.askEntry
  split
  · refine memOk_readRecord ?_ _ _ _ _ _
    exact h
  · exact h

theorem memOk_execDmaReadComplete {s : State} (h : s.memOk = true) (cyc : Nat) (seg : Nat) (tag : Nat) (error : Bool) (data : List Nat) :
    keepsMem (execDmaReadComplete cyc seg tag error data s) := by
  unfold execDmaReadComplete
  split
  · refine keepsMem_next (memOk_ite (memOk_count (memOk_readFails (memOk_onPort h _ _) _ _) _) (memOk_ite (memOk_carryOn (memOk_onPort
        h _ _) _ _) ?_))
    split
    · exact memOk_candEntry (memOk_onPort h _ _) _ _ _
    · exact memOk_askEntry (memOk_onPort h _ _) _ _
    · exact memOk_onPort h _ _
  · exact keepsMem_next h

theorem memOk_execInitiatorCreditReturn {s : State} (h : s.memOk = true) (seg : Nat) (writeData : Bool) :
    keepsMem (execInitiatorCreditReturn seg writeData s) := by
  unfold execInitiatorCreditReturn
  exact keepsMem_onlyIf (memOk_onPort h _ _) h

theorem memOk_execHoldReadTimeout {s : State} (h : s.memOk = true) (seg : Nat) :
    keepsMem (execHoldReadTimeout seg s) := by
  unfold execHoldReadTimeout
  split
  · exact keepsMem_next (memOk_onNq h _ _)
  · split
    · exact keepsMem_onlyIf (memOk_putOut h _ _) h
    · exact keepsMem_next h

theorem memOk_windowWrite {s : State} (h : s.memOk = true) (off : Nat) (word : Nat) :
    (s.windowWrite off word).memOk = true := by
  unfold State.windowWrite
  split
  · exact memOk_putIn h _ _
  · exact memOk_putIn h _ _
  · exact memOk_putIn h _ _
  · exact memOk_ite (memOk_putOut h _ _) h

theorem memOk_stepDoorbell {s : State} (h : s.memOk = true) (cyc p word : Nat) : (s.stepDoorbell cyc p word).memOk = true := by
  unfold State.stepDoorbell
  have acted := keepsMem_ite (c := (bits 63 60 word == 1) = true)
    (memOk_execLaunch h cyc p (if bit 59 word then .be else .lc) (bits 47 32 word) (bits 31 16 word))
    (keepsMem_ite (c := (bits 63 60 word == 2) = true) (memOk_execStop h cyc p (if bit 59 word then .be else .lc))
      (memOk_execStepDoorbellReservedOp h cyc p (bits 63 60 word) (if bit 59 word then .be else .lc) (bits 47 32 word)))
  dsimp only
  split
  next t ht => exact acted t ht
  next => exact h

theorem memOk_ringDoorbell {s : State} (h : s.memOk = true) (cyc : Nat) (n : Nat) (word : Nat) :
    (s.ringDoorbell cyc n word).memOk = true := by
  unfold State.ringDoorbell
  exact memOk_ite (memOk_ite (memOk_wakeEvent (memOk_doorbell h _ _ _ _) _) (memOk_doorbell h _ _ _ _)) h

theorem memOk_writePlace {s : State} (h : s.memOk = true) (cyc : Nat) (word : Nat) (x : Place) :
    (s.writePlace cyc word x).memOk = true := by
  unfold State.writePlace
  split
  · exact memOk_ite (memOk_stepDoorbell h _ _ _) h
  · exact memOk_ringDoorbell h _ _ _
  · exact memOk_ite (memOk_contextWrite h _ _ _) h
  · exact memOk_ite (memOk_windowWrite h _ _) h
  · exact memOk_ite (memOk_onNq h _ _) h
  · exact h

theorem memOk_readWindow {s : State} (h : s.memOk = true) (port : Nat) :
    (s.readWindow port).memOk = true := by
  unfold State.readWindow
  exact memOk_ite (memOk_putOut h _ _) (memOk_respond (memOk_putOut h _ _) _ _ _)

theorem memOk_serveAccess {s : State} (h : s.memOk = true) (cyc : Nat) (port : Nat) (isWrite : Bool) (word : Nat) (x : Place) :
    (s.serveAccess cyc port isWrite word x).memOk = true := by
  unfold State.serveAccess
  refine memOk_ite (memOk_respond (memOk_writePlace h _ _ _) _ _ _) (memOk_ite (memOk_readWindow h _) ?_)
  split
  · exact memOk_readQdata h _ _
  · exact memOk_respond h _ _ _

theorem memOk_forward {s : State} (h : s.memOk = true) (port : Nat) (x : Place) :
    (s.forward port x).memOk = true := by
  unfold State.forward
  exact memOk_ite h (memOk_control (memOk_control h _ _) _ _)

theorem memOk_hostAccess {s : State} (h : s.memOk = true) (cyc : Nat) (port : Nat) (addr : Nat) (isWrite : Bool) (word : Nat) :
    (s.hostAccess cyc port addr isWrite word).memOk = true := by
  unfold State.hostAccess
  split
  · exact memOk_respond (memOk_closeCycles (memOk_onCycle (memOk_onPort h _ _) _)) _ _ _
  · dsimp only
    split
    · exact memOk_respond (memOk_closeCycles (memOk_onCycle (memOk_onPort h _ _) _)) _ _ _
    · split
      · exact memOk_respond (memOk_closeCycles (memOk_onCycle (memOk_onPort h _ _) _)) _ _ _
      · exact memOk_ite (memOk_serveAccess (memOk_forward (memOk_closeCycles (memOk_onCycle (memOk_onPort h _ _) _)) _ _) _ _ _ _ _)
            (memOk_respond (memOk_closeCycles (memOk_onCycle (memOk_onPort h _ _) _)) _ _ _)

theorem memOk_hostRequest {s : State} (h : s.memOk = true) (cyc : Nat) (by_ : PortTag) (addr : Nat) (isWrite : Bool) (word : Nat) :
    (s.hostRequest cyc by_ addr isWrite word).memOk = true := by
  unfold State.hostRequest
  exact memOk_atBlock h _ (fun t h => memOk_ite (memOk_hostAccess (memOk_acceptReq h _ _) _ _ _ _ _) h)

theorem memOk_execRegisterWrite {s : State} (h : s.memOk = true) (cyc : Nat) (by_ : PortTag) (addr : Nat) (word : Nat) :
    keepsMem (execRegisterWrite cyc by_ addr word s) := by
  unfold execRegisterWrite
  exact keepsMem_next (memOk_hostRequest h _ _ _ _ _)

theorem memOk_execForwardedAccess {s : State} (h : s.memOk = true) (cyc : Nat) (by_ : PortTag) (addr : Nat) (isWrite : Bool) (word : Nat) :
    keepsMem (execForwardedAccess cyc by_ addr isWrite word s) := by
  unfold execForwardedAccess
  exact keepsMem_next (memOk_hostRequest h _ _ _ _ _)

theorem memOk_holdSegment {s : State} (h : s.memOk = true) (seg : Nat) :
    (s.holdSegment seg).memOk = true := by
  unfold State.holdSegment
  refine memOk_ite (memOk_endpointMode (memOk_onSeg h ?_) _) (memOk_onSeg h ?_) <;> exact fun _ h => h

theorem memOk_letGo {s : State} (h : s.memOk = true) (seg : Nat) :
    (s.letGo seg).memOk = true := by
  unfold State.letGo
  split
  · refine memOk_ite (memOk_settleReads (memOk_endpointMode (memOk_onSeg (memOk_onSeg h ?_) ?_) _)) (memOk_onSeg h ?_) <;> exact fun _
        h => h
  · refine memOk_ite (memOk_settleReads (memOk_onSeg (memOk_onSeg h ?_) ?_)) (memOk_onSeg h ?_) <;> exact fun _ h => h

theorem memOk_execTestPortHold {s : State} (h : s.memOk = true) (seg : Nat) :
    keepsMem (execTestPortHold seg s) := by
  unfold execTestPortHold
  exact keepsMem_onlyIf (memOk_holdSegment h _) h

theorem memOk_execTestPortRelease {s : State} (h : s.memOk = true) (seg : Nat) :
    keepsMem (execTestPortRelease seg s) := by
  unfold execTestPortRelease
  exact keepsMem_onlyIf (memOk_letGo h _) h

theorem memOk_testWrite {s : State} (h : s.memOk = true) (seg : Nat) (a' : TestWrite) :
    (s.testWrite seg a').memOk = true := by
  unfold State.testWrite
  split
  · exact memOk_onSeg h (fun t h => segMemOk_onArray h _ _)
  · exact memOk_onSeg h (fun t h => segMemOk_onArray h _ _)
  · exact memOk_ite (memOk_onSeg h (fun t h => segMemOk_onArray h _ _)) h
  · refine memOk_ite h ?_
    split
    · exact memOk_moduleFailed (memOk_loseInLink h _ _ _ _ _ _) _ _ _ _
    · exact memOk_moduleFailed h _ _ _ _

theorem memOk_execTestPortWrite {s : State} (h : s.memOk = true) (seg : Nat) (write : TestWrite) :
    keepsMem (execTestPortWrite seg write s) := by
  unfold execTestPortWrite
  exact keepsMem_onlyIf (memOk_testWrite h _ _) h

end Sys2Proof.Proofs
end
section
/-! Every command keeps the canonical form of every memory. -/

namespace Sys2Proof.Proofs

open Sys2Proof Sys2Proof.Machine

/-- Every command keeps the canonical form of every memory. -/
theorem exec_keepsMem {s : State} (h : s.memOk = true) (i : Instr) : keepsMem (exec i s) :=
  match i with
  | .beatEdge slewPs temps => memOk_execBeatEdge h slewPs temps
  | .ppsEdge seg tod inTime offsetNs => memOk_execPpsEdge h seg tod inTime offsetNs
  | .refLost seg cause => memOk_execRefLost h seg cause
  | .refRestored offsetNs => memOk_execRefRestored h offsetNs
  | .refConverged => memOk_execRefConverged h
  | .beatSourceChange seg skewNs => memOk_execBeatSourceChange h seg skewNs
  | .tokenRefill => memOk_execTokenRefill h
  | .heartbeat => memOk_execHeartbeat h
  | .heartbeatReceive seg stampBeat => memOk_execHeartbeatReceive h seg stampBeat
  | .heartbeatAckTimeout cyc seg => memOk_execHeartbeatAckTimeout h cyc seg
  | .mirrorDeltaApply seqNo => memOk_execMirrorDeltaApply h seqNo
  | .mirrorCopyComplete => memOk_execMirrorCopyComplete h
  | .launch cyc part cls program repeats => memOk_execLaunch h cyc part cls program repeats
  | .stop cyc part cls => memOk_execStop h cyc part cls
  | .stepDoorbellReservedOp cyc part op cls program => memOk_execStepDoorbellReservedOp h cyc part op cls program
  | .freeze part cls => memOk_execFreeze h part cls
  | .stepLaunch part cls => memOk_execStepLaunch h part cls
  | .descriptorIssue seg part cls slot => memOk_execDescriptorIssue h seg part cls slot
  | .passArm seg arr stall => memOk_execPassArm h seg arr stall
  | .tileLoadComplete seg arr part cls slot => memOk_execTileLoadComplete h seg arr part cls slot
  | .statisticsPass seg part cls slot => memOk_execStatisticsPass h seg part cls slot
  | .sweepComplete seg part cls slot => memOk_execSweepComplete h seg part cls slot
  | .stagingAllocate seg part cls units base => memOk_execStagingAllocate h seg part cls units base
  | .abandonReport cyc part => memOk_execAbandonReport h cyc part
  | .abandonComplete part => memOk_execAbandonComplete h part
  | .kernelStart seg part cls slot => memOk_execKernelStart h seg part cls slot
  | .kernelComplete seg part cls slot issueCycles work => memOk_execKernelComplete h seg part cls slot issueCycles work
  | .kernelFault cyc seg part cls slot cause => memOk_execKernelFault h cyc seg part cls slot cause
  | .kernelBoundExceeded seg part cls slot => memOk_execKernelBoundExceeded h seg part cls slot
  | .klfFrameReceive seg frame => memOk_execKlfFrameReceive h seg frame
  | .transferComplete seg part cls slot hostData => memOk_execTransferComplete h seg part cls slot hostData
  | .hubClearReport seg part cls => memOk_execHubClearReport h seg part cls
  | .commitDescriptorReached seg part cls reports => memOk_execCommitDescriptorReached h seg part cls reports
  | .draftLevel part cls level rows => memOk_execDraftLevel h part cls level rows
  | .managerDraw part cls rows => memOk_execManagerDraw h part cls rows
  | .compactionComplete seg part cls => memOk_execCompactionComplete h seg part cls
  | .commitPoint cyc part cls => memOk_execCommitPoint h cyc part cls
  | .stepHang part cls => memOk_execStepHang h part cls
  | .groupClose seq => memOk_execGroupClose h seq
  | .subRequest cyc ring rec env => memOk_execSubRequest h cyc ring rec env
  | .cancel cyc ring rec => memOk_execCancel h cyc ring rec
  | .subReservedKind cyc ring rec => memOk_execSubReservedKind h cyc ring rec
  | .admission part cls => memOk_execAdmission h part cls
  | .joinWaitExpiry part => memOk_execJoinWaitExpiry h part
  | .resumption part => memOk_execResumption h part
  | .completionRecordWrite seq => memOk_execCompletionRecordWrite h seq
  | .dimWriteComplete cache => memOk_execDimWriteComplete h cache
  | .dimFetchComplete read => memOk_execDimFetchComplete h read
  | .dimReadBackFail cyc cache => memOk_execDimReadBackFail h cyc cache
  | .probeListReceive seg seq => memOk_execProbeListReceive h seg seq
  | .scanGroupStart seg => memOk_execScanGroupStart h seg
  | .scanGroupEnd seg stalls => memOk_execScanGroupEnd h seg stalls
  | .scanHeapMerge seq => memOk_execScanHeapMerge h seq
  | .spanMerge seq => memOk_execSpanMerge h seq
  | .passageFetchComplete owner place result => memOk_execPassageFetchComplete h owner place result
  | .handOver seq => memOk_execHandOver h seq
  | .rulesetLoad cyc path transfer image plain => memOk_execRulesetLoad h cyc path transfer image plain
  | .rulesetInstall slot => memOk_execRulesetInstall h slot
  | .detokLoad cyc path transfer image plain => memOk_execDetokLoad h cyc path transfer image plain
  | .snareStreamStart seg => memOk_execSnareStreamStart h seg
  | .snareMatchReport seq => memOk_execSnareMatchReport h seq
  | .snareLaneError seg lane => memOk_execSnareLaneError h seg lane
  | .release cyc => memOk_execRelease h cyc
  | .lateRelease cyc => memOk_execLateRelease h cyc
  | .qdataRead at_ => memOk_execQdataRead h at_
  | .holdReadTimeout seg => memOk_execHoldReadTimeout h seg
  | .qcontrolWrite at_ word => memOk_execQcontrolWrite h at_ word
  | .queueFlush at_ => memOk_execQueueFlush h at_
  | .qstatusClear at_ word => memOk_execQstatusClear h at_ word
  | .noticeDrain at_ => memOk_execNoticeDrain h at_
  | .produce cyc ring index => memOk_execProduce h cyc ring index
  | .consume cyc ring index => memOk_execConsume h cyc ring index
  | .ringFlush cyc ring => memOk_execRingFlush h cyc ring
  | .doorbellReservedOp cyc ring op index => memOk_execDoorbellReservedOp h cyc ring op index
  | .ringEnable ring word => memOk_execRingEnable h ring word
  | .ringDisable ring word => memOk_execRingDisable h ring word
  | .ringContextWrite ring wordNo word => memOk_execRingContextWrite h ring wordNo word
  | .indexWriteback ring => memOk_execIndexWriteback h ring
  | .modIntervalEnd ring => memOk_execModIntervalEnd h ring
  | .eventVectorTransfer => memOk_execEventVectorTransfer h
  | .ringBacklogWrite ring => memOk_execRingBacklogWrite h ring
  | .ringPause seq => memOk_execRingPause h seq
  | .ringWriteRetry seg tag => memOk_execRingWriteRetry h seg tag
  | .registerWrite cyc by_ addr word => memOk_execRegisterWrite h cyc by_ addr word
  | .forwardedAccess cyc by_ addr isWrite word => memOk_execForwardedAccess h cyc by_ addr isWrite word
  | .owPush put => memOk_execOwPush h put
  | .owPushLast put => memOk_execOwPushLast h put
  | .read cyc path head buffer room => memOk_execRead h cyc path head buffer room
  | .writeExpedited cyc path head data => memOk_execWriteExpedited h cyc path head data
  | .writeInitiate cyc path head total source => memOk_execWriteInitiate h cyc path head total source
  | .segment cyc path head offset data => memOk_execSegment h cyc path head offset data
  | .segmentRequest cyc path head => memOk_execSegmentRequest h cyc path head
  | .abort cyc path head code => memOk_execAbort h cyc path head code
  | .oamReservedCmd by_ head => memOk_execOamReservedCmd h by_ head
  | .oamDiscard by_ head headIntact => memOk_execOamDiscard h by_ head headIntact
  | .transferTimeout ep transfer => memOk_execTransferTimeout h ep transfer
  | .indirectTransferComplete cyc ep transfer error data => memOk_execIndirectTransferComplete h cyc ep transfer error data
  | .commit cyc path transfer => memOk_execCommit h cyc path transfer
  | .discard cyc path transfer => memOk_execDiscard h cyc path transfer
  | .programLoad cyc path transfer part image => memOk_execProgramLoad h cyc path transfer part image
  | .streamTable cyc path transfer part entries => memOk_execStreamTable h cyc path transfer part entries
  | .kernelLoad cyc path transfer part image => memOk_execKernelLoad h cyc path transfer part image
  | .indexLoad cyc path transfer part image plain => memOk_execIndexLoad h cyc path transfer part image plain
  | .modelLoad cyc path transfer part image plain => memOk_execModelLoad h cyc path transfer part image plain
  | .lifecycleAdvance cyc path transfer value => memOk_execLifecycleAdvance h cyc path transfer value
  | .envelopeKeyRotate cyc path transfer mask => memOk_execEnvelopeKeyRotate h cyc path transfer mask
  | .dimKeyRotate cyc path transfer mask => memOk_execDimKeyRotate h cyc path transfer mask
  | .dimEpochExhausted part => memOk_execDimEpochExhausted h part
  | .archiveKeys cyc path transfer entries => memOk_execArchiveKeys h cyc path transfer entries
  | .archiveKeyInstall slot => memOk_execArchiveKeyInstall h slot
  | .splitMode cyc path transfer => memOk_execSplitMode h cyc path transfer
  | .rejoinPrepare cyc path transfer => memOk_execRejoinPrepare h cyc path transfer
  | .rejoin cyc path transfer => memOk_execRejoin h cyc path transfer
  | .rejoinTrainTimeout => memOk_execRejoinTrainTimeout h
  | .hushEnter cyc path transfer => memOk_execHushEnter h cyc path transfer
  | .hushEntry => memOk_execHushEntry h
  | .wake cyc path transfer => memOk_execWake h cyc path transfer
  | .wakeComplete => memOk_execWakeComplete h
  | .resetWarm cyc path => memOk_execResetWarm h cyc path
  | .resetCold cyc path => memOk_execResetCold h cyc path
  | .powerOnReset seg => memOk_execPowerOnReset h seg
  | .coldReset seg => memOk_execColdReset h seg
  | .warmReset seg => memOk_execWarmReset h seg
  | .setEndpointId ep eid => memOk_execSetEndpointId h ep eid
  | .getEndpointId ep => memOk_execGetEndpointId h ep
  | .getMctpVersionSupport ep msgType => memOk_execGetMctpVersionSupport h ep msgType
  | .getMessageTypeSupport ep => memOk_execGetMessageTypeSupport h ep
  | .getVendorDefinedMessageSupport ep selector => memOk_execGetVendorDefinedMessageSupport h ep selector
  | .entdaa seg addr => memOk_execEntdaa h seg addr
  | .setdasa seg static addr => memOk_execSetdasa h seg static addr
  | .getVersion ep => memOk_execGetVersion h ep
  | .getCapabilities ep => memOk_execGetCapabilities h ep
  | .negotiateAlgorithms ep offered => memOk_execNegotiateAlgorithms h ep offered
  | .getDigests ep => memOk_execGetDigests h ep
  | .getCertificate ep slot => memOk_execGetCertificate h ep slot
  | .challenge ep slot nonce => memOk_execChallenge h ep slot nonce
  | .getMeasurements ep block sign nonce => memOk_execGetMeasurements h ep block sign nonce
  | .keyExchange ep session mutualRoot => memOk_execKeyExchange h ep session mutualRoot
  | .finish ep session ok => memOk_execFinish h ep session ok
  | .spdmHeartbeat ep session => memOk_execSpdmHeartbeat h ep session
  | .keyUpdate ep session => memOk_execKeyUpdate h ep session
  | .endSession ep session => memOk_execEndSession h ep session
  | .provisioning seg data => memOk_execProvisioning h seg data
  | .correctableError seg channel => memOk_execCorrectableError h seg channel
  | .uncorrectableDataError cyc seg source => memOk_execUncorrectableDataError h cyc seg source
  | .uncorrectableControlError cyc seg => memOk_execUncorrectableControlError h cyc seg
  | .stackReadError cyc seg channel addr step region => memOk_execStackReadError h cyc seg channel addr step region
  | .screenRegionRestored seg => memOk_execScreenRegionRestored h seg
  | .channelRetire seg channel => memOk_execChannelRetire h seg channel
  | .channelRetireComplete seg channel relocated => memOk_execChannelRetireComplete h seg channel relocated
  | .channelFail cyc seg channel relocated regions => memOk_execChannelFail h cyc seg channel relocated regions
  | .residueMismatch cyc seg arr column part cls => memOk_execResidueMismatch h cyc seg arr column part cls
  | .columnRemap cyc seg arr => memOk_execColumnRemap h cyc seg arr
  | .linkDown seg dir => memOk_execLinkDown h seg dir
  | .linkRetrainingEnd cyc seg dir outcome => memOk_execLinkRetrainingEnd h cyc seg dir outcome
  | .linkTagFailure cyc seg dir failure => memOk_execLinkTagFailure h cyc seg dir failure
  | .detourInstall cyc => memOk_execDetourInstall h cyc
  | .linkRekey seg dir => memOk_execLinkRekey h seg dir
  | .linkTrained seg dir fullRate auth => memOk_execLinkTrained h seg dir fullRate auth
  | .sessionOpen hd hello => memOk_execSessionOpen h hd hello
  | .sessionAccept hd hello => memOk_execSessionAccept h hd hello
  | .sessionRefuse hd reason => memOk_execSessionRefuse h hd reason
  | .query gram deadline tag indexId nprobe scanK dim vector => memOk_execQuery h gram deadline tag indexId nprobe scanK dim vector
  | .heapResult gram tag first entries last => memOk_execHeapResult h gram tag first entries last
  | .candidateRef hd rec more => memOk_execCandidateRef h hd rec more
  | .klfData gram frame scale destSeg window offset => memOk_execKlfData h gram frame scale destSeg window offset
  | .spanAck hd => memOk_execSpanAck h hd
  | .close hd => memOk_execClose h hd
  | .spanDatagramDrop frame => memOk_execSpanDatagramDrop h frame
  | .spanRetransmit session seq => memOk_execSpanRetransmit h session seq
  | .spanSessionRekey session tx => memOk_execSpanSessionRekey h session tx
  | .spanSessionRenew session => memOk_execSpanSessionRenew h session
  | .spanSessionRetry peer => memOk_execSpanSessionRetry h peer
  | .spanLinkDown stream => memOk_execSpanLinkDown h stream
  | .spanWindowRemove window => memOk_execSpanWindowRemove h window
  | .fence seg => memOk_execFence h seg
  | .managerSelfFence => memOk_execManagerSelfFence h
  | .confirm seg => memOk_execConfirm h seg
  | .confirmAnswer seg silent => memOk_execConfirmAnswer h seg silent
  | .takeover cyc stale => memOk_execTakeover h cyc stale
  | .recoveryEnd => memOk_execRecoveryEnd h
  | .standbyNaming => memOk_execStandbyNaming h
  | .marginMeasurement seg marginPs => memOk_execMarginMeasurement h seg marginPs
  | .clockStep seg => memOk_execClockStep h seg
  | .vreqAck seg => memOk_execVreqAck h seg
  | .feedReading cyc reading => memOk_execFeedReading h cyc reading
  | .railDroopEdge cyc seg droop => memOk_execRailDroopEdge h cyc seg droop
  | .supplyClear source => memOk_execSupplyClear h source
  | .feedStale cyc seg => memOk_execFeedStale h cyc seg
  | .gongResetRelease => memOk_execGongResetRelease h
  | .reducedServiceOpen => memOk_execReducedServiceOpen h
  | .segmentJoin seg => memOk_execSegmentJoin h seg
  | .joinDeadline seg => memOk_execJoinDeadline h seg
  | .fullService => memOk_execFullService h
  | .dmaWriteResponse at_ tag error => memOk_execDmaWriteResponse h at_ tag error
  | .dmaReadComplete cyc seg tag error data => memOk_execDmaReadComplete h cyc seg tag error data
  | .initiatorCreditReturn seg writeData => memOk_execInitiatorCreditReturn h seg writeData
  | .spanLinkUp stream => memOk_execSpanLinkUp h stream
  | .resetRelease input seg => memOk_execResetRelease h input seg
  | .selfTestComplete cyc seg ok columns => memOk_execSelfTestComplete h cyc seg ok columns
  | .stackTrainingComplete cyc seg ok => memOk_execStackTrainingComplete h cyc seg ok
  | .partialBlockCopyComplete seq => memOk_execPartialBlockCopyComplete h seq
  | .snareStreamEnd seg lane => memOk_execSnareStreamEnd h seg lane
  | .testPortHold seg => memOk_execTestPortHold h seg
  | .testPortRelease seg => memOk_execTestPortRelease h seg
  | .testPortWrite seg write => memOk_execTestPortWrite h seg write
  | .phyUpdateRequest seg master => memOk_execPhyUpdateRequest h seg master

/-- Settles O58: a step runs the front command (`exec_keepsMem`), and each command keeps the canonical form because each of the
model's operations on a block does. -/
theorem stepKeepsMemory : Obligations.StepKeepsMemory := by
  intro s t h hst
  unfold step at hst
  split at hst
  · obtain rfl := Host.Outcome.next.inj hst
    exact h
  · exact exec_keepsMem (memOk_fields h) _ t hst

end Sys2Proof.Proofs
end
section
/-! Reading a memory into which a part of another has been moved (R58). -/

namespace Sys2Proof.Proofs

open Sys2Proof Sys2Proof.Machine

theorem aGet_filter_key {α : Type} (q : Nat → Bool) (k : Nat) (l : List (Nat × α)) :
    aGet k (l.filter (fun e => q e.1)) = if q k then aGet k l else none := by
  induction l with
  | nil => simp [aGet]
  | cons e l ih =>
    by_cases he : e.1 = k
    · subst he
      cases hq : q e.1 <;> simp [aGet, hq, ih]
    · cases hq : q e.1 <;> simp [aGet, hq, ih, he]

/-- A part of a memory, read from its own start. -/
theorem aGet_memPart (m : Memory) (base n k : Nat) : aGet k (memPart m base n) = if k < n then aGet (base + k) m else none := by
  induction m with
  | nil => simp [memPart, aGet]
  | cons e m ih =>
    unfold memPart at ih ⊢
    by_cases hin : base ≤ e.1 ∧ e.1 < base + n
    · rw [List.filter_cons_of_pos (by simpa using hin), List.map_cons, aGet, aGet, ih]
      by_cases hk : e.1 = base + k
      · simp [hk, show k < n by omega]
      · simp [hk, show ¬ e.1 - base = k by omega]
    · rw [List.filter_cons_of_neg (by simpa using hin), ih, aGet]
      by_cases hk : e.1 = base + k
      · simp [show ¬ k < n by omega]
      · simp [hk]

theorem aGet_none_of_lt {α : Type} {k : Nat} {l : List (Nat × α)} (h : ∀ e ∈ l, k < e.1) : aGet k l = none := by
  induction l with
  | nil => rfl
  | cons e l ih =>
    obtain ⟨he, hl⟩ := List.forall_mem_cons.1 h
    simp [aGet, ih hl, show ¬ e.1 = k by omega]

/-- Cells in order written from `b` on: each stands where it was written, the rest of the memory is as before. -/
theorem memRead_foldl_memWrite (l : List (Nat × BitVec 8)) (hl : aSorted l = true) (m : Memory) (b a : Nat) :
    memRead (l.foldl (fun m e => memWrite m (b + e.1) e.2) m) a = if b ≤ a then (aGet (a - b) l).getD (memRead m a) else memRead m a := by
  rw [aSorted_iff] at hl
  induction l generalizing m with
  | nil => simp [aGet]
  | cons e l ih =>
    obtain ⟨he, hl⟩ := List.pairwise_cons.1 hl
    rw [List.foldl_cons, ih hl, aGet]
    by_cases ha : a = b + e.1
    · subst ha
      simp [aGet_none_of_lt he, memRead_memWrite_same]
    · rw [memRead_memWrite_other _ _ ha]
      by_cases hb : b ≤ a
      · simp [hb, show ¬ e.1 = a - b by omega]
      · simp [hb]

/-- A part of `src` moved into `dst` stands at `b`; the rest of `dst` is as before. -/
theorem memRead_moved {src : Memory} (hs : Memory.wf src = true) (dst : Memory) (a b n x : Nat) :
    memRead ((memPart src a n).foldl (fun m e => memWrite m (b + e.1) e.2) (dst.filter (fun e => !(b ≤ e.1 && e.1 < b + n)))) x =
      if b ≤ x ∧ x < b + n then memRead src (a + (x - b)) else memRead dst x := by
  have hget := aGet_filter_key (fun k => !(b ≤ k && k < b + n)) x dst
  rw [memRead_foldl_memWrite _ ((wf_iff _).1 (wf_memPart src a n hs)).1, aGet_memPart, memRead, memRead, memRead, hget]
  by_cases hb : b ≤ x
  · by_cases hx : x < b + n
    · simp [hb, hx, show x - b < n by omega]
    · simp [hb, hx, show ¬ x - b < n by omega]
  · simp [hb]

end Sys2Proof.Proofs
end
section
/-! Descriptors that issue and local transfers that complete (R54, R58, R129, R134). -/

namespace Sys2Proof.Proofs

open Sys2Proof Sys2Proof.Machine

/-- Nothing of a block changes but its segments. -/
def segsOnly (s t : State) : Prop := t = { s with segs := t.segs }

namespace segsOnly

variable {s t u : State}

theorem refl (s : State) : segsOnly s s := rfl

theorem trans (a : segsOnly s t) (b : segsOnly t u) : segsOnly s u := by
  unfold segsOnly at *
  rw [b, a]

theorem ite {c : Prop} [Decidable c] (a : segsOnly s t) (b : segsOnly s u) : segsOnly s (if c then t else u) := by
  split
  · exact a
  · exact b

theorem foldl {α : Type} {f : State → α → State} (hf : ∀ t x, segsOnly t (f t x)) (l : List α) (s : State) : segsOnly s (l.foldl f s) := by
  induction l generalizing s with
  | nil => exact refl s
  | cons x l ih => exact (hf s x).trans (ih _)

theorem onSeg (s : State) (i : Nat) (f : Segment → Segment) : segsOnly s (s.onSeg i f) := rfl

theorem coded (s : State) (i n : Nat) (c : Coded) : segsOnly s (s.coded i n c) := rfl

theorem sendFrame (s : State) (i : Nat) (detour : Bool) (came : Option (Dir × Bool)) (f : Frame) :
    segsOnly s (s.sendFrame i detour came f) := by
  unfold State.sendFrame
  refine ite (ite ?_ rfl) (ite rfl rfl)
  split
  · split <;> rfl
  · rfl

theorem landChunk (s : State) (i slot src w2 : Nat) (f : Frame) : segsOnly s (s.landChunk i slot src w2 f) := rfl

theorem sendDown (s : State) (i : Nat) (l : List Nat) (f : Frame) : segsOnly s (s.sendDown i l f) :=
  foldl (fun t _ => sendFrame t _ _ _ _) _ _

theorem finishSlot (s : State) (i : Nat) (img : ProgramImage) (n : Nat) (t : Nat × Nat × Nat) (k : CombSlot) :
    segsOnly s (s.finishSlot i img n t k) := by
  unfold State.finishSlot
  dsimp only
  split
  · exact ((coded _ _ _ _).trans (onSeg _ _ _)).trans (sendFrame _ _ _ _ _)
  · exact ite ((((coded _ _ _ _).trans (onSeg _ _ _)).trans (landChunk _ _ _ _ _ _)).trans (sendDown _ _ _ _)) rfl

theorem offer (s : State) (i : Nat) (img : ProgramImage) (n : Nat) (t : Nat × Nat × Nat) (came : Option (Dir × Bool)) (f : Frame) :
    segsOnly s (s.offer i img n t came f) := by
  unfold State.offer
  exact ite rfl (ite (((onSeg _ _ _).trans (onSeg _ _ _)).trans (finishSlot _ _ _ _ _ _)) rfl)

theorem accept (s : State) (i : Nat) (came : Option (Dir × Bool)) (f : Frame) : segsOnly s (s.accept i came f) := by
  unfold State.accept
  dsimp only
  split
  · refine ite rfl ?_
    split
    · exact ite (.trans (landChunk _ _ _ _ _ _) (sendDown _ _ _ _)) (ite (offer _ _ _ _ _ _ _) rfl)
    · rfl
  · rfl

theorem drainWaiting (i n : Nat) (s : State) : segsOnly s (State.drainWaiting i n s) := by
  induction n generalizing s with
  | zero => rfl
  | succ n ih =>
    unfold State.drainWaiting
    have emptied : segsOnly s (s.onHub i (fun h => { h with waiting := [] })) := rfl
    exact ite rfl ((emptied.trans (foldl (fun t (x : HeldFrame) => accept t i x.came x.frame) _ _)).trans (ih _))

theorem sendChunk (s : State) (i : Nat) (st : StepS) (x : Nat × Nat × Nat) (k : Nat) : segsOnly s (s.sendChunk i st x k) := by
  unfold State.sendChunk
  dsimp only
  refine ite ((coded _ _ _ _).trans (offer _ _ _ _ _ _ _)) (ite ((coded _ _ _ _).trans (sendFrame _ _ _ _ _)) ?_)
  exact (coded _ _ _ _).trans (foldl (fun t d => ite (landChunk _ _ _ _ _ _) (sendFrame _ _ _ _ _)) _ _)

/-- The chunks of a transfer sent, and what they free in the combining slots (R134). -/
theorem sendChunks (s : State) (i : Nat) (st : StepS) (x : Nat × Nat × Nat) (l : List Nat) :
    segsOnly s ((l.foldl (fun t k => t.sendChunk i st x k) s).slotsFreed i) :=
  (foldl (fun t k => sendChunk t i st x k) l s).trans (drainWaiting i _ _)

end segsOnly

/-! Issuing a descriptor. -/

section Issue
variable {s : State} {i p : Nat} {c : Cls} {slot : Nat} {st : StepS} {x : SegStep}

/-- A descriptor that may issue on a segment that runs the step is marked issued (R54). -/
theorem exec_descriptorIssue (hs : s.stepOf p c = some st) (hx : (s.seg i).stepHere p c = some x) (hr : (s.seg i).runs p c = true)
    (hm : mayIssue (s.seg i) st.prog.image x slot = true) (hd : dType (st.prog.image.slot slot) ≠ 4) :
    exec (.descriptorIssue i p c slot) s = .next (s.onSegStep i p c (fun y => { y with issued := insertNat slot y.issued })) := by
  show execDescriptorIssue i p c slot s = _
  unfold execDescriptorIssue
  simp [hs, hx, hr, hm, hd]

/-- A transfer without a fault starts (R58). -/
theorem exec_transferIssue (hs : s.stepOf p c = some st) (hx : (s.seg i).stepHere p c = some x) (hr : (s.seg i).runs p c = true)
    (hm : mayIssue (s.seg i) st.prog.image x slot = true) (hd : dType (st.prog.image.slot slot) = 4)
    (hf : xferFault i (st.prog.image.slot slot) (st.prog.image.slot (slot + 1)) = none) :
    exec (.descriptorIssue i p c slot) s = .next ((s.onSegStep i p c (fun y => { y with issued := insertNat slot y.issued })).startTransfer
      i p c st (slot, st.prog.image.slot slot, st.prog.image.slot (slot + 1))) := by
  show execDescriptorIssue i p c slot s = _
  unfold execDescriptorIssue
  simp [hs, hx, hr, hm, hd, hf]

theorem startTransfer_local (u : State) {w : Nat} (w2 : Nat) (h : xferKind w ≤ 1) : u.startTransfer i p c st (slot, w, w2) = u := by
  unfold State.startTransfer
  simp [show xferKind w ≠ 4 by omega, show xferKind w ≠ 5 by omega, show xferKind w ≠ 2 by omega, show xferKind w ≠ 3 by omega,
    show xferKind w ≠ 6 by omega]

theorem startTransfer_fromHost (u : State) {w : Nat} (w2 : Nat) (h : xferKind w = 4) : u.startTransfer i p c st (slot, w, w2) =
    u.dma i (dmaReq false (xferSrc w2) (xferLen w * 64) (dmaClass c) (.transfer i p c slot) 0) := by
  simp [State.startTransfer, h]

theorem startTransfer_toHost (u : State) {w : Nat} (w2 : Nat) (h : xferKind w = 5) : u.startTransfer i p c st (slot, w, w2) =
    u.dma i (dmaReq true (xferDst w2) (xferLen w * 64) (dmaClass c) (.transfer i p c slot)
      (ofBytesLe (memReadBytes (memPart (u.seg i).staging (xferSrc w2) (xferLen w * 64)) 0 (xferLen w * 64)))) := by
  simp [State.startTransfer, h]

theorem startTransfer_chunks (u : State) {w : Nat} (w2 : Nat) (h : xferKind w = 2) (hn : 0 < chunksOf w) :
    segsOnly (u.useStream (xferStream w)) (u.startTransfer i p c st (slot, w, w2)) := by
  rw [show u.startTransfer i p c st (slot, w, w2) = ((List.range (chunksOf w)).foldl
    (fun t k => t.sendChunk i st (slot, w, w2) k) (u.useStream (xferStream w))).slotsFreed i by simp [State.startTransfer, h, hn]]
  exact segsOnly.sendChunks _ _ _ _ _

theorem staging_onSegStep (s : State) (i j p : Nat) (c : Cls) (f : SegStep → SegStep) :
    ((s.onSegStep i p c f).seg j).staging = (s.seg j).staging := by
  unfold State.onSegStep
  rcases seg_onSeg s i j (fun g => g.onStep p c f) with h | ⟨-, h⟩
  · rw [h]
  · rw [h]; rfl

/-- A stream marked in use is marked wherever it stands in its partition's table. -/
theorem used_useStream (s : State) (n : Nat) : ∀ y ∈ ((s.useStream n).part (streamPart n)).streams, y.id = n → y.used = true := by
  intro y hy hid
  unfold State.useStream at hy
  rcases Nat.lt_or_ge (streamPart n) s.parts.length with hp | hp
  · rw [State.part_onPart_eq s _ hp] at hy
    obtain ⟨z, -, hz⟩ := List.mem_map.1 hy
    split at hz
    · rw [← hz]
    next hne => rw [hz] at hne; simp [hid] at hne
  · rw [State.part, List.getD_eq_default _ _ (by simpa using hp)] at hy
    cases hy

end Issue

/-! Completing a transfer. -/

/-- What a transfer that completes does in its segment (R58, R129). -/
noncomputable def transferDoneAt (p : Nat) (c : Cls) (slot w w2 : Nat) (data : List Nat) (g : Segment) : Segment :=
  (moveBytes w w2 data (if xferKind w == 1 then keepRun p c (xferDst w2) (xferLen w * 64) g else g)).onStep p c (sweepDone slot)

theorem exec_transferComplete {s : State} {i p : Nat} {c : Cls} {slot : Nat} {st : StepS} {x : SegStep} {data : List Nat}
    (hs : s.stepOf p c = some st) (hx : (s.seg i).stepHere p c = some x) (hr : (s.seg i).runs p c = true) (hi : slot ∈ x.issued)
    (hd : slot ∉ x.done) (hk : dType (st.prog.image.slot slot) = 4)
    (hl : xferKind (st.prog.image.slot slot) = 4 → data.length = xferLen (st.prog.image.slot slot) * 64)
    (ht : s.transferDone i p c st.prog.image (slot, st.prog.image.slot slot, st.prog.image.slot (slot + 1)) = true) :
    exec (.transferComplete i p c slot data) s =
      .next (s.onSeg i (transferDoneAt p c slot (st.prog.image.slot slot) (st.prog.image.slot (slot + 1)) data)) := by
  show execTransferComplete i p c slot data s = _
  unfold execTransferComplete
  simp only [hs, hx, hr, ht]
  unfold onlyIf
  refine congrArg Host.Outcome.next (if_pos ?_)
  have hlen : (xferKind (st.prog.image.slot slot) != 4 || data.length == xferLen (st.prog.image.slot slot) * 64) = true := by
    by_cases h : xferKind (st.prog.image.slot slot) = 4
    · simp [hl h]
    · simp [h]
  simp [hi, hd, hk, hlen]

section Moves
variable (p : Nat) (c : Cls) (slot w w2 : Nat) (data : List Nat) (g : Segment)

/-- A transfer changes the memories of its segment and its part of the step, and nothing else. -/
theorem transferDoneAt_fields : transferDoneAt p c slot w w2 data g =
    { g with staging := (transferDoneAt p c slot w w2 data g).staging, steps := (transferDoneAt p c slot w w2 data g).steps,
             stack := { g.stack with mem := (transferDoneAt p c slot w w2 data g).stack.mem } } := by
  unfold transferDoneAt
  by_cases hk : xferKind w = 1
  · simp only [hk, moveBytes]
    rfl
  · have hk' : (xferKind w == 1) = false := by simpa using hk
    simp only [hk', moveBytes]
    split <;> rfl

theorem transferDoneAt_fromHost (h : xferKind w = 4) (hl : data.length = xferLen w * 64) :
    (transferDoneAt p c slot w w2 data g).staging = memWriteBytes g.staging (xferDst w2) data := by
  simp only [transferDoneAt, moveBytes, h]
  rw [← hl, List.take_length]
  rfl

theorem transferDoneAt_staging (h0 : xferKind w ≠ 0) (h4 : xferKind w ≠ 4) :
    (transferDoneAt p c slot w w2 data g).staging = g.staging := by
  unfold transferDoneAt moveBytes
  dsimp only
  split
  next h => exact absurd h h0
  · split <;> rfl
  next h => exact absurd h h4
  · split <;> rfl

theorem transferDoneAt_stack (h1 : xferKind w ≠ 1) : (transferDoneAt p c slot w w2 data g).stack = g.stack := by
  have hk : (xferKind w == 1) = false := by simpa using h1
  simp only [transferDoneAt, hk, moveBytes]
  split
  · rfl
  next h => exact absurd h h1
  · rfl
  · rfl

/-- The segment's part of the step notes the transfer as done. -/
theorem transferDoneAt_done {x : SegStep} (hx : g.stepHere p c = some x) :
    ∃ y, (transferDoneAt p c slot w w2 data g).stepHere p c = some y ∧ slot ∈ y.done := by
  have moved : ∃ y, (moveBytes w w2 data (if xferKind w == 1 then keepRun p c (xferDst w2) (xferLen w * 64) g else g)).stepHere p c = some y := by
    have kept : ∀ h : Segment, (moveBytes w w2 data h).stepHere p c = h.stepHere p c := by
      intro h
      unfold moveBytes
      dsimp only
      split <;> rfl
    rw [kept]
    split
    · exact ⟨_, stepHere_onStep hx ⟨rfl, rfl⟩⟩
    · exact ⟨x, hx⟩
  obtain ⟨y, hy⟩ := moved
  exact ⟨_, stepHere_onStep hy ⟨rfl, rfl⟩, mem_insertNat.2 (.inl rfl)⟩

theorem memRead_fromStack (h : xferKind w = 0) (hm : g.stack.mem.wf = true) (a : Nat) :
    memRead (transferDoneAt p c slot w w2 data g).staging a =
      if xferDst w2 ≤ a ∧ a < xferDst w2 + xferLen w * 64 then memRead g.stack.mem (xferSrc w2 + (a - xferDst w2))
      else memRead g.staging a := by
  rw [← memRead_moved hm]
  simp only [transferDoneAt, moveBytes, h]
  rfl

theorem memRead_toStack (h : xferKind w = 1) (hm : g.staging.wf = true) (a : Nat) :
    memRead (transferDoneAt p c slot w w2 data g).stack.mem a =
      if xferDst w2 ≤ a ∧ a < xferDst w2 + xferLen w * 64 then memRead g.staging (xferSrc w2 + (a - xferDst w2))
      else memRead g.stack.mem a := by
  rw [← memRead_moved hm]
  simp only [transferDoneAt, moveBytes, h]
  rfl

end Moves

/-- A transfer of the stack has done its work once no DMA of it is pending. -/
theorem transferDone_local {s : State} {i p : Nat} {c : Cls} {img : ProgramImage} {slot w w2 : Nat} (hk : xferKind w ≤ 1)
    (h : s.dmaPending (.transfer i p c slot) = false) : s.transferDone i p c img (slot, w, w2) = true := by
  unfold State.transferDone
  simp [show xferKind w ≠ 2 by omega, show xferKind w ≠ 3 by omega, show xferKind w ≠ 6 by omega, h]

/-- Settles O8: what issues is `exec_descriptorIssue` or `exec_transferIssue`, with `startTransfer` by kind; what a transfer has done is `transferDoneAt`. -/
theorem descriptorsAndTransfers : Obligations.DescriptorsAndTransfers := by
  refine ⟨⟨?_, ?_, ?_, ?_⟩, ?_, ?_⟩
  · intro s i p c slot st x hs hx hr hm hd
    rcases hd with hd | hd | ⟨hd, hk, hf⟩
    · exact exec_descriptorIssue hs hx hr hm (by omega)
    · exact exec_descriptorIssue hs hx hr hm (by omega)
    · rw [exec_transferIssue hs hx hr hm hd hf, startTransfer_local _ _ hk]
  · rintro s i p c slot w w2 st x hs hx hr hm rfl rfl hd hk hf
    rw [exec_transferIssue hs hx hr hm hd hf, startTransfer_fromHost _ _ hk]
  · rintro s i p c slot w w2 st x hs hx hr hm rfl rfl hd hk hf
    rw [exec_transferIssue hs hx hr hm hd hf, startTransfer_toHost _ _ hk, staging_onSegStep]
  · intro s i p c slot st x hs hx hr hm hd hk hn hf
    refine ⟨_, exec_transferIssue hs hx hr hm hd hf, ?_⟩
    have sent := startTransfer_chunks (i := i) (p := p) (c := c) (slot := slot) (st := st)
      (s.onSegStep i p c (fun y => { y with issued := insertNat slot y.issued })) (st.prog.image.slot (slot + 1)) hk hn
    generalize State.startTransfer _ _ _ _ _ _ = t at sent ⊢
    refine ⟨?_, ?_⟩
    · rw [sent]
      exact used_useStream _ _
    · rw [sent]
      rfl
  · rintro s i p c slot w w2 st x data hs hx hr hi hd rfl rfl hk hl ht
    refine ⟨_, exec_transferComplete hs hx hr hi hd hk hl ht, ?_⟩
    have here := s.seg_onSeg_eq (transferDoneAt p c slot (st.prog.image.slot slot) (st.prog.image.slot (slot + 1)) data)
      (hasSeg_of_stepHere hx)
    rw [here]
    exact ⟨transferDoneAt_done _ _ _ _ _ _ _ hx, fun h => transferDoneAt_fromHost _ _ _ _ _ _ _ h (hl h),
      transferDoneAt_staging _ _ _ _ _ _ _, transferDoneAt_stack _ _ _ _ _ _ _, transferDoneAt_fields _ _ _ _ _ _ _,
      fun j hj => s.seg_onSeg_ne _ hj, rfl⟩
  · rintro s i p c slot w w2 st x hs hx hr hi hd rfl rfl hk hle hdma hwf hwfs
    refine ⟨_, exec_transferComplete hs hx hr hi hd hk (fun h => by omega) (transferDone_local hle hdma), ?_⟩
    rw [s.seg_onSeg_eq _ (hasSeg_of_stepHere hx)]
    exact ⟨fun h => memRead_fromStack _ _ _ _ _ _ _ h hwfs, fun h => memRead_toStack _ _ _ _ _ _ _ h hwf⟩

end Sys2Proof.Proofs
end
section
/-! The order of passes and what arming one leaves (R56, R63, R75, R78, R84, R109, R111, R117). -/

namespace Sys2Proof.Proofs

open Sys2Proof Sys2Proof.Machine

/-! The pass an array issues next. -/

/-- The pass of one source of an array, where it is ready (R63). -/
noncomputable def readyPass (s : State) (i : Nat) (a : Arr) (t : SegStep) : Option PassRef :=
  match s.nextPass i a t with
  | some r => if passReady (s.seg i) ((s.seg i).array a) r then some r else none
  | none => none

theorem readyPass_eq_some {s : State} {i : Nat} {a : Arr} {t : SegStep} {q : PassRef} :
    readyPass s i a t = some q ↔ s.nextPass i a t = some q ∧ passReady (s.seg i) ((s.seg i).array a) q = true := by
  unfold readyPass
  split
  next r hr =>
    rw [hr]
    split
    next h => exact ⟨fun e => ⟨e, Option.some.inj e ▸ h⟩, fun e => e.1⟩
    next h => exact ⟨fun e => (nomatch e), fun e => absurd (Option.some.inj e.1 ▸ e.2) h⟩
  next hr => rw [hr]; exact ⟨fun e => (nomatch e), fun e => (nomatch e.1)⟩

theorem choosePass_eq (s : State) (i : Nat) (a : Arr) : s.choosePass i a =
    ((if 0 < ((s.seg i).array a).credit then (s.seg i).sources.filter (fun t => t.part == 15) else []) ++
      (s.seg i).sources.filter (fun t => t.part != 15) ++ (s.seg i).sources.filter (fun t => t.part == 15)).findSome? (readyPass s i a) :=
  rfl

/-- A step's next pass is one of its own, over its row list. -/
theorem nextPass_mem {s : State} {i : Nat} {a : Arr} {t : SegStep} {q : PassRef} (h : s.nextPass i a t = some q) :
    ∃ img slot, q = passOf img t slot := by
  unfold State.nextPass at h
  split at h
  next r hr =>
    split at h
    · obtain rfl := Option.some.inj h
      have hr := List.mem_of_head? hr
      unfold State.passesAhead at hr
      dsimp only at hr
      split at hr
      · obtain ⟨slot, -, rfl⟩ := List.mem_map.1 (List.mem_filter.1 hr).1
        exact ⟨_, slot, rfl⟩
      · cases hr
    · cases h
  next => cases h

theorem nextPass_part {s : State} {i : Nat} {a : Arr} {t : SegStep} {q : PassRef} (h : s.nextPass i a t = some q) :
    q.ref.part = t.part ∧ q.ref.cls = t.cls := by
  obtain ⟨img, slot, rfl⟩ := nextPass_mem h
  exact ⟨rfl, rfl⟩

theorem choosePass_mem {s : State} {i : Nat} {a : Arr} {r : PassRef} (h : s.choosePass i a = some r) :
    ∃ t, s.nextPass i a t = some r := by
  rw [choosePass_eq] at h
  obtain ⟨t, -, ht⟩ := List.exists_of_findSome?_eq_some h
  exact ⟨t, (readyPass_eq_some.1 ht).1⟩

/-- Of two runs of sources, one of the second is chosen only where none of the first is ready. -/
theorem findSome?_of_first {α β : Type} {f : α → Option β} {l m : List α} {b : β} (h : (l ++ m).findSome? f = some b) :
    l.findSome? f = some b ∨ ((∀ x ∈ l, f x = none) ∧ m.findSome? f = some b) := by
  rw [List.findSome?_append] at h
  cases hl : l.findSome? f with
  | none => rw [hl] at h; exact .inr ⟨List.findSome?_eq_none_iff.1 hl, h⟩
  | some x => rw [hl] at h; exact .inl h

theorem not_ready_of_none {s : State} {i : Nat} {a : Arr} {x : SegStep} {q : PassRef} (hn : readyPass s i a x = none)
    (hq : s.nextPass i a x = some q) : passReady (s.seg i) ((s.seg i).array a) q = false := by
  by_contra h
  rw [readyPass_eq_some.2 ⟨hq, by simpa using h⟩] at hn
  cases hn

section Choice
variable {s : State} {i : Nat} {a : Arr} {r q : PassRef} {x : SegStep}

/-- While the screen credit is positive, a ready screen pass goes first (R63). -/
theorem choosePass_screen (h : s.choosePass i a = some r) (hc : 0 < ((s.seg i).array a).credit) (hx : x ∈ (s.seg i).sources)
    (hp : x.part = 15) (hq : s.nextPass i a x = some q) (hr : passReady (s.seg i) ((s.seg i).array a) q = true) : r.ref.part = 15 := by
  rw [choosePass_eq, if_pos hc, List.append_assoc] at h
  rcases findSome?_of_first h with h | ⟨hn, -⟩
  · obtain ⟨t, ht, hf⟩ := List.exists_of_findSome?_eq_some h
    rw [(nextPass_part (readyPass_eq_some.1 hf).1).1]
    simpa using (List.mem_filter.1 ht).2
  · have := hn x (List.mem_filter.2 ⟨hx, by simp [hp]⟩)
    rw [readyPass_eq_some.2 ⟨hq, hr⟩] at this
    cases this

/-- The sources of the other partitions come in the order of their classes (R63). -/
theorem sources_rest (g : Segment) : g.sources.filter (fun t => t.part != 15) =
    (g.steps.filter (fun t => g.runs t.part t.cls)).filter (fun t => t.part != 15 && t.cls == .lc) ++
      (g.steps.filter (fun t => g.runs t.part t.cls)).filter (fun t => t.part != 15 && t.cls == .be) := by
  unfold Segment.sources
  dsimp only
  generalize g.steps.filter (fun t => g.runs t.part t.cls) = l
  have screen : (l.filter (fun t => t.part == 15)).filter (fun t => t.part != 15) = [] := by simp [List.filter_filter]
  have same (c : Cls) : (l.filter (fun t => t.part != 15 && t.cls == c)).filter (fun t => t.part != 15) =
      l.filter (fun t => t.part != 15 && t.cls == c) := by
    rw [List.filter_filter]
    exact List.filter_congr fun t _ => by cases t.part != 15 <;> simp
  rw [List.filter_append, List.filter_append, screen, same, same, List.nil_append]

/-- Of the sources before the screen's last turn, those of screen passes are of partition 15. -/
theorem screen_of_first {t : SegStep} (h : t ∈ if 0 < ((s.seg i).array a).credit then (s.seg i).sources.filter (fun t => t.part == 15) else []) :
    t.part = 15 := by
  split at h
  · simpa using (List.mem_filter.1 h).2
  · cases h

/-- A best-effort pass goes only where no latency-critical one is ready (R63). -/
theorem choosePass_bestEffort (h : s.choosePass i a = some r) (hp : r.ref.part ≠ 15) (hb : r.ref.cls = .be) (hx : x ∈ (s.seg i).sources)
    (hxp : x.part ≠ 15) (hxc : x.cls = .lc) (hq : s.nextPass i a x = some q) : passReady (s.seg i) ((s.seg i).array a) q = false := by
  have hxl : x ∈ ((s.seg i).steps.filter (fun t => (s.seg i).runs t.part t.cls)).filter (fun t => t.part != 15 && t.cls == .lc) := by
    have hx : x ∈ (s.seg i).sources.filter (fun t => t.part != 15) := List.mem_filter.2 ⟨hx, by simpa using hxp⟩
    rw [sources_rest] at hx
    refine (List.mem_append.1 hx).resolve_right fun hm => ?_
    have := (List.mem_filter.1 hm).2
    simp [hxc] at this
  rw [choosePass_eq, sources_rest, List.append_assoc] at h
  have chosen {l : List SegStep} (h : l.findSome? (readyPass s i a) = some r) : ∃ t ∈ l, t.part = r.ref.part ∧ t.cls = r.ref.cls := by
    obtain ⟨t, ht, hf⟩ := List.exists_of_findSome?_eq_some h
    obtain ⟨h1, h2⟩ := nextPass_part (readyPass_eq_some.1 hf).1
    exact ⟨t, ht, h1.symm, h2.symm⟩
  rcases findSome?_of_first h with h | ⟨-, h⟩
  · obtain ⟨t, ht, he, -⟩ := chosen h
    exact absurd (he.symm.trans (screen_of_first ht)) hp
  rw [List.append_assoc] at h
  rcases findSome?_of_first h with h | ⟨hn, -⟩
  · obtain ⟨t, ht, -, he⟩ := chosen h
    have := (List.mem_filter.1 ht).2
    simp [he, hb] at this
  · exact not_ready_of_none (hn x hxl) hq

/-- Without credit a screen pass goes only where no other is ready (R63). -/
theorem choosePass_noCredit (h : s.choosePass i a = some r) (hp : r.ref.part = 15) (hc : ((s.seg i).array a).credit ≤ 0)
    (hx : x ∈ (s.seg i).sources) (hxp : x.part ≠ 15) (hq : s.nextPass i a x = some q) :
    passReady (s.seg i) ((s.seg i).array a) q = false := by
  rw [choosePass_eq, if_neg (by omega), List.nil_append] at h
  rcases findSome?_of_first h with h | ⟨hn, -⟩
  · obtain ⟨t, ht, hf⟩ := List.exists_of_findSome?_eq_some h
    have := (List.mem_filter.1 ht).2
    rw [← (nextPass_part (readyPass_eq_some.1 hf).1).1, hp] at this
    cases this
  · exact not_ready_of_none (hn x (List.mem_filter.2 ⟨hx, by simpa using hxp⟩)) hq

/-- Where a pass is ready, one is chosen. -/
theorem choosePass_of_ready (hx : x ∈ (s.seg i).sources) (hq : s.nextPass i a x = some q)
    (hr : passReady (s.seg i) ((s.seg i).array a) q = true) : ∃ r, s.choosePass i a = some r := by
  rw [choosePass_eq]
  refine Option.isSome_iff_exists.1 (List.findSome?_isSome_iff.2 ⟨x, ?_, by rw [readyPass_eq_some.2 ⟨hq, hr⟩]; rfl⟩)
  by_cases hp : x.part = 15
  · exact List.mem_append_right _ (List.mem_filter.2 ⟨hx, by simpa using hp⟩)
  · exact List.mem_append_left _ (List.mem_append_right _ (List.mem_filter.2 ⟨hx, by simpa using hp⟩))

end Choice

/-! Sweeps without an unmasked row retire first (R84). -/

/-- A block but for the arrays of one segment and its parts of steps. -/
def arraysOnly (i : Nat) (s u : State) : Prop :=
  segsOnly s u ∧ othersKept i s u ∧ u.segs.length = s.segs.length ∧
    u.seg i = { s.seg i with ma0 := (u.seg i).ma0, ma1 := (u.seg i).ma1, steps := (u.seg i).steps }

theorem arraysOnly.refl (i : Nat) (s : State) : arraysOnly i s s := ⟨rfl, fun _ _ => rfl, rfl, rfl⟩

theorem arraysOnly.trans {i : Nat} {s t u : State} (a : arraysOnly i s t) (b : arraysOnly i t u) : arraysOnly i s u := by
  obtain ⟨a1, a2, a3, a4⟩ := a
  obtain ⟨b1, b2, b3, b4⟩ := b
  refine ⟨a1.trans b1, fun j hj => (b2 j hj).trans (a2 j hj), b3.trans a3, ?_⟩
  rw [b4, a4]

theorem arraysOnly_retireHead (s : State) (i : Nat) (a : Arr) (p : Nat) (c : Cls) : arraysOnly i s (s.retireHead i a p c) := by
  have retired (r : PassRef) : arraysOnly i s (s.onSeg i (retireSweep a r)) := by
    refine ⟨rfl, fun j hj => s.seg_onSeg_ne _ hj, State.onSeg_length _ _ _, ?_⟩
    refine seg_onSeg_of (P := fun g h => h = { g with ma0 := h.ma0, ma1 := h.ma1, steps := h.steps }) s i _ (fun _ => rfl) ?_ i
    cases a <;> rfl
  unfold State.retireHead
  split
  · split
    · split
      · exact retired _
      · exact .refl i s
    · exact .refl i s
  · exact .refl i s

theorem arraysOnly_retireEmpty (s : State) (i : Nat) (a : Arr) : arraysOnly i s (s.retireEmpty i a) := by
  have fold {α : Type} (f : State → α → State) (hf : ∀ u x, arraysOnly i u (f u x)) (l : List α) (u : State) : arraysOnly i u (l.foldl f u) := by
    induction l generalizing u with
    | nil => exact .refl i u
    | cons x l ih => exact (hf u x).trans (ih _)
  exact fold _ (fun u t => fold _ (fun v _ => arraysOnly_retireHead v i a _ _) _ _) _ _

/-! Arming a pass. -/

theorem aGet_foldl_aSet_of_not_mem {α β : Type} (key : β → Nat) (val : β → α) {k : Nat} {l : List β} (h : ∀ x ∈ l, key x ≠ k)
    (m : List (Nat × α)) : aGet k (l.foldl (fun m x => aSet (key x) (val x) m) m) = aGet k m := by
  induction l generalizing m with
  | nil => rfl
  | cons y l ih =>
    obtain ⟨hy, hl⟩ := List.forall_mem_cons.1 h
    rw [List.foldl_cons, ih hl, aGet_aSet_ne _ _ hy.symm]

/-- Entries written under keys that differ are read back. -/
theorem aGet_foldl_aSet {α β : Type} (key : β → Nat) (val : β → α) {l : List β} (hn : (l.map key).Nodup) {x : β} (hx : x ∈ l)
    (m : List (Nat × α)) : aGet (key x) (l.foldl (fun m x => aSet (key x) (val x) m) m) = some (val x) := by
  induction l generalizing m with
  | nil => cases hx
  | cons y l ih =>
    rw [List.map_cons, List.nodup_cons] at hn
    rw [List.foldl_cons]
    rcases List.mem_cons.1 hx with rfl | hx
    · rw [aGet_foldl_aSet_of_not_mem key val (fun z hz he => hn.1 (List.mem_map.2 ⟨z, hz, he⟩)), aGet_aSet_eq]
    · exact ih hn.2 hx _

/-- The rows of a pass stand at positions that differ (R78). -/
theorem rows_nodup (img : ProgramImage) (t : SegStep) (slot : Nat) : ((passOf img t slot).rows.map (·.1)).Nodup := by
  show ((((t.rowLists.getD (sweepRowList (img.slot slot)) {}).entries.zipIdx.filter (fun e => !e.1.masked)).map
    (fun e => (e.2, e.1))).map (·.1)).Nodup
  generalize (t.rowLists.getD (sweepRowList (img.slot slot)) {}).entries = l
  rw [List.map_map]
  refine List.Nodup.sublist (l₂ := l.zipIdx.map (·.2)) (List.Sublist.map _ List.filter_sublist) ?_
  simpa using List.nodup_range' (s := 0) (n := l.length) (step := 1)

/-- What a code list gives of a depth (R110). -/
noncomputable def slotCode (asym : Bool) (e : RowScale) (chans : List Nat) (k : Nat) (xs : List BF16) (d : Nat) : Int :=
  if 256 ≤ d then 0 else if 256 * k + d ∈ chans then e.za else codeOf asym e (xs.getD d 0)

/-- The codes fed of a row's slice (R109, R110). -/
theorem feedSlice_codes (asym : Bool) (e : RowScale) (chans : List Nat) (k : Nat) {xs : List BF16} (h : xs.length = 256) :
    (feedSlice asym e chans k xs).codes = (List.range 256).map (slotCode asym e chans k xs) := by
  refine List.ext_getElem (by simp [feedSlice, h]) fun n h1 h2 => ?_
  have hn : n < 256 := by simpa using h2
  simp [feedSlice, slotCode, show ¬ 256 ≤ n by omega, h, hn]

theorem feedSlice_sum (asym : Bool) (e : RowScale) (chans : List Nat) (k : Nat) (xs : List BF16) :
    (feedSlice asym e chans k xs).sum = (feedSlice asym e chans k xs).codes.sum := by
  rw [List.sum_eq_foldl]
  rfl

theorem rowSlice_length (m : Memory) (unit k : Nat) : (rowSlice m unit k).length = 256 := by simp [rowSlice]

/-- A column's sum over the weights it holds (R75). -/
theorem columnSums_getD (codes : List Int) (cells : List (Nat × Nat × Int)) {c : Nat} (h : c < 264) :
    (columnSums codes cells).getD c 0 = ((cells.filter (fun w => w.1 == c)).map (fun w => codes.getD w.2.1 0 * w.2.2)).sum := by
  have foldl_sum (l : List (Nat × Nat × Int)) (z : Int) : l.foldl (fun acc w => acc + codes.getD w.2.1 0 * w.2.2) z =
      z + (l.map (fun w => codes.getD w.2.1 0 * w.2.2)).sum := by
    induction l generalizing z with
    | nil => simp
    | cons x l ih => rw [List.foldl_cons, ih, List.map_cons, List.sum_cons, Int.add_assoc]
  simp only [columnSums]
  rw [List.getD_eq_getElem _ _ (by simpa using h), List.getElem_map, List.getElem_range, foldl_sum, Int.zero_add]

theorem firstFrom_lt {f : Nat → Bool} {n m k : Nat} (h : firstFrom f n m = some k) : k < m + n := by
  induction n generalizing m with
  | zero => cases h
  | succ n ih =>
    rw [firstFrom] at h
    split at h
    · obtain rfl := Option.some.inj h
      omega
    · have := ih h
      omega

theorem physColumn_lt (remap : List RemapEntry) {ch : Nat} (h : ch < 256) : physColumn remap ch < 264 := by
  unfold physColumn
  split
  next k hk => have := firstFrom_lt hk; omega
  next => omega

/-- An accumulator after a pass (R78). -/
theorem accumulate_getD (first : Bool) (old tree : List Int) {ch : Nat} (h : ch < tree.length) :
    (accumulate first old tree).getD ch 0 =
      clampInt (-2147483647) 2147483647 ((if first then 0 else old.getD ch 0) + tree.getD ch 0) := by
  rw [List.getD_eq_getElem tree _ h]
  unfold accumulate
  rw [List.getD_eq_getElem _ _ (by simpa using h)]
  cases first <;> simp [accMax]

section Row
variable (m : Memory) (r : PassRef) (remap : List RemapEntry) (cells : List (Nat × Nat × Int)) (b : AccBank) (row : Nat × RowEntry)

/-- The scale entry a row is fed with (R109, R111). -/
noncomputable def fedScale : RowScale :=
  if r.k == 0 then (rowScale (sweepAfmt r.sweep) (readStats m row.2.addr)).1 else (aGet row.1 b.scales).getD {}

/-- The code a row feeds at a depth (R110). -/
noncomputable def fedCode (d : Nat) : Int :=
  slotCode (sweepAfmt r.sweep) (fedScale m r b row) r.chans (passDepth r.pass) (rowSlice m row.2.addr (passDepth r.pass)) d

theorem fedCodes : (feedSlice (sweepAfmt r.sweep) (fedScale m r b row) r.chans (passDepth r.pass)
    (rowSlice m row.2.addr (passDepth r.pass))).codes = (List.range 256).map (fedCode m r b row) :=
  feedSlice_codes _ _ _ _ (rowSlice_length _ _ _)

/-- The accumulators of a row fed (R56, R75, R78, R117). -/
theorem feedRow_acc {ch : Nat} (h : ch < 256) : (feedRow m r remap cells b row).acc.getD ch 0 =
    clampInt (-2147483647) 2147483647 ((if r.k = 0 then 0 else ((aGet row.1 b.acc).getD []).getD ch 0) +
      ((cells.filter (fun w => w.1 == physColumn remap ch)).map (fun w => fedCode m r b row w.2.1 * w.2.2)).sum) := by
  have code (d : Nat) : ((List.range 256).map (fedCode m r b row)).getD d 0 = fedCode m r b row d := by
    by_cases hd : d < 256
    · simp [hd]
    · simp [fedCode, slotCode, show 256 ≤ d by omega]
  have tree : (treeOut remap ((List.range 256).map (fedCode m r b row)) cells).getD ch 0 =
      ((cells.filter (fun w => w.1 == physColumn remap ch)).map (fun w => fedCode m r b row w.2.1 * w.2.2)).sum := by
    unfold treeOut
    dsimp only
    rw [List.getD_eq_getElem _ _ (by simpa using h), List.getElem_map, List.getElem_range, columnSums_getD _ _ (physColumn_lt remap h)]
    simp only [code]
  show (accumulate (r.k == 0) ((aGet row.1 b.acc).getD []) (treeOut remap (feedSlice (sweepAfmt r.sweep) (fedScale m r b row) r.chans
    (passDepth r.pass) (rowSlice m row.2.addr (passDepth r.pass))).codes cells)).getD ch 0 = _
  rw [fedCodes, accumulate_getD _ _ _ (by simpa [treeOut] using h), tree]
  simp

theorem feedRow_scale : (feedRow m r remap cells b row).scale.s = (fedScale m r b row).s ∧
    (feedRow m r remap cells b row).scale.r = (fedScale m r b row).r ∧ (feedRow m r remap cells b row).scale.za = (fedScale m r b row).za ∧
    (feedRow m r remap cells b row).scale.codeSum =
      (fedScale m r b row).codeSum + ((List.range 256).map (fedCode m r b row)).sum := by
  refine ⟨rfl, rfl, rfl, ?_⟩
  rw [← fedCodes, ← feedSlice_sum]
  rfl

end Row

theorem bank_onBank (a : ArrayS) (b : Bool) (f : AccBank → AccBank) : (a.onBank b f).bank b = f (a.bank b) := by
  cases b <;> rfl

theorem arrayAfter_loadStall (slow : Bool) (r : PassRef) (side : List (Nat × List BF16)) (fed : List FedRow) (a : ArrayS) :
    (arrayAfter slow r side fed a).loadStall = a.loadStall := by
  unfold arrayAfter ArrayS.onBank
  dsimp only
  split <;> rfl

theorem array_onArray (g : Segment) (a : Arr) (f : ArrayS → ArrayS) : (g.onArray a f).array a = f (g.array a) := by
  cases a <;> rfl

/-- What an array keeps when the holder of a bank starts anew (R80). -/
theorem restartHolder_array (a : Arr) (b : AccBank) (g : Segment) : ∃ n l,
    (restartHolder a b g).array a = { g.array a with beRestart := n, finishing := l } := by
  unfold restartHolder
  split
  · rw [array_onArray]
    cases a <;> exact ⟨_, _, rfl⟩
  · exact ⟨_, _, rfl⟩

theorem restartHolder_fields (a : Arr) (b : AccBank) (g : Segment) : restartHolder a b g =
    { g with ma0 := (restartHolder a b g).ma0, ma1 := (restartHolder a b g).ma1, steps := (restartHolder a b g).steps } := by
  unfold restartHolder
  split
  · cases a <;> rfl
  · rfl

/-- The segment as a pass is armed, its bank's holder started anew where it gives way (R80). -/
noncomputable def armFrom (a : Arr) (r : PassRef) (g : Segment) : Segment :=
  if r.k == 0 && takesBank r ((g.array a).bank (sweepBank r.sweep)) then restartHolder a ((g.array a).bank (sweepBank r.sweep)) g else g

theorem armFrom_array (a : Arr) (r : PassRef) (g : Segment) : ∃ n l,
    (armFrom a r g).array a = { g.array a with beRestart := n, finishing := l } := by
  unfold armFrom
  split
  · exact restartHolder_array _ _ _
  · exact ⟨_, _, rfl⟩

theorem armFrom_fields (a : Arr) (r : PassRef) (g : Segment) :
    armFrom a r g = { g with ma0 := (armFrom a r g).ma0, ma1 := (armFrom a r g).ma1, steps := (armFrom a r g).steps } := by
  unfold armFrom
  split
  · exact restartHolder_fields _ _ _
  · rfl

/-- The rows of a pass as fed. -/
noncomputable def armRows (a : Arr) (r : PassRef) (g : Segment) : List FedRow :=
  r.rows.map (feedRow (armFrom a r g).staging r (g.array a).remap ((g.array a).reg (!(g.array a).tag)).weights ((g.array a).bank (sweepBank r.sweep)))

/-- A segment after a pass has been issued. -/
noncomputable def issuedPass (a : Arr) (r : PassRef) (side : List (Nat × List BF16)) (g : Segment) : Segment :=
  { ((armFrom a r g).onArray a (arrayAfter (armFrom a r g).supply.throttled r side (armRows a r g))).onStep r.ref.part r.ref.cls
      (setPass r.ref.slot (r.k + 1)) with
    cnt := countFed (r.k == 0) (armRows a r g) (((armFrom a r g).onArray a
      (arrayAfter (armFrom a r g).supply.throttled r side (armRows a r g))).onStep r.ref.part r.ref.cls (setPass r.ref.slot (r.k + 1))).cnt }

/-- A segment after a pass has been armed, the stall cycles counted. -/
noncomputable def armed (a : Arr) (r : PassRef) (side : List (Nat × List BF16)) (stall : Nat) (g : Segment) : Segment :=
  (issuedPass a r side g).onArray a (countStall stall)

theorem issuePass_eq (u : State) (i : Nat) (a : Arr) (r : PassRef) :
    ∃ side, u.issuePass i a r = u.onSeg i (fun _ => issuedPass a r side (u.seg i)) := by
  unfold State.issuePass issuedPass armRows armFrom
  exact ⟨_, rfl⟩

theorem exec_passArm {s u : State} {i : Nat} {a : Arr} {r : PassRef} (stall : Nat) (hr : (s.seg i).arrayRuns a = true)
    (hu : u = s.retireEmpty i a) (hc : u.choosePass i a = some r) (ho : rowOutside r = none) :
    ∃ side, exec (.passArm i a stall) s = .next (u.onSeg i (fun _ => armed a r side stall (u.seg i))) := by
  subst hu
  obtain ⟨side, hside⟩ := issuePass_eq (s.retireEmpty i a) i a r
  refine ⟨side, ?_⟩
  show execPassArm i a stall s = _
  unfold execPassArm
  simp only [hr, hc, ho, if_true]
  rw [hside, State.onSeg_onSeg]
  rfl

theorem armed_fields (a : Arr) (r : PassRef) (side : List (Nat × List BF16)) (stall : Nat) (g : Segment) :
    armed a r side stall g = { g with
      ma0 := (armed a r side stall g).ma0, ma1 := (armed a r side stall g).ma1, steps := (armed a r side stall g).steps, cnt := (armed a r side stall g).cnt } := by
  unfold armed issuedPass
  rw [armFrom_fields]
  cases a <;> rfl

/-- The array of a pass armed. -/
theorem armed_array (a : Arr) (r : PassRef) (side : List (Nat × List BF16)) (stall : Nat) (g : Segment) : ∃ n l,
    (armed a r side stall g).array a = countStall stall
      (arrayAfter g.supply.throttled r side (armRows a r g) { g.array a with beRestart := n, finishing := l }) := by
  obtain ⟨n, l, h⟩ := armFrom_array a r g
  have thr : (armFrom a r g).supply.throttled = g.supply.throttled := by rw [armFrom_fields]
  have stepped (h : Segment) (p : Nat) (c : Cls) (f : SegStep → SegStep) (n : SegCount) :
      Segment.array { h.onStep p c f with cnt := n } a = h.array a := by cases a <;> rfl
  refine ⟨n, l, ?_⟩
  rw [armed, array_onArray, issuedPass, stepped, array_onArray, h, thr]

/-- A bank after a pass, read at a row fed. -/
theorem bankAfter_row {r : PassRef} {side : List (Nat × List BF16)} {table : List Nat} {fed : List FedRow} {b : AccBank}
    (hn : (fed.map (·.pos)).Nodup) {f : FedRow} (hf : f ∈ fed) :
    aGet f.pos (bankAfter r side table fed b).acc = some f.acc ∧ aGet f.pos (bankAfter r side table fed b).scales = some f.scale :=
  ⟨aGet_foldl_aSet (fun f : FedRow => f.pos) (fun f => f.acc) hn hf _, aGet_foldl_aSet (fun f : FedRow => f.pos) (fun f => f.scale) hn hf _⟩

/-- Settles O9: the choice is `choosePass_eq`'s order of sources; an armed pass is `armed`, its array `armed_array`, its rows
`feedRow_acc` and `feedRow_scale`. -/
theorem passes : Obligations.Passes := by
  refine ⟨⟨?_, ?_, ?_, ?_⟩, ?_, ?_⟩
  · intro s i a r x q h hc hx hp hq hr
    exact choosePass_screen h hc hx hp hq hr
  · intro s i a r x q h hp hb hx hxp hxc hq
    exact choosePass_bestEffort h hp hb hx hxp hxc hq
  · intro s i a r x q h hp hc hx hxp hq
    exact choosePass_noCredit h hp hc hx hxp hq
  · intro s i a x q hx hq hr
    exact choosePass_of_ready hx hq hr
  · intro s i a stall hr hn
    show execPassArm i a stall s = _
    unfold execPassArm
    simp only [hr, hn, if_true]
  · intro s u i a stall r hr hu hs hc ho
    obtain ⟨side, hexec⟩ := exec_passArm stall hr hu hc ho
    obtain ⟨honly, hothers, hlen, hfields⟩ : arraysOnly i s u := hu ▸ arraysOnly_retireEmpty s i a
    obtain ⟨n, l, harr⟩ := armed_array a r side stall (u.seg i)
    have hus : u.hasSeg i = true := by simpa [State.hasSeg, hlen] using hs
    have here := u.seg_onSeg_eq (fun _ => armed a r side stall (u.seg i)) hus
    have hstaging : (u.seg i).staging = (s.seg i).staging := by rw [hfields]
    have hsupply : (u.seg i).supply = (s.seg i).supply := by rw [hfields]
    have hstack : (u.seg i).stack = (s.seg i).stack := by rw [hfields]
    obtain ⟨y, hy⟩ := choosePass_mem hc
    obtain ⟨img, slot, hpass⟩ := nextPass_mem hy
    refine ⟨_, hexec, ?_⟩
    rw [here, harr]
    have hbank : (arrayAfter (u.seg i).supply.throttled r side (armRows a r (u.seg i))
        { (u.seg i).array a with beRestart := n, finishing := l }).bank (sweepBank r.sweep) =
        bankAfter r side (((u.seg i).array a).reg (!((u.seg i).array a).tag)).table (armRows a r (u.seg i))
          (((u.seg i).array a).bank (sweepBank r.sweep)) :=
      bank_onBank { (u.seg i).array a with beRestart := n, finishing := l } _ _
    have hbank' : ∀ x : ArrayS, (countStall stall x).bank (sweepBank r.sweep) = x.bank (sweepBank r.sweep) := fun _ => rfl
    have hrows : (armRows a r (u.seg i)).length = r.rows.length := List.length_map _
    refine ⟨rfl, by rw [hbank', hbank]; rfl, rfl, congrArg (_ + ·) hrows, congrArg (· + stall) (arrayAfter_loadStall _ _ _ _ _), ?_, ?_, ?_, ?_, ?_, ?_, ?_⟩
    · rw [← hsupply]
      by_cases hp : r.ref.part = 15
      · simp [countStall, arrayAfter, hp, hrows]
      · simp [countStall, arrayAfter, hp]
    · intro row e0 code hrow he hcode
      have hfrom : (armFrom a r (u.seg i)).staging = (s.seg i).staging := by rw [armFrom_fields]; exact hstaging
      have hfed : feedRow (armFrom a r (u.seg i)).staging r ((u.seg i).array a).remap (((u.seg i).array a).reg (!((u.seg i).array a).tag)).weights
          (((u.seg i).array a).bank (sweepBank r.sweep)) row ∈ armRows a r (u.seg i) := List.mem_map_of_mem hrow
      have hpos : ((armRows a r (u.seg i)).map (·.pos)).Nodup := by
        rw [armRows, List.map_map]
        exact hpass ▸ rows_nodup img y slot
      have hscale : e0 = fedScale (s.seg i).staging r (((u.seg i).array a).bank (sweepBank r.sweep)) row := by
        rw [he, fedScale]
        simp
      have hcodes : code = fedCode (s.seg i).staging r (((u.seg i).array a).bank (sweepBank r.sweep)) row := by
        funext d
        rw [hcode d, hscale]
        rfl
      rw [hbank', hbank, hcodes, hscale]
      rw [hfrom] at hfed
      obtain ⟨hacc, hsc⟩ := bankAfter_row (side := side) (table := (((u.seg i).array a).reg (!((u.seg i).array a).tag)).table) (r := r)
        (b := ((u.seg i).array a).bank (sweepBank r.sweep)) hpos hfed
      refine ⟨fun ch hch => ?_, _, hsc, feedRow_scale _ _ _ _ _ _⟩
      rw [show row.1 = (feedRow (s.seg i).staging r ((u.seg i).array a).remap (((u.seg i).array a).reg (!((u.seg i).array a).tag)).weights
        (((u.seg i).array a).bank (sweepBank r.sweep)) row).pos from rfl, hacc]
      exact feedRow_acc _ _ _ _ _ _ hch
    · exact armed_fields _ _ _ _ _
    · rw [armed_fields]
      exact hstaging
    · rw [armed_fields]
      exact hstack
    · intro j hj
      rw [u.seg_onSeg_ne _ hj]
      exact hothers j hj
    · rw [honly]
      rfl

end Sys2Proof.Proofs
end
section
/-! Words and records of bytes as they are written and read back (R102, R124). -/

namespace Sys2Proof.Proofs

open Sys2Proof Sys2Proof.Machine

theorem memReadBytes_eq (m : Memory) (a n : Nat) : memReadBytes m a n = (List.range n).map (fun i => (memRead m (a + i)).toNat) := by
  induction n generalizing a with
  | zero => rfl
  | succ n ih =>
    rw [memReadBytes, ih, List.range_succ_eq_map, List.map_cons, List.map_map]
    congr 1
    exact List.map_congr_left fun i _ => by simp [Nat.add_comm, Nat.add_left_comm]

/-- A word depends on the bytes it is read from. -/
theorem memReadWord_congr {m m' : Memory} {a n : Nat} (h : ∀ x, a ≤ x → x < a + n → memRead m x = memRead m' x) :
    memReadWord m a n = memReadWord m' a n := by
  unfold memReadWord
  rw [memReadBytes_eq, memReadBytes_eq]
  congr 1
  exact List.map_congr_left fun i hi => by
    have := List.mem_range.1 hi
    rw [h (a + i) (by omega) (by omega)]

theorem ofBytesLe_map_mod (l : List Nat) : ofBytesLe (l.map (· % 256)) = ofBytesLe l := by
  induction l with
  | nil => rfl
  | cons b l ih => rw [List.map_cons, ofBytesLe, ofBytesLe, ih, Nat.mod_mod]

@[simp] theorem bytesLe_length (n w : Nat) : (bytesLe n w).length = n := by
  induction n generalizing w with
  | zero => rfl
  | succ n ih => rw [bytesLe, List.length_cons, ih]

theorem ofBytesLe_bytesLe (n w : Nat) : ofBytesLe (bytesLe n w) = w % 256 ^ n := by
  induction n generalizing w with
  | zero => simp [bytesLe, ofBytesLe, Nat.mod_one]
  | succ n ih => rw [bytesLe, ofBytesLe, ih, Nat.mod_mod, Nat.pow_succ', Nat.mod_mul]

/-- A word read out of a run of bytes written. -/
theorem memReadWord_written (m : Memory) (a k n : Nat) (l : List Nat) (h : k + n ≤ l.length) :
    memReadWord (memWriteBytes m a l) (a + k) n = ofBytesLe ((l.drop k).take n) := by
  unfold memReadWord
  rw [← ofBytesLe_map_mod ((l.drop k).take n), memReadBytes_eq]
  congr 1
  refine List.ext_getElem (by simp; omega) fun i h1 h2 => ?_
  have hi : i < n := by simpa using h1
  simp only [List.getElem_map, List.getElem_range, List.getElem_take, List.getElem_drop]
  rw [Nat.add_assoc, memRead_memWriteBytes_inside l m a (k + i) (by omega)]
  simp

/-- One of the words that a run of bytes is made of. -/
theorem take_drop_flatMap {α : Type} (f : α → List Nat) {n : Nat} (l : List α) (hf : ∀ x ∈ l, (f x).length = n) (c : Nat) (hc : c < l.length) :
    ((l.flatMap f).drop (n * c)).take n = f l[c] := by
  induction l generalizing c with
  | nil => cases hc
  | cons x l ih =>
    obtain ⟨hx, hl⟩ := List.forall_mem_cons.1 hf
    cases c with
    | zero => simp [← hx]
    | succ c =>
      rw [List.flatMap_cons, Nat.mul_succ, Nat.add_comm, ← hx, List.drop_length_add_append, hx]
      exact ih hl c (Nat.lt_of_succ_lt_succ hc)

/-! Statistics records (R102). -/

theorem readStats_eq (m : Memory) (unit : Nat) : readStats m unit = statsOf (memReadWord m (headerUnit unit * 256 + 240) 16) := by
  refine congrArg statsOf ?_
  unfold memReadWord
  rw [memReadBytes_eq, memReadBytes_eq]
  refine congrArg ofBytesLe ?_
  refine List.map_congr_left fun i hi => ?_
  rw [memRead, aGet_memPart, Nat.zero_add, if_pos (List.mem_range.1 hi)]
  rfl

/-! The word of a row's statistics (R101). -/

/-- Above its last field a packed word is the word packed before it. -/
theorem bits_push_high (acc v : Nat) {n hi lo : Nat} (hlo : n ≤ lo) (hhi : lo ≤ hi) :
    bits hi lo (acc * 2 ^ n + v % 2 ^ n) = bits (hi - n) (lo - n) acc := by
  have hshift : (acc * 2 ^ n + v % 2 ^ n) >>> lo = acc >>> (lo - n) := by
    rw [← Nat.add_sub_cancel' hlo, Nat.shiftRight_add, Nat.add_sub_cancel_left]
    congr 1
    rw [Nat.shiftRight_eq_div_pow, Nat.mul_comm, Nat.mul_add_div (Nat.two_pow_pos n), Nat.div_eq_of_lt (Nat.mod_lt _ (Nat.two_pow_pos n)),
      Nat.add_zero]
  rw [bits, bits, hshift, ← Nat.sub_add_comm (hlo.trans hhi), Nat.sub_sub_sub_cancel_right hlo]

/-- The last field of a packed word. -/
theorem bits_push_low (acc v : Nat) {n hi lo : Nat} (hlo : lo = 0) (hhi : hi + 1 = n) : bits hi lo (acc * 2 ^ n + v % 2 ^ n) = v % 2 ^ n := by
  rw [bits, hlo, hhi, Nat.shiftRight_zero, Nat.sub_zero, Nat.mul_add_mod_self_right, Nat.mod_mod]

theorem bit_eq_bits (i w : Nat) : bit i w = decide (bits i i w = 1) := by
  rw [bit, Nat.testBit_eq_decide_div_mod_eq, bits, Nat.shiftRight_eq_div_pow, Nat.add_sub_cancel_left, pow_one]

theorem flag_bit (b : Bool) : decide (flag b % 2 ^ 1 = 1) = b := by cases b <;> rfl

/-- A word packed of fields is below two to their widths together. -/
theorem foldl_pack_lt (l : List (Nat × Nat)) {acc a : Nat} (h : acc < 2 ^ a) :
    l.foldl (fun acc f => acc * 2 ^ f.1 + f.2 % 2 ^ f.1) acc < 2 ^ (l.foldl (fun a f => a + f.1) a) := by
  induction l generalizing acc a with
  | nil => exact h
  | cons f l ih =>
    refine ih ?_
    calc acc * 2 ^ f.1 + f.2 % 2 ^ f.1 < acc * 2 ^ f.1 + 2 ^ f.1 := Nat.add_lt_add_left (Nat.mod_lt _ (Nat.two_pow_pos _)) _
      _ = (acc + 1) * 2 ^ f.1 := (Nat.succ_mul _ _).symm
      _ ≤ 2 ^ a * 2 ^ f.1 := Nat.mul_le_mul_right _ h
      _ = 2 ^ (a + f.1) := (Nat.pow_add ..).symm

/-- A row's statistics, packed field by field. -/
theorem statsWord_pack (r : RowStats) : statsWord r = ((((((0 * 2 ^ 32 + r.absmax.toNat % 2 ^ 32) * 2 ^ 32 + r.max.toNat % 2 ^ 32) * 2 ^ 32 +
    r.min.toNat % 2 ^ 32) * 2 ^ 24 + r.tag % 2 ^ 24) * 2 ^ 6 + 0 % 2 ^ 6) * 2 ^ 1 + flag r.range % 2 ^ 1) * 2 ^ 1 + flag r.poison % 2 ^ 1 := by
  simp only [statsWord, packMsb, List.foldl]

theorem statsWord_lt (r : RowStats) : statsWord r < 256 ^ 16 := by
  unfold statsWord packMsb
  refine Nat.lt_of_lt_of_eq (foldl_pack_lt _ (acc := 0) (a := 0) Nat.one_pos) ?_
  simp only [List.foldl]
  norm_num

theorem statsOf_statsWord (r : RowStats) (h : r.tag < 2 ^ 24) : statsOf (statsWord r) = r := by
  have hpoison : bit 0 (statsWord r) = r.poison := by
    rw [bit_eq_bits, statsWord_pack, bits_push_low _ _ rfl rfl, flag_bit]
  have hrange : bit 1 (statsWord r) = r.range := by
    rw [bit_eq_bits, statsWord_pack, bits_push_high _ _ (by decide) (by decide), bits_push_low _ _ rfl rfl, flag_bit]
  have field (f : Nat) {hi lo n : Nat} (hf : f < 2 ^ n) (hw : bits hi lo (statsWord r) = f % 2 ^ n) : bits hi lo (statsWord r) = f :=
    hw.trans (Nat.mod_eq_of_lt hf)
  have htag : bits 31 8 (statsWord r) = r.tag := field _ h (by
    rw [statsWord_pack]; simp (disch := decide) only [bits_push_high, bits_push_low])
  have hmin : bits 63 32 (statsWord r) = r.min.toNat := field _ r.min.isLt (by
    rw [statsWord_pack]; simp (disch := decide) only [bits_push_high, bits_push_low])
  have hmax : bits 95 64 (statsWord r) = r.max.toNat := field _ r.max.isLt (by
    rw [statsWord_pack]; simp (disch := decide) only [bits_push_high, bits_push_low])
  have habs : bits 127 96 (statsWord r) = r.absmax.toNat := field _ r.absmax.isLt (by
    rw [statsWord_pack]; simp (disch := decide) only [bits_push_high, bits_push_low])
  unfold statsOf
  rw [hpoison, hrange, htag, hmin, hmax, habs, BitVec.ofNat_toNat, BitVec.ofNat_toNat, BitVec.ofNat_toNat]
  rfl

end Sys2Proof.Proofs
end
section
/-! A sweep that completes: its rows, outputs and statistics (R78, R89, R100, R103, R121, R123 to R125). -/

namespace Sys2Proof.Proofs

open Sys2Proof Sys2Proof.Machine

/-! The bytes of a row of a sweep. -/

/-- The unit before a row of a sweep, which holds its scale words and its record (R100). -/
noncomputable def rowHeader (w pitch j : Nat) : Nat := headerUnit (sweepOut w + j * pitch)

/-- A byte of a row's output slice, of its scale word or of its record. -/
def inRow (w pitch j n : Nat) : Prop :=
  (outUnit w pitch j * 256 ≤ n ∧ n < (outUnit w pitch j + outUnits (sweepOutfmt w)) * 256) ∨
    (rowHeader w pitch j * 256 + 4 * sweepColTile w ≤ n ∧ n < rowHeader w pitch j * 256 + 4 * sweepColTile w + 4) ∨
    (rowHeader w pitch j * 256 + 240 ≤ n ∧ n < rowHeader w pitch j * 256 + 256)

/-- Rows of a table's pitch, with room for the header unit and for the column tiles up to the sweep's (R100). -/
structure rowsFit (w pitch : Nat) : Prop where
  pitch : 1 + (sweepColTile w + 1) * outUnits (sweepOutfmt w) ≤ pitch
  col : sweepColTile w < 60

/-- A row whose output lies in staging SRAM. -/
def rowIn (w pitch j : Nat) : Prop := (outUnit w pitch j + outUnits (sweepOutfmt w)) * 256 ≤ stagingBytes

theorem headerUnit_cases (u : Nat) : (u = 0 ∧ headerUnit u = 393216) ∨ (0 < u ∧ headerUnit u = u - 1) := by
  unfold headerUnit
  rcases Nat.eq_zero_or_pos u with rfl | h
  · exact .inl ⟨rfl, rfl⟩
  · exact .inr ⟨h, if_neg (by simpa using Nat.pos_iff_ne_zero.1 h)⟩

section Layout
variable {w pitch j k : Nat}

theorem outUnits_pos (f : Nat) : 0 < outUnits f := by
  unfold outUnits
  split
  · decide
  · split <;> decide

/-- Where a row's units lie. -/
theorem row_place (hf : rowsFit w pitch) (hj : rowIn w pitch j) : ∃ a n, a = sweepOut w + j * pitch ∧
    outUnit w pitch j = a + n ∧ n + outUnits (sweepOutfmt w) + 1 ≤ pitch ∧ a + n + outUnits (sweepOutfmt w) ≤ 393216 := by
  have hp := hf.pitch
  rw [Nat.add_mul, Nat.one_mul] at hp
  refine ⟨_, sweepColTile w * outUnits (sweepOutfmt w), rfl, rfl, by omega, ?_⟩
  unfold rowIn outUnit stagingBytes at hj
  omega

/-- Two rows of a table are a pitch apart. -/
theorem rows_apart (pitch : Nat) (h : j ≠ k) : j * pitch + pitch ≤ k * pitch ∨ k * pitch + pitch ≤ j * pitch := by
  rcases Nat.lt_or_gt_of_ne h with h | h
  · exact .inl (by rw [← Nat.succ_mul]; exact Nat.mul_le_mul_right _ h)
  · exact .inr (by rw [← Nat.succ_mul]; exact Nat.mul_le_mul_right _ h)

/-- A unit's place in the table's order: a row's header unit comes just before its output, the first row's at the end of the SRAM. -/
noncomputable def unitSlot (u : Nat) : Nat := if u = 393216 then 0 else u + 1

theorem unitSlot_headerUnit {a : Nat} (h : a ≤ 393216) : unitSlot (headerUnit a) = a := by
  unfold unitSlot
  rcases headerUnit_cases a with ⟨h0, hu⟩ | ⟨h0, hu⟩
  · rw [hu, if_pos rfl, h0]
  · rw [hu, if_neg (by omega), Nat.sub_add_cancel h0]

/-- The unit of a byte written for a row is its header unit or one of its output. -/
theorem unit_of_inRow {n : Nat} (hc : sweepColTile w < 60) (hn : inRow w pitch j n) :
    n / 256 = rowHeader w pitch j ∨ (outUnit w pitch j ≤ n / 256 ∧ n / 256 < outUnit w pitch j + outUnits (sweepOutfmt w)) := by
  rcases hn with ⟨h1, h2⟩ | ⟨h1, h2⟩ | ⟨h1, h2⟩
  · exact .inr ⟨(Nat.le_div_iff_mul_le (by decide)).2 h1, (Nat.div_lt_iff_lt_mul (by decide)).2 h2⟩
  · exact .inl (by omega)
  · exact .inl (by omega)

/-- The bytes written for a row lie within a pitch of the table's order. -/
theorem unitSlot_of_inRow {n : Nat} (hf : rowsFit w pitch) (hj : rowIn w pitch j) (hn : inRow w pitch j n) :
    sweepOut w + j * pitch ≤ unitSlot (n / 256) ∧ unitSlot (n / 256) < sweepOut w + j * pitch + pitch := by
  obtain ⟨a, x, ha, hx, hxp, hxs⟩ := row_place hf hj
  rw [← ha]
  rcases unit_of_inRow hf.col hn with h | ⟨h1, h2⟩
  · rw [h, rowHeader, ← ha, unitSlot_headerUnit (by omega)]
    omega
  · rw [unitSlot, if_neg (by omega)]
    omega

/-- Rows do not overlap. -/
theorem not_inRow_of_inRow (hf : rowsFit w pitch) (hj : rowIn w pitch j) (hk : rowIn w pitch k) (h : j ≠ k) {n : Nat}
    (hn : inRow w pitch j n) : ¬ inRow w pitch k n := by
  intro hm
  have h1 := unitSlot_of_inRow hf hj hn
  have h2 := unitSlot_of_inRow hf hk hm
  have apart := rows_apart pitch h
  omega

theorem rowHeader_ne (hf : rowsFit w pitch) (hj : rowIn w pitch j) (hk : rowIn w pitch k) (h : j ≠ k) :
    rowHeader w pitch j ≠ rowHeader w pitch k := by
  intro he
  exact not_inRow_of_inRow hf hj hk h (n := rowHeader w pitch j * 256 + 240) (.inr (.inr (by omega))) (.inr (.inr (by omega)))

/-- A row's header unit lies apart from its output. -/
theorem rowHeader_apart (hf : rowsFit w pitch) (hj : rowIn w pitch j) :
    rowHeader w pitch j * 256 + 256 ≤ outUnit w pitch j * 256 ∨
      (outUnit w pitch j + outUnits (sweepOutfmt w)) * 256 ≤ rowHeader w pitch j * 256 := by
  obtain ⟨a, x, ha, hx, hxp, hxs⟩ := row_place hf hj
  unfold rowHeader
  rw [← ha, hx]
  rcases headerUnit_cases a with ⟨ha0, hha⟩ | ⟨ha0, hha⟩
  · rw [hha]; omega
  · rw [hha]; omega

end Layout

/-! Writing one row. -/

/-- Staging SRAM with a row's outputs and scale word in it, its record as before. -/
noncomputable def rowOutputs (w pitch : Nat) (m : Memory) (row : Nat × RowOut) : Memory :=
  match row.2.header with
  | some h => memWriteBytes (memWriteBytes m (outUnit w pitch row.1 * 256) row.2.slice)
      (rowHeader w pitch row.1 * 256 + 4 * sweepColTile w) (bytesLe 4 h)
  | none => memWriteBytes m (outUnit w pitch row.1 * 256) row.2.slice

/-- A record that takes the flags of the values written (R103). -/
noncomputable def markedStats (old new : RowStats) : RowStats := { old with range := old.range || new.range, poison := old.poison || new.poison }

theorem writeRow_eq (w pitch tag : Nat) (g : Segment) (row : Nat × RowOut) : writeRow w pitch tag g row =
    if sweepFuse w then
      { g with
        staging := writeStats (rowOutputs w pitch g.staging row) (sweepOut w + row.1 * pitch)
          (mergeStats (statsCurrent g.validBits (rowOutputs w pitch g.staging row) tag (sweepOut w + row.1 * pitch))
            (readStats (rowOutputs w pitch g.staging row) (sweepOut w + row.1 * pitch)) row.2.stats),
        validBits := insertNat (rowHeader w pitch row.1) g.validBits }
    else if statsCurrent g.validBits (rowOutputs w pitch g.staging row) tag (sweepOut w + row.1 * pitch) &&
        (row.2.stats.range || row.2.stats.poison) then
      { g with
        staging := writeStats (rowOutputs w pitch g.staging row) (sweepOut w + row.1 * pitch)
          (markedStats (readStats (rowOutputs w pitch g.staging row) (sweepOut w + row.1 * pitch)) row.2.stats) }
    else { g with staging := rowOutputs w pitch g.staging row } := rfl

/-- A row's slice fills its output units. -/
def sliceFits (w : Nat) (row : Nat × RowOut) : Prop := row.2.slice.length = outUnits (sweepOutfmt w) * 256

section WriteRow
variable {w pitch tag : Nat} {g : Segment} {row : Nat × RowOut} {n : Nat}

theorem memRead_writeStats_outside (m : Memory) (unit : Nat) (r : RowStats)
    (h : n < headerUnit unit * 256 + 240 ∨ headerUnit unit * 256 + 256 ≤ n) : memRead (writeStats m unit r) n = memRead m n :=
  memRead_memWriteBytes_outside _ m _ n (by rw [bytesLe_length]; omega)

theorem memRead_rowOutputs_outside (hs : sliceFits w row)
    (ho : n < outUnit w pitch row.1 * 256 ∨ (outUnit w pitch row.1 + outUnits (sweepOutfmt w)) * 256 ≤ n)
    (hh : n < rowHeader w pitch row.1 * 256 + 4 * sweepColTile w ∨ rowHeader w pitch row.1 * 256 + 4 * sweepColTile w + 4 ≤ n)
    (m : Memory) : memRead (rowOutputs w pitch m row) n = memRead m n := by
  have slice : memRead (memWriteBytes m (outUnit w pitch row.1 * 256) row.2.slice) n = memRead m n :=
    memRead_memWriteBytes_outside _ m _ n (by rw [show row.2.slice.length = _ from hs, ← Nat.add_mul]; exact ho)
  unfold rowOutputs
  split
  · rw [memRead_memWriteBytes_outside _ _ _ n (by rw [bytesLe_length]; omega), slice]
  · exact slice

/-- Outside the record, a row written leaves what its outputs leave. -/
theorem memRead_writeRow (h : n < rowHeader w pitch row.1 * 256 + 240 ∨ rowHeader w pitch row.1 * 256 + 256 ≤ n) :
    memRead (writeRow w pitch tag g row).staging n = memRead (rowOutputs w pitch g.staging row) n := by
  rw [writeRow_eq]
  split
  · exact memRead_writeStats_outside _ _ _ h
  · split
    · exact memRead_writeStats_outside _ _ _ h
    · rfl

theorem memRead_writeRow_outside (hs : sliceFits w row) (h : ¬ inRow w pitch row.1 n) :
    memRead (writeRow w pitch tag g row).staging n = memRead g.staging n := by
  unfold inRow at h
  rw [memRead_writeRow (by omega), memRead_rowOutputs_outside hs (by omega) (by omega)]

theorem writeRow_fields : writeRow w pitch tag g row =
    { g with staging := (writeRow w pitch tag g row).staging, validBits := (writeRow w pitch tag g row).validBits } := by
  rw [writeRow_eq]
  split
  · rfl
  · split <;> rfl

theorem writeRow_valid {u : Nat} (h : u ≠ rowHeader w pitch row.1) : u ∈ (writeRow w pitch tag g row).validBits ↔ u ∈ g.validBits := by
  rw [writeRow_eq]
  split
  · exact mem_insertNat.trans (by simp [h])
  · split <;> rfl

end WriteRow

/-! Writing the rows. -/

section Rows
variable {w pitch tag : Nat} {g : Segment} {rows : List (Nat × RowOut)}

theorem memRead_writeRows_outside {n : Nat} (hs : ∀ x ∈ rows, sliceFits w x) (h : ∀ x ∈ rows, ¬ inRow w pitch x.1 n) :
    memRead (rows.foldl (writeRow w pitch tag) g).staging n = memRead g.staging n := by
  induction rows generalizing g with
  | nil => rfl
  | cons x l ih =>
    obtain ⟨hx, hl⟩ := List.forall_mem_cons.1 h
    obtain ⟨sx, sl⟩ := List.forall_mem_cons.1 hs
    rw [List.foldl_cons, ih sl hl, memRead_writeRow_outside sx hx]

theorem writeRows_fields : rows.foldl (writeRow w pitch tag) g = { g with
    staging := (rows.foldl (writeRow w pitch tag) g).staging, validBits := (rows.foldl (writeRow w pitch tag) g).validBits } := by
  induction rows generalizing g with
  | nil => rfl
  | cons x l ih =>
    rw [List.foldl_cons, ih, writeRow_fields]

theorem writeRows_valid {u : Nat} (h : ∀ x ∈ rows, u ≠ rowHeader w pitch x.1) :
    u ∈ (rows.foldl (writeRow w pitch tag) g).validBits ↔ u ∈ g.validBits := by
  induction rows generalizing g with
  | nil => rfl
  | cons x l ih =>
    obtain ⟨hx, hl⟩ := List.forall_mem_cons.1 h
    rw [List.foldl_cons, ih hl, writeRow_valid hx]

/-- One row of those written: the bytes of it are those it leaves when it is written, from what they were at first. -/
theorem writeRows_row (hf : rowsFit w pitch) (hin : ∀ x ∈ rows, rowIn w pitch x.1) (hs : ∀ x ∈ rows, sliceFits w x)
    (hn : (rows.map (·.1)).Nodup) {row : Nat × RowOut} (hrow : row ∈ rows) : ∃ g' : Segment,
    (∀ n, inRow w pitch row.1 n → memRead g'.staging n = memRead g.staging n ∧
      memRead (rows.foldl (writeRow w pitch tag) g).staging n = memRead (writeRow w pitch tag g' row).staging n) ∧
    (rowHeader w pitch row.1 ∈ g'.validBits ↔ rowHeader w pitch row.1 ∈ g.validBits) ∧
    (rowHeader w pitch row.1 ∈ (rows.foldl (writeRow w pitch tag) g).validBits ↔
      rowHeader w pitch row.1 ∈ (writeRow w pitch tag g' row).validBits) := by
  obtain ⟨l, r, rfl⟩ := List.append_of_mem hrow
  rw [List.map_append, List.map_cons, List.nodup_append] at hn
  obtain ⟨-, hr, hl⟩ := hn
  have apart (x : Nat × RowOut) (hx : x ∈ l ∨ x ∈ r) : row.1 ≠ x.1 := by
    rcases hx with hx | hx
    · exact (hl _ (List.mem_map_of_mem hx) _ List.mem_cons_self).symm
    · exact fun he => (List.nodup_cons.1 hr).1 (he ▸ List.mem_map_of_mem hx)
  have mem (x : Nat × RowOut) (hx : x ∈ l ∨ x ∈ r) : x ∈ l ++ row :: r := by
    rcases hx with hx | hx
    · exact List.mem_append_left _ hx
    · exact List.mem_append_right _ (List.mem_cons_of_mem _ hx)
  have out (x : Nat × RowOut) (hx : x ∈ l ∨ x ∈ r) {n : Nat} (hn : inRow w pitch row.1 n) : ¬ inRow w pitch x.1 n :=
    not_inRow_of_inRow hf (hin row hrow) (hin x (mem x hx)) (apart x hx) hn
  have head (x : Nat × RowOut) (hx : x ∈ l ∨ x ∈ r) : rowHeader w pitch row.1 ≠ rowHeader w pitch x.1 :=
    rowHeader_ne hf (hin row hrow) (hin x (mem x hx)) (apart x hx)
  refine ⟨l.foldl (writeRow w pitch tag) g, fun n hn => ⟨?_, ?_⟩, ?_, ?_⟩
  · exact memRead_writeRows_outside (fun x hx => hs x (mem x (.inl hx))) fun x hx => out x (.inl hx) hn
  · rw [List.foldl_append, List.foldl_cons]
    exact memRead_writeRows_outside (fun x hx => hs x (mem x (.inr hx))) fun x hx => out x (.inr hx) hn
  · exact writeRows_valid fun x hx => head x (.inl hx)
  · rw [List.foldl_append, List.foldl_cons]
    exact writeRows_valid fun x hx => head x (.inr hx)

end Rows

/-! What stands in a row once the rows are written. -/

section Written
variable {w pitch tag : Nat} {g : Segment} {rows : List (Nat × RowOut)} {row : Nat × RowOut}

/-- A word of a row's output slice. -/
theorem memReadWord_slice (hf : rowsFit w pitch) (hin : ∀ x ∈ rows, rowIn w pitch x.1) (hs : ∀ x ∈ rows, sliceFits w x)
    (hn : (rows.map (·.1)).Nodup) (hrow : row ∈ rows) {k n : Nat} (hk : k + n ≤ outUnits (sweepOutfmt w) * 256) :
    memReadWord (rows.foldl (writeRow w pitch tag) g).staging (outUnit w pitch row.1 * 256 + k) n =
      ofBytesLe ((row.2.slice.drop k).take n) := by
  obtain ⟨g', hbytes, -, -⟩ := writeRows_row (tag := tag) (g := g) hf hin hs hn hrow
  have hapart := rowHeader_apart hf (hin row hrow)
  have hcol := hf.col
  rw [← memReadWord_written g'.staging (outUnit w pitch row.1 * 256) k n row.2.slice (by rw [show row.2.slice.length = _ from hs row hrow]; exact hk)]
  refine memReadWord_congr fun x h1 h2 => ?_
  have hx : outUnit w pitch row.1 * 256 ≤ x ∧ x < (outUnit w pitch row.1 + outUnits (sweepOutfmt w)) * 256 := by omega
  rw [(hbytes x (.inl hx)).2, memRead_writeRow (by omega)]
  unfold rowOutputs
  split
  · exact memRead_memWriteBytes_outside _ _ _ x (by rw [bytesLe_length]; omega)
  · rfl

/-- A row's scale word. -/
theorem memReadWord_scale (hf : rowsFit w pitch) (hin : ∀ x ∈ rows, rowIn w pitch x.1) (hs : ∀ x ∈ rows, sliceFits w x)
    (hn : (rows.map (·.1)).Nodup) (hrow : row ∈ rows) {h : Nat} (hh : row.2.header = some h) :
    memReadWord (rows.foldl (writeRow w pitch tag) g).staging (rowHeader w pitch row.1 * 256 + 4 * sweepColTile w) 4 = h % 2 ^ 32 := by
  obtain ⟨g', hbytes, -, -⟩ := writeRows_row (tag := tag) (g := g) hf hin hs hn hrow
  have hcol := hf.col
  have written := memReadWord_written (memWriteBytes g'.staging (outUnit w pitch row.1 * 256) row.2.slice)
    (rowHeader w pitch row.1 * 256 + 4 * sweepColTile w) 0 4 (bytesLe 4 h) (by rw [bytesLe_length])
  rw [List.drop_zero, List.take_of_length_le (by rw [bytesLe_length]), ofBytesLe_bytesLe, Nat.add_zero] at written
  rw [show 2 ^ 32 = 256 ^ 4 from rfl, ← written]
  refine memReadWord_congr fun x h1 h2 => ?_
  rw [(hbytes x (.inr (.inl ⟨h1, h2⟩))).2, memRead_writeRow (by omega), rowOutputs, hh]

/-- The record of a row written with FUSE_RS (R103). -/
theorem readStats_fused (hf : rowsFit w pitch) (hin : ∀ x ∈ rows, rowIn w pitch x.1) (hs : ∀ x ∈ rows, sliceFits w x)
    (hn : (rows.map (·.1)).Nodup) (hrow : row ∈ rows) (hfuse : sweepFuse w = true) (htag : row.2.stats.tag < 2 ^ 24) :
    readStats (rows.foldl (writeRow w pitch tag) g).staging (sweepOut w + row.1 * pitch) =
      mergeStats (statsCurrent g.validBits g.staging tag (sweepOut w + row.1 * pitch))
        (readStats g.staging (sweepOut w + row.1 * pitch)) row.2.stats ∧
      rowHeader w pitch row.1 ∈ (rows.foldl (writeRow w pitch tag) g).validBits := by
  obtain ⟨g', hbytes, hvalid, hvalid'⟩ := writeRows_row (tag := tag) (g := g) hf hin hs hn hrow
  have hapart := rowHeader_apart hf (hin row hrow)
  have hcol := hf.col
  have before : readStats (rowOutputs w pitch g'.staging row) (sweepOut w + row.1 * pitch) =
      readStats g.staging (sweepOut w + row.1 * pitch) := by
    rw [readStats_eq, readStats_eq]
    refine congrArg statsOf (memReadWord_congr fun x h1 h2 => ?_)
    have h1 : rowHeader w pitch row.1 * 256 + 240 ≤ x := h1
    have h2 : x < rowHeader w pitch row.1 * 256 + 256 := h2
    rw [memRead_rowOutputs_outside (hs row hrow) (by omega) (by omega), (hbytes x (.inr (.inr ⟨h1, h2⟩))).1]
  have current : statsCurrent g'.validBits (rowOutputs w pitch g'.staging row) tag (sweepOut w + row.1 * pitch) =
      statsCurrent g.validBits g.staging tag (sweepOut w + row.1 * pitch) := by
    unfold statsCurrent
    rw [before]
    refine congrArg (· && _) (Bool.eq_iff_iff.2 ?_)
    rw [List.contains_iff_mem, List.contains_iff_mem]
    exact hvalid
  have fused : (writeRow w pitch tag g' row) = { g' with
      staging := writeStats (rowOutputs w pitch g'.staging row) (sweepOut w + row.1 * pitch)
        (mergeStats (statsCurrent g.validBits g.staging tag (sweepOut w + row.1 * pitch))
          (readStats g.staging (sweepOut w + row.1 * pitch)) row.2.stats),
      validBits := insertNat (rowHeader w pitch row.1) g'.validBits } := by
    rw [writeRow_eq, if_pos hfuse, current, before]
  refine ⟨?_, hvalid'.2 (by rw [fused]; exact mem_insertNat.2 (.inl rfl))⟩
  generalize hm : mergeStats (statsCurrent g.validBits g.staging tag (sweepOut w + row.1 * pitch))
    (readStats g.staging (sweepOut w + row.1 * pitch)) row.2.stats = merged at fused ⊢
  have hmtag : merged.tag < 2 ^ 24 := by
    rw [← hm, mergeStats]
    split <;> exact htag
  have word := memReadWord_written (rowOutputs w pitch g'.staging row) (rowHeader w pitch row.1 * 256 + 240) 0 16
    (bytesLe 16 (statsWord merged)) (by rw [bytesLe_length])
  rw [List.drop_zero, List.take_of_length_le (by rw [bytesLe_length]), ofBytesLe_bytesLe, Nat.add_zero] at word
  rw [readStats_eq, ← statsOf_statsWord merged hmtag, ← Nat.mod_eq_of_lt (statsWord_lt merged), ← word]
  refine congrArg statsOf (memReadWord_congr fun x h1 h2 => ?_)
  rw [(hbytes x (.inr (.inr ⟨h1, h2⟩))).2, fused]
  rfl

end Written

/-! The rows that the finisher writes. -/

/-- The values of a row finished (R121). -/
noncomputable def finishedValues (w passes : Nat) (table : List Nat) (e : RowScale) (acc : List Int) (side : List (Nat × List BF16)) (n : Nat) : List F32 :=
  (List.range 256).map (fun c => finishElem (sweepWfmt w) (sweepAct w) passes e (table.getD c 0) (acc.getD c 0) (sideSum e side c n))

theorem quantGroup_length (v : List F32) : (quantGroup v).2.1.length = v.length := by
  unfold quantGroup
  split
  · simp
  · dsimp only
    split <;> simp

section Finish
variable (w passes tag : Nat) (table : List Nat) (e : RowScale) (acc : List Int) (side : List (Nat × List BF16)) (n : Nat)

/-- A row finished, by its output format (R124, R125). -/
theorem finishRow_eq : finishRow w passes tag table e acc side n =
    if sweepOutfmt w == 0 then outBf16 tag e (table.map reExcl ++ List.replicate (256 - table.length) false)
      (finishedValues w passes table e acc side n)
    else if sweepOutfmt w == 1 then outInt8 e (finishedValues w passes table e acc side n)
    else outF32 e (finishedValues w passes table e acc side n) := rfl

theorem finishedValues_length : (finishedValues w passes table e acc side n).length = 256 := by simp [finishedValues]

theorem finishRow_slice : (finishRow w passes tag table e acc side n).slice.length = outUnits (sweepOutfmt w) * 256 := by
  have hv := finishedValues_length w passes table e acc side n
  have words (k : Nat) {α : Type} (f : α → Nat) (l : List α) : (l.flatMap (fun x => bytesLe k (f x))).length = k * l.length := by
    rw [List.length_flatMap]
    simp [Nat.mul_comm]
  rw [finishRow_eq]
  unfold outUnits
  split
  · simp [outBf16, words, hv]
  · split
    · simp [outInt8, codeBytes, quantGroup_length, hv]
    · simp [outF32, words, hv]

end Finish

/-! The words of a slice, by output format. -/

theorem outBf16_word (tag : Nat) (e : RowScale) (excl : List Bool) {v : List F32} (hv : v.length = 256) {ch : Nat} (h : ch < 256) :
    ofBytesLe (((outBf16 tag e excl v).slice.drop (2 * ch)).take 2) = (bf16Of (v.getD ch 0)).toNat := by
  unfold outBf16
  dsimp only
  rw [take_drop_flatMap (fun x : BF16 => bytesLe 2 x.toNat) (v.map bf16Of) (fun _ _ => bytesLe_length _ _) ch (by simpa [hv] using h),
    ofBytesLe_bytesLe]
  simp only [List.getElem_map]
  rw [List.getD_eq_getElem _ _ (by omega)]
  exact Nat.mod_eq_of_lt (BitVec.isLt _)

theorem outF32_word (e : RowScale) {v : List F32} (hv : v.length = 256) {ch : Nat} (h : ch < 256) :
    ofBytesLe (((outF32 e v).slice.drop (4 * ch)).take 4) = (v.getD ch 0).toNat := by
  unfold outF32
  dsimp only
  rw [take_drop_flatMap (fun x : F32 => bytesLe 4 x.toNat) v (fun _ _ => bytesLe_length _ _) ch (by omega), ofBytesLe_bytesLe,
    List.getD_eq_getElem _ _ (by omega)]
  exact Nat.mod_eq_of_lt (BitVec.isLt _)

/-- The record of a row of BF16 outputs: that of the values, with the range mark of the row's inputs (R103). -/
theorem outBf16_stats (tag : Nat) (e : RowScale) {table : List Nat} (ht : table.length = 256) (v : Nat → F32) :
    (outBf16 tag e (table.map reExcl ++ List.replicate (256 - table.length) false) ((List.range 256).map v)).stats =
      { gatherStats tag ((List.range 256).map (fun ch => (bf16Of (v ch), reExcl (table.getD ch 0)))) with
        range := (List.range 256).any (fun ch => f32IsInf (f32OfBf16 (bf16Of (v ch)))) || e.range } := by
  have pairs : (((List.range 256).map v).map bf16Of).zip (table.map reExcl ++ List.replicate (256 - table.length) false) =
      (List.range 256).map (fun ch => (bf16Of (v ch), reExcl (table.getD ch 0))) := by
    refine List.ext_getElem (by simp [ht]) fun n h1 h2 => ?_
    have hn : n < 256 := by simpa using h2
    simp [ht, hn]
  unfold outBf16
  dsimp only
  rw [pairs]
  simp [gatherStats, List.any_map, Function.comp_def]

theorem take_map_range {α : Type} (v : Nat → α) : ((List.range 256).map v).take 128 = (List.range 128).map v := by
  rw [← List.map_take, List.take_range]
  rfl

theorem drop_map_range {α : Type} (v : Nat → α) : ((List.range 256).map v).drop 128 = (List.range 128).map (fun n => v (128 + n)) := by
  refine List.ext_getElem (by simp) fun n h1 h2 => ?_
  simp

theorem codeBytes_word (l : List Int) {ch : Nat} (h : ch < l.length) :
    ofBytesLe (((codeBytes l).drop ch).take 1) = unsigned 8 (l.getD ch 0) := by
  have byte : unsigned 8 (l.getD ch 0) < 256 := by
    unfold unsigned
    omega
  have one : ((codeBytes l).drop ch).take 1 = [unsigned 8 (l.getD ch 0)] := by
    rw [List.take_one, List.head?_drop, codeBytes, List.getElem?_map, List.getElem?_eq_getElem h, List.getD_eq_getElem _ _ h]
    rfl
  rw [one, ofBytesLe, ofBytesLe, Nat.mod_eq_of_lt byte, Nat.mul_zero, Nat.add_zero]

theorem outInt8_first (e : RowScale) {v : List F32} (hv : v.length = 256) {ch : Nat} (h : ch < 128) :
    ofBytesLe (((outInt8 e v).slice.drop ch).take 1) = unsigned 8 ((quantGroup (v.take 128)).2.1.getD ch 0) := by
  have ha : (quantGroup (v.take 128)).2.1.length = 128 := by rw [quantGroup_length]; simp [hv]
  unfold outInt8
  dsimp only
  rw [codeBytes_word _ (by rw [List.length_append]; omega), List.getD_append _ _ _ _ (by omega)]

theorem outInt8_second (e : RowScale) {v : List F32} (hv : v.length = 256) {ch : Nat} (h : ch < 128) :
    ofBytesLe (((outInt8 e v).slice.drop (128 + ch)).take 1) = unsigned 8 ((quantGroup (v.drop 128)).2.1.getD ch 0) := by
  have ha : (quantGroup (v.take 128)).2.1.length = 128 := by rw [quantGroup_length]; simp [hv]
  have hb : (quantGroup (v.drop 128)).2.1.length = 128 := by rw [quantGroup_length]; simp [hv]
  unfold outInt8
  dsimp only
  rw [codeBytes_word _ (by rw [List.length_append]; omega), List.getD_append_right _ _ _ _ (by omega), ha, Nat.add_sub_cancel_left]

/-! Completing the sweep. -/

theorem part_of_stepHere {g : Segment} {p : Nat} {c : Cls} {x : SegStep} (h : g.stepHere p c = some x) : x.part = p ∧ x.cls = c := by
  have := List.find?_some h
  simpa using this

section Complete
variable {s : State} {i p slot pitch : Nat} {c : Cls} {a : Arr} {st : StepS} {x : SegStep} {r : PassRef} {b : AccBank}

/-- The rows that a completed sweep writes (R85, R123). -/
noncomputable def sweepOutputs (r : PassRef) (x : SegStep) (b : AccBank) : List (Nat × RowOut) :=
  finishRows r (x.rowLists.getD (sweepRowList r.sweep) {}).drop b

theorem mem_sweepOutputs {row : Nat × RowOut} (h : row ∈ sweepOutputs r x b) : row.1 ∈ b.fed ∧ sliceFits r.sweep row := by
  obtain ⟨j, hj, rfl⟩ := List.mem_map.1 h
  exact ⟨(List.mem_filter.1 hj).1, finishRow_slice _ _ _ _ _ _ _ _⟩

theorem sweepOutputs_nodup (h : b.fed.Nodup) : ((sweepOutputs r x b).map (·.1)).Nodup := by
  unfold sweepOutputs finishRows
  rw [List.map_map]
  exact (List.map_id _).symm ▸ h.filter _

theorem exec_sweepComplete (hs : s.stepOf p c = some st) (hx : (s.seg i).stepHere p c = some x) (hr : (s.seg i).runs p c = true)
    (hpass : r = passOf st.prog.image x slot) (hd : dType r.sweep = 2) (hk : r.k = sweepPasses r.sweep) (hn : slot ∉ x.done)
    (ha : a = (s.seg i).sweepRuns r.sweep) (hb : b = ((s.seg i).array a).finishing.headD {}) (hh : b.holder = some r.ref)
    (hp : pitch = (match s.rtable i p (sweepTable r.sweep) with | some y => rtPitch y.header | none => 0))
    (hin : ∀ j ∈ b.fed, rowIn r.sweep pitch j) :
    exec (.sweepComplete i p c slot) s = .next (s.onSeg i (completeSweep a r pitch (sweepOutputs r x b))) := by
  have inside : ((sweepOutputs r x b).map (outEnd r.sweep pitch)).find? (fun a => stagingBytes < a) = none := by
    refine List.find?_eq_none.2 fun n hn => ?_
    obtain ⟨row, hrow, rfl⟩ := List.mem_map.1 hn
    have := hin row.1 (mem_sweepOutputs hrow).1
    unfold rowIn at this
    rw [outEnd, decide_eq_true_eq]
    omega
  show execSweepComplete i p c slot s = _
  unfold execSweepComplete
  simp only [hs, hx]
  rw [← hpass, ← ha, ← hb]
  unfold sweepOutputs at inside ⊢
  cases hrt : s.rtable i p (sweepTable r.sweep) with
  | none =>
    rw [hrt] at hp
    dsimp only at hp ⊢
    subst hp
    simp only [inside]
    simp [hr, hd, hk, hn, hh]
  | some y =>
    rw [hrt] at hp
    dsimp only at hp ⊢
    subst hp
    simp only [inside]
    simp [hr, hd, hk, hn, hh]

/-- A segment after a sweep: its rows are written, the array and the step have done with it. -/
theorem completeSweep_eq (rows : List (Nat × RowOut)) (g : Segment) : completeSweep a r pitch rows g =
    { ((rows.foldl (writeRow r.sweep pitch r.launchNo) g).onArray a (leaveArray r)).onStep r.ref.part r.ref.cls (sweepDone r.ref.slot) with
      cnt := countOut rows (((rows.foldl (writeRow r.sweep pitch r.launchNo) g).onArray a (leaveArray r)).onStep r.ref.part r.ref.cls
        (sweepDone r.ref.slot)).cnt } := rfl

theorem completeSweep_memory (rows : List (Nat × RowOut)) (g : Segment) :
    (completeSweep a r pitch rows g).staging = (rows.foldl (writeRow r.sweep pitch r.launchNo) g).staging ∧
      (completeSweep a r pitch rows g).validBits = (rows.foldl (writeRow r.sweep pitch r.launchNo) g).validBits := by
  cases a <;> exact ⟨rfl, rfl⟩

theorem completeSweep_array (rows : List (Nat × RowOut)) (g : Segment) :
    (completeSweep a r pitch rows g).array a = leaveArray r (g.array a) := by
  rw [completeSweep_eq, writeRows_fields]
  cases a <;> rfl

theorem completeSweep_fields (rows : List (Nat × RowOut)) (g : Segment) : completeSweep a r pitch rows g =
    { g with
      ma0 := (completeSweep a r pitch rows g).ma0, ma1 := (completeSweep a r pitch rows g).ma1,
      staging := (completeSweep a r pitch rows g).staging, validBits := (completeSweep a r pitch rows g).validBits,
      steps := (completeSweep a r pitch rows g).steps, cnt := (completeSweep a r pitch rows g).cnt } := by
  rw [completeSweep_eq, writeRows_fields]
  cases a <;> rfl

theorem completeSweep_done (rows : List (Nat × RowOut)) {g : Segment} (hx : g.stepHere p c = some x) (hp : r.ref.part = p) (hc : r.ref.cls = c) :
    (completeSweep a r pitch rows g).stepHere p c = some (sweepDone r.ref.slot x) := by
  rw [completeSweep_eq, hp, hc]
  refine Eq.trans (b := (((rows.foldl (writeRow r.sweep pitch r.launchNo) g).onArray a (leaveArray r)).onStep p c
    (sweepDone r.ref.slot)).stepHere p c) rfl (stepHere_onStep ?_ ⟨rfl, rfl⟩)
  rw [writeRows_fields]
  cases a <;> exact hx

theorem leaveArray_holder (y : ArrayS) : ((leaveArray r y).bank (sweepBank r.sweep)).holder ≠ some r.ref := by
  have left : (leaveArray r y).bank (sweepBank r.sweep) =
      if (y.bank (sweepBank r.sweep)).holder == some r.ref then {} else y.bank (sweepBank r.sweep) :=
    bank_onBank y (sweepBank r.sweep) _
  rw [left]
  split
  · exact nofun
  next h => simpa using h

theorem leaveArray_finishing (y : ArrayS) : (leaveArray r y).finishing = y.finishing.filter (fun b => b.holder != some r.ref) := by
  unfold leaveArray ArrayS.onBank
  dsimp only
  split <;> rfl

end Complete

/-- Settles O11: a completed sweep is `completeSweep`; its rows do not overlap (`not_inRow_of_inRow`), so that each row's words are those
it was written with (`memReadWord_slice`, `memReadWord_scale`, `readStats_fused`). -/
theorem sweepCompleted : Obligations.SweepCompleted := by
  refine ⟨?_, ?_⟩
  · intro s i p c slot pitch a st x r b hs hx hr hpass hd hk hn ha hb hh hp hin
    obtain ⟨hpart, hcls⟩ := part_of_stepHere hx
    refine ⟨_, exec_sweepComplete hs hx hr hpass hd hk hn ha hb hh hp hin, ?_⟩
    rw [s.seg_onSeg_eq _ (hasSeg_of_stepHere hx), completeSweep_array]
    refine ⟨leaveArray_holder _, leaveArray_finishing _, ⟨_, completeSweep_done _ hx (hpass ▸ hpart) (hpass ▸ hcls), ?_⟩, fun n hout => ?_,
      completeSweep_fields _ _, fun j hj => s.seg_onSeg_ne _ hj, rfl⟩
    · rw [hpass]
      exact mem_insertNat.2 (.inl rfl)
    · rw [(completeSweep_memory _ _).1]
      refine memRead_writeRows_outside (fun y hy => (mem_sweepOutputs hy).2) fun y hy => ?_
      obtain ⟨h1, h2, h3⟩ := hout y.1 (mem_sweepOutputs hy).1
      unfold inRow rowHeader
      omega
  · intro s t i p c slot pitch j start a st x r b e v hs hx hr hpass hd hk hn ha hb hh hp hin hpitch hcol hwf hnodup hj hdrop he hstart hv hexec
    rw [exec_sweepComplete hs hx hr hpass hd hk hn ha hb hh hp hin] at hexec
    obtain rfl := Host.Outcome.next.inj hexec
    rw [s.seg_onSeg_eq _ (hasSeg_of_stepHere hx), (completeSweep_memory _ _).1, (completeSweep_memory _ _).2]
    have hf : rowsFit r.sweep pitch := ⟨hpitch, hcol⟩
    have hins : ∀ y ∈ sweepOutputs r x b, rowIn r.sweep pitch y.1 := fun y hy => hin y.1 (mem_sweepOutputs hy).1
    have hslices : ∀ y ∈ sweepOutputs r x b, sliceFits r.sweep y := fun y hy => (mem_sweepOutputs hy).2
    have hrow : (j, finishRow r.sweep (sweepPasses r.sweep) r.launchNo b.table e ((aGet j b.acc).getD []) b.side r.chans.length) ∈
        sweepOutputs r x b := by
      rw [he]
      exact List.mem_map.2 ⟨j, List.mem_filter.2 ⟨hj, by simpa using hdrop⟩, rfl⟩
    have hvals : finishedValues r.sweep (sweepPasses r.sweep) b.table e ((aGet j b.acc).getD []) b.side r.chans.length =
        (List.range 256).map v := by
      refine List.map_congr_left fun ch _ => ?_
      rw [hv ch, finishElem]
      simp only [beq_iff_eq]
    have hlen : ((List.range 256).map v).length = 256 := by simp
    have hval {ch : Nat} (h : ch < 256) : ((List.range 256).map v).getD ch 0 = v ch := by simp [h]
    have hfin := finishRow_eq r.sweep (sweepPasses r.sweep) r.launchNo b.table e ((aGet j b.acc).getD []) b.side r.chans.length
    rw [hvals] at hfin
    rw [hfin] at hrow
    refine ⟨fun hfmt ch hch => ?_, fun hfmt ch hch => ?_, fun hfmt hfuse => ⟨fun ch hch => ⟨?_, ?_⟩, ?_⟩, fun hfmt hfuse htab => ?_⟩
    · have word := memReadWord_slice (tag := r.launchNo) (g := s.seg i) (k := 2 * ch) (n := 2) hf hins hslices (sweepOutputs_nodup hnodup) hrow
        (by rw [hfmt]; show _ ≤ 512; omega)
      rw [word, hfmt]
      exact (outBf16_word _ _ _ hlen hch).trans (by rw [hval hch])
    · have word := memReadWord_slice (tag := r.launchNo) (g := s.seg i) (k := 4 * ch) (n := 4) hf hins hslices (sweepOutputs_nodup hnodup) hrow
        (by rw [hfmt]; show _ ≤ 1024; omega)
      rw [word, hfmt]
      exact (outF32_word _ hlen hch).trans (by rw [hval hch])
    · have word := memReadWord_slice (tag := r.launchNo) (g := s.seg i) (k := ch) (n := 1) hf hins hslices (sweepOutputs_nodup hnodup) hrow
        (by rw [hfmt]; show _ ≤ 256; omega)
      rw [word, hfmt, ← take_map_range]
      exact outInt8_first _ hlen hch
    · have word := memReadWord_slice (tag := r.launchNo) (g := s.seg i) (k := 128 + ch) (n := 1) hf hins hslices (sweepOutputs_nodup hnodup)
        hrow (by rw [hfmt]; show _ ≤ 256; omega)
      rw [Nat.add_assoc, word, hfmt, ← drop_map_range]
      exact outInt8_second _ hlen hch
    · have word := memReadWord_scale (tag := r.launchNo) (g := s.seg i) hf hins hslices (sweepOutputs_nodup hnodup) hrow
        (by rw [hfmt]; rfl)
      rw [hstart, ← take_map_range, ← drop_map_range]
      refine word.trans (Nat.mod_eq_of_lt ?_)
      have h1 := (quantGroup (((List.range 256).map v).take 128)).1.isLt
      have h2 := (quantGroup (((List.range 256).map v).drop 128)).1.isLt
      omega
    · have record := readStats_fused (tag := r.launchNo) (g := s.seg i) hf hins hslices (sweepOutputs_nodup hnodup) hrow hfuse
        (by rw [hfmt]; exact Nat.mod_lt _ (by decide))
      rw [hstart]
      refine ⟨record.1.trans (congrArg _ ?_), record.2⟩
      rw [hfmt]
      exact outBf16_stats _ _ htab _

end Sys2Proof.Proofs
end
section
/-! What the end of a step or of a sequence leaves of the error counters: all but the stale frames that it drops. -/

namespace Sys2Proof.Proofs

open Sys2Proof Sys2Proof.Machine

/-- A segment's counters stand but for that of stale frames. -/
def segErrs (g h : Segment) : Prop := h.cnt = { g.cnt with staleDrops := h.cnt.staleDrops }

/-- The count of discarded steps stands, and each segment's counters but for that of stale frames. -/
def errsKept (s t : State) : Prop := t.cnt.stepsDiscarded = s.cnt.stepsDiscarded ∧ ∀ i, segErrs (s.seg i) (t.seg i)

theorem segErrs.trans {g h k : Segment} (a : segErrs g h) (b : segErrs h k) : segErrs g k := by
  unfold segErrs at *
  rw [b, a]

theorem errsKept.refl (s : State) : errsKept s s := ⟨rfl, fun _ => rfl⟩

variable {a s t : State}

theorem errsKept.trans {u : State} (h : errsKept s t) (k : errsKept t u) : errsKept s u :=
  ⟨k.1.trans h.1, fun i => (h.2 i).trans (k.2 i)⟩

theorem errsKept_ite {c : Prop} [Decidable c] (h : errsKept a s) (k : errsKept a t) : errsKept a (if c then s else t) := by
  split
  · exact h
  · exact k

theorem errsKept_foldl {α : Type} {f : State → α → State} {l : List α} (hf : ∀ t x, errsKept a t → errsKept a (f t x))
    (h : errsKept a s) : errsKept a (l.foldl f s) := by
  induction l generalizing s with
  | nil => exact h
  | cons x l ih => exact ih (hf _ x h)

theorem errsKept_fields (h : errsKept a s) {cfg time parts rings tenants handles seqs indexes glob prior screen objs trust span mirror roles other kept
    power vectors free code pending} : errsKept a { s with
      cfg := cfg, time := time, parts := parts, rings := rings, tenants := tenants, handles := handles, seqs := seqs, indexes := indexes,
      glob := glob, prior := prior, screen := screen, objs := objs, trust := trust, span := span, mirror := mirror, roles := roles,
      other := other, kept := kept, power := power, vectors := vectors, free := free, code := code, pending := pending } := h

theorem errsKept_onSeg (h : errsKept a s) (i : Nat) {f : Segment → Segment} (hf : ∀ g, segErrs g (f g)) : errsKept a (s.onSeg i f) :=
  h.trans ⟨rfl, seg_onSeg_of s i f (fun _ => rfl) (hf _)⟩

theorem errsKept_onSegs (h : errsKept a s) {f : Nat → Segment → Segment} (hf : ∀ i g, segErrs g (f i g)) : errsKept a (s.onSegs f) := by
  refine h.trans ⟨rfl, fun i => ?_⟩
  rcases Nat.lt_or_ge i s.segs.length with hi | hi
  · rw [seg_onSegs s f hi]; exact hf i _
  · rw [seg_onSegs_absent s f hi]; rfl

theorem errsKept_count (h : errsKept a s) {f : Counters → Counters} (hf : ∀ c, (f c).stepsDiscarded = c.stepsDiscarded) :
    errsKept a (s.count f) := h.trans ⟨hf _, fun _ => rfl⟩

theorem errsKept_onPart (h : errsKept a s) (p : Nat) (f : Partition → Partition) : errsKept a (s.onPart p f) := h

theorem errsKept_onLoop (h : errsKept a s) (p : Nat) (c : Cls) (f : Loop → Loop) : errsKept a (s.onLoop p c f) := h

theorem errsKept_onTenant (h : errsKept a s) (k : Nat) (f : Tenant → Tenant) : errsKept a (s.onTenant k f) := h

theorem errsKept_setRing (h : errsKept a s) (n : Nat) (r : Ring) : errsKept a (s.setRing n r) := h

theorem errsKept_onEntry (h : errsKept a s) (k : Nat) (f : Handle → Handle) : errsKept a (s.onEntry k f) := by
  unfold State.onEntry
  split <;> exact h

theorem errsKept_onLive (h : errsKept a s) (k : Nat) (f : Sequence → Sequence) : errsKept a (s.onLive k f) := by
  unfold State.onLive
  split <;> exact h

theorem errsKept_dma {a s : State} (h : errsKept a s) (seg : Nat) (r : DmaReq) :
    errsKept a (s.dma seg r) := by
  unfold State.dma
  exact errsKept_onSeg h _ (fun _ => rfl)

theorem errsKept_makeRecord {a s : State} (h : errsKept a s) (b : BackRec) :
    errsKept a (s.makeRecord b).2 := by
  unfold State.makeRecord
  split
  · split
    · exact errsKept_onLive h _ _
    · exact h
  · split
    · exact errsKept_onLive h _ _
    · exact h
  · exact h

theorem errsKept_writeEntry {a s : State} (h : errsKept a s) (n : Nat) (b : BackRec) :
    errsKept a (s.writeEntry n b) := by
  unfold State.writeEntry
  exact errsKept_dma (errsKept_setRing (errsKept_makeRecord h _) _ _) _ _

theorem errsKept_sendRecord {a s : State} (h : errsKept a s) (n : Nat) (b : BackRec) :
    errsKept a (s.sendRecord n b) := by
  unfold State.sendRecord
  exact errsKept_ite (errsKept_ite (errsKept_writeEntry h _ _) (errsKept_setRing h _ _)) h

theorem errsKept_returnPages {a s : State} (h : errsKept a s) (i : Nat) (n : Nat) (stamp : Stamp) :
    errsKept a (s.returnPages i n stamp) := by
  unfold State.returnPages
  exact errsKept_ite h (errsKept_onPart h _ _)

theorem errsKept_onMap {a s : State} (h : errsKept a s) (c : CacheRef) (f : List (Nat × BlockRef) → List (Nat × BlockRef)) :
    errsKept a (s.onMap c f) := by
  unfold State.onMap
  split
  · exact errsKept_onLive h _ _
  · exact errsKept_onEntry h _ _

theorem errsKept_dropBlocks {a s : State} (h : errsKept a s) (c : CacheRef) (gone : Nat → Bool) :
    errsKept a (s.dropBlocks c gone) := by
  unfold State.dropBlocks
  exact errsKept_onMap h _ _

theorem errsKept_setDim {a s : State} (h : errsKept a s) (c : CacheRef) (d : Option DimRec) (m : Option DimMove) :
    errsKept a (s.setDim c d m) := by
  unfold State.setDim
  split
  · exact errsKept_onEntry h _ _
  · exact errsKept_onLive h _ _

theorem errsKept_dimCounts {a s : State} (h : errsKept a s) (p : Nat) (frames : Nat) :
    errsKept a (s.dimCounts p frames) := by
  unfold State.dimCounts
  refine errsKept_foldl ?_ ?_
  · intro t x h
    exact errsKept_onSeg h _ (fun _ => rfl)
  · exact h

theorem errsKept_dimWriteTo {a s : State} (h : errsKept a s) (c : CacheRef) (d : DimRec) (drop : Bool) :
    errsKept a (s.dimWriteTo c d drop) := by
  unfold State.dimWriteTo
  split
  · refine errsKept_ite (errsKept_dma (errsKept_dimCounts (errsKept_setDim h _ _ _) _ _) _ _) (errsKept_foldl ?_ (errsKept_dma
        (errsKept_dimCounts (errsKept_setDim h _ _ _) _ _) _ _))
    intro t x h
    exact errsKept_dma h _ _
  · exact h

theorem errsKept_beginDimWrite {a s : State} (h : errsKept a s) (c : CacheRef) :
    errsKept a (s.beginDimWrite c) := by
  unfold State.beginDimWrite
  split
  · exact errsKept_dimWriteTo h _ _ _
  · exact h

theorem errsKept_releaseEntry {a s : State} (h : errsKept a s) (slot : Nat) :
    errsKept a (s.releaseEntry slot) := by
  unfold State.releaseEntry
  split
  · exact errsKept_ite (errsKept_beginDimWrite (errsKept_onEntry h _ _) _) (errsKept_onEntry h _ _)
  · exact h

theorem errsKept_charge {a s : State} (h : errsKept a s) (t : Nat) (amount : Int) :
    errsKept a (s.charge t amount) := h

theorem errsKept_unbind {a s : State} (h : errsKept a s) (k : Nat) :
    errsKept a (s.unbind k) := by
  unfold State.unbind
  dsimp only
  refine errsKept_onSegs ?_ (fun _ _ => rfl)
  exact h

theorem errsKept_freePassages {a s : State} (h : errsKept a s) (pl : Plan) :
    errsKept a (s.freePassages pl) := by
  unfold State.freePassages
  refine errsKept_foldl ?_ h
  intro t x h
  exact errsKept_onSeg h _ (fun _ => rfl)

theorem errsKept_leaveScan {a s : State} (h : errsKept a s) (k : Nat) :
    errsKept a (s.leaveScan k) := by
  unfold State.leaveScan
  exact errsKept_onSegs h (fun _ _ => rfl)

theorem errsKept_dropPlan {a s : State} (h : errsKept a s) (k : Nat) :
    errsKept a (s.dropPlan k) := by
  unfold State.dropPlan
  split
  · split
    · refine errsKept_onLive ?_ _ _
      exact errsKept_leaveScan (errsKept_freePassages h _) _
    · exact h
  · exact h

theorem errsKept_discardHeld {a s : State} (h : errsKept a s) (k : Nat) :
    errsKept a (s.discardHeld k) := by
  unfold State.discardHeld
  split
  · refine errsKept_onLive ?_ _ _
    exact h
  · exact h

theorem errsKept_pagesReturn {a s : State} (h : errsKept a s) (k : Nat) (stamp : Stamp) :
    errsKept a (s.pagesReturn k stamp) := by
  unfold State.pagesReturn
  split
  · refine errsKept_ite h ?_
    split
    · split
      · exact errsKept_releaseEntry (errsKept_releaseEntry (errsKept_onLive (errsKept_returnPages h _ _ _) _ _) _) _
      · exact errsKept_releaseEntry (errsKept_onLive (errsKept_returnPages h _ _ _) _ _) _
    · split
      · exact errsKept_releaseEntry (errsKept_onLive (errsKept_returnPages h _ _ _) _ _) _
      · exact errsKept_onLive (errsKept_returnPages h _ _ _) _ _
  · exact h

theorem errsKept_endSeq {a s : State} (h : errsKept a s) (k : Nat) (st : Status) (e : Stamp) :
    errsKept a (s.endSeq k st e) := by
  unfold State.endSeq
  split
  · refine errsKept_ite h (errsKept_ite ?_ (errsKept_pagesReturn ?_ _ _))
    · refine errsKept_onSegs ?_ (fun _ _ => rfl)
      refine errsKept_onLive ?_ _ _
      exact errsKept_discardHeld (errsKept_dropPlan (errsKept_unbind h _) _) _
    · refine errsKept_onSegs ?_ (fun _ _ => rfl)
      refine errsKept_onLive ?_ _ _
      exact errsKept_discardHeld (errsKept_dropPlan (errsKept_unbind h _) _) _
  · exact h

theorem errsKept_sendStepRecord {a s : State} (h : errsKept a s) (p : Nat) (data : Nat) :
    errsKept a (s.sendStepRecord p data) := by
  unfold State.sendStepRecord
  exact errsKept_ite (errsKept_sendRecord h _ _) h

theorem errsKept_recordStep {a s : State} (h : errsKept a s) (p : Nat) (c : Cls) (o : StepEnd) (e : Stamp) (tokens : Nat) (st :
    StepS) :
    errsKept a (s.recordStep p c o e tokens st) := by
  unfold State.recordStep
  exact errsKept_sendStepRecord h _ _

theorem errsKept_endTransfersOn {a s : State} (h : errsKept a s) (on : Nat → Bool) (p : Nat) (c : Cls) :
    errsKept a (s.endTransfersOn on p c) := by
  unfold State.endTransfersOn
  exact errsKept_onSegs h (fun _ _ => rfl)

theorem errsKept_unreserve {a s : State} (h : errsKept a s) (stamp : Stamp) (b : Sys2Proof.Machine.Bind) :
    errsKept a (s.unreserve stamp b) := by
  unfold State.unreserve
  split
  · exact errsKept_onLive (errsKept_dropBlocks (errsKept_returnPages h _ _ _) _ _) _ _
  · exact h

theorem errsKept_endedBack {a s : State} (h : errsKept a s) (p : Nat) (c : Cls) (stamp : Stamp) :
    errsKept a (s.endedBack p c stamp) := by
  unfold State.endedBack
  refine errsKept_foldl ?_ h
  intro t x h
  exact errsKept_pagesReturn h _ _

theorem segErrs_undoStack (p : Nat) (c : Cls) (g : Segment) : segErrs g (undoStack p c g) := by
  unfold undoStack
  split <;> rfl

theorem errsKept_clearStep {a s : State} (h : errsKept a s) (p : Nat) (c : Cls) (stamp : Stamp) :
    errsKept a (s.clearStep p c stamp) := by
  unfold State.clearStep
  split
  next st _ =>
    have unbound := errsKept_foldl (l := st.binds) (fun t b ht => errsKept_onLive (errsKept_unreserve ht stamp b) b.seq (standBack (p ==
        15) b)) h
    have dropped := errsKept_onSegs unbound (f := fun _ g => dropStepHere p c (programStreams st.prog.image) (undoStack p c g))
      fun _ g => (segErrs_undoStack p c g).trans rfl
    exact errsKept_endedBack (errsKept_onLoop (errsKept_endTransfersOn dropped _ p c) p c _) p c stamp
  · exact h

theorem errsKept_haltBe {a s : State} (h : errsKept a s) (p : Nat) (c : Cls) :
    errsKept a (s.haltBe p c) := by
  unfold State.haltBe
  exact errsKept_ite (errsKept_onLoop h _ _ _) h

end Sys2Proof.Proofs
end
section
/-! Kernels: start, completion, bound and fault (R160, R161, R163 to R166, R354, R355). -/

namespace Sys2Proof.Proofs

open Sys2Proof Sys2Proof.Machine

/-! A step that is discarded. -/

theorem discardStep_cases {s : State} {p : Nat} {c : Cls} {st : StepS} (hst : s.stepOf p c = some st) (ha : st.abandoned = none)
    (o : StepEnd) (status : Status) (e : Stamp) : s.discardStep p c o status e =
      (if p == 15 then [] else st.binds.map (·.seq)).foldl (fun t k => t.endSeq k status e) (stepCleared s p c o e st) := by
  simp only [State.discardStep, hst, ha]
  split <;> rfl

/-- The loop of a step discarded has none, and halts where it is best effort (R66). -/
theorem discardStep_loop {s : State} {p : Nat} {c : Cls} {st : StepS} (hst : s.stepOf p c = some st) (ha : st.abandoned = none)
    (o : StepEnd) (status : Status) (e : Stamp) : (s.discardStep p c o status e).stepOf p c = none ∧
      (c = .be → (((s.discardStep p c o status e).part p).loop c).running = false) := by
  obtain ⟨hnone, -, hrun⟩ := stepCleared_loop hst o e
  obtain ⟨-, hstill⟩ := loopsStill_foldl (l := if p == 15 then [] else st.binds.map (·.seq))
    (fun t k h => loopsStill_endSeq h k status e) (.refl (stepCleared s p c o e st))
  obtain ⟨hloop, hstep⟩ := hstill p c
  rw [discardStep_cases hst ha]
  refine ⟨hstep hnone, fun hc => ?_⟩
  rw [hloop]
  exact hrun hc

/-- A step discarded is counted, and no error of a segment is. -/
theorem discardStep_counts {s : State} {p : Nat} {c : Cls} {st : StepS} (hst : s.stepOf p c = some st) (ha : st.abandoned = none)
    (status : Status) (e : Stamp) : (s.discardStep p c .discarded status e).cnt.stepsDiscarded = s.cnt.stepsDiscarded + 1 ∧
      ∀ i, segErrs (s.seg i) ((s.discardStep p c .discarded status e).seg i) := by
  have cleared := errsKept_recordStep (errsKept_haltBe (errsKept_clearStep (.refl s) p c e) p c) p c .discarded e 0 st
  obtain ⟨hcnt, hseg⟩ := errsKept_foldl (l := if p == 15 then [] else st.binds.map (·.seq))
    (fun t k h => errsKept_endSeq h k status e) (.refl (stepCleared s p c .discarded e st))
  rw [discardStep_cases hst ha]
  exact ⟨hcnt.trans (congrArg (· + 1) cleared.1), fun i => (cleared.2 i).trans (hseg i)⟩

/-! What a kernel's work leaves. -/

/-- Kernels, issue cycles and the steps a segment takes part in stand. -/
def segKernels (g h : Segment) : Prop :=
  h.kernels = g.kernels ∧ h.cnt.issueCycles = g.cnt.issueCycles ∧
    h.steps.map (fun t => (t.part, t.cls)) = g.steps.map (fun t => (t.part, t.cls))

/-- Only segments change, their kernels, issue cycles and steps standing. -/
def kernelsKept (s t : State) : Prop := segsOnly s t ∧ ∀ i, segKernels (s.seg i) (t.seg i)

theorem segKernels.refl (g : Segment) : segKernels g g := ⟨rfl, rfl, rfl⟩

theorem segKernels.trans {g h k : Segment} (a : segKernels g h) (b : segKernels h k) : segKernels g k := by
  obtain ⟨a1, a2, a3⟩ := a
  obtain ⟨b1, b2, b3⟩ := b
  exact ⟨b1.trans a1, b2.trans a2, b3.trans a3⟩

theorem segKernels_onStep (g : Segment) (p : Nat) (c : Cls) {f : SegStep → SegStep} (hf : ∀ t, (f t).part = t.part ∧ (f t).cls = t.cls) :
    segKernels g (g.onStep p c f) := by
  refine ⟨rfl, rfl, ?_⟩
  unfold Segment.onStep
  rw [List.map_map]
  refine List.map_congr_left fun t _ => ?_
  show ((if (t.part == p && t.cls == c) = true then f t else t).part, (if (t.part == p && t.cls == c) = true then f t else t).cls) = _
  split
  · rw [(hf t).1, (hf t).2]
  · rfl

theorem kernelsKept.refl (s : State) : kernelsKept s s := ⟨rfl, fun _ => .refl _⟩

theorem kernelsKept.trans {s t u : State} (a : kernelsKept s t) (b : kernelsKept t u) : kernelsKept s u :=
  ⟨a.1.trans b.1, fun i => (a.2 i).trans (b.2 i)⟩

theorem kernelsKept_onSeg {a s : State} (h : kernelsKept a s) (i : Nat) {f : Segment → Segment} (hf : ∀ g, segKernels g (f g)) :
    kernelsKept a (s.onSeg i f) := h.trans ⟨rfl, seg_onSeg_of s i f .refl (hf _)⟩

theorem kernelsKept_onSegStep {a s : State} (h : kernelsKept a s) (i p : Nat) (c : Cls) {f : SegStep → SegStep}
    (hf : ∀ t, (f t).part = t.part ∧ (f t).cls = t.cls) : kernelsKept a (s.onSegStep i p c f) :=
  kernelsKept_onSeg h i fun g => segKernels_onStep g p c hf

theorem kernelsKept_segCount {a s : State} (h : kernelsKept a s) (i : Nat) {f : SegCount → SegCount}
    (hf : ∀ n, (f n).issueCycles = n.issueCycles) : kernelsKept a (s.segCount i f) :=
  kernelsKept_onSeg h i fun _ => ⟨rfl, hf _, rfl⟩

theorem kernelsKept_foldl {α : Type} {f : State → α → State} (hf : ∀ t x, kernelsKept t (f t x)) (l : List α) (s : State) :
    kernelsKept s (l.foldl f s) := by
  induction l generalizing s with
  | nil => exact .refl s
  | cons x l ih => exact (hf s x).trans (ih _)

theorem segKernels_fields (g : Segment) {staging validBits} : segKernels g { g with staging := staging, validBits := validBits } :=
  ⟨rfl, rfl, rfl⟩

theorem segKernels_recordRow (n unit : Nat) (excl : List Nat) (elems : List BF16) (g : Segment) :
    segKernels g (recordRow n unit excl elems g) := by
  unfold recordRow
  exact segKernels_fields g

theorem segKernels_writeElems (n unit : Nat) (excl : List Nat) (elems : List BF16) (g : Segment) :
    segKernels g (writeElems n unit excl elems g) :=
  (segKernels_fields g).trans (segKernels_recordRow n unit excl elems _)

theorem segKernels_writeStack (p : Nat) (c : Cls) (a : Nat) (l : List Nat) (g : Segment) : segKernels g (writeStack p c a l g) := by
  obtain ⟨h1, h2, h3⟩ := segKernels_onStep g p c
    (f := fun t => { t with undo := t.undo ++ [(a, l.length, memPart g.stack.mem a l.length)] }) fun _ => ⟨rfl, rfl⟩
  exact ⟨h1, h2, h3⟩

theorem kernelsKept_kernelWork (s : State) (i p : Nat) (c : Cls) (use : DmaUse) (n : Nat) (excl : List Nat) (t : SegStep) (inputs : List Nat)
    (w : KernelWork) : kernelsKept s (s.kernelWork i p c use n excl t inputs w) := by
  unfold State.kernelWork
  split
  · exact kernelsKept_onSeg (.refl s) i fun g => segKernels_fields g
  · exact kernelsKept_onSeg (.refl s) i fun g => segKernels_writeStack _ _ _ _ g
  · exact kernelsKept_onSeg (.refl s) _ fun _ => ⟨rfl, rfl, rfl⟩
  · exact kernelsKept_onSeg (.refl s) i fun g => segKernels_writeElems _ _ _ _ g
  · exact kernelsKept_onSeg (.refl s) i fun g => segKernels_recordRow _ _ _ _ g
  · split
    · exact kernelsKept_onSeg (.refl s) i fun g => segKernels_writeElems _ _ _ _ g
    · exact .refl s
  · split
    · refine kernelsKept_segCount (kernelsKept_onSeg (kernelsKept_onSegStep (.refl s) i p c ?_) i ?_) i ?_
      · exact fun _ => ⟨rfl, rfl⟩
      · exact fun _ => ⟨rfl, rfl, rfl⟩
      · exact fun _ => rfl
    · exact .refl s

theorem kernelsKept_kernelDone (s : State) (i p : Nat) (c : Cls) (slot : Nat) (k : Kernel) (st : StepS) (x : SegStep) (work : List KernelWork)
    (host : List Nat) : kernelsKept s (s.kernelDone i p c slot k st x work host) :=
  kernelsKept_foldl (fun _ _ => kernelsKept_kernelWork _ _ _ _ _ _ _ _ _ _) _ _

theorem stepHere_of_kernels {g h : Segment} (hk : segKernels g h) {p : Nat} {c : Cls} {x : SegStep} (hx : g.stepHere p c = some x) :
    ∃ y, h.stepHere p c = some y := by
  have found (l : List SegStep) : (l.find? (fun t => t.part == p && t.cls == c)).isSome = (l.map (fun t => (t.part, t.cls))).any
      (fun k => k.1 == p && k.2 == c) := by
    rw [List.any_map, Bool.eq_iff_iff, List.find?_isSome, List.any_eq_true]
    rfl
  refine Option.isSome_iff_exists.1 ?_
  unfold Segment.stepHere
  rw [found, hk.2.2, ← found]
  exact Option.isSome_iff_exists.2 ⟨x, hx⟩

/-! Completion. -/

section Complete
variable {s : State} {i p slot : Nat} {c : Cls} {k : KernelRun} {im : Kernel} {st : StepS} {x : SegStep}

/-- The block once a kernel has done its work, what it did on its inputs noted (R166). -/
noncomputable def kernelNoted (s : State) (i p : Nat) (c : Cls) (slot : Nat) (im : Kernel) (st : StepS) (x : SegStep) (work : List KernelWork) (host : List Nat) :
    State :=
  { s.kernelDone i p c slot im st x work host with
    code := if s.code.any (fun e => e.1 == s.kernelInputs i p c (st.prog.image.slot slot) im x host) then
        (s.kernelDone i p c slot im st x work host).code
      else (s.kernelDone i p c slot im st x work host).code ++ [(s.kernelInputs i p c (st.prog.image.slot slot) im x host, work)] }

/-- A kernel that has ended, in its segment. -/
noncomputable def kernelEnded (p : Nat) (c : Cls) (slot cycles : Nat) (g : Segment) : Segment :=
  { (dropKernel p c slot g).onStep p c (sweepDone slot) with
    cnt := { ((dropKernel p c slot g).onStep p c (sweepDone slot)).cnt with
      issueCycles := ((dropKernel p c slot g).onStep p c (sweepDone slot)).cnt.issueCycles + cycles } }

theorem exec_kernelComplete {cycles : Nat} {work : List KernelWork} {host : List Nat} (hk : s.runningKernel i p c slot = some (k, im, st))
    (hx : (s.seg i).stepHere p c = some x) (hh : k.headerBad = false) (hr : ∀ w ∈ work, s.reaches i p c st.prog.image slot x w = true)
    (hc : s.codeAgrees (s.kernelInputs i p c (st.prog.image.slot slot) im x host) work = true)
    (hw : (workRows work).length = outRows (s.seg i).staging (st.prog.image.slot slot)) :
    exec (.kernelComplete i p c slot cycles ⟨work, host⟩) s =
      .next ((kernelNoted s i p c slot im st x work host).onSeg i (kernelEnded p c slot cycles)) := by
  show execKernelComplete i p c slot cycles ⟨work, host⟩ s = _
  unfold execKernelComplete
  simp only [hk, hx]
  refine congrArg Host.Outcome.next ((if_pos ?_).trans ?_)
  · simp [hh, hc, hw]
    exact hr
  · rw [State.segCount, State.onSeg_onSeg]
    rfl

/-- What a kernel did on its inputs is what it does on them again (R166). -/
theorem codeAgrees_kernelNoted {work w : List KernelWork} {host : List Nat} (f : Segment → Segment)
    (hc : s.codeAgrees (s.kernelInputs i p c (st.prog.image.slot slot) im x host) work = true)
    (h : ((kernelNoted s i p c slot im st x work host).onSeg i f).codeAgrees
      (s.kernelInputs i p c (st.prog.image.slot slot) im x host) w = true) : w = work := by
  have hcode : (s.kernelDone i p c slot im st x work host).code = s.code := by
    rw [(kernelsKept_kernelDone s i p c slot im st x work host).1]
  have hnoted : ((kernelNoted s i p c slot im st x work host).onSeg i f).code =
      if s.code.any (fun e => e.1 == s.kernelInputs i p c (st.prog.image.slot slot) im x host) then s.code
      else s.code ++ [(s.kernelInputs i p c (st.prog.image.slot slot) im x host, work)] := by
    rw [State.onSeg, kernelNoted]
    dsimp only
    rw [hcode]
  unfold State.codeAgrees at hc h
  rw [hnoted] at h
  generalize s.kernelInputs i p c (st.prog.image.slot slot) im x host = inputs at hc h
  cases hf : s.code.find? (fun e => e.1 == inputs) with
  | some e =>
    have hany : s.code.any (fun e => e.1 == inputs) = true := List.any_eq_true.2 ⟨e, List.mem_of_find?_eq_some hf, List.find?_some (p := fun e : List Nat × List KernelWork => e.1 == inputs) hf⟩
    rw [hf] at hc
    rw [if_pos hany, hf] at h
    exact (beq_iff_eq.1 h).symm.trans (beq_iff_eq.1 hc)
  | none =>
    have hany : ¬ s.code.any (fun e => e.1 == inputs) = true := by
      rw [List.any_eq_true]
      rintro ⟨e, he, heq⟩
      exact List.find?_eq_none.1 hf e he heq
    rw [if_neg hany, List.find?_append, hf] at h
    simp only [List.find?_cons, beq_self_eq_true, Option.none_or] at h
    exact (beq_iff_eq.1 h).symm

theorem hasSeg_of_kernelRun (h : (s.seg i).kernelRun p c slot = some k) : s.hasSeg i = true := by
  by_contra hn
  have hnone : s.seg i = {} := List.getD_eq_default _ _ (by simpa [State.hasSeg] using hn)
  rw [hnone] at h
  cases h

theorem of_runningKernel (h : s.runningKernel i p c slot = some (k, im, st)) : s.hasSeg i = true ∧ s.stepOf p c = some st := by
  unfold State.runningKernel at h
  dsimp only at h
  split at h
  next k' st' hk hs =>
    split at h
    · split at h
      · cases h
        exact ⟨hasSeg_of_kernelRun hk, hs⟩
      · cases h
    · cases h
  next => cases h

theorem kernelEnded_staging (cycles : Nat) (g : Segment) : (kernelEnded p c slot cycles g).staging = g.staging := rfl

theorem kernelNoted_seg (work : List KernelWork) (host : List Nat) (j : Nat) : (kernelNoted s i p c slot im st x work host).seg j =
    (s.kernelDone i p c slot im st x work host).seg j := rfl

/-- A kernel's work that is one run of bytes (R164). -/
theorem kernelDone_bytes (host : List Nat) (a n : Nat) : s.kernelDone i p c slot im st x [.bytes a n] host = s.onSeg i (fun g => { g with
    staging := memWriteBytes g.staging a (writtenBytes (s.kernelInputs i p c (st.prog.image.slot slot) im x host) 0 a n) }) := rfl

/-- The step a kernel's segment takes part in once the kernel has ended. -/
theorem kernelEnded_done (cycles : Nat) {g : Segment} {y : SegStep} (hy : g.stepHere p c = some y) :
    (kernelEnded p c slot cycles g).stepHere p c = some (sweepDone slot y) :=
  stepHere_onStep (g := dropKernel p c slot g) (f := sweepDone slot) hy ⟨rfl, rfl⟩

end Complete

/-- A kernel's fault counted, and the error of the data path that it is (R164, R355). -/
noncomputable def faultCounted (s : State) (i p : Nat) (c : Cls) (slot : Nat) : State := s.onSeg i (fun g => { dropKernel p c slot g with
  cnt := { g.cnt with kernelFaults := g.cnt.kernelFaults + 1 }, health := { g.health with uncorrected := g.health.uncorrected + 1 } })

/-- Settles O12: a start and a bound are one change of the segment's kernels; what a kernel's work leaves is `kernelsKept_kernelDone`, and a
fault discards the step (`discardStep_loop`, `discardStep_counts`). -/
theorem kernels : Obligations.Kernels := by
  refine ⟨⟨?_, ?_⟩, ?_, ?_⟩
  · intro s i p c slot st x hs hx hr hi hd hk hn he hfit
    show execKernelStart i p c slot s = _
    unfold execKernelStart
    have free : (s.seg i).takesThreads p c (kernelThreads (st.prog.image.slot slot)) = false := by
      unfold Segment.takesThreads
      simp [show ¬ (s.seg i).threadsFree p < kernelThreads (st.prog.image.slot slot) by omega]
    simp only [hs, hx]
    simp [hr, hi, hd, hk, hn, he, free, hfit]
    rfl
  · intro s i p c slot cycles work host k im st x hk hx hh hr hc hw
    obtain ⟨honly, hseg⟩ := kernelsKept_kernelDone s i p c slot im st x work host
    obtain ⟨hkern, hcyc, -⟩ := hseg i
    obtain ⟨y, hy⟩ := stepHere_of_kernels (hseg i) hx
    have has : (kernelNoted s i p c slot im st x work host).hasSeg i = true :=
      hasSeg_of_stepHere (s := s.kernelDone i p c slot im st x work host) hy
    refine ⟨_, exec_kernelComplete hk hx hh hr hc hw, ?_⟩
    rw [State.seg_onSeg_eq _ _ has]
    refine ⟨congrArg (List.filter _) hkern, congrArg (· + cycles) hcyc, ⟨_, kernelEnded_done cycles hy, mem_insertNat.2 (.inl rfl)⟩, ?_,
      fun w => codeAgrees_kernelNoted _ hc, ?_⟩
    · rintro a n rfl
      have hdone := kernelDone_bytes (s := s) (i := i) (p := p) (c := c) (slot := slot) (im := im) (st := st) (x := x) host a n
      refine ⟨_, by simp [writtenBytes], rfl, ?_, fun j hj => ?_⟩
      · rw [kernelEnded_staging, kernelNoted_seg, hdone, s.seg_onSeg_eq _ (hasSeg_of_stepHere hx)]
      · rw [State.seg_onSeg_ne _ _ hj, kernelNoted_seg, hdone, s.seg_onSeg_ne _ hj]
    · unfold segsOnly at honly
      unfold kernelNoted
      rw [honly]
      rfl
  · intro s i p c slot k im st hk he
    obtain ⟨has, -⟩ := of_runningKernel hk
    have hexec : exec (.kernelBoundExceeded i p c slot) s = .next (s.onSeg i (fun g => { g with
        kernels := g.kernels.map (fun y => if y == k then { y with exceeded := true } else y),
        cnt := { g.cnt with boundExceeded := g.cnt.boundExceeded + 1 } })) := by
      show execKernelBoundExceeded i p c slot s = _
      unfold execKernelBoundExceeded
      simp only [hk, he]
      rw [State.segCount, State.onSeg_onSeg]
      rfl
    refine ⟨_, hexec, ?_⟩
    rw [s.seg_onSeg_eq _ has]
    exact ⟨by simp only [beq_iff_eq], rfl, rfl, fun j hj => s.seg_onSeg_ne _ hj, rfl⟩
  · intro s i p c slot k im st cyc cause hk hc ha
    obtain ⟨has, hs⟩ := of_runningKernel hk
    have hexec : exec (.kernelFault cyc i p c slot cause) s = .next (((faultCounted s i p c slot).given
        ((faultCounted s i p c slot).stampFor cyc)).discardStep p c .discarded .stepLost ((faultCounted s i p c slot).stampFor cyc)) := by
      have hcause : (cause != .header || k.headerBad) = true := by
        rcases hc with hc | hc
        · simp [hc]
        · simp [hc]
      show execKernelFault cyc i p c slot cause s = _
      unfold execKernelFault
      simp only [hk, hcause]
      have hs' : ((s.onSeg i (dropKernel p c slot)).segCount i (fun n => { n with kernelFaults := n.kernelFaults + 1 })).stepOf p c = some st := hs
      unfold State.dataPathError
      simp only [hs', ha]
      rw [State.segCount, State.onSeg_onSeg, State.onSeg_onSeg]
      rfl
    obtain ⟨hnone, -⟩ := discardStep_loop (s := (faultCounted s i p c slot).given ((faultCounted s i p c slot).stampFor cyc)) hs ha
      .discarded .stepLost ((faultCounted s i p c slot).stampFor cyc)
    obtain ⟨hcnt, herr⟩ := discardStep_counts (s := (faultCounted s i p c slot).given ((faultCounted s i p c slot).stampFor cyc)) hs ha
      .stepLost ((faultCounted s i p c slot).stampFor cyc)
    obtain ⟨hwork, -, hseg, -⟩ := workOnly_discardStep (.refl ((faultCounted s i p c slot).given ((faultCounted s i p c slot).stampFor cyc)))
      p c .discarded .stepLost ((faultCounted s i p c slot).stampFor cyc)
    have here : ((faultCounted s i p c slot).given ((faultCounted s i p c slot).stampFor cyc)).seg i = _ := s.seg_onSeg_eq _ has
    have herr := herr i
    have hseg := hseg i
    generalize State.discardStep _ _ _ _ _ _ = t at *
    unfold segErrs at herr
    unfold workSeg at hseg
    rw [here] at herr hseg
    refine ⟨t, hexec, hnone, by rw [herr], by rw [hseg], hcnt, by rw [hwork]; rfl, by rw [hwork]; rfl, by rw [hwork]; rfl, by rw [hwork]; rfl⟩

end Sys2Proof.Proofs
end
section
/-! Drafting, the kept set, the draw of a step and compaction (R47, R182, R213, R217, R218). -/

namespace Sys2Proof.Proofs

open Sys2Proof Sys2Proof.Machine

/-! Greedy drafting and the kept set. -/

/-- A token taken from candidates that differ leaves those that follow (R217). -/
theorem withoutToken_head {g : GenParams} (hg : g.greedy = true) {x : Choice} {q : List Choice} (hn : ((x :: q).map (·.1)).Nodup) :
    withoutToken g x.1 (x :: q) = q := by
  obtain ⟨hx, -⟩ := List.nodup_cons.1 hn
  have left : ∀ p ∈ q, (p.1 != x.1) = true := fun p hp => by
    simpa using fun he : p.1 = x.1 => hx (List.mem_map.2 ⟨p, hp, he⟩)
  unfold withoutToken
  rw [List.filter_cons_of_neg (by simp), List.filter_eq_self.2 left]
  exact if_pos hg

/-- With TEMPERATURE 0 the children of a node take the candidates in order (R217). -/
theorem draftChildren_greedy {g : GenParams} (hg : g.greedy = true) (len : Nat) (q : List Choice) (kids : List BoundNode) (i : Nat)
    (k : BoundNode) (hn : (q.map (·.1)).Nodup) (hk : kids[i]? = some k) : ∃ k', (draftChildren g len q kids)[i]? = some k' ∧
      k'.token = (q[i]?).map (·.1) ∧ k'.node = k.node ∧ k'.parent = k.parent := by
  induction kids generalizing q i with
  | nil => cases hk
  | cons c rest ih =>
    cases q with
    | nil =>
      have left : draftChildren g len [] (c :: rest) = { c with token := none } :: draftChildren g len [] rest := by
        rw [draftChildren]
        rfl
      rw [left]
      cases i with
      | zero => exact ⟨_, rfl, rfl, by cases hk; exact ⟨rfl, rfl⟩⟩
      | succ i => exact ih [] i hn hk
    | cons x q =>
      rw [draftChildren, if_neg (by simp)]
      simp only [hg, if_true, List.headD_cons, withoutToken_head hg hn]
      cases i with
      | zero => exact ⟨_, rfl, rfl, by cases hk; exact ⟨rfl, rfl⟩⟩
      | succ i => exact ih q i (List.nodup_cons.1 hn).2 hk

/-- The kept set from a cumulative p on (R213). -/
theorem keptRun_eq (topP : F32) (l : List Choice) (acc : F32) : ∃ n ≤ l.length, keptRun topP acc l = l.take n ∧
    (∀ m, 0 < m → m < n → f32Le topP (((l.take m).map (·.2)).foldl f32Add acc) = false) ∧
    (n < l.length → f32Le topP (((l.take n).map (·.2)).foldl f32Add acc) = true) := by
  induction l generalizing acc with
  | nil => exact ⟨0, le_rfl, rfl, fun m h1 h2 => absurd h2 (Nat.not_lt_zero m), fun h => absurd h (Nat.not_lt_zero 0)⟩
  | cons p rest ih =>
    rw [keptRun]
    cases hp : f32Le topP (f32Add acc p.2) with
    | true => exact ⟨1, Nat.succ_le_succ (Nat.zero_le _), by simp, fun m h1 h2 => by omega, fun _ => hp⟩
    | false =>
      obtain ⟨n, hle, hrun, hlow, hhigh⟩ := ih (f32Add acc p.2)
      refine ⟨n + 1, Nat.succ_le_succ hle, by simp [hrun], fun m h1 h2 => ?_, fun h => hhigh (Nat.lt_of_succ_lt_succ h)⟩
      cases m with
      | zero => cases h1
      | succ m =>
        rcases Nat.eq_zero_or_pos m with rfl | hm
        · exact hp
        · exact hlow m hm (Nat.lt_of_succ_lt_succ h2)

/-- Settles O13, by induction on the children and on the candidates. -/
theorem draftAndTree : Obligations.DraftAndTree :=
  ⟨fun _ len q kids i k hg hn hk => draftChildren_greedy hg len q kids i k hn hk, fun topP l => keptRun_eq topP l 0⟩

/-! Draft levels and draws. -/

theorem stepOf_onStep {s : State} {p : Nat} {c : Cls} {st : StepS} (hst : s.stepOf p c = some st) (f : StepS → StepS) :
    (s.onStep p c f).stepOf p c = some (f st) := by
  have hloop := loop_onLoop_eq s c (fun l => { l with step := l.step.map f }) (lt_of_stepOf hst)
  unfold State.stepOf at hst ⊢
  unfold State.onStep
  rw [hloop]
  exact congrArg (Option.map f) hst

/-- A bind without a tree is given one token, drawn from its root's row (R213, R214). -/
theorem drawBind_root (m : Model) (n : Nat) (rows : List LogitRow) (q : Sequence) {b : Sys2Proof.Machine.Bind} (h : b.nodes ≠ []) :
    (drawBind m n false rows q b).seq = b.seq ∧ (drawBind m n false rows q b).path = [] ∧
      (drawBind m n false rows q b).drawn = [drawToken q.req.params (targetDist m n q rows b.seq 0) (q.committed + 1)] := by
  have hne : b.nodes.isEmpty = false := by simpa using h
  have one (t : Nat) : (untilStop q.req.params q.req.stops m.eos m.contextMax (q.committed + 1) q.outputs [t]).1 = [t] := by
    rw [untilStop]
    split <;> rfl
  unfold drawBind
  simp only [hne, Bool.false_eq_true, if_false, Bool.false_and, List.map_nil, List.nil_append, one, List.take_nil]
  exact ⟨trivial, trivial, trivial⟩

/-- Settles O14: both commands are one change of the step in flight. -/
theorem draftAndDraw : Obligations.DraftAndDraw := by
  refine ⟨?_, ?_⟩
  · intro s p c level rows st m hup hst hm hv hd hl hdeep hok
    have deep : (st.binds.filter Bind.hasTree).any (fun b => !(levelNodes level b).isEmpty) = true := by
      obtain ⟨b, hb, ht, hne⟩ := hdeep
      exact List.any_eq_true.2 ⟨b, List.mem_filter.2 ⟨hb, ht⟩, by simpa using hne⟩
    have ok : (st.binds.filter Bind.hasTree).all (fun b => rowsOk m.vocab (s.partSegs p).length rows b.seq (levelNodes level b)) = true := by
      refine List.all_eq_true.2 fun b hb => ?_
      obtain ⟨hb, ht⟩ := List.mem_filter.1 hb
      exact hok b hb ht
    have hexec : ∃ f, exec (.draftLevel p c level rows) s = .next ((s.onStep p c (fun st =>
        { st with binds := st.binds.map (s.draftBind m (s.partSegs p).length level rows), levels := st.levels + 1 })).count f) := by
      show ∃ f, execDraftLevel p c level rows s = _
      unfold execDraftLevel
      simp only [hst, hm]
      exact ⟨_, congrArg Host.Outcome.next (if_pos (by simp [hup, hv, hd, hl] at deep ok ⊢; exact ⟨deep, ok⟩))⟩
    obtain ⟨f, hexec⟩ := hexec
    exact ⟨_, _, hexec, stepOf_onStep hst _, rfl, rfl, hd, rfl⟩
  · intro s p c rows st m hup hst hm hla hab hdr hlev hro hd hrep hok
    have due : (!st.prog.image.verify || decide (st.levelsDue ≤ st.levels)) = true := by
      cases hv : st.prog.image.verify with
      | true => simpa using hlev hv
      | false => rfl
    have ok : st.binds.all (fun b => rowsOk m.vocab (s.partSegs p).length rows b.seq (drawNodes b)) = true := List.all_eq_true.2 hok
    have hexec : ∃ f, exec (.managerDraw p c rows) s = .next ((s.onStep p c (fun y =>
        { y with binds := s.drawBinds m (s.partSegs p).length st.prog.image.verify rows st.binds, drawn := true })).count f) := by
      show ∃ f, execManagerDraw p c rows s = _
      unfold execManagerDraw
      simp only [hst, hm]
      exact ⟨_, congrArg Host.Outcome.next (if_pos (by rw [hup, hla, hab, hdr, hro, hd, hrep, due, ok]; rfl))⟩
    obtain ⟨f, hexec⟩ := hexec
    refine ⟨_, _, hexec, stepOf_onStep hst _, rfl, rfl, fun hv i b q hb hq hne => ?_, rfl⟩
    obtain ⟨hseq, hpath, hdrawn⟩ := drawBind_root m (s.partSegs p).length rows q hne
    refine ⟨drawBind m (s.partSegs p).length false rows q b, ?_, hseq, hpath, hdrawn⟩
    simp [State.drawBinds, hb, hq, hv]

/-! Compaction. -/

/-- No two entries stand in one place. -/
def slotsDiffer (l : List KvEntry) : Prop := l.Pairwise (fun a b => sameSlot a b = false)

theorem sameSlot_iff {a b : KvEntry} : sameSlot a b = true ↔ a.seg = b.seg ∧ a.model = b.model ∧ a.slot = b.slot ∧ a.pos = b.pos := by
  simp [sameSlot, and_assoc]

theorem sameSlot_comm (a b : KvEntry) : sameSlot a b = sameSlot b a := by
  rw [Bool.eq_iff_iff, sameSlot_iff, sameSlot_iff]
  tauto

theorem slotsDiffer_putKv (e : KvEntry) {l : List KvEntry} (h : slotsDiffer l) : slotsDiffer (putKv e l) := by
  refine List.pairwise_append.2 ⟨h.filter _, List.pairwise_singleton _ _, fun a ha b hb => ?_⟩
  rw [List.mem_singleton.1 hb]
  simpa using (List.mem_filter.1 ha).2

theorem mem_putKv_of_differ {e x : KvEntry} {l : List KvEntry} (hx : x ∈ l) (h : sameSlot x e = false) : x ∈ putKv e l :=
  List.mem_append_left _ (List.mem_filter.2 ⟨hx, by simp [h]⟩)

section Copies
variable {seg a b : Nat} {kv : List KvEntry}

/-- The entries that one copy moves, put one after the other. -/
theorem slotsDiffer_copies (l : List KvEntry) (h : slotsDiffer kv) :
    slotsDiffer (l.foldl (fun acc e => putKv { e with pos := b } acc) kv) := by
  induction l generalizing kv with
  | nil => exact h
  | cons e l ih => exact ih (slotsDiffer_putKv _ h)

theorem mem_copies_of_differ {x : KvEntry} (l : List KvEntry) (hx : x ∈ kv) (h : ∀ e ∈ l, sameSlot x { e with pos := b } = false) :
    x ∈ l.foldl (fun acc e => putKv { e with pos := b } acc) kv := by
  induction l generalizing kv with
  | nil => exact hx
  | cons e l ih =>
    obtain ⟨he, hl⟩ := List.forall_mem_cons.1 h
    exact ih (mem_putKv_of_differ hx he) hl

/-- Each entry copied stands in its new place, as those copied after it stand elsewhere. -/
theorem mem_copies (l : List KvEntry) (hl : slotsDiffer l) (hs : ∀ e ∈ l, e.pos = a) {e : KvEntry} (he : e ∈ l) :
    { e with pos := b } ∈ l.foldl (fun acc e => putKv { e with pos := b } acc) kv := by
  induction l generalizing kv with
  | nil => cases he
  | cons x l ih =>
    obtain ⟨hx, hrest⟩ := List.pairwise_cons.1 hl
    obtain ⟨hax, has⟩ := List.forall_mem_cons.1 hs
    rcases List.mem_cons.1 he with rfl | he
    · refine mem_copies_of_differ l (List.mem_append_right _ (List.mem_singleton_self _)) fun y hy => ?_
      have := hx y hy
      rw [← Bool.not_eq_true, sameSlot_iff] at this ⊢
      rw [hax, has y hy] at this
      tauto
    · exact ih hrest has he

theorem slotsDiffer_copyPosition (h : slotsDiffer kv) : slotsDiffer (copyPosition seg a b kv) := slotsDiffer_copies _ h

theorem mem_copyPosition_of_ne {x : KvEntry} (hx : x ∈ kv) (h : x.seg ≠ seg ∨ x.pos ≠ b) : x ∈ copyPosition seg a b kv := by
  refine mem_copies_of_differ _ hx fun e he => ?_
  have hseg : e.seg = seg := by simpa using (Bool.and_eq_true_iff.1 (List.mem_filter.1 he).2).1
  rw [← Bool.not_eq_true, sameSlot_iff]
  rintro ⟨h1, -, -, h4⟩
  rcases h with h | h
  · exact h (h1.trans hseg)
  · exact h h4

theorem mem_copyPosition (hd : slotsDiffer kv) {e : KvEntry} (he : e ∈ kv) (hs : e.seg = seg) (hp : e.pos = a) :
    { e with pos := b } ∈ copyPosition seg a b kv := by
  refine mem_copies (a := a) _ (hd.filter _) (fun x hx => ?_) (List.mem_filter.2 ⟨he, by simp [hs, hp]⟩)
  simpa using (Bool.and_eq_true_iff.1 (List.mem_filter.1 hx).2).2

end Copies

/-- The moves along a path whose first node goes to the place `o + 1` after the root (R182). -/
noncomputable def pathMovesFrom (o : Nat) (path : List Nat) : List (Nat × Nat) := ((path.zipIdx o).map (fun p => (p.1, p.2 + 1))).filter (fun p => p.1 != p.2)

/-- Entries moved along a rising path: those at or before the place `o` stand, and each node's entries come to its place. -/
theorem mem_pathMoves (seg len : Nat) (path : List Nat) (o : Nat) (kv : List KvEntry) (hp : path.Pairwise (· < ·)) (ho : ∀ n ∈ path, o + 1 ≤ n)
    (hd : slotsDiffer kv) :
    (∀ e ∈ kv, (e.seg ≠ seg ∨ e.pos ≤ len + o) →
      e ∈ (pathMovesFrom o path).foldl (fun acc m => copyPosition seg (len + m.1) (len + m.2) acc) kv) ∧
    (∀ (j n : Nat) (e : KvEntry), path[j]? = some n → e ∈ kv → e.seg = seg → e.pos = len + n →
      { e with pos := len + (o + j + 1) } ∈ (pathMovesFrom o path).foldl (fun acc m => copyPosition seg (len + m.1) (len + m.2) acc) kv) := by
  induction path generalizing o kv with
  | nil => exact ⟨fun e he _ => he, fun j n e h => nomatch h⟩
  | cons n0 rest ih =>
    obtain ⟨hlt, hrest⟩ := List.pairwise_cons.1 hp
    obtain ⟨h0, -⟩ := List.forall_mem_cons.1 ho
    have hnext : ∀ n ∈ rest, o + 1 + 1 ≤ n := fun n hn => by have := hlt n hn; omega
    -- the entries once the first node's have moved
    obtain ⟨kv1, hfold, hd1, hstay, hmove⟩ : ∃ kv1, (pathMovesFrom o (n0 :: rest)).foldl
        (fun acc m => copyPosition seg (len + m.1) (len + m.2) acc) kv =
          (pathMovesFrom (o + 1) rest).foldl (fun acc m => copyPosition seg (len + m.1) (len + m.2) acc) kv1 ∧ slotsDiffer kv1 ∧
        (∀ e ∈ kv, (e.seg ≠ seg ∨ e.pos ≠ len + (o + 1)) → e ∈ kv1) ∧
        (∀ e ∈ kv, e.seg = seg → e.pos = len + n0 → { e with pos := len + (o + 1) } ∈ kv1) := by
      by_cases he : n0 = o + 1
      · refine ⟨kv, by simp [pathMovesFrom, he], hd, fun e he _ => he, fun e hin _ hpos => ?_⟩
        rw [← he, ← hpos]
        exact hin
      · exact ⟨_, by simp [pathMovesFrom, he], slotsDiffer_copyPosition hd, fun e hin h => mem_copyPosition_of_ne hin h,
          fun e hin hs hpos => mem_copyPosition hd hin hs hpos⟩
    obtain ⟨ihStay, ihMove⟩ := ih (o + 1) kv1 hrest hnext hd1
    rw [hfold]
    refine ⟨fun e he h => ihStay e (hstay e he ?_) ?_, fun j n e hj he hs hpos => ?_⟩
    · exact h.imp_right fun h => by omega
    · exact h.imp_right fun h => by omega
    · cases j with
      | zero =>
        obtain rfl : n0 = n := by simpa using hj
        exact ihStay _ (hmove e he hs hpos) (.inr (by simp))
      | succ j =>
        have hn : n ∈ rest := List.mem_of_getElem? (by simpa using hj)
        have hgt := hlt n hn
        have := ihMove j n e (by simpa using hj) (hstay e he (.inr (by omega))) hs hpos
        rwa [show o + (j + 1) + 1 = o + 1 + j + 1 by omega]

/-- A segment's part of a step with the keys and values of its sequences compacted along their paths (R182). -/
noncomputable def compactedPart (i : Nat) (st : StepS) (x : SegStep) : SegStep := { x with bound := x.bound.map (fun (b : SegBind) => { b with
  kv := compactPath i b.len (((st.binds.find? (fun y => y.seq == b.seq)).map (·.path)).getD []) b.kv }) }

/-- Settles O15: the moves along a path are `mem_pathMoves`; the command is one change of the segment and one of the step. -/
theorem compaction : Obligations.Compaction := by
  refine ⟨?_, ?_⟩
  · intro i len path kv hp h1 hd
    have hmoves : compactPath i len path kv =
        (pathMovesFrom 0 path).foldl (fun acc m => copyPosition i (len + m.1) (len + m.2) acc) kv := rfl
    obtain ⟨stay, move⟩ := mem_pathMoves i len path 0 kv hp (fun n hn => h1 n hn) hd
    rw [hmoves]
    refine ⟨fun j n e hj he hs hpos => ?_, fun e he h => stay e he (.inr h), fun e he h => stay e he (.inl h)⟩
    have := move j n e hj he hs hpos
    rwa [Nat.zero_add] at this
  · intro s i p c st hup hst hv hd hi hn
    obtain ⟨n, hexec⟩ : ∃ n : Nat, exec (.compactionComplete i p c) s = .next (((s.onSegStep i p c (compactedPart i st)).onStep p c (fun st =>
        { st with compacted := insertNat i st.compacted })).segCount i (fun c => { c with compactAcc := c.compactAcc + n })) := by
      show ∃ n : Nat, execCompactionComplete i p c s = _
      unfold execCompactionComplete
      simp only [hst]
      exact ⟨_, congrArg Host.Outcome.next (if_pos (by simp [hup, hv, hd, hi, hn]))⟩
    have seg (j : Nat) : (((s.onSegStep i p c (compactedPart i st)).onStep p c (fun st => { st with compacted := insertNat i st.compacted })).segCount i
        (fun c => { c with compactAcc := c.compactAcc + n })).seg j = (s.onSeg i (fun g => { g.onStep p c (compactedPart i st) with
          cnt := { g.cnt with compactAcc := g.cnt.compactAcc + n } })).seg j := by
      show ((s.onSeg i (fun g => g.onStep p c (compactedPart i st))).onSeg i
        (fun g => { g with cnt := { g.cnt with compactAcc := g.cnt.compactAcc + n } })).seg j = _
      rw [State.onSeg_onSeg]
      rfl
    refine ⟨_, hexec, stepOf_onStep (s := s.onSegStep i p c (compactedPart i st)) hst _, fun x hx => ?_, ?_, fun j hj => ?_, rfl⟩
    · rw [seg, s.seg_onSeg_eq _ (hasSeg_of_stepHere hx)]
      exact stepHere_onStep (f := compactedPart i st) hx ⟨rfl, rfl⟩
    · rw [seg]
      exact seg_onSeg_of (P := fun g h => h = { g with steps := h.steps, cnt := h.cnt }) s i _ (fun _ => rfl) rfl i
    · rw [seg, s.seg_onSeg_ne _ hj]

end Sys2Proof.Proofs
end
section
/-! Errors by class, and the columns of an array (R92 to R94, R257, R353 to R355). -/

namespace Sys2Proof.Proofs

open Sys2Proof Sys2Proof.Machine

theorem hasSeg_of_segUp {s : State} {i : Nat} (h : s.segUp i = true) : s.hasSeg i = true := by
  simp only [State.segUp, Bool.and_eq_true] at h
  exact h.1.1

/-- A data error that names no step in flight is counted (R355). -/
theorem dataPathError_noStep {s : State} {p : Nat} {c : Cls} (h : s.stepOf p c = none) (cyc i : Nat) :
    s.dataPathError cyc i p c = s.uncorrectable i := by
  simp only [State.dataPathError, h]
  rfl

/-- A data error of a step in flight discards it (R354). -/
theorem dataPathError_step {s : State} {p : Nat} {c : Cls} {st : StepS} (h : s.stepOf p c = some st) (ha : st.abandoned = none) (cyc i : Nat) :
    s.dataPathError cyc i p c = ((s.uncorrectable i).given (s.stampFor cyc)).discardStep p c .discarded .stepLost (s.stampFor cyc) := by
  simp only [State.dataPathError, h, ha]
  rfl

theorem dataPathError_discards {s : State} {p : Nat} {c : Cls} {st : StepS} (h : s.stepOf p c = some st) (ha : st.abandoned = none)
    (cyc i : Nat) : (s.dataPathError cyc i p c).stepOf p c = none ∧
      (s.dataPathError cyc i p c).cnt.stepsDiscarded = s.cnt.stepsDiscarded + 1 ∧
      (c = .be → (((s.dataPathError cyc i p c).part p).loop c).running = false) := by
  have hs : ((s.uncorrectable i).given (s.stampFor cyc)).stepOf p c = some st := h
  obtain ⟨hnone, hrun⟩ := discardStep_loop hs ha .discarded .stepLost (s.stampFor cyc)
  obtain ⟨hcnt, -⟩ := discardStep_counts hs ha .stepLost (s.stampFor cyc)
  rw [dataPathError_step h ha]
  exact ⟨hnone, hcnt, hrun⟩

/-- Settles O42: by the error's class; a step is discarded by `dataPathError_discards`. -/
theorem errorsByClass : Obligations.ErrorsByClass := by
  refine ⟨?_, ?_, ?_, ?_, ?_⟩
  · intro s i c hup
    refine ⟨s.onSeg i (corrected s.time.beat c), ?_, ?_⟩
    · show execCorrectableError i c s = _
      simp [execCorrectableError, onlyIf, hup]
    · rw [s.seg_onSeg_eq _ (hasSeg_of_segUp hup)]
      refine ⟨?_, ?_, ?_, fun j hj => s.seg_onSeg_ne _ hj, rfl⟩
      · cases c <;> rfl
      · cases c <;> rfl
      · rintro rfl
        rfl
  · intro s cyc i p c src hup hsrc
    have has := hasSeg_of_segUp hup
    refine ⟨?_, ?_, fun j hj => s.seg_onSeg_ne _ hj⟩
    · show execUncorrectableDataError cyc i src s = _
      unfold execUncorrectableDataError
      rcases hsrc with rfl | ⟨rfl, hs⟩ | ⟨rfl, hs⟩ | ⟨u, rfl, hu⟩ | ⟨rfl, hg⟩
      · simp [onlyIf, hup]
      · simp [onlyIf, hup, dataPathError_noStep hs]
      · simp [onlyIf, hup, dataPathError_noStep hs]
      · simp [onlyIf, hup, hu, State.stepError]
      · simp [onlyIf, hup, State.scanLaneError, hg]
    · unfold State.uncorrectable
      rw [s.seg_onSeg_eq _ has]
  · intro s cyc i p c src st hup hs ha hsrc
    refine ⟨s.dataPathError cyc i p c, ?_, dataPathError_step hs ha cyc i, dataPathError_discards hs ha cyc i⟩
    show execUncorrectableDataError cyc i src s = _
    unfold execUncorrectableDataError
    rcases hsrc with rfl | rfl | ⟨u, rfl, hu⟩
    · simp [onlyIf, hup]
    · simp [onlyIf, hup]
    · simp [onlyIf, hup, hu, State.stepError]
  · intro s cyc i g hup hg
    show execUncorrectableDataError cyc i .scanLane s = _
    simp [execUncorrectableDataError, onlyIf, hup, State.scanLaneError, hg]
  · intro s cyc i hup hl
    have hexec : exec (.uncorrectableControlError cyc i) s = .next ((s.given (s.stampFor cyc)).controlError i (s.stampFor cyc)) := by
      show execUncorrectableControlError cyc i s = _
      simp [execUncorrectableControlError, onlyIf, hup, hl]
    rw [hexec]
    unfold State.controlError
    refine ⟨fun hm => ?_, fun hm hst => ?_, fun hm hst => ?_⟩
    · have hm : ((i == ((s.given (s.stampFor cyc)).uncorrectable i).mgr)) = false := beq_false_of_ne hm
      simp [State.loseAny, hm]
    · have hm : ((i == ((s.given (s.stampFor cyc)).uncorrectable i).mgr)) = true := beq_iff_eq.2 hm
      have hst : ((s.given (s.stampFor cyc)).uncorrectable i).cfg.kind.hasStandby = true := hst
      simp only [State.loseAny, hm, State.loseManager, hst]
      rfl
    · have hm : ((i == ((s.given (s.stampFor cyc)).uncorrectable i).mgr)) = true := beq_iff_eq.2 hm
      have hst : ((s.given (s.stampFor cyc)).uncorrectable i).cfg.kind.hasStandby = false := hst
      simp only [State.loseAny, hm, State.loseManager, hst]
      rfl

/-! Columns of an array. -/

@[simp] theorem array_onArray_same (g : Segment) (a : Arr) (f : ArrayS → ArrayS) : (g.onArray a f).array a = f (g.array a) := by
  cases a <;> rfl

@[simp] theorem array_onArray_other (g : Segment) (a : Arr) (f : ArrayS → ArrayS) :
    (g.onArray a f).array (otherArr a) = g.array (otherArr a) := by
  cases a <;> rfl

@[simp] theorem health_onArray (g : Segment) (a : Arr) (f : ArrayS → ArrayS) : (g.onArray a f).health = g.health := by
  cases a <;> rfl

theorem faults_spareBad (c : Nat) (a : ArrayS) : (spareBad c a).faults = a.faults := by
  unfold spareBad
  split <;> rfl

theorem residueErrors_spareBad (c : Nat) (a : ArrayS) : (spareBad c a).residueErrors = a.residueErrors := by
  unfold spareBad
  split <;> rfl

theorem residueErrors_markColumn (c : Nat) (a : ArrayS) : (markColumn c a).residueErrors = a.residueErrors := by
  unfold markColumn
  split
  · rfl
  · dsimp only
    split
    · rfl
    · exact residueErrors_spareBad c _

theorem mem_faults_markColumn (c : Nat) (a : ArrayS) : c ∈ (markColumn c a).faults := by
  unfold markColumn
  split
  · next h => exact List.contains_iff_mem.1 h
  · dsimp only
    split
    · exact mem_insertNat.2 (.inl rfl)
    · rw [faults_spareBad]
      exact mem_insertNat.2 (.inl rfl)

theorem residueErrors_residueAt (c b : Nat) (a : ArrayS) : (residueAt c b a).residueErrors = a.residueErrors + 1 := by
  unfold residueAt
  split
  · dsimp only
    split
    · exact residueErrors_markColumn c _
    · rfl
  · rfl

/-- A second mismatch of a column within 2^20 beats marks it failed (R92). -/
theorem mem_faults_residueAt {c n b : Nat} {a : ArrayS} (h : aGet c a.lastResidue = some b) (hb : n ≤ b + 2 ^ 20) :
    c ∈ (residueAt c n a).faults := by
  simp only [residueAt, h, hb, decide_true, if_true]
  exact mem_faults_markColumn c _

theorem faults_residueAt {c n : Nat} {a : ArrayS} (h : aGet c a.lastResidue = none) : (residueAt c n a).faults = a.faults := by
  simp [residueAt, h]

theorem spareBad_of_remap {a x : ArrayS} (c : Nat) (h : x.remap = a.remap) :
    spareBad c x = { x with remap := (spareBad c a).remap } := by
  unfold spareBad
  split
  · rw [← h]
  · rw [h]

theorem length_remap_spareBad (c : Nat) (a : ArrayS) : (spareBad c a).remap.length = a.remap.length := by
  unfold spareBad
  split
  · rfl
  · exact length_modifyAt _ _ _

theorem remapColumn_spare {a b : ArrayS} {c l n : Nat} (hl : columnServed b c = some l) (hn : freeSpare (spareBad c b).remap = some n)
    (h : a.remap = b.remap := by rfl) : remapColumn a c =
      { a with remap := modifyAt (fun e => { e with valid := true, logical := l }) n (spareBad c b).remap } := by
  have hl' : columnServed a c = some l := by
    rw [← hl]
    unfold columnServed
    rw [h]
  unfold remapColumn
  rw [hl', spareBad_of_remap c h]
  simp only [hn]

/-- The remapping of one column to the spare that is free (R93). -/
theorem remapAll_spare {a : ArrayS} {c l n : Nat} (hp : a.pendingRemap = [c]) (hl : columnServed a c = some l)
    (hn : freeSpare (spareBad c a).remap = some n) : remapAll a = { a with
      remap := modifyAt (fun e => { e with valid := true, logical := l }) n (spareBad c a).remap
      state := if a.state == .draining then .serving else a.state
      pendingRemap := []
      reg0 := { a.reg0 with tile := none }
      reg1 := { a.reg1 with tile := none } } := by
  unfold remapAll
  rw [hp, List.foldl_cons, List.foldl_nil]
  rw [remapColumn_spare (a := { a with state := if a.state == .draining then .serving else a.state, pendingRemap := [] }) hl hn]

theorem remapAll_noSpare {a : ArrayS} {c l : Nat} (hp : a.pendingRemap = [c]) (hl : columnServed a c = some l)
    (hn : freeSpare (spareBad c a).remap = none) : (remapAll a).state = .failed := by
  have hl' : columnServed { a with state := if a.state == .draining then .serving else a.state, pendingRemap := [] } c = some l := hl
  have hbad : (spareBad c { a with state := if a.state == .draining then .serving else a.state, pendingRemap := [] }).remap
      = (spareBad c a).remap := by
    unfold spareBad
    split <;> rfl
  simp only [remapAll, hp, List.foldl_cons, List.foldl_nil, remapColumn, hl', hbad, hn]

theorem exec_residueMismatch {s : State} {cyc i c p : Nat} {a : Arr} {k : Cls} (hup : s.segUp i = true) (hsv : s.serving i = true) (hc : c < 264)
    (hst : ((s.seg i).array a).state ≠ .failed) : exec (.residueMismatch cyc i a c p k) s =
      .next ((s.dataPathError cyc i p k).onSeg i (fun g => g.onArray a (residueAt c s.time.beat))) := by
  show execResidueMismatch cyc i a c p k s = _
  simp [execResidueMismatch, onlyIf, hup, hsv, hc, hst]

/-- Settles O44: a mismatch by `dataPathError` and what it does to the array, a remapping by the spare found or not found. -/
theorem arrayColumns : Obligations.ArrayColumns := by
  refine ⟨?_, ?_, ?_, ?_⟩
  · intro s cyc i c p a k hup hsv hc hst hs
    refine ⟨_, exec_residueMismatch hup hsv hc hst, ?_⟩
    rw [dataPathError_noStep hs, State.uncorrectable, State.onSeg_onSeg, s.seg_onSeg_eq _ (hasSeg_of_segUp hup)]
    simp only [array_onArray_same, array_onArray_other, health_onArray]
    refine ⟨?_, fun b h hb => ?_, fun h => ?_, ?_, trivial, fun j hj => s.seg_onSeg_ne _ hj, rfl⟩
    · exact residueErrors_residueAt c _ _
    · exact mem_faults_residueAt (by cases a <;> exact h) hb
    · cases a <;> exact faults_residueAt h
    · cases a <;> rfl
  · intro s cyc i c p a k st hup hsv hc hst hs ha
    obtain ⟨hnone, hcnt, -⟩ := dataPathError_discards hs ha cyc i
    exact ⟨_, exec_residueMismatch hup hsv hc hst, hnone, hcnt, by rw [dataPathError_step hs ha]⟩
  · rintro s cyc i c l n a x hup rfl hp hf hst hl hn
    have hall := remapAll_spare hp hl hn
    have hok : (remapAll ((s.seg i).array a)).state ≠ .failed := by
      rw [hall]
      dsimp only
      split
      · simp
      · exact hst
    refine ⟨s.onSeg i (fun g => g.onArray a remapAll), ?_, ?_⟩
    · show execColumnRemap cyc i a s = _
      simp [execColumnRemap, onlyIf, hup, hp, hf, hst, hok]
    · rw [s.seg_onSeg_eq _ (hasSeg_of_segUp hup)]
      simp only [array_onArray_same, array_onArray_other, hall]
      refine ⟨by simp, trivial, trivial, trivial, fun hlen => ?_, fun m hm => ?_, trivial, fun j hj => s.seg_onSeg_ne _ hj, rfl⟩
      · rw [getD_modifyAt_eq _ _ _ (by rwa [length_remap_spareBad])]
        exact ⟨rfl, rfl⟩
      · exact getD_modifyAt_ne _ _ _ hm
  · rintro s cyc i c l a x hup rfl hp hf hst hl hn
    have hfail := remapAll_noSpare hp hl hn
    refine ⟨?_, hfail⟩
    show execColumnRemap cyc i a s = _
    simp [execColumnRemap, onlyIf, hup, hp, hf, hst, hfail]

end Sys2Proof.Proofs
end
section
/-! The hand-over of packed content, and completion records (R219, R255, R302). -/

namespace Sys2Proof.Proofs

open Sys2Proof Sys2Proof.Machine

theorem onLive_of_live {s : State} {k : Nat} {q : Sequence} (h : s.live k = some q) (f : Sequence → Sequence) :
    s.onLive k f = { s with seqs := aSet k (f q) s.seqs } := by
  simp only [State.onLive, h]

theorem onMap_of_live {s : State} {k : Nat} {q : Sequence} (h : s.live k = some q) (f : List (Nat × BlockRef) → List (Nat × BlockRef)) :
    s.onMap (.seq k) f = { s with seqs := aSet k { q with map := f q.map } s.seqs } := onLive_of_live h _

/-- A block stands but for its segments, its sequences and its counters. -/
def seatsOnly (s t : State) : Prop := t = { s with segs := t.segs, seqs := t.seqs, cnt := t.cnt }

namespace seatsOnly
variable {s t u : State}

theorem refl (s : State) : seatsOnly s s := rfl

theorem trans (a : seatsOnly s t) (b : seatsOnly t u) : seatsOnly s u := by
  unfold seatsOnly at *
  rw [b, a]

theorem onLive (s : State) (k : Nat) (f : Sequence → Sequence) : seatsOnly s (s.onLive k f) := by
  unfold State.onLive
  split
  · rfl
  · rfl

theorem count (s : State) (f : Counters → Counters) : seatsOnly s (s.count f) := rfl

theorem onSeg (s : State) (i : Nat) (f : Segment → Segment) : seatsOnly s (s.onSeg i f) := rfl

theorem foldl {α : Type} {f : State → α → State} (hf : ∀ t x, seatsOnly t (f t x)) (l : List α) (s : State) :
    seatsOnly s (l.foldl f s) := by
  induction l generalizing s with
  | nil => exact refl s
  | cons x l ih => exact (hf s x).trans (ih _)

end seatsOnly

theorem live_foldl_onMap (s : State) (k : Nat) (q : Sequence) (ref : State → Nat → BlockRef) (blocks : List Nat)
    {m : List (Nat × BlockRef)} (hm : s.live k = some { q with map := m }) :
    ∃ m, (blocks.foldl (fun t b => t.onMap (.seq k) (aSet b (ref t b))) s).live k = some { q with map := m } := by
  induction blocks generalizing s m with
  | nil => exact ⟨m, hm⟩
  | cons b bs ih => exact ih _ (m := aSet b (ref s b) m) (s.live_onLive_eq k _ _ hm)

/-- Blocks given to a live sequence change its map alone. -/
theorem giveBlocks_seq {s : State} {k : Nat} {q : Sequence} (h : s.live k = some q) (blocks : List Nat) :
    seatsOnly s (s.giveBlocks (.seq k) blocks) ∧ ∃ m, (s.giveBlocks (.seq k) blocks).live k = some { q with map := m } := by
  unfold State.giveBlocks
  split
  · next p n draft c hc => exact ⟨.foldl (fun t b => .onLive t k _) _ _, live_foldl_onMap s k q _ blocks h⟩
  · exact ⟨.refl s, q.map, h⟩

/-- The overrun of a plan is a notice and a count. -/
theorem planOverrun_leaves (s : State) (q : Sequence) (pl : Plan) (e : Stamp) :
    seatsOnly s (s.planOverrun q pl e) ∧ (s.planOverrun q pl e).seqs = s.seqs := by
  unfold State.planOverrun
  split
  · next x _ =>
    split
    · have h := (noticesOnly_raise s s.mgr 0x04 0x5 0 x.part e (packMsb [(16, x.id), (64, q.admitAt.beat), (32, 0)])).1
      generalize s.raise s.mgr 0x04 0x5 0 x.part e (packMsb [(16, x.id), (64, q.admitAt.beat), (32, 0)]) = t at h ⊢
      rw [h]
      exact ⟨rfl, rfl⟩
    · exact ⟨rfl, rfl⟩
  · exact ⟨rfl, rfl⟩

theorem mem_foldl_insertNat {x : Nat} (bs l : List Nat) : x ∈ bs.foldl (fun l b => insertNat b l) l ↔ x ∈ bs ∨ x ∈ l := by
  induction bs generalizing l with
  | nil => simp
  | cons b bs ih =>
    rw [List.foldl_cons, ih, mem_insertNat, List.mem_cons]
    tauto

/-- Pages of which the pool has enough beside the decode reserve need no reclaim (R200). -/
theorem joinPages_room {s : State} {p n : Nat} (h : n = 0 ∨ n + (s.part p).decodeReserve ≤ (s.part p).poolFree) :
    s.joinPages p n none = (true, s) := by
  unfold State.joinPages
  by_cases hn : n = 0
  · simp [hn]
  · have hroom : n + (s.part p).decodeReserve ≤ (s.part p).poolFree := h.resolve_left hn
    have hcov : s.covers p (n + (s.part p).decodeReserve) = true := by
      unfold State.covers
      simp
      omega
    simp [hn, State.reclaim, hcov, hroom]

theorem poolFree_takePages (s : State) (p n : Nat) : ((s.takePages p n).part p).poolFree = (s.part p).poolFree - n := by
  unfold State.takePages State.onPart State.part
  by_cases hp : p < s.parts.length
  · rw [getD_modifyAt_eq _ _ _ hp]
  · rw [List.getD_eq_default _ _ (by rw [length_modifyAt]; omega), List.getD_eq_default _ _ (by omega)]
    exact (Nat.zero_sub n).symm

/-- A sequence that has been handed its packed prompt over some blocks. -/
noncomputable def handedTo (pl : Plan) (blocks : List Nat) (q : Sequence) : Sequence :=
  { q with
    packed := some pl.packed
    awaitHandOver := false
    plan := none
    inputTokens := q.inputTokens + pl.packed.length
    ownBlocks := blocks.foldl (fun l b => insertNat b l) q.ownBlocks }

/-- The pages and the charge of a hand-over. -/
noncomputable def paidFor (s : State) (q : Sequence) (pl : Plan) (blocks : List Nat) : State :=
  (s.takePages q.req.part (blocks.length * (s.part q.req.part).setPages q.speculate)).inputCharge q.req pl.packed.length

/-- What the hand-over of a packed plan leaves (R255). -/
theorem handOver_leaves {s : State} {k : Nat} {q : Sequence} {pl : Plan} (hq : s.live k = some q) (blocks : List Nat) (e : Stamp) :
    seatsOnly (paidFor s q pl blocks) (s.handOver k q pl blocks e) ∧
      ∃ m, (s.handOver k q pl blocks e).live k = some (handedTo pl blocks { q with map := m }) := by
  obtain ⟨ho, hseqs⟩ := planOverrun_leaves (paidFor s q pl blocks) q pl e
  have hlive : (((paidFor s q pl blocks).planOverrun q pl e).count (fun c => { c with plans := c.plans + 1 })).live k = some q :=
    (congrArg (aGet k) hseqs).trans hq
  obtain ⟨hgive, m, hm⟩ := giveBlocks_seq hlive blocks
  exact ⟨(ho.trans (.count _ _)).trans (hgive.trans (.onLive _ k _)), m, State.live_onLive_eq _ k (handedTo pl blocks) _ hm⟩

/-- Settles O20. -/
theorem handOver : Obligations.HandOver := by
  intro s k n q pl hp hq hpl hedge hpack hend htier hmove hn hroom
  have hjoin : (s.toPhase 2).joinPages q.req.part n none = (true, s.toPhase 2) := joinPages_room hroom
  obtain ⟨hfields, m, hlive⟩ := handOver_leaves (s := (s.toPhase 2).given ((s.toPhase 2).stampFor 0)) (pl := pl) (k := k)
    (q := q) hq (handOverBlocks q pl) ((s.toPhase 2).stampFor 0)
  refine ⟨_, _, ?_, hlive, rfl, rfl, rfl, rfl, fun b hb => (mem_foldl_insertNat _ _).2 (.inl hb), ?_⟩
  · show execHandOver k s = _
    unfold execHandOver
    rw [underForce_settled _ s hp]
    simp only [hq, hpl, ← hn, hjoin]
    simp [onlyIf, hedge, hpack, hend, htier, hmove]
  · rw [hfields]
    refine ⟨?_, ?_, rfl, rfl, rfl, rfl, rfl⟩
    · rw [hn]
      exact poolFree_takePages s _ _
    · exact congrArg Tenant.level (State.tenant_onTenant_eq s q.req.tenant
        (fun e => { e with level := e.level - (((s.tenant q.req.tenant).inputWeight * pl.packed.length : Nat) : Int) }))

/-- Settles O21. -/
theorem completionRecords : Obligations.CompletionRecords := by
  refine ⟨?_, ?_, ?_⟩
  · intro s k q hm hq hc hmark hspan hen hkind
    show execCompletionRecordWrite k s = _
    simp [execCompletionRecordWrite, hq, onlyIf, hm, hc, hmark, hspan, hen, hkind]
  · intro s k q hm hq hc hmark hno
    have hno : (q.req.spanQuery.isSome || !((s.ring q.req.cmpRing).enable && (s.ring q.req.cmpRing).kind == 1)) = true := by
      rcases hno with h | h | h
      · simp [Option.isSome_iff_ne_none.2 h]
      · simp [h]
      · simp [h]
    show execCompletionRecordWrite k s = _
    simp only [execCompletionRecordWrite, hq, onlyIf, hm, hc, hmark, hno]
    rfl
  · intro s k q hq hno
    have hc : q.completes = false := by
      unfold Sequence.completes
      rcases hno with h | h | h | h | h
      · simp [h]
      · simp [h]
      · simp [h]
      · simp [h]
      · simp [show q.unwritten ≠ 0 by omega]
    show execCompletionRecordWrite k s = _
    simp [execCompletionRecordWrite, hq, onlyIf, hc]

end Sys2Proof.Proofs
end
section
/-! What moves between the bright and the dim tier (R187, R193, R195 to R197, R200). -/

namespace Sys2Proof.Proofs

open Sys2Proof Sys2Proof.Machine

theorem rings_unbind (s : State) (k : Nat) : (s.unbind k).rings = s.rings := rfl

theorem rings_dropPlan (s : State) (k : Nat) : (s.dropPlan k).rings = s.rings := by
  unfold State.dropPlan
  split
  · split
    · next pl _ =>
      rw [State.onLive_rings]
      exact (ledgersKept_foldl (fun t _ h => ledgersKept_onSeg h _ _) (.refl s)).1
    · rfl
  · rfl

theorem rings_discardHeld (s : State) (k : Nat) : (s.discardHeld k).rings = s.rings := by
  unfold State.discardHeld
  split
  · simp [State.charge]
  · rfl

theorem rings_endSeq (s : State) (k : Nat) (st : Status) (e : Stamp) : (s.endSeq k st e).rings = s.rings := by
  cases hq : s.live k with
  | none => simp only [State.endSeq, hq]
  | some q =>
    cases hend : q.ended with
    | some x => rw [endSeq_of_ended hq (by rw [hend]; rfl)]
    | none =>
      have hat : (endedAt s k st e).rings = s.rings := by
        unfold endedAt
        rw [State.onSegs_rings, State.onLive_rings, rings_discardHeld, rings_dropPlan, rings_unbind]
      rw [endSeq_eq hq hend]
      split
      · exact hat
      · exact (ledgersKept_pagesReturn (.refl _) k e).1.trans hat

theorem rings_foldl_endSeq (st : Status) (e : Stamp) (l : List Nat) (s : State) :
    (l.foldl (fun t k => t.endSeq k st e) s).rings = s.rings := by
  induction l generalizing s with
  | nil => rfl
  | cons k l ih => exact (ih _).trans (rings_endSeq s k st e)

theorem rings_returnPages (s : State) (i n : Nat) (e : Stamp) : (s.returnPages i n e).rings = s.rings :=
  (ledgersKept_returnPages (.refl s) i n e).1

theorem seqs_returnPages (s : State) (i n : Nat) (e : Stamp) : (s.returnPages i n e).seqs = s.seqs := by
  unfold State.returnPages
  split
  · rfl
  · rfl

theorem handles_returnPages (s : State) (i n : Nat) (e : Stamp) : (s.returnPages i n e).handles = s.handles := by
  unfold State.returnPages
  split
  · rfl
  · rfl

/-- A read-back stands only under a key that is held, of a record that its header names (R195). -/
theorem readBackStands_named {s : State} {r : DimRead} (h : s.readBackStands r = true) : s.epochHeld r.cache = true ∧
    bits 511 496 r.header = 0x4B52 ∧ bits 495 488 r.header = 3 ∧ ∃ x, s.cacheOf r.cache = some x ∧ bits 487 484 r.header = x.1 := by
  unfold State.readBackStands at h
  split at h
  · next p n d l hc =>
    simp only [recordNamed, Bool.and_eq_true, beq_iff_eq] at h
    obtain ⟨⟨hep, ⟨⟨hm, hv⟩, hp⟩, hid⟩, hf⟩ := h
    exact ⟨hep, hm, hv, _, hc, hp⟩
  · exact absurd h Bool.false_ne_true

theorem mem_of_aGet {α : Type} {k : Nat} {v : α} {l : List (Nat × α)} (h : aGet k l = some v) : (k, v) ∈ l := by
  induction l with
  | nil => cases h
  | cons x l ih =>
    rw [aGet] at h
    split at h
    · next hk =>
      rw [← Option.some.inj h, ← beq_iff_eq.1 hk]
      exact List.mem_cons_self
    · exact List.mem_cons_of_mem _ (ih h)

/-- What a read-back that fails leaves of an entry and of those that use it (R195). -/
theorem readBackFails_entry (s : State) (k : Nat) (e : Stamp) : (s.readBackFails (.entry k) e).entry k = none ∧
    (s.readBackFails (.entry k) e).rings = s.rings ∧ (∀ i q, s.live i = some q → q.entry = some k → q.ended = none →
      ∃ r, (s.readBackFails (.entry k) e).live i = some r ∧ r.ended = some (.sealFail, e)) := by
  refine ⟨aGet_aErase_eq k _, ?_, fun i q hi hk hend => ?_⟩
  · exact (rings_foldl_endSeq _ _ _ _).trans ((State.onEntry_rings _ _ _).trans (rings_returnPages _ _ _ _))
  · have hi' : ((((s.count (fun k => { k with dimSealFails := k.dimSealFails + 1 })).returnPages ((s.entry k).getD {}).part
        ((s.entry k).getD {}).ownPages e).onEntry k (fun h => { h with ownPages := 0, map := [], moving := none, dim := none }))).live i = some q := by
      unfold State.live
      rw [State.onEntry_seqs, seqs_returnPages]
      exact hi
    have huser : i ∈ (s.seqs.filter (fun x => x.2.entry == some k)).map (·.1) :=
      List.mem_map.2 ⟨(i, q), List.mem_filter.2 ⟨mem_of_aGet hi, by simp [hk]⟩, rfl⟩
    obtain ⟨r, hr, hended, -⟩ := foldl_endSeq_ends .sealFail e _ hi' hend huser
    refine ⟨if r.entry == some k then { r with entry := none, shared := 0 } else r, ?_, ?_⟩
    · exact (aGet_map (fun x : Sequence => if x.entry == some k then { x with entry := none, shared := 0 } else x) i _).trans
        (congrArg (Option.map _) hr)
    · split
      · exact hended
      · exact hended

theorem readBackFails_seq {s : State} {k : Nat} {q : Sequence} (hk : s.live k = some q) (hend : q.ended = none) (e : Stamp) :
    ∃ r, (s.readBackFails (.seq k) e).live k = some r ∧ r.ended = some (.sealFail, e) := by
  have hk' : ((s.count (fun k => { k with dimSealFails := k.dimSealFails + 1 })).returnPages q.req.part
      ((s.count (fun k => { k with dimSealFails := k.dimSealFails + 1 })).seqPages q) e).live k = some q := by
    unfold State.live
    rw [seqs_returnPages]
    exact hk
  obtain ⟨r, hr, hended, -⟩ := endSeq_ends (State.live_onLive_eq _ k (fun q => dropOwn { q with moving := none, dim := none }) q hk')
    hend .sealFail e
  refine ⟨r, ?_, hended⟩
  unfold State.readBackFails
  have hlive : (s.count (fun k => { k with dimSealFails := k.dimSealFails + 1 })).live k = some q := hk
  simp only [hlive]
  exact hr

theorem workOnly_readBackFails (s : State) (c : CacheRef) (e : Stamp) :
    workOnly (s.count (fun k => { k with dimSealFails := k.dimSealFails + 1 })) (s.readBackFails c e) := by
  cases c with
  | entry k =>
    exact workOnly_fields (workOnly_fields (workOnly_foldl (fun _ _ h => workOnly_endSeq h _ _ _)
      (workOnly_onEntry (workOnly_returnPages (.refl _) _ _ _) _ _)))
  | seq k =>
    unfold State.readBackFails
    dsimp only
    split
    · exact workOnly_endSeq (workOnly_onLive (workOnly_returnPages (.refl _) _ _ _) _ _) _ _ _
    · exact .refl _

/-- Settles O22: the ends of movements by their cases, a read-back that fails by `foldl_endSeq_ends`. -/
theorem tierMovements : Obligations.TierMovements := by
  refine ⟨⟨?_, ?_, ?_, ?_, ?_, ?_, ?_, ?_⟩, ?_, ?_⟩
  · intro s k h drop hm hk hmov hd
    have hmove : s.moveOf (.entry k) = some (.write drop) := by simp [State.moveOf, hk, hmov]
    show execDimWriteComplete (.entry k) s = _
    simp [execDimWriteComplete, hmove, onlyIf, hm, hd, State.writeAsked, State.writeEnds]
  · intro s k q hm hk hmov hd ha
    have hmove : s.moveOf (.seq k) = some (.write false) := by simp [State.moveOf, hk, hmov]
    show execDimWriteComplete (.seq k) s = _
    simp [execDimWriteComplete, hmove, onlyIf, hm, hd, State.writeAsked, hk, ha, State.writeEnds]
  · intro s k q hm hk hmov hd ha
    have hmove : s.moveOf (.seq k) = some (.write true) := by simp [State.moveOf, hk, hmov]
    have hwr : s.writeAsked (.seq k) = false := by simp [State.writeAsked, hk, ha]
    show execDimWriteComplete (.seq k) s = _
    simp only [execDimWriteComplete, hmove, onlyIf, hm, hd, hwr, State.writeEnds, State.dropBright, hk]
    rfl
  · intro s k q hk ha
    show execDimWriteComplete (.seq k) s = _
    have hwr : s.writeAsked (.seq k) = true := by simp [State.writeAsked, hk, ha]
    unfold execDimWriteComplete
    split
    · simp [onlyIf, hwr]
    · rfl
  · intro s r hm hmov hd hbad
    have hno : s.readBackStands r = false := by
      by_contra h
      obtain ⟨hep, hmag, hv, x, hx, hp⟩ := readBackStands_named (Bool.not_eq_false _ ▸ h)
      rcases hbad with h' | h' | h' | h' | h'
      · exact absurd hep (by simp [h'])
      · exact h' hmag
      · exact h' hv
      · exact h' x hx hp
      · exact h h'
    show execDimFetchComplete r s = _
    simp [execDimFetchComplete, hmov, onlyIf, hm, hd, hno]
  · intro s k h r hm hk hmov hd hr hst
    have hmove : s.moveOf (.entry k) = some .fetch := by simp [State.moveOf, hk, hmov]
    show execDimFetchComplete r s = _
    unfold execDimFetchComplete
    rw [hr, hmove]
    simp only [onlyIf, hm, hd, hst, State.fetchEnds]
    rfl
  · intro s k q r hm hk hmov hd hr hst
    have hmove : s.moveOf (.seq k) = some .fetch := by simp [State.moveOf, hk, hmov]
    show execDimFetchComplete r s = _
    unfold execDimFetchComplete
    rw [hr, hmove]
    simp only [onlyIf, hm, hd, hst, State.fetchEnds]
    rfl
  · intro s k q hm hk hc he
    show execPartialBlockCopyComplete k s = _
    simp only [execPartialBlockCopyComplete, hk, onlyIf, hm, hc, he, State.copyPartial, onLive_of_live hk]
    rfl
  · intro s cyc k h hm hk hmov
    have hmove : s.moveOf (.entry k) = some .fetch := by simp [State.moveOf, hk, hmov]
    obtain ⟨hgone, hrings, husers⟩ := readBackFails_entry (s.given (s.stampFor cyc)) k (s.stampFor cyc)
    obtain ⟨hwork, -, -, hcnt⟩ := workOnly_readBackFails (s.given (s.stampFor cyc)) (.entry k) (s.stampFor cyc)
    refine ⟨(s.given (s.stampFor cyc)).readBackFails (.entry k) (s.stampFor cyc), ?_, hgone, ?_, husers, ?_, ?_, ?_, hrings, ?_⟩
    · show execDimReadBackFail cyc (.entry k) s = _
      simp only [execDimReadBackFail, hmove, onlyIf, hm, if_true]
    · rw [hcnt]
      rfl
    · rw [hwork]
      rfl
    · rw [hwork]
      rfl
    · rw [hwork]
      rfl
    · rw [hwork]
      rfl
  · intro s cyc k q hm hk hmov hend
    have hmove : s.moveOf (.seq k) = some .fetch := by simp [State.moveOf, hk, hmov]
    obtain ⟨hwork, -, -, hcnt⟩ := workOnly_readBackFails (s.given (s.stampFor cyc)) (.seq k) (s.stampFor cyc)
    obtain ⟨r, hr, hended⟩ := readBackFails_seq (s := s.given (s.stampFor cyc)) hk hend (s.stampFor cyc)
    refine ⟨(s.given (s.stampFor cyc)).readBackFails (.seq k) (s.stampFor cyc), r, ?_, hr, hended, ?_, ?_, ?_, ?_, ?_⟩
    · show execDimReadBackFail cyc (.seq k) s = _
      simp only [execDimReadBackFail, hmove, onlyIf, hm, if_true]
    · rw [hcnt]
      rfl
    · rw [hwork]
      rfl
    · rw [hwork]
      rfl
    · rw [hwork]
      rfl
    · rw [hwork]
      rfl

end Sys2Proof.Proofs
end
section
/-! Object access messages on their paths: what taking one from its path and answering it leave (R309 to R320). -/

namespace Sys2Proof.Proofs

open Sys2Proof Sys2Proof.Machine

/-- A segment stands but for its queues, its port, its modules and the interrupt of its target. -/
def messaged (g h : Segment) : Prop :=
  h = { g with nq := h.nq, i3cIn := h.i3cIn, i3cOut := h.i3cOut, port := h.port, hub := h.hub
               trust := { g.trust with ibi := h.trust.ibi, ibis := h.trust.ibis } }

/-- A block stands but for what messages pass: queues, ports, modules, rings and the endpoints. -/
def messagesOnly (s t : State) : Prop :=
  (∃ E n, t = { s with segs := t.segs, rings := t.rings, objs := { s.objs with eps := E, turn := n } }) ∧
    t.segs.length = s.segs.length ∧ ∀ i, messaged (s.seg i) (t.seg i)

/-- The transfers of every endpoint stand, open and ended. -/
def transfersKept (s t : State) : Prop := ∀ e, (t.ep e).transfers = (s.ep e).transfers ∧ (t.ep e).ended = (s.ep e).ended

theorem messaged.refl (g : Segment) : messaged g g := rfl

theorem messaged.trans {g h k : Segment} (a : messaged g h) (b : messaged h k) : messaged g k := by
  unfold messaged at *
  rw [b, a]

theorem messaged_of_queued {g h : Segment} (a : queued g h) : messaged g h := by
  unfold queued noticed answersOnly at a
  unfold messaged
  rw [a]

theorem messaged_of_sent {g h : Segment} (a : framesSent g h) : messaged g h := by
  obtain ⟨a, -⟩ := a
  unfold messaged
  rw [a]

theorem messagesOnly.refl (s : State) : messagesOnly s s := ⟨⟨s.objs.eps, s.objs.turn, rfl⟩, rfl, fun _ => rfl⟩

theorem messagesOnly.trans {s t u : State} (a : messagesOnly s t) (b : messagesOnly t u) : messagesOnly s u := by
  obtain ⟨⟨E, n, ha⟩, la, ga⟩ := a
  obtain ⟨⟨F, m, hb⟩, lb, gb⟩ := b
  exact ⟨⟨F, m, by rw [hb, ha]⟩, lb.trans la, fun i => (ga i).trans (gb i)⟩

theorem messagesOnly_of_queues {s t : State} (h : queuesOnly s t) : messagesOnly s t := by
  obtain ⟨⟨E, he⟩, hl, hg⟩ := h
  exact ⟨⟨E, s.objs.turn, he⟩, hl, fun i => messaged_of_queued (hg i)⟩

theorem messagesOnly_of_sent {s t : State} (h : sentOnly s t) : messagesOnly s t := by
  obtain ⟨he, hl, hg⟩ := h
  exact ⟨⟨s.objs.eps, s.objs.turn, by rw [he]⟩, hl, fun i => messaged_of_sent (hg i)⟩

theorem messagesOnly_onSeg {s : State} {i : Nat} {f : Segment → Segment} (hf : messaged (s.seg i) (f (s.seg i))) :
    messagesOnly s (s.onSeg i f) :=
  ⟨⟨s.objs.eps, s.objs.turn, rfl⟩, s.onSeg_length _ _, seg_onSeg_of s i f messaged.refl hf⟩

theorem messagesOnly.onSeg {a s : State} (h : messagesOnly a s) (i : Nat) {f : Segment → Segment} (hf : ∀ g, messaged g (f g)) :
    messagesOnly a (s.onSeg i f) := h.trans (messagesOnly_onSeg (hf _))

theorem messagesOnly_ite {s t u : State} (c : Prop) [Decidable c] (ht : messagesOnly s t) (hu : messagesOnly s u) :
    messagesOnly s (if c then t else u) := by
  split
  · exact ht
  · exact hu

/-! Endpoints. -/

theorem find?_epMap (l : List EndpointS) (e d : Endpoint) {f : EndpointS → EndpointS} (hf : ∀ x, (f x).ep = x.ep) :
    (l.map (fun x => if x.ep == e then f x else x)).find? (fun x => x.ep == d) =
      (l.find? (fun x => x.ep == d)).map (fun x => if x.ep == e then f x else x) := by
  induction l with
  | nil => rfl
  | cons x l ih =>
    have hx : (if x.ep == e then f x else x).ep = x.ep := by
      split
      · exact hf x
      · rfl
    rw [List.map_cons, List.find?_cons, List.find?_cons, hx]
    split
    · rfl
    · exact ih

/-- An endpoint changed is read back as it was changed, and the others stand. -/
theorem ep_onEp (s : State) (e d : Endpoint) {f : EndpointS → EndpointS} (hf : ∀ x, (f x).ep = x.ep) :
    (s.onEp e f).ep d = if d = e then f (s.ep d) else s.ep d := by
  have heps : (s.onEp e f).objs.eps = if s.objs.eps.any (fun x => x.ep == e) then s.objs.eps.map (fun x => if x.ep == e then f x else x)
      else s.objs.eps ++ [f (EndpointS.of e)] := rfl
  unfold State.ep
  rw [heps]
  split
  · next hany =>
    rw [find?_epMap _ e d hf]
    cases hfind : s.objs.eps.find? (fun x => x.ep == d) with
    | none =>
      have hd : d ≠ e := by
        rintro rfl
        obtain ⟨x, hx, he⟩ := List.any_eq_true.1 hany
        exact List.find?_eq_none.1 hfind x hx he
      rw [if_neg hd]
      rfl
    | some x =>
      have hx : (x.ep == d) = true := List.find?_some (p := fun x : EndpointS => x.ep == d) hfind
      simp [beq_iff_eq.1 hx]
  · next hany =>
    rw [List.find?_append]
    by_cases hd : d = e
    · subst hd
      have hnone : s.objs.eps.find? (fun x => x.ep == d) = none :=
        List.find?_eq_none.2 (fun x hx he => hany (List.any_eq_true.2 ⟨x, hx, he⟩))
      have hof : (f (EndpointS.of d)).ep = d := hf _
      simp [hnone, hof]
    · have hof : ((f (EndpointS.of e)).ep == d) = false := by
        rw [hf]
        exact beq_false_of_ne (fun h => hd h.symm)
      simp [hd, hof]

theorem ep_of_objs {s t : State} (h : t.objs.eps = s.objs.eps) (e : Endpoint) : t.ep e = s.ep e := by
  unfold State.ep
  rw [h]

theorem transfersKept.refl (s : State) : transfersKept s s := fun _ => ⟨rfl, rfl⟩

theorem transfersKept.trans {s t u : State} (a : transfersKept s t) (b : transfersKept t u) : transfersKept s u :=
  fun e => ⟨(b e).1.trans (a e).1, (b e).2.trans (a e).2⟩

theorem transfersKept_of_eps {s t : State} (h : t.objs.eps = s.objs.eps) : transfersKept s t := fun e => by
  rw [ep_of_objs h e]
  exact ⟨rfl, rfl⟩

theorem transfersKept_of_notices {s t : State} (h : noticesOnly s t) : transfersKept s t := transfersKept_of_eps (by rw [h.1])

theorem transfersKept_onEp (s : State) (e : Endpoint) {f : EndpointS → EndpointS} (hf : ∀ x, (f x).ep = x.ep)
    (ht : ∀ x, (f x).transfers = x.transfers ∧ (f x).ended = x.ended) : transfersKept s (s.onEp e f) := fun d => by
  rw [ep_onEp s e d hf]
  split
  · exact ht _
  · exact ⟨rfl, rfl⟩

theorem transfersKept_raiseQueue {a s : State} (h : transfersKept a s) (src object : Nat) (owe : List QEvent) :
    transfersKept a (s.raiseQueue src object owe) := h.trans (transfersKept_of_notices (noticesOnly_raiseQueue _ _ _ _))

theorem transfersKept_putIn (s : State) (e : Endpoint) (q : WordQ) : transfersKept s (s.putIn e q) := by
  unfold State.putIn
  refine transfersKept_raiseQueue ?_ _ _ _
  cases e with
  | i3c k => exact transfersKept_of_eps rfl
  | _ => exact transfersKept_onEp s _ (fun _ => rfl) (fun _ => ⟨rfl, rfl⟩)

theorem transfersKept_putOut (s : State) (e : Endpoint) (q : WordQ) : transfersKept s (s.putOut e q) := by
  unfold State.putOut
  refine transfersKept.trans ?_ (transfersKept_of_notices (noticesOnly_answerReads _ _))
  refine transfersKept_raiseQueue ?_ _ _ _
  cases e with
  | i3c k => exact transfersKept_of_eps rfl
  | _ => exact transfersKept_onEp s _ (fun _ => rfl) (fun _ => ⟨rfl, rfl⟩)

theorem eps_closeRing (s : State) (n : Nat) : (s.closeRing n).objs = s.objs := by
  obtain ⟨R, G, h⟩ := s.closeRing_frame n
  rw [h]

theorem eps_blockMoves (s : State) (n h t : Nat) : (s.blockMoves n h t).objs = s.objs := by
  obtain ⟨R, G, h⟩ := s.blockMoves_frame n h t
  rw [h]

/-! A message taken from its path. -/

theorem messagesOnly_putOut (s : State) (e : Endpoint) (q : WordQ) : messagesOnly s (s.putOut e q) := messagesOnly_of_queues (queuesOnly_putOut s e q)

theorem messagesOnly_mediumReads (s : State) (e : Endpoint) : messagesOnly s (s.mediumReads e) := by
  unfold State.mediumReads
  cases e with
  | window => exact .refl s
  | ringPair => exact .refl s
  | pcie => exact messagesOnly_ite _ (.refl s) (messagesOnly_putOut _ _ _)
  | i3c k =>
    refine messagesOnly_ite _ (.refl s) (messagesOnly.onSeg (messagesOnly_putOut _ _ _) k ?_)
    exact fun _ => rfl

theorem transfersKept_mediumReads (s : State) (e : Endpoint) : transfersKept s (s.mediumReads e) := by
  unfold State.mediumReads
  cases e with
  | window => exact .refl s
  | ringPair => exact .refl s
  | pcie =>
    dsimp only
    split
    · exact .refl s
    · exact transfersKept_putOut _ _ _
  | i3c k =>
    dsimp only
    split
    · exact .refl s
    · exact (transfersKept_putOut _ _ _).trans (transfersKept_of_eps rfl)

theorem sentOnly_forwardMsg (s : State) (out : Bool) (e : Endpoint) : sentOnly s (s.forwardMsg out e) := by
  unfold State.forwardMsg
  split
  · split
    · exact .refl s
    · split
      · exact sentOnly_control s _ _
      · exact sentOnly_control s _ _
  · exact .refl s

theorem transfersKept_forwardMsg (s : State) (out : Bool) (e : Endpoint) : transfersKept s (s.forwardMsg out e) :=
  transfersKept_of_eps (by rw [(sentOnly_forwardMsg s out e).1])

theorem messagesOnly_blockMoves (s : State) (n h t : Nat) : messagesOnly s (s.blockMoves n h t) := by
  have closed : queuesOnly s (s.ringTurn n) := queuesOnly_ite _ (.refl s) (queuesOnly_closeRing s n)
  exact messagesOnly_of_queues (closed.trans ((queuesOnly_onRing _ _ _).trans (queuesOnly_onRing _ _ _)))

/-- The turn goes to an endpoint in reach. -/
noncomputable def turnTaken (s : State) (e : Endpoint) : State := if s.reaches_ e then { s with objs := { s.objs with turn := endpointNo e } } else s

theorem messagesOnly_turnTaken (s : State) (e : Endpoint) : messagesOnly s (turnTaken s e) :=
  messagesOnly_ite _ ⟨⟨s.objs.eps, endpointNo e, rfl⟩, rfl, fun _ => rfl⟩ (.refl s)

theorem transfersKept_turnTaken (s : State) (e : Endpoint) : transfersKept s (turnTaken s e) := by
  unfold turnTaken
  split
  · exact transfersKept_of_eps rfl
  · exact .refl s

theorem takeIn_eq (s : State) (e : Endpoint) (words : List Nat) : ∃ q n h t, s.takeIn e words =
    if e == .ringPair then ((turnTaken ((s.mediumReads e).forwardMsg false e) e).putIn e q).blockMoves n h t
    else (turnTaken ((s.mediumReads e).forwardMsg false e) e).putIn e q := ⟨_, _, _, _, rfl⟩

/-- A message taken from its path changes queues, ports, modules and rings. -/
theorem messagesOnly_takeIn (s : State) (e : Endpoint) (words : List Nat) : messagesOnly s (s.takeIn e words) := by
  obtain ⟨q, n, h, t, heq⟩ := takeIn_eq s e words
  have put := (((messagesOnly_mediumReads s e).trans (messagesOnly_of_sent (sentOnly_forwardMsg _ false e))).trans
    (messagesOnly_turnTaken _ e)).trans (messagesOnly_of_queues (queuesOnly_putIn _ e q))
  rw [heq]
  exact messagesOnly_ite _ (put.trans (messagesOnly_blockMoves _ _ _ _)) put

theorem transfersKept_takeIn (s : State) (e : Endpoint) (words : List Nat) : transfersKept s (s.takeIn e words) := by
  obtain ⟨q, n, h, t, heq⟩ := takeIn_eq s e words
  have put := (((transfersKept_mediumReads s e).trans (transfersKept_forwardMsg _ false e)).trans
    (transfersKept_turnTaken _ e)).trans (transfersKept_putIn _ e q)
  rw [heq]
  split
  · exact put.trans (transfersKept_of_eps (congrArg Objects.eps (eps_blockMoves _ _ _ _)))
  · exact put

/-! An answer sent. -/

theorem messagesOnly_setRing (s : State) (n : Nat) (r : Ring) : messagesOnly s (s.setRing n r) := messagesOnly_of_queues (queuesOnly_onRing s n (fun _ => r))

theorem messagesOnly_dma (s : State) (i : Nat) (r : DmaReq) : messagesOnly s (s.dma i r) := messagesOnly_onSeg rfl

theorem messagesOnly_sendAnswer (s : State) (n data : Nat) : messagesOnly s (s.sendRecord n { kind := .answer, data := data }) := by
  unfold State.sendRecord State.writeEntry
  refine messagesOnly_ite _ (messagesOnly_ite _ ?_ (messagesOnly_setRing _ _ _)) (.refl s)
  exact (messagesOnly_setRing _ _ _).trans (messagesOnly_dma _ _ _)

/-- An answer sent changes queues, ports, modules, rings and the interrupt of its target. -/
theorem messagesOnly_send (s : State) (e : Endpoint) (words : List Nat) : messagesOnly s (s.send e words) := by
  unfold State.send
  split
  · exact (messagesOnly_putOut _ _ _).trans (messagesOnly_sendAnswer _ _ _)
  · refine messagesOnly.onSeg ((messagesOnly_of_sent (sentOnly_forwardMsg s true _)).trans (messagesOnly_putOut _ _ _)) _ ?_
    exact fun _ => rfl
  · exact messagesOnly_putOut _ _ _

/-! Expedited writes. -/

theorem farPath_of_arrives {s : State} {p : Path} {words : List Nat} (h : s.arrives p words = true) : s.farPath p.ep = false := by
  simp only [State.arrives, State.standsNext, Bool.and_eq_true] at h
  obtain ⟨⟨⟨hopen, -⟩, -⟩, -⟩ := h
  unfold State.farPath
  split
  · next k hk =>
    rw [hk] at hopen
    simp only [State.pathOpen, Bool.and_eq_true, Bool.not_eq_true'] at hopen
    exact hopen.2
  · rfl

theorem transfer_of_kept {s t : State} (h : transfersKept s t) (e : Endpoint) (id : Nat) : t.transfer e id = s.transfer e id := by
  unfold State.transfer
  rw [(h e).1]

theorem ended_onEp_forget (s : State) (e : Endpoint) (id : Nat) : ((s.forget e id).ep e).transfers = (s.ep e).transfers := by
  unfold State.forget
  split
  · rw [ep_onEp s e e (f := fun x => { x with ended := x.ended.filter (fun d => d.id != id) }) (fun _ => rfl), if_pos rfl]
  · rfl

theorem transfer_forget (s : State) (e : Endpoint) (id : Nat) : (s.forget e id).transfer e id = s.transfer e id := by
  unfold State.transfer
  rw [ended_onEp_forget]

/-- Where no transfer has a message's TRANSFER, replacing it forgets what has ended under it. -/
theorem replaceTransfer_of_none {s : State} {e : Endpoint} {id : Nat} (h : s.transfer e id = none) : s.replaceTransfer e id = s.forget e id := by
  have hf : (s.forget e id).transfer e id = none := (transfer_forget s e id).trans h
  unfold State.replaceTransfer
  simp only [hf]

theorem messagesOnly_forget (s : State) (e : Endpoint) (id : Nat) : messagesOnly s (s.forget e id) := by
  unfold State.forget
  exact messagesOnly_ite _ ⟨⟨_, s.objs.turn, rfl⟩, rfl, fun _ => rfl⟩ (.refl s)

/-- The state in which a write has been taken from its path is one that messages have changed, at a new stamp. -/
theorem writeTaken_given (s : State) (cyc : Nat) (p : Path) (h : OamHead) (data : Nat) :
    ∃ t e, messagesOnly s t ∧ s.writeTaken cyc p h data = t.given e :=
  ⟨_, _, (messagesOnly_takeIn s p.ep _).trans (messagesOnly_forget _ p.ep h.transfer), rfl⟩

section
variable {s u : State} {cyc data : Nat} {p : Path} {h : OamHead} (hc : s.writeComes p h data) (hu : u = s.writeTaken cyc p h data)
include hc hu

/-- An expedited write that has come is done in the state in which it has been taken from its path. -/
theorem expedited_eq : ∃ w : State, s.expedited cyc p h data = .next (w.doWrite p h (data % 2 ^ 32) (w.stampFor cyc)) ∧
    (w.replaceTransfer p.ep h.transfer).given (w.stampFor cyc) = u := by
  obtain ⟨harr, hreach, halone, hno⟩ := hc
  refine ⟨s.takeIn p.ep [oamWord 2 h, data % 2 ^ 32], ?_, ?_⟩
  · unfold State.expedited
    rw [farPath_of_arrives harr, State.inBlockOf_here]
    simp only [expeditedHere, halone, State.answerMsg, harr, hreach, onlyIf]
    rfl
  · rw [replaceTransfer_of_none ((transfer_of_kept (transfersKept_takeIn s p.ep _) _ _).trans hno), hu]
    rfl

theorem expedited_barred {code : Nat} (hb : u.writeBar (u.principal p) h.index h.sub = some code) :
    s.expedited cyc p h data = .next (u.send p.ep (abortWords h code)) := by
  obtain ⟨w, hw, hu'⟩ := expedited_eq hc hu
  rw [hw]
  unfold State.doWrite
  simp only [hu', hb]

theorem expedited_open {o : Obj} (hb : u.writeBar (u.principal p) h.index h.sub = none) (ho : u.object (u.principal p) h.index h.sub = some o) :
    s.expedited cyc p h data = .next (State.answerWrite p (u.writeEntryNow p h (data % 2 ^ 32) o u.time.now)) := by
  obtain ⟨w, hw, hu'⟩ := expedited_eq hc hu
  rw [hw]
  unfold State.doWrite
  simp only [hu', hb, ho]
  rw [← hu']
  rfl

/-- An expedited write of a write-only entry acts. -/
theorem expedited_acts {n : Nat} (ho : u.object (u.principal p) h.index h.sub = some (woNum h.sub n)) (hn : n = h.size + 1)
    (hr : u.unretired = true) (hm : mayReach (u.principal p) h.index = true) :
    s.expedited cyc p h data = .next (State.answerWrite p (u.actWrite p h (data % 2 ^ 32 % 2 ^ (8 * (h.size + 1))) u.time.now)) := by
  have hb : u.writeBar (u.principal p) h.index h.sub = none := by
    have hr : (u.lifecycle == .retired) = false := by simpa [State.unretired] using hr
    simp only [State.writeBar, ho, hr, hm]
    rfl
  rw [expedited_open hc hu hb ho]
  subst hn
  have hsize : sizeBroken (woNum h.sub (h.size + 1)) h.index h.sub (h.size + 1) = false := by simp [sizeBroken, woNum, Shape.size]
  unfold State.writeEntryNow
  simp only [hsize]
  rfl

end

theorem lifecycle_writeTaken (s : State) (cyc : Nat) (p : Path) (h : OamHead) (data : Nat) :
    (s.writeTaken cyc p h data).lifecycle = s.lifecycle := by
  obtain ⟨t, e, ⟨⟨E, n, ht⟩, -, hg⟩, hw⟩ := writeTaken_given s cyc p h data
  have hm : t.mgr = s.mgr := by
    rw [ht]
    rfl
  rw [hw]
  show (t.seg t.mgr).trust.lifecycle = _
  rw [hm, hg]
  rfl

theorem unretired_writeTaken (s : State) (cyc : Nat) (p : Path) (h : OamHead) (data : Nat) :
    (s.writeTaken cyc p h data).unretired = s.unretired := by
  unfold State.unretired
  rw [lifecycle_writeTaken]

theorem principal_writeTaken (s : State) (cyc : Nat) (p q : Path) (h : OamHead) (data : Nat) :
    (s.writeTaken cyc p h data).principal q = s.principal q := by
  obtain ⟨t, e, ⟨⟨E, n, ht⟩, -, -⟩, hw⟩ := writeTaken_given s cyc p h data
  rw [hw, ht]
  rfl

end Sys2Proof.Proofs
end
section
/-! Hush (R394 to R396). -/

namespace Sys2Proof.Proofs

open Sys2Proof Sys2Proof.Machine

theorem onSegs_const (s : State) (f : Segment → Segment) : s.onSegs (fun _ g => f g) = { s with segs := s.segs.map f } := by
  unfold State.onSegs
  congr 1
  exact (List.map_map (f := Prod.fst) (g := f)).symm.trans (congrArg (List.map f) (List.zipIdx_map_fst 0 s.segs))

/-- What each link's state rests on: the segments' modules and states, and the waist. -/
theorem untrained_congr {s t : State} (hl : t.segs.length = s.segs.length) (hr : t.roles = s.roles)
    (hg : ∀ i, (t.seg i).hub = (s.seg i).hub ∧ (t.seg i).state = (s.seg i).state) : t.untrained = s.untrained := by
  have hserving : t.serving = s.serving := by
    funext i
    unfold State.serving
    rw [hr, (hg i).2]
  have hfailed : t.linkFailed = s.linkFailed := by
    funext i d
    unfold State.linkFailed
    simp only [hl, fun j => (hg j).1, fun j => (hg j).2]
  have hup : t.linkUp = s.linkUp := by
    funext i d
    unfold State.linkUp
    simp only [hl, hfailed, fun j => (hg j).1]
  unfold State.untrained State.servingSegs
  rw [hl, hserving, hfailed, hup]

theorem module_gateHub (h : Hub) (d : Dir) : (gateHub h).module d = gateModule (h.module d) := by
  cases d <;> rfl

theorem seg_onSegs_has {s : State} (f : Nat → Segment → Segment) {i : Nat} (h : s.hasSeg i = true) : (s.onSegs f).seg i = f i (s.seg i) :=
  seg_onSegs s f (of_decide_eq_true h)

/-- The block in hush (R394). -/
noncomputable def hushed (s : State) : State :=
  { s.onSegs (fun _ g => hushSegment s.time.beat g) with power := { s.power with hush := 1, hushAsked := none } }

theorem seg_hushed {s : State} {i : Nat} (h : s.hasSeg i = true) : (hushed s).seg i = hushSegment s.time.beat (s.seg i) :=
  seg_onSegs_has (fun _ g => hushSegment s.time.beat g) h

/-- The block out of hush, its links not yet judged (R395). -/
noncomputable def woken (s : State) : State :=
  { s.onSegs (fun _ g => wakeSegment s.time.beat g) with power := { s.power with hush := 0 }, prior := none }

theorem wakeSegment_link (b : Nat) (g : Segment) : (wakeSegment b g).hub = g.hub ∧ (wakeSegment b g).state = g.state := by
  unfold wakeSegment
  split
  · exact ⟨rfl, rfl⟩
  · exact ⟨rfl, rfl⟩

theorem seg_woken (s : State) (i : Nat) : ((woken s).seg i).hub = (s.seg i).hub ∧ ((woken s).seg i).state = (s.seg i).state := by
  by_cases hi : i < s.segs.length
  · have hseg : (woken s).seg i = wakeSegment s.time.beat (s.seg i) := seg_onSegs s (fun _ g => wakeSegment s.time.beat g) hi
    rw [hseg]
    exact wakeSegment_link _ _
  · have hseg : (woken s).seg i = s.seg i := seg_onSegs_absent s (fun _ g => wakeSegment s.time.beat g) (Nat.le_of_not_lt hi)
    rw [hseg]
    exact ⟨rfl, rfl⟩

/-- Settles O36: the writes by `expedited_acts`, the entry and the wake segment by segment. -/
theorem hush : Obligations.Hush := by
  refine ⟨?_, ?_, ?_, ?_⟩
  · intro s u cyc id p hc hu hr
    have hr' : u.unretired = true := by rw [hu, unretired_writeTaken, hr]
    have hw : exec (.hushEnter cyc p id) s = .next (State.answerWrite p (u.hushWrite (entryHead id 0x2200 0x30 0) 1 u.time.now)) :=
      expedited_acts (h := entryHead id 0x2200 0x30 0) (n := 1) hc hu rfl rfl hr' (by simp [mayReach, officerOnly, entryHead])
    refine ⟨fun hm => ?_, fun hm => ?_⟩
    · rw [hw]
      simp [State.hushWrite, hm, State.answerWrite]
    · rw [hw]
      simp [State.hushWrite, hm, State.answerWrite, refused]
  · intro s b hm ha hb
    refine ⟨hushed s, ?_, rfl, fun i d hi => ?_, fun i hi => ?_, rfl⟩
    · show execHushEntry s = _
      simp only [execHushEntry, ha, onlyIf, hm, hb, decide_true, Bool.and_true, if_true]
      rfl
    · rw [seg_hushed hi, hushSegment, module_gateHub]
      exact ⟨rfl, rfl⟩
    · rw [seg_hushed hi]
      exact ⟨rfl, rfl, rfl⟩
  · intro s u cyc id p hc hu hr
    have hr' : u.unretired = true := by rw [hu, unretired_writeTaken, hr]
    have hw : exec (.wake cyc p id) s = .next (State.answerWrite p (u.hushWrite (entryHead id 0x2200 0x30 0) 2 u.time.now)) :=
      expedited_acts (h := entryHead id 0x2200 0x30 0) (n := 1) hc hu rfl rfl hr' (by simp [mayReach, officerOnly, entryHead])
    have hpow : u.power = s.power := by
      obtain ⟨t, e, ⟨⟨E, n, ht⟩, -, -⟩, htaken⟩ := writeTaken_given s cyc p (entryHead id 0x2200 0x30 0) 2
      rw [hu, htaken, ht]
      rfl
    rw [hw, ← hpow]
    simp [State.hushWrite, State.answerWrite, State.wakeEvent]
  · intro s hh hat hno
    have hwoken : (woken s).untrained = [] := by
      rw [← hno]
      exact untrained_congr (s.onSegs_length (fun _ g => wakeSegment s.time.beat g)) rfl (seg_woken s)
    show execWakeComplete s = _
    have hexec : execWakeComplete s = .next ((woken s).untrained.foldl (fun u x => u.moduleFailed x.1 x.2 0x10 s.edge) (woken s)) := by
      simp only [execWakeComplete, onlyIf, hh, hat]
      rfl
    rw [hexec, hwoken, List.foldl_nil, woken, onSegs_const]
    rfl

end Sys2Proof.Proofs
end
section
/-! Object access: reads, writes and the ends of transfers (R308 to R320). -/

namespace Sys2Proof.Proofs

open Sys2Proof Sys2Proof.Machine

section
variable {s u : State} {p : Path} {h : OamHead} {words : List Nat}

/-- A message that reaches a live manager is done in the state in which it has been taken from its path. -/
theorem answerMsg_reached (ha : s.arrives p words = true) (hr : s.reaches_ p.ep = true) (act : State → State) :
    s.answerMsg p h words act = .next (act (s.takeIn p.ep words)) := by
  simp [State.answerMsg, onlyIf, ha, hr]

/-- A message where no live manager can be reached answers UNREACHABLE (R310). -/
theorem answerMsg_unreached (ha : s.arrives p words = true) (hr : s.reaches_ p.ep = false) (act : State → State) :
    s.answerMsg p h words act = .next ((s.takeIn p.ep words).send p.ep (abortWords h (abortCode 0xE 0))) := by
  simp [State.answerMsg, onlyIf, ha, hr]

theorem transfer_takeIn (s : State) (e d : Endpoint) (words : List Nat) (id : Nat) : (s.takeIn e words).transfer d id = s.transfer d id :=
  transfer_of_kept (transfersKept_takeIn s e words) d id

/-- A message that opens a transfer, under a TRANSFER of none, only forgets what has ended under it. -/
theorem replaceTransfer_taken (hn : ((s.takeIn p.ep words).forget p.ep h.transfer).transfer p.ep h.transfer = none) :
    (s.takeIn p.ep words).replaceTransfer p.ep h.transfer = (s.takeIn p.ep words).forget p.ep h.transfer :=
  replaceTransfer_of_none ((transfer_forget _ _ _).symm.trans hn)

theorem openTransfer_room {t : Transfer} (hroom : (u.ep p.ep).transfers.length < 4) (act : State → State) : u.openTransfer p.ep t act =
    act (u.onEp p.ep (fun x => { x with transfers := x.transfers ++ [t] })) := by
  simp [State.openTransfer, Nat.not_le.2 hroom]

/-! Reads. -/

theorem execRead_eq {b room cyc : Nat} (ha : s.arrives p (readWords h b room) = true)
    (hr : s.reaches_ p.ep = true ∨ s.servedAlone p.ep h.index = true)
    (hu : u = (s.takeIn p.ep (readWords h b room)).forget p.ep h.transfer) (hn : u.transfer p.ep h.transfer = none) :
    exec (.read cyc p h b room) s = .next ((s.takeIn p.ep (readWords h b room)).doRead p h b room) ∧
      (s.takeIn p.ep (readWords h b room)).replaceTransfer p.ep h.transfer = u := by
  refine ⟨?_, by rw [hu, replaceTransfer_taken (by rw [← hu, hn])]⟩
  show execRead cyc p h b room s = _
  unfold execRead
  rw [farPath_of_arrives ha, State.inBlockOf_here]
  by_cases hal : s.servedAlone p.ep h.index = true
  · simp [hal, onlyIf, ha]
  · rw [if_neg hal]
    exact answerMsg_reached ha (hr.resolve_right hal) _

theorem execRead_open {b room cyc : Nat} {o : Obj} (ha : s.arrives p (readWords h b room) = true)
    (hr : s.reaches_ p.ep = true ∨ s.servedAlone p.ep h.index = true)
    (hu : u = (s.takeIn p.ep (readWords h b room)).forget p.ep h.transfer) (hn : u.transfer p.ep h.transfer = none)
    (hb : u.readBar (u.principal p) h.index h.sub = none) (ho : u.object (u.principal p) h.index h.sub = some o) :
    exec (.read cyc p h b room) s = .next (u.readEntry p h b room o) := by
  obtain ⟨hexec, hrep⟩ := execRead_eq (cyc := cyc) ha hr hu hn
  rw [hexec, State.doRead]
  simp only [hrep, hb, ho]

theorem indirectOk_iff {e : Endpoint} : e.indirectOk = true ↔ e = .window ∨ e = .ringPair := by
  cases e <;> simp [Endpoint.indirectOk]

theorem transferOf_own {t : Transfer} {id : Nat} (ht : u.transfer p.ep id = some t) (hp : t.principal = u.principal p) :
    u.transferOf p id = some t := by
  simp [State.transferOf, ht, hp]

theorem transferOf_none {id : Nat} (h : (u.transfer p.ep id).all (fun t => t.principal != u.principal p) = true) : u.transferOf p id = none := by
  cases ht : u.transfer p.ep id with
  | none => simp [State.transferOf, ht]
  | some t =>
    rw [ht] at h
    simpa [State.transferOf, ht] using h

/-- A message on a transfer that has ended, or is another principal's (R316, R318, R338). -/
theorem answerEnded_none (w : Bool) (hno : ∀ d ∈ (u.ep p.ep).ended, d.id ≠ h.transfer ∨ d.principal ≠ u.principal p) :
    u.answerEnded p h w = u.send p.ep (abortWords h (abortCode 6 0)) := by
  have hfind : (u.ep p.ep).ended.find? (fun d => d.id == h.transfer && d.principal == u.principal p && d.write == w && d.toggle == h.toggle) = none := by
    refine List.find?_eq_none.2 (fun d hd => ?_)
    rcases hno d hd with h | h
    · simp [h]
    · simp [h]
  simp only [State.answerEnded, hfind]

theorem answerEnded_some {w : Bool} {d : DoneTransfer} (hfind : (u.ep p.ep).ended.find? (fun d => d.id == h.transfer &&
    d.principal == u.principal p && d.write == w && d.toggle == h.toggle) = some d) : u.answerEnded p h w = u.send p.ep d.reply := by
  simp only [State.answerEnded, hfind]

theorem execSegmentRequest_eq {cyc : Nat} (ha : s.arrives p (requestWords h) = true) (hr : s.reaches_ p.ep = true ∨ s.ofAlone p.ep h = true) :
    exec (.segmentRequest cyc p h) s = .next ((s.takeIn p.ep (requestWords h)).doRequest p h) := by
  show execSegmentRequest cyc p h s = _
  unfold execSegmentRequest
  rw [farPath_of_arrives ha, State.inBlockOf_here]
  by_cases hal : s.ofAlone p.ep h = true
  · simp [hal, onlyIf, ha]
  · rw [if_neg hal]
    exact answerMsg_reached ha (hr.resolve_right hal) _

/-- The answer to a request of an open read of its principal. -/
theorem doRequest_open {t : Transfer} (ht : u.transfer p.ep h.transfer = some t) (hp : t.principal = u.principal p) (hw : t.write = false)
    (hi : t.indirect = none) : u.doRequest p h = u.nextPiece p.ep h t := by
  simp [State.doRequest, transferOf_own ht hp, hw, hi]

end

/-- Settles O29. -/
theorem objectReads : Obligations.ObjectReads := by
  refine ⟨⟨?_, ?_, ?_⟩, ?_⟩
  · intro s u cyc p h b room code ha hr hu hn hb
    obtain ⟨hexec, hrep⟩ := execRead_eq (cyc := cyc) ha (.inl hr) hu hn
    rw [hexec, State.doRead]
    simp only [hrep, hb]
  · intro s u cyc p h b room o v ha hr hu hn hb ho hv hroom
    rw [execRead_open (cyc := cyc) ha hr hu hn hb ho, State.readEntry]
    refine ⟨fun hi he => ?_, fun hi he hne => ?_, fun hi hp hne hle => ?_, fun hi hp hp' => ?_, fun hi hp hlt => ?_⟩
    · simp [hi, he, hv]
    · have hne' : v.isEmpty = false := by simpa using hne
      simp only [← hv, hi, he, hne', openTransfer_room hroom, Bool.false_eq_true, if_false]
    · have hne' : v.isEmpty = false := by simpa using hne
      have hok := indirectOk_iff.2 hp
      simp only [← hv, hi, hok, hne', openTransfer_room hroom, Nat.not_lt.2 hle, Bool.not_true, Bool.false_eq_true, if_false, if_true]
      rfl
    · have hok : p.ep.indirectOk = false := Bool.eq_false_iff.2 (fun h => (indirectOk_iff.1 h).elim hp hp')
      simp [hi, hok]
    · simp [hi, indirectOk_iff.2 hp, ← hv, hlt]
  · intro s cyc p h b room ha hr hal
    show execRead cyc p h b room s = _
    unfold execRead
    rw [farPath_of_arrives ha, State.inBlockOf_here]
    rw [hal, if_neg Bool.false_ne_true]
    exact answerMsg_unreached ha hr _
  · intro s u cyc p h ha hr hu
    rw [execSegmentRequest_eq (cyc := cyc) ha hr, ← hu]
    refine ⟨fun t data ht hp hw hi htog hdata => ?_, fun t n ht hp hw hi htog hmoved => ?_, fun d ht hd => ?_, fun hall hno => ?_⟩
    · rw [doRequest_open ht hp hw hi, State.nextPiece]
      have hpiece : t.piece t.moved = data := hdata.symm
      refine ⟨fun hlt => ?_, fun hle => ?_⟩
      · simp [htog, hpiece, Nat.not_le.2 hlt]
      · simp [htog, hpiece, hle]
    · rw [doRequest_open ht hp hw hi, State.nextPiece]
      have hback : (t.moved - 1) / 48 * 48 = 48 * n := by omega
      have hmoved' : (t.moved == 0) = false := beq_false_of_ne (by omega)
      simp [htog, hback, hmoved', Transfer.piece]
    · simp only [State.doRequest, ht]
      rw [answerEnded_some hd]
    · simp only [State.doRequest, transferOf_none hall]
      rw [answerEnded_none false hno]

/-! Writes. -/

theorem execWriteInitiate_eq {s u : State} {cyc total source : Nat} {p : Path} {h : OamHead} {o : Obj}
    (ha : s.arrives p (writeInitWords h total source) = true) (hr : s.reaches_ p.ep = true)
    (hu : u = (s.takeIn p.ep (writeInitWords h total source)).forget p.ep h.transfer) (hn : u.transfer p.ep h.transfer = none)
    (hb : u.writeBar (u.principal p) h.index h.sub = none) (ho : u.object (u.principal p) h.index h.sub = some o) :
    exec (.writeInitiate cyc p h total source) s = .next (u.initWrite p h (total % 2 ^ 64) (source % 2 ^ 64) o) := by
  have hrep : (s.takeIn p.ep (writeInitWords h total source)).replaceTransfer p.ep h.transfer = u := by
    rw [hu, replaceTransfer_taken (by rw [← hu, hn])]
  show execWriteInitiate cyc p h total source s = _
  unfold execWriteInitiate
  rw [farPath_of_arrives ha, State.inBlockOf_here, answerMsg_reached ha hr]
  simp only [hrep, hb, ho]

theorem execSegment_eq {s u : State} {cyc offset : Nat} {data : List Nat} {p : Path} {h : OamHead}
    (ha : s.arrives p (clientSegment h offset data) = true) (hr : s.reaches_ p.ep = true) (hc : h.count = data.length) (h1 : 1 ≤ data.length)
    (h48 : data.length ≤ 48)
    (hu : u = (if h.last then (s.takeIn p.ep (clientSegment h offset data)).given ((s.takeIn p.ep (clientSegment h offset data)).stampFor cyc)
      else s.takeIn p.ep (clientSegment h offset data))) :
    exec (.segment cyc p h offset data) s = .next (u.doSegment p h (offset % 2 ^ 32) data) := by
  show execSegment cyc p h offset data s = _
  unfold execSegment
  rw [farPath_of_arrives ha, State.inBlockOf_here]
  simp only [hc, h1, h48, decide_true, beq_self_eq_true, Bool.and_self, if_true]
  rw [answerMsg_reached ha hr, hu]

/-- A SEGMENT of an open write of its principal that is not whole. -/
theorem doSegment_open {u : State} {p : Path} {h : OamHead} {offset : Nat} {data : List Nat} {t : Transfer}
    (ht : u.transfer p.ep h.transfer = some t) (hp : t.principal = u.principal p) (hw : t.write = true) (hi : t.indirect = none)
    (hno : t.whole = false) : u.doSegment p h offset data =
      if h.toggle == t.toggle then u.takeSegment p.ep h offset data t
      else if t.moved == 0 then u.send p.ep (abortWords h (abortCode 5 0))
      else (u.onTransfer p.ep t.id (fun x => { x with lastBeat := u.time.beat })).send p.ep (ackWords h 0) := by
  simp [State.doSegment, transferOf_own ht hp, hw, hi, hno]

/-- Settles O30. -/
theorem objectWrites : Obligations.ObjectWrites := by
  refine ⟨⟨?_, ?_⟩, ?_, ?_⟩
  · intro s u cyc p h data code hc hu hb
    exact expedited_barred hc hu hb
  · intro s u cyc p h data o hc hu hb ho
    have hexec : exec (.writeExpedited cyc p h data) s = .next (State.answerWrite p (u.writeEntryNow p h (data % 2 ^ 32) o u.time.now)) :=
      expedited_open hc hu hb ho
    rw [hexec, State.writeEntryNow]
    refine ⟨fun hrws hsize => ?_, fun n hsize hn => ?_⟩
    · have hok : sizeBroken o h.index h.sub (h.size + 1) = false := by simp [sizeBroken, hsize]
      simp [hsize, hok, hrws, State.answerWrite]
    · have hbad : sizeBroken o h.index h.sub (h.size + 1) = true := by simp [sizeBroken, hsize, Ne.symm hn]
      simp [hsize, hbad, State.answerWrite, refused]
  · intro s u cyc p h total source o ha hr hu hn hb ho he hh hroom
    have hload : u.loadsBarred o = false := by simp [State.loadsBarred, hh]
    rw [execWriteInitiate_eq (cyc := cyc) ha hr hu hn hb ho, State.initWrite]
    refine ⟨fun hi hle => ?_, fun hi hp hle hne => ?_, fun hi hp hp' => ?_⟩
    · simp only [hi, he, hload, openTransfer_room hroom, domainMost, Nat.not_lt.2 hle, Bool.false_and, Bool.false_eq_true, if_false]
    · have hok := indirectOk_iff.2 hp
      have hne' : (total % 2 ^ 64 == 0) = false := beq_false_of_ne hne
      simp only [hi, hok, he, hload, hne', openTransfer_room hroom, domainMost, Nat.not_lt.2 hle, Bool.not_true, Bool.and_false,
        Bool.false_eq_true, if_false, if_true]
      rfl
    · have hok : p.ep.indirectOk = false := Bool.eq_false_iff.2 (fun h => (indirectOk_iff.1 h).elim hp hp')
      simp [hi, hok]
  · intro s u cyc p h offset data ha hr hc h1 h48 hu
    rw [execSegment_eq (cyc := cyc) ha hr hc h1 h48 hu]
    refine ⟨fun t ht hp hw hi hno htog hoff hle => ?_, fun t ht hp hw hi hno htog hmoved => ?_, fun d ht hd => ?_, fun hall hno => ?_⟩
    · have htake : u.doSegment p h (offset % 2 ^ 32) data = u.takeSegment p.ep h t.moved data t := by
        rw [doSegment_open ht hp hw hi hno, hoff]
        simp [htog]
      have hlt : ¬ t.total < t.moved + data.length := Nat.not_lt.2 hle
      rw [htake, State.takeSegment]
      refine ⟨fun hl => ?_, fun o hl htot ho hsize => ?_, fun o hl htot ho => ?_⟩
      · simp [hlt, hl]
      · refine ⟨fun hrws => ?_, fun hrws => ?_⟩
        · simp [hl, State.finishWrite, ho, htot, hsize, hrws]
        · simp [hl, State.finishWrite, ho, htot, hsize, hrws]
      · simp [hlt, hl, State.finishWrite, ho, htot]
    · have hmoved' : (t.moved == 0) = false := beq_false_of_ne hmoved
      simp [doSegment_open ht hp hw hi hno, htog, hmoved']
    · simp only [State.doSegment, ht]
      rw [answerEnded_some hd]
    · simp only [State.doSegment, transferOf_none hall]
      rw [answerEnded_none true hno]

/-! Ends of transfers, and the window's registers. -/

theorem farPath_of_pathOpen {s : State} {e : Endpoint} (h : s.pathOpen e = true) : s.farPath e = false := by
  cases e with
  | i3c k =>
    simp only [State.pathOpen, Bool.and_eq_true, Bool.not_eq_true'] at h
    exact h.2
  | _ => rfl

/-- The window's queue 1 stands, but for what it owes and has answered. -/
def windowKept (s t : State) : Prop :=
  (t.ep .window).inq.words = (s.ep .window).inq.words ∧ (t.ep .window).inq.cap = (s.ep .window).inq.cap ∧
    (t.ep .window).inq.stalled = (s.ep .window).inq.stalled

theorem windowKept.refl (s : State) : windowKept s s := ⟨rfl, rfl, rfl⟩

theorem windowKept.trans {s t u : State} (a : windowKept s t) (b : windowKept t u) : windowKept s u := by
  obtain ⟨aw, ac, as⟩ := a
  obtain ⟨bw, bc, bs⟩ := b
  exact ⟨bw.trans aw, bc.trans ac, bs.trans as⟩

theorem windowKept_of_eps {s t : State} (h : t.objs.eps = s.objs.eps) : windowKept s t := by
  unfold windowKept
  rw [ep_of_objs h .window]
  exact ⟨rfl, rfl, rfl⟩

theorem windowKept_onEp (s : State) (e : Endpoint) {f : EndpointS → EndpointS} (hf : ∀ x, (f x).ep = x.ep)
    (hq : e = .window → (f (s.ep e)).inq.words = (s.ep e).inq.words ∧ (f (s.ep e)).inq.cap = (s.ep e).inq.cap ∧
      (f (s.ep e)).inq.stalled = (s.ep e).inq.stalled) : windowKept s (s.onEp e f) := by
  by_cases he : e = .window
  · have hep : (s.onEp e f).ep .window = f (s.ep e) := by rw [ep_onEp s e _ hf, if_pos he.symm, he]
    have := hq he
    unfold windowKept
    rw [hep]
    subst he
    exact this
  · have hep : (s.onEp e f).ep .window = s.ep .window := by rw [ep_onEp s e _ hf, if_neg (Ne.symm he)]
    unfold windowKept
    rw [hep]
    exact ⟨rfl, rfl, rfl⟩

theorem eps_raiseQueue (s : State) (src object : Nat) (owe : List QEvent) : (s.raiseQueue src object owe).objs = s.objs := by
  rw [(noticesOnly_raiseQueue s src object owe).1]

theorem windowKept_raiseQueue {a s : State} (h : windowKept a s) (src object : Nat) (owe : List QEvent) :
    windowKept a (s.raiseQueue src object owe) := h.trans (windowKept_of_eps (congrArg Objects.eps (eps_raiseQueue s src object owe)))

theorem windowKept_answerReads {a s : State} (h : windowKept a s) (l : List ReadAnswer) : windowKept a (s.answerReads l) :=
  h.trans (windowKept_of_eps (by rw [(noticesOnly_answerReads s l).1]))

theorem windowKept_putBack (s : State) (e : Endpoint) : windowKept s (s.putIn e (s.inQueue e)) := by
  unfold State.putIn
  refine windowKept_raiseQueue ?_ _ _ _
  cases e with
  | i3c k => exact windowKept_of_eps rfl
  | _ => exact windowKept_onEp s _ (fun _ => rfl) (fun _ => ⟨rfl, rfl, rfl⟩)

theorem windowKept_putOut (s : State) (e : Endpoint) (q : WordQ) : windowKept s (s.putOut e q) := by
  unfold State.putOut
  refine windowKept_answerReads (windowKept_raiseQueue ?_ _ _ _) _
  cases e with
  | i3c k => exact windowKept_of_eps rfl
  | _ => exact windowKept_onEp s _ (fun _ => rfl) (fun _ => ⟨rfl, rfl, rfl⟩)

/-- The latchings of cycles that are over, raised, leave the words of the window's queue. -/
theorem windowKept_closeCycles (s : State) : windowKept s s.closeCycles := by
  have owed : ∀ (l : List Endpoint) (t : State), windowKept t (l.foldl (fun t e => (t.putIn e (t.inQueue e)).putOut e
      ((t.putIn e (t.inQueue e)).outQueue e)) t) := by
    intro l
    induction l with
    | nil => exact .refl
    | cons e l ih => exact fun t => ((windowKept_putBack t e).trans (windowKept_putOut _ e _)).trans (ih _)
  have rings : ∀ (l : List (Nat × Ring)) (t : State), (l.foldl (fun t e => t.closeRing e.1) t).objs = t.objs := by
    intro l
    induction l with
    | nil => exact fun _ => rfl
    | cons e l ih => exact fun t => (ih _).trans (eps_closeRing t e.1)
  unfold State.closeCycles State.closeRings
  exact (owed _ _).trans (windowKept_of_eps (congrArg Objects.eps (rings _ _)))

theorem stalled_qTick (a : Stamp) (q : WordQ) : (qTick a q).stalled = q.stalled := by
  unfold qTick
  split
  · split
    · rfl
    · rfl
  · rfl

theorem words_qPushAlone {a : Stamp} (w : QWord) {q : WordQ} (hroom : q.words.length < q.cap) :
    (qPushAlone a w q).words = q.words ++ [w] := by
  have hroom : q.depth < q.cap := hroom
  simp only [qPushAlone, hroom, if_true]
  exact (qCross_keeps a q.depth { q with words := q.words ++ [w] }).2.1

/-- A push with room, of which no read is stalled: the word stands last (R284). -/
theorem words_qPush (a : Stamp) (data : Nat) (eor : Bool) {q : WordQ} (hs : q.stalled = []) (hroom : q.words.length < q.cap) :
    (qPush a data eor q).words = q.words ++ [{ data := data % 2 ^ 64, eor := eor, torn := (qTick a q).tornNext
                                               p := parityOf (data % 2 ^ 64) eor (qTick a q).tornNext }] := by
  obtain ⟨⟨hcap, -, -⟩, hw, -⟩ := qTick_keeps a q
  have hs' : (qTick a q).stalled = [] := (stalled_qTick a q).trans hs
  have hroom' : (qTick a q).words.length < (qTick a q).cap := by rwa [hw, hcap]
  rw [← hw]
  unfold qPush
  simp only [hs']
  split
  · split
    · rfl
    · exact words_qPushAlone (q := { qTick a q with tornNext := false, recordEvents := (qTick a q).recordEvents + flag eor, stalled := [] }) _ hroom'
  · exact words_qPushAlone (q := { qTick a q with tornNext := false, recordEvents := (qTick a q).recordEvents + flag eor, stalled := [] }) _ hroom'

theorem words_putIn_window (s : State) (q : WordQ) : ((s.putIn .window q).inQueue .window).words = q.words := by
  have hep : (s.putIn .window q).ep .window = (s.onEp .window (fun x => { x with
      inq := { q with owe := q.owe.filter (fun x => !before x.stamp s.now), answers := [] } })).ep .window :=
    ep_of_objs (congrArg Objects.eps (eps_raiseQueue _ _ _ _)) _
  show ((s.putIn .window q).ep .window).inq.words = _
  rw [hep, ep_onEp s .window .window
    (f := fun x => { x with inq := { q with owe := q.owe.filter (fun x => !before x.stamp s.now), answers := [] } }) (fun _ => rfl), if_pos rfl]

/-- A word pushed into the window's queue 1 (R311). -/
theorem pushed_window {s : State} (cyc word : Nat) (eor : Bool) (hs : (s.inQueue .window).stalled = [])
    (hroom : (s.inQueue .window).words.length < (s.inQueue .window).cap) :
    ∃ w : QWord, (((s.onCycle cyc).closeCycles.putIn .window
      (qPush (s.onCycle cyc).now word eor ((s.onCycle cyc).closeCycles.inQueue .window))).inQueue .window).words =
        (s.inQueue .window).words ++ [w] ∧ w.data = word % 2 ^ 64 ∧ w.eor = eor ∧ w.poison = false := by
  obtain ⟨hw, hcap, hst⟩ := windowKept_closeCycles (s.onCycle cyc)
  have hw : ((s.onCycle cyc).closeCycles.inQueue .window).words = (s.inQueue .window).words := hw
  have hroom' : ((s.onCycle cyc).closeCycles.inQueue .window).words.length < ((s.onCycle cyc).closeCycles.inQueue .window).cap := by
    rw [hw]
    exact lt_of_lt_of_eq hroom hcap.symm
  refine ⟨{ data := word % 2 ^ 64, eor := eor, torn := (qTick (s.onCycle cyc).now ((s.onCycle cyc).closeCycles.inQueue .window)).tornNext
            p := parityOf (word % 2 ^ 64) eor (qTick (s.onCycle cyc).now ((s.onCycle cyc).closeCycles.inQueue .window)).tornNext }, ?_, rfl, rfl, ?_⟩
  · have hst' : ((s.onCycle cyc).closeCycles.inQueue .window).stalled = [] := hst.trans hs
    rw [words_putIn_window, words_qPush _ word eor hst' hroom', hw]
  · simp [QWord.poison]

theorem putIn_frame (s : State) (cyc : Nat) (q : WordQ) : (s.onCycle cyc).closeCycles.putIn .window q =
    { s with objs := ((s.onCycle cyc).closeCycles.putIn .window q).objs, segs := ((s.onCycle cyc).closeCycles.putIn .window q).segs,
             rings := ((s.onCycle cyc).closeCycles.putIn .window q).rings, time := ((s.onCycle cyc).closeCycles.putIn .window q).time } := by
  obtain ⟨⟨E, h⟩, -, -⟩ := (queuesOnly_closeCycles (s.onCycle cyc)).trans (queuesOnly_putIn _ .window q)
  rw [h]
  rfl

/-- Settles O31. -/
theorem objectEnds : Obligations.ObjectEnds := by
  refine ⟨⟨?_, ?_, ?_⟩, ⟨?_, ?_⟩, ?_⟩
  · intro s u cyc p h code ha hu
    refine ⟨fun hr => ?_, fun hr hal => ?_⟩
    · have hexec : exec (.abort cyc p h code) s = .next (u.abortOwn p h.transfer) := by
        show execAbort cyc p h code s = _
        unfold execAbort
        rw [farPath_of_arrives ha, State.inBlockOf_here, hu]
        by_cases hal : s.ofAlone p.ep h = true
        · rw [if_pos hal, ha]
          rfl
        · rw [if_neg hal]
          exact answerMsg_reached ha (hr.resolve_right hal) _
      rw [hexec, State.abortOwn]
      refine ⟨fun hown => ?_, fun ⟨t, ht, hp⟩ => ?_⟩
      · cases ht : u.transfer p.ep h.transfer with
        | none => simp
        | some t => simp [hown t ht]
      · simp [ht, hp]
    · show execAbort cyc p h code s = _
      unfold execAbort
      rw [farPath_of_arrives ha, State.inBlockOf_here, hal, if_neg Bool.false_ne_true, hu]
      exact answerMsg_unreached ha hr _
  · intro s u cyc p h hopen hturn hst hnext hu
    show execOamReservedCmd ⟨cyc, p⟩ h s = _
    unfold execOamReservedCmd
    rw [farPath_of_pathOpen hopen, State.inBlockOf_here]
    have hnext' : (p.ep != .window || s.barredNext h) = true := by simpa [bne_iff_ne] using hnext
    simp only [hopen, hturn, hst, onlyIf, hnext', hu]
    rfl
  · intro s u cyc p h good hopen hturn hst hnext hu
    show execOamDiscard ⟨cyc, p⟩ h good s = _
    unfold execOamDiscard
    rw [farPath_of_pathOpen hopen, State.inBlockOf_here]
    have hnext' : (p.ep != .window || s.discardNext h good) = true := by simpa [bne_iff_ne] using hnext
    simp only [hopen, hturn, hst, onlyIf, hnext', hu]
    rfl
  · intro s e id t hfar hup ht hi hw hidle
    show execTransferTimeout e id s = _
    unfold execTransferTimeout
    rw [hfar, State.inBlockOf_here]
    have hok : (s.mgrUp || t.alone) = true := by simpa using hup
    simp [ht, onlyIf, hok, Transfer.idle, hi, hw, hidle]
  · intro s u cyc e id t data hfar hm ht hi hw hbusy hu
    have hexec : ∀ err : Bool, (err == t.failed) = true → (s.loadPoint t || !t.write || t.failed || data.length == t.total) = true →
        exec (.indirectTransferComplete cyc e id err data) s = .next (u.indirectDone e t (if s.loadPoint t then [] else data)) := by
      intro err herr hlen
      show execIndirectTransferComplete cyc e id err data s = _
      unfold execIndirectTransferComplete
      rw [hfar, State.inBlockOf_here]
      simp only [ht, onlyIf, hm, hi, hw, hbusy, herr, hlen, hu]
      rfl
    refine ⟨fun hf => ?_, fun hf hwr => ?_, fun o hf hwr ho ho' hsize => ⟨fun hrws hlen => ?_, fun hwo => ?_⟩⟩
    · rw [hexec true (by simp [hf]) (by simp [hf])]
      simp [State.indirectDone, hf]
    · rw [hexec false (by simp [hf]) (by simp [hwr])]
      simp [State.indirectDone, hf, hwr]
    · have hload : s.loadPoint t = false := by simp [State.loadPoint, ho, hrws]
      rw [hexec false (by simp [hf]) (by simp [hlen])]
      simp [State.indirectDone, hf, hwr, hload, State.finishWrite, ho', hsize, hrws]
    · have hload : s.loadPoint t = true := by simp [State.loadPoint, ho, hwo]
      rw [hexec false (by simp [hf]) (by simp [hload])]
      simp [State.indirectDone, hf, hwr, hload, State.finishWrite, ho', hsize, hwo]
  · intro s cyc word hm hs hroom
    refine ⟨?_, ?_⟩
    · obtain ⟨w, hw, hdata, heor, hp⟩ := pushed_window (s := s) cyc word false hs hroom
      refine ⟨_, w, ?_, hw, hdata, heor, hp, putIn_frame s cyc _⟩
      show execOwPush ⟨cyc, word⟩ s = _
      simp [execOwPush, onlyIf, hm]
    · obtain ⟨w, hw, hdata, heor, hp⟩ := pushed_window (s := s) cyc word true hs hroom
      refine ⟨_, w, ?_, hw, hdata, heor, hp, putIn_frame s cyc _⟩
      show execOwPushLast ⟨cyc, word⟩ s = _
      simp [execOwPushLast, onlyIf, hm]

end Sys2Proof.Proofs
end
section
/-! Commits (R73, R320 to R324). -/

namespace Sys2Proof.Proofs

open Sys2Proof Sys2Proof.Machine

/-- A draft whose PASS_TARGET default stands. -/
def settled (a s : State) : Prop := drafted a s ∧ s.glob.passDefault = a.glob.passDefault

theorem drafted.refl (s : State) : drafted s s := rfl

theorem settled.refl (s : State) : settled s s := ⟨rfl, rfl⟩

theorem drafted.trans {s t u : State} (a : drafted s t) (b : drafted t u) : drafted s u := by
  unfold drafted at *
  rw [b, a]

theorem drafted_fields {a s : State} (h : drafted a s) {glob parts tenants indexes span} :
    drafted a { s with glob := glob, parts := parts, tenants := tenants, indexes := indexes, span := span } := by
  unfold drafted at *
  rw [h]

theorem settled_glob {a s : State} (h : settled a s) {glob : Globals} {span : Span} (hp : glob.passDefault = s.glob.passDefault) :
    settled a { s with glob := glob, span := span } := ⟨drafted_fields h.1, hp.trans h.2⟩

theorem settled_indexes {a s : State} (h : settled a s) (indexes : List Index) : settled a { s with indexes := indexes } :=
  ⟨drafted_fields h.1, h.2⟩

theorem settled_onPart {a s : State} (h : settled a s) (p : Nat) (f : Partition → Partition) : settled a (s.onPart p f) :=
  ⟨drafted_fields h.1, h.2⟩

theorem settled_onTenant {a s : State} (h : settled a s) (t : Nat) (f : Tenant → Tenant) : settled a (s.onTenant t f) :=
  ⟨drafted_fields h.1, h.2⟩

theorem settled_ite_draft {a : State} {c : Prop} [Decidable c] {d d' : Draft} (h : settled a d.s) (h' : settled a d'.s) :
    settled a (if c then d else d').s := by
  split
  · exact h
  · exact h'

theorem settled_foldl_draft {a : State} {α : Type} {f : Draft → α → Draft} {l : List α} {d : Draft}
    (hf : ∀ d x, settled a d.s → settled a (f d x).s) (h : settled a d.s) : settled a (l.foldl f d).s := by
  induction l generalizing d with
  | nil => exact h
  | cons x l ih => exact ih (hf _ _ h)

/-! Fields that a commit sets. -/

theorem setsEntry_of_field {s : State} {index sub : Nat} {f : Field} (h : s.field index sub = some f) :
    Field.setsEntry index f ∧ f.sub = sub :=
  ⟨setsEntry_fieldsAt _ _ f (List.mem_of_find?_eq_some h), beq_iff_eq.1 (List.find?_some (p := fun f : Field => f.sub == sub) h)⟩

theorem settled_fieldSet {a s u : State} {index sub : Nat} {f : Field} (hf : u.field index sub = some f) (h : settled a s) (v : Nat)
    (hne : ¬(index = 0x2000 ∧ sub = 3)) : settled a (f.set v s) := by
  obtain ⟨hs, hsub⟩ := setsEntry_of_field hf
  obtain ⟨hd, hp⟩ := hs v s
  exact ⟨h.1.trans hd, (hp (by rwa [hsub])).trans h.2⟩

theorem settled_note {a : State} {d : Draft} (h : settled a d.s) (index : Nat) (sub : Nat) (element : Nat) (reason : Nat) (written : Nat) :
    settled a (d.note index sub element reason written).s := by
  unfold Draft.note
  exact settled_ite_draft h h

theorem settled_setTo {a : State} {d : Draft} (h : settled a d.s) (set : List (Nat × Nat × List Nat)) (index : Nat) (sub : Nat) (reason : Nat) (v
    : Nat) (hne : ¬(index = 0x2000 ∧ sub = 3) := by omega) :
    settled a (d.setTo set index sub reason v).s := by
  unfold Draft.setTo
  split
  next f hf =>
    have moved := settled_fieldSet hf h v hne
    split
    · exact h
    · split <;> exact settled_note moved _ _ _ _ _
  next => exact h

theorem settled_keep {a : State} {d : Draft} (h : settled a d.s) (set : List (Nat × Nat × List Nat)) (old : State) (index : Nat) (sub : Nat)
    (reason : Nat) (hne : ¬(index = 0x2000 ∧ sub = 3) := by omega) :
    settled a (Draft.keep set old index sub reason d).s := by
  unfold Draft.keep
  split
  · exact settled_setTo h _ _ _ _ _ hne
  · exact h

theorem settled_keepIf {a : State} {d : Draft} (h : settled a d.s) (c : Bool) (set : List (Nat × Nat × List Nat)) (old : State) (index : Nat) (sub
    : Nat) (reason : Nat) (hne : ¬(index = 0x2000 ∧ sub = 3) := by omega) :
    settled a (Draft.keepIf c set old index sub reason d).s := by
  unfold Draft.keepIf
  exact settled_ite_draft (settled_keep h _ _ _ _ _ hne) h

theorem settled_drops {a : State} {d : Draft} (h : settled a d.s) (index : Nat) (sub : Nat) (l : List Nat) :
    settled a (Draft.drops index sub l d).s := by
  unfold Draft.drops
  exact settled_foldl_draft (fun t x h => settled_note h _ _ _ _ _) h

theorem settled_peers {a : State} {d : Draft} (h : settled a d.s) (els : List (List Nat)) :
    settled a (Draft.peers els d).s := by
  unfold Draft.peers
  refine settled_drops ?_ _ _ _
  refine settled_glob h ?_
  rfl

theorem settled_windows {a : State} {d : Draft} (h : settled a d.s) (els : List (List Nat)) :
    settled a (Draft.windows els d).s := by
  unfold Draft.windows
  refine settled_drops ?_ _ _ _
  refine settled_glob h ?_
  rfl

theorem settled_localIp {a : State} {d : Draft} (h : settled a d.s) (els : List (List Nat)) :
    settled a (Draft.localIp els d).s := by
  unfold Draft.localIp
  refine settled_ite_draft (settled_note h _ _ _ _ _) (settled_ite_draft (settled_note ?_ _ _ _ _ _) ?_)
  · refine settled_glob h ?_
    rfl
  · refine settled_glob h ?_
    rfl

theorem settled_trees {a : State} {d : Draft} (h : settled a d.s) (p : Nat) (els : List (List Nat)) :
    settled a (Draft.trees p els d).s := by
  unfold Draft.trees
  exact settled_foldl_draft (fun t x h => settled_note h _ _ _ _ _) (settled_onPart h _ _)

theorem settled_dimPools {a : State} {d : Draft} (h : settled a d.s) (p : Nat) (els : List (List Nat)) :
    settled a (Draft.dimPools p els d).s := by
  unfold Draft.dimPools
  refine settled_foldl_draft (fun d x hd => settled_note hd _ _ _ _ _) ?_
  exact settled_drops (d := { d with s := d.s.onPart p _ }) (settled_onPart h _ _) _ _ _

theorem settled_packsKept {a : State} {d : Draft} (h : settled a d.s) (set : List (Nat × Nat × List Nat)) (p : Nat) :
    settled a (Draft.packsKept set p d).s := by
  unfold Draft.packsKept
  exact settled_ite_draft h (settled_foldl_draft (fun t x h => settled_note h _ _ _ _ _) (settled_onPart h _ _))

theorem settled_packs {a : State} {d : Draft} (h : settled a d.s) (p : Nat) (els : List (List Nat)) :
    settled a (Draft.packs p els d).s := by
  unfold Draft.packs
  exact settled_drops (d := { d with s := d.s.onPart p _ }) (settled_onPart h _ _) _ _ _

theorem settled_tenantTable {a : State} {d : Draft} (h : settled a d.s) (els : List (List Nat)) :
    settled a (Draft.tenantTable els d).s := by
  unfold Draft.tenantTable
  refine settled_foldl_draft (fun d x hd => ?_) h
  have filled := settled_onTenant hd x.2 (fun _ => tenantFilled (d.s.tenant x.2) (tenantOf x.1 (d.s.tenant x.2)).1)
  exact settled_ite_draft filled (settled_note (d := { d with s := _ }) filled _ _ _ _ _)

theorem settled_regions {a : State} {d : Draft} (h : settled a d.s) (els : List (List Nat)) :
    settled a (Draft.regions els d).s := by
  unfold Draft.regions
  refine settled_foldl_draft ?_ (settled_drops ?_ _ _ _)
  · intro t x h
    exact settled_note h _ _ _ _ _
  · refine settled_glob h ?_
    rfl

theorem settled_owners {a : State} {d : Draft} (h : settled a d.s) (els : List (List Nat)) :
    settled a (Draft.owners els d).s := by
  unfold Draft.owners
  refine settled_drops ?_ _ _ _
  refine settled_glob h ?_
  rfl

theorem settled_trusts {a : State} {d : Draft} (h : settled a d.s) (els : List (List Nat)) :
    settled a (Draft.trusts els d).s := by
  unfold Draft.trusts
  refine settled_drops ?_ _ _ _
  refine settled_glob h ?_
  rfl

theorem settled_domain {a : State} {d : Draft} (h : settled a d.s) (index : Nat) (sub : Nat) (data : List Nat) :
    settled a (Draft.domain index sub data d).s := by
  unfold Draft.domain
  split
  · split
    · exact settled_ite_draft (settled_peers h _) (settled_ite_draft (settled_windows h _) (settled_localIp h _))
    · exact settled_ite_draft (settled_tenantTable h _) (settled_ite_draft (settled_regions h _) (settled_ite_draft (settled_ite_draft
          (settled_owners h _) (settled_trusts h _)) (settled_ite_draft (settled_trees h _ _) (settled_ite_draft (settled_dimPools h _ _)
          (settled_packs h _ _)))))
  · exact h

theorem settled_domains {a : State} {d : Draft} (h : settled a d.s) (set : List (Nat × Nat × List Nat)) (lo : Nat) (hi : Nat) :
    settled a (Draft.domains set lo hi d).s := by
  unfold Draft.domains
  exact settled_foldl_draft (fun t x h => settled_ite_draft (settled_domain h _ _ _) h) h

theorem settled_relations2000 {a : State} {d : Draft} (h : settled a d.s) (set : List (Nat × Nat × List Nat)) (old : State) :
    settled a (relations2000 set old d).s := by
  unfold relations2000
  exact settled_keepIf (settled_keepIf (settled_keepIf h _ _ _ _ _ _) _ _ _ _ _ _) _ _ _ _ _ _

theorem settled_relations2200 {a : State} {d : Draft} (h : settled a d.s) (set : List (Nat × Nat × List Nat)) :
    settled a (relations2200 set d).s := by
  unfold relations2200
  exact settled_setTo (settled_setTo (settled_setTo h _ _ _ _ _) _ _ _ _ _) _ _ _ _ _

theorem settled_relations2400 {a : State} {d : Draft} (h : settled a d.s) (set : List (Nat × Nat × List Nat)) :
    settled a (relations2400 set d).s := by
  unfold relations2400
  exact settled_ite_draft (settled_setTo h _ _ _ _ _) h

theorem settled_restart {a : State} {d : Draft} (h : settled a d.s) (set : List (Nat × Nat × List Nat)) (old : State) (p : Nat) :
    settled a (Draft.restart set old p d).s := by
  unfold Draft.restart
  refine settled_ite_draft (settled_ite_draft (settled_ite_draft ?_ (settled_setTo ?_ _ _ _ _ _)) (settled_setTo (settled_ite_draft ?_ (settled_setTo
      ?_ _ _ _ _ _)) _ _ _ _ _)) h <;> exact settled_indexes (settled_onPart h _ _) _

theorem settled_relationsMasks {a : State} {d : Draft} (h : settled a d.s) (set : List (Nat × Nat × List Nat)) (old : State) :
    settled a (relationsMasks set old d).s := by
  unfold relationsMasks
  exact settled_foldl_draft (fun t x h => settled_restart h _ _ _) (settled_foldl_draft (fun t x h => settled_setTo h _ _ _ _ _)
      (settled_foldl_draft (fun t x h => settled_keepIf h _ _ _ _ _ _) h))

theorem settled_relationsModels {a : State} {d : Draft} (h : settled a d.s) (set : List (Nat × Nat × List Nat)) (old : State) (p : Nat) :
    settled a (relationsModels set old p d).s := by
  unfold relationsModels
  exact settled_keepIf (settled_keepIf (settled_keepIf (settled_ite_draft (settled_setTo (settled_keepIf (settled_keepIf (settled_ite_draft
      (settled_setTo h _ _ _ _ _) h) _ _ _ _ _ _) _ _ _ _ _ _) _ _ _ _ _) (settled_keepIf (settled_keepIf (settled_ite_draft (settled_setTo h _ _
      _ _ _) h) _ _ _ _ _ _) _ _ _ _ _ _)) _ _ _ _ _ _) _ _ _ _ _ _) _ _ _ _ _ _

theorem settled_relationsFloors {a : State} {d : Draft} (h : settled a d.s) (set : List (Nat × Nat × List Nat)) :
    settled a (relationsFloors set d).s := by
  unfold relationsFloors
  exact settled_foldl_draft (fun t x h => settled_setTo h _ _ _ _ _) h

theorem settled_relationsPart {a : State} {d : Draft} (h : settled a d.s) (set : List (Nat × Nat × List Nat)) (p : Nat) :
    settled a (relationsPart set p d).s := by
  unfold relationsPart
  exact settled_ite_draft (settled_setTo (settled_setTo h _ _ _ _ _) _ _ _ _ _) (settled_setTo h _ _ _ _ _)

theorem settled_setUnless {a : State} {d : Draft} (h : settled a d.s) (c : Prop) [Decidable c] (set : List (Nat × Nat × List Nat))
    (index sub reason v : Nat) (hne : ¬(index = 0x2000 ∧ sub = 3) := by omega) :
    settled a (if c then d else d.setTo set index sub reason v).s :=
  settled_ite_draft h (settled_setTo h _ _ _ _ _ hne)

theorem settled_keepWhen {a : State} {d : Draft} (h : settled a d.s) (c : Prop) [Decidable c] (set : List (Nat × Nat × List Nat)) (old : State)
    (index sub reason : Nat) (hne : ¬(index = 0x2000 ∧ sub = 3) := by omega) :
    settled a (if c then d.keep set old index sub reason else d).s :=
  settled_ite_draft (settled_keep h _ _ _ _ _ hne) h

theorem settled_relationsPolicy {a : State} {d : Draft} (h : settled a d.s) (set : List (Nat × Nat × List Nat)) (old : State) (p : Nat) :
    settled a (relationsPolicy set old p d).s :=
  settled_keepWhen (settled_keepWhen (settled_setUnless (settled_setUnless (settled_setUnless (settled_setTo (settled_setTo
    (settled_setUnless h _ _ _ _ _ _) _ _ _ _ _) _ _ _ _ _) _ _ _ _ _ _) _ _ _ _ _ _) _ _ _ _ _ _) _ _ _ _ _ _) _ _ _ _ _ _

theorem settled_lockedPolicy {a : State} {d : Draft} (h : settled a d.s) (set : List (Nat × Nat × List Nat)) (old : State) (p : Nat) :
    settled a (lockedPolicy set old p d).s := by
  unfold lockedPolicy
  exact settled_foldl_draft (fun t x h => settled_keep h _ _ _ _ _) h

theorem settled_relations5800 {a : State} {d : Draft} (h : settled a d.s) (set : List (Nat × Nat × List Nat)) :
    settled a (relations5800 set d).s := by
  unfold relations5800
  exact settled_ite_draft (settled_setTo h _ _ _ _ _) h

theorem settled_secondPass {a : State} {d : Draft} (h : settled a d.s) (set : List (Nat × Nat × List Nat)) (old : State) :
    settled a (secondPass set old d).s := by
  unfold secondPass
  exact settled_domains (settled_relations5800 (settled_foldl_draft (fun d p hd => settled_ite_draft (settled_lockedPolicy hd _ _ _)
      (settled_relationsPolicy hd _ _ _)) (settled_domains (settled_foldl_draft (fun d p hd => settled_packsKept hd _ _) (settled_foldl_draft
      (fun d p hd => settled_relationsPart hd _ _) (settled_relationsFloors (settled_foldl_draft (fun d p hd => settled_relationsModels hd _ _
      _) (settled_relationsMasks (settled_relations2400 (settled_relations2200 (settled_domains (settled_relations2000 h _ _) _ _ _) _) _) set
      old)) set))) set _ _)) set) set _ _


/-! The first pass, and what a commit leaves. -/

theorem s_note (d : Draft) (index sub element reason written : Nat) : (d.note index sub element reason written).s = d.s := by
  unfold Draft.note
  dsimp only
  split
  · rfl
  · rfl

theorem drafted_first {a : State} {d : Draft} (h : drafted a d.s) (e : Nat × Nat × List Nat) : drafted a (d.first e).s := by
  unfold Draft.first
  split
  · next f hf =>
    have moved := h.trans ((setsEntry_of_field hf).1 (f.first (ofBytesLe e.2.2)).1 d.s).1
    dsimp only
    split
    · exact moved
    · rw [s_note]
      exact moved
  · exact h

theorem drafted_firstPass (s : State) (set : List (Nat × Nat × List Nat)) : drafted s (firstPass set s).s := by
  have all : ∀ (l : List (Nat × Nat × List Nat)) (d : Draft), drafted s d.s → drafted s (l.foldl (fun d e => d.first e) d).s := by
    intro l
    induction l with
    | nil => exact fun _ h => h
    | cons e l ih => exact fun d h => ih _ (drafted_first h e)
  exact all set _ (.refl s)

theorem drafted_draft (s : State) (set : List (Nat × Nat × List Nat)) : drafted s (s.draft set).s :=
  (drafted_firstPass s set).trans (settled_secondPass (.refl _) set s).1

theorem bound_eq (lo hi v : Nat) : (bound lo hi v).1 = clampNat lo hi v := by
  unfold bound clampNat
  split
  · rfl
  · split
    · rfl
    · rfl

/-- The PASS_TARGET default of a set that stages it alone is the nearest value within its bounds (R73). -/
theorem passDefault_draft (s : State) {v : Nat} (hv : v < 2 ^ 16) :
    (s.draft [(0x2000, 0x03, bytesLe 2 v)]).s.glob.passDefault = clampNat 64 4096 v := by
  have hfield : s.field 0x2000 0x03 = some (globField 0x03 2 (bound 64 4096) (·.passDefault) (fun v g => { g with passDefault := v })) := rfl
  have hbytes : ofBytesLe (bytesLe 2 v) = v := by
    rw [ofBytesLe_bytesLe]
    exact Nat.mod_eq_of_lt hv
  have hfirst : (firstPass [(0x2000, 0x03, bytesLe 2 v)] s).s.glob.passDefault = (bound 64 4096 v).1 := by
    unfold firstPass
    rw [List.foldl_cons, List.foldl_nil]
    simp only [Draft.first, hfield, hbytes]
    split
    · rfl
    · rw [s_note]
      rfl
  unfold State.draft
  rw [(settled_secondPass (.refl _) _ s).2, hfirst, bound_eq]

/-- What follows a draft changes partitions, segments, the mirror and the free choices. -/
def laidOut (s t : State) : Prop := t = { s with parts := t.parts, segs := t.segs, mirror := t.mirror, free := t.free }

theorem laidOut.refl (s : State) : laidOut s s := rfl

theorem laidOut.trans {s t u : State} (a : laidOut s t) (b : laidOut t u) : laidOut s u := by
  unfold laidOut at *
  rw [b, a]

theorem laidOut_foldl {α : Type} {f : State → α → State} (hf : ∀ t x, laidOut t (f t x)) (l : List α) (s : State) : laidOut s (l.foldl f s) := by
  induction l generalizing s with
  | nil => exact .refl s
  | cons x l ih => exact (hf s x).trans (ih _)

theorem laidOut_layout (old s : State) (p : Nat) : laidOut s (old.layout s p) := by
  unfold State.layout
  dsimp only
  split
  · exact .refl s
  · exact rfl

theorem laidOut_given_ (old s : State) : laidOut s (old.given_ s) := by
  unfold State.given_
  refine laidOut_foldl ?_ _ _
  exact fun _ _ => rfl

theorem laidOut_replan (old s : State) : laidOut s (old.replan s) := by
  unfold State.replan
  dsimp only
  split
  · exact rfl
  · exact .refl s

theorem laidOut_mirrorCommitted (old s : State) : laidOut s (old.mirrorCommitted s) := by
  unfold State.mirrorCommitted
  dsimp only
  split
  · split
    · exact .refl s
    · have sent : s.toStandby = { s with segs := s.toStandby.segs } := by
        unfold State.toStandby
        split
        · split
          · exact control_eq _ _ _
          · rfl
        · rfl
      unfold laidOut
      rw [sent]
  · exact .refl s

/-- The state that a commit leaves from a draft, with staging sets, and the rest as another state has it. -/
noncomputable def commitLeft (s d : State) (staged : List (Principal × Nat × Nat × List Nat)) (u : State) : State :=
  { d with
    prior := some s.replaced
    segs := u.segs
    rings := u.rings
    parts := u.parts
    mirror := u.mirror
    free := u.free
    objs := { d.objs with
      commitNo := s.objs.commitNo + 1
      reports := u.objs.reports
      staged := staged
      eps := u.objs.eps
      turn := u.objs.turn } }

theorem commitLeft_of {s d x : State} {segs rings parts mirror free reports staged eps turn} (h : x = { d with
    prior := some s.replaced, segs := segs, rings := rings, parts := parts, mirror := mirror, free := free
    objs := { d.objs with commitNo := s.objs.commitNo + 1, reports := reports, staged := staged, eps := eps, turn := turn } }) :
    x = commitLeft s d staged x := by
  subst h
  rfl

/-- A commit of a set: the draft's values, the next number, and the values it has replaced (R321, R322). -/
theorem commitSet_leaves (s : State) (who : Principal) (set : List (Nat × Nat × List Nat)) (e : Stamp) :
    s.commitSet who set e = commitLeft s (s.draft set).s (s.draft set).s.objs.staged (s.commitSet who set e) := by
  have after : laidOut { (s.draft set).s with prior := some s.replaced } (s.mirrorCommitted (s.replan (s.given_
      ((List.range 15).foldl (fun t p => s.layout t p) { (s.draft set).s with prior := some s.replaced })))) :=
    (((laidOut_foldl (fun t p => laidOut_layout s t p) _ _).trans (laidOut_given_ _ _)).trans (laidOut_replan _ _)).trans
      (laidOut_mirrorCommitted _ _)
  obtain ⟨x, hx⟩ : ∃ x, x = s.commitSet who set e := ⟨_, rfl⟩
  rw [← hx]
  unfold State.commitSet at hx
  dsimp only at hx
  generalize s.mirrorCommitted (s.replan (s.given_ ((List.range 15).foldl (fun t p => s.layout t p)
    { (s.draft set).s with prior := some s.replaced }))) = v at after hx
  generalize v.segs = G, v.parts = P, v.mirror = M, v.free = F at after
  rw [laidOut] at after
  split at hx
  · rw [after] at hx
    exact commitLeft_of hx
  · obtain ⟨G', hG⟩ := State.raise_frame _ _ _ _ _ _ _ _
    rw [hG, after] at hx
    exact commitLeft_of hx

/-! Effects that read the values in force. -/

/-- A command whose effect reads the values in force, and which never fails. -/
def forced (c : Instr) : Prop := ∃ f : State → Result, (∀ t, ∃ v, f t = .next v) ∧ ∀ s, exec c s = underForce f s

theorem underForce_next {f : State → Result} {s v : State} {pr : Prior} (hp : s.prior = some pr) (hv : f (s.inForce pr) = .next v) :
    underForce f s = .next (s.putBack v) := by
  simp only [underForce, hp, hv]

/-- In two states that differ in the values committed since, the effect of such a command is the same (R322). -/
theorem forced_same {c : Instr} (hc : forced c) {s u : State} {pr : Prior} (hs : s.prior = some pr) (hu : u.prior = some pr)
    (h : u.inForce pr = s.inForce pr) : ∃ v, exec c s = .next (s.putBack v) ∧ exec c u = .next (u.putBack v) := by
  obtain ⟨f, hf, hexec⟩ := hc
  obtain ⟨v, hv⟩ := hf (s.inForce pr)
  exact ⟨v, (hexec s).trans (underForce_next hs hv), (hexec u).trans (underForce_next hu (by rw [h, hv]))⟩

theorem forced_tokenRefill : forced .tokenRefill := ⟨_, fun _ => onlyIf_next _ _ _, fun _ => rfl⟩

theorem forced_stagingAllocate (i p : Nat) (k : Cls) (n b : Nat) : forced (.stagingAllocate i p k n b) :=
  ⟨_, fun _ => onlyIf_next _ _ _, fun _ => rfl⟩

theorem forced_freeze (p : Nat) (k : Cls) : forced (.freeze p k) := by
  refine ⟨_, fun t => ?_, fun _ => rfl⟩
  dsimp only
  split
  · exact onlyIf_next _ _ _
  · exact ⟨_, rfl⟩

theorem forced_stepHang (p : Nat) (k : Cls) : forced (.stepHang p k) := by
  refine ⟨_, fun t => ?_, fun _ => rfl⟩
  dsimp only
  split
  · exact onlyIf_next _ _ _
  · exact ⟨_, rfl⟩

theorem forced_commitPoint (cyc p : Nat) (k : Cls) : forced (.commitPoint cyc p k) := by
  refine ⟨_, fun t => ?_, fun _ => rfl⟩
  dsimp only
  split
  · exact onlyIf_next _ _ _
  · exact ⟨_, rfl⟩

theorem forced_admission (p : Nat) (k : Cls) : forced (.admission p k) := by
  refine ⟨_, fun t => ?_, fun _ => rfl⟩
  split
  · exact onlyIf_next _ _ _
  · exact ⟨_, rfl⟩

theorem forced_handOver (n : Nat) : forced (.handOver n) := by
  refine ⟨_, fun t => ?_, fun _ => rfl⟩
  dsimp only
  split
  · split
    · exact onlyIf_next _ _ _
    · exact ⟨_, rfl⟩
  · exact ⟨_, rfl⟩

theorem forced_joinWaitExpiry (p : Nat) : forced (.joinWaitExpiry p) := by
  refine ⟨_, fun t => ?_, fun _ => rfl⟩
  dsimp only
  split
  · exact onlyIf_next _ _ _
  · exact onlyIf_next _ _ _
  · exact ⟨_, rfl⟩

theorem forced_resumption (p : Nat) : forced (.resumption p) := by
  refine ⟨_, fun t => ?_, fun _ => rfl⟩
  split
  · exact onlyIf_next _ _ _
  · exact ⟨_, rfl⟩

theorem forced_groupClose (n : Nat) : forced (.groupClose n) := by
  refine ⟨_, fun t => ?_, fun _ => rfl⟩
  split
  · exact onlyIf_next _ _ _
  · exact ⟨_, rfl⟩

/-- The committed entries stand where an effect on the values in force is put back. -/
theorem withEntries_putBack (s v : State) {i : Nat} (h : i < v.parts.length) :
    withEntries (s.part i) ((s.putBack v).part i) = (s.putBack v).part i := by
  have hpart : (s.putBack v).part i = withEntries (s.part i) (v.part i) := by
    simp [State.part, State.putBack, h]
  rw [hpart]
  rfl

/-! COMMIT and DISCARD. -/

theorem mem_stagedBy_unstage (s : State) (who w : Principal) :
    (s.unstage who).stagedBy w = if w = who then [] else s.stagedBy w := by
  unfold State.unstage State.stagedBy
  rw [List.filter_filter]
  split
  · next h =>
    rw [h]
    simp
  · next h =>
    congr 1
    refine List.filter_congr (fun e _ => ?_)
    by_cases he : e.1 = w
    · simp [he, h]
    · simp [he]

/-- A write of COMMIT_CONTROL that has come (R320, R321). -/
theorem exec_commitControl {s u : State} {cyc id v : Nat} {p : Path} (hc : s.writeComes p (entryHead id 0x1100 0x01 0) v)
    (hu : u = s.writeTaken cyc p (entryHead id 0x1100 0x01 0) v) (hr : s.unretired = true) :
    s.expedited cyc p (entryHead id 0x1100 0x01 0) v = .next (State.answerWrite p
      (u.commitWrite (u.principal p) (entryHead id 0x1100 0x01 0) (v % 2 ^ 32 % 2 ^ 8) u.time.now)) := by
  have hr' : (u.lifecycle == .retired) = false := by
    rw [hu, lifecycle_writeTaken]
    simpa [State.unretired] using hr
  have ho : u.object (u.principal p) 0x1100 0x01 = some { sub := 1, shape := .flag, access := .wo } := rfl
  have hb : u.writeBar (u.principal p) 0x1100 0x01 = none := by
    have hm : mayReach (u.principal p) 0x1100 = true := by cases u.principal p <;> rfl
    simp only [State.writeBar, ho, hr', hm]
    rfl
  exact expedited_open hc hu hb ho

/-- A COMMIT of a set that is not empty takes it (R321). -/
theorem commitWrite_eq {u : State} (who : Principal) (h : OamHead) (e : Stamp) (hne : u.stagedBy who ≠ []) :
    ∃ words, u.commitWrite who h 1 e = ((u.commitSet who (u.stagedBy who) e).unstage who, some words) := by
  have hempty : (u.stagedBy who).isEmpty = false := by simpa using hne
  unfold State.commitWrite
  dsimp only
  rw [hempty]
  exact ⟨_, rfl⟩

/-- A commit of a set that is not empty, answered. -/
theorem commitWrite_commits {u t : State} (who : Principal) (p : Path) (h : OamHead) (e : Stamp) (hne : u.stagedBy who ≠ [])
    (ht : t = State.answerWrite p (u.commitWrite who h 1 e)) :
    t = commitLeft u { (u.draft (u.stagedBy who)).s with objs := u.objs } (u.objs.staged.filter (fun e => e.1 != who)) t := by
  have hobjs : (u.draft (u.stagedBy who)).s.objs = u.objs := by rw [drafted_draft u (u.stagedBy who)]
  have hset := commitSet_leaves u who (u.stagedBy who) e
  obtain ⟨words, hw⟩ := commitWrite_eq who h e hne
  obtain ⟨⟨eps, turn, hsent⟩, -, -⟩ := messagesOnly_send ((u.commitSet who (u.stagedBy who) e).unstage who) p.ep words
  rw [hw] at ht
  have ht : t = State.send ((u.commitSet who (u.stagedBy who) e).unstage who) p.ep words := ht
  rw [← ht] at hsent
  generalize u.commitSet who (u.stagedBy who) e = v at hset hsent
  rw [commitLeft, hobjs] at hset
  generalize v.segs = G, v.rings = R, v.parts = P, v.mirror = M, v.free = F, v.objs.reports = N, v.objs.eps = E, v.objs.turn = T at hset
  generalize t.segs = G', t.rings = R' at hsent
  rw [hset] at hsent
  exact commitLeft_of hsent

/-- Settles O34. -/
theorem commits : Obligations.Commits := by
  refine ⟨?_, ?_, ?_⟩
  · intro s u cyc id p hc hu hr
    have hw : exec (.commit cyc p id) s = _ := exec_commitControl hc hu hr
    have hwho : u.principal p = s.principal p := by rw [hu, principal_writeTaken]
    obtain ⟨t, e, ⟨⟨E, n, ht'⟩, -, -⟩, htaken⟩ := writeTaken_given s cyc p (entryHead id 0x1100 0x01 0) 1
    have hfields : u = { s with segs := t.segs, rings := t.rings, objs := { s.objs with eps := E, turn := n }, time := u.time } := by
      rw [hu, htaken, ht']
      rfl
    have hstaged : u.stagedBy = s.stagedBy := by
      rw [hfields]
      rfl
    have hreplaced : u.replaced = s.replaced := by
      rw [hfields]
      rfl
    rw [hw, hwho]
    refine ⟨fun hne => ?_, fun v hv hone => ?_, fun hempty => ?_⟩
    · have hd := drafted_draft u (s.stagedBy (s.principal p))
      obtain ⟨x, hx⟩ : ∃ x, x = State.answerWrite p (u.commitWrite (s.principal p) (entryHead id 0x1100 0x01 0) 1 u.time.now) := ⟨_, rfl⟩
      have ht := commitWrite_commits (s.principal p) p _ _ (by rwa [hstaged]) hx
      rw [hstaged, commitLeft, hreplaced, hd] at ht
      have hby (w : Principal) := mem_stagedBy_unstage u (s.principal p) w
      unfold State.unstage at hby
      refine ⟨x, congrArg Host.Outcome.next hx.symm, ?_⟩
      rw [ht]
      refine ⟨?_, rfl, (hby _).trans (if_pos rfl), fun w hw => ((hby w).trans (if_neg hw)).trans (by rw [hstaged]), ?_, ?_, ?_, ?_⟩
      · show u.objs.commitNo + 1 = _
        rw [hfields]
      · show u.seqs = _
        rw [hfields]
      · show u.time.beat = _
        rw [hu, htaken, ht']
        rfl
      · show u.roles = _
        rw [hfields]
      · show u.pending = _
        rw [hfields]
    · obtain ⟨x, hx⟩ : ∃ x, x = State.answerWrite p (u.commitWrite (s.principal p) (entryHead id 0x1100 0x01 0) 1 u.time.now) := ⟨_, rfl⟩
      have ht := commitWrite_commits (s.principal p) p _ _ (by rw [hstaged, hone]; exact List.cons_ne_nil _ _) hx
      refine ⟨x, congrArg Host.Outcome.next hx.symm, ?_⟩
      rw [ht]
      show (u.draft (u.stagedBy (s.principal p))).s.glob.passDefault = _
      rw [hstaged, hone]
      exact passDefault_draft u hv
    · have hnil : (u.stagedBy (s.principal p)).isEmpty = true := by
        rw [hstaged, hempty]
        rfl
      show Host.Outcome.next (State.answerWrite p (u.commitWrite (s.principal p) _ 1 u.time.now)) = _
      unfold State.commitWrite
      dsimp only
      rw [hnil]
      rfl
  · intro s u pr c hs hu h hc
    have hforced : forced c := by
      rcases hc with rfl | ⟨i, p, k, n, b, rfl⟩ | ⟨p, k, rfl⟩ | ⟨p, k, rfl⟩ | ⟨cyc, p, k, rfl⟩ | ⟨p, k, rfl⟩ | ⟨n, rfl⟩ | ⟨p, rfl⟩ | ⟨p, rfl⟩ |
        ⟨n, rfl⟩
      · exact forced_tokenRefill
      · exact forced_stagingAllocate i p k n b
      · exact forced_freeze p k
      · exact forced_stepHang p k
      · exact forced_commitPoint cyc p k
      · exact forced_admission p k
      · exact forced_handOver n
      · exact forced_joinWaitExpiry p
      · exact forced_resumption p
      · exact forced_groupClose n
    obtain ⟨v, hv, hv'⟩ := forced_same hforced hs hu h
    exact ⟨v, hv, hv', rfl, fun i hi => withEntries_putBack s v hi⟩
  · intro s u cyc id p hc hu hr
    have hw : exec (.discard cyc p id) s = _ := exec_commitControl hc hu hr
    have hwho : u.principal p = s.principal p := by rw [hu, principal_writeTaken]
    rw [hw, hwho]
    rfl

end Sys2Proof.Proofs
end
section
/-! Refutation of the Trust Unit's writes: a fuse map that is sensed PROVISIONED by its third group alone. -/

namespace Sys2Proof.Proofs

open Sys2Proof Sys2Proof.Machine

/-- A session of an officer on the PCIe path. -/
def officerPath : Path := { ep := .pcie, session := some 3 }

/-- A block of two segments that are PROVISIONED, the second by the fuses of its third LIFECYCLE group; the session of an officer stands. -/
def thirdGroupBlown : State :=
  let g : Segment := { state := .serving, inReset := false, resetIn := [], port := { connected := true, trained := true },
                       trust := { lifecycle := .provisioned, lifeFuses := 0x00F } }
  { cfg := { mgrCapable := [0], connected := [0], progEnable := true }
    segs := [g, { g with trust := { g.trust with lifeFuses := 0xF00 } }]
    trust := { sessions := [{ id := 3, ep := .pcie, officer := true, established := true }] }
    power := { inReset := false, coldBoot := false, stage := 4 } }

/-- The head of the write of LIFECYCLE_ADVANCE. -/
def advanceHead : OamHead := entryHead 4 0x7000 0x02 0

theorem thirdGroupBlown_comes : thirdGroupBlown.arrives officerPath [oamWord 2 advanceHead, 2 % 2 ^ 32] = true ∧
    thirdGroupBlown.reaches_ officerPath.ep = true ∧ thirdGroupBlown.takesAlone officerPath advanceHead = false ∧
    (thirdGroupBlown.transfer officerPath.ep advanceHead.transfer).isNone = true := by decide +kernel

/-- The step answers a state in which segment 1 is in a lifecycle state. -/
def answersLifecycle (l : Lifecycle) : Result → Bool
  | .next t => (t.seg 1).trust.lifecycle == l
  | _ => false

theorem thirdGroupBlown_retires : answersLifecycle .retired (exec (.lifecycleAdvance 5 officerPath 4 2) thirdGroupBlown) = true := by
  decide +kernel

theorem thirdGroupBlown_sensed : sensedState (thirdGroupBlown.seg 1).trust.lifeFuses = .provisioned := by decide +kernel

/-- Refutes O35: LIFECYCLE_ADVANCE to SECURED blows the first two LIFECYCLE groups of a die (R329); one whose third group alone was blown is
sensed PROVISIONED before, by the number of groups blown (R328), and RETIRED after. -/
theorem not_trustWrites : ¬ Obligations.TrustWrites := by
  intro h
  obtain ⟨harr, hreach, halone, hno⟩ := thirdGroupBlown_comes
  have hcomes : thirdGroupBlown.writeComes officerPath advanceHead 2 := ⟨harr, hreach, halone, Option.isNone_iff_eq_none.mp hno⟩
  obtain ⟨hadvance, -⟩ := h
  obtain ⟨-, -, hsecured, -⟩ := hadvance thirdGroupBlown _ 5 4 2 officerPath hcomes rfl (by decide +kernel) (by decide +kernel) (by decide)
  obtain ⟨t, ht, hseg, -⟩ := hsecured (by decide +kernel) rfl rfl
  have hnow : (t.seg 1).trust.lifecycle = .secured := hseg 1 (by decide +kernel) (by decide +kernel) thirdGroupBlown_sensed
  have hretires := thirdGroupBlown_retires
  rw [ht] at hretires
  simp [answersLifecycle, hnow] at hretires

end Sys2Proof.Proofs
end
section
/-! Loads of step programs, stream tables and kernels (R51, R133, R134, R159). -/

namespace Sys2Proof.Proofs

open Sys2Proof Sys2Proof.Machine

/-! Programs. -/

section Program

variable {u : State} {p : Nat} {img : ProgramImage} {t : Transfer}

theorem loadProgram_adds (hf : u.programFault p t.total img = none) (hnew : (u.part p).program img.id = none)
    (hroom : (u.part p).programs.length < 64) : loadProgram p img t u = acceptLoad (u.onPart p (fun q => { q with programs := q.programs ++
      [{ id := img.id, image := img, wcet := u.loadedWcet img }] })) := by
  have hroom : ¬64 ≤ (u.part p).programs.length := by omega
  simp [loadProgram, hf, hnew, hroom]

theorem loadProgram_replaces {old : Program} (hf : u.programFault p t.total img = none) (hold : (u.part p).program img.id = some old)
    (hloop : (u.part p).runs img.id = false ∨ old.image.cls = img.cls) (hp : p ≠ 15) :
    loadProgram p img t u = acceptLoad (u.onPart p (fun q => { q with programs := q.programs.map (fun x =>
      if x.id == img.id then { id := img.id, image := img, wcet := u.loadedWcet img } else x) })) := by
  have hfree : ((u.part p).runs img.id && old.image.cls != img.cls) = false := by
    rcases hloop with h | h
    · simp [h]
    · simp [h]
  simp [loadProgram, hf, hold, hfree, hp]

theorem loadProgram_inUse {old : Program} (hf : u.programFault p t.total img = none) (hold : (u.part p).program img.id = some old)
    (hruns : (u.part p).runs img.id = true) (hcls : old.image.cls ≠ img.cls) : loadProgram p img t u = refuseLoad (abortCode 0xB 0) u := by
  simp [loadProgram, hf, hold, hruns, hcls]

theorem loadProgram_faulty {d : Nat} (hf : u.programFault p t.total img = some d) :
    loadProgram p img t u = refuseLoad (abortCode 9 d) u := by
  simp [loadProgram, hf, loadRefused]

end Program

/-! Streams. -/

theorem id_streamLoaded (quiet : Bool) (e : Nat) (x : StreamS) : (streamLoaded quiet e x).id = x.id := by
  unfold streamLoaded
  dsimp only
  split
  · rfl
  · split
    · rfl
    · split
      · rfl
      · rfl

theorem streamLoaded_unused (quiet : Bool) (e : Nat) {x : StreamS} (h : x.used = false) :
    streamLoaded quiet e x = { x with init := BitVec.ofNat 32 e, s := BitVec.ofNat 32 e } := by
  simp [streamLoaded, h]

/-- The streams with another identifier than an entry's are those that there were. -/
theorem mem_putStream_other {quiet : Bool} {l : List StreamS} {e : Nat} {x : StreamS} (h : teStream e ≠ x.id) :
    x ∈ putStream quiet l e ↔ x ∈ l := by
  unfold putStream
  dsimp only
  split
  · rw [List.mem_map]
    constructor
    · rintro ⟨y, hy, rfl⟩
      split
      · next he =>
        rw [if_pos he, id_streamLoaded] at h
        exact absurd (beq_iff_eq.mp he).symm h
      · exact hy
    · intro hx
      exact ⟨x, hx, if_neg (fun he => h (beq_iff_eq.mp he).symm)⟩
  · rw [mem_insertBy]
    constructor
    · rintro (rfl | hx)
      · rw [id_streamLoaded] at h
        exact absurd rfl h
      · exact hx
    · exact Or.inr

/-- An entry whose stream is not in use puts its scale there. -/
theorem putStream_puts (quiet : Bool) {l : List StreamS} {e : Nat} (h : ∀ x ∈ l, x.id = teStream e → x.used = false) :
    ∃ x ∈ putStream quiet l e, x.id = teStream e ∧ x.init = BitVec.ofNat 32 e ∧ x.s = BitVec.ofNat 32 e := by
  unfold putStream
  dsimp only
  split
  · next hany =>
    obtain ⟨x, hx, hid⟩ := List.any_eq_true.mp hany
    have hid := beq_iff_eq.mp hid
    refine ⟨_, List.mem_map_of_mem hx, ?_⟩
    rw [if_pos (beq_iff_eq.mpr hid), streamLoaded_unused quiet e (h x hx hid)]
    exact ⟨hid, rfl, rfl⟩
  · refine ⟨_, mem_insertBy.mpr (Or.inl rfl), ?_⟩
    rw [streamLoaded_unused quiet e rfl]
    exact ⟨rfl, rfl, rfl⟩

theorem mem_putStreams_other {quiet : Bool} {entries : List Nat} {l : List StreamS} {x : StreamS} (h : ∀ e ∈ entries, teStream e ≠ x.id) :
    x ∈ entries.foldl (putStream quiet) l ↔ x ∈ l := by
  induction entries generalizing l with
  | nil => rfl
  | cons e entries ih =>
    rw [List.foldl_cons, ih (fun e he => h e (List.mem_cons_of_mem _ he)), mem_putStream_other (h e List.mem_cons_self)]

/-- Each entry whose stream was not in use puts its scale there, the entries naming different streams. -/
theorem putStreams_put (quiet : Bool) {entries : List Nat} {l : List StreamS} (hnd : (entries.map teStream).Nodup) {e : Nat} (he : e ∈ entries)
    (h : ∀ x ∈ l, x.id = teStream e → x.used = false) :
    ∃ x ∈ entries.foldl (putStream quiet) l, x.id = teStream e ∧ x.init = BitVec.ofNat 32 e ∧ x.s = BitVec.ofNat 32 e := by
  induction entries generalizing l with
  | nil => cases he
  | cons a entries ih =>
    rw [List.map_cons, List.nodup_cons] at hnd
    obtain ⟨ha, hnd⟩ := hnd
    rw [List.foldl_cons]
    rcases List.mem_cons.mp he with rfl | he
    · obtain ⟨x, hx, hid, hval⟩ := putStream_puts quiet h
      refine ⟨x, (mem_putStreams_other fun b hb hbx => ha ?_).mpr hx, hid, hval⟩
      rw [← hid, ← hbx]
      exact List.mem_map_of_mem hb
    · refine ih hnd he (fun x hx hid => ?_)
      have hne : teStream a ≠ x.id := fun h => ha (by rw [h, hid]; exact List.mem_map_of_mem he)
      exact h x ((mem_putStream_other hne).mp hx) hid

theorem loadStreams_puts {u : State} {p : Nat} {entries : List Nat} {t : Transfer} (htotal : t.total = 8 * entries.length)
    (hlen : entries.length ≤ 4096) (hstands : streamTableStands p entries = true) :
    ∃ quiet, loadStreams p entries t u = acceptLoad (u.onPart p (fun q => { q with streams := entries.foldl (putStream quiet) q.streams })) := by
  have hlen : ¬4096 < entries.length := by omega
  exact ⟨_, by simp [loadStreams, htotal, hlen, hstands]; rfl⟩

/-! Kernels. -/

theorem loadKernel_adds {u : State} {p : Nat} {img : KernelImage} {t : Transfer} (hsig : img.sigOk = true) (hnew : (u.part p).kernel img.id = none)
    (hlen : (u.part p).kernels.length < 256)
    (hroom : sumNat ((u.part p).kernels.map (fun x => kib x.bytes)) + kib img.bytes ≤ storeKib p) :
    loadKernel p img t u = acceptLoad (u.onPart p (fun q => { q with
      kernels := insertBy (fun a b => a.id < b.id)
        { id := img.id, abi := img.abi, bytes := img.bytes, digest := Config.sha384 img.content } q.kernels })) := by
  have hlen : ¬256 ≤ (u.part p).kernels.length := by omega
  have hroom : ¬storeKib p < sumNat ((u.part p).kernels.map (fun x => kib x.bytes)) + kib img.bytes := by omega
  simp [loadKernel, hsig, hnew, hlen, hroom]

theorem loadKernel_unsigned {u : State} {p : Nat} {img : KernelImage} {t : Transfer} (hsig : img.sigOk = false) :
    loadKernel p img t u = refuseLoad (abortCode 0xA 0) u := by
  simp [loadKernel, hsig]

/-- Settles O32: each load answers by its frame (`load_of_accepts`, `load_of_refuses`); entries of a stream table name different streams, so
that what one puts the others leave (`putStreams_put`, `mem_putStreams_other`). -/
theorem partitionLoads : Obligations.PartitionLoads := by
  refine ⟨?_, ?_, ?_⟩
  · intro s u cyc path id p img t hc hu
    refine ⟨fun hf hnew hroom => load_of_accepts hc hu (loadProgram_adds hf hnew hroom), fun old hf hold => ⟨fun hloop hp => ?_, fun hruns hcls => ?_⟩,
      fun d hf => load_of_refuses hc hu (loadProgram_faulty hf)⟩
    · exact load_of_accepts hc hu (loadProgram_replaces hf hold hloop hp)
    · exact load_of_refuses hc hu (loadProgram_inUse hf hold hruns hcls)
  · intro s u cyc path id p entries t hc hu hp htotal hlen hstands
    obtain ⟨quiet, hload⟩ := loadStreams_puts (u := u) htotal hlen hstands
    have hpart : u.part p = s.part p := by
      rw [hu]
      rfl
    have hstreams := State.part_onPart_eq (s := u) (f := fun q => { q with streams := entries.foldl (putStream quiet) q.streams })
      (show p < u.parts.length by rw [hu]; exact hp)
    refine ⟨_, load_of_accepts hc hu hload, fun e he hunused => ?_, fun x hx hnone => ?_, ?_, rfl⟩
    · rw [hstreams]
      refine putStreams_put quiet ?_ he (by rwa [hpart])
      unfold streamTableStands at hstands
      simpa using (Bool.and_eq_true_iff.mp hstands).2
    · rw [hstreams]
      exact (mem_putStreams_other hnone).mpr (by rwa [hpart])
    · rw [hstreams]
  · intro s u cyc path id p img t hc hu
    exact ⟨fun hsig hnew hlen hroom => load_of_accepts hc hu (loadKernel_adds hsig hnew hlen hroom),
      fun hsig => load_of_refuses hc hu (loadKernel_unsigned hsig)⟩

end Sys2Proof.Proofs
end
section
/-! Identity: MCTP control, I3C addresses and provisioning (R310, R329, R412, R419). -/

namespace Sys2Proof.Proofs

open Sys2Proof Sys2Proof.Machine

theorem eid_onEp (s : State) (d e : Endpoint) {f : EndpointS → EndpointS} (hf : ∀ x, (f x).ep = x.ep) (hid : ∀ x, (f x).eid = x.eid) :
    ((s.onEp d f).ep e).eid = (s.ep e).eid := by
  rw [ep_onEp s d e hf]
  split
  · exact hid _
  · rfl

/-- What is put into an outbound queue leaves the endpoint IDs. -/
theorem eid_putOut (s : State) (d e : Endpoint) (q : WordQ) : ((s.putOut d q).ep e).eid = (s.ep e).eid := by
  have hput (t : State) (q' : WordQ) (n m : Nat) : (((t.raiseQueue n m q'.owe).answerReads q'.answers).ep e).eid = (t.ep e).eid := by
    unfold State.ep
    rw [(noticesOnly_answerReads _ _).1, (noticesOnly_raiseQueue t _ _ _).1]
  unfold State.putOut
  rw [hput]
  cases d with
  | i3c k => rfl
  | _ => exact eid_onEp s _ e (fun _ => rfl) (fun _ => rfl)

/-- An endpoint of MCTP keeps its ID when it sends. -/
theorem eidOf_send (s : State) {e : Endpoint} (he : e.mctp = true) (words : List Nat) : (s.send e words).eidOf e = s.eidOf e := by
  obtain ⟨-, -, hseg⟩ := messagesOnly_send s e words
  cases e with
  | pcie => exact eid_putOut s .pcie .pcie _
  | i3c k =>
    show ((s.send (.i3c k) words).seg k).trust.eid = _
    rw [hseg k]
    rfl
  | _ => cases he

theorem eidOf_setEid {s : State} {e : Endpoint} (hup : s.mctpUp e = true) (n : Nat) : (s.setEid e n).eidOf e = n % 256 := by
  cases e with
  | pcie =>
    have h := ep_onEp s .pcie .pcie (f := fun x => { x with eid := n % 256 }) (fun _ => rfl)
    exact congrArg EndpointS.eid (h.trans (if_pos rfl))
  | i3c k =>
    have hk : s.hasSeg k = true := (Bool.and_eq_true_iff.mp hup).1
    have h := s.seg_onSeg_eq (i := k) (f := fun g => { g with trust := { g.trust with eid := n % 256 } }) hk
    exact congrArg (fun g => g.trust.eid) h
  | _ => cases hup

theorem mctp_of_mctpUp {s : State} {e : Endpoint} (hup : s.mctpUp e = true) : e.mctp = true ∧ s.farPath e = false := by
  cases e with
  | pcie => exact ⟨rfl, rfl⟩
  | i3c k => exact ⟨rfl, (Bool.not_eq_true' _).mp (Bool.and_eq_true_iff.mp hup).2⟩
  | _ => cases hup

theorem setEid_fields (s : State) (e : Endpoint) (n : Nat) :
    ∃ E, s.setEid e n = { s with segs := (s.setEid e n).segs, objs := { s.objs with eps := E } } := by
  unfold State.setEid
  split
  · exact ⟨s.objs.eps, rfl⟩
  · exact ⟨_, rfl⟩

/-! Fuses (R328, R419). -/

/-- A group of LIFECYCLE fuses above the first stands where the first is blown. -/
theorem maskBits_group_or (f : Nat) {k : Nat} (hk : 0 < k) : maskBits 4 ((f ||| 15) / 16 ^ k) = maskBits 4 (f / 16 ^ k) := by
  have hpow : (16 : Nat) ^ k = 2 ^ (4 * k) := by
    rw [Nat.pow_mul]
  unfold maskBits
  refine List.filter_congr (fun i _ => ?_)
  rw [hpow, Nat.testBit_div_two_pow, Nat.testBit_div_two_pow, Nat.testBit_or]
  have h15 : Nat.testBit 15 (i + 4 * k) = false := Nat.testBit_lt_two_pow (calc
    15 < 2 ^ 4 := by decide
    _ ≤ 2 ^ (i + 4 * k) := Nat.pow_le_pow_right (by decide) (by omega))
  rw [h15, Bool.or_false]

theorem maskBits_first_or (f : Nat) : (maskBits 4 ((f ||| 15) / 16 ^ 0)).length = 4 := by
  have hall : maskBits 4 ((f ||| 15) / 16 ^ 0) = List.range 4 := by
    refine List.filter_eq_self.mpr (fun i hi => ?_)
    have h15 : Nat.testBit 15 i = true := by
      have hi := List.mem_range.mp hi
      interval_cases i <;> rfl
    rw [pow_zero, Nat.div_one, Nat.testBit_or, h15, Bool.or_true]
  rw [hall]
  rfl

/-- A die of which no group was blown is sensed PROVISIONED with its first. -/
theorem sensedState_first {f : Nat} (h : sensedState f = .blank) : sensedState (f ||| 15) = .provisioned := by
  have hnone : ((List.range 3).filter (fun k => 3 ≤ (maskBits 4 (f / 16 ^ k)).length)) = [] := by
    unfold sensedState at h
    split at h
    · next hlen => exact List.length_eq_zero_iff.mp hlen
    all_goals cases h
  have hgroup (k : Nat) (hk : k < 3) : ¬3 ≤ (maskBits 4 (f / 16 ^ k)).length := by
    have := List.filter_eq_nil_iff.mp hnone k (List.mem_range.mpr hk)
    simpa using this
  have hone : ((List.range 3).filter (fun k => 3 ≤ (maskBits 4 ((f ||| 15) / 16 ^ k)).length)) = [0] := by
    have h1 := hgroup 1 (by decide)
    have h2 := hgroup 2 (by decide)
    rw [← maskBits_group_or f (by decide)] at h1 h2
    simp only [List.range_succ, List.range_zero, List.nil_append, List.cons_append, List.filter_cons, maskBits_first_or, h1, h2]
    rfl
  unfold sensedState
  rw [hone]
  rfl

/-- What the three writes of identity data do (R329, R412). -/
theorem exec_entdaa (i a : Nat) (s : State) : exec (.entdaa i a) s = execEntdaa i a s := rfl
theorem exec_setdasa (i b a : Nat) (s : State) : exec (.setdasa i b a) s = execSetdasa i b a s := rfl
theorem exec_provisioning (i : Nat) (d : ProvData) (s : State) : exec (.provisioning i d) s = execProvisioning i d s := rfl

/-- Settles O40. -/
theorem identities : Obligations.Identities := by
  refine ⟨?_, ?_, ?_, ?_⟩
  · intro s ep n hup
    obtain ⟨hmctp, hnear⟩ := mctp_of_mctpUp hup
    have here (f : State → State) : s.inBlockOf (s.farPath ep) (fun s => onlyIf (s.mctpUp ep) (f s) s) = .next (f s) := by
      rw [hnear, State.inBlockOf_here]
      simp only [hup, onlyIf]
      rfl
    refine ⟨⟨_, here (fun s => (s.setEid ep n).mctpReply ep 1 [n % 256]), rfl, ?_⟩, here (fun s => s.mctpReply ep 2 [s.eidOf ep]),
      here (fun s => s.mctpReply ep (256 + n % 256) []), here (fun s => s.mctpReply ep 4 [0x7F]),
      here (fun s => s.mctpReply ep (512 + n % 256) [0x5A52])⟩
    obtain ⟨E, hset⟩ := setEid_fields s ep n
    obtain ⟨⟨F, m, hsent⟩, -, -⟩ := messagesOnly_send (s.setEid ep n) ep ([n % 256] ++ Config.mctpContents 1)
    refine ⟨(eidOf_send _ hmctp _).trans (eidOf_setEid hup n), ?_⟩
    unfold State.mctpReply
    rw [hsent, hset]
    exact ⟨rfl, rfl, rfl, rfl⟩
  · intro s i a b hi hnear hnone
    have hseg : ((s.onSeg i (addressed a)).seg i).trust = { (s.seg i).trust with i3cAddr := some (a % 128) } := by
      rw [State.seg_onSeg_eq _ _ hi]
      rfl
    have hothers : othersKept i s (s.onSeg i (addressed a)) := fun j hj => State.seg_onSeg_ne _ _ hj
    refine ⟨⟨_, ?_, hseg, hothers, rfl⟩, fun hb hb0 => ⟨_, ?_, hseg, hothers, rfl⟩, fun hb => ?_⟩
    · simp [exec_entdaa, execEntdaa, hnear, State.inBlockOf, hi, hnone, onlyIf]
    · simp [exec_setdasa, execSetdasa, hnear, State.inBlockOf, hi, hnone, hb, hb0, onlyIf]
    · have hb : (b == (s.seg i).trust.i3cStatic) = false := beq_eq_false_iff_ne.mpr (Ne.symm hb)
      simp [exec_setdasa, execSetdasa, hnear, State.inBlockOf, hb, onlyIf]
  · intro s i d hi hnear hblank hen
    have hseg := State.seg_onSeg_eq s (provisioned (s.mgrDie i) d) hi
    refine ⟨s.onSeg i (provisioned (s.mgrDie i) d), ?_, ?_⟩
    · simp [exec_provisioning, execProvisioning, hnear, State.inBlockOf, hi, hblank, hen, onlyIf]
    rw [hseg]
    refine ⟨?_, fun hsensed => ?_, fun hdie => ?_, fun hdie => ?_, fun j hj => State.seg_onSeg_ne _ _ hj, rfl⟩
    · unfold provisioned
      cases s.mgrDie i with
      | true => rfl
      | false => rfl
    · unfold provisioned
      cases s.mgrDie i with
      | true => exact sensedState_first hsensed
      | false => exact sensedState_first hsensed
    · rw [hdie]
      exact ⟨rfl, rfl, rfl⟩
    · rw [hdie]
      exact ⟨rfl, rfl, rfl⟩
  · intro s i d hi hnear hnot
    rcases hnot with h | h
    · have h : ((s.seg i).trust.lifecycle == .blank) = false := beq_eq_false_iff_ne.mpr h
      simp [exec_provisioning, execProvisioning, hnear, State.inBlockOf, h, onlyIf]
    · simp [exec_provisioning, execProvisioning, hnear, State.inBlockOf, h, onlyIf]

end Sys2Proof.Proofs
end
section
/-! Resets and the way out of them (R332, R387 to R393, R400). -/

namespace Sys2Proof.Proofs

open Sys2Proof Sys2Proof.Machine

/-! The segments of both blocks. -/

theorem length_allSegs (s : State) : s.allSegs.length = s.segs.length := by
  unfold State.allSegs takeHalf
  split
  · rw [List.length_mapIdx]
  · rfl

/-- A segment as its block holds it, in split mode. -/
theorem segOf_split {s : State} {b : Block} (hb : s.other = some b) (i : Nat) :
    s.segOf i = if i < s.segs.length ∧ s.roles.farHalf.contains i = true then b.segs.getD i (s.seg i) else s.seg i := by
  unfold State.segOf State.allSegs takeHalf State.seg
  simp only [hb]
  by_cases hi : i < s.segs.length
  · simp [hi, List.getD_eq_getElem?_getD]
  · simp [hi]

theorem segOf_whole {s : State} (h : s.other = none) (i : Nat) : s.segOf i = s.seg i := by
  unfold State.segOf
  rw [s.allSegs_whole h]
  rfl

/-- A segment of the block that runs. -/
theorem segOf_near {s : State} {i : Nat} (h : s.inSecond i = false) : s.segOf i = s.seg i := by
  cases hb : s.other with
  | none => exact segOf_whole hb i
  | some b =>
    have hfar : s.roles.farHalf.contains i = false := by simpa [State.inSecond, hb] using h
    rw [segOf_split hb, hfar]
    simp

theorem seg_of_allSegs {s t : State} {f : Segment → Segment} (ht : t.segs = s.allSegs.map f) (hf : f {} = {}) (i : Nat) :
    t.seg i = f (s.segOf i) := by
  unfold State.seg State.segOf
  rw [ht]
  conv_lhs => rw [← hf]
  exact List.getD_map ..

theorem resetSegment_default (warm : Bool) : resetSegment warm {} = {} := by cases warm <;> rfl

theorem seg_coldReset (s : State) (i : Nat) : s.coldReset.seg i = resetSegment false (s.segOf i) :=
  seg_of_allSegs rfl (resetSegment_default _) i

theorem seg_warmReset (s : State) (i : Nat) : s.warmReset.seg i = resetSegment true (s.segOf i) :=
  seg_of_allSegs rfl (resetSegment_default _) i

/-! Bring-up. -/

/-- A segment as it leaves reset, or as it stands in reset, its keys made anew or not. -/
def released (g h : Segment) : Prop :=
  h = { g with state := h.state, inReset := h.inReset, joinDeadline := h.joinDeadline
               trust := { g.trust with identity := h.trust.identity, stackKeys := h.trust.stackKeys } }

theorem released.refl (g : Segment) : released g g := rfl

theorem released.trans {g h k : Segment} (a : released g h) (b : released h k) : released g k := by
  unfold released at *
  rw [b, a]

theorem released_freshStackKeys (free : Nat) (parts : List Nat) (i : Nat) (g : Segment) : released g (freshStackKeys free parts i g) := by
  unfold freshStackKeys
  dsimp only
  split
  · exact rfl
  · exact .refl g

theorem state_freshStackKeys (free : Nat) (parts : List Nat) (i : Nat) (g : Segment) :
    (freshStackKeys free parts i g).state = g.state ∧ (freshStackKeys free parts i g).inReset = g.inReset ∧
      (freshStackKeys free parts i g).joinDeadline = g.joinDeadline := by
  unfold freshStackKeys
  dsimp only
  split
  · exact ⟨rfl, rfl, rfl⟩
  · exact ⟨rfl, rfl, rfl⟩

/-- A segment at bring-up: it leaves reset unless an input holds it. -/
noncomputable def broughtUp (beat i : Nat) (g : Segment) : Segment := if !g.resetIn.isEmpty then g else releaseSegment beat i g

theorem released_broughtUp (beat i : Nat) (g : Segment) : released g (broughtUp beat i g) := by
  unfold broughtUp
  split
  · exact .refl g
  · exact rfl

theorem coldKeys_eq (s : State) : s.coldKeys = { s.onSegs (fun i g => freshStackKeys s.free (s.ownersOf i) i g) with
    trust := { s.trust with envKeys := if (s.seg s.mgr).trust.lifecycle.keyed then freshEnvKeys s.free else List.replicate 16 {} }
    free := s.free + 400 } := rfl

/-- The state at bring-up before keys are made. -/
noncomputable def blockUp (s : State) : State := s.onSegs (broughtUp s.time.beat)

/-- The envelope and dim keys at bring-up (R332). -/
noncomputable def bootKeys (s : State) : List EnvKey :=
  if s.power.coldBoot then
    if (s.seg s.mgr).trust.lifecycle.keyed then freshEnvKeys s.free else List.replicate 16 {}
  else s.trust.envKeys

/-- What bring-up leaves of the block (R390). -/
theorem bringUp_leaves (s : State) : ∃ segs free, s.bringUp = { s with
    segs := segs, free := free, trust := { s.trust with envKeys := (bootKeys s) }
    power := { s.power with inReset := false, gongOut := false, coldBoot := false, stage := 0 } } := by
  have hmgr : ((blockUp s).seg s.mgr).trust.lifecycle = (s.seg s.mgr).trust.lifecycle := by
    unfold blockUp
    by_cases hi : s.mgr < s.segs.length
    · rw [seg_onSegs s _ hi, released_broughtUp s.time.beat s.mgr (s.seg s.mgr)]
    · rw [seg_onSegs_absent s _ (by omega)]
  unfold State.bringUp bootKeys
  dsimp only
  split
  · next hcold =>
    have hcold : s.power.coldBoot = true := hcold
    rw [if_pos hcold, ← hmgr]
    exact ⟨_, _, rfl⟩
  · next hcold =>
    have hcold : ¬s.power.coldBoot = true := hcold
    rw [if_neg hcold]
    exact ⟨_, _, rfl⟩

/-- What bring-up leaves of each segment (R390, R393). -/
theorem seg_bringUp (s : State) (i : Nat) : released (s.seg i) (s.bringUp.seg i) ∧
    (s.hasSeg i = true → (s.bringUp.seg i).state = (broughtUp s.time.beat i (s.seg i)).state ∧
      (s.bringUp.seg i).inReset = (broughtUp s.time.beat i (s.seg i)).inReset ∧
      (s.bringUp.seg i).joinDeadline = (broughtUp s.time.beat i (s.seg i)).joinDeadline) := by
  have hsegs : ∃ w : State, (w = (blockUp s) ∨ w = (blockUp s).coldKeys) ∧ s.bringUp.seg i = w.seg i := by
    unfold State.bringUp
    dsimp only
    split
    · exact ⟨_, Or.inr rfl, rfl⟩
    · exact ⟨_, Or.inl rfl, rfl⟩
  obtain ⟨w, hw, hseg⟩ := hsegs
  rw [hseg]
  by_cases hi : i < s.segs.length
  · have hup : (blockUp s).seg i = broughtUp s.time.beat i (s.seg i) := seg_onSegs s _ hi
    rcases hw with rfl | rfl
    · rw [hup]
      exact ⟨released_broughtUp _ _ _, fun _ => ⟨rfl, rfl, rfl⟩⟩
    · have hlen : i < (blockUp s).segs.length := by
        unfold blockUp
        rw [State.onSegs_length]
        exact hi
      have hkeys : (blockUp s).coldKeys.seg i = freshStackKeys s.free ((blockUp s).ownersOf i) i (broughtUp s.time.beat i (s.seg i)) :=
        by
        refine (seg_onSegs (blockUp s) (fun i g => freshStackKeys s.free ((blockUp s).ownersOf i) i g) hlen).trans ?_
        rw [hup]
      rw [hkeys]
      exact ⟨(released_broughtUp _ _ _).trans (released_freshStackKeys _ _ _ _), fun _ => state_freshStackKeys _ _ _ _⟩
  · have hnone : ¬s.hasSeg i = true := by simpa [State.hasSeg] using hi
    have hup : (blockUp s).seg i = s.seg i := seg_onSegs_absent s _ (by omega)
    have hlen : (blockUp s).segs.length ≤ i := by
      unfold blockUp
      rw [State.onSegs_length]
      omega
    have hkeys : (blockUp s).coldKeys.seg i = s.seg i := 
      (seg_onSegs_absent (blockUp s) (fun i g => freshStackKeys s.free ((blockUp s).ownersOf i) i g) hlen).trans hup
    rcases hw with rfl | rfl
    · rw [hup]
      exact ⟨.refl _, fun h => absurd h hnone⟩
    · rw [hkeys]
      exact ⟨.refl _, fun h => absurd h hnone⟩

theorem freshEnvKeys_get (free : Nat) {q : Nat} (hq : q < 15) : ∃ k, (freshEnvKeys free)[q]? = some k ∧ k.curId = 1 ∧ k.curEpoch = 1 ∧
    k.prevId = 0 ∧ k.prevEpoch = 0 := by
  have h15 : q ≠ 15 := by omega
  have h16 : q < 16 := by omega
  simp [freshEnvKeys, h16, h15]

/-- The keys that a cold bring-up of a keyed block makes (R332). -/
theorem bootKeys_cold {s : State} (hcold : s.power.coldBoot = true)
    (hkeyed : (s.seg s.mgr).trust.lifecycle = .provisioned ∨ (s.seg s.mgr).trust.lifecycle = .secured) :
    (bootKeys s) = freshEnvKeys s.free := by
  have hk : (s.seg s.mgr).trust.lifecycle.keyed = true := by
    rcases hkeyed with h | h
    · rw [h]
      rfl
    · rw [h]
      rfl
  simp [bootKeys, hcold, hk]

/-! Releases of reset inputs. -/

/-- A segment whose reset input is released. -/
noncomputable def inputReleased (k : ResetInput) (g : Segment) : Segment := { g with resetIn := g.resetIn.filter (· != k) }

theorem execResetRelease_eq {s : State} {i : Nat} {k : ResetInput} (hi : s.hasSeg i = true) (hnear : s.inSecond i = false)
    (hk : k ∈ (s.seg i).resetIn) : exec (.resetRelease k i) s = .next
      (if s.power.inReset then
        if (s.onSeg i (inputReleased k)).blockHeld || s.power.gongOut then s.onSeg i (inputReleased k) else (s.onSeg i (inputReleased k)).bringUp
      else if ((s.onSeg i (inputReleased k)).seg i).resetIn.isEmpty && ((s.onSeg i (inputReleased k)).seg i).state == .held then
        (s.onSeg i (inputReleased k)).segReleased i
      else s.onSeg i (inputReleased k)) := by
  have hk : (s.seg i).resetIn.contains k = true := List.contains_iff_mem.mpr hk
  show execResetRelease k i s = _
  unfold execResetRelease
  rw [hnear, State.inBlockOf_here]
  simp only [hi, hk, onlyIf]
  rfl

theorem seg_inputReleased (s : State) (i j : Nat) (k : ResetInput) : ((s.onSeg i (inputReleased k)).seg j).state = (s.seg j).state ∧
    ((s.onSeg i (inputReleased k)).seg j).inReset = (s.seg j).inReset ∧
    ((s.onSeg i (inputReleased k)).seg j).trust = (s.seg j).trust :=
  seg_onSeg_of (P := fun g h => h.state = g.state ∧ h.inReset = g.inReset ∧ h.trust = g.trust) s i _ (fun _ => ⟨rfl, rfl, rfl⟩) ⟨rfl, rfl, rfl⟩ j

theorem othersKept_stackKeysAt (s : State) (i : Nat) : othersKept i s (s.stackKeysAt i) := by
  intro j hj
  unfold State.stackKeysAt
  split
  · exact s.seg_onSeg_ne _ hj
  · rfl

theorem stackKeysAt_eq (s : State) (i : Nat) : s.stackKeysAt i = { s with segs := (s.stackKeysAt i).segs, free := (s.stackKeysAt i).free } := by
  unfold State.stackKeysAt
  split
  · rfl
  · rfl

theorem released_stackKeysAt (s : State) (i : Nat) : ((s.stackKeysAt i).seg i).state = (s.seg i).state ∧
    ((s.stackKeysAt i).seg i).inReset = (s.seg i).inReset ∧ ((s.stackKeysAt i).seg i).joinDeadline = (s.seg i).joinDeadline := by
  unfold State.stackKeysAt
  split
  · exact seg_onSeg_of (P := fun g h => h.state = g.state ∧ h.inReset = g.inReset ∧ h.joinDeadline = g.joinDeadline) s i _
      (fun _ => ⟨rfl, rfl, rfl⟩) (state_freshStackKeys _ _ _ _) i
  · exact ⟨rfl, rfl, rfl⟩

/-- Settles O38: bring-up by what it leaves of the block (`bringUp_leaves`) and of each segment (`seg_bringUp`). -/
theorem resetReleases : Obligations.ResetReleases := by
  refine ⟨?_, ?_, ?_⟩
  · intro s u i k hi hnear hreset hk hu
    have hexec := execResetRelease_eq hi hnear hk
    rw [show s.onSeg i (inputReleased k) = u from hu.symm, hreset, if_pos rfl] at hexec
    have hseg (j : Nat) : (u.seg j).state = (s.seg j).state ∧ (u.seg j).inReset = (s.seg j).inReset ∧ (u.seg j).trust = (s.seg j).trust := by
      rw [hu]
      exact seg_inputReleased s i j k
    have hfields : u = { s with segs := u.segs } := by
      rw [hu]
      rfl
    refine ⟨fun hheld => ?_, fun hheld hgong => ⟨u.bringUp, ?_, ?_⟩⟩
    · rw [hexec, if_pos (by simpa using hheld)]
    · rw [hexec, hheld, hgong]
      rfl
    obtain ⟨segs, free, hup⟩ := bringUp_leaves u
    have hmgr : (u.seg u.mgr).trust.lifecycle = s.lifecycle := by
      rw [(hseg u.mgr).2.2, hfields]
      rfl
    refine ⟨?_, fun j hj => ?_, fun hwarm => ?_, fun hcold hkeyed q hq => ?_, ?_⟩
    · have hpower : u.power = s.power := by rw [hfields]
      rw [hup]
      dsimp only
      rw [hpower, hgong]
    · have hju : u.hasSeg j = true := by
        rw [hu]
        simpa [State.hasSeg, State.onSeg_length] using hj
      obtain ⟨hstate, hin, hdeadline⟩ := (seg_bringUp u j).2 hju
      rw [hstate, hin, hdeadline]
      unfold broughtUp
      refine ⟨fun hnone => ?_, fun hsome => ?_⟩
      · rw [if_neg (by rw [hnone]; decide)]
        exact ⟨rfl, rfl, by rw [hfields]; rfl⟩
      · have hheld' : (!(u.seg j).resetIn.isEmpty) = true := by simpa using hsome
        rw [if_pos hheld']
        exact ⟨(hseg j).1, (hseg j).2.1⟩
    · have hkeys : bootKeys u = u.trust.envKeys := if_neg (by rw [hfields]; simp [hwarm])
      rw [hup, hkeys]
      show u.trust = _
      rw [hfields]
    · obtain ⟨e, he, hid, hepoch, -⟩ := freshEnvKeys_get u.free hq
      have hkeys : bootKeys u = freshEnvKeys u.free := bootKeys_cold (by rw [hfields]; exact hcold) (by rwa [hmgr])
      rw [hup, hkeys]
      exact ⟨e, he, hid, hepoch⟩
    · rw [hup, hfields]
  · intro s u i k hi hnear hreset hk hu
    have hexec := execResetRelease_eq hi hnear hk
    rw [show s.onSeg i (inputReleased k) = u from hu.symm, hreset, if_neg (by decide)] at hexec
    have hstate : (u.seg i).state = (s.seg i).state := by
      rw [hu]
      exact (seg_inputReleased s i i k).1
    refine ⟨fun hstays => ?_, fun hnone hheld => ⟨u.segReleased i, ?_, ?_⟩⟩
    · rw [hexec, if_neg ?_]
      rcases hstays with h | h
      · simp [h]
      · simp [hstate, h]
    · rw [hexec, if_pos ?_]
      simp [hnone, hstate, hheld]
    have hiu : u.hasSeg i = true := by
      rw [hu]
      simpa [State.hasSeg, State.onSeg_length] using hi
    obtain ⟨hjoins, hleaves, hdeadline⟩ := released_stackKeysAt (u.onSeg i (releaseSegment u.time.beat i)) i
    rw [u.seg_onSeg_eq _ hiu] at hjoins hleaves hdeadline
    refine ⟨hjoins, hleaves, hdeadline.trans ?_, fun j hj => ?_, ?_⟩
    · rw [hu]
      rfl
    · refine (othersKept_stackKeysAt _ i j hj).trans ((u.seg_onSeg_ne _ hj).trans ?_)
      rw [hu]
      exact s.seg_onSeg_ne _ hj
    · unfold State.segReleased
      rw [stackKeysAt_eq, hu]
      rfl
  · intro s hreset hgong hfeed hrails
    have hready : s.segs.all (railReady s.glob.clearBt s.edge) = true := by
      refine List.all_eq_true.mpr (fun g hg => ?_)
      unfold railReady railReadable
      rcases hrails g hg with h | h
      · simp [h]
      · simp [h]
    have hexec : exec .gongResetRelease s = .next (if !s.blockHeld then s.bringUp else s) := by
      show execGongResetRelease s = _
      simp [execGongResetRelease, onlyIf, hreset, hgong, hfeed, hready]
    refine ⟨fun hheld => ?_, fun hheld => ⟨s.bringUp, ?_, ?_⟩⟩
    · rw [hexec, hheld]
      rfl
    · rw [hexec, hheld]
      rfl
    · obtain ⟨segs, free, hup⟩ := bringUp_leaves s
      rw [hup]
      exact ⟨rfl, rfl⟩

end Sys2Proof.Proofs
end
section
/-! What each reset keeps and loses (R387 to R389, R400). -/

namespace Sys2Proof.Proofs

open Sys2Proof Sys2Proof.Machine

/-! Segments of their own. -/

theorem dropStandby_roles (s : State) (i : Nat) : ∃ standby candidate mirror, s.dropStandby i =
    { s with roles := { s.roles with standby := standby, candidate := candidate }, mirror := mirror } := by
  unfold State.dropStandby
  split
  · exact ⟨_, _, _, rfl⟩
  · split
    · exact ⟨_, _, _, rfl⟩
    · exact ⟨s.roles.standby, s.roles.candidate, s.mirror, rfl⟩

theorem segs_dropStandby (s : State) (i : Nat) : (s.dropStandby i).segs = s.segs := by
  obtain ⟨standby, candidate, mirror, h⟩ := dropStandby_roles s i
  rw [h]

theorem seg_dropStandby (s : State) (i j : Nat) : (s.dropStandby i).seg j = s.seg j := by
  unfold State.seg
  rw [segs_dropStandby]

theorem resetAlone_of_not_lost {f : Segment → Segment} {g : Segment} (h : g.state ≠ .lost) : resetAlone f g = f g := by
  simp [resetAlone, h]

theorem resetAlone_lost {f : Segment → Segment} {g : Segment} (h : g.state = .lost) :
    resetAlone f g = { f g with state := .lost, lostReason := g.lostReason, inReset := true } := by
  simp [resetAlone, h]

/-- A reset of a segment of its own that does not serve. -/
theorem segResets_idle {s : State} {i : Nat} (f : Segment → Segment) (h : (s.seg i).state ≠ .serving) :
    s.segResets i f = (s.dropStandby i).onSeg i (resetAlone f) := by
  simp [State.segResets, h]

theorem segResets_serving {s : State} {i : Nat} (f : Segment → Segment) (h : (s.seg i).state = .serving) :
    s.segResets i f = (((s.given (s.stampFor 0)).segsLeave [i] .stepLost (s.stampFor 0)).dropStandby i).onSeg i (resetAlone f) := by
  simp [State.segResets, h]

theorem execPowerOnReset_alone {s : State} {i : Nat} (hi : s.hasSeg i = true) (hnear : s.inSecond i = false) (hm : i ≠ s.mgr)
    (hreset : s.power.inReset = false) : exec (.powerOnReset i) s = .next (s.segResets i powerOnSegment) := by
  show execPowerOnReset i s = _
  simp [execPowerOnReset, hnear, State.inBlockOf, onlyIf, hi, hm, hreset]

theorem execWarmReset_alone {s : State} {i : Nat} (hi : s.hasSeg i = true) (hnear : s.inSecond i = false) (hm : i ≠ s.mgr)
    (hreset : s.power.inReset = false) : exec (.warmReset i) s = .next (s.segResets i warmSegment) := by
  show execWarmReset i s = _
  simp [execWarmReset, hnear, State.inBlockOf, onlyIf, hi, hm, hreset]

theorem execPowerOnReset_manager {s : State} (hm : s.hasSeg s.mgr = true) (hnear : s.inSecond s.mgr = false) :
    exec (.powerOnReset s.mgr) s = .next (s.powerOn.onSeg s.mgr powerOnSegment) := by
  show execPowerOnReset s.mgr s = _
  simp [execPowerOnReset, hnear, State.inBlockOf, onlyIf, hm]

theorem execColdReset_eq {s : State} {i : Nat} (hi : s.hasSeg i = true) (hnear : s.inSecond i = false) :
    exec (.coldReset i) s = .next (s.coldReset.onSeg i (holdInput .cold)) := by
  show execColdReset i s = _
  simp [execColdReset, hnear, State.inBlockOf, onlyIf, hi]

theorem execWarmReset_manager {s : State} (hm : s.hasSeg s.mgr = true) (hnear : s.inSecond s.mgr = false) (hreset : s.power.inReset = false) :
    exec (.warmReset s.mgr) s = .next (s.warmReset.onSeg s.mgr (holdInput .warm)) := by
  show execWarmReset s.mgr s = _
  simp [execWarmReset, hnear, State.inBlockOf, onlyIf, hm, hreset]

theorem execWarmReset_held {s : State} {i : Nat} (hi : s.hasSeg i = true) (hnear : s.inSecond i = false) (hreset : s.power.inReset = true) :
    exec (.warmReset i) s = .next (s.onSeg i (holdInput .warm)) := by
  show execWarmReset i s = _
  simp [execWarmReset, hnear, State.inBlockOf, onlyIf, hi, hreset]

theorem mem_holdInput (k : ResetInput) (g : Segment) : k ∈ (holdInput k g).resetIn := by
  unfold holdInput
  dsimp only
  split
  · next h => exact List.contains_iff_mem.mp h
  · exact List.mem_append_right _ List.mem_cons_self

theorem holdInput_eq (k : ResetInput) (g : Segment) : holdInput k g = { g with resetIn := (holdInput k g).resetIn } := rfl

/-- An input held changes nothing of a segment but the inputs that hold it. -/
theorem seg_onSeg_holdInput (s : State) (i j : Nat) (k : ResetInput) :
    (s.onSeg i (holdInput k)).seg j = { s.seg j with resetIn := ((s.onSeg i (holdInput k)).seg j).resetIn } :=
  seg_onSeg_of (P := fun g h => h = { g with resetIn := h.resetIn }) s i _ (fun _ => rfl) rfl j

/-! Writes of RESET_CONTROL. -/

theorem messaged_segOf {s u : State} (h : messagesOnly s u) (i : Nat) : messaged (s.segOf i) (u.segOf i) := by
  obtain ⟨⟨E, n, hu⟩, hlen, hseg⟩ := h
  have hother : u.other = s.other := by rw [hu]
  cases hb : s.other with
  | none =>
    rw [segOf_whole hb, segOf_whole (hother.trans hb)]
    exact hseg i
  | some b =>
    have hroles : u.roles = s.roles := by rw [hu]
    rw [segOf_split hb, segOf_split (hother.trans hb), hlen, hroles]
    split
    · next h =>
      rw [List.getD_eq_getElem?_getD, List.getD_eq_getElem?_getD]
      cases b.segs[i]? with
      | none => exact hseg i
      | some g => exact .refl g
    · exact hseg i

/-- What the state in which a write has been taken keeps. -/
theorem writeTaken_keeps {s u : State} {cyc v : Nat} {p : Path} {h : OamHead} (hu : u = s.writeTaken cyc p h v) :
    (∃ E n, u = { s with segs := u.segs, rings := u.rings, objs := { s.objs with eps := E, turn := n }, time := u.time }) ∧
      u.time.beat = s.time.beat ∧ u.time.acquired = s.time.acquired ∧ (∀ i, messaged (s.segOf i) (u.segOf i)) ∧ u.segs.length = s.segs.length := by
  obtain ⟨t, e, hm, hw⟩ := writeTaken_given s cyc p h v
  have hsegs (i : Nat) : messaged (s.segOf i) (u.segOf i) := by
    rw [hu, hw]
    exact messaged_segOf hm i
  obtain ⟨⟨E, n, ht⟩, hlen, -⟩ := hm
  refine ⟨⟨E, n, ?_⟩, ?_, ?_, hsegs, ?_⟩
  · rw [hu, hw, ht]
    rfl
  · rw [hu, hw, ht]
    rfl
  · rw [hu, hw, ht]
    rfl
  · rw [hu, hw]
    exact hlen

/-- A write of RESET_CONTROL that has come. -/
theorem exec_resetWrite {s u : State} {cyc v : Nat} {p : Path} (hc : s.writeComes p (entryHead 0 0x2200 0x31 0) v)
    (hu : u = s.writeTaken cyc p (entryHead 0 0x2200 0x31 0) v) (hr : s.unretired = true) :
    s.expedited cyc p (entryHead 0 0x2200 0x31 0) v = .next (State.answerWrite p (u.resetWrite (entryHead 0 0x2200 0x31 0) (v % 2 ^ 32 % 2 ^ 8))) := by
  have hr' : u.unretired = true := by
    rw [hu, unretired_writeTaken]
    exact hr
  refine expedited_acts (n := 1) hc hu ?_ rfl hr' ?_
  · rfl
  · cases u.principal p <;> rfl

theorem enable_warmRings (l : List (Nat × Ring)) : ∀ e ∈ warmRings l, e.2.enable = false := by
  intro e he
  obtain ⟨x, -, rfl⟩ := List.mem_map.mp (List.mem_filter.mp he).1
  rfl

theorem seg_bringUp_warmReset (s : State) (i : Nat) : released (resetSegment true (s.segOf i)) (s.warmReset.bringUp.seg i) := by
  rw [← seg_warmReset]
  exact (seg_bringUp _ i).1

theorem seg_bringUp_coldReset (s : State) (i : Nat) : released (resetSegment false (s.segOf i)) (s.coldReset.bringUp.seg i) := by
  rw [← seg_coldReset]
  exact (seg_bringUp _ i).1

/-- Settles O37. -/
theorem resets : Obligations.Resets := by
  refine ⟨?_, ?_, ?_, ?_, ?_, ?_, ?_, ?_⟩
  · intro s cyc p hc hr hwarm
    obtain ⟨u, hu⟩ : ∃ u, u = s.writeTaken cyc p (entryHead 0 0x2200 0x31 0) 1 := ⟨_, rfl⟩
    obtain ⟨⟨E, n, hfields⟩, hbeat, hacq, hsegs, hlen⟩ := writeTaken_keeps hu
    obtain ⟨segs, free, hup⟩ := bringUp_leaves u.warmReset
    have hkeys : bootKeys u.warmReset = s.trust.envKeys := by
      have hpower : ¬(resetPower false u.power).coldBoot = true := by
        rw [hfields]
        simp [resetPower, hwarm]
      refine (if_neg hpower).trans ?_
      rw [hfields]
      rfl
    refine ⟨u.warmReset.bringUp, exec_resetWrite hc hu hr, ?_⟩
    have hseg (i : Nat) : (u.warmReset.bringUp.seg i).stack.mem = (s.segOf i).stack.mem ∧ (u.warmReset.bringUp.seg i).staging = [] ∧
        (u.warmReset.bringUp.seg i).trust.lifecycle = (s.segOf i).trust.lifecycle ∧
        (u.warmReset.bringUp.seg i).ma0.remap = (s.segOf i).ma0.remap := by
      rw [seg_bringUp_warmReset u i, hsegs i]
      exact ⟨rfl, rfl, rfl, rfl⟩
    have htenants : u.tenants = s.tenants := by rw [hfields]
    have hglob : u.glob = s.glob := by rw [hfields]
    have hscreen : u.screen = s.screen := by rw [hfields]
    have hpending : u.pending = s.pending := by rw [hfields]
    exact ⟨congrArg (·.power.stage) hup, congrArg (·.power.inReset) hup, congrArg State.seqs hup, congrArg State.handles hup,
      (congrArg State.tenants hup).trans htenants, (congrArg State.glob hup).trans hglob, (congrArg State.screen hup).trans hscreen,
      (congrArg (·.trust.envKeys) hup).trans hkeys, (congrArg (·.time.beat) hup).trans hbeat,
      (congrArg State.rings hup).symm ▸ enable_warmRings u.rings, hseg, congrArg State.other hup, (congrArg State.pending hup).trans hpending⟩
  · intro s cyc p hc hr
    obtain ⟨u, hu⟩ : ∃ u, u = s.writeTaken cyc p (entryHead 0 0x2200 0x31 0) 2 := ⟨_, rfl⟩
    obtain ⟨⟨E, n, hfields⟩, hbeat, hacq, hsegs, hlen⟩ := writeTaken_keeps hu
    obtain ⟨segs, free, hup⟩ := bringUp_leaves u.coldReset
    refine ⟨u.coldReset.bringUp, exec_resetWrite hc hu hr, ?_⟩
    have hseg (i : Nat) : (u.coldReset.bringUp.seg i).stack.mem = [] ∧ (u.coldReset.bringUp.seg i).staging = [] ∧
        (u.coldReset.bringUp.seg i).trust.lifecycle = (s.segOf i).trust.lifecycle ∧
        (u.coldReset.bringUp.seg i).ma0.remap = (s.segOf i).ma0.remap := by
      rw [seg_bringUp_coldReset u i, hsegs i]
      exact ⟨rfl, rfl, rfl, rfl⟩
    have hpending : u.pending = s.pending := by rw [hfields]
    refine ⟨congrArg (·.power.stage) hup, congrArg (·.power.inReset) hup, congrArg State.seqs hup, congrArg State.handles hup,
      congrArg State.tenants hup, congrArg State.rings hup, congrArg State.glob hup, (congrArg (·.time.beat) hup).trans hbeat,
      fun hkeyed q hq => ?_, hseg, (congrArg State.pending hup).trans hpending⟩
    · rw [hup]
      have hfirst : (u.coldReset.seg u.coldReset.mgr).trust.lifecycle = (s.segOf 0).trust.lifecycle := by
        rw [seg_coldReset, hsegs]
        rfl
      show ∃ k, (bootKeys u.coldReset)[q]? = some k ∧ _
      rw [bootKeys_cold rfl (by rwa [hfirst])]
      exact freshEnvKeys_get _ hq
  · intro s hm hnear
    refine ⟨_, execPowerOnReset_manager hm hnear, ?_⟩
    have hat : s.powerOn.hasSeg s.mgr = true := by
      have hlen : s.powerOn.segs.length = s.segs.length := (List.length_map _).trans (length_allSegs s)
      unfold State.hasSeg
      rw [hlen]
      exact hm
    have hseg (i : Nat) : s.powerOn.seg i = resetSegment false (s.segOf i) := seg_coldReset s i
    have hmgr : (s.powerOn.onSeg s.mgr powerOnSegment).seg s.mgr = powerOnSegment (resetSegment false (s.segOf s.mgr)) := by
      rw [State.seg_onSeg_eq _ _ hat, hseg]
    refine ⟨rfl, rfl, rfl, rfl, rfl, rfl, rfl, rfl, fun i => ?_, ?_, ?_, ?_, ?_, rfl⟩
    · refine seg_onSeg_of (P := fun g h => g.stack.mem = [] → h.stack.mem = []) s.powerOn s.mgr powerOnSegment (fun _ h => h) (fun _ => rfl) i ?_
      rw [hseg]
      rfl
    all_goals rw [hmgr]; rfl
  · intro s i hi hnear hm hreset
    show execPowerOnReset i s = _
    simp [execPowerOnReset, hnear, State.inBlockOf, onlyIf, hi, hm, hreset]
  · intro s i hi hnear hm hreset
    have hpower := execPowerOnReset_alone hi hnear hm hreset
    have hwarm := execWarmReset_alone hi hnear hm hreset
    have hdrop : (s.dropStandby i).hasSeg i = true := by
      unfold State.hasSeg
      rw [segs_dropStandby]
      exact hi
    refine ⟨fun hserving hlost => ?_, fun hlost => ?_, fun hserving => ?_⟩
    · have halone (f : Segment → Segment) : s.segResets i f = (s.dropStandby i).onSeg i f := by
        rw [segResets_idle f hserving]
        refine State.onSeg_congr _ _ _ _ (resetAlone_of_not_lost ?_)
        rwa [seg_dropStandby]
      exact ⟨hpower.trans (by rw [halone]), hwarm.trans (by rw [halone])⟩
    · have hidle : (s.seg i).state ≠ .serving := by simp [hlost]
      have hseg (f : Segment → Segment) : (s.segResets i f).seg i = { f (s.seg i) with state := .lost, lostReason := (s.seg i).lostReason, inReset := true } := by
        rw [segResets_idle f hidle, State.seg_onSeg_eq _ _ hdrop, seg_dropStandby, resetAlone_lost hlost]
      have hothers (f : Segment → Segment) : othersKept i s (s.segResets i f) := fun j hj => by
        rw [segResets_idle f hidle, State.seg_onSeg_ne _ _ hj, seg_dropStandby]
      refine ⟨_, _, hpower, hwarm, ?_, ?_, ?_, ?_, ?_, ?_, hothers _, hothers _⟩
      · rw [hseg]
      · rw [hseg]
      · rw [hseg]
        rfl
      · rw [hseg]
      · rw [hseg]
      · rw [hseg]
        exact mem_holdInput .warm (resetSegment true (s.seg i))
    · rw [hpower, hwarm, segResets_serving _ hserving, segResets_serving _ hserving]
      exact ⟨rfl, rfl⟩
  · intro s i hi hnear
    refine ⟨_, execColdReset_eq hi hnear, rfl, rfl, ?_, rfl, rfl, rfl, rfl, rfl, rfl, fun j => ?_, rfl⟩
    · have hat : s.coldReset.hasSeg i = true := by
        have hlen : s.coldReset.segs.length = s.segs.length := (List.length_map _).trans (length_allSegs s)
        unfold State.hasSeg
        rw [hlen]
        exact hi
      rw [State.seg_onSeg_eq _ _ hat]
      exact mem_holdInput _ _
    · rw [seg_onSeg_holdInput, seg_coldReset]
      exact ⟨rfl, rfl⟩
  · intro s hm hnear hreset
    refine ⟨_, execWarmReset_manager hm hnear hreset, rfl, ?_, rfl, rfl, rfl, rfl, rfl, rfl, enable_warmRings _, fun j => ?_, rfl⟩
    · have hat : s.warmReset.hasSeg s.mgr = true := by
        have hlen : s.warmReset.segs.length = s.segs.length := (List.length_map _).trans (length_allSegs s)
        unfold State.hasSeg
        rw [hlen]
        exact hm
      rw [State.seg_onSeg_eq _ _ hat]
      exact mem_holdInput _ _
    · rw [seg_onSeg_holdInput, seg_warmReset]
      exact ⟨rfl, rfl⟩
  · intro s i hi hnear hreset
    exact execWarmReset_held hi hnear hreset

end Sys2Proof.Proofs
end
section
/-! The always-on domain (R388). -/

namespace Sys2Proof.Proofs

open Sys2Proof Sys2Proof.Machine

theorem alwaysOn_refl (g : Segment) : alwaysOnKept g g := ⟨rfl, rfl, rfl, rfl, rfl, rfl, rfl, rfl, rfl, rfl, rfl, rfl⟩

theorem alwaysOn_trans {g h k : Segment} (a : alwaysOnKept g h) (b : alwaysOnKept h k) : alwaysOnKept g k := by
  unfold alwaysOnKept at *
  simp only [a, b, and_self]

theorem alwaysOnKept_of_work {g h : Segment} (a : workSeg g h) : alwaysOnKept g h := by
  rw [show h = _ from a]
  exact alwaysOn_refl g

theorem alwaysOnKept_of_messaged {g h : Segment} (a : messaged g h) : alwaysOnKept g h := by
  rw [show h = _ from a]
  exact alwaysOn_refl g

theorem alwaysOnKept_of_released {g h : Segment} (a : released g h) : alwaysOnKept g h := by
  rw [show h = _ from a]
  exact alwaysOn_refl g

theorem alwaysOnKept_resetSegment (warm : Bool) (g : Segment) : alwaysOnKept g (resetSegment warm g) :=
  ⟨rfl, rfl, rfl, rfl, rfl, rfl, rfl, rfl, rfl, rfl, rfl, rfl⟩

theorem alwaysOnKept_holdInput (k : ResetInput) (g : Segment) : alwaysOnKept g (holdInput k g) := alwaysOn_refl g

theorem alwaysOnKept_warmSegment (g : Segment) : alwaysOnKept g (warmSegment g) :=
  alwaysOn_trans (alwaysOnKept_resetSegment true g) (alwaysOnKept_holdInput .warm _)

theorem alwaysOnKept_resetAlone {f : Segment → Segment} {g : Segment} (h : alwaysOnKept g (f g)) : alwaysOnKept g (resetAlone f g) := by
  unfold resetAlone
  split
  · exact h
  · exact h

theorem alwaysOnKept_preparedSegment (g : Segment) : alwaysOnKept g (preparedSegment g) := by
  unfold preparedSegment
  split
  · exact alwaysOn_refl g
  · exact alwaysOnKept_resetSegment true g

theorem alwaysOnKept_joinAgain (beat i : Nat) (g : Segment) : alwaysOnKept g (joinAgain beat i g) := by
  unfold joinAgain
  split
  · exact alwaysOn_refl g
  · exact alwaysOnKept_resetSegment true g

/-- The always-on domain of each segment stands, and the beat with it; the block and its halves are those that there were. -/
def domainKept (s t : State) : Prop :=
  (∀ j, alwaysOnKept (s.seg j) (t.seg j)) ∧ t.time.beat = s.time.beat ∧ t.time.acquired = s.time.acquired ∧ t.other = s.other ∧
    t.roles.farHalf = s.roles.farHalf ∧ t.glob = s.glob ∧ t.segs.length = s.segs.length

theorem domainKept.refl (s : State) : domainKept s s := ⟨fun _ => alwaysOn_refl _, rfl, rfl, rfl, rfl, rfl, rfl⟩

theorem domainKept.trans {s t u : State} (a : domainKept s t) (b : domainKept t u) : domainKept s u := by
  obtain ⟨ag, ab, aa, ao, ar, aglob, al⟩ := a
  obtain ⟨bg, bb, ba, bo, br, bglob, bl⟩ := b
  exact ⟨fun j => alwaysOn_trans (ag j) (bg j), bb.trans ab, ba.trans aa, bo.trans ao, br.trans ar, bglob.trans aglob, bl.trans al⟩

theorem domainKept_onSeg (s : State) (i : Nat) {f : Segment → Segment} (hf : alwaysOnKept (s.seg i) (f (s.seg i))) : domainKept s (s.onSeg i f) :=
  ⟨seg_onSeg_of s i f alwaysOn_refl hf, rfl, rfl, rfl, rfl, rfl, s.onSeg_length _ _⟩

theorem domainKept_onSegs (s : State) {f : Nat → Segment → Segment} (hf : ∀ i g, alwaysOnKept g (f i g)) : domainKept s (s.onSegs f) := by
  refine ⟨fun j => ?_, rfl, rfl, rfl, rfl, rfl, State.onSegs_length _ _⟩
  rcases Nat.lt_or_ge j s.segs.length with hj | hj
  · rw [seg_onSegs s f hj]
    exact hf j _
  · rw [seg_onSegs_absent s f hj]
    exact alwaysOn_refl _

theorem domainKept_foldl {α : Type} {f : State → α → State} (hf : ∀ t x, domainKept t (f t x)) (l : List α) (s : State) :
    domainKept s (l.foldl f s) := by
  induction l generalizing s with
  | nil => exact .refl s
  | cons x l ih => exact (hf s x).trans (ih _)

theorem domainKept_of_messages {s t : State} (h : messagesOnly s t) : domainKept s t := by
  obtain ⟨⟨E, n, ht⟩, hlen, hseg⟩ := h
  refine ⟨fun j => alwaysOnKept_of_messaged (hseg j), ?_, ?_, ?_, ?_, ?_, hlen⟩
  all_goals rw [ht]

theorem domainKept_of_work {s t : State} (h : workOnly s t) : domainKept s t := by
  obtain ⟨ht, hlen, hseg, -⟩ := h
  refine ⟨fun j => alwaysOnKept_of_work (hseg j), ?_, ?_, ?_, ?_, ?_, hlen⟩
  all_goals rw [ht]

theorem domainKept_raise (s : State) (src code scope seg part : Nat) (e : Stamp) (d : Nat) :
    domainKept s (s.raise src code scope seg part e d) :=
  domainKept_of_messages (messagesOnly_of_queues (queuesOnly_of_notices (noticesOnly_raise s _ _ _ _ _ _ _)))

theorem domainKept_dropStandby (s : State) (i : Nat) : domainKept s (s.dropStandby i) := by
  obtain ⟨standby, candidate, mirror, h⟩ := dropStandby_roles s i
  rw [h]
  exact .refl s

theorem domainKept_segResets (s : State) (i : Nat) {f : Segment → Segment} (hf : ∀ g, alwaysOnKept g (f g)) : domainKept s (s.segResets i f) := by
  have leaves : domainKept s (if (s.seg i).state == .serving then (s.given (s.stampFor 0)).segsLeave [i] .stepLost (s.stampFor 0) else s) := by
    split
    · have given : domainKept s (s.given (s.stampFor 0)) := .refl s
      exact given.trans (domainKept_of_work (workOnly_segsLeave (.refl _) _ _ _))
    · exact .refl s
  exact (leaves.trans (domainKept_dropStandby _ i)).trans (domainKept_onSeg _ i (alwaysOnKept_resetAlone (hf _)))

theorem domainKept_farPrepared (s : State) (far : List Nat) (e : Stamp) : domainKept s (s.farPrepared far e) := by
  refine (domainKept_onSegs s fun i g => ?_).trans (domainKept_foldl (fun t i => domainKept_raise _ _ _ _ _ _ _ _) _ _)
  split
  · exact alwaysOnKept_preparedSegment g
  · exact alwaysOn_refl g

theorem domainKept_stackKeysAt (s : State) (i : Nat) : domainKept s (s.stackKeysAt i) := by
  unfold State.stackKeysAt
  split
  · exact domainKept_onSeg s i (alwaysOnKept_of_released (released_freshStackKeys _ _ _ _))
  · exact .refl s

/-- A far half that joins again keeps its always-on domains. -/
theorem alwaysOn_rejoinFar (s : State) : (∀ j, alwaysOnKept (s.seg j) (s.rejoinFar.seg j)) ∧ s.rejoinFar.time.beat = s.time.beat ∧
    s.rejoinFar.time.acquired = s.time.acquired ∧ s.rejoinFar.other = s.other ∧ s.rejoinFar.glob = s.glob ∧ s.rejoinFar.segs.length = s.segs.length := by
  have joins : domainKept s (s.onSegs (fun i g => if s.roles.farHalf.contains i then joinAgain s.time.beat i g else g)) :=
    domainKept_onSegs s fun i g => by
      split
      · exact alwaysOnKept_joinAgain _ i g
      · exact alwaysOn_refl g
  obtain ⟨hseg, hbeat, hacq, hother, -, hglob, hlen⟩ := joins.trans (domainKept_foldl (fun t i => domainKept_stackKeysAt t i) s.roles.farHalf _)
  exact ⟨hseg, hbeat, hacq, hother, hglob, hlen⟩

/-- Each segment's always-on domain stands as its block holds it, where the halves and the other block stand. -/
theorem alwaysOnKept_segOf {s t : State} (h : domainKept s t) (j : Nat) : alwaysOnKept (s.segOf j) (t.segOf j) := by
  obtain ⟨hseg, -, -, hother, hfar, -, hlen⟩ := h
  cases hb : s.other with
  | none =>
    rw [segOf_whole hb, segOf_whole (hother.trans hb)]
    exact hseg j
  | some b =>
    rw [segOf_split hb, segOf_split (hother.trans hb), hlen, hfar]
    split
    · rw [List.getD_eq_getElem?_getD, List.getD_eq_getElem?_getD]
      cases b.segs[j]? with
      | none => exact hseg j
      | some g => exact alwaysOn_refl g
    · exact hseg j

/-! A beat edge. -/

/-- The sweep of a set changes work, and moves on to the next set. -/
theorem sweepSet_work (s : State) : ∃ t, workOnly s t ∧
    s.sweepSet = { t with time := { t.time with sweepSet := (s.time.sweepSet + 1) % 8192 } } := by
  refine ⟨_, workOnly_foldl (a := s) (fun t k ht => ?_) (l := setSlots s.time.sweepSet) (.refl s), rfl⟩
  split
  · split
    · exact workOnly_tombstone ht k (fun u p n h => workOnly_returnPages h p n u.edge)
    · exact ht
  · exact ht

theorem domainKept_sweepSet (s : State) : domainKept s s.sweepSet := by
  obtain ⟨t, ht, hsweep⟩ := sweepSet_work s
  have h := domainKept_of_work ht
  rw [hsweep]
  exact h

theorem domainKept_settle (s : State) (i : Nat) : domainKept s (s.settle i) :=
  ⟨fun _ => alwaysOn_refl _, rfl, rfl, rfl, rfl, rfl, rfl⟩

theorem domainKept_markCandidates (s : State) : domainKept s s.markCandidates :=
  ⟨fun _ => alwaysOn_refl _, rfl, rfl, rfl, rfl, rfl, rfl⟩

theorem domainKept_count (s : State) (f : Counters → Counters) : domainKept s (s.count f) :=
  ⟨fun _ => alwaysOn_refl _, rfl, rfl, rfl, rfl, rfl, rfl⟩

/-- The manager's own work of an edge leaves the always-on domains. -/
theorem domainKept_managerEdge (s : State) : domainKept s s.managerEdge := by
  have settles : domainKept s ((List.range 16).foldl (fun t p => t.settle p) s) := domainKept_foldl domainKept_settle _ _
  unfold State.managerEdge
  split
  · dsimp only
    split
    · exact settles.trans (domainKept_sweepSet _)
    · exact (settles.trans (domainKept_sweepSet _)).trans (domainKept_markCandidates _)
  · exact .refl s

theorem domainKept_stageOne (s : State) : domainKept s s.stageOne := by
  rw [stageOne_eq]
  exact .refl s

/-- What an edge does once the beat has moved on leaves the always-on domains. -/
theorem domainKept_edgeWork (slewPs : Int) (temps : List Int) (s : State) : domainKept (edgeStart slewPs s) (edgeWork slewPs temps s) := by
  have segments : domainKept (edgeStart slewPs s).stageOne ((edgeStart slewPs s).stageOne.onSegs (edgeSegment temps)) :=
    domainKept_onSegs _ fun i g => alwaysOn_refl g
  have work : domainKept (edgeStart slewPs s) (edgeSegs slewPs temps s) :=
    ((domainKept_stageOne _).trans segments).trans (domainKept_count _ _)
  exact work.trans (domainKept_managerEdge _)

theorem domainKept_edgeStart (slewPs : Int) (s : State) : domainKept { s with time := nextBeat s.glob.slewPpm slewPs s.time } (edgeStart slewPs s) := by
  have settles : domainKept { s with time := nextBeat s.glob.slewPpm slewPs s.time }
      { s with time := nextBeat s.glob.slewPpm slewPs s.time, prior := if s.power.hush == 0 then none else s.prior } := .refl _
  exact settles.trans (domainKept_of_messages (messagesOnly_of_queues (queuesOnly_closeCycles _)))

/-- A second block that prepared for the rejoin and has no sequence left is over at an edge, its half in the first block's sight. -/
theorem secondEnds_over {s : State} {b : Block} (hb : s.other = some b) (hending : b.roles.ending = true) (hseqs : b.seqs = []) :
    (∀ j, alwaysOnKept (s.segOf j) (s.turn.secondEnds.seg j)) ∧ s.turn.secondEnds.time.beat = s.time.beat ∧
      s.turn.secondEnds.time.acquired = s.time.acquired ∧ s.turn.secondEnds.other = none ∧ s.turn.secondEnds.glob = s.glob ∧
      s.turn.secondEnds.segs.length = s.segs.length := by
  have hturn : s.turn = { s.withBlock b with other := some s.block } := by simp [State.turn, hb]
  have hlive : s.turn.endLive false s.turn.edge = s.turn := by
    have h : s.turn.seqs = [] := by
      rw [hturn]
      exact hseqs
    simp [State.endLive, h]
  have hends : s.turn.secondEnds = s.turn.endSecond := by
    have hend : s.turn.roles.ending = true := by
      rw [hturn]
      exact hending
    have h : s.turn.seqs = [] := by
      rw [hturn]
      exact hseqs
    simp [State.secondEnds, hend, hlive, h]
  have hfirst : ∃ t : State, t.segs = s.allSegs ∧ t.time = s.time ∧ t.other = none ∧ t.glob = s.glob ∧ s.turn.endSecond =
      (if (t.farPrepared t.roles.farHalf t.edge).roles.waistUp then (t.farPrepared t.roles.farHalf t.edge).rejoinFar
       else t.farPrepared t.roles.farHalf t.edge) := by
    rw [hturn]
    refine ⟨_, ?_, ?_, ?_, ?_, rfl⟩
    · simp only [State.allSegs, hb]
      rfl
    · rfl
    · rfl
    · rfl
  obtain ⟨t, hsegs, htime, hnone, hglob, hend⟩ := hfirst
  have hseg (j : Nat) : t.seg j = s.segOf j := by
    unfold State.seg State.segOf
    rw [hsegs]
  obtain ⟨pseg, pbeat, pacq, pother, -, pglob, plen⟩ := domainKept_farPrepared t t.roles.farHalf t.edge
  rw [hends, hend]
  split
  · obtain ⟨rseg, rbeat, racq, rother, rglob, rlen⟩ := alwaysOn_rejoinFar (t.farPrepared t.roles.farHalf t.edge)
    refine ⟨fun j => ?_, ?_, ?_, rother.trans (pother.trans hnone), rglob.trans (pglob.trans hglob), ?_⟩
    · rw [← hseg]
      exact alwaysOn_trans (pseg j) (rseg j)
    · rw [rbeat, pbeat, htime]
    · rw [racq, pacq, htime]
    · rw [rlen, plen, hsegs, length_allSegs]
  · refine ⟨fun j => ?_, ?_, ?_, pother.trans hnone, pglob.trans hglob, ?_⟩
    · rw [← hseg]
      exact pseg j
    · rw [pbeat, htime]
    · rw [pacq, htime]
    · rw [plen, hsegs, length_allSegs]

/-! A write at the target of a fenced standby. -/

/-- A write that a target takes itself acts in the state in which it has been taken from its path (R372, R373). -/
theorem expedited_alone {s u : State} {cyc data n : Nat} {p : Path} {h : OamHead} (harr : s.arrives p [oamWord 2 h, data % 2 ^ 32] = true)
    (halone : s.takesAlone p h = true) (hno : s.transfer p.ep h.transfer = none) (hu : u = s.writeTaken cyc p h data)
    (hr : s.unretired = true) (ho : u.object (u.principal p) h.index h.sub = some (woNum h.sub n)) (hn : n = h.size + 1)
    (hm : mayReach (u.principal p) h.index = true) :
    s.expedited cyc p h data = .next (State.answerWrite p (u.actWrite p h (data % 2 ^ 32 % 2 ^ (8 * (h.size + 1))) u.time.now)) := by
  have htaken : ((s.takeIn p.ep [oamWord 2 h, data % 2 ^ 32]).replaceTransfer p.ep h.transfer).given
      ((s.takeIn p.ep [oamWord 2 h, data % 2 ^ 32]).stampFor cyc) = u := by
    rw [replaceTransfer_of_none ((transfer_of_kept (transfersKept_takeIn s p.ep _) _ _).trans hno), hu]
    rfl
  have hr' : (u.lifecycle == .retired) = false := by
    rw [hu, lifecycle_writeTaken]
    simpa [State.unretired] using hr
  have hb : u.writeBar (u.principal p) h.index h.sub = none := by
    simp only [State.writeBar, ho, hr', hm]
    rfl
  have hsize : sizeBroken (woNum h.sub (h.size + 1)) h.index h.sub (h.size + 1) = false := by simp [sizeBroken, woNum, Shape.size]
  subst hn
  unfold State.expedited
  rw [farPath_of_arrives harr, State.inBlockOf_here]
  simp only [expeditedHere, halone, harr, onlyIf]
  show Host.Outcome.next ((s.takeIn p.ep [oamWord 2 h, data % 2 ^ 32]).doWrite p h (data % 2 ^ 32) _) = _
  unfold State.doWrite
  simp only [htaken, hb, ho, State.writeEntryNow, hsize]
  rw [← htaken]
  rfl

theorem domainKept_send (s : State) (e : Endpoint) (words : List Nat) : domainKept s (s.send e words) :=
  domainKept_of_messages (messagesOnly_send s e words)

/-- A segment that is reset of its own, from what a loss of its service leaves of it. -/
theorem seg_segResets {s : State} {i : Nat} (hi : s.hasSeg i = true) (f : Segment → Segment) :
    (s.segResets i f).time.beat = s.time.beat ∧ ∃ g, alwaysOnKept (s.seg i) g ∧ (s.segResets i f).seg i = resetAlone f g := by
  have leaves : ∃ t, domainKept s t ∧ s.segResets i f = t.onSeg i (resetAlone f) := by
    refine ⟨_, domainKept.trans ?_ (domainKept_dropStandby _ i), rfl⟩
    split
    · have given : domainKept s (s.given (s.stampFor 0)) := .refl s
      exact given.trans (domainKept_of_work (workOnly_segsLeave (.refl _) _ _ _))
    · exact .refl s
  obtain ⟨t, ⟨hseg, hbeat, -, -, -, -, hlen⟩, ht⟩ := leaves
  refine ⟨by rw [ht]; exact hbeat, t.seg i, hseg i, ?_⟩
  rw [ht, State.seg_onSeg_eq]
  unfold State.hasSeg
  rw [hlen]
  exact hi

theorem powerOnSegment_resets (g : Segment) : (powerOnSegment g).ownRef = false ∧ (powerOnSegment g).refPresent = false ∧
    (powerOnSegment g).trust.i3cAddr = none ∧ (powerOnSegment g).trust.eid = 0 ∧ (powerOnSegment g).supply.gong = none ∧
    (powerOnSegment g).trust.lifecycle = g.trust.lifecycle := ⟨rfl, rfl, rfl, rfl, rfl, rfl⟩

theorem resetAlone_powerOnSegment (g : Segment) : (resetAlone powerOnSegment g).ownRef = false ∧ (resetAlone powerOnSegment g).refPresent = false ∧
    (resetAlone powerOnSegment g).trust.i3cAddr = none ∧ (resetAlone powerOnSegment g).trust.eid = 0 ∧
    (resetAlone powerOnSegment g).supply.gong = none ∧ (resetAlone powerOnSegment g).trust.lifecycle = g.trust.lifecycle := by
  unfold resetAlone
  split
  · exact powerOnSegment_resets g
  · exact powerOnSegment_resets g

theorem domainKept_noteFeed (s : State) (v : Nat) (e : Stamp) : domainKept s (s.noteFeed v e) := by
  have h : domainKept s (s.onSegs (fun _ g => { g with supply := { g.supply with feedAt := some e } })) :=
    domainKept_onSegs s fun _ g => alwaysOn_refl g
  exact h

/-- A GONG leaves the always-on domains but for its record. -/
theorem alwaysOn_gong {s t : State} (h : domainKept s t) {j : Nat} (hj : s.hasSeg j = true) (rec : Nat) :
    alwaysOnKept { s.segOf j with supply := ((t.gong rec).seg j).supply } ((t.gong rec).seg j) := by
  have hlen : t.coldReset.segs.length = s.segs.length := (List.length_map _).trans ((length_allSegs t).trans h.2.2.2.2.2.2)
  have hat : j < t.coldReset.segs.length := by
    rw [hlen]
    simpa [State.hasSeg] using hj
  have hseg : (t.gong rec).seg j = interrupt 1 { t.coldReset.seg j with supply := { (t.coldReset.seg j).supply with gong := some rec } } :=
    seg_onSegs t.coldReset (fun _ g => interrupt 1 { g with supply := { g.supply with gong := some rec } }) hat
  have hkept := alwaysOn_trans (alwaysOnKept_segOf h j) (alwaysOnKept_resetSegment false _)
  rw [← seg_coldReset] at hkept
  obtain ⟨h1, h2, h3, h4, h5, h6, h7, h8, h9, h10, h11, -⟩ := hkept
  rw [hseg]
  exact ⟨h1, h2, h3, h4, h5, h6, h7, h8, h9, h10, h11, rfl⟩

/-- Settles O57. -/
theorem alwaysOnDomain : Obligations.AlwaysOnDomain := by
  refine ⟨?_, ?_, ?_, ?_, ?_, ?_⟩
  · intro s i hi hnear
    refine ⟨⟨_, execColdReset_eq hi hnear, rfl, rfl, fun j => ?_⟩, ?_⟩
    · rw [segOf_whole (s := State.onSeg _ _ _) rfl, seg_onSeg_holdInput, seg_coldReset]
      exact alwaysOnKept_resetSegment false (s.segOf j)
    · have keeps {t : State} (ht : domainKept s t) : t.time.beat = s.time.beat ∧ t.time.acquired = s.time.acquired ∧
          ∀ j, alwaysOnKept (s.segOf j) (t.segOf j) := ⟨ht.2.1, ht.2.2.1, alwaysOnKept_segOf ht⟩
      cases hreset : s.power.inReset with
      | true => exact ⟨_, execWarmReset_held hi hnear hreset, keeps (domainKept_onSeg s i (alwaysOnKept_holdInput .warm _))⟩
      | false =>
        by_cases hm : i = s.mgr
        · subst hm
          refine ⟨_, execWarmReset_manager hi hnear hreset, rfl, rfl, fun j => ?_⟩
          rw [segOf_whole (s := State.onSeg _ _ _) rfl, seg_onSeg_holdInput, seg_warmReset]
          exact alwaysOnKept_resetSegment true (s.segOf j)
        · exact ⟨_, execWarmReset_alone hi hnear hm hreset, keeps (domainKept_segResets s i alwaysOnKept_warmSegment)⟩
  · intro s cyc v p hv hc hr
    obtain ⟨u, hu⟩ : ∃ u, u = s.writeTaken cyc p (entryHead 0 0x2200 0x31 0) v := ⟨_, rfl⟩
    obtain ⟨-, hbeat, hacq, hsegs, -⟩ := writeTaken_keeps hu
    have hw := exec_resetWrite hc hu hr
    rcases hv with rfl | rfl
    · obtain ⟨segs, free, hup⟩ := bringUp_leaves u.warmReset
      refine ⟨u.warmReset.bringUp, hw, (congrArg (·.time.beat) hup).trans hbeat, (congrArg (·.time.acquired) hup).trans hacq, fun j => ?_⟩
      rw [segOf_whole (congrArg State.other hup)]
      exact alwaysOn_trans (alwaysOnKept_of_messaged (hsegs j)) (alwaysOn_trans (alwaysOnKept_resetSegment true _)
        (alwaysOnKept_of_released (seg_bringUp_warmReset u j)))
    · obtain ⟨segs, free, hup⟩ := bringUp_leaves u.coldReset
      refine ⟨u.coldReset.bringUp, hw, (congrArg (·.time.beat) hup).trans hbeat, (congrArg (·.time.acquired) hup).trans hacq, fun j => ?_⟩
      rw [segOf_whole (congrArg State.other hup)]
      exact alwaysOn_trans (alwaysOnKept_of_messaged (hsegs j)) (alwaysOn_trans (alwaysOnKept_resetSegment false _)
        (alwaysOnKept_of_released (seg_bringUp_coldReset u j)))
  · intro s cyc id k p hp harr hfar hmirror hfenced hsplit hsecond hwhole hno hr
    obtain ⟨u, hu⟩ : ∃ u, u = s.writeTaken cyc p (entryHead id 0x2000 0x0D 0) 2 := ⟨_, rfl⟩
    obtain ⟨⟨E, n, hfields⟩, hbeat, hacq, -, -⟩ := writeTaken_keeps hu
    obtain ⟨t, e, hm, hw⟩ := writeTaken_given s cyc p (entryHead id 0x2000 0x0D 0) 2
    have hkept : domainKept s u := by
      have given : domainKept t (t.given e) := .refl t
      rw [hu, hw]
      exact (domainKept_of_messages hm).trans given
    have hstate : (u.seg k).state = .fenced := by
      have hk : messaged (s.seg k) (u.seg k) := by
        rw [hu, hw]
        exact hm.2.2 k
      rw [hk]
      exact hfenced
    have halone : s.takesAlone p (entryHead id 0x2000 0x0D 0) = true := by
      simp [State.takesAlone, entryHead, hp, hmirror, hfenced]
    have hexec := expedited_alone (n := 1) harr halone (by rw [hp]; exact hno) hu hr rfl rfl (by cases u.principal p <;> rfl)
    have hroles : u.roles = s.roles := by rw [hfields]
    have hother : u.other = none := by
      rw [hfields]
      exact hwhole
    have hact : rejoinPrepareWrite p.ep u.time.now u = (u.prepareFar u.time.now, none) := by
      simp [rejoinPrepareWrite, hroles, hsecond, hp, targetOf, hfar, hstate, hsplit, hother]
    have prepared : domainKept u (u.prepareFar u.time.now) := by
      have given : domainKept u { u with roles := { u.roles with splitState := 1 }, mirror := { u.mirror with currentAtFence := false } } := .refl u
      exact given.trans (domainKept_farPrepared _ _ _)
    have hfence : u.actWrite p (entryHead id 0x2000 0x0D 0) 2 u.time.now =
        (u.prepareFar u.time.now, some (ackWords (entryHead id 0x2000 0x0D 0) 0)) := by
      show answered (entryHead id 0x2000 0x0D 0) (rejoinPrepareWrite p.ep u.time.now u) = _
      rw [hact]
      rfl
    obtain ⟨tseg, tbeat, tacq, -⟩ := (hkept.trans prepared).trans (domainKept_send _ p.ep (ackWords (entryHead id 0x2000 0x0D 0) 0))
    refine ⟨_, hexec.trans (congrArg (fun r => Host.Outcome.next (State.answerWrite p r)) hfence), tbeat, tacq, tseg⟩
  · intro s slew temps b hb hending hseqs hlen hhalves hcool
    obtain ⟨hseg, hbeat, hacq, hother, hglob, hl⟩ := secondEnds_over hb hending hseqs
    have hnone : (edgeWork slew temps s.turn.secondEnds).tooHot = [] := by
      refine List.filter_eq_nil_iff.2 fun i hi => ?_
      rw [List.mem_range, (edgeWork_seg slew temps _).1] at hi
      rw [edgeWork_tempC slew temps hi, edgeWork_glob, hglob]
      obtain ⟨hgiven, hcool⟩ := hcool i (by omega)
      rw [List.getD_eq_getElem _ _ hgiven] at hcool ⊢
      simpa using fun _ => hcool
    have hexec : exec (.beatEdge slew temps) s = .next (edgeWork slew temps s.turn.secondEnds) := by
      show execBeatEdge slew temps s = _
      rw [execBeatEdge_eq, hnone]
      rfl
    obtain ⟨eseg, ebeat, eacq, eother, -⟩ := (domainKept_edgeStart slew s.turn.secondEnds).trans (domainKept_edgeWork slew temps s.turn.secondEnds)
    refine ⟨_, hexec, ?_, eacq.trans hacq, fun j => ?_⟩
    · rw [ebeat, ← hbeat]
      rfl
    · rw [segOf_whole (eother.trans hother)]
      exact alwaysOn_trans (hseg j) (eseg j)
  · intro s cyc v hv hcrimson hgong
    have hexec : exec (.feedReading cyc v) s = .next ((s.noteFeed v (s.arrival cyc)).gong (gongRecord 0x02 0x0 0 v (s.arrival cyc))) := by
      have hv : v % 65536 = v := Nat.mod_eq_of_lt hv
      show execFeedReading cyc v s = _
      simp [execFeedReading, hv, hcrimson, hgong]
    refine ⟨_, hexec, rfl, rfl, fun j hj => ?_⟩
    exact alwaysOn_gong (domainKept_noteFeed s v _) hj _
  · intro s i hi hnear
    by_cases hm : i = s.mgr
    · subst hm
      have hat : s.powerOn.hasSeg s.mgr = true := by
        have hlen : s.powerOn.segs.length = s.segs.length := (List.length_map _).trans (length_allSegs s)
        unfold State.hasSeg
        rw [hlen]
        exact hi
      refine ⟨_, execPowerOnReset_manager hi hnear, fun _ => rfl, fun h => absurd rfl h, ?_⟩
      rw [State.seg_onSeg_eq _ _ hat]
      obtain ⟨h1, h2, h3, h4, h5, h6⟩ := powerOnSegment_resets (s.powerOn.seg s.mgr)
      refine ⟨h1, h2, h3, h4, h5, h6.trans ?_⟩
      rw [show s.powerOn.seg s.mgr = _ from seg_coldReset s s.mgr, segOf_near hnear]
      rfl
    · cases hreset : s.power.inReset with
      | true =>
        have hexec : exec (.powerOnReset i) s = .next (s.onSeg i powerOnSegment) := by
          show execPowerOnReset i s = _
          simp [execPowerOnReset, hnear, State.inBlockOf, onlyIf, hi, hm, hreset]
        refine ⟨_, hexec, fun h => absurd h hm, fun _ => rfl, ?_⟩
        rw [State.seg_onSeg_eq _ _ hi]
        exact powerOnSegment_resets _
      | false =>
        obtain ⟨hbeat, g, ⟨-, -, -, -, -, -, -, -, hlife, -⟩, hseg⟩ := seg_segResets hi powerOnSegment
        refine ⟨_, execPowerOnReset_alone hi hnear hm hreset, fun h => absurd h hm, fun _ => hbeat, ?_⟩
        rw [hseg, ← hlife]
        exact resetAlone_powerOnSegment g

end Sys2Proof.Proofs
end
section
/-! Bring-up from self-test to full service (R390 to R393, R406). -/

namespace Sys2Proof.Proofs

open Sys2Proof Sys2Proof.Machine

/-! Stalled reads that are answered. -/

/-- A segment stands but for stalled reads that have ended and their answers. -/
def readsEnded (g h : Segment) : Prop :=
  answersOnly { g with nq := { g.nq with stalled := h.nq.stalled, answers := h.nq.answers } } h

theorem readsEnded.refl (g : Segment) : readsEnded g g := rfl

theorem readsEnded.trans {g h k : Segment} (a : readsEnded g h) (b : readsEnded h k) : readsEnded g k := by
  unfold readsEnded answersOnly at *
  rw [b, a]

theorem readsEnded_of_answersOnly {g h : Segment} (a : answersOnly g h) : readsEnded g h := by
  unfold readsEnded answersOnly at *
  rw [a]

theorem readsEnded_settleReads (s : State) (j : Nat) : readsEnded (s.seg j) (s.settleReads.seg j) := by
  have cleared : readsEnded (s.seg j) ((if s.segs.any (fun g => !g.nq.answers.isEmpty) then
      s.onSegs (fun _ g => { g with nq := { g.nq with answers := [] } }) else s).seg j) := by
    split
    · rcases Nat.lt_or_ge j s.segs.length with hj | hj
      · rw [seg_onSegs s _ hj]
        rfl
      · rw [seg_onSegs_absent s _ hj]
        exact .refl _
    · exact .refl _
  unfold State.settleReads
  refine cleared.trans (readsEnded_of_answersOnly ?_)
  refine answersOnly_trans ?_ (answersOnly_answerReads _ _ j)
  dsimp only
  generalize (if s.segs.any (fun g => !g.nq.answers.isEmpty) then
      s.onSegs (fun _ g => { g with nq := { g.nq with answers := [] } }) else s) = t
  split
  · exact answersOnly_refl _
  · exact answersOnly_refl _

theorem settleReads_fields (s : State) : ∃ E, s.settleReads = { s with segs := s.settleReads.segs, objs := { s.objs with eps := E } } := by
  have cleared : ∃ G, (if s.segs.any (fun g => !g.nq.answers.isEmpty) then
      s.onSegs (fun _ g => { g with nq := { g.nq with answers := [] } }) else s) = { s with segs := G } := by
    split
    · exact ⟨_, rfl⟩
    · exact ⟨s.segs, rfl⟩
  obtain ⟨G, hG⟩ := cleared
  unfold State.settleReads
  dsimp only
  rw [hG]
  split
  · rw [(noticesOnly_answerReads _ _).1]
    exact ⟨_, rfl⟩
  · rw [(noticesOnly_answerReads _ _).1]
    exact ⟨s.objs.eps, rfl⟩

/-! Self-test. -/

theorem faults_remapColumn (a : ArrayS) (c : Nat) : (remapColumn a c).faults = a.faults := by
  unfold remapColumn
  split
  · dsimp only
    split
    · exact faults_spareBad c a
    · exact faults_spareBad c a
  · exact faults_spareBad c a

theorem faults_foldl_remapColumn (l : List Nat) (a : ArrayS) : (l.foldl remapColumn a).faults = a.faults := by
  induction l generalizing a with
  | nil => rfl
  | cons c l ih => exact (ih _).trans (faults_remapColumn a c)

theorem mem_faults_testArray (cols : List Nat) (a : ArrayS) {c : Nat} : c ∈ (testArray cols a).faults ↔ c ∈ cols ∨ c ∈ a.faults := by
  have h : (testArray cols a).faults = cols.foldl (fun l c => insertNat c l) a.faults := faults_foldl_remapColumn _ _
  rw [h, mem_foldl_insertNat]

theorem mem_columnsOf {a : Arr} {cols : List (Arr × Nat)} {c : Nat} (hc : c < 264) (h : (a, c) ∈ cols) : c ∈ columnsOf a cols :=
  List.mem_map.mpr ⟨(a, c), List.mem_filter.mpr ⟨h, by simp [hc]⟩, rfl⟩

/-! Service. -/

theorem arrayEnters_whole {a : ArrayS} (hw : arrayWhole a = true) (hp : a.pendingRemap = []) : arrayEnters a = { a with state := .serving } := by
  simp [arrayEnters, hp, hw]

theorem hold_qUnstall (e : Stamp) (q : WordQ) : (qUnstall e q).hold = q.hold := by
  have step (l : List StalledRead) (q : WordQ) : (l.foldl (fun q x =>
      let r := qPop e q
      { qLast r.1 false r.2 with answers := r.2.answers ++ [{ port := x.port, tag := x.tag, data := r.1.data }] }) q).hold = q.hold := by
    induction l generalizing q with
    | nil => rfl
    | cons x l ih => exact (ih _).trans (qPop_keeps e q).1.2.1
  exact step _ _

/-- Where neither array of a segment has failed, nothing is reported. -/
theorem reportArrays_none {s : State} {i : Nat} (e : Stamp) (h0 : (s.seg i).ma0.state ≠ .failed) (h1 : (s.seg i).ma1.state ≠ .failed) :
    s.reportArrays i e = s := by
  have h0 : ((s.seg i).ma0.state == .failed) = false := beq_eq_false_iff_ne.mpr h0
  have h1 : ((s.seg i).ma1.state == .failed) = false := beq_eq_false_iff_ne.mpr h1
  simp only [State.reportArrays, List.foldl_cons, List.foldl_nil, Segment.array, h0, h1, Bool.false_eq_true, if_false, Bool.and_self]

theorem rejoined_eq (s : State) : s.rejoined = { s with roles := s.rejoined.roles } := by
  unfold State.rejoined
  split
  · rfl
  · rfl

theorem selfTestComplete_passed {s : State} {i : Nat} (cyc : Nat) (cols : List (Arr × Nat)) (hup : s.segUp i = true)
    (hjoin : (s.seg i).state = .joining) (hnot : (s.seg i).selfTested = false) :
    exec (.selfTestComplete cyc i true cols) s = .next (if i == s.mgr then (s.onSeg i (testedSegment cols)).stageTwo else s.onSeg i (testedSegment cols)) := by
  show execSelfTestComplete cyc i true cols s = _
  simp [execSelfTestComplete, hup, hjoin, hnot, onlyIf]

/-- The manager's segment in reduced service, of the segment before. -/
theorem reducedSegment_joined (mgr beat : Nat) (g : Segment) : (reducedSegment (joined mgr beat g)).state = .serving ∧
    (reducedSegment (joined mgr beat g)).health.clockMhz = 1600 ∧ (reducedSegment (joined mgr beat g)).ma1.state = .held ∧
    (reducedSegment (joined mgr beat g)).lastHb = beat := ⟨rfl, rfl, rfl, rfl⟩

/-- The block in reduced service, its programs and endpoints apart (R391). -/
noncomputable def reducedOpen (s : State) : State :=
  { s.onSeg s.mgr (fun g => reducedSegment (joined s.mgr s.time.beat g)) with power := { s.power with stage := 3 } }

/-- The block in full service (R393). -/
noncomputable def fullOpen (s : State) : State :=
  ({ s.onSeg s.mgr fullSegment with power := { s.power with stage := 4 } } : State).programsAt (planned s.glob.planClock)

/-- A segment as it joins (R393). -/
noncomputable def entered (screenMib : Nat) (src : Memory) (mgr beat : Nat) (g : Segment) : Segment :=
  let g := takeScreen screenMib src (joined mgr beat g)
  { g with ma0 := arrayEnters g.ma0, ma1 := arrayEnters g.ma1 }

theorem entered_serves (screenMib : Nat) (src : Memory) (mgr beat : Nat) {g : Segment} (h0 : arrayWhole g.ma0 = true) (h1 : arrayWhole g.ma1 = true)
    (hp0 : g.ma0.pendingRemap = []) (hp1 : g.ma1.pendingRemap = []) (hfree : g.trust.testHeld = false) :
    (entered screenMib src mgr beat g).state = .serving ∧ (entered screenMib src mgr beat g).lastHb = beat ∧
      (entered screenMib src mgr beat g).hbFrom = mgr ∧ (entered screenMib src mgr beat g).ma0.state = .serving ∧
      (entered screenMib src mgr beat g).ma1.state = .serving ∧ (entered screenMib src mgr beat g).nq.hold = false := by
  refine ⟨rfl, rfl, rfl, congrArg ArrayS.state (arrayEnters_whole h0 hp0), congrArg ArrayS.state (arrayEnters_whole h1 hp1), ?_⟩
  show (qMode ⟨beat, 0⟩ (false || g.trust.testHeld) g.nq).hold = false
  rw [hfree]
  exact hold_qUnstall _ _

/-- What the end of stalled reads leaves of a segment's service. -/
theorem serves_of_readsEnded {g h : Segment} (a : readsEnded g h) : h.state = g.state ∧ h.lastHb = g.lastHb ∧ h.hbFrom = g.hbFrom ∧
    h.ma0.state = g.ma0.state ∧ h.ma1.state = g.ma1.state ∧ h.nq.hold = g.nq.hold := by
  unfold readsEnded answersOnly at a
  rw [a]
  exact ⟨rfl, rfl, rfl, rfl, rfl, rfl⟩

/-- The block as a segment joins, before stalled reads are answered. -/
noncomputable def joinsAs (s : State) (i : Nat) (candidate : Option Nat) (mirror : Mirror) : State :=
  { s.onSeg i (entered s.screenMib (s.seg s.mgr).stack.mem s.mgr s.time.beat) with
    roles := { s.roles with candidate := candidate }, mirror := mirror }

theorem seg_joinsAs (s : State) (i : Nat) (candidate : Option Nat) (mirror : Mirror) (j : Nat) : (joinsAs s i candidate mirror).seg j =
    (s.onSeg i (entered s.screenMib (s.seg s.mgr).stack.mem s.mgr s.time.beat)).seg j := rfl

theorem join_eq (s : State) (i : Nat) : ∃ candidate mirror, s.join i = (joinsAs s i candidate mirror).settleReads.rejoined.reportArrays i s.edge := by
  unfold State.join
  dsimp only
  split
  · exact ⟨some i, { s.mirror with copying := true, current := false }, rfl⟩
  · exact ⟨s.roles.candidate, s.mirror, rfl⟩

theorem segUp_of_readyToJoin {s : State} {i : Nat} (h : s.readyToJoin i = true) : s.segUp i = true ∧ (s.seg i).trust.testHeld = false := by
  simp only [State.readyToJoin, Bool.and_eq_true, Bool.not_eq_true'] at h
  obtain ⟨⟨⟨⟨⟨hup, -⟩, -⟩, -⟩, hfree⟩, -⟩ := h
  exact ⟨hup, hfree⟩

/-- Settles O39. -/
theorem bringUp : Obligations.BringUp := by
  refine ⟨?_, ?_, ?_, ?_, ?_, ?_⟩
  · intro s cyc i cols hup hjoin hnot
    have hi := hasSeg_of_segUp hup
    have hexec := selfTestComplete_passed cyc cols hup hjoin hnot
    have hseg := s.seg_onSeg_eq (testedSegment cols) hi
    refine ⟨fun hm => ⟨_, hexec.trans (congrArg _ (if_pos (beq_iff_eq.mpr hm))), rfl, rfl, ?_, fun j hj => s.seg_onSeg_ne _ hj, rfl⟩,
      fun hm => ⟨_, hexec.trans (congrArg _ (if_neg (by simpa using hm))), ?_, fun c hc hcol => ?_, fun c hc => ?_,
        fun j hj => s.seg_onSeg_ne _ hj, rfl⟩⟩
    · show ((s.onSeg i (testedSegment cols)).seg i).selfTested = true
      rw [hseg]
      rfl
    · rw [hseg]
      rfl
    · rw [hseg]
      exact (mem_faults_testArray _ _).mpr (Or.inl (mem_columnsOf (by omega) hcol))
    · rw [hseg]
      exact (mem_faults_testArray _ _).mpr (Or.inr hc)
  · intro s cyc i hup hjoin hnot hstage
    have hstage : (i != s.mgr || s.power.stage == 2) = true := by
      by_cases hm : i = s.mgr
      · simp [hstage hm]
      · simp [hm]
    show execStackTrainingComplete cyc i true s = _
    simp only [execStackTrainingComplete, hup, hjoin, hnot, hstage, onlyIf]
    rfl
  · intro s cyc i cols hup hjoin
    refine ⟨fun hnot => ?_, fun hnot hstage => ?_, fun hm hmgr hdead => ?_⟩
    · show execSelfTestComplete cyc i false cols s = _
      simp only [execSelfTestComplete, hup, hjoin, hnot, onlyIf]
      rfl
    · have hstage : (i != s.mgr || s.power.stage == 2) = true := by
        by_cases hm : i = s.mgr
        · simp [hstage hm]
        · simp [hm]
      show execStackTrainingComplete cyc i false s = _
      simp only [execStackTrainingComplete, hup, hjoin, hnot, hstage, onlyIf]
      rfl
    · have hmb : (i == s.mgr) = false := beq_eq_false_iff_ne.mpr hm
      have hlose : (s.given (s.stampFor 0)).loseAny i 0x0A (s.stampFor 0) = (s.given (s.stampFor 0)).loseSegment i 0x0A (s.stampFor 0) :=
        if_neg (by rw [show (s.given (s.stampFor 0)).mgr = s.mgr from rfl, hmb]; decide)
      have hexec : exec (.joinDeadline i) s = .next (s.bringUpFails 0 i) := by
        show execJoinDeadline i s = _
        simp [execJoinDeadline, hmgr, hup, hjoin, hdead, hm, onlyIf]
      rw [hexec, ← hlose]
      rfl
  · intro s hm hawake hstage htested htrained hacq
    have hexec : exec .reducedServiceOpen s = .next (((reducedOpen s).programsAt (rescale 1600)).endpointMode false).settleReads := by
      show execReducedServiceOpen s = _
      simp only [execReducedServiceOpen, hawake, hstage, htested, htrained, hacq, onlyIf]
      rfl
    obtain ⟨E, hfields⟩ := settleReads_fields (((reducedOpen s).programsAt (rescale 1600)).endpointMode false)
    have hread (j : Nat) := readsEnded_settleReads (((reducedOpen s).programsAt (rescale 1600)).endpointMode false) j
    have hmgr := s.seg_onSeg_eq (fun g => reducedSegment (joined s.mgr s.time.beat g)) hm
    have hat := hread s.mgr
    rw [show (((reducedOpen s).programsAt (rescale 1600)).endpointMode false).seg s.mgr = _ from hmgr] at hat
    unfold readsEnded answersOnly at hat
    refine ⟨_, hexec, ?_, ?_, ?_, ?_, ?_, fun j hj => ?_, ?_, ?_⟩
    · rw [hfields]
      rfl
    · rw [hat]
      rfl
    · rw [hat]
      rfl
    · rw [hat]
      rfl
    · rw [hat]
      rfl
    · have h := hread j
      rw [show (((reducedOpen s).programsAt (rescale 1600)).endpointMode false).seg j = _ from s.seg_onSeg_ne _ hj] at h
      exact h
    · rw [hfields]
      exact List.length_map _
    · rw [hfields]
      rfl
  · intro s i hmgr hm hready hfreeze
    obtain ⟨hup, hfree⟩ := segUp_of_readyToJoin hready
    have hi := hasSeg_of_segUp hup
    have hexec : exec (.segmentJoin i) s = .next (if (s.seg i).trust.version != (s.seg s.mgr).trust.version then s.loseSegment i 0x08 s.edge
        else if (s.seg i).trust.lifecycle != (s.seg s.mgr).trust.lifecycle then s.loseSegment i 0x09 s.edge else s.join i) := by
      have hmb : (i != s.mgr) = true := by simpa using hm
      show execSegmentJoin i s = _
      simp only [execSegmentJoin, hmgr, hmb, hready, hfreeze, onlyIf]
      rfl
    refine ⟨fun hv => ?_, fun hv hl => ?_, fun hv hl => ?_⟩
    · rw [hexec, if_pos (bne_iff_ne.mpr hv)]
    · have hl : (s.seg i).trust.lifecycle ≠ (s.seg s.mgr).trust.lifecycle := hl
      rw [hexec, if_neg (by simp [hv]), if_pos (bne_iff_ne.mpr hl)]
    · have hl : (s.seg i).trust.lifecycle = (s.seg s.mgr).trust.lifecycle := hl
      have hjoins : exec (.segmentJoin i) s = .next (s.join i) := by
        rw [hexec, if_neg (by simp [hv]), if_neg (by simp [hl])]
      refine ⟨hjoins, fun h0 h1 hp0 hp1 => ⟨_, hjoins, ?_⟩⟩
      obtain ⟨candidate, mirror, hjoin⟩ := join_eq s i
      have hread (j : Nat) := readsEnded_settleReads (joinsAs s i candidate mirror) j
      obtain ⟨E, hfields⟩ := settleReads_fields (joinsAs s i candidate mirror)
      generalize (joinsAs s i candidate mirror).settleReads = X at hjoin hread hfields
      have hat := hread i
      rw [seg_joinsAs, s.seg_onSeg_eq _ hi] at hat
      obtain ⟨e0, e1, e2, e3, e4, e5⟩ := entered_serves (s.screenMib) (s.seg s.mgr).stack.mem s.mgr s.time.beat h0 h1 hp0 hp1 hfree
      obtain ⟨x0, x1, x2, x3, x4, x5⟩ := serves_of_readsEnded hat
      have hrejoined : X.rejoined.seg i = X.seg i := by rw [rejoined_eq]; rfl
      rw [reportArrays_none _ (by rw [hrejoined, x3, e3]; decide) (by rw [hrejoined, x4, e4]; decide)] at hjoin
      rw [hjoin, hrejoined]
      refine ⟨x0.trans e0, x1.trans e1, x2.trans e2, x3.trans e3, x4.trans e4, x5.trans e5, fun j hj => ?_, ?_⟩
      · have h := hread j
        rw [seg_joinsAs, s.seg_onSeg_ne _ hj] at h
        rw [rejoined_eq]
        exact h
      · rw [rejoined_eq, hfields]
        rfl
  · intro s hm hmgr hstage hall hwhole hpending h0 h1
    have hall' : s.segs.all (fun g => g.state != .joining && g.state != .held) = true := by simpa using hall
    have hexec : exec .fullService s = .next ((fullOpen s).reportArrays s.mgr s.edge) := by
      show execFullService s = _
      simp only [execFullService, hmgr, hstage, hall', onlyIf]
      rfl
    have hseg : (fullOpen s).seg s.mgr = fullSegment (s.seg s.mgr) := s.seg_onSeg_eq fullSegment hm
    have hma1 : (fullSegment (s.seg s.mgr)).ma1.state = .serving := by
      simp [fullSegment, h1, arrayEnters_whole hwhole hpending]
    have hma0 : (fullSegment (s.seg s.mgr)).ma0.state = .serving := h0
    rw [reportArrays_none _ (by rw [hseg, hma0]; decide) (by rw [hseg, hma1]; decide)] at hexec
    refine ⟨_, hexec, rfl, ?_, ?_, fun j hj => s.seg_onSeg_ne fullSegment hj, rfl⟩
    · rw [hseg]
      rfl
    · rw [hseg]
      exact hma1

end Sys2Proof.Proofs
end
section
/-! Supplies, the margin loop and the stack's PHY (R376 to R385, R407, R415, R416). -/

namespace Sys2Proof.Proofs

open Sys2Proof Sys2Proof.Machine

/-! The margin loop. -/

section Margin

variable {s : State} {i : Nat} {m : Int}

theorem execMarginMeasurement_due (hup : s.segUp i = true) (hdue : s.time.beat % 2 ^ 20 = 0 ∨ (s.seg i).health.remeasure = true) :
    exec (.marginMeasurement i m) s = .next
      (if (s.seg i).supply.railAmber then s.onSeg i (fun g => { g with health := { g.health with remeasure := true } })
       else if m < (s.glob.marginFloor : Int) then (s.onSeg i (fun g => { g with health := marginMeasured m g.health })).loseAny i 0x06 s.edge
       else if m < (s.glob.marginThreshold : Int) then (s.onSeg i (fun g => { g with health := marginMeasured m g.health })).trimMargin i m
       else s.onSeg i (fun g => { g with health := marginMeasured m g.health })) := by
  have hdue : (s.time.beat % 2 ^ 20 == 0 || (s.seg i).health.remeasure) = true := by simpa using hdue
  show execMarginMeasurement i m s = _
  simp only [execMarginMeasurement, hup, hdue, onlyIf]
  rfl

theorem health_measured (hup : s.segUp i = true) :
    ((s.onSeg i (fun g => { g with health := marginMeasured m g.health })).seg i).health = marginMeasured m (s.seg i).health := by
  rw [s.seg_onSeg_eq _ (hasSeg_of_segUp hup)]

end Margin

/-- Settles O52. -/
theorem marginAndPhy : Obligations.MarginAndPhy := by
  refine ⟨?_, ?_, ?_, ?_⟩
  · intro s u i m hup hdue hu
    have hu : u = s.onSeg i (fun g => { g with health := marginMeasured m g.health }) := hu
    have hexec := execMarginMeasurement_due (m := m) hup hdue
    have hhealth : (u.seg i).health = marginMeasured m (s.seg i).health := by
      rw [hu]
      exact health_measured hup
    have hglob : u.glob = s.glob := by rw [hu]; rfl
    have hedge : u.edge = s.edge := by rw [hu]; rfl
    rw [← hu] at hexec
    refine ⟨fun hamber => ?_, fun hclear hthr hfloor => ?_, fun hclear hlow => ?_, fun hclear hthr hfloor => ?_⟩
    · rw [hexec, if_pos hamber]
    · rw [hexec, if_neg (by simp [hclear]), if_neg (by omega), if_neg (by omega)]
    · rw [hexec, if_neg (by simp [hclear]), if_pos hlow]
    · rw [hexec, if_neg (by simp [hclear]), if_neg (by omega), if_pos hthr]
      unfold State.trimMargin
      dsimp only
      rw [hhealth, hglob, hedge]
      refine ⟨fun hout => ?_, fun hout => ⟨fun hroom => ?_, fun hfull hclock => ?_, fun hfull hclock => ?_⟩⟩
      · rw [if_pos (show (marginMeasured m (s.seg i).health).vreqOut = true from hout)]
      all_goals rw [if_neg (show ¬(marginMeasured m (s.seg i).health).vreqOut = true by simpa [marginMeasured] using hout)]
      · rw [if_pos (show (marginMeasured m (s.seg i).health).vcoreMv + 5 ≤ _ from hroom)]
        rfl
      · rw [if_neg (show ¬(marginMeasured m (s.seg i).health).vcoreMv + 5 ≤ _ from Nat.not_le.mpr hfull),
          if_pos (show _ ≤ (marginMeasured m (s.seg i).health).clockMhz from hclock)]
        rfl
      · rw [if_neg (show ¬(marginMeasured m (s.seg i).health).vcoreMv + 5 ≤ _ from Nat.not_le.mpr hfull),
          if_neg (show ¬_ ≤ (marginMeasured m (s.seg i).health).clockMhz from Nat.not_le.mpr hclock)]
        rfl
  · intro s i hup hstep hclear
    have hexec : exec (.clockStep i) s = .next (if s.glob.planClock + 25 ≤ (s.seg i).health.clockMhz then
        s.onSeg i (fun g => { g with health := steppedClock g.health })
        else (s.onSeg i (fun g => { g with health := { g.health with stepDown := false } })).raise i 0x08 0x1 i 0 s.edge
          (replanDetail (s.seg i).health.marginPs (s.seg i).health.clockMhz s.glob.planClock)) := by
      show execClockStep i s = _
      simp only [execClockStep, hup, hstep, hclear, onlyIf]
      rfl
    refine ⟨fun hroom => ⟨_, hexec.trans (congrArg _ (if_pos hroom)), ?_, ?_, fun j hj => s.seg_onSeg_ne _ hj, rfl⟩, fun hlow => ?_⟩
    · rw [s.seg_onSeg_eq _ (hasSeg_of_segUp hup)]
      rfl
    · rw [s.seg_onSeg_eq _ (hasSeg_of_segUp hup)]
    · rw [hexec, if_neg (by omega)]
  · intro s i hup
    show execVreqAck i s = _
    simp only [execVreqAck, hup, onlyIf]
    rfl
  · intro s i master hup hhush
    have hhush : (s.power.hush != 1) = true := bne_iff_ne.mpr hhush
    have hexec : exec (.phyUpdateRequest i master) s = .next (if phyFree s.time.beat (s.seg i).stack.phyWindow then
        s.onSeg i (fun g => { g with stack := { g.stack with phyWindow := some s.time.beat } }) else s) := by
      show execPhyUpdateRequest i master s = _
      simp only [execPhyUpdateRequest, hup, hhush, onlyIf, Bool.true_and]
    refine ⟨fun hfree => ?_, fun b hb hlate => ?_⟩
    · rw [hexec, if_pos]
      rcases hfree with h | ⟨b, hb, hle⟩
      · rw [h]
        rfl
      · rw [hb]
        exact decide_eq_true hle
    · rw [hexec, if_neg]
      rw [hb]
      simpa [phyFree] using hlate

/-! Supplies. -/

theorem seg_raise_supply (s : State) (src code scope seg part : Nat) (e : Stamp) (d i : Nat) :
    ((s.raise src code scope seg part e d).seg i).supply = (s.seg i).supply := by
  rw [show (s.raise src code scope seg part e d).seg i = _ from (noticesOnly_raise s src code scope seg part e d).2.2 i]

theorem raise_eq (s : State) (src code scope seg part : Nat) (e : Stamp) (d : Nat) :
    s.raise src code scope seg part e d = { s with segs := (s.raise src code scope seg part e d).segs } :=
  (noticesOnly_raise s src code scope seg part e d).1

theorem hasSeg_noteFeed (s : State) (v : Nat) (e : Stamp) (i : Nat) : (s.noteFeed v e).hasSeg i = s.hasSeg i := by
  simp [State.hasSeg, State.noteFeed, State.onSegs_length]

theorem seg_noteFeed {s : State} (v : Nat) (e : Stamp) {i : Nat} (hi : s.hasSeg i = true) :
    (s.noteFeed v e).seg i = { s.seg i with supply := { (s.seg i).supply with feedAt := some e } } :=
  seg_onSegs_has (fun _ g => { g with supply := { g.supply with feedAt := some e } }) hi

/-- A GONG: the record that every segment latches, and the cold reset of the block (R385). -/
theorem gong_latches (s : State) (rec : Nat) : (s.gong rec).power.gongLast = rec ∧ (s.gong rec).power.gongOut = true ∧
    (s.gong rec).power.inReset = true ∧ (s.gong rec).seqs = [] ∧ (s.gong rec).handles = [] ∧ (s.gong rec).time.beat = s.time.beat ∧
    ∀ i, s.hasSeg i = true → ((s.gong rec).seg i).supply.gong = some rec := by
  refine ⟨rfl, rfl, rfl, rfl, rfl, rfl, fun i hi => ?_⟩
  have hlen : s.coldReset.segs.length = s.segs.length := (List.length_map _).trans (length_allSegs s)
  have hat : i < s.coldReset.segs.length := by
    rw [hlen]
    simpa [State.hasSeg] using hi
  rw [show (s.gong rec).seg i = _ from seg_onSegs s.coldReset
    (fun _ g => interrupt 1 { g with supply := { g.supply with gong := some rec } }) hat]
  rfl

theorem execFeedReading_eq {s : State} (cyc : Nat) {v : Nat} (hv : v < 2 ^ 16) : exec (.feedReading cyc v) s = .next
    (if v ≤ s.glob.feedCrimson && !s.power.gongOut then (s.noteFeed v (s.arrival cyc)).gong (gongRecord 0x02 0x0 0 v (s.arrival cyc))
     else if v ≤ s.glob.feedAmber && !s.power.feedAmber then (s.noteFeed v (s.arrival cyc)).feedEntersAmber v (s.arrival cyc)
     else s.noteFeed v (s.arrival cyc)) := by
  have hv : v % 65536 = v := Nat.mod_eq_of_lt hv
  show execFeedReading cyc v s = _
  unfold execFeedReading
  dsimp only
  rw [hv]

theorem feedInAmber_noteFeed (s : State) (v : Nat) (e : Stamp) : (s.noteFeed v e).feedInAmber = s.feedInAmber := by
  unfold State.feedInAmber State.noteFeed
  dsimp only
  rw [onSegs_const, List.any_map]
  rfl

/-- The feed's amber, before it is raised and counted. -/
noncomputable def feedAmberAt (s : State) : State := ({ s with power := { s.power with feedAmber := true } } : State).throttle

theorem seg_feedAmberAt {s : State} {i : Nat} (hi : s.hasSeg i = true) :
    (feedAmberAt s).seg i = { s.seg i with supply := throttleOf true (s.seg i).supply } :=
  seg_onSegs_has (s := { s with power := { s.power with feedAmber := true } }) (fun _ g => { g with supply := throttleOf true g.supply }) hi

theorem seg_feedClears {s : State} {i : Nat} (hi : s.hasSeg i = true) :
    (s.feedClears.seg i).supply = throttleOf false { (s.seg i).supply with feedStale := false } := by
  have h1 := seg_onSegs_has (fun _ (g : Segment) => { g with supply := { g.supply with feedStale := false } }) hi
  have hlen : ({ s.onSegs (fun _ g => { g with supply := { g.supply with feedStale := false } }) with
      power := { s.power with feedAmber := false } } : State).hasSeg i = true := by
    simpa [State.hasSeg, State.onSegs_length] using hi
  have h2 := seg_onSegs_has (fun _ (g : Segment) => { g with supply := throttleOf false g.supply }) hlen
  rw [show s.feedClears.seg i = _ from h2]
  exact congrArg (fun g : Segment => throttleOf false g.supply) h1

theorem execRailDroopEdge_eq {s : State} (cyc : Nat) {i v : Nat} (hi : s.hasSeg i = true) (hv : v < 2 ^ 16) :
    exec (.railDroopEdge cyc i v) s = .next
      (if railCrimsonAt ≤ v && !s.power.gongOut then
        (s.onSeg i (fun g => { g with supply := noteRail v (s.arrival cyc) g.supply })).gong (gongRecord 0x01 0x1 i v (s.arrival cyc))
       else if railAmberAt ≤ v && !(s.seg i).supply.railAmber then
        (((s.onSeg i (fun g => { g with supply := noteRail v (s.arrival cyc) g.supply })).onSeg i
          (fun g => { g with supply := railEnters g.supply })).raiseRail i 0x05 v (s.arrival cyc)).countAmber
       else s.onSeg i (fun g => { g with supply := noteRail v (s.arrival cyc) g.supply })) := by
  have hv : v % 65536 = v := Nat.mod_eq_of_lt hv
  show execRailDroopEdge cyc i v s = _
  unfold execRailDroopEdge
  dsimp only
  rw [hv]
  simp only [hi, onlyIf]
  rfl

theorem seg_noteRail {s : State} {i : Nat} (hi : s.hasSeg i = true) (v : Nat) (e : Stamp) :
    (s.onSeg i (fun g => { g with supply := noteRail v e g.supply })).seg i = { s.seg i with supply := noteRail v e (s.seg i).supply } :=
  s.seg_onSeg_eq _ hi

/-- A notice of a core rail, of a segment out of reset or in it. -/
theorem raiseRail_cases (s : State) (i code v : Nat) (e : Stamp) : s.raiseRail i code v e = s ∨
    s.raiseRail i code v e = s.raise i code 0x1 i 0 e (supplyDetail false v) := by
  unfold State.raiseRail
  split
  · exact Or.inl rfl
  · exact Or.inr rfl

theorem raiseRail_eq (s : State) (i code v : Nat) (e : Stamp) : s.raiseRail i code v e = { s with segs := (s.raiseRail i code v e).segs } := by
  rcases raiseRail_cases s i code v e with h | h
  · rw [h]
  · rw [h]
    exact raise_eq s _ _ _ _ _ _ _

theorem supply_raiseRail (s : State) (i code v : Nat) (e : Stamp) (j : Nat) : ((s.raiseRail i code v e).seg j).supply = (s.seg j).supply := by
  rcases raiseRail_cases s i code v e with h | h
  · rw [h]
  · rw [h]
    exact seg_raise_supply s _ _ _ _ _ _ _ _

theorem othersAnswered_raiseRail (s : State) (i code v : Nat) (e : Stamp) : othersAnswered i s (s.raiseRail i code v e) := by
  rcases raiseRail_cases s i code v e with h | h
  · rw [h]
    exact fun j _ => answersOnly_refl _
  · rw [h]
    exact othersAnswered_raise s _ _ _ _ _ _ _

theorem raiseRail_up {s : State} {i : Nat} (h : (s.seg i).inReset = false) (code v : Nat) (e : Stamp) :
    s.raiseRail i code v e = s.raise i code 0x1 i 0 e (supplyDetail false v) := if_neg (by rw [h]; decide)

theorem raiseFeed_up {s : State} (h : s.power.inReset = false) (code v : Nat) (e : Stamp) :
    s.raiseFeed code v e = s.raise s.mgr code 0x0 0 0 e (supplyDetail true v) := if_neg (by rw [h]; decide)

/-- What a notice of the feed leaves, of a block out of reset or in it. -/
theorem raiseFeed_leaves (s : State) (code v : Nat) (e : Stamp) : s.raiseFeed code v e = { s with segs := (s.raiseFeed code v e).segs } ∧
    ∀ j, ((s.raiseFeed code v e).seg j).supply = (s.seg j).supply := by
  unfold State.raiseFeed
  split
  · exact ⟨rfl, fun _ => rfl⟩
  · exact ⟨raise_eq s _ _ _ _ _ _ _, fun j => seg_raise_supply s _ _ _ _ _ _ _ j⟩

/-- What changes one segment leaves the others. -/
theorem othersAnswered_onSeg (s : State) (i : Nat) (f : Segment → Segment) : othersAnswered i s (s.onSeg i f) := fun j hj => by
  rw [s.seg_onSeg_ne f hj]
  exact answersOnly_refl _

theorem modifyAt_absent {α : Type} (f : α → α) {n : Nat} {l : List α} (h : l.length ≤ n) : modifyAt f n l = l := by
  induction l generalizing n with
  | nil => cases n <;> rfl
  | cons a l ih =>
    cases n with
    | zero => cases h
    | succ n => exact congrArg (a :: ·) (ih (Nat.le_of_succ_le_succ h))

theorem onSeg_absent {s : State} {i : Nat} (h : s.segs.length ≤ i) (f : Segment → Segment) : s.onSeg i f = s := by
  unfold State.onSeg
  rw [modifyAt_absent f h]

/-- A write of a segment's supply is one of what it writes there. -/
theorem onSeg_supply (s : State) (i : Nat) (f : SupplyS → SupplyS) : s.onSeg i (fun g => { g with supply := f g.supply }) =
    s.onSeg i (fun g => { g with supply := ((s.onSeg i (fun g => { g with supply := f g.supply })).seg i).supply }) := by
  by_cases hi : s.hasSeg i = true
  · refine s.onSeg_congr i _ _ ?_
    rw [s.seg_onSeg_eq _ hi]
  · have hlen : s.segs.length ≤ i := by simpa [State.hasSeg] using hi
    exact (onSeg_absent hlen _).trans (onSeg_absent hlen _).symm

/-- A segment that treats the feed as stale, before it is raised (R416). -/
noncomputable def staleAt (s : State) (i : Nat) : State :=
  let t := (s.onSeg i staleSegment).count (fun c => { c with feedStale := c.feedStale + 1 })
  let t := { t with power := { t.power with feedAbove := none } }
  if s.feedInAmber then t else t.countAmber

theorem staleAt_eq (s : State) (i : Nat) : staleAt s i = { s.onSeg i staleSegment with
    power := { s.power with feedAbove := none }
    cnt := { s.cnt with feedStale := s.cnt.feedStale + 1, amberEntries := s.cnt.amberEntries + (if s.feedInAmber then 0 else 1) } } := by
  unfold staleAt
  dsimp only
  cases s.feedInAmber with
  | true => rfl
  | false => rfl

/-- Settles O51. -/
theorem supplies : Obligations.Supplies := by
  refine ⟨?_, ?_, ?_, ?_, ?_⟩
  · intro s cyc v hv
    have hexec := execFeedReading_eq (s := s) cyc hv
    refine ⟨fun hcrimson hgong => ?_, fun hcrimson hamber hclear hreset => ?_, fun hcrimson hstays => ?_⟩
    · obtain ⟨g1, g2, g3, g4, g5, g6, g7⟩ := gong_latches (s.noteFeed v (s.arrival cyc)) (gongRecord 0x02 0x0 0 v (s.arrival cyc))
      exact ⟨_, hexec.trans (congrArg _ (if_pos (by simp [hcrimson, hgong]))), g1, g2, g3, g4, g5,
        fun i hi => (g7 i (by rwa [hasSeg_noteFeed])).trans (congrArg some g1.symm), g6⟩
    · have hfeed : s.power.feedAmber = false := by
        unfold State.feedInAmber at hclear
        exact (Bool.or_eq_false_iff.mp hclear).1
      have hnot : ¬v ≤ s.glob.feedCrimson := by omega
      rw [if_neg (by simp [hnot]), if_pos (by simp [hamber, hfeed])] at hexec
      refine ⟨feedAmberAt (s.noteFeed v (s.arrival cyc)), _, hexec, rfl, rfl, fun i hi => ?_, rfl, ?_⟩
      · rw [seg_feedAmberAt (by rwa [hasSeg_noteFeed]), seg_noteFeed v _ hi]
        exact ⟨by simp [throttleOf], rfl, rfl⟩
      · have henters : (s.noteFeed v (s.arrival cyc)).feedEntersAmber v (s.arrival cyc) =
            ((feedAmberAt (s.noteFeed v (s.arrival cyc))).raiseFeed 0x05 v (s.arrival cyc)).countAmber :=
          if_neg (by rw [feedInAmber_noteFeed, hclear]; decide)
        rw [henters, raiseFeed_up (s := feedAmberAt (s.noteFeed v (s.arrival cyc))) hreset]
        rfl
    · have hnot : ¬v ≤ s.glob.feedCrimson := by omega
      have hstands : (decide (v ≤ s.glob.feedAmber) && !s.power.feedAmber) = false := by
        rcases hstays with h | h
        · simp [h]
        · simp [Nat.not_le.mpr h]
      rw [if_neg (by simp [hnot]), hstands, if_neg (by decide)] at hexec
      refine ⟨_, hexec, rfl, fun habove hnone => ?_, fun hbelow => ?_, fun i hi => seg_noteFeed v _ hi, rfl⟩
      · show aboveSince (decide (s.glob.feedClear < v)) (s.arrival cyc) s.power.feedAbove = _
        rw [hnone, decide_eq_true habove]
        rfl
      · show aboveSince (decide (s.glob.feedClear < v)) (s.arrival cyc) s.power.feedAbove = _
        rw [decide_eq_false (by omega)]
        rfl
  · intro s cyc i v hi hv
    have hexec := execRailDroopEdge_eq cyc hi hv
    have hnoted := seg_noteRail hi v (s.arrival cyc)
    refine ⟨fun hcrimson hgong => ?_, fun hamber hcrimson hclear => ?_, fun hstays => ?_⟩
    · obtain ⟨g1, -, g3, g4, -, -, g7⟩ := gong_latches (s.onSeg i (fun g => { g with supply := noteRail v (s.arrival cyc) g.supply }))
        (gongRecord 0x01 0x1 i v (s.arrival cyc))
      have hcrimson : railCrimsonAt ≤ v := hcrimson
      refine ⟨_, hexec.trans (congrArg _ (if_pos (by simp [hcrimson, hgong]))), g1, g3, g4, fun j hj => ?_⟩
      exact (g7 j (by simpa [State.hasSeg, State.onSeg_length] using hj)).trans (congrArg some g1.symm)
    · have hcrimson : ¬railCrimsonAt ≤ v := Nat.not_le.mpr hcrimson
      have hamber' : railAmberAt ≤ v := hamber
      rw [if_neg (by simp [hcrimson]), if_pos (by simp [hamber', hclear]), State.onSeg_onSeg] at hexec
      have hseg := s.seg_onSeg_eq (fun g => { g with supply := railEnters (noteRail v (s.arrival cyc) g.supply) }) hi
      have hsupply : ((s.onSeg i (fun g => { g with supply := railEnters (noteRail v (s.arrival cyc) g.supply) })).raiseRail i 0x05 v (s.arrival cyc)
          |>.seg i).supply = railEnters (noteRail v (s.arrival cyc) (s.seg i).supply) := by
        rw [supply_raiseRail, hseg]
      refine ⟨_, hexec, congrArg SupplyS.railAmber hsupply, congrArg SupplyS.throttled hsupply, (congrArg SupplyS.railAbove hsupply).trans ?_,
        congrArg SupplyS.railEntries hsupply, ?_, fun hup => ⟨_, onSeg_supply s i (fun u => railEnters (noteRail v (s.arrival cyc) u)), ?_⟩, ?_, ?_⟩
      · show aboveSince (decide (v < railClearBelow)) _ _ = none
        rw [decide_eq_false (by unfold railClearBelow; omega)]
        rfl
      · rw [raiseRail_eq]
        rfl
      · refine congrArg State.countAmber (raiseRail_up ?_ _ _ _)
        rw [hseg]
        exact hup
      · exact othersAnswered_trans (othersAnswered_onSeg s i _) (othersAnswered_raiseRail _ _ _ _ _)
      · rw [raiseRail_eq]
        rfl
    · have hnot : ¬railCrimsonAt ≤ v := by
        unfold railCrimsonAt
        omega
      have hstands : (decide (railAmberAt ≤ v) && !(s.seg i).supply.railAmber) = false := by
        rcases hstays with h | ⟨-, h⟩
        · have h : ¬railAmberAt ≤ v := Nat.not_le.mpr h
          simp [h]
        · simp [h]
      rw [if_neg (by simp [hnot]), hstands, if_neg (by decide)] at hexec
      exact ⟨_, hexec, congrArg Segment.supply hnoted, fun j hj => s.seg_onSeg_ne _ hj, rfl⟩
  · intro s hamber hclear
    have hexec : exec (.supplyClear .feed) s = .next (s.feedClears.raiseFeed 0x06 s.power.feed s.edge) := by
      show execSupplyClear .feed s = _
      simp only [execSupplyClear, hamber, hclear, onlyIf]
      rfl
    obtain ⟨hfields, hsupply⟩ := raiseFeed_leaves s.feedClears 0x06 s.power.feed s.edge
    refine ⟨_, hexec, ?_, fun i hi => ?_, fun hreset => raiseFeed_up (s := s.feedClears) hreset _ _ _, ?_⟩
    · rw [hfields]
      rfl
    · rw [hsupply, seg_feedClears hi]
      exact ⟨rfl, by simp [throttleOf]⟩
    · rw [hfields]
      rfl
  · intro s i hamber hclear
    have hexec : exec (.supplyClear (.rail i)) s = .next
        ((s.onSeg i (fun g => { g with supply := railClears s.power.feedAmber g.supply })).raiseRail i 0x06 (s.seg i).supply.droop s.edge) := by
      show execSupplyClear (.rail i) s = _
      simp only [execSupplyClear, hamber, hclear, onlyIf]
      rfl
    have hi : s.hasSeg i = true := by
      by_contra h
      have hlen : s.segs.length ≤ i := by simpa [State.hasSeg] using h
      rw [State.seg, List.getD_eq_default _ _ hlen] at hamber
      cases hamber
    have hseg := s.seg_onSeg_eq (fun g => { g with supply := railClears s.power.feedAmber g.supply }) hi
    refine ⟨_, hexec, ?_, ?_, fun hup => ⟨_, onSeg_supply s i (railClears s.power.feedAmber), raiseRail_up ?_ _ _ _⟩, ?_, ?_⟩
    · rw [supply_raiseRail, hseg]
      rfl
    · rw [supply_raiseRail, hseg]
      simp [railClears, throttleOf]
    · rw [hseg]
      exact hup
    · exact othersAnswered_trans (othersAnswered_onSeg s i _) (othersAnswered_raiseRail _ _ _ _ _)
    · rw [raiseRail_eq]
      rfl
  · intro s cyc i hup hfresh
    have hexec : exec (.feedStale cyc i) s = .next (if noFeed (s.arrival cyc) (s.seg i).supply then
        (staleAt s i).raise i 0x05 0x0 0 0 (s.arrival cyc) (supplyDetail true 0xFFFF) else s) := by
      show execFeedStale cyc i s = _
      simp only [execFeedStale, hup, hfresh, onlyIf]
      rfl
    have hi := hasSeg_of_segUp hup
    refine ⟨fun a ha hlate => ?_, fun hlate => ?_⟩
    · rw [hexec, if_neg]
      simp [noFeed, ha, hlate]
    · have hno : noFeed (s.arrival cyc) (s.seg i).supply = true := by
        unfold noFeed
        split
        · next a ha => simp [hlate a ha]
        · rfl
      have hseg : (staleAt s i).seg i = staleSegment (s.seg i) := by
        rw [staleAt_eq]
        exact s.seg_onSeg_eq staleSegment hi
      have hsupply : (((staleAt s i).raise i 0x05 0x0 0 0 (s.arrival cyc) (supplyDetail true 0xFFFF)).seg i).supply = (staleSegment (s.seg i)).supply := by
        rw [seg_raise_supply, hseg]
      have hfields := raise_eq (staleAt s i) i 0x05 0x0 0 0 (s.arrival cyc) (supplyDetail true 0xFFFF)
      refine ⟨_, hexec.trans (congrArg _ (if_pos hno)), congrArg SupplyS.feedStale hsupply, congrArg SupplyS.throttled hsupply, ?_, ?_,
        ⟨staleAt s i, ?_, rfl⟩, ?_, fun j hj => ?_, ?_⟩
      · rw [hfields, staleAt_eq]
      · rw [hfields, staleAt_eq]
      · rw [staleAt_eq]
        rfl
      · rw [hfields, staleAt_eq]
      · refine answersOnly_trans ?_ (othersAnswered_raise _ _ _ _ _ _ _ _ j hj)
        rw [staleAt_eq]
        exact othersAnswered_onSeg s i staleSegment j hj
      · rw [hfields, staleAt_eq]
        rfl

end Sys2Proof.Proofs
end
section
/-! The test port, and the responses and credits of the initiator channel (R92, R95, R97, R291, R328, R403 to R405). -/

namespace Sys2Proof.Proofs

open Sys2Proof Sys2Proof.Machine

/-! The initiator channel. -/

theorem closeReq_frees (tag : Nat) (p : Port) : ∀ x ∈ (closeReq tag p).issued, x.tag ≠ tag := by
  intro x hx
  simpa using (List.mem_filter.mp hx).2

theorem hasSeg_of_outstanding {s : State} {i tag : Nat} {w : Bool} {r : DmaReq} (h : outstanding tag w (s.seg i).port = some r) :
    s.hasSeg i = true := by
  by_contra hn
  have hlen : s.segs.length ≤ i := by simpa [State.hasSeg] using hn
  rw [State.seg, List.getD_eq_default _ _ hlen] at h
  cases h

/-- A transfer changed is the one of its number. -/
theorem mem_transfers_onTransfer {s : State} {e : Endpoint} {id : Nat} {f : Transfer → Transfer} (_ : ∀ t, (f t).id = t.id) {x : Transfer}
    (hx : x ∈ ((s.onTransfer e id f).ep e).transfers) (hx' : x.id = id) : ∃ t, x = f t := by
  have hep := ep_onEp s e e (f := fun x => { x with transfers := x.transfers.map (fun t => if t.id == id then f t else t) }) (fun _ => rfl)
  rw [show (s.onTransfer e id f).ep e = _ from hep, if_pos rfl] at hx
  obtain ⟨t, -, rfl⟩ := List.mem_map.mp hx
  by_cases h : t.id = id
  · exact ⟨t, if_pos (beq_iff_eq.mpr h)⟩
  · rw [if_neg (by simpa using h)] at hx'
    exact absurd hx' h

/-- A credit returned to a port that has nothing to send is one credit more (R403). -/
theorem addCredit_idle {p : Port} (wd : Bool) (hw : p.waiting = []) (hi : p.issued = []) :
    (addCredit wd p).wdCredit = p.wdCredit + (if wd then 1 else 0) ∧ (addCredit wd p).reqCredit = p.reqCredit + (if wd then 0 else 1) := by
  cases wd with
  | true => simp [addCredit, Port.pump, hw, hi, issueAll, sendBeats]
  | false => simp [addCredit, Port.pump, hw, hi, issueAll, sendBeats]

/-- Settles O54. -/
theorem initiatorChannel : Obligations.InitiatorChannel := by
  refine ⟨?_, ?_, ?_⟩
  · intro s u cyc i tag r hr hu
    have hexec (error : Bool) : exec (.dmaWriteResponse ⟨cyc, i⟩ tag error) s = .next
        (if error then (u.writeFails cyc i r).count (fun c => { c with dmaWriteErrors := c.dmaWriteErrors + 1 })
         else if 0 < r.more then u.carryOn i r else u.writeLands r.what) := by
      show execDmaWriteResponse ⟨cyc, i⟩ tag error s = _
      simp only [execDmaWriteResponse, hr]
      rw [hu]
      rfl
    have hseg : (u.seg i).port = closeReq tag (s.seg i).port := by
      rw [hu]
      exact congrArg Segment.port (s.seg_onSeg_eq (fun g => { g with port := closeReq tag g.port }) (hasSeg_of_outstanding hr))
    refine ⟨fun hmore => (hexec false).trans (congrArg _ (if_pos hmore)), 
      fun hmore => (hexec false).trans (congrArg Host.Outcome.next (if_neg (show ¬0 < r.more by omega))), hexec true, ?_⟩
    rw [hseg]
    exact closeReq_frees tag _
  · intro s u cyc i tag data r hr hu
    have hexec (error : Bool) : exec (.dmaReadComplete cyc i tag error data) s = .next
        (if error then (u.readFails cyc r.what).count (fun c => { c with dmaReadErrors := c.dmaReadErrors + 1 })
         else if 0 < r.more then u.carryOn i r
         else match r.what with
           | .directory tag place => u.candEntry tag place (ofBytesLe (data.take 16))
           | .askDirectory id => u.askEntry id (ofBytesLe (data.take 16))
           | _ => u) := by
      show execDmaReadComplete cyc i tag error data s = _
      simp only [execDmaReadComplete, hr]
      rw [hu]
      rfl
    refine ⟨fun hmore => (hexec false).trans (congrArg _ (if_pos hmore)), fun hmore hdir hask => ?_, fun k p hmore hwhat => ?_, fun k hmore hwhat => ?_,
      hexec true, fun e k hwhat x hx hk => ?_⟩
    · rw [hexec false, if_neg (by decide), if_neg (by omega)]
      split
      · next k p h => exact absurd h (hdir k p)
      · next k h => exact absurd h (hask k)
      · rfl
    · rw [hexec false, if_neg (by decide), if_neg (by omega), hwhat]
    · rw [hexec false, if_neg (by decide), if_neg (by omega), hwhat]
    · rw [hwhat] at hx
      obtain ⟨t, rfl⟩ := mem_transfers_onTransfer (s := u) (f := fun t => { t with failed := true }) (fun _ => rfl) hx hk
      rfl
  · intro s i wd hup hconn
    refine ⟨?_, fun hw hi _ => addCredit_idle wd hw hi⟩
    show execInitiatorCreditReturn i wd s = _
    simp only [execInitiatorCreditReturn, hup, hconn, onlyIf]
    rfl

/-! The test port. -/

theorem hasSeg_of_testOpen {s : State} {i : Nat} (h : s.testOpen i = true) : s.hasSeg i = true := (Bool.and_eq_true_iff.mp h).1

/-- An entry of the remap table after a write of four of them (R97). -/
theorem remap_writeRemap (from_ w : Nat) (a : ArrayS) (n : Nat) : (writeRemap from_ w a).remap[n]? =
    if from_ ≤ n ∧ n < from_ + 4 then a.remap[n]?.map (fun _ => remapOf w (n - from_)) else a.remap[n]? := by
  unfold writeRemap
  simp only [List.getElem?_map, List.getElem?_zipIdx, Nat.zero_add]
  cases h : a.remap[n]? with
  | none => simp
  | some e => by_cases hn : from_ ≤ n ∧ n < from_ + 4 <;> simp [hn]

theorem mem_faults_markColumn_iff (c d : Nat) (a : ArrayS) : d ∈ (markColumn c a).faults ↔ d = c ∨ d ∈ a.faults := by
  unfold markColumn
  split
  · next h =>
    have h := List.contains_iff_mem.mp h
    constructor
    · exact Or.inr
    · rintro (rfl | hd)
      · exact h
      · exact hd
  · dsimp only
    split
    · exact mem_insertNat
    · rw [faults_spareBad]
      exact mem_insertNat

theorem mem_faults_markColumns (l : List Nat) (d : Nat) (a : ArrayS) :
    d ∈ (l.foldl (fun a c => markColumn c a) a).faults ↔ d ∈ l ∨ d ∈ a.faults := by
  induction l generalizing a with
  | nil => simp
  | cons c l ih =>
    rw [List.foldl_cons, ih, mem_faults_markColumn_iff, List.mem_cons]
    tauto

/-- The columns that a fault register holds as failed (R92, R95). -/
theorem mem_faultsSet (k w c : Nat) : c ∈ ((maskBits 64 w).map (64 * k + ·)).filter (· < 264) ↔
    64 * k ≤ c ∧ c < 64 * (k + 1) ∧ c < 264 ∧ w.testBit (c - 64 * k) = true := by
  unfold maskBits
  simp only [List.mem_filter, List.mem_map, List.mem_range, decide_eq_true_eq]
  constructor
  · rintro ⟨⟨b, ⟨hb, hw⟩, rfl⟩, hc⟩
    refine ⟨by omega, by omega, hc, ?_⟩
    rwa [Nat.add_sub_cancel_left]
  · rintro ⟨h1, h2, h3, hw⟩
    exact ⟨⟨c - 64 * k, ⟨by omega, hw⟩, by omega⟩, h3⟩

/-- A write of a fault register makes its columns those that its word names, and leaves the others. -/
theorem mem_faults_writeFaults (k w : Nat) (a : ArrayS) (c : Nat) : c ∈ (writeFaults k w a).faults ↔
    if 64 * k ≤ c ∧ c < 64 * (k + 1) then c < 264 ∧ w.testBit (c - 64 * k) = true else c ∈ a.faults := by
  unfold writeFaults
  dsimp only
  rw [mem_faults_markColumns]
  have hset := mem_faultsSet k w c
  generalize ((maskBits 64 w).map (64 * k + ·)).filter (· < 264) = set at hset ⊢
  rw [List.mem_filter]
  by_cases hin : 64 * k ≤ c ∧ c < 64 * (k + 1)
  · have here : (!(decide (64 * k ≤ c) && decide (c < 64 * (k + 1))) || set.contains c) = true ↔ c ∈ set := by
      simp [hin]
    rw [if_pos hin, here]
    tauto
  · have here : (!(decide (64 * k ≤ c) && decide (c < 64 * (k + 1))) || set.contains c) = true := by
      rw [← Bool.decide_and, decide_eq_false hin]
      rfl
    rw [if_neg hin, and_iff_left here]
    tauto

/-- A segment with one array written. -/
theorem onSeg_onArray {s : State} {i : Nat} (hi : s.hasSeg i = true) (a : Arr) (f : ArrayS → ArrayS) :
    ((s.onSeg i (fun g => g.onArray a f)).seg i).array a = f ((s.seg i).array a) := by
  rw [s.seg_onSeg_eq _ hi, array_onArray_same]

theorem execTestPortWrite_open {s : State} {i : Nat} (h : s.testOpen i = true) (x : TestWrite) :
    exec (.testPortWrite i x) s = .next (s.testWrite i x) := by
  show execTestPortWrite i x s = _
  simp only [execTestPortWrite, h, onlyIf]
  rfl

theorem testOpen_locked {s : State} {i : Nat} (h : (s.seg i).trust.lifecycle = .secured ∨ (s.seg i).trust.lifecycle = .retired) :
    s.testOpen i = false := by
  unfold State.testOpen
  rcases h with h | h <;> simp [h]

/-- A segment that the test port lets go and that serves: its queues return to NORMAL (R291). -/
noncomputable def freed (s : State) (i : Nat) : State :=
  let t := (s.onSeg i (testHold false)).onSeg i (holdQueues s.now false)
  if i == s.mgr then t.endpointMode false else t

theorem letGo_serving {s : State} {i : Nat} (hs : (s.seg i).state = .serving) (hr : s.roles.recovering = none)
    (hm : i ≠ s.mgr ∨ s.roles.selfFenced = false) : s.letGo i = (freed s i).settleReads := by
  have hfree : ((s.seg i).state == .serving && s.roles.recovering.isNone && !(i == s.mgr && s.roles.selfFenced)) = true := by
    rcases hm with h | h
    · simp [hs, hr, h]
    · simp [hs, hr, h]
  unfold State.letGo
  dsimp only
  rw [hfree, if_pos rfl]
  rfl

theorem letGo_idle {s : State} {i : Nat} (h : (s.seg i).state ≠ .serving ∨ s.roles.recovering ≠ none ∨ (i = s.mgr ∧ s.roles.selfFenced = true)) :
    s.letGo i = s.onSeg i (testHold false) := by
  have hfree : ((s.seg i).state == .serving && s.roles.recovering.isNone && !(i == s.mgr && s.roles.selfFenced)) = false := by
    rcases h with h | h | ⟨h, h'⟩
    · simp [h]
    · simp [Option.isNone_iff_eq_none, h]
    · simp [h, h']
  unfold State.letGo
  dsimp only
  rw [hfree, if_neg (by decide)]

theorem execTestPortRelease_held {s : State} {i : Nat} (hi : s.hasSeg i = true) (hheld : (s.seg i).trust.testHeld = true) :
    exec (.testPortRelease i) s = .next (s.letGo i) := by
  show execTestPortRelease i s = _
  simp only [execTestPortRelease, hi, hheld, onlyIf]
  rfl

theorem freed_fields (s : State) (i : Nat) : ∃ E, freed s i = { s with
    segs := ((s.onSeg i (testHold false)).onSeg i (holdQueues s.now false)).segs, objs := { s.objs with eps := E } } := by
  unfold freed
  dsimp only
  split
  · exact ⟨_, rfl⟩
  · exact ⟨s.objs.eps, rfl⟩

theorem hold_qMode (e : Stamp) (h : Bool) (q : WordQ) : (qMode e h q).hold = h := by
  unfold qMode
  dsimp only
  split
  · rfl
  · exact hold_qUnstall e _

/-- Settles O55. -/
theorem testPort : Obligations.TestPort := by
  refine ⟨?_, ?_, ?_, ?_, ?_⟩
  · intro s i hopen hfree
    have hi := hasSeg_of_testOpen hopen
    have hexec : exec (.testPortHold i) s = .next (s.holdSegment i) := by
      show execTestPortHold i s = _
      simp only [execTestPortHold, hopen, hfree, onlyIf]
      rfl
    have hheld : ∃ E, s.holdSegment i = { s with segs := (s.onSeg i (fun g => holdQueues s.now true (testHold true g))).segs, objs := { s.objs with eps := E } } ∧
        (i = s.mgr → ∀ x ∈ E, x.inq.hold = true ∧ x.outq.hold = true) ∧ (i ≠ s.mgr → E = s.objs.eps) := by
      unfold State.holdSegment
      dsimp only
      split
      · next hm =>
        refine ⟨_, rfl, fun _ x hx => ?_, fun h => absurd (beq_iff_eq.mp hm) h⟩
        obtain ⟨y, -, rfl⟩ := List.mem_map.mp hx
        exact ⟨rfl, rfl⟩
      · next hm => exact ⟨s.objs.eps, rfl, fun h => absurd (beq_iff_eq.mpr h) hm, fun _ => rfl⟩
    obtain ⟨E, hE, hmgr, hother⟩ := hheld
    have hseg := s.seg_onSeg_eq (fun g => holdQueues s.now true (testHold true g)) hi
    have hat (j : Nat) : (s.holdSegment i).seg j = (s.onSeg i (fun g => holdQueues s.now true (testHold true g))).seg j := by
      rw [hE]
      rfl
    refine ⟨_, hexec, ?_, ?_, ?_, ?_, ?_, ?_, fun hm => ?_, fun hm => ?_, fun j hj => ?_, ?_⟩
    · rw [hat, hseg]
      rfl
    · rw [hat, hseg]
      rfl
    · rw [hat, hseg]
      rfl
    · rw [hat, hseg]
      rfl
    · rw [hat, hseg]
      rfl
    · rw [hat, hseg]
      rfl
    · rw [hE]
      exact hmgr hm
    · rw [hE, hother hm]
    · rw [hat]
      exact s.seg_onSeg_ne _ hj
    · rw [hE]
  · intro s i hi hheld
    have hexec := execTestPortRelease_held hi hheld
    by_cases hidle : (s.seg i).state ≠ .serving ∨ s.roles.recovering ≠ none ∨ (i = s.mgr ∧ s.roles.selfFenced = true)
    · have hgo := letGo_idle hidle
      refine ⟨_, hexec, ?_, fun hs hr hm => ?_, fun _ => hgo, fun j hj => ?_, ?_⟩
      · rw [hgo, s.seg_onSeg_eq _ hi]
        rfl
      · rcases hidle with h | h | ⟨h, h'⟩
        · exact absurd hs h
        · exact absurd hr h
        · rcases hm with hm | hm
          · exact absurd h hm
          · rw [h'] at hm
            cases hm
      · rw [hgo, s.seg_onSeg_ne _ hj]
        rfl
      · rw [hgo]
        rfl
    · simp only [not_or, not_and, Bool.not_eq_true, ne_eq, not_not] at hidle
      obtain ⟨hs, hr, hm⟩ := hidle
      have hgo : s.letGo i = (freed s i).settleReads := letGo_serving hs hr (by
        by_cases h : i = s.mgr
        · exact Or.inr (hm h)
        · exact Or.inl h)
      obtain ⟨E, hE⟩ := freed_fields s i
      obtain ⟨F, hF⟩ := settleReads_fields (freed s i)
      have hread (j : Nat) : readsEnded ((s.onSeg i (testHold false)).onSeg i (holdQueues s.now false) |>.seg j) ((s.letGo i).seg j) := by
        have h := readsEnded_settleReads (freed s i) j
        rw [← hgo, show (freed s i).seg j = _ from congrArg (fun t : State => t.seg j) hE] at h
        exact h
      have hseg := hread i
      rw [State.onSeg_onSeg, s.seg_onSeg_eq _ hi] at hseg
      unfold readsEnded answersOnly at hseg
      refine ⟨_, hexec, ?_, fun _ _ _ => ?_, fun hidle => ?_, fun j hj => ?_, ?_⟩
      · rw [hseg]
        rfl
      · rw [hseg]
        exact ⟨hold_qMode _ _ _, hold_qMode _ _ _, hold_qMode _ _ _⟩
      · rcases hidle with h | h | ⟨h, h'⟩
        · exact absurd hs h
        · exact absurd hr h
        · rw [hm h] at h'
          cases h'
      · have h := hread j
        rw [State.onSeg_onSeg, s.seg_onSeg_ne _ hj] at h
        exact h
      · rw [hgo, hF, hE]
  · intro s i x hi hlocked
    have hshut := testOpen_locked hlocked
    refine ⟨?_, ?_⟩
    · show execTestPortHold i s = _
      simp [execTestPortHold, hshut, onlyIf]
    · show execTestPortWrite i x s = _
      simp [execTestPortWrite, hshut, onlyIf]
  · intro s i k w a hopen hlen hw hk
    have hi := hasSeg_of_testOpen hopen
    have hget (n : Nat) (hn : n < 8) : ((s.seg i).array a).remap[n]? = some (((s.seg i).array a).remap[n]'(by omega)) := List.getElem?_eq_getElem _
    refine ⟨⟨_, execTestPortWrite_open hopen _, ?_, ?_, fun j hj => s.seg_onSeg_ne _ hj, rfl⟩,
      ⟨_, execTestPortWrite_open hopen _, ?_, ?_, fun j hj => s.seg_onSeg_ne _ hj, rfl⟩, fun k hk => ?_⟩
    · show ((State.onSeg s i _).seg i |>.array a).remap[k]? = _
      rw [onSeg_onArray hi, remap_writeRemap, if_pos (by omega), hget k (by omega)]
      rfl
    · show ((State.onSeg s i _).seg i |>.array a).remap[k + 4]? = _
      rw [onSeg_onArray hi, remap_writeRemap, if_neg (by omega)]
    · show ((State.onSeg s i _).seg i |>.array a).remap[k + 4]? = _
      rw [onSeg_onArray hi, remap_writeRemap, if_pos (by omega), hget (k + 4) (by omega), Nat.add_sub_cancel]
      rfl
    · show ((State.onSeg s i _).seg i |>.array a).remap[k]? = _
      rw [onSeg_onArray hi, remap_writeRemap, if_neg (by omega)]
    · have hwrite : s.testWrite i (.colFault a k w) = s.onSeg i (fun g => g.onArray a (writeFaults k w)) := if_pos hk
      refine ⟨_, (execTestPortWrite_open hopen _).trans (congrArg _ hwrite), fun b hb hb' => ?_, fun c hc => ?_, fun j hj => s.seg_onSeg_ne _ hj, rfl⟩
      · rw [onSeg_onArray hi, mem_faults_writeFaults, if_pos (by omega), Nat.add_sub_cancel_left]
        simp [hb']
      · rw [onSeg_onArray hi, mem_faults_writeFaults, if_neg (by omega)]
  · intro s i d hopen hwhole
    refine ⟨fun j n m hj => ?_, fun hnone n m => ?_⟩
    · rw [execTestPortWrite_open hopen]
      simp [State.testWrite, hwhole, hj]
    · rw [execTestPortWrite_open hopen]
      simp [State.testWrite, hwhole, hnone]

end Sys2Proof.Proofs
end
section
/-! Host accesses at a port (R33, R401, R402). -/

namespace Sys2Proof.Proofs

open Sys2Proof Sys2Proof.Machine

/-- What a port's answer rests on: the segments' modules and states, the roles, the power state and the blocks. -/
structure routesKept (s t : State) : Prop where
  length : t.segs.length = s.segs.length
  roles : t.roles = s.roles
  power : t.power = s.power
  other : t.other = s.other
  seg : ∀ i, (t.seg i).hub = (s.seg i).hub ∧ (t.seg i).state = (s.seg i).state ∧ (t.seg i).inReset = (s.seg i).inReset

theorem routesKept.trans {s t u : State} (a : routesKept s t) (b : routesKept t u) : routesKept s u :=
  ⟨b.length.trans a.length, b.roles.trans a.roles, b.power.trans a.power, b.other.trans a.other, fun i =>
    ⟨(b.seg i).1.trans (a.seg i).1, (b.seg i).2.1.trans (a.seg i).2.1, (b.seg i).2.2.trans (a.seg i).2.2⟩⟩

theorem routesKept_of_queues {s t : State} (h : queuesOnly s t) : routesKept s t := by
  obtain ⟨⟨E, ht⟩, hl, hq⟩ := h
  refine ⟨hl, (congrArg State.roles ht :), (congrArg State.power ht :), (congrArg State.other ht :), fun i => ?_⟩
  have hi := hq i
  unfold queued noticed answersOnly at hi
  exact ⟨(congrArg Segment.hub hi :), (congrArg Segment.state hi :), (congrArg Segment.inReset hi :)⟩

theorem routesKept_onPort (s : State) (i : Nat) (f : Port → Port) : routesKept s (s.onSeg i (fun g => { g with port := f g.port })) := by
  refine ⟨s.onSeg_length _ _, rfl, rfl, rfl, fun j => ?_⟩
  exact seg_onSeg_of (P := fun (g h : Segment) => h.hub = g.hub ∧ h.state = g.state ∧ h.inReset = g.inReset) s i _ (fun _ => ⟨rfl, rfl, rfl⟩)
    ⟨rfl, rfl, rfl⟩ j

section Routes
variable {s t : State} (h : routesKept s t)
include h

theorem hasSeg_routesKept (i : Nat) : t.hasSeg i = s.hasSeg i := by
  unfold State.hasSeg
  rw [h.length]

theorem mgr_routesKept : t.mgr = s.mgr := (congrArg Roles.manager h.roles :)

theorem serving_routesKept (i : Nat) : t.serving i = s.serving i := by
  unfold State.serving
  rw [h.roles, (h.seg i).2.1]

theorem linkFailed_routesKept : t.linkFailed = s.linkFailed := by
  funext i d
  unfold State.linkFailed
  simp only [h.length, fun j => (h.seg j).1, fun j => (h.seg j).2.1]

theorem linkUp_routesKept (i : Nat) (d : Dir) : t.linkUp i d = s.linkUp i d := by
  unfold State.linkUp
  simp only [h.length, fun j => (h.seg j).1, linkFailed_routesKept h]

theorem meshDist_routesKept : t.meshDist = s.meshDist := by
  have hnext : t.healthyNext = s.healthyNext := by
    funext i
    unfold State.healthyNext
    rw [linkFailed_routesKept h, h.length]
  have hlevel : t.bfsLevel = s.bfsLevel := by
    funext n dist
    unfold State.bfsLevel
    rw [hnext, h.length]
  unfold State.meshDist
  rw [hlevel, h.length, mgr_routesKept h]

theorem routed_routesKept (port : Nat) (x : Place) : t.routed port x = s.routed port x := by
  have hup (i : Nat) : t.segUp i = s.segUp i := by
    unfold State.segUp State.inSecond
    rw [hasSeg_routesKept h, (h.seg i).2.2, h.other, h.roles]
  have hjoined : t.hasJoinedLink port = s.hasJoinedLink port := by
    unfold State.hasJoinedLink
    simp only [linkUp_routesKept h, h.length, fun j => serving_routesKept h j]
  have hto : t.routesTo port = s.routesTo port := by
    unfold State.routesTo
    rw [serving_routesKept h, (h.seg port).2.1, hjoined]
  have hawake : t.mgrAwake = s.mgrAwake := by
    unfold State.mgrAwake
    rw [h.power, h.roles]
  unfold State.routed
  rw [meshDist_routesKept h, hto, hawake, mgr_routesKept h]
  cases x with
  | segment i off => exact congrArg (i == port || · && _) (hup i)
  | _ => rfl

theorem portFenced_routesKept (port : Nat) : t.portFenced port = s.portFenced port := by
  unfold State.portFenced
  rw [(h.seg port).2.1, mgr_routesKept h, h.roles]

theorem placeExists_routesKept (x : Place) : t.placeExists x = s.placeExists x := by
  cases x with
  | segment i off => exact hasSeg_routesKept h i
  | _ => rfl

end Routes

/-- An access that a port has accepted: its tag noted, the cycle its own, the cycles before it closed. -/
noncomputable def accessTaken (s : State) (cyc port tag : Nat) : State :=
  ((s.onSeg port (fun g => { g with port := { g.port with reqTag := tag, busy := g.port.busy ++ [tag], trained := true } })).onCycle
    cyc).closeCycles

theorem routesKept_accessTaken (s : State) (cyc port tag : Nat) : routesKept s (accessTaken s cyc port tag) := by
  refine (routesKept_onPort s port (fun p => { p with reqTag := tag, busy := p.busy ++ [tag], trained := true })).trans ?_
  exact routesKept.trans (t := State.onCycle (State.onSeg _ _ _) cyc) ⟨rfl, rfl, rfl, rfl, fun _ => ⟨rfl, rfl, rfl⟩⟩
    (routesKept_of_queues (queuesOnly_closeCycles _))

theorem hostAccess_acceptReq {s : State} (cyc port tag : Nat) {addr word : Nat} (w : Bool) (ha : addr < 2 ^ 28) (hw : word < 2 ^ 64) :
    (s.acceptReq port tag).hostAccess cyc port addr w word =
      if addr % 8 != 0 then (accessTaken s cyc port tag).respond port 1 0
      else if (placeAt addr).isGlobal && s.portFenced port then (accessTaken s cyc port tag).respond port 2 0
      else if !s.placeExists (placeAt addr) then (accessTaken s cyc port tag).respond port 0 0
      else if s.routed port (placeAt addr) then
        ((accessTaken s cyc port tag).forward port (placeAt addr)).serveAccess cyc port w word (placeAt addr)
      else (accessTaken s cyc port tag).respond port 3 0 := by
  have h := routesKept_accessTaken s cyc port tag
  have htaken : (((s.acceptReq port tag).onPort port (fun p => { p with trained := true })).onCycle cyc).closeCycles =
      accessTaken s cyc port tag := by
    unfold State.acceptReq State.onPort accessTaken
    rw [State.onSeg_onSeg]
  unfold State.hostAccess
  dsimp only
  rw [htaken, Nat.mod_eq_of_lt ha, Nat.mod_eq_of_lt hw, portFenced_routesKept h, placeExists_routesKept h, routed_routesKept h]

theorem exec_access (s : State) (cyc port tag addr word : Nat) (w : Bool) {c : Instr}
    (hc : c = .forwardedAccess cyc ⟨port, tag⟩ addr w word ∨ (c = .registerWrite cyc ⟨port, tag⟩ addr word ∧ w = true)) :
    exec c s = .next (s.hostRequest cyc ⟨port, tag⟩ addr w word) := by
  rcases hc with rfl | ⟨rfl, rfl⟩ <;> rfl

theorem hostRequest_near {s : State} {port : Nat} (h : s.inSecond port = false) (cyc tag addr word : Nat) (w : Bool) :
    s.hostRequest cyc ⟨port, tag⟩ addr w word =
      if s.portOpen ⟨port, tag⟩ then (s.acceptReq port tag).hostAccess cyc port addr w word else s :=
  if_neg (by simp only [h, Bool.false_eq_true, not_false_eq_true])

theorem sentOnly_forward (s : State) (port : Nat) (x : Place) : sentOnly s (s.forward port x) := by
  unfold State.forward
  split
  · exact .refl s
  · exact (sentOnly_control s _ _).trans (sentOnly_control _ _ _)

/-- Settles O53. -/
theorem hostAccesses : Obligations.HostAccesses := by
  refine ⟨?_, ?_, ?_⟩
  · rintro s u v cyc port tag addr word w c hopen hnear ha hw hu rfl hc
    have hu : u = accessTaken s cyc port tag := hu
    have hexec := (exec_access s cyc port tag addr word w hc).trans (congrArg Host.Outcome.next
      (((hostRequest_near hnear cyc tag addr word w).trans (if_pos hopen)).trans (hostAccess_acceptReq cyc port tag w ha hw)))
    rw [← hu] at hexec
    generalize placeAt addr = x at hexec ⊢
    refine ⟨fun h8 => ?_, fun h8 hg hf => ?_, fun h8 hx => ?_, fun i off h8 hx hi => ?_, fun h8 hg hx => ⟨fun hr => ?_, fun hr => ?_⟩⟩
    · rw [hexec, if_pos (bne_iff_ne.mpr h8)]
    · rw [hexec, if_neg (by simp [h8]), if_pos (by rw [hg, hf]; rfl)]
    · rw [hexec, hx, if_neg (by simp [h8]), if_neg (by simp [Place.isGlobal]), if_pos (by rfl)]
    · rw [hexec, hx, if_neg (by simp [h8]), if_neg (by simp [Place.isGlobal]), if_pos (by simp [State.placeExists, hi])]
    · rw [hexec, if_neg (by simp [h8]), if_neg (by rcases hg with h | h <;> simp [h]), if_neg (by simp [hx]), if_neg (by simp [hr])]
    · have served : exec c s = .next ((u.forward port x).serveAccess cyc port w word x) := by
        rw [hexec, if_neg (by simp [h8]), if_neg (by rcases hg with h | h <;> simp [h]), if_neg (by simp [hx]), if_pos hr]
      refine ⟨served, (sentOnly_forward u port x).2.2, ?_, ?_, ?_⟩
      · rintro off rfl rfl hoff
        have hoff : ¬ (0x1000 ≤ off && off < 0x1080) = true := by
          simp only [Bool.and_eq_true, decide_eq_true_eq]
          omega
        exact served.trans (congrArg (fun t : State => Host.Outcome.next (t.respond port 0 0)) (if_neg hoff))
      · rintro rfl rfl
        exact served
      · rintro rfl rfl
        exact served
  · intro s cyc port tag addr word w hnear hbusy
    have hclosed : ¬ s.portOpen ⟨port, tag⟩ = true := by
      unfold State.portOpen State.takesReq
      simp only [Bool.and_eq_true, decide_eq_true_eq, Bool.not_eq_true', List.contains_eq_mem, decide_eq_false_iff_not]
      rintro ⟨-, hfree, hlen⟩
      exact hbusy.elim hfree (fun h => absurd hlen (by omega))
    have same (w : Bool) : s.hostRequest cyc ⟨port, tag⟩ addr w word = s := (hostRequest_near hnear cyc tag addr word w).trans (if_neg hclosed)
    exact ⟨congrArg Host.Outcome.next (same w), congrArg Host.Outcome.next (same true)⟩
  · rintro s cyc port tag addr word w c hfar hthere hc
    have far (w : Bool) : s.hostRequest cyc ⟨port, tag⟩ addr w word = (s.turn.hostRequest cyc ⟨port, tag⟩ addr w word).turn := by
      rw [hostRequest_near hthere]
      exact if_pos hfar
    rcases hc with rfl | rfl
    · exact congrArg Host.Outcome.next (far w)
    · exact congrArg Host.Outcome.next (far true)

end Sys2Proof.Proofs
end
section
/-! The service of links: detours, keys and training (R145, R147, R148, R347, R408). -/

namespace Sys2Proof.Proofs

open Sys2Proof Sys2Proof.Machine

theorem module_onModule_same (h : Hub) (d : Dir) (f : ModuleS → ModuleS) : (h.onModule d f).module d = f (h.module d) := by
  cases d <;> rfl

theorem module_onModule_ne (h : Hub) {d e : Dir} (hne : e ≠ d) (f : ModuleS → ModuleS) : (h.onModule d f).module e = h.module e := by
  cases d with
  | north =>
    cases e with
    | north => exact absurd rfl hne
    | _ => rfl
  | east =>
    cases e with
    | east => exact absurd rfl hne
    | _ => rfl
  | south =>
    cases e with
    | south => exact absurd rfl hne
    | _ => rfl
  | west =>
    cases e with
    | west => exact absurd rfl hne
    | _ => rfl

theorem tx_onModule (h : Hub) (d : Dir) (f : ModuleS → ModuleS) : (h.onModule d f).tx = h.tx := by
  cases d <;> rfl

theorem opposite_opposite (d : Dir) : opposite (opposite d) = d := by
  cases d <;> rfl

/-- A segment's neighbour is another segment of the block. -/
theorem neighbour_valid {n i j : Nat} {d : Dir} (hi : i < n) (h : neighbour n i d = some j) : j < n ∧ j ≠ i := by
  cases d with
  | north =>
    obtain ⟨h5, h⟩ := Option.ite_none_right_eq_some.mp h
    cases h
    omega
  | south =>
    obtain ⟨h5, h⟩ := Option.ite_none_right_eq_some.mp h
    cases h
    omega
  | east =>
    obtain ⟨h5, h⟩ := Option.ite_none_right_eq_some.mp h
    cases h
    simp only [Bool.and_eq_true, decide_eq_true_eq] at h5
    omega
  | west =>
    obtain ⟨h5, h⟩ := Option.ite_none_right_eq_some.mp h
    cases h
    omega

theorem any_segs {s : State} {p : Segment → Bool} {i : Nat} (hi : s.hasSeg i = true) (h : p (s.seg i) = true) : s.segs.any p = true := by
  have hlen : i < s.segs.length := of_decide_eq_true hi
  refine List.any_eq_true.mpr ⟨s.segs[i], List.getElem_mem hlen, ?_⟩
  rw [← h]
  exact congrArg p (List.getD_eq_getElem _ _ hlen).symm

/-- Both ends of a link trained. -/
theorem seg_trainLink {s : State} {i j : Nat} (d : Dir) (hi : s.hasSeg i = true) (hj : s.hasSeg j = true) (hij : j ≠ i) :
    (s.trainLink i j d).seg i = { s.seg i with hub := (s.seg i).hub.onModule d (trainModule (trainedKey s.free i d)) } ∧
    (s.trainLink i j d).seg j =
      { s.seg j with hub := (s.seg j).hub.onModule (opposite d) (trainModule (trainedKey s.free j (opposite d))) } ∧
    ∀ k, k ≠ i → k ≠ j → (s.trainLink i j d).seg k = s.seg k := by
  have hj' : (s.onModule i d (trainModule (trainedKey s.free i d))).hasSeg j = true := (congrArg (fun n => decide (j < n)) (s.onSeg_length i _)).trans hj
  refine ⟨?_, ?_, fun k hki hkj => ?_⟩
  · exact (State.seg_onSeg_ne _ _ hij.symm).trans (s.seg_onSeg_eq _ hi)
  · refine (State.seg_onSeg_eq _ _ hj').trans ?_
    rw [State.onModule, s.seg_onSeg_ne _ hij]
  · exact (State.seg_onSeg_ne _ _ hkj).trans (s.seg_onSeg_ne _ hki)

/-- A link trained at both ends carries frames. -/
theorem linkUp_trainLink {s : State} {i j : Nat} {d : Dir} (hi : s.hasSeg i = true) (hn : neighbour s.segs.length i d = some j)
    (hok : s.linkFailed i d = false) : (s.trainLink i j d).linkUp i d = true := by
  obtain ⟨hj, hij⟩ := neighbour_valid (of_decide_eq_true hi) hn
  obtain ⟨hti, htj, -⟩ := seg_trainLink (s := s) d hi (decide_eq_true hj) hij
  have hlen : (s.trainLink i j d).segs.length = s.segs.length := (State.onSeg_length _ _ _).trans (s.onSeg_length _ _)
  have hfailed : (s.trainLink i j d).linkFailed i d = false := by
    unfold State.linkFailed at hok ⊢
    rw [hlen, hn]
    rw [hn] at hok
    dsimp only at hok ⊢
    rw [hti, htj, module_onModule_same, module_onModule_same]
    exact hok
  unfold State.linkUp
  rw [hlen, hn]
  dsimp only
  rw [hfailed, hti, htj, module_onModule_same, module_onModule_same]
  rfl

/-- LINK_TRAINED in the block of the link, with the link not yet up and its ends out of reset (R408). -/
theorem execLinkTrained_ready {s : State} {i j : Nat} {d : Dir} (hn : neighbour s.segs.length i d = some j)
    (hw : s.atWaist i d = false ∨ s.other = none) (hok : s.linkFailed i d = false) (hup : ((s.seg i).hub.module d).up = false)
    (hre : ((s.seg i).hub.module d).retraining = false) (hi : (s.seg i).inReset = false) (hj : (s.seg j).inReset = false)
    (hh : s.power.hush ≠ 1) (full : Bool) (auth : LinkAuth) : exec (.linkTrained i d full auth) s = .next
      (if !full then s.moduleFailed i d 0x10 s.edge
       else if !s.linkAuthentic i j auth then s.unauthentic i d s.edge
       else if s.atWaist i d && s.roles.rejoinBy.isSome then (s.trainLink i j d).waistTrained.rejoinAck
       else s.trainLink i j d) := by
  have here (f : State → Result) : (if s.atWaist i d then atFirst else id) f s = f s := by
    rcases hw with h | h
    · rw [h]; rfl
    · have first : atFirst f s = f s := by
        unfold atFirst
        rw [h, Option.isSome_none, Bool.and_false]
        rfl
      cases s.atWaist i d with
      | false => rfl
      | true => exact first
  refine (here _).trans ?_
  simp only [hn, hok, hup, hre, hi, hj, bne_iff_ne.mpr hh, onlyIf]
  rfl

theorem execDetourInstall_after {s : State} (cyc : Nat) (hup : s.mgrUp = true) (hno : s.segs.any (fun g => !g.hub.detour) = true)
    (hf : s.segs.any (fun g => allDirs.any (fun d => (g.hub.module d).failed)) = true) {u v : State}
    (hv : v = s.untold.foldl (fun t x => t.raiseLink (s.stampFor cyc) x)
      ((s.given (s.stampFor cyc)).controlAll ((List.range s.segs.length).filter (· != s.mgr))))
    (hu : u = (List.range v.segs.length).foldl State.reroute v) :
    exec (.detourInstall cyc) s = .next (u.unreached.foldl (fun t i => t.loseSegment i 0x02 (s.stampFor cyc)) u) := by
  show execDetourInstall cyc s = _
  subst hu hv
  simp only [execDetourInstall, hup, hno, hf, onlyIf]
  rfl

/-- A direction under its next key (R148, R347). -/
noncomputable def rekeyed (m : ModuleS) : ModuleS := { m with keyGen := (m.keyGen + 1) % 512, txFrames := 0, key := m.key.map nextLinkKey }

theorem execLinkRekey_due {s : State} {i : Nat} {d : Dir} (hup : s.linkUp i d = true)
    (hn : 2 ^ 32 ≤ ((s.seg i).hub.module d).txFrames) : exec (.linkRekey i d) s = .next (s.onModule i d rekeyed) := by
  show execLinkRekey i d s = _
  simp only [execLinkRekey, hup, decide_eq_true hn, onlyIf]
  rfl

/-- Settles O46. -/
theorem linkService : Obligations.LinkService := by
  refine ⟨?_, ?_, ?_⟩
  · rintro s u v cyc hup ⟨i, d, hi, hf⟩ ⟨k, hk, hno⟩ hv hu
    exact execDetourInstall_after cyc hup (any_segs hk (by simp only [hno, Bool.not_false]))
      (any_segs hi (List.any_eq_true.mpr ⟨d, by cases d <;> decide, hf⟩)) hv hu
  · intro s i d hi hup hn
    refine ⟨_, execLinkRekey_due hup hn, ?_⟩
    have hseg := s.seg_onSeg_eq (fun g => { g with hub := g.hub.onModule d rekeyed }) hi
    unfold State.onModule
    rw [hseg]
    dsimp only
    rw [module_onModule_same]
    refine ⟨rfl, rfl, fun k hk => ?_, tx_onModule _ _ _, fun e he => module_onModule_ne _ he _, fun j hj => s.seg_onSeg_ne _ hj, rfl⟩
    exact congrArg (Option.map nextLinkKey) hk
  · intro s i j d hi hn hw hok hup hre hri hrj hh
    have hexec := execLinkTrained_ready hn hw hok hup hre hri hrj hh
    obtain ⟨hj, hij⟩ := neighbour_valid (of_decide_eq_true hi) hn
    refine ⟨fun auth hauth hno => ⟨s.trainLink i j d, ?_, linkUp_trainLink hi hn hok, ?_⟩, fun auth => hexec false auth, fun auth hauth => ?_⟩
    · rw [hexec, hauth, hno]
      simp
    · obtain ⟨hti, htj, hothers⟩ := seg_trainLink (s := s) d hi (decide_eq_true hj) hij
      rw [hti, htj, module_onModule_same, module_onModule_same]
      exact ⟨rfl, rfl, rfl, rfl, hothers, rfl⟩
    · rw [hexec, hauth]
      rfl

end Sys2Proof.Proofs
end
section
/-! Stack channels and regions (R173, R174, R354 to R357, R374). -/

namespace Sys2Proof.Proofs

open Sys2Proof Sys2Proof.Machine

/-! Read errors. -/

theorem repool_eq (s : State) (i : Nat) : s.repool i = { s with parts := (s.repool i).parts } := by
  unfold State.repool
  split
  · dsimp only
    split
    · rfl
    · rfl
  · rfl

theorem repool_unowned {s : State} {i : Nat} (h : s.ownerOf i = none) : s.repool i = s := by
  unfold State.repool
  rw [h]

theorem seg_repool (s : State) (i j : Nat) : (s.repool i).seg j = s.seg j := by rw [repool_eq]; rfl

/-- The page places of the pool, and the addresses of the other regions' channels (R173, R174). -/
theorem unitAt_channel {s : State} {i ch addr : Nat} {r : StackRegion} (h : s.unitAt i ch addr r = true)
    (hr : r = .modelArea ∨ r = .retrievalArea ∨ r = .screenRegion ∨ r = .blockReserve) : ch = addr / 4096 % 32 := by
  have within {lo hi : Nat} (h : (ch == stackChannel addr && decide (lo ≤ addr) && decide (addr < hi)) = true) : ch = addr / 4096 % 32 := by
    simp only [Bool.and_eq_true, beq_iff_eq] at h
    exact h.1.1
  rcases hr with rfl | rfl | rfl | rfl
  · exact within (Bool.and_eq_true_iff.mp h).2
  · exact within (Bool.and_eq_true_iff.mp h).2
  · exact within h
  · exact within h

/-- A second error of a channel within 2^20 beats marks it as failing (R357). -/
theorem mem_failing_noteUncorr {beat ch b : Nat} {k : StackS} (h : aGet ch k.lastUncorr = some b) (hb : beat ≤ b + 2 ^ 20) :
    ch ∈ (noteUncorr beat ch k).failing := by
  unfold noteUncorr
  rw [h]
  dsimp only
  rw [decide_eq_true hb, if_pos rfl]
  exact mem_insertNat.mpr (.inl rfl)

theorem execStackReadError_at {s : State} {i ch addr : Nat} {r : StackRegion} (cyc : Nat) (st : Option (Nat × Cls)) (hup : s.segUp i = true)
    (hl : (s.seg i).state ≠ .lost) (hu : s.unitAt i ch addr r = true) : exec (.stackReadError cyc i ch addr st r) s = .next
      ((((((s.stepError cyc i st).onSeg i (fun g => { g with stack := noteUncorr s.time.beat ch g.stack })).mapOut i addr r).given
        ((s.stepError cyc i st).stampFor cyc)).repool i).regionLost i ((s.stepError cyc i st).stampFor cyc) r) := by
  show execStackReadError cyc i ch addr st r s = _
  simp only [execStackReadError, hup, hu, bne_iff_ne.mpr hl, onlyIf]
  rfl

/-- A read error in the screen region of a segment of no partition. -/
theorem screenError_unowned {s : State} {i : Nat} (ho : s.ownerOf i = none) (ch addr : Nat) (e : Stamp) :
    ((((((s.uncorrectable i).onSeg i (fun g => { g with stack := noteUncorr s.time.beat ch g.stack })).mapOut i addr .screenRegion).given
        e).repool i).regionLost i e .screenRegion) =
      (s.onSeg i (fun g => { g with
        stack := { (noteUncorr s.time.beat ch g.stack) with mappedOut := insertNat addr g.stack.mappedOut, screenCopy := true },
        health := { g.health with uncorrected := g.health.uncorrected + 1 } })).given e := by
  have hno (t : State) (ht : t.parts = s.parts) : t.ownerOf i = none := by
    unfold State.ownerOf State.part at ho ⊢
    rw [ht]
    exact ho
  have htop (t : State) (ht : t.parts = s.parts) : t.topPages i 1 = [] := by
    unfold State.topPages
    rw [hno t ht]
  have hpool (t : State) (ht : t.parts = s.parts) : t.repool i = t := repool_unowned (hno t ht)
  have hgiven (t : State) (f : Segment → Segment) : (t.given e).onSeg i f = (t.onSeg i f).given e := rfl
  unfold State.mapOut State.uncorrectable
  dsimp only
  rw [htop, hpool]
  · unfold State.regionLost
    dsimp only
    rw [hgiven, State.onSeg_onSeg, State.onSeg_onSeg, State.onSeg_onSeg]
    rfl
  · rfl
  · rfl

/-! A bright copy lost. -/

/-- A directory entry that is there stays. -/
def entryStays (n : Nat) (s t : State) : Prop := (s.entry n).isSome = true → (t.entry n).isSome = true

theorem entryStays_onEntry (n : Nat) (s : State) (k : Nat) (f : Handle → Handle) : entryStays n s (s.onEntry k f) := by
  intro h
  unfold State.onEntry
  cases hk : s.entry k with
  | none => exact h
  | some x =>
    show (aGet n (aSet k (f x) s.handles)).isSome = true
    by_cases hn : n = k
    · rw [hn, aGet_aSet_eq]
      rfl
    · rw [aGet_aSet_ne _ _ hn]
      exact h

theorem entryStays_same (n : Nat) {s t : State} (h : t.handles = s.handles) : entryStays n s t := by
  unfold entryStays State.entry
  rw [h]
  exact id

theorem handles_foldl {α : Type} {f : State → α → State} (hf : ∀ t x, (f t x).handles = t.handles) (l : List α) (s : State) :
    (l.foldl f s).handles = s.handles := by
  induction l generalizing s with
  | nil => rfl
  | cons x l ih => exact (ih _).trans (hf s x)

theorem entryStays_dimWriteTo (n : Nat) (s : State) (k : Nat) (d : DimRec) (drop : Bool) : entryStays n s (s.dimWriteTo (.entry k) d drop) := by
  unfold State.dimWriteTo
  split
  · next p len draft last _ =>
    have counted (t : State) (f : Nat) : (t.dimCounts p f).handles = t.handles := by
      unfold State.dimCounts
      refine (handles_foldl ?_ _ _).trans rfl
      exact fun _ _ => rfl
    refine fun h => ?_
    have hset (d' : DimRec) := entryStays_onEntry n s k (fun h => { h with dim := some d', moving := some (.write drop) }) h
    dsimp only
    split
    · exact entryStays_same n (counted _ _) (hset _)
    · refine entryStays_same n ((handles_foldl ?_ _ _).trans (counted _ _)) (hset _)
      exact fun _ _ => rfl
  · exact id

theorem entryStays_releaseEntry (n : Nat) (s : State) (k : Nat) : entryStays n s (s.releaseEntry k) := by
  unfold State.releaseEntry
  split
  · intro h
    have hdec := entryStays_onEntry n s k (fun h => { h with refcount := h.refcount - 1 }) h
    dsimp only
    split
    · unfold State.beginDimWrite
      split
      · exact entryStays_dimWriteTo n _ k _ _ hdec
      · exact hdec
    · exact hdec
  · exact id

theorem entryStays_freeBright (n : Nat) (s : State) (k : Nat) {put : State → Nat → Nat → State} (hput : ∀ t p m, (put t p m).handles = t.handles) :
    entryStays n s (s.freeBright k put) := by
  unfold State.freeBright
  split
  · intro h
    have hfreed (p m : Nat) := entryStays_same n (hput _ p m)
      (entryStays_onEntry n s k (fun h => { h with ownPages := 0, older := none, map := [] }) h)
    dsimp only
    split
    · exact entryStays_releaseEntry n _ _ (hfreed _ _)
    · exact hfreed _ _
  · exact id

theorem loseBright_both {s : State} {n : Nat} {h : Handle} (e : Stamp) (hn : s.entry n = some h) (ht : h.tier = .both) :
    ∃ h', (s.loseBright e n).entry n = some h' ∧ h'.tier = .dim := by
  have hstays := entryStays_freeBright n s n (put := fun t p m => t.returnPages p m e) (fun t p m => by
    unfold State.returnPages
    split <;> rfl) (by rw [hn]; rfl)
  obtain ⟨x, hx⟩ := Option.isSome_iff_exists.mp hstays
  refine ⟨{ x with tier := .dim }, ?_, rfl⟩
  unfold State.loseBright
  simp only [hn, ht]
  exact State.entry_onEntry_eq _ n _ x hx

/-! Channels that retire or fail. -/

theorem foldl_beginCopy {i : Nat} {l : List Nat} {s : State} (hi : s.hasSeg i = true) :
    ((l.foldl (State.beginCopy i) s).seg i).stack.copies.map (·.old) = (s.seg i).stack.copies.map (·.old) ++ l ∧
      ∃ cs, l.foldl (State.beginCopy i) s = s.onSeg i (fun g => { g with stack := { g.stack with copies := cs } }) := by
  induction l generalizing s with
  | nil =>
    refine ⟨(List.append_nil _).symm, (s.seg i).stack.copies, ?_⟩
    exact (onSeg_same rfl).symm
  | cons x l ih =>
    have hseg := s.seg_onSeg_eq (fun g => { g with stack := { g.stack with
      copies := g.stack.copies ++ [{ old := x, new := s.freePage ((s.ownerOf i).getD 0) i [] [3, i, x, s.time.beat] }] } }) hi
    have hi' : (s.beginCopy i x).hasSeg i = true := (congrArg (fun n => decide (i < n)) (s.onSeg_length i _)).trans hi
    obtain ⟨hold, cs, hfold⟩ := ih hi'
    refine ⟨?_, cs, ?_⟩
    · rw [List.foldl_cons, hold, show (s.beginCopy i x).seg i = _ from hseg]
      simp
    · rw [List.foldl_cons, hfold]
      exact s.onSeg_onSeg i _ _

/-! A freeze replaces the pages copied. -/

/-- The copies of a segment that take their pages' places at a freeze of a loop, and those that stay under way (R357). -/
noncomputable def takesPlace (p : Nat) (c : Cls) (t : State) (i : Nat) (x : PageCopy) : Bool := (t.loopPages p c i).contains x.old && !x.written
noncomputable def donePages (p : Nat) (c : Cls) (t : State) (i : Nat) : List PageCopy := (t.seg i).stack.copies.filter (takesPlace p c t i)
noncomputable def stillCopied (p : Nat) (c : Cls) (t : State) (i : Nat) : List PageCopy :=
  ((t.seg i).stack.copies.filter (fun x => !takesPlace p c t i x)).map
    (fun x => if (t.loopPages p c i).contains x.old then { x with written := false } else x)

/-- A segment's turn at a freeze of a loop of its partition. -/
noncomputable def replaced (p : Nat) (c : Cls) (t : State) (i : Nat) : State :=
  if (t.seg i).stack.copies.isEmpty then t
  else (t.onRefs (swapPages i (donePages p c t i))).onSeg i (fun g => { g with stack := { g.stack with copies := stillCopied p c t i } })

/-- The block with its references changed as the copies of a segment change them. -/
theorem replaced_cases (p : Nat) (c : Cls) (t : State) (i : Nat) : replaced p c t i = t ∨
    ∃ done rest, replaced p c t i = (t.onRefs (swapPages i done)).onSeg i (fun g => { g with stack := { g.stack with copies := rest } }) := by
  unfold replaced
  split
  · exact .inl rfl
  · exact .inr ⟨_, _, rfl⟩

theorem seg_replaced_ne (p : Nat) (c : Cls) (t : State) {i j : Nat} (h : i ≠ j) : (replaced p c t j).seg i = t.seg i := by
  rcases replaced_cases p c t j with e | ⟨done, rest, e⟩
  · rw [e]
  · rw [e]
    exact State.seg_onSeg_ne _ _ h

/-- The pages of another segment stand. -/
theorem pages_swapPages_ne {i j : Nat} (h : i ≠ j) (l : List PageCopy) (r : BlockRef) :
    (swapPages j l r).pages.filter (fun u => u.seg == i) = r.pages.filter (fun u => u.seg == i) := by
  unfold swapPages
  dsimp only
  induction r.pages with
  | nil => rfl
  | cons u rest ih =>
    rw [List.map_cons, List.filter_cons, List.filter_cons, ih]
    by_cases hu : u.seg = j
    · have hne : (u.seg == i) = false := beq_eq_false_iff_ne.mpr (fun e => h (e.symm.trans hu))
      rw [if_pos (beq_iff_eq.mpr hu)]
      cases l.find? (fun c => c.old == u.page) with
      | none => rfl
      | some y =>
        show (if (u.seg == i) = true then _ else _) = _
        rw [hne]
        rfl
    · rw [beq_eq_false_iff_ne.mpr hu]
      rfl

theorem loopPages_replaced_ne (p : Nat) (c : Cls) (t : State) {i j : Nat} (h : i ≠ j) :
    (replaced p c t j).loopPages p c i = t.loopPages p c i := by
  rcases replaced_cases p c t j with e | ⟨done, rest, e⟩
  · rw [e]
  · have on (l : List (Nat × BlockRef)) :
        ((l.map (fun x => (x.1, swapPages j done x.2))).filter (fun x => !x.2.shared)).flatMap
          (fun x => (x.2.pages.filter (fun u => u.seg == i)).map (·.page)) =
        (l.filter (fun x => !x.2.shared)).flatMap (fun x => (x.2.pages.filter (fun u => u.seg == i)).map (·.page)) := by
      rw [List.filter_map, List.flatMap_map]
      exact List.flatMap_congr (fun x _ => congrArg (List.map (·.page)) (pages_swapPages_ne h done x.2))
    rw [e]
    unfold State.loopPages
    refine congrArg₂ (· ++ ·) ?_ ?_
    · show List.flatMap _ ((t.seqs.map _).filter _) = _
      rw [List.filter_map, List.flatMap_map]
      exact List.flatMap_congr (fun x _ => on x.2.map)
    · show List.flatMap _ ((t.handles.map _).filter _) = _
      rw [List.filter_map, List.flatMap_map]
      exact List.flatMap_congr (fun x _ => on x.2.map)

theorem nodup_partSegs (s : State) (p : Nat) : (s.partSegs p).Nodup := by
  unfold State.partSegs
  split
  · exact List.nodup_range.filter _
  · exact List.nodup_range.filter _

/-- What a segment's turn establishes and the others' turns keep holds after a freeze's replacement. -/
theorem replaceCopies_of {s : State} {p i : Nat} {c : Cls} {P : State → Prop} (hi : i ∈ s.partSegs p)
    (here : ∀ t, t.seg i = s.seg i → t.loopPages p c i = s.loopPages p c i → P (replaced p c t i))
    (later : ∀ t j, i ≠ j → P t → P (replaced p c t j)) : P (s.replaceCopies p c) := by
  show P ((s.partSegs p).foldl (replaced p c) s)
  have hnodup := nodup_partSegs s p
  obtain ⟨l₁, l₂, hl⟩ := List.append_of_mem hi
  rw [hl] at hnodup ⊢
  obtain ⟨h₁, h₂⟩ : i ∉ l₁ ∧ i ∉ l₂ := by
    have hn := List.nodup_middle.mp hnodup
    have hni := (List.nodup_cons.mp hn).1
    exact ⟨fun h => hni (List.mem_append_left _ h), fun h => hni (List.mem_append_right _ h)⟩
  have before (l : List Nat) (hl : i ∉ l) (t : State) : (l.foldl (replaced p c) t).seg i = t.seg i ∧
      (l.foldl (replaced p c) t).loopPages p c i = t.loopPages p c i := by
    induction l generalizing t with
    | nil => exact ⟨rfl, rfl⟩
    | cons j l ih =>
      obtain ⟨hj, hl⟩ := List.ne_and_not_mem_of_not_mem_cons hl
      obtain ⟨h1, h2⟩ := ih hl (replaced p c t j)
      exact ⟨h1.trans (seg_replaced_ne p c t hj), h2.trans (loopPages_replaced_ne p c t hj)⟩
  have after (l : List Nat) (hl : i ∉ l) (t : State) (ht : P t) : P (l.foldl (replaced p c) t) := by
    induction l generalizing t with
    | nil => exact ht
    | cons j l ih =>
      obtain ⟨hj, hl⟩ := List.ne_and_not_mem_of_not_mem_cons hl
      exact ih hl _ (later t j hj ht)
  rw [List.foldl_append, List.foldl_cons]
  exact after l₂ h₂ _ (here _ (before l₁ h₁ s).1 (before l₁ h₁ s).2)

/-- A segment with a copy under way is one of the block. -/
theorem hasSeg_of_copies {s : State} {i : Nat} {x : PageCopy} (h : x ∈ (s.seg i).stack.copies) : s.hasSeg i = true := by
  unfold State.hasSeg
  by_contra hno
  have hdef : s.seg i = {} := List.getD_eq_default _ _ (Nat.le_of_not_lt (by simpa using hno))
  rw [hdef] at h
  cases h

theorem replaced_here {p : Nat} {c : Cls} {t : State} {i : Nat} {x : PageCopy} (hx : x ∈ (t.seg i).stack.copies) : replaced p c t i =
    (t.onRefs (swapPages i (donePages p c t i))).onSeg i (fun g => { g with stack := { g.stack with copies := stillCopied p c t i } }) :=
  if_neg (by rw [List.isEmpty_iff]; exact List.ne_nil_of_mem hx)

/-- A copy written since is copied again (R357). -/
theorem mem_copies_replaceCopies {s : State} {p i : Nat} {c : Cls} {x : PageCopy} (hi : i ∈ s.partSegs p) (hx : x ∈ (s.seg i).stack.copies)
    (hold : x.old ∈ s.loopPages p c i) (hw : x.written = true) :
    { x with written := false } ∈ ((s.replaceCopies p c).seg i).stack.copies := by
  refine replaceCopies_of (P := fun t => { x with written := false } ∈ (t.seg i).stack.copies) hi (fun t hseg hloop => ?_)
    (fun t j hj ht => by rw [seg_replaced_ne p c t hj]; exact ht)
  rw [← hseg] at hx
  rw [← hloop] at hold
  have hmine : (t.loopPages p c i).contains x.old = true := List.contains_iff_mem.mpr hold
  have hhas : (t.onRefs (swapPages i (donePages p c t i))).hasSeg i = true := hasSeg_of_copies (s := t) hx
  rw [replaced_here hx, State.seg_onSeg_eq _ _ hhas]
  refine List.mem_map.mpr ⟨x, List.mem_filter.mpr ⟨hx, ?_⟩, if_pos hmine⟩
  rw [takesPlace, hw, Bool.not_true, Bool.and_false]
  rfl

/-- No sequence names a page of the segment. -/
def pageUnused (i page : Nat) (s : State) : Prop :=
  ∀ e ∈ s.seqs, ∀ m ∈ e.2.map, ∀ u ∈ m.2.pages, u.seg = i → u.page ≠ page

/-- The pages that a block's references name after the copies of a segment have taken their places. -/
theorem mem_swapPages {i : Nat} {l : List PageCopy} {r : BlockRef} {u : PageUse} (hu : u ∈ (swapPages i l r).pages) :
    (∃ v ∈ r.pages, v.seg = i ∧ u.seg = i ∧ ∃ y ∈ l, y.old = v.page ∧ u.page = y.new) ∨
      (u ∈ r.pages ∧ (u.seg = i → ∀ y ∈ l, y.old ≠ u.page)) := by
  obtain ⟨v, hv, rfl⟩ := List.mem_map.mp hu
  by_cases hs : v.seg = i
  · rw [if_pos (beq_iff_eq.mpr hs)]
    cases hf : l.find? (fun c => c.old == v.page) with
    | some y => exact .inl ⟨v, hv, hs, hs, y, List.mem_of_find?_eq_some hf, beq_iff_eq.mp (List.find?_some (p := fun c : PageCopy => c.old == v.page) hf), rfl⟩
    | none =>
      refine .inr ⟨hv, fun _ y hy he => ?_⟩
      exact absurd (List.find?_eq_none.mp hf y hy) (by rw [he]; simp)
  · rw [if_neg (by rwa [beq_iff_eq])]
    exact .inr ⟨hv, fun h => absurd h hs⟩

/-- A copy not written since takes its page's place (R357). -/
theorem pageUnused_replaceCopies {s : State} {p i : Nat} {c : Cls} {x : PageCopy} (hi : i ∈ s.partSegs p) (hx : x ∈ (s.seg i).stack.copies)
    (hold : x.old ∈ s.loopPages p c i) (hw : x.written = false) (hnew : ∀ y ∈ (s.seg i).stack.copies, y.new ≠ x.old) :
    pageUnused i x.old (s.replaceCopies p c) := by
  refine replaceCopies_of hi (fun t hseg hloop => ?_) (fun t j hj ht => ?_)
  · rw [← hseg] at hx hnew
    rw [← hloop] at hold
    rw [replaced_here hx]
    intro e he m hm u hu hui
    obtain ⟨e', he', rfl⟩ := List.mem_map.mp he
    obtain ⟨m', hm', rfl⟩ := List.mem_map.mp hm
    rcases mem_swapPages hu with ⟨v, -, -, -, y, hy, -, hpage⟩ | ⟨-, hno⟩
    · rw [hpage]
      exact hnew y (List.mem_filter.mp hy).1
    · have hmine : takesPlace p c t i x = true := by
        rw [takesPlace, List.contains_iff_mem.mpr hold, hw]
        rfl
      exact fun h => hno hui x (List.mem_filter.mpr ⟨hx, hmine⟩) h.symm
  · rcases replaced_cases p c t j with h | ⟨done, rest, h⟩
    · rwa [h]
    · rw [h]
      intro e he m hm u hu hui
      obtain ⟨e', he', rfl⟩ := List.mem_map.mp he
      obtain ⟨m', hm', rfl⟩ := List.mem_map.mp hm
      rcases mem_swapPages hu with ⟨-, -, -, hj', -⟩ | ⟨hu', -⟩
      · exact absurd (hui.symm.trans hj') hj
      · exact ht e' he' m' hm' u hu' hui

theorem deadChannels_raiseLost (s : State) (i reason : Nat) (e : Stamp) (j : Nat) :
    ((s.raiseLost i reason e).seg j).stack = (s.seg j).stack := by
  rw [show (s.raiseLost i reason e).seg j = _ from (noticesOnly_raise s _ _ _ _ _ _ _).2.2 j]

theorem execChannelRetireComplete_due {s : State} {i ch : Nat} (n : Nat) (hup : s.segUp i = true) (hr : ch ∈ (s.seg i).stack.retiring)
    (hp : s.channelPages i ch = []) : exec (.channelRetireComplete i ch n) s = .next
      (((((s.onSeg i (channelOut false ch (s.topPages i n) (s.sharePages i))).repool i).raiseLost i (0x60 + ch) s.edge).fifthChannel i s.edge)) := by
  have hedge : ((s.onSeg i (channelOut false ch (s.topPages i n) (s.sharePages i))).repool i).edge = s.edge := by
    rw [repool_eq]
    rfl
  show execChannelRetireComplete i ch n s = _
  simp only [execChannelRetireComplete, hup, List.contains_iff_mem.mpr hr, hp, onlyIf, hedge]
  rfl

theorem raiseLost_repool {s : State} {i : Nat} (f : Segment → Segment) (reason : Nat) (e : Stamp) :
    (((s.onSeg i f).repool i).raiseLost i reason e).seqs = s.seqs ∧ (((s.onSeg i f).repool i).raiseLost i reason e).handles = s.handles := by
  have hraise := (noticesOnly_raise ((s.onSeg i f).repool i) ((s.onSeg i f).repool i).mgr 0x0A 0x1 i 0 e
    (lostSegDetail (((s.onSeg i f).repool i).seg i).hub.failedBits reason)).1
  have hpool := repool_eq (s.onSeg i f) i
  exact ⟨(congrArg State.seqs hraise :).trans (congrArg State.seqs hpool :),
    (congrArg State.handles hraise :).trans (congrArg State.handles hpool :)⟩

theorem execChannelRetire_worn {s : State} {i ch : Nat} {l : List Nat} (hup : s.segUp i = true) (hch : ch < 32) (h0 : s.glob.retireCount ≠ 0)
    (hl : aGet ch (s.seg i).stack.corrected = some l) (hout : (s.seg i).stack.out ch = false) : exec (.channelRetire i ch) s =
      .next (if s.glob.retireCount < l.length then (s.channelPages i ch).foldl (State.beginCopy i)
        (s.onSeg i (fun g => { g with stack := { g.stack with retiring := insertNat ch g.stack.retiring } })) else s) := by
  have hworn : s.worn i ch = decide (s.glob.retireCount < l.length) := by
    unfold State.worn
    rw [hl, bne_iff_ne.mpr h0]
    rfl
  show execChannelRetire i ch s = _
  simp only [execChannelRetire, hup, decide_eq_true hch, hworn, hout, onlyIf]
  by_cases h : s.glob.retireCount < l.length
  · simp [h]
  · simp [h]

theorem execChannelFail_due {s : State} {i ch : Nat} (cyc n : Nat) (rs : List StackRegion) (hup : s.segUp i = true) (hch : ch < 32)
    (hf : ch ∉ (s.seg i).stack.failed) (hr : ch ∉ (s.seg i).stack.retired)
    (hbad : ch ∈ (s.seg i).stack.failing ∨ (s.seg i).stack.trained = false) : exec (.channelFail cyc i ch n rs) s = .next
      ((rs.foldl (fun t r => t.regionLost i (s.stampFor cyc) r)
        (((((s.given (s.stampFor cyc)).onSeg i (channelOut true ch (s.topPages i n) (s.sharePages i))).repool i).channelLost i ch
          (s.stampFor cyc)).raiseLost i (0x40 + ch) (s.stampFor cyc))).fifthChannel i (s.stampFor cyc)) := by
  have hbad : (decide (ch ∈ (s.seg i).stack.failing) || !(s.seg i).stack.trained) = true := by
    rcases hbad with h | h
    · rw [decide_eq_true h]
      rfl
    · rw [h, Bool.not_false, Bool.or_true]
  show execChannelFail cyc i ch n rs s = _
  simp only [execChannelFail, hup, decide_eq_true hch, List.contains_eq_mem, hf, hr, hbad, decide_false, onlyIf]
  rfl

/-- Settles O43. -/
theorem stackChannels : Obligations.StackChannels := by
  refine ⟨?_, ?_, ?_, ?_, ?_, ?_, ?_, ?_, ?_⟩
  · intro s cyc i ch addr hup _ hl ho hu
    have hi := hasSeg_of_segUp hup
    refine ⟨_, (execStackReadError_at cyc none hup hl hu).trans (congrArg Host.Outcome.next (screenError_unowned ho ch addr _)), ?_, ?_,
      fun j hj => s.seg_onSeg_ne _ hj, rfl⟩
    · exact s.seg_onSeg_eq _ hi
    · intro b hb hle
      refine (congrArg (fun g : Segment => ch ∈ g.stack.failing) (s.seg_onSeg_eq _ hi)).mpr ?_
      exact mem_failing_noteUncorr hb hle
  · rintro s u cyc i ch addr st r hup _ hl rfl
    refine ⟨execStackReadError_at cyc st hup hl, fun hu => ?_⟩
    show execStackReadError cyc i ch addr st r s = _
    simp only [execStackReadError, hu, Bool.and_false, Bool.false_and, onlyIf]
    rfl
  · intro s i ch n addr
    refine ⟨fun h => ?_, fun h => ?_⟩
    · have h := beq_iff_eq.mp (Bool.and_eq_true_iff.mp h).2
      exact ⟨(Prod.mk.inj h).1.symm, (Prod.mk.inj h).2.symm⟩
    · rcases h with h | h | h | h
      · exact unitAt_channel h (.inl rfl)
      · exact unitAt_channel h (.inr (.inl rfl))
      · exact unitAt_channel h (.inr (.inr (.inl rfl)))
      · exact unitAt_channel h (.inr (.inr (.inr rfl)))
  · intro s i p n h e hn _
    refine ⟨loseBright_both e hn, fun ht => ?_, fun ho => ?_⟩
    · unfold State.loseBright
      rw [hn]
      dsimp only
      rw [ht]
      rfl
    · unfold State.regionLost
      rw [ho]
  · intro s i hup hc
    show execScreenRegionRestored i s = _
    simp only [execScreenRegionRestored, hup, hc, onlyIf]
    rfl
  · intro s i ch l hup hch h0 hl hout
    have hexec := execChannelRetire_worn hup hch h0 hl hout
    refine ⟨fun hw => ?_, fun hw => ?_⟩
    · rw [if_pos hw] at hexec
      have hi := hasSeg_of_segUp hup
      have hseg := s.seg_onSeg_eq (fun g => { g with stack := { g.stack with retiring := insertNat ch g.stack.retiring } }) hi
      obtain ⟨hold, cs, hfold⟩ := foldl_beginCopy (l := s.channelPages i ch)
        (s := s.onSeg i (fun g => { g with stack := { g.stack with retiring := insertNat ch g.stack.retiring } }))
        ((congrArg (fun n => decide (i < n)) (s.onSeg_length i _)).trans hi)
      rw [hseg] at hold
      rw [hfold, State.onSeg_onSeg] at hexec hold
      refine ⟨_, hexec, ?_, hold, ?_, fun j hj => s.seg_onSeg_ne _ hj, rfl⟩
      · rw [s.seg_onSeg_eq _ hi]
        exact mem_insertNat.mpr (.inl rfl)
      · rw [s.seg_onSeg_eq _ hi]
    · rwa [if_neg (Nat.not_lt.mpr hw)] at hexec
  · intro s p i c x hi hx hold
    exact ⟨mem_copies_replaceCopies hi hx hold, fun hw hnew => pageUnused_replaceCopies hi hx hold hw hnew⟩
  · rintro s u i ch n hup hr
    refine ⟨fun hp => ?_, ?_⟩
    · have hp : (s.channelPages i ch).isEmpty = false := by simpa using hp
      show execChannelRetireComplete i ch n s = _
      simp only [execChannelRetireComplete, hp, Bool.and_false, onlyIf]
      rfl
    · rintro hp rfl
      have hexec := execChannelRetireComplete_due n hup hr hp
      unfold State.fifthChannel Segment.deadChannels at hexec
      rw [deadChannels_raiseLost] at hexec
      refine ⟨fun h4 => ⟨_, hexec.trans (congrArg Host.Outcome.next (if_neg (Nat.not_lt.mpr h4))), rfl, ?_, ?_, raiseLost_repool _ _ _⟩,
        fun h4 => hexec.trans (congrArg Host.Outcome.next (if_pos h4))⟩
      · rw [deadChannels_raiseLost, seg_repool, s.seg_onSeg_eq _ (hasSeg_of_segUp hup)]
        exact mem_insertNat.mpr (.inl rfl)
      · rw [deadChannels_raiseLost, seg_repool, s.seg_onSeg_eq _ (hasSeg_of_segUp hup)]
        exact fun h => by simpa using (List.mem_filter.mp h).2
  · rintro s u w cyc i ch n rs hup hch hf hr hbad rfl rfl
    refine ⟨execChannelFail_due cyc n rs hup hch hf hr hbad, ?_⟩
    rw [seg_repool, State.seg_onSeg_eq (s.given (s.stampFor cyc)) _ (hasSeg_of_segUp hup)]
    exact mem_insertNat.mpr (.inl rfl)

end Sys2Proof.Proofs
end
section
/-! The order of the checks of an admission turn (R208). -/

namespace Sys2Proof.Proofs

open Sys2Proof Sys2Proof.Machine

section Checks
variable {s : State} {r : Request} (hrun : (s.part r.part).stopped = none)
include hrun

theorem admissionChecks_budget (h : (s.tenant r.tenant).valid = false ∨ (s.tenant r.tenant).partitions.testBit r.part = false ∨
    (s.tenant r.tenant).level ≤ 0) : s.admissionChecks r = .error .budget := by
  unfold State.admissionChecks
  dsimp only
  rw [hrun]
  refine if_pos ?_
  rcases h with h | h | h <;> simp [h]

variable (hv : (s.tenant r.tenant).valid = true) (hm : (s.tenant r.tenant).partitions.testBit r.part = true)
  (hl : 0 < (s.tenant r.tenant).level)
include hv hm hl

theorem admissionChecks_lookup {st : Status} (h : s.lookup r = .error st) : s.admissionChecks r = .error st := by
  unfold State.admissionChecks
  dsimp only
  rw [hrun]
  dsimp only
  rw [if_neg (by simp [hv, hm, Int.not_le.mpr hl]), h]

theorem admissionChecks_length {m : Model} {slot : Option Nat} (hlook : s.lookup r = .ok slot) (hindex : s.indexRefused r = false)
    (hresult : r.resultOnly = false) (ht : (s.part r.part).target = some m)
    (hlong : m.contextMax < (s.joinOf r slot).held + r.prompt.length + flag (0 < r.params.maxTokens)) :
    s.admissionChecks r = .error .length := by
  unfold State.admissionChecks
  dsimp only
  rw [hrun]
  dsimp only
  rw [if_neg (by simp [hv, hm, Int.not_le.mpr hl]), hlook]
  dsimp only
  rw [hindex, hresult, ht]
  exact if_pos hlong

end Checks

/-- The counters of turns that fail. -/
noncomputable def turnCounts (st : Status) (c : Counters) : Counters :=
  if st == .budget then { c with budgetRefusals := c.budgetRefusals + 1 }
  else if st == .noPages then { c with noPages := c.noPages + 1 }
  else c

/-- A turn that fails takes its request from the queue and answers it (R208). -/
theorem failTurn_eq (s : State) (r : Request) (st : Status) : ∃ E n, ∃ t : State, s.failTurn r st =
    { (s.given (s.stampFor 0)).unqueue r with
      segs := t.segs, rings := t.rings, objs := { s.objs with eps := E, turn := n }, cnt := turnCounts st s.cnt } := by
  obtain ⟨⟨E, n, h⟩, -, -⟩ := messagesOnly_sendAnswer ((s.given (s.stampFor 0)).unqueue r) r.cmpRing
    (answerRecord r st false (if r.params.save || r.params.keep then 5 else 0) 0 (s.stampFor 0))
  refine ⟨E, n, ((s.given (s.stampFor 0)).unqueue r).failRequest r st (s.stampFor 0), ?_⟩
  unfold State.failTurn turnCounts
  dsimp only
  split
  · exact congrArg (State.count · _) h
  · split
    · exact congrArg (State.count · _) h
    · exact h

/-- A request unqueued is in its queue no longer. -/
theorem not_mem_queue_unqueue (s : State) (r : Request) (p : Nat) (c : Cls) (hp : r.part = p) :
    ∀ x ∈ ((s.unqueue r).part p).queue c, ¬ (x.tenant = r.tenant ∧ x.reqId = r.reqId) := by
  subst hp
  have kept (l : List Request) : ∀ x ∈ l.filter (fun x => !named r.tenant r.reqId x), ¬ (x.tenant = r.tenant ∧ x.reqId = r.reqId) := by
    intro x hx
    have hx := (List.mem_filter.mp hx).2
    rintro ⟨ht, hid⟩
    rw [named, ht, hid, beq_self_eq_true, beq_self_eq_true] at hx
    cases hx
  by_cases h : r.part < s.parts.length
  · unfold State.unqueue
    rw [s.part_onPart_eq _ h]
    cases c with
    | lc => exact kept _
    | be => exact kept _
  · have hnone : (s.unqueue r).part r.part = {} :=
      List.getD_eq_default _ _ (by simp only [State.unqueue, State.onPart, length_modifyAt]; exact Nat.le_of_not_lt h)
    rw [hnone]
    cases c with
    | lc => exact fun _ h => absurd h List.not_mem_nil
    | be => exact fun _ h => absurd h List.not_mem_nil

/-- ADMISSION of the request whose turn it is (R208). -/
theorem execAdmission_turn {s : State} {p : Nat} {c : Cls} {r : Request} (hprior : s.prior = none) (hp : p < 15) (he : s.edgeAt 2 = true)
    (ht : s.turnOf p c = some r) (hc : c = .lc ∨ s.turnOf p .lc = none) : exec (.admission p c) s = .next ((s.toPhase 2).admitTurn r) := by
  have hfirst : (c == .lc || (s.turnOf p .lc).isNone) = true := by
    rcases hc with rfl | h
    · rfl
    · rw [h, Option.isNone_none, Bool.or_true]
  show execAdmission p c s = _
  unfold execAdmission underForce
  rw [hprior]
  dsimp only
  rw [ht]
  dsimp only
  rw [decide_eq_true hp, he, hfirst]
  rfl

/-- Settles O18. -/
theorem admissionOrder : Obligations.AdmissionOrder := by
  refine ⟨fun s r hrun h => admissionChecks_budget hrun h, ?_, ?_, ?_⟩
  · intro s r hrun hv hm hl h0 hnone
    have hlook : s.lookup r = .error .badHandle := by
      unfold State.lookup
      rw [if_neg (by simpa using h0), hnone]
    exact admissionChecks_lookup hrun hv hm hl hlook
  · intro s r m hrun hv hm hl h0 hretr htarget hlen
    have hlook : s.lookup r = .ok none := if_pos (beq_iff_eq.mpr h0)
    have hindex : s.indexRefused r = false := by rw [State.indexRefused, hretr]
    have hresult : r.resultOnly = false := by rw [Request.resultOnly, hretr]
    have hlong : m.contextMax < (s.joinOf r none).held + r.prompt.length + flag (decide (0 < r.params.maxTokens)) := by
      by_cases ht : 0 < r.params.maxTokens
      · rw [if_pos ht] at hlen
        rw [decide_eq_true ht]
        exact Nat.lt_of_lt_of_le hlen (Nat.add_le_add_right (Nat.le_add_left _ _) _)
      · rw [if_neg ht] at hlen
        rw [decide_eq_false ht]
        exact Nat.lt_of_lt_of_le hlen (Nat.add_le_add_right (Nat.le_add_left _ _) _)
    exact admissionChecks_length hrun hv hm hl hlook hindex hresult htarget hlong
  · intro s p c r st hprior hp he ht hc hcheck
    have hturn : (s.toPhase 2).admitTurn r = (s.toPhase 2).failTurn r st := by
      have hcheck : (s.toPhase 2).admissionChecks r = .error st := hcheck
      unfold State.admitTurn
      rw [hcheck]
    obtain ⟨E, n, t, hfail⟩ := failTurn_eq (s.toPhase 2) r st
    refine ⟨_, (execAdmission_turn hprior hp he ht hc).trans (congrArg Host.Outcome.next (hturn.trans hfail)), rfl, rfl, ?_⟩
    exact not_mem_queue_unqueue s r r.part r.cls rfl

end Sys2Proof.Proofs
end
section
/-! Joins, waits that run out, and resumptions (R196 to R201, R208, R209, R273). -/

namespace Sys2Proof.Proofs

open Sys2Proof Sys2Proof.Machine

/-! The streams of a sequence that joins. -/

theorem segsOnly_readyStream (s : State) (k slot : Nat) (out : Bool) : segsOnly s (s.readyStream k slot out) := by
  unfold State.readyStream
  split
  · rfl
  · rfl

theorem startStreams_leaves {s : State} {k : Nat} {q : Sequence} (h : s.live k = some q) (out : Bool) :
    seatsOnly s (s.startStreams k out) ∧ ∃ a, (s.startStreams k out).live k = some { q with autos := a } := by
  have hlive := s.live_onLive_eq k (fun q => { q with autos := q.autos ++ s.newAutos q out }) q h
  have hseats := seatsOnly.onLive s k (fun q => { q with autos := q.autos ++ s.newAutos q out })
  unfold State.startStreams
  rw [h]
  dsimp only
  generalize s.onLive k (fun q => { q with autos := q.autos ++ s.newAutos q out }) = u at hlive hseats ⊢
  rw [hlive]
  dsimp only
  have hsegs := segsOnly.foldl (fun t (a : Auto) => segsOnly_readyStream t k a.slot out) ((q.autos ++ s.newAutos q out).filter (fun a => a.out == out)) u
  generalize ((q.autos ++ s.newAutos q out).filter (fun a => a.out == out)).foldl (fun t a => t.readyStream k a.slot out) u = v at hsegs ⊢
  refine ⟨hseats.trans ?_, q.autos ++ s.newAutos q out, ?_⟩
  · rw [hsegs]
    rfl
  · rw [hsegs]
    exact hlive

/-! A sequence joins. -/

theorem count_when (c : Bool) (s : State) (f : Counters → Counters) :
    seatsOnly s (if c then s.count f else s) ∧ (if c then s.count f else s).seqs = s.seqs := by
  cases c with
  | true => exact ⟨rfl, rfl⟩
  | false => exact ⟨rfl, rfl⟩

/-- A state with a sequence at a live sequence index. -/
noncomputable def seated (s : State) (k : Nat) (q : Sequence) : State := { s with seqs := aSet k q s.seqs }

/-- A sequence that has joined, with its blocks' pages and its streams. -/
noncomputable def joined (m : List (Nat × BlockRef)) (a : List Auto) (q : Sequence) : Sequence := { q with map := m, autos := a }

/-- What the join of a request without a handle leaves, but for segments, sequences and counters (R199, R209). -/
noncomputable def charged (s : State) (r : Request) (j : Join) : State :=
  (s.takePages r.part (j.pages + j.fetch)).inputCharge r (screenedTokens r).length

/-- A sequence takes its place, its blocks their pages and its streams their turn. -/
noncomputable def admittedAs (u : State) (k : Nat) (r : Request) (q : Sequence) : State :=
  let s := (seated u k q).giveBlocks (.seq k) q.ownBlocks
  (if s.queryApart r then s.count (fun c => { c with queryPartial := c.queryPartial + 1 }) else s).startStreams k false

theorem admittedAs_leaves (u : State) (k : Nat) (r : Request) (q : Sequence) :
    seatsOnly u (admittedAs u k r q) ∧ ∃ m a, (admittedAs u k r q).live k = some (joined m a q) := by
  obtain ⟨hgive, m, hm⟩ := giveBlocks_seq (s := seated u k q) (k := k) (aGet_aSet_eq k _ _) q.ownBlocks
  unfold admittedAs
  dsimp only
  generalize (seated u k q).giveBlocks (.seq k) q.ownBlocks = v at hgive hm ⊢
  obtain ⟨hcount, hseqs⟩ := count_when (v.queryApart r) v (fun c => { c with queryPartial := c.queryPartial + 1 })
  obtain ⟨hs, a, ha⟩ := startStreams_leaves ((congrArg (aGet k) hseqs).trans hm) false
  exact ⟨seatsOnly.trans (t := seated u k q) rfl (hgive.trans (hcount.trans hs)), m, a, ha⟩

/-- What the join of a request without a handle leaves (R199, R209). -/
theorem admitRequest_eq (s : State) (k : Nat) (r : Request) {j : Join} (a : Stamp) (hj : j.entry = none) :
    s.admitRequest k r j a = admittedAs (charged s r j) k r ((charged s r j).newSequence k r j a) := by
  have hentry : (s.takePages r.part (j.pages + j.fetch)).admitEntry r j = s.takePages r.part (j.pages + j.fetch) := by
    unfold State.admitEntry
    rw [hj]
  exact congrArg (fun v : State => admittedAs (v.inputCharge r (screenedTokens r).length) k r
    ((v.inputCharge r (screenedTokens r).length).newSequence k r j a)) hentry

/-- What a write of a partition leaves of it. -/
theorem part_onPart_field {α : Type} (g : Partition → α) (s : State) (p q : Nat) {f : Partition → Partition} (hf : ∀ x, g (f x) = g x) :
    g ((s.onPart p f).part q) = g (s.part q) := by
  rcases part_onPart s p q f with h | ⟨-, h⟩
  · rw [h]
  · rw [h, hf]

theorem poolFree_unqueue (s : State) (r : Request) : ((s.unqueue r).part r.part).poolFree = (s.part r.part).poolFree :=
  part_onPart_field (·.poolFree) s _ _ (fun _ => rfl)

theorem policy_unqueue (s : State) (r : Request) : ((s.unqueue r).part r.part).policy = (s.part r.part).policy :=
  part_onPart_field (·.policy) s _ _ (fun _ => rfl)

theorem policy_takePages (s : State) (p n : Nat) : ((s.takePages p n).part p).policy = (s.part p).policy :=
  part_onPart_field (·.policy) s _ _ (fun _ => rfl)

/-- The turn of a request that joins (R208, R209). -/
theorem admitTurn_joins {s : State} {k : Nat} {r : Request} {j : Join} (hj : s.admissionChecks r = .ok j) (he : j.entry = none)
    (hf : j.fetch = 0) (hroom : j.pages + (s.part r.part).decodeReserve ≤ (s.part r.part).poolFree) (hk : s.freeIndex = some k) :
    s.admitTurn r = ((s.given (s.stampFor 0)).unqueue r).admitRequest k r j (s.stampFor 0) := by
  have hpages : s.joinPages r.part (j.pages + j.fetch) j.entry = (true, s) := by
    rw [hf, he]
    exact joinPages_room (.inr hroom)
  unfold State.admitTurn
  rw [hj]
  dsimp only
  rw [hpages]
  dsimp only
  rw [hk]

/-! Resumptions. -/

/-- A sequence that is being fetched to its pages. -/
noncomputable def fetchedTo (m : List (Nat × BlockRef)) (q : Sequence) : Sequence :=
  { q with map := m, dim := some (q.dim.getD {}), moving := some .fetch }

theorem live_of_segsOnly {s t : State} (h : segsOnly s t) (k : Nat) : t.live k = s.live k := by
  rw [h]
  rfl

theorem segsOnly_dma (s : State) (i : Nat) (r : DmaReq) : segsOnly s (s.dma i r) := rfl

theorem seatsOnly_dma (s : State) (i : Nat) (r : DmaReq) : seatsOnly s (s.dma i r) := rfl

/-- A sequence's dim write or fetch begun. -/
theorem beginDimFetch_seq {s : State} {k : Nat} {q : Sequence} (h : s.live k = some q) :
    seatsOnly s (s.beginDimFetch (.seq k)) ∧ (s.beginDimFetch (.seq k)).live k = some (fetchedTo q.map q) := by
  have hset : s.setDim (.seq k) (some (((s.live k).bind (·.dim)).getD {})) (some .fetch) = seated s k (fetchedTo q.map q) := by
    rw [h]
    exact onLive_of_live h _
  have hlive : (seated s k (fetchedTo q.map q)).live k = some (fetchedTo q.map q) := aGet_aSet_eq _ _ _
  have hseats : seatsOnly s (seated s k (fetchedTo q.map q)) := rfl
  unfold State.beginDimFetch
  dsimp only
  rw [hset]
  generalize seated s k (fetchedTo q.map q) = u at hlive hseats ⊢
  split
  · split
    · exact ⟨hseats.trans rfl, hlive⟩
    · exact ⟨hseats.trans (.foldl (fun t _ => seatsOnly_dma t _ _) _ _),
        (live_of_segsOnly (.foldl (fun t _ => segsOnly_dma t _ _) _ _) k).trans hlive⟩
  · exact ⟨hseats.trans rfl, hlive⟩

/-- A sequence that no longer waits for budget or pages, and is to be fetched to its blocks. -/
noncomputable def resumed (q : Sequence) : Sequence :=
  { q with pausedBudget := none, pausedPages := none, resumable := false, ownBlocks := resumeBlocks q }

/-- What the resumption of a sequence on the dim tier leaves (R197). -/
theorem resume_dim {s : State} {k : Nat} {q : Sequence} (h : s.live k = some q) (ht : q.tier = .dim) :
    seatsOnly (s.takePages q.req.part (s.fetchPages q)) (s.resume k) ∧ ∃ m, (s.resume k).live k = some (fetchedTo m { resumed q with map := m }) := by
  have hres : s.resume k =
      (((s.takePages q.req.part (s.fetchPages q)).onLive k resumed).giveBlocks (.seq k) (resumeBlocks q)).beginDimFetch (.seq k) := by
    unfold State.resume
    rw [h]
    dsimp only
    rw [ht]
    rfl
  have hseats := seatsOnly.onLive (s.takePages q.req.part (s.fetchPages q)) k resumed
  obtain ⟨hgive, m, hm⟩ := giveBlocks_seq ((s.takePages q.req.part (s.fetchPages q)).live_onLive_eq k resumed q h) (resumeBlocks q)
  obtain ⟨hfetch, hlive⟩ := beginDimFetch_seq hm
  rw [hres]
  exact ⟨hseats.trans (hgive.trans hfetch), m, hlive⟩

theorem resume_bright {s : State} {k : Nat} {q : Sequence} (h : s.live k = some q) (ht : q.tier ≠ .dim) : s.resume k =
    { s with seqs := aSet k { q with pausedBudget := none, pausedPages := none, resumable := false, tier := .bright, dim := none } s.seqs } := by
  unfold State.resume
  rw [h]
  dsimp only
  rw [if_neg (by simpa using ht)]
  exact onLive_of_live h _

theorem execResumption_next {s : State} {p k : Nat} (hprior : s.prior = none) (hp : p < 15) (he : s.edgeAt 3 = true)
    (hk : s.resumeNext p = some k) : exec (.resumption p) s = .next ((s.toPhase 3).resume k) := by
  show execResumption p s = _
  unfold execResumption
  rw [underForce_settled _ s hprior]
  simp only [hk, decide_eq_true hp, he, onlyIf]
  rfl

/-- JOIN_WAIT_EXPIRY of the head of an LC queue that has waited (R200). -/
theorem execJoinWaitExpiry_late {s : State} {p b : Nat} {r : Request} {rest : List Request} (hprior : s.prior = none) (hm : s.mgrUp = true)
    (hp : p < 15) (hq : (s.part p).lcQueue = r :: rest) (hb : r.waitFrom = some b) (hw : b + (s.part p).joinWait ≤ s.time.beat)
    (ht : s.takesTurns p = true) : exec (.joinWaitExpiry p) s = .next (s.failTurn r .noPages) := by
  have hover : waitOver s.time.beat (s.part p).joinWait r.waitFrom = true := by
    rw [hb]
    exact decide_eq_true hw
  show execJoinWaitExpiry p s = _
  unfold execJoinWaitExpiry
  rw [underForce_settled _ s hprior]
  simp only [hq, List.head?_cons, hover, hm, decide_eq_true hp, ht, onlyIf]
  rfl

/-- Settles O19. -/
theorem admissionOutcomes : Obligations.AdmissionOutcomes := by
  refine ⟨?_, ?_, ?_, ?_⟩
  · rintro s p k c r j hprior hp rfl hlen he hturn hc hj hentry hfetch hretr hroom hk
    have hadmit := (admitTurn_joins (s := s.toPhase 2) hj hentry hfetch hroom hk).trans (admitRequest_eq _ k r _ hentry)
    obtain ⟨hfields, m, b, hlive⟩ := admittedAs_leaves _ k r
      ((charged (((s.toPhase 2).given ((s.toPhase 2).stampFor 0)).unqueue r) r j).newSequence k r j ((s.toPhase 2).stampFor 0))
    refine ⟨_, _, (execAdmission_turn hprior hp he hturn hc).trans (congrArg Host.Outcome.next hadmit), hlive, rfl, rfl, rfl, rfl, rfl,
      ?_, ?_⟩
    · refine congrArg (fun x : Policy => inputDue x.dIn (screenedTokens r).length _) ?_
      exact (policy_takePages _ _ _).trans (policy_unqueue _ r)
    · rw [hfields]
      refine ⟨?_, ?_, rfl, rfl, rfl, rfl, rfl, rfl, rfl, rfl⟩
      · refine (poolFree_takePages _ _ _).trans ?_
        rw [poolFree_unqueue, hfetch]
        rfl
      · exact congrArg Tenant.level (State.tenant_onTenant_eq s r.tenant
          (fun e => { e with level := e.level - (((s.tenant r.tenant).inputWeight * (screenedTokens r).length : Nat) : Int) }))
  · rintro s p b r rest hprior hm hp hq rfl hb hw ht
    obtain ⟨E, n, t, hfail⟩ := failTurn_eq s r .noPages
    refine ⟨_, (execJoinWaitExpiry_late hprior hm hp hq hb hw ht).trans (congrArg Host.Outcome.next hfail), rfl, rfl, rfl, ?_, rfl, rfl⟩
    exact not_mem_queue_unqueue s r r.part .lc rfl
  · intro s p k q hprior hp he hk hq ht
    refine ⟨_, (execResumption_next hprior hp he hk).trans (congrArg Host.Outcome.next (resume_bright (s := s.toPhase 3) hq ht)),
      aGet_aSet_eq _ _ _, fun j hj => aGet_aSet_ne _ _ hj, rfl, rfl⟩
  · rintro s p k q hprior hp hlen he hk hq ht rfl
    obtain ⟨hfields, m, hlive⟩ := resume_dim (s := s.toPhase 3) hq ht
    refine ⟨_, _, execResumption_next hprior hp he hk, hlive, rfl, rfl, rfl, rfl, ?_⟩
    rw [hfields]
    refine ⟨?_, rfl, rfl, rfl⟩
    have hneed : s.brightNeed q = s.fetchPages q := by
      unfold State.brightNeed
      rw [ht]
    rw [hneed]
    exact poolFree_takePages s _ _

end Sys2Proof.Proofs
end
section
/-! Ring doorbells and ring contexts (R296 to R298). -/

namespace Sys2Proof.Proofs

open Sys2Proof Sys2Proof.Machine

/-! What the end of a cycle, and a move in the present one, change of a block. -/

/-- A block stands but for one ring, and for the manager's notice queue and answers. -/
structure oneRing (n : Nat) (s t : State) : Prop where
  eq : t = { s with rings := t.rings, segs := t.segs }
  rings : ∀ m, m ≠ n → t.ring m = s.ring m
  mgr : answersOnly { s.seg s.mgr with nq := (t.seg s.mgr).nq } (t.seg s.mgr)
  segs : othersAnswered s.mgr s t

theorem oneRing.refl (n : Nat) (s : State) : oneRing n s s := ⟨rfl, fun _ _ => rfl, rfl, fun _ _ => rfl⟩

theorem oneRing.roles {n : Nat} {s t : State} (h : oneRing n s t) : t.mgr = s.mgr := (congrArg State.mgr h.eq :)

theorem oneRing.trans {n : Nat} {s t u : State} (a : oneRing n s t) (b : oneRing n t u) : oneRing n s u := by
  have hm := a.roles
  obtain ⟨ea, ra, ma, sa⟩ := a
  obtain ⟨eb, rb, mb, sb⟩ := b
  rw [hm] at mb sb
  exact ⟨by rw [eb, ea], fun m h => (rb m h).trans (ra m h), noticed.trans ma mb, othersAnswered_trans sa sb⟩

theorem oneRing_onRing (n : Nat) (s : State) (f : Ring → Ring) : oneRing n s (s.onRing n f) :=
  ⟨rfl, fun _ h => s.ring_setRing_ne _ h, rfl, fun _ _ => rfl⟩

theorem ring_onRing (s : State) (n : Nat) (f : Ring → Ring) : (s.onRing n f).ring n = f (s.ring n) := s.ring_setRing_eq n _

theorem oneRing_raise (n : Nat) (s : State) (code scope seg part : Nat) (e : Stamp) (d : Nat) :
    oneRing n s (s.raise s.mgr code scope seg part e d) := by
  obtain ⟨eq, -, segs⟩ := noticesOnly_raise s s.mgr code scope seg part e d
  refine ⟨?_, fun m _ => (congrArg (State.ring · m) eq :), segs s.mgr, othersAnswered_raise s s.mgr code scope seg part e d⟩
  generalize s.raise s.mgr code scope seg part e d = t at eq ⊢
  rw [eq]

/-- A ring whose cycle is `c`, with what it owes the host. -/
noncomputable def ringOver (c : Option RingCyc) (w d : Bool) (r : Ring) : Ring := { r with cyc := c, wbDue := w, raiseDue := d }

/-- A latching raised makes a write-back due, and nothing else of its ring (R290, R299). -/
theorem oneRing_ringLatched (n : Nat) (s : State) (e : QEvent) : oneRing n s (s.ringLatched n e) ∧
    (s.ringLatched n e).ring n = ringOver (s.ring n).cyc true true (s.ring n) := by
  refine ⟨(oneRing_raise n s _ _ _ _ _ _).trans (oneRing_onRing n _ _), (ring_onRing _ _ _).trans ?_⟩
  rw [raise_eq]
  rfl

theorem oneRing_latched (n : Nat) (l : List QEvent) (s : State) : oneRing n s (l.foldl (fun t e => t.ringLatched n e) s) ∧
    ∃ w d, (l.foldl (fun t e => t.ringLatched n e) s).ring n = ringOver (s.ring n).cyc w d (s.ring n) := by
  induction l generalizing s with
  | nil => exact ⟨.refl n s, _, _, rfl⟩
  | cons e l ih =>
    obtain ⟨hone, hring⟩ := oneRing_ringLatched n s e
    obtain ⟨hrest, w, d, hw⟩ := ih (s.ringLatched n e)
    exact ⟨hone.trans hrest, w, d, by rw [List.foldl_cons, hw, hring]; rfl⟩

/-- The cycle of a ring's last index move is over (R290). -/
theorem oneRing_closeRing (n : Nat) (s : State) : oneRing n s (s.closeRing n) ∧
    ∃ w d, (s.closeRing n).ring n = ringOver none w d (s.ring n) := by
  unfold State.closeRing
  split
  · next c _ =>
    obtain ⟨hone, w, d, hw⟩ := oneRing_latched n c.owe (s.onRing n (fun r => { r with cyc := none }))
    exact ⟨(oneRing_onRing n s _).trans hone, w, d, by rw [hw, ring_onRing]; rfl⟩
  · next h =>
    refine ⟨.refl n s, (s.ring n).wbDue, (s.ring n).raiseDue, ?_⟩
    unfold ringOver
    rw [← h]

theorem oneRing_ringTurn (n : Nat) (s : State) : oneRing n s (s.ringTurn n) ∧
    ∃ c w d, (s.ringTurn n).ring n = ringOver c w d (s.ring n) := by
  have turn (b : Bool) : oneRing n s (if b then s else s.closeRing n) ∧
      ∃ c w d, (if b then s else s.closeRing n).ring n = ringOver c w d (s.ring n) := by
    obtain ⟨hone, w, d, h⟩ := oneRing_closeRing n s
    cases b with
    | true => exact ⟨.refl n s, (s.ring n).cyc, (s.ring n).wbDue, (s.ring n).raiseDue, rfl⟩
    | false => exact ⟨hone, none, w, d, h⟩
  exact turn _

/-- The indexes of a ring moved (R296). -/
theorem oneRing_moveRing (n : Nat) (s : State) (head tail : Nat) : oneRing n s (s.moveRing n head tail) ∧
    ((s.moveRing n head tail).ring n).head = head % 2 ^ 32 ∧ ((s.moveRing n head tail).ring n).tail = tail % 2 ^ 32 ∧
    ((s.moveRing n head tail).ring n).dbErrors = (s.ring n).dbErrors := by
  obtain ⟨hone, c, w, d, h⟩ := oneRing_ringTurn n s
  refine ⟨hone.trans (oneRing_onRing n _ _), ?_⟩
  unfold State.moveRing
  rw [ring_onRing, h]
  exact ⟨rfl, rfl, rfl⟩

/-! Doorbells. -/

section Doorbells
variable {s : State} {n : Nat}

theorem doorbell_refused (cyc : Nat) {op index : Nat} (h : doorbellOk op index (s.ring n) = false) :
    s.doorbell cyc n op index = (s.given (s.stampFor cyc)).onRing n Ring.refuse := if_neg (by rw [show ((s.given _).ring n) = s.ring n from rfl, h]; exact Bool.false_ne_true)

theorem doorbell_acts (cyc : Nat) {op index : Nat} (h : doorbellOk op index (s.ring n) = true) :
    s.doorbell cyc n op index = (s.given (s.stampFor cyc)).doorbellActs n op index := if_pos h

variable (ht : s.takesDoorbell n = true)
include ht

theorem exec_produce (cyc index : Nat) : exec (.produce cyc n index) s =
    .next (if (s.ring n).isSub then (s.doorbell cyc n 1 index).wakeEvent (s.stampFor cyc).beat else s.doorbell cyc n 1 index) :=
  congrArg Host.Outcome.next (if_pos ht)

theorem exec_consume (cyc index : Nat) : exec (.consume cyc n index) s = .next (s.doorbell cyc n 2 index) :=
  congrArg Host.Outcome.next (if_pos ht)

theorem exec_ringFlush (cyc : Nat) : exec (.ringFlush cyc n) s = .next (s.doorbell cyc n 3 0) := congrArg Host.Outcome.next (if_pos ht)

theorem exec_doorbellReservedOp (cyc op index : Nat) : exec (.doorbellReservedOp cyc n op index) s = .next (s.doorbell cyc n (op % 16) index) :=
  congrArg Host.Outcome.next (if_pos ht)

end Doorbells

/-! Ring contexts. -/

/-- A doorbell's stamp changes no ring and no segment. -/
theorem oneRing_given {n : Nat} {s t : State} {e : Stamp} (h : oneRing n (s.given e) t) : (∀ m, m ≠ n → t.ring m = s.ring m) ∧
    answersOnly { s.seg s.mgr with nq := (t.seg s.mgr).nq } (t.seg s.mgr) ∧ othersAnswered s.mgr s t ∧
    t = { s with rings := t.rings, segs := t.segs, time := t.time } := by
  refine ⟨h.rings, h.mgr, h.segs, ?_⟩
  rw [h.eq]
  rfl

theorem wakeEvent_eq (s : State) (b : Nat) : s.wakeEvent b =
    { s with power := if s.power.hush = 1 then { s.power with hush := 2, wakeAt := b + 50 } else s.power } := by
  unfold State.wakeEvent
  by_cases h : s.power.hush = 1
  · rw [if_pos (beq_iff_eq.mpr h), if_pos h]
  · rw [if_neg (by rwa [beq_iff_eq]), if_neg h]

theorem contextWrite_enables {s : State} {n word : Nat} (he : (s.ring n).enable = false) (hb : bit 61 word = true) :
    s.contextWrite n 13 word = (s.closeRing n).onRing n (ringEnabled word) := by
  unfold State.contextWrite
  dsimp only
  rw [he, hb]
  rfl

theorem contextWrite_disables {s : State} {n word : Nat} (he : (s.ring n).enable = true) (hb : bit 61 word = false) :
    s.contextWrite n 13 word = (s.closeRing n).disableRing n word := by
  unfold State.contextWrite
  dsimp only
  rw [he, hb]
  rfl

theorem contextWrite_plain {s : State} {n k word : Nat} (hk : k = 13 → bit 61 word = (s.ring n).enable) :
    s.contextWrite n k word = (s.ringTurn n).onRing n (ringWrite s.now k word) := by
  unfold State.contextWrite
  dsimp only
  by_cases h : k = 13
  · rw [hk h]
    cases (s.ring n).enable with
    | true => simp
    | false => simp
  · have h : (k == 13) = false := beq_eq_false_iff_ne.mpr h
    rw [h]
    rfl

theorem ringInUse_closeRing (s : State) (n : Nat) : (s.closeRing n).ringInUse n = s.ringInUse n := by
  obtain ⟨hone, w, d, hring⟩ := oneRing_closeRing n s
  unfold State.ringInUse
  rw [hring, show (s.closeRing n).seqs = s.seqs from (congrArg State.seqs hone.eq :),
    show (s.closeRing n).parts = s.parts from (congrArg State.parts hone.eq :)]
  rfl

section Contexts
variable {s : State} {n : Nat} (ht : s.takesContext n = true)
include ht

theorem exec_ringEnable {word : Nat} (he : (s.ring n).enable = false) (hb : bit 61 word = true) :
    exec (.ringEnable n word) s = .next ((s.closeRing n).onRing n (ringEnabled word)) := by
  rw [← contextWrite_enables he hb]
  exact congrArg Host.Outcome.next (if_pos (by rw [ht, he, hb]; rfl))

theorem exec_ringDisable {word : Nat} (he : (s.ring n).enable = true) (hb : bit 61 word = false) :
    exec (.ringDisable n word) s = .next ((s.closeRing n).disableRing n word) := by
  rw [← contextWrite_disables he hb]
  exact congrArg Host.Outcome.next (if_pos (by rw [ht, he, hb]; rfl))

theorem exec_ringContextWrite {k word : Nat} (hk : k < 16) (h13 : k = 13 → bit 61 word = (s.ring n).enable) :
    exec (.ringContextWrite n k word) s = .next ((s.ringTurn n).onRing n (ringWrite s.now k word)) := by
  rw [← contextWrite_plain h13]
  exact congrArg Host.Outcome.next (if_pos (by rw [ht, decide_eq_true hk]; rfl))

end Contexts

/-! Which doorbells are valid, and what they do (R298). -/

theorem doorbellOk_consume {r : Ring} (he : r.enable = true) (hk : r.kind ≠ 0) (index : Nat) : doorbellOk 2 index r =
    (decide ((index % 2 ^ 32 + 2 ^ 32 - r.head) % 2 ^ 32 ≤ r.depth) ||
      (r.kind == 3 && decide ((r.head + 2 ^ 32 - index % 2 ^ 32) % 2 ^ 32 ≤ r.entries))) := by
  unfold doorbellOk
  dsimp only
  rw [he, bne_iff_ne.mpr hk, if_neg (by decide), if_pos (by decide), Bool.true_and, Bool.true_and]

theorem doorbellOk_flush {r : Ring} (index : Nat) : doorbellOk 3 index r = (r.enable && r.kind == 3) := by
  unfold doorbellOk
  dsimp only
  rw [if_neg (by decide), if_neg (by decide)]
  rfl

theorem doorbellOk_produce {r : Ring} (index : Nat) : doorbellOk 1 index r = (r.enable && (r.kind == 0 &&
    decide ((index % 2 ^ 32 + 2 ^ 32 - r.tail) % 2 ^ 32 ≤ r.entries - r.depth))) := by
  unfold doorbellOk
  dsimp only
  rw [if_pos (by decide)]

theorem doorbellOk_reserved {op : Nat} (hop : op % 16 = 0 ∨ 4 ≤ op % 16) (index : Nat) (r : Ring) : doorbellOk (op % 16) index r = false := by
  have h1 : (op % 16 == 1) = false := beq_eq_false_iff_ne.mpr (by omega)
  have h2 : (op % 16 == 2) = false := beq_eq_false_iff_ne.mpr (by omega)
  have h3 : (op % 16 == 3) = false := beq_eq_false_iff_ne.mpr (by omega)
  unfold doorbellOk
  dsimp only
  rw [h1, h2, h3]
  exact Bool.and_false _

theorem doorbellActs_consume {s : State} {n index : Nat} (h : (index % 2 ^ 32 + 2 ^ 32 - (s.ring n).head) % 2 ^ 32 ≤ (s.ring n).depth) :
    s.doorbellActs n 2 index = (s.moveRing n (index % 2 ^ 32) (s.ring n).tail).onRing n
      (fun r => { r with flags := r.flags.drop ((index % 2 ^ 32 + 2 ^ 32 - (s.ring n).head) % 2 ^ 32) }) := by
  unfold State.doorbellActs
  dsimp only
  rw [if_neg (by decide), if_pos (by decide), if_pos h]

theorem doorbellActs_behind {s : State} {n index : Nat} (h : (s.ring n).depth < (index % 2 ^ 32 + 2 ^ 32 - (s.ring n).head) % 2 ^ 32) :
    s.doorbellActs n 2 index = s := by
  unfold State.doorbellActs
  dsimp only
  rw [if_neg (by decide), if_pos (by decide), if_neg (Nat.not_le.mpr h)]

section Doorbells
variable {s : State} {n : Nat} (ht : s.takesDoorbell n = true)
include ht

/-- A valid PRODUCE moves TAIL; in hush it wakes the block (R298, R396). -/
theorem produce_moves (cyc : Nat) {index : Nat} (hok : doorbellOk 1 index (s.ring n) = true) : ∃ u : State,
    exec (.produce cyc n index) s = .next { u with
      power := if s.power.hush = 1 then { s.power with hush := 2, wakeAt := (s.stampFor cyc).beat + 50 } else s.power } ∧
    (u.ring n).tail = index % 2 ^ 32 ∧ (u.ring n).head = (s.ring n).head % 2 ^ 32 ∧ (u.ring n).dbErrors = (s.ring n).dbErrors ∧
    oneRing n (s.given (s.stampFor cyc)) u := by
  have hsub : (s.ring n).isSub = true := by
    rw [doorbellOk_produce, Bool.and_eq_true, Bool.and_eq_true] at hok
    rw [Ring.isSub, hok.1, hok.2.1]
    rfl
  obtain ⟨hone, hhead, htail, hdb⟩ := oneRing_moveRing n (s.given (s.stampFor cyc)) (s.ring n).head (index % 2 ^ 32)
  refine ⟨_, ?_, htail.trans (Nat.mod_mod _ _), hhead, hdb, hone⟩
  rw [exec_produce ht cyc index, if_pos hsub, doorbell_acts cyc hok, wakeEvent_eq]
  have hpower : ((s.given (s.stampFor cyc)).doorbellActs n 1 index).power = s.power := (congrArg State.power hone.eq :)
  rw [hpower]
  rfl

/-- A CONSUME within the depth moves HEAD (R298). -/
theorem consume_moves (cyc : Nat) {index : Nat} (he : (s.ring n).enable = true) (hk : (s.ring n).kind ≠ 0)
    (hd : (index % 2 ^ 32 + 2 ^ 32 - (s.ring n).head) % 2 ^ 32 ≤ (s.ring n).depth) : ∃ t, exec (.consume cyc n index) s = .next t ∧
      (t.ring n).head = index % 2 ^ 32 ∧ (t.ring n).tail = (s.ring n).tail % 2 ^ 32 ∧ (t.ring n).dbErrors = (s.ring n).dbErrors ∧
      oneRing n (s.given (s.stampFor cyc)) t := by
  have hok : doorbellOk 2 index (s.ring n) = true := by rw [doorbellOk_consume he hk, decide_eq_true hd, Bool.true_or]
  obtain ⟨hone, hhead, htail, hdb⟩ := oneRing_moveRing n (s.given (s.stampFor cyc)) (index % 2 ^ 32) (s.ring n).tail
  refine ⟨_, (exec_consume ht cyc index).trans (congrArg Host.Outcome.next ((doorbell_acts cyc hok).trans (doorbellActs_consume hd))), ?_, ?_, ?_,
    hone.trans (oneRing_onRing n _ _)⟩
  · rw [ring_onRing]
    exact hhead.trans (Nat.mod_mod _ _)
  · rw [ring_onRing]
    exact htail
  · rw [ring_onRing]
    exact hdb

/-- A CONSUME behind HEAD of an NTC ring, within its size, has no effect (R298). -/
theorem consume_behind (cyc : Nat) {index : Nat} (he : (s.ring n).enable = true) (hk : (s.ring n).kind = 3)
    (hd : (s.ring n).depth < (index % 2 ^ 32 + 2 ^ 32 - (s.ring n).head) % 2 ^ 32)
    (hb : ((s.ring n).head + 2 ^ 32 - index % 2 ^ 32) % 2 ^ 32 ≤ (s.ring n).entries) :
    exec (.consume cyc n index) s = .next (s.given (s.stampFor cyc)) := by
  have hok : doorbellOk 2 index (s.ring n) = true := by
    rw [doorbellOk_consume he (by rw [hk]; decide), decide_eq_true hb, hk]
    exact Bool.or_true _
  exact (exec_consume ht cyc index).trans (congrArg Host.Outcome.next ((doorbell_acts cyc hok).trans (doorbellActs_behind hd)))

/-- RING_FLUSH empties an enabled NTC ring (R298). -/
theorem ringFlush_empties (cyc : Nat) (he : (s.ring n).enable = true) (hk : (s.ring n).kind = 3) : ∃ t, exec (.ringFlush cyc n) s = .next t ∧
    (t.ring n).head = (s.ring n).tail % 2 ^ 32 ∧ (t.ring n).tail = (s.ring n).tail % 2 ^ 32 ∧ (t.ring n).tornNext = true ∧
    oneRing n (s.given (s.stampFor cyc)) t := by
  have hok : doorbellOk 3 0 (s.ring n) = true := by
    rw [doorbellOk_flush, he, hk]
    rfl
  obtain ⟨hone, hhead, htail, -⟩ := oneRing_moveRing n (s.given (s.stampFor cyc)) (s.ring n).tail (s.ring n).tail
  have hacts : (s.given (s.stampFor cyc)).doorbellActs n 3 0 = ((s.given (s.stampFor cyc)).moveRing n (s.ring n).tail (s.ring n).tail).onRing n
      (fun q => { q with flags := q.flags.drop (s.ring n).depth, tornNext := true }) := by
    unfold State.doorbellActs
    dsimp only
    rw [if_neg (by decide), if_neg (by decide)]
    rfl
  refine ⟨_, (exec_ringFlush ht cyc).trans (congrArg Host.Outcome.next ((doorbell_acts cyc hok).trans hacts)), ?_, ?_, ?_,
    hone.trans (oneRing_onRing n _ _)⟩
  · rw [ring_onRing]
    exact hhead
  · rw [ring_onRing]
    exact htail
  · rw [ring_onRing]

/-- An invalid PRODUCE is refused (R298). -/
theorem produce_refused (cyc : Nat) {index : Nat} (hbad : (s.ring n).enable = false ∨ (s.ring n).kind ≠ 0 ∨
    (s.ring n).entries - (s.ring n).depth < (index % 2 ^ 32 + 2 ^ 32 - (s.ring n).tail) % 2 ^ 32)
    (hwake : (s.ring n).enable = false ∨ (s.ring n).kind ≠ 0 ∨ s.power.hush ≠ 1) :
    exec (.produce cyc n index) s = .next ((s.given (s.stampFor cyc)).onRing n Ring.refuse) := by
  have hok : doorbellOk 1 index (s.ring n) = false := by
    rw [doorbellOk_produce]
    rcases hbad with h | h | h
    · rw [h, Bool.false_and]
    · rw [beq_eq_false_iff_ne.mpr h, Bool.false_and, Bool.and_false]
    · rw [decide_eq_false (Nat.not_le.mpr h), Bool.and_false, Bool.and_false]
  rw [exec_produce ht, doorbell_refused cyc hok]
  rcases hwake with h | h | h
  · rw [if_neg (by rw [Ring.isSub, h]; exact Bool.false_ne_true)]
  · rw [if_neg (by rw [Ring.isSub, beq_eq_false_iff_ne.mpr h, Bool.and_false]; exact Bool.false_ne_true)]
  · rw [wakeEvent_eq, show ((s.given (s.stampFor cyc)).onRing n Ring.refuse).power = s.power from rfl, if_neg h]
    split
    · rfl
    · rfl

end Doorbells

/-! Contexts written. -/

section Contexts
variable {s : State} {n word : Nat} (ht : s.takesContext n = true)
include ht

/-- A ring whose fields stand is enabled empty (R297). -/
theorem ringEnable_starts (he : (s.ring n).enable = false) (hb : bit 61 word = true) (hbase : (s.ring n).base % 4096 = 0)
    (hwb : (s.ring n).indexWb % 8 = 0) (h6 : 6 ≤ bits 59 55 word) (h20 : bits 59 55 word ≤ 20) : ∃ t w d,
      exec (.ringEnable n word) s = .next t ∧ oneRing n s t ∧
      t.ring n = ringStart (ringFree13 word (ringGated13 word (ringOver none w d (s.ring n)))) := by
  obtain ⟨hone, w, d, hring⟩ := oneRing_closeRing n s
  refine ⟨_, w, d, exec_ringEnable ht he hb, hone.trans (oneRing_onRing n _ _), ?_⟩
  rw [ring_onRing, hring]
  refine if_pos ?_
  simp only [ringStartable, ringFree13, ringGated13, ringOver, hbase, hwb, h6, h20]
  rfl

/-- One whose fields do not stand is not (R297). -/
theorem ringEnable_refused (he : (s.ring n).enable = false) (hb : bit 61 word = true)
    (hbad : (s.ring n).base % 4096 ≠ 0 ∨ (s.ring n).indexWb % 8 ≠ 0 ∨ bits 59 55 word < 6 ∨ 20 < bits 59 55 word) : ∃ t w d,
      exec (.ringEnable n word) s = .next t ∧ oneRing n s t ∧ t.ring n = { ringOver none w d (s.ring n) with dbError := true } := by
  obtain ⟨hone, w, d, hring⟩ := oneRing_closeRing n s
  refine ⟨_, w, d, exec_ringEnable ht he hb, hone.trans (oneRing_onRing n _ _), ?_⟩
  rw [ring_onRing, hring]
  refine if_neg ?_
  simp only [ringStartable, ringFree13, ringGated13, ringOver]
  rcases hbad with h | h | h | h
  · simp [h]
  · simp [h]
  · simp [Nat.not_le.mpr h]
  · simp [Nat.not_le.mpr h]

/-- A ring not in use is disabled; one in use is not (R297). -/
theorem ringDisable_acts (he : (s.ring n).enable = true) (hb : bit 61 word = false) : ∃ t w d,
    exec (.ringDisable n word) s = .next t ∧ oneRing n s t ∧
    t.ring n = if s.ringInUse n then { ringOver none w d (s.ring n) with dbError := true }
      else { ringFree13 word (ringOver none w d (s.ring n)) with enable := false } := by
  obtain ⟨hone, w, d, hring⟩ := oneRing_closeRing n s
  refine ⟨_, w, d, exec_ringDisable ht he hb, ?_⟩
  unfold State.disableRing
  rw [ringInUse_closeRing]
  cases s.ringInUse n with
  | true =>
    rw [if_pos rfl, if_pos rfl]
    exact ⟨hone.trans (oneRing_onRing n _ _), (ring_onRing _ n _).trans (congrArg (fun r : Ring => { r with dbError := true }) hring)⟩
  | false =>
    rw [if_neg Bool.false_ne_true, if_neg Bool.false_ne_true]
    exact ⟨hone.trans (oneRing_onRing n _ _),
      (ring_onRing _ n _).trans (congrArg (fun r : Ring => { ringFree13 word r with enable := false }) hring)⟩

end Contexts

/-- Settles O24. -/
theorem rings : Obligations.Rings := by
  refine ⟨⟨?_, ?_, ?_, ?_, ?_, ?_, ?_, ?_⟩, ?_, ?_, ?_, ?_, ?_, ?_⟩
  · intro s cyc n index ht hok
    obtain ⟨u, hexec, htail, hhead, hdb, hone⟩ := produce_moves ht cyc hok
    obtain ⟨hrings, hmgr, hsegs, heq⟩ := oneRing_given hone
    refine ⟨_, hexec, htail, hhead, hdb, hrings, rfl, hmgr, hsegs, ?_⟩
    generalize (if s.power.hush = 1 then { s.power with hush := 2, wakeAt := (s.stampFor cyc).beat + 50 } else s.power) = pw
    rw [heq]
  · intro s cyc n index ht he hk hd
    obtain ⟨t, hexec, hhead, htail, hdb, hone⟩ := consume_moves ht cyc he hk hd
    obtain ⟨hrings, hmgr, hsegs, heq⟩ := oneRing_given hone
    exact ⟨t, hexec, hhead, htail, hdb, hrings, hmgr, hsegs, heq⟩
  · intro s cyc n index ht he hk hd hb
    exact consume_behind ht cyc he hk hd hb
  · intro s cyc n ht he hk
    obtain ⟨t, hexec, hhead, htail, htorn, hone⟩ := ringFlush_empties ht cyc he hk
    obtain ⟨hrings, hmgr, hsegs, heq⟩ := oneRing_given hone
    exact ⟨t, hexec, hhead, htail, htorn, hrings, hmgr, hsegs, heq⟩
  · intro s cyc n op index ht hop
    exact (exec_doorbellReservedOp ht cyc op index).trans (congrArg Host.Outcome.next (doorbell_refused cyc (doorbellOk_reserved hop _ _)))
  · intro s cyc n index ht hok
    exact (exec_consume ht cyc index).trans (congrArg Host.Outcome.next (doorbell_refused cyc hok))
  · intro s cyc n index ht hbad hwake
    exact produce_refused ht cyc hbad hwake
  · intro s cyc n ht hbad
    have hok : doorbellOk 3 0 (s.ring n) = false := by
      rw [doorbellOk_flush]
      rcases hbad with h | h
      · rw [h, Bool.false_and]
      · rw [beq_eq_false_iff_ne.mpr h, Bool.and_false]
    exact (exec_ringFlush ht cyc).trans (congrArg Host.Outcome.next (doorbell_refused cyc hok))
  · intro s n word ht he hb hbase hwb h6 h20
    obtain ⟨t, w, d, hexec, hone, hring⟩ := ringEnable_starts ht he hb hbase hwb h6 h20
    refine ⟨t, hexec, ?_⟩
    rw [hring]
    exact ⟨rfl, rfl, rfl, rfl, rfl, rfl, rfl, rfl, rfl, rfl, rfl, hone.rings, hone.mgr, hone.segs, hone.eq⟩
  · intro s n word ht he hb hbad
    obtain ⟨t, w, d, hexec, hone, hring⟩ := ringEnable_refused ht he hb hbad
    refine ⟨t, hexec, ?_, hone.rings, hone.mgr, hone.segs, hone.eq⟩
    rw [hring]
    rfl
  · intro s n word ht he hb hu
    obtain ⟨t, w, d, hexec, hone, hring⟩ := ringDisable_acts ht he hb
    refine ⟨t, hexec, ?_⟩
    rw [hring, hu]
    exact ⟨rfl, rfl, rfl, rfl, hone.rings, hone.mgr, hone.segs, hone.eq⟩
  · intro s n word ht he hb hu
    obtain ⟨t, w, d, hexec, hone, hring⟩ := ringDisable_acts ht he hb
    refine ⟨t, hexec, ?_, hone.rings, hone.mgr, hone.segs, hone.eq⟩
    rw [hring, hu]
    rfl
  · intro s n k word ht hk h13
    exact exec_ringContextWrite ht hk h13
  · intro a r word
    refine ⟨rfl, fun he => congrArg (ringFree13 word) (if_pos he), rfl, ?_⟩
    · rintro k (rfl | rfl | rfl)
      · rfl
      · rfl
      · rfl

end Sys2Proof.Proofs
end
section
/-! Submission records and cancels (R221, R300). -/

namespace Sys2Proof.Proofs

open Sys2Proof Sys2Proof.Machine

/-! What an answer and the taking of a record leave. -/

/-- A block stands but for its segments, its rings and its free values. -/
def answeredOnly (s t : State) : Prop := t = { s with segs := t.segs, rings := t.rings, free := t.free }

theorem answeredOnly.trans {s t u : State} (a : answeredOnly s t) (b : answeredOnly t u) : answeredOnly s u := by
  unfold answeredOnly at *
  rw [b, a]

theorem answeredOnly_sendAnswer (s : State) (n data : Nat) : answeredOnly s (s.sendRecord n { kind := .answer, data := data }) := by
  unfold State.sendRecord
  dsimp only
  split
  · split
    · rfl
    · rfl
  · rfl

theorem answeredOnly_cancelAnswer (s : State) (r : Request) (st : Status) (e : Stamp) : answeredOnly s (s.cancelAnswer r st e) :=
  .trans (t := { s with free := s.free + 1 }) rfl (answeredOnly_sendAnswer _ _ _)

/-- What the taking of a record leaves (R300). -/
theorem takeSub_eq (s : State) (n : Nat) : s.takeSub n =
    { s with rings := (s.takeSub n).rings, segs := (s.takeSub n).segs, vectors := (s.takeSub n).vectors } := by
  have h := ((oneRing_moveRing n s ((s.ring n).head + 1) (s.ring n).tail).1.trans (oneRing_onRing n _ (fun r => { r with wbDue := true }))).eq
  exact congrArg (fun t : State => { t with vectors := (s.takeSub n).vectors }) h

/-- The record of a ring whose turn has come, taken at its stamp. -/
structure Taken (s u : State) (cyc n : Nat) : Prop where
  ready : s.subReady n = true
  eq : u = (s.given (s.stampFor cyc)).takeSub n

section Records
variable {s u : State} {cyc n : Nat}

theorem Taken.kept (h : Taken s u cyc n) : u.parts = s.parts ∧ u.tenants = s.tenants ∧ u.seqs = s.seqs ∧ u.glob = s.glob ∧ u.objs = s.objs ∧
    u.roles = s.roles ∧ u.pending = s.pending := by
  rw [h.eq, takeSub_eq]
  exact ⟨rfl, rfl, rfl, rfl, rfl, rfl, rfl⟩

/-- A record that names an enabled CMP ring goes on, any other is dropped and counted (R300). -/
theorem Taken.checked (h : Taken s u cyc n) (rec : SubRecord) (go : State → State) : (s.given (s.stampFor cyc)).subChecked n rec go =
    if s.ringIs (srCmp rec) 1 then go u else u.ringLoses n := by
  rw [h.eq]
  rfl

theorem Taken.subRequest (h : Taken s u cyc n) {rec : SubRecord} (hk : srKind rec = 0x30) (env : Envelope) :
    exec (.subRequest cyc n rec env) s = .next (if s.ringIs (srCmp rec) 1 then
      (if s.requestClamped (s.ring n) rec then u.subClamp (recordRequest rec (s.stampFor cyc)) false (s.stampFor cyc)
        else u.openRequest (recordRequest rec (s.stampFor cyc)) rec env (s.stampFor cyc)) else u.ringLoses n) := by
  show execSubRequest cyc n rec env s = _
  simp only [execSubRequest, onlyIf, h.ready, hk, h.checked]
  rfl

theorem Taken.cancel (h : Taken s u cyc n) {rec : SubRecord} (hk : srKind rec = 0x31) :
    exec (.cancel cyc n rec) s = .next (if s.ringIs (srCmp rec) 1 then
      (if cancelClamped (s.ring n) rec then u.subClamp (recordRequest rec (s.stampFor cyc)) true (s.stampFor cyc)
        else u.cancelRequest (recordRequest rec (s.stampFor cyc)) (s.stampFor cyc)) else u.ringLoses n) := by
  show execCancel cyc n rec s = _
  simp only [execCancel, onlyIf, h.ready, hk, h.checked]
  rfl

theorem Taken.subReservedKind (h : Taken s u cyc n) {rec : SubRecord} (h0 : srKind rec ≠ 0x30) (h1 : srKind rec ≠ 0x31) :
    exec (.subReservedKind cyc n rec) s = .next (if s.ringIs (srCmp rec) 1 then
      u.subClamp (recordRequest rec (s.stampFor cyc)) false (s.stampFor cyc) else u.ringLoses n) := by
  show execSubReservedKind cyc n rec s = _
  simp only [execSubReservedKind, onlyIf, h.ready, bne_iff_ne.mpr h0, bne_iff_ne.mpr h1, h.checked]
  rfl

end Records

/-! A request is queued. -/

/-- The request that an envelope carries. -/
noncomputable def bodyRequest (s : State) (r : Request) (env : Envelope) : Request := s.takeBody { r with streamKey := envelopeStreamKey env } env

/-- The body of an envelope leaves the fields of the record (R207). -/
theorem bodyRequest_fields (s : State) (r : Request) (env : Envelope) : (bodyRequest s r env).part = r.part ∧ (bodyRequest s r env).cls = r.cls ∧
    (bodyRequest s r env).tenant = r.tenant ∧ (bodyRequest s r env).reqId = r.reqId ∧ (bodyRequest s r env).cmpRing = r.cmpRing ∧
    (bodyRequest s r env).strRing = r.strRing ∧ (bodyRequest s r env).arrived = r.arrived := by
  unfold bodyRequest State.takeBody
  dsimp only
  split
  · exact ⟨rfl, rfl, rfl, rfl, rfl, rfl, rfl⟩
  · exact ⟨rfl, rfl, rfl, rfl, rfl, rfl, rfl⟩

theorem openRequest_sound {s : State} {r : Request} {rec : SubRecord} {env : Envelope} (e : Stamp) (hread : env.readError = false)
    (hopens : s.envelopeOpens rec env = true) (hbody : s.bodyFault r.part env = false) :
    s.openRequest r rec env e = { s with free := s.free + 1 }.enqueue (bodyRequest s r env) := by
  have hbody : { s with free := s.free + 1 }.bodyFault r.part env = false := hbody
  simp only [State.openRequest, hread, hopens, hbody]
  rfl

theorem queue_enqueue (s : State) (q : Request) (hp : q.part < s.parts.length) :
    ((s.enqueue q).part q.part).queue q.cls = (s.part q.part).queue q.cls ++ [q] := by
  unfold State.enqueue
  rw [s.part_onPart_eq _ hp]
  cases q.cls with
  | lc => rfl
  | be => rfl

/-! A cancel ends a live request. -/

theorem cancelRequest_live {s : State} {r : Request} {k : Nat} (e : Stamp) (hq : s.cancelQueued r.tenant r.reqId = none)
    (hl : s.cancelLive r.tenant r.reqId = some k) :
    s.cancelRequest r e = ((s.count (fun c => { c with cancels := c.cancels + 1 })).endSeq k .cancelled e).cancelAnswer r .ok e := by
  simp only [State.cancelRequest, hq, hl]

theorem cancelRequest_queued {s : State} {r q : Request} (e : Stamp) (hq : s.cancelQueued r.tenant r.reqId = some q) :
    s.cancelRequest r e =
      (((s.count (fun c => { c with cancels := c.cancels + 1 })).unqueue q).failRequest q .cancelled e).cancelAnswer r .ok e := by
  simp only [State.cancelRequest, hq]

theorem cancelRequest_late {s : State} {r : Request} (e : Stamp) (hq : s.cancelQueued r.tenant r.reqId = none)
    (hl : s.cancelLive r.tenant r.reqId = none) :
    s.cancelRequest r e = (s.count (fun c => { c with cancelsLate := c.cancelsLate + 1 })).cancelAnswer r .alreadyDone e := by
  simp only [State.cancelRequest, hq, hl]

theorem segsOnly_planLeft (s : State) (pl : Plan) (k : Nat) : segsOnly s ((s.freePassages pl).leaveScan k) :=
  (segsOnly.foldl (fun t i => .onSeg t i _) _ _).trans rfl

/-- The plan of a sequence is dropped, nothing else of it changes, and no tenant does. -/
theorem dropPlan_leaves {s : State} {k : Nat} {q : Sequence} (hq : s.live k = some q) :
    (∃ pl, (s.dropPlan k).live k = some { q with plan := pl }) ∧ (s.dropPlan k).tenants = s.tenants := by
  unfold State.dropPlan
  rw [hq]
  dsimp only
  split
  · next pl _ =>
    have hleft := segsOnly_planLeft s pl k
    have hlive : ((s.freePassages pl).leaveScan k).live k = some q := (congrArg (State.live · k) hleft :).trans hq
    exact ⟨⟨none, State.live_onLive_eq _ k _ q hlive⟩, (ledgersKept_onLive (.refl _) _ _).2.trans (congrArg State.tenants hleft :)⟩
  · exact ⟨⟨q.plan, hq⟩, rfl⟩

/-- The end of a request gives its tenant back what was charged for its held tokens, and no other tenant's bucket changes (R220, R222). -/
theorem tenants_endSeq {s : State} {k : Nat} {q : Sequence} (hq : s.live k = some q) (h : q.ended = none) (st : Status) (e : Stamp) :
    ((s.endSeq k st e).tenant q.req.tenant).level = (s.tenant q.req.tenant).level + 256 * (q.hold.length : Int) ∧
    ∀ j, j ≠ q.req.tenant → (s.endSeq k st e).tenant j = s.tenant j := by
  have hend : ledgersKept (endedAt s k st e) (s.endSeq k st e) := by
    rw [endSeq_eq hq h]
    exact ledgersKept_ite (.refl _) (ledgersKept_pagesReturn (.refl _) k e)
  obtain ⟨⟨pl, hpl⟩, hplan⟩ := dropPlan_leaves (s := s.unbind k) hq
  have hheld : ledgersKept (((s.unbind k).dropPlan k).charge q.req.tenant (-(256 * (q.hold.length : Int)))) (endedAt s k st e) := by
    unfold endedAt State.discardHeld
    rw [hpl]
    exact ledgersKept_onLive (ledgersKept_onLive (.refl _) _ _) _ _
  have htenant (j : Nat) : (s.endSeq k st e).tenant j =
      (((s.unbind k).dropPlan k).charge q.req.tenant (-(256 * (q.hold.length : Int)))).tenant j := by
    unfold State.tenant
    rw [hend.2, hheld.2]
  have hbefore (j : Nat) : ((s.unbind k).dropPlan k).tenant j = s.tenant j :=
    congrArg (fun l => (aGet j l).getD ({} : Tenant)) hplan
  constructor
  · rw [htenant, State.charge, State.tenant_onTenant_eq, hbefore]
    exact Int.sub_neg _ _
  · intro j hj
    rw [htenant, State.charge, State.tenant_onTenant_ne _ _ hj, hbefore]

/-- A cancel of a live request ends it at the cancel's stamp (R221). -/
theorem cancel_ends {s t : State} {k : Nat} {q : Sequence} {r : Request} {f : Counters → Counters} {e : Stamp} (hq : s.live k = some q)
    (h : q.ended = none) (ht : t = ((s.count f).endSeq k .cancelled e).cancelAnswer r .ok e) :
    (∃ q', t.live k = some q' ∧ q'.ended = some (.cancelled, e) ∧ q'.hold = []) ∧
    (t.tenant q.req.tenant).level = (s.tenant q.req.tenant).level + 256 * (q.hold.length : Int) ∧
    (∀ j, j ≠ q.req.tenant → t.tenant j = s.tenant j) ∧ t.glob = s.glob ∧ t.objs = s.objs ∧ t.roles = s.roles ∧ t.pending = s.pending := by
  have hans : answeredOnly ((s.count f).endSeq k .cancelled e) t := by
    rw [ht]
    exact answeredOnly_cancelAnswer _ _ _ _
  have hends : ∃ q', ((s.count f).endSeq k .cancelled e).live k = some q' ∧ q'.ended = some (.cancelled, e) ∧ _ ∧ q'.hold = [] :=
    endSeq_ends (s := s.count f) hq h .cancelled e
  obtain ⟨q', hlive, hended, -, hhold⟩ := hends
  obtain ⟨hlevel, hothers⟩ := tenants_endSeq (s := s.count f) hq h .cancelled e
  have hwork : workOnly _ ((s.count f).endSeq k .cancelled e) := workOnly_endSeq (.refl _) k _ _
  unfold answeredOnly at hans
  rw [hans]
  exact ⟨⟨q', hlive, hended, hhold⟩, hlevel, hothers, (congrArg State.glob hwork.1 :), (congrArg State.objs hwork.1 :),
    (congrArg State.roles hwork.1 :), (congrArg State.pending hwork.1 :)⟩

/-- A cancel of a waiting request takes it from its queue (R221). -/
theorem cancel_unqueues {s t : State} {r q : Request} {f : Counters → Counters} {e : Stamp}
    (ht : t = (((s.count f).unqueue q).failRequest q .cancelled e).cancelAnswer r .ok e) :
    (∀ x ∈ (t.part q.part).lcQueue ++ (t.part q.part).beQueue, ¬ (x.tenant = q.tenant ∧ x.reqId = q.reqId)) ∧
    t.tenants = s.tenants ∧ t.glob = s.glob ∧ t.objs = s.objs ∧ t.pending = s.pending := by
  have hans : answeredOnly ((s.count f).unqueue q) t := by
    rw [ht]
    exact (answeredOnly_sendAnswer _ _ _).trans (answeredOnly_cancelAnswer _ _ _ _)
  unfold answeredOnly at hans
  rw [hans]
  refine ⟨fun x hx => ?_, rfl, rfl, rfl, rfl⟩
  rcases List.mem_append.mp hx with hx | hx
  · exact not_mem_queue_unqueue (s.count f) q q.part .lc rfl x hx
  · exact not_mem_queue_unqueue (s.count f) q q.part .be rfl x hx

theorem cancelQueued_named {s : State} {tenant id : Nat} {q : Request} (h : s.cancelQueued tenant id = some q) :
    q.tenant = tenant ∧ q.reqId = id := by
  have h := List.find?_some h
  rw [named, Bool.and_eq_true, beq_iff_eq, beq_iff_eq] at h
  exact h

section Clauses
variable {s u : State} {cyc n : Nat} {rec : SubRecord} (h : Taken s u cyc n) (hring : s.ringIs (srCmp rec) 1 = true)
include h hring

theorem request_queued {env : Envelope} (hk : srKind rec = 0x30) (hc : s.requestClamped (s.ring n) rec = false) (hread : env.readError = false)
    (hopens : u.envelopeOpens rec env = true) (hbody : u.bodyFault (srPart rec) env = false) (hp : srPart rec < u.parts.length) :
    ∃ t q, exec (.subRequest cyc n rec env) s = .next t ∧ q.part = srPart rec ∧ q.cls = srCls rec ∧ q.tenant = srTenant rec ∧
      q.reqId = srId rec ∧ q.cmpRing = srCmp rec ∧ q.strRing = srStr rec ∧ q.arrived = s.stampFor cyc ∧
      (t.part (srPart rec)).queue (srCls rec) = (u.part (srPart rec)).queue (srCls rec) ++ [q] ∧
      t = { u with parts := t.parts, free := u.free + 1 } := by
  have hexec := (h.subRequest hk env).trans (congrArg Host.Outcome.next ((if_pos hring).trans (if_neg (Bool.eq_false_iff.mp hc))))
  have hsound := openRequest_sound (r := recordRequest rec (s.stampFor cyc)) (s.stampFor cyc) hread hopens hbody
  rw [hsound] at hexec
  obtain ⟨hpart, hcls, hfields⟩ := bodyRequest_fields u (recordRequest rec (s.stampFor cyc)) env
  have hput := queue_enqueue { u with free := u.free + 1 } (bodyRequest u (recordRequest rec (s.stampFor cyc)) env) (hpart.symm ▸ hp)
  obtain ⟨ht, hi, hcmp, hstr, harr⟩ := hfields
  rw [hpart, hcls] at hput
  exact ⟨_, _, hexec, hpart, hcls, ht, hi, hcmp, hstr, harr, hput, rfl⟩

theorem request_unopened {env : Envelope} (hk : srKind rec = 0x30) (hc : s.requestClamped (s.ring n) rec = false) (hread : env.readError = false)
    (hopens : u.envelopeOpens rec env = false) : exec (.subRequest cyc n rec env) s =
    .next ((u.failRequest (recordRequest rec (s.stampFor cyc)) .sealFail (s.stampFor cyc)).count (fun c => { c with envFails := c.envFails + 1 })) := by
  refine (h.subRequest hk env).trans (congrArg Host.Outcome.next ((if_pos hring).trans ((if_neg (Bool.eq_false_iff.mp hc)).trans ?_)))
  unfold State.openRequest
  rw [hread, hopens]
  rfl

theorem cancel_sound (hk : srKind rec = 0x31) (hc : cancelClamped (s.ring n) rec = false) : exec (.cancel cyc n rec) s =
    .next (u.cancelRequest (recordRequest rec (s.stampFor cyc)) (s.stampFor cyc)) :=
  (h.cancel hk).trans (congrArg Host.Outcome.next ((if_pos hring).trans (if_neg (Bool.eq_false_iff.mp hc))))

theorem cancel_tooLate (hk : srKind rec = 0x31) (hc : cancelClamped (s.ring n) rec = false)
    (hq : u.cancelQueued (srTenant rec) (srId rec) = none) (hl : u.cancelLive (srTenant rec) (srId rec) = none) :
    ∃ t, exec (.cancel cyc n rec) s = .next t ∧
      t = (u.count (fun c => { c with cancelsLate := c.cancelsLate + 1 })).cancelAnswer
        (recordRequest rec (s.stampFor cyc)) .alreadyDone (s.stampFor cyc) ∧ t.parts = s.parts ∧
      t.tenants = s.tenants ∧ (∀ k, (t.live k).bind (·.ended) = (s.live k).bind (·.ended)) ∧ t.pending = s.pending := by
  obtain ⟨hparts, htenants, hseqs, -, -, -, hpending⟩ := h.kept
  refine ⟨_, (cancel_sound h hring hk hc).trans (congrArg _ (cancelRequest_late (s.stampFor cyc) hq hl)), rfl, ?_⟩
  rw [answeredOnly_cancelAnswer _ (recordRequest rec (s.stampFor cyc)) .alreadyDone (s.stampFor cyc)]
  exact ⟨hparts, htenants, fun k => congrArg (fun l => (aGet k l).bind Sequence.ended) hseqs, hpending⟩

end Clauses

/-- Settles O17. -/
theorem submissionAndCancels : Obligations.SubmissionAndCancels := by
  refine ⟨⟨?_, ?_, ?_, ?_, ?_⟩, ?_, ?_, ?_, ?_⟩
  · intro s u cyc n rec env hr hk hu hring hc hread hopens hbody hp
    exact request_queued ⟨hr, hu⟩ hring hk hc hread hopens hbody hp
  · intro s u cyc n rec env hr hk hu hring hc
    exact (Taken.subRequest ⟨hr, hu⟩ hk env).trans (congrArg _ ((if_pos hring).trans (if_pos hc)))
  · intro s u cyc n rec env hr hk hu hring hc hread hopens
    exact request_unopened ⟨hr, hu⟩ hring hk hc hread hopens
  · intro s u cyc n rec env hr hu hring
    have h : Taken s u cyc n := ⟨hr, hu⟩
    have hlost (t : State) : (if s.ringIs (srCmp rec) 1 then t else u.ringLoses n) = u.ringLoses n := if_neg (Bool.eq_false_iff.mp hring)
    exact ⟨fun hk => (h.subRequest hk env).trans (congrArg _ (hlost _)), fun hk => (h.cancel hk).trans (congrArg _ (hlost _)),
      fun h0 h1 => (h.subReservedKind h0 h1).trans (congrArg _ (hlost _))⟩
  · intro s u cyc n rec hr h0 h1 hu hring
    exact (Taken.subReservedKind ⟨hr, hu⟩ h0 h1).trans (congrArg _ (if_pos hring))
  · intro s u cyc n k rec q hr hk hu hring hc hq hl hlive hend
    have h : Taken s u cyc n := ⟨hr, hu⟩
    obtain ⟨-, htenants, -, hglob, hobjs, hroles, hpending⟩ := h.kept
    obtain ⟨⟨q', hq', hended, hhold⟩, hlevel, hothers, g, o, r, p⟩ := cancel_ends (r := recordRequest rec (s.stampFor cyc))
      (f := fun c => { c with cancels := c.cancels + 1 }) (e := s.stampFor cyc) hlive hend rfl
    have htenant (j : Nat) : u.tenant j = s.tenant j := congrArg (fun l => (aGet j l).getD ({} : Tenant)) htenants
    exact ⟨_, q', (cancel_sound h hring hk hc).trans (congrArg _ (cancelRequest_live (s.stampFor cyc) hq hl)), rfl, hq', hended, hhold,
      hlevel.trans (by rw [htenant]), fun j hj => (hothers j hj).trans (htenant j), g.trans hglob, o.trans hobjs, r.trans hroles, p.trans hpending⟩
  · intro s u cyc n rec q hr hk hu hring hc hq
    have h : Taken s u cyc n := ⟨hr, hu⟩
    obtain ⟨-, htenants, -, hglob, hobjs, -, hpending⟩ := h.kept
    obtain ⟨hgone, ht, hg, ho, hp⟩ := cancel_unqueues (s := u) (q := q) (r := recordRequest rec (s.stampFor cyc))
      (f := fun c => { c with cancels := c.cancels + 1 }) (e := s.stampFor cyc) rfl
    obtain ⟨htenant, hid⟩ := cancelQueued_named hq
    rw [htenant, hid] at hgone
    exact ⟨_, (cancel_sound h hring hk hc).trans (congrArg _ (cancelRequest_queued (s.stampFor cyc) hq)), rfl, hgone, ht.trans htenants,
      hg.trans hglob, ho.trans hobjs, hp.trans hpending⟩
  · intro s u cyc n rec hr hk hu hring hc hq hl
    exact cancel_tooLate ⟨hr, hu⟩ hring hk hc hq hl
  · intro s u cyc n rec hr hk hu hring hc
    exact (Taken.cancel ⟨hr, hu⟩ hk).trans (congrArg _ ((if_pos hring).trans (if_pos hc)))

end Sys2Proof.Proofs
end
section
/-! The SPDM responder (R335 to R338). -/

namespace Sys2Proof.Proofs

open Sys2Proof Sys2Proof.Machine

/-! Measurements. -/

/-- A target that answers for the block measures block 1, the digest of its firmware (R337). -/
theorem measureReply_firmware {s : State} {ep : Endpoint} (halone : s.alone ep = false) (key nonce : Nat) : (s.given (s.stampFor 0)).measureReply ep 1 false nonce key =
    (s.given (s.stampFor 0)).spdmReply ep none 7 [(s.seg (s.responder ep)).trust.fwDigest] := by
  have hblocks : (s.given (s.stampFor 0)).measurements ep 1 = some [(s.seg (s.responder ep)).trust.fwDigest] := by
    have halone : (s.given (s.stampFor 0)).alone ep = false := halone
    unfold State.measurements State.measuredBlocks
    rw [halone]
    rfl
  unfold State.measureReply
  rw [hblocks]
  rfl

/-- A target that answers alone measures blocks 1 and 3 (R337). -/
theorem measureReply_alone {s : State} {ep : Endpoint} (halone : s.alone ep = true) {block : Nat} (h0 : block ≠ 0) (h1 : block ≠ 1) (h3 : block ≠ 3) (h255 : block ≠ 255)
    (sign : Bool) (key nonce : Nat) :
    (s.given (s.stampFor 0)).measureReply ep block sign nonce key = (s.given (s.stampFor 0)).spdmReply ep none 0 [] := by
  have hblocks : (s.given (s.stampFor 0)).measurements ep block = none := by
    have halone : (s.given (s.stampFor 0)).alone ep = true := halone
    unfold State.measurements State.measuredBlocks
    rw [halone]
    simp only [beq_iff_eq, h0, h255, if_true, if_false, List.contains_cons, List.contains_nil, beq_eq_false_iff_ne.mpr h1,
      beq_eq_false_iff_ne.mpr h3, Bool.or_false, Bool.false_eq_true]
  unfold State.measureReply
  rw [hblocks]

theorem phaseOf_setPhase (s : State) (ep : Endpoint) (n : Nat) : (s.setPhase ep n).phaseOf ep = n := by
  unfold State.phaseOf State.setPhase
  dsimp only
  rw [List.find?_cons, beq_self_eq_true]
  rfl

section Responder
variable {s : State} {ep : Endpoint} (hup : s.spdmUp ep = true)
include hup

/-- A path whose responder is open is one of the block whose turn it is. -/
theorem inBlockOf_spdmUp {f : State → Result} {r : Result} (h : f s = r) : s.inBlockOf (s.farPath ep) f = r := by
  refine (if_neg fun hfar => ?_).trans h
  have hnear := (Bool.and_eq_true_iff.mp hup).1
  rw [hfar] at hnear
  cases hnear

theorem spdm_accepts {ok : Bool} (hok : ok = true) (act : State → State) : s.spdm ep ok act = .next (act s) := by
  subst hok
  exact congrArg Host.Outcome.next (if_pos hup)

theorem spdm_refuses {ok : Bool} (hok : ok = false) (act : State → State) : s.spdm ep ok act = .next (s.spdmReply ep none 0 []) := by
  subst hok
  exact congrArg Host.Outcome.next (if_pos hup)

theorem spdmSigned_accepts {key : Nat} (hphase : s.phaseOf ep = 3) (hkey : s.identityOf ep = some key) {ok : Bool} (hok : ok = true)
    (act : Nat → State → State) : s.spdmSigned ep ok act = .next (act key s) := by
  unfold State.spdmSigned
  rw [hkey]
  exact spdm_accepts hup (by rw [hphase, hok]; rfl) _

theorem spdmSigned_refuses {key : Nat} (hkey : s.identityOf ep = some key) {ok : Bool} (hok : ok = false) (act : Nat → State → State) :
    s.spdmSigned ep ok act = .next (s.spdmReply ep none 0 []) := by
  unfold State.spdmSigned
  rw [hkey]
  exact spdm_refuses hup (by rw [hok, Bool.and_false]) _

theorem inSession_established {id : Nat} {x : SpdmSession} (hx : s.spdmSession ep id = some x) (he : x.established = true)
    (act : SpdmSession → State → State) : s.inSession ep id act = .next (act x s) := by
  unfold State.inSession
  rw [hx]
  exact spdm_accepts hup he _

/-! Negotiation. -/

theorem exec_getVersion : exec (.getVersion ep) s = .next ((s.setPhase ep 1).spdmReply ep none 1 [1, 3]) := by
  show execGetVersion ep s = _
  exact inBlockOf_spdmUp hup (spdm_accepts hup rfl _)

theorem exec_getCapabilities (h : s.phaseOf ep = 1) :
    exec (.getCapabilities ep) s = .next ((s.setPhase ep 2).spdmReply ep none 2 [1, 2, 3, 4, 5, 6, 7, 8, 9]) := by
  show execGetCapabilities ep s = _
  exact inBlockOf_spdmUp hup (spdm_accepts hup (beq_iff_eq.mpr h) _)

theorem getCapabilities_disordered (h : s.phaseOf ep ≠ 1) : exec (.getCapabilities ep) s = .next (s.spdmReply ep none 0 []) := by
  show execGetCapabilities ep s = _
  exact inBlockOf_spdmUp hup (spdm_refuses hup (beq_eq_false_iff_ne.mpr h) _)

theorem exec_negotiateAlgorithms (h : s.phaseOf ep = 2) :
    exec (.negotiateAlgorithms ep true) s = .next ((s.setPhase ep 3).spdmReply ep none 3 [1, 2, 3, 4, 5]) := by
  show execNegotiateAlgorithms ep true s = _
  exact inBlockOf_spdmUp hup (spdm_accepts hup (by rw [h, Bool.and_true]; rfl) _)

theorem negotiateAlgorithms_unoffered : exec (.negotiateAlgorithms ep false) s = .next (s.spdmReply ep none 0 []) := by
  show execNegotiateAlgorithms ep false s = _
  exact inBlockOf_spdmUp hup (spdm_refuses hup (Bool.and_false _) _)

/-! Sessions. -/

theorem exec_finish {id : Nat} {x : SpdmSession} (hx : s.spdmSession ep id = some x) (he : x.established = false) :
    exec (.finish ep id true) s = .next ((s.onSession ep id (fun x => { x with established := true })).spdmReply ep (some id) 9 []) ∧
    exec (.finish ep id false) s = .next ((s.dropSession ep id).spdmReply ep none 0 []) := by
  constructor
  · show execFinish ep id true s = _
    refine inBlockOf_spdmUp hup ?_
    rw [hx]
    dsimp only
    rw [he]
    exact (if_neg Bool.false_ne_true).trans ((if_pos rfl).trans (spdm_accepts hup rfl _))
  · show execFinish ep id false s = _
    refine inBlockOf_spdmUp hup ?_
    rw [hx]
    dsimp only
    rw [he]
    exact (if_neg Bool.false_ne_true).trans ((if_neg Bool.false_ne_true).trans (spdm_accepts hup rfl _))

/-- A new session is under OFFICER only where the chain shown ends in a root that the manager's die was provisioned with (R338). -/
theorem exec_keyExchange {key id : Nat} (root : Option Nat) (hphase : s.phaseOf ep = 3) (hkey : s.identityOf ep = some key)
    (hnew : s.spdmSession ep id = none) :
    ∃ t x, exec (.keyExchange ep id root) s = .next t ∧ t.trust.sessions = s.trust.sessions ++ [x] ∧ x.id = id ∧ x.ep = ep ∧
      x.established = false ∧ (x.officer = true ↔ s.alone ep = false ∧ ∃ r, root = some r ∧ r ∈ (s.seg s.mgr).trust.officerRoots) ∧
      t = { s with trust := { s.trust with sessions := t.trust.sessions, spdmOut := t.trust.spdmOut } } := by
  have hexec : execKeyExchange ep id root s = _ :=
    inBlockOf_spdmUp hup (spdmSigned_accepts hup hphase hkey (Option.isNone_iff_eq_none.mpr hnew) _)
  refine ⟨_, _, hexec, rfl, rfl, rfl, rfl, ?_, rfl⟩
  dsimp only
  cases root with
  | none => simp
  | some r => simp

/-- The session that END_SESSION names is gone, and with one under OFFICER what was staged and opened under it on its path (R338). -/
theorem exec_endSession {id : Nat} {x : SpdmSession} (hx : s.spdmSession ep id = some x) (he : x.established = true) :
    ∃ t, exec (.endSession ep id) s = .next t ∧ t.spdmSession ep id = none ∧
      (x.officer = true → t.stagedBy .officer = [] ∧ ∀ e ∈ (t.ep ep).transfers, e.principal ≠ .officer) ∧
      (x.officer = false → t.objs = s.objs) ∧ t = { s with objs := t.objs, segs := t.segs, trust := t.trust } := by
  have hexec : exec (.endSession ep id) s = .next (if x.officer then ((s.dropSession ep id).spdmReply ep (some id) 12 []).officerEnds ep
      else (s.dropSession ep id).spdmReply ep (some id) 12 []) := by
    show execEndSession ep id s = _
    exact inBlockOf_spdmUp hup (inSession_established hup hx he _)
  have hgone : ((s.dropSession ep id).spdmReply ep (some id) 12 []).spdmSession ep id = none := by
    refine List.find?_eq_none.mpr fun y hy => ?_
    rw [(Bool.not_eq_true' _).mp (List.mem_filter.mp hy).2]
    exact Bool.false_ne_true
  cases ho : x.officer with
  | false =>
    rw [ho] at hexec
    exact ⟨_, hexec, hgone, fun h => absurd h Bool.false_ne_true, fun _ => rfl, rfl⟩
  | true =>
    rw [ho] at hexec
    refine ⟨_, hexec, hgone, fun _ => ⟨?_, ?_⟩, fun h => absurd h.symm Bool.false_ne_true, rfl⟩
    · refine congrArg (List.map _) (List.filter_eq_nil_iff.mpr fun y hy => ?_)
      rw [beq_eq_false_iff_ne.mpr (bne_iff_ne.mp (List.mem_filter.mp hy).2)]
      exact Bool.false_ne_true
    · have hep := ep_onEp ((s.dropSession ep id).spdmReply ep (some id) 12 []) ep ep
        (f := fun x => { x with transfers := x.transfers.filter (fun t => t.principal != .officer) }) (fun _ => rfl)
      rw [if_pos rfl] at hep
      intro y hy
      have hy := (congrArg EndpointS.transfers hep) ▸ hy
      exact bne_iff_ne.mp (List.mem_filter.mp hy).2

theorem exec_inSession {id : Nat} {x : SpdmSession} (hx : s.spdmSession ep id = some x) (he : x.established = true) :
    exec (.spdmHeartbeat ep id) s = .next
      ((s.onSession ep id (fun x => { x with lastHb := s.time.beat })).spdmReply ep (some id) 10 []) ∧
    exec (.keyUpdate ep id) s = .next
      ((s.onSession ep id (fun x => { x with keyGen := x.keyGen + 1 })).spdmReply ep (some id) 11 []) := by
  constructor
  · show execSpdmHeartbeat ep id s = _
    exact inBlockOf_spdmUp hup (inSession_established hup hx he _)
  · show execKeyUpdate ep id s = _
    exact inBlockOf_spdmUp hup (inSession_established hup hx he _)

section Signed
variable {key : Nat} (hkey : s.identityOf ep = some key)
include hkey

theorem exec_otherSlot {slot : Nat} (hslot : slot ≠ 0) (nonce : Nat) : exec (.getCertificate ep slot) s = .next (s.spdmReply ep none 0 []) ∧
    exec (.challenge ep slot nonce) s = .next (s.spdmReply ep none 0 []) := by
  rw [← beq_eq_false_iff_ne] at hslot
  constructor
  · show execGetCertificate ep slot s = _
    exact inBlockOf_spdmUp hup (spdmSigned_refuses hup hkey hslot _)
  · show execChallenge ep slot nonce s = _
    exact inBlockOf_spdmUp hup (spdmSigned_refuses hup hkey hslot _)

variable (hphase : s.phaseOf ep = 3)
include hphase

theorem exec_signed (nonce : Nat) : exec (.getDigests ep) s = .next (s.spdmReply ep none 4 [Config.sha384 (s.chainOf ep)]) ∧
    exec (.getCertificate ep 0) s = .next (s.spdmReply ep none 5 (s.chainOf ep)) ∧
    exec (.challenge ep 0 nonce) s = .next (s.spdmReply ep none 6 [Config.sign key (nonce :: s.chainOf ep)]) := by
  refine ⟨?_, ?_, ?_⟩
  · show execGetDigests ep s = _
    exact inBlockOf_spdmUp hup (spdmSigned_accepts hup hphase hkey rfl _)
  · show execGetCertificate ep 0 s = _
    exact inBlockOf_spdmUp hup (spdmSigned_accepts hup hphase hkey rfl _)
  · show execChallenge ep 0 nonce s = _
    exact inBlockOf_spdmUp hup (spdmSigned_accepts hup hphase hkey rfl _)

theorem exec_getMeasurements (block : Nat) (sign : Bool) (nonce : Nat) :
    exec (.getMeasurements ep block sign nonce) s = .next ((s.given (s.stampFor 0)).measureReply ep block sign nonce key) := by
  show execGetMeasurements ep block sign nonce s = _
  exact inBlockOf_spdmUp hup (spdmSigned_accepts hup hphase hkey rfl _)

end Signed

end Responder

/-- Settles O41. -/
theorem spdm : Obligations.Spdm := by
  refine ⟨?_, ?_, ?_, ?_⟩
  · intro s ep hup
    exact ⟨exec_getVersion hup, exec_getCapabilities hup, getCapabilities_disordered hup, exec_negotiateAlgorithms hup,
      negotiateAlgorithms_unoffered hup, phaseOf_setPhase s ep 3⟩
  · intro s ep key nonce block slot sign hup hphase hkey
    have hmeasure := exec_getMeasurements hup hkey hphase
    obtain ⟨hdigests, hcert, hchallenge⟩ := exec_signed hup hkey hphase nonce
    refine ⟨hdigests, hcert, hchallenge, fun hslot => exec_otherSlot hup hkey hslot nonce, hmeasure block sign nonce, fun halone v hv => ?_,
      fun halone h0 h1 h3 h255 => (hmeasure block sign nonce).trans (congrArg _ (measureReply_alone halone h0 h1 h3 h255 sign key nonce))⟩
    obtain rfl := Option.some.inj hv
    exact ⟨(hmeasure 1 false nonce).trans (congrArg _ (measureReply_firmware halone key nonce)), rfl⟩
  · intro s ep key id root hup hphase hkey hnew
    exact exec_keyExchange hup root hphase hkey hnew
  · intro s ep id x hup hx
    refine ⟨exec_finish hup hx, fun he => ?_⟩
    obtain ⟨hheartbeat, hupdate⟩ := exec_inSession hup hx he
    exact ⟨hheartbeat, hupdate, exec_endSession hup hx he⟩

end Sys2Proof.Proofs
end
section
/-! What rings do of themselves (R299, R302, R303, R405, R417). -/

namespace Sys2Proof.Proofs

open Sys2Proof Sys2Proof.Machine

/-! What a port asked keeps of its requests (R403). -/

/-- A request is among those of a list, whatever its tag and the beats sent of it. -/
def asked (r : DmaReq) (l : List DmaReq) : Prop := ∃ x ∈ l, x.what = r.what ∧ x.data = r.data

theorem asked_sendBeats {r : DmaReq} {l : List DmaReq} (k : Nat) (h : asked r l) : asked r (sendBeats k l).2 := by
  induction l generalizing k with
  | nil => exact h
  | cons a l ih =>
    obtain ⟨x, hx, hr⟩ := h
    unfold sendBeats
    rcases List.mem_cons.mp hx with rfl | hx
    · split
      · exact ⟨_, List.mem_cons_self .., hr⟩
      · exact ⟨_, List.mem_cons_self .., hr⟩
    · have later (j : Nat) : ∃ x ∈ (sendBeats j l).2, x.what = r.what ∧ x.data = r.data := ih j ⟨x, hx, hr⟩
      split
      · obtain ⟨y, hy, hyr⟩ := later (k - min k (a.beats - a.sent))
        exact ⟨y, List.mem_cons_of_mem _ hy, hyr⟩
      · obtain ⟨y, hy, hyr⟩ := later k
        exact ⟨y, List.mem_cons_of_mem _ hy, hyr⟩

theorem asked_issueAll {r : DmaReq} {l : List DmaReq} {p : Port} (h : asked r l ∨ asked r p.issued) :
    asked r (issueAll l p).waiting ∨ asked r (issueAll l p).issued := by
  induction l generalizing p with
  | nil => exact h
  | cons a l ih =>
    unfold issueAll
    split
    · refine ih ?_
      rcases h with ⟨x, hx, hr⟩ | ⟨x, hx, hr⟩
      · rcases List.mem_cons.mp hx with rfl | hx
        · exact .inr ⟨_, List.mem_append_right _ (List.mem_singleton_self _), hr⟩
        · exact .inl ⟨x, hx, hr⟩
      · exact .inr ⟨x, List.mem_append_left _ hx, hr⟩
    · exact h

/-- A request that waits is among the port's when its port has been pumped. -/
theorem asked_pump {r : DmaReq} {p : Port} (h : r ∈ p.waiting) : ∃ x ∈ (Port.pump p).waiting ++ (Port.pump p).issued,
    x.what = r.what ∧ x.data = r.data := by
  rcases asked_issueAll (p := p) (.inl ⟨r, h, rfl, rfl⟩) with ⟨x, hx, hr⟩ | hi
  · exact ⟨x, List.mem_append_left _ hx, hr⟩
  · obtain ⟨x, hx, hr⟩ := asked_sendBeats (issueAll p.waiting p).wdCredit hi
    exact ⟨x, List.mem_append_right _ hx, hr⟩

theorem retry_issueAll (l : List DmaReq) (p : Port) : (issueAll l p).retry = p.retry := by
  induction l generalizing p with
  | nil => rfl
  | cons a l ih =>
    unfold issueAll
    split
    · exact ih _
    · rfl

/-- The segment that carries the requests of another is found by the ports alone. -/
theorem dmaSeg_congr {s t : State} (hlen : t.segs.length = s.segs.length) (hc : ∀ i, (t.seg i).port.connected = (s.seg i).port.connected) (i : Nat) :
    t.dmaSeg i = s.dmaSeg i := by
  unfold State.dmaSeg
  rw [hc, hlen, funext hc]

/-! Index write-backs (R299). -/

section WriteBack
variable {s : State} {n : Nat}

theorem exec_indexWriteback (hup : s.mgrUp = true) (hen : ((s.closeRing n).ring n).enable = true) (hdue : ((s.closeRing n).ring n).wbDue = true)
    (htorn : s.tornPending n = false) (hback : s.backPending n = false) :
    exec (.indexWriteback n) s = .next ((s.closeRing n).writeBack n) := by
  show execIndexWriteback n s = _
  simp only [execIndexWriteback, onlyIf, hup, hen, hdue, htorn, hback]
  rfl

theorem indexWriteback_waits (hback : s.backPending n = true) : exec (.indexWriteback n) s = .next s := by
  show execIndexWriteback n s = _
  simp only [execIndexWriteback, onlyIf, hback, Bool.not_true, Bool.and_false, Bool.false_eq_true, if_false]

/-- A write-back asks one DMA write of the indexes as they stand. -/
theorem writeBack_asks (u : State) (n : Nat) (hs : u.hasSeg (u.dmaSeg u.mgr) = true) :
    (u.writeBack n).ring n = { u.ring n with wbDue := false, raiseDue := false, toCover := [] } ∧
    (∃ r ∈ ((u.writeBack n).seg (u.dmaSeg u.mgr)).port.waiting ++ ((u.writeBack n).seg (u.dmaSeg u.mgr)).port.issued,
      r.what = .writeBack n (u.ring n).raiseDue (u.ring n).toCover ∧ r.data = (u.ring n).head * 2 ^ 32 + (u.ring n).tail) ∧
    (∀ m, m ≠ n → (u.writeBack n).ring m = u.ring m) ∧ othersKept (u.dmaSeg u.mgr) u (u.writeBack n) := by
  refine ⟨u.ring_setRing_eq n _, ?_, fun m hm => u.ring_setRing_ne _ hm, fun j hj => State.seg_onSeg_ne _ _ hj⟩
  have hseg : (u.writeBack n).seg (u.dmaSeg u.mgr) = _ := State.seg_onSeg_eq _ _ hs
  rw [hseg]
  exact asked_pump (p := { (u.seg (u.dmaSeg u.mgr)).port with waiting := _ }) (List.mem_append_right _ (List.mem_singleton_self _))

theorem dmaSeg_closeRing (s : State) (n : Nat) : (s.closeRing n).dmaSeg (s.closeRing n).mgr = s.dmaSeg s.mgr ∧
    (s.closeRing n).segs.length = s.segs.length := by
  obtain ⟨-, hlen, hseg⟩ := queuesOnly_closeRing s n
  rw [(oneRing_closeRing n s).1.roles]
  exact ⟨dmaSeg_congr hlen (fun i => (congrArg (fun g : Segment => g.port.connected) (hseg i) :)) _, hlen⟩

end WriteBack

/-! Vectors (R417). -/

/-- The vector sent next comes first in ascending number after the last one sent. -/
theorem nextVector_first {v : Vectors} (h : v.pending ≠ []) : ∃ k, nextVector v = some k ∧ k ∈ v.pending ∧
    (v.pending.Pairwise (· < ·) → ∀ j ∈ v.pending, (v.lastSent < j → v.lastSent < k ∧ k ≤ j) ∧ (k ≤ v.lastSent → k ≤ j)) := by
  unfold nextVector
  cases hf : v.pending.find? (fun k => v.lastSent < k) with
  | some k =>
    have hk : v.lastSent < k := by simpa using List.find?_some hf
    refine ⟨k, rfl, List.mem_of_find?_eq_some hf, fun hp j hj => ⟨fun hlt => ⟨hk, ?_⟩, fun hle => absurd hle (Nat.not_le.mpr hk)⟩⟩
    obtain ⟨-, as, bs, heq, has⟩ := List.find?_eq_some_iff_append.mp hf
    rw [heq] at hp hj
    rcases List.mem_append.mp hj with hj | hj
    · have hno := has j hj
      rw [decide_eq_true hlt] at hno
      cases hno
    · rcases List.mem_cons.mp hj with rfl | hj
      · exact Nat.le_refl _
      · exact Nat.le_of_lt ((List.pairwise_cons.mp (List.pairwise_append.mp hp).2.1).1 j hj)
  | none =>
    obtain ⟨k, l, hl⟩ := List.exists_cons_of_ne_nil h
    rw [hl] at hf ⊢
    refine ⟨k, rfl, List.mem_cons_self .., fun hp j hj => ⟨fun hlt => ?_, fun _ => ?_⟩⟩
    · exact absurd (decide_eq_true hlt) (List.find?_eq_none.mp hf j hj)
    · rcases List.mem_cons.mp hj with rfl | hj
      · exact Nat.le_refl _
      · exact Nat.le_of_lt ((List.pairwise_cons.mp hp).1 j hj)

/-! Backlogs (R302). -/

/-- The entries that a ring still has room for. -/
noncomputable def roomOf (r : Ring) : Nat := r.entries - (r.depth + r.writing.length)

/-- Backlogged records have been written to a ring while it had room: nothing else of a block changes but the sequences and the port that
they pass. -/
structure backlogWritten (n : Nat) (l : List BackRec) (s t : State) : Prop where
  eq : t = { s with rings := t.rings, segs := t.segs, seqs := t.seqs }
  others : ∀ m, m ≠ n → t.ring m = s.ring m
  ring : ∃ w, t.ring n = { s.ring n with backlog := l.drop (roomOf (s.ring n)), writing := w } ∧
    w.length = (s.ring n).writing.length + min (roomOf (s.ring n)) l.length

theorem makeRecord_eq (s : State) (b : BackRec) : (s.makeRecord b).2 = { s with seqs := (s.makeRecord b).2.seqs } := by
  unfold State.makeRecord
  split
  · split
    · unfold State.onLive
      split
      · rfl
      · rfl
    · rfl
  · split
    · unfold State.onLive
      split
      · rfl
      · rfl
    · rfl
  · rfl

/-- A record written takes the next entry of its ring (R298, R302). -/
theorem writeEntry_ring (s : State) (n : Nat) (b : BackRec) :
    s.writeEntry n b = { s with rings := (s.writeEntry n b).rings, segs := (s.writeEntry n b).segs, seqs := (s.writeEntry n b).seqs } ∧
    (∀ m, m ≠ n → (s.writeEntry n b).ring m = s.ring m) ∧
    ∃ x, (s.writeEntry n b).ring n = { s.ring n with writing := (s.ring n).writing ++ [x] } := by
  have hmake := makeRecord_eq s b
  have hring (m : Nat) : (s.makeRecord b).2.ring m = s.ring m := (congrArg (State.ring · m) hmake :)
  refine ⟨?_, fun m hm => (State.ring_setRing_ne _ _ hm).trans (hring m), _, (State.ring_setRing_eq _ n _).trans (by rw [hring])⟩
  unfold State.writeEntry
  dsimp only
  rw [hmake]
  rfl

theorem room_takes_one {e d w : Nat} (h : d + w < e) : e - (d + w) = e - (d + (w + 1)) + 1 :=
  (Nat.sub_add_cancel (Nat.sub_pos_of_lt h)).symm

theorem writeBacklog_written (n : Nat) (l : List BackRec) (s : State) : backlogWritten n l s (State.writeBacklog n l s) := by
  induction l generalizing s with
  | nil =>
    exact ⟨rfl, fun m hm => s.ring_setRing_ne _ hm, (s.ring n).writing, (ring_onRing s n _).trans (by rw [List.drop_nil]), by simp⟩
  | cons b l ih =>
    unfold State.writeBacklog
    split
    · next hroom =>
      obtain ⟨heq, hothers, x, hx⟩ := writeEntry_ring s n b
      obtain ⟨heq', hothers', w, hw, hlen⟩ := ih (s.writeEntry n b)
      have hone : roomOf (s.ring n) = roomOf ((s.writeEntry n b).ring n) + 1 := by
        have hroom : (s.ring n).depth + (s.ring n).writing.length < (s.ring n).entries := of_decide_eq_true hroom
        have hroom' : roomOf ((s.writeEntry n b).ring n) =
            (s.ring n).entries - ((s.ring n).depth + ((s.ring n).writing ++ [x]).length) := by
          rw [hx]
          rfl
        rw [hroom', List.length_append, List.length_singleton]
        exact room_takes_one hroom
      refine ⟨by rw [heq', heq], fun m hm => (hothers' m hm).trans (hothers m hm), w, ?_, ?_⟩
      · rw [hw, hone, List.drop_succ_cons, hx]
      · rw [hlen, hone, hx, List.length_append, List.length_singleton, List.length_cons, Nat.add_min_add_right, Nat.add_assoc,
          Nat.add_comm 1]
    · next hroom =>
      have hfull : roomOf (s.ring n) = 0 := Nat.sub_eq_zero_of_le (Nat.le_of_not_lt fun h => hroom (decide_eq_true h))
      exact ⟨rfl, fun m hm => s.ring_setRing_ne _ hm, (s.ring n).writing, (ring_onRing s n _).trans (by rw [hfull]; rfl),
        by rw [hfull, Nat.zero_min]; rfl⟩

/-- A ring whose backlog has been written lets its sequences be bound again (R303). -/
theorem ringResumes_ring (s : State) (n : Nat) :
    s.ringResumes n = { s with rings := (s.ringResumes n).rings, seqs := (s.ringResumes n).seqs } ∧
    (∀ m, m ≠ n → (s.ringResumes n).ring m = s.ring m) ∧ ∃ b, (s.ringResumes n).ring n = { s.ring n with pausing := b } := by
  unfold State.ringResumes
  dsimp only
  split
  · exact ⟨rfl, fun _ _ => rfl, (s.ring n).pausing, rfl⟩
  · exact ⟨rfl, fun m hm => State.ring_setRing_ne _ _ hm, false, ring_onRing _ _ _⟩

theorem exec_ringBacklogWrite {s : State} {n : Nat} (hup : s.mgrUp = true) (hen : (s.ring n).enable = true) (hb : (s.ring n).backlog ≠ [])
    (hroom : (s.ring n).hasRoom = true) :
    ∃ t, exec (.ringBacklogWrite n) s = .next t ∧ (t.ring n).backlog = (s.ring n).backlog.drop (roomOf (s.ring n)) ∧
      (t.ring n).writing.length = (s.ring n).writing.length + min (roomOf (s.ring n)) (s.ring n).backlog.length ∧
      (t.ring n).head = (s.ring n).head ∧ (t.ring n).tail = (s.ring n).tail ∧ (∀ m, m ≠ n → t.ring m = s.ring m) ∧
      t = { s with rings := t.rings, segs := t.segs, seqs := t.seqs } := by
  have hexec : exec (.ringBacklogWrite n) s = .next ((State.writeBacklog n (s.ring n).backlog s).ringResumes n) := by
    show execRingBacklogWrite n s = _
    simp only [execRingBacklogWrite, onlyIf, hup, hen, hroom, Bool.eq_false_iff.mpr (mt List.isEmpty_iff.mp hb)]
    rfl
  obtain ⟨heq, hothers, w, hw, hlen⟩ := writeBacklog_written n (s.ring n).backlog s
  obtain ⟨heq', hothers', b, hb⟩ := ringResumes_ring (State.writeBacklog n (s.ring n).backlog s) n
  refine ⟨_, hexec, ?_, ?_, ?_, ?_, fun m hm => (hothers' m hm).trans (hothers m hm), by rw [heq', heq]⟩
  · rw [hb, hw]
  · rw [hb, hw]
    exact hlen
  · rw [hb, hw]
  · rw [hb, hw]

/-! Pauses (R303) and failed writes (R405). -/

theorem exec_ringPause {s : State} {k : Nat} {q : Sequence} {b : TokBack} {rest : List TokBack} (hup : s.mgrUp = true) (hq : s.live k = some q)
    (hb : q.backTokens = b :: rest) (hdue : b.due.beat + (s.ring q.req.strRing).pauseBt ≤ s.time.beat) (hp : q.pausedRing = false) :
    exec (.ringPause k) s = .next (((s.onLive k (fun q => { q with pausedRing := true })).onRing q.req.strRing
      (fun r => { r with pausing := true })).count (fun c => { c with ringPauses := c.ringPauses + 1 })) := by
  have hdue : s.ringPauseDue q = true := by
    unfold State.ringPauseDue
    rw [hb]
    exact decide_eq_true hdue
  show execRingPause k s = _
  unfold execRingPause
  rw [hq]
  simp only [onlyIf, hup, hdue, hp]
  rfl

/-- A port in which a failed write is asked again. -/
noncomputable def portAsksAgain (e : Nat × DmaReq) (p : Port) : Port :=
  Port.pump { p with retry := p.retry.filter (· != e), waiting := p.waiting ++ [{ e.2 with sent := 0 }] }

theorem retry_portAsksAgain (e : Nat × DmaReq) (p : Port) : (portAsksAgain e p).retry = p.retry.filter (· != e) := retry_issueAll _ _

/-- A block in which a failed write is asked again of its channel. -/
noncomputable def asksAgain (s : State) (i : Nat) (e : Nat × DmaReq) : State := s.onSeg i (fun g => { g with port := portAsksAgain e g.port })

section Retry
variable {s : State} {i tag b : Nat} {r : DmaReq} (hf : failedWrite s.time.beat tag (s.seg i).port = some (b, r))
include hf

theorem hasSeg_of_failedWrite : s.hasSeg i = true := by
  by_contra hn
  have hlen : s.segs.length ≤ i := by simpa [State.hasSeg] using hn
  rw [State.seg, List.getD_eq_default _ _ hlen] at hf
  cases hf

theorem asksAgain_seg : ((asksAgain s i (b, r)).seg i).port.retry = (s.seg i).port.retry.filter (· != (b, r)) ∧
    ∃ x ∈ ((asksAgain s i (b, r)).seg i).port.waiting ++ ((asksAgain s i (b, r)).seg i).port.issued, x.what = r.what ∧ x.data = r.data := by
  have hseg : (asksAgain s i (b, r)).seg i = _ := s.seg_onSeg_eq _ (hasSeg_of_failedWrite hf)
  rw [hseg]
  exact ⟨retry_portAsksAgain _ _, asked_pump (r := { r with sent := 0 }) (p := { (s.seg i).port with retry := _, waiting := _ })
    (List.mem_append_right _ (List.mem_singleton_self _))⟩

theorem ringWriteRetry_record {n idx : Nat} (hwhat : r.what = .ringRecord n idx) (hawake : s.mgrAwake = true) :
    exec (.ringWriteRetry i tag) s = .next ((asksAgain s i (b, r)).onRing n (ringRewrites idx)) := by
  show execRingWriteRetry i tag s = _
  unfold execRingWriteRetry
  rw [hf]
  refine (if_neg (by rw [hawake, Bool.not_true, Bool.and_false]; exact Bool.false_ne_true)).trans ?_
  show (match r.what with | .ringRecord n idx => Host.Outcome.next ((asksAgain s i (b, r)).onRing n (ringRewrites idx)) | _ => .next (asksAgain s i (b, r))) = _
  rw [hwhat]

theorem ringWriteRetry_other (hwhat : ∀ n idx, r.what ≠ .ringRecord n idx) (hawake : r.what.ofRing = true → s.mgrAwake = true) :
    exec (.ringWriteRetry i tag) s = .next (asksAgain s i (b, r)) := by
  have hgo : (r.what.ofRing && !s.mgrAwake) = false := by
    cases hr : r.what.ofRing with
    | false => rfl
    | true => rw [hawake hr]; rfl
  show execRingWriteRetry i tag s = _
  unfold execRingWriteRetry
  rw [hf]
  refine (if_neg (Bool.eq_false_iff.mp hgo)).trans ?_
  dsimp only
  split
  · next hw => exact absurd hw (hwhat _ _)
  · rfl

theorem ringWriteRetry_fenced (hof : r.what.ofRing = true) (hawake : s.mgrAwake = false) : exec (.ringWriteRetry i tag) s = .next s := by
  show execRingWriteRetry i tag s = _
  unfold execRingWriteRetry
  rw [hf]
  simp only [hof, hawake]
  rfl

end Retry

/-- Settles O25. -/
theorem ringServices : Obligations.RingServices := by
  refine ⟨?_, fun s n hback => indexWriteback_waits hback, ?_, ?_, ?_, ?_, ?_, ?_⟩
  · intro s u n hu hup hen hdue htorn hback hs
    subst hu
    obtain ⟨hone, w, d, hring⟩ := oneRing_closeRing n s
    obtain ⟨hdma, hlen⟩ := dmaSeg_closeRing s n
    have hs : (s.closeRing n).hasSeg ((s.closeRing n).dmaSeg (s.closeRing n).mgr) = true := by
      rw [hdma, State.hasSeg, hlen]
      exact hs
    have hasks := writeBack_asks (s.closeRing n) n hs
    have hdata : ((s.closeRing n).ring n).head * 2 ^ 32 + ((s.closeRing n).ring n).tail = (s.ring n).head * 2 ^ 32 + (s.ring n).tail := by
      rw [hring]
      rfl
    rw [hdma, hdata] at hasks
    obtain ⟨hcleared, hask, hothers, hkept⟩ := hasks
    exact ⟨_, exec_indexWriteback hup hen hdue htorn hback, hcleared, hask, fun m hm => (hothers m hm).trans (hone.rings m hm), hkept, rfl⟩
  · intro s n b hup hheld hlast hover
    have hexec : exec (.modIntervalEnd n) s =
        .next ((s.setRing n { s.ring n with heldRaise := false, lastPulse := some s.time.beat }).pulse (s.ring n).vector) := by
      refine congrArg Host.Outcome.next (if_pos ?_)
      rw [hup, hheld, hlast]
      exact decide_eq_true hover
    refine ⟨_, hexec, s.ring_setRing_eq n _, rfl, fun m hm => s.ring_setRing_ne _ hm, ?_⟩
    rfl
  · intro s hup hne
    obtain ⟨k, hnext, hmem, hfirst⟩ := nextVector_first hne
    have hexec : exec .eventVectorTransfer s = .next { s with vectors := { s.vectors with
        pending := s.vectors.pending.filter (· != k), lastSent := k, sent := s.vectors.sent + 1 } } := by
      show execEventVectorTransfer s = _
      unfold execEventVectorTransfer
      rw [hnext]
      exact congrArg Host.Outcome.next (if_pos hup)
    exact ⟨_, k, hexec, hmem, rfl, hfirst, rfl⟩
  · intro s n k hup hen hb hroom hk
    subst hk
    exact exec_ringBacklogWrite hup hen hb hroom
  · intro s k q b rest hup hq hb hdue hp
    have hexec := exec_ringPause hup hq hb hdue hp
    rw [onLive_of_live hq] at hexec
    refine ⟨_, hexec, aGet_aSet_eq _ _ _, fun j hj => aGet_aSet_ne _ _ hj, State.ring_setRing_eq _ _ _, fun m hm => State.ring_setRing_ne _ _ hm, ?_, ?_⟩
    · rfl
    · rfl
  · intro s i tag b r hf hawake
    obtain ⟨hretry, hask⟩ := asksAgain_seg hf
    have hkept : othersKept i s (asksAgain s i (b, r)) := fun j hj => s.seg_onSeg_ne _ hj
    by_cases hrec : ∃ n idx, r.what = .ringRecord n idx
    · obtain ⟨n, idx, hwhat⟩ := hrec
      refine ⟨_, ringWriteRetry_record hf hwhat (hawake (by rw [hwhat]; rfl)), hretry, hask, fun m j hm => ?_, fun h => absurd hwhat (h n idx),
        hkept, rfl⟩
      obtain ⟨rfl, rfl⟩ := DmaUse.ringRecord.inj (hwhat.symm.trans hm)
      refine ⟨?_, fun m hm => State.ring_setRing_ne _ _ hm⟩
      rw [ring_onRing]
      simp only [ringRewrites, beq_iff_eq]
      rfl
    · have hwhat : ∀ n idx, r.what ≠ .ringRecord n idx := fun n idx h => hrec ⟨n, idx, h⟩
      exact ⟨_, ringWriteRetry_other hf hwhat hawake, hretry, hask, fun n idx h => absurd h (hwhat n idx), fun _ => rfl, hkept, rfl⟩
  · intro s i tag b r hf hof hawake
    exact ringWriteRetry_fenced hf hof hawake

end Sys2Proof.Proofs
end
section
/-! Snare lanes and streams (R267, R274, R275, R281). -/

namespace Sys2Proof.Proofs

open Sys2Proof Sys2Proof.Machine

/-! The lane that a stream takes. -/

theorem firstFrom_some {ok : Nat → Bool} {fuel n k : Nat} (hn : n ≤ k) (hk : k < n + fuel) (hok : ok k = true)
    (hbelow : ∀ m, n ≤ m → m < k → ok m = false) : firstFrom ok fuel n = some k := by
  induction fuel generalizing n with
  | zero => omega
  | succ fuel ih =>
    unfold firstFrom
    rcases Nat.eq_or_lt_of_le hn with rfl | hlt
    · rw [if_pos hok]
    · rw [if_neg (Bool.eq_false_iff.mp (hbelow n (Nat.le_refl n) hlt))]
      exact ih hlt (by omega) (fun m hm => hbelow m (by omega))

theorem firstFrom_none {ok : Nat → Bool} {fuel n : Nat} (h : ∀ m, n ≤ m → m < n + fuel → ok m = false) : firstFrom ok fuel n = none := by
  induction fuel generalizing n with
  | zero => rfl
  | succ fuel ih =>
    unfold firstFrom
    rw [if_neg (Bool.eq_false_iff.mp (h n (Nat.le_refl n) (by omega)))]
    exact ih (fun m hm hm' => h m (by omega) (by omega))

/-- A lane that a stream may not take: the one that has failed under it, or one that steps another. -/
def laneBarred (n : Snare) (j : SnareJob) (k : Nat) : Prop := j.avoid = some k ∨ ∃ l ∈ n.lanes, l.1 = k

theorem laneOk_of_barred {n : Snare} {j : SnareJob} {k : Nat} (h : laneBarred n j k) :
    (j.avoid != some k && !n.lanes.any (fun l => l.1 == k)) = false := by
  rcases h with h | ⟨l, hl, hk⟩
  · rw [h, bne_self_eq_false, Bool.false_and]
  · have hany : n.lanes.any (fun l => l.1 == k) = true := List.any_eq_true.mpr ⟨l, hl, beq_iff_eq.mpr hk⟩
    rw [hany, Bool.not_true, Bool.and_false]

/-- A stream takes the lowest lane that it may take (R267). -/
theorem freeLane_some {n : Snare} {j : SnareJob} {k : Nat} (hk : k < 64) (havoid : j.avoid ≠ some k) (hfree : ∀ l ∈ n.lanes, l.1 ≠ k)
    (hbelow : ∀ m < k, laneBarred n j m) : freeLane n j = some k := by
  refine firstFrom_some (Nat.zero_le k) (by omega) ?_ (fun m _ hm => laneOk_of_barred (hbelow m hm))
  have hany : n.lanes.any (fun l => l.1 == k) = false :=
    List.any_eq_false.mpr fun l hl h => hfree l hl (beq_iff_eq.mp h)
  rw [bne_iff_ne.mpr havoid, hany]
  rfl

theorem freeLane_none {n : Snare} {j : SnareJob} (h : ∀ m < 64, laneBarred n j m) : freeLane n j = none :=
  firstFrom_none fun m _ hm => laneOk_of_barred (h m (by omega))

theorem takeJob_head {n : Snare} {j : SnareJob} {rest : List SnareJob} {k : Nat} (hq : n.queue = j :: rest) (hk : freeLane n j = some k) :
    takeJob n = { n with queue := rest, lanes := aSet k j n.lanes } := by
  have hfind : n.queue.find? (fun j => (freeLane n j).isSome) = some j := by
    rw [hq, List.find?_cons, hk]
    rfl
  unfold takeJob
  rw [hfind]
  dsimp only
  rw [hk]
  dsimp only
  rw [hq, List.erase_cons_head]

/-- A lane of the engine of a stream whose lane is freed is barred to it still. -/
theorem laneBarred_aErase {n : Snare} {j : SnareJob} {lane m : Nat} (h : m = lane ∨ ∃ l ∈ n.lanes, l.1 = m) :
    laneBarred { n with lanes := aErase lane n.lanes } { j with avoid := some lane } m := by
  by_cases hm : m = lane
  · exact .inl (congrArg some hm.symm)
  · obtain ⟨l, hl, rfl⟩ := h.resolve_left hm
    exact .inr ⟨l, List.mem_filter.mpr ⟨hl, bne_iff_ne.mpr hm⟩, rfl⟩

/-- The stream of a failed lane moves to the lowest other free one (R281). -/
theorem moveJob_free {n : Snare} {j : SnareJob} {lane k : Nat} (hk : k < 64) (hne : k ≠ lane) (hfree : ∀ l ∈ n.lanes, l.1 ≠ k)
    (hbelow : ∀ m < k, m = lane ∨ ∃ l ∈ n.lanes, l.1 = m) :
    moveJob lane j n = { n with lanes := aSet k { j with avoid := some lane } (aErase lane n.lanes) } := by
  have hlane : freeLane { n with lanes := aErase lane n.lanes } { j with avoid := some lane } = some k :=
    freeLane_some hk (fun h => hne (Option.some.inj h).symm) (fun l hl => hfree l (List.mem_filter.mp hl).1)
      (fun m hm => laneBarred_aErase (hbelow m hm))
  unfold moveJob
  dsimp only
  rw [hlane]

/-- With no other lane free it waits at the head of its kind (R281). -/
theorem moveJob_full {n : Snare} {j : SnareJob} {lane : Nat} (h : ∀ m < 64, m = lane ∨ ∃ l ∈ n.lanes, l.1 = m) :
    (moveJob lane j n).lanes = aErase lane n.lanes ∧
    (j.out = true → (moveJob lane j n).queue = { j with avoid := some lane } :: n.queue) ∧
    (j.out = false → (moveJob lane j n).queue = n.queue.filter (·.out) ++ [{ j with avoid := some lane }] ++ n.queue.filter (fun x => !x.out)) := by
  have hlane : freeLane { n with lanes := aErase lane n.lanes } { j with avoid := some lane } = none :=
    freeLane_none fun m hm => laneBarred_aErase (h m hm)
  unfold moveJob
  dsimp only
  rw [hlane]
  cases j.out with
  | true => exact ⟨rfl, fun _ => rfl, fun h => absurd h.symm Bool.false_ne_true⟩
  | false => exact ⟨rfl, fun h => absurd h Bool.false_ne_true, fun _ => rfl⟩

theorem queueJob_queued {j x : SnareJob} {n : Snare} (hx : x ∈ n.queue ∨ ∃ lane, (lane, x) ∈ n.lanes) (hseq : x.seq = j.seq)
    (hslot : x.slot = j.slot) (hout : x.out = j.out) : queueJob j n = n := by
  have hsame : sameStream j x = true := by
    rw [sameStream, hseq, hslot, hout, beq_self_eq_true, beq_self_eq_true, beq_self_eq_true]
    rfl
  refine if_pos (Bool.or_eq_true_iff.mpr (hx.imp (fun h => ?_) (fun ⟨lane, h⟩ => ?_)))
  · exact List.any_eq_true.mpr ⟨x, h, hsame⟩
  · exact List.any_eq_true.mpr ⟨(lane, x), h, hsame⟩

theorem hasSeg_of_lane {s : State} {i lane : Nat} {j : SnareJob} (h : aGet lane (s.seg i).snare.lanes = some j) : s.hasSeg i = true := by
  by_contra hn
  have hlen : s.segs.length ≤ i := by simpa [State.hasSeg] using hn
  rw [State.seg, List.getD_eq_default _ _ hlen] at h
  cases h

/-! A stream restarted. -/

/-- The autos of a stream as it starts again (R281). -/
noncomputable def autoRestarted (start : Nat) (j : SnareJob) (a : Auto) : Auto :=
  if a.slot == j.slot && a.out == j.out then { a with state := start, next := 0, reported := 0, found := [] } else a

/-- A stream restarted stands at its first unit, with nothing found; of the block only its sequence changes. -/
theorem restartStream_leaves (s : State) (j : SnareJob) :
    s.restartStream j = { s with seqs := (s.restartStream j).seqs } ∧
    ∀ q', (s.restartStream j).live j.seq = some q' → ∀ b ∈ q'.autos, b.slot = j.slot → b.out = j.out → b.next = 0 ∧ b.found = [] := by
  unfold State.restartStream
  cases hq : s.live j.seq with
  | none =>
    refine ⟨by simp only [State.onLive, hq], fun q' h => ?_⟩
    simp only [State.onLive, hq] at h
    cases h
  | some q =>
    rw [onLive_of_live hq]
    refine ⟨rfl, fun q' h => ?_⟩
    obtain rfl := Option.some.inj ((aGet_aSet_eq _ _ _).symm.trans h)
    intro b hb hs ho
    obtain ⟨a, -, rfl⟩ := List.mem_map.mp hb
    by_cases ha : (a.slot == j.slot && a.out == j.out) = true
    · rw [if_pos ha]
      exact ⟨rfl, rfl⟩
    · rw [if_neg ha] at hs ho
      rw [hs, ho, beq_self_eq_true, beq_self_eq_true] at ha
      exact absurd rfl ha

/-- A lane's error moves its stream and is counted (R281, R354). -/
noncomputable def laneFailed (lane : Nat) (j : SnareJob) (g : Segment) : Segment :=
  { g with snare := moveJob lane j g.snare, health := { g.health with uncorrected := g.health.uncorrected + 1 },
           cnt := { g.cnt with snareRestarts := g.cnt.snareRestarts + 1 } }

theorem exec_snareLaneError {s : State} {i lane : Nat} {j : SnareJob} (h : aGet lane (s.seg i).snare.lanes = some j) :
    exec (.snareLaneError i lane) s = .next ((s.restartStream j).onSeg i (laneFailed lane j)) := by
  show execSnareLaneError i lane s = _
  unfold execSnareLaneError
  rw [h]
  exact congrArg Host.Outcome.next (State.onSeg_onSeg _ i _ _)

theorem snareLaneError_seg {s : State} {i lane : Nat} {j : SnareJob} (h : aGet lane (s.seg i).snare.lanes = some j) :
    ((s.restartStream j).onSeg i (laneFailed lane j)).seg i = laneFailed lane j (s.seg i) ∧
    othersKept i s ((s.restartStream j).onSeg i (laneFailed lane j)) ∧
    (s.restartStream j).onSeg i (laneFailed lane j) =
      { s with segs := ((s.restartStream j).onSeg i (laneFailed lane j)).segs, seqs := (s.restartStream j).seqs } := by
  rw [(restartStream_leaves s j).1]
  exact ⟨State.seg_onSeg_eq _ _ (hasSeg_of_lane h), fun m hm => State.seg_onSeg_ne _ _ hm, rfl⟩

/-! A stream at its end. -/

/-- A stream stepped stands at the end of what its sequence has; of that sequence nothing held and no end changes (R267). -/
theorem stepStream_eq {s : State} (i : Nat) {j : SnareJob} {q : Sequence} {r : RuleSet} {a : Auto} (hq : s.live j.seq = some q)
    (hr : s.ruleSet j.slot = some r) (ha : q.autos.find? (fun a => a.slot == j.slot && a.out == j.out) = some a) :
    ∃ q' f, s.stepStream i j = { s with seqs := aSet j.seq q' s.seqs }.segCount i f ∧
      (∀ b ∈ q'.autos, b.slot = j.slot → b.out = j.out →
        b.next = (if j.out then s.outputUnits q r.plain else s.inputUnits q.req r.plain).length) ∧ q'.hold = q.hold ∧ q'.ended = q.ended := by
  simp only [State.stepStream, hq, hr, ha]
  rw [onLive_of_live hq]
  refine ⟨_, _, rfl, fun b hb hs ho => ?_, rfl, rfl⟩
  obtain ⟨x, -, rfl⟩ := List.mem_map.mp hb
  by_cases hx : (x.slot == j.slot && x.out == j.out) = true
  · rw [if_pos hx]
  · rw [if_neg hx] at hs ho
    rw [hs, ho, beq_self_eq_true, beq_self_eq_true] at hx
    exact absurd rfl hx

theorem exec_snareStreamEnd {s : State} {i lane : Nat} {j : SnareJob} (hlane : aGet lane (s.seg i).snare.lanes = some j) {q' : Sequence}
    {f : SegCount → SegCount} (hstep : s.stepStream i j = { s with seqs := aSet j.seq q' s.seqs }.segCount i f) :
    exec (.snareStreamEnd i lane) s = .next ({ s with seqs := aSet j.seq q' s.seqs }.onSeg i (fun g =>
      { g with cnt := f g.cnt, snare := { g.snare with lanes := aErase lane g.snare.lanes } })) := by
  show execSnareStreamEnd i lane s = _
  unfold execSnareStreamEnd
  rw [hlane]
  dsimp only
  rw [hstep]
  exact congrArg Host.Outcome.next (State.onSeg_onSeg _ i _ _)

/-! Matches reported. -/

theorem idx_applyFound (last span : Nat) (f : Found) (hold : List Held) :
    (applyFound last span f hold).map (·.idx) = hold.map (·.idx) ∧ (applyFound last span f hold).map (·.token) = hold.map (·.token) := by
  unfold applyFound
  rw [List.map_map, List.map_map]
  constructor
  · refine List.map_congr_left fun h _ => ?_
    show Held.idx (if _ then _ else _) = _
    split
    · rfl
    · rfl
  · refine List.map_congr_left fun h _ => ?_
    show Held.token (if _ then _ else _) = _
    split
    · rfl
    · rfl

/-- A list of matches applied to held tokens (R275). -/
noncomputable def applyAll (ms : List (Nat × Nat × Found)) (hold : List Held) : List Held := ms.foldl (fun h m => applyFound m.1 m.2.1 m.2.2 h) hold

theorem idx_applyAll (ms : List (Nat × Nat × Found)) (hold : List Held) :
    (applyAll ms hold).map (·.idx) = hold.map (·.idx) ∧ (applyAll ms hold).map (·.token) = hold.map (·.token) := by
  induction ms generalizing hold with
  | nil => exact ⟨rfl, rfl⟩
  | cons m ms ih =>
    obtain ⟨hi, ht⟩ := ih (applyFound m.1 m.2.1 m.2.2 hold)
    obtain ⟨hi', ht'⟩ := idx_applyFound m.1 m.2.1 m.2.2 hold
    exact ⟨hi.trans hi', ht.trans ht'⟩

/-- What has been found at a held token stays with it. -/
theorem applyFound_keeps {h : Held} {hold : List Held} (last span : Nat) (f : Found) (hh : h ∈ hold) :
    ∃ h' ∈ applyFound last span f hold, h'.idx = h.idx ∧ (∀ x ∈ h.found, x ∈ h'.found) ∧
      (h.idx ≤ last → last < h.idx + span → f ∈ h'.found) := by
  by_cases hc : h.idx ≤ last ∧ last < h.idx + span
  · refine ⟨{ h with found := h.found ++ [f] }, List.mem_map.mpr ⟨h, hh, ?_⟩, rfl, fun x hx => List.mem_append_left _ hx,
      fun _ _ => List.mem_append_right _ (List.mem_singleton_self f)⟩
    rw [if_pos (by simpa using hc)]
  · refine ⟨h, List.mem_map.mpr ⟨h, hh, ?_⟩, rfl, fun x hx => hx, fun h1 h2 => absurd ⟨h1, h2⟩ hc⟩
    rw [if_neg (by simpa using hc)]

/-- Each match is noted at the held tokens that its span covers (R275). -/
theorem applyAll_notes {ms : List (Nat × Nat × Found)} {h : Held} {hold : List Held} (hh : h ∈ hold) :
    ∃ h' ∈ applyAll ms hold, h'.idx = h.idx ∧ (∀ x ∈ h.found, x ∈ h'.found) ∧
      ∀ m ∈ ms, h.idx ≤ m.1 → m.1 < h.idx + m.2.1 → m.2.2 ∈ h'.found := by
  induction ms generalizing h hold with
  | nil => exact ⟨h, hh, rfl, fun x hx => hx, fun m hm => absurd hm List.not_mem_nil⟩
  | cons m ms ih =>
    obtain ⟨h₁, hh₁, hi₁, hkeep₁, hnote₁⟩ := applyFound_keeps m.1 m.2.1 m.2.2 hh
    obtain ⟨h₂, hh₂, hi₂, hkeep₂, hnote₂⟩ := ih hh₁
    refine ⟨h₂, hh₂, hi₂.trans hi₁, fun x hx => hkeep₂ x (hkeep₁ x hx), fun n hn => ?_⟩
    rcases List.mem_cons.mp hn with rfl | hn
    · exact fun h1 h2 => hkeep₂ _ (hnote₁ h1 h2)
    · rw [← hi₁]
      exact hnote₂ n hn

/-- The matches of a sequence's output streams. -/
noncomputable def outputMatches (q : Sequence) : List (Nat × Nat × Found) := (q.autos.filter (·.out)).flatMap (·.found)

/-- An output stream reported as far as it has been stepped (R275). -/
noncomputable def autoReported (a : Auto) : Auto := if a.out then { a with found := [], reported := a.next } else a

/-- A sequence whose matches have been reported. -/
noncomputable def matchesReported (q : Sequence) : Sequence :=
  { q with hold := applyAll (outputMatches q) q.hold, autos := q.autos.map autoReported }

theorem reportMatches_eq {s : State} {k : Nat} {q : Sequence} (hq : s.live k = some q) :
    ∃ f, s.reportMatches k = { s with seqs := aSet k (matchesReported q) s.seqs }.count f := by
  simp only [State.reportMatches, hq]
  rw [onLive_of_live hq]
  exact ⟨_, rfl⟩

/-- Beats noted at held tokens leave their places, what they hold and what has been found at them. -/
theorem noteReady_eq {s : State} {k : Nat} {q : Sequence} (hq : s.live k = some q) : ∃ note : Held → Held,
    s.noteReady k = { s with seqs := aSet k { q with hold := q.hold.map note } s.seqs } ∧
    ∀ h, (note h).idx = h.idx ∧ (note h).token = h.token ∧ (note h).found = h.found := by
  unfold State.noteReady
  rw [onLive_of_live hq]
  refine ⟨_, rfl, fun h => ?_⟩
  dsimp only
  split
  · exact ⟨rfl, rfl, rfl⟩
  · exact ⟨rfl, rfl, rfl⟩

theorem exec_snareMatchReport {s : State} {k : Nat} {q : Sequence} (hup : s.mgrUp = true) (hq : s.live k = some q) :
    ∃ t note, exec (.snareMatchReport k) s = .next t ∧
      t.live k = some { matchesReported q with hold := (matchesReported q).hold.map note } ∧
      (∀ h : Held, (note h).idx = h.idx ∧ (note h).token = h.token ∧ (note h).found = h.found) ∧
      (∀ m, m ≠ k → t.live m = s.live m) ∧ t = { s with seqs := t.seqs, cnt := t.cnt } := by
  have hexec : exec (.snareMatchReport k) s = .next ((s.reportMatches k).noteReady k) := congrArg Host.Outcome.next (if_pos hup)
  obtain ⟨f, hrep⟩ := reportMatches_eq hq
  have hlive : ({ s with seqs := aSet k (matchesReported q) s.seqs }.count f).live k = some (matchesReported q) := aGet_aSet_eq _ _ _
  obtain ⟨note, hnote, hfields⟩ := noteReady_eq hlive
  rw [hrep, hnote] at hexec
  exact ⟨_, note, hexec, aGet_aSet_eq _ _ _, hfields, fun m hm => (aGet_aSet_ne _ _ hm).trans (aGet_aSet_ne _ _ hm), rfl⟩

/-- Settles O26. -/
theorem snareStreams : Obligations.SnareStreams := by
  refine ⟨?_, ?_, ?_, ?_, ?_, fun j x n hx hseq hslot hout => queueJob_queued hx hseq hslot hout, ?_⟩
  · intro s k q g hprior hup hq hg hclosed hbefore hage
    have hdue : s.groupDue q = true := List.any_eq_true.mpr ⟨g, hg, by
      rw [hclosed, hbefore]
      exact decide_eq_true hage⟩
    show execGroupClose k s = _
    unfold execGroupClose
    rw [underForce_settled _ _ hprior, hq]
    exact congrArg Host.Outcome.next (if_pos (by rw [hup, hdue]; rfl))
  · intro s i k j rest hserving hcopy hqueue hk havoid hfree hbelow
    have htake := takeJob_head hqueue (freeLane_some hk havoid hfree hbelow)
    refine (congrArg Host.Outcome.next (if_pos ?_)).trans (congrArg Host.Outcome.next (s.onSeg_congr i _ _ ?_))
    · rw [hserving, hcopy]
      rfl
    · dsimp only
      rw [htake]
  · intro s i lane n j q r a hlane hq hr ha hn
    obtain ⟨q', f, hstep, hnext, hhold, hended⟩ := stepStream_eq i hq hr ha
    have hseg := State.seg_onSeg_eq { s with seqs := aSet j.seq q' s.seqs } (fun g =>
      { g with cnt := f g.cnt, snare := { g.snare with lanes := aErase lane g.snare.lanes } }) (hasSeg_of_lane hlane)
    refine ⟨_, q', exec_snareStreamEnd hlane hstep, ?_, ?_, aGet_aSet_eq _ _ _, hn ▸ hnext, hhold, hended, ?_,
      fun m hm => State.seg_onSeg_ne _ _ hm, fun m hm => aGet_aSet_ne _ _ hm, rfl⟩
    · rw [hseg]
      rfl
    · rw [hseg]
      rfl
    · rw [hseg]
      rfl
  · intro s i lane k j hlane hk hne hfree hbelow
    have hmove := moveJob_free (n := (s.seg i).snare) (j := j) hk hne hfree hbelow
    obtain ⟨hseg, hothers, heq⟩ := snareLaneError_seg hlane
    refine ⟨_, exec_snareLaneError hlane, ?_, ?_, ?_, (restartStream_leaves s j).2, ?_, ?_, hothers, heq⟩
    · rw [hseg]
      exact (congrArg Snare.lanes hmove :)
    · rw [hseg]
      exact (congrArg Snare.queue hmove :)
    · rw [hseg]
      rfl
    · rw [hseg]
      rfl
    · rw [hseg]
      rfl
  · intro s i lane j hlane hfull
    obtain ⟨hlanes, hout, hin⟩ := moveJob_full (n := (s.seg i).snare) (j := j) hfull
    obtain ⟨hseg, hothers, heq⟩ := snareLaneError_seg hlane
    refine ⟨_, exec_snareLaneError hlane, ?_, ?_, ?_, ?_, ?_, hothers, heq⟩
    · rw [hseg]
      exact hlanes
    · rw [hseg]
      exact hout
    · rw [hseg]
      exact hin
    · rw [hseg]
      rfl
    · rw [hseg]
      rfl
  · intro s k q hup hq
    obtain ⟨t, note, hexec, hlive, hfields, hothers, heq⟩ := exec_snareMatchReport hup hq
    obtain ⟨hidx, htoken⟩ := idx_applyAll (outputMatches q) q.hold
    refine ⟨t, _, hexec, hlive, ?_, ?_, ?_, ?_, hothers, heq⟩
    · rw [List.map_map, ← hidx]
      exact List.map_congr_left fun h _ => (hfields h).1
    · rw [List.map_map, ← htoken]
      exact List.map_congr_left fun h _ => (hfields h).2.1
    · intro a ha hout
      obtain ⟨a', -, rfl⟩ := List.mem_map.mp ha
      unfold autoReported at hout ⊢
      split
      · exact ⟨rfl, rfl⟩
      · next hno =>
        rw [if_neg hno] at hout
        exact absurd hout hno
    · intro a ha hout m hm h hh h1 h2
      have hmem : m ∈ outputMatches q := List.mem_flatMap.mpr ⟨a, List.mem_filter.mpr ⟨ha, hout⟩, hm⟩
      obtain ⟨h', hh', hi, -, hnote⟩ := applyAll_notes (ms := outputMatches q) hh
      refine ⟨note h', List.mem_map.mpr ⟨h', hh', rfl⟩, (hfields h').1.trans hi, ?_⟩
      rw [(hfields h').2.2]
      exact hnote m hmem h1 h2

end Sys2Proof.Proofs
end
section
/-! Pushes on word queues (R284, R285, R367). -/

namespace Sys2Proof.Proofs

open Sys2Proof Sys2Proof.Machine

/-! Pushes on a queue of which no read is stalled. -/

/-- The data of a queue's words. -/
noncomputable def dataOf (q : WordQ) : List Nat := q.words.map (·.data)

theorem data_tearOldest (l : List QWord) : (tearOldest l).map (·.data) = l.map (·.data) := by
  cases l with
  | nil => rfl
  | cons w l =>
    have hdata : (if w.torn then w else { w with torn := true, p := !w.p }).data = w.data := by
      split
      · rfl
      · rfl
    exact congrArg (· :: l.map (·.data)) hdata

theorem data_qOverwrite (a : Stamp) (w : QWord) (q : WordQ) : dataOf (qOverwrite a w q) = (dataOf q).drop 1 ++ [w.data] := by
  unfold dataOf qOverwrite
  dsimp only
  rw [List.map_append, ← List.map_drop]
  split
  · rfl
  · rw [data_tearOldest]
    rfl

/-- A word pushed alone stands last, before it the words that were there, but the oldest of a full queue (R284, R285). -/
theorem data_qPushAlone (a : Stamp) (w : QWord) (q : WordQ) :
    dataOf (qPushAlone a w q) = (if q.words.length < q.cap then dataOf q else (dataOf q).drop 1) ++ [w.data] := by
  unfold qPushAlone
  by_cases h : q.words.length < q.cap
  · have hdepth : q.depth < q.cap := h
    dsimp only
    rw [if_pos h, if_pos hdepth]
    exact (congrArg (List.map _) (qCross_keeps _ _ _).2.1).trans (List.map_append ..)
  · have hdepth : ¬ q.depth < q.cap := h
    dsimp only
    rw [if_neg h, if_neg hdepth]
    exact data_qOverwrite a w q

/-- A queue whose last words carry given data, with no read stalled. -/
structure endsWith (l : List Nat) (q : WordQ) : Prop where
  words : l <:+ dataOf q
  stalled : q.stalled = []

theorem qPush_unstalled (a : Stamp) (d : Nat) (eor : Bool) {q : WordQ} (h : q.stalled = []) : (qPush a d eor q).stalled = [] := by
  have h : (qTick a q).stalled = [] := (stalled_qTick a q).trans h
  have halone (w : QWord) (q : WordQ) (h : q.stalled = []) : (qPushAlone a w q).stalled = [] := by
    unfold qPushAlone
    dsimp only
    split
    · exact (qCross_keeps _ _ _).2.2.2.trans h
    · exact h
  unfold qPush
  dsimp only
  rw [h]
  dsimp only
  split
  · split
    · rfl
    · exact halone _ _ rfl
  · exact halone _ _ rfl

/-- A word pushed stands last; of the words before it as many as the queue has room for stand. -/
theorem data_qPush (a : Stamp) (d : Nat) (eor : Bool) {q : WordQ} (h : q.stalled = []) :
    dataOf (qPush a d eor q) = (if q.words.length < q.cap then dataOf q else (dataOf q).drop 1) ++ [d % 2 ^ 64] := by
  obtain ⟨⟨hcap, -, -⟩, hw, -⟩ := qTick_keeps a q
  have h : (qTick a q).stalled = [] := (stalled_qTick a q).trans h
  have hdata : dataOf (qTick a q) = dataOf q := congrArg (List.map _) hw
  have halone (w : QWord) (t : WordQ) (ht : t.words = (qTick a q).words) (hc : t.cap = (qTick a q).cap) :
      dataOf (qPushAlone a w t) = (if q.words.length < q.cap then dataOf q else (dataOf q).drop 1) ++ [w.data] := by
    rw [data_qPushAlone, dataOf, ht, hc, hw, hcap]
    rfl
  unfold qPush
  dsimp only
  rw [h]
  dsimp only
  split
  · split
    · next hroom =>
      have hroom : (qTick a q).words.length < (qTick a q).cap := of_decide_eq_true (Bool.and_eq_true_iff.mp hroom).2
      rw [hw, hcap] at hroom
      rw [if_pos hroom, ← hdata]
      exact List.map_append ..
    · exact halone _ _ rfl rfl
  · exact halone _ _ rfl rfl

theorem endsWith_qPush {l : List Nat} {q : WordQ} (h : endsWith l q) (a : Stamp) (d : Nat) (eor : Bool) (hl : l.length < q.cap) :
    endsWith (l ++ [d % 2 ^ 64]) (qPush a d eor q) := by
  obtain ⟨⟨pre, hpre⟩, hs⟩ := h
  refine ⟨?_, qPush_unstalled a d eor hs⟩
  rw [data_qPush a d eor hs]
  by_cases hroom : q.words.length < q.cap
  · rw [if_pos hroom, ← hpre, List.append_assoc]
    exact List.suffix_append ..
  · rw [if_neg hroom, ← hpre]
    have hne : pre ≠ [] := by
      rintro rfl
      have hlen := congrArg List.length hpre
      rw [List.nil_append, dataOf, List.length_map] at hlen
      exact hroom (hlen ▸ hl)
    obtain ⟨x, pre, rfl⟩ := List.exists_cons_of_ne_nil hne
    rw [List.cons_append, List.drop_succ_cons, List.drop_zero, List.append_assoc]
    exact List.suffix_append ..

/-- Words pushed one after another stand last, in their order. -/
theorem endsWith_qPushAll (a : Stamp) {words l : List Nat} {q : WordQ} (h : endsWith l q) (hl : l.length + words.length ≤ q.cap) :
    endsWith (l ++ words.map (· % 2 ^ 64)) (qPushAll a words q) := by
  induction words generalizing l q with
  | nil =>
    rw [List.map_nil, List.append_nil]
    exact h
  | cons w rest ih =>
    rw [List.length_cons] at hl
    have hpush (eor : Bool) := endsWith_qPush h a w eor (by omega)
    cases rest with
    | nil => exact hpush true
    | cons w' rest =>
      have hrest := ih (hpush false) (by
        rw [(qPush_keeps a w false q).1.1, List.length_append, List.length_singleton]
        omega)
      rw [List.append_assoc] at hrest
      exact hrest

/-- A push leaves capacity, mode and owner, and so do pushes one after another. -/
theorem sameShape_qPushAll (a : Stamp) (words : List Nat) (q : WordQ) : sameShape q (qPushAll a words q) := by
  induction words generalizing q with
  | nil => exact ⟨rfl, rfl, rfl⟩
  | cons w rest ih =>
    cases rest with
    | nil => exact (qPush_keeps a w true q).1
    | cons w' rest =>
      obtain ⟨hc, hh, ho⟩ := (qPush_keeps a w false q).1
      obtain ⟨hc', hh', ho'⟩ := ih (qPush a w false q)
      exact ⟨hc'.trans hc, hh'.trans hh, ho'.trans ho⟩

/-- Words pushed first stand before all others (R367). -/
theorem take_pushFirst (a : Stamp) {words : List Nat} {q : WordQ} (hs : q.stalled = []) (hcap : words.length ≤ q.cap) :
    ((pushFirst a words q).words.take words.length).map (·.data) = words.map (· % 2 ^ 64) := by
  obtain ⟨⟨pre, hpre⟩, -⟩ := endsWith_qPushAll a (words := words) (l := []) ⟨List.nil_suffix, hs⟩ (by rwa [List.length_nil, Nat.zero_add])
  have hlen := congrArg List.length hpre
  rw [List.length_append, List.nil_append, List.length_map, dataOf, List.length_map] at hlen
  have hdrop : ((qPushAll a words q).words.drop ((qPushAll a words q).words.length - (words.length - q.stalled.length))).map (·.data) =
      words.map (· % 2 ^ 64) := by
    rw [List.map_drop, ← dataOf, ← hpre, hs, List.length_nil, Nat.sub_zero, ← hlen, Nat.add_sub_cancel, List.nil_append]
    exact List.drop_left ..
  unfold pushFirst
  dsimp only
  rw [List.map_take, List.map_append, List.take_append_of_le_length (by rw [hdrop, List.length_map]), hdrop]
  exact List.take_of_length_le (by rw [List.length_map])

/-! A change of a notice queue. -/

/-- A notice queue changed in a segment that exists is there what was written, its answers sent. -/
theorem seg_onNq {s : State} {i : Nat} (hi : s.hasSeg i = true) (f : WordQ → WordQ) :
    answersOnly { s.seg i with nq := { f (s.seg i).nq with answers := [] } } ((s.onNq i f).seg i) := by
  unfold State.onNq
  rw [← s.seg_onSeg_eq (fun g => { g with nq := { f g.nq with answers := [] } }) hi]
  exact answersOnly_answerReads _ _ i

end Sys2Proof.Proofs
end
section
/-! Silence: fences, confirmation and takeover (R363 to R367, R369). -/

namespace Sys2Proof.Proofs

open Sys2Proof Sys2Proof.Machine

/-! A fence (R363). -/

section Fence
variable {s : State} {i : Nat}

/-- A block in which a segment has fenced itself by silence. -/
noncomputable def fencedIn (s : State) (i : Nat) : State := (s.onSeg i (fencedSegment 0x01)).raiseFenced i 0x01 s.edge

theorem othersAnswered_fencedIn (s : State) (i : Nat) : othersAnswered i s (fencedIn s i) := fun j hj => by
  rw [← s.seg_onSeg_ne (fencedSegment 0x01) hj]
  exact othersAnswered_raise _ i _ _ _ _ _ _ j hj

theorem fencedIn_eq (s : State) (i : Nat) : fencedIn s i = { s with segs := (fencedIn s i).segs } := by
  have h := raise_eq (s.onSeg i (fencedSegment 0x01)) i 0x0C 0x0 0 0 s.edge (fencedDetail (s.inHalfB i) 0x01)
  exact h

/-- The segment fenced: its work is gone, its queues hold and its notice queue is the host's. -/
structure Fenced (g h : Segment) : Prop where
  state : h.state = .fenced
  reason : h.fenceReason = 0x01
  steps : h.steps = []
  allocs : h.allocs = []
  kernels : h.kernels = []
  nqHold : h.nq.hold = true
  owner : h.nq.owner = true
  inHold : h.i3cIn.hold = true
  outHold : h.i3cOut.hold = true
  stack : h.stack = g.stack
  staging : h.staging = g.staging
  trust : h.trust = g.trust

theorem fencedIn_seg (hi : s.hasSeg i = true) : Fenced (s.seg i) ((fencedIn s i).seg i) := by
  have hi' : (s.onSeg i (fencedSegment 0x01)).hasSeg i = true := by
    rw [State.hasSeg, s.onSeg_length]
    exact hi
  have h : answersOnly _ ((fencedIn s i).seg i) := seg_onNq hi' _
  rw [s.seg_onSeg_eq _ hi] at h
  obtain ⟨-, hhold, howner⟩ := sameShape_qPushAll s.edge (noticeWords 0x0C 0x0 0 0 s.edge (fencedDetail (s.inHalfB i) 0x01))
    (fencedSegment 0x01 (s.seg i)).nq
  unfold answersOnly at h
  rw [h]
  exact ⟨rfl, rfl, rfl, rfl, rfl, hhold, howner, rfl, rfl, rfl, rfl, rfl⟩

/-- Frames that leave a segment leave it fenced. -/
theorem Fenced.sent {g h k : Segment} (a : Fenced g h) (b : framesSent h k) : Fenced g k := by
  rw [b.1]
  exact ⟨a.state, a.reason, a.steps, a.allocs, a.kernels, a.nqHold, a.owner, a.inHold, a.outHold, a.stack, a.staging, a.trust⟩

theorem confirmTo_fencedIn (hs : (s.seg i).state = .serving) : (fencedIn s i).confirmTo = s.confirmTo := by
  have hi : s.hasSeg i = true := by
    by_contra hn
    rw [State.seg, List.getD_eq_default _ _ (by simpa [State.hasSeg] using hn)] at hs
    cases hs
  have hlen : (fencedIn s i).segs.length = s.segs.length :=
    (noticesOnly_raise (s.onSeg i (fencedSegment 0x01)) i 0x0C 0x0 0 0 s.edge (fencedDetail (s.inHalfB i) 0x01)).2.1.trans (s.onSeg_length _ _)
  have hstate (j : Nat) : (((fencedIn s i).seg j).state == .serving || ((fencedIn s i).seg j).state == .fenced) =
      ((s.seg j).state == .serving || (s.seg j).state == .fenced) := by
    by_cases hj : j = i
    · subst hj
      rw [(fencedIn_seg hi).state, hs]
      rfl
    · rw [show (fencedIn s i).seg j = _ from othersAnswered_fencedIn s i j hj]
  have hcfg : (fencedIn s i).cfg = s.cfg := (congrArg State.cfg (fencedIn_eq s i) :)
  have hroles : (fencedIn s i).roles = s.roles := (congrArg State.roles (fencedIn_eq s i) :)
  unfold State.confirmTo State.halfOf State.inHalfB State.mgr
  simp only [hlen, hstate, hroles, hcfg]

theorem exec_fence (hm : i ≠ s.mgr) (hs : (s.seg i).state = .serving) (hb : (s.seg i).lastHb + 40 ≤ s.time.beat) (hhush : s.power.hush = 0)
    (hfar : s.inSecond i = false) :
    exec (.fence i) s = .next (if s.roles.mirrorSeg == some i then (fencedIn s i).standbyFences else fencedIn s i) := by
  show execFence i s = _
  simp only [execFence, onlyIf, bne_iff_ne.mpr hm, hs, decide_eq_true hb, hhush, hfar]
  rfl

/-- A standby that fences asks the others, each by a message on the control channel (R369). -/
theorem standbyFences_eq (t : State) : ∃ w, sentOnly t w ∧ t.standbyFences =
    { w with roles := { t.roles with confirm := { asked := t.confirmTo } },
             mirror := { t.mirror with currentAtFence := if t.roles.standby.isSome then t.mirror.current else t.mirror.currentAtFence } } := by
  have hsent := sentOnly_foldl (fun u (i : Nat) => sentOnly_control u (t.roles.mirrorSeg.getD t.mgr) i) t.confirmTo t
  refine ⟨_, hsent, ?_⟩
  have hroles := (congrArg State.roles hsent.1 :)
  have hmirror := (congrArg State.mirror hsent.1 :)
  unfold State.standbyFences
  dsimp only
  rw [hroles, hmirror]

end Fence

/-- What a segment's fence leaves of the others, whether or not it is the standby's. -/
theorem fence_leaves {s : State} {i : Nat} (hm : i ≠ s.mgr) (hs : (s.seg i).state = .serving) (hb : (s.seg i).lastHb + 40 ≤ s.time.beat)
    (hhush : s.power.hush = 0) (hfar : s.inSecond i = false) :
    ∃ t, exec (.fence i) s = .next t ∧ (∀ j, framesSent ((fencedIn s i).seg j) (t.seg j)) ∧
      (s.roles.mirrorSeg ≠ some i → t = fencedIn s i) ∧
      (s.roles.mirrorSeg = some i → t.roles.confirm = { asked := s.confirmTo } ∧
        t.mirror.currentAtFence = if s.roles.standby.isSome then s.mirror.current else s.mirror.currentAtFence) ∧
      t = { s with segs := t.segs, roles := t.roles, mirror := t.mirror } := by
  have hexec := exec_fence hm hs hb hhush hfar
  have heq := fencedIn_eq s i
  by_cases hmirror : s.roles.mirrorSeg = some i
  · rw [if_pos (beq_iff_eq.mpr hmirror)] at hexec
    obtain ⟨w, hw, ht⟩ := standbyFences_eq (fencedIn s i)
    obtain ⟨hweq, -, hsent⟩ := hw
    rw [confirmTo_fencedIn hs] at ht
    rw [ht] at hexec
    refine ⟨_, hexec, hsent, fun h => absurd hmirror h, fun _ => ⟨rfl, ?_⟩, ?_⟩
    · rw [heq]
    · rw [hweq, heq]
  · rw [if_neg (mt beq_iff_eq.mp hmirror)] at hexec
    refine ⟨_, hexec, fun j => framesSent_refl _, fun _ => rfl, fun h => absurd h hmirror, ?_⟩
    rw [heq]

/-! The manager's own fence (R364, R365). -/

section SelfFence
variable {s : State}

theorem exec_managerSelfFence (hup : s.mgrUp = true) (hlen : 2 ≤ s.segs.length) (hhush : s.power.hush = 0) (hiso : s.isolated = true) :
    exec .managerSelfFence s = .next s.fenceManager := by
  show execManagerSelfFence s = _
  simp only [execManagerSelfFence, onlyIf, hup, decide_eq_true hlen, hhush, hiso]
  rfl

theorem foldl_endTransfers {l : List EndpointS} (h : ∀ x ∈ l, x.transfers = []) (t : State) : l.foldl State.endTransfers t = t := by
  induction l generalizing t with
  | nil => rfl
  | cons x l ih =>
    have hx : t.endTransfers x = t := by
      unfold State.endTransfers
      rw [h x (List.mem_cons_self ..)]
      rfl
    rw [List.foldl_cons, hx]
    exact ih (fun y hy => h y (List.mem_cons_of_mem _ hy)) t

/-- Every port asks no more writes of host rings (R365). -/
noncomputable def ringsStopped (s : State) : State := s.onSegs (fun _ g => { g with port := stopRings g.port })

/-- The manager's segment fenced by the silence of all others. -/
noncomputable def shutSegment (g : Segment) : Segment := { holdQueues {} true g with state := .fenced, fenceReason := 0x03 }

/-- The manager's notice of its fence. -/
noncomputable def selfReported (s : State) : State := (ringsStopped s).raiseFenced s.mgr 0x03 s.edge

theorem ringsStopped_seg (s : State) (j : Nat) : (ringsStopped s).seg j = { s.seg j with port := stopRings (s.seg j).port } := by
  rcases Nat.lt_or_ge j s.segs.length with hj | hj
  · exact seg_onSegs s _ hj
  · rw [ringsStopped, seg_onSegs_absent s _ hj, State.seg, List.getD_eq_default _ _ hj]
    rfl

theorem fenceManager_eq (h : ∀ x ∈ s.objs.eps, x.transfers = []) : s.fenceManager =
    { (((selfReported s).onSeg s.mgr shutSegment).endpointMode true) with roles := { s.roles with selfFenced := true } } := by
  have heq := raise_eq (ringsStopped s) s.mgr 0x0C 0x0 0 0 s.edge (fencedDetail (s.inHalfB s.mgr) 0x03)
  have hroles : (selfReported s).roles = s.roles := (congrArg State.roles heq :)
  unfold State.fenceManager
  rw [foldl_endTransfers h]
  show { (((selfReported s).onSeg s.mgr shutSegment).endpointMode true) with roles := { (selfReported s).roles with selfFenced := true } } = _
  rw [hroles]

/-- What the manager's own fence does (R364, R365). -/
theorem selfFence_leaves (hm : s.hasSeg s.mgr = true) (h : ∀ x ∈ s.objs.eps, x.transfers = []) :
    ∃ t, s.fenceManager = t ∧ t.roles = { s.roles with selfFenced := true } ∧ (t.seg s.mgr).state = .fenced ∧
      (t.seg s.mgr).fenceReason = 0x03 ∧ (t.seg s.mgr).nq.hold = true ∧ (t.seg s.mgr).stack = (s.seg s.mgr).stack ∧
      (∀ x ∈ t.objs.eps, x.inq.hold = true ∧ x.outq.hold = true) ∧
      (∀ j, j ≠ s.mgr → answersOnly { s.seg j with port := stopRings (s.seg j).port } (t.seg j)) ∧
      (∀ j, (∀ r ∈ (t.seg j).port.waiting, r.what.ofRing = false) ∧ ∀ e ∈ (t.seg j).port.retry, e.2.what.ofRing = false) ∧
      t = { s with segs := t.segs, roles := t.roles, objs := t.objs } := by
  obtain ⟨heq, hlen, hseg⟩ := noticesOnly_raise (ringsStopped s) s.mgr 0x0C 0x0 0 0 s.edge (fencedDetail (s.inHalfB s.mgr) 0x03)
  have heq : selfReported s = { ringsStopped s with segs := (selfReported s).segs } := heq
  have hlen : (selfReported s).segs.length = s.segs.length := hlen.trans (s.onSegs_length _)
  have hm' : (selfReported s).hasSeg s.mgr = true := by
    rw [State.hasSeg, hlen]
    exact hm
  have hseg (j : Nat) : noticed { s.seg j with port := stopRings (s.seg j).port } ((selfReported s).seg j) := by
    rw [← ringsStopped_seg]
    exact hseg j
  have hother (j : Nat) (hj : j ≠ s.mgr) : answersOnly { s.seg j with port := stopRings (s.seg j).port } ((selfReported s).seg j) := by
    rw [← ringsStopped_seg]
    exact othersAnswered_raise (ringsStopped s) s.mgr _ _ _ _ _ _ j hj
  have hshut : ((selfReported s).onSeg s.mgr shutSegment).seg s.mgr = shutSegment ((selfReported s).seg s.mgr) := State.seg_onSeg_eq _ _ hm'
  have hport (j : Nat) : (((selfReported s).onSeg s.mgr shutSegment).seg j).port = ((selfReported s).seg j).port :=
    seg_onSeg_of (P := fun g h => h.port = g.port) _ _ _ (fun _ => rfl) rfl j
  refine ⟨_, fenceManager_eq h, rfl, ?_, ?_, ?_, ?_, fun x hx => ?_, fun j hj => ?_, fun j => ?_, ?_⟩
  · exact congrArg Segment.state hshut
  · exact congrArg Segment.fenceReason hshut
  · exact congrArg (fun g : Segment => g.nq.hold) hshut
  · refine (congrArg Segment.stack hshut).trans ?_
    exact (congrArg Segment.stack (hseg s.mgr) :)
  · obtain ⟨y, -, rfl⟩ := List.mem_map.mp hx
    exact ⟨rfl, rfl⟩
  · refine (congrArg (answersOnly _) (State.seg_onSeg_ne _ _ hj)).mpr (hother j hj)
  · have hstopped : (((selfReported s).onSeg s.mgr shutSegment).seg j).port.waiting = (stopRings (s.seg j).port).waiting ∧
        (((selfReported s).onSeg s.mgr shutSegment).seg j).port.retry = (stopRings (s.seg j).port).retry := by
      rw [hport]
      exact ⟨(congrArg (fun g : Segment => g.port.waiting) (hseg j) :), (congrArg (fun g : Segment => g.port.retry) (hseg j) :)⟩
    constructor
    · intro r hr
      have hr := hstopped.1 ▸ hr
      exact (Bool.not_eq_true' _).mp (List.mem_filter.mp hr).2
    · intro e he
      have he := hstopped.2 ▸ he
      exact (Bool.not_eq_true' _).mp (List.mem_filter.mp he).2
  · rw [heq]
    rfl

end SelfFence

/-! Confirmation (R369). -/

theorem exec_confirm {s : State} {i : Nat} (hi : i ∈ s.roles.confirm.asked) (hup : s.segUp i = true) :
    exec (.confirm i) s = .next { s.control i (s.roles.mirrorSeg.getD s.mgr) with roles := { s.roles with confirm := { s.roles.confirm with
      asked := s.roles.confirm.asked.filter (· != i),
      answers := s.roles.confirm.answers ++ [(i, decide ((s.seg i).lastHb + 36 ≤ s.time.beat))] } } } := by
  refine congrArg Host.Outcome.next (if_pos ?_)
  rw [List.contains_iff_mem.mpr hi, hup]
  rfl

theorem exec_confirmAnswer {s : State} {i : Nat} {silent : Bool} (hi : (i, silent) ∈ s.roles.confirm.answers) :
    exec (.confirmAnswer i silent) s = .next { s with roles := { s.roles with confirm := s.roles.confirm.take i silent } } :=
  congrArg Host.Outcome.next (if_pos (List.contains_iff_mem.mpr hi))

theorem confirm_take (c : Confirm) (i : Nat) : i ∈ (c.take i true).silent ∧ (c.take i true).alive = c.alive ∧
    i ∈ (c.take i false).alive ∧ (c.take i false).silent = c.silent :=
  ⟨mem_insertNat.mpr (.inl rfl), rfl, mem_insertNat.mpr (.inl rfl), rfl⟩

/-! The takeover (R366, R367). -/

/-- Entries tombstoned in a block: caches change, no other counter but that of full dim pools, no sequence, and no step comes. -/
structure tombOnly (s t : State) : Prop where
  caches : cachesOnly s t
  counts : workCounts s.cnt t.cnt
  seqs : t.seqs = s.seqs
  loops : loopsStill s t

theorem tombOnly.refl (s : State) : tombOnly s s := ⟨.refl s, rfl, rfl, .refl s⟩

theorem tombOnly.trans {s t u : State} (a : tombOnly s t) (b : tombOnly t u) : tombOnly s u :=
  ⟨a.caches.trans b.caches, a.counts.trans b.counts, b.seqs.trans a.seqs, a.loops.trans b.loops⟩

theorem tombOnly_foldl {α : Type} {f : State → α → State} (hf : ∀ t x, tombOnly t (f t x)) (l : List α) (s : State) : tombOnly s (l.foldl f s) := by
  induction l generalizing s with
  | nil => exact .refl s
  | cons x l ih => exact (hf s x).trans (ih _)

theorem seqs_onEntry (s : State) (k : Nat) (f : Handle → Handle) : (s.onEntry k f).seqs = s.seqs := by
  unfold State.onEntry
  split
  · rfl
  · rfl

theorem seqs_foldl {α : Type} {f : State → α → State} (hf : ∀ t x, (f t x).seqs = t.seqs) (l : List α) (s : State) :
    (l.foldl f s).seqs = s.seqs := by
  induction l generalizing s with
  | nil => rfl
  | cons x l ih => exact (ih (f s x)).trans (hf s x)

theorem seqs_beginDimWrite (s : State) (k : Nat) : (s.beginDimWrite (.entry k)).seqs = s.seqs := by
  unfold State.beginDimWrite
  split
  · unfold State.dimWriteTo
    split
    · dsimp only
      have hcounts (t : State) (p n : Nat) : (t.dimCounts p n).seqs = t.seqs := by
        refine (seqs_foldl ?_ _ _).trans rfl
        exact fun _ _ => rfl
      split
      · exact (hcounts _ _ _).trans (seqs_onEntry s k _)
      · refine (seqs_foldl ?_ _ _).trans ((hcounts _ _ _).trans (seqs_onEntry s k _))
        exact fun _ _ => rfl
    · rfl
  · rfl

theorem seqs_releaseEntry (s : State) (k : Nat) : (s.releaseEntry k).seqs = s.seqs := by
  unfold State.releaseEntry
  split
  · dsimp only
    split
    · exact (seqs_beginDimWrite _ k).trans (seqs_onEntry s k _)
    · exact seqs_onEntry s k _
  · rfl

theorem tombOnly_onEntry (s : State) (k : Nat) (f : Handle → Handle) : tombOnly s (s.onEntry k f) :=
  ⟨cachesOnly_onEntry s k f, (workOnly_onEntry (.refl s) k f).2.2.2, seqs_onEntry s k f, loopsStill_onEntry (.refl s) k f⟩

theorem tombOnly_returnPages (s : State) (i n : Nat) (e : Stamp) : tombOnly s (s.returnPages i n e) :=
  ⟨cachesOnly_returnPages s i n e, (workOnly_returnPages (.refl s) i n e).2.2.2, seqs_returnPages s i n e, loopsStill_returnPages (.refl s) i n e⟩

theorem tombOnly_releaseEntry (s : State) (k : Nat) : tombOnly s (s.releaseEntry k) :=
  ⟨cachesOnly_releaseEntry s k, (workOnly_releaseEntry (.refl s) k).2.2.2, seqs_releaseEntry s k, loopsStill_releaseEntry (.refl s) k⟩

theorem tombOnly_tombstoneAll (s : State) (p : Nat) (e : Stamp) : tombOnly s (s.tombstoneAll p e) := by
  refine tombOnly_foldl (fun t k => ?_) _ s
  refine .trans ?_ (tombOnly_onEntry _ _ _)
  unfold State.freeBright
  split
  · dsimp only
    split
    · exact ((tombOnly_onEntry t k _).trans (tombOnly_returnPages _ _ _ _)).trans (tombOnly_releaseEntry _ _)
    · exact (tombOnly_onEntry t k _).trans (tombOnly_returnPages _ _ _ _)
  · exact .refl t

theorem tombOnly_stopOwned (s : State) (i : Nat) (e : Stamp) : tombOnly s (s.stopOwned i e) := by
  refine tombOnly_foldl (fun t p => ?_) _ s
  split
  · refine (tombOnly_tombstoneAll t p e).trans ⟨cachesOnly_onPart _ p _, rfl, rfl, ?_⟩
    exact loopsStill_onPart (.refl _) p (fun _ => rfl)
  · exact .refl t

/-- The tables that a new manager takes over, its roles and its clock (R367). -/
noncomputable def takenOver (s : State) (b : Nat) (stale : List Nat) : State :=
  { s.recovered stale with
    roles := { manager := b, recovering := some (s.time.beat + 4000), announce := true },
    mirror := { nextSeq := s.mirror.applied.seqNo + 1 },
    time := { (s.recovered stale).time with
      refState := if (s.seg b).refPresent then .locked else .holdover, offsetPs := 0, goodPps := 0, edgePhase := 3 },
    vectors := { (s.recovered stale).vectors with drainLast := (b + s.segs.length - 1) % (max 1 s.segs.length) } }

theorem stepOf_takenOver (s : State) (b : Nat) (stale : List Nat) (q : Nat) (c : Cls) : (takenOver s b stale).stepOf q c = none := by
  have hpart (p : Partition) (h : p.lc = {} ∧ p.be = {}) : (p.loop c).step = none := by
    cases c with
    | lc => exact congrArg Loop.step h.1
    | be => exact congrArg Loop.step h.2
  refine hpart _ ?_
  show Partition.lc (List.getD (s.parts.zipIdx.map _) q {}) = {} ∧ Partition.be (List.getD (s.parts.zipIdx.map _) q {}) = {}
  rw [List.getD_eq_getElem?_getD, List.getElem?_map]
  cases s.parts.zipIdx[q]? with
  | none => exact ⟨rfl, rfl⟩
  | some x => exact ⟨rfl, rfl⟩

/-- The takeover up to the loss of the former manager's segment. -/
noncomputable def ownedStopped (s : State) (b : Nat) (stale : List Nat) (e : Stamp) : State :=
  ((takenOver s b stale).stopOwned s.mgr e).onSeg s.mgr (lostSegment 0x01)

/-- The notice that the former manager is lost. -/
noncomputable def formerLost (s : State) (b : Nat) (stale : List Nat) (e : Stamp) : State := (ownedStopped s b stale e).raiseLost s.mgr 0x01 e

/-- The takeover's notice raised. -/
noncomputable def newRaised (s : State) (b : Nat) (stale : List Nat) (e : Stamp) : State :=
  (formerLost s b stale e).raiseTakeover s.mgr b e s.mirror.applied.seqNo

theorem takeOver_eq {s : State} (b : Nat) (stale : List Nat) (e : Stamp) (h : ∀ x ∈ (newRaised s b stale e).objs.eps, x.transfers = []) :
    s.takeOver b stale e = ((newRaised s b stale e).count (fun c => { c with
      takeovers := c.takeovers + 1, segmentsLost := c.segmentsLost + 1 })).endpointMode true := by
  exact congrArg (State.endpointMode · true) (foldl_endTransfers h ((newRaised s b stale e).count _))

/-- What the new manager's block holds (R367). -/
structure tookOver (s : State) (b : Nat) (e : Stamp) (t : State) : Prop where
  roles : t.roles = { manager := b, recovering := some (s.time.beat + 4000), announce := true }
  seqs : t.seqs = []
  tenants : t.tenants = s.mirror.applied.tenants
  staged : t.objs.staged = []
  eps : t.objs.eps = s.objs.eps.map freshEndpoint
  takeovers : t.cnt.takeovers = s.cnt.takeovers
  beat : t.time.beat = s.time.beat
  idle : ∀ q c, t.stepOf q c = none

theorem stopOwned_tookOver (s : State) (b : Nat) (stale : List Nat) (e : Stamp) : tookOver s b e ((takenOver s b stale).stopOwned s.mgr e) := by
  obtain ⟨⟨heq, -, -⟩, hcnt, hseqs, -, hloops⟩ := tombOnly_stopOwned (takenOver s b stale) s.mgr e
  exact ⟨(congrArg State.roles heq :), hseqs, (congrArg State.tenants heq :), (congrArg (fun t : State => t.objs.staged) heq :),
    (congrArg (fun t : State => t.objs.eps) heq :), (congrArg Counters.takeovers hcnt :), (congrArg (fun t : State => t.time.beat) heq :),
    fun q c => (hloops q c).2 (stepOf_takenOver s b stale q c)⟩

/-- Changes of segments leave what the new manager's block holds. -/
theorem tookOver.onlySegs {s t u : State} {b : Nat} {e : Stamp} (h : tookOver s b e t) (hu : u = { t with segs := u.segs }) : tookOver s b e u := by
  rw [hu]
  exact ⟨h.roles, h.seqs, h.tenants, h.staged, h.eps, h.takeovers, h.beat, h.idle⟩

section Takeover
variable {s : State} {b : Nat} (stale : List Nat) (e : Stamp)

theorem formerLost_tookOver (s : State) (b : Nat) (stale : List Nat) (e : Stamp) : tookOver s b e (formerLost s b stale e) :=
  ((stopOwned_tookOver s b stale e).onlySegs (u := ownedStopped s b stale e) rfl).onlySegs
    (noticesOnly_raise ..).1

theorem newRaised_tookOver (s : State) (b : Nat) (stale : List Nat) (e : Stamp) : tookOver s b e (newRaised s b stale e) :=
  ((formerLost_tookOver s b stale e).onlySegs (u := (formerLost s b stale e).onSeg b (newManager b e)) rfl).onlySegs (noticesOnly_onNq ..).1

theorem seg_takenOver (s : State) (b : Nat) (stale : List Nat) (j : Nat) :
    (takenOver s b stale).seg j = (s.onSegs (fun _ g => idleSegment g)).seg j := rfl

theorem length_stopOwned (s : State) (b : Nat) (stale : List Nat) (e : Stamp) :
    ((takenOver s b stale).stopOwned s.mgr e).segs.length = s.segs.length := by
  have hlen : (takenOver s b stale).segs.length = s.segs.length := s.onSegs_length (fun _ g => idleSegment g)
  exact (tombOnly_stopOwned (takenOver s b stale) s.mgr e).caches.2.1.trans hlen

/-- The words of the notice that the former manager is lost. -/
noncomputable def lostWords (s : State) (b : Nat) (stale : List Nat) (e : Stamp) : List Nat :=
  noticeWords 0x0A 0x1 s.mgr 0 e (lostSegDetail ((ownedStopped s b stale e).seg s.mgr).hub.failedBits 0x01)

/-- The notice of the lost manager goes to the new manager's queue. -/
theorem formerLost_eq (s : State) (b : Nat) (stale : List Nat) (e : Stamp) :
    formerLost s b stale e = (ownedStopped s b stale e).onNq b (qPushAll e (lostWords s b stale e)) := by
  have hmgr : (ownedStopped s b stale e).mgr = b := congrArg Roles.manager (stopOwned_tookOver s b stale e).roles
  unfold formerLost State.raiseLost State.raise
  rw [hmgr]
  rfl

theorem length_formerLost (s : State) (b : Nat) (stale : List Nat) (e : Stamp) : (formerLost s b stale e).segs.length = s.segs.length := by
  rw [formerLost_eq]
  exact (noticesOnly_onNq _ _ _).2.1.trans ((State.onSeg_length _ _ _).trans (length_stopOwned s b stale e))

/-- The words of MANAGER_TAKEOVER. -/
noncomputable def takeoverWords (s : State) (b : Nat) (e : Stamp) : List Nat :=
  noticeWords 0x0D 0x0 0 0 e (takeoverDetail s.mgr b s.mirror.applied.seqNo)

theorem newRaised_eq (s : State) (b : Nat) (stale : List Nat) (e : Stamp) :
    newRaised s b stale e = ((formerLost s b stale e).onSeg b (newManager b e)).onNq b (pushFirst e (takeoverWords s b e)) := rfl

/-- The new manager's notice queue after the notice of the lost manager: no read waits for its words, and its capacity stands. -/
theorem formerLost_nq (hb : s.hasSeg b = true) (hne : b ≠ s.mgr) (hs : (s.seg b).nq.stalled = []) (hcap : 4 ≤ (s.seg b).nq.cap) :
    ((formerLost s b stale e).seg b).nq.stalled = [] ∧ 4 ≤ ((formerLost s b stale e).seg b).nq.cap := by
  have hseg : portTrustOnly (idleSegment (s.seg b)) (((takenOver s b stale).stopOwned s.mgr e).seg b) := by
    have h := (tombOnly_stopOwned (takenOver s b stale) s.mgr e).caches.2.2 b
    rwa [seg_takenOver, seg_onSegs_has _ hb] at h
  have hb' : (ownedStopped s b stale e).hasSeg b = true := by
    rw [State.hasSeg, ownedStopped, State.onSeg_length, length_stopOwned]
    exact hb
  have hnq : ((ownedStopped s b stale e).seg b).nq = (s.seg b).nq := by
    rw [ownedStopped, State.seg_onSeg_ne _ _ hne]
    exact (congrArg Segment.nq hseg :)
  have hpush := (congrArg Segment.nq (seg_onNq hb' (qPushAll e (lostWords s b stale e))) :)
  have hwords := endsWith_qPushAll e (words := lostWords s b stale e) (l := []) (q := (s.seg b).nq) ⟨List.nil_suffix, hs⟩
    (by rw [List.length_nil, Nat.zero_add]; exact hcap)
  rw [formerLost_eq, hpush, hnq]
  exact ⟨hwords.stalled, (sameShape_qPushAll _ _ _).1.symm ▸ hcap⟩

/-- The new manager's segment serves, and has MANAGER_TAKEOVER first in its notice queue where no read waits for its words. -/
theorem newRaised_seg (hb : s.hasSeg b = true) (hne : b ≠ s.mgr) : ((newRaised s b stale e).seg b).state = .serving ∧
    ((newRaised s b stale e).seg b).hbFrom = b ∧
    ((s.seg b).nq.stalled = [] → 4 ≤ (s.seg b).nq.cap →
      (((newRaised s b stale e).seg b).nq.words.take 4).map (·.data) = (takeoverWords s b e).map (· % 2 ^ 64)) := by
  have hb' : (formerLost s b stale e).hasSeg b = true := by
    rw [State.hasSeg, length_formerLost]
    exact hb
  have hb'' : ((formerLost s b stale e).onSeg b (newManager b e)).hasSeg b = true := by
    rw [State.hasSeg, State.onSeg_length]
    exact hb'
  have h := seg_onNq hb'' (pushFirst e (takeoverWords s b e))
  rw [State.seg_onSeg_eq _ _ hb', ← newRaised_eq] at h
  refine ⟨(congrArg Segment.state h :), (congrArg Segment.hbFrom h :), fun hs hcap => ?_⟩
  obtain ⟨hs, hcap⟩ := formerLost_nq stale e hb hne hs hcap
  rw [(congrArg (fun g : Segment => g.nq.words) h :)]
  exact take_pushFirst e (words := takeoverWords s b e) (q := { ((formerLost s b stale e).seg b).nq with owner := false }) hs hcap

/-- The former manager's segment is lost. -/
theorem newRaised_former (hne : b ≠ s.mgr) :
    ((newRaised s b stale e).seg s.mgr).state = if s.hasSeg s.mgr then .lost else .held := by
  have hraised : ((newRaised s b stale e).seg s.mgr).state = ((formerLost s b stale e).seg s.mgr).state := by
    have h := othersAnswered_onNq ((formerLost s b stale e).onSeg b (newManager b e)) b (pushFirst e (takeoverWords s b e)) s.mgr hne.symm
    rw [State.seg_onSeg_ne _ _ hne.symm] at h
    exact (congrArg Segment.state h :)
  have hlost : ((formerLost s b stale e).seg s.mgr).state = ((ownedStopped s b stale e).seg s.mgr).state := by
    rw [formerLost_eq]
    exact (congrArg Segment.state ((noticesOnly_onNq (ownedStopped s b stale e) b (qPushAll e (lostWords s b stale e))).2.2 s.mgr) :)
  have hlen := length_stopOwned s b stale e
  rw [hraised, hlost]
  by_cases hm : s.hasSeg s.mgr = true
  · have hm' : ((takenOver s b stale).stopOwned s.mgr e).hasSeg s.mgr = true := by
      rw [State.hasSeg, hlen]
      exact hm
    rw [if_pos hm]
    exact congrArg Segment.state (State.seg_onSeg_eq _ (lostSegment 0x01) hm')
  · rw [if_neg hm]
    refine congrArg Segment.state (List.getD_eq_default _ _ ?_)
    rw [ownedStopped, State.onSeg_length, hlen]
    simpa [State.hasSeg] using hm

end Takeover

theorem exec_takeover {s : State} {b : Nat} (cyc : Nat) (stale : List Nat) (hb : s.roles.mirrorSeg = some b) (hs : (s.seg b).state = .fenced)
    (hr : (s.seg b).fenceReason = 0x01) (hage : (s.seg b).lastHb + 48 ≤ s.time.beat) (hhush : s.power.hush = 0) :
    exec (.takeover cyc stale) s = .next (if s.mayTakeOver then (s.given (s.stampFor cyc)).takeOver b stale (s.stampFor cyc) else s.unconfirmed b) := by
  show execTakeover cyc stale s = _
  simp only [execTakeover, hb, onlyIf, hs, hr, hage, hhush]
  rfl

/-- What a takeover leaves (R367). -/
theorem takeOver_leaves {s : State} {b : Nat} (stale : List Nat) (e : Stamp)
    (h : ∀ x ∈ s.objs.eps, x.transfers = []) :
    (s.takeOver b stale e).roles = { manager := b, recovering := some (s.time.beat + 4000), announce := true } ∧
      (s.takeOver b stale e).seqs = [] ∧ (s.takeOver b stale e).tenants = s.mirror.applied.tenants ∧
      (s.takeOver b stale e).objs.staged = [] ∧ (s.takeOver b stale e).cnt.takeovers = s.cnt.takeovers + 1 ∧
      (s.takeOver b stale e).time.beat = s.time.beat ∧ (∀ q c, (s.takeOver b stale e).stepOf q c = none) ∧
      ∀ j, (s.takeOver b stale e).seg j = (newRaised s b stale e).seg j := by
  have hnew := newRaised_tookOver s b stale e
  have heps : ∀ x ∈ (newRaised s b stale e).objs.eps, x.transfers = [] := by
    rw [hnew.eps]
    intro x hx
    obtain ⟨y, hy, rfl⟩ := List.mem_map.mp hx
    exact h y hy
  rw [takeOver_eq b stale e heps]
  generalize newRaised s b stale e = t at hnew ⊢
  exact ⟨hnew.roles, hnew.seqs, hnew.tenants, hnew.staged, congrArg (· + 1) hnew.takeovers, hnew.beat, hnew.idle, fun _ => rfl⟩

/-! The end of a recovery and the naming of a standby (R291, R367, R369). -/

/-- A segment whose queues are NORMAL and drained by the manager again. -/
noncomputable def normalSegment (e : Stamp) (g : Segment) : Segment :=
  { holdQueues e false g with nq := { (holdQueues e false g).nq with owner := false } }

theorem normalSegment_leaves {g : Segment} (e : Stamp) (h : g.trust.testHeld = false) :
    (normalSegment e g).nq.hold = false ∧ (normalSegment e g).nq.owner = false ∧ (normalSegment e g).state = g.state :=
  ⟨(hold_qMode ..).trans h, rfl, rfl⟩

theorem hasSeg_of_serving {s : State} {i : Nat} (h : (s.seg i).state = .serving) : s.hasSeg i = true := by
  by_contra hn
  rw [show s.seg i = {} from List.getD_eq_default _ _ (by simpa [State.hasSeg] using hn)] at h
  exact SegState.noConfusion h

theorem seg_queuesNormal (s : State) (pick : Nat → Bool) {i : Nat} (hi : (pick i && (s.seg i).state == .serving) = true)
    (hseg : s.hasSeg i = true) : (s.queuesNormal pick).seg i = normalSegment s.now (s.seg i) := by
  refine (seg_onSegs_has _ hseg).trans ?_
  show (if pick i && (s.seg i).state == .serving then _ else _) = _
  rw [if_pos hi]
  rfl

theorem seg_queuesNormal_other (s : State) (pick : Nat → Bool) {i : Nat} (hi : (pick i && (s.seg i).state == .serving) = false) :
    (s.queuesNormal pick).seg i = s.seg i := by
  rcases Nat.lt_or_ge i s.segs.length with h | h
  · refine (seg_onSegs s _ h).trans ?_
    show (if pick i && (s.seg i).state == .serving then _ else _) = _
    rw [hi]
    rfl
  · exact seg_onSegs_absent s _ h

/-- The block at the end of a recovery, its endpoints' and its segments' queues NORMAL. -/
noncomputable def recovered (s : State) : State := ((s.queuesNormal (fun i => !s.roles.farHalf.contains i)).endpointMode false)

/-- Stalled reads that are answered leave all of a segment but its answers. -/
theorem settled_nq (s : State) (j : Nat) :
    answersOnly { s.seg j with nq := { (s.seg j).nq with answers := (s.settleReads.seg j).nq.answers } } (s.settleReads.seg j) := by
  have cleared : ∃ A, (if s.segs.any (fun g => !g.nq.answers.isEmpty) then
      s.onSegs (fun _ g => { g with nq := { g.nq with answers := [] } }) else s).seg j =
        { s.seg j with nq := { (s.seg j).nq with answers := A } } := by
    split
    · rcases Nat.lt_or_ge j s.segs.length with hj | hj
      · exact ⟨[], seg_onSegs s _ hj⟩
      · exact ⟨_, seg_onSegs_absent s _ hj⟩
    · exact ⟨_, rfl⟩
  obtain ⟨A, hA⟩ := cleared
  have hanswered : answersOnly { s.seg j with nq := { (s.seg j).nq with answers := A } } (s.settleReads.seg j) := by
    rw [← hA]
    unfold State.settleReads
    refine answersOnly_trans ?_ (answersOnly_answerReads _ _ j)
    dsimp only
    generalize (if s.segs.any (fun g => !g.nq.answers.isEmpty) then
      s.onSegs (fun _ g => { g with nq := { g.nq with answers := [] } }) else s) = t
    split
    · exact answersOnly_refl _
    · exact answersOnly_refl _
  rwa [show (s.settleReads.seg j).nq.answers = A from (congrArg (fun g : Segment => g.nq.answers) hanswered :)]

theorem exec_recoveryEnd {s : State} {b : Nat} (h : s.roles.recovering = some b) :
    exec .recoveryEnd s = .next { (recovered s).settleReads with roles := { (recovered s).settleReads.roles with recovering := none } } := by
  show execRecoveryEnd s = _
  rw [execRecoveryEnd, h]
  rfl

theorem exec_standbyNaming {s : State} {i : Nat} (hup : s.mgrUp = true) (hk : s.cfg.kind.hasStandby = true) (hs : s.roles.standby = none)
    (hc : s.roles.candidate = none) (hsplit : s.roles.splitState = 0 ∨ s.roles.splitState = 3) (hfirst : s.firstStandbyComes = false)
    (hi : s.eligible i = true) (hj : ∀ j, j < i → s.eligible j = false) : exec .standbyNaming s = .next (s.nameStandby i) := by
  have hlt : i < s.segs.length := by
    simp only [State.eligible, State.serving, Bool.and_eq_true] at hi
    obtain ⟨⟨⟨⟨-, hserving, -⟩, -⟩, -⟩, -⟩ := hi
    exact of_decide_eq_true (hasSeg_of_serving (beq_iff_eq.mp hserving))
  have hfind : (List.range s.segs.length).find? s.eligible = some i := by
    rw [List.find?_range_eq_some]
    exact ⟨hi, List.mem_range.mpr hlt, fun j h => by rw [hj j h]; rfl⟩
  have hstate : (s.roles.splitState == 0 || s.roles.splitState == 3) = true := by
    rcases hsplit with h | h <;> rw [h] <;> rfl
  show execStandbyNaming s = _
  simp only [execStandbyNaming, hfind, onlyIf, hup, hk, hs, hc, hstate, hfirst]
  rfl

theorem recovered_leaves {s : State} {b : Nat} (h : s.roles.recovering = some b) :
    ∃ t, exec .recoveryEnd s = .next t ∧ t.roles = { s.roles with recovering := none } ∧
      (∀ i, i ∉ s.roles.farHalf → (s.seg i).state = .serving → (s.seg i).trust.testHeld = false →
        (t.seg i).nq.hold = false ∧ (t.seg i).nq.owner = false ∧ (t.seg i).state = .serving) ∧
      (∀ i, (i ∈ s.roles.farHalf ∨ (s.seg i).state ≠ .serving) →
        answersOnly { s.seg i with nq := { (s.seg i).nq with answers := (t.seg i).nq.answers } } (t.seg i)) ∧
      t = { s with segs := t.segs, roles := t.roles, objs := t.objs } := by
  have hseg (i : Nat) : (recovered s).seg i = (s.queuesNormal (fun i => !s.roles.farHalf.contains i)).seg i := rfl
  have hroles : (recovered s).roles = s.roles := rfl
  obtain ⟨E, hE⟩ := settleReads_fields (recovered s)
  refine ⟨_, exec_recoveryEnd h, ?_, fun i hfar hs ht => ?_, fun i hi => ?_, ?_⟩
  · show { (recovered s).settleReads.roles with recovering := none } = _
    have hr := (congrArg State.roles hE :)
    rw [hr, ← hroles]
  · have hpick : (!s.roles.farHalf.contains i && (s.seg i).state == .serving) = true := by simp [hfar, hs]
    have hnormal := normalSegment_leaves s.now ht
    rw [← seg_queuesNormal s (fun i => !s.roles.farHalf.contains i) hpick (hasSeg_of_serving hs), ← hseg] at hnormal
    have hread := settled_nq (recovered s) i
    obtain ⟨hhold, howner, hstate⟩ := hnormal
    exact ⟨(congrArg (fun g : Segment => g.nq.hold) hread :).trans hhold, (congrArg (fun g : Segment => g.nq.owner) hread :).trans howner,
      ((congrArg Segment.state hread :).trans hstate).trans hs⟩
  · have hpick : (!s.roles.farHalf.contains i && (s.seg i).state == .serving) = false := by
      rcases hi with hi | hi
      · simp [hi]
      · simp [hi]
    have hread := settled_nq (recovered s) i
    rw [hseg, seg_queuesNormal_other s (fun i => !s.roles.farHalf.contains i) hpick] at hread
    exact hread
  · show _ = _
    rw [hE]
    rfl

/-- Settles O49. -/
theorem silence : Obligations.Silence := by
  unfold Obligations.Silence
  refine ⟨fun s i hm hs hb hhush hfar => ?_, ⟨fun s hm hup hlen hhush hiso h => ?_, fun s hup hlen hhush hiso => exec_managerSelfFence hup hlen hhush hiso⟩,
    ⟨fun s i hi hup => exec_confirm hi hup, fun s i silent hi => ?_⟩, fun s cyc b stale hb hs hr hage hhush => ?_, fun s b h => recovered_leaves h,
    fun s i hup hk hstandby hc hsplit hfirst hi hj => exec_standbyNaming hup hk hstandby hc hsplit hfirst hi hj⟩
  · obtain ⟨t, hexec, hsent, hother, hmirror, ht⟩ := fence_leaves hm hs hb hhush hfar
    have hleft := (fencedIn_seg (hasSeg_of_serving hs)).sent (hsent i)
    have hstandby (h : s.roles.standby = some i) : s.roles.mirrorSeg = some i := by rw [Roles.mirrorSeg, h]; rfl
    refine ⟨t, hexec, hleft.state, hleft.reason, hleft.steps, hleft.allocs, hleft.kernels, hleft.nqHold, hleft.owner, hleft.inHold,
      hleft.outHold, hleft.stack, hleft.staging, hleft.trust, fun j hj => ⟨_, othersAnswered_fencedIn s i j hj, hsent j⟩, fun h => ?_, fun h => ?_, ht⟩
    · rw [hother h]
      exact ⟨(congrArg State.roles (fencedIn_eq s i) :), (congrArg State.mirror (fencedIn_eq s i) :), othersAnswered_fencedIn s i⟩
    · obtain ⟨hconfirm, hcurrent⟩ := hmirror (hstandby h)
      refine ⟨hconfirm, hcurrent.trans (if_pos ?_)⟩
      rw [h]
      rfl
  · obtain ⟨t, ht, hleft⟩ := selfFence_leaves hm h
    exact ⟨t, ht ▸ exec_managerSelfFence hup hlen hhush hiso, hleft⟩
  · obtain ⟨hsilent, hsalive, halive, hasilent⟩ := confirm_take s.roles.confirm i
    refine ⟨_, exec_confirmAnswer hi, ?_, ?_, rfl, rfl⟩
    · rintro rfl
      exact ⟨hsilent, hsalive⟩
    · rintro rfl
      exact ⟨halive, hasilent⟩
  · have hexec := exec_takeover cyc stale hb hs hr hage hhush
    refine ⟨fun hmay hseg hne heps => ?_, fun hmay => ?_, fun hmay => ?_⟩
    · rw [hmay] at hexec
      obtain ⟨hroles, hseqs, htenants, hstaged, hcount, hbeat, hidle, hsegs⟩ := takeOver_leaves (s := s.given (s.stampFor cyc)) (b := b) stale (s.stampFor cyc) heps
      obtain ⟨hstate, hfrom, hwords⟩ := newRaised_seg (s := s.given (s.stampFor cyc)) stale (s.stampFor cyc) hseg hne
      have hformer := newRaised_former (s := s.given (s.stampFor cyc)) stale (s.stampFor cyc) hne
      rw [← hsegs] at hstate hfrom hwords hformer
      exact ⟨_, hexec, hroles, hseqs, htenants, hstaged, hstate, hfrom, hformer, hcount, hwords, hbeat, hidle⟩
    · rw [hmay] at hexec
      exact hexec
    · rw [hmay] at hexec
      exact hexec

end Sys2Proof.Proofs
end
section
/-! Notice queues: host accesses, pushes on a full queue, and the drain (R284 to R295). -/

namespace Sys2Proof.Proofs

open Sys2Proof Sys2Proof.Machine

/-! What the operations of a queue leave. -/

/-- A queue stands but for its marks, their crossings, and the latchings it owes. -/
def marksMoved (q r : WordQ) : Prop := r = { q with
  high := r.high, low := r.low, newMarks := r.newMarks, highLatched := r.highLatched, lowLatched := r.lowLatched,
  highCross := r.highCross, lowCross := r.lowCross, highAt := r.highAt, lowAt := r.lowAt, owe := r.owe }

theorem marksMoved_qTick (a : Stamp) (q : WordQ) : marksMoved q (qTick a q) := by
  unfold qTick
  split
  · split
    · rfl
    · rfl
  · rfl

theorem marksMoved_qCross (a : Stamp) (n : Nat) (q : WordQ) : marksMoved q (qCross a n q) := by
  unfold qCross
  dsimp only
  split
  · split
    · rfl
    · rfl
  · split
    · rfl
    · rfl

/-- Marks that are in force stand. -/
theorem qTick_none {a : Stamp} {q : WordQ} (h : ∀ m, q.newMarks = some m → before m.1 a = false) : qTick a q = q := by
  unfold qTick
  split
  · next m hm => exact if_neg (by rw [h m hm]; exact Bool.false_ne_true)
  · rfl

theorem newMarks_qCross (a : Stamp) (n : Nat) (q : WordQ) :
    (qCross a n q).high = q.high ∧ (qCross a n q).low = q.low ∧ (qCross a n q).newMarks = q.newMarks := by
  unfold qCross
  dsimp only
  split
  · split
    · exact ⟨rfl, rfl, rfl⟩
    · exact ⟨rfl, rfl, rfl⟩
  · split
    · exact ⟨rfl, rfl, rfl⟩
    · exact ⟨rfl, rfl, rfl⟩

/-- A read of a queue on which no word was pushed in the cycle is a pop (R289). -/
theorem qRead_quiet {a : Stamp} {q : WordQ} (h : q.quietAt a) : qRead a q = qPop a q := by
  unfold qRead
  split
  · next m hm => exact if_neg (by simpa using h m hm)
  · rfl

theorem pushedAt_quiet {a : Stamp} {q : WordQ} (h : q.quietAt a) : q.pushedAt a = none := by
  unfold WordQ.pushedAt
  split
  · next m hm => exact if_neg (by simpa using h m hm)
  · rfl

theorem pushedAt_now {a : Stamp} {q : WordQ} {m : PushMark} (hm : q.pushed = some m) (ha : m.stamp = a) : q.pushedAt a = some m := by
  unfold WordQ.pushedAt
  rw [hm]
  exact if_pos (beq_iff_eq.mpr ha)

/-- The pop of a word delivers it (R284). -/
theorem qPop_word (a : Stamp) {q : WordQ} {w : QWord} {rest : List QWord} (h : q.words = w :: rest) :
    (qPop a q).1 = w.read ∧ (qPop a q).2.words = rest ∧ (qPop a q).2.answers = q.answers ∧ (qPop a q).2.pushed = none := by
  have hw : (qTick a q).words = w :: rest := (congrArg WordQ.words (marksMoved_qTick a q) :).trans h
  have ha : (qTick a q).answers = q.answers := (congrArg WordQ.answers (marksMoved_qTick a q) :)
  unfold qPop
  dsimp only
  rw [hw]
  have hcross := marksMoved_qCross a (qTick a q).depth (qTaken w { qTick a q with words := rest })
  exact ⟨rfl, (congrArg WordQ.words hcross :), (congrArg WordQ.answers hcross :).trans ha, (congrArg WordQ.pushed hcross :)⟩

/-- The read of an empty queue in NORMAL gives the last value with UNDERRUN (R288). -/
theorem qPop_empty (a : Stamp) {q : WordQ} (h : q.words = []) :
    (qPop a q).1 = { data := q.lastData, underrun := true } ∧ (qPop a q).2 = (qEmptyRead a (qTick a q)).2 := by
  have hw : (qTick a q).words = [] := (congrArg WordQ.words (marksMoved_qTick a q) :).trans h
  have hd : (qTick a q).lastData = q.lastData := (congrArg WordQ.lastData (marksMoved_qTick a q) :)
  unfold qPop
  dsimp only
  rw [hw]
  refine ⟨?_, rfl⟩
  rw [← hd]
  rfl

/-! Requests on a segment's own target channel (R401). -/

section Requests
variable {s : State} {i tag : Nat}

theorem inSecond_of_segUp (h : s.segUp i = true) : s.inSecond i = false := by
  simp only [State.segUp, Bool.and_eq_true, Bool.not_eq_true'] at h
  exact h.2

theorem onRequest_eq (cyc : Nat) (f : State → State) (hup : s.segUp i = true) (htag : s.takesReq i tag = true) :
    s.onRequest ⟨cyc, i, tag⟩ f = .next (f ((s.onCycle cyc).acceptReq i tag)) := by
  unfold State.onRequest
  rw [inSecond_of_segUp hup, State.inBlockOf_here]
  exact congrArg Host.Outcome.next (if_pos (by rw [hup, htag]; rfl))

theorem onNq_settled (s : State) (i : Nat) {q : WordQ} (hq : q.answers = []) :
    s.onNq i (fun _ => q) = s.onSeg i (fun g => { g with nq := q }) := by
  unfold State.onNq
  dsimp only
  rw [hq]
  refine State.onSeg_congr _ _ _ _ ?_
  rw [← hq]

/-- A segment whose port has taken a request and answered it. -/
noncomputable def repliedSegment (tag d : Nat) (q : WordQ) (g : Segment) : Segment :=
  { g with nq := q, port := { g.port with reqTag := tag, rspTag := tag, rspStatus := 0, rspData := d } }

/-- The answer to a request that leaves the notice queue as given, no other read being answered. -/
theorem replied (cyc d : Nat) {q : WordQ} (hseg : s.hasSeg i = true) (htag : s.takesReq i tag = true) (hq : q.answers = []) :
    (((s.onCycle cyc).acceptReq i tag).onNq i (fun _ => q)).respond i 0 d = (s.onCycle cyc).onSeg i (repliedSegment tag d q) := by
  have hbusy : (s.seg i).port.busy.contains tag = false := by
    simp only [State.takesReq, Bool.and_eq_true, Bool.not_eq_true'] at htag
    exact htag.1
  have hnq : ((s.onCycle cyc).acceptReq i tag).onNq i (fun _ => q) = (s.onCycle cyc).onSeg i (fun g => { g with
      nq := q, port := { g.port with reqTag := tag, busy := g.port.busy ++ [tag] } }) :=
    (onNq_settled _ i hq).trans (State.onSeg_onSeg ..)
  rw [hnq]
  unfold State.respond State.respondTo
  rw [State.seg_onSeg_eq (s.onCycle cyc) _ hseg]
  refine (if_neg (by simp)).trans ((State.onSeg_onSeg ..).trans (State.onSeg_congr _ _ _ _ ?_))
  have hfilter : ((s.seg i).port.busy ++ [tag]).filter (· != tag) = (s.seg i).port.busy := by
    rw [List.filter_append, List.filter_eq_self.mpr fun x hx => ?_]
    · simp
    · simp only [bne_iff_ne]
      rintro rfl
      simp [hx] at hbusy
  exact congrArg (fun l => { s.seg i with
    nq := q, port := { (s.seg i).port with reqTag := tag, rspTag := tag, rspStatus := 0, rspData := d, busy := l } }) hfilter

theorem answersOnly_nq {g h : Segment} (q : WordQ) (a : answersOnly g h) : answersOnly { g with nq := q } { h with nq := q } := by
  unfold answersOnly at *
  rw [a]

theorem answersOnly_respond (s : State) (i status data j : Nat) : answersOnly (s.seg j) ((s.respond i status data).seg j) :=
  answersOnly_respondTo ..

/-- A request that changes the notice queue, whose stalled reads may be answered. -/
theorem settledNq (cyc : Nat) (f : WordQ → WordQ) (hseg : s.hasSeg i = true) :
    ∃ t, ((((s.onCycle cyc).acceptReq i tag).onNq i f).respond i 0 0) = t ∧ (t.seg i).nq = { f (s.seg i).nq with answers := [] } ∧
      answersOnly { s.seg i with nq := (t.seg i).nq } (t.seg i) ∧ othersAnswered i s t ∧ t = { s.onCycle cyc with segs := t.segs } := by
  have hseg' : ((s.onCycle cyc).acceptReq i tag).hasSeg i = true := by
    rw [State.hasSeg, State.acceptReq, State.onSeg_length]
    exact hseg
  have hacc : answersOnly (s.seg i) (((s.onCycle cyc).acceptReq i tag).seg i) := by
    rw [State.acceptReq, State.seg_onSeg_eq (s.onCycle cyc) _ hseg]
    rfl
  have hnq := seg_onNq hseg' f
  have hsegi := answersOnly_trans hnq (answersOnly_respond _ i 0 0 i)
  have hother := othersAnswered_onNq ((s.onCycle cyc).acceptReq i tag) i f
  obtain ⟨heq, -, -⟩ := noticesOnly.trans (noticesOnly_onNq ((s.onCycle cyc).acceptReq i tag) i f) (noticesOnly_respondTo (((s.onCycle cyc).acceptReq i tag).onNq i f) i ((((s.onCycle cyc).acceptReq i tag).onNq i f).seg i).port.reqTag 0 0)
  have hq : (((s.onCycle cyc).acceptReq i tag).seg i).nq = (s.seg i).nq := (congrArg Segment.nq hacc :)
  rw [hq] at hsegi
  have hq' := (congrArg Segment.nq hsegi :)
  refine ⟨_, rfl, hq', ?_, fun j hj => ?_, heq⟩
  · rw [hq']
    exact answersOnly_trans (answersOnly_nq _ hacc) hsegi
  · have h0 : ((s.onCycle cyc).acceptReq i tag).seg j = s.seg j := State.seg_onSeg_ne _ _ hj
    rw [← h0]
    exact answersOnly_trans (hother j hj) (answersOnly_respond _ i 0 0 j)

theorem seg_acceptReq (cyc : Nat) (hup : s.segUp i = true) :
    (((s.onCycle cyc).acceptReq i tag).seg i).nq = (s.seg i).nq ∧ (((s.onCycle cyc).acceptReq i tag).seg i).port.reqTag = tag := by
  rw [State.acceptReq, State.seg_onSeg_eq (s.onCycle cyc) _ (hasSeg_of_segUp hup)]
  exact ⟨rfl, rfl⟩

/-- A read of QDATA that does not stall delivers what the queue gives (R288, R292). -/
theorem exec_qdataRead {cyc : Nat} {r : QRead × WordQ} (hup : s.segUp i = true) (htag : s.takesReq i tag = true)
    (howner : (s.seg i).nq.owner = true) (hstall : (s.seg i).nq.stalls (s.onCycle cyc).now = false)
    (hr : qRead (s.onCycle cyc).now (s.seg i).nq = r) (hans : r.2.answers = []) :
    exec (.qdataRead ⟨cyc, i, tag⟩) s = .next ((s.onCycle cyc).onSeg i (repliedSegment tag r.1.data (qLast r.1 false r.2))) := by
  refine (onRequest_eq cyc (fun s => s.readQdata i i) hup htag).trans (congrArg Host.Outcome.next ?_)
  have hnow : ((s.onCycle cyc).acceptReq i tag).now = (s.onCycle cyc).now := rfl
  unfold State.readQdata
  dsimp only
  rw [(seg_acceptReq cyc hup).1, howner, hnow, hstall, hr]
  exact replied cyc r.1.data (hasSeg_of_segUp hup) htag hans

/-- What a read of QDATA leaves of a segment. -/
theorem replied_leaves {t : State} {cyc d : Nat} {q : WordQ} (hup : s.segUp i = true)
    (ht : t = (s.onCycle cyc).onSeg i (repliedSegment tag d q)) :
    (t.seg i).port.rspTag = tag ∧ (t.seg i).port.rspStatus = 0 ∧ (t.seg i).port.rspData = d ∧ (t.seg i).port.busy = (s.seg i).port.busy ∧
      (t.seg i).nq = q ∧ answersOnly { s.seg i with nq := (t.seg i).nq } (t.seg i) ∧ othersAnswered i s t ∧ t = { s.onCycle cyc with segs := t.segs } := by
  have hseg : t.seg i = repliedSegment tag d q (s.seg i) := by
    rw [ht]
    exact State.seg_onSeg_eq (s.onCycle cyc) _ (hasSeg_of_segUp hup)
  rw [hseg]
  refine ⟨rfl, rfl, rfl, rfl, rfl, rfl, fun j hj => ?_, ht ▸ rfl⟩
  rw [ht, State.seg_onSeg_ne _ _ hj]
  exact answersOnly_refl _

theorem stalls_quiet {a : Stamp} {q : WordQ} (h : q.quietAt a) : q.stalls a = (q.hold && q.words.isEmpty) := by
  unfold WordQ.stalls
  rw [pushedAt_quiet h]
  exact Bool.and_true _

theorem qdataRead_word {cyc : Nat} {w : QWord} {rest : List QWord} (hup : s.segUp i = true) (htag : s.takesReq i tag = true)
    (howner : (s.seg i).nq.owner = true) (hw : (s.seg i).nq.words = w :: rest) (hq : (s.seg i).nq.quietAt (s.onCycle cyc).now)
    (hans : (s.seg i).nq.answers = []) :
    ∃ t, exec (.qdataRead ⟨cyc, i, tag⟩) s = .next t ∧ (t.seg i).port.rspTag = tag ∧ (t.seg i).port.rspStatus = 0 ∧
      (t.seg i).port.rspData = w.data ∧ (t.seg i).port.busy = (s.seg i).port.busy ∧
      (t.seg i).nq.words = rest ∧ (t.seg i).nq.lastEor = w.eor ∧ (t.seg i).nq.lastTorn = w.torn ∧
      (t.seg i).nq.lastPoison = w.poison ∧ (t.seg i).nq.lastUnderrun = false ∧
      answersOnly { s.seg i with nq := (t.seg i).nq } (t.seg i) ∧ othersAnswered i s t ∧ t = { s.onCycle cyc with segs := t.segs } := by
  obtain ⟨hread, hwords, hanswers, -⟩ := qPop_word (s.onCycle cyc).now hw
  have hexec := exec_qdataRead hup htag howner (by rw [stalls_quiet hq, hw]; exact Bool.and_false _) (qRead_quiet hq) (hanswers.trans hans)
  rw [hread] at hexec
  obtain ⟨htag, hstatus, hdata, hbusy, hnq, hleft⟩ := replied_leaves hup rfl
  refine ⟨_, hexec, htag, hstatus, hdata, hbusy, ?_⟩
  rw [hnq] at hleft ⊢
  exact ⟨hwords, rfl, rfl, rfl, rfl, hleft⟩

theorem qdataRead_underrun {cyc : Nat} (hup : s.segUp i = true) (htag : s.takesReq i tag = true) (howner : (s.seg i).nq.owner = true)
    (hw : (s.seg i).nq.words = []) (hhold : (s.seg i).nq.hold = false) (hq : (s.seg i).nq.quietAt (s.onCycle cyc).now)
    (hans : (s.seg i).nq.answers = []) :
    ∃ t, exec (.qdataRead ⟨cyc, i, tag⟩) s = .next t ∧ (t.seg i).port.rspTag = tag ∧ (t.seg i).port.rspStatus = 0 ∧
      (t.seg i).port.rspData = (s.seg i).nq.lastData ∧
      (t.seg i).nq.words = [] ∧ (t.seg i).nq.underrun = true ∧ (t.seg i).nq.lastUnderrun = true ∧ (t.seg i).nq.lastTimeout = false ∧
      answersOnly { s.seg i with nq := (t.seg i).nq } (t.seg i) ∧ othersAnswered i s t ∧ t = { s.onCycle cyc with segs := t.segs } := by
  obtain ⟨hread, hleftq⟩ := qPop_empty (s.onCycle cyc).now hw
  have htick := marksMoved_qTick (s.onCycle cyc).now (s.seg i).nq
  have hexec := exec_qdataRead hup htag howner (by rw [stalls_quiet hq, hhold]; rfl) (qRead_quiet hq)
    (by rw [hleftq]; exact (congrArg WordQ.answers htick :).trans hans)
  rw [hread, hleftq] at hexec
  obtain ⟨htag, hstatus, hdata, -, hnq, hleft⟩ := replied_leaves hup rfl
  refine ⟨_, hexec, htag, hstatus, hdata, ?_⟩
  rw [hnq] at hleft ⊢
  exact ⟨(congrArg WordQ.words htick :).trans hw, rfl, rfl, rfl, hleft⟩

theorem qdataRead_stalls {cyc : Nat} (hup : s.segUp i = true) (htag : s.takesReq i tag = true) (howner : (s.seg i).nq.owner = true)
    (hw : (s.seg i).nq.words = []) (hhold : (s.seg i).nq.hold = true) (hans : (s.seg i).nq.answers = [])
    (hq : (s.seg i).nq.quietAt (s.onCycle cyc).now) :
    exec (.qdataRead ⟨cyc, i, tag⟩) s = .next (((s.onCycle cyc).acceptReq i tag).onSeg i (fun g => { g with nq := { g.nq with
      stalled := g.nq.stalled ++ [{ since := (s.onCycle cyc).now, port := i, tag := tag }] } })) := by
  refine (onRequest_eq cyc (fun s => s.readQdata i i) hup htag).trans (congrArg Host.Outcome.next ?_)
  have hstall : (s.seg i).nq.stalls (s.onCycle cyc).now = true := by rw [stalls_quiet hq, hhold, hw]; rfl
  have hnow : ((s.onCycle cyc).acceptReq i tag).now = (s.onCycle cyc).now := rfl
  obtain ⟨hnq, hreq⟩ := seg_acceptReq (tag := tag) cyc hup
  unfold State.readQdata
  dsimp only
  rw [hnq, howner, hnow, hstall, hreq]
  show State.onNq _ i _ = _
  unfold State.onNq
  dsimp only
  rw [hnq, show (qStall (s.onCycle cyc).now i tag (s.seg i).nq).answers = [] from hans]
  refine State.onSeg_congr _ _ _ _ ?_
  rw [hnq, qStall, ← hans]

/-- A push and a pop of one cycle (R289). -/
theorem qBoth_cases (a : Stamp) (m : PushMark) (q : WordQ) :
    (∀ w rest, m.words = w :: rest → (qBoth a m q).1 = w.read ∧ (qBoth a m q).2.words = rest ++ [m.word] ∧ (qBoth a m q).2.lost = m.lost) ∧
    (m.words = [] → q.hold = true → (qBoth a m q).1 = m.word.read ∧ (qBoth a m q).2.words = []) ∧
    (m.words = [] → q.hold = false → (qBoth a m q).1 = { data := q.lastData, underrun := true } ∧ (qBoth a m q).2.words = [m.word]) ∧
    (qBoth a m q).2.answers = q.answers := by
  have hempty (hw : m.words = []) : qBoth a m q = if q.hold then (m.word.read, qTaken m.word (qUnpushed m q)) else
      ((qEmptyRead a (qUnpushed m q)).1, qCross a 0 { (qEmptyRead a (qUnpushed m q)).2 with words := [m.word] }) := by
    unfold qBoth
    dsimp only [qUnpushed]
    rw [hw]
  have hcross := marksMoved_qCross a 0 { (qEmptyRead a (qUnpushed m q)).2 with words := [m.word] }
  have hword (w : QWord) (rest : List QWord) (hw : m.words = w :: rest) :
      qBoth a m q = (w.read, qTaken w { qUnpushed m q with words := rest ++ [m.word] }) := by
    unfold qBoth
    dsimp only [qUnpushed]
    rw [hw]
  refine ⟨fun w rest hw => ?_, fun hw hhold => ?_, fun hw hhold => ?_, ?_⟩
  · rw [hword w rest hw]
    exact ⟨rfl, rfl, rfl⟩
  · rw [hempty hw, hhold]
    exact ⟨rfl, hw⟩
  · rw [hempty hw, hhold]
    exact ⟨rfl, (congrArg WordQ.words hcross :)⟩
  · cases hw : m.words with
    | cons w rest => rw [hword w rest hw]; rfl
    | nil =>
      rw [hempty hw]
      split
      · rfl
      · exact (congrArg WordQ.answers hcross :)

theorem qdataRead_pushed {cyc : Nat} {m : PushMark} (hup : s.segUp i = true) (htag : s.takesReq i tag = true)
    (howner : (s.seg i).nq.owner = true) (hm : (s.seg i).nq.pushed = some m) (ha : m.stamp = (s.onCycle cyc).now)
    (hans : (s.seg i).nq.answers = []) :
    ∃ t, exec (.qdataRead ⟨cyc, i, tag⟩) s = .next t ∧ (t.seg i).port.rspTag = tag ∧ (t.seg i).port.rspStatus = 0 ∧
      (∀ w rest, m.words = w :: rest → (t.seg i).port.rspData = w.data ∧ (t.seg i).nq.words = rest ++ [m.word] ∧
        (t.seg i).nq.lost = m.lost ∧ (t.seg i).nq.lastUnderrun = false) ∧
      (m.words = [] → (s.seg i).nq.hold = true → (t.seg i).port.rspData = m.word.data ∧ (t.seg i).nq.words = [] ∧
        (t.seg i).nq.lastUnderrun = false) ∧
      (m.words = [] → (s.seg i).nq.hold = false → (t.seg i).port.rspData = (s.seg i).nq.lastData ∧ (t.seg i).nq.words = [m.word] ∧
        (t.seg i).nq.lastUnderrun = true) ∧
      answersOnly { s.seg i with nq := (t.seg i).nq } (t.seg i) ∧ othersAnswered i s t ∧ t = { s.onCycle cyc with segs := t.segs } := by
  have hread : qRead (s.onCycle cyc).now (s.seg i).nq = qBoth (s.onCycle cyc).now m (s.seg i).nq := by
    unfold qRead
    rw [hm]
    exact if_pos (beq_iff_eq.mpr ha)
  have hstall : (s.seg i).nq.stalls (s.onCycle cyc).now = false := by
    unfold WordQ.stalls
    rw [pushedAt_now hm ha]
    exact Bool.and_false _
  obtain ⟨hword, hhold, hnormal, hanswers⟩ := qBoth_cases (s.onCycle cyc).now m (s.seg i).nq
  have hexec := exec_qdataRead hup htag howner hstall hread (hanswers.trans hans)
  obtain ⟨htag, hstatus, hdata, -, hnq, hleft⟩ := replied_leaves hup rfl
  refine ⟨_, hexec, htag, hstatus, fun w rest hw => ?_, fun hw hh => ?_, fun hw hh => ?_, hleft⟩
  · obtain ⟨hr, hwords, hlost⟩ := hword w rest hw
    rw [hdata, hnq, hr]
    exact ⟨rfl, hwords, hlost, rfl⟩
  · obtain ⟨hr, hwords⟩ := hhold hw hh
    rw [hdata, hnq, hr]
    exact ⟨rfl, hwords, rfl⟩
  · obtain ⟨hr, hwords⟩ := hnormal hw hh
    rw [hdata, hnq, hr]
    exact ⟨rfl, hwords, rfl⟩

/-! Writes of the registers of a notice queue (R287, R290, R292). -/

/-- A queue of which reads have ended at `a` keeps its words, and its marks where none is to come into force. -/
structure readsOver (a : Stamp) (q r : WordQ) : Prop where
  cap : r.cap = q.cap
  words : r.words = q.words
  hold : r.hold = q.hold
  lost : r.lost = q.lost
  tornNext : r.tornNext = q.tornNext
  marks : (∀ m, q.newMarks = some m → before m.1 a = false) → r.high = q.high ∧ r.low = q.low ∧ r.newMarks = q.newMarks

theorem readsOver.trans {a : Stamp} {q r x : WordQ} (h : readsOver a q r) (k : readsOver a r x) : readsOver a q x := by
  refine ⟨k.cap.trans h.cap, k.words.trans h.words, k.hold.trans h.hold, k.lost.trans h.lost, k.tornNext.trans h.tornNext, fun hm => ?_⟩
  obtain ⟨hh, hl, hn⟩ := h.marks hm
  obtain ⟨kh, kl, kn⟩ := k.marks (by rwa [hn])
  exact ⟨kh.trans hh, kl.trans hl, kn.trans hn⟩

/-- One stalled read ended as a NORMAL read (R288). -/
noncomputable def endRead (a : Stamp) (q : WordQ) (x : StalledRead) : WordQ :=
  { qLast (qPop a q).1 false (qPop a q).2 with answers := (qPop a q).2.answers ++ [{ port := x.port, tag := x.tag, data := (qPop a q).1.data }] }

theorem readsOver_endRead (a : Stamp) {q : WordQ} (x : StalledRead) (h : q.words = []) : readsOver a q (endRead a q x) := by
  have htick := marksMoved_qTick a q
  unfold endRead
  rw [(qPop_empty a h).2]
  refine ⟨(congrArg WordQ.cap htick :), (congrArg WordQ.words htick :), (congrArg WordQ.hold htick :), (congrArg WordQ.lost htick :), (congrArg WordQ.tornNext htick :), fun hm => ?_⟩
  rw [qTick_none hm]
  exact ⟨rfl, rfl, rfl⟩

/-- Reads that end on an empty queue keep its words, and its marks where none is to come into force (R288). -/
theorem qUnstall_leaves (a : Stamp) {q : WordQ} (h : q.stalled = [] ∨ q.words = []) : readsOver a q (qUnstall a q) := by
  have key (l : List StalledRead) (r : WordQ) (h : l = [] ∨ r.words = []) : readsOver a r (l.foldl (endRead a) r) := by
    induction l generalizing r with
    | nil => exact ⟨rfl, rfl, rfl, rfl, rfl, fun _ => ⟨rfl, rfl, rfl⟩⟩
    | cons x l ih =>
      have hw : r.words = [] := h.resolve_left (List.cons_ne_nil _ _)
      have hx := readsOver_endRead a x hw
      exact hx.trans (ih _ (.inr (hx.words.trans hw)))
  have hkey := key q.stalled { q with stalled := [] } h
  exact ⟨hkey.cap, hkey.words, hkey.hold, hkey.lost, hkey.tornNext, hkey.marks⟩

/-- A flush without a push in its cycle empties the queue (R287). -/
theorem qFlush_quiet {a : Stamp} {q : WordQ} (h : q.quietAt a) : (qFlush a q).words = [] ∧ (qFlush a q).tornNext = true ∧
    (qFlush a q).lost = q.lost ∧ (qFlush a q).cap = q.cap ∧ (q.newMarks = none →
      (qFlush a q).high = q.high ∧ (qFlush a q).low = q.low ∧ (qFlush a q).newMarks = none) := by
  have htick := marksMoved_qTick a q
  have hpush : (qTick a q).pushed = q.pushed := (congrArg WordQ.pushed htick :)
  have hnone : (qTick a q).pushedAt a = none := pushedAt_quiet fun m hm => h m (hpush ▸ hm)
  have hcross := marksMoved_qCross a (qTick a q).depth { qTick a q with words := [], tornNext := true, pushed := none, popped := none }
  have hwords := (congrArg WordQ.words hcross :)
  have hover := qUnstall_leaves a (.inr hwords)
  have hcap := hover.cap.trans ((congrArg WordQ.cap hcross :).trans (congrArg WordQ.cap htick :))
  unfold qFlush
  dsimp only
  rw [hnone]
  refine ⟨hover.words.trans hwords, hover.tornNext.trans (congrArg WordQ.tornNext hcross :),
    hover.lost.trans ((congrArg WordQ.lost hcross :).trans (congrArg WordQ.lost htick :)), hcap, fun hn => ?_⟩
  have ht : qTick a q = q := qTick_none fun m hm => by rw [hn] at hm; exact nomatch hm
  obtain ⟨hh, hl, hm⟩ := newMarks_qCross a (qTick a q).depth { qTick a q with words := [], tornNext := true, pushed := none, popped := none }
  rw [ht] at hh hl hm hover ⊢
  obtain ⟨kh, kl, km⟩ := hover.marks fun m h' => by rw [hm] at h'; exact nomatch hn ▸ h'
  exact ⟨kh.trans hh, kl.trans hl, (km.trans hm).trans hn⟩

/-- A flush with a push in its cycle leaves the pushed word, torn and its parity kept (R287). -/
theorem qFlush_pushed {a : Stamp} {q : WordQ} {m : PushMark} (hm : q.pushed = some m) (ha : m.stamp = a) :
    ∃ w, (qFlush a q).words = [w] ∧ w.data = m.word.data ∧ w.torn = true ∧ w.poison = false ∧ (qFlush a q).tornNext = false ∧
      (qFlush a q).lost = m.lost := by
  have hpush : (qTick a q).pushed = some m := (congrArg WordQ.pushed (marksMoved_qTick a q) :).trans hm
  unfold qFlush
  dsimp only
  rw [pushedAt_now hpush ha]
  have hcross := marksMoved_qCross a (qUnpushed m (qTick a q)).depth { qUnpushed m (qTick a q) with
    words := [{ m.word with torn := true, p := parityOf m.word.data m.word.eor true }], tornNext := false }
  refine ⟨_, (congrArg WordQ.words hcross :), rfl, rfl, ?_, (congrArg WordQ.tornNext hcross :), (congrArg WordQ.lost hcross :)⟩
  exact bne_self_eq_false _

/-- The marks that a write of QCONTROL leaves lie in order (R292). -/
theorem qMarks_order {word cap : Nat} (h : 1 ≤ cap) : (qMarks word cap).1 = clampNat 1 cap (bits 58 48 word) ∧
    (qMarks word cap).2 < (qMarks word cap).1 ∧
    (bits 42 32 word < (qMarks word cap).1 → bits 42 32 word < cap → (qMarks word cap).2 = bits 42 32 word) := by
  have hpos : 1 ≤ clampNat 1 cap (bits 58 48 word) := by
    unfold clampNat
    split
    · exact le_refl 1
    · split
      · exact h
      · omega
  unfold qMarks
  dsimp only
  refine ⟨rfl, ?_, fun hl hc => ?_⟩
  · split
    · assumption
    · omega
  · rw [Nat.min_eq_left (Nat.le_sub_one_of_lt hc), if_pos hl]

/-- What a write of QCONTROL does (R292). -/
theorem qControl_leaves {a : Stamp} {q : WordQ} (word : Nat) (hcap : 1 ≤ q.cap) (hq : q.quietAt a) (hs : q.stalled = [] ∨ q.words = []) :
    ∃ h l, (qControl a word q).hold = bit 0 word ∧ (qControl a word q).newMarks = some (a, h, l) ∧
      h = clampNat 1 q.cap (bits 58 48 word) ∧ l < h ∧ (bits 42 32 word < h → bits 42 32 word < q.cap → l = bits 42 32 word) ∧
      (q.newMarks = none → (qControl a word q).high = q.high ∧ (qControl a word q).low = q.low) ∧
      (qControl a word q).words = (if bit 1 word then [] else q.words) := by
  have htick := marksMoved_qTick a q
  have hquiet : (qTick a q).quietAt a := fun m hm => hq m ((congrArg WordQ.pushed htick :) ▸ hm)
  have hflushed : ∃ r, (if bit 1 word then qFlush a (qTick a q) else qTick a q) = r ∧ r.cap = q.cap ∧
      r.words = (if bit 1 word then [] else q.words) ∧ (r.stalled = [] ∨ r.words = []) ∧
      (q.newMarks = none → r.high = q.high ∧ r.low = q.low) := by
    have hnone (h : q.newMarks = none) : qTick a q = q := qTick_none fun m hm => by rw [h] at hm; exact nomatch hm
    by_cases hb : bit 1 word = true
    · obtain ⟨hw, -, -, hc, hm⟩ := qFlush_quiet hquiet
      refine ⟨_, rfl, ?_⟩
      rw [if_pos hb, if_pos hb]
      refine ⟨hc.trans (congrArg WordQ.cap htick :), hw, .inr hw, fun h => ?_⟩
      rw [hnone h] at hm ⊢
      exact ⟨(hm h).1, (hm h).2.1⟩
    · refine ⟨_, rfl, ?_⟩
      rw [if_neg hb, if_neg hb]
      refine ⟨(congrArg WordQ.cap htick :), (congrArg WordQ.words htick :), hs.imp (stalled_qTick a q).trans (congrArg WordQ.words htick :).trans, fun h => ?_⟩
      rw [hnone h]
      exact ⟨rfl, rfl⟩
  obtain ⟨r, hr, hrcap, hrwords, hrs, hrmarks⟩ := hflushed
  have hcontrol : qControl a word q = qMode a (bit 0 word) { r with newMarks := some (a, qMarks word r.cap) } := by
    unfold qControl
    dsimp only
    rw [hr]
  obtain ⟨horder, hlt, hlow⟩ := qMarks_order (word := word) hcap
  have hmode : (qControl a word q).newMarks = some (a, qMarks word r.cap) ∧ (qControl a word q).high = r.high ∧
      (qControl a word q).low = r.low ∧ (qControl a word q).words = r.words := by
    rw [hcontrol]
    unfold qMode
    dsimp only
    split
    · exact ⟨rfl, rfl, rfl, rfl⟩
    · have hover := qUnstall_leaves a (q := { r with newMarks := some (a, qMarks word r.cap), hold := bit 0 word }) hrs
      obtain ⟨hh, hl, hm⟩ := hover.marks fun m hm => by
        rw [← Option.some.inj hm]
        simp [before]
      exact ⟨hm, hh, hl, hover.words⟩
  obtain ⟨hm, hh, hl, hw⟩ := hmode
  rw [hrcap] at hm
  refine ⟨_, _, hcontrol ▸ hold_qMode .., hm, horder, hlt, hlow, fun h => ?_, hw.trans hrwords⟩
  obtain ⟨ph, pl⟩ := hrmarks h
  exact ⟨hh.trans ph, hl.trans pl⟩

theorem crossedAt_cases (a : Stamp) (c : Option CrossMark) : (∃ m, c = some m ∧ m.stamp = a ∧ crossedAt a c = some m) ∨
    ((∀ m, c = some m → m.stamp ≠ a) ∧ crossedAt a c = none) := by
  cases c with
  | none => exact .inr ⟨fun m h => (nomatch h), rfl⟩
  | some m =>
    by_cases h : m.stamp = a
    · exact .inl ⟨m, rfl, h, if_pos (beq_iff_eq.mpr h)⟩
    · exact .inr ⟨fun m' hm => Option.some.inj hm ▸ h, if_neg (by simpa using h)⟩

/-- A clear of the high latched bit leaves it where the mark is crossed in its cycle (R290). -/
theorem qClearHigh_eq (a : Stamp) (word : Nat) (q : WordQ) : ∃ x y b, qClearHigh a word q = { q with owe := x, highAt := y, highLatched := b } ∧
    ((∀ m, q.highAt = some m → m.stamp ≠ a) → b = (q.highLatched && !bit 8 word)) ∧
    (∀ m, q.highAt = some m → m.stamp = a → b = q.highLatched) := by
  unfold qClearHigh
  by_cases hc : (q.highLatched && bit 8 word) = true
  · obtain ⟨hl, hb⟩ := Bool.and_eq_true_iff.mp hc
    rw [if_pos hc]
    rcases crossedAt_cases a q.highAt with ⟨m, hm, ha, hx⟩ | ⟨hne, hx⟩
    · rw [hx]
      exact ⟨_, _, _, rfl, fun h => absurd ha (h m hm), fun _ _ _ => rfl⟩
    · rw [hx]
      exact ⟨_, _, _, rfl, fun _ => by rw [hl, hb]; rfl, fun m hm ha => absurd ha (hne m hm)⟩
  · rw [if_neg hc]
    refine ⟨_, _, _, rfl, fun _ => ?_, fun _ _ _ => rfl⟩
    cases hl : q.highLatched with
    | false => rfl
    | true => rw [hl, Bool.true_and, Bool.not_eq_true] at hc; rw [hc]; rfl

/-- A clear of the low latched bit leaves it where the mark is crossed in its cycle (R290). -/
theorem qClearLow_eq (a : Stamp) (word : Nat) (q : WordQ) : ∃ x y b, qClearLow a word q = { q with owe := x, lowAt := y, lowLatched := b } ∧
    ((∀ m, q.lowAt = some m → m.stamp ≠ a) → b = (q.lowLatched && !bit 7 word)) ∧
    (∀ m, q.lowAt = some m → m.stamp = a → b = q.lowLatched) := by
  unfold qClearLow
  by_cases hc : (q.lowLatched && bit 7 word) = true
  · obtain ⟨hl, hb⟩ := Bool.and_eq_true_iff.mp hc
    rw [if_pos hc]
    rcases crossedAt_cases a q.lowAt with ⟨m, hm, ha, hx⟩ | ⟨hne, hx⟩
    · rw [hx]
      exact ⟨_, _, _, rfl, fun h => absurd ha (h m hm), fun _ _ _ => rfl⟩
    · rw [hx]
      exact ⟨_, _, _, rfl, fun _ => by rw [hl, hb]; rfl, fun m hm ha => absurd ha (hne m hm)⟩
  · rw [if_neg hc]
    refine ⟨_, _, _, rfl, fun _ => ?_, fun _ _ _ => rfl⟩
    cases hl : q.lowLatched with
    | false => rfl
    | true => rw [hl, Bool.true_and, Bool.not_eq_true] at hc; rw [hc]; rfl

/-- What a write of QSTATUS clears (R290). -/
theorem qClear_leaves (a : Stamp) (word : Nat) (q : WordQ) :
    (qClear a word q).lostLatched = (q.lostLatched && !bit 10 word) ∧ (qClear a word q).underrun = (q.underrun && !bit 9 word) ∧
      ((∀ m, q.highAt = some m → m.stamp ≠ a) → (qClear a word q).highLatched = (q.highLatched && !bit 8 word)) ∧
      ((∀ m, q.lowAt = some m → m.stamp ≠ a) → (qClear a word q).lowLatched = (q.lowLatched && !bit 7 word)) ∧
      (∀ m, q.highAt = some m → m.stamp = a → (qClear a word q).highLatched = q.highLatched) ∧
      (∀ m, q.lowAt = some m → m.stamp = a → (qClear a word q).lowLatched = q.lowLatched) ∧
      (qClear a word q).words = q.words := by
  unfold qClear
  obtain ⟨x, y, b, hh, hb, hb'⟩ := qClearHigh_eq a word { q with lostLatched := q.lostLatched && !bit 10 word, underrun := q.underrun && !bit 9 word }
  rw [hh]
  obtain ⟨x', y', c, hl, hc, hc'⟩ := qClearLow_eq a word { { q with lostLatched := q.lostLatched && !bit 10 word, underrun := q.underrun && !bit 9 word } with
    owe := x, highAt := y, highLatched := b }
  rw [hl]
  exact ⟨rfl, rfl, hb, hc, hb', hc', rfl⟩

end Requests

/-! The end of a read that has stalled too long (R288). -/

theorem holdReadTimeout_leaves {s : State} {i : Nat} {x : StalledRead} {rest : List StalledRead} (hx : (s.seg i).nq.stalled = x :: rest)
    (hans : (s.seg i).nq.answers = []) (hover : x.since.beat + s.glob.holdLimit ≤ s.time.beat) :
    ∃ t, exec (.holdReadTimeout i) s = .next t ∧ (t.seg i).nq.stalled = rest ∧ (t.seg i).nq.underrun = true ∧
      (t.seg i).nq.lastTimeout = true ∧ (t.seg i).nq.lastUnderrun = true ∧ (t.seg i).nq.words = (s.seg i).nq.words ∧
      (s.hasSeg x.port = true → x.tag ∈ (s.seg x.port).port.busy → (t.seg x.port).port.rspTag = x.tag ∧
        (t.seg x.port).port.rspStatus = 0 ∧ (t.seg x.port).port.rspData = (s.seg i).nq.lastData ∧ x.tag ∉ (t.seg x.port).port.busy) ∧
      answersOnly { s.seg i with nq := (t.seg i).nq } (t.seg i) ∧ othersAnswered i s t ∧ t = { s with segs := t.segs } := by
  obtain ⟨a, ha⟩ : ∃ a, s.stallOver (s.seg i).nq = some a := ⟨_, by unfold State.stallOver; rw [hx]; exact if_pos hover⟩
  have hexec : exec (.holdReadTimeout i) s = .next (s.onNq i (qTimeout a)) := by
    show execHoldReadTimeout i s = _
    unfold execHoldReadTimeout
    rw [ha]
  have hi : s.hasSeg i = true := by
    by_contra hn
    rw [show s.seg i = {} from List.getD_eq_default _ _ (by simpa [State.hasSeg] using hn)] at hx
    exact nomatch hx
  have hq : qTimeout a (s.seg i).nq = { (s.seg i).nq with
      stalled := rest, answers := [{ port := x.port, tag := x.tag, data := (s.seg i).nq.lastData }], underrun := true,
      owe := (if (s.seg i).nq.underrun then (s.seg i).nq.owe else (s.seg i).nq.owe ++ [QEvent.underrun true a]),
      lastEor := false, lastTorn := false, lastPoison := false, lastUnderrun := true, lastTimeout := true } := by
    unfold qTimeout
    rw [hx, hans]
    rfl
  have hseg := seg_onNq hi (qTimeout a)
  have hnq := (congrArg Segment.nq hseg :)
  refine ⟨_, hexec, ?_⟩
  rw [hnq, hq]
  rw [hq] at hseg
  refine ⟨rfl, rfl, rfl, rfl, rfl, fun hp htag => ?_, hseg, othersAnswered_onNq s i _, (noticesOnly_onNq ..).1⟩
  have hport : ∀ f : WordQ → WordQ, ((s.onSeg i (fun g => { g with nq := f g.nq })).seg x.port).port = (s.seg x.port).port := fun f =>
    seg_onSeg_of (P := fun (g h : Segment) => h.port = g.port) s i _ (fun _ => rfl) rfl x.port
  have hans' : s.onNq i (qTimeout a) = (s.onSeg i (fun g => { g with nq := { qTimeout a g.nq with answers := [] } })).respondTo x.port x.tag 0
      (s.seg i).nq.lastData := by
    unfold State.onNq
    dsimp only
    rw [hq]
    rfl
  rw [hans', State.respondTo, hport (fun q => { qTimeout a q with answers := [] }), if_neg (by simpa using htag),
    State.seg_onSeg_eq _ _ (by rw [State.hasSeg, State.onSeg_length]; exact hp)]
  exact ⟨rfl, rfl, rfl, fun h => by simpa using (List.mem_filter.mp h).2⟩

/-! The drain of notices (R295). -/

/-- The record at the head of a queue on which no word was pushed in the cycle, popped (R295). -/
theorem popRecord_quiet (a : Stamp) (n : Nat) (q : WordQ) (hn : q.words.length ≤ n) (hq : q.quietAt a)
    (heor : q.words.any (·.eor) = true) :
    (popRecord a n q).1 = ((q.words.takeWhile (fun w => !w.eor)) ++ ((q.words.dropWhile (fun w => !w.eor)).take 1)).map (·.read) ∧
      (popRecord a n q).2.words = (q.words.dropWhile (fun w => !w.eor)).drop 1 ∧ (popRecord a n q).2.answers = q.answers := by
  induction n generalizing q with
  | zero =>
    rw [List.length_eq_zero_iff.mp (Nat.le_zero.mp hn)] at heor
    exact nomatch heor
  | succ n ih =>
    cases hw : q.words with
    | nil => rw [hw] at heor; exact nomatch heor
    | cons w rest =>
      obtain ⟨hread, hwords, hans, hpushed⟩ := qPop_word a hw
      unfold popRecord
      rw [qRead_quiet hq]
      dsimp only
      rw [hread]
      by_cases he : w.eor = true
      · rw [if_pos (by rw [show w.read.eor = w.eor from rfl, he]; rfl)]
        simp [he, hwords, hans]
      · rw [if_neg (by simp [QWord.read, he])]
        have hlen : (qPop a q).2.words.length ≤ n := by
          rw [hwords]
          rw [hw] at hn
          exact Nat.le_of_succ_le_succ hn
        have hany : (qPop a q).2.words.any (·.eor) = true := by
          rw [hwords]
          rw [hw] at heor
          simpa [he] using heor
        obtain ⟨ih1, ih2, ih3⟩ := ih _ hlen (fun m hm => nomatch hpushed ▸ hm) hany
        rw [ih1, ih2, ih3, hwords]
        simp [he, hans]

section Drain
variable {s u : State} {cyc i : Nat}

theorem exec_noticeDrain (hup : s.mgrUp = true) (hrec : s.roles.recovering = none) (hann : s.roles.announce = false)
    (howes : s.owesNothing = true) (hu : u = s.onCycle cyc) (hturn : u.drainTurn = some i) (howe : (s.seg i).nq.owe = []) :
    exec (.noticeDrain ⟨cyc, i⟩) s = .next { u.sendNext i with vectors := { (u.sendNext i).vectors with drainLast := i } } ∧
      u.nextFree u.now (u.seg i).nq = true ∧ s.hasSeg i = true := by
  have hclose : (s.onCycle cyc).closeCycles = u := by
    rw [hu]
    exact closeCycles_of_owesNothing howes
  have hann' : u.roles.announce = false := by rw [hu]; exact hann
  have hover : u.overBy (u.seg i).nq.owe = [] := by
    rw [hu]
    show List.filter _ (s.seg i).nq.owe = []
    rw [howe]
    rfl
  have hfind : (u.drainable i = true) ∧ s.hasSeg i = true := by
    unfold State.drainTurn at hturn
    dsimp only at hturn
    rw [hann'] at hturn
    refine ⟨List.find?_some hturn, ?_⟩
    obtain ⟨k, hk, rfl⟩ := List.mem_map.mp (List.mem_of_find?_eq_some hturn)
    have hlen : u.segs.length = s.segs.length := by rw [hu]; rfl
    refine decide_eq_true (hlen ▸ Nat.mod_lt _ (Nat.lt_of_le_of_lt (Nat.zero_le k) (List.mem_range.mp hk)))
  have hfree : u.nextFree u.now (u.seg i).nq = true := by
    have h := hfind.1
    unfold State.drainable at h
    dsimp only at h
    rw [hover, Bool.and_eq_true] at h
    exact h.2
  have hdrain : u.drainAt i = u.sendNext i := by
    unfold State.drainAt
    rw [hann', hover]
    show u.drainOne i = _
    unfold State.drainOne
    dsimp only
    rw [hover, hfree]
    rfl
  refine ⟨?_, hfree, hfind.2⟩
  show execNoticeDrain ⟨cyc, i⟩ s = _
  unfold execNoticeDrain
  dsimp only
  rw [hclose, hdrain, hturn, hup, hrec]
  exact congrArg Host.Outcome.next (if_pos (by simp))

/-- A record that reaches no ring is counted in NOTICES_UNROUTED (R295). -/
theorem route_unrouted {s : State} {rec : List QRead} (h : s.bound rec = []) :
    s.route rec = s.count (fun c => { c with unrouted := c.unrouted + 1 }) := by
  unfold State.route
  rw [h]
  rfl

/-- A record that one ring admits is written to it (R295). -/
theorem route_one {s : State} {rec : List QRead} {n : Nat} (h : s.bound rec = [n]) :
    s.route rec = rec.foldl (fun u w => u.ntcWord n w) s := by
  unfold State.route
  rw [h]
  rfl

theorem bound_none {s : State} (h : ∀ e ∈ s.rings, e.2.kind ≠ 3) (rec : List QRead) : s.bound rec = [] := by
  unfold State.bound
  split
  · refine List.map_eq_nil_iff.mpr (List.filter_eq_nil_iff.mpr fun e he => ?_)
    simp [h e he]
  · rfl

theorem noticeDrain_unrouted (hup : s.mgrUp = true) (hrec : s.roles.recovering = none) (hann : s.roles.announce = false)
    (howes : s.owesNothing = true) (hu : u = s.onCycle cyc) (hturn : u.drainTurn = some i) (howe : (s.seg i).nq.owe = [])
    (hquiet : (s.seg i).nq.quietAt u.now) (hans : (s.seg i).nq.answers = []) (hkind : ∀ e ∈ s.rings, e.2.kind ≠ 3) :
    ∃ t, exec (.noticeDrain ⟨cyc, i⟩) s = .next t ∧
      (t.seg i).nq.words = ((s.seg i).nq.words.dropWhile (fun w => !w.eor)).drop 1 ∧
      t.cnt = { s.cnt with unrouted := s.cnt.unrouted + 1 } ∧ t.vectors = { s.vectors with drainLast := i } ∧
      t.seg i = { s.seg i with nq := (t.seg i).nq } ∧ othersKept i s t ∧
      t = { u with segs := t.segs, cnt := t.cnt, vectors := t.vectors } := by
  obtain ⟨hexec, hfree, hi⟩ := exec_noticeDrain hup hrec hann howes hu hturn howe
  have hseg (j : Nat) : u.seg j = s.seg j := by rw [hu]; rfl
  have hrecord : (s.seg i).nq.words.any (·.eor) = true := by
    rw [← hseg]
    exact (Bool.and_eq_true_iff.mp hfree).1
  obtain ⟨-, hwords, hanswers⟩ := popRecord_quiet u.now (s.seg i).nq.depth (s.seg i).nq (le_refl _) hquiet hrecord
  have hsend : u.sendNext i = (u.onSeg i (fun g => { g with nq := (popRecord u.now (s.seg i).nq.depth (s.seg i).nq).2 })).count
      (fun c => { c with unrouted := c.unrouted + 1 }) := by
    unfold State.sendNext
    dsimp only
    rw [hseg, onNq_settled _ i (hanswers.trans hans)]
    refine route_unrouted (bound_none (fun e he => hkind e ?_) _)
    rw [hu] at he
    exact he
  rw [hsend] at hexec
  have hleft : (u.onSeg i (fun g => { g with nq := (popRecord u.now (s.seg i).nq.depth (s.seg i).nq).2 })).seg i =
      { s.seg i with nq := (popRecord u.now (s.seg i).nq.depth (s.seg i).nq).2 } := by
    rw [State.seg_onSeg_eq _ _ (by rw [hu]; exact hi), hseg]
  refine ⟨_, hexec, ?_, by rw [hu]; rfl, by rw [hu]; rfl, ?_, fun j hj => (State.seg_onSeg_ne _ _ hj).trans (hseg j), rfl⟩
  · exact (congrArg (fun g : Segment => g.nq.words) hleft :).trans hwords
  · exact hleft.trans (congrArg (fun g : Segment => { s.seg i with nq := g.nq }) hleft).symm

/-- Words of a notice have been written to a ring that had room for them (R304): nothing else of a block changes but the port that they
pass. -/
structure ringGains (n k : Nat) (s t : State) : Prop where
  eq : t = { s with rings := t.rings, segs := t.segs }
  nq : ∀ j, (t.seg j).nq = (s.seg j).nq
  others : ∀ m, m ≠ n → t.ring m = s.ring m
  words : (t.ring n).words = (s.ring n).words + k
  writing : (t.ring n).writing.length = (s.ring n).writing.length + k
  head : (t.ring n).head = (s.ring n).head
  tail : (t.ring n).tail = (s.ring n).tail
  entries : (t.ring n).entries = (s.ring n).entries

theorem ringGains_ntcWord {s : State} {n : Nat} (w : QRead) (h : (s.ring n).depth + (s.ring n).writing.length < (s.ring n).entries) :
    ringGains n 1 s (s.ntcWord n w) := by
  have hover : s.ntcOverwrite n = s := if_pos h
  unfold State.ntcWord
  dsimp only
  rw [hover]
  generalize hr : { s.ring n with
    tornNext := false, words := (s.ring n).words + 1,
    flags := (s.ring n).flags ++ [ntcFlags w.poison (w.torn || (s.ring n).tornNext) w.eor] } = r
  generalize ntcEntry (s.ring n).words w (w.torn || (s.ring n).tornNext) = d
  have hring : (s.setRing n r).ring n = r := State.ring_setRing_eq ..
  obtain ⟨-, hothers, x, hlast⟩ := writeEntry_ring (s.setRing n r) n { kind := .ntc, data := d, eor := w.eor }
  rw [hring, ← hr] at hlast
  rw [← hr] at hothers ⊢
  refine ⟨rfl, fun j => ?_, fun m hm => (hothers m hm).trans (State.ring_setRing_ne _ _ hm), ?_, ?_, ?_, ?_, ?_⟩
  · exact seg_onSeg_of (P := fun (g h : Segment) => h.nq = g.nq) _ _ _ (fun _ => rfl) rfl j
  · rw [hlast]
  · rw [hlast]
    exact List.length_append ..
  · rw [hlast]
  · rw [hlast]
  · rw [hlast]
    rfl

theorem ringGains_words {n : Nat} (l : List QRead) (s : State)
    (h : (s.ring n).depth + (s.ring n).writing.length + l.length ≤ (s.ring n).entries) :
    ringGains n l.length s (l.foldl (fun u w => u.ntcWord n w) s) := by
  induction l generalizing s with
  | nil => exact ⟨rfl, fun _ => rfl, fun _ _ => rfl, rfl, rfl, rfl, rfl, rfl⟩
  | cons w l ih =>
    rw [List.length_cons] at h
    have hw := ringGains_ntcWord w (show (s.ring n).depth + (s.ring n).writing.length < (s.ring n).entries by omega)
    have hdepth : ((s.ntcWord n w).ring n).depth = (s.ring n).depth := by
      unfold Ring.depth
      rw [hw.head, hw.tail]
    have hl := ih (s.ntcWord n w) (by rw [hdepth, hw.writing, hw.entries]; omega)
    refine ⟨hl.eq.trans (congrArg (fun x : State => { x with
      rings := (l.foldl (fun (u : State) w => u.ntcWord n w) (s.ntcWord n w)).rings,
      segs := (l.foldl (fun (u : State) w => u.ntcWord n w) (s.ntcWord n w)).segs }) hw.eq), fun j => (hl.nq j).trans (hw.nq j), fun m hm => (hl.others m hm).trans (hw.others m hm), ?_, ?_,
      hl.head.trans hw.head, hl.tail.trans hw.tail, hl.entries.trans hw.entries⟩
    · rw [List.foldl_cons, hl.words, hw.words, List.length_cons]
      omega
    · rw [List.foldl_cons, hl.writing, hw.writing, List.length_cons]
      omega

theorem noticeDrain_ring {n : Nat} {w0 w1 w2 w3 : QWord} {rest : List QWord} (hup : s.mgrUp = true) (hrec : s.roles.recovering = none)
    (hann : s.roles.announce = false) (howes : s.owesNothing = true) (hu : u = s.onCycle cyc) (hturn : u.drainTurn = some i)
    (howe : (s.seg i).nq.owe = []) (hquiet : (s.seg i).nq.quietAt u.now) (hw : (s.seg i).nq.words = w0 :: w1 :: w2 :: w3 :: rest)
    (h0 : w0.eor = false) (h1 : w1.eor = false) (h2 : w2.eor = false) (h3 : w3.eor = true) (hadmit : s.admitting w0.data = [n])
    (hroom : (s.ring n).depth + (s.ring n).writing.length + 4 ≤ (s.ring n).entries) :
    ∃ t, exec (.noticeDrain ⟨cyc, i⟩) s = .next t ∧ (t.seg i).nq.words = rest ∧ (t.ring n).words = (s.ring n).words + 4 ∧
      (t.ring n).writing.length = (s.ring n).writing.length + 4 ∧ (t.ring n).head = (s.ring n).head ∧ (t.ring n).tail = (s.ring n).tail ∧
      (∀ m, m ≠ n → t.ring m = s.ring m) ∧ t.cnt = s.cnt ∧ t.vectors = { s.vectors with drainLast := i } ∧
      t = { u with segs := t.segs, rings := t.rings, vectors := t.vectors } := by
  obtain ⟨hexec, -, hi⟩ := exec_noticeDrain hup hrec hann howes hu hturn howe
  have hseg : u.seg i = s.seg i := by rw [hu]; rfl
  obtain ⟨hread, hwords, -⟩ := popRecord_quiet u.now (s.seg i).nq.depth (s.seg i).nq (le_refl _) hquiet (by rw [hw]; simp [h3])
  have hread : (popRecord u.now (s.seg i).nq.depth (s.seg i).nq).1 = [w0.read, w1.read, w2.read, w3.read] := by
    rw [hread, hw]
    simp [h0, h1, h2, h3]
  have hwords : (popRecord u.now (s.seg i).nq.depth (s.seg i).nq).2.words = rest := by
    rw [hwords, hw]
    simp [h0, h1, h2, h3]
  have hsend : u.sendNext i = (u.onNq i (fun _ => (popRecord u.now (s.seg i).nq.depth (s.seg i).nq).2)).route
      [w0.read, w1.read, w2.read, w3.read] := by
    unfold State.sendNext
    dsimp only
    rw [hseg, hread]
  generalize (popRecord u.now (s.seg i).nq.depth (s.seg i).nq).2 = q at hwords hsend
  obtain ⟨hv, -, -⟩ := noticesOnly_onNq u i (fun _ => q)
  have hnq := (congrArg (fun g : Segment => g.nq.words) (seg_onNq (s := u) (i := i) (by rw [hu]; exact hi) (fun _ => q)) :)
  generalize u.onNq i (fun _ => q) = v at hv hnq hsend
  have hrings : v.rings = s.rings := (congrArg State.rings hv :).trans (by rw [hu]; rfl)
  have hring (m : Nat) : v.ring m = s.ring m := by
    unfold State.ring
    rw [hrings]
  have hadmit' : v.bound [w0.read, w1.read, w2.read, w3.read] = [n] := by
    show v.admitting w0.data = [n]
    unfold State.admitting
    rw [hrings]
    exact hadmit
  have hgain := ringGains_words (n := n) [w0.read, w1.read, w2.read, w3.read] v (by rw [hring]; exact hroom)
  rw [← route_one hadmit', ← hsend] at hgain
  generalize u.sendNext i = t at hexec hgain
  have heq := hgain.eq.trans (congrArg (fun x : State => { x with rings := t.rings, segs := t.segs }) hv)
  have hvectors : t.vectors = u.vectors := (congrArg State.vectors heq :)
  refine ⟨_, hexec, (congrArg WordQ.words (hgain.nq i)).trans (hnq.trans hwords), hgain.words.trans (by rw [hring]; rfl),
    hgain.writing.trans (by rw [hring]; rfl), hgain.head.trans (by rw [hring]), hgain.tail.trans (by rw [hring]),
    fun m hm => (hgain.others m hm).trans (hring m), (congrArg State.cnt heq :).trans (by rw [hu]; rfl), ?_, ?_⟩
  · show { t.vectors with drainLast := i } = _
    rw [hvectors, hu]
    rfl
  · exact congrArg (fun x : State => { x with vectors := { t.vectors with drainLast := i } }) heq

end Drain

/-! Pushes that no pop goes before (R284, R285). -/

theorem qPush_alone {a : Stamp} {q : WordQ} {d : Nat} {eor : Bool} {w : QWord} (hs : q.stalled = [])
    (hp : ∀ m, q.popped = some m → m.stamp ≠ a) (hw : w = { data := d % 2 ^ 64, eor := eor, torn := q.tornNext, p := parityOf (d % 2 ^ 64) eor q.tornNext }) :
    ∃ r, marksMoved { q with tornNext := false, recordEvents := q.recordEvents + flag eor } r ∧ qPush a d eor q = qPushAlone a w r := by
  have htick := marksMoved_qTick a q
  have hstall : (qTick a q).stalled = [] := (congrArg WordQ.stalled htick :).trans hs
  have hpop : (qTick a q).popped = q.popped := (congrArg WordQ.popped htick :)
  refine ⟨{ qTick a q with tornNext := false, recordEvents := (qTick a q).recordEvents + flag eor }, ?_, ?_⟩
  · unfold marksMoved at *
    rw [htick]
  · have htorn : (qTick a q).tornNext = q.tornNext := (congrArg WordQ.tornNext htick :)
    unfold qPush
    dsimp only
    rw [hstall, hpop, htorn, ← hw]
    dsimp only
    split
    · next m hm => exact if_neg (by simp [hp m hm])
    · rfl

theorem tearOldest_poison (x : QWord) (rest : List QWord) :
    ∃ y, tearOldest (x :: rest) = y :: rest ∧ y.data = x.data ∧ y.eor = x.eor ∧ y.torn = true ∧ y.poison = x.poison := by
  by_cases h : x.torn = true
  · exact ⟨x, by rw [tearOldest, if_pos h], rfl, rfl, h, rfl⟩
  · refine ⟨{ x with torn := true, p := !x.p }, by rw [tearOldest, if_neg h], rfl, rfl, rfl, ?_⟩
    simp only [QWord.poison, parityOf, h]
    cases oddOnes 64 x.data != x.eor <;> cases x.p <;> rfl

/-- Settles O23. -/
theorem noticeQueues : Obligations.NoticeQueues := by
  unfold Obligations.NoticeQueues
  refine ⟨⟨fun s u cyc i tag w rest hup htag hu howner hw hq hans => ?_, fun s cyc i tag hup htag howner => ?_,
    fun s u cyc i tag hup htag hu howner hw hhold hq hans => ?_, fun s u cyc i tag hup htag hu howner hw hhold hans hq => ?_,
    fun s u cyc i tag m hup htag hu howner hm ha hans => ?_, fun s i x rest hx hans hover => holdReadTimeout_leaves hx hans hover,
    fun s u cyc i tag word hup htag hu hcap hq hs => ?_, fun s u cyc i tag hup htag hu => ?_, fun s u cyc i tag word hup htag hu => ?_⟩,
    ⟨fun s u cyc i hup hrec hann howes hu hturn howe hquiet hans hkind =>
      noticeDrain_unrouted hup hrec hann howes hu hturn howe hquiet hans hkind,
     fun s u cyc i n w0 w1 w2 w3 rest hup hrec hann howes hu hturn howe hquiet hw h0 h1 h2 h3 hadmit hroom =>
      noticeDrain_ring hup hrec hann howes hu hturn howe hquiet hw h0 h1 h2 h3 hadmit hroom⟩,
    fun a q d eor w hs hp hw => ?_⟩
  · subst hu
    exact qdataRead_word hup htag howner hw hq hans
  · refine (onRequest_eq cyc (fun s => s.readQdata i i) hup htag).trans (congrArg Host.Outcome.next ?_)
    unfold State.readQdata
    dsimp only
    rw [(seg_acceptReq cyc hup).1, howner]
    rfl
  · subst hu
    exact qdataRead_underrun hup htag howner hw hhold hq hans
  · subst hu
    exact qdataRead_stalls hup htag howner hw hhold hans hq
  · subst hu
    exact qdataRead_pushed hup htag howner hm ha hans
  · subst hu
    have hexec := onRequest_eq cyc (fun s => (s.onNq i (qControl s.now word)).respond i 0 0) hup htag
    obtain ⟨t, ht, hnq, hleft⟩ := settledNq (tag := tag) cyc (qControl (s.onCycle cyc).now word) (hasSeg_of_segUp hup)
    obtain ⟨h, l, hhold, hmarks, hh, hl, hll, hnone, hwords⟩ := qControl_leaves word hcap hq hs
    refine ⟨t, h, l, hexec.trans (congrArg Host.Outcome.next ht), ?_⟩
    rw [hnq] at hleft ⊢
    exact ⟨hhold, hmarks, hh, hl, hll, hnone, hwords, hleft⟩
  · subst hu
    have hexec := onRequest_eq cyc (fun s => (s.onNq i (qFlush s.now)).respond i 0 0) hup htag
    obtain ⟨t, ht, hnq, hleft⟩ := settledNq (tag := tag) cyc (qFlush (s.onCycle cyc).now) (hasSeg_of_segUp hup)
    refine ⟨t, hexec.trans (congrArg Host.Outcome.next ht), fun hq => ?_, fun m hm ha => ?_, hleft⟩
    · obtain ⟨hw, htorn, hlost, -⟩ := qFlush_quiet hq
      rw [hnq]
      exact ⟨hw, htorn, hlost⟩
    · rw [hnq]
      exact qFlush_pushed hm ha
  · subst hu
    have hexec := onRequest_eq cyc (fun s => (s.onNq i (qClear s.now word)).respond i 0 0) hup htag
    obtain ⟨t, ht, hnq, hleft⟩ := settledNq (tag := tag) cyc (qClear (s.onCycle cyc).now word) (hasSeg_of_segUp hup)
    obtain ⟨hlost, hunder, hhigh, hlow, hhigh', hlow', hw⟩ := qClear_leaves (s.onCycle cyc).now word (s.seg i).nq
    refine ⟨t, hexec.trans (congrArg Host.Outcome.next ht), ?_⟩
    rw [hnq] at hleft ⊢
    exact ⟨hlost, hunder, hhigh, hlow, hhigh', hlow', hw, hleft⟩
  · obtain ⟨r, hr, hpush⟩ := qPush_alone hs hp hw
    have hwords : r.words = q.words := (congrArg WordQ.words hr :)
    have hcap : r.cap = q.cap := (congrArg WordQ.cap hr :)
    have hlost' : r.lost = q.lost := (congrArg WordQ.lost hr :)
    rw [hpush]
    unfold qPushAlone WordQ.depth
    dsimp only
    refine ⟨fun h => ?_, fun h => ?_⟩
    · rw [if_pos (by rw [hwords, hcap]; exact h)]
      have hcross := marksMoved_qCross a r.words.length { r with words := r.words ++ [w] }
      exact ⟨(congrArg WordQ.words hcross :).trans (congrArg (· ++ [w]) hwords), (congrArg WordQ.lost hcross :).trans (congrArg WordQ.lost hr :),
        (congrArg WordQ.lostLatched hcross :).trans (congrArg WordQ.lostLatched hr :)⟩
    · rw [if_neg (by rw [hwords, hcap]; exact Nat.not_lt.mpr h)]
      have hlost : satAdd 32 r.lost 1 = min (q.lost + 1) (2 ^ 32 - 1) := by
        rw [hlost']
        unfold satAdd
        split
        · exact (Nat.min_eq_left (Nat.le_sub_one_of_lt ‹_›)).symm
        · exact (Nat.min_eq_right (by omega)).symm
      refine ⟨hlost, rfl, fun o rest ho he => ?_, fun o x rest ho he => ?_⟩
      · show (if (r.words.headD {}).eor then r.words.drop 1 else tearOldest (r.words.drop 1)) ++ [w] = _
        rw [hwords, ho]
        exact congrArg (· ++ [w]) (if_pos he)
      · obtain ⟨y, hy, hleft⟩ := tearOldest_poison x rest
        refine ⟨y, ?_, hleft⟩
        show (if (r.words.headD {}).eor then r.words.drop 1 else tearOldest (r.words.drop 1)) ++ [w] = _
        rw [hwords, ho]
        show (if o.eor then x :: rest else tearOldest (x :: rest)) ++ [w] = _
        rw [he, hy]
        rfl

end Sys2Proof.Proofs
end
section
/-! Frames on links: links that fail, frames received or dropped (R142 to R148). -/

namespace Sys2Proof.Proofs

open Sys2Proof Sys2Proof.Machine

/-! Two segments changed. -/

theorem seg_onSeg_two {s : State} {i j : Nat} (f g : Segment → Segment) (hi : s.hasSeg i = true) (hj : s.hasSeg j = true) (hij : j ≠ i) :
    ((s.onSeg i f).onSeg j g).seg i = f (s.seg i) ∧ ((s.onSeg i f).onSeg j g).seg j = g (s.seg j) ∧
      ∀ k, k ≠ i → k ≠ j → ((s.onSeg i f).onSeg j g).seg k = s.seg k := by
  have hj' : (s.onSeg i f).hasSeg j = true := (congrArg (fun n => decide (j < n)) (s.onSeg_length i _)).trans hj
  refine ⟨(State.seg_onSeg_ne _ _ hij.symm).trans (s.seg_onSeg_eq _ hi), ?_, fun k hki hkj =>
    (State.seg_onSeg_ne _ _ hkj).trans (s.seg_onSeg_ne _ hki)⟩
  rw [State.seg_onSeg_eq _ _ hj', s.seg_onSeg_ne _ hij]

theorem hasSeg_of_linkUp {s : State} {i : Nat} {d : Dir} (h : s.linkUp i d = true) : s.hasSeg i = true := by
  by_contra hn
  have hnone : s.seg i = {} := List.getD_eq_default _ _ (by simpa [State.hasSeg] using hn)
  have hup : ((s.seg i).hub.module d).up = false := by
    rw [hnone]
    cases d <;> rfl
  unfold State.linkUp at h
  split at h
  · simp only [hup, Bool.and_false, Bool.false_and, Bool.false_eq_true] at h
  · exact Bool.false_ne_true h

/-! A link that goes down, and the end of its retraining (R145, R347). -/

/-- A module that retrains. -/
noncomputable def downModule (m : ModuleS) : ModuleS := { m with up := false, authed := false, retraining := true }

theorem linkDown_leaves {s : State} {i j : Nat} {d : Dir} (hup : s.linkUp i d = true) (hn : neighbour s.segs.length i d = some j) :
    ∃ t, exec (.linkDown i d) s = .next t ∧ (t.seg i).hub.module d = downModule ((s.seg i).hub.module d) ∧
      (t.seg j).hub.module (opposite d) = downModule ((s.seg j).hub.module (opposite d)) ∧
      (∀ k, k ≠ i → k ≠ j → t.seg k = s.seg k) ∧ t.linkUp i d = false ∧ t = { s with segs := t.segs } := by
  have hi := hasSeg_of_linkUp hup
  obtain ⟨hj, hij⟩ := neighbour_valid (of_decide_eq_true hi) hn
  have hexec : exec (.linkDown i d) s = .next ((s.onModule i d downModule).onModule j (opposite d) downModule) := by
    show execLinkDown i d s = _
    simp only [execLinkDown, hn, onlyIf, hup]
    rfl
  obtain ⟨hti, htj, hothers⟩ := seg_onSeg_two (s := s) (fun g => { g with hub := g.hub.onModule d downModule })
    (fun g => { g with hub := g.hub.onModule (opposite d) downModule }) hi (decide_eq_true hj) hij
  have hlen : ((s.onModule i d downModule).onModule j (opposite d) downModule).segs.length = s.segs.length :=
    (State.onSeg_length _ _ _).trans (s.onSeg_length _ _)
  have hmod : (((s.onModule i d downModule).onModule j (opposite d) downModule).seg i).hub.module d = downModule ((s.seg i).hub.module d) := by
    unfold State.onModule
    rw [hti]
    exact module_onModule_same ..
  refine ⟨_, hexec, hmod, ?_, hothers, ?_, rfl⟩
  · unfold State.onModule
    rw [htj]
    exact module_onModule_same ..
  · unfold State.linkUp
    rw [hlen, hn]
    dsimp only
    rw [hmod]
    simp [downModule]

theorem exec_retrainingEnd {s : State} {i j : Nat} {d : Dir} (cyc : Nat) (hn : neighbour s.segs.length i d = some j)
    (hr : ((s.seg i).hub.module d).retraining = true) (hf : ((s.seg i).hub.module d).failed = false) :
    (∀ auth, exec (.linkRetrainingEnd cyc i d (.good auth)) s = .next (if s.linkAuthentic i j auth then s.trainLink i j d else
      (s.given (s.stampFor cyc)).unauthentic i d (s.stampFor cyc))) ∧
    ∀ n m, exec (.linkRetrainingEnd cyc i d (.failed n m)) s = .next
      (((s.given (s.stampFor cyc)).loseInLink cyc i j d n m).moduleFailed i d 0x10 (s.stampFor cyc)) := by
  refine ⟨fun auth => ?_, fun n m => ?_⟩
  · show execLinkRetrainingEnd cyc i d (.good auth) s = _
    simp only [execLinkRetrainingEnd, hn, onlyIf, hr, hf]
    rfl
  · show execLinkRetrainingEnd cyc i d (.failed n m) s = _
    simp only [execLinkRetrainingEnd, hn, onlyIf, hr, hf]
    rfl

theorem linkAuthentic_iff {s : State} {i j : Nat} {auth : LinkAuth} : s.linkAuthentic i j auth = true ↔
    (s.seg i).trust.identity ≠ none ∧ (s.seg j).trust.identity ≠ none ∧
      auth.near = ⟨true, (s.seg j).trust.serial, i, true⟩ ∧ auth.far = ⟨true, (s.seg i).trust.serial, j, true⟩ := by
  have hcert (serial peer : Nat) (c : LinkCert) : certStands serial peer c = true ↔ c = ⟨true, serial, peer, true⟩ := by
    obtain ⟨a, b, x, y⟩ := c
    simp [certStands, and_assoc]
  simp only [State.linkAuthentic, Bool.and_eq_true, hcert, Option.isSome_iff_ne_none, and_assoc]

/-- A block in which a module has failed at both ends of its link. -/
noncomputable def failedEnds (s : State) (i j : Nat) (d : Dir) (reason : Nat) : State :=
  ((s.onHub i (fun h => stopTx d (h.onModule d (failModule reason false)))).onHub j
    (fun h => stopTx (opposite d) (h.onModule (opposite d) (failModule reason true)))).onSegs
      (fun _ g => { g with hub := { g.hub with detour := false } })

theorem moduleFailed_eq {s : State} {i j : Nat} {d : Dir} (hn : neighbour s.segs.length i d = some j) (hw : s.waistSegs = [])
    (reason : Nat) (e : Stamp) : s.moduleFailed i d reason e = failedEnds s i j d reason := by
  have hlen : (failedEnds s i j d reason).segs.length = s.segs.length :=
    (State.onSegs_length _ _).trans ((State.onSeg_length _ _ _).trans (s.onSeg_length _ _))
  have hcut : (failedEnds s i j d reason).cutNow = false := by
    have hwaist : (failedEnds s i j d reason).waistSegs = [] := by
      unfold State.waistSegs at hw ⊢
      rw [hlen]
      exact hw
    unfold State.cutNow
    rw [hwaist]
    simp
  have hif : s.moduleFailed i d reason e =
      if (failedEnds s i j d reason).cutNow then (failedEnds s i j d reason).waistCut e else failedEnds s i j d reason := by
    unfold State.moduleFailed
    dsimp only [State.onHub]
    rw [s.onSeg_length, hn]
    rfl
  rw [hif, hcut]
  rfl

theorem module_stopTx (d e : Dir) (h : Hub) : (stopTx d h).module e = h.module e := by
  cases e <;> rfl

theorem module_detour (h : Hub) (b : Bool) (d : Dir) : ({ h with detour := b } : Hub).module d = h.module d := by
  cases d <;> rfl

/-- A module that fails in a block that is no two halves is failed at both ends, and the tables are to be computed anew (R145, R147). -/
theorem failedEnds_leaves {s : State} {i j : Nat} {d : Dir} (hi : s.hasSeg i = true) (hn : neighbour s.segs.length i d = some j)
    (reason : Nat) : (((failedEnds s i j d reason).seg i).hub.module d).failed = true ∧
      (((failedEnds s i j d reason).seg j).hub.module (opposite d)).failed = true ∧
      (((failedEnds s i j d reason).seg i).hub.module d).up = false ∧
      ∀ k, s.hasSeg k = true → ((failedEnds s i j d reason).seg k).hub.detour = false := by
  obtain ⟨hj, hij⟩ := neighbour_valid (of_decide_eq_true hi) hn
  obtain ⟨hti, htj, -⟩ := seg_onSeg_two (s := s) (fun g => { g with hub := stopTx d (g.hub.onModule d (failModule reason false)) })
    (fun g => { g with hub := stopTx (opposite d) (g.hub.onModule (opposite d) (failModule reason true)) }) hi (decide_eq_true hj) hij
  have hseg (k : Nat) (hk : s.hasSeg k = true) := seg_onSegs_has
    (s := (s.onHub i (fun h => stopTx d (h.onModule d (failModule reason false)))).onHub j
      (fun h => stopTx (opposite d) (h.onModule (opposite d) (failModule reason true))))
    (fun _ g => { g with hub := { g.hub with detour := false } }) (i := k)
    ((congrArg (fun n => decide (k < n)) ((State.onSeg_length _ _ _).trans (s.onSeg_length _ _))).trans hk)
  unfold failedEnds
  refine ⟨?_, ?_, ?_, fun k hk => ?_⟩
  · rw [hseg i hi]
    dsimp only
    rw [module_detour, State.onHub, State.onHub, hti, module_stopTx, module_onModule_same]
    rfl
  · rw [hseg j (decide_eq_true hj)]
    dsimp only
    rw [module_detour, State.onHub, State.onHub, htj, module_stopTx, module_onModule_same]
    rfl
  · rw [hseg i hi]
    dsimp only
    rw [module_detour, State.onHub, State.onHub, hti, module_stopTx, module_onModule_same]
    rfl
  · rw [hseg k hk]

theorem loseInLink_none (s : State) (cyc i j : Nat) (d : Dir) : s.loseInLink cyc i j d 0 0 = s := by
  unfold State.loseInLink Hub.inLink
  dsimp only
  rw [List.take_zero, List.take_zero]
  rfl

/-! Frames that fail their tag (R145). -/

/-- A segment that counts a frame whose tag failed on a side, of no step in flight. -/
noncomputable def tagFailed (beat : Nat) (d : Dir) (g : Segment) : Segment :=
  { g with
    hub := g.hub.onModule d (fun m => { m with tagFailBeat := some beat })
    cnt := { g.cnt with tagFails := g.cnt.tagFails + 1 }
    health := { g.health with uncorrected := g.health.uncorrected + 1 } }

theorem tx_takeFrame (s : State) (j : Nat) (d : Dir) (e : TxFrame) :
    ((s.takeFrame j d e).seg j).hub.tx = (s.seg j).hub.tx.erase e ∧ ∀ k, k ≠ j → (s.takeFrame j d e).seg k = s.seg k := by
  refine ⟨?_, fun k hk => s.seg_onSeg_ne _ hk⟩
  by_cases hj : s.hasSeg j = true
  · unfold State.takeFrame State.onHub
    rw [s.seg_onSeg_eq _ hj]
    exact tx_onModule ..
  · have hnone : s.seg j = {} := List.getD_eq_default _ _ (by simpa [State.hasSeg] using hj)
    have hnone' : (s.takeFrame j d e).seg j = {} :=
      List.getD_eq_default _ _ (by rw [State.takeFrame, State.onHub, s.onSeg_length]; simpa [State.hasSeg] using hj)
    rw [hnone, hnone']
    rfl

/-- The state after the count of a frame whose tag failed. -/
theorem tagFailed_eq (u : State) (i : Nat) (d : Dir) (beat : Nat) :
    ((u.onModule i d (fun m => { m with tagFailBeat := some beat })).segCount i (fun n => { n with tagFails := n.tagFails + 1 })).onSeg i
      (fun g => { g with health := { g.health with uncorrected := g.health.uncorrected + 1 } }) = u.onSeg i (tagFailed beat d) :=
  (State.onSeg_onSeg ..).trans (State.onSeg_onSeg ..)

theorem exec_linkTagFailure {s u : State} {cyc i j n m : Nat} {d : Dir} {tr : LinkTraffic} (hn : neighbour s.segs.length i d = some j)
    (hu : s.failedFrame i j d tr = some u) (hfirst : ((s.seg i).hub.module d).tagFailBeat = none)
    (herr : ∀ v : State, (∀ p c, v.stepOf p c = u.stepOf p c) → v.trafficError cyc i tr =
      v.onSeg i (fun g => { g with health := { g.health with uncorrected := g.health.uncorrected + 1 } })) :
    exec (.linkTagFailure cyc i d ⟨tr, n, m⟩) s = .next (u.onSeg i (tagFailed s.time.beat d)) := by
  have hcount := herr ((u.onModule i d (fun m => { m with tagFailBeat := some s.time.beat })).segCount i
    (fun n => { n with tagFails := n.tagFails + 1 })) (fun _ _ => rfl)
  rw [tagFailed_eq] at hcount
  show execLinkTagFailure cyc i d ⟨tr, n, m⟩ s = _
  simp only [execLinkTagFailure, hn, hu, hfirst, hcount]
  rfl

theorem linkTagFailure_klf {s : State} {cyc i j n m : Nat} {d : Dir} {e : TxFrame} {f : Frame} (hi : s.hasSeg i = true)
    (hn : neighbour s.segs.length i d = some j) (hin : s.inbound i f = some (j, opposite d, e))
    (hstep : s.stepOf (streamPart f.stream) (streamCls f.stream) = none) (hfirst : ((s.seg i).hub.module d).tagFailBeat = none) :
    ∃ t, exec (.linkTagFailure cyc i d ⟨.klf f, n, m⟩) s = .next t ∧ (t.seg i).cnt.tagFails = (s.seg i).cnt.tagFails + 1 ∧
      (t.seg i).health.uncorrected = (s.seg i).health.uncorrected + 1 ∧ (t.seg j).hub.tx = (s.seg j).hub.tx.erase e ∧
      (t.seg i).staging = (s.seg i).staging ∧ ((t.seg i).hub.module d).tagFailBeat = some s.time.beat ∧
      (t.seg i).hub.tx = (s.seg i).hub.tx ∧ t = { s with segs := t.segs } := by
  obtain ⟨hj, hij⟩ := neighbour_valid (of_decide_eq_true hi) hn
  have hframe : s.failedFrame i j d (.klf f) = some (s.takeFrame j (opposite d) e) := by
    unfold State.failedFrame
    dsimp only
    rw [hin]
    exact if_pos (beq_self_eq_true _)
  have hexec := exec_linkTagFailure (cyc := cyc) (n := n) (m := m) hn hframe hfirst fun v hv => by
    show v.frameError cyc i f = _
    have hnone : v.stepOf (streamPart f.stream) (streamCls f.stream) = none := (hv _ _).trans hstep
    unfold State.frameError
    dsimp only
    rw [hnone]
    rfl
  obtain ⟨htx, hother⟩ := tx_takeFrame s j (opposite d) e
  have hseg : ((s.takeFrame j (opposite d) e).onSeg i (tagFailed s.time.beat d)).seg i = tagFailed s.time.beat d (s.seg i) := by
    rw [State.seg_onSeg_eq _ _ (by rw [State.hasSeg, State.takeFrame, State.onHub, s.onSeg_length]; exact hi), hother i hij.symm]
  refine ⟨_, hexec, ?_⟩
  rw [hseg, State.seg_onSeg_ne _ _ hij]
  refine ⟨rfl, rfl, htx, rfl, ?_, tx_onModule .., rfl⟩
  show ((Hub.onModule _ d _).module d).tagFailBeat = _
  rw [module_onModule_same]

theorem linkTagFailure_other {s : State} {cyc i j n m : Nat} {d : Dir} {l : List (Nat × Cls)} (hi : s.hasSeg i = true)
    (hn : neighbour s.segs.length i d = some j) (hup : s.linkUp i d = true) (hl : ∀ x ∈ l, s.stepOf x.1 x.2 = none)
    (hfirst : ((s.seg i).hub.module d).tagFailBeat = none) :
    ∃ t, exec (.linkTagFailure cyc i d ⟨.other l, n, m⟩) s = .next t ∧ (t.seg i).cnt.tagFails = (s.seg i).cnt.tagFails + 1 ∧
      (t.seg i).health.uncorrected = (s.seg i).health.uncorrected + 1 ∧ ((t.seg i).hub.module d).tagFailBeat = some s.time.beat ∧
      (∀ k, (t.seg k).hub.tx = (s.seg k).hub.tx ∧ (t.seg k).staging = (s.seg k).staging) ∧ t = { s with segs := t.segs } := by
  obtain ⟨hj, hij⟩ := neighbour_valid (of_decide_eq_true hi) hn
  have hframe : s.failedFrame i j d (.other l) = some (s.onModule j (opposite d) (frameLeaves j (opposite d))) := if_pos hup
  have hexec := exec_linkTagFailure (cyc := cyc) (n := n) (m := m) hn hframe hfirst fun v hv => by
    have hnone : l.filter (fun x => (v.stepOf x.1 x.2).isSome) = [] := by
      refine List.filter_eq_nil_iff.mpr fun x hx => ?_
      rw [hv x.1 x.2, show (s.onModule j (opposite d) (frameLeaves j (opposite d))).stepOf x.1 x.2 = none from hl x hx]
      exact Bool.false_ne_true
    unfold State.trafficError
    dsimp only
    rw [hnone]
    rfl
  have hleft (k : Nat) : (((s.onModule j (opposite d) (frameLeaves j (opposite d))).onSeg i (tagFailed s.time.beat d)).seg k).hub.tx =
      (s.seg k).hub.tx ∧ (((s.onModule j (opposite d) (frameLeaves j (opposite d))).onSeg i (tagFailed s.time.beat d)).seg k).staging =
      (s.seg k).staging := by
    have h1 := seg_onSeg_of (P := fun (g h : Segment) => h.hub.tx = g.hub.tx ∧ h.staging = g.staging) s j
      (fun g => { g with hub := g.hub.onModule (opposite d) (frameLeaves j (opposite d)) }) (fun _ => ⟨rfl, rfl⟩) ⟨tx_onModule .., rfl⟩ k
    have h2 := seg_onSeg_of (P := fun (g h : Segment) => h.hub.tx = g.hub.tx ∧ h.staging = g.staging)
      (s.onModule j (opposite d) (frameLeaves j (opposite d))) i (tagFailed s.time.beat d) (fun _ => ⟨rfl, rfl⟩) ⟨tx_onModule .., rfl⟩ k
    exact ⟨h2.1.trans h1.1, h2.2.trans h1.2⟩
  have hseg : ((s.onModule j (opposite d) (frameLeaves j (opposite d))).onSeg i (tagFailed s.time.beat d)).seg i =
      tagFailed s.time.beat d (s.seg i) := by
    rw [State.seg_onSeg_eq _ _ (by rw [State.hasSeg, State.onModule, s.onSeg_length]; exact hi), State.onModule, s.seg_onSeg_ne _ hij.symm]
  refine ⟨_, hexec, ?_, ?_, ?_, hleft, rfl⟩
  · rw [hseg]
    rfl
  · rw [hseg]
    rfl
  · rw [hseg]
    show ((Hub.onModule _ d _).module d).tagFailBeat = _
    rw [module_onModule_same]

theorem linkTagFailure_second {s u : State} {cyc i j b n m : Nat} {d : Dir} {e : TxFrame} {f : Frame}
    (hn : neighbour s.segs.length i d = some j) (hin : s.inbound i f = some (j, opposite d, e))
    (hb : ((s.seg i).hub.module d).tagFailBeat = some b) (hage : s.time.beat ≤ b + 2 ^ 20)
    (hu : u = (((s.takeFrame j (opposite d) e).onModule i d (fun m => { m with tagFailBeat := some s.time.beat })).segCount i
      (fun n => { n with tagFails := n.tagFails + 1 })).frameError cyc i f) :
    exec (.linkTagFailure cyc i d ⟨.klf f, n, m⟩) s = .next
      (((u.given (u.stampFor cyc)).loseInLink cyc i j d n m).moduleFailed i d 0x11 (u.stampFor cyc)) := by
  have hframe : s.failedFrame i j d (.klf f) = some (s.takeFrame j (opposite d) e) := by
    unfold State.failedFrame
    dsimp only
    rw [hin]
    exact if_pos (beq_self_eq_true _)
  subst hu
  show execLinkTagFailure cyc i d ⟨.klf f, n, m⟩ s = _
  simp only [execLinkTagFailure, hn, hframe, hb, decide_eq_true hage]
  rfl

/-! Frames received (R142, R144, R146). -/

theorem exec_klfFrameReceive {s : State} {i j : Nat} {d : Dir} {e : TxFrame} {f : Frame} (hin : s.inbound i f = some (j, d, e)) :
    exec (.klfFrameReceive i f) s = .next (if (s.seg i).hub.credit (opposite d) e.detour then
      (if f.dest == i then (s.takeFrame j d e).arrive i (some (opposite d, e.detour)) f
       else (s.takeFrame j d e).sendFrame i e.detour (some (opposite d, e.detour)) f) else s) := by
  show execKlfFrameReceive i f s = _
  simp only [execKlfFrameReceive, hin, onlyIf]

theorem memory_onHub (s : State) (i : Nat) (f : Hub → Hub) (k : Nat) : ((s.onHub i f).seg k).staging = (s.seg k).staging ∧
    ((s.onHub i f).seg k).stack = (s.seg k).stack ∧ ((s.onHub i f).seg k).cnt = (s.seg k).cnt :=
  seg_onSeg_of (P := fun (g h : Segment) => h.staging = g.staging ∧ h.stack = g.stack ∧ h.cnt = g.cnt) s i _ (fun _ => ⟨rfl, rfl, rfl⟩)
    ⟨rfl, rfl, rfl⟩ k

/-- A frame sent on changes no memory. -/
theorem memory_sendFrame (s : State) (i : Nat) (b : Bool) (came : Option (Dir × Bool)) (f : Frame) (k : Nat) :
    ((s.sendFrame i b came f).seg k).staging = (s.seg k).staging ∧ ((s.sendFrame i b came f).seg k).stack = (s.seg k).stack ∧
      ((s.sendFrame i b came f).seg k).cnt = (s.seg k).cnt := by
  unfold State.sendFrame
  split
  · split
    · split
      · split
        · exact memory_onHub ..
        · exact ⟨rfl, rfl, rfl⟩
      · exact ⟨rfl, rfl, rfl⟩
    · exact memory_onHub ..
  · split
    · exact memory_onHub ..
    · exact memory_onHub ..

theorem klfFrameReceive_stale {s : State} {i j : Nat} {d : Dir} {e : TxFrame} {f : Frame} {x : SegStep} {st : StepS}
    (hi : s.hasSeg i = true) (hin : s.inbound i f = some (j, d, e)) (hdest : f.dest = i) (hij : j ≠ i)
    (hcredit : (s.seg i).hub.credit (opposite d) e.detour = true) (hst : s.stepOf (streamPart f.stream) (streamCls f.stream) = some st)
    (hx : (s.seg i).stepHere (streamPart f.stream) (streamCls f.stream) = some x) (htag : st.launchNo % 256 ≠ f.passTag)
    (hwait : (s.seg i).hub.waiting = []) :
    ∃ t, exec (.klfFrameReceive i f) s = .next t ∧ (t.seg i).cnt.staleDrops = (s.seg i).cnt.staleDrops + 1 ∧
      (t.seg i).staging = (s.seg i).staging ∧ (t.seg i).hub.slots = (s.seg i).hub.slots ∧
      (t.seg j).hub.tx = (s.seg j).hub.tx.erase e ∧ t = { s with segs := t.segs } := by
  obtain ⟨htx, hother⟩ := tx_takeFrame s j d e
  have hseg := hother i hij.symm
  have hst' : (s.takeFrame j d e).stepOf (streamPart f.stream) (streamCls f.stream) = some st := hst
  have hne : (st.launchNo % 256 == f.passTag) = false := beq_false_of_ne htag
  have hcount : (s.takeFrame j d e).hasSeg i = true := by
    rw [State.hasSeg, State.takeFrame, State.onHub, s.onSeg_length]
    exact hi
  have haccept : (s.takeFrame j d e).accept i (some (opposite d, e.detour)) f =
      (s.takeFrame j d e).segCount i (fun n => { n with staleDrops := n.staleDrops + 1 }) := by
    unfold State.accept
    dsimp only
    rw [hseg, hx, hst']
    exact if_pos (by simp [htag])
  have hsegi : ((s.takeFrame j d e).segCount i (fun n => { n with staleDrops := n.staleDrops + 1 })).seg i =
      { s.seg i with cnt := { (s.seg i).cnt with staleDrops := (s.seg i).cnt.staleDrops + 1 } } := by
    rw [State.segCount, State.seg_onSeg_eq _ _ hcount, hseg]
  have harrive : (s.takeFrame j d e).arrive i (some (opposite d, e.detour)) f =
      (s.takeFrame j d e).segCount i (fun n => { n with staleDrops := n.staleDrops + 1 }) := by
    unfold State.arrive
    rw [hst', haccept]
    simp only [hne]
    unfold State.slotsFreed
    rw [hsegi, hwait]
    exact if_pos (by rw [hsegi, hwait]; rfl)
  have hexec := exec_klfFrameReceive hin
  rw [hcredit, hdest, beq_self_eq_true, harrive] at hexec
  refine ⟨_, hexec, ?_⟩
  rw [if_pos rfl, if_pos rfl, hsegi]
  refine ⟨rfl, rfl, rfl, ?_, rfl⟩
  rw [State.segCount, State.seg_onSeg_ne _ _ hij]
  exact htx

/-! The coding of chunks (R135, R136). -/

theorem chunkExp_some {t : F32} {n : Nat} (hn : n < 16) (h : f32Le t (f32Mul f127 (pow2 ((n : Int) - 8))) = true)
    (hmin : ∀ m, m < n → f32Le t (f32Mul f127 (pow2 ((m : Int) - 8))) = false) : chunkExp t = some ((n : Int) - 8) := by
  unfold chunkExp
  rw [firstFrom_some (k := n) (Nat.zero_le n) (by omega) h (fun m _ hm => hmin m hm)]
  rfl

theorem chunkExp_none {t : F32} (h : ∀ n : Nat, n < 16 → f32Le t (f32Mul f127 (pow2 ((n : Int) - 8))) = false) : chunkExp t = none := by
  unfold chunkExp
  rw [firstFrom_none (fun m _ hm => h m (by omega))]
  rfl

/-- A chunk coded at an exponent (R135). -/
noncomputable def codedAt (r : F32) (e : Int) (x : List F32) : Coded :=
  { e := e, codes := (x.map (fun v => f32Rne (f32Mul (f32Mul v r) (pow2 (-e))))).map (clampInt (-127) 127)
    sat := min 255 ((x.map (fun v => f32Rne (f32Mul (f32Mul v r) (pow2 (-e))))).filter (fun v => 127 < v.natAbs)).length
    under := e == -8 && ((x.map (fun v => f32Rne (f32Mul (f32Mul v r) (pow2 (-e))))).map (clampInt (-127) 127)).all (fun v => v.natAbs < 8) }

theorem klfCode_finite {x : List F32} (sc : F32) (escOk : Bool) (h : ∀ v ∈ x, f32IsNan v = false ∧ f32IsInf v = false) :
    klfCode sc escOk x = if f32Eq (absMax x) 0 then { e := -8, codes := x.map (fun _ => 0) }
      else if (chunkExp (f32Mul (absMax x) (f32Div f32One sc))).isNone && escOk then escaped false x
      else codedAt (f32Div f32One sc) ((chunkExp (f32Mul (absMax x) (f32Div f32One sc))).getD 7) x := by
  have hany : x.any (fun v => f32IsNan v || f32IsInf v) = false := by
    rw [List.any_eq_false]
    intro v hv
    obtain ⟨h1, h2⟩ := h v hv
    rw [h1, h2]
    exact Bool.false_ne_true
  unfold klfCode
  rw [hany]
  rfl

theorem codedAt_leaves {r : F32} {e : Int} {code : F32 → Int} (x : List F32) (hc : ∀ v, code v = f32Rne (f32Mul (f32Mul v r) (pow2 (-e)))) :
    (codedAt r e x).codes = x.map (fun v => clampInt (-127) 127 (code v)) ∧
      (codedAt r e x).sat = min 255 (x.filter (fun v => 127 < (code v).natAbs)).length := by
  have hcode : (fun v => f32Rne (f32Mul (f32Mul v r) (pow2 (-e)))) = code := funext fun v => (hc v).symm
  unfold codedAt
  rw [hcode]
  refine ⟨List.map_map, ?_⟩
  rw [List.filter_map, List.length_map]
  rfl

theorem klfCode_leaves (sc : F32) (escOk : Bool) (x : List F32) :
    ((∃ v ∈ x, f32IsNan v = true ∨ f32IsInf v = true) →
      klfCode sc escOk x = { e := 7, esc := true, forced := true, raw := x.map bf16Of }) ∧
    ((∀ v ∈ x, f32IsNan v = false ∧ f32IsInf v = false) →
      (f32Eq (absMax x) 0 = true → klfCode sc escOk x = { e := -8, codes := x.map (fun _ => 0) }) ∧
      ∀ (r : F32) (holds : Nat → Bool) (code : Int → F32 → Int), f32Eq (absMax x) 0 = false → r = f32Div f32One sc →
        (∀ n, holds n = f32Le (f32Mul (absMax x) r) (f32Mul f127 (pow2 ((n : Int) - 8)))) →
        (∀ e v, code e v = f32Rne (f32Mul (f32Mul v r) (pow2 (-e)))) →
        (∀ n, n < 16 → holds n = true → (∀ m, m < n → holds m = false) →
          (klfCode sc escOk x).esc = false ∧ (klfCode sc escOk x).e = (n : Int) - 8 ∧
          (klfCode sc escOk x).codes = x.map (fun v => clampInt (-127) 127 (code ((n : Int) - 8) v)) ∧
          ((klfCode sc escOk x).under = true ↔ n = 0 ∧ ∀ q ∈ (klfCode sc escOk x).codes, q.natAbs < 8)) ∧
        ((∀ n, n < 16 → holds n = false) →
          (escOk = true → klfCode sc escOk x = { e := 7, esc := true, raw := x.map bf16Of }) ∧
          (escOk = false → (klfCode sc escOk x).esc = false ∧ (klfCode sc escOk x).e = 7 ∧
            (klfCode sc escOk x).codes = x.map (fun v => clampInt (-127) 127 (code 7 v)) ∧
            (klfCode sc escOk x).sat = min 255 (x.filter (fun v => 127 < (code 7 v).natAbs)).length))) := by
  refine ⟨fun ⟨v, hv, h⟩ => ?_, fun h => ⟨fun h0 => ?_, fun r holds code h0 hr hholds hcode => ?_⟩⟩
  · have hany : x.any (fun v => f32IsNan v || f32IsInf v) = true :=
      List.any_eq_true.mpr ⟨v, hv, Bool.or_eq_true_iff.mpr h⟩
    unfold klfCode
    rw [hany]
    rfl
  · rw [klfCode_finite sc escOk h, if_pos h0]
  · subst hr
    refine ⟨fun n hn hn' hmin => ?_, fun hnone => ?_⟩
    · have hexp := chunkExp_some hn ((hholds n).symm.trans hn') (fun m hm => (hholds m).symm.trans (hmin m hm))
      have hcoded : klfCode sc escOk x = codedAt (f32Div f32One sc) ((n : Int) - 8) x := by
        rw [klfCode_finite sc escOk h, h0, hexp]
        rfl
      rw [hcoded]
      refine ⟨rfl, rfl, (codedAt_leaves x (hcode _)).1, ?_⟩
      have hzero : ((n : Int) - 8 == -8) = true ↔ n = 0 := by
        rw [beq_iff_eq]
        omega
      unfold codedAt
      dsimp only
      rw [Bool.and_eq_true, hzero, List.all_eq_true]
      simp only [decide_eq_true_eq]
    · have hexp := chunkExp_none (fun n hn => (hholds n).symm.trans (hnone n hn))
      rw [klfCode_finite sc escOk h, h0, hexp]
      refine ⟨fun he => ?_, fun he => ?_⟩
      · rw [he]
        rfl
      · rw [he]
        obtain ⟨hcodes, hsat⟩ := codedAt_leaves (r := f32Div f32One sc) x (hcode 7)
        exact ⟨rfl, rfl, hcodes, hsat⟩

theorem decodeChunk_leaves (sc : F32) (f : Frame) : (f.esc = false → ∀ n : Nat, (decodeChunk sc f)[n]? =
      (f.codes[n]?).map (fun q => f32Mul (f32Mul (f32OfInt q) sc) (pow2 f.exp))) ∧
    (f.esc = true → decodeChunk sc f = f.raw.map f32OfBf16) := by
  unfold decodeChunk
  refine ⟨fun h n => ?_, fun h => if_pos h⟩
  rw [h]
  exact List.getElem?_map ..

/-! Combining slots (R140, R141). -/

theorem combine_ints {sc : F32} {sum : Bool} {f : Frame} {k : CombSlot} (hgot : k.got ≠ []) (hfp : k.fp = false) (hesc : f.esc = false)
    (hexp : f.exp = k.e) : combine sc sum f k = { k with
      got := k.got ++ [f.src], ints := (k.ints.zip f.codes).map (fun x => if sum then x.1 + x.2 else max x.1 x.2) } := by
  have hlen : ((k.got ++ [f.src]).length == 1) = false := by
    cases h : k.got with
    | nil => exact absurd h hgot
    | cons a l => simp
  unfold combine
  dsimp only
  rw [hlen, hfp, hesc, hexp, beq_self_eq_true]
  rfl

theorem combine_floats {sc : F32} {g : Frame} {k : CombSlot} (sum : Bool) (hgot : k.got ≠ []) (hfp : k.fp = false)
    (h : g.esc = true ∨ g.exp ≠ k.e) : (combine sc sum g k).fp = true ∧ (combine sc true g k).floats =
      ((k.ints.map (decodeElem sc k.e)).zip (decodeChunk sc g)).map (fun x => f32Add x.1 x.2) := by
  have hlen : ((k.got ++ [g.src]).length == 1) = false := by
    cases h : k.got with
    | nil => exact absurd h hgot
    | cons a l => simp
  have hmode : (!k.fp && !g.esc && g.exp == k.e) = false := by
    rcases h with h | h
    · rw [h]; simp
    · rw [beq_false_of_ne h]; simp
  unfold combine
  dsimp only
  rw [hlen, hmode, hfp]
  exact ⟨rfl, rfl⟩

theorem zipWith_right_comm {h : Int → Int → Int} (comm : ∀ a b c, h (h a b) c = h (h a c) b) (i f g : List Int) :
    List.zipWith h (List.zipWith h i f) g = List.zipWith h (List.zipWith h i g) f := by
  induction i generalizing f g with
  | nil => rfl
  | cons a i ih =>
    cases f with
    | nil => cases g <;> rfl
    | cons b f =>
      cases g with
      | nil => rfl
      | cons c g => rw [List.zipWith_cons_cons, List.zipWith_cons_cons, List.zipWith_cons_cons, List.zipWith_cons_cons, comm, ih]

/-- How a combining slot joins two integers. -/
noncomputable def joinInts (sum : Bool) (a b : Int) : Int := if sum then a + b else max a b

theorem joinInts_comm (sum : Bool) (a b c : Int) : joinInts sum (joinInts sum a b) c = joinInts sum (joinInts sum a c) b := by
  cases sum with
  | true => exact Int.add_right_comm a b c
  | false => exact max_right_comm a b c

theorem combine_order {sc : F32} {sum : Bool} {f g : Frame} {k : CombSlot} (hgot : k.got ≠ []) (hfp : k.fp = false) (hf : f.esc = false)
    (hef : f.exp = k.e) (hg : g.esc = false) (heg : g.exp = k.e) :
    (combine sc sum g (combine sc sum f k)).ints = (combine sc sum f (combine sc sum g k)).ints := by
  have hne (x : Frame) : k.got ++ [x.src] ≠ [] := List.append_ne_nil_of_right_ne_nil _ (List.cons_ne_nil _ _)
  rw [combine_ints hgot hfp hf hef, combine_ints hgot hfp hg heg]
  rw [combine_ints (k := { k with
      got := k.got ++ [f.src], ints := (k.ints.zip f.codes).map (fun x => if sum then x.1 + x.2 else max x.1 x.2) }) (hne f) hfp hg heg,
    combine_ints (k := { k with
      got := k.got ++ [g.src], ints := (k.ints.zip g.codes).map (fun x => if sum then x.1 + x.2 else max x.1 x.2) }) (hne g) hfp hf hef]
  dsimp only
  rw [List.map_zip_eq_zipWith, List.map_zip_eq_zipWith, List.map_zip_eq_zipWith, List.map_zip_eq_zipWith]
  exact zipWith_right_comm (h := joinInts sum) (joinInts_comm sum) _ _ _

theorem largest_cast (v : List Int) (a : Nat) :
    ((v.foldl (fun a x => max a x.natAbs) a : Nat) : Int) = v.foldl (fun a x => max a (x.natAbs : Int)) (a : Int) := by
  induction v generalizing a with
  | nil => rfl
  | cons x v ih =>
    rw [List.foldl_cons, List.foldl_cons, ih]
    exact congrArg (List.foldl _ · v) (Nat.cast_max ..)

theorem codeInts_leaves {sc : F32} {escOk : Bool} {e : Int} {v : List Int} {m n : Nat} (hm : m = v.foldl (fun a x => max a x.natAbs) 0)
    (hn : n ≤ 16) (hfit : rneShift (m : Int) n ≤ 127) (hmin : ∀ j, j < n → 127 < rneShift (m : Int) j) :
    (e + (n : Int) ≤ 7 → (codeInts sc escOk true e v).e = e + (n : Int) ∧
      (codeInts sc escOk true e v).codes = v.map (fun x => rneShift x n) ∧ (codeInts sc escOk true e v).sat = 0) ∧
    (7 < e + (n : Int) → codeInts sc escOk true e v = klfCode sc escOk (v.map (fun q => f32Mul (f32Mul (f32OfInt q) sc) (pow2 e)))) := by
  have hfirst : firstFrom (fun k => decide (rneShift (m : Int) k ≤ 127)) 17 0 = some n :=
    firstFrom_some (Nat.zero_le n) (by omega) (decide_eq_true hfit) (fun j _ hj => decide_eq_false (not_le.mpr (hmin j hj)))
  subst hm
  rw [largest_cast, Nat.cast_zero] at hfirst
  unfold codeInts
  rw [if_pos rfl]
  dsimp only
  rw [hfirst]
  refine ⟨fun h => ?_, fun h => if_pos h⟩
  rw [if_neg (by simpa using h)]
  exact ⟨rfl, rfl, rfl⟩

/-- Settles O45. -/
theorem linkFrames : Obligations.LinkFrames := by
  unfold Obligations.LinkFrames
  refine ⟨⟨fun s i j d hup hn => linkDown_leaves hup hn, fun s cyc i j n m d hi hn hr hf => ?_,
      fun s cyc i j n m d e f hi hn hin hstep hfirst => linkTagFailure_klf hi hn hin hstep hfirst,
      fun s cyc i j n m d l hi hn hup hl hfirst => linkTagFailure_other hi hn hup hl hfirst,
      fun s u cyc i j b n m d e f hn hin hb hage hu => linkTagFailure_second hn hin hb hage hu,
      fun s i j d e f hin => ?_⟩,
    fun s i j d e f x st hi hin hdest hij hcredit hst hx htag hwait => klfFrameReceive_stale hi hin hdest hij hcredit hst hx htag hwait,
    klfCode_leaves, decodeChunk_leaves, fun sc sum f g k hgot hfp hesc hexp => ?_, fun sc escOk e v m n hm hn hfit hmin => ?_⟩
  · obtain ⟨hgood, hfailed⟩ := exec_retrainingEnd cyc hn hr hf
    obtain ⟨hj, hij⟩ := neighbour_valid (of_decide_eq_true hi) hn
    refine ⟨fun auth ha => ⟨s.trainLink i j d, ?_, ?_⟩, fun auth ha => ?_, fun auth => linkAuthentic_iff, hfailed n m, fun hw => ?_⟩
    · rw [hgood, ha]
      rfl
    · obtain ⟨hti, htj, hothers⟩ := seg_trainLink (s := s) d hi (decide_eq_true hj) hij
      rw [hti, htj, module_onModule_same, module_onModule_same]
      exact ⟨rfl, rfl, rfl, rfl, rfl, rfl, hothers, rfl⟩
    · rw [hgood, ha]
      rfl
    · have hexec := hfailed 0 0
      rw [loseInLink_none, moduleFailed_eq (s := s.given (s.stampFor cyc)) hn hw] at hexec
      obtain ⟨hfi, hfj, hup, hdetour⟩ := failedEnds_leaves (s := s.given (s.stampFor cyc)) hi hn 0x10
      exact ⟨_, hexec, hfi, hfj, hup, hdetour, rfl⟩
  · have hexec := exec_klfFrameReceive hin
    refine ⟨fun hc => ?_, fun hc hne => ⟨_, ?_, rfl, fun k => ?_⟩, fun hc hd => ?_⟩
    · rw [hexec, hc]
      rfl
    · rw [hexec, hc, beq_false_of_ne hne]
      rfl
    · obtain ⟨h1, h2, h3⟩ := memory_sendFrame (s.takeFrame j d e) i e.detour (some (opposite d, e.detour)) f k
      obtain ⟨k1, k2, k3⟩ := memory_onHub s j (fun h => ({ h with tx := h.tx.erase e }).onModule d (frameLeaves j d)) k
      exact ⟨h1.trans k1, h2.trans k2, h3.trans k3⟩
    · rw [hexec, hc, hd, beq_self_eq_true]
      rfl
  · have hints := combine_ints (sc := sc) (sum := sum) hgot hfp hesc hexp
    refine ⟨?_, fun hg heg => combine_order hgot hfp hesc hexp hg heg, fun h => ?_⟩
    · rw [hints]
      refine ⟨hfp, rfl, fun n => ?_⟩
      dsimp only
      rw [List.map_zip_eq_zipWith, List.getElem?_zipWith]
      cases k.ints[n]? with
      | none => rfl
      | some a =>
        cases f.codes[n]? with
        | none => rfl
        | some b => rfl
    · obtain ⟨hmode, hfloats⟩ := combine_floats (sc := sc) sum hgot hfp h
      refine ⟨hmode, fun n => ?_⟩
      rw [hfloats, List.map_zip_eq_zipWith, List.getElem?_zipWith, List.getElem?_map]
      cases k.ints[n]? with
      | none => rfl
      | some a =>
        cases (decodeChunk sc g)[n]? with
        | none => rfl
        | some b => rfl
  · obtain ⟨hsmall, hlarge⟩ := codeInts_leaves (sc := sc) (escOk := escOk) (e := e) hm hn hfit hmin
    exact ⟨hsmall, hlarge, rfl, rfl⟩

end Sys2Proof.Proofs
end
section
/-! Span sessions and what comes on them (R150 to R154, R348, R411). -/

namespace Sys2Proof.Proofs

open Sys2Proof Sys2Proof.Machine

/-! Acknowledgements (R152, R251). -/

/-- A block stands but for its span sessions, the passages asked of it and the store space that they hold. -/
structure acksOnly (s t : State) : Prop where
  eq : t = { s with span := { s.span with sessions := t.span.sessions, asks := t.span.asks }, segs := t.segs }
  seg : ∀ i, t.seg i = { s.seg i with passageUsed := (t.seg i).passageUsed }
  length : t.segs.length = s.segs.length

theorem acksOnly.trans {s t u : State} (a : acksOnly s t) (b : acksOnly t u) : acksOnly s u := by
  refine ⟨?_, fun i => ?_, b.length.trans a.length⟩
  · have h := b.eq
    rw [a.eq] at h
    exact h
  · rw [b.seg, a.seg]

theorem acksOnly_onSpan (s : State) (id : Nat) (f : SpanSession → SpanSession) : acksOnly s (s.onSpan id f) :=
  ⟨rfl, fun _ => rfl, rfl⟩

theorem acksOnly_freed (s : State) (l : List SpanAsk) :
    acksOnly s (l.foldl (fun (t : State) a => t.onSeg a.seg (fun g => { g with passageUsed := g.passageUsed - a.bytes })) s) ∧
      (l.foldl (fun (t : State) a => t.onSeg a.seg (fun g => { g with passageUsed := g.passageUsed - a.bytes })) s).span = s.span := by
  induction l generalizing s with
  | nil => exact ⟨⟨rfl, fun _ => rfl, rfl⟩, rfl⟩
  | cons a l ih =>
    have hone : acksOnly s (s.onSeg a.seg (fun g => { g with passageUsed := g.passageUsed - a.bytes })) :=
      ⟨rfl, fun i => seg_onSeg_of (P := fun (g h : Segment) => h = { g with passageUsed := h.passageUsed }) s a.seg _ (fun _ => rfl) rfl i,
        s.onSeg_length _ _⟩
    obtain ⟨hrest, hspan⟩ := ih (s.onSeg a.seg (fun g => { g with passageUsed := g.passageUsed - a.bytes }))
    exact ⟨hone.trans hrest, hspan⟩

theorem freeAnswers_leaves (s : State) (f : SpanAsk → Bool) : acksOnly s (s.freeAnswers f) ∧
    (s.freeAnswers f).span = { s.span with asks := s.span.asks.filter (fun a => !f a) } ∧
    ((s.freeAnswers f).span.asks = s.span.asks → (s.freeAnswers f).segs = s.segs) := by
  obtain ⟨hfreed, hspan⟩ := acksOnly_freed s (s.span.asks.filter f)
  have hspan' : (s.freeAnswers f).span = { s.span with asks := s.span.asks.filter (fun a => !f a) } := by
    unfold State.freeAnswers
    dsimp only
    rw [hspan]
  refine ⟨⟨?_, hfreed.seg, hfreed.length⟩, hspan', fun h => ?_⟩
  · exact congrArg (fun t : State => { t with span := { t.span with asks := t.span.asks.filter (fun a => !f a) } }) hfreed.eq
  · rw [hspan'] at h
    have hnone : s.span.asks.filter f = [] := by
      refine List.filter_eq_nil_iff.mpr fun a ha => ?_
      rw [← show s.span.asks.filter (fun a => !f a) = s.span.asks from h] at ha
      simpa using (List.mem_filter.mp ha).2
    unfold State.freeAnswers
    rw [hnone]
    rfl

theorem spanSession_onSpan {s : State} {id : Nat} {x : SpanSession} (f : SpanSession → SpanSession) (h : s.spanSession id = some x)
    (hid : ∀ y, (f y).id = y.id) : (s.onSpan id f).spanSession id = some (f x) := by
  have hx : x.id = id := by simpa using List.find?_some h
  have hkeep : (fun y : SpanSession => (if y.id == id then f y else y).id == id) = fun y => y.id == id := funext fun y => by
    split
    · rw [hid]
    · rfl
  show (s.span.sessions.map (fun x => if x.id == id then f x else x)).find? (fun x => x.id == id) = _
  rw [List.find?_map]
  show Option.map _ (s.span.sessions.find? (fun y : SpanSession => (if y.id == id then f y else y).id == id)) = _
  rw [hkeep, show s.span.sessions.find? (fun y : SpanSession => y.id == id) = some x from h]
  exact congrArg some (if_pos (beq_iff_eq.mpr hx))

theorem id_ackedTo (ack : Nat) (x : SpanSession) : (ackedTo ack x).id = x.id := by
  unfold ackedTo
  dsimp only
  split
  · rfl
  · rfl

/-- What an ACK does (R152, R251). -/
theorem takeAck_leaves {s : State} {id ack : Nat} {x : SpanSession} (h : s.spanSession id = some x) :
    (s.takeAck id ack).spanSession id = some (ackedTo ack x) ∧ acksOnly s (s.takeAck id ack) ∧
      (s.takeAck id ack).span.asks = s.span.asks.filter (fun a => !(a.session == id && a.sent.any (· < (ackedTo ack x).acked))) ∧
      ((s.takeAck id ack).span.asks = s.span.asks → (s.takeAck id ack).segs = s.segs) := by
  have hx := spanSession_onSpan (ackedTo ack) h (id_ackedTo ack)
  have ht : s.takeAck id ack = (s.onSpan id (ackedTo ack)).freeAnswers
      (fun a => a.session == id && a.sent.any (· < (ackedTo ack x).acked)) := by
    unfold State.takeAck
    dsimp only
    rw [hx]
  obtain ⟨hacks, hspan, hsegs⟩ := freeAnswers_leaves (s.onSpan id (ackedTo ack))
    (fun a => a.session == id && a.sent.any (· < (ackedTo ack x).acked))
  rw [ht]
  refine ⟨?_, (acksOnly_onSpan s id _).trans hacks, ?_, hsegs⟩
  · unfold State.spanSession
    rw [hspan]
    exact hx
  · rw [hspan]
    rfl

theorem id_delivered (seq : Nat) (x : SpanSession) : (delivered seq x).id = x.id := rfl

section Comes
variable {s : State} {hd : SpanHeader}

theorem acksOnly_spanTaken {x : SpanSession} (h : s.spanSession hd.session = some x) : acksOnly s (s.spanTaken hd) :=
  (takeAck_leaves h).2.1.trans (acksOnly_onSpan _ _ _)

/-- A datagram that stands on its session and has not been delivered is acted on and acknowledged (R151, R152). -/
theorem spanTake_comes {phase : SpanPhase} {x : SpanSession} (h : s.spanSession hd.session = some x) (hp : x.phase = phase)
    (hopen : phase ≠ .closed) (hpeer : x.peer = hd.block) (hnew : x.had hd.seq = false) (act : State → State) :
    s.spanTake phase hd act = (act (s.spanTaken hd)).spanAcks hd.session := by
  unfold State.spanTake
  rw [h]
  dsimp only
  rw [hp, hpeer, hnew, bne_self_eq_false, bne_self_eq_false, Bool.and_false, beq_false_of_ne hopen]
  rfl

theorem spanDatagram_comes (hc : s.spanComes hd) {n k : Nat} (hfit : spanFits hd n k = true) (act : State → State) :
    s.spanDatagram hd n k act = .next ((act (s.spanTaken hd)).spanAcks hd.session) := by
  obtain ⟨hup, x, hx, hp, hpeer, hnew⟩ := hc
  unfold State.spanDatagram
  rw [hup, hfit, spanTake_comes hx hp (by decide) hpeer hnew]
  rfl

end Comes

/-! Datagrams that leave (R150). -/

theorem spanAcks_eq (s : State) (id : Nat) : ∃ l, s.spanAcks id = { s with span := { s.span with out := l } } := by
  unfold State.spanAcks
  split
  · exact ⟨_, rfl⟩
  · exact ⟨s.span.out, rfl⟩

/-- A session on which a datagram has been posted: it is kept until it is acknowledged (R152). -/
noncomputable def posted (beat : Nat) (y : SpanSession) : SpanSession :=
  { y with txSeq := (y.txSeq + 1) % 2 ^ 32, unacked := y.unacked ++ [(y.txSeq, beat)] }

theorem spanPost_eq {s : State} {id : Nat} {x : SpanSession} (type length records : Nat) (payload : List Nat → List Nat)
    (h : s.spanSession id = some x) : s.spanPost id type length records payload =
      (s.emit (s.datagram x type x.txSeq length records payload)).onSpan id (posted s.time.beat) := by
  unfold State.spanPost
  rw [h]
  rfl

theorem datagram_head (s : State) (x : SpanSession) (type seq length records : Nat) (payload : List Nat → List Nat) :
    (s.datagram x type seq length records payload).type = type ∧ (s.datagram x type seq length records payload).session = x.id ∧
      (s.datagram x type seq length records payload).seq = seq := ⟨rfl, rfl, rfl⟩

/-! Sessions that open (R11, R34, R150, R152, R348). -/

section Open
variable {s : State} {hd : SpanHeader} {h : SpanHello}

theorem exec_sessionOpen (hup : s.spanUp = true) (hw : s.isWorker = true) (hb : hd.block = 0) (hl : hd.length = 376) :
    exec (.sessionOpen hd h) s = .next (s.answerOpen hd h) := by
  show execSessionOpen hd h s = _
  simp only [execSessionOpen, onlyIf, hup, hw, hb, hl]
  rfl

theorem answerOpen_new (hnone : s.spanSession hd.session = none) : s.answerOpen hd h =
    if hd.major != 3 then s.refuseSession hd 1
    else if s.span.sessions.any (fun x => x.phase != .closed) then s.refuseSession hd 2
    else if s.trusts 0 h then s.acceptSession hd h
    else s.spanAuthFail.refuseSession hd 3 := by
  unfold State.answerOpen
  rw [hnone]
  rfl

/-- A session appended to those of a block without one of its identifier is found by it. -/
theorem find_new {l : List SpanSession} {id : Nat} {x : SpanSession} (hl : l.find? (fun y => y.id == id) = none) (hx : x.id = id) :
    (l ++ [x]).find? (fun y => y.id == id) = some x := by
  rw [List.find?_append, hl, Option.none_or]
  exact List.find?_cons_of_pos (p := fun y : SpanSession => y.id == id) (beq_iff_eq.mpr hx)

theorem tidySessions_none {id : Nat} (hnone : s.spanSession id = none) : s.tidySessions.spanSession id = none := by
  refine List.find?_eq_none.mpr fun y hy => ?_
  exact List.find?_eq_none.mp hnone y (List.mem_filter.mp hy).1

/-- The session that a worker opens. -/
noncomputable def acceptedSession (s : State) (hd : SpanHeader) : SpanSession :=
  delivered hd.seq
    { peer := 0, id := hd.session, phase := .opened, minor := min 2 hd.minor, stream := s.span.streamOf hd.session, addr := hd.source,
      nonce := Config.nonce s.free, secret := Config.freshKey s.free }

/-- A worker that has taken up the session. -/
noncomputable def accepting (s : State) (hd : SpanHeader) : State := { s.tidySessions with
  span := { s.tidySessions.span with sessions := s.tidySessions.span.sessions ++ [acceptedSession s hd] }, free := s.free + 1 }

/-- A worker accepts the session that its span manager opens (R152, R348). -/
theorem acceptSession_leaves (hnone : s.spanSession hd.session = none) : ∃ x, (s.acceptSession hd h).spanSession hd.session = some x ∧
    x.phase = .opened ∧ x.peer = 0 ∧ x.minor = min 2 hd.minor ∧ x.txSeq = 1 ∧ x.addr = hd.source ∧ x.txKey.isSome = true ∧
    x.rxKey.isSome = true ∧ (∃ m ∈ (s.acceptSession hd h).span.out, m.type = 0x02 ∧ m.session = hd.session ∧ m.seq = 0) ∧
    (s.acceptSession hd h).free = s.free + 1 ∧
    s.acceptSession hd h = { s with span := (s.acceptSession hd h).span, free := (s.acceptSession hd h).free } := by
  have hfind : (accepting s hd).spanSession hd.session = some (acceptedSession s hd) := find_new (tidySessions_none hnone) rfl
  have hpost := spanPost_eq 0x02 376 0 (s.helloPayload (acceptedSession s hd).nonce (acceptedSession s hd).secret (openSigned hd h)) hfind
  have haccept : s.acceptSession hd h = ((accepting s hd).spanPost hd.session 0x02 376 0
      (s.helloPayload (acceptedSession s hd).nonce (acceptedSession s hd).secret (openSigned hd h))).onSpan hd.session
      (spanKeys false h.ephemeral h.nonce (acceptedSession s hd).nonce) := rfl
  rw [hpost] at haccept
  generalize hm : (accepting s hd).datagram (acceptedSession s hd) 0x02 (acceptedSession s hd).txSeq 376 0
    (s.helloPayload (acceptedSession s hd).nonce (acceptedSession s hd).secret (openSigned hd h)) = m at haccept
  have hposted := spanSession_onSpan (s := (accepting s hd).emit m) (posted (accepting s hd).time.beat) hfind (fun _ => rfl)
  have hkeys := spanSession_onSpan (spanKeys false h.ephemeral h.nonce (acceptedSession s hd).nonce) hposted (fun _ => rfl)
  rw [← haccept] at hkeys
  obtain ⟨htype, hsession, hseq⟩ := datagram_head (accepting s hd) (acceptedSession s hd) 0x02 (acceptedSession s hd).txSeq 376 0
    (s.helloPayload (acceptedSession s hd).nonce (acceptedSession s hd).secret (openSigned hd h))
  rw [hm] at htype hsession hseq
  obtain ⟨p, hspan⟩ : ∃ p, s.acceptSession hd h = { accepting s hd with span := p } := ⟨_, haccept⟩
  refine ⟨_, hkeys, rfl, rfl, rfl, rfl, rfl, rfl, rfl, ⟨m, ?_, htype, hsession, hseq⟩, ?_, ?_⟩
  · rw [haccept]
    exact List.mem_append_right _ (List.mem_singleton.mpr rfl)
  · rw [hspan]
    rfl
  · rw [hspan]
    rfl

theorem exec_sessionAccept {x : SpanSession} (hup : s.spanUp = true) (hm : s.isSpanManager = true) (hx : s.spanSession hd.session = some x)
    (hp : x.phase = .opening) (hpeer : x.peer = hd.block) (hnew : x.had hd.seq = false) (hl : hd.length = 376) :
    exec (.sessionAccept hd h) s = .next (((s.spanTaken hd).checkAccept hd h).spanAcks hd.session) := by
  rw [← spanTake_comes hx hp (by decide) hpeer hnew (fun t => t.checkAccept hd h)]
  show execSessionAccept hd h s = _
  simp only [execSessionAccept, onlyIf, hup, hm, hl, beq_self_eq_true, Bool.and_self, if_true]

theorem checkAccept_eq {x : SpanSession} (hx : s.spanSession hd.session = some x) : (s.spanTaken hd).checkAccept hd h =
    if s.trusts hd.block h then
      (s.spanTaken hd).onSpan hd.session (fun x => spanKeys true h.ephemeral x.nonce h.nonce { x with phase := .opened, minor := min 2 hd.minor })
    else (((s.spanTaken hd).spanAuthFail.spanSend hd.session 0x09 0 []).onSpan hd.session
      (fun x => { closedSession x with retryAt := some (s.time.beat + 200000) })) := by
  have heq := (acksOnly_spanTaken hx).eq
  have htrusts : (s.spanTaken hd).trusts hd.block h = s.trusts hd.block h := (congrArg (fun t : State => t.trusts hd.block h) heq :)
  have hbeat : (s.spanTaken hd).time.beat = s.time.beat := (congrArg (fun t : State => t.time.beat) heq :)
  unfold State.checkAccept
  rw [htrusts, hbeat]

theorem exec_sessionRefuse {x : SpanSession} (hup : s.spanUp = true) (hm : s.isSpanManager = true) (hx : s.spanSession hd.session = some x)
    (hp : x.phase = .opening) (hpeer : x.peer = hd.block) (r : Nat) :
    exec (.sessionRefuse hd r) s = .next (s.onSpan hd.session closedSession) := by
  show execSessionRefuse hd r s = _
  simp only [execSessionRefuse, onlyIf, hup, hm, hx, hp, hpeer, beq_self_eq_true]
  rfl

end Open

/-! Acknowledgements, ends and renewals of sessions (R151, R152, R348). -/

section Sessions
variable {s : State}

theorem exec_spanAck {hd : SpanHeader} {x : SpanSession} (hup : s.spanUp = true) (hx : s.spanSession hd.session = some x)
    (hp : x.phase = .opened) (hpeer : x.peer = hd.block) : exec (.spanAck hd) s = .next (s.takeAck hd.session hd.ack) ∧
      exec (.close hd) s = .next (s.spanEnds hd.session) := by
  refine ⟨?_, ?_⟩
  · show execSpanAck hd s = _
    simp only [execSpanAck, onlyIf, hup, hx, hp, hpeer, beq_self_eq_true]
    rfl
  · show execClose hd s = _
    simp only [execClose, onlyIf, hup, hx, hp, hpeer, beq_self_eq_true]
    rfl

/-- The sessions and passages that an ACK leaves. -/
theorem spanAck_leaves {hd : SpanHeader} {x : SpanSession} (hx : s.spanSession hd.session = some x) :
    ∃ y, (s.takeAck hd.session hd.ack).spanSession hd.session = some y ∧
      (x.acked < (hd.ack + 1) % 2 ^ 32 → (hd.ack + 1) % 2 ^ 32 ≤ x.txSeq →
        y = { x with acked := (hd.ack + 1) % 2 ^ 32, noAdvance := 0, unacked := x.unacked.filter (fun e => (hd.ack + 1) % 2 ^ 32 ≤ e.1) }) ∧
      ((hd.ack + 1) % 2 ^ 32 ≤ x.acked → y = x) ∧
      (s.takeAck hd.session hd.ack).span.asks =
        s.span.asks.filter (fun a => !(a.session == hd.session && a.sent.any (· < y.acked))) := by
  obtain ⟨hy, -, hasks, -⟩ := takeAck_leaves (ack := hd.ack) hx
  refine ⟨_, hy, fun h1 h2 => ?_, fun h => ?_, hasks⟩
  · unfold ackedTo
    exact if_pos (by rw [decide_eq_true h1, decide_eq_true h2]; rfl)
  · unfold ackedTo
    exact if_neg (by rw [decide_eq_false (Nat.not_lt.mpr h), Bool.false_and]; exact Bool.false_ne_true)

theorem exec_spanDatagramDrop (f : RxFrame) (hup : s.spanUp = true) : exec (.spanDatagramDrop f) s =
    .next (if s.frameAccepted f then s.dropDatagram else s.count (fun c => { c with frameDrops := c.frameDrops + 1 })) := by
  show execSpanDatagramDrop f s = _
  simp only [execSpanDatagramDrop, onlyIf, hup]
  rfl

theorem frameAccepted_iff (f : RxFrame) : s.frameAccepted f = true ↔ f.rxErr = false ∧ f.mac = s.glob.localMac ∧ f.etherType = 0x86DD ∧
    f.next = 17 ∧ f.dest = s.glob.localIp ∧
      f.extension = false ∧ f.port = s.glob.spanPort ∧ f.checksum = udpChecksumOf f.source f.dest f.srcPort f.port f.data ∧
      ((∃ x ∈ s.glob.spanPeers, x.2 = f.source) ∨
        (s.isWorker = true ∧ ∀ x ∈ s.span.sessions, x.phase = .closed ∨ x.addr = f.source)) := by
  simp only [State.frameAccepted, State.sourceStands, checksumStands, Bool.and_eq_true, Bool.or_eq_true, Bool.not_eq_true', beq_iff_eq,
    List.any_eq_true, List.all_eq_true]
  constructor
  · rintro ⟨⟨⟨⟨⟨⟨⟨⟨h1, h2⟩, h3⟩, h4⟩, h5⟩, h6⟩, h7⟩, h8⟩, h9⟩
    exact ⟨h1, h2, h3, h4, h5, h6, h8, h9, h7⟩
  · rintro ⟨h1, h2, h3, h4, h5, h6, h8, h9, h7⟩
    exact ⟨⟨⟨⟨⟨⟨⟨⟨h1, h2⟩, h3⟩, h4⟩, h5⟩, h6⟩, h7⟩, h8⟩, h9⟩

theorem exec_spanRetransmit {id seq b : Nat} {x : SpanSession} (hup : s.spanUp = true) (hx : s.spanSession id = some x)
    (hmem : (seq, b) ∈ x.unacked) (hdue : b + s.glob.spanRetx ≤ s.time.beat) :
    exec (.spanRetransmit id seq) s = .next (if 8 ≤ x.noAdvance then s.spanEnds id else s.sendAgain x seq) := by
  have hany : x.unacked.any (fun e => e.1 == seq && e.2 + s.glob.spanRetx ≤ s.time.beat) = true :=
    List.any_eq_true.mpr ⟨_, hmem, by rw [beq_self_eq_true, decide_eq_true hdue]; rfl⟩
  show execSpanRetransmit id seq s = _
  simp only [execSpanRetransmit, onlyIf, hup, hx, hany]
  rfl

theorem exec_spanSessionRekey {id : Nat} {x : SpanSession} (hx : s.spanSession id = some x) (hp : x.phase = .opened) :
    ((x.txGen + 1) * 2 ^ 28 ≤ x.txSeq → exec (.spanSessionRekey id true) s = .next
      (s.onSpan id (fun x => { x with txGen := x.txGen + 1, txKey := x.txKey.map nextSpanKey }))) ∧
    ((x.rxGen + 1) * 2 ^ 28 ≤ x.rxNext → exec (.spanSessionRekey id false) s = .next
      (s.onSpan id (fun x => { x with rxGen := x.rxGen + 1, rxKey := x.rxKey.map nextSpanKey }))) := by
  refine ⟨fun h => ?_, fun h => ?_⟩
  · show execSpanSessionRekey id true s = _
    simp only [execSpanSessionRekey, onlyIf, hx, hp, beq_self_eq_true, Bool.true_and, if_true, decide_eq_true h]
  · show execSpanSessionRekey id false s = _
    simp only [execSpanSessionRekey, onlyIf, hx, hp, beq_self_eq_true, Bool.true_and, if_true, Bool.false_eq_true, if_false, decide_eq_true h]

theorem exec_spanSessionRenew {id : Nat} {x : SpanSession} (hx : s.spanSession id = some x) (hp : x.phase = .opened) (hup : s.spanUp = true)
    (hm : s.isSpanManager = true) (htx : x.txSeq < 2 ^ 31) (hrx : x.rxNext < 2 ^ 31) :
    exec (.spanSessionRenew id) s = .next (((s.spanSend id 0x09 0 []).onSpan id closedSession).openSpan x.peer) := by
  show execSpanSessionRenew id s = _
  simp only [execSpanSessionRenew, hx]
  exact congrArg Host.Outcome.next (if_pos (by rw [hup, hm, hp, decide_eq_true htx, decide_eq_true hrx]; rfl))

/-- The session that a span manager opens. -/
noncomputable def openingSession (s : State) (peer : Nat) : SpanSession :=
  { peer := peer, id := s.span.nextId, phase := .opening, minor := 2, stream := s.tidySessions.span.streamOf s.span.nextId,
    addr := (aGet peer s.glob.spanPeers).getD 0, nonce := Config.nonce s.free, secret := Config.freshKey s.free }

/-- A span manager that has taken up the session it opens. -/
noncomputable def openingSpan (s : State) (peer : Nat) : State := { s.tidySessions with
  span := { s.tidySessions.span with
    sessions := s.tidySessions.span.sessions ++ [openingSession s peer], nextId := (s.span.nextId + 1) % 2 ^ 32 }
  free := s.free + 1 }

/-- The span manager opens a session with a peer (R150, R348). -/
theorem openSpan_leaves (s : State) (peer : Nat) : ∃ x, x ∈ (s.openSpan peer).span.sessions ∧ x.peer = peer ∧ x.phase = .opening ∧
    x.id = s.span.nextId ∧ (s.openSpan peer).span.nextId = (s.span.nextId + 1) % 2 ^ 32 ∧
    s.openSpan peer = { s with span := (s.openSpan peer).span, free := s.free + 1 } := by
  have hpost (type length records : Nat) (payload : List Nat → List Nat) : ∃ m, (openingSpan s peer).spanPost s.span.nextId type length records payload =
      ((openingSpan s peer).emit m).onSpan s.span.nextId (posted s.time.beat) := by
    obtain ⟨x, hx⟩ : ∃ x, (openingSpan s peer).spanSession s.span.nextId = some x := by
      refine Option.isSome_iff_exists.mp (List.find?_isSome.mpr ⟨openingSession s peer, List.mem_append_right _ (List.mem_singleton.mpr rfl), ?_⟩)
      exact beq_self_eq_true _
    exact ⟨_, spanPost_eq type length records payload hx⟩
  have hopen : s.openSpan peer = (openingSpan s peer).spanPost s.span.nextId 0x01 376 0
      (s.tidySessions.helloPayload (openingSession s peer).nonce (openingSession s peer).secret []) := rfl
  obtain ⟨m, hm⟩ := hpost 0x01 376 0 (s.tidySessions.helloPayload (openingSession s peer).nonce (openingSession s peer).secret [])
  rw [hm] at hopen
  have hmem : posted s.time.beat (openingSession s peer) ∈ (s.openSpan peer).span.sessions := by
    rw [hopen]
    exact List.mem_map.mpr ⟨openingSession s peer, List.mem_append_right _ (List.mem_singleton.mpr rfl), if_pos (beq_self_eq_true _)⟩
  refine ⟨_, hmem, rfl, rfl, rfl, ?_, ?_⟩
  · rw [hopen]
    rfl
  · obtain ⟨p, hp⟩ : ∃ p, s.openSpan peer = { openingSpan s peer with span := p } := ⟨_, hopen⟩
    rw [hp]
    rfl

theorem spanSessionRetry_opens {peer a : Nat} (hup : s.spanUp = true) (hm : s.isSpanManager = true) (hmem : (peer, a) ∈ s.glob.spanPeers)
    (hopen : s.mayOpen peer = true) :
    ∃ t x, exec (.spanSessionRetry peer) s = .next t ∧ x ∈ t.span.sessions ∧ x.peer = peer ∧ x.phase = .opening ∧ x.id = s.span.nextId ∧
      t.span.nextId = (s.span.nextId + 1) % 2 ^ 32 ∧ t = { s with span := t.span, free := s.free + 1 } := by
  have hany : s.glob.spanPeers.any (fun e => e.1 == peer) = true := List.any_eq_true.mpr ⟨_, hmem, beq_self_eq_true _⟩
  obtain ⟨x, hx, hpeer, hp, hid, hnext, heq⟩ := openSpan_leaves ({ s with span := { s.span with
    sessions := s.span.sessions.map (fun x => if x.peer == peer then { x with retryAt := none } else x) } }) peer
  refine ⟨_, x, ?_, hx, hpeer, hp, hid, hnext, heq⟩
  show execSpanSessionRetry peer s = _
  simp only [execSpanSessionRetry, onlyIf, hup, hm, hany, hopen]
  rfl

end Sessions

/-- Settles O47. -/
theorem spanSessions : Obligations.SpanSessions := by
  unfold Obligations.SpanSessions
  refine ⟨⟨fun s hd h hup hw hb hl => ⟨fun hsome => ?_, fun hnone => ⟨fun hmaj => ?_, fun hmaj hopen => ?_, fun hmaj hclosed => ?_⟩⟩,
    fun s hd h hup hno => ?_, fun s u hd h x hup hm hx hp hpeer hnew hu => ⟨fun hl ht => ?_, fun hl ht => ?_, exec_sessionRefuse hup hm hx hp hpeer⟩⟩,
    fun s hd x hup hx hp hpeer => ⟨?_, (exec_spanAck hup hx hp hpeer).2⟩,
    fun s f hup => ⟨fun h => ?_, fun h => ?_, frameAccepted_iff f⟩,
    fun s id seq b x hup hx hmem hdue => ⟨fun h => ?_, fun h => ?_⟩,
    fun s id x hx hp => ⟨(exec_spanSessionRekey hx hp).1, (exec_spanSessionRekey hx hp).2, fun hup hm htx hrx =>
      exec_spanSessionRenew hx hp hup hm htx hrx⟩,
    fun s peer a hup hm hmem hopen => spanSessionRetry_opens hup hm hmem hopen⟩
  · rw [exec_sessionOpen hup hw hb hl]
    exact congrArg Host.Outcome.next (if_pos (Option.isSome_iff_ne_none.mpr hsome))
  · rw [exec_sessionOpen hup hw hb hl, answerOpen_new hnone, if_pos (bne_iff_ne.mpr hmaj)]
  · obtain ⟨x, hx, hne⟩ := hopen
    rw [exec_sessionOpen hup hw hb hl, answerOpen_new hnone, hmaj, if_neg (by decide),
      if_pos (List.any_eq_true (p := fun x : SpanSession => x.phase != .closed) |>.mpr ⟨x, hx, bne_iff_ne.mpr hne⟩)]
  · have hany : s.span.sessions.any (fun x => x.phase != .closed) = false := List.any_eq_false.mpr fun x hx => by
      rw [hclosed x hx]
      decide
    have hexec := exec_sessionOpen (h := h) hup hw hb hl
    rw [answerOpen_new hnone, hmaj, if_neg (by decide), hany, if_neg Bool.false_ne_true] at hexec
    refine ⟨fun ht => ?_, fun ht => ?_⟩
    · rw [hexec, ht]
      rfl
    · rw [ht, if_pos rfl] at hexec
      obtain ⟨x, hx, hleft⟩ := acceptSession_leaves (h := h) hnone
      obtain ⟨hp, hpeer, hminor, hseq, haddr, htx, hrx, hout, hfree, heq⟩ := hleft
      exact ⟨_, x, hexec, hx, hp, hpeer, hminor, hseq, haddr, htx, hrx, hout, hfree, heq⟩
  · have hcond : (s.isWorker && hd.block == 0 && hd.length == 376) = false := by
      rcases hno with h | h | h
      · rw [h]; rfl
      · rw [beq_false_of_ne h]; simp
      · rw [beq_false_of_ne h]; simp
    show execSessionOpen hd h s = _
    simp only [execSessionOpen, onlyIf, hup, hcond]
    rfl
  · subst hu
    rw [exec_sessionAccept hup hm hx hp hpeer hnew hl, checkAccept_eq hx, if_pos ht]
  · subst hu
    rw [exec_sessionAccept hup hm hx hp hpeer hnew hl, checkAccept_eq hx, ht]
    rfl
  · obtain ⟨y, hy, hnew, hold, hasks⟩ := spanAck_leaves hx
    obtain ⟨-, ⟨heq, hseg, -⟩, -, hsegs⟩ := takeAck_leaves (ack := hd.ack) hx
    exact ⟨_, y, (exec_spanAck hup hx hp hpeer).1, hy, hnew, hold, hasks, hseg, hsegs, heq⟩
  · rw [exec_spanDatagramDrop f hup, h]
    rfl
  · rw [exec_spanDatagramDrop f hup, h]
    rfl
  · rw [exec_spanRetransmit hup hx hmem hdue, if_pos h]
  · rw [exec_spanRetransmit hup hx hmem hdue, if_neg (Nat.not_le.mpr h)]

end Sys2Proof.Proofs
end
section
/-! What comes on span sessions: queries, lists, passages and KLF records (R150 to R154, R246 to R251). -/

namespace Sys2Proof.Proofs

open Sys2Proof Sys2Proof.Machine

section Comes
variable {s : State} {hd : SpanHeader}

/-- The state that a datagram's ACK leaves differs in its span sessions and in store space alone. -/
theorem acksOnly_comes (hc : s.spanComes hd) : acksOnly s (s.spanTaken hd) := by
  obtain ⟨-, x, hx, -⟩ := hc
  exact acksOnly_spanTaken hx

theorem acksOnly.fields {t : State} (h : acksOnly s t) : t.glob = s.glob ∧ t.seqs = s.seqs ∧ t.indexes = s.indexes ∧ t.cnt = s.cnt ∧
    t.time = s.time ∧ t.span.queries = s.span.queries :=
  ⟨(congrArg State.glob h.eq :), (congrArg State.seqs h.eq :), (congrArg State.indexes h.eq :), (congrArg State.cnt h.eq :),
    (congrArg State.time h.eq :), (congrArg (fun t : State => t.span.queries) h.eq :)⟩

theorem acksOnly.withSegs {t : State} (h : acksOnly s t) (p : Span) (G : List Segment) :
    ({ t with span := p, segs := G } : State) = { s with span := p, segs := G } :=
  congrArg (fun v : State => { v with span := p, segs := G }) h.eq

theorem acksOnly.withSeqs {t : State} (h : acksOnly s t) (p : Span) (q : List (Nat × Sequence)) :
    ({ t with span := p, seqs := q } : State) = { s with span := p, seqs := q, segs := t.segs } :=
  congrArg (fun v : State => { v with span := p, seqs := q }) h.eq

theorem acksOnly.withCount {t : State} (h : acksOnly s t) (p : Span) (c : Counters) :
    ({ t with span := p, cnt := c } : State) = { s with span := p, cnt := c, segs := t.segs } :=
  congrArg (fun v : State => { v with span := p, cnt := c }) h.eq

theorem sumNat_one (n : Nat) : sumNat [n] = n := by
  simp [sumNat]

/-! Datagrams of records (R150, R151). -/

theorem exec_query (hc : s.spanComes hd) (q : QueryRec) (qs : List QueryRec) (hw : s.isWorker = true)
    (hfit : spanFits hd (sumNat ((q :: qs).map queryBytes)) (qs.length + 1) = true) :
    exec (.query ⟨hd, qs⟩ q.deadline q.tag q.indexId q.nprobe q.scanK q.dim q.vector) s = .next
      (((q :: qs).foldl (fun v r => v.serveQuery hd.session r) (s.spanTaken hd)).spanAcks hd.session) := by
  have hw' : (s.spanTaken hd).isWorker = true := by
    unfold State.isWorker
    rw [(acksOnly_comes hc).fields.1]
    exact hw
  refine (spanDatagram_comes hc hfit (fun t => if t.isWorker then (q :: qs).foldl (fun v r => v.serveQuery hd.session r) t else t)).trans ?_
  rw [if_pos hw']

theorem exec_heapResult (hc : s.spanComes hd) (h : HeapRec) (hs : List HeapRec) (hm : s.isSpanManager = true)
    (hfit : spanFits hd (sumNat ((h :: hs).map (fun r => 16 + 16 * r.entries.length))) (hs.length + 1) = true) :
    exec (.heapResult ⟨hd, hs⟩ h.tag h.first h.entries h.last) s = .next
      (((h :: hs).foldl (fun v r => v.takeHeap hd.session r) (s.spanTaken hd)).spanAcks hd.session) := by
  have hm' : (s.spanTaken hd).isSpanManager = true := by
    unfold State.isSpanManager
    rw [(acksOnly_comes hc).fields.1]
    exact hm
  refine (spanDatagram_comes hc hfit (fun t => if t.isSpanManager then (h :: hs).foldl (fun v r => v.takeHeap hd.session r) t else t)).trans ?_
  rw [if_pos hm']

theorem exec_candidateRef (hc : s.spanComes hd) (c : CandRef) (cs : List CandRef)
    (hfit : spanFits hd (sumNat ((c :: cs).map candBytes)) (cs.length + 1) = true) :
    exec (.candidateRef hd c cs) s = .next
      (((c :: cs).foldl (fun v r => v.takeCandRef hd.session r) (s.spanTaken hd)).spanAcks hd.session) :=
  spanDatagram_comes hc hfit (fun t => (c :: cs).foldl (fun v r => v.takeCandRef hd.session r) t)

theorem exec_klfData (hc : s.spanComes hd) (k : KlfRecord) (ks : List KlfRecord)
    (hfit : spanFits hd (sumNat ((k :: ks).map klfBytes)) (ks.length + 1) = true) :
    exec (.klfData ⟨hd, ks⟩ k.frame k.scale k.destSeg k.window k.offset) s = .next
      (((k :: ks).foldl State.takeRecord (s.spanTaken hd)).spanAcks hd.session) :=
  spanDatagram_comes hc hfit (fun t => (k :: ks).foldl State.takeRecord t)

/-- A datagram that does not fit its payload is dropped (R150). -/
theorem klfData_misfit (hup : s.spanUp = true) (k : KlfRecord) (ks : List KlfRecord)
    (hfit : spanFits hd (sumNat ((k :: ks).map klfBytes)) (ks.length + 1) = false) :
    exec (.klfData ⟨hd, ks⟩ k.frame k.scale k.destSeg k.window k.offset) s = .next s.dropDatagram := by
  show s.spanDatagram hd (sumNat ((k :: ks).map klfBytes)) (ks.length + 1) _ = _
  unfold State.spanDatagram
  rw [hup, hfit]
  rfl

/-- A datagram of a session already delivered only brings its ACK; one of an unknown session is dropped (R151, R152). -/
theorem klfData_old (hup : s.spanUp = true) (k : KlfRecord) (ks : List KlfRecord)
    (hfit : spanFits hd (sumNat ((k :: ks).map klfBytes)) (ks.length + 1) = true) :
    (∀ x, s.spanSession hd.session = some x → x.phase = .opened → x.peer = hd.block → x.had hd.seq = true →
      exec (.klfData ⟨hd, ks⟩ k.frame k.scale k.destSeg k.window k.offset) s = .next (s.takeAck hd.session hd.ack)) ∧
    (s.spanSession hd.session = none →
      exec (.klfData ⟨hd, ks⟩ k.frame k.scale k.destSeg k.window k.offset) s = .next s.dropDatagram) := by
  have htake : exec (.klfData ⟨hd, ks⟩ k.frame k.scale k.destSeg k.window k.offset) s =
      .next (s.spanTake .opened hd (fun t => (k :: ks).foldl State.takeRecord t)) := by
    show s.spanDatagram hd (sumNat ((k :: ks).map klfBytes)) (ks.length + 1) _ = _
    unfold State.spanDatagram
    rw [hup, hfit]
    rfl
  rw [htake]
  unfold State.spanTake
  refine ⟨fun x hx hp hpeer hold => ?_, fun hx => ?_⟩
  · rw [hx]
    dsimp only
    rw [hp, hpeer, hold, bne_self_eq_false]
    rfl
  · rw [hx]

/-! Queries (R246). -/

theorem spanIndex_acks {t : State} (h : acksOnly s t) (indexId dim : Nat) : t.spanIndex indexId dim = s.spanIndex indexId dim := by
  obtain ⟨hglob, -, hindexes, -⟩ := h.fields
  unfold State.spanIndex
  rw [hglob, hindexes]

theorem freeIndex_acks {t : State} (h : acksOnly s t) : t.freeIndex = s.freeIndex := by
  unfold State.freeIndex State.live
  rw [h.fields.2.1]

theorem query_served (hc : s.spanComes hd) {r : QueryRec} (hw : s.isWorker = true) (hfit : spanFits hd (queryBytes r) 1 = true) :
    (s.spanIndex r.indexId r.dim = none →
      exec (.query ⟨hd, []⟩ r.deadline r.tag r.indexId r.nprobe r.scanK r.dim r.vector) s = .next
      (((s.spanTaken hd).emptyHeap hd.session r.tag).spanAcks hd.session)) ∧
    (∀ x n, s.spanIndex r.indexId r.dim = some x → s.freeIndex = some n → ∃ t q y,
      exec (.query ⟨hd, []⟩ r.deadline r.tag r.indexId r.nprobe r.scanK r.dim r.vector) s = .next t ∧ t.live n = some q ∧ q.req.spanQuery = some r.tag ∧
      q.req.part = s.glob.spanPartition ∧ q.req.cls = .lc ∧
      t.span.queries = s.span.queries ++ [y] ∧ y.tag = r.tag ∧ y.session = hd.session ∧ y.indexId = r.indexId ∧
      y.nprobe = clampNat 1 (ixNlist x.desc) r.nprobe ∧ y.scanK = clampNat 1 1024 r.scanK ∧ y.vector = r.vector ∧ y.deadline = r.deadline ∧
      t = { s with seqs := t.seqs, span := t.span, segs := (s.spanTaken hd).segs }) := by
  have hexec := exec_query hc r [] hw (by rw [List.map_singleton, sumNat_one]; exact hfit)
  have hacks := acksOnly_comes hc
  obtain ⟨hglob, hseqs, -, -, -, hqueries⟩ := hacks.fields
  refine ⟨fun hnone => ?_, fun x n hx hn => ?_⟩
  · rw [hexec, List.foldl_cons, List.foldl_nil, State.serveQuery, spanIndex_acks hacks, hnone]
  · obtain ⟨l, hl⟩ := spanAcks_eq ((s.spanTaken hd).serveQuery hd.session r) hd.session
    rw [List.foldl_cons, List.foldl_nil, hl, State.serveQuery, spanIndex_acks hacks, freeIndex_acks hacks, hx, hn] at hexec
    dsimp only at hexec
    refine ⟨_, _, _, hexec, aGet_aSet_eq .., rfl, (congrArg (fun g => g.spanPartition) hglob :), rfl, congrArg (· ++ [_]) hqueries, rfl, rfl, rfl, rfl, rfl, rfl, rfl, ?_⟩
    exact hacks.withSeqs _ _

/-! Lists of results (R247, R248). -/

theorem heapResult_taken (hc : s.spanComes hd) {r : HeapRec} (hm : s.isSpanManager = true)
    (hfit : spanFits hd (16 + 16 * r.entries.length) 1 = true) :
    (∀ k pl, s.tagged r.tag = some k → s.planOf k = some pl → takesResults s.time.beat hd.session pl = true →
      exec (.heapResult ⟨hd, []⟩ r.tag r.first r.entries r.last) s = .next
        (((s.spanTaken hd).onPlan k (addResults hd.session r.entries r.last)).spanAcks hd.session)) ∧
    ((s.tagged r.tag = none ∨
        ∃ k pl, s.tagged r.tag = some k ∧ s.planOf k = some pl ∧ takesResults s.time.beat hd.session pl = false) →
      exec (.heapResult ⟨hd, []⟩ r.tag r.first r.entries r.last) s = .next
        (((s.spanTaken hd).count (fun c => { c with spanLate := c.spanLate + r.entries.length })).spanAcks hd.session)) := by
  have hexec := exec_heapResult hc r [] hm (by rw [List.map_singleton, sumNat_one]; exact hfit)
  obtain ⟨-, hseqs, -, -, htime, -⟩ := (acksOnly_comes hc).fields
  have htag : (s.spanTaken hd).tagged r.tag = s.tagged r.tag := by
    unfold State.tagged
    rw [hseqs]
  have hplan (k : Nat) : (s.spanTaken hd).planOf k = s.planOf k := by
    unfold State.planOf State.live
    rw [hseqs]
  rw [hexec, List.foldl_cons, List.foldl_nil, State.takeHeap, htag, htime]
  refine ⟨fun k pl hk hpl htakes => ?_, fun h => ?_⟩
  · rw [hk]
    dsimp only
    rw [hplan, hpl]
    exact congrArg (fun t : State => Host.Outcome.next (t.spanAcks hd.session)) (if_pos htakes)
  · rcases h with h | ⟨k, pl, hk, hpl, htakes⟩
    · rw [h]
    · rw [hk]
      dsimp only
      rw [hplan, hpl]
      exact congrArg (fun t : State => Host.Outcome.next (t.spanAcks hd.session)) (if_neg (Bool.eq_false_iff.mp htakes))

/-! Passages asked for (R251). -/

theorem passage_asked (hc : s.spanComes hd) {ref tag : Nat} {g : Region} (hw : s.isWorker = true) (hfit : spanFits hd 16 1 = true)
    (hg : s.region ref = some g) (hin : bits 55 0 ref < g.passages) :
    ∃ t a, exec (.candidateRef hd (.ask ref tag) []) s = .next t ∧ t.span.asks = (s.spanTaken hd).span.asks ++ [a] ∧ a.session = hd.session ∧
      a.ref = ref ∧ a.tag = tag ∧ t = { s with span := t.span, segs := t.segs } := by
  have hexec := exec_candidateRef hc (.ask ref tag) [] (by rw [List.map_singleton, sumNat_one]; exact hfit)
  have hacks := acksOnly_comes hc
  have hw' : (s.spanTaken hd).isWorker = true := by
    unfold State.isWorker
    rw [hacks.fields.1]
    exact hw
  have hg' : (s.spanTaken hd).region ref = some g := by
    unfold State.region
    rw [hacks.fields.1]
    exact hg
  have hserve : ∃ a p G, (s.spanTaken hd).takeCandRef hd.session (.ask ref tag) = { s.spanTaken hd with span := p, segs := G } ∧
      p.asks = (s.spanTaken hd).span.asks ++ [a] ∧ a.session = hd.session ∧ a.ref = ref ∧ a.tag = tag := by
    have hask : (s.spanTaken hd).takeCandRef hd.session (.ask ref tag) = (s.spanTaken hd).servePassage hd.session ref tag := if_pos hw'
    unfold State.servePassage at hask
    rw [hg'] at hask
    dsimp only at hask
    rw [if_neg (Nat.not_le.mpr hin)] at hask
    exact ⟨_, _, _, hask, rfl, rfl, rfl, rfl⟩
  obtain ⟨a, p, G, hserve, hasks, hsession, href, htag⟩ := hserve
  obtain ⟨l, hl⟩ := spanAcks_eq { s.spanTaken hd with span := p, segs := G } hd.session
  rw [List.foldl_cons, List.foldl_nil, hserve, hl] at hexec
  exact ⟨_, a, hexec, hasks, hsession, href, htag, hacks.withSegs _ _⟩

/-! KLF records (R153). -/

theorem windowFor_acks {t : State} (h : acksOnly s t) (destSeg window offset : Nat) : t.windowFor destSeg window offset = s.windowFor destSeg window offset := by
  have hserving : t.serving destSeg = s.serving destSeg := by
    have hstate := (congrArg Segment.state (h.seg destSeg) :)
    have hroles := (congrArg State.roles h.eq :)
    unfold State.serving
    rw [hstate, hroles]
  unfold State.windowFor
  rw [h.fields.1, hserving]

theorem klfData_taken (hc : s.spanComes hd) {r : KlfRecord} (hfit : spanFits hd (klfBytes r) 1 = true) :
    (s.windowFor r.destSeg r.window r.offset = none → ∃ t,
      exec (.klfData ⟨hd, []⟩ r.frame r.scale r.destSeg r.window r.offset) s = .next t ∧ t.segs = (s.spanTaken hd).segs ∧
      t.cnt.windowDrops = s.cnt.windowDrops + 1 ∧ t = { s with span := t.span, cnt := t.cnt, segs := t.segs }) ∧
    (∀ x, s.windowFor r.destSeg r.window r.offset = some x → ∃ t,
      exec (.klfData ⟨hd, []⟩ r.frame r.scale r.destSeg r.window r.offset) s = .next t ∧
      (t.seg r.destSeg).staging = memWriteBytes (s.seg r.destSeg).staging (256 * x.base + r.offset) ((chunkBytes r.scale r.frame).take 512) ∧
      (∀ a, (a < 256 * x.base + r.offset ∨ 256 * x.base + r.offset + 512 ≤ a) →
        memRead (t.seg r.destSeg).staging a = memRead (s.seg r.destSeg).staging a) ∧
      t.seg r.destSeg = { (s.spanTaken hd).seg r.destSeg with staging := (t.seg r.destSeg).staging } ∧
      othersKept r.destSeg (s.spanTaken hd) t ∧
      t = { s with span := t.span, segs := t.segs }) := by
  have hexec := exec_klfData hc r [] (by rw [List.map_singleton, sumNat_one]; exact hfit)
  have hacks := acksOnly_comes hc
  obtain ⟨l, hl⟩ := spanAcks_eq ((s.spanTaken hd).takeRecord r) hd.session
  rw [List.foldl_cons, List.foldl_nil, hl] at hexec
  rw [State.takeRecord, windowFor_acks hacks] at hexec
  refine ⟨fun hnone => ?_, fun x hx => ?_⟩
  · rw [hnone] at hexec
    exact ⟨_, hexec, rfl, congrArg (fun c : Counters => c.windowDrops + 1) hacks.fields.2.2.2.1,
      hacks.withCount _ _⟩
  · rw [hx] at hexec
    have hserving : s.serving r.destSeg = true := by
      have h := List.find?_some hx
      simp only [Bool.and_eq_true] at h
      exact h.2
    have hseg : (s.spanTaken hd).hasSeg r.destSeg = true := by
      unfold State.hasSeg
      rw [hacks.length]
      simp only [State.serving, Bool.and_eq_true, beq_iff_eq] at hserving
      exact hasSeg_of_serving hserving.1
    have hdest := State.seg_onSeg_eq (s.spanTaken hd) (fun g =>
      { g with staging := memWriteBytes g.staging (256 * x.base + r.offset) ((chunkBytes r.scale r.frame).take 512) }) hseg
    have hstaging : ((s.spanTaken hd).seg r.destSeg).staging = (s.seg r.destSeg).staging := (congrArg Segment.staging (hacks.seg r.destSeg) :)
    have hwritten := (congrArg Segment.staging hdest).trans
      (congrArg (fun m => memWriteBytes m (256 * x.base + r.offset) ((chunkBytes r.scale r.frame).take 512)) hstaging)
    refine ⟨_, hexec, hwritten, fun a ha => ?_, ?_, fun j hj => State.seg_onSeg_ne _ _ hj,
      hacks.withSegs _ _⟩
    · refine (congrArg (memRead · a) hwritten).trans (memRead_memWriteBytes_outside _ _ _ _ (ha.imp_right fun h => ?_))
      exact le_trans (Nat.add_le_add_left (List.length_take_le _ _) _) h
    · exact hdest.trans (congrArg (fun m => { (s.spanTaken hd).seg r.destSeg with staging := m }) (congrArg Segment.staging hdest)).symm

end Comes

/-! Streams (R152, R410). -/

theorem getElem?_modifyAt {α : Type} (f : α → α) (k : Nat) (l : List α) (j : Nat) :
    (modifyAt f k l)[j]? = if j = k then l[j]?.map f else l[j]? := by
  induction l generalizing k j with
  | nil => cases k <;> simp [modifyAt]
  | cons a l ih =>
    cases k with
    | zero =>
      cases j with
      | zero => rfl
      | succ j => rfl
    | succ k =>
      cases j with
      | zero => rfl
      | succ j =>
        rw [modifyAt, List.getElem?_cons_succ, ih, List.getElem?_cons_succ]
        simp only [Nat.add_right_cancel_iff]

/-- A session leaves on a stream that is up, while one is (R152). -/
theorem up_streamOf {p : Span} {j : Nat} (hj : j < 4) (hup : p.up j = true) (id : Nat) : p.up (p.streamOf id) = true := by
  have hmem : j ∈ (List.range 4).map (fun k => (id + k) % 4) :=
    List.mem_map.mpr ⟨(j + 4 - id % 4) % 4, List.mem_range.mpr (Nat.mod_lt _ (by decide)), by omega⟩
  obtain ⟨m, hm⟩ := Option.isSome_iff_exists.mp (List.find?_isSome.mpr ⟨j, hmem, hup⟩)
  unfold Span.streamOf
  rw [hm]
  exact List.find?_some hm

theorem setLink_leaves (s : State) (k : Nat) (up : Bool) :
    (k < s.span.linkUp.length → (s.setLink k up).span.linkUp[k]? = some up) ∧
      (∀ j, j ≠ k → (s.setLink k up).span.linkUp[j]? = s.span.linkUp[j]?) ∧
      (∀ x ∈ (s.setLink k up).span.sessions, (∃ j, j < 4 ∧ (s.setLink k up).span.up j = true) → (s.setLink k up).span.up x.stream = true) ∧
      (s.setLink k up).span.sessions.map (·.id) = s.span.sessions.map (·.id) ∧ s.setLink k up = { s with span := (s.setLink k up).span } := by
  have hlinks : (s.setLink k up).span.linkUp = modifyAt (fun _ => up) k s.span.linkUp := rfl
  refine ⟨fun hk => ?_, fun j hj => ?_, fun x hx ⟨j, hj, hup⟩ => ?_, ?_, rfl⟩
  · rw [hlinks, getElem?_modifyAt, if_pos rfl, List.getElem?_eq_getElem hk]
    rfl
  · rw [hlinks, getElem?_modifyAt, if_neg hj]
  · obtain ⟨y, -, rfl⟩ := List.mem_map.mp hx
    exact up_streamOf (p := { s.span with linkUp := modifyAt (fun _ => up) k s.span.linkUp }) hj hup y.id
  · exact List.map_map

/-- Settles O48. -/
theorem spanTraffic : Obligations.SpanTraffic := by
  unfold Obligations.SpanTraffic
  refine ⟨⟨fun s u hd q qs h hs c cs k ks hc hu => ⟨fun hw hfit => ?_, fun hm hfit => ?_, fun hfit => ?_, fun hfit => ?_, fun hfit => ?_⟩,
      fun s hd k ks hup hfit => klfData_old hup k ks hfit⟩,
    ⟨fun s hd r hc hw hfit => query_served hc hw hfit, fun s u hd r hc hu hm hfit => ?_,
      fun s hd ref tag g hc hw hfit hg hin => passage_asked hc hw hfit hg hin, fun s hd r hc hfit => klfData_taken hc hfit⟩,
    fun s w hw => ?_, fun s k up hk => ?_⟩
  · subst hu
    exact exec_query hc q qs hw hfit
  · subst hu
    exact exec_heapResult hc h hs hm hfit
  · subst hu
    exact exec_candidateRef hc c cs hfit
  · subst hu
    exact exec_klfData hc k ks hfit
  · exact klfData_misfit hc.1 k ks hfit
  · subst hu
    exact heapResult_taken hc hm hfit
  · obtain ⟨x, hx, hid⟩ := hw
    have hany : s.span.removing.any (fun x => x.id == w) = true := List.any_eq_true.mpr ⟨x, hx, beq_iff_eq.mpr hid⟩
    exact congrArg Host.Outcome.next (if_pos hany)
  · have hexec : exec (if up then .spanLinkUp k else .spanLinkDown k) s = .next (s.setLink k up) := by
      cases up with
      | true => exact congrArg Host.Outcome.next (if_pos (decide_eq_true hk))
      | false => exact congrArg Host.Outcome.next (if_pos (decide_eq_true hk))
    exact ⟨_, hexec, setLink_leaves s k up⟩

end Sys2Proof.Proofs
end
section
/-! Retrieval plans: probe lists, scan groups, merges and passages (R237 to R251). -/

namespace Sys2Proof.Proofs

open Sys2Proof Sys2Proof.Machine

/-! The plan of a live sequence. -/

section Plans
variable {s : State} {k : Nat} {pl : Plan}

theorem planOf_of_live {q : Sequence} (h : s.live k = some q) : s.planOf k = q.plan := congrArg (·.bind Sequence.plan) h

theorem retrOf_of_live {q : Sequence} (h : s.live k = some q) : s.retrOf k = q.req.retr := congrArg (·.bind (·.req.retr)) h

theorem onPlan_absent (h : s.live k = none) (f : Plan → Plan) : s.onPlan k f = s := by
  rw [State.onPlan, State.onLive, h]

theorem seqsOnly_onPlan (s : State) (k : Nat) (f : Plan → Plan) : ∃ l, s.onPlan k f = { s with seqs := l } := by
  cases hq : s.live k with
  | none => exact ⟨s.seqs, onPlan_absent hq f⟩
  | some q => exact ⟨_, onLive_of_live hq _⟩

theorem planOf_onPlan (s : State) (k : Nat) (f : Plan → Plan) : (s.onPlan k f).planOf k = (s.planOf k).map f := by
  cases hq : s.live k with
  | none => rw [onPlan_absent hq, State.planOf, hq]; rfl
  | some q => rw [planOf_of_live hq]; exact planOf_of_live (s.live_onLive_eq k _ q hq)

theorem planOf_onPlan_some (h : s.planOf k = some pl) (f : Plan → Plan) : (s.onPlan k f).planOf k = some (f pl) := by
  rw [planOf_onPlan, h]
  rfl

theorem planOf_onPlan_ne {j : Nat} (f : Plan → Plan) (h : j ≠ k) : (s.onPlan k f).planOf j = s.planOf j :=
  congrArg (·.bind Sequence.plan) (s.live_onLive_ne _ h)

theorem retrOf_onPlan (f : Plan → Plan) (j : Nat) : (s.onPlan k f).retrOf j = s.retrOf j := by
  by_cases h : j = k
  · subst h
    cases hq : s.live j with
    | none => rw [onPlan_absent hq]
    | some q => exact (retrOf_of_live (s.live_onLive_eq j _ q hq)).trans (retrOf_of_live hq).symm
  · exact congrArg (·.bind (·.req.retr)) (s.live_onLive_ne _ h)

theorem segs_onPlan (s : State) (k : Nat) (f : Plan → Plan) : (s.onPlan k f).segs = s.segs := by
  obtain ⟨l, h⟩ := seqsOnly_onPlan s k f
  rw [h]

theorem seg_onPlan (s : State) (k : Nat) (f : Plan → Plan) (i : Nat) : (s.onPlan k f).seg i = s.seg i := by
  rw [State.seg, segs_onPlan]
  rfl

end Plans

theorem hasSeg_of_inService {s : State} {i : Nat} (h : s.serving i = true) : s.hasSeg i = true :=
  hasSeg_of_serving (eq_of_beq (Bool.and_eq_true_iff.mp h).1)

theorem hasSeg_onSeg {s : State} {i j : Nat} (f : Segment → Segment) (h : s.hasSeg j = true) : (s.onSeg i f).hasSeg j = true := by
  simpa [State.hasSeg, State.onSeg] using h

/-! Probe lists (R240, R241). -/

/-- Every segment of a plan's partition holds its probe lists, once a segment does. -/
noncomputable def probedBy (s : State) (i : Nat) (pl : Plan) : Bool := (s.partSegs pl.part).all (fun j => j == i || pl.probed.contains j)

/-- A plan of which one segment more holds the probe lists. -/
noncomputable def probedPlan (i : Nat) (all : Bool) (pl : Plan) : Plan :=
  { pl with probed := insertNat i pl.probed, stage := if all then .scan else pl.stage }

/-- A segment with a query put in its scan queue. -/
noncomputable def scanQueued (above : Nat → Nat → Bool) (k : Nat) (g : Segment) : Segment :=
  { g with scanQueue := insertBy above k g.scanQueue }

theorem probeArrives_eq (s : State) (i k : Nat) (pl : Plan) : s.probeArrives i k pl =
    (s.onPlan k (probedPlan i (probedBy s i pl))).onSeg i (scanQueued (s.onPlan k (probedPlan i (probedBy s i pl))).queryAbove k) := rfl

theorem exec_probeListReceive {s : State} {i k : Nat} {pl : Plan} (hpl : s.planOf k = some pl) (hstage : pl.stage = .probe)
    (hi : i ∈ s.partSegs pl.part) (hnew : i ∉ pl.probed) (hsv : s.serving i = true) :
    exec (.probeListReceive i k) s = .next (s.probeArrives i k pl) := by
  show execProbeListReceive i k s = _
  simp only [execProbeListReceive, hpl, onlyIf, hstage, List.contains_eq_mem, hi, hnew, hsv]
  rfl

theorem probedPlan_scans {s : State} {i : Nat} {pl : Plan} (hstage : pl.stage = .probe) :
    (probedPlan i (probedBy s i pl) pl).stage = .scan ↔ ∀ j ∈ s.partSegs pl.part, j = i ∨ j ∈ pl.probed := by
  have hall : probedBy s i pl = true ↔ ∀ j ∈ s.partSegs pl.part, j = i ∨ j ∈ pl.probed := by
    simp [probedBy, List.contains_eq_mem]
  rw [← hall]
  show (if probedBy s i pl = true then PlanStage.scan else pl.stage) = .scan ↔ _
  rw [hstage]
  cases probedBy s i pl <;> decide

/-! The start of a scan group (R241, R244). -/

/-- A segment whose first eight queries form a group. -/
noncomputable def groupFormed (g : Segment) : Segment :=
  { g with scanGroup := some { members := g.scanQueue.take 8 }, scanQueue := g.scanQueue.drop 8 }

/-- A segment after a table load of some bytes in a window, some of them beyond the share. -/
noncomputable def tableLoaded (window spent more : Nat) (g : Segment) : Segment :=
  { g with
    scanWin := window
    scanSpent := spent
    scanGroup := g.scanGroup.map (fun x => { x with beyond := x.beyond + more }) }

theorem exec_scanGroupStart {s : State} {i : Nat} (hsv : s.serving i = true) (hg : (s.seg i).scanGroup = none)
    (hq : (s.seg i).scanQueue ≠ []) : exec (.scanGroupStart i) s =
      .next (((s.seg i).scanQueue.take 8).foldl (fun t k => t.loadTable i k) (s.onSeg i groupFormed)) := by
  show execScanGroupStart i s = _
  have hne : (s.seg i).scanQueue.isEmpty = false := by simpa using hq
  simp only [execScanGroupStart, onlyIf, hsv, hg, hne]
  rfl

/-- What differs between two segments where the second has formed a group. -/
def groupOf (g h : Segment) : Prop :=
  (∃ b, h.scanGroup = some { members := g.scanQueue.take 8, beyond := b, inactive := [] }) ∧
    h = { g with scanGroup := h.scanGroup, scanQueue := g.scanQueue.drop 8, scanWin := h.scanWin, scanSpent := h.scanSpent }

theorem groupOf_formed (g : Segment) : groupOf g (groupFormed g) := ⟨⟨0, rfl⟩, rfl⟩

theorem groupOf.loaded {g h : Segment} (hg : groupOf g h) (window spent more : Nat) : groupOf g (tableLoaded window spent more h) := by
  obtain ⟨⟨b, hb⟩, he⟩ := hg
  refine ⟨⟨b + more, ?_⟩, ?_⟩
  · rw [tableLoaded, hb]
    rfl
  · rw [tableLoaded, he]

/-- A group forms on a segment of a state. -/
structure GroupForms (s t : State) (i : Nat) : Prop where
  segs : segsOnly s t
  others : othersKept i s t
  group : groupOf (s.seg i) (t.seg i)
  present : t.hasSeg i = true

/-- A table loaded for a query that has a plan (R242, R244). -/
theorem loadTable_eq {s : State} {k : Nat} {pl : Plan} (i : Nat) (hpl : s.planOf k = some pl) : ∃ more, s.loadTable i k =
    s.onSeg i (tableLoaded (s.scanWindow i) (s.scanUsed i tableLoadBytes) more) := by
  refine ⟨if s.inShare i pl.part tableLoadBytes then 0 else tableLoadBytes, ?_⟩
  rw [State.loadTable, hpl]
  exact s.onSeg_onSeg i _ _

namespace GroupForms
variable {s t : State} {i : Nat}

theorem start (hi : s.hasSeg i = true) : GroupForms s (s.onSeg i groupFormed) i where
  segs := rfl
  others := fun _ hj => s.seg_onSeg_ne _ hj
  group := by rw [s.seg_onSeg_eq _ hi]; exact groupOf_formed _
  present := hasSeg_onSeg _ hi

theorem planOf (h : GroupForms s t i) (k : Nat) : t.planOf k = s.planOf k := by
  rw [h.segs]
  rfl

theorem window (h : GroupForms s t i) : t.scanWindow i = s.scanWindow i := by
  have hnow : t.now = s.now := by rw [h.segs]; rfl
  have hhealth : (t.seg i).health = (s.seg i).health := (congrArg Segment.health h.group.2 :)
  rw [State.scanWindow, hnow, hhealth]
  rfl

theorem loadTable (h : GroupForms s t i) (k : Nat) : GroupForms s (t.loadTable i k) i := by
  cases hpl : t.planOf k with
  | none =>
    rw [State.loadTable, hpl]
    exact h
  | some pl =>
    obtain ⟨more, he⟩ := loadTable_eq i hpl
    rw [he]
    refine ⟨segsOnly.trans h.segs (.onSeg t i _), fun j hj => (t.seg_onSeg_ne _ hj).trans (h.others j hj), ?_, hasSeg_onSeg _ h.present⟩
    rw [t.seg_onSeg_eq _ h.present]
    exact h.group.loaded _ _ _

theorem loads (h : GroupForms s t i) (l : List Nat) : GroupForms s (l.foldl (fun t k => t.loadTable i k) t) i := by
  induction l generalizing t with
  | nil => exact h
  | cons k l ih => exact ih (h.loadTable k)

end GroupForms

/-- The retrieval traffic of a segment in the present window of a state is some bytes more than in another. -/
def spentMore (s t : State) (i n : Nat) : Prop := (t.seg i).scanWin = s.scanWindow i ∧ (t.seg i).scanSpent = s.scanUsed i n

theorem GroupForms.spends {s t : State} {i n k : Nat} (h : GroupForms s t i) (hpl : (t.planOf k).isSome = true)
    (hused : ∀ b, t.scanUsed i b = s.scanUsed i (n + b)) : spentMore s (t.loadTable i k) i (n + tableLoadBytes) := by
  obtain ⟨pl, hpl⟩ := Option.isSome_iff_exists.mp hpl
  obtain ⟨more, he⟩ := loadTable_eq i hpl
  rw [spentMore, he, t.seg_onSeg_eq _ h.present]
  exact ⟨h.window, hused _⟩

theorem GroupForms.scanUsed {s t : State} {i n : Nat} (h : GroupForms s t i) (hs : spentMore s t i n) (b : Nat) :
    t.scanUsed i b = s.scanUsed i (n + b) := by
  rw [State.scanUsed, h.window, hs.1, beq_self_eq_true, if_pos rfl, hs.2]
  exact Nat.add_assoc _ _ _

theorem GroupForms.spent {s t : State} {i n : Nat} (h : GroupForms s t i) (k : Nat) (l : List Nat)
    (hall : ∀ m ∈ k :: l, (s.planOf m).isSome = true) (hused : ∀ b, t.scanUsed i b = s.scanUsed i (n + b)) :
    spentMore s ((k :: l).foldl (fun t k => t.loadTable i k) t) i (n + tableLoadBytes * (l.length + 1)) := by
  have hk := h.spends (by rw [h.planOf]; exact hall k List.mem_cons_self) hused
  induction l generalizing t n k with
  | nil => exact hk
  | cons j l ih =>
    have hnext := h.loadTable k
    have hj := fun m hm => hall m (List.mem_cons_of_mem k hm)
    have := ih hnext j hj (hnext.scanUsed hk) (hnext.spends (by rw [hnext.planOf]; exact hj j List.mem_cons_self) (hnext.scanUsed hk))
    rw [Nat.add_assoc, Nat.add_comm tableLoadBytes, ← Nat.mul_succ] at this
    exact this

theorem spent_groupStart {s : State} {i : Nat} (hi : s.hasSeg i = true) (hq : (s.seg i).scanQueue ≠ [])
    (hall : ∀ k ∈ (s.seg i).scanQueue.take 8, (s.planOf k).isSome = true) :
    spentMore s (((s.seg i).scanQueue.take 8).foldl (fun t k => t.loadTable i k) (s.onSeg i groupFormed)) i
      (tableLoadBytes * min 8 (s.seg i).scanQueue.length) := by
  have hstart := GroupForms.start hi
  rw [← List.length_take]
  cases hl : (s.seg i).scanQueue.take 8 with
  | nil => exact absurd ((List.take_eq_nil_iff.mp hl).resolve_left (by decide)) hq
  | cons k l =>
    rw [hl] at hall
    have := hstart.spent (n := 0) k l hall (fun b => by
      rw [Nat.zero_add, State.scanUsed, State.scanUsed, hstart.window, s.seg_onSeg_eq _ hi]
      rfl)
    rwa [Nat.zero_add] at this

/-! The end of a scan group (R244, R245). -/

/-- A plan but for the lists that its segments have reported. -/
noncomputable def unreported (pl : Plan) : Plan := { pl with segLists := [] }

/-- A plan to which a segment has reported its list. -/
noncomputable def reportedBy (i : Nat) (l : List ScoreRef) (pl : Plan) : Plan := { pl with segLists := aSet i l pl.segLists }

/-- A segment on which the table slot of a query is free. -/
noncomputable def slotFree (k : Nat) (g : Segment) : Segment := { g with lutUsed := g.lutUsed.filter (· != k) }

/-- A segment whose group has ended, some codes having been read and some cycles lost to stalls. -/
noncomputable def groupOver (codes held : Nat) (g : Segment) : Segment :=
  { g with scanGroup := none, cnt := { g.cnt with scanCodes := g.cnt.scanCodes + codes, scanHeld := g.cnt.scanHeld + held } }

/-- What differs between two segments where heaps have gone from the second. -/
def slotsOf (g h : Segment) : Prop := h = { g with lutUsed := h.lutUsed, scanWin := h.scanWin, scanSpent := h.scanSpent }

/-- Heaps have gone from a segment to their plans, in a state that differs in nothing else but the segment's retrieval traffic. -/
structure HeapsGo (s t : State) (i : Nat) : Prop where
  fields : t = { s with segs := t.segs, seqs := t.seqs }
  others : othersKept i s t
  seg : slotsOf (s.seg i) (t.seg i)
  length : t.segs.length = s.segs.length
  plans : ∀ k, (t.planOf k).map unreported = (s.planOf k).map unreported
  retrs : ∀ k, t.retrOf k = s.retrOf k

theorem heapOut_eq (s : State) (i k : Nat) :
    s.heapOut i k = (s.onPlan k (reportedBy i (s.segHeap i k))).onSeg i (slotFree k) := rfl

namespace HeapsGo
variable {s t : State} {i : Nat}

theorem charged (hi : s.hasSeg i = true) (n : Nat) : HeapsGo s (s.scanCharge i n) i where
  fields := rfl
  others := fun _ hj => s.seg_onSeg_ne _ hj
  seg := by rw [slotsOf, State.scanCharge, s.seg_onSeg_eq _ hi]
  length := length_modifyAt _ _ _
  plans := fun _ => rfl
  retrs := fun _ => rfl

theorem hasSeg (h : HeapsGo s t i) {j : Nat} (hj : s.hasSeg j = true) : t.hasSeg j = true := by
  rw [State.hasSeg, h.length]
  exact hj

theorem partSegs (h : HeapsGo s t i) (p : Nat) : t.partSegs p = s.partSegs p := by
  have hroles : t.roles = s.roles := (congrArg State.roles h.fields :)
  have hparts : t.part p = s.part p := (congrArg (State.part · p) h.fields :)
  have hserving : t.serving = s.serving := funext fun j => by
    have hstate : (t.seg j).state = (s.seg j).state := by
      by_cases hj : j = i
      · rw [hj]
        exact (congrArg Segment.state h.seg :)
      · rw [h.others j hj]
    rw [State.serving, State.serving, hroles, hstate]
  rw [State.partSegs, State.partSegs, State.servingSegs, State.servingSegs, hparts, hserving, h.length]

theorem lutHere (h : HeapsGo s t i) (x : Index) (vec : List BF16) : t.lutHere i x vec = s.lutHere i x vec := by
  have hbase : t.indexBase x = s.indexBase x := (congrArg (State.indexBase · x) h.fields :)
  have hmem : (t.seg i).stack = (s.seg i).stack := (congrArg Segment.stack h.seg :)
  rw [State.lutHere, State.lutHere, hbase, hmem, h.partSegs]

/-- A heap is taken from a plan but for its reports, and from the stack of the segment. -/
theorem segHeap (h : HeapsGo s t i) (k : Nat) : t.segHeap i k = s.segHeap i k := by
  have hp := h.plans k
  have hbase : t.indexBase = s.indexBase := (congrArg State.indexBase h.fields :)
  have hindex : t.index = s.index := (congrArg State.index h.fields :)
  have hmem : (t.seg i).stack = (s.seg i).stack := (congrArg Segment.stack h.seg :)
  unfold State.segHeap
  rw [h.retrs k, hmem, hindex, hbase]
  simp only [h.partSegs, h.lutHere]
  cases ht : t.planOf k with
  | none =>
    rw [ht] at hp
    rw [Option.map_eq_none_iff.mp hp.symm]
  | some p =>
    rw [ht] at hp
    obtain ⟨pl, hpl, he⟩ := Option.map_eq_some_iff.mp hp.symm
    have hix : pl.indexId = p.indexId := (congrArg Plan.indexId he :)
    have hli : pl.lists = p.lists := (congrArg Plan.lists he :)
    have hem : pl.embedding = p.embedding := (congrArg Plan.embedding he :)
    rw [hpl]
    cases s.retrOf k with
    | none => rfl
    | some r =>
      dsimp only
      rw [hix, hli, hem]

theorem heapOut (h : HeapsGo s t i) (hi : s.hasSeg i = true) (m : Nat) : HeapsGo s (t.heapOut i m) i := by
  rw [heapOut_eq]
  obtain ⟨l, hl⟩ := seqsOnly_onPlan t m (reportedBy i (t.segHeap i m))
  have hplans : ∀ k, ((t.onPlan m (reportedBy i (t.segHeap i m))).planOf k).map unreported = (t.planOf k).map unreported := fun k => by
    by_cases hk : k = m
    · rw [hk, planOf_onPlan]
      cases t.planOf m <;> rfl
    · rw [planOf_onPlan_ne _ hk]
  have hretrs := retrOf_onPlan (s := t) (k := m) (reportedBy i (t.segHeap i m))
  have hseg := seg_onPlan t m (reportedBy i (t.segHeap i m))
  have hsegs := segs_onPlan t m (reportedBy i (t.segHeap i m))
  generalize t.onPlan m (reportedBy i (t.segHeap i m)) = u at *
  have hu : u.hasSeg i = true := by rw [State.hasSeg, hsegs]; exact h.hasSeg hi
  refine ⟨?_, fun j hj => ?_, ?_, ?_, fun k => (hplans k).trans (h.plans k), fun k => (hretrs k).trans (h.retrs k)⟩
  · have := h.fields
    generalize ht : t.segs = S at this
    rw [hl, this]
    rfl
  · rw [u.seg_onSeg_ne _ hj, hseg]
    exact h.others j hj
  · rw [u.seg_onSeg_eq _ hu, hseg, slotsOf, slotFree, h.seg]
  · exact (length_modifyAt _ _ _).trans ((congrArg _ hsegs).trans h.length)

end HeapsGo

/-- A query's plan, where it has one, holds the heap that a segment has for it in a state. -/
def reportedAs (s : State) (i k : Nat) (t : State) : Prop := ∀ pl, t.planOf k = some pl → aGet i pl.segLists = some (s.segHeap i k)

/-- The heap that goes is with its plan, and those that went before stay. -/
theorem reportedAs_heapOut {s t : State} {i : Nat} (h : HeapsGo s t i) (m k : Nat) (hk : k = m ∨ reportedAs s i k t) :
    reportedAs s i k (t.heapOut i m) := by
  intro pl hpl
  have hpl : (t.onPlan m (reportedBy i (t.segHeap i m))).planOf k = some pl := hpl
  by_cases hkm : k = m
  · rw [← hkm, planOf_onPlan] at hpl
    obtain ⟨p, -, rfl⟩ := Option.map_eq_some_iff.mp hpl
    exact (aGet_aSet_eq _ _ _).trans (congrArg some (h.segHeap k))
  · rw [planOf_onPlan_ne _ hkm] at hpl
    exact (hk.resolve_left hkm) pl hpl

theorem heapsGo_all {s t : State} {i : Nat} (hi : s.hasSeg i = true) (h : HeapsGo s t i) (l : List Nat) :
    HeapsGo s (l.foldl (fun t k => t.heapOut i k) t) i ∧
      ∀ k, (k ∈ l ∨ reportedAs s i k t) → reportedAs s i k (l.foldl (fun t k => t.heapOut i k) t) := by
  induction l generalizing t with
  | nil => exact ⟨h, fun k hk => hk.resolve_left List.not_mem_nil⟩
  | cons m l ih =>
    obtain ⟨hgo, hrep⟩ := ih (h.heapOut hi m)
    refine ⟨hgo, fun k hk => hrep k ?_⟩
    rw [List.mem_cons] at hk
    rcases hk with (hk | hk) | hk
    · exact .inr (reportedAs_heapOut h m k (.inl hk))
    · exact .inl hk
    · exact .inr (reportedAs_heapOut h m k (.inr hk))

theorem exec_scanGroupEnd {s : State} {i window held idle : Nat} {g : ScanGroup} (hsv : s.serving i = true)
    (hg : (s.seg i).scanGroup = some g) : ∃ n codes, exec (.scanGroupEnd i ⟨window, held, idle⟩) s = .next
      (((((g.members.filter (fun k => !g.inactive.contains k)).foldl (fun t k => t.heapOut i k) (s.scanCharge i n)).onSeg i
        (groupOver codes held))).count (fun c => { c with scanGroups := c.scanGroups + 1 })) := by
  show ∃ n codes, execScanGroupEnd i ⟨window, held, idle⟩ s = _
  simp only [execScanGroupEnd, hg, onlyIf, hsv, State.segCount, State.onSeg_onSeg]
  exact ⟨_, _, rfl⟩

/-- A group that ends on a segment whose heaps have gone. -/
theorem HeapsGo.over {s u : State} {i : Nat} (h : HeapsGo s u i) (hi : s.hasSeg i = true) (codes held : Nat) {t : State}
    (ht : t = (u.onSeg i (groupOver codes held)).count (fun c => { c with scanGroups := c.scanGroups + 1 })) :
    (t.seg i).scanGroup = none ∧ (t.seg i).cnt.scanHeld = (s.seg i).cnt.scanHeld + held ∧
      t.cnt = { s.cnt with scanGroups := s.cnt.scanGroups + 1 } ∧ t.planOf = u.planOf ∧
      t.seg i = { s.seg i with scanGroup := none, cnt := (t.seg i).cnt, lutUsed := (t.seg i).lutUsed, scanWin := (t.seg i).scanWin,
                               scanSpent := (t.seg i).scanSpent } ∧ othersKept i s t ∧
      t = { s with segs := t.segs, seqs := t.seqs, cnt := t.cnt } := by
  have hseg : t.seg i = groupOver codes held (u.seg i) := by
    rw [ht]
    exact u.seg_onSeg_eq _ (h.hasSeg hi)
  have hcnt : (u.seg i).cnt = (s.seg i).cnt := (congrArg Segment.cnt h.seg :)
  have hcounts : u.cnt = s.cnt := (congrArg State.cnt h.fields :)
  refine ⟨congrArg Segment.scanGroup hseg, ?_, ?_, by rw [ht]; rfl, ?_, fun j hj => ?_, ?_⟩
  · rw [hseg, ← hcnt]
    rfl
  · rw [ht, ← hcounts]
    rfl
  · rw [hseg, groupOver, h.seg]
  · rw [ht]
    exact (u.seg_onSeg_ne _ hj).trans (h.others j hj)
  · have := h.fields
    generalize hS : u.segs = S at this
    generalize hQ : u.seqs = Q at this
    rw [ht, this]
    rfl

/-! The candidate list (R245, R248). -/

/-- A plan whose segments' lists are merged, while its workers' are awaited. -/
noncomputable def heapsMerged (k : Nat) (pl : Plan) : Plan :=
  { pl with cands := mergedCands k pl.lutScale pl.segLists, segLists := [], stage := .spanWait }

/-- A plan whose candidate list is fixed, to what it comes to of the plan. -/
noncomputable def listFixed (f : Plan → List Cand) (pl : Plan) : Plan := { pl with cands := f pl, spanList := [] }

/-- A plan for results alone that is over at a stamp. -/
noncomputable def planOver (e : Stamp) (pl : Plan) : Plan :=
  { pl with stage := .done, endedAt := some e, cands := pl.cands.map (fun c => { c with tokens := [] }) }

theorem exec_scanHeapMerge {s : State} {k : Nat} {pl : Plan} {r : Retr} (hup : s.mgrUp = true) (hpl : s.planOf k = some pl)
    (hr : s.retrOf k = some r) (hstage : pl.stage = .scan) (hall : ∀ i ∈ s.partSegs pl.part, (aGet i pl.segLists).isSome = true)
    (hasked : pl.asked ≠ []) : exec (.scanHeapMerge k) s = .next (s.onPlan k (heapsMerged r.scanK)) := by
  have hin : s.heapsIn pl = true := List.all_eq_true.mpr hall
  have hne : pl.asked.isEmpty = false := by simpa using hasked
  show execScanHeapMerge k s = _
  simp only [execScanHeapMerge, hpl, hr, onlyIf, hup, hstage, hin, hne]
  rfl

theorem exec_spanMerge {s : State} {k : Nat} {pl : Plan} {r : Retr} (hup : s.mgrUp = true) (hpl : s.planOf k = some pl)
    (hr : s.retrOf k = some r) (hstage : pl.stage = .spanWait) (hdue : pl.deadline ≤ s.time.beat) :
    exec (.spanMerge k) s = .next ((s.onPlan k (listFixed (s.spanMerged r.scanK))).afterMerge k) := by
  show execSpanMerge k s = _
  simp only [execSpanMerge, hpl, hr, onlyIf, hup, hstage, decide_eq_true hdue, Bool.or_true]
  rfl

/-- Results alone wait for their verdict. -/
theorem releaseResults_unreleased {s : State} {k : Nat} {q : Sequence} (hq : s.live k = some q) (h : q.released = false) (e : Stamp) :
    s.releaseResults k e = s := by
  unfold State.releaseResults
  rw [hq]
  dsimp only
  cases q.plan with
  | none => rfl
  | some pl =>
    cases q.req.retr with
    | none => rfl
    | some r =>
      have hwaits : (!(r.resultOnly && q.released && pl.endedAt.isSome && q.ended.isNone)) = true := by
        rw [h, Bool.and_false]
        rfl
      exact if_pos hwaits

theorem segsOnly_freePassages (s : State) (pl : Plan) : segsOnly s (s.freePassages pl) := segsOnly.foldl (fun t i => .onSeg t i _) _ _

/-- A plan for results alone ends before its verdict is released (R256). -/
theorem endPlan_unreleased {s : State} {k : Nat} {q : Sequence} {pl : Plan} (hq : s.live k = some q) (hpl : q.plan = some pl)
    (h : q.released = false) : ∃ u, s.endPlan k = u.onPlan k (planOver (s.stampFor 0)) ∧ segsOnly (s.given (s.stampFor 0)) u := by
  have hsegs := segsOnly_freePassages (s.given (s.stampFor 0)) pl
  refine ⟨_, ?_, hsegs⟩
  have hq' : ((s.given (s.stampFor 0)).freePassages pl).live k = some q := by
    rw [hsegs]
    exact hq
  rw [State.endPlan, (planOf_of_live hq).trans hpl]
  exact releaseResults_unreleased (State.live_onLive_eq _ k _ q hq') (by exact h) _

theorem afterMerge_ends {s : State} {k : Nat} {q : Sequence} {pl : Plan} {r : Retr} (hq : s.live k = some q) (hpl : q.plan = some pl)
    (hr : q.req.retr = some r) (hspan : q.req.spanQuery = none) (hres : r.resultOnly = true) (hrank : r.rerankN = 0) :
    s.afterMerge k = s.endPlan k := by
  unfold State.afterMerge
  rw [hq]
  simp only [hpl, hr, hspan, hres, hrank]
  rfl

/-- The span merge of a plan for results alone that re-ranks none: its list is fixed and it is done (R248). -/
theorem spanMerge_ends (s : State) (k : Nat) (pl : Plan) (r : Retr) (q : Sequence) (hup : s.mgrUp = true) (hq : s.live k = some q)
    (hpl : q.plan = some pl) (hr : q.req.retr = some r) (hstage : pl.stage = .spanWait) (hdue : pl.deadline ≤ s.time.beat)
    (hspan : q.req.spanQuery = none) (hres : r.resultOnly = true) (hrank : r.rerankN = 0) (hrel : q.released = false) :
    ∃ t pl', exec (.spanMerge k) s = .next t ∧ t.planOf k = some pl' ∧ pl'.stage = .done ∧ pl'.spanList = [] ∧
      pl'.cands.map (·.ref) = (s.spanMerged r.scanK pl).map (·.ref) ∧ pl'.cands.map (·.score) = (s.spanMerged r.scanK pl).map (·.score) ∧
      (∀ m, m ≠ k → t.live m = s.live m) ∧ t = { s with seqs := t.seqs, segs := t.segs, time := t.time } := by
  have hplan := (planOf_of_live hq).trans hpl
  have hexec := exec_spanMerge hup hplan ((retrOf_of_live hq).trans hr) hstage hdue
  obtain ⟨l, hl⟩ := seqsOnly_onPlan s k (listFixed (s.spanMerged r.scanK))
  have hplan1 := planOf_onPlan_some hplan (listFixed (s.spanMerged r.scanK))
  have hlive1 : ∀ m, m ≠ k → (s.onPlan k (listFixed (s.spanMerged r.scanK))).live m = s.live m := fun m hm => s.live_onLive_ne _ hm
  have hq1 : (s.onPlan k (listFixed (s.spanMerged r.scanK))).live k =
      some { q with plan := q.plan.map (listFixed (s.spanMerged r.scanK)) } := s.live_onLive_eq k _ q hq
  have hpl1 := congrArg (Option.map (listFixed (s.spanMerged r.scanK))) hpl
  rw [afterMerge_ends hq1 hpl1 hr hspan hres hrank] at hexec
  obtain ⟨u, hu, hsegs⟩ := endPlan_unreleased hq1 hpl1 hrel
  generalize s.onPlan k (listFixed (s.spanMerged r.scanK)) = v at *
  have hplanu : u.planOf k = v.planOf k := by rw [hsegs]; rfl
  have hp := planOf_onPlan_some (hplanu.trans hplan1) (planOver (v.stampFor 0))
  refine ⟨_, _, hexec.trans (congrArg _ hu), hp, rfl, rfl, List.map_map, List.map_map, fun m hm => ?_, ?_⟩
  · refine (u.live_onLive_ne _ hm).trans (.trans ?_ (hlive1 m hm))
    rw [hsegs]
    rfl
  · obtain ⟨l', hl'⟩ := seqsOnly_onPlan u k (planOver (v.stampFor 0))
    rw [hl']
    generalize u.segs = S at hsegs
    rw [hsegs, hl]
    rfl

/-! Passages of candidates (R251). -/

/-- A segment whose passage store holds some bytes more. -/
noncomputable def passageHeld (bytes : Nat) (g : Segment) : Segment := { g with passageUsed := g.passageUsed + bytes }

section Candidate
variable {s : State} {k place j : Nat} {pl : Plan} {r : Retr} {q : Sequence} {c d : Cand}

theorem exec_passageFetchComplete (hup : s.mgrUp = true) (hq : s.live k = some q) (hpl : q.plan = some pl) (hr : q.req.retr = some r)
    (hstage : pl.stage = .fetch) (hc : pl.cands[place]? = some c) (hwait : c.state = .waiting) (hplace : place < fetchCount r)
    (hreads : s.passagePending pl.tag place = false) (result : FetchResult) :
    exec (.passageFetchComplete (.cand k) place result) s = .next ((s.fetched k place pl q c result).fetchDone k) := by
  have hlen := (List.getElem?_eq_some_iff.mp hc).1
  have hget : pl.cands.getD place {} = c := by rw [List.getD_eq_getElem?_getD, hc]; rfl
  show Host.Outcome.next (s.candFetched k place result) = _
  unfold State.candFetched
  rw [hq]
  simp only [hpl, hr, hget, hstage, hwait, hreads, hup, decide_eq_true hlen, decide_eq_true hplace]
  rfl

/-- While another candidate is still fetched, the plan's fetch goes on. -/
theorem fetchDone_waits (hp : s.planOf k = some pl) (hr : s.retrOf k = some r) (hj : j < fetchCount r) (hd : pl.cands[j]? = some d)
    (hwait : d.state = .waiting) : s.fetchDone k = s := by
  have hany : (pl.cands.take (fetchCount r)).any (fun c => c.state == .waiting || c.state == .asked) = true :=
    List.any_eq_true.mpr ⟨d, List.mem_of_getElem? ((List.getElem?_take_of_lt hj).trans hd), by rw [hwait]; rfl⟩
  unfold State.fetchDone
  rw [hp, hr]
  exact if_pos (by rw [hany, Bool.or_true])

/-- A candidate changed while another waits: the fetch goes on. -/
theorem onCand_fetching (hpl : s.planOf k = some pl) (hc : pl.cands[place]? = some c) (hne : j ≠ place) (hd : pl.cands[j]? = some d)
    (f : Cand → Cand) : ∃ p, (s.onCand k place f).planOf k = some p ∧ p.cands[place]? = some (f c) ∧ p.cands[j]? = some d ∧
      p.stage = pl.stage := by
  refine ⟨_, planOf_onPlan_some hpl _, ?_, ?_, rfl⟩
  · exact (getElem?_modifyAt f place pl.cands place).trans ((if_pos rfl).trans (congrArg (Option.map f) hc))
  · exact (getElem?_modifyAt f place pl.cands j).trans ((if_neg hne).trans hd)

theorem fetched_stands {g : Region} {e header : Nat} {tokens : List Nat} (hg : s.region c.ref = some g) (he : c.entry = some e)
    (hstands : s.recordStands g c.ref e header tokens = true) (hvocab : ∀ w ∈ tokens, w < s.passageVocab q pl)
    (hfits : s.storeFits (s.placeSeg pl.part place) (4 * tokens.length) = true) :
    s.fetched k place pl q c (.opened header tokens) = (s.onSeg (s.placeSeg pl.part place) (passageHeld (4 * tokens.length))).onCand k place
      (fun c => { c with state := .stored, tokens := tokens }) := by
  have hany : ¬tokens.any (fun t => s.passageVocab q pl ≤ t) = true := by simpa using hvocab
  unfold State.fetched
  simp only [hg, he, hstands]
  exact (if_neg hany).trans (if_pos hfits)

theorem fetched_drops {result : FetchResult} {header : Nat} {tokens : List Nat} (h : result = .dmaError ∨ result = .tagFail ∨
    (result = .opened header tokens ∧ ∀ g e, s.region c.ref = some g → c.entry = some e → s.recordStands g c.ref e header tokens = false)) :
    s.fetched k place pl q c result = s.dropCand k place := by
  rcases h with rfl | rfl | ⟨rfl, hno⟩
  · rfl
  · rfl
  · unfold State.fetched
    cases hg : s.region c.ref with
    | none => rfl
    | some g =>
      cases he : c.entry with
      | none => rfl
      | some e => exact if_neg (by rw [hno g e hg he]; exact Bool.false_ne_true)

end Candidate

/-- A passage of a candidate, while another is still fetched: it is stored, or the candidate dropped (R251). -/
theorem passageFetchComplete_cand (s : State) (k place j : Nat) (pl : Plan) (r : Retr) (q : Sequence) (c d : Cand) (tokens : List Nat)
    (header : Nat) (hup : s.mgrUp = true) (hq : s.live k = some q) (hpl : q.plan = some pl) (hr : q.req.retr = some r)
    (hstage : pl.stage = .fetch) (hc : pl.cands[place]? = some c) (hwait : c.state = .waiting) (hplace : place < fetchCount r)
    (hreads : s.passagePending pl.tag place = false) (hne : j ≠ place) (hj : j < fetchCount r) (hd : pl.cands[j]? = some d)
    (hdwait : d.state = .waiting) :
    (∀ g e, s.region c.ref = some g → c.entry = some e → s.recordStands g c.ref e header tokens = true →
      (∀ w ∈ tokens, w < s.passageVocab q pl) → s.storeFits (s.placeSeg pl.part place) (4 * tokens.length) = true →
      s.hasSeg (s.placeSeg pl.part place) = true →
      ∃ t pl', exec (.passageFetchComplete (.cand k) place (.opened header tokens)) s = .next t ∧ t.planOf k = some pl' ∧
        pl'.cands[place]? = some { c with state := .stored, tokens := tokens } ∧ pl'.stage = .fetch ∧
        (t.seg (s.placeSeg pl.part place)).passageUsed = (s.seg (s.placeSeg pl.part place)).passageUsed + 4 * tokens.length ∧
        t = { s with seqs := t.seqs, segs := t.segs }) ∧
    (∀ result : FetchResult, (result = .dmaError ∨ result = .tagFail ∨ (result = .opened header tokens ∧
        ∀ g e, s.region c.ref = some g → c.entry = some e → s.recordStands g c.ref e header tokens = false)) →
      ∃ t pl', exec (.passageFetchComplete (.cand k) place result) s = .next t ∧ t.planOf k = some pl' ∧
        pl'.cands[place]? = some { c with state := .dropped } ∧ t.cnt = { s.cnt with fetchFails := s.cnt.fetchFails + 1 } ∧
        t = { s with seqs := t.seqs, cnt := t.cnt }) := by
  have hplan := (planOf_of_live hq).trans hpl
  have hretr := (retrOf_of_live hq).trans hr
  have hexec := exec_passageFetchComplete hup hq hpl hr hstage hc hwait hplace hreads
  refine ⟨fun g e hg he hstands hvocab hfits hi => ?_, fun result hresult => ?_⟩
  · have hexec := hexec (.opened header tokens)
    rw [fetched_stands hg he hstands hvocab hfits] at hexec
    have hused := s.seg_onSeg_eq (passageHeld (4 * tokens.length)) hi
    have hu : segsOnly s (s.onSeg (s.placeSeg pl.part place) (passageHeld (4 * tokens.length))) := rfl
    have hretr' := retrOf_onPlan (s := s.onSeg (s.placeSeg pl.part place) (passageHeld (4 * tokens.length))) (k := k)
      (fun pl => { pl with cands := modifyAt (fun c => { c with state := .stored, tokens := tokens }) place pl.cands }) k
    have hplan' : (s.onSeg (s.placeSeg pl.part place) (passageHeld (4 * tokens.length))).planOf k = some pl := hplan
    generalize s.onSeg (s.placeSeg pl.part place) (passageHeld (4 * tokens.length)) = u at *
    obtain ⟨p, hp, hcand, hother, hst⟩ := onCand_fetching hplan' hc hne hd (fun c => { c with state := .stored, tokens := tokens })
    have hru : u.retrOf k = some r := by rw [hu]; exact hretr
    refine ⟨_, p, hexec.trans (congrArg _ (fetchDone_waits hp (hretr'.trans hru) hj hother hdwait)), hp, hcand, hst.trans hstage, ?_, ?_⟩
    · rw [State.onCand, seg_onPlan, hused]
      rfl
    · obtain ⟨l, hl⟩ := seqsOnly_onPlan u k (fun pl => { pl with
        cands := modifyAt (fun c => { c with state := .stored, tokens := tokens }) place pl.cands })
      rw [State.onCand, hl]
      exact congrArg (fun v : State => { v with seqs := l }) hu
  · have hexec := hexec result
    rw [fetched_drops hresult] at hexec
    obtain ⟨p, hp, hcand, hother, -⟩ := onCand_fetching hplan hc hne hd (fun c => { c with state := .dropped })
    obtain ⟨l, hl⟩ := seqsOnly_onPlan s k (fun pl => { pl with cands := modifyAt (fun c => { c with state := .dropped }) place pl.cands })
    refine ⟨_, p, hexec.trans (congrArg _ (fetchDone_waits hp ((retrOf_onPlan _ k).trans hretr) hj hother hdwait)), hp, hcand, ?_, ?_⟩
    · rw [State.dropCand, State.onCand, hl]
      rfl
    · rw [State.dropCand, State.onCand, hl]
      rfl

/-! Passages that a worker was asked for (R251). -/

/-- A post on a session changes the span alone, and leaves what workers were asked for. -/
theorem spanPost_leaves (s : State) (i type length records : Nat) (payload : List Nat → List Nat) :
    ∃ p, s.spanPost i type length records payload = { s with span := p } ∧ p.asks = s.span.asks := by
  cases h : s.spanSession i with
  | none =>
    rw [State.spanPost, h]
    exact ⟨_, rfl, rfl⟩
  | some x =>
    rw [spanPost_eq _ _ _ _ h]
    exact ⟨_, rfl, rfl⟩

theorem spanSendAll_leaves (s : State) (i type : Nat) (records : List (List Nat)) :
    ∃ p, s.spanSendAll i type records = { s with span := p } ∧ p.asks = s.span.asks := by
  unfold State.spanSendAll
  generalize packDatagrams (spanRoom s.glob.spanMtu) records 0 [] = l
  induction l generalizing s with
  | nil => exact ⟨_, rfl, rfl⟩
  | cons d l ih =>
    obtain ⟨p, hp, hkept⟩ := spanPost_leaves s i type d.2.length d.1 (fun _ => d.2)
    obtain ⟨p', heq, hasks⟩ := ih { s with span := p }
    rw [List.foldl_cons, State.spanSend, hp]
    exact ⟨p', heq, hasks.trans hkept⟩

theorem askFetched_opened {s : State} {id : Nat} {a : SpanAsk} (ha : s.span.asks.find? (fun x => x.id == id && x.sent.isNone) = some a)
    (hdir : s.dmaPending (.askDirectory id) = false) (hpass : s.dmaPending (.askPassage id) = false) {g : Region} {e header : Nat}
    {tokens : List Nat} (hg : s.region a.ref = some g) (he : a.entry = some e) (hstands : s.recordStands g a.ref e header tokens = true)
    (hvocab : ∀ v, s.workerVocab = some v → ∀ w ∈ tokens, w < v) (hfits : s.storeFits a.seg (4 * tokens.length) = true) :
    exec (.passageFetchComplete (.ask id) 0 (.opened header tokens)) s = .next (s.answerPassage a tokens) := by
  show Host.Outcome.next (s.askFetched id _) = _
  unfold State.askFetched
  rw [ha]
  simp only [hdir, hpass, hg, he, hstands, hfits]
  cases hv : s.workerVocab with
  | none =>
    have hany : tokens.any (fun _ => false) = false := List.any_eq_false.mpr fun _ _ => Bool.false_ne_true
    simp only [hany]
    rfl
  | some v =>
    have hany : tokens.any (fun t => decide (v ≤ t)) = false := List.any_eq_false.mpr fun w hw => by simpa using hvocab v hv w hw
    simp only [hany]
    rfl

theorem askFetched_refused {s : State} {id : Nat} {a : SpanAsk} (ha : s.span.asks.find? (fun x => x.id == id && x.sent.isNone) = some a)
    (hdir : s.dmaPending (.askDirectory id) = false) (hpass : s.dmaPending (.askPassage id) = false) {result : FetchResult}
    (h : result = .dmaError ∨ result = .tagFail ∨ ∃ header tokens, result = .opened header tokens ∧
        ∀ g e, s.region a.ref = some g → a.entry = some e → s.recordStands g a.ref e header tokens = false) :
    exec (.passageFetchComplete (.ask id) 0 result) s = .next ((s.askDone a).refusePassage a.session a.ref a.tag) := by
  show Host.Outcome.next (s.askFetched id result) = _
  unfold State.askFetched
  rw [ha]
  simp only [hdir, hpass]
  cases hg : s.region a.ref with
  | none => rfl
  | some g =>
    cases he : a.entry with
    | none => rfl
    | some e =>
      rcases h with rfl | rfl | ⟨header, tokens, rfl, hno⟩
      · rfl
      · rfl
      · simp only [hno g e hg he]
        rfl

/-- Settles O28, stage by stage: what each command does to the plan that it names, and that nothing else changes. -/
theorem retrievalStages : Obligations.RetrievalStages := by
  refine ⟨?_, ?_, ?_, ?_, spanMerge_ends, passageFetchComplete_cand, ?_⟩
  · intro s i k pl hpl hstage hi hnew hsv
    have hseg := (s.onPlan k (probedPlan i (probedBy s i pl))).seg_onSeg_eq
      (scanQueued (s.onPlan k (probedPlan i (probedBy s i pl))).queryAbove k) (by rw [State.hasSeg, segs_onPlan]; exact hasSeg_of_inService hsv)
    rw [← probeArrives_eq, seg_onPlan] at hseg
    refine ⟨_, _, exec_probeListReceive hpl hstage hi hnew hsv, planOf_onPlan_some hpl _, mem_insertNat.mpr (.inl rfl),
      probedPlan_scans hstage, ?_, ?_, fun j hj => ?_, ?_⟩
    · rw [hseg]
      exact mem_insertBy.mpr (.inl rfl)
    · rw [hseg]
      rfl
    · rw [probeArrives_eq, State.seg_onSeg_ne _ _ hj, seg_onPlan]
    · obtain ⟨l, h⟩ := seqsOnly_onPlan s k (probedPlan i (probedBy s i pl))
      rw [probeArrives_eq, h]
      rfl
  · intro s i hsv hg hq
    have h := (GroupForms.start (hasSeg_of_inService hsv)).loads ((s.seg i).scanQueue.take 8)
    obtain ⟨⟨b, hb⟩, hseg⟩ := h.group
    have hqueue := congrArg Segment.scanQueue hseg
    exact ⟨_, b, exec_scanGroupStart hsv hg hq, hb, hqueue, spent_groupStart (hasSeg_of_inService hsv) hq, hqueue ▸ hseg, h.others, h.segs⟩
  · intro s i window held idle g hsv hg
    obtain ⟨n, codes, he⟩ := exec_scanGroupEnd (window := window) (held := held) (idle := idle) hsv hg
    have hi := hasSeg_of_inService hsv
    obtain ⟨hgo, hrep⟩ := heapsGo_all hi (.charged hi n) (g.members.filter (fun k => !g.inactive.contains k))
    obtain ⟨t, ht⟩ : ∃ t, t = _ := ⟨_, rfl⟩
    obtain ⟨hgroup, hheld, hcnt, hplans, hseg, hothers, heq⟩ := hgo.over hi codes held ht
    refine ⟨t, he.trans (congrArg _ ht.symm), hgroup, hheld, hcnt, fun k hk hact pl hpl => ?_, hseg, hothers, heq⟩
    have hp := hgo.plans k
    rw [hpl] at hp
    obtain ⟨p, hp, -⟩ := Option.map_eq_some_iff.mp hp
    rw [hplans]
    exact ⟨p, hp, hrep k (.inl (by simp [hk, hact])) p hp⟩
  · intro s k pl r hup hpl hr hstage hall hasked
    obtain ⟨l, hl⟩ := seqsOnly_onPlan s k (heapsMerged r.scanK)
    exact ⟨_, exec_scanHeapMerge hup hpl hr hstage hall hasked, planOf_onPlan_some hpl _, fun m hm => s.live_onLive_ne _ hm, by rw [hl]⟩
  · intro s id a ha hdir hpass
    refine ⟨fun g e header tokens hg he hstands hvocab hfits hi => ?_, fun result hresult => askFetched_refused ha hdir hpass hresult⟩
    obtain ⟨p, heq, hasks⟩ := spanSendAll_leaves (s.onSeg a.seg (passageHeld (4 * tokens.length))) a.session 0x06
      (pieceRecords a.ref a.tag (pieceTokens s.glob.spanMtu) (tokens.length + 1) 0 tokens)
    have hsent := (congrArg (fun t : State => t.span.asks) heq).trans hasks
    refine ⟨_, _, askFetched_opened ha hdir hpass hg he hstands hvocab hfits, ?_, congrArg (List.map _) hsent, rfl⟩
    have hseg : (s.answerPassage a tokens).segs = (s.onSeg a.seg (passageHeld (4 * tokens.length))).segs := (congrArg State.segs heq :)
    have hused := s.seg_onSeg_eq (passageHeld (4 * tokens.length)) hi
    rw [State.seg, hseg]
    exact congrArg Segment.passageUsed hused

end Sys2Proof.Proofs
end
